-- ==== Sys2Proof/Word.lean ====
section
/-! DEFINITION. The widths of the Z4's words and the sparse map in which registers, units and memory are held. -/

namespace Sys2Proof

/-- A byte, the smallest addressable unit (R6). -/
abbrev Byte := BitVec 8

/-- A 64-bit word: an x register, an address, the PC, a special register (R70, R132). -/
abbrev Word := BitVec 64

/-- A vector register: 16 lanes of 32 bits (R70, R141). -/
abbrev VWord := BitVec 512

/-- A scale register: 128 bytes, byte i in bits [8i+7:8i] (R70, R221). -/
abbrev SWord := BitVec 1024

/-- A map from numbers to values: pairs with strictly rising keys, none equal to the default of the map. -/
abbrev SMap (α : Type) := List (Nat × α)

/-- Bytes by address. An unlisted address reads as zero. -/
abbrev Memory := SMap Byte

end Sys2Proof
end

