-- ==== Sys2Proof/Syntax.lean ====
section
/-! DEFINITION. The syntax: operand fields, the records that travel between packages, and `Instr`, one constructor
for each row of the opcode table: 194 instructions of the instruction word and 113 events of the device. -/

namespace Sys2Proof

/-- The type codes of R74. Code 15 is reserved and has no constructor. -/
inductive Ty where
  | i64 | i32 | i16 | i8 | n64 | n32 | n16 | n8 | f32 | f16 | bf16 | e4m3 | e5m2 | e2m1 | e8m0
  deriving DecidableEq, Repr

/-- The registers that an operand field names (R70). -/
inductive Reg where
  | x (n : BitVec 7)
  | v (n : BitVec 6)
  | p (n : BitVec 3)
  | k (n : BitVec 3)
  | s (n : BitVec 3)
  deriving DecidableEq, Repr

/-- The guard field G (R76): a p or k register, possibly inverted. -/
structure Guard where
  idx : BitVec 3
  isK : Bool
  neg : Bool
  deriving DecidableEq, Repr

/-- The hint bits (R78). KA and KB never change a result, a fault or an ordering. -/
structure Hints where
  sw : Bool
  ka : Bool
  kb : Bool
  deriving DecidableEq, Repr

/-- The fields of an instruction word beside MAJ and FN (R65): guard, hints, type, operands and the extension field,
whose subfields are read by the accessors below. -/
structure Ops where
  g  : Guard
  h  : Hints
  ty : Ty
  d  : Reg
  a  : Reg
  b  : Reg
  x  : BitVec 40
  deriving DecidableEq, Repr

/-- The fault codes of R316. -/
inductive FaultCode where
  | illegal | regrange | hazard | align | pcalign | pool | page | prot | stack | trap | brk | budget | level
  | late | latesend | clock | microstep
  | chainBusy | chainTimeout | chainBroken | chainDup | chainAbsent
  | barOverrun | barTimeout | barQueued
  | link | remote | ecc
  deriving DecidableEq, Repr

/-- The functions of the ATM class (R180). -/
inductive AtmFn where
  | add | and | or | xor | min | max | xchg | cas | fadd
  deriving DecidableEq, Repr

/-- What a remote operation does at the destination's link agent (R243, R431). -/
inductive RemOp where
  | read (len : Nat)
  | write (bytes : List Byte)
  /-- runs of bytes at offsets from the address, written in one indivisible step (R166, R230) -/
  | scatter (runs : List (Nat × List Byte))
  | atomic (fn : AtmFn) (ty : Ty) (b c : Word) (rnd : Nat)
  deriving DecidableEq, Repr

/-- What the link agent returns (R431). -/
inductive RemRes where
  | data (bytes : List Byte)
  | done
  | refused (code : FaultCode)
  deriving DecidableEq, Repr

/-- A launch is named by its context, queue and sequence number (R272, R301). -/
structure LaunchId where
  asid : Nat
  q    : Nat
  seq  : Word
  deriving DecidableEq, Repr

/-- A cue as it travels and is stored (R320): descriptor, payload and target. `kind` is that of R255: 0 a stored cue,
1 an entry reserved for a completion, 2 a timer. `payload` holds the window payload, or the converted block. -/
structure CueMsg where
  launch  : LaunchId
  target  : Nat
  tagT    : Word
  tagM    : BitVec 16
  port    : BitVec 8
  late    : Bool
  retag   : Bool
  wire    : BitVec 2
  block   : Bool
  src     : BitVec 32
  seq     : BitVec 32
  len     : Nat
  payload : List Byte
  kind    : Nat
  isLaunch : Bool
  deriving DecidableEq, Repr

/-- A level of a work tree (R109). -/
structure Level where
  bind   : Nat
  policy : BitVec 8
  rows   : Nat
  cols   : Nat
  fan    : Nat
  deriving DecidableEq, Repr

/-- A handler-table entry (R108). -/
structure Handler where
  port     : Nat
  budget   : Nat
  entry    : Word
  recvOff  : Nat
  recvSize : Nat
  deriving DecidableEq, Repr

/-- What a checked launch needs of its kernel image (R285, R303): it is copied to every package of the context. -/
structure Image where
  header   : Word
  codeBase : Word
  codeSize : Nat
  port     : Nat
  handlers : List Handler
  levels   : List Level
  resident : Nat
  inputs   : BitVec 8
  partWord : Word
  deriving DecidableEq, Repr

/-- A cast message (R299): the start of one gang's threads. `home` is the package that dispatched the launch; `cores` are
the gang's cores in placement order as (package, core number), and each thread is (package, core number, slot, global
index). Each package starts its own part. -/
structure CastMsg where
  launch  : LaunchId
  home    : Nat
  image   : Image
  args    : Word
  tagT    : Word
  gang    : Nat
  cores   : List (Nat × Nat)
  threads : List (Nat × Nat × Nat × Nat)
  deriving DecidableEq, Repr

/-- A barrier is named by its context, launch, level, node index and object number (R378). -/
structure BarKey where
  launch : LaunchId
  level  : Nat
  node   : Nat
  obj    : Nat
  deriving DecidableEq, Repr

/-- A thread wherever it runs: launch and global index. -/
structure ThreadId where
  launch : LaunchId
  gidx   : Nat
  deriving DecidableEq, Repr

/-- Messages of barriers (R383 to R387, R455). A `depart` carries the member entries of the leaving thread for that
node as (object, arrived, dropped). An `ask` takes the entry for a thread of another package whose instruction stalls until it is taken
(R378). The last four go from the home tile to a member. -/
inductive BarMsg where
  | arrive (key : BarKey) (who : ThreadId) (sense : Bool)
  | drop (key : BarKey) (who : ThreadId) (withdraw : Bool)
  | init (key : BarKey) (count timeout : Nat) (curtain : Bool) (who : ThreadId)
  | depart (launch : LaunchId) (level node : Nat) (who : ThreadId) (entries : List (Nat × Bool × Bool))
  | ask (key : BarKey) (who : ThreadId)
  | room (key : BarKey) (who : ThreadId)
  | release (key : BarKey) (who : ThreadId) (phase : BitVec 32) (sense timedOut missed : Bool) (due : Nat)
  | freed (key : BarKey) (who : ThreadId)
  | timeout (key : BarKey) (who : ThreadId) (total count : Nat) (again : Bool)
  deriving DecidableEq, Repr

/-- What travels on the Priud Link ports (R422): cues, casts, remote operations and their acknowledgements, copies,
collective steps, barrier messages, pushed packets, time stamps, and the agreements of VC 0. A CUE packet's cue carries the
entry that it came from, as (package, queue, SEQ), and is answered when it is stored (R270). `launched` copies a launch that has
passed its checks (R303), a cast message without a gang. `partEnded`, `partLeft` and `hostDone` tell the dispatching package
what it must know of a launch's threads elsewhere (R270, R298, R302, R458). A proposal carries the entry that asked for the pause or
the resume (R457). `push` and `pushed` carry a pushed packet to the package
that reads its queue, and its position back (R282); `pushAsk` and `pushRoom` ask for room there and grant it. `gangOver` tells the
packages of a gang that all its threads have ended (R298), `entryLost` and `skipped` that an entry of a queue has been discarded and that
packets stay without entries (R271, R278), `collLost` the source of a collective step that a flit of it was dropped (R430). `refresh` tells that a FENCE has run in a queue (R113),
`castDone` that a cast is complete (R303), `saveReady` that nothing of a pausing context is under way on a package (R318). -/
inductive LinkMsg where
  | cue (c : CueMsg) (sender : Option (Nat × Nat × Word))
  | cueStored (asid q : Nat) (seq : Word)
  | cast (c : CastMsg)
  | launched (c : CastMsg)
  | remoteOp (num : BitVec 32) (asid : Nat) (pa : Nat) (op : RemOp)
  | remoteAck (num : BitVec 32) (res : RemRes)
  | collData (asid : Nat) (step : BitVec 32) (addr : Word) (bytes : List Byte)
  | collNotice (asid : Nat) (step : BitVec 32)
  | collAck (asid : Nat) (step : BitVec 32)
  | collLost (asid peer : Nat) (step : BitVec 32)
  | bar (m : BarMsg)
  | pausePropose (asid : Nat) (tp : Word) (reason : Nat) (regions : Bool) (blamed : Option (Nat × Word))
  | pauseReply (asid : Nat) (tp : Word)
  | pauseAgree (asid : Nat) (tp : Word)
  | resumeReady (asid : Nat) (tp pr : Word) (blamed : Option (Nat × Word))
  | resumeAgree (asid : Nat) (tp pr : Word)
  | loadAsk (asid : Nat)
  | loadTell (asid : Nat) (desc : Option (List Byte))
  | loaded (asid : Nat) (saveSize : Nat)
  | kill (launch : LaunchId) (level node : Nat)
  | rootFault (asid code : Nat) (blamed : Option (Nat × Word)) (q : Nat) (seq : Word)
  | push (asid q : Nat) (packet : List Byte) (launch : LaunchId) (gidx level top acc : Nat)
  | pushed (asid q acc : Nat) (pos : Option Nat)
  | pushAsk (asid q : Nat)
  | pushRoom (asid q : Nat)
  | partEnded (launch : LaunchId) (gang : Nat) (stores : Bool)
  | partLeft (launch : LaunchId) (gang : Nat)
  | gangOver (launch : LaunchId) (gang : Nat)
  | entryLost (asid q : Nat) (seq : Word)
  | skipped (asid q first past : Nat)
  | hostDone (launch : LaunchId)
  | refresh (asid q : Nat)
  | castDone (launch : LaunchId) (gang pkg : Nat)
  | saveReady (asid : Nat)
  | stamp1 (t1 : Word)
  | stamp3 (t3 : Word)
  | stamp4 (t4 : Word) (err : Word)
  deriving DecidableEq, Repr

/-- The kinds of flit (R420). -/
inductive FlitKind where
  | idle | data | stamp | retry | manage
  | reserved (code : BitVec 4)
  deriving DecidableEq, Repr

/-- A flit (R420): the header fields, the payload as bytes, and the CRC that it carries. `fec` says whether the receiver's FEC can
correct it, and `fixed` how many symbols it corrects (R419). What a message means stands as `msg` on the flit with LAST = 1: the spec
does not lay out its bytes.
DESIGN CHOICE, unsafe: log 92. -/
structure Flit where
  vc     : BitVec 3
  seq    : BitVec 12
  ack    : BitVec 12
  ackv   : Bool
  kind   : FlitKind
  dst    : BitVec 11
  src    : BitVec 11
  credit : BitVec 6
  cvc    : BitVec 3
  last   : Bool
  msg    : Option LinkMsg
  payload : List Byte
  crc    : BitVec 64
  fec    : Bool
  fixed  : Nat
  deriving DecidableEq, Repr

/-- The three kinds of invalidation (R409). -/
inductive InvKind where
  | page (asid : Nat) (va : Word)
  | asid (asid : Nat)
  | all
  deriving DecidableEq, Repr

/-- The control registers that a host write names (R443). -/
inductive CtlReg where
  | reset | cmd | arg0 | arg1 | winbase | evbase | evsize | evread | power | other
  deriving DecidableEq, Repr

/-- A configured port as a start trains it (R437): the lanes that it comes up with; with none it is down. -/
structure BootPort where
  port     : Nat
  peer     : Nat
  peerPort : Nat
  lanes    : Nat
  deriving DecidableEq, Repr

/-- What a start meets outside the device (R437): the boot image that each root port yields, if its read succeeds, the step
from 3 on that failed, if any, whether the saved DRAM parameters pass their check, the package number, the configured ports, and the
time lock: the package becomes the time root, or locks to a parent port, with the root's number and the TIME and ERR that the exchange
gives. -/
structure BootReport where
  image0  : Option (List Byte)
  image1  : Option (List Byte)
  failed  : Option Nat
  dramOk  : Bool
  pkg     : Nat
  ports   : List BootPort
  parent  : Option Nat
  root    : Nat
  asym    : Nat
  time    : Word
  err     : Word
  deriving DecidableEq, Repr

/-- The register of a host's write (R443): its offset in BAR 0, and what a start meets should the write be one of RESET (R446). -/
structure RegWrite where
  offset : Nat
  boot   : BootReport
  deriving DecidableEq, Repr

/-- One constructor for each row of the opcode table. The first 194 are instructions of the word of R65. The rest are
the events of the device: each is one whole, indivisible step (95_what_each_step_holds). -/
inductive Instr where
  /-- Adds the typed values of A and B and writes the wrapped result to D. (R117) -/
  | intAdd (o : Ops)
  /-- Subtracts B from A and writes the wrapped result to D. (R117) -/
  | intSub (o : Ops)
  /-- Multiplies A by B and writes the low bits of the product to D. (R117) -/
  | intMul (o : Ops)
  /-- Writes the high half of the exact 2n-bit product of A and B to D. (R117) -/
  | intMulh (o : Ops)
  /-- Divides A by B, truncating towards zero, with the fixed results of R118 for zero and overflow. (R117) -/
  | intDiv (o : Ops)
  /-- Writes the remainder of A divided by B, which takes the sign of A. (R117) -/
  | intRem (o : Ops)
  /-- Writes the lesser of A and B, signed or unsigned by type. (R117) -/
  | intMin (o : Ops)
  /-- Writes the greater of A and B, signed or unsigned by type. (R117) -/
  | intMax (o : Ops)
  /-- Writes the absolute value of a signed A to D. (R117) -/
  | intAbs (o : Ops)
  /-- Writes the bitwise AND of A and B. (R117) -/
  | intAnd (o : Ops)
  /-- Writes the bitwise OR of A and B. (R117) -/
  | intOr (o : Ops)
  /-- Writes the bitwise XOR of A and B. (R117) -/
  | intXor (o : Ops)
  /-- Writes A AND NOT B. (R117) -/
  | intAndn (o : Ops)
  /-- Shifts A left by the low log2 n bits of B. (R117) -/
  | intShl (o : Ops)
  /-- Shifts A right, arithmetically for signed and logically for unsigned types. (R117) -/
  | intShr (o : Ops)
  /-- Rotates the n bits of A left by the low bits of B. (R117) -/
  | intRot (o : Ops)
  /-- Counts the leading zero bits of the typed value of A. (R117) -/
  | intClz (o : Ops)
  /-- Counts the trailing zero bits of the typed value of A. (R117) -/
  | intCtz (o : Ops)
  /-- Counts the one bits of the typed value of A. (R117) -/
  | intPopc (o : Ops)
  /-- Writes the typed value of A to D. (R117) -/
  | intMov (o : Ops)
  /-- Writes A when predicate C is true and B otherwise. (R117) -/
  | intSel (o : Ops)
  /-- Adds a signed immediate to A. (R122) -/
  | intiAddi (o : Ops)
  /-- Multiplies A by a signed immediate. (R122) -/
  | intiMuli (o : Ops)
  /-- ANDs A with an immediate. (R122) -/
  | intiAndi (o : Ops)
  /-- ORs A with an immediate. (R122) -/
  | intiOri (o : Ops)
  /-- XORs A with an immediate. (R122) -/
  | intiXori (o : Ops)
  /-- Shifts A left by an immediate amount below the type width. (R122) -/
  | intiShli (o : Ops)
  /-- Shifts A right by an immediate amount, arithmetic or logical by type. (R122) -/
  | intiShri (o : Ops)
  /-- Rotates A left by an immediate amount. (R122) -/
  | intiRoti (o : Ops)
  /-- Writes the typed immediate to D. (R122) -/
  | intiMovi (o : Ops)
  /-- Places immediate bits [23:0] in D[63:40] above A[39:0]. (R122) -/
  | intiMovhi (o : Ops)
  /-- Writes PC plus 12 times the immediate to D. (R122) -/
  | intiLea (o : Ops)
  /-- Sets predicate D when A equals B. (R119) -/
  | cmpEq (o : Ops)
  /-- Sets predicate D when A differs from B. (R119) -/
  | cmpNe (o : Ops)
  /-- Sets predicate D when A is less than B. (R119) -/
  | cmpLt (o : Ops)
  /-- Sets predicate D when A is at most B. (R119) -/
  | cmpLe (o : Ops)
  /-- Sets predicate D when A is greater than B. (R119) -/
  | cmpGt (o : Ops)
  /-- Sets predicate D when A is at least B. (R119) -/
  | cmpGe (o : Ops)
  /-- Sets predicate D when either F32 operand is NaN. (R119) -/
  | cmpUnord (o : Ops)
  /-- Writes the AND of two predicates. (R120) -/
  | prdAnd (o : Ops)
  /-- Writes the OR of two predicates. (R120) -/
  | prdOr (o : Ops)
  /-- Writes the XOR of two predicates. (R120) -/
  | prdXor (o : Ops)
  /-- Writes A AND NOT B over predicates. (R120) -/
  | prdAndn (o : Ops)
  /-- Writes the inverse of a predicate. (R120) -/
  | prdNot (o : Ops)
  /-- Sets predicate D when x register A is non-zero. (R120) -/
  | prdSet (o : Ops)
  /-- Packs p0 to p7 into the low byte of an x register. (R120) -/
  | prdPack (o : Ops)
  /-- Writes p1 to p7 from bits 1 to 7 of an x register in one step. (R120) -/
  | prdUnpack (o : Ops)
  /-- Packs two k masks into an x register. (R120) -/
  | prdKpack (o : Ops)
  /-- Writes a k mask from bits [15:0] of an x register. (R120) -/
  | prdKunpack (o : Ops)
  /-- Branches to PC plus 12 times the displacement after checking the target. (R128) -/
  | ctlBra (o : Ops)
  /-- Jumps to the byte address held in A. (R128) -/
  | ctlJmp (o : Ops)
  /-- Writes the return address to x1 and branches relatively. (R128) -/
  | ctlCall (o : Ops)
  /-- Writes the return address to x1 and jumps to the address in A. (R128) -/
  | ctlCallr (o : Ops)
  /-- Jumps to the address in x1. (R128) -/
  | ctlRet (o : Ops)
  /-- Decrements D and branches while it is non-zero. (R128) -/
  | ctlLoop (o : Ops)
  /-- Does nothing. (R128) -/
  | ctlNop (o : Ops)
  /-- Opens a stack frame, checking STACKLIM and the pool, and stores the saved registers. (R129) -/
  | ctlEnter (o : Ops)
  /-- Closes a stack frame, reloading the saved registers and restoring x2. (R130) -/
  | ctlLeave (o : Ops)
  /-- Reads a special-register selector into D as of its issue cycle. (R133) -/
  | sysGet (o : Ops)
  /-- Replaces a writable special register with A. (R133) -/
  | sysSet (o : Ops)
  /-- Raises TRAP with its code after acting as a switch marker. (R135) -/
  | sysTrap (o : Ops)
  /-- Raises BREAK after acting as a switch marker. (R135) -/
  | sysBreak (o : Ops)
  /-- Reads one of the thread's event counters into D. (R136) -/
  | sysPerf (o : Ops)
  /-- Adds two FP32 values with one rounding. (R124) -/
  | fltAdd (o : Ops)
  /-- Subtracts two FP32 values with one rounding. (R124) -/
  | fltSub (o : Ops)
  /-- Multiplies two FP32 values with one rounding. (R124) -/
  | fltMul (o : Ops)
  /-- Computes A times B plus C with one rounding. (R124) -/
  | fltFma (o : Ops)
  /-- Divides two FP32 values with one rounding. (R124) -/
  | fltDiv (o : Ops)
  /-- Computes the FP32 square root with one rounding. (R124) -/
  | fltSqrt (o : Ops)
  /-- Writes the FP32 minimum under R52. (R124) -/
  | fltMin (o : Ops)
  /-- Writes the FP32 maximum under R52. (R124) -/
  | fltMax (o : Ops)
  /-- Clears the sign of an FP32 value. (R124) -/
  | fltAbs (o : Ops)
  /-- Inverts the sign of an FP32 value. (R124) -/
  | fltNeg (o : Ops)
  /-- Converts between FP32 and the integer type in TY. (R125) -/
  | fltCvt (o : Ops)
  /-- Loads W bytes at A plus DISP into D. (R176) -/
  | ldDisp (o : Ops)
  /-- Loads W bytes at A plus scaled index B plus DISP. (R176) -/
  | ldIdx (o : Ops)
  /-- Waits until the granule is full, then reads it and optionally empties it in one step. (R176) -/
  | ldFe (o : Ops)
  /-- Loads with acquire semantics at the named scope. (R176) -/
  | ldAcq (o : Ops)
  /-- Writes the granule's full bit to a predicate. (R176) -/
  | ldProbe (o : Ops)
  /-- Stores W bytes of D at A plus DISP. (R178) -/
  | stDisp (o : Ops)
  /-- Stores W bytes at the indexed address. (R178) -/
  | stIdx (o : Ops)
  /-- Stores and sets the granule's full bit in one step. (R178) -/
  | stFe (o : Ops)
  /-- Stores with release semantics at the named scope. (R178) -/
  | stRel (o : Ops)
  /-- Clears the full bits of every granule of a range, leaving data unchanged. (R178) -/
  | stClr (o : Ops)
  /-- Atomically adds B at the address and returns the old value. (R180) -/
  | atmAdd (o : Ops)
  /-- Atomically ANDs B at the address. (R180) -/
  | atmAnd (o : Ops)
  /-- Atomically ORs B at the address. (R180) -/
  | atmOr (o : Ops)
  /-- Atomically XORs B at the address. (R180) -/
  | atmXor (o : Ops)
  /-- Atomically keeps the minimum of the location and B. (R180) -/
  | atmMin (o : Ops)
  /-- Atomically keeps the maximum of the location and B. (R180) -/
  | atmMax (o : Ops)
  /-- Atomically exchanges the location with B. (R180) -/
  | atmXchg (o : Ops)
  /-- Atomically writes C when the location equals B. (R180) -/
  | atmCas (o : Ops)
  /-- Atomically adds an FP32 value with rounding and no flags. (R180) -/
  | atmFadd (o : Ops)
  /-- Orders earlier accesses before later ones at a scope without waiting. (R183) -/
  | fncFence (o : Ops)
  /-- Waits until earlier stores in the extent and copies of QMASK complete, then acts as a FENCE ar. (R184) -/
  | fncDrain (o : Ops)
  /-- Enqueues a one-run copy to the tile's copy engine. (R186) -/
  | cpyGo1 (o : Ops)
  /-- Enqueues a strided two-dimensional copy described in the pool. (R186) -/
  | cpyGo2 (o : Ops)
  /-- Enqueues an indexed gather copy. (R186) -/
  | cpyGather (o : Ops)
  /-- Enqueues an indexed scatter copy. (R186) -/
  | cpyScatter (o : Ops)
  /-- Enqueues a fill of a range with a repeated 64-bit pattern. (R186) -/
  | cpyFill (o : Ops)
  /-- Places a join entry in each named queue, ordering the queues. (R192) -/
  | cpyJoin (o : Ops)
  /-- Waits until the thread's earlier copies in the named queues are done. (R192) -/
  | cpyWait (o : Ops)
  /-- Adds vector elements in active lanes. (R146) -/
  | vecAdd (o : Ops)
  /-- Subtracts vector elements in active lanes. (R146) -/
  | vecSub (o : Ops)
  /-- Multiplies vector elements in active lanes. (R146) -/
  | vecMul (o : Ops)
  /-- Computes a times b plus c per element with one rounding. (R146) -/
  | vecFma (o : Ops)
  /-- Computes a times b minus c per element with one rounding. (R146) -/
  | vecFms (o : Ops)
  /-- Writes the per-element minimum. (R146) -/
  | vecMin (o : Ops)
  /-- Writes the per-element maximum. (R146) -/
  | vecMax (o : Ops)
  /-- Writes the per-element absolute value. (R146) -/
  | vecAbs (o : Ops)
  /-- Writes the per-element negation. (R146) -/
  | vecNeg (o : Ops)
  /-- Writes the bitwise AND of elements. (R146) -/
  | vecAnd (o : Ops)
  /-- Writes the bitwise OR of elements. (R146) -/
  | vecOr (o : Ops)
  /-- Writes the bitwise XOR of elements. (R146) -/
  | vecXor (o : Ops)
  /-- Shifts integer elements left. (R146) -/
  | vecShl (o : Ops)
  /-- Shifts integer elements right, arithmetic or logical by type. (R146) -/
  | vecShr (o : Ops)
  /-- Copies element bits from A to D in active lanes. (R146) -/
  | vecMov (o : Ops)
  /-- Broadcasts an x value or one element of a v register to every element. (R146) -/
  | vecBcast (o : Ops)
  /-- Selects per lane between A and B by mask C. (R146) -/
  | vecSel (o : Ops)
  /-- Adds integer elements with saturation. (R146) -/
  | vecAdds (o : Ops)
  /-- Subtracts integer elements with saturation. (R146) -/
  | vecSubs (o : Ops)
  /-- Converts elements between types within each lane. (R154) -/
  | vcvCvt (o : Ops)
  /-- Converts two sources to a type of half the width, packing them per lane. (R154) -/
  | vcvPack (o : Ops)
  /-- Converts one source to a type of double width into two destinations. (R154) -/
  | vcvUnpack (o : Ops)
  /-- Quantises 32 FP32 values to one MX block and its E8M0 scale. (R156) -/
  | vcvQnt (o : Ops)
  /-- Dequantises 16 block elements to FP32 using scale bytes. (R157) -/
  | vcvScale (o : Ops)
  /-- Queues an EXP2 request for active lanes in the special-function pipe. (R150) -/
  | vsfExp2 (o : Ops)
  /-- Queues a LOG2 request in the special-function pipe. (R150) -/
  | vsfLog2 (o : Ops)
  /-- Queues a reciprocal request in the special-function pipe. (R150) -/
  | vsfRcp (o : Ops)
  /-- Queues a reciprocal square root request. (R150) -/
  | vsfRsqrt (o : Ops)
  /-- Queues a square root request. (R150) -/
  | vsfSqrt (o : Ops)
  /-- Permutes elements of A by indices in B. (R159) -/
  | vpmPerm (o : Ops)
  /-- Rotates the elements of A by IDX. (R159) -/
  | vpmRot (o : Ops)
  /-- Reduces active elements within each lane group and writes the result to the group. (R161) -/
  | vpmRed (o : Ops)
  /-- Writes running combinations of active elements within each lane group. (R161) -/
  | vpmScan (o : Ops)
  /-- Extracts one element into an x register. (R159) -/
  | vpmExtr (o : Ops)
  /-- Inserts an x value as one element of D. (R159) -/
  | vpmIns (o : Ops)
  /-- Writes A plus the element index to each element. (R159) -/
  | vpmIota (o : Ops)
  /-- Loads 16 lanes from a contiguous aligned address. (R163) -/
  | vlsLd (o : Ops)
  /-- Stores 16 lanes to a contiguous aligned address. (R163) -/
  | vlsSt (o : Ops)
  /-- Loads elements at a signed stride. (R163) -/
  | vlsLds (o : Ops)
  /-- Stores elements at a signed stride. (R163) -/
  | vlsSts (o : Ops)
  /-- Gathers lanes from offsets held in a v register. (R163) -/
  | vlsLdg (o : Ops)
  /-- Waits until the needed granules are full, then reads them in one step and optionally empties them. (R165) -/
  | vlsLdfe (o : Ops)
  /-- Stores active lanes and sets the full bits of their granules. (R165) -/
  | vlsStfe (o : Ops)
  /-- Sets a mask bit per lane where every element equals B. (R149) -/
  | vcmpEq (o : Ops)
  /-- Sets a mask bit per lane where every element differs from B. (R149) -/
  | vcmpNe (o : Ops)
  /-- Sets a mask bit per lane where every element is below B. (R149) -/
  | vcmpLt (o : Ops)
  /-- Sets a mask bit per lane where every element is at most B. (R149) -/
  | vcmpLe (o : Ops)
  /-- Sets a mask bit per lane where every element is above B. (R149) -/
  | vcmpGt (o : Ops)
  /-- Sets a mask bit per lane where every element is at least B. (R149) -/
  | vcmpGe (o : Ops)
  /-- Sets a mask bit per lane where every element is unordered with B. (R149) -/
  | vcmpUnord (o : Ops)
  /-- Queues a matrix multiply-accumulate of A and B into an accumulator slot. (R202) -/
  | mxuMma (o : Ops)
  /-- Queues one MX block partial product into a P slot. (R203) -/
  | mxuBlk (o : Ops)
  /-- Queues the scaled addition of a partial slot into a C slot with captured scales. (R204) -/
  | mxuSca (o : Ops)
  /-- Queues the zeroing of a slot and its status byte. (R205) -/
  | mxuZero (o : Ops)
  /-- Queues the transfer of slot rows to memory, converted or wide. (R206) -/
  | mxuXfer (o : Ops)
  /-- Queues the filling of slot rows from memory. (R206) -/
  | mxuLoad (o : Ops)
  /-- Waits until the named matrix commands are done. (R207) -/
  | mxuWait (o : Ops)
  /-- Reads the progress and status word of the newest command naming a slot. (R219) -/
  | mxuProg (o : Ops)
  /-- Loads 128 scale bytes from memory into a scale register. (R221) -/
  | sclLd (o : Ops)
  /-- Moves scale bytes between scale and vector registers. (R221) -/
  | sclMov (o : Ops)
  /-- Sets every byte of a scale register to a value. (R221) -/
  | sclClr (o : Ops)
  /-- Posts a cue with window payload to a thread of the launch. (R340) -/
  | cuePost (o : Ops)
  /-- Posts a cue carrying a block payload, optionally in a wire format. (R340) -/
  | cuePostb (o : Ops)
  /-- Posts a cue to the thread itself. (R340) -/
  | cueSelf (o : Ops)
  /-- Posts a cue to the thread itself at an absolute tag time. (R340) -/
  | cueTimer (o : Ops)
  /-- Ends the handler and lets the prompter start the next safe cue or put the thread to sleep. (R342) -/
  | cueEnd (o : Ops)
  /-- Reads the logical clock in ticks or ns as the prompter saw it. (R344) -/
  | cueNow (o : Ops)
  /-- Sets the handler's base tag for later posts. (R341) -/
  | cueTag (o : Ops)
  /-- Reads an item of the thread's cue state. (R343) -/
  | cueInfo (o : Ops)
  /-- Writes the logical time at which a tag time becomes safe. (R344) -/
  | cueHzn (o : Ops)
  /-- Opens a chain member from a setup descriptor and sends JOIN for non-targets. (R360) -/
  | accChain (o : Ops)
  /-- Declares strips of the member's contribution. (R363) -/
  | accSend (o : Ops)
  /-- Reads a chain entry's status word, closing a broken entry. (R365) -/
  | accStat (o : Ops)
  /-- Breaks or closes a chain entry. (R370) -/
  | accBreak (o : Ops)
  /-- Initialises a barrier's count, timeout and mode at its home tile. (R383) -/
  | barInit (o : Ops)
  /-- Drains, releases and sends the thread's arrival to the barrier. (R383) -/
  | barArrive (o : Ops)
  /-- Waits for the release of the thread's phase and acquires. (R383) -/
  | barWait (o : Ops)
  /-- Arrives and waits as one instruction. (R383) -/
  | barSync (o : Ops)
  /-- Binds a curtain barrier to a tile rectangle and channel. (R389) -/
  | barLine (o : Ops)
  /-- Removes the thread from the barrier for good. (R384) -/
  | barDrop (o : Ops)
  /-- Reads the thread's coordinate or node index at a level. (R307) -/
  | grpId (o : Ops)
  /-- Reads a size of the tree at a level. (R307) -/
  | grpSize (o : Ops)
  /-- Retires the thread after its matrix and copy commands are done. (R310) -/
  | grpExit (o : Ops)
  /-- Tightens the handler's budget and returns the old remainder. (R308) -/
  | grpBudget (o : Ops)
  /-- Sets the thread's register allotment. (R309) -/
  | grpRegs (o : Ops)
  /-- Appends a packet from the pool to a device queue. (R282) -/
  | quePush (o : Ops)
  /-- Reads WRITE, READ or a prompt book word of a queue. (R283) -/
  | queStat (o : Ops)
  /-- Waits until a queue entry is complete or discarded. (R284) -/
  | queWait (o : Ops)
  /-- Requests a pause of the context and stops the thread until resume. (R261) -/
  | ctxYield (o : Ops)
  /-- Reads an item of the context. (R262) -/
  | ctxInfo (o : Ops)
  /-- Translates a virtual address at its home station and returns the probe word. (R412) -/
  | pgProbe (o : Ops)
  /-- Reads link, route or time state of the package. (R434) -/
  | lnkStat (o : Ops)
  /-- A variable-latency result returns and is written to its register. (R79) -/
  | variableLatencyResult (acc : Nat)
  /-- A parked, blocked or stalled thread's waited-for condition is met and its waiting instruction issues. (R312) -/
  | switchMarkerWaitEnds (tid : Nat)
  /-- A raised fault is delivered once outstanding results are written, writing FAULTINFO and starting containment. (R85) -/
  | faultDelivered (tid : Nat)
  /-- A fault found at a station, target, link agent or memory reaches the issuing core. (R173) -/
  | remoteFaultReport (acc part : Nat) (ecc : Bool)
  /-- A waiting consuming load is served in table order when its granule becomes full. (R177) -/
  | consumingLoadServed (core : Nat)
  /-- A consuming load refused by a full waiting table is sent again after 64 cycles. (R177) -/
  | consumingLoadResend (acc : Nat)
  /-- An access arriving at a pool is performed on its granule in the fixed arbitration order. (R229) -/
  | poolAccessArrival (acc part : Nat)
  /-- The acknowledgement of a performed store or atomic reaches the issuing core. (R451) -/
  | storeAcknowledgement (acc part : Nat)
  /-- A special-function request completes and writes its result and flags. (R151) -/
  | sfuResult (core : Nat)
  /-- A queued copy reaches the head of its queue and starts running. (R194) -/
  | copyStart (core q : Nat)
  /-- The copy engine retires a 16-byte unit, setting its destination full bit. (R189) -/
  | retireUnit (core q : Nat)
  /-- A copy's last unit retires; its completion cue is posted and its entry freed. (R194) -/
  | copyFinish (core q : Nat)
  /-- A running copy stops on a fault and halts its queue. (R194) -/
  | copyFault (core q : Nat) (ecc : Bool)
  /-- A faulted copy restarts at PROGRESS after the house kernel acts. (R194) -/
  | copyRetry (core q : Nat)
  /-- A queued matrix command is accepted and starts staging when the one ahead is done. (R216) -/
  | mxuAccept (core : Nat)
  /-- The matrix unit grants one indivisible step to a ready command under the slot table and round robin. (R213) -/
  | mxuGrant (tile : Nat)
  /-- A matrix command becomes done after its last step and drain time. (R211) -/
  | mxuFinish (core : Nat)
  /-- A matrix operand fault is delivered to the issuing thread and the queue halts. (R216) -/
  | mxuOperandFault (core : Nat) (ecc : Bool)
  /-- A faulted matrix command resumes staging after RETRY. (R216) -/
  | mxuRetry (core : Nat)
  /-- An arriving cue is stored in the target's cue store, with the LATE check. (R348) -/
  | cueStore (cue : Nat)
  /-- An arriving cue with no free entry is written to the overflow area and its key registered. (R332) -/
  | cueSpill (cue : Nat)
  /-- A cue for an unplaced or paused target is held by the memory-side agent. (R334) -/
  | cueHold (cue : Nat)
  /-- A spilled cue is brought back into the cue store as entries free. (R332) -/
  | cueMerge (tid : Nat)
  /-- A spilled cue that comes first returns from the overflow area to the release path. (R332) -/
  | spillFetchDone (tid : Nat)
  /-- A held cue is forwarded when its gang is placed or restore completes. (R334) -/
  | cueForward (cue : Nat)
  /-- The prompter releases a thread's first cue once it is safe and the thread is asleep. (R324) -/
  | cueRelease (tid : Nat)
  /-- A released cue starts its handler, writing the block, window, budget and clearing pending bits. (R348) -/
  | handlerStart (tid : Nat)
  /-- The handler's cycle budget reaches zero and BUDGET is raised. (R315) -/
  | budgetExhausted (tid : Nat)
  /-- The stage manager reads and checks a packet and writes its prompt book entry, activating a loaded context. (R267) -/
  | packetAccept (asid q : Nat)
  /-- A host doorbell write tells the stage manager to read a queue's WRITE. (R442) -/
  | doorbell (asid q : Nat)
  /-- Every 64 cycles the stage manager dispatches one ready packet by class and round robin. (R271) -/
  | dispatchOpportunity
  /-- A LAUNCH packet is dispatched, its image and tree checked and its tag fixed. (R290) -/
  | launch (asid q : Nat)
  /-- A CUE packet posts a cue from the host to a thread of a launch. (R272) -/
  | cuePacket (asid q : Nat)
  /-- A COPY packet runs a copy on the stage manager's copy channel. (R274) -/
  | copyPacket (asid q : Nat)
  /-- A COLLECTIVE-STEP packet sends data to a peer or receives and adds or copies it. (R273) -/
  | collectiveStep (asid q : Nat)
  /-- A collective-step arrival notice reaches the receiving package and lets a RECV proceed. (R273) -/
  | arrivalNotice
  /-- A FENCE packet completes on dispatch after all earlier entries. (R275) -/
  | fencePacket (asid q : Nat)
  /-- A MARK packet stores its value at ADDR as a release. (R275) -/
  | mark (asid q : Nat)
  /-- A PREEMPT packet makes a pause request. (R275) -/
  | preempt (asid q : Nat)
  /-- A RESUME packet makes a resume request. (R275) -/
  | resume (asid q : Nat)
  /-- A prompt book entry becomes complete once its kind's work has ended, raising NOTIFY if asked. (R270) -/
  | promptBookComplete (asid q : Nat) (seq : Word)
  /-- The endpoint's flushing PCIe read completes, counting the launch's host stores as performed. (R458) -/
  | hostStoreAckRead (asid q : Nat) (seq : Word)
  /-- The memory-side agent writes a pushed packet into the ring once it has room and advances WRITE. (R282) -/
  | queuePushWrite (asid q : Nat)
  /-- An unresolved fault on queue-table, ring or prompt book access faults the context at the root. (R456) -/
  | queueAccessFault (asid q : Nat)
  /-- A gang is placed on free units once they are available, in index order. (R297) -/
  | gangPlaced (asid q : Nat) (seq : Word) (remoteFree : List Nat)
  /-- A cast message reaches a core, which sets up its threads and forwards it. (R299) -/
  | cast (core : Nat)
  /-- A gang whose threads and engines are all finished frees its cores. (R298) -/
  | gangLeaves (asid q : Nat) (seq : Word) (gang : Nat)
  /-- The CREATE command builds a context from its descriptor and assigns an ASID. (R444) -/
  | create (asid : Nat) (peers : List Nat)
  /-- The LOAD command checks the descriptor and admits the context's reservation. (R444) -/
  | load (asid : Nat)
  /-- The DESTROY command frees the context's ASID and reservation. (R444) -/
  | destroy (asid : Nat)
  /-- The CLEAR command clears a faulted context back to loaded. (R444) -/
  | clear (asid : Nat)
  /-- The ATTEST command writes a signed attestation report for a nonce. (R447) -/
  | attest (asid : Nat)
  /-- A pause proposal for tp reaches a package, which replies with its own value. (R252) -/
  | pauseProposal
  /-- A reply reaches the proposer, which agrees tp once all replies are in. (R252) -/
  | pauseReply
  /-- The agreed tp reaches a package. (R252) -/
  | pauseAgreed
  /-- When L reaches tp the package stops release and issue and checkpoints its engines. (R252) -/
  | releaseStop (asid : Nat)
  /-- The save image is written and the context becomes paused. (R251) -/
  | saveComplete (asid : Nat)
  /-- The stage managers agree the resume instant Pr and adjust DELTA. (R253) -/
  | resumeAgreement (asid : Nat)
  /-- At Pr the restored context becomes resident and release resumes. (R251) -/
  | restoreComplete (asid : Nat)
  /-- A kill notice on VC0 reaches another package that holds part of the node. (R319) -/
  | killNotice
  /-- A JOIN reaches a consumer, which records the member or replies NAK. (R362) -/
  | chainJoin (msg : Nat)
  /-- An ACK reaches a member, letting its declared strips leave. (R363) -/
  | chainAck (msg : Nat)
  /-- A NAK reaches a member, which retries or breaks. (R362) -/
  | chainNak (msg : Nat)
  /-- After NAK 1 the member sends JOIN again 256 cycles later. (R362) -/
  | joinRetry (tile entry : Nat)
  /-- A complete strip arrives at a consumer and is added, discarded as duplicate, and credited. (R357) -/
  | stripAccepted (tile entry src : Nat)
  /-- A CREDIT reaches a sender, setting its sent bit and freeing a buffer. (R357) -/
  | chainCredit (msg : Nat)
  /-- A COMPLETE reaches a member, which passes it on and closes its entry. (R366) -/
  | chainComplete (msg : Nat)
  /-- A BREAK reaches a member, which records the cause and passes it on. (R369) -/
  | chainBreak (msg : Nat)
  /-- A member's setup timeout expires and CHAIN.TIMEOUT is raised. (R368) -/
  | chainTimeout (tile entry : Nat)
  /-- An arrival or drop reaches the home tile and may release the phase. (R385) -/
  | barrierArrival (msg : Nat)
  /-- A barrier release reaches a member, ending its WAIT. (R385) -/
  | barrierRelease (msg : Nat)
  /-- A tile's curtain-line arrival is set and the release follows 40 cycles after the last. (R390) -/
  | curtainArrival (tile entry : Nat)
  /-- A barrier phase's timeout expires and BAR.TIMEOUT is raised at the arrived members. (R387) -/
  | barTimeout (tile entry : Nat)
  /-- A retired or killed thread's departure reaches the home tiles of its nodes. (R455) -/
  | threadDeparture (msg : Nat)
  /-- A virtual access reaches its home station and is looked up or queued for a walk. (R404) -/
  | translationRequest (acc part : Nat)
  /-- A table walk finishes, updating A and D and forwarding or failing the access. (R405) -/
  | walkDone (acc part : Nat)
  /-- The house kernel resolves or declines a failed walk. (R406) -/
  | pageFaultAnswer (asid : Nat) (va : Word) (resolved : Bool) (writes : List (Nat × Word))
  /-- The house kernel issues a page, ASID or all invalidation to every station. (R409) -/
  | invalidation (kind : InvKind) (writes : List (Nat × Word))
  /-- An invalidation completes once entries are dropped and their accesses performed. (R410) -/
  | invalidationComplete
  /-- A DRAM channel picks a burst under its slot table. (R30) -/
  | dramBurst (ch : Nat)
  /-- A DRAM channel spends one cycle in every 64 on refresh. (R30) -/
  | dramRefresh (ch : Nat)
  /-- A link flit arrives and is accepted in order or dropped after a failure. (R421) -/
  | flitReceived (port : Nat) (flit : Flit)
  /-- A retry request makes the transmitter resend from the named SEQ. (R421) -/
  | retryRequest (port seq : Nat)
  /-- The link agent performs or replays a remote operation and acknowledges it. (R431) -/
  | remoteOperation (ecc : Bool)
  /-- A remote operation's acknowledgement returns on VC2 to its source. (R243) -/
  | remoteAck
  /-- Every 16 µs the parent sends a time stamp to start an exchange. (R426) -/
  | timeExchange (port : Nat)
  /-- A time stamp arrives and the child computes offset, slew and ERR. (R426) -/
  | timeStamp
  /-- A missed exchange grows ERR by 1 ns per 16 µs. (R427) -/
  | holdover
  /-- The house cluster configures a port, which starts training. (R429) -/
  | configure (port peer peerPort : Nat)
  /-- Training completes and the port comes up with initial credits. (R429) -/
  | trainDone (port lanes : Nat)
  /-- Training fails and the port goes down. (R429) -/
  | trainFail (port : Nat)
  /-- A lane fails and the port degrades or goes down. (R429) -/
  | laneFailure (port : Nat)
  /-- A flit fails eight times in a row and the port goes down. (R421) -/
  | retryExhausted (port : Nat)
  /-- No flit arrives for 10 µs and the port goes down. (R429) -/
  | peerLost (port : Nat)
  /-- The house cluster retrains a degraded or down port. (R429) -/
  | retrain (port : Nat)
  /-- The house cluster disables a port. (R429) -/
  | portDisable (port : Nat)
  /-- A new route takes effect once old-route operations are acknowledged or failed. (R430) -/
  | routeTableUpdate (dst port : Nat)
  /-- Power-on or PERST# causes a cold start. (R446) -/
  | powerOnReset (boot : BootReport)
  /-- A PCIe function-level reset causes a warm start. (R446) -/
  | functionLevelReset (boot : BootReport)
  /-- A RESET write of 2 causes a cold start. (R446) -/
  | resetCold (boot : BootReport)
  /-- A RESET write of 1 causes a warm start. (R446) -/
  | resetWarm (boot : BootReport)
  /-- A write of the power limit is accepted or refused against locked contexts. (R449) -/
  | powerWrite (value : Word) (needed : Nat)
  /-- A die reaching 105 °C with capping pauses every resident context. (R449) -/
  | thermalTrip (die : Nat)
  /-- Every die falling below 95 °C allows activation again. (R449) -/
  | thermalClear
  /-- A write to a control register without behaviour of its own stores its value. (R443) -/
  | registerWrite (reg : RegWrite) (value : Word)
  /-- In each flit time a Priud Link transmitter picks one flit by VC0 priority, the port slot table and round robin. (R423) -/
  | flitTime (port : Nat)
  /-- The chain target adder serves one chorus data flit per cycle by round robin over senders and adds it into the slot. (R355) -/
  | targetAdderFlit (tile entry : Nat)
  /-- A host write through the BAR 2 window changes package memory at WINBASE plus its offset. (R442) -/
  | hostWindowWrite (offset : Nat) (bytes : List Byte)
  /-- A disabled queue is enabled, setting READ to 0 and entering idle or active. (R278) -/
  | queueEnable (asid q : Nat)
  /-- A queue is disabled and its unread and accepted packets are dropped without entries. (R278) -/
  | queueDisable (asid q : Nat)
  /-- The message over VC0 that LOAD has succeeded on every package moves the context from built to loaded on every package together. (R251) -/
  | loadAgreement
  /-- The house cluster names a new time parent port for a package whose parent port went down. (R427) -/
  | parentPortNamed (port root : Nat) (asym : Nat)
  /-- Package power averaged over 1 ms reaching the POWER limit turns capping on, and falling back turns it off. (R449) -/
  | powerCapping (watts : Nat)  deriving DecidableEq, Repr

end Sys2Proof
end

