-- ==== Sys2Proof/Machine/Fields.lean ====
section
/-! DEFINITION. The subfields of an instruction word (R65 to R69, R74) and the properties of the type codes. -/

namespace Sys2Proof

/-- Bits [lo + w - 1 : lo] of the extension field, as a number. -/
def Ops.fld (o : Ops) (lo w : Nat) : Nat := (o.x.extractLsb' lo w).toNat

/-- RND, X[10:8] (R47, R68). -/
def Ops.rnd (o : Ops) : Nat := o.fld 8 3
/-- SAT, X[11] (R49, R68). -/
def Ops.sat (o : Ops) : Bool := o.fld 11 1 = 1
/-- ORDER, X[13:12]: 0 rlx, 1 acq, 2 rel, 3 ar (R68). -/
def Ops.order (o : Ops) : Nat := o.fld 12 2
/-- SCOPE, X[17:14] (R68). -/
def Ops.scope (o : Ops) : Nat := o.fld 14 4
/-- QMASK, X[21:18] (R68). -/
def Ops.qmask (o : Ops) : Nat := o.fld 18 4
/-- The XI immediate, sign-extended to 64 bits (R67). -/
def Ops.imm (o : Ops) : Word := o.x.signExtend 64
/-- The XM displacement, X[39:8], sign-extended to 64 bits (R67). -/
def Ops.disp (o : Ops) : Word := (o.x.extractLsb' 8 32).signExtend 64

/-- The register that an operand value names (R70); none for 216 to 255. -/
def Reg.ofCode (c : BitVec 8) : Option Reg :=
  if c.toNat < 128 then some (.x (c.extractLsb' 0 7))
  else if c.toNat < 192 then some (.v (c.extractLsb' 0 6))
  else if c.toNat < 200 then some (.p (c.extractLsb' 0 3))
  else if c.toNat < 208 then some (.k (c.extractLsb' 0 3))
  else if c.toNat < 216 then some (.s (c.extractLsb' 0 3))
  else none

/-- The operand value of a register (R70). -/
def Reg.code : Reg → BitVec 8
  | .x n => 0#1 ++ n
  | .v n => 2#2 ++ n
  | .p n => 24#5 ++ n
  | .k n => 25#5 ++ n
  | .s n => 26#5 ++ n

/-- The C operand, X[7:0] (R67). A byte that names no register is refused by the decoder; it reads here as x0. -/
def Ops.c (o : Ops) : Reg := (Reg.ofCode (o.x.extractLsb' 0 8)).getD (.x 0)

/-- The type with a code (R74); none for 15. -/
def Ty.ofCode (c : Nat) : Option Ty :=
  match c with
  | 0 => some .i64 | 1 => some .i32 | 2 => some .i16 | 3 => some .i8
  | 4 => some .n64 | 5 => some .n32 | 6 => some .n16 | 7 => some .n8
  | 8 => some .f32 | 9 => some .f16 | 10 => some .bf16 | 11 => some .e4m3
  | 12 => some .e5m2 | 13 => some .e2m1 | 14 => some .e8m0 | _ => none

/-- The code of a type (R74). -/
def Ty.code : Ty → BitVec 4
  | .i64 => 0 | .i32 => 1 | .i16 => 2 | .i8 => 3 | .n64 => 4 | .n32 => 5 | .n16 => 6 | .n8 => 7
  | .f32 => 8 | .f16 => 9 | .bf16 => 10 | .e4m3 => 11 | .e5m2 => 12 | .e2m1 => 13 | .e8m0 => 14

/-- The width of a type in bits (R74, R141). -/
def Ty.width : Ty → Nat
  | .i64 | .n64 => 64
  | .i32 | .n32 | .f32 => 32
  | .i16 | .n16 | .f16 | .bf16 => 16
  | .i8 | .n8 | .e4m3 | .e5m2 | .e8m0 => 8
  | .e2m1 => 4

/-- The signed integer types In. -/
def Ty.isSigned : Ty → Bool
  | .i64 | .i32 | .i16 | .i8 => true
  | _ => false

/-- The integer types In and Nn (R44). -/
def Ty.isInt : Ty → Bool
  | .i64 | .i32 | .i16 | .i8 | .n64 | .n32 | .n16 | .n8 => true
  | _ => false

/-- The floating types with a sign (R39 to R41); E8M0 is a scale and not among them. -/
def Ty.isFloat : Ty → Bool
  | .f32 | .f16 | .bf16 | .e4m3 | .e5m2 | .e2m1 => true
  | _ => false

/-- STY or BTY, a type code inside X at bit `lo`. -/
def Ops.tyAt (o : Ops) (lo : Nat) : Option Ty := Ty.ofCode (o.fld lo 4)

/-- Elements of a lane: PER (R141). -/
def Ty.per (t : Ty) : Nat := 32 / t.width
/-- Elements of a vector register: N (R141). -/
def Ty.elems (t : Ty) : Nat := 512 / t.width

end Sys2Proof
end

