-- ==== Sys2Proof/Machine/Encoding.lean ====
section
/-! DEFINITION. The opcode map (R89) and what each function accepts in every field of its word (R69 to R78, R84 and the
field maps of the instruction chapters). A field at fault is named by the code of R450. -/

namespace Sys2Proof

/-- The functions of a major class in the order of R89, FN counting from 1 (R87). -/
def classCtors (maj : Nat) : List (Ops → Instr) :=
  match maj with
  | 0x01 => [.intAdd, .intSub, .intMul, .intMulh, .intDiv, .intRem, .intMin, .intMax, .intAbs, .intAnd, .intOr, .intXor, .intAndn, .intShl, .intShr, .intRot, .intClz, .intCtz, .intPopc, .intMov, .intSel]
  | 0x02 => [.intiAddi, .intiMuli, .intiAndi, .intiOri, .intiXori, .intiShli, .intiShri, .intiRoti, .intiMovi, .intiMovhi, .intiLea]
  | 0x03 => [.cmpEq, .cmpNe, .cmpLt, .cmpLe, .cmpGt, .cmpGe, .cmpUnord]
  | 0x04 => [.prdAnd, .prdOr, .prdXor, .prdAndn, .prdNot, .prdSet, .prdPack, .prdUnpack, .prdKpack, .prdKunpack]
  | 0x05 => [.ctlBra, .ctlJmp, .ctlCall, .ctlCallr, .ctlRet, .ctlLoop, .ctlNop, .ctlEnter, .ctlLeave]
  | 0x06 => [.sysGet, .sysSet, .sysTrap, .sysBreak, .sysPerf]
  | 0x07 => [.fltAdd, .fltSub, .fltMul, .fltFma, .fltDiv, .fltSqrt, .fltMin, .fltMax, .fltAbs, .fltNeg, .fltCvt]
  | 0x08 => [.ldDisp, .ldIdx, .ldFe, .ldAcq, .ldProbe]
  | 0x09 => [.stDisp, .stIdx, .stFe, .stRel, .stClr]
  | 0x0A => [.atmAdd, .atmAnd, .atmOr, .atmXor, .atmMin, .atmMax, .atmXchg, .atmCas, .atmFadd]
  | 0x0B => [.fncFence, .fncDrain]
  | 0x0C => [.cpyGo1, .cpyGo2, .cpyGather, .cpyScatter, .cpyFill, .cpyJoin, .cpyWait]
  | 0x10 => [.vecAdd, .vecSub, .vecMul, .vecFma, .vecFms, .vecMin, .vecMax, .vecAbs, .vecNeg, .vecAnd, .vecOr, .vecXor, .vecShl, .vecShr, .vecMov, .vecBcast, .vecSel, .vecAdds, .vecSubs]
  | 0x11 => [.vcvCvt, .vcvPack, .vcvUnpack, .vcvQnt, .vcvScale]
  | 0x12 => [.vsfExp2, .vsfLog2, .vsfRcp, .vsfRsqrt, .vsfSqrt]
  | 0x13 => [.vpmPerm, .vpmRot, .vpmRed, .vpmScan, .vpmExtr, .vpmIns, .vpmIota]
  | 0x14 => [.vlsLd, .vlsSt, .vlsLds, .vlsSts, .vlsLdg, .vlsLdfe, .vlsStfe]
  | 0x15 => [.vcmpEq, .vcmpNe, .vcmpLt, .vcmpLe, .vcmpGt, .vcmpGe, .vcmpUnord]
  | 0x18 => [.mxuMma, .mxuBlk, .mxuSca, .mxuZero, .mxuXfer, .mxuLoad, .mxuWait, .mxuProg]
  | 0x19 => [.sclLd, .sclMov, .sclClr]
  | 0x1C => [.cuePost, .cuePostb, .cueSelf, .cueTimer, .cueEnd, .cueNow, .cueTag, .cueInfo, .cueHzn]
  | 0x1D => [.accChain, .accSend, .accStat, .accBreak]
  | 0x1E => [.barInit, .barArrive, .barWait, .barSync, .barLine, .barDrop]
  | 0x1F => [.grpId, .grpSize, .grpExit, .grpBudget, .grpRegs]
  | 0x20 => [.quePush, .queStat, .queWait]
  | 0x21 => [.ctxYield, .ctxInfo]
  | 0x22 => [.pgProbe]
  | 0x23 => [.lnkStat]
  | _ => []

/-- The instruction with major class `maj` and function `fn`, if R89 lists them. -/
def buildInstr (maj fn : Nat) (o : Ops) : Option Instr :=
  if fn = 0 then none else ((classCtors maj)[fn - 1]?).map (fun c => c o)

/-- Major class, function and fields of an instruction; none for an event, which has no word. -/
def Instr.opcode : Instr → Option (Nat × Nat × Ops)
  | .intAdd o => some (0x01, 0x01, o)
  | .intSub o => some (0x01, 0x02, o)
  | .intMul o => some (0x01, 0x03, o)
  | .intMulh o => some (0x01, 0x04, o)
  | .intDiv o => some (0x01, 0x05, o)
  | .intRem o => some (0x01, 0x06, o)
  | .intMin o => some (0x01, 0x07, o)
  | .intMax o => some (0x01, 0x08, o)
  | .intAbs o => some (0x01, 0x09, o)
  | .intAnd o => some (0x01, 0x0A, o)
  | .intOr o => some (0x01, 0x0B, o)
  | .intXor o => some (0x01, 0x0C, o)
  | .intAndn o => some (0x01, 0x0D, o)
  | .intShl o => some (0x01, 0x0E, o)
  | .intShr o => some (0x01, 0x0F, o)
  | .intRot o => some (0x01, 0x10, o)
  | .intClz o => some (0x01, 0x11, o)
  | .intCtz o => some (0x01, 0x12, o)
  | .intPopc o => some (0x01, 0x13, o)
  | .intMov o => some (0x01, 0x14, o)
  | .intSel o => some (0x01, 0x15, o)
  | .intiAddi o => some (0x02, 0x01, o)
  | .intiMuli o => some (0x02, 0x02, o)
  | .intiAndi o => some (0x02, 0x03, o)
  | .intiOri o => some (0x02, 0x04, o)
  | .intiXori o => some (0x02, 0x05, o)
  | .intiShli o => some (0x02, 0x06, o)
  | .intiShri o => some (0x02, 0x07, o)
  | .intiRoti o => some (0x02, 0x08, o)
  | .intiMovi o => some (0x02, 0x09, o)
  | .intiMovhi o => some (0x02, 0x0A, o)
  | .intiLea o => some (0x02, 0x0B, o)
  | .cmpEq o => some (0x03, 0x01, o)
  | .cmpNe o => some (0x03, 0x02, o)
  | .cmpLt o => some (0x03, 0x03, o)
  | .cmpLe o => some (0x03, 0x04, o)
  | .cmpGt o => some (0x03, 0x05, o)
  | .cmpGe o => some (0x03, 0x06, o)
  | .cmpUnord o => some (0x03, 0x07, o)
  | .prdAnd o => some (0x04, 0x01, o)
  | .prdOr o => some (0x04, 0x02, o)
  | .prdXor o => some (0x04, 0x03, o)
  | .prdAndn o => some (0x04, 0x04, o)
  | .prdNot o => some (0x04, 0x05, o)
  | .prdSet o => some (0x04, 0x06, o)
  | .prdPack o => some (0x04, 0x07, o)
  | .prdUnpack o => some (0x04, 0x08, o)
  | .prdKpack o => some (0x04, 0x09, o)
  | .prdKunpack o => some (0x04, 0x0A, o)
  | .ctlBra o => some (0x05, 0x01, o)
  | .ctlJmp o => some (0x05, 0x02, o)
  | .ctlCall o => some (0x05, 0x03, o)
  | .ctlCallr o => some (0x05, 0x04, o)
  | .ctlRet o => some (0x05, 0x05, o)
  | .ctlLoop o => some (0x05, 0x06, o)
  | .ctlNop o => some (0x05, 0x07, o)
  | .ctlEnter o => some (0x05, 0x08, o)
  | .ctlLeave o => some (0x05, 0x09, o)
  | .sysGet o => some (0x06, 0x01, o)
  | .sysSet o => some (0x06, 0x02, o)
  | .sysTrap o => some (0x06, 0x03, o)
  | .sysBreak o => some (0x06, 0x04, o)
  | .sysPerf o => some (0x06, 0x05, o)
  | .fltAdd o => some (0x07, 0x01, o)
  | .fltSub o => some (0x07, 0x02, o)
  | .fltMul o => some (0x07, 0x03, o)
  | .fltFma o => some (0x07, 0x04, o)
  | .fltDiv o => some (0x07, 0x05, o)
  | .fltSqrt o => some (0x07, 0x06, o)
  | .fltMin o => some (0x07, 0x07, o)
  | .fltMax o => some (0x07, 0x08, o)
  | .fltAbs o => some (0x07, 0x09, o)
  | .fltNeg o => some (0x07, 0x0A, o)
  | .fltCvt o => some (0x07, 0x0B, o)
  | .ldDisp o => some (0x08, 0x01, o)
  | .ldIdx o => some (0x08, 0x02, o)
  | .ldFe o => some (0x08, 0x03, o)
  | .ldAcq o => some (0x08, 0x04, o)
  | .ldProbe o => some (0x08, 0x05, o)
  | .stDisp o => some (0x09, 0x01, o)
  | .stIdx o => some (0x09, 0x02, o)
  | .stFe o => some (0x09, 0x03, o)
  | .stRel o => some (0x09, 0x04, o)
  | .stClr o => some (0x09, 0x05, o)
  | .atmAdd o => some (0x0A, 0x01, o)
  | .atmAnd o => some (0x0A, 0x02, o)
  | .atmOr o => some (0x0A, 0x03, o)
  | .atmXor o => some (0x0A, 0x04, o)
  | .atmMin o => some (0x0A, 0x05, o)
  | .atmMax o => some (0x0A, 0x06, o)
  | .atmXchg o => some (0x0A, 0x07, o)
  | .atmCas o => some (0x0A, 0x08, o)
  | .atmFadd o => some (0x0A, 0x09, o)
  | .fncFence o => some (0x0B, 0x01, o)
  | .fncDrain o => some (0x0B, 0x02, o)
  | .cpyGo1 o => some (0x0C, 0x01, o)
  | .cpyGo2 o => some (0x0C, 0x02, o)
  | .cpyGather o => some (0x0C, 0x03, o)
  | .cpyScatter o => some (0x0C, 0x04, o)
  | .cpyFill o => some (0x0C, 0x05, o)
  | .cpyJoin o => some (0x0C, 0x06, o)
  | .cpyWait o => some (0x0C, 0x07, o)
  | .vecAdd o => some (0x10, 0x01, o)
  | .vecSub o => some (0x10, 0x02, o)
  | .vecMul o => some (0x10, 0x03, o)
  | .vecFma o => some (0x10, 0x04, o)
  | .vecFms o => some (0x10, 0x05, o)
  | .vecMin o => some (0x10, 0x06, o)
  | .vecMax o => some (0x10, 0x07, o)
  | .vecAbs o => some (0x10, 0x08, o)
  | .vecNeg o => some (0x10, 0x09, o)
  | .vecAnd o => some (0x10, 0x0A, o)
  | .vecOr o => some (0x10, 0x0B, o)
  | .vecXor o => some (0x10, 0x0C, o)
  | .vecShl o => some (0x10, 0x0D, o)
  | .vecShr o => some (0x10, 0x0E, o)
  | .vecMov o => some (0x10, 0x0F, o)
  | .vecBcast o => some (0x10, 0x10, o)
  | .vecSel o => some (0x10, 0x11, o)
  | .vecAdds o => some (0x10, 0x12, o)
  | .vecSubs o => some (0x10, 0x13, o)
  | .vcvCvt o => some (0x11, 0x01, o)
  | .vcvPack o => some (0x11, 0x02, o)
  | .vcvUnpack o => some (0x11, 0x03, o)
  | .vcvQnt o => some (0x11, 0x04, o)
  | .vcvScale o => some (0x11, 0x05, o)
  | .vsfExp2 o => some (0x12, 0x01, o)
  | .vsfLog2 o => some (0x12, 0x02, o)
  | .vsfRcp o => some (0x12, 0x03, o)
  | .vsfRsqrt o => some (0x12, 0x04, o)
  | .vsfSqrt o => some (0x12, 0x05, o)
  | .vpmPerm o => some (0x13, 0x01, o)
  | .vpmRot o => some (0x13, 0x02, o)
  | .vpmRed o => some (0x13, 0x03, o)
  | .vpmScan o => some (0x13, 0x04, o)
  | .vpmExtr o => some (0x13, 0x05, o)
  | .vpmIns o => some (0x13, 0x06, o)
  | .vpmIota o => some (0x13, 0x07, o)
  | .vlsLd o => some (0x14, 0x01, o)
  | .vlsSt o => some (0x14, 0x02, o)
  | .vlsLds o => some (0x14, 0x03, o)
  | .vlsSts o => some (0x14, 0x04, o)
  | .vlsLdg o => some (0x14, 0x05, o)
  | .vlsLdfe o => some (0x14, 0x06, o)
  | .vlsStfe o => some (0x14, 0x07, o)
  | .vcmpEq o => some (0x15, 0x01, o)
  | .vcmpNe o => some (0x15, 0x02, o)
  | .vcmpLt o => some (0x15, 0x03, o)
  | .vcmpLe o => some (0x15, 0x04, o)
  | .vcmpGt o => some (0x15, 0x05, o)
  | .vcmpGe o => some (0x15, 0x06, o)
  | .vcmpUnord o => some (0x15, 0x07, o)
  | .mxuMma o => some (0x18, 0x01, o)
  | .mxuBlk o => some (0x18, 0x02, o)
  | .mxuSca o => some (0x18, 0x03, o)
  | .mxuZero o => some (0x18, 0x04, o)
  | .mxuXfer o => some (0x18, 0x05, o)
  | .mxuLoad o => some (0x18, 0x06, o)
  | .mxuWait o => some (0x18, 0x07, o)
  | .mxuProg o => some (0x18, 0x08, o)
  | .sclLd o => some (0x19, 0x01, o)
  | .sclMov o => some (0x19, 0x02, o)
  | .sclClr o => some (0x19, 0x03, o)
  | .cuePost o => some (0x1C, 0x01, o)
  | .cuePostb o => some (0x1C, 0x02, o)
  | .cueSelf o => some (0x1C, 0x03, o)
  | .cueTimer o => some (0x1C, 0x04, o)
  | .cueEnd o => some (0x1C, 0x05, o)
  | .cueNow o => some (0x1C, 0x06, o)
  | .cueTag o => some (0x1C, 0x07, o)
  | .cueInfo o => some (0x1C, 0x08, o)
  | .cueHzn o => some (0x1C, 0x09, o)
  | .accChain o => some (0x1D, 0x01, o)
  | .accSend o => some (0x1D, 0x02, o)
  | .accStat o => some (0x1D, 0x03, o)
  | .accBreak o => some (0x1D, 0x04, o)
  | .barInit o => some (0x1E, 0x01, o)
  | .barArrive o => some (0x1E, 0x02, o)
  | .barWait o => some (0x1E, 0x03, o)
  | .barSync o => some (0x1E, 0x04, o)
  | .barLine o => some (0x1E, 0x05, o)
  | .barDrop o => some (0x1E, 0x06, o)
  | .grpId o => some (0x1F, 0x01, o)
  | .grpSize o => some (0x1F, 0x02, o)
  | .grpExit o => some (0x1F, 0x03, o)
  | .grpBudget o => some (0x1F, 0x04, o)
  | .grpRegs o => some (0x1F, 0x05, o)
  | .quePush o => some (0x20, 0x01, o)
  | .queStat o => some (0x20, 0x02, o)
  | .queWait o => some (0x20, 0x03, o)
  | .ctxYield o => some (0x21, 0x01, o)
  | .ctxInfo o => some (0x21, 0x02, o)
  | .pgProbe o => some (0x22, 0x01, o)
  | .lnkStat o => some (0x23, 0x01, o)
  | .variableLatencyResult _ => none
  | .switchMarkerWaitEnds _ => none
  | .faultDelivered _ => none
  | .remoteFaultReport _ _ _ => none
  | .consumingLoadServed _ => none
  | .consumingLoadResend _ => none
  | .poolAccessArrival _ _ => none
  | .storeAcknowledgement _ _ => none
  | .sfuResult _ => none
  | .copyStart _ _ => none
  | .retireUnit _ _ => none
  | .copyFinish _ _ => none
  | .copyFault _ _ _ => none
  | .copyRetry _ _ => none
  | .mxuAccept _ => none
  | .mxuGrant _ => none
  | .mxuFinish _ => none
  | .mxuOperandFault _ _ => none
  | .mxuRetry _ => none
  | .cueStore _ => none
  | .cueSpill _ => none
  | .cueHold _ => none
  | .cueMerge _ => none
  | .spillFetchDone _ => none
  | .cueForward _ => none
  | .cueRelease _ => none
  | .handlerStart _ => none
  | .budgetExhausted _ => none
  | .packetAccept _ _ => none
  | .doorbell _ _ => none
  | .dispatchOpportunity => none
  | .launch _ _ => none
  | .cuePacket _ _ => none
  | .copyPacket _ _ => none
  | .collectiveStep _ _ => none
  | .arrivalNotice => none
  | .fencePacket _ _ => none
  | .mark _ _ => none
  | .preempt _ _ => none
  | .resume _ _ => none
  | .promptBookComplete _ _ _ => none
  | .hostStoreAckRead _ _ _ => none
  | .queuePushWrite _ _ => none
  | .queueAccessFault _ _ => none
  | .gangPlaced _ _ _ _ => none
  | .cast _ => none
  | .gangLeaves _ _ _ _ => none
  | .create _ _ => none
  | .load _ => none
  | .destroy _ => none
  | .clear _ => none
  | .attest _ => none
  | .pauseProposal => none
  | .pauseReply => none
  | .pauseAgreed => none
  | .releaseStop _ => none
  | .saveComplete _ => none
  | .resumeAgreement _ => none
  | .restoreComplete _ => none
  | .killNotice => none
  | .chainJoin _ => none
  | .chainAck _ => none
  | .chainNak _ => none
  | .joinRetry _ _ => none
  | .stripAccepted _ _ _ => none
  | .chainCredit _ => none
  | .chainComplete _ => none
  | .chainBreak _ => none
  | .chainTimeout _ _ => none
  | .barrierArrival _ => none
  | .barrierRelease _ => none
  | .curtainArrival _ _ => none
  | .barTimeout _ _ => none
  | .threadDeparture _ => none
  | .translationRequest _ _ => none
  | .walkDone _ _ => none
  | .pageFaultAnswer _ _ _ _ => none
  | .invalidation _ _ => none
  | .invalidationComplete => none
  | .dramBurst _ => none
  | .dramRefresh _ => none
  | .flitReceived _ _ => none
  | .retryRequest _ _ => none
  | .remoteOperation _ => none
  | .remoteAck => none
  | .timeExchange _ => none
  | .timeStamp => none
  | .holdover => none
  | .configure _ _ _ => none
  | .trainDone _ _ => none
  | .trainFail _ => none
  | .laneFailure _ => none
  | .retryExhausted _ => none
  | .peerLost _ => none
  | .retrain _ => none
  | .portDisable _ => none
  | .routeTableUpdate _ _ => none
  | .powerOnReset _ => none
  | .functionLevelReset _ => none
  | .resetCold _ => none
  | .resetWarm _ => none
  | .powerWrite _ _ => none
  | .thermalTrip _ => none
  | .thermalClear => none
  | .registerWrite _ _ => none
  | .flitTime _ => none
  | .targetAdderFlit _ _ => none
  | .hostWindowWrite _ _ => none
  | .queueEnable _ _ => none
  | .queueDisable _ _ => none
  | .loadAgreement => none
  | .parentPortNamed _ _ _ => none
  | .powerCapping _ => none

/-- The register classes an operand position admits (R71). -/
inductive Slot where
  | unused
  | x | v | p | k | s
  | xv | sv
  deriving DecidableEq, Repr

/-- Whether a register may stand in a position. An unused field must be zero, which reads as x0 (R71). -/
def Slot.admits : Slot → Reg → Bool
  | .unused, r => r = .x 0
  | .x, .x _ => true
  | .v, .v _ => true
  | .p, .p _ => true
  | .k, .k _ => true
  | .s, .s _ => true
  | .xv, .x _ => true
  | .xv, .v _ => true
  | .sv, .s _ => true
  | .sv, .v _ => true
  | _, _ => false

/-- What a function accepts: the classes of D, A, B and C, and whether the type, the hints, the C byte beyond its class
and the other bits of X are accepted. `c` is `none` where X[7:0] is no operand byte (XI and XM). -/
structure Shape where
  ty : Bool
  d  : Slot := .unused
  a  : Slot := .unused
  b  : Slot := .unused
  c  : Option Slot := some .unused
  aOk : Bool := true
  bOk : Bool := true
  dOk : Bool := true
  cOk : Bool := true
  hOk : Bool := true
  x  : Bool
  deriving DecidableEq, Repr

/-- The integer types, TY 0 to 7. -/
def Ty.isScalarInt (t : Ty) : Bool := t.isInt
/-- The vector integer types, TY 1 to 3 and 5 to 7. -/
def Ty.isVecInt (t : Ty) : Bool := t.isInt && t.width != 64
/-- The vector floating types, TY 8 to 10. -/
def Ty.isVecFloat (t : Ty) : Bool := t = .f32 || t = .f16 || t = .bf16
/-- TY 1 to 3 and 5 to 10. -/
def Ty.isVec (t : Ty) : Bool := t.isVecInt || t.isVecFloat
/-- TY 1 to 3 and 5 to 14, as TY and STY of VCV (R153). -/
def Ty.isVcv (t : Ty) : Bool := t.isVecInt || t.isFloat || t = .e8m0
/-- A class whose types are "none" takes TY = 0 (R75). -/
def Ty.none0 (t : Ty) : Bool := t = .i64

/-- XA form: C in X[7:0], the rest zero (R67). -/
def Ops.xaOk (o : Ops) : Bool := o.fld 8 32 = 0

/-- INT (R116, R117). -/
def shapeInt (fn : Nat) (o : Ops) : Shape :=
  let unary := fn = 0x09 || fn = 0x11 || fn = 0x12 || fn = 0x13 || fn = 0x14
  { ty := o.ty.isScalarInt && (fn != 0x09 || o.ty.isSigned), d := .x, a := .x, b := if unary then .unused else .x,
    c := some (if fn = 0x15 then .p else .unused), x := o.xaOk }

/-- The immediate ranges of R122: a value no type of the function takes is a fault of X, otherwise of TY (R450). -/
def shapeInti (fn : Nat) (o : Ops) : Shape :=
  let i := o.x.toInt
  let shift := fn = 0x06 || fn = 0x07 || fn = 0x08
  let tyOk :=
    if fn = 0x0A then o.ty = .i64 || o.ty = .n64
    else if fn = 0x0B then o.ty = .i64
    else o.ty.isScalarInt && (!shift || i < 0 || 64 ≤ i || i < o.ty.width)
  let xOk :=
    if shift then decide (0 ≤ i ∧ i < 64)
    else if fn = 0x0A then decide (-(2 ^ 23) ≤ i ∧ i < 2 ^ 24)
    else true
  { ty := tyOk, d := .x, a := if fn = 0x09 || fn = 0x0B then .unused else .x, c := none, x := xOk }

/-- CMP (R116, R119). -/
def shapeCmp (fn : Nat) (o : Ops) : Shape :=
  { ty := if fn = 0x07 then o.ty = .f32 else o.ty.isScalarInt || o.ty = .f32, d := .p, a := .x, b := .x, x := o.xaOk }

/-- PRD (R116, R120). -/
def shapePrd (fn : Nat) (o : Ops) : Shape :=
  let s : Slot × Slot × Slot :=
    match fn with
    | 0x05 => (.p, .p, .unused)
    | 0x06 => (.p, .x, .unused)
    | 0x07 => (.x, .unused, .unused)
    | 0x08 => (.unused, .x, .unused)
    | 0x09 => (.x, .k, .k)
    | 0x0A => (.k, .x, .unused)
    | _ => (.p, .p, .p)
  { ty := o.ty.none0, d := s.1, a := s.2.1, b := s.2.2, x := o.xaOk }

/-- CTL (R127, R128). -/
def shapeCtl (fn : Nat) (o : Ops) : Shape :=
  let frameOk :=
    decide (o.fld 12 4 ≤ (if o.fld 22 1 = 1 then 4 else 8) ∧ o.fld 16 5 ≤ 16 ∧
      64 * o.fld 16 5 + 8 * (o.fld 12 4 + o.fld 21 1) ≤ 64 * o.fld 0 12) && (o.fld 23 17 = 0)
  { ty := o.ty.none0, d := if fn = 0x06 then .x else .unused, dOk := fn != 0x06 || o.d != .x 0,
    a := if fn = 0x02 || fn = 0x04 then .x else .unused, c := none,
    x := if fn = 0x01 || fn = 0x03 || fn = 0x06 then true
         else if fn = 0x08 || fn = 0x09 then frameOk else o.x = 0 }

/-- SYS (R131, R132, R136). -/
def shapeSys (fn : Nat) (o : Ops) : Shape :=
  let common := o.fld 8 14 = 0
  let sel := o.fld 22 8
  let xOk :=
    match fn with
    | 0x01 => o.fld 32 8 = 0 && decide (sel ≤ 16) && (o.fld 30 2 = 0 || sel = 15)
    | 0x02 => o.fld 32 8 = 0 && decide (10 ≤ sel ∧ sel ≤ 13) && o.fld 30 2 = 0
    | 0x03 => o.fld 38 2 = 0
    | 0x04 => o.fld 22 18 = 0
    | _ => decide (o.fld 22 4 ≤ 4) && o.fld 26 14 = 0
  { ty := o.ty.none0, d := if fn = 0x01 || fn = 0x05 then .x else .unused, a := if fn = 0x02 then .x else .unused,
    x := common && xOk }

/-- FLT (R123 to R125). -/
def shapeFlt (fn : Nat) (o : Ops) : Shape :=
  let rounds := decide (fn ≤ 6) || fn = 0x0B
  let rndOk := o.rnd ≤ 3 || o.rnd = 7
  { ty := if fn = 0x0B then o.ty.isScalarInt else o.ty = .f32,
    d := .x, a := .x, b := if fn = 0x06 || decide (9 ≤ fn) then .unused else .x,
    c := some (if fn = 0x04 then .x else .unused),
    x := (if rounds then rndOk else o.rnd = 0 && !o.sat) && o.fld 12 10 = 0 &&
      (if fn = 0x0B then o.fld 22 1 = 1 || !o.sat else o.fld 22 1 = 0) && o.fld 23 17 = 0 }

/-- LD (R174). -/
def shapeLd (fn : Nat) (o : Ops) : Shape :=
  { ty := if fn = 0x05 then o.ty = .i64 else o.ty.isScalarInt, d := if fn = 0x05 then .p else .x, a := .x,
    b := if fn = 0x02 then .x else .unused, c := none,
    x := (fn = 0x04 || o.fld 0 4 = 0) && (fn = 0x03 || o.fld 4 1 = 0) && o.fld 5 3 = 0 }

/-- ST (R174). -/
def shapeSt (fn : Nat) (o : Ops) : Shape :=
  { ty := if fn = 0x05 then o.ty = .i64 else o.ty.isScalarInt, d := if fn = 0x05 then .unused else .x, a := .x,
    b := if fn = 0x02 || fn = 0x05 then .x else .unused, c := none,
    x := (fn = 0x04 || o.fld 0 4 = 0) && o.fld 4 4 = 0 }

/-- ATM (R179). -/
def shapeAtm (fn : Nat) (o : Ops) : Shape :=
  { ty := if fn = 0x09 then o.ty = .f32 else o.ty.isScalarInt, d := .x, a := .x, b := .x,
    c := some (if fn = 0x08 then .x else .unused),
    x := (if fn = 0x09 then o.rnd ≤ 3 || o.rnd = 7 else o.rnd = 0) && !o.sat && o.qmask = 0 && o.fld 22 18 = 0 }

/-- FNC (R182). -/
def shapeFnc (fn : Nat) (o : Ops) : Shape :=
  { ty := o.ty.none0,
    x := o.fld 8 4 = 0 && (if fn = 0x01 then o.order != 0 && o.qmask = 0 else o.order = 0) && o.fld 22 18 = 0 }

/-- CPY (R185). -/
def shapeCpy (fn : Nat) (o : Ops) : Shape :=
  let wire := o.fld 24 2
  let moves := decide (fn ≤ 5)
  { ty := o.ty.none0, a := if moves then .x else .unused, b := if fn = 0x01 || fn = 0x05 then .x else .unused,
    c := some (if fn = 0x01 || fn = 0x05 then .x else .unused),
    x := (if wire = 0 then o.rnd = 0 && !o.sat else o.rnd ≤ 3 || o.rnd = 7) && o.fld 12 6 = 0 &&
      (if moves then o.qmask = 0 else o.qmask != 0 && o.fld 22 2 = 0 && o.fld 26 1 = 0) &&
      (wire = 0 || decide (fn ≤ 4)) && (o.fld 26 1 = 1 || o.fld 27 8 = 0) && o.fld 35 5 = 0 }

/-- Whether a type of VEC or VPM accepts the RND code that an instruction of it may carry (R47, R147). -/
def rndFits (t : Ty) (rnd : Nat) (sat : Bool) : Bool :=
  if t.isInt then rnd = 0 && !sat else rnd ≤ 3 || rnd = 7 || (rnd = 4 && t != .f32)

/-- RND as the checks of TY take it: 5 and 6 are faults of X by themselves, and change no check of TY (R450). -/
def Ops.rndOr0 (o : Ops) : Nat := if o.rnd = 5 || o.rnd = 6 then 0 else o.rnd

/-- VEC (R145 to R147). -/
def shapeVec (fn : Nat) (o : Ops) : Shape :=
  let rounds := decide (fn ≤ 5)
  let idx := o.fld 22 7
  let isV := match o.a with | .v _ => true | _ => false
  { ty := o.ty.isVec && (fn != 0x08 || o.ty.isSigned || !o.ty.isInt) &&
      ((fn != 0x0D && fn != 0x0E && fn != 0x12 && fn != 0x13) || o.ty.isInt) &&
      (!rounds || rndFits o.ty o.rndOr0 o.sat) &&
      (fn != 0x10 || !isV || decide (64 ≤ idx) || decide (idx < o.ty.elems)),
    d := .v, a := if fn = 0x10 then .xv else .v,
    b := if fn = 0x08 || fn = 0x09 || fn = 0x0F || fn = 0x10 then .unused else .xv,
    c := some (if fn = 0x04 || fn = 0x05 then .v else if fn = 0x11 then .k else .unused),
    x := (if rounds then o.rnd != 5 && o.rnd != 6 else o.rnd = 0 && !o.sat) && o.fld 12 10 = 0 &&
      (if fn = 0x10 then (if isV then decide (idx < 64) else idx = 0) else idx = 0) && o.fld 29 11 = 0 }

/-- The RND and SAT values that R154 accepts for a pair of types. -/
def convAccepts (sty ty : Ty) (rnd : Nat) (sat : Bool) : Bool :=
  if sty = .e8m0 || ty = .e8m0 then
    !(sty.isInt || ty.isInt) && rnd = 0 && !sat
  else if sty.isInt && ty.isInt then rnd = 0
  else if ty.isInt then (rnd ≤ 3 || rnd = 7) && !sat
  else rnd ≤ 3 || rnd = 7 || (rnd = 4 && ty != .f32)

/-- r of R154: the ratio of the wider width to the narrower one. -/
def widthRatio (a b : Ty) : Nat := if a.width ≤ b.width then b.width / a.width else a.width / b.width

/-- The 8-bit and 4-bit element types of an MX block (R156, R157). -/
def Ty.isBlock (t : Ty) : Bool := t = .e4m3 || t = .e5m2 || t = .e2m1

/-- VCV (R153 to R157).
DEDUCED, unsafe: log 14. -/
def shapeVcv (fn : Nat) (o : Ops) : Shape :=
  let part := o.fld 26 3
  let sidx := o.fld 29 7
  let conv := decide (fn ≤ 3)
  let sty := (o.tyAt 22).getD .f32
  let styOk := match o.tyAt 22 with
    | some t => if conv then t.isVcv else t = .f32
    | none => false
  let widths :=
    match fn with
    | 0x01 => decide (part < widthRatio o.ty sty)
    | 0x02 => sty.width = 2 * o.ty.width
    | _ => o.ty.width = 2 * sty.width
  { ty := if conv then o.ty.isVcv && (!styOk || (convAccepts sty o.ty o.rndOr0 o.sat && widths))
          else o.ty.isBlock && (if fn = 0x04 then decide (4 ≤ part) || decide (part < o.ty.elems / 32)
                                else decide (part < o.ty.elems / 16)),
    d := .v, a := .v, b := if fn = 0x02 || fn = 0x04 then .v else .unused,
    c := some (if fn = 0x03 then .v else if conv then .unused else .s),
    cOk := fn != 0x03 || o.c != o.d,
    x := o.rnd != 5 && o.rnd != 6 && o.fld 12 10 = 0 && styOk && o.fld 36 4 = 0 &&
      (if conv then sidx = 0 && (fn = 0x01 || part = 0)
       else if fn = 0x04 then !o.sat && decide (part < 4)
       else o.rnd != 4 && decide (sidx + (part * 16 + 15) / 32 ≤ 127)) }

/-- VSF (R148). -/
def shapeVsf (o : Ops) : Shape := { ty := o.ty.isVecFloat, d := .v, a := .v, x := o.xaOk }

/-- VPM (R158, R159). -/
def shapeVpm (fn : Nat) (o : Ops) : Shape :=
  let idx := o.fld 22 7
  let op := o.fld 29 3
  let groups := fn = 0x03 || fn = 0x04
  let usesIdx := fn = 0x02 || fn = 0x05 || fn = 0x06
  { ty := o.ty.isVec && (fn != 0x07 || o.ty.isInt) &&
      (!groups || op != 0 || rndFits o.ty o.rndOr0 o.sat) &&
      (!groups || !(op = 3 || op = 4 || op = 5) || o.ty.isInt) &&
      (!usesIdx || decide (64 ≤ idx) || decide (idx < o.ty.elems)),
    d := if fn = 0x05 then .x else .v, a := if fn = 0x06 || fn = 0x07 then .x else .v,
    b := if fn = 0x01 then .v else .unused,
    x := (if groups && op = 0 then o.rnd != 5 && o.rnd != 6 else o.rnd = 0 && !o.sat) && o.fld 12 2 = 0 &&
      (groups || o.scope = 0) && o.qmask = 0 && (if usesIdx then decide (idx < 64) else idx = 0) &&
      (if groups then decide (op < 6) else op = 0) && o.fld 32 8 = 0 }

/-- VLS (R162, R163). -/
def shapeVls (fn : Nat) (o : Ops) : Shape :=
  { ty := if fn = 0x03 || fn = 0x04 then o.ty.isVecInt else o.ty = .i32 || o.ty = .n32, d := .v, a := .x,
    b := if fn = 0x03 || fn = 0x04 then .x else if fn = 0x05 then .v else .unused, c := none,
    x := (fn = 0x06 || o.fld 0 1 = 0) && o.fld 1 7 = 0 }

/-- VCMP (R148, R149). -/
def shapeVcmp (fn : Nat) (o : Ops) : Shape :=
  { ty := o.ty.isVec && (fn != 0x07 || o.ty.isVecFloat), d := .k, a := .v, b := .xv, x := o.xaOk }

/-- The BTY codes that some type of MMA or BLK takes (R200): 0, and those of its own types. -/
def mxuBty (fn bty : Nat) : Bool :=
  bty = 0 || bty = 11 || bty = 12 || (if fn = 0x01 then bty = 3 || bty = 9 || bty = 10 else bty = 13)

/-- The type pairs of MMA and BLK (R200); BTY is at X[38:35], and 0 is the same as TY. A BTY that no type takes is a fault of
X, any other refused pair one of TY (R450). -/
def mxuTypes (fn : Nat) (ty : Ty) (bty : Nat) : Bool :=
  if fn = 0x01 then
    (ty = .bf16 && (!mxuBty fn bty || bty = 0 || bty = 10)) || (ty = .f16 && (!mxuBty fn bty || bty = 0 || bty = 9)) ||
    (ty = .i8 && (!mxuBty fn bty || bty = 0 || bty = 3)) ||
    ((ty = .e4m3 || ty = .e5m2) && (!mxuBty fn bty || bty = 0 || bty = 11 || bty = 12))
  else ty.isBlock

/-- MXU (R198 to R200).
DEDUCED, unsafe: log 14. -/
def shapeMxu (fn : Nat) (o : Ops) : Shape :=
  let slot := o.fld 22 3
  let prod := fn = 0x01 || fn = 0x02
  let move := fn = 0x05 || fn = 0x06
  let bty := o.fld 35 4
  let wide := o.fld 25 1 = 1
  { ty := if prod then mxuTypes fn o.ty bty
          else if move then
            (if wide then o.ty = .i8 || o.ty = .bf16 else o.ty = .bf16 || o.ty = .f16 || o.ty = .e4m3 || o.ty = .e5m2)
          else o.ty.none0,
    d := if fn = 0x08 then .x else .unused,
    a := if prod || move then .x else if fn = 0x03 then .s else .unused,
    b := if prod || move then .x else if fn = 0x03 then .s else .unused,
    c := some (if prod then .x else .unused),
    x := o.rnd = 0 && (!o.sat || (fn = 0x05 && !wide)) && o.fld 12 10 = 0 &&
      (if prod then decide (slot ≤ 4) && mxuBty fn bty && (if fn = 0x01 then o.fld 25 10 != 0 else o.fld 25 10 = 1 && o.fld 39 1 = 0)
       else if fn = 0x03 then decide (slot ≤ 4) && decide (o.fld 25 3 ≤ 4) && o.fld 25 3 != slot && o.fld 28 12 = 0
       else if move then decide (slot ≤ 4) && decide (o.fld 26 7 + o.fld 33 7 ≤ 127)
       else if fn = 0x07 then o.fld 27 13 = 0
       else decide (slot ≤ 4) && o.fld 25 15 = 0) }

/-- SCL (R220, R221).
DEDUCED, unsafe: log 14. -/
def shapeScl (fn : Nat) (o : Ops) : Shape :=
  let isV : Reg → Bool := fun r => match r with | .v _ => true | _ => false
  { ty := o.ty.none0, d := if fn = 0x02 then .sv else .s, a := if fn = 0x01 then .x else if fn = 0x02 then .sv else .unused,
    c := none, aOk := fn != 0x02 || !(isV o.d && isV o.a),
    x := match fn with
      | 0x01 => o.fld 0 8 = 0
      | 0x02 => o.fld 1 39 = 0 && (o.fld 0 1 = 0 || isV o.d || isV o.a)
      | _ => o.fld 8 32 = 0 }

/-- CUE (R339). -/
def shapeCue (fn : Nat) (o : Ops) : Shape :=
  let wire := o.fld 30 2
  let common := o.fld 12 10 = 0
  let plain := o.rnd = 0 && !o.sat
  { ty := o.ty.none0, d := if fn = 0x06 || fn = 0x08 || fn = 0x09 then .x else .unused,
    a := if fn = 0x01 || fn = 0x02 || fn = 0x04 || fn = 0x07 || fn = 0x09 then .x else .unused,
    b := if decide (fn ≤ 4) || fn = 0x07 then .x else .unused,
    c := some (if decide (fn ≤ 3) then .x else .unused),
    x := common && (match fn with
      | 0x02 => if wire = 0 then plain else o.rnd ≤ 3 || o.rnd = 7
      | 0x06 => plain && o.fld 23 17 = 0
      | 0x08 => plain && decide (o.fld 22 4 ≤ 7) && o.fld 26 14 = 0
      | 0x05 | 0x07 | 0x09 => plain && o.fld 22 18 = 0
      | _ => plain && decide (o.fld 30 7 ≤ 64) && o.fld 37 3 = 0) }

/-- ACC (R358). -/
def shapeAcc (fn : Nat) (o : Ops) : Shape :=
  { ty := o.ty.none0, d := if fn = 0x01 || fn = 0x03 then .x else .unused, a := .x,
    x := o.fld 8 6 = 0 && (fn = 0x01 || o.scope = 0) && o.qmask = 0 && (fn = 0x02 || o.fld 22 8 = 0) && o.fld 30 10 = 0 }

/-- BAR (R381). -/
def shapeBar (fn : Nat) (o : Ops) : Shape :=
  { ty := o.ty.none0, d := if fn = 0x03 || fn = 0x04 then .x else .unused,
    a := if fn = 0x01 || fn = 0x05 then .x else .unused, b := if fn = 0x01 then .x else .unused,
    x := o.fld 8 6 = 0 && o.qmask = 0 && (fn = 0x01 || o.fld 28 1 = 0) && (fn = 0x05 || o.fld 29 3 = 0) && o.fld 32 8 = 0 }

/-- GRP (R305, R306). GRP.REGS without SW = 1 is a fault of the H field.
DEDUCED, unsafe: log 14. -/
def shapeGrp (fn : Nat) (o : Ops) : Shape :=
  { ty := o.ty.none0, d := if fn = 0x01 then .xv else if fn = 0x02 || fn = 0x04 then .x else .unused,
    a := if fn = 0x04 then .x else .unused, hOk := fn != 0x05 || o.h.sw,
    x := o.fld 8 6 = 0 && (fn = 0x01 || fn = 0x02 || o.scope = 0) && o.qmask = 0 &&
      (match fn with
       | 0x01 => decide (o.fld 22 2 ≤ 1) && o.fld 24 16 = 0
       | 0x02 => o.fld 24 16 = 0
       | 0x05 => decide (2 ≤ o.fld 22 5 ∧ o.fld 22 5 ≤ 16) && decide (o.fld 27 4 ≤ 8) && o.fld 31 9 = 0
       | _ => o.fld 22 18 = 0) }

/-- QUE (R281, R283). STAT with SEL other than 2 takes no B: a register there is a fault of SEL, in X (R450). -/
def shapeQue (fn : Nat) (o : Ops) : Shape :=
  let sel := o.fld 22 2
  { ty := o.ty.none0, d := if fn = 0x02 then .x else .unused, a := .x,
    b := if fn = 0x02 && sel != 2 && o.b = .x 0 then .unused else .x,
    x := o.fld 8 14 = 0 && (if fn = 0x02 then sel != 3 && (sel = 2 || o.b = .x 0) && o.fld 24 16 = 0 else o.fld 22 18 = 0) }

/-- CTX (R260, R262). -/
def shapeCtx (fn : Nat) (o : Ops) : Shape :=
  { ty := o.ty.none0, d := if fn = 0x02 then .x else .unused,
    x := o.fld 8 14 = 0 && (if fn = 0x01 then o.fld 38 2 = 0 else decide (o.fld 22 4 ≤ 7) && o.fld 26 14 = 0) }

/-- PG (R411). -/
def shapePg (o : Ops) : Shape := { ty := o.ty.none0, d := .x, a := .x, x := o.fld 8 32 = 0 }

/-- LNK (R433, R434). With SEL 3 and 4 its A is zero. -/
def shapeLnk (o : Ops) : Shape :=
  { ty := o.ty.none0, d := .x, a := if o.fld 22 4 = 3 || o.fld 22 4 = 4 then .unused else .x,
    x := o.fld 8 14 = 0 && decide (o.fld 22 4 ≤ 4) && o.fld 26 14 = 0 }

/-- What the function `fn` of class `maj` accepts.
DEDUCED, unsafe: log 14. -/
def shapeOf (maj fn : Nat) (o : Ops) : Shape :=
  match maj with
  | 0x01 => shapeInt fn o
  | 0x02 => shapeInti fn o
  | 0x03 => shapeCmp fn o
  | 0x04 => shapePrd fn o
  | 0x05 => shapeCtl fn o
  | 0x06 => shapeSys fn o
  | 0x07 => shapeFlt fn o
  | 0x08 => shapeLd fn o
  | 0x09 => shapeSt fn o
  | 0x0A => shapeAtm fn o
  | 0x0B => shapeFnc fn o
  | 0x0C => shapeCpy fn o
  | 0x10 => shapeVec fn o
  | 0x11 => shapeVcv fn o
  | 0x12 => shapeVsf o
  | 0x13 => shapeVpm fn o
  | 0x14 => shapeVls fn o
  | 0x15 => shapeVcmp fn o
  | 0x18 => shapeMxu fn o
  | 0x19 => shapeScl fn o
  | 0x1C => shapeCue fn o
  | 0x1D => shapeAcc fn o
  | 0x1E => shapeBar fn o
  | 0x1F => shapeGrp fn o
  | 0x20 => shapeQue fn o
  | 0x21 => shapeCtx fn o
  | 0x22 => shapePg o
  | _ => shapeLnk o

/-- A k guard is legal only in MAJ 0x10 to 0x15 (R76, R90). -/
def guardFits (maj : Nat) (g : Guard) : Bool := !g.isK || decide (0x10 ≤ maj ∧ maj ≤ 0x15)

/-- The C byte of an XA or XQ word names a register of the class its function gives it (R71). -/
def cFits (sh : Shape) (o : Ops) : Bool :=
  match sh.c with
  | none => true
  | some sl => (Reg.ofCode (o.x.extractLsb' 0 8)).isSome && sl.admits o.c && sh.cOk

/-- The first code whose check failed, in ascending order; 0 when every check passed (R450). -/
def firstCode : List (Nat × Bool) → Nat
  | [] => 0
  | (c, ok) :: rest => if ok then firstCode rest else c

/-- The FIELD code of R450 of the word with these fields, 0 when the word is an instruction (R84).
DEDUCED, unsafe: log 14. -/
def fieldFault (maj fn : Nat) (o : Ops) : Nat :=
  let sh := shapeOf maj fn o
  firstCode [(3, sh.ty), (4, sh.d.admits o.d && sh.dOk), (5, sh.a.admits o.a && sh.aOk), (6, sh.b.admits o.b && sh.bOk),
    (7, guardFits maj o.g), (8, sh.hOk), (9, cFits sh o), (10, sh.x)]

/-! ## Registers that a word names without a field (R114, R129) -/

/-- FRAME in bytes, NX, NV, RA and BASE (R127). -/
def frameBytes (o : Ops) : Nat := 64 * o.fld 0 12
def frameNx (o : Ops) : Nat := o.fld 12 4
def frameNv (o : Ops) : Nat := o.fld 16 5
def frameRa (o : Ops) : Bool := o.fld 21 1 = 1
def frameBase (o : Ops) : Nat := if o.fld 22 1 = 1 then 12 else 24

/-- The registers of a frame in the order of R129, each with its size in bytes. -/
def frameRegs (o : Ops) : List (Reg × Nat) :=
  ((List.range (frameNv o)).map (fun i => (Reg.v (BitVec.ofNat 6 (16 + i)), 64))) ++
  (if frameRa o then [(Reg.x 1, 8)] else []) ++
  ((List.range (frameNx o)).map (fun i => (Reg.x (BitVec.ofNat 7 (frameBase o + i)), 8)))

/-- The registers that ENTER and LEAVE read or write without naming them. -/
def frameExtra (o : Ops) : List Reg := .x 2 :: (frameRegs o).map Prod.fst

/-- The registers that a word reads or writes without naming them in a field (R114). -/
def impliedRegs (maj fn : Nat) (o : Ops) : List Reg :=
  if maj = 0x05 then
    (match fn with
     | 0x03 | 0x04 | 0x05 => [.x 1]
     | 0x08 | 0x09 => frameExtra o
     | _ => [])
  else []

end Sys2Proof
end

