-- ==== Sys2Proof/WellFormed.lean ====
section
/-! DEFINITION. Well-formed instructions: those whose word is an instruction under R84. -/

namespace Sys2Proof

/-- Every field holds a value that the instruction accepts (R69 to R78, R84). An event has no word and no field. -/
def WellFormed (i : Instr) : Bool :=
  match i.opcode with
  | some (maj, fn, o) => fieldFault maj fn o = 0
  | none => true

end Sys2Proof
end

