-- ==== Sys2Proof/Decode.lean ====
section
/-! DEFINITION. The decoder of the 96-bit word (R65), total on any word and naming the field at fault (R450), and the
encoder, which lays the same fields out. -/

namespace Sys2Proof

/-- The guard field G: INDEX in [2:0], CLS in [3], NEG in [4] (R76). -/
def Guard.ofBits (w : BitVec 5) : Guard := ⟨w.extractLsb' 0 3, w.getLsbD 3, w.getLsbD 4⟩
/-- The bits of a guard (R76). -/
def Guard.bits (g : Guard) : BitVec 5 := BitVec.ofBool g.neg ++ BitVec.ofBool g.isK ++ g.idx

/-- The hint field H: SW, KA, KB in [2:0]; [7:3] must be zero (R78). -/
def Hints.ofBits (w : BitVec 8) : Hints := ⟨w.getLsbD 0, w.getLsbD 1, w.getLsbD 2⟩
/-- The bits of the hints (R78). -/
def Hints.bits (h : Hints) : BitVec 8 := 0#5 ++ BitVec.ofBool h.kb ++ BitVec.ofBool h.ka ++ BitVec.ofBool h.sw

/-- The fields of a word (R65). A TY of 15 or an operand of 216 and above, which the checks refuse, reads as 0. -/
def fieldsOf (w : BitVec 96) : Ops :=
  { g := Guard.ofBits (w.extractLsb' 43 5), h := Hints.ofBits (w.extractLsb' 48 8),
    ty := (Ty.ofCode (w.extractLsb' 15 4).toNat).getD .i64,
    d := (Reg.ofCode (w.extractLsb' 19 8)).getD (.x 0),
    a := (Reg.ofCode (w.extractLsb' 27 8)).getD (.x 0),
    b := (Reg.ofCode (w.extractLsb' 35 8)).getD (.x 0),
    x := w.extractLsb' 56 40 }

/-- The FIELD code of the raw fields that name nothing at all: TY 15, an operand of 216 to 255, H[7:3] (R70, R74, R78). -/
def rawFault (w : BitVec 96) : List (Nat × Bool) :=
  [(3, (Ty.ofCode (w.extractLsb' 15 4).toNat).isSome), (4, (Reg.ofCode (w.extractLsb' 19 8)).isSome),
   (5, (Reg.ofCode (w.extractLsb' 27 8)).isSome), (6, (Reg.ofCode (w.extractLsb' 35 8)).isSome),
   (8, w.extractLsb' 51 5 = 0)]

/-- The lower of two FIELD codes, 0 standing for no fault (R450). -/
def lowerCode (a b : Nat) : Nat := if a = 0 then b else if b = 0 then a else min a b

/-- The decoder: the instruction, or the FIELD code of its ILLEGAL (R84, R86 step 1, R450). -/
def decode (w : BitVec 96) : Except Nat Instr :=
  let maj := (w.extractLsb' 0 7).toNat
  let fn := (w.extractLsb' 7 8).toNat
  if (classCtors maj).isEmpty then .error 1
  else
    let o := fieldsOf w
    match buildInstr maj fn o with
    | none => .error 2
    | some i =>
      let f := lowerCode (firstCode (rawFault w)) (fieldFault maj fn o)
      if f = 0 then .ok i else .error f

/-- The word with these fields (R65). -/
def encodeFields (maj fn : Nat) (o : Ops) : BitVec 96 :=
  o.x ++ o.h.bits ++ o.g.bits ++ o.b.code ++ o.a.code ++ o.d.code ++ o.ty.code ++ BitVec.ofNat 8 fn ++ BitVec.ofNat 7 maj

/-- The encoder: the word of an instruction; none for an event, which has no word. -/
def encode (i : Instr) : Option (BitVec 96) :=
  match i.opcode with
  | some (maj, fn, o) => some (encodeFields maj fn o)
  | none => none

/-- The bytes of an instruction as memory holds them: byte n is bits [8n+7:8n] (R65). -/
def wordBytes (w : BitVec 96) : List Byte := (List.range 12).map (fun n => w.extractLsb' (8 * n) 8)

/-- Twelve bytes read as an instruction word (R65). -/
def bytesWord (bs : List Byte) : BitVec 96 := bs.foldr (fun b acc => (acc <<< 8) ||| b.zeroExtend 96) 0

/-- The instruction read from an instruction whose bits are `w`, numbered as the opcode table numbers them: bits above
`nbits` are zero. Its three words are stored little-endian, first word lowest, which is bit order. -/
def decodeTableWord (nbits w : Nat) : Option Instr :=
  match decode (bytesWord (wordBytes (BitVec.ofNat 96 (w % 2 ^ nbits)))) with
  | .ok i => some i
  | .error _ => none

end Sys2Proof
end

