-- ==== Sys2Proof/Machine/Address.lean ====
section
/-! DEFINITION. The partition word (R103), address spaces and reachable regions (R168 to R170), and the numbers of a virtual
address (R398). -/

namespace Sys2Proof.Machine

/-! ## The partition word (R103) -/

/-- Bits [lo + w − 1 : lo] of a word, as a number. -/
def bitsAt (w : Word) (lo n : Nat) : Nat := (w.extractLsb' lo n).toNat

/-- Pool size in bytes (R21). -/
def poolSize : Nat := 393216

def partXn (w : Word) : Nat := bitsAt w 0 5
def partVn (w : Word) : Nat := bitsAt w 5 4
def partTpc (w : Word) : Nat := bitsAt w 9 2
def partScr (w : Word) : Nat := bitsAt w 11 9
def partAcc (w : Word) : Nat := bitsAt w 20 3
/-- THREADAREA of R103. -/
def threadArea (w : Word) : Nat := partXn w * 64 + partVn w * 512 + 1152
/-- TOTAL of R103. -/
def partTotal (w : Word) : Nat := (partTpc w + 1) * threadArea w + partScr w * 1024 + partAcc w * 65536
/-- The first byte of thread area `n`, where its cue window stands (R103, R321). -/
def areaOff (w : Word) (n : Nat) : Nat := partScr w * 1024 + n * threadArea w
/-- The first byte of accumulator slot `a` (R103). -/
def slotOff (a : Nat) : Nat := poolSize - 65536 * (a + 1)

/-- Whether `len` bytes from `off` lie in one reachable region (R170). -/
def reachable (w : Word) (off len : Nat) : Bool :=
  decide (off + len ≤ partScr w * 1024) ||
  (List.range (partTpc w + 1)).any (fun n => decide (areaOff w n ≤ off ∧ off + len ≤ areaOff w n + 96))

/-! ## Address spaces (R168, R169) -/

/-- The spaces of R168. -/
inductive Space where
  | virt | own | any | none
  deriving DecidableEq, Repr

/-- The space of an address. -/
def spaceOf (a : Word) : Space :=
  match bitsAt a 60 4 with
  | 0x0 | 0xF => .virt
  | 0xD => .own
  | 0xE => .any
  | _ => .none

/-- Bits [63:53] all equal bit 52 (R168). -/
def canonicalVa (a : Word) : Bool := bitsAt a 52 12 = 0 || bitsAt a 52 12 = 0xFFF

/-- OFFSET of a pool address (R169). -/
def poolOff (a : Word) : Nat := bitsAt a 0 19

/-- The core that a space 0xE address names (R169). -/
def anyCore (a : Word) : Nat :=
  ((bitsAt a 58 2 * 320 + bitsAt a 54 4 * 20 + bitsAt a 49 5) * 8 + bitsAt a 46 3)

/-- The form of a pool address (R169, R170). -/
def poolForm (a : Word) : Bool :=
  match spaceOf a with
  | .own => bitsAt a 19 41 = 0 && decide (poolOff a < poolSize)
  | .any => bitsAt a 19 27 = 0 && decide (bitsAt a 49 5 < 20) && decide (poolOff a < poolSize)
  | _ => false

/-- VA[52:0]. -/
def vaOf (a : Word) : Nat := bitsAt a 0 53
/-- VA[52:13], the number of the 8 KiB region. -/
def regionOf (a : Word) : Nat := bitsAt a 13 40

end Sys2Proof.Machine
end

