-- ==== Sys2Proof/Machine/Float.lean ====
section
/-! DEFINITION. Number formats and arithmetic (R39 to R64): a floating value is a special, a zero or a dyadic rational,
every operation is exact on it, and ROUND brings the result into a format once. -/

namespace Sys2Proof

/-- A floating value. `fin neg m e sticky` is ±m × 2^e, or, with `sticky`, a value strictly between that and
±(m + 1) × 2^e: what is left of a quotient or a root after 70 bits. -/
inductive FVal where
  | nan
  | inf (neg : Bool)
  | zero (neg : Bool)
  | fin (neg : Bool) (m : Nat) (e : Int) (sticky : Bool)
  deriving DecidableEq, Repr

/-- Flag bits of FPFLAGS (R54). -/
def flagNV : Nat := 1
def flagDZ : Nat := 2
def flagOF : Nat := 4
def flagUF : Nat := 8
def flagNX : Nat := 16
def flagSAT : Nat := 32

/-- Bitwise OR of flags. -/
def orF (a b : Nat) : Nat := a ||| b

/-- The flag when a condition holds. -/
def flagIf (c : Bool) (f : Nat) : Nat := if c then f else 0

/-! ## Formats (R39 to R43) -/

/-- Mantissa bits of a format: MBITS (R43). -/
def Ty.mbits : Ty → Nat
  | .f32 => 23 | .f16 => 10 | .bf16 => 7 | .e4m3 => 3 | .e5m2 => 2 | .e2m1 => 1 | _ => 0

/-- emin of a format: EMIN (R43). The bias is 1 − EMIN. -/
def Ty.emin : Ty → Int
  | .f32 => -126 | .f16 => -14 | .bf16 => -126 | .e4m3 => -6 | .e5m2 => -14 | .e2m1 => 0 | _ => 0

/-- The code of the largest finite magnitude: MAXF (R43). -/
def Ty.maxCode : Ty → Nat
  | .f32 => 0x7F7FFFFF | .f16 => 0x7BFF | .bf16 => 0x7F7F | .e4m3 => 0x7E | .e5m2 => 0x7B | .e2m1 => 7 | _ => 0

/-- The code of +∞, where the format has one (R43). -/
def Ty.infCode : Ty → Nat
  | .f32 => 0x7F800000 | .f16 => 0x7C00 | .bf16 => 0x7F80 | .e5m2 => 0x7C | _ => 0

/-- The canonical NaN (R43). E2M1 has none and takes +0 (R50). -/
def Ty.nanCode : Ty → Nat
  | .f32 => 0x7FC00000 | .f16 => 0x7E00 | .bf16 => 0x7FC0 | .e4m3 => 0x7F | .e5m2 => 0x7E | .e8m0 => 0xFF | _ => 0

/-- The sign bit's place. -/
def Ty.signBit (t : Ty) : Nat := 2 ^ (t.width - 1)

/-- A code with a sign. -/
def withSign (t : Ty) (neg : Bool) (code : Nat) : Nat := if neg then t.signBit + code else code

/-- The value of an encoding of a floating format (R39 to R42). E8M0 has no sign and no zero. -/
def decodeF (t : Ty) (bits : Nat) : FVal :=
  if t = .e8m0 then
    (if bits % 256 = 255 then .nan else .fin false 1 ((bits % 256 : Nat) - 127 : Int) false)
  else
    let neg := decide (t.signBit ≤ bits % 2 ^ t.width)
    let mag := bits % t.signBit
    let m := mag % 2 ^ t.mbits
    let e := mag / 2 ^ t.mbits
    let special := t.infCode ≠ 0 && decide (t.infCode ≤ mag)
    if t = .e4m3 && mag = 0x7F then .nan
    else if special then (if mag = t.infCode then .inf neg else .nan)
    else if mag = 0 then .zero neg
    else if e = 0 then .fin neg m (t.emin - t.mbits) false
    else .fin neg (m + 2 ^ t.mbits) (t.emin - t.mbits + (e - 1 : Nat)) false

/-! ## Rounding (R46 to R50) -/

/-- m × 2^sh, or a little more with `sticky`, rounded to an integer in a mode (R47: 0 RNE, 1 RZ, 2 RU, 3 RD, 4 SR with
the 16 bits `g`): the magnitude and whether it is inexact. -/
def roundMag (mode : Nat) (neg : Bool) (g m : Nat) (sticky : Bool) (sh : Int) : Nat × Bool :=
  if 0 ≤ sh then (m * 2 ^ sh.toNat, sticky)
  else
    let k := (-sh).toNat
    let n := m / 2 ^ k
    let rem := m % 2 ^ k
    let half := 2 ^ (k - 1)
    let inexact := rem != 0 || sticky
    let up :=
      match mode with
      | 0 => decide (half < rem) || (rem = half && (sticky || n % 2 = 1))
      | 1 => false
      | 2 => inexact && !neg
      | 3 => inexact && neg
      | _ => decide (65536 * 2 ^ k ≤ rem * 65536 + g * 2 ^ k)
    (if up then n + 1 else n, inexact)

/-- OVERFLOW of R49: the magnitude past MAXF of a result, and the SAT flag.
DESIGN CHOICE, unsafe: log 18. -/
def overflowF (t : Ty) (mode : Nat) (sat neg : Bool) : Nat × Nat :=
  if t = .e2m1 then (withSign t neg t.maxCode, flagSAT)
  else if sat then (withSign t neg t.maxCode, flagSAT)
  else if t = .e4m3 then (t.nanCode, 0)
  else if t = .e5m2 then (withSign t neg t.infCode, 0)
  else
    let toInf := match mode with
      | 1 => false
      | 2 => !neg
      | 3 => neg
      | _ => true
    (withSign t neg (if toInf then t.infCode else t.maxCode), 0)

/-- ROUND of R46 into a floating format, with the conversions of specials of R50: bits and flags. `clampInf` says that
SAT applies to an infinite value too, as the conversions of R50 have it.
DESIGN CHOICE, unsafe: log 18. -/
def roundF (t : Ty) (mode : Nat) (sat clampInf : Bool) (g : Nat) : FVal → Nat × Nat
  | .nan => if t = .e2m1 then (0, flagNV) else (t.nanCode, 0)
  | .inf neg =>
    if t = .e2m1 || (sat && clampInf) then (withSign t neg t.maxCode, flagSAT)
    else if t = .e4m3 then (t.nanCode, 0)
    else (withSign t neg t.infCode, 0)
  | .zero neg => (withSign t neg 0, 0)
  | .fin neg m e sticky =>
    let l : Int := (Nat.log2 m : Int) + e
    let ee := max l t.emin
    let qe := ee - t.mbits
    let (n, inexact) := roundMag mode neg g m sticky (e - qe)
    let code : Int := (ee - t.emin + 1) * (2 ^ t.mbits : Nat) + (n : Int) - (2 ^ t.mbits : Nat)
    let uf := flagIf (decide (l < t.emin) && inexact) flagUF
    if (t.maxCode : Int) < code then
      let (bits, f) := overflowF t mode sat neg
      (bits, orF (orF f uf) (orF flagOF flagNX))
    else (withSign t neg code.toNat, orF uf (flagIf inexact flagNX))

/-- RNE_F32 of an exact value: bits and flags. -/
def rneF32 (v : FVal) : Nat × Nat := roundF .f32 0 false false 0 v

/-- A value rounded to an integer in a mode, and whether it was inexact; none for NaN and the infinities. -/
def roundInt (mode : Nat) : FVal → Option (Int × Bool)
  | .nan | .inf _ => none
  | .zero _ => some (0, false)
  | .fin neg m e sticky =>
    let (n, ix) := roundMag mode neg 0 m sticky e
    some (if neg then -(n : Int) else (n : Int), ix)

/-- The next state of the generator: XS_NEXT of R48. -/
def xsNext (x : BitVec 32) : BitVec 32 :=
  let x := x ^^^ (x <<< 13)
  let x := x ^^^ (x >>> 17)
  x ^^^ (x <<< 5)

/-! ## Exact operations (R51) -/

/-- The negation of a value. -/
def FVal.neg : FVal → FVal
  | .nan => .nan
  | .inf n => .inf (!n)
  | .zero n => .zero (!n)
  | .fin n m e s => .fin (!n) m e s

/-- The magnitude of a value. -/
def FVal.abs : FVal → FVal
  | .nan => .nan
  | .inf _ => .inf false
  | .zero _ => .zero false
  | .fin _ m e s => .fin false m e s

/-- Whether a value is NaN. -/
def FVal.isNan : FVal → Bool
  | .nan => true
  | _ => false

/-- A signed integer times a power of two; a zero takes the sign `zneg`. -/
def FVal.ofScaled (v : Int) (e : Int) (zneg : Bool) : FVal :=
  if v = 0 then .zero zneg else .fin (decide (v < 0)) v.natAbs e false

/-- An integer as a value. -/
def FVal.ofInt (v : Int) : FVal := FVal.ofScaled v 0 false

/-- The signed mantissa of a finite part. -/
def signedM (neg : Bool) (m : Nat) : Int := if neg then -(m : Int) else (m : Int)

/-- The exact sum of two values (R51): `rd` is rounding towards −∞, which decides the sign of an exact zero. -/
def FVal.add (rd : Bool) (a b : FVal) : FVal × Nat :=
  match a, b with
  | .nan, _ | _, .nan => (.nan, 0)
  | .inf n, .inf n' => if n = n' then (.inf n, 0) else (.nan, flagNV)
  | .inf n, _ => (.inf n, 0)
  | _, .inf n => (.inf n, 0)
  | .zero n, .zero n' => (.zero (if n = n' then n else rd), 0)
  | .zero _, .fin n m e s => (.fin n m e s, 0)
  | .fin n m e s, .zero _ => (.fin n m e s, 0)
  | .fin n m e _, .fin n' m' e' _ =>
    let lo := min e e'
    let x := signedM n m * (2 ^ (e - lo).toNat : Nat) + signedM n' m' * (2 ^ (e' - lo).toNat : Nat)
    (FVal.ofScaled x lo rd, 0)

/-- The exact product (R51). -/
def FVal.mul (a b : FVal) : FVal × Nat :=
  match a, b with
  | .nan, _ | _, .nan => (.nan, 0)
  | .inf _, .zero _ | .zero _, .inf _ => (.nan, flagNV)
  | .inf n, .inf n' => (.inf (n != n'), 0)
  | .inf n, .fin n' _ _ _ | .fin n' _ _ _, .inf n => (.inf (n != n'), 0)
  | .zero n, .zero n' => (.zero (n != n'), 0)
  | .zero n, .fin n' _ _ _ | .fin n' _ _ _, .zero n => (.zero (n != n'), 0)
  | .fin n m e _, .fin n' m' e' _ => (.fin (n != n') (m * m') (e + e') false, 0)

/-- The quotient (R51), to 70 bits with a sticky rest. -/
def FVal.div (a b : FVal) : FVal × Nat :=
  match a, b with
  | .nan, _ | _, .nan => (.nan, 0)
  | .inf _, .inf _ | .zero _, .zero _ => (.nan, flagNV)
  | .inf n, .zero n' => (.inf (n != n'), 0)
  | .inf n, .fin n' _ _ _ => (.inf (n != n'), 0)
  | .zero n, .inf n' | .fin n _ _ _, .inf n' => (.zero (n != n'), 0)
  | .zero n, .fin n' _ _ _ => (.zero (n != n'), 0)
  | .fin n _ _ _, .zero n' => (.inf (n != n'), flagDZ)
  | .fin n m e _, .fin n' m' e' _ =>
    let k := 71 + Nat.log2 m'
    (.fin (n != n') (m * 2 ^ k / m') (e - e' - k) (m * 2 ^ k % m' != 0), 0)

/-- The integer square root, bit by bit from bit `i` − 1 down. -/
def isqrtFrom (n : Nat) : Nat → Nat → Nat
  | 0, r => r
  | i + 1, r => if (r + 2 ^ i) * (r + 2 ^ i) ≤ n then isqrtFrom n i (r + 2 ^ i) else isqrtFrom n i r

/-- The greatest integer whose square is at most `n`. -/
def isqrt (n : Nat) : Nat := isqrtFrom n (Nat.log2 n / 2 + 1) 0

/-- The square root (R51), to 70 bits with a sticky rest. -/
def FVal.sqrt : FVal → FVal × Nat
  | .nan => (.nan, 0)
  | .zero n => (.zero n, 0)
  | .inf n => if n then (.nan, flagNV) else (.inf false, 0)
  | .fin n m e _ =>
    if n then (.nan, flagNV)
    else
      let k : Nat := 142 + (if e % 2 = 0 then 0 else 1)
      let w := m * 2 ^ k
      let r := isqrt w
      (.fin false r ((e - k) / 2) (r * r != w), 0)

/-- The order of two values (R53), none when either is NaN. −0 and +0 are equal. -/
def FVal.cmp (a b : FVal) : Option Ordering :=
  match a, b with
  | .nan, _ | _, .nan => none
  | .inf n, .inf n' => some (if n = n' then .eq else if n then .lt else .gt)
  | .inf n, _ => some (if n then .lt else .gt)
  | _, .inf n => some (if n then .gt else .lt)
  | .zero _, .zero _ => some .eq
  | .zero _, .fin n _ _ _ => some (if n then .gt else .lt)
  | .fin n _ _ _, .zero _ => some (if n then .lt else .gt)
  | .fin n m e _, .fin n' m' e' _ =>
    let lo := min e e'
    let x := signedM n m * (2 ^ (e - lo).toNat : Nat)
    let y := signedM n' m' * (2 ^ (e' - lo).toNat : Nat)
    some (if x < y then .lt else if x = y then .eq else .gt)

/-- Whether the value carries a minus sign. -/
def FVal.isNeg : FVal → Bool
  | .nan => false
  | .inf n | .zero n | .fin n _ _ _ => n

/-- MIN and MAX of R52: −0 lies below +0, and a NaN gives way to the other operand. -/
def FVal.minMax (isMax : Bool) (a b : FVal) : FVal :=
  match a, b with
  | .nan, b => b
  | a, .nan => a
  | a, b =>
    let aLess := match a.cmp b with
      | some .lt => true
      | some .eq => a.isNeg && !b.isNeg
      | _ => false
    if aLess != isMax then a else b

/-- A comparison by its function number, 1 EQ to 7 UNORD (R53, R119). -/
def FVal.compare (fn : Nat) (a b : FVal) : Bool :=
  match a.cmp b with
  | none => fn = 2 || fn = 7
  | some o => match fn with
    | 1 => o = .eq
    | 2 => o ≠ .eq
    | 3 => o = .lt
    | 4 => o ≠ .gt
    | 5 => o = .gt
    | 6 => o ≠ .lt
    | _ => false

/-! ## Conversions (R44, R50) -/

/-- SATI_n and SATN_n (R44): the clamped value and whether it was clamped. -/
def satInt (signed : Bool) (n : Nat) (v : Int) : Int × Bool :=
  let lo : Int := if signed then -(2 ^ (n - 1) : Nat) else 0
  let hi : Int := if signed then (2 ^ (n - 1) : Nat) - 1 else (2 ^ n : Nat) - 1
  if v < lo then (lo, true) else if hi < v then (hi, true) else (v, false)

/-- A float converted to an integer type (R50): value and flags. -/
def floatToInt (ty : Ty) (mode : Nat) (v : FVal) : Int × Nat :=
  match v with
  | .nan => (0, flagNV)
  | .inf n => ((satInt ty.isSigned ty.width (if n then -(2 ^ 200 : Nat) else (2 ^ 200 : Nat))).1, orF flagNV flagSAT)
  | v =>
    match roundInt mode v with
    | none => (0, flagNV)
    | some (x, ix) =>
      let (y, clamped) := satInt ty.isSigned ty.width x
      (y, orF (flagIf ix flagNX) (flagIf clamped (orF flagNV flagSAT)))

/-- floor(log2 |v|) of a finite non-zero value, and whether |v| is that power of two. -/
def FVal.log2 : FVal → Option (Int × Bool)
  | .fin _ m e s => some ((Nat.log2 m : Int) + e, m = 2 ^ Nat.log2 m && !s)
  | _ => none

/-- A float converted to E8M0 (R50): code and flags. -/
def floatToE8m0 (v : FVal) : Nat × Nat :=
  match v with
  | .zero _ => (0, 0)
  | .nan | .inf _ => (0xFF, flagNV)
  | v =>
    match v.log2 with
    | none => (0, 0)
    | some (l, exact) =>
      let c := max 0 (min 254 (l + 127))
      (c.toNat, flagIf (!(exact && c = l + 127)) flagNX)

/-! ## Special functions (R61 to R64) -/

/-- T[j] = 2^(j/16) of R62. -/
def tableT : List Nat :=
  [0x3F800000, 0x3F85AAC3, 0x3F8B95C2, 0x3F91C3D3, 0x3F9837F0, 0x3F9EF532, 0x3FA5FED7, 0x3FAD583F,
   0x3FB504F3, 0x3FBD08A4, 0x3FC5672A, 0x3FCE248C, 0x3FD744FD, 0x3FE0CCDF, 0x3FEAC0C7, 0x3FF5257D]

/-- T[j] as a value. -/
def valT (j : Nat) : FVal := decodeF .f32 (tableT.getD j 0)

def coefC1 : FVal := decodeF .f32 0x3F317218
def coefC2 : FVal := decodeF .f32 0x3E75FDF0
def coefC3 : FVal := decodeF .f32 0x3D635847
def coefD1 : FVal := decodeF .f32 0x4038AA3B
def coefD3 : FVal := decodeF .f32 0x3F76384F

/-- RNE_F32 as a value, without its flags. -/
def rneV (v : FVal) : FVal := decodeF .f32 (rneF32 v).1

/-- A value times 2^k. -/
def FVal.scale (k : Int) : FVal → FVal
  | .fin n m e s => .fin n m (e + k) s
  | v => v

def addV (a b : FVal) : FVal := (a.add false b).1
def mulV (a b : FVal) : FVal := (a.mul b).1
def divV (a b : FVal) : FVal := (a.div b).1

/-- EXP2 of R63 and the table of R61, before its one rounding into the destination. -/
def exp2V (x : FVal) : FVal × Nat :=
  match x with
  | .nan => (.nan, 0)
  | .zero _ => (.fin false 1 0 false, 0)
  | .inf n => (if n then .zero false else .inf false, 0)
  | x =>
    if x.cmp (FVal.ofInt 128) != some .lt then (.inf false, orF flagOF flagNX)
    else if x.cmp (FVal.ofInt (-150)) = some .lt then (.zero false, orF flagUF flagNX)
    else
      let t := x.scale 4
      let i := ((roundInt 0 t).getD (0, false)).1
      let f := rneV (addV t (FVal.ofInt (-i)))
      let w := f.scale (-4)
      let k := i / 16
      let j := (i - 16 * k).toNat
      let p := rneV (mulV coefC3 w)
      let p := rneV (addV p coefC2)
      let p := rneV (mulV p w)
      let p := rneV (addV p coefC1)
      let p := rneV (mulV p w)
      let p := rneV (addV p (FVal.ofInt 1))
      ((mulV (valT j) p).scale k, 0)

/-- The greatest j with T[j] ≤ m (R64). -/
def greatestT (m : FVal) : Nat :=
  (List.range 16).foldl (fun acc j => if (valT j).cmp m != some .gt then j else acc) 0

/-- LOG2 of R64 and the table of R61, before its one rounding. -/
def log2V (x : FVal) : FVal × Nat :=
  match x with
  | .nan => (.nan, 0)
  | .zero _ => (.inf true, flagDZ)
  | .inf n => if n then (.nan, flagNV) else (.inf false, 0)
  | .fin true _ _ _ => (.nan, flagNV)
  | .fin false mm ee _ =>
    let l := Nat.log2 mm
    let m0 : FVal := .fin false mm (-(l : Int)) false
    let big := m0.cmp (decodeF .f32 0x3FF80000) != some .lt
    let m := if big then m0.scale (-1) else m0
    let e : Int := (l : Int) + ee + (if big then 1 else 0)
    let j := if big then 0 else greatestT m
    let a := rneV (addV m (valT j).neg)
    let b := rneV (addV m (valT j))
    let s := rneV (divV a b)
    let q := rneV (mulV s s)
    let q := rneV (mulV q coefD3)
    let q := rneV (addV q coefD1)
    let p := rneV (mulV q s)
    (addV (FVal.ofScaled (16 * e + j) (-4) false) p, 0)

/-! ## EXACT (R45, R59) -/

/-- TO_EXACT of a finite value: the 128-bit word and the RANGE (bit 6) and NX flags. -/
def toExact (w : Int) (v : FVal) : BitVec 128 × Nat :=
  match roundInt 0 (v.scale (100 - w)) with
  | none => (0, 0)
  | some (n, ix) =>
    (BitVec.ofInt 128 n, orF (flagIf (decide (2 ^ 127 ≤ n.natAbs)) 64) (flagIf ix flagNX))

/-- FROM_EXACT: FP32 bits and flags. -/
def fromExact (w : Int) (n : BitVec 128) : Nat × Nat :=
  let (bits, f) := rneF32 (FVal.ofScaled n.toInt (w - 100) false)
  (bits, orF f (flagIf (n = BitVec.ofInt 128 (-(2 ^ 127))) 64))

end Sys2Proof
end

