-- ==== Sys2Proof/Config.lean ====
section
/-! DEFINITION. What the spec leaves to the implementation or does not fix: free values without a body. -/

namespace Sys2Proof.Config

/-- The SM3 digest of a byte string. The spec names SM3 (R110, R254, R438, R447) and does not lay it down.
DESIGN CHOICE, safe: log 5. -/
opaque sm3 : List Byte → BitVec 256

/-- The SM2 signature of a 256-bit digest made by the package's attestation key (R447): never leaves the crypto block.
DESIGN CHOICE, safe: log 5. -/
opaque sm2Sign : BitVec 256 → BitVec 512

/-- Whether a 512-bit SM2 signature of a digest verifies against the key with the given SM3 hash (R110, R112, R438).
DESIGN CHOICE, safe: log 5. -/
opaque sm2Verify : (keyHash digest : BitVec 256) → BitVec 512 → Bool

/-- SM3 digests of the package (R438, R447): 2 the house kernel as it runs, 3 the fused key hash.
DESIGN CHOICE, safe: log 5. -/
opaque measurement : Nat → BitVec 256

/-- The SM3 digest of the route and time configuration (R447), whose byte form the spec does not lay down.
DESIGN CHOICE, safe: log 5. -/
opaque configDigest : (routes : List (Nat × Option Nat)) → (timeRoot : Nat) → (parent : Option Nat) → BitVec 256

/-- The n-th free bit: of two outcomes a rule allows, which one comes about (R189).
DESIGN CHOICE, safe: log 6. -/
opaque freeBit : Nat → Bool

/-- The n-th free word: a value to which the spec gives a place and no number.
DESIGN CHOICE, safe: log 6. -/
opaque freeWord : Nat → Word

/-- The power in W that a set of FLOCK contexts needs (R246, R449), by the MXOWN, DROWN and VCMASK of each, one at least.
DESIGN CHOICE, safe: log 93. -/
opaque lockedWatts : List (Nat × Nat × Nat) → Nat

/-- Whether the house kernel, while capping is active, leaves a unit idle in a cycle (R449): 0 a matrix unit, 1 a DRAM channel, 2 a VC of a
port, by its number.
DESIGN CHOICE, safe: log 93. -/
opaque powerIdle : (kind unit clock : Nat) → Bool

end Sys2Proof.Config
end

