-- ==== Sys2Proof/Machine/Sparse.lean ====
section
/-! DEFINITION. Reading and writing a sparse map in its one canonical form: strictly rising keys, no entry equal to the
map's default. Equal contents are equal lists. -/

namespace Sys2Proof

/-- The value at key `k`, `d` where the map lists none. -/
def lookAt {α : Type} (d : α) : SMap α → Nat → α
  | [], _ => d
  | (j, a) :: m, k => if j = k then a else lookAt d m k

/-- The map without key `k`. -/
def dropKey {α : Type} : SMap α → Nat → SMap α
  | [], _ => []
  | (j, a) :: m, k => if j = k then dropKey m k else (j, a) :: dropKey m k

/-- The map with `a` at a key that it does not list, in its place by the order of the keys. -/
def insertKey {α : Type} : SMap α → Nat → α → SMap α
  | [], k, a => [(k, a)]
  | (j, b) :: m, k, a => if k < j then (k, a) :: (j, b) :: m else (j, b) :: insertKey m k a

/-- The map with `a` at key `k`: writing the default removes the entry. -/
def putAt {α : Type} [DecidableEq α] (d : α) (m : SMap α) (k : Nat) (a : α) : SMap α :=
  if a = d then dropKey m k else insertKey (dropKey m k) k a

/-- A map with every entry changed; `f` leaves the map's default alone and never yields it. -/
def mapVals {α : Type} (f : α → α) (m : SMap α) : SMap α := m.map (fun p => (p.1, f p.2))

/-- Whether every key of the map is above `k`. -/
def keysAbove {α : Type} (k : Nat) : SMap α → Bool
  | [] => true
  | (j, _) :: _ => decide (k < j)

/-- The canonical form. -/
def canonical {α : Type} [DecidableEq α] (d : α) : SMap α → Bool
  | [] => true
  | (j, a) :: m => decide (a ≠ d) && keysAbove j m && canonical d m

/-- The canonical form of a memory, whose unlisted bytes read as zero. -/
def Memory.wf (m : Memory) : Bool := canonical (0 : Byte) m

/-- One byte of a memory.
DESIGN CHOICE, unsafe: log 2. -/
def Memory.byte (m : Memory) (a : Nat) : Byte := lookAt 0 m a

/-- One byte of a memory written. -/
def Memory.setByte (m : Memory) (a : Nat) (b : Byte) : Memory := putAt 0 m a b

/-- `n` bytes from address `a` upwards. -/
def Memory.read (m : Memory) (a : Nat) : Nat → List Byte
  | 0 => []
  | n + 1 => m.byte a :: Memory.read m (a + 1) n

/-- The bytes written from address `a` upwards. -/
def Memory.write (m : Memory) (a : Nat) : List Byte → Memory
  | [] => m
  | b :: bs => Memory.write (m.setByte a b) (a + 1) bs

/-- A little-endian number (R6). -/
def leNat : List Byte → Nat
  | [] => 0
  | b :: bs => b.toNat + 256 * leNat bs

/-- The `n` bytes of a number, least significant first (R6). -/
def leBytes : Nat → Nat → List Byte
  | 0, _ => []
  | n + 1, v => BitVec.ofNat 8 v :: leBytes n (v / 256)

end Sys2Proof
end

