-- ==== Sys2Proof/Machine/State.lean ====
section
/-! DEFINITION. The state of one package as plain data, and its reset value. Units are held in sparse maps: a tile by
its package tile number (die × 320 + tile), a core by package tile × 8 + core, a thread by core × 4 + slot. -/

namespace Sys2Proof.Machine

/-! ## Threads (R311) -/

/-- The states of a thread (R311); `vacant` is a slot without a thread. -/
inductive Status where
  | vacant | running | parked | blocked | stalled | asleep | paused | faulted | retired | killed
  deriving DecidableEq, Repr

/-- What a faulted thing was, for IGNORE and RETRY (R173, R194, R216, R316). -/
inductive FaultSrc where
  /-- the instruction at the PC itself -/
  | own
  /-- a part of an access in flight -/
  | access (acc part : Nat)
  /-- the running command of a copy queue -/
  | copy (core q : Nat)
  /-- the command at the head of a matrix queue -/
  | matrix (core : Nat)
  /-- a late cue -/
  | cue (id : Nat)
  /-- an entry of a chain table -/
  | chain (tile entry : Nat)
  /-- a barrier object: whether this is the second expiry in its phase -/
  | barrier (again : Bool)
  /-- a clock estimate -/
  | clock
  deriving DecidableEq, Repr

/-- A raised fault, before it is delivered (R85, R134). -/
structure Raised where
  code  : FaultCode
  field : Nat
  data  : Word
  pc    : Word
  src   : FaultSrc
  deriving DecidableEq, Repr

/-- What a parked, blocked or stalled thread waits for (R311, R312). -/
inductive Wait where
  /-- every variable-latency result written (R79) -/
  | results
  /-- DRAIN at a level with a queue mask (R184) -/
  | drain (scope qmask : Nat)
  /-- CPY.WAIT (R192) -/
  | copies (qmask : Nat)
  /-- MXU.WAIT: the commands that stood in the queue when it came to its place (R207) -/
  | matrix (ids : List Nat)
  /-- GRP.EXIT (R310) -/
  | engines
  /-- QUE.WAIT (R284) -/
  | queue (q : Nat) (seq : Word)
  /-- BAR.WAIT and SYNC (R383) -/
  | barrier (level obj : Nat)
  /-- a free entry of a barrier table (R378) -/
  | barRoom (level obj : Nat)
  /-- room in copy queues, and in the cue store where a completion cue is asked for (R188, R191) -/
  | copyRoom (qmask : Nat) (cue : Bool)
  /-- room in the matrix queue (R207) -/
  | matrixRoom
  /-- room in the special-function queue (R151) -/
  | sfuRoom
  /-- one of eight consuming loads back (R81) -/
  | consumeRoom
  /-- room for a pushed packet (R282) -/
  | pushRoom (q : Nat)
  /-- CTX.YIELD done: waits for the pause (R261) -/
  | yield
  deriving DecidableEq, Repr

/-- A thread's own entry for one barrier (R380). -/
structure Member where
  level   : Nat
  obj     : Nat
  sense   : Bool
  arrived : Bool
  dropped : Bool
  status  : Word
  done    : Bool
  /-- the instruction that arrived -/
  pc      : Word
  deriving DecidableEq, Repr

/-- A hardware thread: registers, special registers and state. -/
structure Thread where
  status   : Status
  /-- the state a pause found (R311) -/
  prior    : Status
  /-- the state a fault found, to which IGNORE and RETRY return (R312) -/
  before   : Status
  launch   : LaunchId
  gidx     : Nat
  /-- the register allotment (R72) -/
  xn       : Nat
  vn       : Nat
  x        : SMap Word
  v        : SMap VWord
  p        : BitVec 8
  k        : SMap (BitVec 16)
  s        : SMap SWord
  /-- pending bits: x 0–127, v 128–191, p 192–199, s 200–207 (R80, R255) -/
  pend     : BitVec 256
  pc       : Word
  fpflags  : Word
  rndmode  : Word
  srstate  : Word
  stacklim : Word
  /-- FAULTINFO words 0 to 3 (R134) -/
  finfo    : SMap Word
  /-- PERF counters 0 to 4 (R136) -/
  perf     : SMap Word
  cycle    : Word
  /-- remaining budget; none is unlimited (R315) -/
  budget   : Option Nat
  /-- the current handler: tag, port (R320) -/
  tagT     : Word
  tagM     : BitVec 16
  port     : BitVec 8
  /-- inside a handler -/
  inHandler : Bool
  /-- base tag (R327) -/
  baseT    : Word
  baseM    : BitVec 16
  baseOver : Bool
  /-- tag of the last handler started, or the launch tag before (R325, R326) -/
  lastT    : Word
  lastM    : BitVec 16
  launched : Bool
  postCtr  : BitVec 32
  wait     : Option Wait
  raised   : Option Raised
  /-- faults reported from away, not yet raised (R173, R318). DEDUCED, unsafe: log 28. -/
  reports  : List Raised
  /-- what is replayed after RETRY while the house kernel has yet to act: the thread is still faulted (R311) -/
  retrying : Option FaultSrc
  /-- accesses whose result is outstanding and whose instruction was withdrawn or cancelled, re-issued first (R81, R315) -/
  reissue  : List Nat
  members  : List Member
  /-- a barrier on another package whose entry has been asked for, by level and object, and whether it is taken (R378) -/
  barAsk   : Option (Nat × Nat × Bool)
  /-- barrier and fence ordering: accesses that later loads, and later writes and commands, wait for (R183, R233) -/
  fenceAll : List Nat
  fenceWr  : List Nat
  /-- items 0 to 4 of CUE.INFO as they stood at the end of the previous cycle (R343) -/
  seen     : SMap Word
  /-- issue selection (R313) -/
  count    : Nat
  lastIssue : Option Nat
  /-- the first cycle in which it may issue after a taken transfer (R126, R313) -/
  gap      : Nat
  /-- a fetch that waits for the house kernel: address, and whether the walk failed on a permission (R407) -/
  fetchHold : Option (Word × Bool)
  /-- a refused fetch: address and fault (R173, R407) -/
  fetchBad  : Option (Word × FaultCode)
  /-- whether the fetch has been replayed after a LINK (R316) -/
  fetchAgain : Bool
  /-- the gang has left: the thread keeps what it held until another takes its slot (R298, R311) -/
  gone      : Bool
  /-- instruction bytes on the way from, or come from, another package's DRAM (R402): operation numbers, four-byte pieces -/
  fetchOps  : List (BitVec 32 × Word)
  fetchBuf  : List (Word × List Byte)
  deriving DecidableEq, Repr

/-- A slot without a thread. Its registers are zero: they lie in the pool, which is zero (R103, R440).
DESIGN CHOICE, unsafe: log 3. -/
def Thread.vacant : Thread :=
  { status := .vacant, prior := .vacant, before := .vacant, launch := ⟨0, 0, 0⟩, gidx := 0, xn := 0, vn := 0, x := [], v := [], p := 1,
    k := [], s := [], pend := 0, pc := 0, fpflags := 0, rndmode := 0, srstate := 0, stacklim := 0, finfo := [],
    perf := [], cycle := 0, budget := none, tagT := 0, tagM := 0, port := 0, inHandler := false, baseT := 0, baseM := 0,
    baseOver := false, lastT := 0, lastM := 0, launched := false, postCtr := 0, wait := none, raised := none,
    reports := [], retrying := none, reissue := [], members := [], barAsk := none, fenceAll := [], fenceWr := [], seen := [], count := 0, lastIssue := none, gap := 0,
    fetchHold := none, fetchBad := none, fetchAgain := false, gone := false, fetchOps := [], fetchBuf := [] }

/-! ## Accesses in flight (R173 to R181, R404) -/

/-- The one place where a byte is performed (R228). -/
inductive Loc where
  | pool (core off : Nat)
  | dram (pa : Nat)
  | remote (pkg pa : Nat)
  | host (pa : Nat)
  deriving DecidableEq, Repr

/-- Where a part of an access stands. -/
inductive Stage where
  /-- at the core's memory port -/
  | port
  /-- at its home station, walked by a walker -/
  | walking
  /-- in the station queue, no walker free -/
  | queued
  /-- held while the house kernel decides; `perm` for a permission failure (R406) -/
  | house (perm : Bool)
  /-- in front of a DRAM channel -/
  | channel
  /-- sent as a remote operation -/
  | remote (num : BitVec 32)
  /-- given to the memory-side agent: a pushed packet (R282) -/
  | agent
  /-- in the table of waiting consuming loads (R177) -/
  | table
  /-- returned by a full table, sent again at this cycle (R177) -/
  | resend (due : Nat)
  /-- performed; a load's bytes are in `data` -/
  | performed
  /-- the acknowledgement has reached the core -/
  | acked
  /-- refused; the report is on its way -/
  | refused (code : FaultCode)
  /-- refused, and the report has reached the core -/
  | reported (code : FaultCode)
  deriving DecidableEq, Repr

/-- One part of an access: bytes of one granule, performed in one indivisible step (R166, R175, R230). -/
structure Part where
  va    : Word
  len   : Nat
  /-- byte offset of the part in the register it fills or comes from -/
  off   : Nat
  /-- bytes to store, or bytes loaded -/
  data  : List Byte
  stage : Stage
  loc   : Option Loc
  /-- order of arrival at its station or pool -/
  arr   : Nat
  /-- the number of its remote operation, kept for a replay (R432) -/
  num   : Option (BitVec 32)
  /-- the leaf that translated it: level and table entry (R410) -/
  leaf  : Option (Nat × Word)
  deriving DecidableEq, Repr

/-- What an access does at its place. -/
inductive AccOp where
  | load
  | consume (take : Bool)
  | probe
  | store (setFull : Bool)
  | clear
  | atomic (fn : AtmFn) (ty : Ty) (b c : Word) (rnd : Nat)
  | page
  /-- QUE.PUSH: a release that writes the ring (R226, R282) -/
  | push
  deriving DecidableEq, Repr

/-- How the loaded bytes become a register value. -/
inductive Ret where
  /-- no register -/
  | none
  /-- EXT of the bytes (R175); FADD zero-extends (R180) -/
  | scalar (ty : Ty)
  /-- the full bit -/
  | pred
  /-- each part's bytes at its own offset of a v or s register; the element type, where the instruction has one (R255) -/
  | bytes (ty : Option Ty)
  /-- a word computed elsewhere -/
  | word (w : Word)
  /-- the second word of a prompt book entry whose first word is `seq`; 0 where it is not (R283) -/
  | entry (seq : Word)
  deriving DecidableEq, Repr

/-- A memory access, or another variable-latency request, of a thread that has issued. -/
structure Access where
  id    : Nat
  /-- the issuing thread, its core and its launch; an access that outlives its gang has a number that no slot has (R298) -/
  tid   : Nat
  core  : Nat
  launch : LaunchId
  asid  : Nat
  pc    : Word
  op    : AccOp
  dest  : Option Reg
  ret   : Ret
  /-- a fixed-latency result, interlocked (R79) -/
  fixed : Bool
  /-- ordering: acquire, release -/
  acq   : Bool
  rel   : Bool
  /-- accesses that must be performed before this one leaves the port -/
  after : List Nat
  /-- replayed once after LINK (R432) -/
  again : Bool
  parts : List Part
  deriving DecidableEq, Repr

/-! ## Translation stations (R404) -/

/-- A cached leaf: ASID, page size (0, 1, 2), base of the page and the set it stands in, the table entry and where it
stands. -/
structure CacheEntry where
  set  : Nat
  asid : Nat
  size : Nat
  base : Nat
  pte  : Word
  addr : Nat
  deriving DecidableEq, Repr

/-- A cached pointer: the table entry of a level (1 to 3) on the way to a region. -/
structure WalkEntry where
  asid  : Nat
  level : Nat
  base  : Nat
  pte   : Word
  deriving DecidableEq, Repr

/-- A station. Both lists are most recently used first. -/
structure Station where
  cache : List CacheEntry
  walk  : List WalkEntry
  deriving DecidableEq, Repr

/-- An empty station (R440).
DESIGN CHOICE, unsafe: log 3. -/
def Station.empty : Station := ⟨[], []⟩

/-- One entry of a slot table (R212): OWNED is `owner ≠ none`. -/
structure SlotEntry where
  owner : Option Nat
  lend  : Bool
  deriving DecidableEq, Repr

/-- A DRAM channel: its slot table, and the ASID served last, 4,096 for the house kernel and the copy channel (R30). -/
structure Channel where
  slots : SMap SlotEntry
  last  : Nat
  /-- the cycle of the last refresh, counted from 1 -/
  fresh : Nat
  deriving DecidableEq, Repr

/-- An unowned slot-table entry. -/
def SlotEntry.unowned : SlotEntry := ⟨none, false⟩
/-- A channel at reset (R440).
DESIGN CHOICE, unsafe: log 3. -/
def Channel.idle : Channel := ⟨[], 0, 0⟩

/-- An invalidation under way (R409, R410): the accesses translated through a dropped entry and not yet performed, and the remote
operations not answered. -/
structure Inval where
  kind  : InvKind
  waits : List (Nat × Nat)
  ops   : List (BitVec 32)
  deriving DecidableEq, Repr

/-! ## Engines -/

/-- The states of a copy command (R193); a done or discarded command has left its queue. -/
inductive CopyState where
  | queued | running | faulted | checkpointed
  deriving DecidableEq, Repr

/-- A copy command in its queue (R186, R195). -/
structure CopyCmd where
  fn       : Nat
  qmask    : Nat
  tid      : Nat
  state    : CopyState
  wire     : Nat
  rnd      : Nat
  sat      : Bool
  port     : Nat
  progress : Nat
  src      : Word
  dst      : Word
  sstride  : Word
  dstride  : Word
  rowBytes : Nat
  rows     : Nat
  index    : Word
  pattern  : Word
  /-- identity: shared by the entries of one JOIN -/
  id       : Nat
  /-- the reserved completion cue (R191) -/
  cue      : Option Nat
  pc       : Word
  faddr    : Word
  fcode    : Option FaultCode
  /-- waits for the house kernel on this address; `perm` for a permission failure -/
  house    : Option (Word × Bool)
  /-- a unit whose source bytes have been asked for, or written, by a remote operation: its number and its address -/
  pendOp   : Option (BitVec 32 × Word)
  got      : Option (List Byte)
  /-- the index of the element in progress, read before it (R187) -/
  index1   : Option (Nat × Int)
  /-- what the overlapping granules written so far held before (R189); a granule of another package whose bytes are asked for -/
  old      : List (Loc × List Byte)
  saving   : Option Loc
  /-- the number of the operation that a LINK failed, kept for its replay, and its address (R432) -/
  num      : Option (Word × BitVec 32)
  /-- replayed once after LINK (R173, R316) -/
  again    : Bool
  after    : List Nat
  deriving DecidableEq, Repr

/-- The states of a matrix command (R215). -/
inductive MxState where
  | none | queued | accepted | running | checkpointed | done | discarded
  deriving DecidableEq, Repr

/-- A matrix command in its queue (R216, R218). -/
structure MxCmd where
  fn       : Nat
  ty       : Ty
  bty      : Ty
  /-- BTY as encoded (R218) -/
  btyCode  : Nat
  slot     : Nat
  pslot    : Nat
  zc       : Bool
  wide     : Bool
  sat      : Bool
  tid      : Nat
  id       : Nat
  state    : MxState
  aaddr    : Word
  baddr    : Word
  astr     : Word
  bstr     : Word
  total    : Nat
  progress : Nat
  row0     : Nat
  nrow     : Nat
  sa       : SWord
  sb       : SWord
  pc       : Word
  faddr    : Word
  fcode    : Option FaultCode
  house    : Option (Word × Bool)
  /-- operands of the next step that are staged: address and bytes, or asked for from another package (R217) -/
  staged   : List (Word × Option (List Byte))
  /-- its fault has been given to the thread, and staging has not resumed -/
  told     : Bool
  pendOp   : List (BitVec 32 × Word)
  /-- the numbers of the operations that a LINK failed, kept for their replay, by address (R432) -/
  nums     : List (Word × BitVec 32)
  /-- replayed once after LINK (R173, R316) -/
  again    : Bool
  /-- the cycle in which it is done, once its last step has been granted (R211) -/
  due      : Nat
  after    : List Nat
  deriving DecidableEq, Repr

/-- What MXU.PROG reports of a slot's newest command (R219). -/
structure MxNewest where
  id       : Nat
  progress : Nat
  total    : Nat
  state    : MxState
  deriving DecidableEq, Repr

/-- A special-function request (R151, R152). -/
structure SfuReq where
  fn   : Nat
  ty   : Ty
  dest : Reg
  mask : BitVec 16
  src  : VWord
  tid  : Nat
  deriving DecidableEq, Repr

/-- A core: pool, full bits, partition, engine queues (R21). -/
structure Core where
  pool    : Memory
  /-- full bits by granule (R172) -/
  full    : SMap Bool
  /-- the partition word and the launch and gang that hold the core (R103, R297) -/
  part    : Word
  owner   : Option (LaunchId × Nat)
  /-- status bytes of the accumulator slots (R197) -/
  slotStat : SMap (BitVec 8)
  sfu     : List SfuReq
  /-- copy queues 0 to 3, head first (R189) -/
  copies  : SMap (List CopyCmd)
  /-- matrix queue, head first (R207) -/
  mx      : List MxCmd
  newest  : SMap MxNewest
  credit  : Nat
  /-- granules of the pool served in the present cycle, each with the rank of the access served last (R229) -/
  served  : List (Nat × Nat)
  deriving DecidableEq, Repr

/-- The newest-command record of a slot that no command has named. -/
def MxNewest.none : MxNewest := ⟨0, 0, 0, .none⟩

/-- A core at reset: its pool reads zero and its queues are empty (R440).
DESIGN CHOICE, unsafe: log 3. -/
def Core.idle : Core :=
  { pool := [], full := [], part := 0, owner := none, slotStat := [], sfu := [], copies := [], mx := [], newest := [],
    credit := 0, served := [] }

/-! ## Cues (R320, R347) -/

/-- Where a cue stands (R347). A delivered or dropped cue is no longer listed. -/
inductive CuePlace where
  | reserved (tid : Nat)
  | inFlight
  | stored (tid : Nat)
  | spilled (tid : Nat)
  | fetched (tid : Nat)
  | held
  | released (tid : Nat)
  deriving DecidableEq, Repr

/-- A cue on this package. -/
structure Cue where
  id    : Nat
  msg   : CueMsg
  place : CuePlace
  /-- the post's earlier accesses that must be performed before it leaves (R240) -/
  after : List Nat
  /-- first overflow cell of the cue, and of its staged block (R336) -/
  cell  : Option Nat
  block : Option Nat
  /-- first in order at once, delivered late under IGNORE (R326) -/
  first : Bool
  /-- its entry of the cue store is a shared one (R332) -/
  shared : Bool
  /-- the CUE packet that it came from: package, queue and SEQ (R270) -/
  sender : Option (Nat × Nat × Word)
  deriving DecidableEq, Repr

/-! ## Queues and launches (R263 to R303) -/

/-- The states of a prompt book entry (R269). -/
inductive EntryState where
  | accepted | dispatched | complete | discarded
  deriving DecidableEq, Repr

/-- An accepted packet and its prompt book entry (R268). -/
structure QEntry where
  seq    : Word
  state  : EntryState
  code   : Nat
  packet : List Byte
  tacc   : Word
  /-- the place of its prompt book entry (R263) -/
  book   : Word
  /-- accepted in a paused context: a head RESUME (R276) -/
  urgent : Bool
  /-- dispatched before its queue was disabled: it is not among the entries that READ counts (R278) -/
  stale  : Bool
  /-- the packet's own work has begun -/
  acted  : Bool
  /-- the packet's own work has ended -/
  ended  : Bool
  /-- units or words moved so far (COPY, COLLECTIVE-STEP) -/
  progress : Nat
  deriving DecidableEq, Repr

/-- A packet pushed by QUE.PUSH (R282): `pos` is its position once the agent has written it; it is listed until it is
accepted. `origin` is the pushing thread's package; a packet for a queue that another package reads has been sent there. -/
structure Push where
  origin : Nat
  sent   : Bool
  packet : List Byte
  launch : LaunchId
  gidx   : Nat
  level  : Nat
  top    : Nat
  after  : List Nat
  pos    : Option Nat
  /-- the access that stands for it among those of its thread (R226) -/
  acc    : Nat
  deriving DecidableEq, Repr

/-- A queue of a context as the stage manager keeps it (R263 to R278). -/
structure Queue where
  enabled  : Bool
  doorbell : Bool
  /-- what the queue table held when the queue was enabled (R263) -/
  ring     : Word
  pbook    : Word
  nent     : Nat
  cls      : Nat
  pkg      : Nat
  device   : Bool
  notify   : Bool
  /-- positions accepted, and positions finished from the first (READ) -/
  taken    : Nat
  read     : Nat
  /-- WRITE of a DEVICE queue as the agent keeps it (R264) -/
  write    : Nat
  /-- accepted entries from position `read` on, in order -/
  entries  : List QEntry
  /-- sequence numbers before `read` whose entries were discarded. DEDUCED, unsafe: log 38. -/
  lost     : List Word
  pushes   : List Push
  /-- runs of positions, first and past the last, whose packets stayed in the ring without entries (R278, R279) -/
  skipped  : List (Nat × Nat)
  /-- room in the ring for packets pushed on other packages: packages that ask for it, and how much is promised; and on such a
  package whether it has asked, and what it has been granted (R282). DESIGN CHOICE, unsafe: log 83. -/
  askers   : List Nat
  promised : Nat
  asked    : Bool
  granted  : Nat
  /-- an enable, or a disable, whose access to the queue table has yet to be made (R263, R278) -/
  turning  : Option Bool
  deriving DecidableEq, Repr

/-- A queue that is not enabled (R277).
DESIGN CHOICE, unsafe: log 3. -/
def Queue.disabled : Queue := ⟨false, false, 0, 0, 0, 0, 0, false, false, 0, 0, 0, [], [], [], [], [], 0, false, 0, none⟩

/-- The states of a launch (R302). -/
inductive LaunchState where
  | checking | waiting | running | finishing | complete | discarded
  deriving DecidableEq, Repr

/-- A gang placed on cores: (package, core number) in placement order, and its threads as
(package, core, slot, global index) (R297). -/
structure Gang where
  index   : Nat
  cores   : List (Nat × Nat)
  threads : List (Nat × Nat × Nat × Nat)
  /-- packages on which all of its threads have ended, whether all have everywhere (R298), packages whose part has left, and whether
  the gang has -/
  ended   : List Nat
  finished : Bool
  gone    : List Nat
  left    : Bool
  deriving DecidableEq, Repr

/-- A launch (R302). -/
structure Launch where
  id     : LaunchId
  state  : LaunchState
  /-- the package that dispatched it -/
  home   : Nat
  image  : Image
  args   : Word
  tagT   : Word
  gangs  : List Gang
  /-- gangs that a kill made unplaceable (R319) -/
  dead   : List Nat
  /-- the parent node: launch, level and node index (R301) -/
  parent : Option (LaunchId × Nat × Nat)
  /-- node kills, (level, node) (R318, R319). DEDUCED, unsafe: log 45. -/
  kills  : List (Nat × Nat)
  /-- stores to host memory not known to be performed, on this package: issued, sent, and the last address (R458) -/
  hostStores : Nat
  hostSent   : Nat
  hostLast   : Nat
  /-- this package has told the home that a part left with host stores or attached children outstanding -/
  owed       : Bool
  /-- other packages that have told so, and not that they are done (R270, R458) -/
  hostWait   : List Nat
  deriving DecidableEq, Repr

/-- A launch of which this package knows only a kill so far (R319). -/
def Launch.stub (id : LaunchId) : Launch :=
  { id := id, state := .running, home := 0, image := ⟨0, 0, 0, 0, [], [], 0, 0, 0⟩, args := 0, tagT := 0, gangs := [], dead := [],
    parent := none, kills := [], hostStores := 0, hostSent := 0, hostLast := 0, owed := false, hostWait := [] }

/-- A cast in progress on this package: the cores it is on its way to, by position (R299). -/
structure CastRun where
  msg : CastMsg
  due : List Nat
  deriving DecidableEq, Repr

/-! ## Contexts (R245 to R262) -/

/-- The states of a context (R250); `absent` is an ASID without a context. -/
inductive CtxState where
  | absent | built | loaded | resident | pausing | paused | restoring | faulted
  deriving DecidableEq, Repr

/-- The context descriptor (R245). -/
structure Desc where
  asid       : Nat
  tk         : Nat
  flags      : Nat
  bpkg       : Nat
  bdom       : Nat
  edom       : Nat
  chTimeout  : Nat
  mxown      : Nat
  mxlend     : Nat
  drown      : Nat
  drlend     : Nat
  vcmask     : Nat
  pauseAllow : Nat
  qtable     : Word
  qcount     : Nat
  keycount   : Nat
  saveAddr   : Word
  saveSize   : Nat
  ovfAddr    : Word
  ovfSize    : Nat
  keytab     : Word
  regions    : Word
  nregion    : Nat
  lkown      : Nat
  lklend     : Nat
  /-- a reserved field is not zero -/
  reserved   : Bool
  deriving DecidableEq, Repr

/-- An empty descriptor. -/
def Desc.zero : Desc := ⟨0, 0, 0, 0, 0, 0, 0, 0, 0, 0, 0, 0, 0, 0, 0, 0, 0, 0, 0, 0, 0, 0, 0, 0, 0, false⟩

/-- A pause under way or done (R252, R253). -/
structure Pause where
  tp      : Word
  /-- packages that have not replied yet -/
  waits   : List Nat
  agreed  : Bool
  /-- release and issue stopped, engines checkpointed -/
  stopped : Bool
  reason  : Nat
  regions : Bool
  /-- the PREEMPT entry that asked for it -/
  byEntry : Option (Nat × Word)
  resumeHeld  : Option (Nat × Word)
  /-- packages that may still have something of the context under way, and whether this one has told that it has not (R318) -/
  saveWaits : List Nat
  saveTold  : Bool
  /-- the image has been placed back, which comes before the resume instant is agreed (R251, R253) -/
  placed  : Bool
  resliced : Bool
  /-- the resume: packages that have not agreed, and the instant Pr -/
  pr      : Option Word
  prWaits : List Nat
  /-- this package proposed the instant -/
  byProposer : Bool
  deriving DecidableEq, Repr

/-! ## Chains (R351 to R374) -/

/-- The states of a chain member (R365, R373). -/
inductive ChainState where
  | closed | joining | joined | sending | done | complete | broken
  deriving DecidableEq, Repr

/-- A strip of 8 × 128 FP32 values on the chorus network, or waiting at a consumer's port (R351, R357). -/
structure Strip where
  tile   : Nat
  entry  : Nat
  src    : Nat
  strip  : Nat
  replay : Bool
  flags  : Nat
  /-- the sender's entry, for the CREDIT -/
  fromTile  : Nat
  fromEntry : Nat
  data   : List (BitVec 32)
  /-- flits already served by the target adder -/
  served : Nat
  /-- all 32 flits are in: a later strip of its path is (R24) -/
  arrived : Bool
  deriving DecidableEq, Repr

/-- The kinds of control message (R352). A JOIN carries what the consumer compares. -/
inductive ChainKind where
  | join (rule : Nat) (w : Int) (row0 nrows nmem member core : Nat)
  | ack
  | nak (arg cause : Nat)
  | credit (strip : Nat)
  | complete
  | brk (cause : Nat)
  deriving DecidableEq, Repr

/-- A control message under way: to a core (a JOIN) or to an entry. -/
structure ChainMsg where
  id    : Nat
  kind  : ChainKind
  asid  : Nat
  chain : Nat
  src   : Nat
  fromTile  : Nat
  fromEntry : Nat
  toCore    : Nat
  toEntry   : Option Nat
  deriving DecidableEq, Repr

/-- An entry of a tile's chain table. -/
structure ChainEntry where
  state   : ChainState
  asid    : Nat
  chain   : Nat
  role    : Nat
  rule    : Nat
  strict  : Bool
  useCue  : Bool
  slot    : Nat
  xslot   : Nat
  member  : Nat
  nmem    : Nat
  w       : Int
  row0    : Nat
  nrows   : Nat
  /-- the consumer's core, and its entry once joined -/
  next    : Nat
  nextEntry : Nat
  cword   : Word
  ctagT   : Word
  ctagM   : BitVec 16
  cport   : Nat
  cue     : Option Nat
  tid     : Nat
  core    : Nat
  scope   : Nat
  desc    : List Byte
  pc      : Word
  sendPc  : Word
  cause   : Nat
  sent    : BitVec 16
  decl    : BitVec 16
  fwd     : BitVec 16
  count   : Nat
  dups    : Nat
  flags   : Nat
  /-- the index that the handle of this entry holds (R360); a restore may move the entry to another (R372) -/
  handle  : Nat
  /-- members that joined this consumer: (member, tile, entry), and those sent an ACK -/
  joined  : List (Nat × Nat × Nat)
  acked   : List Nat
  ackIn   : Bool
  /-- strips to be sent, oldest first, with their REPLAY bit -/
  toSend  : List (Nat × Bool)
  /-- matrix commands of the core issued before the first SEND and not over then (R363, R364) -/
  writers : List Nat
  /-- accesses that must be over before its strips leave (R226, row and column SEND) -/
  after   : List Nat
  /-- the target has begun to add; under STAR.X its own contribution stands in the EXACT words -/
  begun   : Bool
  /-- cycles counted from the first SEND to the ACK; the one retry used (R368) -/
  firstSend : Bool
  elapsed : Nat
  retried : Bool
  joinDue : Option Nat
  rx      : SMap (BitVec 16)
  /-- member served last by the target adder -/
  lastSrc : Nat
  /-- a relay's staged predecessor strips: (strip, flags, replay, values) -/
  staged  : List (Nat × Nat × Bool × List (BitVec 32))
  stageOff : Nat
  stageLen : Nat
  /-- flags of the relay's own additions, by strip -/
  ownFlags : SMap Nat
  deriving DecidableEq, Repr

/-- A free entry. -/
def ChainEntry.free : ChainEntry :=
  { state := .closed, asid := 0, chain := 0, role := 0, rule := 0, strict := false, useCue := false, slot := 0, xslot := 0,
    member := 0, nmem := 0, w := 0, row0 := 0, nrows := 0, next := 0, nextEntry := 0, cword := 0, ctagT := 0, ctagM := 0,
    cport := 0, cue := none, tid := 0, core := 0, scope := 0, desc := [], pc := 0, sendPc := 0, cause := 0, sent := 0,
    decl := 0, fwd := 0, count := 0, dups := 0, flags := 0, handle := 0, joined := [], acked := [], ackIn := false, toSend := [],
    writers := [], after := [], begun := false, firstSend := false, elapsed := 0, retried := false, joinDue := none, rx := [], lastSrc := 0,
    staged := [], stageOff := 0, stageLen := 0, ownFlags := [] }

/-! ## Barriers (R378 to R395) -/

/-- A barrier object at its home tile (R383, R385, R393). -/
structure Barrier where
  key     : BarKey
  init    : Bool
  curtain : Bool
  bound   : Bool
  sense   : Bool
  retried : Bool
  count   : Nat
  /-- the arrivals of the current phase, in order; held ones before INIT or LINE (R385) -/
  arrived : List ThreadId
  /-- threads that have dropped or departed -/
  dropped : List ThreadId
  phase   : BitVec 32
  timeout : Nat
  /-- cycles since the first arrival of the phase -/
  elapsed : Nat
  rect    : Word
  chan    : Nat
  /-- the thread whose INIT made it (R389) -/
  maker   : Option ThreadId
  /-- a curtain release under way: the cycle in which it reaches the members (R390). DEDUCED, unsafe: log 56. -/
  due     : Option Nat
  deriving DecidableEq, Repr

/-- A barrier message on its way to, or at, this package. -/
structure BarFly where
  id  : Nat
  msg : BarMsg
  /-- accesses that must be performed first: the DRAIN of R383 -/
  after : List Nat
  deriving DecidableEq, Repr

/-- A thread that has departed from a node (R455). -/
structure Departure where
  launch : LaunchId
  level  : Nat
  node   : Nat
  who    : ThreadId
  deriving DecidableEq, Repr

/-- A tile: matrix arbitration, chain table, barrier table, instruction cache (R20). -/
structure Tile where
  slots    : SMap SlotEntry
  /-- the core served last, and the cycle in which the step in progress ends (R211, R213) -/
  lastCore : Nat
  busy     : Nat
  chains   : SMap ChainEntry
  bars     : SMap (Option Barrier)
  departed : List Departure
  /-- the instruction cache (R18, R20): lines of four bytes by ASID and virtual address, the one filled last first.
  DESIGN CHOICE, unsafe: log 77. -/
  icache   : List (Nat × Word × List Byte)
  deriving DecidableEq, Repr

/-- A tile at reset (R440): the first turn of the matrix unit is core 0's.
DESIGN CHOICE, unsafe: log 3. -/
def Tile.idle : Tile := ⟨[], 7, 0, [], [], [], []⟩

/-! ## Links and time (R419 to R434) -/

/-- The states of a port (R428). -/
inductive PortState where
  | off | training | up | timeLocked | degraded | down
  deriving DecidableEq, Repr

/-- A Priud Link port. -/
structure Port where
  state    : PortState
  lanes    : Nat
  peer     : Nat
  peerPort : Nat
  /-- next SEQ to send, next SEQ expected -/
  txSeq    : BitVec 12
  rxSeq    : BitVec 12
  /-- a failed flit came: later flits are dropped until the retry request is sent (R421) -/
  retryDue : Bool
  /-- failures in a row of the flit expected, and retry requests in a row for the same flit (R421) -/
  fails    : Nat
  resends  : Nat
  replay   : List Flit
  /-- flits of the replay buffer still to be sent again, oldest first -/
  again    : List Flit
  /-- flits queued by VC, and credits by twice the VC, plus 1 for the descending half (R424) -/
  queues   : SMap (List Flit)
  credits  : SMap Nat
  /-- buffers freed and not yet returned, by VC -/
  freed    : SMap Nat
  slots    : SMap SlotEntry
  /-- VCs served last in round robin: of all, and of an owner's -/
  lastVc   : Nat
  lastOwn  : Nat
  /-- flits sent again since the port was configured (R434) -/
  resent   : Word
  /-- the port has had its first exchange (R428) -/
  locked   : Bool
  /-- the cycle of the last flit received, and of the last exchange begun; the exchange in progress at the child: t1, t2, t3; twice the
  DELAY of the last one, in ns (R426) -/
  heard    : Nat
  stamp    : Nat
  exchange : Option (Word × Word × Word)
  delay    : Int
  /-- symbols that FEC corrected in the last 1 ms: cycle and number (R419) -/
  fixes    : List (Nat × Nat)
  /-- the flit put on the wire last, and its cycle counted from 1 -/
  wire     : Option Flit
  sentAt   : Nat
  deriving DecidableEq, Repr

/-- A port that is not configured (R428).
DESIGN CHOICE, unsafe: log 3. -/
def Port.off : Port :=
  { state := .off, lanes := 0, peer := 0, peerPort := 0, txSeq := 0, rxSeq := 0, retryDue := false, fails := 0,
    resends := 0, replay := [], again := [], queues := [], credits := [], freed := [], slots := [], lastVc := 0, lastOwn := 0,
    resent := 0, locked := false, heard := 0, stamp := 0, exchange := none, delay := 0, fixes := [], wire := none, sentAt := 0 }

/-- A remote operation of this package on its way: its number, the package that performs it, the address, and the leaf that
translated it (R410, R430). -/
structure OutOp where
  num  : BitVec 32
  pkg  : Nat
  asid : Nat
  va   : Word
  leaf : Option (Nat × Word)
  deriving DecidableEq, Repr

/-- A message that has come in over a port and is not yet acted on. -/
structure InMsg where
  port : Nat
  src  : Nat
  vc   : Nat
  msg  : LinkMsg
  deriving DecidableEq, Repr

/-! ## Contexts, continued -/

/-- Where a save has laid out its part: records of sections 1 to 7, and the offsets of the nine sections (R254). -/
structure PartMap where
  counts : List Nat
  offs   : List Nat
  deriving DecidableEq, Repr

/-- What a save keeps of the engines, threads and objects of a context on this package (R254 to R257). The bytes of the
image stand in memory as well.
DESIGN CHOICE, unsafe: log 49. -/
structure Saved where
  /-- where the part's sections stand in memory -/
  part    : PartMap
  threads : List (Nat × Thread)
  cores   : List (Nat × Core)
  cues    : List Cue
  accs    : List Access
  chains  : List (Nat × Nat × ChainEntry)
  bars    : List (Nat × Barrier)
  departed : List (Nat × Departure)
  /-- regions in the order of their data: address, MODE, and bytes in the image (R259) -/
  regions : List (Word × Nat × Nat)
  /-- barrier arrivals held in the memory ports of the cores (R452) -/
  sending : List BarFly
  deriving DecidableEq, Repr

/-- A write of the stage manager that a context owes, or an event record that comes after the writes before it (R279, R445,
R457). -/
inductive Owed where
  | write (va : Word) (bytes : List Byte)
  | event (kind code q reason seq : Nat)
  deriving DecidableEq, Repr

/-- What the agent has still to write in the overflow area: the head alone, a cue's cell or its STATE 0, a staged block (R333, R336). -/
inductive OvfJob where
  | head
  | cell (i : Nat)
  | block (i : Nat)
  deriving DecidableEq, Repr

/-- A context on this package. -/
structure Ctx where
  state  : CtxState
  desc   : Desc
  delta  : Word
  /-- physical address of the root table (R399) -/
  root   : Nat
  /-- packages that hold the descriptor, and those whose LOAD has not been reported yet (R251) -/
  peers  : List Nat
  waits  : List Nat
  /-- the descriptor as CREATE delivered it; STATE and DELTA are written into it (R245). DESIGN CHOICE, unsafe: log 46. -/
  raw    : List Byte
  /-- a LOAD under way: packages asked for their descriptors, and what those on which the context has been loaded have
  answered, without the fields that may differ (R245, R247) -/
  asking : Option (List Nat)
  told   : List (List Byte)
  /-- SAVESIZE of the other packages on which the context is loaded (R249, R295) -/
  loads  : List (Nat × Nat)
  loadedHere : Bool
  /-- queues of a loaded context whose table entries have not been looked at (R263) -/
  unchecked : List Nat
  epoch  : Nat
  /-- the last restore was re-sliced (R254) -/
  resliced : Bool
  pause  : Option Pause
  saved  : Option Saved
  ovfPeak   : Nat
  ovfSpills : Nat
  /-- writes to the overflow area that the agent has still to make, each with the launch of the cue (R336) -/
  ovfTodo   : List (OvfJob × LaunchId)
  /-- collective notices that have arrived and not been used: package and STEPID (R273) -/
  notices   : List (Nat × BitVec 32)
  /-- code that a queue names: queue, base and size of the CODE of an image that it has launched since its last FENCE (R113) -/
  coded     : List (Nat × Word × Nat)
  /-- what the stage manager still owes, in order (R279, R457) -/
  owed      : List Owed
  /-- accesses of the stage manager and the memory-side agent: addresses that wait for the house kernel, those that
  failed for good, and remote operations with what they brought (address, operation, number, bytes) -/
  agentHold : List (Word × Bool)
  agentBad  : List (Word × FaultCode)
  agentOps  : List (Word × RemOp × BitVec 32 × Option (List Byte))
  /-- the numbers of those that the present piece of work has used -/
  agentUsed : List (BitVec 32)
  /-- the DRAM channels that serve the present piece of work: it takes one turn at each (R30) -/
  agentTurns : List Nat
  /-- casts of this package that other packages have not told to be complete: launch, gang, package (R303) -/
  castOut   : List (LaunchId × Nat × Nat)
  deriving DecidableEq, Repr

/-- An ASID without a context (R440).
DESIGN CHOICE, unsafe: log 3. -/
def Ctx.absent : Ctx :=
  { state := .absent, desc := Desc.zero, delta := 0, root := 0, peers := [], waits := [], raw := [], asking := none, told := [], loads := [], loadedHere := false, unchecked := [], epoch := 0, resliced := false,
    pause := none, saved := none, ovfPeak := 0, ovfSpills := 0, ovfTodo := [], notices := [], coded := [], owed := [], agentHold := [], agentBad := [], agentOps := [], agentUsed := [], agentTurns := [], castOut := [] }

/-! ## The host interface (R442 to R449) -/

/-- The control registers of BAR 0 (R443). ID is fixed; RESET and CMD are write only. -/
structure Bar0 where
  status   : Nat
  step     : Nat
  failure  : Nat
  arg0     : Word
  arg1     : Word
  /-- the command under way: opcode and ASID -/
  cmd      : Nat
  cmdState : Nat
  reason   : Nat
  winbase  : Word
  evbase   : Word
  evsize   : Word
  evwrite  : Word
  evread   : Word
  evlost   : Word
  power    : Word
  watts    : Nat
  hottest  : Nat
  capping  : Bool
  deriving DecidableEq, Repr

/-- BAR 0 right after reset: STATUS resetting, the others zero (R443, R446).
DESIGN CHOICE, unsafe: log 3. -/
def Bar0.reset : Bar0 := ⟨0, 0, 0, 0, 0, 0, 0, 0, 0, 0, 0, 0, 0, 0, 0, 0, 0, false⟩

/-! ## The agenda -/

/-- What comes next from the parts of the device that do not wait for one another, and from outside. -/
inductive Action where
  /-- an event of the opcode table -/
  | event (i : Instr)
  /-- a cycle passes -/
  | tick
  /-- a core issues in the present cycle -/
  | issue (core : Nat)
  /-- the host writes its own memory -/
  | hostStore (addr : Nat) (bytes : List Byte)
  /-- the regular work of a cycle: a dispatch opportunity, a channel's burst, a port's flit time, a target adder's flit -/
  | dispatch
  | burst (ch : Nat)
  | flit (port : Nat)
  | adder (tile entry : Nat)
  deriving DecidableEq, Repr

/-! ## Outcomes -/

/-- Reasons for which the modelled machine stops. -/
inductive Fault where
  /-- Raised by HOST_WINDOW_WRITE: the BAR 2 window lies on physical addresses at which the package has no DRAM
  (R28, R442). Safe: the machine stops where the spec gives no effect (log 7). -/
  | noMemory (pa : Nat)
  deriving DecidableEq, Repr

/-- Reasons for which an instruction has no meaning in the model. -/
inductive Refusal where
  /-- Raised by an arm of exec that has no meaning yet. Safe: no next state is claimed. -/
  | notModelled (mnemonic : String)
  deriving DecidableEq, Repr

/-! ## The package -/

/-- The state of one package. -/
structure State where
  threads  : SMap Thread
  cores    : SMap Core
  tiles    : SMap Tile
  /-- accesses in flight, oldest first -/
  accs     : List Access
  dram     : Memory
  /-- the host's memory. DESIGN CHOICE, unsafe: log 2. -/
  hostMem  : Memory
  stations : SMap Station
  channels : SMap Channel
  invals   : List Inval
  cues     : List Cue
  ctxs     : SMap Ctx
  /-- queues by ASID × 256 + index -/
  queues   : SMap Queue
  launches : List Launch
  casts    : List CastRun
  chainMsgs : List ChainMsg
  strips   : List Strip
  barMsgs  : List BarFly
  ports    : SMap Port
  /-- route table: output port by destination package (R424) -/
  routes   : SMap (Option Nat)
  inbox    : List InMsg
  /-- remote operations performed, by source package: numbers and results, newest first (R431) -/
  remLog   : SMap (List (BitVec 32 × RemRes))
  opNum    : BitVec 32
  /-- operations of this package sent and not answered, with their destination packages (R430) -/
  opsOut   : List OutOp
  /-- messages that wait for a route: VC, package, message (R430, R432). DEDUCED, unsafe: log 58. -/
  unsent   : List (Nat × Nat × LinkMsg)
  /-- package time counter in ns (R33), and cycles since reset -/
  time     : Word
  /-- DESIGN CHOICE, safe: log 66. -/
  clock    : Nat
  pkg      : Nat
  timeRoot : Nat
  parent   : Option Nat
  err      : Word
  asym     : Nat
  holdover : Bool
  /-- correction still to be slewed, in half nanoseconds, and cycles since the last nanosecond of slew (R426) -/
  slew     : Int
  slewWait : Nat
  /-- the cycle of the last exchange with the parent, or of the last growth of ERR under holdover (R427) -/
  lastExchange : Nat
  bar0     : Bar0
  /-- MSI-X vectors raised, oldest first (R445) -/
  msix     : List Nat
  /-- dies at or above the thermal limit; activation refused until all are below (R449) -/
  hotDies  : List Nat
  /-- the digest of the boot image that the last start read (R438, R447). DESIGN CHOICE, unsafe: log 3. -/
  bootDigest : BitVec 256
  /-- the parameters of DRAM training in the always-on domain (R437, R439) -/
  dramParams : Bool
  /-- queue served last by class (R271) -/
  lastServed : SMap Nat
  /-- identities given out, arrivals counted, free values used. DESIGN CHOICE, safe: log 6, log 66. -/
  nextId   : Nat
  arrivals : Nat
  fresh    : Nat
  /-- the slot whose instruction issues, and what comes next. DESIGN CHOICE: safe, log 66; unsafe, log 1. -/
  me       : Nat
  agenda   : List Action
  deriving DecidableEq, Repr

/-- The machine right after reset (R440, R443, R446).
DESIGN CHOICE, unsafe: log 2; DESIGN CHOICE, unsafe: log 3. -/
def State.reset : State :=
  { threads := [], cores := [], tiles := [], accs := [], dram := [], hostMem := [], stations := [], channels := [],
    invals := [], cues := [], ctxs := [], queues := [], launches := [], casts := [], chainMsgs := [], strips := [],
    barMsgs := [], ports := [], routes := [], inbox := [], remLog := [], opNum := 0, opsOut := [], unsent := [], time := 0, clock := 0, pkg := 0,
    timeRoot := 0, parent := none, err := 0, asym := 2, holdover := false, slew := 0, slewWait := 0, lastExchange := 0,
    bar0 := Bar0.reset, msix := [], hotDies := [], bootDigest := 0, dramParams := false, lastServed := [], nextId := 0, arrivals := 0,
    fresh := 0, me := 0, agenda := [] }

end Sys2Proof.Machine
end

