-- ==== Sys2Proof/Machine/Ops.lean ====
section
/-! DEFINITION. The named operations over units and registers, and raising a fault. -/

namespace Sys2Proof.Machine

/-- What a meaning answers. -/
abbrev Out := Host.Outcome State Fault Refusal

/-! ## Units -/

/-- The thread in a slot: core × 4 + slot. -/
def State.thread (s : State) (t : Nat) : Thread := lookAt Thread.vacant s.threads t
/-- The state with a thread replaced. -/
def State.setThread (s : State) (t : Nat) (a : Thread) : State := { s with threads := putAt Thread.vacant s.threads t a }
/-- The state with a thread changed. -/
def State.modThread (s : State) (t : Nat) (f : Thread → Thread) : State := s.setThread t (f (s.thread t))
/-- The thread whose instruction issues. -/
def State.cur (s : State) : Thread := s.thread s.me
/-- The state with that thread changed. -/
def State.modCur (s : State) (f : Thread → Thread) : State := s.modThread s.me f

/-- A core: package tile × 8 + core. -/
def State.core (s : State) (c : Nat) : Core := lookAt Core.idle s.cores c
def State.setCore (s : State) (c : Nat) (a : Core) : State := { s with cores := putAt Core.idle s.cores c a }
def State.modCore (s : State) (c : Nat) (f : Core → Core) : State := s.setCore c (f (s.core c))
/-- A tile: die × 320 + tile. -/
def State.tile (s : State) (t : Nat) : Tile := lookAt Tile.idle s.tiles t
def State.setTile (s : State) (t : Nat) (a : Tile) : State := { s with tiles := putAt Tile.idle s.tiles t a }
def State.modTile (s : State) (t : Nat) (f : Tile → Tile) : State := s.setTile t (f (s.tile t))
/-- A context, by ASID. -/
def State.ctx (s : State) (a : Nat) : Ctx := lookAt Ctx.absent s.ctxs a
def State.setCtx (s : State) (a : Nat) (c : Ctx) : State := { s with ctxs := putAt Ctx.absent s.ctxs a c }
def State.modCtx (s : State) (a : Nat) (f : Ctx → Ctx) : State := s.setCtx a (f (s.ctx a))
/-- The key of a queue in the map of queues. -/
def queueKey (asid q : Nat) : Nat := asid * 256 + q
/-- A queue of a context. -/
def State.queue (s : State) (asid q : Nat) : Queue := lookAt Queue.disabled s.queues (queueKey asid q)
def State.setQueue (s : State) (asid q : Nat) (a : Queue) : State :=
  { s with queues := putAt Queue.disabled s.queues (queueKey asid q) a }
def State.modQueue (s : State) (asid q : Nat) (f : Queue → Queue) : State := s.setQueue asid q (f (s.queue asid q))
/-- A Priud Link port. -/
def State.port (s : State) (p : Nat) : Port := lookAt Port.off s.ports p
def State.setPort (s : State) (p : Nat) (a : Port) : State := { s with ports := putAt Port.off s.ports p a }
def State.modPort (s : State) (p : Nat) (f : Port → Port) : State := s.setPort p (f (s.port p))
/-- A translation station. -/
def State.station (s : State) (n : Nat) : Station := lookAt Station.empty s.stations n
def State.setStation (s : State) (n : Nat) (a : Station) : State := { s with stations := putAt Station.empty s.stations n a }
/-- A DRAM channel. -/
def State.channel (s : State) (n : Nat) : Channel := lookAt Channel.idle s.channels n
def State.setChannel (s : State) (n : Nat) (a : Channel) : State := { s with channels := putAt Channel.idle s.channels n a }

/-- The core of a thread. -/
def coreOf (tid : Nat) : Nat := tid / 4
/-- The tile of a core. -/
def tileOf (core : Nat) : Nat := core / 8
/-- The die of a tile. -/
def dieOf (tile : Nat) : Nat := tile / 320
/-- The four slots of a core. -/
def slotsOf (core : Nat) : List Nat := [4 * core, 4 * core + 1, 4 * core + 2, 4 * core + 3]
/-- The threads of this package: the slots that are not vacant and whose gang has not left. -/
def State.tids (s : State) : List Nat := (s.threads.filter (fun p => !p.2.gone)).map Prod.fst
/-- The threads of a launch on this package. -/
def State.launchTids (s : State) (l : LaunchId) : List Nat := s.tids.filter (fun t => (s.thread t).launch = l)
/-- The launch with an identity. -/
def State.findLaunch (s : State) (l : LaunchId) : Option Launch := s.launches.find? (fun a => a.id = l)
/-- The state with a launch changed. -/
def State.modLaunch (s : State) (l : LaunchId) (f : Launch → Launch) : State :=
  { s with launches := s.launches.map (fun a => if a.id = l then f a else a) }
/-- The thread of a launch with a global index, if it is on this package. -/
def State.findThread (s : State) (l : LaunchId) (gidx : Nat) : Option Nat :=
  s.tids.find? (fun t => (s.thread t).launch = l && (s.thread t).gidx = gidx)
/-- A fresh identity. -/
def State.freshId (s : State) : Nat × State := (s.nextId, { s with nextId := s.nextId + 1 })
/-- The access with an identity. -/
def State.findAcc (s : State) (id : Nat) : Option Access := s.accs.find? (fun a => a.id = id)
/-- The state with an access changed. -/
def State.modAcc (s : State) (id : Nat) (f : Access → Access) : State :=
  { s with accs := s.accs.map (fun a => if a.id = id then f a else a) }
/-- The state without an access. -/
def State.dropAcc (s : State) (id : Nat) : State := { s with accs := s.accs.filter (fun a => a.id ≠ id) }

/-! ## Registers (R70) -/

/-- An x register; x0 reads as zero. -/
def Thread.getX (t : Thread) (n : BitVec 7) : Word := if n = 0 then 0 else lookAt 0 t.x n.toNat
/-- Writes to x0 are discarded. -/
def Thread.setX (t : Thread) (n : BitVec 7) (w : Word) : Thread := if n = 0 then t else { t with x := putAt 0 t.x n.toNat w }
/-- A v register. -/
def Thread.getV (t : Thread) (n : BitVec 6) : VWord := lookAt 0 t.v n.toNat
def Thread.setV (t : Thread) (n : BitVec 6) (w : VWord) : Thread := { t with v := putAt 0 t.v n.toNat w }
/-- A p register; p0 reads as true. -/
def Thread.getP (t : Thread) (n : BitVec 3) : Bool := n = 0 || t.p.getLsbD n.toNat
/-- Writes to p0 are discarded. -/
def Thread.setP (t : Thread) (n : BitVec 3) (b : Bool) : Thread :=
  if n = 0 then t
  else { t with p := (t.p &&& ~~~(1#8 <<< n.toNat)) ||| (if b then 1#8 <<< n.toNat else 0#8) }
/-- A k register; k0 reads as all ones. -/
def Thread.getK (t : Thread) (n : BitVec 3) : BitVec 16 := if n = 0 then 0xFFFF else lookAt 0 t.k n.toNat
/-- Writes to k0 are discarded. -/
def Thread.setK (t : Thread) (n : BitVec 3) (w : BitVec 16) : Thread :=
  if n = 0 then t else { t with k := putAt 0 t.k n.toNat w }
/-- A scale register. -/
def Thread.getS (t : Thread) (n : BitVec 3) : SWord := lookAt 0 t.s n.toNat
def Thread.setS (t : Thread) (n : BitVec 3) (w : SWord) : Thread := { t with s := putAt 0 t.s n.toNat w }

/-- The x register that an operand names. -/
def Thread.xr (t : Thread) : Reg → Word
  | .x n => t.getX n
  | _ => 0
/-- The v register that an operand names. -/
def Thread.vr (t : Thread) : Reg → VWord
  | .v n => t.getV n
  | _ => 0
/-- The p register that an operand names. -/
def Thread.pr (t : Thread) : Reg → Bool
  | .p n => t.getP n
  | _ => false
/-- The k register that an operand names. -/
def Thread.kr (t : Thread) : Reg → BitVec 16
  | .k n => t.getK n
  | _ => 0
/-- The s register that an operand names. -/
def Thread.sr (t : Thread) : Reg → SWord
  | .s n => t.getS n
  | _ => 0
/-- An x register written. -/
def Thread.wx (t : Thread) (r : Reg) (w : Word) : Thread :=
  match r with
  | .x n => t.setX n w
  | _ => t
/-- A v register written. -/
def Thread.wv (t : Thread) (r : Reg) (w : VWord) : Thread :=
  match r with
  | .v n => t.setV n w
  | _ => t
/-- A p register written. -/
def Thread.wp (t : Thread) (r : Reg) (b : Bool) : Thread :=
  match r with
  | .p n => t.setP n b
  | _ => t
/-- A k register written. -/
def Thread.wk (t : Thread) (r : Reg) (w : BitVec 16) : Thread :=
  match r with
  | .k n => t.setK n w
  | _ => t
/-- An s register written. -/
def Thread.ws (t : Thread) (r : Reg) (w : SWord) : Thread :=
  match r with
  | .s n => t.setS n w
  | _ => t

/-! ## Raising a fault (R85) -/

/-- Whether two faults concern one access, command, chain, barrier, cue or instruction. -/
def FaultSrc.same (a b : FaultSrc) : Bool :=
  match a, b with
  | .access i _, .access j _ => i = j
  | _, _ => a = b

/-- A thread stopped by a fault, not yet delivered. A further fault waits in `reports` (R318).
DEDUCED, unsafe: log 15. -/
def Thread.faultOn (t : Thread) (f : Raised) : Thread :=
  match t.raised with
  | none => { t with status := .faulted, before := if t.status = .asleep then .asleep else .running, raised := some f }
  | some _ => { t with reports := t.reports ++ [f] }

/-- A thread stopped by a fault that comes from away: one of what is being replayed after RETRY takes the replay's place, any other waits
meanwhile (R311, R318). -/
def Thread.raiseOn (t : Thread) (f : Raised) : Thread :=
  match t.retrying with
  | none => t.faultOn f
  | some src =>
    if t.raised.isNone && src.same f.src then { t with raised := some f, retrying := none } else { t with reports := t.reports ++ [f] }

/-- Raises an instruction's own fault: the thread issues nothing more, and the PC stays (R85, R86). -/
def State.raise (s : State) (code : FaultCode) (field : Nat) (data : Word) : State :=
  s.modCur (fun t => t.faultOn ⟨code, field, data, t.pc, .own⟩)

end Sys2Proof.Machine
end

