-- ==== Sys2Proof/Machine/Translate.lean ====
section
/-! DEFINITION. The page table and the stations: how an address finds its place (R398 to R412). -/

namespace Sys2Proof.Machine

/-! ## The table (R398 to R402) -/

/-- 256 GiB, the end of the package's own DRAM (R28). -/
def dramSize : Nat := 256 * 2 ^ 30

/-- The offset width of a leaf of a level (R398). -/
def pageBits (level : Nat) : Nat := 13 + 10 * level

/-- The 8 bytes of a table entry. -/
def pteAt (m : Memory) (pa : Nat) : Word := BitVec.ofNat 64 (leNat (m.read pa 8))

def pteV (w : Word) : Bool := w.getLsbD 0
def pteR (w : Word) : Bool := w.getLsbD 1
def pteW (w : Word) : Bool := w.getLsbD 2
def pteMt (w : Word) : Nat := bitsAt w 7 3
def pteRpkg (w : Word) : Nat := bitsAt w 52 11
/-- PA[51:13] at its own place (R400). -/
def pteFrame (w : Word) : Nat := bitsAt w 13 39 * 2 ^ 13

/-- Whether bytes from `pa` overlap the house kernel's range (R401, R441). -/
def inHouse (pa len : Nat) : Bool := decide (pa < 0x1000000000 ∧ 0xFE0000000 < pa + len)

/-- Whether an entry with V = 1 met at a level is malformed (R401). -/
def pteBad (pkg level : Nat) (w : Word) : Bool :=
  let mt := pteMt w
  let reserved := w.getLsbD 6 || bitsAt w 10 3 != 0 || w.getLsbD 63
  let common := reserved || decide (3 ≤ mt) || (mt != 1 && pteRpkg w != 0) || (mt = 1 && pteRpkg w = pkg)
  if pteR w then
    common || level = 3 || pteFrame w % 2 ^ pageBits level != 0 ||
      (mt = 0 && (decide (dramSize ≤ pteFrame w) || inHouse (pteFrame w) (2 ^ pageBits level)))
  else
    pteW w || common || level = 0 || mt != 0 || decide (dramSize ≤ pteFrame w) || inHouse (pteFrame w) 8192

/-- How a walk ends: on a leaf (level, entry, its place), on an entry with V = 0, or on a malformed one. -/
inductive WalkEnd where
  | leaf (level : Nat) (pte : Word) (addr : Nat)
  | notPresent (level : Nat)
  | malformed (level : Nat)
  deriving DecidableEq, Repr

/-- The walk from a table of level `level` at `table` down (R398, R401): how it ends, and the pointers it went through,
as (level, entry). -/
def walkFrom (m : Memory) (pkg : Nat) (va : Nat) : Nat → Nat → WalkEnd × List (Nat × Word)
  | level, table =>
    let addr := table + 8 * (va / 2 ^ pageBits level % 1024)
    let w := pteAt m addr
    if !pteV w then (.notPresent level, [])
    else if pteBad pkg level w then (.malformed level, [])
    else if pteR w then (.leaf level w addr, [])
    else
      match level with
      | 0 => (.malformed 0, [])
      | l + 1 =>
        let r := walkFrom m pkg va l (pteFrame w)
        (r.1, (l + 1, w) :: r.2)

/-- The table entries that a walk from a table of level `level` at `table` reads, from the first to the leaf's. -/
def walkReads (m : Memory) (pkg : Nat) (va : Nat) : Nat → Nat → List Nat
  | level, table =>
    let addr := table + 8 * (va / 2 ^ pageBits level % 1024)
    let w := pteAt m addr
    match level with
    | 0 => [addr]
    | l + 1 => addr :: (if pteV w && !pteBad pkg (l + 1) w && !pteR w then walkReads m pkg va l (pteFrame w) else [])

/-- The place that a leaf of a level gives an address (R398, R402). -/
def leafLoc (level : Nat) (pte : Word) (va : Nat) : Loc :=
  let pa := pteFrame pte + va % 2 ^ pageBits level
  match pteMt pte with
  | 0 => .dram pa
  | 1 => .remote (pteRpkg pte) pa
  | _ => .host pa

/-! ## Stations (R403 to R405) -/

/-- The home station (R403). -/
def homeStation (a : Word) (asid : Nat) : Nat :=
  let v := regionOf a
  (v % 256) ^^^ (v / 2 ^ 8 % 256) ^^^ (v / 2 ^ 16 % 256) ^^^ (v / 2 ^ 24 % 256) ^^^ (v / 2 ^ 32 % 256) ^^^
    (asid % 256) ^^^ (asid / 256 * 16 % 256)

/-- The cache set of a lookup (R404). -/
def cacheSet (a : Word) (asid : Nat) : Nat := bitsAt a 13 9 ^^^ (asid % 512)

/-- Whether a cached leaf translates an address (R404). -/
def CacheEntry.hits (e : CacheEntry) (a : Word) (asid : Nat) : Bool :=
  e.set = cacheSet a asid && e.asid = asid && e.base = vaOf a / 2 ^ pageBits e.size

/-- The cached leaf for an address.
DEDUCED, unsafe: log 24. -/
def Station.lookup (st : Station) (a : Word) (asid : Nat) : Option CacheEntry := st.cache.find? (fun e => e.hits a asid)

/-- The first `n` entries of each set, in order of recent use (R404). -/
def keepWays (set n : Nat) : List CacheEntry → List CacheEntry
  | [] => []
  | e :: es =>
    if e.set = set then
      match n with
      | 0 => keepWays set 0 es
      | k + 1 => e :: keepWays set k es
    else e :: keepWays set n es

/-- A leaf cached, most recently used, in its set of 8 (R404). -/
def Station.fill (st : Station) (e : CacheEntry) : Station :=
  { st with cache := keepWays e.set 8 (e :: st.cache.filter (fun f =>
      !(f.set = e.set && f.asid = e.asid && f.size = e.size && f.base = e.base))) }

/-- A pointer cached among 64 (R404). -/
def Station.fillWalk (st : Station) (e : WalkEntry) : Station :=
  { st with walk := (e :: st.walk.filter (fun f => !(f.asid = e.asid && f.level = e.level && f.base = e.base))).take 64 }

/-- The table from which a walk may start: below the lowest cached pointer, or at the root (R404). -/
def Station.start (st : Station) (a : Word) (asid root : Nat) : Nat × Nat :=
  let find := fun level => st.walk.find? (fun e => e.asid = asid && e.level = level && e.base = vaOf a / 2 ^ pageBits level)
  match find 1 with
  | some e => (0, pteFrame e.pte)
  | none =>
    match find 2 with
    | some e => (1, pteFrame e.pte)
    | none =>
      match find 3 with
      | some e => (2, pteFrame e.pte)
      | none => (3, root)

/-- The outcome of a translation (R401, R406). -/
inductive Trans where
  | ok (loc : Loc) (level : Nat) (pte : Word) (hit : Bool)
  | fail (perm : Bool) (level : Nat)
  deriving DecidableEq, Repr

/-- Whether a leaf grants what an access needs (R402). -/
def grants (pte : Word) (needR needW : Bool) : Bool := (!needR || pteR pte) && (!needW || pteW pte)

/-- Accessed and dirty bits set in a leaf (R405). -/
def withAD (pte : Word) (dirty : Bool) : Word := pte ||| 8#64 ||| (if dirty then 16#64 else 0#64)

/-- Eight bytes of the package's DRAM written. -/
def State.writePte (s : State) (addr : Nat) (w : Word) : State := { s with dram := s.dram.write addr (leBytes 8 w.toNat) }

/-- A walk at a station, with its caches: what it ends on, and the state in which pointers, and with `update` the A and D
bits, are set and the leaf is cached (R404, R405). -/
def State.walkAt (s : State) (asid : Nat) (a : Word) (needR needW update fromRoot : Bool) : State × Trans :=
  let n := homeStation a asid
  let st := s.station n
  let root := (s.ctx asid).root
  let (level, table) := if fromRoot then (3, root) else st.start a asid root
  let r := walkFrom s.dram s.pkg (vaOf a) level table
  let st := r.2.foldl (fun st p => st.fillWalk ⟨asid, p.1, vaOf a / 2 ^ pageBits p.1, p.2⟩) st
  match r.1 with
  | .notPresent l => (s.setStation n st, .fail false l)
  | .malformed l => (s.setStation n st, .fail true l)
  | .leaf l pte addr =>
    if !grants pte needR needW then (s.setStation n st, .fail true l)
    else
      let pte' := if update then withAD pte needW else pte
      let st := st.fill ⟨cacheSet a asid, asid, l, vaOf a / 2 ^ pageBits l, pte', addr⟩
      let s := if pte' = pte then s else s.writePte addr pte'
      (s.setStation n st, .ok (leafLoc l pte' (vaOf a)) l pte' false)

/-- A virtual address translated at its home station (R404, R405): a cached leaf that grants the access is used; one
whose D must be set is checked against the table first; anything else is walked. -/
def State.translate (s : State) (asid : Nat) (a : Word) (needR needW : Bool) : State × Trans :=
  let n := homeStation a asid
  let st := s.station n
  match st.lookup a asid with
  | some e =>
    if !grants e.pte needR needW then s.walkAt asid a needR needW true true
    else
      let pte' := withAD e.pte needW
      if pte' = e.pte then (s.setStation n (st.fill e), .ok (leafLoc e.size e.pte (vaOf a)) e.size e.pte true)
      else if pteAt s.dram e.addr = e.pte then
        ((s.writePte e.addr pte').setStation n (st.fill { e with pte := pte' }),
         .ok (leafLoc e.size pte' (vaOf a)) e.size pte' true)
      else s.walkAt asid a needR needW true true
  | none => s.walkAt asid a needR needW true false

/-- The place of an address as the station would translate it now, nothing changed; for the overlap of accesses. -/
def State.peek (s : State) (asid core : Nat) (a : Word) : Option Loc :=
  match spaceOf a with
  | .own => some (.pool core (poolOff a))
  | .any => some (.pool (anyCore a) (poolOff a))
  | .none => none
  | .virt =>
    match (s.station (homeStation a asid)).lookup a asid with
    | some e => some (leafLoc e.size e.pte (vaOf a))
    | none =>
      match (walkFrom s.dram s.pkg (vaOf a) 3 (s.ctx asid).root).1 with
      | .leaf l pte _ => some (leafLoc l pte (vaOf a))
      | _ => none

/-- Whether two runs of bytes share one. -/
def Loc.overlaps (l : Loc) (n : Nat) (l' : Loc) (n' : Nat) : Bool :=
  let meet := fun (a b : Nat) => decide (a < b + n' ∧ b < a + n)
  match l, l' with
  | .pool c a, .pool c' b => c = c' && meet a b
  | .dram a, .dram b => meet a b
  | .host a, .host b => meet a b
  | .remote p a, .remote p' b => p = p' && meet a b
  | _, _ => false

end Sys2Proof.Machine
end

