-- ==== Sys2Proof/Machine/Issue.lean ====
section
/-! DEFINITION. What holds the accesses of a thread in flight (R79, R173, R228, R452), and the issue stage (R72 to R86). -/

namespace Sys2Proof.Machine

/-! ## The accesses of a thread in flight, and what holds them (R79, R173, R228, R452) -/

/-- Whether an access writes memory. -/
def AccOp.writes : AccOp → Bool
  | .store _ | .clear | .atomic _ _ _ _ _ | .push => true
  | _ => false

/-- Whether an access reads memory. -/
def AccOp.reads : AccOp → Bool
  | .load | .consume _ | .probe | .atomic _ _ _ _ _ => true
  | _ => false

/-- Whether an access is a consuming load. -/
def AccOp.consumes : AccOp → Bool
  | .consume _ => true
  | _ => false

/-- Whether a part has been performed at its place (R228). -/
def Part.performed (p : Part) : Bool :=
  match p.stage with
  | .performed | .acked => true
  | _ => false

/-- The place of a part, known or as it would be translated now. -/
def State.partLoc (s : State) (a : Access) (p : Part) : Option Loc :=
  match p.loc with
  | some l => some l
  | none => s.peek a.asid a.core p.va

/-- Whether two accesses of a thread at two places keep their order though they do not overlap: writes to one pool through
one space (note 6), remote operations to one region of one package (note 8, R243), writes to host memory (R243). -/
def keptPair (a b : AccOp) (p q : Part) (l m : Loc) : Bool :=
  match l, m with
  | .pool c _, .pool c' _ => a.writes && b.writes && decide (spaceOf p.va = spaceOf q.va) && decide (c = c')
  | .remote k _, .remote k' _ => decide (k = k') && decide (regionOf p.va = regionOf q.va)
  | .host _, .host _ => a.writes && b.writes
  | _, _ => false

/-- Whether two runs of bytes share a residue modulo 8 KiB: only then can two virtual addresses name one byte. -/
def pageMeet (p q : Part) : Bool :=
  let a := p.va.toNat % 8192
  let b := q.va.toNat % 8192
  [0, 8192].any (fun k => decide (a < b + k + q.len ∧ b + k < a + p.len) || decide (b < a + k + p.len ∧ a + k < b + q.len))

/-- Whether an earlier part of a thread whose page has no translation yet, or a later one, may have to come first: one place, one
region of another package, or two writes to host memory. -/
def mayKeep (a b : AccOp) (p q : Part) (l : Option Loc) : Bool :=
  pageMeet p q || decide (regionOf p.va = regionOf q.va) ||
  (a.writes && b.writes && match l with
    | some (.host _) | none => true
    | _ => false)

/-- Whether a part is refused and its fault is not over (R173). -/
def Part.refused (p : Part) : Bool :=
  match p.stage with
  | .refused _ | .reported _ => true
  | _ => false

/-- Whether a part of an earlier access of the same thread, unperformed, keeps a part from being performed: overlapping bytes (A, R228),
or a pair that is kept (notes 6 and 8, R243). A refused one whose place is not known holds its own page alone (R173).
DEDUCED, unsafe: log 22. -/
def State.keeps (s : State) (a : Access) (p : Part) (b : Access) (q : Part) : Bool :=
  !q.performed && !p.performed &&
  match s.partLoc a p, s.partLoc b q with
  | some l, some m => l.overlaps p.len m q.len || keptPair a.op b.op p q l m
  | some (.pool _ _), none | none, some (.pool _ _) => false
  | l, none => !q.refused && mayKeep a.op b.op p q l
  | none, l => !q.refused && mayKeep a.op b.op p q l

/-- The accesses of a thread whose variable-latency result is outstanding (R79). -/
def State.outstanding (s : State) (tid : Nat) : List Access :=
  s.accs.filter (fun a => a.tid = tid && a.dest.isSome && !a.fixed)

/-- The reported fault of an access: part and code (R173). -/
def Access.faulty (a : Access) : Option (Nat × FaultCode × Word) :=
  (a.parts.zipIdx).findSome? (fun (p, i) => match p.stage with
    | .reported c => some (i, c, p.va)
    | _ => none)

/-- Whether an earlier access of the thread to the page has been refused and is not resolved (R173). -/
def State.refusedBefore (s : State) (a : Access) (p : Part) : Bool :=
  (s.accs.takeWhile (fun b => b.id ≠ a.id)).any (fun b => b.tid = a.tid && b.parts.any (fun q =>
    regionOf q.va = regionOf p.va && spaceOf q.va = .virt && q.refused))

/-- Whether an access waits for its thread to go on (R81).
DEDUCED, unsafe: log 26. -/
def State.withheld (s : State) (a : Access) : Bool := (s.thread a.tid).reissue.contains a.id

/-- The accesses of a thread that the ones chosen hold back in the core's memory port, those included (R452).
DEDUCED, unsafe: log 26. -/
def State.heldBehind (s : State) (tid : Nat) (p : Access → Bool) : List Nat :=
  s.accs.foldl (fun held a => if a.tid = tid && (p a || a.after.any held.contains) then held ++ [a.id] else held) []

/-- The accesses of a thread that a refusal or a cancelled load keeps from being performed until the thread goes on or is
killed (R81, R173, R452): those themselves, and those that stand behind one. -/
def State.stuck (s : State) (tid : Nat) : List Nat :=
  let behind := fun (held : List Access) (a : Access) => a.after.any (fun i => held.any (fun b => b.id = i)) ||
    a.parts.any (fun p => held.any (fun b => b.parts.any (s.keeps a p b)))
  ((s.accs.filter (fun a => a.tid = tid)).foldl (fun (held : List Access) a =>
    if a.faulty.isSome || a.parts.any (s.refusedBefore a) || s.withheld a || behind held a then held ++ [a] else held) []).map (fun a => a.id)

/-- Whether a part of an access waits in the table of its pool (R177). -/
def Access.inTable (a : Access) : Bool :=
  a.parts.any (fun p => match p.stage with
    | .table | .resend _ => true
    | _ => false)

/-! ## The issue stage (R72 to R80, R86) -/

/-- The bit of a register among the pending bits (R255); a k register has none (R80). -/
def pendBit : Reg → Option Nat
  | .x n => some n.toNat
  | .v n => some (128 + n.toNat)
  | .p n => some (192 + n.toNat)
  | .s n => some (200 + n.toNat)
  | .k _ => none

/-- Whether a register is pending. -/
def Thread.pending (t : Thread) (r : Reg) : Bool :=
  match pendBit r with
  | some b => t.pend.getLsbD b
  | none => false

/-- The thread with a register pending (R80): x0 and p0 too, though writes to them are discarded (R70).
DEDUCED, unsafe: log 12. -/
def Thread.setPending (t : Thread) (r : Reg) : Thread :=
  match pendBit r with
  | some b => { t with pend := t.pend ||| (1#256 <<< b) }
  | none => t

/-- Whether a register lies outside the allotment (R72). -/
def Thread.outside (t : Thread) : Reg → Bool
  | .x n => decide (t.xn ≤ n.toNat)
  | .v n => decide (t.vn ≤ n.toNat)
  | _ => false

/-- A slot of a word that names a register. -/
def Slot.used : Slot → Bool
  | .unused => false
  | _ => true

/-- The registers an instruction names, each with the FIELD code of its place (R450): the operand fields it uses, the
guard, and those it reads or writes without naming them (R114), which have no field.
DEDUCED, unsafe: log 13. -/
def namedRegs (maj fn : Nat) (o : Ops) (extra : List Reg) : List (Nat × Reg) :=
  let sh := shapeOf maj fn o
  (if Slot.used sh.d then [(4, o.d)] else []) ++ (if Slot.used sh.a then [(5, o.a)] else []) ++
  (if Slot.used sh.b then [(6, o.b)] else []) ++
  [(7, if o.g.isK then Reg.k o.g.idx else Reg.p o.g.idx)] ++
  (match sh.c with
   | some c => if Slot.used c then [(9, o.c)] else []
   | none => []) ++
  extra.map (fun r => (0, r))

/-- Registers with a fixed-latency result not yet written (R79, R452): own-pool accesses held at the memory port, and
special-function requests. -/
def State.busyRegs (s : State) (tid : Nat) : List Reg :=
  (s.accs.filter (fun a => a.tid = tid && a.fixed)).filterMap (fun a => a.dest) ++
  ((s.core (coreOf tid)).sfu.filter (fun r => r.tid = tid)).map (fun r => r.dest)

/-- Whether the guard lets the instruction act (R76). A k guard acts lane by lane and never stops the whole. -/
def Thread.guardOn (t : Thread) (g : Guard) : Bool := g.isK || (t.getP g.idx != g.neg)

/-- The lanes that a guard makes active (R76): all of them under a p guard. -/
def Thread.laneMask (t : Thread) (g : Guard) : BitVec 16 :=
  if g.isK then (if g.neg then ~~~ t.getK g.idx else t.getK g.idx) else 0xFFFF

/-- The thread after its instruction has issued and the next PC is known: the issue is counted (R136, R313). -/
def Thread.issued (clock : Nat) (pc : Word) (t : Thread) : Thread :=
  { t with pc := pc, wait := none, count := 0, lastIssue := some clock,
           perf := putAt 0 t.perf 0 (lookAt 0 t.perf 0 + 1) }

/-- The instruction has issued and control goes to `pc`.
DEDUCED, unsafe: log 15. -/
def State.finishAt (s : State) (pc : Word) : State := s.modCur (Thread.issued s.clock pc)
/-- The instruction has issued and control goes on at PC + 12 (R82). -/
def State.finish (s : State) : State := s.finishAt (s.cur.pc + 12)

/-- The thread waits for what `w` says, its instruction not issued (R311, R312). -/
def State.await (s : State) (st : Status) (w : Wait) : State := s.modCur (fun t => { t with status := st, wait := some w })

/-- What stands in the way of a switch marker (R79, R173). -/
inductive MarkerCheck where
  | go
  | wait (blocked : Bool)
  | fault (f : Raised)
  deriving DecidableEq, Repr

/-- The check of a switch marker: every variable-latency result written, or a fault of one that the marker raises.
DEDUCED, unsafe: log 27. -/
def State.markerCheck (s : State) (tid : Nat) : MarkerCheck :=
  let out := s.outstanding tid
  match out with
  | [] => .go
  | _ =>
    if out.all (fun a => (s.stuck tid).contains a.id) then
      match out.findSome? (fun a => a.faulty.map (fun f => (a, f))) with
      | some (a, (i, code, va)) => .fault ⟨code, 0, va, a.pc, .access a.id i⟩
      | none => .wait false
    else .wait (out.any Access.inTable)

/-- What the issue stage finds for an instruction (R86 steps 2 to 4). -/
inductive IssueCheck where
  /-- a precise fault -/
  | fault (code : FaultCode) (field : Nat)
  /-- the interlock holds the instruction: nothing changes -/
  | stall
  /-- the switch marker waits -/
  | wait (blocked : Bool)
  /-- the marker raises the fault of a result it waited for -/
  | result (f : Raised)
  /-- guarded false -/
  | skip
  /-- the instruction acts -/
  | go
  deriving DecidableEq, Repr

/-- R86 steps 2 to 4: allotment, pending bits, interlock, switch marker, guard.
DEDUCED, unsafe: log 13. -/
def issueCheck (maj fn : Nat) (o : Ops) (extra : List Reg) (marker : Bool) (s : State) : IssueCheck :=
  let t := s.cur
  let named := namedRegs maj fn o extra
  let sw := marker || o.h.sw
  match named.find? (fun p => t.outside p.2) with
  | some (f, _) => .fault .regrange f
  | none =>
    match (if sw then none else named.find? (fun p => t.pending p.2)) with
    | some (f, _) => .fault .hazard f
    | none =>
      if named.any (fun p => (s.busyRegs s.me).contains p.2) then .stall
      else
        match (if sw then s.markerCheck s.me else .go) with
        | .wait b => .wait b
        | .fault f => .result f
        | .go => if t.guardOn o.g then .go else .skip

/-- A switch marker that issues clears every pending bit of the thread (R80).
DEDUCED, unsafe: log 10. -/
def State.clearPending (s : State) (sw : Bool) : State := if sw then s.modCur (fun t => { t with pend := 0 }) else s

/-- The issue stage: the checks of R86, then the instruction's own effect `body` on the state in which a marker has
cleared the pending bits. `marker` says that the instruction always acts as a switch marker (R79).
DEDUCED, unsafe: log 10. -/
def issue (maj fn : Nat) (o : Ops) (extra : List Reg) (marker : Bool) (s : State) (body : State → State) : Out :=
  match issueCheck maj fn o extra marker s with
  | .fault code f => .next (s.raise code f 0)
  | .stall => .next s
  | .wait b => .next (s.await (if b then .blocked else .parked) .results)
  | .result f => .next (s.modCur (fun t => t.faultOn f))
  | .skip => .next (s.clearPending (marker || o.h.sw)).finish
  | .go => .next (body (s.clearPending (marker || o.h.sw)))

/-- As `issue`, for an instruction that waits or stalls beyond the marker and clears the pending bits itself, only once
it issues, and only if it carries the SW bit (R184, R207, R284).
DEDUCED, unsafe: log 10. -/
def issueLate (maj fn : Nat) (o : Ops) (s : State) (body : State → State) : Out :=
  match issueCheck maj fn o [] false s with
  | .fault code f => .next (s.raise code f 0)
  | .stall => .next s
  | .wait b => .next (s.await (if b then .blocked else .parked) .results)
  | .result f => .next (s.modCur (fun t => t.faultOn f))
  | .skip => .next (s.clearPending o.h.sw).finish
  | .go => .next (body s)

/-- An instruction that only reads and writes its own thread's registers. -/
def issueReg (maj fn : Nat) (o : Ops) (s : State) (f : Thread → Thread) : Out :=
  issue maj fn o [] false s (fun s => (s.modCur f).finish)

end Sys2Proof.Machine
end

