-- ==== Sys2Proof/Machine/Operands.lean ====
section
/-! DEFINITION. Typed operand values and results (R44, R115, R175) and the guard's lanes (R76). -/

namespace Sys2Proof.Machine

/-- The low `n` bits of a number read as two's complement or unsigned. -/
def readInt (signed : Bool) (n v : Nat) : Int :=
  let m := v % 2 ^ n
  if signed && decide (2 ^ (n - 1) ≤ m) then (m : Int) - (2 ^ n : Nat) else (m : Int)

/-- WRAP_n (R44), as an unsigned number. -/
def wrapN (n : Nat) (v : Int) : Nat := (v % (2 ^ n : Nat)).toNat

/-- OPV of R115. -/
def opv (w : Word) (ty : Ty) : Int := readInt ty.isSigned ty.width w.toNat

/-- The result word of WRV (R115): wrapped, then sign- or zero-extended to 64 bits. -/
def wrv (v : Int) (ty : Ty) : Word := BitVec.ofInt 64 (readInt ty.isSigned ty.width (wrapN ty.width v))

/-- EXT of R175: bytes read as the type and extended to 64 bits. -/
def ext (ty : Ty) (bytes : List Byte) : Word := BitVec.ofInt 64 (readInt ty.isSigned ty.width (leNat bytes))

/-- The low bits of a word as the bytes of a type (R6, R178). -/
def tyBytes (ty : Ty) (w : Word) : List Byte := leBytes (ty.width / 8) w.toNat

/-- The FP32 value in bits [31:0] of a word (R124). -/
def opF (w : Word) : FVal := decodeF .f32 (w.toNat % 2 ^ 32)

end Sys2Proof.Machine
end

