-- ==== Sys2Proof/Machine/Flags.lean ====
section
/-! DEFINITION. FPFLAGS (R54), the rounding mode of an instruction (R47) and the generator of stochastic rounding (R48). -/

namespace Sys2Proof.Machine

/-- Flags ORed into FPFLAGS (R54). -/
def Thread.orFlags (t : Thread) (f : Nat) : Thread := { t with fpflags := t.fpflags ||| BitVec.ofNat 64 f }

/-- MODE of RNDMODE (R47). -/
def Thread.dynMode (t : Thread) : Nat := t.rndmode.toNat % 8

/-- The mode of an RND code on a thread (R47): DYN reads RNDMODE, and SR there rounds by RNE unless `sr` says that the
instruction and its destination admit SR. -/
def Thread.mode (t : Thread) (rnd : Nat) (sr : Bool) : Nat :=
  if rnd = 7 then (if t.dynMode = 4 && !sr then 0 else t.dynMode) else rnd

/-- The generator state, SRSTATE[31:0] (R48). -/
def Thread.gen (t : Thread) : BitVec 32 := t.srstate.setWidth 32

/-- The generator after an element rounded in a mode, and the 16 bits it gave (R46, R48). -/
def genStep (mode : Nat) (st : BitVec 32) : Nat × BitVec 32 :=
  if mode = 4 then (let n := xsNext st; (n.toNat / 65536, n)) else (0, st)

/-- The thread with the generator's state put back. -/
def Thread.setGen (t : Thread) (st : BitVec 32) : Thread := { t with srstate := st.setWidth 64 }

end Sys2Proof.Machine
end

