-- ==== Sys2Proof/Machine/Mem.lean ====
section
/-! DEFINITION. The checks of an address (R171), and reading and writing bytes at the place where they are performed (R228). -/

namespace Sys2Proof.Machine

/-! ## Checks (R171) -/

/-- What the issuing core finds of an access to `len` bytes at `a` from its core with partition `w` (R171): POOL, then
PROT. -/
def checkAddr (w : Word) (a : Word) (len : Nat) : Option FaultCode :=
  match spaceOf a with
  | .own => if poolForm a && reachable w (poolOff a) len then none else some .pool
  | .any => if poolForm a then none else some .pool
  | .virt => if canonicalVa a then none else some .prot
  | .none => some .prot

/-! ## Bytes at their place (R228) -/

/-- The channel of a byte of local DRAM, 0 to 255 (R28). -/
def channelOf (pa : Nat) : Nat := pa / 2 ^ 36 % 4 * 64 + ((pa / 2 ^ 8 % 64) ^^^ (pa / 2 ^ 14 % 64))

/-- Pool bytes. -/
def State.poolRead (s : State) (core off n : Nat) : List Byte := (s.core core).pool.read off n
def State.poolWrite (s : State) (core off : Nat) (bs : List Byte) : State :=
  s.modCore core (fun c => { c with pool := c.pool.write off bs })
/-- The full bit of the granule of a pool byte (R172). -/
def State.fullBit (s : State) (core off : Nat) : Bool := lookAt false (s.core core).full (off / 16)
def State.setFull (s : State) (core off : Nat) (b : Bool) : State :=
  s.modCore core (fun c => { c with full := putAt false c.full (off / 16) b })

/-- Bytes read at a place of this package or of the host. Remote bytes come by a remote operation. -/
def State.readLoc (s : State) (l : Loc) (n : Nat) : List Byte :=
  match l with
  | .pool c off => s.poolRead c off n
  | .dram pa => s.dram.read pa n
  | .host pa => s.hostMem.read pa n
  | .remote _ _ => List.replicate n 0

/-- Bytes written at a place of this package or of the host. -/
def State.writeLoc (s : State) (l : Loc) (bs : List Byte) : State :=
  match l with
  | .pool c off => s.poolWrite c off bs
  | .dram pa => { s with dram := s.dram.write pa bs }
  | .host pa => { s with hostMem := s.hostMem.write pa bs }
  | .remote _ _ => s

/-! ## Atomics (R180) -/

/-- F(old, b) of an atomic other than CAS, on the low bits of the type. -/
def atomicF (fn : AtmFn) (ty : Ty) (old b : Nat) (rnd : Nat) : Nat :=
  let n := ty.width
  let a' := readInt ty.isSigned n old
  let b' := readInt ty.isSigned n b
  match fn with
  | .add => wrapN n (a' + b')
  | .and => old &&& (b % 2 ^ n)
  | .or => old ||| (b % 2 ^ n)
  | .xor => old ^^^ (b % 2 ^ n)
  | .min => wrapN n (min a' b')
  | .max => wrapN n (max a' b')
  | .xchg => b % 2 ^ n
  | .cas => old
  | .fadd =>
    let v := (decodeF .f32 (old % 2 ^ 32)).add (rnd = 3) (decodeF .f32 (b % 2 ^ 32))
    (roundF .f32 rnd false false 0 v.1).1

/-- The bytes an atomic leaves, from the old ones (R180). -/
def atomicBytes (fn : AtmFn) (ty : Ty) (b c : Word) (rnd : Nat) (old : List Byte) : List Byte :=
  let n := ty.width / 8
  match fn with
  | .cas => if old = leBytes n b.toNat then leBytes n c.toNat else old
  | _ => leBytes n (atomicF fn ty (leNat old) b.toNat rnd)

end Sys2Proof.Machine
end

