-- ==== Sys2Proof/Machine/Harness.lean ====
section
/-! DEFINITION. A thread placed from outside at one instruction: what loading a context, a kernel and its launch, and the start of
one handler, leave behind. -/

namespace Sys2Proof.Machine

/-- The kernel of the placed thread: a thread, core and tile level, one port, and a code section of one instruction at virtual address
0x10000; 128 x and 64 v registers, 64 KiB of scratchpad and one accumulator slot.
DESIGN CHOICE, safe: log 4. -/
def placedImage : Image :=
  { header := 0, codeBase := 0x10000, codeSize := 12, port := 0, handlers := [⟨0, 0, 0, 0, 0⟩],
    levels := [⟨1, 0xFF, 0, 0, 1⟩, ⟨2, 0xFF, 0, 0, 1⟩, ⟨3, 0xF6, 0, 0, 1⟩], resident := 2, inputs := 1, partWord := 0x120110 }

/-- The launch of the placed thread: queue 0, sequence number 1, of context 1. -/
def placedId : LaunchId := ⟨1, 0, 1⟩

/-- The placed thread, in a handler at the instruction.
DESIGN CHOICE, safe: log 4. -/
def placedThread : Thread :=
  { Thread.vacant with
    status := .running, prior := .running, before := .running, launch := placedId, xn := 128, vn := 64, pc := 0x10000, srstate := 1, stacklim := -1,
    inHandler := true, baseM := 1, launched := true }

/-- Its launch, placed on core 0.
DESIGN CHOICE, safe: log 4. -/
def placedLaunch (s : State) : Launch :=
  { Launch.stub placedId with
    state := .running, home := s.pkg, image := placedImage,
    gangs := [{ index := 0, cores := [(s.pkg, 0)], threads := [(s.pkg, 0, 0, 0)], ended := [], gone := [], finished := false, left := false }] }

/-- The leaf that maps the code: readable, accessed, at physical address 0x10000.
DESIGN CHOICE, safe: log 4. -/
def placedLeaf : CacheEntry := { set := cacheSet 0x10000 1, asid := 1, size := 0, base := 8, pte := 0x1000B, addr := 0 }

/-- Context 1 resident with one launched thread in slot 0 of core 0 whose next instruction has the word `w`, and core 0 about to
issue.
DESIGN CHOICE, safe: log 4. -/
def State.placeWord (s : State) (w : BitVec 96) : State :=
  let s := s.setCtx 1 { s.ctx 1 with state := .resident, desc := { Desc.zero with asid := 1 }, pause := none }
  let s := s.setCore 0 { s.core 0 with part := placedImage.partWord, owner := some (placedId, 0) }
  let s := (s.setThread 0 placedThread).setThread 1 Thread.vacant |>.setThread 2 Thread.vacant |>.setThread 3 Thread.vacant
  let s := s.setTile 0 { s.tile 0 with icache := (s.tile 0).icache.filter (fun p => p.1 != 1) }
  let n := homeStation 0x10000 1
  let s := s.setStation n { s.station n with cache := placedLeaf :: (s.station n).cache }
  { s with
    launches := s.launches.filter (fun a => a.id != placedId) ++ [placedLaunch s],
    dram := s.dram.write 0x10000 (wordBytes w),
    agenda := .issue 0 :: s.agenda }

end Sys2Proof.Machine
end

