-- ==== Sys2Proof/Machine/Access.lean ====
section
/-! DEFINITION. Accesses of threads: what orders them (R222 to R238, R452), how a part is performed at its place, and how
a result reaches its register. -/

namespace Sys2Proof.Machine

/-! ## Levels and extents (R184, R222, R223) -/

/-- The work tree of a launch; empty for a launch that is not known. -/
def State.levelsOf (s : State) (l : LaunchId) : List Level := ((s.findLaunch l).map (fun a => a.image.levels)).getD []
/-- The levels of a thread's tree. -/
def State.levels (s : State) (tid : Nat) : List Level := s.levelsOf (s.thread tid).launch
/-- The image of a thread's launch.
DEDUCED, unsafe: log 20. -/
def State.imageOf (s : State) (tid : Nat) : Option Image := (s.findLaunch (s.thread tid).launch).map (fun a => a.image)
/-- Depth D of a thread's tree. -/
def State.depth (s : State) (tid : Nat) : Nat := (s.levels tid).length
/-- The physical binding of a level of a thread's tree (R34). -/
def State.bindOf (s : State) (tid l : Nat) : Nat := (((s.levels tid)[l]?).map (fun v => v.bind)).getD 0

/-- Whether two packages lie in one unit of a binding (R34, R38). -/
def samePkgUnit (bind p q : Nat) : Bool :=
  match bind with
  | 6 => p / 4 = q / 4
  | 7 => p / 64 = q / 64
  | 8 => true
  | _ => p = q

/-- Whether a place lies in the extent of the unit of binding `bind` that holds a core of this package (R184). -/
def State.inExtent (s : State) (core bind : Nat) (l : Loc) : Bool :=
  match l with
  | .pool c _ =>
    if bind ≤ 2 then c = core
    else if bind = 3 then tileOf c = tileOf core
    else if bind = 4 then dieOf (tileOf c) = dieOf (tileOf core)
    else true
  | .dram pa => if bind ≤ 3 then false else if bind = 4 then pa / 2 ^ 36 % 4 = dieOf (tileOf core) else true
  | .remote pkg _ => decide (6 ≤ bind) && samePkgUnit bind s.pkg pkg
  | .host _ => false

/-! ## Which accesses are done, and which must come first -/

/-- Whether an access is over as its thread's later operations see it: a read is performed, a write is acknowledged
(R184, R451). -/
def Access.isDone (a : Access) : Bool :=
  a.parts.all (fun p => if a.op.writes then p.stage = .acked else p.performed)

/-- Whether every access of a list of identities is over or gone. -/
def State.allDone (s : State) (ids : List Nat) : Bool :=
  s.accs.all (fun a => !ids.contains a.id || a.isDone)

/-- The accesses of a thread that are not over. -/
def State.undone (s : State) (tid : Nat) : List Access := s.accs.filter (fun a => a.tid = tid && !a.isDone)

/-- The later operations that the matrices tell apart (R226). The number is the binding that bounds the extent. -/
inductive OrdKind where
  | load
  | write
  | release
  | command
  | post
  | arrive (bind : Nat)
  | send
  deriving DecidableEq, Repr

/-- Whether an earlier access must be over before a later operation of the kind leaves (R235 to R238): an acquire or a
consuming load before everything; earlier reads before a release, a post or an arrive; before a release or a post every earlier
write but one to host memory, which lies within no scope (R223, R231, R240); before an arrive the earlier writes inside the
extent (note 5); an own-pool access before a command (note 1).
DEDUCED, unsafe: log 22. -/
def State.precedes (s : State) (k : OrdKind) (a : Access) : Bool :=
  let core := a.core
  let inside := fun bind => a.parts.any (fun p => match s.partLoc a p with
    | some l => s.inExtent core bind l
    | none => true)
  a.acq || a.op.consumes ||
  (match k with
   | .release | .post => a.op.reads || (a.op.writes && a.parts.any (fun p => match s.partLoc a p with
     | some (.host _) => false
     | _ => true))
   | .arrive b => a.op.reads || (a.op.writes && inside b)
   | .command => a.parts.any (fun p => match s.partLoc a p with
     | some (.pool c _) => c = core
     | _ => false)
   | _ => false)

/-- The identities of the accesses that a later operation of a thread waits for (R183, R233 to R238, R452).
DEDUCED, unsafe: log 22. -/
def State.mustFollow (s : State) (tid : Nat) (k : OrdKind) : List Nat :=
  let t := s.thread tid
  let und := s.undone tid
  let fences := if k = .load then t.fenceAll else t.fenceAll ++ t.fenceWr
  (und.filter (fun a => s.precedes k a || fences.contains a.id)).map (fun a => a.id)

/-! ## Groups

The parts of an access that lie in one granule move together, in one indivisible step (R166); so do all parts of a
consuming load (R165). -/

/-- The indices of the parts that move together with part `i`. -/
def Access.group (a : Access) (i : Nat) : List Nat :=
  match a.parts[i]? with
  | none => []
  | some p => (List.range a.parts.length).filter (fun j => a.op.consumes || match a.parts[j]? with
    | some q => q.va.toNat / 16 = p.va.toNat / 16
    | none => false)

/-- The parts of a group. -/
def Access.groupParts (a : Access) (i : Nat) : List Part := (a.group i).filterMap (fun j => a.parts[j]?)

/-- An access with one part changed. -/
def Access.setPart (a : Access) (i : Nat) (p : Part) : Access := { a with parts := a.parts.set i p }

/-- The state with every part of a group changed. -/
def State.modGroup (s : State) (id i : Nat) (f : Part → Part) : State :=
  s.modAcc id (fun a => (a.group i).foldl (fun b j => match b.parts[j]? with
    | some p => b.setPart j (f p)
    | none => b) a)

/-- The place of an address, from the place of another one in the same granule or block. -/
def Loc.shift (l : Loc) (base a : Word) : Loc :=
  let mv := fun (n : Nat) => n + a.toNat - base.toNat
  match l with
  | .pool c off => .pool c (mv off)
  | .dram pa => .dram (mv pa)
  | .remote p pa => .remote p (mv pa)
  | .host pa => .host (mv pa)

/-- Whether an earlier, unperformed access of the same thread keeps a part from being performed (R228, R243). -/
def State.partBlocked (s : State) (a : Access) (p : Part) : Bool :=
  (s.accs.takeWhile (fun b => b.id ≠ a.id)).any (fun b => b.tid = a.tid && b.parts.any (s.keeps a p b))

/-- Whether a clear has emptied every granule below a part: it goes in ascending order (R178). -/
def Access.lowerDone (a : Access) (i : Nat) : Bool := a.op != .clear || (a.parts.take i).all Part.performed

/-- Whether a group may be performed as far as its own thread's earlier accesses go. -/
def State.groupReady (s : State) (a : Access) (i : Nat) : Bool :=
  s.allDone a.after && a.lowerDone i && (a.groupParts i).all (fun p => !s.partBlocked a p)

/-! ## Channels and walkers (R29, R30, R404) -/

/-- The accesses at a station in a stage: the lanes of one granule are one access, and take one walker.
DEDUCED, unsafe: log 24. -/
def State.stationLoad (s : State) (n : Nat) (p : Stage → Bool) : Nat :=
  (s.accs.flatMap (fun a => ((a.parts.filter (fun q => p q.stage && homeStation q.va a.asid = n)).map (fun q =>
    q.va.toNat / 16)).eraseDups)).length

/-- A station holds 64 accesses beside those that a walker takes: up to 16 further misses of the region that it walks (R404). -/
def State.stationQueue (s : State) (n : Nat) : Nat :=
  let at' := fun (p : Stage → Bool) => s.accs.flatMap (fun a => ((a.parts.filter (fun q =>
    p q.stage && homeStation q.va a.asid = n)).map (fun q => (a.asid, q.va.toNat / 16))).eraseDups)
  let region := fun (p : Nat × Nat) => (p.1, p.2 / 512)
  let waits := (at' (fun st => st = .queued)).map region
  ((at' (fun st => st = .walking)).map region).eraseDups.foldl (fun n r => n - min 16 (waits.count r)) waits.length

/-- The accesses in front of a channel: (access, part, place), in order of arrival. -/
def State.channelWork (s : State) (ch : Nat) : List (Access × Nat × Nat) :=
  s.accs.flatMap (fun a => a.parts.zipIdx.filterMap (fun p => match p.1.stage, p.1.loc with
    | .channel, some (.dram pa) => if channelOf pa = ch && !s.partBlocked a p.1 then some (a, p.2, pa) else none
    | _, _ => none))

/-- The next of some numbers in round robin after `last`. -/
def nextAfter (last : Nat) (ns : List Nat) : Option Nat :=
  match (ns.filter (fun n => decide (last < n))).min? with
  | some n => some n
  | none => ns.min?

/-- A competitor for a channel in round robin: an ASID, or the house kernel and the copy channel together, after them all (R30). -/
def rival (who : Option Nat) : Nat := who.getD 4096

/-- Whether a channel refreshes in this cycle: one in every 64, the last, or one that the event names (R30).
DESIGN CHOICE, unsafe: log 70. -/
def State.refreshing (s : State) (ch : Nat) : Bool := s.clock % 64 = 63 || (s.channel ch).fresh = s.clock + 1

/-- Whether a unit is left idle in this cycle to keep the power limit: only in an unowned entry of its slot table, or on a VC that no FLOCK
context reserves, and only while capping is active (R449). -/
def State.powerIdle (s : State) (kind unit : Nat) : Bool := s.bar0.capping && Config.powerIdle kind unit s.clock

/-- Whether the channel of a byte of local DRAM serves a burst of a context now, or with none one of the house kernel and the
copy channel (R30): not in a cycle of refresh; in an owned entry the owner's, behind its accesses that stand there, or another's
where the owner is idle and lends; in the shared competition where its turn has come. Walkers, the engines and fetches pass here.
DESIGN CHOICE, unsafe: log 70. -/
def State.channelAdmits (s : State) (who : Option Nat) (pa : Nat) : Bool :=
  let ch := channelOf pa
  let c := s.channel ch
  let work := (s.channelWork ch).map (fun w => w.1.asid)
  let turn := !(who.any work.contains) && decide (nextAfter c.last (rival who :: work) = some (rival who))
  !s.refreshing ch &&
  match (lookAt SlotEntry.unowned c.slots (s.clock / 4096 % 16)) with
  | ⟨none, _⟩ => turn && !s.powerIdle 1 ch
  | ⟨some o, lend⟩ => if who = some o then !work.contains o else lend && !work.contains o && turn

/-- A burst of a channel counted for the one served (R30). -/
def State.channelServed (s : State) (who : Option Nat) (pa : Nat) : State :=
  s.setChannel (channelOf pa) { s.channel (channelOf pa) with last := rival who }

/-- The table entries that a translation reads or updates now: those of a walk, or a cached leaf whose A or D is to be set (R405). -/
def State.tableReads (s : State) (asid : Nat) (va : Word) (needR needW : Bool) : List Nat :=
  let st := s.station (homeStation va asid)
  match st.lookup va asid with
  | some e =>
    if grants e.pte needR needW && withAD e.pte needW = e.pte then []
    else if grants e.pte needR needW && pteAt s.dram e.addr = e.pte then [e.addr]
    else walkReads s.dram s.pkg (vaOf va) 3 (s.ctx asid).root
  | none =>
    let from' := st.start va asid (s.ctx asid).root
    walkReads s.dram s.pkg (vaOf va) from'.1 from'.2

/-- Whether the table reads of a walk, or the update of a cached leaf, are served now (R30, R405). -/
def State.walkOpen (s : State) (who : Option Nat) (asid : Nat) (va : Word) (needR needW : Bool) : Bool :=
  (s.tableReads asid va needR needW).all (s.channelAdmits who)

/-- Whether a part stands at a station: walked, queued or held. -/
def Stage.atStation : Stage → Bool
  | .walking | .queued | .house _ => true
  | _ => false

/-- Whether an access of a copy, a matrix command, a fetch, the stage manager or the agent to a region is held for the house kernel
(R406, R407). -/
def State.engineHeld (s : State) (asid : Nat) (va : Word) : Bool :=
  let here := fun (h : Option (Word × Bool)) => h.any (fun p => regionOf p.1 = regionOf va)
  let mine := fun (tid : Nat) => decide ((s.thread tid).launch.asid = asid)
  s.cores.any (fun p => p.2.mx.any (fun c => mine c.tid && here c.house) ||
    p.2.copies.any (fun q => q.2.any (fun c => mine c.tid && here c.house))) ||
  s.threads.any (fun t => t.2.launch.asid = asid && here t.2.fetchHold) ||
  (s.ctx asid).agentHold.any (fun p => regionOf p.1 = regionOf va)

/-- Whether an access to a region stands at its station, or is held there for the house kernel (R404, R406). -/
def State.regionHeld (s : State) (asid : Nat) (va : Word) : Bool :=
  s.accs.any (fun b => b.asid = asid && b.parts.any (fun q => q.stage.atStation && regionOf q.va = regionOf va)) ||
    s.engineHeld asid va

/-- Whether a translation for an engine, a fetch or the stage manager can be made now: the station takes requests, nothing stands
before it to the region, and it is a hit or a walker is free (R29, R404, R406). -/
def State.translateOpen (s : State) (who : Option Nat) (asid : Nat) (va : Word) (write : Bool) : Bool :=
  let n := homeStation va asid
  decide (s.stationQueue n < 64) && !s.regionHeld asid va &&
    ((s.tableReads asid va (!write) write).isEmpty || decide (s.stationLoad n (fun st => st = .walking) < 8)) && s.walkOpen who asid va (!write) write

/-- The leaf by which a station translates an address: level and table entry. -/
def State.leafOf (s : State) (asid : Nat) (va : Word) : Option (Nat × Word) :=
  ((s.station (homeStation va asid)).lookup va asid).map (fun e => (e.size, e.pte))

/-- A translation, its table reads counted at their channels (R30, R405). -/
def State.translateFor (s : State) (who : Option Nat) (asid : Nat) (va : Word) (needR needW : Bool) : State × Trans :=
  let reads := s.tableReads asid va needR needW
  let r := s.translate asid va needR needW
  (reads.foldl (fun (s : State) pa => s.channelServed who pa) r.1, r.2)

/-- Whether the bytes at a place can be read or written now, as far as a channel is concerned. -/
def State.placeOpen (s : State) (who : Option Nat) (l : Loc) : Bool :=
  match l with
  | .dram pa => s.channelAdmits who pa
  | _ => true
/-- The bytes at a place served by their channel. -/
def State.placeServed (s : State) (who : Option Nat) (l : Loc) : State :=
  match l with
  | .dram pa => s.channelServed who pa
  | _ => s

/-! ## The tile instruction cache (R20, R113) -/

/-- Four bytes of code that a tile holds. -/
def Tile.line (t : Tile) (asid : Nat) (va : Word) : Option (List Byte) :=
  (t.icache.find? (fun p => p.1 = asid && p.2.1 = va)).map (fun p => p.2.2)

/-- The lines of 256 KiB. -/
def icacheLines : Nat := 65536

/-- A line filled; the one filled first makes room.
DESIGN CHOICE, unsafe: log 77. -/
def State.fillLine (s : State) (tile asid : Nat) (va : Word) (bs : List Byte) : State :=
  s.modTile tile (fun t => { t with
    icache := ((asid, va, bs) :: t.icache.filter (fun p => !(p.1 = asid && p.2.1 = va))).take icacheLines })

/-- The lines of a context dropped from every tile, those that `p` chooses. Writes to memory never drop one (R113).
DESIGN CHOICE, unsafe: log 77. -/
def State.dropLines (s : State) (asid : Nat) (p : Word → Bool) : State :=
  let keep := fun (t : Tile) => { t with icache := t.icache.filter (fun l => !(l.1 = asid && p l.2.1)) }
  { s with tiles := (mapVals keep s.tiles).filter (fun t => t.2 != Tile.idle) }

/-- The lines of a range of code. -/
def inCode (base : Word) (size : Nat) (va : Word) : Bool := decide (base.toNat ≤ va.toNat ∧ va.toNat < base.toNat + size)

/-- A FENCE has run in a queue: code that no queue names any more is fetched anew (R113, R275). -/
def State.fenceCode (s : State) (asid q : Nat) : State :=
  let all := (s.ctx asid).coded
  let left := all.filter (fun c => c.1 != q)
  let fresh := ((all.filter (fun c => c.1 = q)).map Prod.snd).filter (fun r => !left.any (fun c => c.2 = r))
  fresh.foldl (fun (s : State) r => s.dropLines asid (inCode r.1 r.2)) (s.modCtx asid (fun c => { c with coded := left }))

/-! ## Performing -/

/-- The bytes of an atomic read as old value and written as new ones. -/
def atomicAt (s : State) (l : Loc) (fn : AtmFn) (ty : Ty) (b c : Word) (rnd : Nat) : State × List Byte :=
  let old := s.readLoc l (ty.width / 8)
  (s.writeLoc l (atomicBytes fn ty b c rnd old), old)

/-- The stage of a part that has been performed: an own-pool write is acknowledged in the same cycle (R451). -/
def doneStage (own : Bool) (op : AccOp) : Stage := if own && op.writes then .acked else .performed

/-- One part performed at a place of this package or of the host: the part as it is afterwards, and the state with its
effect on memory (R172, R176, R178, R180). -/
def State.performPart (s : State) (op : AccOp) (p : Part) (l : Loc) (own : Bool) : State × Part :=
  let q := { p with stage := doneStage own op, loc := some l }
  match op, l with
  | .load, _ => (s, { q with data := s.readLoc l p.len })
  | .store full, .pool c off =>
    let s := s.writeLoc l p.data
    (if full then s.setFull c off true else s, q)
  | .store _, _ => (s.writeLoc l p.data, q)
  | .atomic fn ty b c rnd, _ => (fun r => (r.1, { q with data := r.2 })) (atomicAt s l fn ty b c rnd)
  | .clear, .pool c off => (s.setFull c off false, q)
  | .probe, .pool c off => (s, { q with data := [if s.fullBit c off then 1 else 0] })
  | .consume take, .pool c off =>
    let q := { q with data := s.poolRead c off p.len }
    (if take then s.setFull c off false else s, q)
  | _, _ => (s, q)

/-- The consuming loads that wait in the table of a pool (R177). -/
def State.tableLoads (s : State) (core : Nat) : List Access :=
  s.accs.filter (fun a => a.parts.any (fun p => p.stage = .table && match p.loc with
    | some (.pool c _) => c = core
    | _ => false))

/-- A group performed in one indivisible step, `l` being the place of part `i`: its parts in ascending order, so that of two
elements of one store at one address the higher stays.
DESIGN CHOICE, unsafe: log 69. -/
def State.performGroup (s : State) (a : Access) (i : Nat) (base : Word) (l : Loc) (own : Bool) : State :=
  (a.group i).foldl (fun s j => match (s.findAcc a.id).bind (fun b => b.parts[j]?) with
    | some p =>
      let r := s.performPart a.op p (l.shift base p.va) own
      r.1.modAcc a.id (fun b => b.setPart j r.2)
    | none => s) s

/-! ## The order within a cycle (R229) -/

/-- The rank of an access to a pool among those that reach a granule in one cycle: the slots of its own core 0 to 3, the
matrix unit and the chain table, the copy engine, then from the mesh requests, remote operations and cues. -/
def rankEngine : Nat := 4
def rankCopy : Nat := 5
def rankCue : Nat := 8
def Access.rank (a : Access) (own : Bool) : Nat :=
  if own then a.tid % 4
  else match a.op with
    | .atomic _ _ _ _ _ => 7
    | _ => 6

/-- The granules of `len` bytes from an offset. -/
def granulesOf (off len : Nat) : List Nat := (List.range ((off % 16 + len + 15) / 16)).map (fun i => off / 16 + i)

/-- Whether an access of a rank to these bytes comes in its order: no granule of them has served a later rank in this cycle. -/
def State.inTurn (s : State) (core off len rank : Nat) : Bool :=
  (s.core core).served.all (fun p => !(granulesOf off len).contains p.1 || decide (p.2 ≤ rank))

/-- The granules of these bytes have served an access of a rank in this cycle. -/
def State.serve (s : State) (core off len rank : Nat) : State :=
  s.modCore core (fun c => { c with served :=
    ((granulesOf off len).map (fun g => (g, rank))).filter (fun p => !c.served.contains p) ++ c.served })

/-- Whether a read of `len` bytes of the own pool at issue sees every earlier access of the thread that it must (R454), and comes in its
order within the cycle (R229).
DEDUCED, unsafe: log 22; DEDUCED, unsafe: log 23. -/
def State.ownReadReady (s : State) (tid off len : Nat) : Bool :=
  s.mustFollow tid .load = [] &&
  (s.undone tid).all (fun a => !a.op.writes || a.parts.all (fun p =>
    p.performed || match s.partLoc a p with
      | some l => !l.overlaps p.len (.pool (coreOf tid) off) len
      | none => true)) &&
  s.inTurn (coreOf tid) off len (tid % 4)

/-- Bytes of the own pool read at issue: they count as served in this cycle (R229). -/
def State.ownServed (s : State) (tid off len : Nat) : State := s.serve (coreOf tid) off len (tid % 4)

/-- Whether a group that reaches a pool comes in its order. -/
def State.groupTurn (s : State) (a : Access) (i core : Nat) (own : Bool) : Bool :=
  (a.groupParts i).all (fun p => s.inTurn core (poolOff p.va) p.len (a.rank own))

/-- The granules of a group noted as served in this cycle. -/
def State.groupServed (s : State) (a : Access) (i core : Nat) (own : Bool) : State :=
  (a.groupParts i).foldl (fun s p => s.serve core (poolOff p.va) p.len (a.rank own)) s

/-- Whether a consuming load waits in the table of a pool for one of an access's granules: it goes before a newcomer (R177). -/
def State.awaitedHere (s : State) (a : Access) (core : Nat) : Bool :=
  (s.tableLoads core).any (fun b => b.id != a.id && b.parts.any (fun q => a.parts.any (fun p =>
    decide (poolOff q.va / 16 = poolOff p.va / 16))))

/-- A group arrives at a pool. A consuming load that finds a granule empty, or others waiting for it, enters the table, or is
sent back when the 64 places are taken (R165, R176, R177). -/
def State.arrivePool (s : State) (a : Access) (i : Nat) (core : Nat) (own : Bool) : State :=
  match a.parts[i]? with
  | none => s
  | some p =>
    let l := Loc.pool core (poolOff p.va)
    let s := s.groupServed a i core own
    if a.op.consumes && (s.awaitedHere a core || !(a.parts.all (fun q => s.fullBit core (poolOff q.va)))) then
      let here := fun (st : Stage) (s : State) =>
        s.modGroup a.id i (fun q => { q with stage := st, loc := some (l.shift p.va q.va), arr := s.arrivals })
      if (s.tableLoads core).length < 64 then here .table { s with arrivals := s.arrivals + 1 }
      else here (.resend (s.clock + 64)) s
    else s.performGroup a i p.va l own

/-! ## Results -/

/-- `bs` in place of the bytes from `off` of an n-bit register. -/
def patchBytes (w : BitVec n) (off : Nat) (bs : List Byte) : BitVec n :=
  let len := bs.length
  let mask := BitVec.ofNat n ((2 ^ (8 * len) - 1) * 2 ^ (8 * off))
  (w &&& ~~~mask) ||| BitVec.ofNat n (leNat bs * 2 ^ (8 * off))

/-- The bytes of all parts put at their offsets. -/
def patchParts (w : BitVec n) (ps : List Part) : BitVec n := ps.foldl (fun w p => patchBytes w p.off p.data) w

/-- The result of an access written to its register (R79). -/
def Access.deliver (a : Access) (t : Thread) : Thread :=
  match a.dest with
  | none => t
  | some d =>
    let first := (a.parts.head?.map (fun p => p.data)).getD []
    match a.ret with
    | .none => t
    | .scalar ty => t.wx d (ext ty first)
    | .pred => t.wp d (first != [0])
    | .bytes _ => (t.wv d (patchParts (t.vr d) a.parts)).ws d (patchParts (t.sr d) a.parts)
    | .word w => t.wx d w
    | .entry seq => t.wx d (if leNat (first.take 8) = seq.toNat then BitVec.ofNat 64 (leNat (first.drop 8)) else 0)

/-- An access that is wholly performed leaves the list: a fixed-latency result is written at once, a write without a
result once it is acknowledged. A variable-latency result waits for its event. -/
def State.settle (s : State) (id : Nat) : State :=
  match s.findAcc id with
  | none => s
  | some a =>
    if a.fixed && a.parts.all Part.performed then (s.modThread a.tid a.deliver).dropAcc id
    else if a.dest = none && a.isDone then s.dropAcc id
    else s

/-- One own-pool group performed if nothing of the thread stands before it. -/
def State.tryPart (s : State) (id i : Nat) : State :=
  match s.findAcc id with
  | none => s
  | some a =>
    match a.parts[i]? with
    | none => s
    | some p =>
      if p.stage = .port && s.groupReady a i && s.groupTurn a i a.core true then s.arrivePool a i a.core true
      else s

/-- An access of an instruction enters the list, oldest first, after those it must follow. -/
def State.enter (s : State) (a : Access) : State :=
  { s with accs := s.accs ++ [{ a with id := s.nextId }], nextId := s.nextId + 1 }

/-- A plain own-pool access is performed as it issues where nothing stands before it (R36, R451).
DEDUCED, unsafe: log 22. -/
def State.enterOwn (s : State) (a : Access) : State :=
  let id := s.nextId
  let s := s.enter a
  ((List.range a.parts.length).foldl (fun s i => s.tryPart id i) s).settle id

/-- A new access of the thread that issues, with its parts still at the port. -/
def State.newAccess (s : State) (op : AccOp) (dest : Option Reg) (ret : Ret) (fixed acq rel : Bool) (after : List Nat)
    (parts : List Part) : Access :=
  { id := 0, tid := s.me, core := coreOf s.me, launch := s.cur.launch, asid := s.cur.launch.asid, pc := s.cur.pc, op := op, dest := dest, ret := ret, fixed := fixed,
    acq := acq, rel := rel, after := after, again := false, parts := parts }

/-- A part at the port. -/
def mkPart (va : Word) (len off : Nat) (data : List Byte) : Part := ⟨va, len, off, data, .port, none, 0, none, none⟩

/-- The parts of an access to `n` bytes, none crossing a granule (R166). -/
def granuleParts (a : Word) (bytes : List Byte) (n : Nat) : List Part :=
  if n ≤ 16 then [mkPart a n 0 bytes]
  else (List.range (n / 16)).map (fun i => mkPart (a + BitVec.ofNat 64 (16 * i)) 16 (16 * i) ((bytes.drop (16 * i)).take 16))

/-- The number of consuming loads that a thread has outstanding (R81). -/
def State.consuming (s : State) (tid : Nat) : Nat := s.accs.countP (fun a => a.tid = tid && a.op.consumes)

/-- A request whose result is a word and whose latency is variable (R79): the register is pending until the result event.
DEDUCED, safe: log 17. -/
def State.enterWord (s : State) (d : Reg) (w : Word) : State :=
  (s.enter (s.newAccess .load (some d) (.word w) false false false [] [])).modCur (fun t => t.setPending d)

end Sys2Proof.Machine
end

