-- ==== Sys2Proof/Machine/Tree.lean ====
section
/-! DEFINITION. The work tree: sizes, coordinates and node indices (R291, R296, R304), the logical clock (R248) and the
horizon (R246), and the code section of a thread (R82, R83). -/

namespace Sys2Proof.Machine

/-! ## Sizes and coordinates -/

/-- FAN[l]; 1 beyond the tree. -/
def fanAt (ls : List Level) (l : Nat) : Nat := ((ls[l]?).map (fun v => v.fan)).getD 1
/-- BIND[l]. -/
def bindAt (ls : List Level) (l : Nat) : Nat := ((ls[l]?).map (fun v => v.bind)).getD 0
/-- FAN[a] × … × FAN[b − 1]. -/
def fanProd (ls : List Level) (a b : Nat) : Nat := ((ls.drop a).take (b - a)).foldl (fun p v => p * v.fan) 1
/-- The thread level s: the level whose binding is SLOT (R291). -/
def threadLevel (ls : List Level) : Nat := ls.findIdx (fun v => v.bind = 1)
/-- SIBLINGS(L) (R304). -/
def siblings (ls : List Level) (l : Nat) : Nat := fanAt ls (l + 1)
/-- COUNT(L) (R304). -/
def nodeCount (ls : List Level) (l : Nat) : Nat := fanProd ls (l + 1) ls.length
/-- THREADS(L) (R304). -/
def threadsBelow (ls : List Level) (l : Nat) : Nat := fanProd ls (threadLevel ls + 1) (l + 1)
/-- The threads of a tree. -/
def threadCount (ls : List Level) : Nat := fanProd ls (threadLevel ls + 1) ls.length
/-- The lanes of a thread that the tree addresses (R293). -/
def laneCount (ls : List Level) : Nat := fanProd ls 0 (threadLevel ls + 1)
/-- LANES(L) (R304). -/
def lanesOf (ls : List Level) (l : Nat) : Nat :=
  if l < threadLevel ls then fanProd ls 0 (l + 1) else 16 * threadsBelow ls l

/-- The index of a thread's node at a level l ≥ s, among all nodes of that level (R296). -/
def nodeIndex (ls : List Level) (gidx l : Nat) : Nat := gidx / threadsBelow ls l
/-- The coordinate c_l of a thread's node at a level l ≥ s (R296). -/
def coordAt (ls : List Level) (gidx l : Nat) : Nat := if l + 1 = ls.length then 0 else nodeIndex ls gidx l % fanAt ls (l + 1)
/-- The coordinate of lane i's node at a level l < s (R304). -/
def laneCoord (ls : List Level) (i l : Nat) : Nat := i / lanesOf ls l % fanAt ls (l + 1)
/-- The index of lane i's node at a level l < s among all nodes of that level (R307). -/
def laneNode (ls : List Level) (gidx i l : Nat) : Nat := gidx * (laneCount ls / lanesOf ls l) + i / lanesOf ls l

/-- The lane group size g of a level (R160): LANES(L) below the thread level. -/
def State.tree (s : State) : List Level := s.levels s.me

/-! ## Places -/

/-- Where a thread of a launch is placed: package, core of that package, slot. -/
def State.placeOf (s : State) (l : LaunchId) (gidx : Nat) : Option (Nat × Nat × Nat) :=
  (s.findLaunch l).bind (fun a => (a.gangs.flatMap (fun g => g.threads)).findSome? (fun t =>
    if t.2.2.2 = gidx then some (t.1, t.2.1, t.2.2.1) else none))

/-- The slot of a thread placed on this package, whether its cast has reached the core or not. -/
def State.placedTid (s : State) (l : LaunchId) (gidx : Nat) : Option Nat :=
  match s.findThread l gidx, s.placeOf l gidx with
  | some t, _ => some t
  | none, some (p, c, k) => if p = s.pkg then some (4 * c + k) else none
  | none, none => none

/-! ## Logical time -/

/-- The logical clock L of a context (R248). -/
def State.logical (s : State) (asid : Nat) : Nat :=
  let c := s.ctx asid
  (s.time.toNat - c.delta.toNat) / 2 ^ c.desc.tk

/-- The horizon of threads with these declared inputs (R246). -/
def horizonOf (d : Desc) (inputs : BitVec 8) : Nat :=
  match inputs.getLsbD 0, inputs.getLsbD 1 with
  | true, true => max d.bpkg (d.bdom + d.edom)
  | false, true => d.bdom + d.edom
  | _, false => d.bpkg

/-- The horizon of a thread (R246). -/
def State.horizon (s : State) (tid : Nat) : Nat :=
  let l := (s.thread tid).launch
  horizonOf (s.ctx l.asid).desc (((s.findLaunch l).map (fun a => a.image.inputs)).getD 0)

/-! ## The code section -/

/-- Whether an address is a valid target in a code section (R83). -/
def validIn (base : Word) (size : Nat) (a : Word) : Bool :=
  let d := (a - base).toNat
  d % 12 = 0 && decide (d < size)

/-- Whether an address is a valid target of a thread (R83).
DEDUCED, unsafe: log 20. -/
def State.validTarget (s : State) (tid : Nat) (a : Word) : Bool :=
  match s.imageOf tid with
  | some i => validIn i.codeBase i.codeSize a
  | none => false

end Sys2Proof.Machine
end

