-- ==== Sys2Proof/Machine/Control.lean ====
section
/-! DEFINITION. CTL (R127 to R130) and SYS (R131 to R136). -/

namespace Sys2Proof.Machine

/-! ## Transfers (R128) -/

/-- Control goes to a target after its check; `f` is what the transfer writes first (R83, R126, R128). -/
def State.transfer (s : State) (target : Word) (f : Thread → Thread) : State :=
  if s.validTarget s.me target then
    ((s.modCur f).finishAt target).modCur (fun t => { t with gap := s.clock + 2 })
  else s.raise .pcalign 0 target

/-- The relative target PC + 12 × disp (R82). -/
def relTarget (pc : Word) (o : Ops) : Word := pc + 12 * o.imm

/-- Branches to PC plus 12 times the displacement after checking the target. (R128) -/
def execCtlBra (o : Ops) (s : State) : Out :=
  issue 0x05 0x01 o [] false s (fun s => s.transfer (relTarget s.cur.pc o) id)

/-- Jumps to the byte address held in A. (R128) -/
def execCtlJmp (o : Ops) (s : State) : Out :=
  issue 0x05 0x02 o [] false s (fun s => s.transfer (s.cur.xr o.a) id)
/-- CALL writes x1, which it does not name. -/
def execCtlCall (o : Ops) (s : State) : Out :=
  issue 0x05 0x03 o [.x 1] false s (fun s => s.transfer (relTarget s.cur.pc o) (fun t => t.setX 1 (t.pc + 12)))

/-- Writes the return address to x1 and jumps to the address in A. (R128) -/
def execCtlCallr (o : Ops) (s : State) : Out :=
  issue 0x05 0x04 o [.x 1] false s (fun s => s.transfer (s.cur.xr o.a) (fun t => t.setX 1 (t.pc + 12)))

/-- Jumps to the address in x1. (R128) -/
def execCtlRet (o : Ops) (s : State) : Out :=
  issue 0x05 0x05 o [.x 1] false s (fun s => s.transfer (s.cur.getX 1) id)
/-- LOOP checks its displacement only where it branches. -/
def execCtlLoop (o : Ops) (s : State) : Out :=
  issue 0x05 0x06 o [] false s (fun s =>
    let n := s.cur.xr o.d - 1
    if n = 0 then (s.modCur (fun t => t.wx o.d n)).finish
    else s.transfer (relTarget s.cur.pc o) (fun t => t.wx o.d n))

/-- Does nothing. (R128) -/
def execCtlNop (o : Ops) (s : State) : Out := issueReg 0x05 0x07 o s id

/-! ## Frames (R129, R130) -/

/-- The frame registers with the address of each, downwards from `top`. -/
def frameSlots (top : Word) : List (Reg × Nat) → List (Reg × Nat × Word)
  | [] => []
  | (r, n) :: rs => (r, n, top - BitVec.ofNat 64 n) :: frameSlots (top - BitVec.ofNat 64 n) rs

/-- Whether the bytes from `lo` below `hi` lie in the scratchpad of a partition (R129). -/
def inScratch (w : Word) (lo hi : Nat) : Bool :=
  lo = hi || (decide (0xD * 2 ^ 60 ≤ lo) && decide (hi ≤ 0xD * 2 ^ 60 + partScr w * 1024))

/-- The bytes of an x or v register. -/
def regBytes (t : Thread) (r : Reg) (n : Nat) : List Byte :=
  match r with
  | .v k => leBytes n (t.getV k).toNat
  | _ => leBytes n (t.xr r).toNat

/-- One register of a frame stored. -/
def State.frameStore (s : State) (r : Reg × Nat × Word) : State :=
  s.enterOwn (s.newAccess (.store false) none .none false false false (s.mustFollow s.me .write)
    (granuleParts r.2.2 (regBytes s.cur r.1 r.2.1) r.2.1))

/-- One register of a frame loaded. -/
def State.frameLoad (s : State) (r : Reg × Nat × Word) : State :=
  s.enterOwn (s.newAccess .load (some r.1) (if r.2.1 = 8 then .scalar .i64 else .bytes none) true false false
    (s.mustFollow s.me .load) (granuleParts r.2.2 [] r.2.1))

/-- Opens a stack frame, checking STACKLIM and the pool, and stores the saved registers. (R129) The address recorded for a
frame that leaves the scratchpad is its first.
DEDUCED, unsafe: log 21; DESIGN CHOICE, unsafe: log 75. -/
def execCtlEnter (o : Ops) (s : State) : Out :=
  issue 0x05 0x08 o (frameExtra o) false s (fun s =>
    let x2 := s.cur.getX 2
    let new := x2 - BitVec.ofNat 64 (frameBytes o)
    if bitsAt x2 60 4 != 0xD then s.raise .pool 0 x2
    else if bitsAt x2 0 6 != 0 then s.raise .align 0 x2
    else if new.toNat < s.cur.stacklim.toNat then s.raise .stack 0 0
    else if !inScratch (s.core (coreOf s.me)).part new.toNat x2.toNat then s.raise .pool 0 new
    else (((frameSlots x2 (frameRegs o)).foldl State.frameStore s).modCur (fun t => t.setX 2 new)).finish)

/-- Closes a stack frame, reloading the saved registers and restoring x2. (R130) The address recorded for a frame that leaves the
scratchpad is its first.
DEDUCED, unsafe: log 23; DESIGN CHOICE, unsafe: log 75. -/
def execCtlLeave (o : Ops) (s : State) : Out :=
  issue 0x05 0x09 o (frameExtra o) false s (fun s =>
    let x2 := s.cur.getX 2
    let top := x2 + BitVec.ofNat 64 (frameBytes o)
    if bitsAt x2 60 4 != 0xD then s.raise .pool 0 x2
    else if bitsAt x2 0 6 != 0 then s.raise .align 0 x2
    else if !inScratch (s.core (coreOf s.me)).part x2.toNat (x2.toNat + frameBytes o) then s.raise .pool 0 x2
    else (((frameSlots top (frameRegs o)).foldl State.frameLoad s).modCur (fun t => t.setX 2 top)).finish)

/-! ## SYS (R131 to R136) -/

/-- SEL and IDX of GET and SET (R131). -/
def sysSel (o : Ops) : Nat := o.fld 22 8
def sysIdx (o : Ops) : Nat := o.fld 30 2

/-- The value of a special-register selector (R132). -/
def State.special (s : State) (sel idx : Nat) : Word :=
  let t := s.cur
  let core := coreOf s.me
  match sel with
  | 0 => s.time
  | 1 => t.tagT
  | 2 => t.tagM.zeroExtend 64
  | 3 => t.cycle
  | 4 => BitVec.ofNat 64 t.gidx
  | 5 => BitVec.ofNat 64 (s.me % 4)
  | 6 => BitVec.ofNat 64 (core % 8)
  | 7 => BitVec.ofNat 64 (tileOf core % 320)
  | 8 => BitVec.ofNat 64 (dieOf (tileOf core))
  | 9 => BitVec.ofNat 64 s.pkg
  | 10 => t.fpflags
  | 11 => t.rndmode
  | 12 => t.srstate
  | 13 => t.stacklim
  | 14 => BitVec.ofNat 64 (t.budget.getD 0)
  | 15 => lookAt 0 t.finfo idx
  | _ => BitVec.ofNat 64 (s.horizon s.me)

/-- The thread with a special register written; reserved bits are ignored (R133). -/
def Thread.setSpecial (t : Thread) (sel : Nat) (w : Word) : Thread :=
  match sel with
  | 10 => { t with fpflags := w &&& 0x3F }
  | 11 => { t with rndmode := w &&& 7 }
  | 12 => { t with srstate := w &&& 0xFFFFFFFF }
  | 13 => { t with stacklim := w }
  | _ => t

/-- Whether an access to FPFLAGS waits for the flags of an earlier special-function request (R54, R133).
DEDUCED, safe: log 11. -/
def State.flagsWait (s : State) (o : Ops) : Bool :=
  sysSel o = 10 && (s.core (coreOf s.me)).sfu.any (fun r => r.tid = s.me)

/-- Reads a special-register selector into D as of its issue cycle. (R133)
DEDUCED, safe: log 11. -/
def execSysGet (o : Ops) (s : State) : Out :=
  issue 0x06 0x01 o [] false s (fun s =>
    if s.flagsWait o then s else (s.modCur (fun t => t.wx o.d (s.special (sysSel o) (sysIdx o)))).finish)
/-- SET of RNDMODE refuses 5, 6 and 7 (R133).
DEDUCED, safe: log 11. -/
def execSysSet (o : Ops) (s : State) : Out :=
  issue 0x06 0x02 o [] false s (fun s =>
    let w := s.cur.xr o.a
    if sysSel o = 11 && decide (5 ≤ bitsAt w 0 3) then s.raise .illegal 5 0
    else if s.flagsWait o then s
    else (s.modCur (fun t => t.setSpecial (sysSel o) w)).finish)
/-- TRAP and BREAK stop at their own address (R135). -/
def execSysTrap (o : Ops) (s : State) : Out :=
  issue 0x06 0x03 o [] true s (fun s => s.raise .trap 0 (BitVec.ofNat 64 (o.fld 22 16)))

/-- Raises BREAK after acting as a switch marker. (R135) -/
def execSysBreak (o : Ops) (s : State) : Out := issue 0x06 0x04 o [] true s (fun s => s.raise .brk 0 0)

/-- Reads one of the thread's event counters into D. (R136) -/
def execSysPerf (o : Ops) (s : State) : Out :=
  issue 0x06 0x05 o [] false s (fun s => (s.modCur (fun t => t.wx o.d (lookAt 0 t.perf (o.fld 22 4)))).finish)

end Sys2Proof.Machine
end

