-- ==== Sys2Proof/Machine/LoadStore.lean ====
section
/-! DEFINITION. LD, ST, ATM, FNC (R174 to R184) and SCL.LD's checks (R221). -/

namespace Sys2Proof.Machine

/-- The partition word of the core that issues. -/
def State.myPart (s : State) : Word := (s.core (coreOf s.me)).part

/-- The issuing core's checks of one access of `len` bytes at `ea` (R171): ALIGN where `aligned`, POOL for a full/empty
access outside the pools (R172), then POOL and PROT of the address. -/
def State.accessFault (s : State) (aligned poolOnly : Bool) (ea : Word) (len : Nat) : Option FaultCode :=
  if aligned && ea.toNat % len != 0 then some .align
  else if poolOnly && spaceOf ea = .virt then some .pool
  else checkAddr s.myPart ea len

/-- EA of R175. -/
def effAddr (t : Thread) (o : Ops) (idx : Bool) : Word :=
  t.xr o.a + (if idx then t.xr o.b * BitVec.ofNat 64 (o.ty.width / 8) else 0) + o.disp

/-- A load-like access issues: a fixed-latency own-pool one is performed where nothing stands before it; any other leaves
its register pending (R79, R80). -/
def State.issueLoad (s : State) (op : AccOp) (d : Reg) (ret : Ret) (acq var : Bool) (parts : List Part) : State :=
  let after := s.mustFollow s.me .load
  let fixed := !var && parts.all (fun p => spaceOf p.va = .own)
  let a := s.newAccess op (some d) ret fixed acq false after parts
  if fixed then (s.enterOwn a).finish
  else ((s.enter a).modCur (fun t => t.setPending d)).finish

/-- A store-like access issues. An own-pool one is performed where nothing stands before it; a clear goes granule by
granule (R178). -/
def State.issueStore (s : State) (op : AccOp) (k : OrdKind) (rel : Bool) (parts : List Part) : State :=
  let after := s.mustFollow s.me k
  let a := s.newAccess op none .none false false rel after parts
  if op != .clear && parts.all (fun p => spaceOf p.va = .own) then (s.enterOwn a).finish else (s.enter a).finish

/-- The binding of the instruction's SCOPE level (R223). -/
def State.scopeBind (s : State) (o : Ops) : Nat := s.bindOf s.me o.scope

/-- SCOPE of an XM word, X[3:0] (R174). -/
def xmScope (o : Ops) : Nat := o.fld 0 4

/-- LD.DISP and LD.IDX (R176).
DEDUCED, unsafe: log 23. -/
def plainLoad (fn : Nat) (idx : Bool) (o : Ops) (s : State) : Out :=
  issue 0x08 fn o [] false s (fun s =>
    let ea := effAddr s.cur o idx
    match s.accessFault true false ea (o.ty.width / 8) with
    | some c => s.raise c 0 ea
    | none => s.issueLoad .load o.d (.scalar o.ty) false false [mkPart ea (o.ty.width / 8) 0 []])

/-- Loads W bytes at A plus DISP into D. (R176) -/
def execLdDisp (o : Ops) (s : State) : Out := plainLoad 0x01 false o s

/-- Loads W bytes at A plus scaled index B plus DISP. (R176) -/
def execLdIdx (o : Ops) (s : State) : Out := plainLoad 0x02 true o s
/-- LD.FE waits at the pool for a full granule (R176, R177); a ninth one stalls its slot (R81). -/
def execLdFe (o : Ops) (s : State) : Out :=
  issue 0x08 0x03 o [] false s (fun s =>
    let ea := effAddr s.cur o false
    match s.accessFault true true ea (o.ty.width / 8) with
    | some c => s.raise c 0 ea
    | none =>
      if 8 ≤ s.consuming s.me then s.await .stalled .consumeRoom
      else s.issueLoad (.consume (o.fld 4 1 = 1)) o.d (.scalar o.ty) false true [mkPart ea (o.ty.width / 8) 0 []])
/-- LD.ACQ (R176): LEVEL before any access (R174). -/
def execLdAcq (o : Ops) (s : State) : Out :=
  issue 0x08 0x04 o [] false s (fun s =>
    let ea := effAddr s.cur o false
    if s.depth s.me ≤ xmScope o then s.raise .level 0 0
    else
      match s.accessFault true false ea (o.ty.width / 8) with
      | some c => s.raise c 0 ea
      | none => s.issueLoad .load o.d (.scalar o.ty) true true [mkPart ea (o.ty.width / 8) 0 []])
/-- LD.PROBE reads a full bit; no alignment (R176). -/
def execLdProbe (o : Ops) (s : State) : Out :=
  issue 0x08 0x05 o [] false s (fun s =>
    let ea := effAddr s.cur o false
    match s.accessFault false true ea 1 with
    | some c => s.raise c 0 ea
    | none => s.issueLoad .probe o.d .pred false false [mkPart ea 1 0 []])

/-- ST.DISP, IDX, FE and REL (R178). -/
def plainStore (fn : Nat) (idx full : Bool) (o : Ops) (s : State) : Out :=
  issue 0x09 fn o [] false s (fun s =>
    let ea := effAddr s.cur o idx
    if fn = 0x04 && s.depth s.me ≤ xmScope o then s.raise .level 0 0
    else
      match s.accessFault true full ea (o.ty.width / 8) with
      | some c => s.raise c 0 ea
      | none =>
        let k := if fn = 0x04 then OrdKind.release else .write
        s.issueStore (.store full) k (fn = 0x04) [mkPart ea (o.ty.width / 8) 0 (tyBytes o.ty (s.cur.xr o.d))])

/-- Stores W bytes of D at A plus DISP. (R178) -/
def execStDisp (o : Ops) (s : State) : Out := plainStore 0x01 false false o s

/-- Stores W bytes at the indexed address. (R178) -/
def execStIdx (o : Ops) (s : State) : Out := plainStore 0x02 true false o s

/-- Stores and sets the granule's full bit in one step. (R178) -/
def execStFe (o : Ops) (s : State) : Out := plainStore 0x03 false true o s

/-- Stores with release semantics at the named scope. (R178) -/
def execStRel (o : Ops) (s : State) : Out := plainStore 0x04 false false o s
/-- ST.CLR empties the granules of EA to EA + B − 1 (R178). -/
def execStClr (o : Ops) (s : State) : Out :=
  issue 0x09 0x05 o [] false s (fun s =>
    let ea := effAddr s.cur o false
    let b := (s.cur.xr o.b).toNat
    if ea.toNat % 16 != 0 || b % 16 != 0 then s.raise .align 0 ea
    else if b = 0 then s.finish
    else if poolSize < b then (match s.accessFault false true ea 16 with
      | some .prot => s.raise .prot 0 ea
      | _ => s.raise .pool 0 ea)
    else
      match s.accessFault false true ea b with
      | some c => s.raise c 0 ea
      | none => s.issueStore .clear .write false
          ((List.range (b / 16)).map (fun i => mkPart (ea + BitVec.ofNat 64 (16 * i)) 16 0 [])))

/-- An atomic (R180, R181): LEVEL, ALIGN, POOL, PROT, then one access with the order of its qualifiers. -/
def atomicOp (fn : Nat) (f : AtmFn) (o : Ops) (s : State) : Out :=
  issue 0x0A fn o [] false s (fun s =>
    let ea := s.cur.xr o.a
    if s.depth s.me ≤ o.scope then s.raise .level 0 0
    else
      match s.accessFault true false ea (o.ty.width / 8) with
      | some c => s.raise c 0 ea
      | none =>
        let acq := o.order = 1 || o.order = 3
        let rel := o.order = 2 || o.order = 3
        let after := s.mustFollow s.me (if rel then .release else .write)
        let op := AccOp.atomic f o.ty (s.cur.xr o.b) (s.cur.xr o.c) (s.cur.mode o.rnd false)
        let d := if o.d = .x 0 then none else some o.d
        let a := s.newAccess op d (if d.isSome then .scalar o.ty else .none) false acq rel after
          [mkPart ea (o.ty.width / 8) 0 []]
        let s := s.enter a
        (match d with
          | some d => s.modCur (fun t => t.setPending d)
          | none => s).finish)

/-- Atomically adds B at the address and returns the old value. (R180) -/
def execAtmAdd (o : Ops) (s : State) : Out := atomicOp 0x01 .add o s

/-- Atomically ANDs B at the address. (R180) -/
def execAtmAnd (o : Ops) (s : State) : Out := atomicOp 0x02 .and o s

/-- Atomically ORs B at the address. (R180) -/
def execAtmOr (o : Ops) (s : State) : Out := atomicOp 0x03 .or o s

/-- Atomically XORs B at the address. (R180) -/
def execAtmXor (o : Ops) (s : State) : Out := atomicOp 0x04 .xor o s

/-- Atomically keeps the minimum of the location and B. (R180) -/
def execAtmMin (o : Ops) (s : State) : Out := atomicOp 0x05 .min o s

/-- Atomically keeps the maximum of the location and B. (R180) -/
def execAtmMax (o : Ops) (s : State) : Out := atomicOp 0x06 .max o s

/-- Atomically exchanges the location with B. (R180) -/
def execAtmXchg (o : Ops) (s : State) : Out := atomicOp 0x07 .xchg o s

/-- Atomically writes C when the location equals B. (R180) -/
def execAtmCas (o : Ops) (s : State) : Out := atomicOp 0x08 .cas o s

/-- Atomically adds an FP32 value with rounding and no flags. (R180) -/
def execAtmFadd (o : Ops) (s : State) : Out := atomicOp 0x09 .fadd o s

/-! ## FNC (R183, R184) -/

/-- A fence with the order code (1 acq, 2 rel, 3 ar): the accesses that later ones will wait for (R183, R233). It orders them
for the parties within its level, wherever they lie; host memory lies within none (R223).
DEDUCED, unsafe: log 22. -/
def State.fence (s : State) (order : Nat) : State :=
  let und := s.undone s.me
  let loads := (und.filter (fun a => a.op.reads)).map (fun a => a.id)
  let all := (und.filter (s.precedes .release)).map (fun a => a.id)
  let live := fun (ids : List Nat) => ids.filter (fun i => und.any (fun a => a.id = i))
  s.modCur (fun t => { t with
    fenceAll := live t.fenceAll ++ (if order = 1 || order = 3 then loads else []),
    fenceWr := live t.fenceWr ++ (if order = 2 || order = 3 then all else []) })

/-- Whether every earlier write of a thread inside the extent of a binding has been acknowledged (R184). -/
def State.drained (s : State) (tid bind : Nat) : Bool :=
  (s.undone tid).all (fun a => !a.op.writes || a.parts.all (fun p => p.stage = .acked || match s.partLoc a p with
    | some l => !s.inExtent (coreOf tid) bind l
    | none => false))

/-- Whether every copy command of a thread in the queues of a mask is done, discarded or checkpointed (R184, R192). -/
def State.copiesDone (s : State) (tid qmask : Nat) : Bool :=
  [0, 1, 2, 3].all (fun q => !qmask.testBit q ||
    (lookAt [] (s.core (coreOf tid)).copies q).all (fun c => c.tid != tid || c.state = .checkpointed))

/-- FENCE orders without waiting (R183). -/
def execFncFence (o : Ops) (s : State) : Out :=
  issue 0x0B 0x01 o [] false s (fun s =>
    if s.depth s.me ≤ o.scope then s.raise .level 0 0 else (s.fence o.order).finish)

/-- DRAIN waits for earlier writes in the extent and for copies of QMASK, then acts as a FENCE ar (R184). -/
def execFncDrain (o : Ops) (s : State) : Out :=
  issueLate 0x0B 0x02 o s (fun s =>
    if s.depth s.me ≤ o.scope then s.raise .level 0 0
    else if s.drained s.me (s.scopeBind o) && s.copiesDone s.me o.qmask then
      ((s.clearPending o.h.sw).fence 3).finish
    else s.await .parked (.drain o.scope o.qmask))

end Sys2Proof.Machine
end

