-- ==== Sys2Proof/Machine/Barrier.lean ====
section
/-! DEFINITION. Barriers: home tiles, member entries, the BAR instructions (R378 to R386), phases and releases (R385,
R387), curtain lines (R389, R390) and departures (R455). -/

namespace Sys2Proof.Machine

/-! ## Homes (R378) -/

/-- The package and home tile of a node (R378). -/
def State.homeTile (s : State) (l : LaunchId) (level node : Nat) : Option (Nat × Nat) :=
  (s.placeOf l (node * threadsBelow (s.levelsOf l) level)).map (fun p => (p.1, tileOf p.2.1))

/-- The home of a barrier of the thread that issues; its own tile where its launch is not known. -/
def State.myHome (s : State) (key : BarKey) : Nat × Nat :=
  (s.homeTile key.launch key.level key.node).getD (s.pkg, tileOf (coreOf s.me))

/-- The name of barrier `n` of the issuing thread's node at a level (R378). -/
def State.barKey (s : State) (level n : Nat) : BarKey :=
  ⟨s.cur.launch, level, nodeIndex s.tree s.cur.gidx level, n⟩

/-- The issuing thread. -/
def State.myId (s : State) : ThreadId := ⟨s.cur.launch, s.cur.gidx⟩

/-- The entries of a tile's barrier table in use, as (entry, barrier). -/
def Tile.barriers (t : Tile) : List (Nat × Barrier) := t.bars.filterMap (fun p => p.2.map (fun b => (p.1, b)))
/-- The entry of a barrier. -/
def Tile.findBar (t : Tile) (key : BarKey) : Option (Nat × Barrier) := t.barriers.find? (fun p => p.2.key = key)
/-- A free entry of the 64. -/
def Tile.freeBar (t : Tile) : Option Nat := (List.range 64).find? (fun i => (lookAt none t.bars i).isNone)
/-- Whether the home tile has the barrier, or room for it. -/
def Tile.barRoom (t : Tile) (key : BarKey) : Bool := (t.findBar key).isSome || t.freeBar.isSome
/-- An entry of a tile's barrier table set or freed. -/
def State.setBar (s : State) (tile i : Nat) (b : Option Barrier) : State :=
  s.modTile tile (fun t => { t with bars := putAt none t.bars i b })

/-- A barrier just taken: the departures of its node are drops already held (R455). -/
def Tile.newBar (t : Tile) (key : BarKey) : Barrier :=
  { key := key, init := false, curtain := false, bound := false, sense := false, retried := false, count := 0, arrived := [],
    dropped := (t.departed.filter (fun d => d.launch = key.launch && d.level = key.level && d.node = key.node)).map
      (fun d => d.who),
    phase := 0, timeout := 0, elapsed := 0, rect := 0, chan := 0, maker := none, due := none }

/-- The state with the barrier's entry taken, and the entry; none if the table is full. -/
def State.takeBar (s : State) (tile : Nat) (key : BarKey) : Option (State × Nat × Barrier) :=
  let t := s.tile tile
  match t.findBar key with
  | some (i, b) => some (s, i, b)
  | none => t.freeBar.map (fun i => (s.setBar tile i (some (t.newBar key)), i, t.newBar key))

/-! ## Messages -/

/-- The node that a message to a home tile is for. -/
def barMsgHome : BarMsg → Option (LaunchId × Nat × Nat)
  | .arrive k _ _ | .drop k _ _ | .init k _ _ _ _ | .ask k _ => some (k.launch, k.level, k.node)
  | .depart l v n _ _ => some (l, v, n)
  | _ => none

/-- The member that a message from a home tile is for. -/
def barMsgMember : BarMsg → Option ThreadId
  | .release _ w _ _ _ _ _ | .freed _ w | .timeout _ w _ _ _ | .room _ w => some w
  | _ => none

/-- The thread that sent a message to a home tile. -/
def barMsgSender : BarMsg → Option ThreadId
  | .arrive _ w _ | .drop _ w _ | .init _ _ _ _ w | .depart _ _ _ w _ | .ask _ w => some w
  | _ => none

/-- The package that a message goes to. -/
def State.barPkg (s : State) (m : BarMsg) : Option Nat :=
  match barMsgHome m, barMsgMember m with
  | some (l, v, n), _ => (s.homeTile l v n).map Prod.fst
  | none, some w => (s.placeOf w.launch w.gidx).map Prod.fst
  | none, none => none

/-- A barrier message put on its way, behind the accesses of its DRAIN.
DEDUCED, unsafe: log 54. -/
def State.sendBar (s : State) (m : BarMsg) (after : List Nat) : State :=
  { s with barMsgs := s.barMsgs ++ [⟨s.nextId, m, after⟩], nextId := s.nextId + 1 }

/-! ## Phases (R385, R387, R390) -/

/-- Whether arrivals are counted: initialised and, for a curtain barrier, bound (R389, R394). -/
def Barrier.isOpen (b : Barrier) : Bool := b.init && (!b.curtain || b.bound)
/-- Whether the phase is complete (R385). -/
def Barrier.complete (b : Barrier) : Bool := b.isOpen && decide (1 ≤ b.count) && b.arrived.length = b.count

/-- The threads beneath the node of a barrier. -/
def State.barMembers (s : State) (key : BarKey) : List ThreadId :=
  let n := threadsBelow (s.levelsOf key.launch) key.level
  (List.range n).map (fun i => ⟨key.launch, key.node * n + i⟩)

/-- The phase released in one step: arrivals reset, SENSE flipped, a new phase, and the release sent to every member that
arrived, or under IGNORE to every member (R385, R387). `due` is the cycle in which a curtain release reaches them. -/
def State.releaseBar (s : State) (tile i : Nat) (b : Barrier) (timedOut : Bool) (due : Nat) : State :=
  let s := s.setBar tile i (some { b with
    arrived := [], sense := !b.sense, phase := b.phase + 1, retried := false, elapsed := 0, due := none })
  let told := if timedOut then (s.barMembers b.key).filter (fun w => !b.dropped.contains w) else b.arrived
  told.foldl (fun s w => s.sendBar (.release b.key w b.phase (!b.sense) timedOut (!b.arrived.contains w) due) []) s

/-- The barrier freed, with the entries of its members (R378, R380, R385). -/
def State.freeBar (s : State) (tile i : Nat) (b : Barrier) : State :=
  (s.barMembers b.key).foldl (fun s w => s.sendBar (.freed b.key w) []) (s.setBar tile i none)

/-- The barrier as it is after an INIT, a LINE, an arrival or a drop: freed, released, or left in its phase. A curtain
release is the curtain logic's (R390).
DEDUCED, unsafe: log 56. -/
def State.settleBar (s : State) (tile i : Nat) (b : Barrier) : State :=
  if b.init && b.count = 0 then s.freeBar tile i b
  else if b.complete && !b.curtain then s.releaseBar tile i b false 0
  else s.setBar tile i (some b)

/-- An arrival counted at the barrier in an entry; none where the barrier has been freed. -/
def State.countArrival (s : State) (tile i : Nat) (who : ThreadId) : State :=
  match lookAt none (s.tile tile).bars i with
  | some b => s.settleBar tile i { b with arrived := b.arrived ++ [who] }
  | none => s

/-- INIT at the home tile: the count is known, and the arrivals already held are applied in their order (R383, R385). -/
def State.initBar (s : State) (tile i : Nat) (b : Barrier) (count timeout : Nat) (curtain : Bool) (who : ThreadId) : State :=
  if b.init then s
  else
    let n := if count = 0 then threadsBelow (s.levelsOf b.key.launch) b.key.level else count
    b.arrived.foldl (fun (s : State) w => s.countArrival tile i w)
      (s.settleBar tile i { b with init := true, curtain := curtain, count := n - b.dropped.length, timeout := timeout,
                                   arrived := [], maker := some who })

/-- A drop at the home tile (R384): the count falls, and an arrival of the phase is withdrawn. -/
def Barrier.drop (b : Barrier) (who : ThreadId) (withdraw : Bool) : Barrier :=
  if b.dropped.contains who then b
  else { b with dropped := b.dropped ++ [who], count := if b.init then b.count - 1 else b.count,
                arrived := if withdraw then b.arrived.erase who else b.arrived }

/-! ## Member entries (R380) -/

/-- The member entry of a barrier. -/
def Thread.member (t : Thread) (level obj : Nat) : Option Member := t.members.find? (fun e => e.level = level && e.obj = obj)
/-- A new entry. -/
def newMember (level obj : Nat) (sense : Bool) : Member := ⟨level, obj, sense, false, false, 0, false, 0⟩
/-- The thread with its entry of a barrier changed. -/
def Thread.modMember (t : Thread) (level obj : Nat) (f : Member → Member) : Thread :=
  { t with members := t.members.map (fun e => if e.level = level && e.obj = obj then f e else e) }
/-- The thread with an entry made for a barrier it has not touched. -/
def Thread.touch (t : Thread) (level obj : Nat) : Thread :=
  if (t.member level obj).isSome then t else { t with members := t.members ++ [newMember level obj false] }
/-- Whether a ninth entry would be needed. -/
def Thread.noMemberRoom (t : Thread) (level obj : Nat) : Bool := (t.member level obj).isNone && decide (8 ≤ t.members.length)

/-! ## The instructions (R381 to R384, R389) -/

/-- OBJ, MODE and CHAN (R381). -/
def barObj (o : Ops) : Nat := o.fld 22 6
def barMode (o : Ops) : Bool := o.fld 28 1 = 1
def barChan (o : Ops) : Nat := o.fld 29 3

/-- The residence level of the issuing thread's kernel. -/
def State.residence (s : State) : Nat := ((s.imageOf s.me).map (fun i => i.resident)).getD 0

/-- The first two checks of R382. -/
def State.barFault (s : State) (o : Ops) : Option FaultCode :=
  if s.depth s.me ≤ o.scope || decide (o.scope < threadLevel s.tree) then some .level
  else if s.residence < o.scope then some .barQueued
  else none

/-- Whether a barrier has its entry, or can take one (R378): at a home tile on this package there is one; of one elsewhere the answer
has come. -/
def State.barOpen (s : State) (key : BarKey) : Bool :=
  let h := s.myHome key
  if h.1 = s.pkg then (s.tile h.2).barRoom key else s.cur.barAsk = some (key.level, key.obj, true)

/-- The home tile on another package asked for the entry, once.
DEDUCED, unsafe: log 54. -/
def State.askBar (s : State) (key : BarKey) : State :=
  if (s.myHome key).1 = s.pkg || s.cur.barAsk = some (key.level, key.obj, false) then s
  else (s.sendBar (.ask key s.myId) []).modCur (fun t => { t with barAsk := some (key.level, key.obj, false) })

/-- What has been asked for is used. -/
def Thread.barSent (t : Thread) : Thread := { t with barAsk := none }

/-- A BAR instruction after its first checks: `body` gets the barrier's name and its home tile, if that is on this package.
A full table at the home tile stalls the slot (R378). -/
def State.withBar (s : State) (o : Ops) (takes : Bool) (body : BarKey → Option Nat → State → State) : State :=
  match s.barFault o with
  | some c => s.raise c 0 0
  | none =>
    let key := s.barKey o.scope (barObj o)
    let h := s.myHome key
    if takes && !s.barOpen key then (s.askBar key).await .stalled (.barRoom o.scope (barObj o))
    else body key (if h.1 = s.pkg then some h.2 else none) s

/-- INIT's own checks (R382).
DEDUCED, unsafe: log 54. -/
def State.initFault (s : State) (o : Ops) : Option Nat :=
  if 2 ^ 32 ≤ (s.cur.xr o.b).toNat then some 6
  else if barMode o && s.cur.xr o.a != 0 then some 5
  else if barMode o && decide (5 ≤ s.bindOf s.me o.scope) then some 10
  else if 2 ^ 32 ≤ (s.cur.xr o.a).toNat then some 5
  else none

/-- INIT (R383): at once where the home tile is on this package, else by a message. -/
def execBarInit (o : Ops) (s : State) : Out :=
  issue 0x1E 0x01 o [] false s (fun s =>
    match s.barFault o, s.initFault o with
    | none, some f => s.raise .illegal f 0
    | _, _ =>
      s.withBar o true (fun key home s =>
        let count := (s.cur.xr o.a).toNat
        let timeout := (s.cur.xr o.b).toNat
        match home with
        | some tile =>
          (match s.takeBar tile key with
           | some (s, i, b) => s.initBar tile i b count timeout (barMode o) s.myId
           | none => s).finish
        | none => ((s.sendBar (.init key count timeout (barMode o) s.myId) []).modCur Thread.barSent).finish))

/-- The DRAIN that comes before an arrival or a drop, at its level and with QMASK 0: the thread waits as at a switch marker, and then a
FENCE `ar` holds (R184, R241). -/
def State.draining (s : State) (o : Ops) (go : State → State) : State :=
  if s.drained s.me (s.scopeBind o) then go (s.fence 3) else s.await .parked (.drain o.scope 0)

/-- The arrival of ARRIVE and SYNC after its DRAIN (R383, R388): it leaves behind what it must follow (R452).
DEDUCED, unsafe: log 55. -/
def State.arrive (s : State) (o : Ops) (key : BarKey) (next : State → State) : State :=
  let n := barObj o
  match s.cur.member o.scope n with
  | some e =>
    if e.arrived then s.raise .barOverrun 0 1
    else if e.dropped then s.raise .barOverrun 0 3
    else s.draining o (fun s => next (send e.sense s))
  | none => if s.cur.noMemberRoom o.scope n then s.raise .barOverrun 0 2 else s.draining o (fun s => next (send false s))
where
  /-- The entry marked and the message sent. -/
  send (sense : Bool) (s : State) : State :=
    (s.sendBar (.arrive key s.myId sense) (s.mustFollow s.me (.arrive (s.scopeBind o)))).modCur (fun t =>
      (t.barSent.touch o.scope (barObj o)).modMember o.scope (barObj o) (fun e => { e with arrived := true, done := false, pc := t.pc }))

/-- Drains, releases and sends the thread's arrival to the barrier. (R383)
DEDUCED, unsafe: log 55. -/
def execBarArrive (o : Ops) (s : State) : Out :=
  issue 0x1E 0x02 o [] false s (fun s => s.withBar o true (fun key _ s => s.arrive o key State.finish))

/-- The wait of WAIT and SYNC (R383, R386): parked while the phase of the arrival is not released.
DEDUCED, unsafe: log 56. -/
def State.barWait (s : State) (o : Ops) : State :=
  let n := barObj o
  match s.cur.member o.scope n with
  | some e =>
    if e.arrived then s.await .parked (.barrier o.scope n)
    else
      let status : Word := if e.dropped then 4 else if e.done then e.status else 2
      (s.modCur (fun t => (t.modMember o.scope n (fun e => { e with done := false })).wx o.d status)).finish
  | none =>
    if s.cur.noMemberRoom o.scope n then s.raise .barOverrun 0 2
    else (s.modCur (fun t => (t.touch o.scope n).wx o.d 2)).finish

/-- Waits for the release of the thread's phase and acquires. (R383) -/
def execBarWait (o : Ops) (s : State) : Out :=
  issue 0x1E 0x03 o [] true s (fun s => s.withBar o false (fun _ _ s => s.barWait o))

/-- SYNC arrives once, then waits (R383). -/
def execBarSync (o : Ops) (s : State) : Out :=
  issue 0x1E 0x04 o [] true s (fun s =>
    if s.cur.wait = some (.barrier o.scope (barObj o)) then s.barWait o
    else s.withBar o true (fun key _ s => s.arrive o key (fun s => s.barWait o)))

/-- The fields of a rectangle (R389). -/
def rectRow0 (w : Word) : Nat := bitsAt w 0 4
def rectCol0 (w : Word) : Nat := bitsAt w 4 5
def rectNrow (w : Word) : Nat := bitsAt w 9 4
def rectNcol (w : Word) : Nat := bitsAt w 13 5

/-- Whether a package tile lies in a rectangle of a die. -/
def inRect (w : Word) (die tile : Nat) : Bool :=
  let n := tile % 320
  dieOf tile = die && decide (rectRow0 w ≤ n / 20 ∧ n / 20 ≤ rectRow0 w + rectNrow w) &&
    decide (rectCol0 w ≤ n % 20 ∧ n % 20 ≤ rectCol0 w + rectNcol w)

/-- Whether two rectangles share a tile of a die. -/
def rectsMeet (a b : Word) : Bool :=
  decide (rectRow0 a ≤ rectRow0 b + rectNrow b ∧ rectRow0 b ≤ rectRow0 a + rectNrow a) &&
  decide (rectCol0 a ≤ rectCol0 b + rectNcol b ∧ rectCol0 b ≤ rectCol0 a + rectNcol a)

/-- The curtain barriers bound on this package, each with its home tile. -/
def State.curtains (s : State) : List (Nat × Barrier) :=
  s.tiles.flatMap (fun p => (p.2.barriers.filter (fun b => b.2.bound)).map (fun b => (p.1, b.2)))

/-- LINE's faults of its rectangle: FIELD 5 (R389). -/
def State.lineRectBad (s : State) (key : BarKey) (die : Nat) (a : Word) : Bool :=
  bitsAt a 18 46 != 0 || decide (15 < rectRow0 a + rectNrow a) || decide (19 < rectCol0 a + rectNcol a) ||
    (s.barMembers key).any (fun w => match s.placeOf w.launch w.gidx with
      | some (p, c, _) => p != s.pkg || !inRect a die (tileOf c)
      | none => false)

/-- An arrival held before LINE counted at the bound barrier: its release reaches the members 40 cycles later (R390). -/
def State.countCurtain (s : State) (tile i : Nat) (who : ThreadId) : State :=
  match lookAt none (s.tile tile).bars i with
  | some b =>
    let b := { b with arrived := b.arrived ++ [who] }
    if b.complete then s.releaseBar tile i b false (s.clock + 40) else s.setBar tile i (some b)
  | none => s

/-- LINE at the home tile: the channel is bound, and the arrivals already held are applied in their order (R389, R390). -/
def State.bindLine (s : State) (tile i : Nat) (b : Barrier) (rect : Word) (chan : Nat) : State :=
  b.arrived.foldl (fun (s : State) w => s.countCurtain tile i w)
    (s.settleBar tile i { b with bound := true, rect := rect, chan := chan, arrived := [] })

/-- LINE binds a curtain barrier that this thread has initialised (R389). -/
def execBarLine (o : Ops) (s : State) : Out :=
  issue 0x1E 0x05 o [] true s (fun s => s.withBar o false (fun key home s =>
    let a := s.cur.xr o.a
    let tile := home.getD (tileOf (coreOf s.me))
    if s.lineRectBad key (dieOf tile) a then s.raise .illegal 5 0
    else
      match if home.isSome then (s.tile tile).findBar key else none with
      | none => s.raise .illegal 10 0
      | some (i, b) =>
        if !b.curtain || b.maker != some s.myId || b.bound ||
            s.curtains.any (fun c => c.2.chan = barChan o && dieOf c.1 = dieOf tile && rectsMeet a c.2.rect) then
          s.raise .illegal 10 0
        else (s.bindLine tile i b a (barChan o)).finish))

/-- DROP (R384). -/
def execBarDrop (o : Ops) (s : State) : Out :=
  issue 0x1E 0x06 o [] false s (fun s => s.withBar o true (fun key _ s =>
    let n := barObj o
    let send := fun (withdraw : Bool) (s : State) =>
      ((s.sendBar (.drop key s.myId withdraw) (s.mustFollow s.me (.arrive (s.scopeBind o)))).modCur (fun t =>
        (t.barSent.touch o.scope n).modMember o.scope n (fun e => { e with dropped := true, arrived := false, done := false }))).finish
    match s.cur.member o.scope n with
    | some e => if e.dropped then s.finish else s.draining o (send e.arrived)
    | none => if s.cur.noMemberRoom o.scope n then s.raise .barOverrun 0 2 else s.draining o (send false)))

/-! ## Departures (R384, R455) -/

/-- The departure of a thread from every node above it up to the residence level; its arrivals still on their way are
withdrawn with it. -/
def State.depart (s : State) (tid : Nat) : State :=
  let t := s.thread tid
  let ls := s.levels tid
  let r := ((s.imageOf tid).map (fun i => i.resident)).getD 0
  let who : ThreadId := ⟨t.launch, t.gidx⟩
  let s := { s with barMsgs := s.barMsgs.filter (fun m => match m.msg with
    | .arrive _ w _ | .ask _ w => w != who
    | _ => true) }
  let s := ((List.range (r + 1)).filter (fun l => decide (threadLevel ls ≤ l))).foldl (fun (s : State) l =>
    s.sendBar (.depart t.launch l (nodeIndex ls t.gidx l) who
      ((t.members.filter (fun e => e.level = l)).map (fun e => (e.obj, e.arrived, e.dropped)))) []) s
  s.modThread tid (fun t => { t with members := [] })

/-- Whether an earlier message on its way passes between the same thread and its homes. -/
def State.barEarlier (s : State) (f : BarFly) : Bool :=
  (s.barMsgs.takeWhile (fun g => g.id != f.id)).any (fun g =>
    (barMsgSender f.msg).isSome && barMsgSender g.msg = barMsgSender f.msg && barMsgHome g.msg = barMsgHome f.msg ||
    (barMsgMember f.msg).isSome && barMsgMember g.msg = barMsgMember f.msg)

end Sys2Proof.Machine
end

