-- ==== Sys2Proof/Machine/Flit.lean ====
section
/-! DEFINITION. The 256 bytes of a flit: header, payload and CRC (R420). -/

namespace Sys2Proof

/-- The code of a flit's kind (R420). -/
def FlitKind.code : FlitKind → BitVec 4
  | .idle => 0 | .data => 1 | .stamp => 2 | .retry => 3 | .manage => 4
  | .reserved n => n

/-- The kind of a code: 5 to 15 are reserved. -/
def flitKindOf (n : BitVec 4) : FlitKind :=
  match n with
  | 0 => .idle | 1 => .data | 2 => .stamp | 3 => .retry | 4 => .manage
  | n => .reserved n

/-- Whether a kind is one of the reserved ones. -/
def FlitKind.isReserved (k : FlitKind) : Bool := decide (5 ≤ k.code.toNat)

/-- The header of a flit (R420). -/
def Flit.header (f : Flit) : Word :=
  let at' := fun (v : Nat) (lo : Nat) => BitVec.ofNat 64 (v * 2 ^ lo)
  at' f.vc.toNat 0 ||| at' f.seq.toNat 3 ||| at' f.ack.toNat 15 ||| at' (if f.ackv then 1 else 0) 27 |||
    at' f.kind.code.toNat 28 ||| at' f.dst.toNat 32 ||| at' f.src.toNat 43 ||| at' f.credit.toNat 54 ||| at' f.cvc.toNat 60 |||
    at' (if f.last then 1 else 0) 63

/-- A flit with the header fields of a header word (R420). -/
def Flit.withHeader (f : Flit) (h : Word) : Flit :=
  { f with
    vc := h.extractLsb' 0 3, seq := h.extractLsb' 3 12, ack := h.extractLsb' 15 12, ackv := h.getLsbD 27,
    kind := flitKindOf (h.extractLsb' 28 4), dst := h.extractLsb' 32 11, src := h.extractLsb' 43 11, credit := h.extractLsb' 54 6,
    cvc := h.extractLsb' 60 3, last := h.getLsbD 63 }

/-- The polynomial of ECMA-182 without its x^64 (R420). -/
def crcPoly : Nat := 0x42F0E1EBA9EA3693

/-- The CRC register after `k` more bits of a byte, the highest first. -/
def crcBits : Nat → Nat → Nat
  | 0, r => r
  | k + 1, r => crcBits k (if r < 2 ^ 63 then 2 * r else (2 * r % 2 ^ 64) ^^^ crcPoly)

/-- The CRC register after a byte, and after a byte string; the register is looked at before each byte, so that it is a number then. -/
def crcByte (r : Nat) (b : Byte) : Nat := crcBits 8 (r ^^^ (b.toNat * 2 ^ 56))
def crcBytes : List Byte → Nat → Nat
  | [], r => r
  | b :: bs, 0 => crcBytes bs (crcByte 0 b)
  | b :: bs, r + 1 => crcBytes bs (crcByte (r + 1) b)

/-- The CRC-64 of a byte string: the register starts at zero and is taken as it ends, bytes enter with their highest bit first.
DESIGN CHOICE, unsafe: log 92. -/
def crc64 (bs : List Byte) : BitVec 64 := BitVec.ofNat 64 (crcBytes bs 0)

/-- The bytes that the CRC covers: the header and 240 bytes of payload (R420). A payload that the spec does not lay out is empty, and
counts as zeros.
DESIGN CHOICE, unsafe: log 92. -/
def Flit.covered (f : Flit) : List Byte :=
  leBytes 8 f.header.toNat ++ f.payload.take 240 ++ List.replicate (240 - f.payload.length) 0

/-- A flit with the CRC of what it carries. -/
def Flit.sealed (f : Flit) : Flit := { f with crc := crc64 f.covered }

/-- Whether a flit passes FEC and CRC (R420, R421). -/
def Flit.good (f : Flit) : Bool := f.fec && f.crc = crc64 f.covered

/-- Whether a flit stands in the order of SEQ and in the replay buffer, so that it is not lost: data, management and time stamps, and an
idle flit that returns credits. Other idle flits and retry requests do not (R421).
DEDUCED, unsafe: log 57. -/
def Flit.kept (f : Flit) : Bool :=
  match f.kind with
  | .data | .manage | .stamp => true
  | .idle => f.credit != 0
  | _ => false

end Sys2Proof
end

