-- ==== Sys2Proof/Machine/Agent.lean ====
section
/-! DEFINITION. What the stage manager and the memory-side agent share: accesses to a context's memory (R406, R456), the
event ring and the interrupts (R445), and messages put on a link (R422, R424). -/

namespace Sys2Proof.Machine

/-! ## Links -/

/-- Whether a port carries flits (R428, R432). -/
def Port.carries (p : Port) : Bool :=
  match p.state with
  | .up | .timeLocked | .degraded => true
  | _ => false

/-- The port of a route (R424). -/
def State.route (s : State) (dst : Nat) : Option Nat := lookAt none s.routes dst
/-- The port to a package, where it carries flits. -/
def State.linkTo (s : State) (dst : Nat) : Option Nat := (s.route dst).filter (fun p => (s.port p).carries)

/-- The kind of flit that carries a message: a time stamp; management for what the stage managers, house kernels and agents agree on VC 0;
data otherwise (R420, R422).
DEDUCED, unsafe: log 57. -/
def msgKind (vc : Nat) (m : LinkMsg) : FlitKind :=
  match m with
  | .stamp1 _ | .stamp3 _ | .stamp4 _ _ => .stamp
  | _ => if vc = 0 then .manage else .data

/-- A flit as it is queued: its sequence number, acknowledgement, credits and CRC are set as it leaves.
DEDUCED, unsafe: log 57. -/
def mkFlit (vc src dst : Nat) (msg : Option LinkMsg) : Flit :=
  { vc := BitVec.ofNat 3 vc, seq := 0, ack := 0, ackv := false, kind := (msg.map (msgKind vc)).getD .idle, dst := BitVec.ofNat 11 dst,
    src := BitVec.ofNat 11 src, credit := 0, cvc := 0, last := true, msg := msg, payload := [], crc := 0, fec := true, fixed := 0 }

/-- The bytes that a message moves: a cue's payload, a half or a quarter of it in a wire format (R338), the bytes of a remote operation or its answer, of a collective step, of a
descriptor, of a packet.
DESIGN CHOICE, unsafe: log 82. -/
def LinkMsg.body : LinkMsg → Nat
  | .cue c _ => c.payload.length / (if c.wire = 0 then 1 else if c.wire = 1 then 2 else 4)
  | .remoteOp _ _ _ (.write bs) => bs.length
  | .remoteOp _ _ _ (.scatter runs) => (runs.map (fun r => r.2.length)).sum
  | .remoteAck _ (.data bs) => bs.length
  | .collData _ _ _ bs => bs.length
  | .loadTell _ d => (d.getD []).length
  | .push _ _ p _ _ _ _ _ => p.length
  | _ => 0

/-- The flits of a message, each with 240 bytes of payload: LAST is set on the last, which carries the message (R420, R423). -/
def messageFlits (f : Flit) : List Flit :=
  List.replicate (((f.msg.map LinkMsg.body).getD 0 + 239) / 240 - 1) { f with msg := none, last := false } ++ [f]

/-- A message queued on a port, its flits one after another on its VC (R423). -/
def State.queueFlit (s : State) (port : Nat) (f : Flit) : State :=
  s.modPort port (fun p => { p with queues := putAt [] p.queues f.vc.toNat (lookAt [] p.queues f.vc.toNat ++ messageFlits f) })

/-- A message sent to a package. Where no port carries it, or an earlier one to the package waits for that, it waits for a route.
DEDUCED, unsafe: log 58. -/
def State.sendTo (s : State) (vc dst : Nat) (m : LinkMsg) : State :=
  match if s.unsent.any (fun u => u.2.1 = dst) then none else s.linkTo dst with
  | some port => s.queueFlit port (mkFlit vc s.pkg dst (some m))
  | none => { s with unsent := s.unsent ++ [(vc, dst, m)] }

/-- A remote operation for an address that has just been translated, sent on VC 2, or VC 3 for a copy (R422), and noted until it is
answered (R410, R430, R431). -/
def State.sendRemote (s : State) (vc : Nat) (num : BitVec 32) (asid pkg : Nat) (va : Word) (pa : Nat) (op : RemOp) : State :=
  let out : OutOp := ⟨num, pkg, asid, va, s.leafOf asid va⟩
  { s with opsOut := s.opsOut ++ [out] }.sendTo vc pkg (.remoteOp num asid pa op)

/-- A message sent to every other package of a context. -/
def State.sendPeers (s : State) (asid : Nat) (m : LinkMsg) : State :=
  (s.ctx asid).peers.foldl (fun s p => s.sendTo 0 p m) s

/-! ## The event ring (R445) -/

/-- The MSI-X vector of a context's events. -/
def ctxVector (asid : Nat) : Nat := 16 + asid % 2032

/-- An event record written, or counted as lost where the ring is full, and the interrupt (R445).
DEDUCED, unsafe: log 39. -/
def State.event (s : State) (vector kind code asid q reason seq : Nat) : State :=
  let b := s.bar0
  let s :=
    if b.evsize.toNat ≤ (b.evwrite - b.evread).toNat then { s with bar0 := { b with evlost := b.evlost + 1 } }
    else
      let at' := b.evbase.toNat + 32 * (b.evwrite.toNat % b.evsize.toNat)
      let rec' := [BitVec.ofNat 8 kind, BitVec.ofNat 8 code] ++ leBytes 2 asid ++ leBytes 2 q ++ leBytes 2 reason ++
        leBytes 8 seq ++ leBytes 8 s.time.toNat ++ leBytes 8 0
      { s with hostMem := s.hostMem.write at' rec', bar0 := { b with evwrite := b.evwrite + 1 } }
  { s with msix := s.msix ++ [vector] }

/-- An event record of a context.
DEDUCED, unsafe: log 39. -/
def State.ctxEvent (s : State) (kind code asid q reason seq : Nat) : State := s.event (ctxVector asid) kind code asid q reason seq
/-- An event record of the package.
DEDUCED, unsafe: log 39. -/
def State.pkgEvent (s : State) (kind code seq : Nat) : State := s.event 1 kind code 0 0 0 seq

/-! ## Accesses to a context's memory -/

/-- What an access of the stage manager or the agent must wait for. -/
inductive Need where
  /-- the house kernel's answer -/
  | house (va : Word) (perm : Bool)
  /-- a remote operation -/
  | remote (va : Word) (pkg pa : Nat) (op : RemOp)
  /-- a walker, or its turn at a channel -/
  | turn
  deriving DecidableEq, Repr

/-- How an access, or a piece of work made of accesses, goes on.
DEDUCED, unsafe: log 37. -/
inductive Ag (α : Type) where
  | ok (a : α) (s : State)
  | wait (n : Need)
  | bad (code : FaultCode) (va : Word)

/-- One piece of work after another. -/
def Ag.bind {α β : Type} (r : Ag α) (f : α → State → Ag β) : Ag β :=
  match r with
  | .ok a s => f a s
  | .wait n => .wait n
  | .bad c va => .bad c va

/-- The recorded refusal of an access in a region. -/
def State.agentRefused (s : State) (asid : Nat) (va : Word) : Option FaultCode :=
  (((s.ctx asid).agentBad.find? (fun p => regionOf p.1 = regionOf va))).map Prod.snd

/-- Channels noted as serving the present piece of work of a context (R30). -/
def State.agentServed (s : State) (asid : Nat) (pas : List Nat) : State :=
  s.modCtx asid (fun c => { c with agentTurns :=
    ((pas.map channelOf).filter (fun ch => !c.agentTurns.contains ch)).eraseDups ++ c.agentTurns })

/-- One access within an 8 KiB region: `w` holds the bytes of a write.
DESIGN CHOICE, unsafe: log 70. -/
def State.agentOne (s : State) (asid : Nat) (va : Word) (n : Nat) (w : Option (List Byte)) : Ag (List Byte) :=
  if spaceOf va != .virt || !canonicalVa va then .bad .prot va
  else
    match s.agentRefused asid va with
    | some c => .bad c va
    | none =>
      if (s.ctx asid).agentHold.any (fun p => regionOf p.1 = regionOf va) then .wait (.house va false)
      else if !s.translateOpen none asid va w.isSome then .wait .turn
      else
        let reads := s.tableReads asid va w.isNone w.isSome
        match s.translate asid va w.isNone w.isSome with
        | (_, .fail perm _) => .wait (.house va perm)
        | (s', .ok (.remote pkg pa) _ _ _) =>
          let op := match w with
            | none => RemOp.read n
            | some bs => .write bs
          (match (s.ctx asid).agentOps.find? (fun e => e.1 = va && e.2.1 = op) with
           | some (_, _, num, some bs) =>
             .ok bs ((s'.agentServed asid reads).modCtx asid (fun c => { c with agentUsed := c.agentUsed ++ [num] }))
           | some (_, _, _, none) => .wait (.remote va pkg pa op)
           | none => if (s.linkTo pkg).isNone then .bad .link va else .wait (.remote va pkg pa op))
        | (s', .ok l _ _ _) =>
          if !s.placeOpen none l then .wait .turn
          else
            let served := reads ++ (match l with
              | .dram pa => [pa]
              | _ => [])
            (match w with
             | none => .ok (s'.readLoc l n) (s'.agentServed asid served)
             | some bs => .ok [] ((s'.writeLoc l bs).agentServed asid served))

/-- The bytes from an address to the end of its region, at most `n`. -/
def regionRest (va : Word) (n : Nat) : Nat := min n (8192 - bitsAt va 0 13)

/-- A read that may pass region bounds. -/
def State.agentReadFor : Nat → State → Nat → Word → Nat → Ag (List Byte)
  | 0, s, _, _, _ => .ok [] s
  | k + 1, s, asid, va, n =>
    if n = 0 then .ok [] s
    else
      let m := regionRest va n
      (s.agentOne asid va m none).bind (fun bs s =>
        (State.agentReadFor k s asid (va + BitVec.ofNat 64 m) (n - m)).bind (fun cs s => .ok (bs ++ cs) s))
/-- A read. -/
def State.agentRead (s : State) (asid : Nat) (va : Word) (n : Nat) : Ag (List Byte) :=
  State.agentReadFor (n / 8192 + 2) s asid va n

/-- A write that may pass region bounds. -/
def State.agentWriteFor : Nat → State → Nat → Word → List Byte → Ag Unit
  | 0, s, _, _, _ => .ok () s
  | k + 1, s, asid, va, bs =>
    if bs = [] then .ok () s
    else
      let m := regionRest va bs.length
      (s.agentOne asid va m (some (bs.take m))).bind (fun _ s =>
        State.agentWriteFor k s asid (va + BitVec.ofNat 64 m) (bs.drop m))
/-- A write. -/
def State.agentWrite (s : State) (asid : Nat) (va : Word) (bs : List Byte) : Ag Unit :=
  State.agentWriteFor (bs.length / 8192 + 2) s asid va bs

/-- A list of writes. -/
def State.agentWrites (s : State) (asid : Nat) : List (Word × List Byte) → Ag Unit
  | [] => .ok () s
  | (va, bs) :: ws => (s.agentWrite asid va bs).bind (fun _ s => s.agentWrites asid ws)

/-- What an access waits for recorded: a request to the house kernel, or a remote operation sent on a VC, A and D set before it
(R405). -/
def State.needsOn (s : State) (vc asid : Nat) (n : Need) : State :=
  match n with
  | .turn => s
  | .house va perm =>
    if (s.ctx asid).agentHold.any (fun p => regionOf p.1 = regionOf va) then s
    else s.modCtx asid (fun c => { c with agentHold := c.agentHold ++ [(va, perm)] })
  | .remote va pkg pa op =>
    if (s.ctx asid).agentOps.any (fun e => e.1 = va && e.2.1 = op) then s
    else
      let reads := match op with
        | .read _ => true
        | _ => false
      let s := (s.translateFor none asid va reads (!reads)).1
      let s := { s with opNum := s.opNum + 1 }
      (s.modCtx asid (fun c => { c with agentOps := c.agentOps ++ [(va, op, s.opNum, none)] })).sendRemote vc s.opNum asid pkg va pa op

/-- What an access waits for recorded; its remote operations go on VC 2 (R422). -/
def State.needs (s : State) (asid : Nat) (n : Need) : State := s.needsOn 2 asid n

/-- What remote operations brought is used up once the work that they were for is done, and its turns at the channels are taken
(R30). -/
def State.agentDone (s : State) (asid : Nat) : State :=
  let turns := (s.ctx asid).agentTurns
  (turns.foldl (fun (s : State) ch => s.setChannel ch { s.channel ch with last := rival none }) s).modCtx asid (fun c => { c with
    agentOps := c.agentOps.filter (fun e => !c.agentUsed.contains e.2.2.1), agentUsed := [], agentTurns := [] })

/-- A refusal that has been acted on is forgotten. -/
def State.agentForget (s : State) (asid : Nat) (va : Word) : State :=
  s.modCtx asid (fun c => { c with agentBad := c.agentBad.filter (fun p => regionOf p.1 != regionOf va) })

/-- A piece of work whose remote operations go on a VC ends: done, waiting with nothing changed but the request, or refused, and then
`fail` says what follows. -/
def State.agentEndOn {α : Type} (s : State) (vc asid : Nat) (r : Ag α) (done : α → State → State)
    (fail : FaultCode → State → State) : State :=
  match r with
  | .ok a s' => done a (s'.agentDone asid)
  | .wait n => s.needsOn vc asid n
  | .bad c va => fail c (s.agentForget asid va)

/-- A piece of work ends, its remote operations on VC 2 (R422). -/
def State.agentEnd {α : Type} (s : State) (asid : Nat) (r : Ag α) (done : α → State → State)
    (fail : FaultCode → State → State) : State := s.agentEndOn 2 asid r done fail

/-! ## Writes owed (R279, R445, R457) -/

/-- What is owed goes behind what is owed already. -/
def State.owe (s : State) (asid : Nat) (os : List Owed) : State := s.modCtx asid (fun c => { c with owed := c.owed ++ os })

/-- One thing owed. -/
def State.payOne (s : State) (asid : Nat) : Owed → Ag Unit
  | .write va bs => s.agentWrite asid va bs
  | .event kind code q reason seq => .ok () (s.ctxEvent kind code asid q reason seq)

/-- The first `n` things owed done in order, as far as none has to wait; a write that is refused is passed over (R456). -/
def State.payOwed : Nat → Nat → State → State
  | 0, _, s => s
  | n + 1, asid, s =>
    let paid := fun (s : State) => s.modCtx asid (fun c => { c with owed := c.owed.drop 1 })
    match (s.ctx asid).owed with
    | [] => s
    | o :: _ =>
      match s.payOne asid o with
      | .ok _ s' => State.payOwed n asid (paid (s'.agentDone asid))
      | .bad _ va => State.payOwed n asid (paid (s.agentForget asid va))
      | .wait w => s.needs asid w

/-- Writes owed, and made at once as far as they can be. -/
def State.oweNow (s : State) (asid : Nat) (os : List Owed) : State :=
  let s := s.owe asid os
  State.payOwed (s.ctx asid).owed.length asid s

/-- What a context owes is done as far as it can be. -/
def execOwedWrites (asid : Nat) (s : State) : Out := .next (State.payOwed (s.ctx asid).owed.length asid s)

/-! ## Queues in memory (R263, R268) -/

/-- The place of a queue's entry of the queue table. -/
def State.queueEntryVa (s : State) (asid q : Nat) : Word := (s.ctx asid).desc.qtable + BitVec.ofNat 64 (64 * q)
/-- The place of the packet at a position, and of its prompt book entry. -/
def Queue.ringVa (k : Queue) (w : Nat) : Word := k.ring + BitVec.ofNat 64 (128 * (w % k.nent))
def Queue.bookVa (k : Queue) (w : Nat) : Word := k.pbook + BitVec.ofNat 64 (32 * (w % k.nent))

/-- The code of an entry's state. -/
def entryStateCode : EntryState → Nat
  | .accepted => 0 | .dispatched => 1 | .complete => 2 | .discarded => 3

/-- Whether an entry has finished. -/
def QEntry.finished (e : QEntry) : Bool := e.state = .complete || e.state = .discarded
/-- The position of an entry. -/
def QEntry.pos (e : QEntry) : Nat := e.seq.toNat - 1
/-- A byte of a packet, and a little-endian field. -/
def QEntry.field (e : QEntry) (off n : Nat) : Nat := leNat ((e.packet.drop off).take n)
def QEntry.kind (e : QEntry) : Nat := e.field 0 1

/-- The 32 bytes of a prompt book entry (R268). -/
def QEntry.bytes (e : QEntry) (nent : Nat) (tend : Word) : List Byte :=
  leBytes 8 e.seq.toNat ++ leBytes 4 (128 * (e.pos % nent)) ++
  [BitVec.ofNat 8 (entryStateCode e.state), BitVec.ofNat 8 e.code, BitVec.ofNat 8 e.kind, 0] ++
  leBytes 8 e.tacc.toNat ++ leBytes 8 (if e.finished then tend.toNat else 0)

/-- The time that stands in an entry which is being written: that of the write on its way, or else now. `off` is its place in the
entry. -/
def State.stampAt (s : State) (asid : Nat) (va : Word) (head : List Byte) (off : Nat) : Word :=
  match (s.ctx asid).agentOps.findSome? (fun e => match e.2.1 with
    | .write bs => if e.1 = va && bs.take 16 = head then some bs else none
    | _ => none) with
  | some bs => BitVec.ofNat 64 (leNat ((bs.drop off).take 8))
  | none => s.time

/-- Whether a packet stayed in the ring without an entry (R278, R279). -/
def Queue.skips (k : Queue) (seq : Word) : Bool := k.skipped.any (fun r => decide (r.1 < seq.toNat ∧ seq.toNat ≤ r.2))

/-- Whether the entry of a sequence number has finished, as this package's stage manager knows it (R265, R284). -/
def Queue.finishedSeq (k : Queue) (seq : Word) : Bool :=
  seq = 0 || (decide (seq.toNat - 1 < k.read) && !k.skips seq) || k.entries.any (fun e => e.seq = seq && e.finished)

/-- The fault code of R316. -/
def codeOf : FaultCode → Nat
  | .illegal => 0x01 | .regrange => 0x02 | .hazard => 0x03 | .align => 0x04 | .pcalign => 0x05 | .pool => 0x06
  | .page => 0x07 | .prot => 0x08 | .stack => 0x09 | .trap => 0x0A | .brk => 0x0B | .budget => 0x0C | .level => 0x0D
  | .late => 0x10 | .latesend => 0x11 | .clock => 0x12 | .microstep => 0x13
  | .chainBusy => 0x18 | .chainTimeout => 0x19 | .chainBroken => 0x1A | .chainDup => 0x1B | .chainAbsent => 0x1C
  | .barOverrun => 0x20 | .barTimeout => 0x21 | .barQueued => 0x22
  | .link => 0x28 | .remote => 0x29 | .ecc => 0x30

end Sys2Proof.Machine
end

