-- ==== Sys2Proof/Machine/ContextIsa.lean ====
section
/-! DEFINITION. A pause request (R251, R252) and CTX (R260 to R262). -/

namespace Sys2Proof.Machine

/-- The pause time that a package proposes: L + max(1, ⌈PAUSEALLOW / 2^TK⌉) (R252). -/
def State.proposal (s : State) (asid : Nat) : Nat :=
  let d := (s.ctx asid).desc
  let allow := if d.pauseAllow = 0 then 10000 else d.pauseAllow
  s.logical asid + max 1 ((allow + 2 ^ d.tk - 1) / 2 ^ d.tk)

/-- The pause time with which a package replies to a proposal (R252). -/
def State.ownReply (s : State) (asid tp : Nat) : Nat := max tp (s.logical asid + 1)

/-- A pause that has been requested here. -/
def newPause (tp : Nat) (waits : List Nat) (reason : Nat) (regions : Bool) (entry : Option (Nat × Word)) : Pause :=
  { tp := BitVec.ofNat 64 tp, waits := waits, agreed := waits.isEmpty, stopped := false, reason := reason, regions := regions,
    byEntry := entry, resumeHeld := none, saveWaits := waits, saveTold := false, placed := false, resliced := false, pr := none, prWaits := [],
    byProposer := true }

/-- A pause request at a resident context; in any other state nothing begins (R251). -/
def State.pauseRequest (s : State) (asid reason : Nat) (regions : Bool) (entry : Option (Nat × Word)) : State :=
  let c := s.ctx asid
  if c.state = .resident then
    let tp := s.ownReply asid (s.proposal asid)
    (s.setCtx asid { c with state := .pausing, pause := some (newPause tp c.peers reason regions entry) }).sendPeers asid
      (.pausePropose asid (BitVec.ofNat 64 tp) reason regions entry)
  else s

/-- REASON of YIELD (R260). -/
def yieldReason (o : Ops) : Nat := o.fld 22 16

/-- YIELD: the thread stops after it, until the resume (R261). -/
def execCtxYield (o : Ops) (s : State) : Out :=
  issue 0x21 0x01 o [] true s (fun s =>
    (s.pauseRequest s.cur.launch.asid (yieldReason o) false none).finish.await .parked .yield)

/-- The item of CTX.INFO (R262). -/
def State.ctxItem (s : State) (asid sel : Nat) : Word :=
  let c := s.ctx asid
  match sel with
  | 0 => BitVec.ofNat 64 asid
  | 1 => BitVec.ofNat 64 c.desc.tk
  | 2 => BitVec.ofNat 64 (s.logical asid)
  | 3 => c.delta
  | 4 => BitVec.ofNat 64 c.epoch
  | 5 => BitVec.ofNat 64 (c.desc.flags % 4)
  | 6 => BitVec.ofNat 64 (c.desc.mxown + c.desc.drown * 2 ^ 16 + c.desc.vcmask % 16 * 2 ^ 32)
  | _ => BitVec.ofNat 64 (c.peers.length + 1)

/-- Reads an item of the context. (R262) -/
def execCtxInfo (o : Ops) (s : State) : Out :=
  issue 0x21 0x02 o [] false s (fun s =>
    (s.modCur (fun t => t.wx o.d (s.ctxItem t.launch.asid (o.fld 22 4)))).finish)

end Sys2Proof.Machine
end

