-- ==== Sys2Proof/Machine/Book.lean ====
section
/-! DEFINITION. The prompt book: how entries finish and READ moves (R265, R268 to R270, R445). -/

namespace Sys2Proof.Machine

/-- The entry with a sequence number. -/
def Queue.entry (k : Queue) (seq : Word) : Option QEntry := k.entries.find? (fun e => e.seq = seq)
/-- The queue with an entry replaced. -/
def Queue.setEntry (k : Queue) (e : QEntry) : Queue :=
  { k with entries := k.entries.map (fun f => if f.seq = e.seq then e else f) }
/-- The state with an entry changed, its prompt book untouched. -/
def State.modEntry (s : State) (asid q : Nat) (seq : Word) (f : QEntry → QEntry) : State :=
  s.modQueue asid q (fun k => { k with entries := k.entries.map (fun e => if e.seq = seq then f e else e) })

/-- The entries that READ counts, and those dispatched before the queue was disabled and not finished (R278). -/
def Queue.counted (k : Queue) : List QEntry := k.entries.filter (fun e => !e.stale)
def Queue.leftOver (k : Queue) : List QEntry := k.entries.filter (fun e => e.stale && !e.finished)

/-- READ past every finished entry at the front (R265). -/
def Queue.advance (k : Queue) : Queue :=
  let done := k.counted.takeWhile QEntry.finished
  { k with read := k.read + done.length, entries := k.leftOver ++ k.counted.dropWhile QEntry.finished,
           lost := k.lost ++ (done.filter (fun e => e.state = .discarded)).map (fun e => e.seq) }

/-- Whether packet flag NOTIFY is set (R266). -/
def QEntry.notify (e : QEntry) : Bool := (e.field 1 1).testBit 2

/-- The event record of a finished entry (R270, R445). -/
def State.entryEvent (s : State) (asid q : Nat) (e : QEntry) : State :=
  if e.state = .complete && e.notify then s.ctxEvent 1 e.code asid q 0 e.seq.toNat
  else if e.state = .discarded && (s.queue asid q).notify then s.ctxEvent 2 e.code asid q 0 e.seq.toNat
  else s

/-- The writes of an entry and of READ to memory. -/
def State.bookWrites (s : State) (asid q : Nat) (k : Queue) (e : QEntry) : List (Word × List Byte) :=
  (e.book, e.bytes k.nent (s.stampAt asid e.book ((e.bytes k.nent 0).take 16) 24)) :: (if e.stale then [] else [(s.queueEntryVa asid q + 24, leBytes 8 k.advance.read)])

/-- The other packages are told of an entry that is discarded. -/
def State.tellLost (s : State) (asid q : Nat) (e : QEntry) : State :=
  if e.state = .discarded then s.sendPeers asid (.entryLost asid q e.seq) else s

/-- An entry in a new state, in the records and in memory (R268, R269). -/
def State.putEntry (s : State) (asid q : Nat) (e : QEntry) : Ag Unit :=
  let k := (s.queue asid q).setEntry e
  if e.finished then
    (s.agentWrites asid (s.bookWrites asid q k e)).bind (fun _ s =>
      .ok () (((s.setQueue asid q k.advance).entryEvent asid q e).tellLost asid q e))
  else (s.agentWrite asid e.book (e.bytes k.nent s.time)).bind (fun _ s => .ok () (s.setQueue asid q k))

/-- An entry ends: complete, or discarded with a code. -/
def State.endEntry (s : State) (asid q : Nat) (seq : Word) (st : EntryState) (code : Nat) : Ag Unit :=
  match (s.queue asid q).entry seq with
  | none => .ok () s
  | some e => s.putEntry asid q { e with state := st, code := code, ended := true }

/-- An entry marked discarded: its prompt book entry, and the record where the queue notifies, are owed (R279, R456). -/
def State.markEntry (s : State) (asid q : Nat) (e : QEntry) (code : Nat) : State :=
  let e := { e with state := EntryState.discarded, code := code, ended := true }
  let k := (s.queue asid q).setEntry e
  ((s.setQueue asid q k).tellLost asid q e).owe asid (.write e.book (e.bytes k.nent s.time) ::
    (if k.notify then [.event 2 code q 0 e.seq.toNat] else []))

/-- The queues of a context on this package. -/
def State.queuesOf (s : State) (asid : Nat) : List Nat :=
  (s.queues.filter (fun p => p.1 / 256 = asid)).map (fun p => p.1 % 256)

/-- Every unfinished entry of a queue marked under a root fault, in ascending SEQ, then READ set past them (R279): the entry
`by'` with the fault's own code, every other with 0x51. -/
def State.markQueue (s : State) (asid q : Nat) (by' : Option (Nat × Word)) (code : Nat) : State :=
  let live := (s.queue asid q).entries.filter (fun e => !e.finished)
  let s := live.foldl (fun (s : State) e => s.markEntry asid q e (if by' = some (q, e.seq) then code else 0x51)) s
  let s := s.modQueue asid q Queue.advance
  if live = [] then s else s.owe asid [.write (s.queueEntryVa asid q + 24) (leBytes 8 (s.queue asid q).read)]

end Sys2Proof.Machine
end

