-- ==== Sys2Proof/Machine/Prompter.lean ====
section
/-! DEFINITION. The cues of a thread, their order and safety (R320 to R330), the cue store (R332), and what a post needs. -/

namespace Sys2Proof.Machine

/-! ## Order (R322, R324, R325) -/

/-- Lexical comparison of lists of numbers. -/
def lexLt : List Nat → List Nat → Bool
  | _, [] => false
  | [], _ :: _ => true
  | a :: as, b :: bs => decide (a < b) || (a = b && lexLt as bs)

/-- A tag as a list to compare (R322). -/
def tagKey (t : Word) (m : BitVec 16) : List Nat := [t.toNat, m.toNat]

/-- The release order of a cue (R322, R325, R326): the launch cue, then one delivered late under IGNORE, then by tag,
sender and sequence number. -/
def Cue.key (c : Cue) : List Nat :=
  [if c.msg.isLaunch then 0 else if c.first then 1 else 2] ++ tagKey c.msg.tagT c.msg.tagM ++
    [c.msg.src.toNat, c.msg.seq.toNat]

/-- The thread whose prompter holds a cue, and whether it has been released. -/
def Cue.holder (c : Cue) : Option Nat :=
  match c.place with
  | .reserved t | .stored t | .spilled t | .fetched t | .released t => some t
  | _ => none

def Cue.isReleased (c : Cue) : Bool :=
  match c.place with
  | .released _ => true
  | _ => false

def Cue.isReserved (c : Cue) : Bool :=
  match c.place with
  | .reserved _ => true
  | _ => false

/-- Whether a cue lies spilled in the overflow area, fetched or not. -/
def Cue.isSpilled (c : Cue) : Bool :=
  match c.place with
  | .spilled _ | .fetched _ => true
  | _ => false

/-- Whether a cue takes an entry of the cue store: stored, reserved, or released from there (R332). -/
def Cue.inStore (c : Cue) : Bool :=
  match c.place with
  | .reserved _ | .stored _ => true
  | .released _ => c.cell.isNone
  | _ => false

/-- The cues that a thread's prompter considers (R324). -/
def State.waitingCues (s : State) (tid : Nat) : List Cue := s.cues.filter (fun c => c.holder = some tid && !c.isReleased)

/-- The first of a list of cues in release order. -/
def firstOf : List Cue → Option Cue
  | [] => none
  | c :: cs =>
    match firstOf cs with
    | none => some c
    | some d => if lexLt d.key c.key then some d else some c

/-- The first cue of a thread in release order (R324). -/
def State.firstCue (s : State) (tid : Nat) : Option Cue := firstOf (s.waitingCues tid)

/-- Whether a cue is safe for a thread (R323). -/
def State.safe (s : State) (tid : Nat) (c : Cue) : Bool :=
  let at' := c.msg.tagT.toNat + s.horizon tid
  c.msg.late || c.msg.retag || (decide (at' < 2 ^ 64) && decide (at' ≤ s.logical (s.thread tid).launch.asid))

/-- Whether a context still releases cues on this package (R252). -/
def State.releases (s : State) (asid : Nat) : Bool :=
  let c := s.ctx asid
  match c.state with
  | .resident => true
  | .pausing =>
    match c.pause with
    | some p => !p.stopped && !(p.agreed && decide (p.tp.toNat ≤ s.logical asid))
    | none => true
  | _ => false

/-- The cue that may be released for a thread now: its first, safe, not waiting for a copy or for its fetch (R324). -/
def State.releasable (s : State) (tid : Nat) : Option Cue :=
  match s.firstCue tid with
  | none => none
  | some c =>
    if s.safe tid c && s.releases (s.thread tid).launch.asid && (match c.place with
      | .stored _ | .fetched _ => true
      | _ => false) then some c else none

/-- The state with a cue changed, and without one. -/
def State.modCue (s : State) (id : Nat) (f : Cue → Cue) : State :=
  { s with cues := s.cues.map (fun c => if c.id = id then f c else c) }
def State.dropCue (s : State) (id : Nat) : State := { s with cues := s.cues.filter (fun c => c.id ≠ id) }

/-- A write to the overflow area that the agent is to make (R336). -/
def State.ovfJob (s : State) (j : OvfJob) (l : LaunchId) : State :=
  s.modCtx l.asid (fun c => { c with ovfTodo := c.ovfTodo ++ [(j, l)] })

/-- A cell of the overflow area that no longer holds what it should: it is written again, or freed (R336). -/
def State.staleCell (s : State) (cell : Option Nat) (l : LaunchId) : State :=
  s.ovfJob ((cell.map OvfJob.cell).getD .head) l

/-- A cue given up, with what it holds of the overflow area: its cell is freed, and the head written again (R336). -/
def State.releaseArea (s : State) (c : Cue) : State :=
  if c.cell.isSome || c.block.isSome then s.staleCell c.cell c.msg.launch else s

/-- The cell of a cue whose descriptor has changed written again (R336, R348). -/
def State.rewriteCell (s : State) (c : Cue) : State :=
  if c.cell.isSome then s.staleCell c.cell c.msg.launch else s

/-- Cues dropped, and what they held of the overflow area freed. -/
def State.dropCuesBy (s : State) (p : Cue → Bool) : State :=
  (s.cues.filter p).foldl State.releaseArea { s with cues := s.cues.filter (fun c => !p c) }
def State.findCue (s : State) (id : Nat) : Option Cue := s.cues.find? (fun c => c.id = id)

/-! ## The cue store (R332) -/

/-- The placed threads of a core. -/
def State.placedOn (s : State) (core : Nat) : List Nat :=
  (slotsOf core).filter (fun t => (s.thread t).status != .vacant && !(s.thread t).gone)

/-- The free shared entries of a core. -/
def State.sharedFree (s : State) (core : Nat) : Nat :=
  256 - 8 * (s.placedOn core).length -
    s.cues.countP (fun c => c.shared && c.inStore && match c.holder with
      | some t => coreOf t = core
      | none => false)

/-- An entry for a thread: some false a reserved one, some true a shared one, none when all are taken. -/
def State.freeEntry (s : State) (tid : Nat) : Option Bool :=
  if s.cues.countP (fun c => c.inStore && !c.shared && c.holder = some tid) < 8 then some false
  else if 0 < s.sharedFree (coreOf tid) then some true
  else none

/-! ## Tags of posts (R327) -/

/-- TAGOF(d); none where it raises MICROSTEP. -/
def tagOf (t : Thread) (d : Word) : Option (Word × BitVec 16) :=
  if d = 0 then (if t.baseOver then none else some (t.baseT, t.baseM))
  else if 2 ^ 64 ≤ t.baseT.toNat + d.toNat then none
  else some (t.baseT + d, 0)

/-- The handler-table entry of a port of a thread's kernel (R108, R337). -/
def State.handlerOf (s : State) (tid port : Nat) : Option Handler :=
  (s.imageOf tid).bind (fun i => i.handlers.find? (fun h => h.port = port))

/-- The wire type of a WIRE code (R190, R320). -/
def wireTy (w : Nat) : Option Ty :=
  match w with
  | 1 => some .bf16
  | 2 => some .e4m3
  | 3 => some .e5m2
  | _ => none

/-- One FP32 value through a wire type and back (R190, R338). -/
def throughWire (ty : Ty) (mode : Nat) (sat : Bool) (bits : Nat) : Nat :=
  (rneF32 (decodeF ty (roundF ty mode sat true 0 (decodeF .f32 bits)).1)).1

/-- FP32 bytes through a wire format, four at a time. -/
def wireBytes (wire mode : Nat) (sat : Bool) (bs : List Byte) : List Byte :=
  match wireTy wire with
  | none => bs
  | some ty => (List.range (bs.length / 4)).flatMap (fun i =>
      leBytes 4 (throughWire ty mode sat (leNat ((bs.drop (4 * i)).take 4))))

/-- A cue put on its way. -/
def State.post (s : State) (msg : CueMsg) (after : List Nat) : State :=
  { s with cues := s.cues ++ [{ id := s.nextId, msg := msg, place := .inFlight, after := after, cell := none, block := none,
                                first := false, shared := false, sender := none }],
           nextId := s.nextId + 1 }

/-- The post counter advanced (R331). -/
def Thread.countPost (t : Thread) : Thread := { t with postCtr := t.postCtr + 1 }

end Sys2Proof.Machine
end

