-- ==== Sys2Proof/Machine/CueIsa.lean ====
section
/-! DEFINITION. The CUE instructions (R339 to R344). -/

namespace Sys2Proof.Machine

/-- PORT, LEN, WIRE and NG (R339). -/
def cuePort (o : Ops) : Nat := o.fld 22 8
def cueLen (o : Ops) : Nat := o.fld 30 7
def cueWire (o : Ops) : Nat := o.fld 30 2
def cueNg (o : Ops) : Nat := o.fld 32 8

/-- Which of the four posting functions an instruction is. -/
inductive PostKind where
  | post | postb | self | timer
  deriving DecidableEq, Repr

/-- Whether a port accepts a cue of this kind and length (R337). -/
def portOk (h : Option Handler) (k : PostKind) (n : Nat) : Bool :=
  match h with
  | none => false
  | some h => k != .postb || (h.recvSize != 0 && decide (n ≤ h.recvSize))

/-- The tag of a post (R340); none where TAGOF raises MICROSTEP. -/
def postTag (k : PostKind) (t : Thread) (o : Ops) : Option (Word × BitVec 16) :=
  match k with
  | .timer => if t.tagT.toNat < (t.xr o.a).toNat then some (t.xr o.a, 0) else tagOf t 0
  | _ => tagOf t (t.xr o.c)

/-- The cue that a post sends. -/
def postMsg (k : PostKind) (t : Thread) (o : Ops) (target : Nat) (tag : Word × BitVec 16) (n : Nat) (payload : List Byte) :
    CueMsg :=
  { launch := t.launch, target := target, tagT := tag.1, tagM := tag.2, port := BitVec.ofNat 8 (cuePort o), late := false,
    retag := false, wire := if k = .postb then BitVec.ofNat 2 (cueWire o) else 0, block := k = .postb,
    src := BitVec.ofNat 32 t.gidx, seq := t.postCtr, len := n,
    payload := if k = .postb then wireBytes (cueWire o) (t.mode o.rnd false) o.sat payload else payload,
    kind := if k = .timer then 2 else 0, isLaunch := false }

/-- POST, POSTB, SELF and TIMER (R340). The payload is read as the instruction issues, so an unperformed earlier write to
it holds the issue back. -/
def postOp (fn : Nat) (k : PostKind) (o : Ops) (s : State) : Out :=
  issue 0x1C fn o [] false s (fun s =>
    let t := s.cur
    let target := match k with
      | .post | .postb => (t.xr o.a).toNat
      | _ => t.gidx
    let n := if k = .postb then 16 * (cueNg o + 1) else cueLen o
    let b := t.xr o.b
    if n != 0 && k = .postb && b.toNat % 16 != 0 then s.raise .align 0 b
    else if n != 0 && (spaceOf b != .own || (checkAddr s.myPart b n).isSome) then s.raise .pool 0 b
    else if threadCount s.tree ≤ target then s.raise .prot 0 (BitVec.ofNat 64 target)
    else if !portOk (s.handlerOf s.me (cuePort o)) k n then s.raise .illegal 10 0
    else
      match postTag k t o with
      | none => s.raise .microstep 0 0
      | some tag =>
        let at' := s.placedTid t.launch target
        if at'.isNone && decide (tag.1.toNat < s.logical t.launch.asid) then s.raise .latesend 0 tag.1
        else if n != 0 && !s.ownReadReady s.me (poolOff b) n then s
        else
          let payload := s.poolRead (coreOf s.me) (poolOff b) n
          let s := if n = 0 then s else s.ownServed s.me (poolOff b) n
          ((s.post (postMsg k t o target tag n payload) (s.mustFollow s.me .post)).modCur Thread.countPost).finish)

/-- Posts a cue with window payload to a thread of the launch. (R340) -/
def execCuePost (o : Ops) (s : State) : Out := postOp 0x01 .post o s

/-- Posts a cue carrying a block payload, optionally in a wire format. (R340) -/
def execCuePostb (o : Ops) (s : State) : Out := postOp 0x02 .postb o s

/-- Posts a cue to the thread itself. (R340) -/
def execCueSelf (o : Ops) (s : State) : Out := postOp 0x03 .self o s

/-- Posts a cue to the thread itself at an absolute tag time. (R340) -/
def execCueTimer (o : Ops) (s : State) : Out := postOp 0x04 .timer o s

/-- A thread whose handler has ended; the base tag and the budget are gone (R315, R342). -/
def Thread.endHandler (t : Thread) : Thread :=
  { t with status := .asleep, inHandler := false, budget := none, baseT := 0, baseM := 0, baseOver := false }

/-- END: the first cue is released at once if it may be, else the thread sleeps (R342, R345). The PC stays where the
handler ended (R312).
DEDUCED, unsafe: log 35. -/
def execCueEnd (o : Ops) (s : State) : Out :=
  issue 0x1C 0x05 o [] true s (fun s =>
    let s := (s.finishAt s.cur.pc).modCur Thread.endHandler
    match s.releasable s.me with
    | some c => if s.cur.reports != [] then s else s.modCue c.id (fun c => { c with place := .released s.me })
    | none => s)

/-- NOW: the logical clock, in ticks or ns; a variable-latency result (R344).
DEDUCED, safe: log 17. -/
def execCueNow (o : Ops) (s : State) : Out :=
  issue 0x1C 0x06 o [] false s (fun s =>
    let asid := s.cur.launch.asid
    (s.enterWord o.d (if o.fld 22 1 = 1 then s.time - (s.ctx asid).delta else BitVec.ofNat 64 (s.logical asid))).finish)

/-- TAG replaces the base tag (R341). -/
def execCueTag (o : Ops) (s : State) : Out :=
  issue 0x1C 0x07 o [] false s (fun s =>
    let t := s.cur
    let a := t.xr o.a
    let b := t.xr o.b
    if 0xFFFF < b.toNat then s.raise .microstep 0 0
    else if !lexLt (tagKey t.tagT t.tagM) [a.toNat, b.toNat] then s.raise .latesend 0 a
    else (s.modCur (fun t => { t with baseT := a, baseM := b.setWidth 16, baseOver := false })).finish)

/-- The items of CUE.INFO that the prompter keeps of a thread, as they stand now (R343). -/
def State.cueItems (s : State) (tid : Nat) : SMap Word :=
  let mine := s.cues.filter (fun c => c.holder = some tid)
  let first := s.firstCue tid
  let item := fun (n : Nat) (w : Word) (m : SMap Word) => putAt 0 m n w
  item 0 (BitVec.ofNat 64 (mine.countP Cue.inStore)) <| item 1 (BitVec.ofNat 64 (mine.countP Cue.isSpilled)) <|
    item 2 (BitVec.ofNat 64 (s.sharedFree (coreOf tid))) <| item 3 ((first.map (fun c => c.msg.tagT)).getD (-1)) <|
    item 4 ((first.map (fun c => BitVec.ofNat 64 (c.msg.tagM.toNat + (if s.safe tid c then 2 ^ 16 else 0) +
        (if c.isSpilled then 2 ^ 17 else 0)))).getD 0) []

/-- The item of CUE.INFO: those of the prompter as they stood at the end of the previous cycle (R343). -/
def State.cueItem (s : State) (sel : Nat) : Word :=
  let t := s.cur
  match sel with
  | 0 | 1 | 2 | 3 | 4 => lookAt 0 t.seen sel
  | 5 => t.postCtr.setWidth 64
  | 6 => t.baseT
  | _ => BitVec.ofNat 64 (t.baseM.toNat + (if t.baseOver then 2 ^ 16 else 0))

/-- Reads an item of the thread's cue state. (R343) -/
def execCueInfo (o : Ops) (s : State) : Out :=
  issue 0x1C 0x08 o [] false s (fun s => (s.modCur (fun t => t.wx o.d (s.cueItem (o.fld 22 4)))).finish)

/-- HZN: the logical time at which a tag time becomes safe (R344). -/
def execCueHzn (o : Ops) (s : State) : Out :=
  issue 0x1C 0x09 o [] false s (fun s => (s.modCur (fun t =>
    t.wx o.d (BitVec.ofNat 64 (min ((t.xr o.a).toNat + s.horizon s.me) (2 ^ 64 - 1))))).finish)

end Sys2Proof.Machine
end

