-- ==== Sys2Proof/Machine/Scalar.lean ====
section
/-! DEFINITION. The scalar classes INT, INTI, CMP, PRD and FLT (R114 to R126). -/

namespace Sys2Proof.Machine

/-! ## INT (R117, R118) -/

/-- An INT function of two typed operands: `f` gets the width and the operand values. -/
def intBin (fn : Nat) (f : Nat → Int → Int → Int) (o : Ops) (s : State) : Out :=
  issueReg 0x01 fn o s (fun t => t.wx o.d (wrv (f o.ty.width (opv (t.xr o.a) o.ty) (opv (t.xr o.b) o.ty)) o.ty))

/-- An INT function of one typed operand. -/
def intUn (fn : Nat) (f : Nat → Int → Int) (o : Ops) (s : State) : Out :=
  issueReg 0x01 fn o s (fun t => t.wx o.d (wrv (f o.ty.width (opv (t.xr o.a) o.ty)) o.ty))

/-- A bitwise function on the low `n` bits. -/
def bitsOf (f : Nat → Nat → Nat) (n : Nat) (a b : Int) : Int := (f (wrapN n a) (wrapN n b) : Nat)

/-- a AND NOT b on `n` bits. -/
def andNot (n a b : Nat) : Nat := a &&& (2 ^ n - 1 - b)

/-- DIV of R117 and R118. -/
def divInt (a b : Int) : Int := if b = 0 then -1 else a.tdiv b
/-- REM of R117 and R118. -/
def remInt (a b : Int) : Int := if b = 0 then a else a.tmod b

/-- The shift amount: the low log2 n bits of B (R118). -/
def shiftAmount (n : Nat) (b : Int) : Nat := wrapN n b % n

/-- The `n` bits of a rotated left by `k` below n. -/
def rotateLeft (n : Nat) (a : Int) (k : Nat) : Int :=
  let m := wrapN n a
  ((m * 2 ^ k % 2 ^ n + m / 2 ^ (n - k) : Nat) : Int)

/-- Leading zero bits of an n-bit number. -/
def countLeading (n : Nat) (a : Int) : Int := let m := wrapN n a; if m = 0 then (n : Int) else (n - 1 - Nat.log2 m : Nat)

/-- Trailing zero bits among the low `n` bits. -/
def trailingFrom : Nat → Nat → Nat
  | 0, _ => 0
  | n + 1, m => if m % 2 = 1 then 0 else trailingFrom n (m / 2) + 1

/-- One bits among the low `n` bits. -/
def onesFrom : Nat → Nat → Nat
  | 0, _ => 0
  | n + 1, m => m % 2 + onesFrom n (m / 2)

/-- Adds the typed values of A and B and writes the wrapped result to D. (R117) -/
def execIntAdd (o : Ops) (s : State) : Out := intBin 0x01 (fun _ a b => a + b) o s

/-- Subtracts B from A and writes the wrapped result to D. (R117) -/
def execIntSub (o : Ops) (s : State) : Out := intBin 0x02 (fun _ a b => a - b) o s

/-- Multiplies A by B and writes the low bits of the product to D. (R117) -/
def execIntMul (o : Ops) (s : State) : Out := intBin 0x03 (fun _ a b => a * b) o s

/-- Writes the high half of the exact 2n-bit product of A and B to D. (R117) -/
def execIntMulh (o : Ops) (s : State) : Out := intBin 0x04 (fun n a b => a * b / (2 ^ n : Nat)) o s

/-- Divides A by B, truncating towards zero, with the fixed results of R118 for zero and overflow. (R117) -/
def execIntDiv (o : Ops) (s : State) : Out := intBin 0x05 (fun _ a b => divInt a b) o s

/-- Writes the remainder of A divided by B, which takes the sign of A. (R117) -/
def execIntRem (o : Ops) (s : State) : Out := intBin 0x06 (fun _ a b => remInt a b) o s

/-- Writes the lesser of A and B, signed or unsigned by type. (R117) -/
def execIntMin (o : Ops) (s : State) : Out := intBin 0x07 (fun _ a b => min a b) o s

/-- Writes the greater of A and B, signed or unsigned by type. (R117) -/
def execIntMax (o : Ops) (s : State) : Out := intBin 0x08 (fun _ a b => max a b) o s

/-- Writes the absolute value of a signed A to D. (R117) -/
def execIntAbs (o : Ops) (s : State) : Out := intUn 0x09 (fun _ a => a.natAbs) o s

/-- Writes the bitwise AND of A and B. (R117) -/
def execIntAnd (o : Ops) (s : State) : Out := intBin 0x0A (bitsOf (· &&& ·)) o s

/-- Writes the bitwise OR of A and B. (R117) -/
def execIntOr (o : Ops) (s : State) : Out := intBin 0x0B (bitsOf (· ||| ·)) o s

/-- Writes the bitwise XOR of A and B. (R117) -/
def execIntXor (o : Ops) (s : State) : Out := intBin 0x0C (bitsOf (· ^^^ ·)) o s

/-- Writes A AND NOT B. (R117) -/
def execIntAndn (o : Ops) (s : State) : Out := intBin 0x0D (fun n a b => bitsOf (andNot n) n a b) o s

/-- Shifts A left by the low log2 n bits of B. (R117) -/
def execIntShl (o : Ops) (s : State) : Out := intBin 0x0E (fun n a b => a * (2 ^ shiftAmount n b : Nat)) o s

/-- Shifts A right, arithmetically for signed and logically for unsigned types. (R117) -/
def execIntShr (o : Ops) (s : State) : Out := intBin 0x0F (fun n a b => a / (2 ^ shiftAmount n b : Nat)) o s

/-- Rotates the n bits of A left by the low bits of B. (R117) -/
def execIntRot (o : Ops) (s : State) : Out := intBin 0x10 (fun n a b => rotateLeft n a (shiftAmount n b)) o s

/-- Counts the leading zero bits of the typed value of A. (R117) -/
def execIntClz (o : Ops) (s : State) : Out := intUn 0x11 countLeading o s

/-- Counts the trailing zero bits of the typed value of A. (R117) -/
def execIntCtz (o : Ops) (s : State) : Out := intUn 0x12 (fun n a => trailingFrom n (wrapN n a)) o s

/-- Counts the one bits of the typed value of A. (R117) -/
def execIntPopc (o : Ops) (s : State) : Out := intUn 0x13 (fun n a => onesFrom n (wrapN n a)) o s

/-- Writes the typed value of A to D. (R117) -/
def execIntMov (o : Ops) (s : State) : Out := intUn 0x14 (fun _ a => a) o s
/-- SEL takes A when predicate C is true (R117). -/
def execIntSel (o : Ops) (s : State) : Out :=
  issueReg 0x01 0x15 o s (fun t => t.wx o.d (wrv (if t.pr o.c then opv (t.xr o.a) o.ty else opv (t.xr o.b) o.ty) o.ty))

/-! ## INTI (R121, R122) -/

/-- An INTI function: `f` gets the width, the operand value and the immediate. -/
def intiBin (fn : Nat) (f : Nat → Int → Int → Int) (o : Ops) (s : State) : Out :=
  issueReg 0x02 fn o s (fun t => t.wx o.d (wrv (f o.ty.width (opv (t.xr o.a) o.ty) (opv o.imm o.ty)) o.ty))

/-- Adds a signed immediate to A. (R122) -/
def execIntiAddi (o : Ops) (s : State) : Out := intiBin 0x01 (fun _ a i => a + i) o s

/-- Multiplies A by a signed immediate. (R122) -/
def execIntiMuli (o : Ops) (s : State) : Out := intiBin 0x02 (fun _ a i => a * i) o s

/-- ANDs A with an immediate. (R122) -/
def execIntiAndi (o : Ops) (s : State) : Out := intiBin 0x03 (bitsOf (· &&& ·)) o s

/-- ORs A with an immediate. (R122) -/
def execIntiOri (o : Ops) (s : State) : Out := intiBin 0x04 (bitsOf (· ||| ·)) o s

/-- XORs A with an immediate. (R122) -/
def execIntiXori (o : Ops) (s : State) : Out := intiBin 0x05 (bitsOf (· ^^^ ·)) o s
/-- Shift and rotate amounts are the immediate itself, 0 to n − 1 (R122). -/
def execIntiShli (o : Ops) (s : State) : Out := intiBin 0x06 (fun _ a _ => a * (2 ^ o.imm.toNat : Nat)) o s

/-- Shifts A right by an immediate amount, arithmetic or logical by type. (R122) -/
def execIntiShri (o : Ops) (s : State) : Out := intiBin 0x07 (fun _ a _ => a / (2 ^ o.imm.toNat : Nat)) o s

/-- Rotates A left by an immediate amount. (R122) -/
def execIntiRoti (o : Ops) (s : State) : Out := intiBin 0x08 (fun n a _ => rotateLeft n a o.imm.toNat) o s

/-- Writes the typed immediate to D. (R122) -/
def execIntiMovi (o : Ops) (s : State) : Out := intiBin 0x09 (fun _ _ i => i) o s
/-- MOVHI joins imm[23:0] above A[39:0] (R122). -/
def execIntiMovhi (o : Ops) (s : State) : Out :=
  issueReg 0x02 0x0A o s (fun t => t.wx o.d (o.imm.extractLsb' 0 24 ++ (t.xr o.a).extractLsb' 0 40))
/-- LEA gives PC + 12 × imm, unchecked (R122). -/
def execIntiLea (o : Ops) (s : State) : Out := issueReg 0x02 0x0B o s (fun t => t.wx o.d (t.pc + 12 * o.imm))

/-! ## CMP (R119) -/

/-- A comparison of integers by its function number. -/
def compareInt (fn : Nat) (a b : Int) : Bool :=
  match fn with
  | 1 => a = b
  | 2 => a ≠ b
  | 3 => a < b
  | 4 => a ≤ b
  | 5 => b < a
  | 6 => b ≤ a
  | _ => false

/-- A CMP function writes predicate D: typed integers, or FP32 under R53. -/
def cmpOp (fn : Nat) (o : Ops) (s : State) : Out :=
  issueReg 0x03 fn o s (fun t => t.wp o.d
    (if o.ty = .f32 then FVal.compare fn (opF (t.xr o.a)) (opF (t.xr o.b))
     else compareInt fn (opv (t.xr o.a) o.ty) (opv (t.xr o.b) o.ty)))

/-- Sets predicate D when A equals B. (R119) -/
def execCmpEq (o : Ops) (s : State) : Out := cmpOp 0x01 o s

/-- Sets predicate D when A differs from B. (R119) -/
def execCmpNe (o : Ops) (s : State) : Out := cmpOp 0x02 o s

/-- Sets predicate D when A is less than B. (R119) -/
def execCmpLt (o : Ops) (s : State) : Out := cmpOp 0x03 o s

/-- Sets predicate D when A is at most B. (R119) -/
def execCmpLe (o : Ops) (s : State) : Out := cmpOp 0x04 o s

/-- Sets predicate D when A is greater than B. (R119) -/
def execCmpGt (o : Ops) (s : State) : Out := cmpOp 0x05 o s

/-- Sets predicate D when A is at least B. (R119) -/
def execCmpGe (o : Ops) (s : State) : Out := cmpOp 0x06 o s

/-- Sets predicate D when either F32 operand is NaN. (R119) -/
def execCmpUnord (o : Ops) (s : State) : Out := cmpOp 0x07 o s

/-! ## PRD (R120) -/

/-- A PRD function of predicates A and B into D. -/
def prdBin (fn : Nat) (f : Bool → Bool → Bool) (o : Ops) (s : State) : Out :=
  issueReg 0x04 fn o s (fun t => t.wp o.d (f (t.pr o.a) (t.pr o.b)))

/-- The predicates p1 to p7. -/
def predRegs : List Reg := [.p 1, .p 2, .p 3, .p 4, .p 5, .p 6, .p 7]

/-- Writes the AND of two predicates. (R120) -/
def execPrdAnd (o : Ops) (s : State) : Out := prdBin 0x01 (fun a b => a && b) o s

/-- Writes the OR of two predicates. (R120) -/
def execPrdOr (o : Ops) (s : State) : Out := prdBin 0x02 (fun a b => a || b) o s

/-- Writes the XOR of two predicates. (R120) -/
def execPrdXor (o : Ops) (s : State) : Out := prdBin 0x03 (fun a b => a != b) o s

/-- Writes A AND NOT B over predicates. (R120) -/
def execPrdAndn (o : Ops) (s : State) : Out := prdBin 0x04 (fun a b => a && !b) o s

/-- Writes the inverse of a predicate. (R120) -/
def execPrdNot (o : Ops) (s : State) : Out := prdBin 0x05 (fun a _ => !a) o s

/-- Sets predicate D when x register A is non-zero. (R120) -/
def execPrdSet (o : Ops) (s : State) : Out := issueReg 0x04 0x06 o s (fun t => t.wp o.d (t.xr o.a != 0))
/-- PACK reads every predicate (R120, R114); bit 0 is always 1. -/
def execPrdPack (o : Ops) (s : State) : Out :=
  issue 0x04 0x07 o predRegs false s
    (fun s => (s.modCur (fun t => t.wx o.d ((t.p ||| 1).setWidth 64))).finish)
/-- UNPACK writes p1 to p7 in one step; A[0] and A[63:8] are ignored. -/
def execPrdUnpack (o : Ops) (s : State) : Out :=
  issue 0x04 0x08 o predRegs false s
    (fun s => (s.modCur (fun t => { t with p := ((t.xr o.a).setWidth 8) ||| 1 })).finish)

/-- Packs two k masks into an x register. (R120) -/
def execPrdKpack (o : Ops) (s : State) : Out :=
  issueReg 0x04 0x09 o s (fun t => t.wx o.d ((t.kr o.b ++ t.kr o.a).setWidth 64))

/-- Writes a k mask from bits [15:0] of an x register. (R120) -/
def execPrdKunpack (o : Ops) (s : State) : Out := issueReg 0x04 0x0A o s (fun t => t.wk o.d ((t.xr o.a).setWidth 16))

/-! ## FLT (R123 to R125) -/

/-- The value rounded to FP32 in the instruction's mode and written to D, with its flags (R124). -/
def fltWrite (o : Ops) (t : Thread) (v : FVal × Nat) : Thread :=
  let r := roundF .f32 (t.mode o.rnd false) o.sat false 0 v.1
  (t.orFlags (orF v.2 r.2)).wx o.d (BitVec.ofNat 64 r.1)

/-- An arithmetic FLT function: the exact value from the rounding mode and the operands. -/
def fltOp (fn : Nat) (f : Bool → FVal → FVal → FVal → FVal × Nat) (o : Ops) (s : State) : Out :=
  issueReg 0x07 fn o s (fun t =>
    fltWrite o t (f (t.mode o.rnd false = 3) (opF (t.xr o.a)) (opF (t.xr o.b)) (opF (t.xr o.c))))

/-- a × b + c with the flags of both steps (R51, R124). -/
def fmaV (rd : Bool) (a b c : FVal) : FVal × Nat :=
  let p := a.mul b
  let r := p.1.add rd c
  (r.1, orF p.2 r.2)

/-- A FLT function whose result is one of its operands with its sign changed or chosen: no rounding, no flag. -/
def fltPick (fn : Nat) (f : FVal → FVal → FVal) (o : Ops) (s : State) : Out :=
  issueReg 0x07 fn o s (fun t => t.wx o.d (BitVec.ofNat 64 (rneF32 (f (opF (t.xr o.a)) (opF (t.xr o.b)))).1))

/-- Adds two FP32 values with one rounding. (R124) -/
def execFltAdd (o : Ops) (s : State) : Out := fltOp 0x01 (fun rd a b _ => a.add rd b) o s

/-- Subtracts two FP32 values with one rounding. (R124) -/
def execFltSub (o : Ops) (s : State) : Out := fltOp 0x02 (fun rd a b _ => a.add rd b.neg) o s

/-- Multiplies two FP32 values with one rounding. (R124) -/
def execFltMul (o : Ops) (s : State) : Out := fltOp 0x03 (fun _ a b _ => a.mul b) o s

/-- Computes A times B plus C with one rounding. (R124) -/
def execFltFma (o : Ops) (s : State) : Out := fltOp 0x04 fmaV o s

/-- Divides two FP32 values with one rounding. (R124) -/
def execFltDiv (o : Ops) (s : State) : Out := fltOp 0x05 (fun _ a b _ => a.div b) o s

/-- Computes the FP32 square root with one rounding. (R124) -/
def execFltSqrt (o : Ops) (s : State) : Out := fltOp 0x06 (fun _ a _ _ => a.sqrt) o s

/-- Writes the FP32 minimum under R52. (R124) -/
def execFltMin (o : Ops) (s : State) : Out := fltPick 0x07 (FVal.minMax false) o s

/-- Writes the FP32 maximum under R52. (R124) -/
def execFltMax (o : Ops) (s : State) : Out := fltPick 0x08 (FVal.minMax true) o s

/-- Clears the sign of an FP32 value. (R124) -/
def execFltAbs (o : Ops) (s : State) : Out := fltPick 0x09 (fun a _ => a.abs) o s

/-- Inverts the sign of an FP32 value. (R124) -/
def execFltNeg (o : Ops) (s : State) : Out := fltPick 0x0A (fun a _ => a.neg) o s
/-- CVT: TO = 1 to F32, TO = 0 to the integer type in TY (R125). -/
def execFltCvt (o : Ops) (s : State) : Out :=
  issueReg 0x07 0x0B o s (fun t =>
    if o.fld 22 1 = 1 then fltWrite o t (FVal.ofInt (opv (t.xr o.a) o.ty), 0)
    else
      let r := floatToInt o.ty (t.mode o.rnd false) (opF (t.xr o.a))
      (t.orFlags r.2).wx o.d (wrv r.1 o.ty))

end Sys2Proof.Machine
end

