-- ==== Sys2Proof/Machine/Vector.lean ====
section
/-! DEFINITION. The vector classes VEC, VCMP, VSF, VCV and VPM (R141 to R161). -/

namespace Sys2Proof.Machine

/-! ## Elements (R141 to R144) -/

/-- ELEM(v, e) of width `w`. -/
def elemOf (v : VWord) (w e : Nat) : Nat := (v.extractLsb' (w * e) w).toNat
/-- ELEM(v, e) := y. -/
def setElem (v : VWord) (w e y : Nat) : VWord :=
  (v &&& ~~~(BitVec.ofNat 512 ((2 ^ w - 1) * 2 ^ (w * e)))) ||| BitVec.ofNat 512 (y % 2 ^ w * 2 ^ (w * e))
/-- An element of B, which may stand in an x register for all of them (R144). -/
def elemB (t : Thread) (r : Reg) (w e : Nat) : Nat :=
  match r with
  | .x n => (t.getX n).toNat % 2 ^ w
  | r => elemOf (t.vr r) w e

/-- What an element's computation gives: its bits, its flags, the generator after it. -/
abbrev ElemRes := Nat × Nat × BitVec 32

/-- The destination, flags and generator while the elements are produced in order. -/
structure VecAcc where
  d   : VWord
  fl  : Nat
  gen : BitVec 32
  deriving DecidableEq, Repr

/-- Element `e` of width `w` produced. -/
def VecAcc.put (v : VecAcc) (w e : Nat) (f : BitVec 32 → ElemRes) : VecAcc :=
  let r := f v.gen
  ⟨setElem v.d w e r.1, orF v.fl r.2.1, r.2.2⟩

/-- The start of an instruction that writes D. -/
def Thread.vecStart (t : Thread) (d : Reg) : VecAcc := ⟨t.vr d, 0, t.gen⟩
/-- Its end: D, flags and generator written. -/
def Thread.vecEnd (t : Thread) (d : Reg) (v : VecAcc) : Thread := ((t.orFlags v.fl).setGen v.gen).wv d v.d
/-- Whether element `e` of a type with `per` elements per lane lies in an active lane. -/
def Thread.act (t : Thread) (g : Guard) (per e : Nat) : Bool := (t.laneMask g).getLsbD (e / per)

/-- Every element of the active lanes of D produced in ascending order (R142, R143). -/
def Thread.vecMap (t : Thread) (o : Ops) (f : Nat → BitVec 32 → ElemRes) : Thread :=
  t.vecEnd o.d ((List.range o.ty.elems).foldl (fun v e =>
    if t.act o.g o.ty.per e then v.put o.ty.width e (f e) else v) (t.vecStart o.d))

/-- A value rounded into a float type (R46, R48): bits, flags, generator. -/
def roundElem (ty : Ty) (mode : Nat) (sat clampInf : Bool) (v : FVal × Nat) (gen : BitVec 32) : ElemRes :=
  let g := genStep mode gen
  let r := roundF ty mode sat clampInf g.1 v.1
  (r.1, orF v.2 r.2, g.2)

/-- An integer result, wrapped when written. -/
def intElem (ty : Ty) (v : Int) (gen : BitVec 32) : ElemRes := (wrapN ty.width v, 0, gen)
/-- An integer result clamped (R44). -/
def satElem (ty : Ty) (v : Int) (gen : BitVec 32) : ElemRes :=
  let r := satInt ty.isSigned ty.width v
  (wrapN ty.width r.1, flagIf r.2 flagSAT, gen)
/-- The integer that an element holds. -/
def intVal (ty : Ty) (bits : Nat) : Int := readInt ty.isSigned ty.width bits

/-! ## VEC (R145 to R147) -/

/-- A VEC function of bits a, b and c of each element. -/
def vecOp (fn : Nat) (f : Ops → Thread → Nat → Nat → Nat → Nat → BitVec 32 → ElemRes) (o : Ops) (s : State) : Out :=
  issueReg 0x10 fn o s (fun t => t.vecMap o (fun e =>
    f o t e (elemOf (t.vr o.a) o.ty.width e) (elemB t o.b o.ty.width e) (elemOf (t.vr o.c) o.ty.width e)))

/-- An arithmetic function: exact on integers, rounded once on floats. SR is open to F16 and BF16 (R47). -/
def vecArith (fn : Nat) (fi : Int → Int → Int → Int) (ff : Bool → FVal → FVal → FVal → FVal × Nat) (o : Ops) (s : State) :
    Out :=
  vecOp fn (fun o t _ a b c gen =>
    if o.ty.isFloat then
      let mode := t.mode o.rnd (o.ty != .f32)
      roundElem o.ty mode o.sat false (ff (mode = 3) (decodeF o.ty a) (decodeF o.ty b) (decodeF o.ty c)) gen
    else intElem o.ty (fi (intVal o.ty a) (intVal o.ty b) (intVal o.ty c)) gen) o s

/-- A function that chooses or re-signs a value without rounding. -/
def vecPick (fn : Nat) (fi : Int → Int → Int) (ff : FVal → FVal → FVal) (o : Ops) (s : State) : Out :=
  vecOp fn (fun o _ _ a b _ gen =>
    if o.ty.isFloat then ((roundF o.ty 0 false false 0 (ff (decodeF o.ty a) (decodeF o.ty b))).1, 0, gen)
    else intElem o.ty (fi (intVal o.ty a) (intVal o.ty b)) gen) o s

/-- A function of the elements' bits. -/
def vecBits (fn : Nat) (f : Nat → Nat → Nat) (o : Ops) (s : State) : Out :=
  vecOp fn (fun _ _ _ a b _ gen => (f a b, 0, gen)) o s

/-- Adds vector elements in active lanes. (R146) -/
def execVecAdd (o : Ops) (s : State) : Out := vecArith 0x01 (fun a b _ => a + b) (fun rd a b _ => a.add rd b) o s

/-- Subtracts vector elements in active lanes. (R146) -/
def execVecSub (o : Ops) (s : State) : Out := vecArith 0x02 (fun a b _ => a - b) (fun rd a b _ => a.add rd b.neg) o s

/-- Multiplies vector elements in active lanes. (R146) -/
def execVecMul (o : Ops) (s : State) : Out := vecArith 0x03 (fun a b _ => a * b) (fun _ a b _ => a.mul b) o s

/-- Computes a times b plus c per element with one rounding. (R146) -/
def execVecFma (o : Ops) (s : State) : Out := vecArith 0x04 (fun a b c => a * b + c) fmaV o s

/-- Computes a times b minus c per element with one rounding. (R146) -/
def execVecFms (o : Ops) (s : State) : Out := vecArith 0x05 (fun a b c => a * b - c) (fun rd a b c => fmaV rd a b c.neg) o s

/-- Writes the per-element minimum. (R146) -/
def execVecMin (o : Ops) (s : State) : Out := vecPick 0x06 min (FVal.minMax false) o s

/-- Writes the per-element maximum. (R146) -/
def execVecMax (o : Ops) (s : State) : Out := vecPick 0x07 max (FVal.minMax true) o s

/-- Writes the per-element absolute value. (R146) -/
def execVecAbs (o : Ops) (s : State) : Out := vecPick 0x08 (fun a _ => a.natAbs) (fun a _ => a.abs) o s

/-- Writes the per-element negation. (R146) -/
def execVecNeg (o : Ops) (s : State) : Out := vecPick 0x09 (fun a _ => -a) (fun a _ => a.neg) o s

/-- Writes the bitwise AND of elements. (R146) -/
def execVecAnd (o : Ops) (s : State) : Out := vecBits 0x0A (· &&& ·) o s

/-- Writes the bitwise OR of elements. (R146) -/
def execVecOr (o : Ops) (s : State) : Out := vecBits 0x0B (· ||| ·) o s

/-- Writes the bitwise XOR of elements. (R146) -/
def execVecXor (o : Ops) (s : State) : Out := vecBits 0x0C (· ^^^ ·) o s

/-- Shifts integer elements left. (R146) -/
def execVecShl (o : Ops) (s : State) : Out :=
  vecOp 0x0D (fun o _ _ a b _ gen => intElem o.ty (intVal o.ty a * (2 ^ (b % o.ty.width) : Nat)) gen) o s

/-- Shifts integer elements right, arithmetic or logical by type. (R146) -/
def execVecShr (o : Ops) (s : State) : Out :=
  vecOp 0x0E (fun o _ _ a b _ gen => intElem o.ty (intVal o.ty a / (2 ^ (b % o.ty.width) : Nat)) gen) o s

/-- Copies element bits from A to D in active lanes. (R146) -/
def execVecMov (o : Ops) (s : State) : Out := vecBits 0x0F (fun a _ => a) o s
/-- BCAST reads its source in full: an x register, or element IDX (R146). -/
def execVecBcast (o : Ops) (s : State) : Out :=
  vecOp 0x10 (fun o t _ _ _ _ gen => (match o.a with
    | .x n => (t.getX n).toNat % 2 ^ o.ty.width
    | a => elemOf (t.vr a) o.ty.width (o.fld 22 7), 0, gen)) o s

/-- Selects per lane between A and B by mask C. (R146)
DESIGN CHOICE, unsafe: log 86. -/
def execVecSel (o : Ops) (s : State) : Out :=
  vecOp 0x11 (fun o t e a b _ gen => (if (t.kr o.c).getLsbD (e / o.ty.per) then a else b, 0, gen)) o s

/-- Adds integer elements with saturation. (R146) -/
def execVecAdds (o : Ops) (s : State) : Out :=
  vecOp 0x12 (fun o _ _ a b _ gen => satElem o.ty (intVal o.ty a + intVal o.ty b) gen) o s

/-- Subtracts integer elements with saturation. (R146) -/
def execVecSubs (o : Ops) (s : State) : Out :=
  vecOp 0x13 (fun o _ _ a b _ gen => satElem o.ty (intVal o.ty a - intVal o.ty b) gen) o s

/-! ## VCMP (R149) -/

/-- The relation of a VCMP function on one element. -/
def relElem (fn : Nat) (ty : Ty) (a b : Nat) : Bool :=
  if ty.isFloat then FVal.compare fn (decodeF ty a) (decodeF ty b) else compareInt fn (intVal ty a) (intVal ty b)

/-- Whether the relation holds for every element of a lane. -/
def relLane (fn : Nat) (o : Ops) (t : Thread) (i : Nat) : Bool :=
  (List.range o.ty.per).all (fun j =>
    relElem fn o.ty (elemOf (t.vr o.a) o.ty.width (i * o.ty.per + j)) (elemB t o.b o.ty.width (i * o.ty.per + j)))

/-- The bits of D of the active lanes written. -/
def vcmpMask (fn : Nat) (o : Ops) (t : Thread) : BitVec 16 :=
  let m := t.laneMask o.g
  (t.kr o.d &&& ~~~m) |||
    (m &&& (List.range 16).foldl (fun k i => if relLane fn o t i then k ||| (1#16 <<< i) else k) 0)

def vcmpOp (fn : Nat) (o : Ops) (s : State) : Out := issueReg 0x15 fn o s (fun t => t.wk o.d (vcmpMask fn o t))

/-- Sets a mask bit per lane where every element equals B. (R149) -/
def execVcmpEq (o : Ops) (s : State) : Out := vcmpOp 0x01 o s

/-- Sets a mask bit per lane where every element differs from B. (R149) -/
def execVcmpNe (o : Ops) (s : State) : Out := vcmpOp 0x02 o s

/-- Sets a mask bit per lane where every element is below B. (R149) -/
def execVcmpLt (o : Ops) (s : State) : Out := vcmpOp 0x03 o s

/-- Sets a mask bit per lane where every element is at most B. (R149) -/
def execVcmpLe (o : Ops) (s : State) : Out := vcmpOp 0x04 o s

/-- Sets a mask bit per lane where every element is above B. (R149) -/
def execVcmpGt (o : Ops) (s : State) : Out := vcmpOp 0x05 o s

/-- Sets a mask bit per lane where every element is at least B. (R149) -/
def execVcmpGe (o : Ops) (s : State) : Out := vcmpOp 0x06 o s

/-- Sets a mask bit per lane where every element is unordered with B. (R149) -/
def execVcmpUnord (o : Ops) (s : State) : Out := vcmpOp 0x07 o s

/-! ## VSF (R61, R150 to R152) -/

/-- 1/√x (R61), to 70 bits with a sticky rest. -/
def rsqrtV (x : FVal) : FVal × Nat :=
  match x with
  | .nan => (.nan, 0)
  | .zero n => (.inf n, flagDZ)
  | .inf n => if n then (.nan, flagNV) else (.zero false, 0)
  | .fin true _ _ _ => (.nan, flagNV)
  | .fin false m e _ =>
    let k : Nat := 144 + 2 * Nat.log2 m + (if e % 2 = 0 then 0 else 1)
    let r := isqrt (2 ^ k / m)
    (.fin false r (-((k : Int) + e) / 2) (r * r * m != 2 ^ k), 0)

/-- A special function on one element: bits and flags (R61, R150). EXP2 and LOG2 run on FP32 and round again. -/
def sfuElem (fn : Nat) (ty : Ty) (bits : Nat) : Nat × Nat :=
  let x := decodeF ty bits
  let once := fun (v : FVal × Nat) => (fun r => (r.1, orF v.2 r.2)) (roundF ty 0 false false 0 v.1)
  let twice := fun (v : FVal × Nat) =>
    let y := rneF32 v.1
    if ty = .f32 then (y.1, orF v.2 y.2)
    else (fun r => (r.1, orF (orF v.2 y.2) r.2)) (roundF ty 0 false false 0 (decodeF .f32 y.1))
  match fn with
  | 1 => twice (exp2V x)
  | 2 => twice (log2V x)
  | 3 => once ((FVal.ofInt 1).div x)
  | 4 => once (rsqrtV x)
  | _ => once x.sqrt

/-- The result of a request written to its register, and its flags (R150). -/
def SfuReq.write (r : SfuReq) (t : Thread) : Thread :=
  let v := (List.range r.ty.elems).foldl (fun (v : VWord × Nat) e =>
    if r.mask.getLsbD (e / r.ty.per) then
      let y := sfuElem r.fn r.ty (elemOf r.src r.ty.width e)
      (setElem v.1 r.ty.width e y.1, orF v.2 y.2)
    else v) (t.vr r.dest, 0)
  (t.orFlags v.2).wv r.dest v.1

/-- A VSF instruction enters its core's queue with its operands read, or stalls while the 8 entries are taken (R151). -/
def vsfOp (fn : Nat) (o : Ops) (s : State) : Out :=
  issue 0x12 fn o [] false s (fun s =>
    let c := coreOf s.me
    if 8 ≤ (s.core c).sfu.length then s.await .stalled .sfuRoom
    else
      let t := s.cur
      (s.modCore c (fun k => { k with sfu := k.sfu ++ [⟨fn, o.ty, o.d, t.laneMask o.g, t.vr o.a, s.me⟩] })).finish)

/-- Queues an EXP2 request for active lanes in the special-function pipe. (R150) -/
def execVsfExp2 (o : Ops) (s : State) : Out := vsfOp 0x01 o s

/-- Queues a LOG2 request in the special-function pipe. (R150) -/
def execVsfLog2 (o : Ops) (s : State) : Out := vsfOp 0x02 o s

/-- Queues a reciprocal request in the special-function pipe. (R150) -/
def execVsfRcp (o : Ops) (s : State) : Out := vsfOp 0x03 o s

/-- Queues a reciprocal square root request. (R150) -/
def execVsfRsqrt (o : Ops) (s : State) : Out := vsfOp 0x04 o s

/-- Queues a square root request. (R150) -/
def execVsfSqrt (o : Ops) (s : State) : Out := vsfOp 0x05 o s

/-! ## VCV (R153 to R157) -/

/-- STY, PART and SIDX (R153). -/
def vcvSty (o : Ops) : Ty := (o.tyAt 22).getD .f32
def vcvPart (o : Ops) : Nat := o.fld 26 3
def vcvSidx (o : Ops) : Nat := o.fld 29 7

/-- CONV of R154. -/
def convElem (sty ty : Ty) (mode : Nat) (sat : Bool) (bits : Nat) (gen : BitVec 32) : ElemRes :=
  if sty.isInt then
    if ty.isInt then (if sat then satElem ty (intVal sty bits) gen else intElem ty (intVal sty bits) gen)
    else roundElem ty mode sat true (FVal.ofInt (intVal sty bits), 0) gen
  else if ty.isInt then
    let r := floatToInt ty mode (decodeF sty bits)
    (wrapN ty.width r.1, r.2, gen)
  else if ty = .e8m0 then
    if sty = .e8m0 then (bits, 0, gen)
    else (fun r => (r.1, r.2, gen)) (floatToE8m0 (decodeF sty bits))
  else roundElem ty mode sat true (decodeF sty bits, 0) gen

/-- The mode of a conversion: SR is open to floats narrower than FP32 (R47, R154). -/
def vcvMode (t : Thread) (o : Ops) : Nat := t.mode o.rnd (o.ty.isFloat && o.ty != .f32)

/-- The elements of a lane converted from source element numbers to destination element numbers, in order. -/
def convMoves (o : Ops) (t : Thread) (src : VWord) (v : VecAcc) (ms : List (Nat × Nat)) : VecAcc :=
  ms.foldl (fun v m => v.put o.ty.width m.2
    (convElem (vcvSty o) o.ty (vcvMode t o) o.sat (elemOf src (vcvSty o).width m.1))) v

/-- The active lanes in order. -/
def Thread.activeLanes (t : Thread) (g : Guard) : List Nat := (List.range 16).filter (fun i => (t.laneMask g).getLsbD i)

/-- CVT within each lane, narrowing into part PART or widening from it (R154). -/
def execVcvCvt (o : Ops) (s : State) : Out :=
  issueReg 0x11 0x01 o s (fun t =>
    let ns := (vcvSty o).per
    let nd := o.ty.per
    let p := vcvPart o
    t.vecEnd o.d ((t.activeLanes o.g).foldl (fun v i => convMoves o t (t.vr o.a) v
      (if o.ty.width ≤ (vcvSty o).width then (List.range ns).map (fun j => (i * ns + j, i * nd + p * ns + j))
       else (List.range nd).map (fun j => (i * ns + p * nd + j, i * nd + j)))) (t.vecStart o.d)))

/-- PACK: A's elements below B's in each lane, alternately produced (R154). -/
def execVcvPack (o : Ops) (s : State) : Out :=
  issueReg 0x11 0x02 o s (fun t =>
    let ns := (vcvSty o).per
    let nd := o.ty.per
    t.vecEnd o.d ((t.activeLanes o.g).foldl (fun v i => (List.range ns).foldl (fun v j =>
      convMoves o t (t.vr o.b) (convMoves o t (t.vr o.a) v [(i * ns + j, i * nd + j)]) [(i * ns + j, i * nd + ns + j)]) v)
      (t.vecStart o.d)))

/-- UNPACK: the lower half of each lane into D, the upper into C; D's elements of a lane come first (R154). -/
def execVcvUnpack (o : Ops) (s : State) : Out :=
  issueReg 0x11 0x03 o s (fun t =>
    let ns := (vcvSty o).per
    let nd := o.ty.per
    let low := fun i => (List.range nd).map (fun j => (i * ns + j, i * nd + j))
    let high := fun i => (List.range nd).map (fun j => (i * ns + nd + j, i * nd + j))
    let r := (t.activeLanes o.g).foldl (fun (v : VecAcc × VWord) i =>
      let d := convMoves o t (t.vr o.a) v.1 (low i)
      let c := convMoves o t (t.vr o.a) { d with d := v.2 } (high i)
      ({ c with d := d.d }, c.d)) (t.vecStart o.d, t.vr o.c)
    (t.vecEnd o.d r.1).wv o.c r.2)

/-- emax of R58. -/
def emaxOf : Ty → Int
  | .e4m3 => 8 | .e5m2 => 15 | _ => 2

/-- The greater of two magnitudes, by value. -/
def maxMag (a b : FVal) : FVal := if a.abs.cmp b.abs = some .lt then b else a

/-- The scale of a block of values (R58), 0xFF where one of them is not finite. -/
def blockScale (ty : Ty) (xs : List FVal) : Nat :=
  if xs.any (fun x => match x with
    | .nan | .inf _ => true
    | _ => false) then 0xFF
  else
    match (xs.foldl maxMag (.zero false)).log2 with
    | none => 0
    | some (l, _) => (max 0 (min 254 (l - emaxOf ty + 127))).toNat

/-- A byte of a scale register, and a byte written (R70, R221). -/
def scaleByte (w : SWord) (i : Nat) : Nat := (w.extractLsb' (8 * i) 8).toNat
def setScaleByte (w : SWord) (i b : Nat) : SWord := patchBytes w i [BitVec.ofNat 8 b]

/-- QNT: one MX block of 32 FP32 values (R58, R156). Every element produced advances the generator, those of a block that is not
finite too (R48). NV is set for such a block whatever the guard.
DESIGN CHOICE, unsafe: log 72. -/
def execVcvQnt (o : Ops) (s : State) : Out :=
  issueReg 0x11 0x04 o s (fun t =>
    let xs := (List.range 16).map (fun i => decodeF .f32 (elemOf (t.vr o.a) 32 i)) ++
      (List.range 16).map (fun i => decodeF .f32 (elemOf (t.vr o.b) 32 i))
    let sc := blockScale o.ty xs
    let mode := t.mode o.rnd true
    let v := xs.zipIdx.foldl (fun v p =>
      let e := vcvPart o * 32 + p.2
      if t.act o.g o.ty.per e then v.put o.ty.width e (fun gen =>
        if sc = 0xFF then (o.ty.nanCode, 0, (genStep mode gen).2)
        else roundElem o.ty mode true true (p.1.scale (127 - (sc : Int)), 0) gen)
      else v) (t.vecStart o.d)
    let t := t.orFlags (flagIf (sc = 0xFF) flagNV)
    (t.vecEnd o.d v).ws o.c (setScaleByte (t.sr o.c) (vcvSidx o) sc))

/-- SCALE: 16 block elements times their scales into FP32 (R157). -/
def execVcvScale (o : Ops) (s : State) : Out :=
  issueReg 0x11 0x05 o s (fun t =>
    t.vecEnd o.d ((t.activeLanes o.g).foldl (fun v i => v.put 32 i (fun gen =>
      let e := vcvPart o * 16 + i
      let sc := scaleByte (t.sr o.c) (vcvSidx o + e / 32)
      let x := decodeF o.ty (elemOf (t.vr o.a) o.ty.width e)
      if sc = 0xFF || x.isNan then (Ty.nanCode .f32, 0, gen)
      else roundElem .f32 (t.mode o.rnd false) o.sat false (x.scale ((sc : Int) - 127), 0) gen)) (t.vecStart o.d)))

/-! ## VPM (R158 to R161) -/

/-- IDX (R158). -/
def vpmIdx (o : Ops) : Nat := o.fld 22 7

/-- Permutes elements of A by indices in B. (R159) -/
def execVpmPerm (o : Ops) (s : State) : Out :=
  issueReg 0x13 0x01 o s (fun t => t.vecMap o (fun e gen =>
    (elemOf (t.vr o.a) o.ty.width (elemOf (t.vr o.b) o.ty.width e % o.ty.elems), 0, gen)))

/-- Rotates the elements of A by IDX. (R159) -/
def execVpmRot (o : Ops) (s : State) : Out :=
  issueReg 0x13 0x02 o s (fun t => t.vecMap o (fun e gen =>
    (elemOf (t.vr o.a) o.ty.width ((e + vpmIdx o) % o.ty.elems), 0, gen)))
/-- EXTR writes x D where the lane is active (R159). -/
def execVpmExtr (o : Ops) (s : State) : Out :=
  issueReg 0x13 0x05 o s (fun t =>
    if t.act o.g o.ty.per (vpmIdx o) then
      t.wx o.d (BitVec.ofInt 64 (intVal o.ty (elemOf (t.vr o.a) o.ty.width (vpmIdx o))))
    else t)

/-- Inserts an x value as one element of D. (R159) -/
def execVpmIns (o : Ops) (s : State) : Out :=
  issueReg 0x13 0x06 o s (fun t =>
    if t.act o.g o.ty.per (vpmIdx o) then t.wv o.d (setElem (t.vr o.d) o.ty.width (vpmIdx o) (t.xr o.a).toNat) else t)

/-- Writes A plus the element index to each element. (R159) -/
def execVpmIota (o : Ops) (s : State) : Out :=
  issueReg 0x13 0x07 o s (fun t => t.vecMap o (fun e gen => intElem o.ty (opv (t.xr o.a) o.ty + e) gen))

/-- OP (R158). -/
def vpmOp (o : Ops) : Nat := o.fld 29 3

/-- COMB of R161 on the bits of two elements.
DEDUCED, unsafe: log 19. -/
def combElem (o : Ops) (mode : Nat) (r x : Nat) (gen : BitVec 32) : ElemRes :=
  match vpmOp o with
  | 0 =>
    if o.ty.isFloat then roundElem o.ty mode o.sat false ((decodeF o.ty r).add (mode = 3) (decodeF o.ty x)) gen
    else intElem o.ty (intVal o.ty r + intVal o.ty x) gen
  | 1 =>
    if o.ty.isFloat then ((roundF o.ty 0 false false 0 ((decodeF o.ty r).minMax false (decodeF o.ty x))).1, 0, gen)
    else intElem o.ty (min (intVal o.ty r) (intVal o.ty x)) gen
  | 2 =>
    if o.ty.isFloat then ((roundF o.ty 0 false false 0 ((decodeF o.ty r).minMax true (decodeF o.ty x))).1, 0, gen)
    else intElem o.ty (max (intVal o.ty r) (intVal o.ty x)) gen
  | 3 => (r &&& x, 0, gen)
  | 4 => (r ||| x, 0, gen)
  | _ => (r ^^^ x, 0, gen)

/-- The first element of a group as r: its value, a NaN in its canonical form (R51, R161). -/
def firstElem (ty : Ty) (bits : Nat) : Nat := if ty.isFloat && (decodeF ty bits).isNan then ty.nanCode else bits

/-- One group's elements combined in ascending order (R161).
DEDUCED, unsafe: log 19. -/
def combGroup (o : Ops) (t : Thread) (mode : Nat) (scan : Bool) (v : VecAcc) (es : List Nat) : VecAcc :=
  let r := es.foldl (fun (p : VecAcc × Option Nat) e =>
    let x := elemOf (t.vr o.a) o.ty.width e
    let y := match p.2 with
      | none => (firstElem o.ty x, 0, p.1.gen)
      | some r => combElem o mode r x p.1.gen
    ({ d := if scan then setElem p.1.d o.ty.width e y.1 else p.1.d, fl := orF p.1.fl y.2.1, gen := y.2.2 }, some y.1))
    (v, none)
  match r.2 with
  | some y => if scan then r.1 else { r.1 with d := es.foldl (fun d e => setElem d o.ty.width e y) r.1.d }
  | none => r.1

/-- RED and SCAN over the lane groups of `g` lanes (R160, R161). -/
def combAll (o : Ops) (t : Thread) (scan : Bool) (g : Nat) : Thread :=
  let n := g * o.ty.per
  let mode := t.mode o.rnd (o.ty != .f32)
  t.vecEnd o.d ((List.range (16 / g)).foldl (fun v j => combGroup o t mode scan v
    (((List.range n).map (fun i => j * n + i)).filter (fun e => t.act o.g o.ty.per e))) (t.vecStart o.d))

/-- The lanes of a group named by SCOPE (R160); none where it raises LEVEL. -/
def groupLanes (ls : List Level) (l : Nat) : Option Nat :=
  if ls.length ≤ l || threadLevel ls < l then none
  else if l = threadLevel ls then some 16 else some (lanesOf ls l)

def combOp (fn : Nat) (scan : Bool) (o : Ops) (s : State) : Out :=
  issue 0x13 fn o [] false s (fun s =>
    match groupLanes s.tree o.scope with
    | none => s.raise .level 0 0
    | some g => (s.modCur (fun t => combAll o t scan g)).finish)

/-- Reduces active elements within each lane group and writes the result to the group. (R161) -/
def execVpmRed (o : Ops) (s : State) : Out := combOp 0x03 false o s

/-- Writes running combinations of active elements within each lane group. (R161) -/
def execVpmScan (o : Ops) (s : State) : Out := combOp 0x04 true o s

end Sys2Proof.Machine
end

