-- ==== Sys2Proof/Machine/VectorMem.lean ====
section
/-! DEFINITION. VLS (R162 to R166). -/

namespace Sys2Proof.Machine

/-- The base address ea (R162). -/
def vlsBase (t : Thread) (o : Ops) : Word := t.xr o.a + o.disp

/-- Where element `e` moves (R163). -/
def vlsAddr (fn : Nat) (t : Thread) (o : Ops) (e : Nat) : Word :=
  match fn with
  | 3 | 4 => vlsBase t o + BitVec.ofNat 64 e * t.xr o.b
  | 5 => vlsBase t o + BitVec.ofInt 64 (readInt true 32 (elemOf (t.vr o.b) 32 e))
  | _ => vlsBase t o + BitVec.ofNat 64 (4 * e)

/-- The alignment of an element's access (R163): of the base for the contiguous forms. -/
def vlsAligned (fn : Nat) (t : Thread) (o : Ops) (e : Nat) : Bool :=
  match fn with
  | 1 | 2 => (vlsBase t o).toNat % 16 = 0
  | 6 | 7 => (vlsBase t o).toNat % 64 = 0
  | _ => (vlsAddr fn t o e).toNat % (o.ty.width / 8) = 0

/-- The elements of the active lanes, ascending. -/
def vlsElems (t : Thread) (o : Ops) : List Nat := (List.range o.ty.elems).filter (fun e => t.act o.g o.ty.per e)

/-- The three passes of R164: the first fault and its element.
DEDUCED, unsafe: log 21. -/
def vlsFault (w : Word) (fn : Nat) (t : Thread) (o : Ops) : Option (FaultCode × Word) :=
  let es := vlsElems t o
  let bytes := o.ty.width / 8
  let pool := fun e =>
    let a := vlsAddr fn t o e
    checkAddr w a bytes = some .pool || ((fn = 6 || fn = 7) && spaceOf a = .virt)
  match es.find? (fun e => !vlsAligned fn t o e) with
  | some e => some (.align, vlsAddr fn t o e)
  | none =>
    match es.find? pool with
    | some e => some (.pool, vlsAddr fn t o e)
    | none =>
      match es.find? (fun e => checkAddr w (vlsAddr fn t o e) bytes = some .prot) with
      | some e => some (.prot, vlsAddr fn t o e)
      | none => none

/-- The parts of the active elements, each at its byte offset in the register. -/
def vlsParts (fn : Nat) (store : Bool) (t : Thread) (o : Ops) : List Part :=
  let n := o.ty.width / 8
  (vlsElems t o).map (fun e => mkPart (vlsAddr fn t o e) n (n * e)
    (if store then leBytes n (elemOf (t.vr o.d) o.ty.width e) else []))

/-- A vector load. With no active lane there is no access; LDFE's register is pending all the same (R79).
DEDUCED, unsafe: log 73. -/
def vlsLoad (fn : Nat) (o : Ops) (s : State) : Out :=
  issue 0x14 fn o [] false s (fun s =>
    match vlsFault s.myPart fn s.cur o with
    | some (c, a) => s.raise c 0 a
    | none =>
      if vlsElems s.cur o = [] then (if fn = 6 then s.modCur (fun t => t.setPending o.d) else s).finish
      else if fn = 6 then
        (if 8 ≤ s.consuming s.me then s.await .stalled .consumeRoom
         else s.issueLoad (.consume (o.fld 0 1 = 1)) o.d (.bytes (some o.ty)) false true (vlsParts fn false s.cur o))
      else s.issueLoad .load o.d (.bytes (some o.ty)) false false (vlsParts fn false s.cur o))

/-- A vector store. -/
def vlsStore (fn : Nat) (o : Ops) (s : State) : Out :=
  issue 0x14 fn o [] false s (fun s =>
    match vlsFault s.myPart fn s.cur o with
    | some (c, a) => s.raise c 0 a
    | none =>
      if vlsElems s.cur o = [] then s.finish
      else s.issueStore (.store (fn = 7)) .write false (vlsParts fn true s.cur o))

/-- Loads 16 lanes from a contiguous aligned address. (R163) -/
def execVlsLd (o : Ops) (s : State) : Out := vlsLoad 0x01 o s

/-- Stores 16 lanes to a contiguous aligned address. (R163) -/
def execVlsSt (o : Ops) (s : State) : Out := vlsStore 0x02 o s

/-- Loads elements at a signed stride. (R163) -/
def execVlsLds (o : Ops) (s : State) : Out := vlsLoad 0x03 o s

/-- Stores elements at a signed stride. (R163) -/
def execVlsSts (o : Ops) (s : State) : Out := vlsStore 0x04 o s

/-- Gathers lanes from offsets held in a v register. (R163) -/
def execVlsLdg (o : Ops) (s : State) : Out := vlsLoad 0x05 o s
/-- LDFE reads all needed granules in one step once they are full (R165); a ninth consuming load stalls (R81). -/
def execVlsLdfe (o : Ops) (s : State) : Out := vlsLoad 0x06 o s

/-- Stores active lanes and sets the full bits of their granules. (R165) -/
def execVlsStfe (o : Ops) (s : State) : Out := vlsStore 0x07 o s

end Sys2Proof.Machine
end

