-- ==== Sys2Proof/Machine/Matrix.lean ====
section
/-! DEFINITION. MXU (R196 to R210, R219) and SCL (R220, R221) as their instructions issue. -/

namespace Sys2Proof.Machine

/-! ## SCL -/

/-- SCL.LD: 128 bytes into a scale register (R221). -/
def execSclLd (o : Ops) (s : State) : Out :=
  issue 0x19 0x01 o [] false s (fun s =>
    let ea := s.cur.xr o.a + o.disp
    if ea.toNat % 16 != 0 then s.raise .align 0 ea
    else
      match checkAddr s.myPart ea 128 with
      | some c => s.raise c 0 ea
      | none => s.issueLoad .load o.d (.bytes none) false false (granuleParts ea [] 128))

/-- SCL.MOV between scale and vector registers (R221). -/
def execSclMov (o : Ops) (s : State) : Out :=
  issueReg 0x19 0x02 o s (fun t =>
    let half := o.fld 0 1
    match o.d, o.a with
    | .s _, .s _ => t.ws o.d (t.sr o.a)
    | .s _, _ => t.ws o.d (patchBytes (t.sr o.d) (64 * half) (leBytes 64 (t.vr o.a).toNat))
    | _, _ => t.wv o.d ((t.sr o.a).extractLsb' (512 * half) 512))

/-- SCL.CLR fills a scale register with VAL (R221). -/
def execSclClr (o : Ops) (s : State) : Out :=
  issueReg 0x19 0x03 o s (fun t => t.ws o.d (patchBytes 0 0 (List.replicate 128 (BitVec.ofNat 8 (o.fld 0 8)))))

/-! ## MXU fields (R199) -/

def mxSlot (o : Ops) : Nat := o.fld 22 3
def mxPslot (o : Ops) : Nat := o.fld 25 3
/-- K of MMA and BLK. -/
def mxK (o : Ops) : Nat := 32 * o.fld 25 10
/-- The type of B; BTY 0 is the type of A. -/
def mxBty (o : Ops) : Ty := if o.fld 35 4 = 0 then o.ty else (o.tyAt 35).getD o.ty
def mxZc (o : Ops) : Bool := o.fld 39 1 = 1
def mxWide (o : Ops) : Bool := o.fld 25 1 = 1
def mxRow0 (o : Ops) : Nat := o.fld 26 7
def mxNrow (o : Ops) : Nat := o.fld 33 7
def mxSmask (o : Ops) : Nat := o.fld 22 5
/-- EB of R206. -/
def mxEb (wide : Bool) (ty : Ty) : Nat := if wide then 4 else ty.width / 8

/-- A 32-bit half of a word, signed, as an address step. -/
def strideOf (w : Word) (hi : Bool) : Word := (w.extractLsb' (if hi then 32 else 0) 32).signExtend 64

/-! ## Checks at issue (R199, R201, R206) -/

/-- The granules of `rows` rows of `bytes` bytes from `a` at a stride. -/
def rowGranules (a stride : Word) (rows bytes : Nat) : List Word :=
  (List.range rows).flatMap (fun r => (List.range ((bytes + 15) / 16)).map (fun g =>
    a + BitVec.ofNat 64 r * stride + BitVec.ofNat 64 (16 * g)))

/-- The first granule that the issuing core refuses, and its fault (R168 to R171, R201).
DEDUCED, unsafe: log 32. -/
def granuleFault (w : Word) (gs : List Word) : Option (FaultCode × Word) :=
  gs.findSome? (fun a => (checkAddr w a 16).map (fun c => (c, a)))

/-- Whether an address or stride is not a multiple of 16. -/
def odd16 (w : Word) : Bool := w.toNat % 16 != 0

/-- A command as it issues, with nothing captured. NROW is XFER's and LOAD's; a product, SCA and ZERO have none, and 0 in their records, as
R416 shows of MMA.
DESIGN CHOICE, unsafe: log 87. -/
def mxBase (fn : Nat) (o : Ops) (s : State) : MxCmd :=
  { fn := fn, ty := o.ty, bty := o.ty, btyCode := 0, slot := mxSlot o, pslot := 0, zc := false, wide := false, sat := false, tid := s.me,
    id := s.nextId, state := .queued, aaddr := 0, baddr := 0, astr := 0, bstr := 0, total := 128, progress := 0, row0 := 0,
    nrow := 0, sa := 0, sb := 0, pc := s.cur.pc, faddr := 0, fcode := none, house := none, staged := [], told := false, pendOp := [], nums := [],
    again := false, due := 0, after := [] }

/-- A checked command enters its core's queue, or stalls while the 8 entries are taken (R207, R216). -/
def State.queueMx (s : State) (c : MxCmd) : State :=
  let k := coreOf s.me
  if 8 ≤ (s.core k).mx.length then s.await .stalled .matrixRoom
  else
    let c := { c with after := s.mustFollow s.me .command }
    let s := { s with nextId := s.nextId + 1 }
    (s.modCore k (fun m => { m with
      mx := m.mx ++ [c], newest := putAt MxNewest.none m.newest c.slot ⟨c.id, 0, c.total, .queued⟩ })).finish

/-- The slot count of the issuing core's partition. -/
def State.slots (s : State) : Nat := partAcc s.myPart

/-- MMA and BLK: slot, alignment, then every operand granule (R199, R201). ALIGN records the operand's address, 0
where only its stride is no multiple of 16 (R134).
DEDUCED, unsafe: log 21; DEDUCED, unsafe: log 32. -/
def productOp (fn : Nat) (o : Ops) (s : State) : Out :=
  issue 0x18 fn o [] false s (fun s =>
    let t := s.cur
    let a := t.xr o.a
    let b := t.xr o.b
    let astr := strideOf (t.xr o.c) false
    let bstr := strideOf (t.xr o.c) true
    let k := mxK o
    if s.slots ≤ mxSlot o then s.raise .pool 0 0
    else if odd16 a || odd16 astr then s.raise .align 0 (if odd16 a then a else 0)
    else if odd16 b || odd16 bstr then s.raise .align 0 (if odd16 b then b else 0)
    else
      match granuleFault s.myPart (rowGranules a astr 128 (k * o.ty.width / 8) ++
          rowGranules b bstr k (128 * (mxBty o).width / 8)) with
      | some (c, x) => s.raise c 0 x
      | none => s.queueMx { mxBase fn o s with
          bty := mxBty o, btyCode := o.fld 35 4, zc := mxZc o, aaddr := a, baddr := b, astr := astr, bstr := bstr, total := k })

/-- Queues a matrix multiply-accumulate of A and B into an accumulator slot. (R202)
DEDUCED, unsafe: log 32. -/
def execMxuMma (o : Ops) (s : State) : Out := productOp 0x01 o s

/-- Queues one MX block partial product into a P slot. (R203) -/
def execMxuBlk (o : Ops) (s : State) : Out := productOp 0x02 o s
/-- SCA captures its scales at issue (R204). -/
def execMxuSca (o : Ops) (s : State) : Out :=
  issue 0x18 0x03 o [] false s (fun s =>
    if s.slots ≤ mxSlot o || s.slots ≤ mxPslot o then s.raise .pool 0 0
    else s.queueMx { mxBase 0x03 o s with pslot := mxPslot o, sa := s.cur.sr o.a, sb := s.cur.sr o.b })

/-- Queues the zeroing of a slot and its status byte. (R205) -/
def execMxuZero (o : Ops) (s : State) : Out :=
  issue 0x18 0x04 o [] false s (fun s =>
    if s.slots ≤ mxSlot o then s.raise .pool 0 0 else s.queueMx (mxBase 0x04 o s))

/-- XFER and LOAD (R206): slot, alignment, stride, then every granule. ALIGN records the address, 0 where only the stride is
no multiple of 16 (R134).
DEDUCED, unsafe: log 21; DEDUCED, unsafe: log 32. -/
def moveOp (fn : Nat) (o : Ops) (s : State) : Out :=
  issue 0x18 fn o [] false s (fun s =>
    let t := s.cur
    let a := t.xr o.a
    let str := strideOf (t.xr o.b) false
    let bytes := 128 * mxEb (mxWide o) o.ty
    if s.slots ≤ mxSlot o then s.raise .pool 0 0
    else if odd16 a || odd16 str then s.raise .align 0 (if odd16 a then a else 0)
    else if str.toInt.natAbs < bytes then s.raise .illegal 6 0
    else
      match granuleFault s.myPart (rowGranules a str (mxNrow o + 1) bytes) with
      | some (c, x) => s.raise c 0 x
      | none => s.queueMx { mxBase fn o s with
          wide := mxWide o, sat := o.sat, aaddr := a, astr := str, total := mxNrow o + 1, row0 := mxRow0 o, nrow := mxNrow o })

/-- Queues the transfer of slot rows to memory, converted or wide. (R206) -/
def execMxuXfer (o : Ops) (s : State) : Out := moveOp 0x05 o s

/-- Queues the filling of slot rows from memory. (R206) -/
def execMxuLoad (o : Ops) (s : State) : Out := moveOp 0x06 o s

/-- The commands that a WAIT waits for: this thread's, or those naming a slot of SMASK (R207). -/
def State.mxNamed (s : State) (smask : Nat) : List Nat :=
  ((s.core (coreOf s.me)).mx.filter (fun c =>
    if smask = 0 then c.tid = s.me else smask.testBit c.slot || (c.fn = 3 && smask.testBit c.pslot))).map (fun c => c.id)

/-- The commands of a WAIT that came to its place earlier, or as it comes now.
DEDUCED, unsafe: log 34. -/
def State.mxWaits (s : State) (smask : Nat) : List Nat :=
  match s.cur.wait with
  | some (.matrix ids) => ids
  | _ => s.mxNamed smask

/-- Waits until the named matrix commands are done. (R207)
DEDUCED, unsafe: log 34. -/
def execMxuWait (o : Ops) (s : State) : Out :=
  issueLate 0x18 0x07 o s (fun s =>
    if (List.range 5).any (fun n => (mxSmask o).testBit n && decide (s.slots ≤ n)) then s.raise .pool 0 0
    else
      let ids := s.mxWaits (mxSmask o)
      if (s.core (coreOf s.me)).mx.all (fun c => !ids.contains c.id) then (s.clearPending o.h.sw).finish
      else s.await .parked (.matrix ids))

/-- The code of a command's state in PROG (R219). -/
def mxStateCode : MxState → Nat
  | .none => 0 | .queued => 1 | .accepted => 2 | .running => 3 | .checkpointed => 4 | .done => 5 | .discarded => 6

/-- The word of R219. -/
def State.mxWord (s : State) (core slot : Nat) : Word :=
  let k := s.core core
  let n := lookAt MxNewest.none k.newest slot
  BitVec.ofNat 64 (n.progress + n.total * 2 ^ 16 + mxStateCode n.state * 2 ^ 32 +
    (lookAt 0 k.slotStat slot).toNat * 2 ^ 40)

/-- Reads the progress and status word of the newest command naming a slot. (R219)
DEDUCED, safe: log 17. -/
def execMxuProg (o : Ops) (s : State) : Out :=
  issue 0x18 0x08 o [] false s (fun s =>
    if s.slots ≤ mxSlot o then s.raise .pool 0 0
    else (s.enterWord o.d (s.mxWord (coreOf s.me) (mxSlot o))).finish)

end Sys2Proof.Machine
end

