-- ==== Sys2Proof/Machine/Chain.lean ====
section
/-! DEFINITION. Chains: the ACC instructions (R358 to R365, R370), the sending of strips (R355, R357, R363) and the break
(R369). -/

namespace Sys2Proof.Machine

/-! ## Entries -/

/-- An entry of a tile's chain table. -/
def State.chain (s : State) (tile i : Nat) : ChainEntry := lookAt ChainEntry.free (s.tile tile).chains i
def State.setChain (s : State) (tile i : Nat) (e : ChainEntry) : State :=
  s.modTile tile (fun t => { t with chains := putAt ChainEntry.free t.chains i e })
def State.modChain (s : State) (tile i : Nat) (f : ChainEntry → ChainEntry) : State := s.setChain tile i (f (s.chain tile i))
/-- The entries in use. -/
def State.chainsOf (s : State) (tile : Nat) : List (Nat × ChainEntry) := (s.tile tile).chains

/-- Open: neither closed nor broken. -/
def ChainEntry.isOpen (e : ChainEntry) : Bool := e.state != .closed && e.state != .broken
/-- NS, the strip count (R354). -/
def ChainEntry.ns (e : ChainEntry) : Nat := e.nrows / 8
/-- A bitmap of all strips. -/
def ChainEntry.allStrips (e : ChainEntry) : BitVec 16 := BitVec.ofNat 16 (2 ^ e.ns - 1)
/-- NX: EXACT slots of a STAR.X target (R356). -/
def chainNx (nrows : Nat) : Nat := (nrows + 31) / 32
/-- The slots that an entry keeps: SLOT, and the EXACT range of a STAR.X target. -/
def ChainEntry.slots (e : ChainEntry) : List Nat :=
  e.slot :: (if e.role = 2 && e.rule = 1 then (List.range (chainNx e.nrows)).map (fun i => e.xslot + i) else [])

/-- Whether an entry's slots are still its own (R364): to the last credit, the completion or the break. -/
def ChainEntry.keepsSlots (e : ChainEntry) : Bool :=
  match e.state with
  | .joining | .joined | .sending => true
  | _ => false

/-- Whether a chain holds a matrix command back (R210, R364): it names a slot of an entry whose first SEND has been
issued, and was issued after that. -/
def State.chainHolds (s : State) (core : Nat) (c : MxCmd) : Bool :=
  (s.chainsOf (tileOf core)).any (fun p => p.2.core = core && p.2.firstSend && p.2.keepsSlots &&
    !p.2.writers.contains c.id && (p.2.slots.contains c.slot || (c.fn = 3 && p.2.slots.contains c.pslot)))

/-- Whether the commands that write an entry's contribution are all over (R363). -/
def State.writersDone (s : State) (e : ChainEntry) : Bool :=
  (s.core e.core).mx.all (fun c => !(e.writers.contains c.id && c.slot = e.slot && c.fn != 5))

/-- Whether a fault that reaches a thread from away is kept until its context goes on: the context is pausing (R251). -/
def State.deferring (s : State) (tid : Nat) : Bool := (s.ctx (s.thread tid).launch.asid).state = .pausing

/-- A thread that can still be told of a fault: raised at once, or kept while its context pauses (R251, R318).
DEDUCED, unsafe: log 28. -/
def State.raiseAt (s : State) (tid : Nat) (f : Raised) : State :=
  let later := s.deferring tid
  s.modThread tid (fun t => match t.status with
    | .vacant | .retired | .killed => t
    | .paused => { t with reports := t.reports ++ [f] }
    | _ => if later then { t with reports := t.reports ++ [f] } else t.raiseOn f)

/-- A control message put on its way. -/
def State.sendChain (s : State) (kind : ChainKind) (e : ChainEntry) (tile i toCore : Nat) (toEntry : Option Nat) : State :=
  { s with chainMsgs := s.chainMsgs ++ [⟨s.nextId, kind, e.asid, e.chain, e.member, tile, i, toCore, toEntry⟩],
           nextId := s.nextId + 1 }

/-! ## Storage (R356) -/

/-- The lowest byte of the accumulator slots, and the end of the thread areas. -/
def freeTop (w : Word) : Nat := poolSize - 65536 * partAcc w
def freeBottom (w : Word) : Nat := partScr w * 1024 + (partTpc w + 1) * threadArea w

/-- The highest run of `len` free bytes below `top`, given the runs taken. -/
def findFree (bottom len : Nat) (taken : List (Nat × Nat)) : Nat → Nat → Option Nat
  | 0, _ => none
  | n + 1, top =>
    if top < bottom + len then none
    else
      match taken.find? (fun r => decide (r.1 < top ∧ top - len < r.1 + r.2)) with
      | some r => findFree bottom len taken n r.1
      | none => some (top - len)

/-- Free space of a core for `len` bytes (R356). -/
def State.stageSpace (s : State) (core len : Nat) : Option Nat :=
  let w := (s.core core).part
  findFree (freeBottom w) len (((s.chainsOf (tileOf core)).filter (fun p => p.2.core = core && p.2.stageLen != 0)).map
    (fun p => (p.2.stageOff, p.2.stageLen))) 65 (freeTop w)

/-! ## Strips (R351, R357) -/

/-- Byte offset of strip k of an entry's slot in its pool. -/
def ChainEntry.stripOff (e : ChainEntry) (k : Nat) : Nat := slotOff e.slot + 512 * (e.row0 + 8 * k)

/-- FP32 words from bytes. -/
def wordsOf (bs : List Byte) : List (BitVec 32) :=
  (List.range (bs.length / 4)).map (fun i => BitVec.ofNat 32 (leNat ((bs.drop (4 * i)).take 4)))
/-- Bytes from FP32 words. -/
def bytesOf (ws : List (BitVec 32)) : List Byte := ws.flatMap (fun w => leBytes 4 w.toNat)

/-- Strip k of an entry's contribution. -/
def State.ownStrip (s : State) (e : ChainEntry) (k : Nat) : List (BitVec 32) :=
  wordsOf (s.poolRead e.core (e.stripOff k) 4096)

/-- RNE_F32 sums of two lists of FP32 words, and the OR of their flags. -/
def addWords : List (BitVec 32) → List (BitVec 32) → List (BitVec 32) × Nat
  | a :: as, b :: bs =>
    let v := (decodeF .f32 a.toNat).add false (decodeF .f32 b.toNat)
    let r := rneF32 v.1
    let rest := addWords as bs
    (BitVec.ofNat 32 r.1 :: rest.1, orF (orF v.2 r.2) rest.2)
  | _, _ => ([], 0)

/-- Strips of an entry sent and not yet credited: on the network, staged at a relay, or with their CREDIT under way (R367). -/
def State.outstandingStrips (s : State) (tile i : Nat) : Nat :=
  let e := s.chain tile i
  s.strips.countP (fun p => p.fromTile = tile && p.fromEntry = i) +
  (s.chain (tileOf e.next) e.nextEntry).staged.length +
  s.chainMsgs.countP (fun m => (match m.kind with
    | .credit _ => true
    | _ => false) && tileOf m.toCore = tile && m.toEntry = some i)

/-- Whether the consumer of an entry is a relay, whose two staging buffers bound the strips on the way (R367).
DEDUCED, unsafe: log 51. -/
def State.toRelay (s : State) (e : ChainEntry) : Bool := (s.chain (tileOf e.next) e.nextEntry).role = 1

/-- A strip put on the chorus network.
DEDUCED, unsafe: log 53. -/
def State.sendStrip (s : State) (tile i : Nat) (e : ChainEntry) (k : Nat) (replay : Bool) (flags : Nat)
    (data : List (BitVec 32)) : State :=
  { s with strips := s.strips ++ [⟨tileOf e.next, e.nextEntry, e.member, k, replay, flags, tile, i, data, 0, false⟩] }

/-- Whether the engines of a context have stopped for a pause (R252). -/
def State.halted (s : State) (asid : Nat) : Bool :=
  match (s.ctx asid).state, (s.ctx asid).pause with
  | .pausing, some p => p.stopped
  | .resident, _ | .pausing, none => false
  | _, _ => true

/-- The next strip that an entry may send, with its flags and words: declared, acknowledged, its writers done, and for a
relay with its predecessor's strip at hand (R357, R363). -/
def State.nextStrip (s : State) (tile i : Nat) : Option (Nat × Bool × Nat × List (BitVec 32) × ChainEntry) :=
  let e := s.chain tile i
  if e.role = 2 || s.halted e.asid || !e.ackIn || !s.writersDone e || !s.allDone e.after || !e.isOpen ||
      (s.toRelay e && decide (2 ≤ s.outstandingStrips tile i)) then none
  else
    match e.role with
    | 0 =>
      match e.toSend with
      | [] => none
      | (k, replay) :: rest => some (k, replay, 0, s.ownStrip e k, { e with toSend := rest })
    | _ =>
      match e.toSend.find? (fun p => e.staged.any (fun q => q.1 = p.1)) with
      | none => none
      | some (k, replay) =>
        match e.staged.find? (fun q => q.1 = k) with
        | none => none
        | some (_, flags, _, ws) =>
          let r := addWords ws (s.ownStrip e k)
          some (k, replay, orF flags r.2, r.1, { e with
            toSend := e.toSend.erase (k, replay), flags := orF e.flags r.2, ownFlags := putAt 0 e.ownFlags k r.2 })

/-- Every strip that an entry may send is sent, at most `n`. -/
def State.pumpFor : Nat → State → Nat → Nat → State
  | 0, s, _, _ => s
  | n + 1, s, tile, i =>
    match s.nextStrip tile i with
    | none => s
    | some (k, replay, flags, ws, e) => State.pumpFor n ((s.setChain tile i e).sendStrip tile i e k replay flags ws) tile i

/-- Strips sent as far as they may be. -/
def State.pump (s : State) (tile i : Nat) : State := State.pumpFor 33 s tile i

/-- ACKs to the joined members that have none, once every own strip is declared (R363) and the accesses that the SEND follows
are over (R226). -/
def State.sendAcks (s : State) (tile i : Nat) : State :=
  let e := s.chain tile i
  if e.isOpen && e.decl &&& e.allStrips = e.allStrips && s.allDone e.after && !s.halted e.asid then
    let due := e.joined.filter (fun m => !e.acked.contains m.1)
    let s := due.foldl (fun s m => s.sendChain .ack e tile i (m.2.1 * 8) (some m.2.2)) s
    s.modChain tile i (fun e => { e with acked := e.acked ++ due.map Prod.fst })
  else s

/-- The entries of a tile go on, as a matrix command or an access has ended: ACKs, then strips. -/
def State.pumpTile (s : State) (tile : Nat) : State :=
  (s.chainsOf tile).foldl (fun s p => (s.sendAcks tile p.1).pump tile p.1) s

/-! ## Breaks and closing (R366, R369) -/

/-- The completion word (R366). -/
def ChainEntry.cwordValue (e : ChainEntry) (broken : Bool) : Nat :=
  e.count % 2 ^ 16 + e.dups % 2 ^ 16 * 2 ^ 16 + (e.flags % 128 + if broken then 128 else 0) * 2 ^ 32

/-- The completion word written with its full bit, in one step. -/
def State.writeCword (s : State) (e : ChainEntry) (broken : Bool) : State :=
  ((s.poolWrite e.core (poolOff e.cword) (leBytes 8 (e.cwordValue broken) ++ List.replicate 8 0)).setFull e.core
    (poolOff e.cword) true).serve e.core (poolOff e.cword) 16 rankEngine

/-- The entry freed, with the strips and messages still meant for it. -/
def State.closeChain (s : State) (tile i : Nat) : State :=
  { s with strips := s.strips.filter (fun p => !(p.tile = tile && p.entry = i)) }.setChain tile i ChainEntry.free

/-- BREAK to the consumer and to every member that joined. -/
def State.sendBreaks (s : State) (tile i : Nat) (e : ChainEntry) (cause : Nat) : State :=
  let s := if e.role = 2 then s
    else s.sendChain (.brk cause) e tile i e.next (if e.state = .joining then none else some e.nextEntry)
  e.joined.foldl (fun s m => s.sendChain (.brk cause) e tile i (m.2.1 * 8) (some m.2.2)) s

/-- An open entry breaks: the cause recorded, BREAK passed on, storage released, the target's word written, and a sender
whose SEND is not accepted told, unless the break began with a fault of its own (R369). -/
def State.breakChain (s : State) (tile i cause : Nat) (tell : Bool) : State :=
  let e := s.chain tile i
  if !e.isOpen then s
  else
    let s := s.sendBreaks tile i e cause
    let s := { s with strips := s.strips.filter (fun p => !(p.tile = tile && p.entry = i)) }
    let e' := { e with state := .broken, cause := cause, stageLen := 0, staged := [], toSend := [], cue := none }
    let s := s.setChain tile i e'
    let s := if e.role = 2 then s.writeCword e true else s
    let s := match e.cue with
      | some c => s.dropCue c
      | none => s
    if tell && e.role != 2 && e.firstSend && !e.ackIn then
      s.raiseAt e.tid ⟨.chainBroken, 0, 0, e.sendPc, .chain tile i⟩
    else s

/-! ## ACC.CHAIN (R359 to R361) -/

/-- The fields of a setup descriptor (R359). -/
structure ChainDesc where
  chain  : Nat
  role   : Nat
  mode   : Nat
  slot   : Nat
  xslot  : Nat
  member : Nat
  nmem   : Nat
  w      : Int
  row0   : Nat
  nrows  : Nat
  next   : Nat
  cword  : Word
  ctagT  : Word
  ctagM  : BitVec 16
  cport  : Nat
  rest   : Nat
  deriving DecidableEq, Repr

/-- A descriptor read from its 64 bytes. -/
def chainDescOf (d : List Byte) : ChainDesc :=
  let w := fun (off n : Nat) => leNat ((d.drop off).take n)
  { chain := w 0 2, role := w 2 1, mode := w 3 1, slot := w 4 1, xslot := w 5 1, member := w 6 1, nmem := w 7 1 + 1,
    w := readInt true 16 (w 8 2), row0 := w 10 1, nrows := w 11 1 + 1, next := w 12 4, cword := BitVec.ofNat 64 (w 16 8),
    ctagT := BitVec.ofNat 64 (w 24 8), ctagM := BitVec.ofNat 16 (w 32 2), cport := w 34 1, rest := w 35 29 }

def ChainDesc.rule (d : ChainDesc) : Nat := d.mode % 4
def ChainDesc.cue (d : ChainDesc) : Bool := d.mode.testBit 3

/-- The consumer's core on this package (R359). -/
def ChainDesc.nextCore (d : ChainDesc) : Nat :=
  ((d.next / 2 ^ 11 % 4 * 320 + d.next / 2 ^ 13 % 16 * 20 + d.next / 2 ^ 17 % 32) * 8 + d.next / 2 ^ 22 % 8)

/-- Whether a descriptor agrees with R354 and R359. Its reserved bytes are zero; its reserved bits, MODE[7:4] and NEXT[31:25], are
ignored (R7), in a target's NEXT too. -/
def ChainDesc.valid (d : ChainDesc) : Bool :=
  d.rule != 3 && decide (d.role ≤ 2) && decide (2 ≤ d.nmem) &&
  (match d.role with
   | 0 => if d.rule = 2 then d.member = 0 else decide (d.member + 1 < d.nmem)
   | 1 => d.rule = 2 && decide (1 ≤ d.member ∧ d.member + 1 < d.nmem)
   | _ => d.member + 1 = d.nmem) &&
  d.row0 % 8 = 0 && d.nrows % 8 = 0 && decide (d.row0 + d.nrows ≤ 128) &&
  (if d.rule = 1 then decide (-49 ≤ d.w ∧ d.w ≤ 101) else d.w = 0) &&
  d.rest = 0 &&
  (if d.role = 2 then d.next % 2 ^ 25 = 0 && (d.cue || (d.ctagT = 0 && d.ctagM = 0 && d.cport = 0))
   else !d.cue && d.cword = 0 && d.ctagT = 0 && d.ctagM = 0 && d.cport = 0) &&
  (d.xslot = 0 || (d.role = 2 && d.rule = 1))

/-- Whether a slot or the EXACT range lies at or above ACC, or they overlap. -/
def ChainDesc.slotsBad (d : ChainDesc) (acc : Nat) : Bool :=
  let exact := d.role = 2 && d.rule = 1
  decide (acc ≤ d.slot) || (exact && (decide (acc < d.xslot + chainNx d.nrows) ||
    decide (d.xslot ≤ d.slot ∧ d.slot < d.xslot + chainNx d.nrows)))

/-- The bytes of pool storage that a role takes (R356). -/
def ChainDesc.storage (d : ChainDesc) : Nat :=
  if d.role = 1 then 8192 else if d.role = 2 && d.rule = 1 then d.nrows * 32 else 0

/-- Whether a core lies in the unit of a binding that holds the issuing core; LANE and SLOT count as the core (R361). -/
def State.inUnit (s : State) (bind core : Nat) : Bool :=
  let me := coreOf s.me
  if bind ≤ 2 then core = me else if bind = 3 then tileOf core = tileOf me
  else if bind = 4 then dieOf (tileOf core) = dieOf (tileOf me) else true

/-- The entry that a checked descriptor opens. -/
def State.chainEntry (s : State) (d : ChainDesc) (scope off : Nat) (bytes : List Byte) (cue : Option Nat) : ChainEntry :=
  { ChainEntry.free with
    state := if d.role = 2 then .joined else .joining, asid := s.cur.launch.asid, chain := d.chain, role := d.role,
    rule := d.rule, strict := d.mode.testBit 2, useCue := d.cue, slot := d.slot, xslot := d.xslot, member := d.member,
    nmem := d.nmem, w := d.w, row0 := d.row0, nrows := d.nrows, next := d.nextCore, cword := d.cword, ctagT := d.ctagT,
    ctagM := d.ctagM, cport := d.cport, cue := cue, tid := s.me, core := coreOf s.me, scope := scope, desc := bytes,
    pc := s.cur.pc, stageOff := off, stageLen := d.storage }

/-- BUSYCHECK (R361): the sub-code that it raises. -/
def State.busyCheck (s : State) (d : ChainDesc) (scope : Nat) : Option Nat :=
  let core := coreOf s.me
  let tab := s.chainsOf (tileOf core)
  let bind := s.bindOf s.me scope
  let mine := (s.chainEntry d scope 0 [] none).slots
  if 6 ≤ bind || (d.role != 2 && (d.next % 2 ^ 11 != s.pkg || decide (20 ≤ d.next / 2 ^ 17 % 32) || !s.inUnit bind d.nextCore)) then some 1
  else if (((s.imageOf s.me).map (fun i => i.resident)).getD 0) < scope then some 2
  else if tab.any (fun p => p.2.core = core && p.2.keepsSlots && p.2.slots.any (fun x => mine.contains x)) then some 3
  else if tab.any (fun p => p.2.asid = s.cur.launch.asid && p.2.chain = d.chain && p.2.member = d.member) then some 4
  else if 64 ≤ tab.length then some 5
  else if d.storage != 0 && (s.stageSpace core d.storage).isNone then some 6
  else if d.cue && (s.freeEntry s.me).isNone then some 7
  else none

/-- The completion cue that a target reserves (R360, R366). -/
def chainCue (t : Thread) (d : ChainDesc) : CueMsg :=
  { launch := t.launch, target := t.gidx, tagT := d.ctagT, tagM := d.ctagM, port := BitVec.ofNat 8 d.cport, late := false,
    retag := false, wire := 0, block := false, src := BitVec.ofNat 32 t.gidx, seq := t.postCtr, len := 8,
    payload := List.replicate 8 0, kind := 1, isLaunch := false }

/-- The handle (R360). -/
def chainHandle (i : Nat) (d : ChainDesc) : Word := BitVec.ofNat 64 (i + d.chain * 2 ^ 6 + d.role * 2 ^ 22)

/-- The entry and its storage taken, the completion cue reserved, JOIN sent (R360). -/
def State.openChain (s : State) (o : Ops) (d : ChainDesc) (bytes : List Byte) : State :=
  let tile := tileOf (coreOf s.me)
  let i := ((List.range 64).find? (fun i => (s.chain tile i).state = .closed)).getD 0
  let off := if d.storage = 0 then 0 else (s.stageSpace (coreOf s.me) d.storage).getD 0
  let s := s.modCur (fun t => t.wx o.d (chainHandle i d))
  if d.cue then
    let cue : Cue := { id := s.nextId, msg := chainCue s.cur d, place := .reserved s.me, after := [], cell := none,
                       block := none, first := false, shared := (s.freeEntry s.me).getD false, sender := none }
    let s := { s with cues := s.cues ++ [cue], nextId := s.nextId + 1 }
    ((s.setChain tile i { s.chainEntry d o.scope off bytes (some cue.id) with handle := i }).modCur Thread.countPost).finish
  else
    let e := { s.chainEntry d o.scope off bytes none with handle := i }
    let s := s.setChain tile i e
    (if d.role = 2 then s
     else s.sendChain (.join e.rule e.w e.row0 e.nrows e.nmem e.member e.core) e tile i e.next none).finish

/-- Opens a chain member from a setup descriptor and sends JOIN for non-targets. (R360) -/
def execAccChain (o : Ops) (s : State) : Out :=
  issue 0x1D 0x01 o [] false s (fun s =>
    let a := s.cur.xr o.a
    if spaceOf a != .own || (checkAddr s.myPart a 64).isSome then s.raise .pool 0 a
    else if a.toNat % 64 != 0 then s.raise .align 0 a
    else if !s.ownReadReady s.me (poolOff a) 64 then s
    else
      let bytes := s.poolRead (coreOf s.me) (poolOff a) 64
      let d := chainDescOf bytes
      let s := s.ownServed s.me (poolOff a) 64
      if s.depth s.me ≤ o.scope then s.raise .level 0 0
      else if !d.valid then s.raise .illegal 0 0
      else if d.slotsBad s.slots then s.raise .pool 0 0
      else if d.role = 2 && d.cword.toNat % 16 != 0 then s.raise .align 0 d.cword
      else if d.role = 2 && (spaceOf d.cword != .own || (checkAddr s.myPart d.cword 16).isSome) then s.raise .pool 0 d.cword
      else if d.cue && (s.handlerOf s.me d.cport).isNone then s.raise .illegal 10 0
      else if d.cue && !lexLt (tagKey s.cur.tagT s.cur.tagM) (tagKey d.ctagT d.ctagM) then s.raise .latesend 0 d.ctagT
      else
        match s.busyCheck d o.scope with
        | some c => s.raise .chainBusy 0 (BitVec.ofNat 64 c)
        | none => s.openChain o d bytes)

/-! ## SEND, STAT, BREAK (R363, R365, R370) -/

/-- The entry of the issuing thread's tile that a handle names, if it is in use (R360, R365): where a restore has put two of one handle
into a tile, the thread's own. -/
def State.named (s : State) (h : Word) : Option (Nat × ChainEntry) :=
  let these := (s.chainsOf (tileOf (coreOf s.me))).filter (fun p => p.2.state != .closed && p.2.handle = bitsAt h 0 6 &&
    p.2.chain = bitsAt h 6 16 && p.2.asid = s.cur.launch.asid)
  match these.find? (fun p => p.2.tid = s.me) with
  | some p => some p
  | none => these.head?

/-- FIRST, and the number of strips (R358). -/
def accFirst (o : Ops) : Nat := o.fld 22 4
def accStrips (o : Ops) : Nat := o.fld 26 4 + 1

/-- Strips declared. -/
def declStrips (e : ChainEntry) (ks : List Nat) : BitVec 16 := ks.foldl (fun m k => m ||| (1#16 <<< k)) e.decl

/-- An entry after a SEND. -/
def ChainEntry.send (e : ChainEntry) (ks : List Nat) (pc : Word) (queue after : List Nat) : ChainEntry :=
  { e with
    after := e.after ++ after,
    decl := declStrips e ks, firstSend := true, sendPc := pc, writers := if e.firstSend then e.writers else queue,
    toSend := if e.role = 2 then [] else e.toSend ++ ks.map (fun k => (k, false)),
    state := if e.role = 2 && e.state = .joined then .sending else e.state }

/-- Declares strips of the member's contribution. (R363) -/
def execAccSend (o : Ops) (s : State) : Out :=
  issue 0x1D 0x02 o [] false s (fun s =>
    match s.named (s.cur.xr o.a) with
    | none => s.raise .chainAbsent 0 0
    | some (i, e) =>
      if e.tid != s.me then s.raise .chainAbsent 0 0
      else if e.ns < accFirst o + accStrips o then s.raise .illegal 10 0
      else if e.state = .broken then s.raise .chainBroken 0 0
      else
        let tile := tileOf (coreOf s.me)
        let ks := (List.range (accStrips o)).map (fun k => accFirst o + k)
        let queue := (s.core e.core).mx.map (fun c => c.id)
        (((s.setChain tile i (e.send ks s.cur.pc queue (s.mustFollow s.me .send))).sendAcks tile i).pump tile i).finish)

/-- The code of a state in STAT (R365). -/
def chainStateCode : ChainState → Nat
  | .closed => 0 | .joining => 1 | .joined => 2 | .sending => 3 | .done => 4 | .complete => 5 | .broken => 6

/-- One bits of a bitmap. -/
def ones16 (b : BitVec 16) : Nat := (List.range 16).countP (fun i => b.getLsbD i)

/-- COUNT: strips credited at a source or relay, accepted at a target (R365, R371). -/
def ChainEntry.countField (e : ChainEntry) : Nat :=
  match e.role with
  | 0 => ones16 e.sent
  | 1 => ones16 e.fwd
  | _ => e.count

/-- The status word (R365). -/
def ChainEntry.statWord (e : ChainEntry) : Word :=
  BitVec.ofNat 64 (chainStateCode e.state + e.role * 2 ^ 4 + e.countField % 2 ^ 16 * 2 ^ 6 + e.dups % 2 ^ 16 * 2 ^ 22 +
    e.flags % 2 ^ 8 * 2 ^ 38 + e.cause * 2 ^ 46)

/-- Reads a chain entry's status word, closing a broken entry, whichever thread holds it. (R365)
DEDUCED, safe: log 17. -/
def execAccStat (o : Ops) (s : State) : Out :=
  issue 0x1D 0x03 o [] false s (fun s =>
    match s.named (s.cur.xr o.a) with
    | none => (s.enterWord o.d 0).finish
    | some (i, e) =>
      let s := s.enterWord o.d e.statWord
      (if e.state = .broken then s.closeChain (tileOf (coreOf s.me)) i else s).finish)

/-- BREAK by the entry's own thread: a broken entry closes; an open one breaks with CAUSE 3, without a fault here, and
closes (R370). -/
def execAccBreak (o : Ops) (s : State) : Out :=
  issue 0x1D 0x04 o [] false s (fun s =>
    match s.named (s.cur.xr o.a) with
    | none => s.finish
    | some (i, e) =>
      if e.tid != s.me then s.finish
      else
        let tile := tileOf (coreOf s.me)
        ((s.breakChain tile i 3 false).closeChain tile i).finish)

end Sys2Proof.Machine
end

