-- ==== Sys2Proof/Machine/Copy.lean ====
section
/-! DEFINITION. CPY as its instructions issue (R185 to R188, R191, R192). -/

namespace Sys2Proof.Machine

/-! ## Fields (R185) -/

def cpyQ (o : Ops) : Nat := o.fld 22 2
def cpyWire (o : Ops) : Nat := o.fld 24 2
def cpyCue (o : Ops) : Bool := o.fld 26 1 = 1
def cpyPort (o : Ops) : Nat := o.fld 27 8

/-- A copy queue of a core. -/
def State.copyQueue (s : State) (core q : Nat) : List CopyCmd := lookAt [] (s.core core).copies q
/-- A copy queue replaced. -/
def State.setCopyQueue (s : State) (core q : Nat) (cs : List CopyCmd) : State :=
  s.modCore core (fun k => { k with copies := putAt [] k.copies q cs })

/-- A command as it issues, of one run of `len` bytes. -/
def copyBase (fn : Nat) (o : Ops) (s : State) (src dst : Word) (len : Nat) : CopyCmd :=
  { fn := fn, qmask := 0, tid := s.me, state := .queued, wire := cpyWire o, rnd := s.cur.mode o.rnd false, sat := o.sat,
    port := cpyPort o, progress := 0, src := src, dst := dst, sstride := 0, dstride := 0, rowBytes := len, rows := 1,
    index := 0, pattern := 0, id := s.nextId, cue := none, pc := s.cur.pc, faddr := 0, fcode := none, house := none,
    pendOp := none, got := none, index1 := none, old := [], saving := none, num := none, again := false, after := [] }

/-- A command with the fields of a descriptor that its function uses (R187). -/
def copyDesc (fn : Nat) (o : Ops) (s : State) (d : List Byte) : CopyCmd :=
  let w := fun (off n : Nat) => leNat ((d.drop off).take n)
  let word := fun off => BitVec.ofNat 64 (w off 8)
  { copyBase fn o s (word 0) (word 8) (w 32 4) with
    sstride := if fn = 2 || fn = 3 then word 16 else 0, dstride := if fn = 2 || fn = 4 then word 24 else 0,
    rows := w 36 4, index := if fn = 2 then 0 else word 40 }

/-- Destination units of 16 bytes (R189). -/
def CopyCmd.units (c : CopyCmd) : Nat := c.rowBytes / 16 * c.rows
/-- The row or element of a unit, and its byte offset there. -/
def CopyCmd.unitAt (c : CopyCmd) (u : Nat) : Nat × Nat := (u / (c.rowBytes / 16), u % (c.rowBytes / 16) * 16)

/-- The destination of a unit, `i` being the index of its element (R186). -/
def CopyCmd.dstAt (c : CopyCmd) (u : Nat) (i : Int) : Word :=
  let r := c.unitAt u
  let row := match c.fn with
    | 2 => BitVec.ofNat 64 r.1 * c.dstride
    | 3 => BitVec.ofNat 64 (r.1 * c.rowBytes)
    | 4 => BitVec.ofInt 64 i * c.dstride
    | _ => 0
  c.dst + row + BitVec.ofNat 64 r.2

/-- The source of a unit. -/
def CopyCmd.srcAt (c : CopyCmd) (u : Nat) (i : Int) : Word :=
  let r := c.unitAt u
  let row := match c.fn with
    | 2 => BitVec.ofNat 64 r.1 * c.sstride
    | 3 => BitVec.ofInt 64 i * c.sstride
    | 4 => BitVec.ofNat 64 (r.1 * c.rowBytes)
    | _ => 0
  c.src + row + BitVec.ofNat 64 r.2

/-! ## Checks at issue (R188) -/

/-- The addresses, strides, lengths and row sizes that a function uses, which must be multiples of 16. -/
def CopyCmd.aligned (c : CopyCmd) : Bool :=
  (c.fn = 5 || !odd16 c.src) && !odd16 c.dst && !odd16 c.sstride && !odd16 c.dstride && c.rowBytes % 16 = 0 &&
    (c.fn = 1 || c.fn = 2 || c.fn = 5 || c.index.toNat % 4 = 0)

/-- The address that FAULTINFO records of a command that is not aligned: none where only a stride or a length is at fault
(R134). -/
def CopyCmd.crooked (c : CopyCmd) : Word :=
  if c.fn != 5 && odd16 c.src then c.src
  else if odd16 c.dst then c.dst
  else if (c.fn = 3 || c.fn = 4) && c.index.toNat % 4 != 0 then c.index
  else 0

/-- The ranges of length, ROWBYTES and ROWS. -/
def CopyCmd.inRange (c : CopyCmd) : Bool :=
  if c.fn = 1 || c.fn = 5 then decide (c.rowBytes ≤ 2 ^ 32 - 16)
  else decide (16 ≤ c.rowBytes ∧ c.rowBytes ≤ 2 ^ 20 ∧ 1 ≤ c.rows ∧ c.rows ≤ 65536)

/-- What the core can check of a run of bytes: a 0xD range lies wholly in one reachable region, any other address has the
form of its space (R168, R170, R188).
DEDUCED, unsafe: log 30. -/
def runFault (w : Word) (a : Word) (len : Nat) : Option (FaultCode × Word) :=
  if spaceOf a = .own then
    (if poolForm a && (len = 0 || reachable w (poolOff a) len) then none else some (.pool, a))
  else (checkAddr w a 1).map (fun c => (c, a))

/-- The first fault of a list of runs.
DEDUCED, unsafe: log 30. -/
def runsFault (w : Word) (rs : List (Word × Nat)) : Option (FaultCode × Word) := rs.findSome? (fun r => runFault w r.1 r.2)

/-- The runs of bytes whose addresses are known at issue: rows of a GO2; for GATHER and SCATTER the dense side, the base of
the other, and the index list. -/
def CopyCmd.runs (c : CopyCmd) : List (Word × Nat) :=
  let rows := fun (a st : Word) => (List.range c.rows).map (fun r => (a + BitVec.ofNat 64 r * st, c.rowBytes))
  match c.fn with
  | 1 => [(c.src, c.rowBytes), (c.dst, c.rowBytes)]
  | 2 => rows c.src c.sstride ++ rows c.dst c.dstride
  | 3 => [(c.src, 0), (c.dst, c.rowBytes * c.rows)]
  | 4 => [(c.src, c.rowBytes * c.rows), (c.dst, 0)]
  | _ => [(c.dst, c.rowBytes)]

/-- The index list lies in a pool (R187): a 0xD list wholly reachable.
DEDUCED, unsafe: log 30. -/
def CopyCmd.indexFault (w : Word) (c : CopyCmd) : Option (FaultCode × Word) :=
  if c.fn = 3 || c.fn = 4 then
    (if spaceOf c.index = .own || spaceOf c.index = .any then runFault w c.index (4 * c.rows) else some (.pool, c.index))
  else none

/-- Whether an address names a pool. -/
def isPool (a : Word) : Bool := spaceOf a = .own || spaceOf a = .any

/-- Whether some end of a copy is a pool (R188). -/
def CopyCmd.poolEnd (c : CopyCmd) : Bool := c.fn = 5 || isPool c.src || isPool c.dst

/-- The fault of a command at issue, in the order of R188.
DEDUCED, unsafe: log 21; DEDUCED, unsafe: log 30. -/
def CopyCmd.fault (w : Word) (c : CopyCmd) : Option (FaultCode × Word) :=
  if !c.aligned then some (.align, c.crooked)
  else if !c.inRange then some (.illegal, 0)
  else
    match runsFault w c.runs, c.indexFault w with
    | some f, _ => some f
    | none, some f => some f
    | none, none => if c.poolEnd then none else some (.pool, c.src)

/-- The completion cue of a command (R191). -/
def copyCue (t : Thread) (c : CopyCmd) (tag : Word × BitVec 16) : CueMsg :=
  { launch := t.launch, target := t.gidx, tagT := tag.1, tagM := tag.2, port := BitVec.ofNat 8 c.port, late := false,
    retag := false, wire := 0, block := false, src := BitVec.ofNat 32 t.gidx, seq := t.postCtr, len := 8,
    payload := leBytes 8 c.dst.toNat, kind := 1, isLaunch := false }

/-- A checked command enters its queue, with its completion cue reserved if it asks for one; a full queue or cue store
stalls the slot (R188, R191). -/
def State.queueCopy (s : State) (q : Nat) (c : CopyCmd) (cue : Option CueMsg) : State :=
  let core := coreOf s.me
  let full := 8 ≤ (s.copyQueue core q).length
  match cue with
  | none =>
    if full then s.await .stalled (.copyRoom (2 ^ q) false)
    else
      let c := { c with after := s.mustFollow s.me .command }
      ({ s with nextId := s.nextId + 1 }.setCopyQueue core q (s.copyQueue core q ++ [c])).finish
  | some m =>
    match s.freeEntry s.me with
    | none => s.await .stalled (.copyRoom (2 ^ q) true)
    | some shared =>
      if full then s.await .stalled (.copyRoom (2 ^ q) true)
      else
        let c := { c with after := s.mustFollow s.me .command, cue := some (s.nextId + 1) }
        let cue : Cue := { id := s.nextId + 1, msg := m, place := .reserved s.me, after := [], cell := none, block := none,
                           first := false, shared := shared, sender := none }
        (({ s with nextId := s.nextId + 2, cues := s.cues ++ [cue] }.setCopyQueue core q
          (s.copyQueue core q ++ [c])).modCur Thread.countPost).finish

/-- The rest of a copy's issue, once its command is known: checks, port and tag, queue. -/
def State.startCopy (s : State) (o : Ops) (c : CopyCmd) : State :=
  match c.fault s.myPart with
  | some (code, a) => s.raise code 0 a
  | none =>
    if !cpyCue o then s.queueCopy (cpyQ o) c none
    else if (s.handlerOf s.me (cpyPort o)).isNone then s.raise .illegal 10 0
    else
      match tagOf s.cur 0 with
      | none => s.raise .microstep 0 0
      | some tag => s.queueCopy (cpyQ o) c (some (copyCue s.cur c tag))

/-- GO1 (R186). -/
def execCpyGo1 (o : Ops) (s : State) : Out :=
  issue 0x0C 0x01 o [] false s (fun s =>
    s.startCopy o (copyBase 0x01 o s (s.cur.xr o.a) (s.cur.xr o.b) (s.cur.xr o.c).toNat))

/-- The functions with a descriptor in the thread's own pool, read in full at issue (R187, R188). -/
def descOp (fn : Nat) (o : Ops) (s : State) : Out :=
  issue 0x0C fn o [] false s (fun s =>
    let a := s.cur.xr o.a
    if a.toNat % 64 != 0 then s.raise .align 0 a
    else if spaceOf a != .own || (checkAddr s.myPart a 64).isSome then s.raise .pool 0 a
    else if !s.ownReadReady s.me (poolOff a) 64 then s
    else (s.ownServed s.me (poolOff a) 64).startCopy o (copyDesc fn o s (s.poolRead (coreOf s.me) (poolOff a) 64)))

/-- Enqueues a strided two-dimensional copy described in the pool. (R186) -/
def execCpyGo2 (o : Ops) (s : State) : Out := descOp 0x02 o s

/-- Enqueues an indexed gather copy. (R186) -/
def execCpyGather (o : Ops) (s : State) : Out := descOp 0x03 o s

/-- Enqueues an indexed scatter copy. (R186) -/
def execCpyScatter (o : Ops) (s : State) : Out := descOp 0x04 o s
/-- FILL repeats a 64-bit pattern (R186). -/
def execCpyFill (o : Ops) (s : State) : Out :=
  issue 0x0C 0x05 o [] false s (fun s =>
    s.startCopy o { copyBase 0x05 o s 0 (s.cur.xr o.a) (s.cur.xr o.c).toNat with pattern := s.cur.xr o.b })

/-- JOIN: one entry in each queue of QMASK (R192). -/
def execCpyJoin (o : Ops) (s : State) : Out :=
  issue 0x0C 0x06 o [] false s (fun s =>
    let core := coreOf s.me
    let qs := [0, 1, 2, 3].filter (fun q => o.qmask.testBit q)
    if qs.any (fun q => 8 ≤ (s.copyQueue core q).length) then s.await .stalled (.copyRoom o.qmask false)
    else
      let c := { copyBase 0x06 o s 0 0 0 with qmask := o.qmask, after := s.mustFollow s.me .command }
      (qs.foldl (fun (s : State) q => s.setCopyQueue core q (s.copyQueue core q ++ [c])) { s with nextId := s.nextId + 1 }).finish)

/-- WAIT (R192). -/
def execCpyWait (o : Ops) (s : State) : Out :=
  issueLate 0x0C 0x07 o s (fun s =>
    if s.copiesDone s.me o.qmask then (s.clearPending o.h.sw).finish else s.await .parked (.copies o.qmask))

end Sys2Proof.Machine
end

