-- ==== Sys2Proof/Machine/Group.lean ====
section
/-! DEFINITION. GRP (R305 to R310), and what a thread gives up when it ends. -/

namespace Sys2Proof.Machine

/-- KIND of ID and SIZE (R306). -/
def grpKind (o : Ops) : Nat := o.fld 22 2

/-- The x result of GRP.ID at a level of the thread or above (R307). -/
def State.idOf (s : State) (level kind : Nat) : Nat :=
  if kind = 0 then coordAt s.tree s.cur.gidx level else nodeIndex s.tree s.cur.gidx level

/-- One lane of the v result of GRP.ID (R307). -/
def State.idLane (s : State) (level kind i : Nat) : Nat :=
  if threadLevel s.tree ≤ level then s.idOf level kind
  else if laneCount s.tree ≤ i then 0xFFFFFFFF
  else if kind = 0 then laneCoord s.tree i level
  else laneNode s.tree s.cur.gidx i level

/-- Sixteen lanes of 32 bits. -/
def lanes32 (f : Nat → Nat) : VWord :=
  BitVec.ofNat 512 ((List.range 16).foldl (fun n i => n + f i % 2 ^ 32 * 2 ^ (32 * i)) 0)

/-- Reads the thread's coordinate or node index at a level. (R307) -/
def execGrpId (o : Ops) (s : State) : Out :=
  issue 0x1F 0x01 o [] false s (fun s =>
    if s.depth s.me ≤ o.scope then s.raise .level 0 0
    else
      match o.d with
      | .v _ => (s.modCur (fun t => t.wv o.d (lanes32 (s.idLane o.scope (grpKind o))))).finish
      | _ =>
        if o.scope < threadLevel s.tree then s.raise .level 0 0
        else (s.modCur (fun t => t.wx o.d (BitVec.ofNat 64 (s.idOf o.scope (grpKind o))))).finish)

/-- The sizes of R304 by KIND. -/
def sizeOfKind (ls : List Level) (level kind : Nat) : Nat :=
  match kind with
  | 0 => siblings ls level
  | 1 => nodeCount ls level
  | 2 => threadsBelow ls level
  | _ => lanesOf ls level

/-- Reads a size of the tree at a level. (R307) -/
def execGrpSize (o : Ops) (s : State) : Out :=
  issue 0x1F 0x02 o [] false s (fun s =>
    if s.depth s.me ≤ o.scope then s.raise .level 0 0
    else (s.modCur (fun t => t.wx o.d (BitVec.ofNat 64 (sizeOfKind s.tree o.scope (grpKind o))))).finish)

/-- BUDGET tightens the remaining budget and returns what it was (R308). -/
def execGrpBudget (o : Ops) (s : State) : Out :=
  issueReg 0x1F 0x04 o s (fun t =>
    let a := (t.xr o.a).toNat
    let left := if a = 0 then t.budget else some (match t.budget with
      | none => a
      | some b => min b a)
    { t with budget := left }.wx o.d (BitVec.ofNat 64 (t.budget.getD 0)))

/-- The counts of REGS (R306). -/
def grpXn (o : Ops) : Nat := 8 * o.fld 22 5
def grpVn (o : Ops) : Nat := 8 * o.fld 27 4

/-- The thread with a new allotment; registers outside it come back as zero (R309). -/
def Thread.allot (t : Thread) (xn vn : Nat) : Thread :=
  { t with xn := xn, vn := vn, x := t.x.filter (fun p => p.1 < xn), v := t.v.filter (fun p => p.1 < vn) }

/-- Whether a register lies beyond an allotment. -/
def regBeyond (xn vn : Nat) : Reg → Bool
  | .x n => decide (xn ≤ n.toNat)
  | .v n => decide (vn ≤ n.toNat)
  | _ => false

/-- Sets the thread's register allotment. It waits for fixed-latency results still due in registers that it gives up (R79, R309). -/
def execGrpRegs (o : Ops) (s : State) : Out :=
  issue 0x1F 0x05 o [] false s (fun s =>
    let w := s.myPart
    if 8 * partXn w < grpXn o || 8 * partVn w < grpVn o then s.raise .regrange 10 0
    else if (s.busyRegs s.me).any (regBeyond (grpXn o) (grpVn o)) then s
    else (s.modCur (fun t => t.allot (grpXn o) (grpVn o))).finish)

/-! ## The end of a thread -/

/-- Whether every matrix and copy command of a thread is over (R310). -/
def State.enginesDone (s : State) (tid : Nat) : Bool :=
  (s.core (coreOf tid)).mx.all (fun c => c.tid != tid) &&
  [0, 1, 2, 3].all (fun q => (s.copyQueue (coreOf tid) q).all (fun c => c.tid != tid))

/-- Special-function requests of a thread squashed (R152). -/
def State.squash (s : State) (tid : Nat) : State :=
  s.modCore (coreOf tid) (fun c => { c with sfu := c.sfu.filter (fun r => r.tid != tid) })

/-- Every cue held for a thread dropped (R310, R319). -/
def State.dropCues (s : State) (tid : Nat) : State := s.dropCuesBy (fun c => c.holder = some tid)

/-- The entries of a thread's tile that it opened. -/
def State.ownChains (s : State) (tid : Nat) : List (Nat × ChainEntry) :=
  (s.chainsOf (tileOf (coreOf tid))).filter (fun p => p.2.tid = tid)

/-- What becomes of the chains of a thread that retires (R370) or is killed (R369): entries without a SEND break with
CAUSE 2, under a kill every open one with CAUSE 1; broken ones close.
DEDUCED, unsafe: log 53. -/
def State.endChains (s : State) (tid cause : Nat) (all : Bool) : State :=
  let tile := tileOf (coreOf tid)
  (s.ownChains tid).foldl (fun (s : State) p =>
    if p.2.isOpen && (all || !p.2.firstSend) then (s.breakChain tile p.1 cause false).closeChain tile p.1
    else if p.2.isOpen then s else s.closeChain tile p.1) s

/-- A thread retires (R310, R455). -/
def State.retire (s : State) (tid : Nat) : State :=
  (((((s.depart tid).dropCues tid).squash tid).endChains tid 2 false)).modThread tid (fun t =>
    { t with status := .retired, wait := none, inHandler := false, reports := [] })

/-- EXIT (R310). -/
def execGrpExit (o : Ops) (s : State) : Out :=
  issue 0x1F 0x03 o [] true s (fun s =>
    if s.enginesDone s.me then (s.finishAt s.cur.pc).retire s.me else s.await .parked .engines)

end Sys2Proof.Machine
end

