-- ==== Sys2Proof/Machine/PageLink.lean ====
section
/-! DEFINITION. PG.PROBE (R411, R412) and LNK.STAT (R433, R434). -/

namespace Sys2Proof.Machine

/-- The probe word of a leaf (R412). -/
def probeWord (level : Nat) (pte a : Word) (cached : Bool) : Nat :=
  let va := vaOf a
  let pa := pteFrame pte + va % 2 ^ pageBits level
  1 + bitsAt pte 1 5 * 2 + level * 2 ^ 6 + pteMt pte * 2 ^ 8 + level * 2 ^ 11 + pa / 2 ^ 13 * 2 ^ 13 + pteRpkg pte * 2 ^ 52 +
    (if cached then 2 ^ 63 else 0)

/-- A probe at its home station: the station afterwards and the word (R412). -/
def State.probe (s : State) (asid : Nat) (a : Word) : State × Word :=
  let n := homeStation a asid
  match (s.station n).lookup a asid with
  | some e => (s.setStation n ((s.station n).fill e), BitVec.ofNat 64 (probeWord e.size e.pte a true))
  | none =>
    match s.walkAt asid a false false false false with
    | (s, .ok _ l pte _) => (s, BitVec.ofNat 64 (probeWord l pte a false))
    | (s, .fail _ l) => (s, BitVec.ofNat 64 (l * 2 ^ 11))

/-- PROBE goes to the home station (R412). -/
def execPgProbe (o : Ops) (s : State) : Out :=
  issue 0x22 0x01 o [] false s (fun s =>
    let a := s.cur.xr o.a
    if spaceOf a != .virt || !canonicalVa a then s.raise .prot 0 a
    else
      ((s.enter (s.newAccess .page (some o.d) (.scalar .i64) false false false [] [mkPart a 8 0 []])).modCur (fun t =>
        t.setPending o.d)).finish)

/-- The code of a port's state (R434). -/
def portStateCode : PortState → Nat
  | .off => 0 | .training => 1 | .up => 2 | .timeLocked => 3 | .degraded => 4 | .down => 5

/-- The word of LNK.STAT (R434). -/
def State.linkWord (s : State) (sel a : Nat) : Word :=
  match sel with
  | 0 =>
    let p := s.port a
    BitVec.ofNat 64 (portStateCode p.state + p.lanes % 8 * 2 ^ 3 + p.peer % 2048 * 2 ^ 6 + p.peerPort % 64 * 2 ^ 17 +
      (s.ctx s.cur.launch.asid).desc.vcmask % 16 * 2 ^ 23)
  | 1 => (s.port a).resent
  | 2 =>
    match s.route a with
    | some p => BitVec.ofNat 64 (p % 64 + 2 ^ 6 + (if (s.port p).carries then 2 ^ 7 else 0))
    | none => 0
  | 3 => s.err
  | _ => BitVec.ofNat 64 (s.timeRoot % 2048 + (if s.timeRoot = s.pkg then 2 ^ 11 else 0) + (if s.holdover then 2 ^ 12 else 0))

/-- STAT reads state of the package (R434).
DEDUCED, safe: log 17. -/
def execLnkStat (o : Ops) (s : State) : Out :=
  issue 0x23 0x01 o [] false s (fun s =>
    let sel := o.fld 22 4
    let a := s.cur.xr o.a
    if (decide (sel ≤ 1) && decide (64 ≤ a.toNat)) || (sel = 2 && decide (2047 < a.toNat)) then s.raise .prot 0 a
    else (s.enterWord o.d (s.linkWord sel a.toNat)).finish)

end Sys2Proof.Machine
end

