-- ==== Sys2Proof/Machine/QueueIsa.lean ====
section
/-! DEFINITION. QUE (R281 to R284). -/

namespace Sys2Proof.Machine

/-- The queue of the issuing thread's context. -/
def State.myQueue (s : State) (q : Nat) : Queue := s.queue s.cur.launch.asid q
/-- QCOUNT of a thread's context. -/
def State.qcount (s : State) (tid : Nat) : Nat := (s.ctx (s.thread tid).launch.asid).desc.qcount

/-- The pushed packets that are still to be written to the ring. -/
def Queue.coming (k : Queue) : Nat := k.pushes.countP (fun p => p.pos.isNone && !p.sent)

/-- Whether the ring of a queue has room for another pushed packet, beside what is promised to other packages (R282). -/
def Queue.pushRoom (k : Queue) : Bool := decide (k.write + k.coming + k.promised < k.read + k.nent)

/-- Whether a push must stall: the ring is full, or for a queue that another package reads no room in it has been granted (R282). A host's
write to WRITE of a DEVICE queue counts for nothing (R264).
DESIGN CHOICE, unsafe: log 83. -/
def State.pushFull (s : State) (asid q : Nat) : Bool :=
  let k := s.queue asid q
  if k.pkg = s.pkg then !k.pushRoom else k.granted = 0

/-- The bytes that a push writes, a run for each page: its place in the ring, known where this package reads the queue, and WRITE
(R282). -/
def State.pushParts (s : State) (asid q : Nat) : List Part :=
  let k := s.queue asid q
  let at' := fun (va : Word) (n : Nat) => { mkPart va n 0 [] with stage := Stage.agent }
  (if k.pkg = s.pkg then [at' (k.ringVa (k.write + k.coming)) 128]
   else (List.range ((128 * k.nent + 8191) / 8192)).map (fun i => at' (k.ring + BitVec.ofNat 64 (8192 * i)) (min 8192 (128 * k.nent - 8192 * i)))) ++
  [at' (s.queueEntryVa asid q + 16) 8]

/-- A push issues: its packet waits for the agent, and an access stands for it among those of the thread until it is written (R226,
R282). -/
def State.givePush (s : State) (asid q : Nat) (packet : List Byte) : State :=
  let after := s.mustFollow s.me .release
  let p : Push := { origin := s.pkg, sent := false, packet := packet, launch := s.cur.launch, gidx := s.cur.gidx,
                    level := threadLevel s.tree, top := s.depth s.me - 1, after := after, pos := none, acc := s.nextId }
  (s.enter (s.newAccess .push none .none false false true after (s.pushParts asid q))).modQueue asid q (fun k =>
    { k with pushes := k.pushes ++ [p], granted := k.granted - 1 })

/-- PUSH: the packet is read at issue and given to the memory-side agent (R282). -/
def execQuePush (o : Ops) (s : State) : Out :=
  issue 0x20 0x01 o [] false s (fun s =>
    let q := (s.cur.xr o.a).toNat
    let pa := s.cur.xr o.b
    let k := s.myQueue q
    if spaceOf pa != .own then s.raise .pool 0 pa
    else if pa.toNat % 16 != 0 then s.raise .align 0 pa
    else if (checkAddr s.myPart pa 128).isSome then s.raise .pool 0 pa
    else if s.qcount s.me ≤ q || !k.device || !k.enabled then s.raise .prot 0 (s.cur.xr o.a)
    else if !s.ownReadReady s.me (poolOff pa) 128 then s
    else
      let asid := s.cur.launch.asid
      if s.pushFull asid q then s.await .stalled (.pushRoom q)
      else ((s.ownServed s.me (poolOff pa) 128).givePush asid q (s.poolRead (coreOf s.me) (poolOff pa) 128)).finish)

/-- SEL of STAT (R281). -/
def queSel (o : Ops) : Nat := o.fld 22 2

/-- A queue as the table describes it.
DEDUCED, unsafe: log 40. -/
def Queue.config (k : Queue) (e : List Byte) : Queue :=
  let w := fun (off n : Nat) => leNat ((e.drop off).take n)
  { k with
    ring := BitVec.ofNat 64 (w 0 8), nent := w 8 4, cls := w 12 1 % 4, device := (w 13 1).testBit 1,
    notify := (w 13 1).testBit 2, pkg := w 14 2 % 2048, pbook := BitVec.ofNat 64 (w 32 8) }

/-- A queue as it was enabled here; for one that never was, as its table entry in memory describes it (R263). -/
def State.queueView (s : State) (asid q : Nat) : Ag Queue :=
  let k := s.queue asid q
  if k.nent != 0 then .ok k s
  else (s.agentRead asid (s.queueEntryVa asid q) 64).bind (fun e s => .ok (k.config e) s)

/-- STAT: a load of the queue table or of the prompt book, whose place the table gives (R283). -/
def execQueStat (o : Ops) (s : State) : Out :=
  issue 0x20 0x02 o [] false s (fun s =>
    let q := (s.cur.xr o.a).toNat
    let base := s.queueEntryVa s.cur.launch.asid q
    if s.qcount s.me ≤ q then s.raise .prot 0 (s.cur.xr o.a)
    else
      match queSel o with
      | 0 => s.issueLoad .load o.d (.scalar .i64) false true [mkPart (base + 16) 8 0 []]
      | 1 => s.issueLoad .load o.d (.scalar .i64) false true [mkPart (base + 24) 8 0 []]
      | _ =>
        let b := s.cur.xr o.b
        let asid := s.cur.launch.asid
        match s.queueView asid q with
        | .ok k s' => (if (s.queue asid q).nent != 0 then s' else s'.agentDone asid).issueLoad .load o.d (.entry b) false true
            [mkPart (k.bookVa (b.toNat - 1)) 16 0 []]
        | .wait n => s.needs asid n
        | .bad code va => (s.agentForget asid va).raise code 0 va)

/-- Whether the entry of a sequence number has finished, as far as this package can see it: in its own records, or in the
prompt book of a queue that another package reads: a packet that has no entry never does (R278). It waits for that word. -/
def State.entryFinished (s : State) (asid q : Nat) (seq : Word) : Ag Bool :=
  if seq = 0 then .ok true s
  else (s.queueView asid q).bind (fun k s =>
    if k.pkg = s.pkg then .ok (k.finishedSeq seq) s
    else if k.skips seq then .ok false s
    else (s.agentRead asid (k.bookVa (seq.toNat - 1)) 16).bind (fun bs s =>
      let at' := leNat (bs.take 8)
      .ok (decide (seq.toNat < at') || (at' = seq.toNat && 2 ≤ leNat ((bs.drop 12).take 1))) s))

/-- WAIT (R284): then it orders as a FENCE acq at die and package. -/
def execQueWait (o : Ops) (s : State) : Out :=
  issueLate 0x20 0x03 o s (fun s =>
    let q := (s.cur.xr o.a).toNat
    let seq := s.cur.xr o.b
    let asid := s.cur.launch.asid
    if s.qcount s.me ≤ q then s.raise .prot 0 (s.cur.xr o.a)
    else
      match s.entryFinished asid q seq with
      | .ok true s => (((s.agentDone asid).clearPending o.h.sw).fence 1).finish
      | .ok false s => (s.agentDone asid).await .parked (.queue q seq)
      | .wait n => (s.needs asid n).await .parked (.queue q seq)
      | .bad _ _ => s.await .parked (.queue q seq))

end Sys2Proof.Machine
end

