-- ==== Sys2Proof/Machine/MemEvents.lean ====
section
/-! DEFINITION. The events of accesses in flight: pools (R171 to R177, R229), stations (R404 to R412), DRAM channels (R30),
remote operations (R431, R432), results and acknowledgements (R79, R451), and the end of a wait (R312). -/

namespace Sys2Proof.Machine

/-! ## Messages that have come in -/

/-- The first message of a kind, taken from the inbox. -/
def State.takeMsg (s : State) (p : LinkMsg → Bool) : Option (InMsg × State) :=
  (s.inbox.find? (fun m => p m.msg)).map (fun m => (m, { s with inbox := s.inbox.erase m }))

/-! ## Threads that wait -/

/-- A thread at a marker is blocked while one of its loads waits in a table, and parked otherwise (R311, R312). -/
def State.reclass (s : State) (tid : Nat) : State :=
  let t := s.thread tid
  if t.wait = some .results && (t.status = .parked || t.status = .blocked) then
    s.setThread tid { t with status := if (s.outstanding tid).any Access.inTable then .blocked else .parked }
  else s

/-- The consuming loads of a thread cancelled, consuming nothing; they go again before anything else when the thread goes
on (R81, R173, R315). -/
def State.cancelLoads (s : State) (tid : Nat) : State :=
  let mine := fun (a : Access) => a.tid = tid && a.op.consumes && !a.parts.all Part.performed
  let back := fun (p : Part) => { p with stage := .port, loc := none }
  let accs := s.accs.map (fun a => if mine a then { a with parts := a.parts.map back } else a)
  let ids := (s.accs.filter mine).map (fun (a : Access) => a.id)
  { s with accs := accs }.modThread tid (fun t => { t with reissue := ids })

/-- What a fault from away withdraws of a blocked thread: its consuming load is cancelled (R173), unless the fault is kept until
the context goes on (R251). -/
def State.withdraw (s : State) (tid : Nat) : State :=
  if (s.thread tid).status = .blocked && !s.deferring tid then s.cancelLoads tid else s

/-- Whether what a thread waits for has come about (R312). -/
def State.waitOver (s : State) (tid : Nat) (w : Wait) : Ag Bool :=
  let core := coreOf tid
  let me := { s with me := tid }
  match w with
  | .results => .ok (match s.markerCheck tid with
      | .wait _ => false
      | _ => true) s
  | .drain scope qmask => .ok (s.drained tid (s.bindOf tid scope) && s.copiesDone tid qmask) s
  | .copies qmask => .ok (s.copiesDone tid qmask) s
  | .matrix ids => .ok ((s.core core).mx.all (fun c => !ids.contains c.id)) s
  | .engines => .ok (s.enginesDone tid) s
  | .queue q seq => s.entryFinished (s.thread tid).launch.asid q seq
  | .barrier level obj => .ok (match (s.thread tid).member level obj with
      | some e => !e.arrived
      | none => true) s
  | .barRoom level obj =>
    let key := me.barKey level obj
    .ok (me.barOpen key) s
  | .copyRoom qmask cue => .ok ([0, 1, 2, 3].all (fun q => !qmask.testBit q || decide ((s.copyQueue core q).length < 8)) &&
      (!cue || (s.freeEntry tid).isSome)) s
  | .matrixRoom => .ok (decide ((s.core core).mx.length < 8)) s
  | .sfuRoom => .ok (decide ((s.core core).sfu.length < 8)) s
  | .consumeRoom => .ok (decide (s.consuming tid < 8)) s
  | .pushRoom q =>
    .ok (!s.pushFull (s.thread tid).launch.asid q) s
  | .yield => .ok false s

/-- The wait of a thread ends; its instruction issues when the thread is next chosen (R312). -/
def execSwitchMarkerWaitEnds (tid : Nat) (s : State) : Out :=
  let t := s.thread tid
  match t.wait with
  | none => .next s
  | some w =>
    if t.status = .parked || t.status = .blocked || t.status = .stalled then
      let asid := t.launch.asid
      .next (s.agentEnd asid (s.waitOver tid w) (fun b s => if b then s.modThread tid (fun t => { t with status := .running }) else s)
        (fun _ s => s))
    else .next s

/-! ## Results and acknowledgements -/

/-- Whether a thread no longer takes results. -/
def Thread.ended (t : Thread) : Bool :=
  match t.status with
  | .vacant | .retired | .killed => true
  | _ => false

/-- A variable-latency result is written (R79); the register stays pending until a marker (R80).
DEDUCED, safe: log 8. -/
def execVariableLatencyResult (acc : Nat) (s : State) : Out :=
  match s.findAcc acc with
  | none => .next s
  | some a =>
    if a.dest.isSome && !a.fixed && a.parts.all Part.performed then
      .next (((if (s.thread a.tid).ended then s else s.modThread a.tid a.deliver).dropAcc acc).reclass a.tid)
    else .next s

/-- The acknowledgement of a performed write reaches its core (R451). -/
def execStoreAcknowledgement (acc part : Nat) (s : State) : Out :=
  match s.findAcc acc with
  | none => .next s
  | some a =>
    match a.parts[part]? with
    | none => .next s
    | some p =>
      if a.op.writes && p.stage = .performed then
        .next ((s.modGroup acc part (fun p => if p.stage = .performed then { p with stage := .acked } else p)).settle acc)
      else .next s

/-! ## Pools -/

/-- The parts of a group refused at their place (R173); a clear is refused as a whole, for it has no effect then. -/
def State.refuse (s : State) (acc part : Nat) (code : FaultCode) : State :=
  let no := fun (p : Part) => { p with stage := .refused code }
  s.modAcc acc (fun a =>
    if a.op = .clear then { a with parts := a.parts.map (fun p => if p.performed then p else no p) }
    else (a.group part).foldl (fun b j => match b.parts[j]? with
      | some p => b.setPart j (no p)
      | none => b) a)

/-- The first offset and the length that must lie in one reachable region: of a clear its whole range (R178), of any other
access each part. -/
def Access.runs (a : Access) (part : Nat) : List (Nat × Nat) :=
  if a.op = .clear then [(((a.parts.head?.map (fun p => poolOff p.va)).getD 0), 16 * a.parts.length)]
  else (a.groupParts part).map (fun p => (poolOff p.va, p.len))

/-- What the target core of a space 0xE access finds (R171). -/
def State.poolTarget (s : State) (a : Access) (part core : Nat) : Bool :=
  let c := s.core core
  (match c.owner with
   | some (l, _) => l.asid = a.asid
   | none => false) && (a.runs part).all (fun r => reachable c.part r.1 r.2)

/-- Whether nothing but the network stands between a part at the port and its place. -/
def State.sendable (s : State) (a : Access) (i : Nat) (p : Part) : Bool :=
  p.stage = .port && !s.withheld a && s.groupReady a i && !s.refusedBefore a p

/-- Whether another request of the tile, issued before and not held back, stands at its port for the same place: the pool of a core, or
the same home station. One class with one source and destination keeps its order (R24).
DEDUCED, unsafe: log 22. -/
def State.behindOnMesh (s : State) (a : Access) (p : Part) : Bool :=
  p.stage = .port && spaceOf p.va != .own &&
  (s.accs.takeWhile (fun b => b.id ≠ a.id)).any (fun b => tileOf b.core = tileOf a.core && b.parts.zipIdx.any (fun q =>
    s.sendable b q.2 q.1 && spaceOf q.1.va = spaceOf p.va &&
    (if spaceOf p.va = .any then decide (tileOf (anyCore q.1.va) = tileOf (anyCore p.va))
     else decide (homeStation q.1.va b.asid = homeStation p.va a.asid))))

/-- An access arrives at a pool (R171, R176, R177, R229). -/
def execPoolAccessArrival (acc part : Nat) (s : State) : Out :=
  match s.findAcc acc with
  | none => .next s
  | some a =>
    match a.parts[part]? with
    | none => .next s
    | some p =>
      if p.stage != .port || s.withheld a || !s.groupReady a part || s.behindOnMesh a p then .next s
      else
        match spaceOf p.va with
        | .own =>
          if !s.groupTurn a part a.core true then .next s
          else .next (((s.arrivePool a part a.core true).settle acc).reclass a.tid)
        | .any =>
          let core := anyCore p.va
          if !s.poolTarget a part core then .next (s.refuse acc part .pool)
          else if !s.groupTurn a part core false then .next s
          else .next (((s.arrivePool a part core false).settle acc).reclass a.tid)
        | _ => .next s

/-- The first load of a pool's table whose granules are all full, in table order (R177). -/
def State.nextServed (s : State) (core : Nat) : Option Access :=
  (s.tableLoads core).foldl (fun b a =>
    let ready := a.parts.all (fun p => s.fullBit core (poolOff p.va))
    let arr := fun (a : Access) => (a.parts.head?.map (fun p => p.arr)).getD 0
    match b with
    | none => if ready then some a else none
    | some c => if ready && decide (arr a < arr c) then some a else some c) none

/-- A waiting consuming load is served (R177). -/
def execConsumingLoadServed (core : Nat) (s : State) : Out :=
  match s.nextServed core with
  | none => .next s
  | some a =>
    match a.parts.head? with
    | none => .next s
    | some p => .next ((s.performGroup a 0 p.va (.pool core (poolOff p.va)) false).reclass a.tid)

/-- A returned consuming load is sent again (R177). -/
def execConsumingLoadResend (acc : Nat) (s : State) : Out :=
  match s.findAcc acc with
  | none => .next s
  | some a =>
    if a.parts.any (fun p => match p.stage with
        | .resend due => decide (due ≤ s.clock)
        | _ => false) then
      .next ((s.modAcc acc (fun a => { a with parts := a.parts.map (fun p => { p with stage := .port, loc := none }) })).reclass a.tid)
    else .next s

/-! ## Stations -/

/-- Whether another access to the region arrived at the station before and still stands there (R404, R406); a later one of the same
thread that must follow this one does not count. -/
def State.regionBusy (s : State) (a : Access) (p : Part) : Bool :=
  s.accs.any (fun b => b.asid = a.asid && b.parts.any (fun q =>
    q.stage.atStation && regionOf q.va = regionOf p.va && (p.stage = .port || decide (q.arr < p.arr)) &&
    !(b.tid = a.tid && decide (a.id < b.id) && s.partBlocked b q))) ||
  s.engineHeld a.asid p.va

/-- The permissions that an access needs (R402). -/
def AccOp.needs : AccOp → Bool × Bool
  | .load | .consume _ | .probe => (true, false)
  | .store _ | .clear => (false, true)
  | .atomic _ _ _ _ _ => (true, true)
  | .page | .push => (false, false)

/-- The first byte of a group, by its distance from the start of its granule, and the bytes from there to its end. -/
def groupBase (ps : List Part) : Nat := (ps.map (fun p => p.va.toNat % 16)).min?.getD 0
def groupSpan (ps : List Part) : Nat := ((ps.map (fun p => p.va.toNat % 16 + p.len)).max?.getD 0) - groupBase ps

/-- The remote operation of a group: one for all its parts, so that the granule moves in one indivisible step (R166, R230,
R243, R431).
DEDUCED, unsafe: log 25. -/
def groupOp (op : AccOp) (ps : List Part) : RemOp :=
  match op, ps with
  | .store _, [p] => .write p.data
  | .store _, _ => .scatter (ps.map (fun p => (p.va.toNat % 16 - groupBase ps, p.data)))
  | .atomic fn ty b c rnd, _ => .atomic fn ty b c rnd
  | _, _ => .read (groupSpan ps)

/-- What the host carries out as a PCIe AtomicOp (R181). -/
def hostTakes : AccOp → Bool
  | .atomic fn ty _ _ _ => (decide (fn = .add) || decide (fn = .xchg) || decide (fn = .cas)) && (ty.width = 32 || ty.width = 64)
  | _ => true

/-- A translated group goes to its place (R402): to its channel, to another package, or to host memory.
DEDUCED, unsafe: log 25. -/
def State.forward (s : State) (a : Access) (part : Nat) (base : Word) (l : Loc) : State :=
  match l with
  | .dram _ =>
    let leaf := s.leafOf a.asid base
    s.modGroup a.id part (fun p => { p with stage := .channel, loc := some (l.shift base p.va), leaf := leaf })
  | .host pa =>
    if !hostTakes a.op then s.refuse a.id part .prot
    else
      let s := (s.performGroup a part base l false).settle a.id
      if a.op.writes then
        s.modLaunch a.launch (fun x => { x with hostStores := x.hostStores + 1, hostSent := x.hostSent + 1,
                                                                hostLast := pa })
      else s
  | .remote pkg rpa =>
    if (s.linkTo pkg).isNone then s.refuse a.id part .link
    else
      let ps := a.groupParts part
      let old := ps.head?.bind (fun p => p.num)
      let s := if old.isNone then { s with opNum := s.opNum + 1 } else s
      let num := old.getD s.opNum
      let put := fun (p : Part) => { p with stage := .remote num, loc := some (l.shift base p.va), num := some num }
      (s.modGroup a.id part put).sendRemote 2 num a.asid pkg base (rpa - base.toNat % 16 + groupBase ps) (groupOp a.op ps)
  | .pool _ _ => s

/-- A group looked up at its station: forwarded on a hit, given to a walker, or queued (R404). A probe is answered there
(R412). Its arrival is counted once, so that a channel serves a context's accesses in the order of arrival (R30). -/
def State.lookupAt (s : State) (a : Access) (part : Nat) (p : Part) : State :=
  let n := homeStation p.va a.asid
  let stage := fun (st : Stage) (s : State) =>
    ({ s with arrivals := s.arrivals + 1 } : State).modGroup a.id part (fun (q : Part) =>
      { q with stage := st, arr := if q.stage = .port then s.arrivals else q.arr })
  let hit := match (s.station n).lookup p.va a.asid with
    | some e => grants e.pte a.op.needs.1 a.op.needs.2 && withAD e.pte a.op.needs.2 = e.pte
    | none => false
  if hit then
    match s.translate a.asid p.va a.op.needs.1 a.op.needs.2 with
    | (s, .ok l _ _ _) => ((if p.stage = .port then stage .queued s else s).forward a part p.va l)
    | (_, .fail _ _) => s
  else if s.stationLoad n (fun st => st = .walking) < 8 then stage .walking s
  else if p.stage = .queued then s
  else stage .queued s

/-- A virtual access reaches its home station, which takes none while its queue is full (R404); a probe is performed there (R412). -/
def execTranslationRequest (acc part : Nat) (s : State) : Out :=
  match s.findAcc acc with
  | none => .next s
  | some a =>
    match a.parts[part]? with
    | none => .next s
    | some p =>
      if spaceOf p.va != .virt || (p.stage != .port && p.stage != .queued) || s.withheld a || !s.groupReady a part ||
          s.refusedBefore a p || s.behindOnMesh a p ||
          (p.stage = .port && decide (64 ≤ s.stationQueue (homeStation p.va a.asid))) then .next s
      else if a.op = .page then
        if !s.translateOpen (some a.asid) a.asid p.va false then .next s
        else
          let r := s.probe a.asid p.va
          .next (r.1.modAcc acc (fun a => a.setPart part { p with stage := .performed, data := leBytes 8 r.2.toNat }))
      else if s.regionBusy a p then
        if p.stage = .port then
          .next ({ s with arrivals := s.arrivals + 1 }.modGroup acc part (fun q => { q with stage := .queued, arr := s.arrivals }))
        else .next s
      else .next (s.lookupAt a part p)

/-- A table walk finishes: A and D set, the access forwarded, or held for the house kernel (R405, R406). -/
def execWalkDone (acc part : Nat) (s : State) : Out :=
  match s.findAcc acc with
  | none => .next s
  | some a =>
    match a.parts[part]? with
    | none => .next s
    | some p =>
      if p.stage != .walking || !s.groupReady a part || !s.walkOpen (some a.asid) a.asid p.va a.op.needs.1 a.op.needs.2 then .next s
      else
        match s.translateFor (some a.asid) a.asid p.va a.op.needs.1 a.op.needs.2 with
        | (s, .ok l _ _ _) => .next (s.forward a part p.va l)
        | (s, .fail perm _) => .next (s.modGroup acc part (fun q => { q with stage := .house perm }))

/-- The refusal of a declined request (R406). -/
def declined (perm : Bool) : FaultCode := if perm then .prot else .page

/-- Table entries written by the house kernel. -/
def State.writeEntries (s : State) (ws : List (Nat × Word)) : State := ws.foldl (fun s w => s.writePte w.1 w.2) s

/-- The answer for a copy command, and for a matrix command (R407).
DEDUCED, unsafe: log 65. -/
def CopyCmd.answer (c : CopyCmd) (va : Nat) (mine resolved : Bool) : CopyCmd :=
  match c.house with
  | some (a, perm) =>
    if mine && regionOf a = va then
      { c with house := none, faddr := if resolved then c.faddr else a,
               fcode := if resolved then c.fcode else some (declined perm) }
    else c
  | none => c
def MxCmd.answer (c : MxCmd) (va : Nat) (mine resolved : Bool) : MxCmd :=
  match c.house with
  | some (a, perm) =>
    if mine && regionOf a = va then
      { c with house := none, faddr := if resolved then c.faddr else a,
               fcode := if resolved then c.fcode else some (declined perm) }
    else c
  | none => c

/-- The answer for a thread's fetch (R407). -/
def Thread.answer (t : Thread) (asid va : Nat) (resolved : Bool) : Thread :=
  match t.fetchHold with
  | some (a, perm) =>
    if t.launch.asid = asid && regionOf a = va then
      { t with fetchHold := none, fetchBad := if resolved then none else some (a, declined perm) }
    else t
  | none => t

/-- The answer for accesses of the stage manager and the agent. -/
def Ctx.answer (c : Ctx) (va : Nat) (resolved : Bool) : Ctx :=
  let held := c.agentHold.filter (fun p => regionOf p.1 = va)
  { c with
    agentHold := c.agentHold.filter (fun p => regionOf p.1 != va)
    agentBad := if resolved then c.agentBad else c.agentBad ++ held.map (fun p => (p.1, declined p.2)) }

/-- The house kernel answers the requests of one region (R406, R407): on a resolved one the held accesses wait for a walker again. -/
def execPageFaultAnswer (asid : Nat) (va : Word) (resolved : Bool) (writes : List (Nat × Word)) (s : State) : Out :=
  let r := regionOf va
  let s := if resolved then s.writeEntries writes else s
  let here := fun (a : Access) (p : Part) => a.asid = asid && regionOf p.va = r
  let part := fun (a : Access) (p : Part) =>
    match p.stage with
    | .house perm => if here a p then { p with stage := if resolved then .queued else .refused (declined perm) } else p
    | _ => p
  let accs := s.accs.map (fun a => { a with parts := a.parts.map (part a) })
  let mine := fun (tid : Nat) => decide ((s.thread tid).launch.asid = asid)
  let core := fun (c : Core) => { c with
    copies := mapVals (List.map (fun c => c.answer r (mine c.tid) resolved)) c.copies,
    mx := c.mx.map (fun c => c.answer r (mine c.tid) resolved) }
  let cores := mapVals core s.cores
  let threads := mapVals (fun t => t.answer asid r resolved) s.threads
  .next ({ s with accs := accs, cores := cores, threads := threads }.modCtx asid (fun c => c.answer r resolved))

/-! ## Invalidation (R409, R410) -/

/-- Whether an invalidation drops a cached leaf, and a cached pointer. -/
def dropsLeaf (k : InvKind) (e : CacheEntry) : Bool :=
  match k with
  | .page asid va => e.asid = asid && e.base = vaOf va / 2 ^ pageBits e.size
  | .asid asid => e.asid = asid && !e.pte.getLsbD 5
  | .all => true
def dropsWalk (k : InvKind) (e : WalkEntry) : Bool :=
  match k with
  | .page asid va => e.asid = asid && e.base = vaOf va / 2 ^ pageBits e.level
  | .asid asid => e.asid = asid
  | .all => true

/-- Whether an invalidation drops, or has dropped before, the leaf that translated an address of a context. -/
def dropsVia (k : InvKind) (asid : Nat) (va : Word) (leaf : Option (Nat × Word)) : Bool :=
  leaf.any (fun l => dropsLeaf k ⟨0, asid, l.1, vaOf va / 2 ^ pageBits l.1, l.2, 0⟩)

/-- The parts in front of a channel that were translated through a leaf that is dropped, cached still or not. -/
def State.invalWaits (s : State) (k : InvKind) : List (Nat × Nat) :=
  s.accs.flatMap (fun a => (a.parts.zipIdx.filter (fun p => p.1.stage = .channel && dropsVia k a.asid p.1.va p.1.leaf)).map
    (fun p => (a.id, p.2)))

/-- The remote operations, not answered, that were translated through such a leaf. -/
def State.invalOps (s : State) (k : InvKind) : List (BitVec 32) :=
  (s.opsOut.filter (fun o => dropsVia k o.asid o.va o.leaf)).map (fun o => o.num)

/-- An invalidation reaches every station and walk cache; `writes` are the changes to the table that it follows (R409). -/
def execInvalidation (k : InvKind) (writes : List (Nat × Word)) (s : State) : Out :=
  let s := s.writeEntries writes
  let waits := s.invalWaits k
  let ops := s.invalOps k
  let drop := fun (st : Station) => (⟨st.cache.filter (fun e => !dropsLeaf k e), st.walk.filter (fun e => !dropsWalk k e)⟩ : Station)
  .next { s with stations := (s.stations.map (fun p => (p.1, drop p.2))).filter (fun p => p.2 != Station.empty),
                 invals := s.invals ++ [⟨k, waits, ops⟩] }

/-- Whether what an invalidation waits for has been performed or refused. -/
def State.invalOver (s : State) (i : Inval) : Bool :=
  i.waits.all (fun w => match (s.findAcc w.1).bind (fun a => a.parts[w.2]?) with
    | some p => p.stage != .channel
    | none => true) && i.ops.all (fun n => !s.opsOut.any (fun o => o.num = n))

/-- The first invalidation that may complete does (R410). -/
def execInvalidationComplete (s : State) : Out :=
  match s.invals.find? s.invalOver with
  | some i => .next { s with invals := s.invals.erase i }
  | none => .next s

/-! ## DRAM channels (R30) -/

/-- The one that arrived first. -/
def earliest : List (Access × Nat × Nat) → Option (Access × Nat × Nat)
  | [] => none
  | w :: ws =>
    let arr := fun (w : Access × Nat × Nat) => ((w.1.parts[w.2.1]?).map (fun p => p.arr)).getD 0
    match earliest ws with
    | some v => if arr v < arr w then some v else some w
    | none => some w

/-- The burst that a channel serves now, and the ASID it counts for. -/
def State.burst (s : State) (ch : Nat) : Option (Nat × (Access × Nat × Nat)) :=
  let work := s.channelWork ch
  let c := s.channel ch
  let of := fun (asid : Nat) => (earliest (work.filter (fun w => w.1.asid = asid))).map (fun w => (asid, w))
  let shared := (nextAfter c.last (work.map (fun w => w.1.asid))).bind of
  let e := lookAt SlotEntry.unowned c.slots (s.clock / 4096 % 16)
  match e.owner with
  | none => if s.powerIdle 1 ch then none else shared
  | some asid =>
    match of asid with
    | some w => some w
    | none => if e.lend then shared else none

/-- A channel picks a burst: the accesses of one request to one 256-byte block (R30). -/
def execDramBurst (ch : Nat) (s : State) : Out :=
  if s.refreshing ch then .next s
  else
    match s.burst ch with
    | none => .next s
    | some (asid, a, i, pa) =>
      let s := s.setChannel ch { s.channel ch with last := asid }
      let parts := a.parts.zipIdx.filter (fun p => p.1.stage = .channel && (match p.1.loc with
        | some (.dram pa') => pa' / 256 = pa / 256
        | _ => false))
      let s := parts.foldl (fun (s : State) p => match (s.findAcc a.id).bind (fun b => b.parts[p.2]?), p.1.loc with
        | some q, some l => if q.stage = .channel && (p.2 = i || s.allDone a.after) then
            (fun r => r.1.modAcc a.id (fun b => b.setPart p.2 r.2)) (s.performPart a.op q l false) else s
        | _, _ => s) s
      .next (s.settle a.id)

/-- A channel spends a cycle on refresh: no burst in it (R30). -/
def execDramRefresh (ch : Nat) (s : State) : Out := .next (s.setChannel ch { s.channel ch with fresh := s.clock + 1 })

/-! ## Remote operations (R431, R432) -/

/-- Whether a context is loaded here.
DEDUCED, unsafe: log 64. -/
def State.isLoaded (s : State) (asid : Nat) : Bool := (s.ctx asid).state != .absent && (s.ctx asid).state != .built

/-- A remote operation at this package's DRAM: the memory afterwards and the result.
DEDUCED, unsafe: log 64. -/
def State.remotePerform (s : State) (asid pa : Nat) (op : RemOp) : State × RemRes :=
  let len := match op with
    | .read n => n
    | .write bs => bs.length
    | .scatter runs => ((runs.map (fun r => r.1 + r.2.length)).max?).getD 0
    | .atomic _ ty _ _ _ => ty.width / 8
  if dramSize < pa + len || !s.isLoaded asid then (s, .refused .remote)
  else
    match op with
    | .read n => (s, .data (s.dram.read pa n))
    | .write bs => ({ s with dram := s.dram.write pa bs }, .done)
    | .scatter runs => ({ s with dram := runs.foldl (fun m r => m.write (pa + r.1) r.2) s.dram }, .done)
    | .atomic fn ty b c rnd => (fun r => (r.1, .data r.2)) (atomicAt s (.dram pa) fn ty b c rnd)

/-- The link agent performs, or replays, the first remote operation that has come in, and answers it; `ecc` says that it
meets an uncorrectable error in DRAM (R431).
DEDUCED, unsafe: log 64. -/
def execRemoteOperation (ecc : Bool) (s : State) : Out :=
  match s.takeMsg (fun m => match m with
    | .remoteOp _ _ _ _ => true
    | _ => false) with
  | some (⟨_, src, _, .remoteOp num asid pa op⟩, s) =>
    let log := lookAt [] s.remLog src
    (match log.find? (fun e => e.1 = num) with
     | some (_, res) => .next (s.sendTo 2 src (.remoteAck num res))
     | none =>
       let r := if ecc && (s.remotePerform asid pa op).2 != .refused .remote then (s, .refused .ecc) else s.remotePerform asid pa op
       .next ({ r.1 with remLog := putAt [] r.1.remLog src (((num, r.2) :: log).take 256) }.sendTo 2 src
         (.remoteAck num r.2)))
  | _ => .next s

/-- What an answer does to a part that waits for it; `first` is where the operation's bytes begin in the granule. -/
def Part.answer (op : AccOp) (first : Nat) (p : Part) (res : RemRes) : Part :=
  match res with
  | .data bs => { p with stage := if op.writes then .acked else .performed, data := (bs.drop (p.va.toNat % 16 - first)).take p.len }
  | .done => { p with stage := if op.writes then .acked else .performed }
  | .refused c => { p with stage := .refused c }

/-- The bytes that an answer brought; a write brings none. -/
def resBytes : RemRes → List Byte
  | .data bs => bs
  | _ => []

/-- The code of a refusal. -/
def resCode : RemRes → Option FaultCode
  | .refused c => some c
  | _ => none

/-- An answer for a copy command whose unit waits for it. -/
def CopyCmd.remote (c : CopyCmd) (num : BitVec 32) (res : RemRes) : CopyCmd :=
  match c.pendOp with
  | none => c
  | some (n, va) =>
    if n != num then c
    else
      match resCode res, c.saving with
      | some f, _ => { c with pendOp := none, saving := none, got := none, fcode := some f, faddr := va,
                              num := if f = .link then some (va, num) else none }
      | none, some l => { c with pendOp := none, saving := none, old := (l, resBytes res) :: c.old }
      | none, none => { c with pendOp := none, got := some (resBytes res) }

/-- An answer for a matrix command whose operand waits for it. -/
def MxCmd.remote (c : MxCmd) (num : BitVec 32) (res : RemRes) : MxCmd :=
  match c.pendOp.find? (fun p => p.1 = num) with
  | none => c
  | some (_, va) =>
    let left := c.pendOp.filter (fun p => p.1 != num)
    match resCode res with
    | some f => { c with pendOp := left, fcode := some f, faddr := va, nums := if f = .link then (va, num) :: c.nums else c.nums }
    | none => { c with pendOp := left, staged := c.staged.map (fun e => if e.1 = va then (va, some (resBytes res)) else e) }

/-- An answer for a fetch. -/
def Thread.remote (t : Thread) (num : BitVec 32) (res : RemRes) : Thread :=
  match t.fetchOps.find? (fun p => p.1 = num) with
  | none => t
  | some (_, va) =>
    let left := t.fetchOps.filter (fun p => p.1 != num)
    match resCode res with
    | some c => { t with fetchOps := left, fetchBad := some (va, c) }
    | none => { t with fetchOps := left, fetchBuf := t.fetchBuf ++ [(va, resBytes res)] }

/-- An answer for the stage manager or the agent. -/
def Ctx.remote (c : Ctx) (num : BitVec 32) (res : RemRes) : Ctx :=
  match c.agentOps.find? (fun e => e.2.2.1 = num) with
  | none => c
  | some (va, op, _, _) =>
    match resCode res with
    | some f => { c with agentOps := c.agentOps.filter (fun e => e.2.2.1 != num), agentBad := c.agentBad ++ [(va, f)] }
    | none => { c with agentOps := c.agentOps.map (fun e => if e.2.2.1 = num then (va, op, num, some (resBytes res)) else e) }

/-- An answer to a remote operation given to whatever waits for it. -/
def State.answer (s : State) (num : BitVec 32) (res : RemRes) : State :=
  let hit := s.accs.filter (fun a => a.parts.any (fun p => p.stage = .remote num))
  let part := fun (a : Access) (p : Part) =>
    if p.stage = .remote num then p.answer a.op (groupBase (a.parts.filter (fun q => q.stage = .remote num))) res else p
  let core := fun (c : Core) => { c with
    copies := mapVals (List.map (fun c => c.remote num res)) c.copies,
    mx := c.mx.map (fun c => c.remote num res) }
  let s := { s with
    accs := s.accs.map (fun a => { a with parts := a.parts.map (part a) }),
    cores := mapVals core s.cores,
    threads := mapVals (fun t => t.remote num res) s.threads,
    opsOut := s.opsOut.filter (fun o => o.num != num),
    ctxs := mapVals (fun c => c.remote num res) s.ctxs }
  hit.foldl (fun s a => s.settle a.id) s

/-- The acknowledgement of a remote operation returns (R243). -/
def execRemoteAck (s : State) : Out :=
  match s.takeMsg (fun m => match m with
    | .remoteAck _ _ => true
    | _ => false) with
  | some (⟨_, _, _, .remoteAck num res⟩, s) => .next (s.answer num res)
  | _ => .next s

/-! ## Faults found away from the core (R173) -/

/-- The fault of a part that has been refused or, with `ecc`, meets an uncorrectable error where it is performed.
DEDUCED, unsafe: log 29. -/
def Part.fault (p : Part) (ecc : Bool) : Option FaultCode :=
  match p.stage with
  | .refused c => some c
  | .port | .channel | .table => if ecc then some .ecc else none
  | _ => none

/-- The report of a refused access reaches the issuing core (R173): a clear is refused as a whole, from its first granule.
DEDUCED, unsafe: log 29. -/
def execRemoteFaultReport (acc part : Nat) (ecc : Bool) (s : State) : Out :=
  match s.findAcc acc with
  | none => .next s
  | some a =>
    let first := if a.op = .clear && !ecc then a.parts.find? (fun q => !q.performed) else (a.groupParts part).head?
    match (a.parts[part]?).bind (fun p => (p.fault ecc).map (fun c => (first.getD p, c))) with
    | none => .next s
    | some (p, code) =>
      let s := s.modAcc acc (fun b =>
        if b.op = .clear then { b with parts := b.parts.map (fun q => if q.performed then q else { q with stage := .reported code }) }
        else (b.group part).foldl (fun b j => match b.parts[j]? with
          | some q => b.setPart j { q with stage := .reported code }
          | none => b) b)
      let t := s.thread a.tid
      if t.ended then .next (s.dropAcc acc)
      else if a.dest.isSome && !a.fixed && !(t.retrying.any (fun src => src.same (.access acc part))) then .next s
      else .next ((s.withdraw a.tid).raiseAt a.tid ⟨code, 0, p.va, a.pc, .access acc part⟩)

end Sys2Proof.Machine
end

