-- ==== Sys2Proof/Machine/Engine.lean ====
section
/-! DEFINITION. The engines: the special-function pipe (R151), the copy engine (R189 to R194), and the matrix unit (R201 to
R217). -/

namespace Sys2Proof.Machine

/-! ## The special-function pipe -/

/-- The oldest request of a core completes (R151), unless a pause has squashed it (R152). -/
def execSfuResult (core : Nat) (s : State) : Out :=
  match (s.core core).sfu with
  | [] => .next s
  | r :: rs =>
    if s.halted (s.thread r.tid).launch.asid then .next s
    else .next ((s.modCore core (fun c => { c with sfu := rs })).modThread r.tid r.write)

/-! ## Where an engine's bytes lie -/

/-- The place of one granule, or why it has none now. -/
inductive EngLoc where
  | loc (l : Loc)
  /-- no walker is free, or the channel serves another context in this cycle -/
  | busy
  | house (perm : Bool)
  | bad (code : FaultCode)
  deriving DecidableEq, Repr

/-- The granule at an address, for the engine of a core and for an access of a context (R29, R30, R171, R402, R407).
DESIGN CHOICE, unsafe: log 70. -/
def State.engineLoc (s : State) (core asid : Nat) (va : Word) (write : Bool) : State × EngLoc :=
  match spaceOf va with
  | .own =>
    (s, if poolForm va && reachable (s.core core).part (poolOff va) 16 then .loc (.pool core (poolOff va)) else .bad .pool)
  | .any =>
    let c := s.core (anyCore va)
    let held := match c.owner with
      | some (l, _) => l.asid = asid
      | none => false
    (s, if poolForm va && held && reachable c.part (poolOff va) 16 then .loc (.pool (anyCore va) (poolOff va)) else .bad .pool)
  | .none => (s, .bad .prot)
  | .virt =>
    if !canonicalVa va then (s, .bad .prot)
    else if !s.translateOpen (some asid) asid va write then (s, .busy)
    else
      match s.translateFor (some asid) asid va (!write) write with
      | (s, .ok (.remote pkg pa) _ _ _) =>
        (s, if (s.linkTo pkg).isNone then .bad .link else .loc (.remote pkg pa))
      | (s', .ok l _ _ _) => if s.placeOpen (some asid) l then (s'.placeServed (some asid) l, .loc l) else (s, .busy)
      | (s, .fail perm _) => (s, .house perm)

/-- A remote operation of an engine sent, a replay with the number of the one that a LINK failed (R432): its number and the state.
DEDUCED, unsafe: log 65. -/
def State.sendOp (s : State) (vc asid pkg : Nat) (va : Word) (pa : Nat) (op : RemOp) (old : Option (BitVec 32)) : BitVec 32 × State :=
  match old with
  | some n => (n, s.sendRemote vc n asid pkg va pa op)
  | none =>
    let n := s.opNum + 1
    (n, { s with opNum := n }.sendRemote vc n asid pkg va pa op)

/-! ## Copies (R186, R189, R190, R192, R194) -/

/-- A queue with its head changed. -/
def State.modHead (s : State) (core q : Nat) (f : CopyCmd → CopyCmd) : State :=
  match s.copyQueue core q with
  | [] => s
  | c :: cs => s.setCopyQueue core q (f c :: cs)

/-- Whether a JOIN stands at the head of every queue that it joins. -/
def State.joinReady (s : State) (core : Nat) (c : CopyCmd) : Bool :=
  [0, 1, 2, 3].all (fun q => !c.qmask.testBit q || match s.copyQueue core q with
    | d :: _ => d.id = c.id
    | [] => false)

/-- The command at the head of a queue starts; a JOIN whose turn has come in every queue is done (R192, R194). -/
def execCopyStart (core q : Nat) (s : State) : Out :=
  match s.copyQueue core q with
  | [] => .next s
  | c :: _ =>
    if c.state != .queued || !s.allDone c.after || s.halted (s.thread c.tid).launch.asid then .next s
    else if c.fn = 6 then
      if s.joinReady core c then
        .next ([0, 1, 2, 3].foldl (fun (s : State) q =>
          s.setCopyQueue core q ((s.copyQueue core q).filter (fun d => !(d.fn = 6 && d.id = c.id)))) s)
      else .next s
    else .next (s.modHead core q (fun c => { c with state := .running }))

/-- Where the index of an element stands. -/
def CopyCmd.indexVa (c : CopyCmd) (i : Nat) : Word := c.index + BitVec.ofNat 64 (4 * i)

/-- The granule of the pool in which the index of an element stands; none where the list is not readable. -/
def State.indexPlace (s : State) (core : Nat) (c : CopyCmd) (i : Nat) : Option Loc :=
  match (s.engineLoc core (s.thread c.tid).launch.asid (c.indexVa i &&& ~~~(15#64)) false).2 with
  | .loc (.pool k off) => some (.pool k off)
  | _ => none

/-- The index of an element as the list holds it now (R187); none where the list is not readable.
DESIGN CHOICE, unsafe: log 96. -/
def State.copyIndex (s : State) (core : Nat) (c : CopyCmd) (i : Nat) : Option Int :=
  if c.fn = 3 || c.fn = 4 then
    match s.indexPlace core c i with
    | some (.pool k _) => some (readInt true 32 (leNat (s.poolRead k (poolOff (c.indexVa i)) 4)))
    | _ => none
  else some 0

/-- Whether a destination granule is one of the granules that the command reads: of its source, or of its index list (R189).
DESIGN CHOICE, safe: log 31. -/
def State.copyOverlaps (s : State) (core : Nat) (c : CopyCmd) (l : Loc) : Bool :=
  (c.fn != 5 && (List.range c.units).any (fun u =>
    match s.copyIndex core c (c.unitAt u).1 with
    | some i => (match s.peek (s.thread c.tid).launch.asid core (c.srcAt u i) with
      | some m => l.overlaps 16 m 16
      | none => false)
    | none => false)) ||
  ((c.fn = 3 || c.fn = 4) && (List.range c.rows).any (fun i => match s.indexPlace core c i with
    | some m => l.overlaps 16 m 16
    | none => false))

/-- The index of the element in progress: the one read before it, or the list's (R187). -/
def State.elemIndex (s : State) (core : Nat) (c : CopyCmd) : Option Int :=
  let e := (c.unitAt c.progress).1
  match c.index1 with
  | some (n, i) => if n = e then some i else s.copyIndex core c e
  | none => s.copyIndex core c e

/-- The granule that the index of the element in progress is to be read from now, if it is not at hand (R187). -/
def State.indexDue (s : State) (core : Nat) (c : CopyCmd) : Option Loc :=
  let e := (c.unitAt c.progress).1
  if (c.fn = 3 || c.fn = 4) && !(c.index1.any (fun p => p.1 = e)) then s.indexPlace core c e else none

/-- What a source granule held before the command wrote over it (R189). -/
def CopyCmd.kept (c : CopyCmd) (l : Loc) : Option (List Byte) := (c.old.find? (fun p => p.1.overlaps 16 l 16)).map Prod.snd

/-- The bytes of a unit from its source bytes (R186, R190). -/
def CopyCmd.convert (c : CopyCmd) (bs : List Byte) : List Byte := wireBytes c.wire (if c.rnd = 4 then 0 else c.rnd) c.sat bs

/-- A command stopped by a fault of a unit, or by a request to the house kernel (R194, R407). -/
def State.stopCopy (s : State) (core q : Nat) (va : Word) (r : EngLoc) : State :=
  s.modHead core q (fun c => match r with
    | .house perm => { c with house := some (va, perm) }
    | .bad code => { c with fcode := some code, faddr := va }
    | .loc _ | .busy => c)

/-- Whether a pool granule comes in its order among those that reach it in this cycle (R229), and its being served. -/
def State.locTurn (s : State) (rank : Nat) (l : Loc) : Bool :=
  match l with
  | .pool k off => s.inTurn k off 16 rank
  | _ => true
def State.locServed (s : State) (rank : Nat) (l : Loc) : State :=
  match l with
  | .pool k off => s.serve k off 16 rank
  | _ => s

/-- One more unit retired, with the full bit of a pool granule (R172, R189). -/
def State.retired (s : State) (core q : Nat) (l : Loc) : State :=
  let s := s.modHead core q (fun c => { c with progress := c.progress + 1, got := none, pendOp := none, num := none, again := false })
  match l with
  | .pool k off => s.setFull k off true
  | _ => s

/-- What an overlapping granule of this package or the host holds is kept before it is first written. -/
def State.keepOld (s : State) (core q : Nat) (l : Loc) : State :=
  let bs := s.readLoc l 16
  s.modHead core q (fun c => if (c.kept l).isSome then c else { c with old := (l, bs) :: c.old })

/-- A remote operation of a copy sent for a unit, on VC 3 (R422). -/
def State.sendUnit (s : State) (core q : Nat) (c : CopyCmd) (va : Word) (pkg pa : Nat) (op : RemOp) (saving : Option Loc) : State :=
  let r := s.sendOp 3 (s.thread c.tid).launch.asid pkg va pa op ((c.num.filter (fun n => n.1 = va)).map Prod.snd)
  r.2.modHead core q (fun c => { c with pendOp := some (r.1, va), saving := saving, num := none })

/-- The data of a unit written and retired (R189). A unit that is also a source of the command receives its old value or the
copied one, as a free bit says, and what it held is kept for the units that copy it.
DESIGN CHOICE, safe: log 31. -/
def State.writeUnit (s : State) (core q : Nat) (c : CopyCmd) (va : Word) (bs : List Byte) : State :=
  let asid := (s.thread c.tid).launch.asid
  match s.engineLoc core asid va true with
  | (s, .loc (.remote pkg pa)) =>
    let l := Loc.remote pkg pa
    if c.got = some [] then s.retired core q l
    else if s.copyOverlaps core c l then
      if (c.kept l).isNone then s.sendUnit core q c va pkg pa (.read 16) (some l)
      else
        let s := { s with fresh := s.fresh + 1 }
        if Config.freeBit (s.fresh - 1) then s.sendUnit core q c va pkg pa (.write bs) none
        else s.retired core q l
    else s.sendUnit core q c va pkg pa (.write bs) none
  | (s', .loc l) =>
    if !s'.locTurn rankCopy l then s
    else if s'.copyOverlaps core c l then
      let s := { (s'.keepOld core q l) with fresh := s'.fresh + 1 }
      ((if Config.freeBit s'.fresh then s.writeLoc l bs else s).locServed rankCopy l).retired core q l
    else ((s'.writeLoc l bs).locServed rankCopy l).retired core q l
  | (s, r) => s.stopCopy core q va r

/-- The source bytes of a unit, at hand or asked for: where an earlier unit has written over them, what they were before.
DESIGN CHOICE, safe: log 31. -/
def State.readUnit (s : State) (core q : Nat) (c : CopyCmd) (va : Word) : State × Option (List Byte) :=
  let asid := (s.thread c.tid).launch.asid
  match c.got, s.engineLoc core asid va false with
  | some bs, _ => (s, some bs)
  | none, (s, .loc (.remote pkg pa)) =>
    (match c.kept (.remote pkg pa) with
     | some bs => (s, some bs)
     | none => (s.sendUnit core q c va pkg pa (.read 16) none, none))
  | none, (s', .loc l) =>
    if !s'.locTurn rankCopy l then (s, none)
    else (s'.locServed rankCopy l, some ((c.kept l).getD (s'.readLoc l 16)))
  | none, (s, r) => (s.stopCopy core q va r, none)

/-- The engine retires the next unit of a running command (R189): the index of its element is read before the element, once
(R187). It never moves a unit ahead of PROGRESS, as it may: each is read, written and retired in turn.
DESIGN CHOICE, unsafe: log 71. -/
def execRetireUnit (core q : Nat) (s : State) : Out :=
  match s.copyQueue core q with
  | [] => .next s
  | c :: _ =>
    if c.state != .running || c.fcode.isSome || c.house.isSome || c.pendOp.isSome || c.units ≤ c.progress then .next s
    else
      match s.elemIndex core c with
      | none => .next (s.stopCopy core q (c.indexVa (c.unitAt c.progress).1) (.bad .pool))
      | some i =>
        let list := s.indexDue core c
        if !list.all (s.locTurn rankCopy) then .next s
        else
        let s := (list.map (s.locServed rankCopy)).getD s
        let c := { c with index1 := some ((c.unitAt c.progress).1, i) }
        let s := s.modHead core q (fun _ => c)
        let dst := c.dstAt c.progress i
        if c.fn = 5 then .next (s.writeUnit core q c dst (leBytes 8 c.pattern.toNat ++ leBytes 8 c.pattern.toNat))
        else if c.got = some [] then .next (s.writeUnit core q c dst [])
        else
          match s.readUnit core q c (c.srcAt c.progress i) with
          | (s, some bs) => .next ((s.modHead core q (fun c => { c with got := some bs })).writeUnit core q c dst (c.convert bs))
          | (s, none) => .next s

/-- A command whose last unit has retired is done: its completion cue is posted and its entry freed (R191, R194). -/
def execCopyFinish (core q : Nat) (s : State) : Out :=
  match s.copyQueue core q with
  | [] => .next s
  | c :: cs =>
    if c.state != .running || c.progress != c.units || c.fcode.isSome then .next s
    else
      let s := s.setCopyQueue core q cs
      .next (match c.cue with
        | some id => s.modCue id (fun k => { k with place := .stored c.tid, msg := { k.msg with kind := 0 } })
        | none => s)

/-- A running command stops on a fault, which its thread is told of (R173, R194). -/
def execCopyFault (core q : Nat) (ecc : Bool) (s : State) : Out :=
  match s.copyQueue core q with
  | [] => .next s
  | c :: _ =>
    match (if ecc && c.state = .running then some FaultCode.ecc else c.fcode) with
    | none => .next s
    | some code =>
      if !(c.state = .running || c.state = .checkpointed ||
          (c.state = .faulted && (s.thread c.tid).retrying = some (.copy core q))) then .next s
      else
        let addr := if ecc then c.srcAt c.progress ((s.elemIndex core c).getD 0) else c.faddr
        let s := s.modHead core q (fun c => { c with state := .faulted, fcode := some code, faddr := addr })
        .next ((s.withdraw c.tid).raiseAt c.tid ⟨code, 0, addr, c.pc, .copy core q⟩)

/-- A faulted command goes on at PROGRESS after RETRY (R194). -/
def execCopyRetry (core q : Nat) (s : State) : Out :=
  match s.copyQueue core q with
  | [] => .next s
  | c :: _ =>
    if c.state = .faulted && c.fcode.isNone && c.house.isNone && !s.halted (s.thread c.tid).launch.asid then
      .next (s.modHead core q (fun c => { c with state := .running, got := none, pendOp := none, saving := none, faddr := 0 }))
    else .next s

/-! ## The matrix unit: arithmetic (R55 to R57, R202 to R206) -/

/-- The elements of a row of bytes; two to a byte for E2M1 (R201). -/
def rowElems (ty : Ty) (bs : List Byte) : List Nat :=
  match ty.width with
  | 4 => bs.flatMap (fun b => [b.toNat % 16, b.toNat / 16])
  | 8 => bs.map (fun b => b.toNat)
  | 16 => (List.range (bs.length / 2)).map (fun i => leNat ((bs.drop (2 * i)).take 2))
  | _ => (List.range (bs.length / 4)).map (fun i => leNat ((bs.drop (4 * i)).take 4))

/-- IOVF of the status byte (R197). -/
def flagIOVF : Nat := 64

/-- An exact sum of products, and NV where R55 calls for it.
DESIGN CHOICE, unsafe: log 91. -/
def sumProducts : List FVal → List FVal → FVal × Nat
  | [a], [b] => a.mul b
  | a :: as, b :: bs =>
    let p := a.mul b
    let r := sumProducts as bs
    let t := p.1.add false r.1
    (t.1, orF (orF p.2 r.2) t.2)
  | _, _ => (.zero false, 0)

/-- The loop of R55 over groups of kd: the FP32 word and the flags. -/
def dotF (kd : Nat) : Nat → List FVal → List FVal → Nat → Nat × Nat
  | 0, _, _, c => (c, 0)
  | n + 1, as, bs, c =>
    let g := sumProducts (as.take kd) (bs.take kd)
    let t := (decodeF .f32 c).add false g.1
    let r := rneF32 t.1
    let rest := dotF kd n (as.drop kd) (bs.drop kd) r.1
    (rest.1, orF (orF (orF g.2 t.2) r.2) rest.2)

/-- The loop of R56. -/
def dotI : List Int → List Int → Nat → Nat × Nat
  | a :: a' :: as, b :: b' :: bs, c =>
    let t := readInt true 32 c + a * b + a' * b'
    let rest := dotI as bs (wrapN 32 t)
    (rest.1, orF (flagIf (decide (t < -(2 ^ 31 : Int) ∨ (2 ^ 31 : Int) ≤ t)) flagIOVF) rest.2)
  | _, _, c => (c, 0)

/-- Columns of a list of rows. -/
def column (rows : List (List Nat)) (j : Nat) : List Nat := rows.map (fun r => r[j]?.getD 0)

/-- One block step of MMA or the product of BLK: slot words row by row, and flags. -/
def productWords (fn : Nat) (ty bty : Ty) (zc : Bool) (a b : List (List Nat)) (c : List (List Nat)) : List (List Nat) × Nat :=
  let kd := if ty.width = 16 then 1 else 2
  let cols := (List.range 128).map (column b)
  let cell := fun (row col : List Nat) (w : Nat) =>
    if fn = 2 then
      let r := sumProducts (row.map (decodeF ty)) (col.map (decodeF bty))
      let y := rneF32 r.1
      (y.1, orF r.2 y.2)
    else if ty = .i8 then dotI (row.map (readInt true 8)) (col.map (readInt true 8)) (if zc then 0 else w)
    else dotF kd (32 / kd) (row.map (decodeF ty)) (col.map (decodeF bty)) (if zc then 0 else w)
  let rows := (a.zip c).map (fun p => (cols.zip p.2).map (fun q => cell p.1 q.1 q.2))
  (rows.map (fun r => r.map Prod.fst), rows.foldl (fun f r => r.foldl (fun f x => orF f x.2) f) 0)

/-- One element of SCA (R57). -/
def scaWord (sa sb c p : Nat) : Nat × Nat :=
  if sa = 0xFF || sb = 0xFF then (Ty.nanCode .f32, 0)
  else
    let q := match decodeF .f32 p with
      | .fin n m e st => FVal.fin n m (e + sa + sb - 254) st
      | v => v
    let t := (decodeF .f32 c).add false q
    let r := rneF32 t.1
    (r.1, orF t.2 r.2)

/-! ## The matrix unit: steps (R211 to R217) -/

/-- Cost of the next step in cycles (R200, R211). -/
def MxCmd.cost (c : MxCmd) : Nat :=
  match c.fn with
  | 1 => if c.ty.width = 16 then 32 else 16
  | 2 => if c.ty = .e2m1 && c.bty = .e2m1 then 8 else 16
  | 3 | 4 => 1
  | _ => if c.wide then 8 else 4

/-- Rows of the next step of ZERO, SCA, XFER and LOAD: first row of the slot, and how many. -/
def MxCmd.stepRows (c : MxCmd) : Nat × Nat := (c.row0 + c.progress, min 8 (c.total - c.progress))

/-- The runs of bytes that the next step reads, or for XFER writes: (address, length), A's rows before B's (R201, R206). -/
def MxCmd.runs (c : MxCmd) : List (Word × Nat) :=
  let row := fun (base stride : Word) (r off : Nat) => base + BitVec.ofNat 64 r * stride + BitVec.ofNat 64 off
  match c.fn with
  | 1 | 2 =>
    ((List.range 128).map (fun i => (row c.aaddr c.astr i (c.progress * c.ty.width / 8), 32 * c.ty.width / 8))) ++
    ((List.range 32).map (fun k => (row c.baddr c.bstr (c.progress + k) 0, 128 * c.bty.width / 8)))
  | 5 | 6 => (List.range c.stepRows.2).map (fun r => (row c.aaddr c.astr (c.progress + r) 0, 128 * mxEb c.wide c.ty))
  | _ => []

/-- The granules of a run. -/
def runGranules (r : Word × Nat) : List Word := (List.range ((r.2 + 15) / 16)).map (fun g => r.1 + BitVec.ofNat 64 (16 * g))

/-- The operand rows already staged for the next step, A's first and then B's: the row-progress record (R217). -/
def MxCmd.rowsStaged (c : MxCmd) : Nat :=
  (c.runs.takeWhile (fun r => (runGranules r).all (fun g => c.staged.any (fun e => e.1 = g && e.2.isSome)))).length

/-- What came of looking for the granules of a step. -/
structure Staging where
  s       : State
  /-- granules at hand: where they lie, or what came from another package -/
  here    : List (Word × Sum Loc (List Byte))
  /-- operations to send -/
  missing : List (Word × Nat × Nat)
  stop    : Option (Word × EngLoc)

/-- The bytes of granules that are at hand, as they are staged. -/
def Staging.keep (r : Staging) : List (Word × Option (List Byte)) :=
  r.here.map (fun e => (e.1, some (match e.2 with
    | .inl l => r.s.readLoc l 16
    | .inr bs => bs)))

/-- The granules of a step looked for in order, up to the first that the house kernel must answer for, that faults, or that is
not served in this cycle. -/
def stage (core asid : Nat) (write : Bool) (staged : List (Word × Option (List Byte))) : List Word → Staging → Staging
  | [], r => r
  | g :: gs, r =>
    match staged.find? (fun e => e.1 = g) with
    | some (_, some bs) => stage core asid write staged gs { r with here := r.here ++ [(g, .inr bs)] }
    | some (_, none) => stage core asid write staged gs r
    | none =>
      match r.s.engineLoc core asid g write with
      | (s, .loc (.remote pkg pa)) => stage core asid write staged gs { r with s := s, missing := r.missing ++ [(g, pkg, pa)] }
      | (s, .loc l) =>
        if s.locTurn rankEngine l then
          stage core asid write staged gs { r with s := s.locServed rankEngine l, here := r.here ++ [(g, .inl l)] }
        else { r with stop := some (g, .busy) }
      | (s, e) => { r with s := s, stop := some (g, e) }

/-- The head of a matrix queue changed. -/
def State.modMx (s : State) (core : Nat) (f : MxCmd → MxCmd) : State :=
  s.modCore core (fun c => { c with mx := match c.mx with
    | m :: ms => f m :: ms
    | [] => [] })

/-- The newest-command record follows a command (R219). -/
def State.noteMx (s : State) (core : Nat) (m : MxCmd) (st : MxState) : State :=
  s.modCore core (fun c =>
    let n := lookAt MxNewest.none c.newest m.slot
    if n.id = m.id && n.state != .none then
      { c with newest := putAt MxNewest.none c.newest m.slot { n with progress := m.progress, state := st } }
    else c)

/-- Words of rows of a slot, and rows written. -/
def State.slotRows (s : State) (core slot row n : Nat) : List (List Nat) :=
  (List.range n).map (fun r => rowElems .f32 (s.poolRead core (slotOff slot + 512 * (row + r)) 512))
def State.writeRows (s : State) (core slot row : Nat) (rows : List (List Nat)) : State :=
  s.poolWrite core (slotOff slot + 512 * row) (rows.flatMap (fun r => r.flatMap (leBytes 4)))
/-- Flags ORed into a status byte (R197). -/
def State.orStatus (s : State) (core slot flags : Nat) : State :=
  s.modCore core (fun c => { c with slotStat := putAt 0 c.slotStat slot (lookAt 0 c.slotStat slot ||| BitVec.ofNat 8 flags) })

/-- The bytes of a run, from the granules at hand. -/
def runBytes (s : State) (here : List (Word × Sum Loc (List Byte))) (r : Word × Nat) : List Byte :=
  ((runGranules r).flatMap (fun g => match here.find? (fun e => e.1 = g) with
    | some (_, .inl l) => s.readLoc l 16
    | some (_, .inr bs) => bs
    | none => [])).take r.2

/-- One step of a command with its granules at hand: the slot and status byte afterwards (R202 to R206). What an XFER writes to memory is
`xferBytes`.
DEDUCED, unsafe: log 33. -/
def State.stepMx (s : State) (core : Nat) (c : MxCmd) (here : List (Word × Sum Loc (List Byte))) : State :=
  let rs := c.stepRows
  match c.fn with
  | 1 | 2 =>
    let rows := c.runs.map (runBytes s here)
    let a := (rows.take 128).map (rowElems c.ty)
    let b := (rows.drop 128).map (rowElems c.bty)
    let r := productWords c.fn c.ty c.bty (c.zc && c.progress = 0) a b (s.slotRows core c.slot 0 128)
    (s.writeRows core c.slot 0 r.1).orStatus core c.slot r.2
  | 3 =>
    let cs := s.slotRows core c.slot rs.1 rs.2
    let ps := s.slotRows core c.pslot rs.1 rs.2
    let byte := fun (w : SWord) (i : Nat) => (w.extractLsb' (8 * i) 8).toNat
    let out := ((cs.zip ps).zipIdx).map (fun p => ((p.1.1.zip p.1.2).zipIdx).map (fun q =>
      scaWord (byte c.sa (rs.1 + p.2)) (byte c.sb q.2) q.1.1 q.1.2))
    (s.writeRows core c.slot rs.1 (out.map (fun r => r.map Prod.fst))).orStatus core c.slot
      (out.foldl (fun f r => r.foldl (fun f x => orF f x.2) f) 0)
  | 4 =>
    let s := s.writeRows core c.slot rs.1 (List.replicate rs.2 (List.replicate 128 0))
    if rs.1 + rs.2 = 128 then s.modCore core (fun k => { k with slotStat := putAt 0 k.slotStat c.slot 0 }) else s
  | 5 =>
    let out := (s.slotRows core c.slot rs.1 rs.2).map (fun r => r.map (fun w =>
      if c.wide then (w, 0) else roundF c.ty 0 c.sat true 0 (decodeF .f32 w)))
    let flags := out.foldl (fun f r => r.foldl (fun f x => orF f x.2) f) 0
    s.orStatus core c.slot flags
  | _ =>
    let rows := (c.runs.map (runBytes s here)).map (fun bs =>
      if c.wide then rowElems .f32 bs else (rowElems c.ty bs).map (fun x => (rneF32 (decodeF c.ty x)).1))
    s.writeRows core c.slot rs.1 rows

/-- How far a step takes PROGRESS. -/
def MxCmd.stepSize (c : MxCmd) : Nat := if c.fn ≤ 2 then 32 else c.stepRows.2

/-- The bytes that a step of XFER writes to a granule (R206). -/
def State.xferBytes (s : State) (core : Nat) (c : MxCmd) (g : Word) : List Byte :=
  let rs := c.stepRows
  let bytes := (s.slotRows core c.slot rs.1 rs.2).flatMap (fun r => r.flatMap (fun w =>
    leBytes (mxEb c.wide c.ty) (if c.wide then w else (roundF c.ty 0 c.sat true 0 (decodeF .f32 w)).1)))
  let i := (c.runs.flatMap runGranules).findIdx (fun h => h = g)
  (bytes.drop (16 * i)).take 16

/-- What a command has staged when staging stops: the operands of its leading rows that are at hand, and what has been asked
for. A write has no operands in memory (R217). -/
def MxCmd.stagedOn (c : MxCmd) (r : Staging) : List (Word × Option (List Byte)) :=
  if c.fn = 5 then c.staged
  else
    let asked := c.staged.filter (fun e => e.2.isNone)
    let have' := { c with staged := r.keep }
    let rows := (c.runs.take have'.rowsStaged).flatMap runGranules
    (r.keep.filter (fun e => rows.contains e.1 || c.staged.any (fun f => f.1 = e.1))) ++ asked

/-- Whether an XFER is in the middle of a step, some of its rows written (R217). -/
def MxCmd.midWrite (c : MxCmd) : Bool := c.fn = 5 && c.fcode.isNone && !(c.staged.isEmpty && c.pendOp.isEmpty)

/-- The head command of a core, if staging is open to it: what its thread must perform first is over (R452), and a context that is pausing
finishes a step and begins none (R210, R216). -/
def State.mxHead (s : State) (core : Nat) : Option MxCmd :=
  match (s.core core).mx with
  | [] => none
  | c :: _ =>
    if (c.state = .accepted || c.state = .running) && decide (c.progress < c.total) && c.fcode.isNone && c.house.isNone &&
        c.pendOp.isEmpty && !c.told && s.allDone c.after && !s.chainHolds core c && (c.midWrite || !s.halted (s.thread c.tid).launch.asid) then some c
    else none

/-- The granules of the head's next step, as they are found now. -/
def State.mxStage (s : State) (core : Nat) (c : MxCmd) : Staging :=
  stage core (s.thread c.tid).launch.asid (c.fn = 5) c.staged (c.runs.flatMap runGranules) ⟨s, [], [], none⟩

/-- Whether staging is held up in this cycle: a channel, a walker or a pool serves another. -/
def Staging.heldUp (r : Staging) : Bool :=
  match r.stop with
  | some (_, .busy) => true
  | _ => false

/-- The granules that a staging has found for the first time. -/
def Staging.fresh (r : Staging) : List (Word × Loc) := r.here.filterMap (fun e => match e.2 with
  | .inl l => some (e.1, l)
  | .inr _ => none)

/-- Whether the head command of a core is ready: its next step can start now (R212). An XFER writes its rows as their places are open. -/
def State.mxReady (s : State) (core : Nat) : Option MxCmd :=
  (s.mxHead core).filter (fun c =>
    let r := s.mxStage core c
    !r.heldUp || (c.fn = 5 && r.fresh != []))

/-- The core to serve: the one served last while its credit lasts, else the next in ascending order (R213). -/
def State.mxPick (s : State) (tile : Nat) (cands : List (Nat × MxCmd)) : Option (Nat × MxCmd × Nat) :=
  let last := (s.tile tile).lastCore
  match cands.find? (fun p => p.1 % 8 = last && decide (p.2.cost ≤ (s.core p.1).credit)) with
  | some p => some (p.1, p.2, (s.core p.1).credit)
  | none =>
    match nextAfter last (cands.map (fun p => p.1 % 8)) with
    | none => none
    | some n => (cands.find? (fun p => p.1 % 8 = n)).map (fun p => (p.1, p.2, (s.core p.1).credit + 32))

/-- The competitors for a step now (R212). -/
def State.mxCands (s : State) (tile : Nat) : List (Nat × MxCmd) :=
  let fits := fun (c : MxCmd) => decide (s.clock % 4096 + c.cost ≤ 4096)
  let all := ((List.range 8).map (fun k => tile * 8 + k)).filterMap (fun core => (s.mxReady core).map (fun c => (core, c)))
  let e := lookAt SlotEntry.unowned (s.tile tile).slots (s.clock / 4096 % 16)
  let own := fun (asid : Nat) => all.filter (fun p => (s.thread p.2.tid).launch.asid = asid)
  (match e.owner with
   | none => if s.powerIdle 0 tile then [] else all
   | some asid => if own asid != [] then own asid else if e.lend then all else []).filter (fun p => fits p.2)

/-- The operations that the missing granules of a step need, on other packages: reads, or for XFER writes (R206, R217). -/
def State.askMissing (s : State) (core : Nat) (c : MxCmd) (ms : List (Word × Nat × Nat)) : State :=
  ms.foldl (fun (s : State) m =>
    let o := s.sendOp 2 (s.thread c.tid).launch.asid m.2.1 m.1 m.2.2 (if c.fn = 5 then .write (s.xferBytes core c m.1) else .read 16)
      ((c.nums.find? (fun n => n.1 = m.1)).map Prod.snd)
    o.2.modMx core (fun c => { c with staged := c.staged ++ [(m.1, none)], pendOp := c.pendOp ++ [(o.1, m.1)] })) s

/-- A granule of an XFER step written (R206). -/
def State.xferWrite (s : State) (core : Nat) (c : MxCmd) (g : Word × Loc) : State :=
  (s.writeLoc g.2 (s.xferBytes core c g.1)).modMx core (fun c => { c with staged := c.staged ++ [(g.1, some [])] })

/-- A step ends: PROGRESS, the cost, the turn; a pausing context's command is checkpointed there (R211, R213, R216). -/
def State.stepDone (s : State) (tile core credit : Nat) (c : MxCmd) : State :=
  let next := c.progress + c.stepSize
  let st := if s.halted (s.thread c.tid).launch.asid && decide (next < c.total) then MxState.checkpointed else .running
  let d := { c with progress := next, state := st, staged := [], nums := [], again := false,
                    due := s.clock + c.cost + (if c.fn ≤ 3 then 24 else 0) }
  let s := ((s.modMx core (fun _ => d)).noteMx core d st).modCore core (fun k => { k with credit := credit - c.cost })
  s.modTile tile (fun t => { t with lastCore := core % 8, busy := s.clock + c.cost })

/-- The step of a picked core: its operands are looked for, and where all are at hand the step runs. The rows of an XFER are written as
their places are open, and the step ends with the last (R217). -/
def State.grant (s : State) (tile core credit : Nat) (c : MxCmd) : State :=
  let r := s.mxStage core c
  let s := if c.fn = 5 then r.fresh.foldl (fun (s : State) g => s.xferWrite core c g) r.s else r.s
  match r.stop with
  | some (_, .busy) => s
  | some (va, .house perm) => s.modMx core (fun c => { c with house := some (va, perm), staged := c.stagedOn r })
  | some (va, .bad code) => s.modMx core (fun c => { c with fcode := some code, faddr := va, staged := c.stagedOn r })
  | _ =>
    if r.missing != [] then s.askMissing core c r.missing
    else (s.stepMx core c r.here).stepDone tile core credit c

/-- The unit grants one step (R212, R213).
DEDUCED, unsafe: log 33. -/
def execMxuGrant (tile : Nat) (s : State) : Out :=
  if s.clock < (s.tile tile).busy then .next s
  else
    let cores := (List.range 8).map (fun k => tile * 8 + k)
    let s := cores.foldl (fun (s : State) k =>
      if (s.mxReady k).isNone && (s.core k).credit != 0 then s.modCore k (fun c => { c with credit := 0 }) else s) s
    match s.mxPick tile (s.mxCands tile) with
    | none => .next s
    | some (core, c, credit) => .next (s.grant tile core credit c)

/-- The operands of a step are staged as far as the cycle allows, and kept for the next (R216, R217): no step of its own. -/
def execMxuStage (core : Nat) (s : State) : Out :=
  match s.mxHead core with
  | none => .next s
  | some c =>
    let r := s.mxStage core c
    if c.fn != 5 && r.heldUp && r.fresh != [] then
      .next ((r.s.modMx core (fun c => { c with staged := r.keep ++ c.staged.filter (fun e => e.2.isNone) })).askMissing core c r.missing)
    else .next s

/-- A queued command whose turn has come is accepted (R216), also one that an earlier load still holds back (R377, R452). -/
def execMxuAccept (core : Nat) (s : State) : Out :=
  match (s.core core).mx with
  | [] => .next s
  | c :: _ =>
    if c.state = .queued && !s.halted (s.thread c.tid).launch.asid then
      .next ((s.modMx core (fun c => { c with state := .accepted })).noteMx core c .accepted)
    else .next s

/-- A command is done: MMA, BLK and SCA 24 cycles after their last step ends, the others as it ends (R211, R216). -/
def execMxuFinish (core : Nat) (s : State) : Out :=
  match (s.core core).mx with
  | [] => .next s
  | c :: cs =>
    if (c.state = .running || c.state = .accepted) && c.progress = c.total && decide (c.due ≤ s.clock) then
      .next (((s.modCore core (fun k => { k with mx := cs })).noteMx core c .done).pumpTile (tileOf core))
    else .next s

/-- An operand fault is given to the issuing thread, and the queue halts (R216). -/
def execMxuOperandFault (core : Nat) (ecc : Bool) (s : State) : Out :=
  match (s.core core).mx with
  | [] => .next s
  | c :: _ =>
    match (if ecc && (c.state = .accepted || c.state = .running) then some FaultCode.ecc else c.fcode) with
    | none => .next s
    | some code =>
      if (c.told && (s.thread c.tid).retrying != some (.matrix core)) || c.state = .queued || c.state = .discarded then .next s
      else
        let addr := if ecc then ((c.runs.head?).map Prod.fst).getD 0 else c.faddr
        let s := s.modMx core (fun c => { c with state := .accepted, fcode := some code, faddr := addr, told := true })
        .next (((s.noteMx core c .accepted).withdraw c.tid).raiseAt c.tid ⟨code, 0, addr, c.pc, .matrix core⟩)

/-- Staging resumes after RETRY (R216). -/
def execMxuRetry (core : Nat) (s : State) : Out :=
  match (s.core core).mx with
  | [] => .next s
  | c :: _ =>
    if c.told && c.fcode.isNone && c.house.isNone then
      .next (s.modMx core (fun c => { c with
        told := false, faddr := 0, staged := if c.fn = 5 then [] else c.staged.filter (fun e => e.2.isSome), pendOp := [] }))
    else .next s

end Sys2Proof.Machine
end

