-- ==== Sys2Proof/Machine/Contain.lean ====
section
/-! DEFINITION. Taking a fault: its delivery (R85, R134), containment (R316, R317), the kill of a node (R318, R319) and the
root fault (R251, R279). -/

namespace Sys2Proof.Machine

/-! ## The policy walk (R316, R317) -/

/-- The group of a fault (R316): 0 PROG, 1 MEM, 2 TIME, 3 HW. -/
def groupOf : FaultCode → Nat
  | .align | .pool | .page | .prot | .link | .remote => 1
  | .budget | .late | .latesend | .clock | .microstep | .chainTimeout | .chainBroken | .barTimeout => 2
  | .ecc => 3
  | _ => 0

/-- Whether IGNORE is permitted for a fault. -/
def permitsIgnore : FaultCode → Bool
  | .budget | .late | .chainDup | .barTimeout => true
  | _ => false

/-- Whether RETRY is permitted for a fault of a thread raised by this thing (R316, R368, R387, R432). -/
def State.permitsRetry (s : State) (tid : Nat) (f : Raised) : Bool :=
  match f.code, f.src with
  | .page, _ | .late, _ => true
  | .link, .access id _ => (s.findAcc id).all (fun a => !a.again)
  | .link, .copy core q => ((s.copyQueue core q).head?).all (fun c => !c.again)
  | .link, .matrix core => ((s.core core).mx.head?).all (fun c => !c.again)
  | .link, .own => !(s.thread tid).fetchAgain
  | .chainTimeout, .chain tile i => !(s.chain tile i).retried
  | .barTimeout, .barrier again => !again
  | _, _ => false

/-- What a policy walk ends on. -/
inductive Verdict where
  | ignore | retry | kill (level : Nat) | root
  deriving DecidableEq, Repr

/-- The walk from a level up (R317). -/
def policyWalk (ign ret : Bool) (group : Nat) : Nat → List Level → Verdict
  | _, [] => .root
  | l, v :: vs =>
    match (v.policy.toNat / 4 ^ group) % 4 with
    | 0 => if ign then .ignore else .kill l
    | 1 => if ret then .retry else .kill l
    | 2 => .kill l
    | _ => policyWalk ign ret group (l + 1) vs

/-- The action for a fault of a thread. -/
def State.actionFor (s : State) (tid : Nat) (f : Raised) : Verdict :=
  let ls := s.levels tid
  policyWalk (permitsIgnore f.code) (s.permitsRetry tid f) (groupOf f.code) (threadLevel ls) (ls.drop (threadLevel ls))

/-- The policy value that FAULTINFO records (R134). -/
def Verdict.code : Verdict → Nat
  | .ignore => 0 | .retry => 1 | .kill _ => 2 | .root => 3

/-- FAULTINFO after a fault (R134). -/
def Thread.faultInfo (t : Thread) (f : Raised) (action : Nat) : Thread :=
  let n := (lookAt 0 t.finfo 3).toNat
  { t with
    finfo := putAt 0 (putAt 0 (putAt 0 (putAt 0 t.finfo 0 (BitVec.ofNat 64 (codeOf f.code + f.field * 2 ^ 8 + action * 2 ^ 16)))
      1 f.pc) 2 f.data) 3 (BitVec.ofNat 64 (min (n + 1) (2 ^ 64 - 1))) }

/-! ## Kills (R318, R319) -/

/-- Copy commands of a thread discarded, their completion cues with them (R194). -/
def State.discardCopies (s : State) (tid : Nat) : State :=
  let core := coreOf tid
  [0, 1, 2, 3].foldl (fun (s : State) q =>
    let cs := s.copyQueue core q
    let s := (cs.filter (fun c => c.tid = tid)).foldl (fun (s : State) c => match c.cue with
      | some id => s.dropCue id
      | none => s) s
    s.setCopyQueue core q (cs.filter (fun c => c.tid != tid))) s

/-- Matrix commands of a thread discarded; the rows of completed steps stay (R216). -/
def State.discardMatrix (s : State) (tid : Nat) : State :=
  s.modCore (coreOf tid) (fun c =>
    let gone := (c.mx.filter (fun m => m.tid = tid)).map (fun m => m.id)
    { c with
      mx := c.mx.filter (fun m => m.tid != tid)
      newest := mapVals (fun n => if gone.contains n.id then { n with state := MxState.discarded } else n) c.newest })

/-- The waiting consuming loads of a killed thread cancelled for good (R177, R319), with its accesses whose fault has been
reported, and everything that those still held back in the memory port (R452).
DEDUCED, unsafe: log 26. -/
def State.dropLoads (s : State) (tid : Nat) : State :=
  let gone := s.heldBehind tid (fun a => a.op.consumes || a.faulty.isSome)
  let keep := fun (p : Push) => !(p.origin = s.pkg && p.pos.isNone && !p.sent && gone.contains p.acc)
  { s with
    accs := s.accs.filter (fun a => !gone.contains a.id)
    queues := mapVals (fun k => { k with pushes := k.pushes.filter keep }) s.queues
    cues := s.cues.filter (fun c => !c.after.any gone.contains)
    barMsgs := s.barMsgs.filter (fun m => !m.after.any gone.contains) }

/-- One thread killed. A fault of it that was not delivered writes FAULTINFO with the kill's action (R318). The chains of a
retired thread break (R369, R370). -/
def State.killThread (s : State) (tid action : Nat) : State :=
  let t := s.thread tid
  if t.status = .retired then s.endChains tid 1 true
  else if t.ended then s
  else
    let s := (((((s.depart tid).dropCues tid).squash tid).discardCopies tid).discardMatrix tid).dropLoads tid
    (s.endChains tid 1 true).modThread tid (fun t =>
      { (match t.raised with
         | some f => t.faultInfo f action
         | none => t) with status := .killed, wait := none, raised := none, reports := [], retrying := none, inHandler := false })

/-- Whether a thread of a launch lies beneath a node. -/
def beneath (ls : List Level) (gidx level node : Nat) : Bool := nodeIndex ls gidx level = node

/-- The gangs beneath a node at a queued level (R319). -/
def gangsBeneath (i : Image) (level node : Nat) : List Nat :=
  let n := fanProd i.levels (i.resident + 1) (level + 1)
  if level < i.resident then [] else (List.range n).map (fun k => node * n + k)

/-- The kill of a node on this package (R319).
DEDUCED, unsafe: log 45. -/
def State.killHere (s : State) (l : LaunchId) (level node action : Nat) : State :=
  let ls := s.levelsOf l
  let tids := (s.launchTids l).filter (fun t => beneath ls (s.thread t).gidx level node)
  let s := tids.foldl (fun (s : State) t => s.killThread t action) s
  s.modLaunch l (fun a =>
    let dead := (gangsBeneath a.image level node).filter (fun g => !a.gangs.any (fun h => h.index = g) && !a.dead.contains g)
    { a with kills := a.kills ++ [(level, node)], dead := a.dead ++ dead })

/-- The kill of a node: the other packages are told on VC0 (R319). -/
def State.killNode (s : State) (l : LaunchId) (level node : Nat) : State :=
  (s.killHere l level node 2).sendPeers l.asid (.kill l level node)

/-! ## The root fault (R251, R279) -/

/-- The slots of a context on this package. -/
def State.ctxTids (s : State) (asid : Nat) : List Nat := s.tids.filter (fun t => (s.thread t).launch.asid = asid)

/-- The chain entries of a context discarded. -/
def State.discardChains (s : State) (asid : Nat) : State :=
  let keep := fun (t : Tile) => { t with chains := t.chains.filter (fun p => p.2.asid != asid) }
  { s with
    tiles := mapVals keep s.tiles
    chainMsgs := s.chainMsgs.filter (fun m => m.asid != asid)
    strips := s.strips.filter (fun p => (s.chain p.tile p.entry).asid != asid) }

/-- Whether a root fault can meet a context: loaded or resident, or in a pause or restore (R251, R279, R456).
DEDUCED, unsafe: log 37. -/
def Ctx.canFault (c : Ctx) : Bool :=
  match c.state with
  | .loaded | .resident | .pausing | .paused | .restoring => true
  | _ => false

/-- A launch whose context faults at the root is discarded, unless it is over (R302, R303). -/
def Launch.rootFaulted (a : Launch) : Launch := if a.state = .complete then a else { a with state := .discarded }

/-- A root fault on this package: threads killed, engines, chains and launches discarded, what an image kept of the overflow area freed,
the prompt books marked, and then the host notified (R251, R279, R445). `by'` is the entry whose work faulted, `ev` the queue and
number of the event record. -/
def State.rootHere (s : State) (asid code : Nat) (by' : Option (Nat × Word)) (ev : Nat × Word) : State :=
  let s := (s.ctxTids asid).foldl (fun (s : State) t => s.killThread t 3) s
  let s := s.discardChains asid
  let s := { s with
    launches := s.launches.map (fun (a : Launch) => if a.id.asid = asid then a.rootFaulted else a)
    casts := s.casts.filter (fun c => c.msg.launch.asid != asid) }
  let kept := (((s.ctx asid).saved.map Saved.cues).getD [])
  let s := kept.foldl State.releaseArea (s.dropCuesBy (fun c => c.msg.launch.asid = asid))
  let s := s.modCtx asid (fun c => { c with state := .faulted, pause := none, saved := none })
  let s := (s.queuesOf asid).foldl (fun (s : State) q => s.markQueue asid q by' code) s
  s.oweNow asid [.event 3 code ev.1 0 ev.2.toNat]

/-- A context faulted at the root on every package, for an entry or for none (R279, R335, R456, R457).
DEDUCED, unsafe: log 37. -/
def State.rootBare (s : State) (asid code : Nat) (by' : Option (Nat × Word)) (ev : Nat × Word) : State :=
  if (s.ctx asid).canFault then (s.rootHere asid code by' ev).sendPeers asid (.rootFault asid code by' ev.1 ev.2) else s

/-- A fault that reaches the root of a launch faults its context on every package (R279). -/
def State.rootFault (s : State) (l : LaunchId) (code : FaultCode) : State :=
  s.rootBare l.asid (codeOf code) (some (l.q, l.seq)) (l.q, l.seq)

/-! ## IGNORE and RETRY (R316) -/

/-- A copy, and a matrix command, whose fault is retried: after PAGE the house kernel is asked again first, and a LINK may be
replayed once (R173, R194, R216, R316). -/
def State.retryCopy (s : State) (core q : Nat) (code : FaultCode) : State :=
  s.modHead core q (fun c =>
    if c.state = .faulted then
      { c with fcode := none, house := if code = .page then some (c.faddr, false) else c.house, again := c.again || code = .link }
    else c)
def State.retryMatrix (s : State) (core : Nat) (code : FaultCode) : State :=
  s.modMx core (fun c =>
    { c with fcode := none, house := if code = .page then some (c.faddr, false) else c.house, again := c.again || code = .link })

/-- The parts of a faulted access that are replayed: those refused, and all of a store, which is executed again as a whole
(R164, R173). -/
def Access.replayed (a : Access) : List Part :=
  a.parts.map (fun p => match p.stage with
    | .refused _ | .reported _ => { p with stage := .port }
    | .performed | .acked => (match a.op with
      | .store _ => { p with stage := .port, loc := none, num := none }
      | _ => p)
    | _ => p)

/-- A late cue re-tagged behind the last handler's tag; none where the microstep overflows (R326). -/
def retag (t : Thread) (c : Cue) : Option Cue :=
  if t.lastM = 0xFFFF then none
  else some { c with msg := { c.msg with tagT := t.lastT, tagM := t.lastM + 1, retag := true } }

/-- The effect of IGNORE and of RETRY beside the thread's going on (R316). -/
def State.applyAction (s : State) (tid : Nat) (f : Raised) (again : Bool) : State :=
  match f.code, f.src with
  | .late, .cue id =>
    if again then
      match (s.findCue id).bind (retag (s.thread tid)) with
      | some c => (s.modCue id (fun _ => c)).rewriteCell c
      | none => s.raiseAt tid ⟨.microstep, 0, 0, f.pc, .own⟩
    else
      match s.findCue id with
      | some c => (s.modCue id (fun c => { c with first := true, msg := { c.msg with late := true } })).rewriteCell c
      | none => s
  | .budget, _ => s.modThread tid (fun t => { t with budget := none })
  | code, .access id _ =>
    s.modAcc id (fun a => { a with again := a.again || code = .link, parts := a.replayed })
  | code, .copy core q => s.retryCopy core q code
  | code, .matrix core => s.retryMatrix core code
  | .page, .own => s.modThread tid (fun t => { t with fetchHold := some (f.data, false) })
  | .link, .own => s.modThread tid (fun t => { t with fetchAgain := true })
  | .chainTimeout, .chain tile i => s.modChain tile i (fun e => { e with retried := true, elapsed := 0 })
  | _, _ => s

/-- Whether what is replayed after PAGE still waits for the house kernel, or has been refused again (R311, R316). -/
def State.retryWaits (s : State) (tid : Nat) (src : FaultSrc) : Bool :=
  match src with
  | .access id _ => (s.findAcc id).any (fun a => a.parts.any (fun p => match p.stage with
    | .port | .walking | .queued | .house _ | .refused _ | .reported _ => true
    | _ => false))
  | .copy core q => ((s.copyQueue core q).head?).any (fun c => c.house.isSome || c.fcode.isSome)
  | .matrix core => ((s.core core).mx.head?).any (fun c => c.house.isSome || c.fcode.isSome)
  | .own => (s.thread tid).fetchHold.isSome
  | _ => false

/-- A thread goes on after its fault: in its former state, or, in a pause, in that once it is resumed; a further report is
raised next, but in a pausing context only when that goes on (R251, R312, R318). -/
def Thread.goOn (later : Bool) (t : Thread) : Thread :=
  match t.status, (if later then [] else t.reports) with
  | .paused, _ => { t with prior := t.before, raised := none, retrying := none }
  | _, [] => { t with status := t.before, raised := none, retrying := none, reissue := [] }
  | _, f :: fs => { t with raised := some f, retrying := none, reports := fs, reissue := [] }

/-- Whether a further report is taken back by a replay: it is of the access or the command that is replayed. -/
def Raised.replayedWith (r f : Raised) : Bool :=
  match f.src with
  | .access _ _ | .copy _ _ | .matrix _ => r.src.same f.src
  | _ => false

/-- IGNORE or RETRY resolves a fault (R312): the thread goes on, or still waits, faulted, for what is replayed after PAGE
(R311). A further report of the same access is replayed with it. -/
def State.resolve (s : State) (tid : Nat) (f : Raised) (again : Bool) : State :=
  let later := s.deferring tid
  (s.modThread tid (fun t =>
    let t := { t with reports := t.reports.filter (fun r => !r.replayedWith f) }
    if again && f.code = .page then { t with raised := none, retrying := some f.src } else t.goOn later)).applyAction tid f again

/-! ## Delivery (R85) -/

/-- Whether every outstanding result of a thread has been written, but for those that cannot be before the fault is over
(R85, R173, R315).
DEDUCED, unsafe: log 27. -/
def State.resultsIn (s : State) (tid : Nat) : Bool :=
  (s.outstanding tid).all (fun a => (s.stuck tid).contains a.id)

/-- Whether the delivery of a fault waits for the outstanding results: a precise fault of the instruction at the PC does
(R85); a fault that reaches the thread from outside its issue stage, and BUDGET, do not (R312, R315).
DEDUCED, unsafe: log 27. -/
def Raised.waits (f : Raised) : Bool := f.src = .own && f.code != .budget

/-- The waiting special-function requests of a thread, which complete before IGNORE or RETRY (R152). -/
def State.sfuEmpty (s : State) (tid : Nat) : Bool := (s.core (coreOf tid)).sfu.all (fun r => r.tid != tid)

/-- A CHAIN.TIMEOUT that is not retried breaks its chain with CAUSE 5 (R368, R369). -/
def State.timeoutBreak (s : State) (f : Raised) : State :=
  match f.code, f.src with
  | .chainTimeout, .chain tile i => s.breakChain tile i 5 false
  | _, _ => s

/-- The faults of a context's other threads that can be delivered now, with their verdicts. -/
def State.deliverable (s : State) (tid : Nat) : Option Raised :=
  let t := s.thread tid
  if t.status = .faulted || (t.status = .paused && t.prior = .faulted && (s.ctx t.launch.asid).state = .pausing) then
    t.raised.bind (fun f => if f.waits && !s.resultsIn tid then none else some f)
  else none

/-- Whether another fault of the context that meets this one comes first: one that reaches the root, or one that kills a wider
node around the node that this one kills (R318). -/
def State.widerFault (s : State) (tid level : Nat) : Bool :=
  let t := s.thread tid
  (s.ctxTids t.launch.asid).any (fun u => u != tid && match s.deliverable u with
    | some f => (match s.actionFor u f with
      | .root => true
      | .kill l => decide (level < l) && (s.thread u).launch = t.launch &&
          nodeIndex (s.levels u) (s.thread u).gidx l = nodeIndex (s.levels tid) t.gidx l
      | _ => false)
    | none => false)

/-- A raised fault is delivered: FAULTINFO, then containment (R85, R134, R317). Of faults that meet, the one of the widest node
comes first, and the others are found under it (R318). A thread whose access was replayed goes on once the house kernel has acted
(R311, R316).
DEDUCED, safe: log 8. -/
def execFaultDelivered (tid : Nat) (s : State) : Out :=
  let t := s.thread tid
  match s.deliverable tid, t.raised, t.retrying with
  | none, none, some src =>
    if s.retryWaits tid src || !(t.status = .faulted || t.status = .paused) then .next s
    else .next (s.modThread tid (fun t => t.goOn (s.deferring tid)))
  | none, _, _ => .next s
  | some f, _, _ =>
    let act := s.actionFor tid f
    let told := s.modThread tid (fun t => t.faultInfo f act.code)
    match act with
    | .ignore => if !s.sfuEmpty tid then .next s else .next (told.resolve tid f false)
    | .retry => if !s.sfuEmpty tid then .next s else .next (told.resolve tid f true)
    | .kill level =>
      if s.widerFault tid level then .next s
      else
        .next (((told.timeoutBreak f).modThread tid (fun t => { t with raised := none })).killNode t.launch level
          (nodeIndex (s.levels tid) t.gidx level))
    | .root => .next (((told.timeoutBreak f).modThread tid (fun t => { t with raised := none })).rootFault t.launch f.code)

/-- A kill notice, or the notice of a root fault, from another package (R279, R319). A kill of threads that an image holds meets them as
they are placed back. -/
def execKillNotice (s : State) : Out :=
  match s.takeMsg (fun m => match m with
    | .kill _ _ _ | .rootFault _ _ _ _ _ => true
    | _ => false) with
  | some (⟨_, _, _, .kill l level node⟩, s) =>
    let known := if (s.findLaunch l).isNone then { s with launches := s.launches ++ [Launch.stub l] } else s
    .next (if s.isLoaded l.asid then known.killHere l level node 2 else s)
  | some (⟨_, _, _, .rootFault asid code by' q seq⟩, s) =>
    .next (if (s.ctx asid).canFault then s.rootHere asid code by' (q, seq) else s)
  | _ => .next s

end Sys2Proof.Machine
end

