-- ==== Sys2Proof/Machine/CueEvents.lean ====
section
/-! DEFINITION. The events of cues: store, spill, hold, merge, fetch, forward, release and handler start (R321 to R336, R345 to
R348), and the end of a budget (R315). -/

namespace Sys2Proof.Machine

/-! ## Records (R320, R336) -/

/-- FLAGS of a descriptor. -/
def CueFlags (m : CueMsg) : Nat :=
  (if m.late then 1 else 0) + (if m.retag then 2 else 0) + m.wire.toNat * 4 + (if m.block then 16 else 0)

/-- The window payload: 64 bytes, zero past LEN and for a block. -/
def windowPayload (m : CueMsg) : List Byte :=
  let bs := if m.block then [] else (m.payload.take m.len).take 64
  bs ++ List.replicate (64 - bs.length) 0

/-- INLINE: the first bytes of the payload, zero-padded. -/
def inlineBytes (m : CueMsg) : List Byte :=
  let bs := (m.payload.take m.len).take 8
  bs ++ List.replicate (8 - bs.length) 0

/-- The 32-byte descriptor (R320). -/
def descBytes (m : CueMsg) : List Byte :=
  leBytes 8 m.tagT.toNat ++ leBytes 2 m.tagM.toNat ++ [m.port, BitVec.ofNat 8 (CueFlags m)] ++ leBytes 4 m.src.toNat ++
    leBytes 4 m.seq.toNat ++ leBytes 2 m.len ++ [0, 0] ++ inlineBytes m

/-- A cue cell (R336). -/
def cellBytes (m : CueMsg) (state : Nat) (block : Option Nat) : List Byte :=
  descBytes m ++ windowPayload m ++ leBytes 4 m.target ++ leBytes 2 m.launch.q ++
    [if m.block then 2 else if m.kind = 2 then 1 else 0, BitVec.ofNat 8 state] ++ leBytes 8 m.launch.seq.toNat ++
    leBytes 8 ((block.map (fun b => 64 + 128 * b)).getD 0) ++ leBytes 8 0

/-! ## The overflow area (R333, R336) -/

/-- Cells that a staged block takes. -/
def blockCells (m : CueMsg) : Nat := if m.block then (m.len + 127) / 128 else 0

/-- The cells of a context's area in use, as (first, count). -/
def State.cellsUsed (s : State) (asid : Nat) : List (Nat × Nat) :=
  let kept := (((s.ctx asid).saved.map (fun v => v.cues)).getD [])
  (s.cues.filter (fun c => c.msg.launch.asid = asid) ++ kept).flatMap (fun c =>
    (match c.cell with
     | some i => [(i, 1)]
     | none => []) ++ (match c.block with
     | some i => [(i, blockCells c.msg)]
     | none => []))

/-- The lowest run of `n` cells that overlaps none taken, from cell `i` on. -/
def freeCells (n : Nat) (taken : List (Nat × Nat)) : Nat → Nat → Nat
  | 0, i => i
  | k + 1, i =>
    match taken.find? (fun r => decide (r.1 < i + n ∧ i < r.1 + r.2)) with
    | some r => freeCells n taken k (r.1 + r.2)
    | none => i

/-- The place of a cell. -/
def State.cellVa (s : State) (asid i : Nat) : Word := (s.ctx asid).desc.ovfAddr + BitVec.ofNat 64 (64 + 128 * i)

/-- The cells of a context that must not be taken: those in use and those not yet marked free. -/
def State.cellsTaken (s : State) (asid : Nat) : List (Nat × Nat) :=
  s.cellsUsed asid ++ (s.ctx asid).ovfTodo.filterMap (fun p => match p.1 with
    | .cell i => some (i, 1)
    | _ => none)

/-- The first of the lowest run of `n` cells that is free. -/
def State.cellsFor (s : State) (asid n : Nat) : Nat := freeCells n (s.cellsTaken asid) ((s.cellsTaken asid).length + 1) 0

/-- STATE of a cue's cell (R336): awaiting placement or restore; else spilled, or with a staged block.
DESIGN CHOICE, unsafe: log 81. -/
def Cue.cellState (c : Cue) : Nat :=
  match c.place with
  | .held | .inFlight => 3
  | _ => if c.block.isSome then 2 else 1

/-- USED (R336). -/
def State.ovfUsed (s : State) (asid : Nat) : Nat := 128 * ((s.cellsUsed asid).map Prod.snd).sum

/-- The greatest use so far noted. -/
def State.notePeak (s : State) (asid : Nat) : State :=
  s.modCtx asid (fun c => { c with ovfPeak := max (s.ovfUsed asid) c.ovfPeak })

/-- The head of the area (R336). -/
def State.ovfHead (s : State) (asid : Nat) : List Byte :=
  [0x43, 0x56, 0x46, 0x01, 0, 0, 0, 0] ++ leBytes 8 (s.ovfUsed asid) ++ leBytes 8 (s.ctx asid).ovfPeak ++
    leBytes 8 (s.ctx asid).ovfSpills ++ List.replicate 32 0

/-- A write to the area; a place past its end is refused (R335). -/
def State.ovfWrite (s : State) (asid : Nat) (va : Word) (bs : List Byte) : Ag Unit :=
  let d := (s.ctx asid).desc
  if (va - d.ovfAddr).toNat + bs.length ≤ d.ovfSize then s.agentWrite asid va bs else .bad .prot va

/-- The head written again: first with the first cue that the area takes.
DESIGN CHOICE, unsafe: log 81. -/
def State.ovfSync (s : State) (asid : Nat) : Ag Unit := s.ovfWrite asid (s.ctx asid).desc.ovfAddr (s.ovfHead asid)

/-- The block of a cue given its cells of the area, where it has none; the agent is to write it there (R333). -/
def State.stageBlock (s : State) (id : Nat) : State :=
  match s.findCue id with
  | none => s
  | some c =>
    if !c.msg.block || c.block.isSome then s
    else
      let l := c.msg.launch
      let i := s.cellsFor l.asid (blockCells c.msg)
      ((s.modCue id (fun c => { c with block := some i })).ovfJob (.block i) l).notePeak l.asid

/-- A cue given a cell of the area, which the agent is to write: where the cue stands, and its key, is known at once (R332, R336). -/
def State.toCell (s : State) (id : Nat) (place : CuePlace) : State :=
  let s := s.stageBlock id
  match s.findCue id with
  | none => s
  | some c =>
    let l := c.msg.launch
    let i := s.cellsFor l.asid 1
    let s := (s.modCue id (fun c => { c with place := place, cell := some i, after := [] })).ovfJob (.cell i) l
    (s.modCtx l.asid (fun c => { c with ovfSpills := c.ovfSpills + 1 })).notePeak l.asid

/-- Whether a write of the area is still to be made. -/
def State.ovfDue (s : State) (asid : Nat) (j : OvfJob) : Bool := (s.ctx asid).ovfTodo.any (fun p => p.1 = j)

/-- How the work of the agent on a launch's cue ends; an unresolved fault faults the context, and the LAUNCH entry is the one
marked (R335). -/
def State.areaEnd (s : State) (l : LaunchId) (r : Ag Unit) (done : State → State) : State :=
  s.agentEnd l.asid r (fun _ s => done s) (fun code s => s.rootBare l.asid (codeOf code) (some (l.q, l.seq)) (l.q, l.seq))

/-- The cues of a context that are here, or kept by a save. -/
def State.areaCues (s : State) (asid : Nat) : List Cue :=
  s.cues.filter (fun c => c.msg.launch.asid = asid) ++ (((s.ctx asid).saved.map (fun v => v.cues)).getD [])

/-- What the agent writes for a job: a cue's cell, its block, or STATE 0 of a cell that no cue has (R333, R336). -/
def State.jobWrite (s : State) (asid : Nat) (j : OvfJob) : Ag Unit :=
  match j with
  | .head => .ok () s
  | .cell i =>
    (match (s.areaCues asid).find? (fun c => c.cell = some i) with
     | some c => s.ovfWrite asid (s.cellVa asid i) (cellBytes c.msg c.cellState c.block)
     | none => s.ovfWrite asid (s.cellVa asid i + 103) [0])
  | .block i =>
    match (s.areaCues asid).find? (fun c => c.block = some i) with
    | some c => s.ovfWrite asid (s.cellVa asid i) (c.msg.payload.take c.msg.len)
    | none => .ok () s

/-- The agent makes the next write to the area, and writes the head (R333, R335, R336). -/
def execOverflowUpdate (asid : Nat) (s : State) : Out :=
  match (s.ctx asid).ovfTodo with
  | [] => .next s
  | (j, l) :: rest =>
    let past := fun (s : State) => s.modCtx asid (fun c => { c with ovfTodo := rest })
    match (s.jobWrite asid j).bind (fun _ s => s.ovfSync asid) with
    | .bad code va => .next ((past s).areaEnd l (.bad code va) id)
    | r => .next (s.areaEnd l r past)

/-! ## Arrival (R326, R332, R334) -/

/-- The LATE check of an arriving cue (R326). -/
def State.lateCheck (s : State) (tid : Nat) (c : Cue) : State :=
  let t := s.thread tid
  if !c.msg.isLaunch && lexLt (tagKey c.msg.tagT c.msg.tagM) (tagKey t.lastT t.lastM) then
    s.raiseAt tid ⟨.late, 0, c.msg.tagT, t.pc, .cue c.id⟩
  else s

/-- Whether a launch can no longer take a cue. -/
def State.launchGone (s : State) (l : LaunchId) : Bool :=
  (match s.findLaunch l with
   | some a => a.state = .complete || a.state = .discarded
   | none => false) ||
  (match (s.queue l.asid l.q).entry l.seq with
   | some e => e.state = .discarded
   | none => false) || (s.queue l.asid l.q).lost.contains l.seq || (s.ctx l.asid).state = .faulted || (s.ctx l.asid).state = .absent

/-- Whether a cue that has arrived is dropped: its launch has ended, its target has retired or been killed, its target's gang has
left, or a kill keeps that from being placed (R272, R310, R319). A target that is placed and not yet cast, or whose context is
paused, is none of these. -/
def State.cueDead (s : State) (c : Cue) : Bool :=
  s.launchGone c.msg.launch || (match s.findThread c.msg.launch c.msg.target with
    | some t => (s.thread t).ended
    | none => (match s.findLaunch c.msg.launch with
      | some a => a.gangs.any (fun g => g.gone.contains s.pkg && g.threads.any (fun t => t.1 = s.pkg && t.2.2.2 = c.msg.target)) ||
          (!a.image.levels.isEmpty && a.dead.contains (nodeIndex a.image.levels c.msg.target a.image.resident))
      | none => false))

/-- Where a cue was posted: the package and tile of the sending thread, or none for a package's stage manager. -/
def State.cueFrom (s : State) (c : Cue) : Option (Nat × Nat) :=
  if c.msg.src = 0xFFFFFFFF then none
  else (s.placeOf c.msg.launch c.msg.src.toNat).map (fun p => (p.1, tileOf p.2.1))

/-- Whether an earlier cue from the same tile to the same tile is still on its way (R24): one that left before this one was
posted, or one of the same thread. -/
def State.cueBehind (s : State) (c : Cue) : Bool :=
  let goal := fun (d : Cue) => (s.placeOf d.msg.launch d.msg.target).map (fun p => (p.1, tileOf p.2.1))
  (s.cues.takeWhile (fun d => d.id != c.id)).any (fun d => d.place = .inFlight && s.allDone d.after && goal d = goal c &&
    s.cueFrom d = s.cueFrom c && (d.after = [] || (d.msg.launch = c.msg.launch && d.msg.src = c.msg.src)))

/-- A CUE packet's entry is over: its cue is stored, with the agent, or dropped (R270). -/
def State.cueArrived (s : State) (c : Cue) : State :=
  match c.sender with
  | none => s
  | some (p, q, seq) =>
    let s := s.modCue c.id (fun c => { c with sender := none })
    if p = s.pkg then s.modEntry c.msg.launch.asid q seq (fun e => { e with ended := true })
    else s.sendTo 0 p (.cueStored c.msg.launch.asid q seq)

/-- An arriving cue with the target's slot, where it is at this package's prompter's door.
DEDUCED, unsafe: log 36. -/
def State.arriving (s : State) (id : Nat) : Option (Cue × Nat) :=
  (s.findCue id).bind (fun c =>
    if c.place = .inFlight && s.allDone c.after && !s.cueBehind c then (s.findThread c.msg.launch c.msg.target).map (fun t => (c, t)) else none)

/-- An arriving cue is stored, or dropped with its target (R332, R337, R348).
DEDUCED, unsafe: log 36. -/
def execCueStore (cue : Nat) (s : State) : Out :=
  match s.findCue cue with
  | none => .next s
  | some c =>
    if c.place = .inFlight && s.allDone c.after && s.cueDead c then .next ((s.cueArrived c).dropCuesBy (fun d => d.id = cue))
    else
      match s.arriving cue with
      | none => .next s
      | some (c, tid) =>
        if !s.releases c.msg.launch.asid then .next s
        else
          match s.freeEntry tid with
          | none => .next s
          | some shared =>
            .next ((((s.stageBlock cue).modCue cue (fun c => { c with place := .stored tid, shared := shared, after := [] })).lateCheck
              tid c).cueArrived c)

/-- An arriving cue that finds no entry is spilled (R332, R336).
DEDUCED, unsafe: log 36. -/
def execCueSpill (cue : Nat) (s : State) : Out :=
  match s.arriving cue with
  | none => .next s
  | some (c, tid) =>
    if s.cueDead c || !s.releases c.msg.launch.asid || (s.freeEntry tid).isSome then .next s
    else .next (((s.toCell cue (.spilled tid)).lateCheck tid c).cueArrived c)

/-- A cue for a target that is not placed, or whose context does not release, is held (R334).
DEDUCED, unsafe: log 36. -/
def execCueHold (cue : Nat) (s : State) : Out :=
  match s.findCue cue with
  | none => .next s
  | some c =>
    let here := match s.placeOf c.msg.launch c.msg.target with
      | some (p, _, _) => p = s.pkg && !s.releases c.msg.launch.asid
      | none => true
    if c.place = .inFlight && s.allDone c.after && !s.cueDead c && !s.cueBehind c && here then
      .next ((s.toCell cue .held).cueArrived c)
    else .next s

/-- A held cue is forwarded, or dropped with its launch (R334). -/
def execCueForward (cue : Nat) (s : State) : Out :=
  match s.findCue cue with
  | none => .next s
  | some c =>
    if c.place != .held then .next s
    else if s.cueDead c then .next (s.dropCuesBy (fun d => d.id = cue))
    else if (s.placeOf c.msg.launch c.msg.target).isSome && (s.ctx c.msg.launch.asid).state = .resident then
      .next ((s.modCue cue (fun c => { c with place := .inFlight, cell := none })).staleCell c.cell c.msg.launch)
    else .next s

/-- The first spilled cue of a thread comes back as an entry is free (R332). -/
def execCueMerge (tid : Nat) (s : State) : Out :=
  match firstOf (s.cues.filter (fun c => c.place = .spilled tid)), s.freeEntry tid with
  | some c, some shared =>
    .next ((s.modCue c.id (fun c => { c with place := .stored tid, cell := none, shared := shared })).staleCell c.cell c.msg.launch)
  | _, _ => .next s

/-- A spilled cue that comes first has been fetched into the release path (R332). -/
def execSpillFetchDone (tid : Nat) (s : State) : Out :=
  match s.firstCue tid with
  | none => .next s
  | some c =>
    if c.place = .spilled tid && c.cell.all (fun i => !s.ovfDue c.msg.launch.asid (.cell i)) then
      .next (s.modCue c.id (fun c => { c with place := .fetched tid }))
    else .next s

/-! ## Release and handler start (R321, R324, R333) -/

/-- The prompter releases the first cue of an asleep thread (R324).
DEDUCED, unsafe: log 35. -/
def execCueRelease (tid : Nat) (s : State) : Out :=
  if (s.thread tid).status != .asleep || (s.thread tid).reports != [] || s.cues.any (fun c => c.place = .released tid) then .next s
  else
    match s.releasable tid with
    | some c => .next (s.modCue c.id (fun c => { c with place := .released tid }))
    | none => .next s

/-- A thread as a handler starts (R80, R315, R321, R327). -/
def Thread.startHandler (t : Thread) (m : CueMsg) (pc : Word) (budget : Nat) : Thread :=
  { t with
    status := .running, wait := none, pend := 0, pc := pc, budget := if budget = 0 then none else some budget,
    tagT := m.tagT, tagM := m.tagM, port := m.port, inHandler := true, baseT := m.tagT, baseM := m.tagM + 1,
    baseOver := m.tagM = 0xFFFF, lastT := m.tagT, lastM := m.tagM, launched := true, lastIssue := none, count := 0, gap := 0,
    perf := putAt 0 t.perf 4 (lookAt 0 t.perf 4 + 1) }

/-- The block of a cue written to its receive region, with the full bits of its granules (R333). -/
def State.deliverBlock (s : State) (core off : Nat) (m : CueMsg) : State :=
  if m.block then
    (List.range (m.len / 16)).foldl (fun (s : State) g => s.setFull core (off + 16 * g) true)
      (s.poolWrite core off (m.payload.take m.len))
  else s

/-- Whether an access of a thread to its own core's pool is still under way: the thread's next handler sees its effect (R235). -/
def State.ownPoolBusy (s : State) (tid : Nat) : Bool :=
  s.accs.any (fun a => a.tid = tid && a.parts.any (fun p => !p.performed && match s.partLoc a p with
    | some (.pool k _) => k = coreOf tid
    | _ => false))

/-- Whether the bytes that a handler start writes come in their order among the accesses of this cycle (R229). -/
def State.startTurn (s : State) (core win off : Nat) (m : CueMsg) : Bool :=
  s.inTurn core win 96 rankCue && (!m.block || s.inTurn core off m.len rankCue)
/-- The granules that a handler start writes, noted as served in this cycle. -/
def State.startServed (s : State) (core win off : Nat) (m : CueMsg) : State :=
  let s := s.serve core win 96 rankCue
  if m.block then s.serve core off m.len rankCue else s

/-- A released cue starts its handler (R348), behind the thread's own accesses to the pool (R235), and behind a fault that was
reported while it was asleep (R173). -/
def execHandlerStart (tid : Nat) (s : State) : Out :=
  if (s.thread tid).status != .asleep || (s.thread tid).reports != [] || s.ownPoolBusy tid then .next s
  else
    match s.cues.find? (fun c => c.place = .released tid), s.imageOf tid with
    | some c, some img =>
      let core := coreOf tid
      let h := (s.handlerOf tid c.msg.port.toNat).getD ⟨0, 0, 0, 0, 0⟩
      let win := areaOff (s.core core).part (tid % 4)
      if !s.startTurn core win h.recvOff c.msg || c.block.any (fun i => s.ovfDue c.msg.launch.asid (.block i)) then .next s
      else
        let s := (s.startServed core win h.recvOff c.msg).deliverBlock core h.recvOff c.msg
        let s := s.poolWrite core win (descBytes c.msg ++ windowPayload c.msg)
        let s := s.modThread tid (fun t => t.startHandler c.msg (img.codeBase + h.entry) h.budget)
        .next (s.dropCuesBy (fun d => d.id = c.id))
    | _, _ => .next s

/-- The budget of a handler has reached zero (R315): what waits is withdrawn, and a consuming load is cancelled. -/
def execBudgetExhausted (tid : Nat) (s : State) : Out :=
  let t := s.thread tid
  let live := match t.status with
    | .running | .parked | .blocked | .stalled => true
    | _ => false
  if t.budget = some 0 && t.inHandler && live then
    let s := if t.status = .blocked then s.cancelLoads tid else s
    .next (s.modThread tid (fun t => t.raiseOn ⟨.budget, 0, 0, t.pc, .own⟩))
  else .next s

end Sys2Proof.Machine
end

