-- ==== Sys2Proof/Machine/Image.lean ====
section
/-! DEFINITION. A kernel image in memory: its header, handler table and tree (R108, R109, R112, R285). -/

namespace Sys2Proof.Machine

/-- A little-endian field of a byte string. -/
def fieldOf (bs : List Byte) (off n : Nat) : Nat := leNat ((bs.drop off).take n)
/-- An 8-byte field. -/
def wordAt (bs : List Byte) (off : Nat) : Word := BitVec.ofNat 64 (fieldOf bs off 8)

/-- A handler-table entry (R108). -/
def handlerAt (bs : List Byte) : Handler :=
  ⟨fieldOf bs 0 1, fieldOf bs 4 4, wordAt bs 8, fieldOf bs 16 4, fieldOf bs 20 4⟩
/-- A level of a tree (R109). -/
def levelAt (bs : List Byte) : Level := ⟨fieldOf bs 0 1, BitVec.ofNat 8 (fieldOf bs 1 1), fieldOf bs 2 1, fieldOf bs 3 1, fieldOf bs 4 4⟩
/-- The records of a table. -/
def records (size n : Nat) (bs : List Byte) : List (List Byte) := (List.range n).map (fun i => (bs.drop (size * i)).take size)

/-- The image that a header, its handler table and its tree describe. -/
def imageOfBytes (at' : Word) (h hs tree : List Byte) : Image :=
  { header := at', codeBase := wordAt h 16, codeSize := fieldOf h 24 8, port := fieldOf h 14 1,
    handlers := (records 32 (fieldOf h 12 2) hs).map handlerAt,
    levels := (records 16 (fieldOf tree 0 1) (tree.drop 16)).map levelAt, resident := fieldOf tree 1 1,
    inputs := BitVec.ofNat 8 (fieldOf tree 2 1), partWord := wordAt h 48 }

/-- Whether the header itself is in order (R112, R285). -/
def headerGood (at' : Word) (h : List Byte) : Bool :=
  at'.toNat % 128 = 0 && h.take 4 = [0x47, 0x4B, 0x49, 0x01] && fieldOf h 4 2 = 1 && fieldOf h 6 2 = 1 &&
    (fieldOf h 8 4).testBit 1 && decide (1 ≤ fieldOf h 12 2 ∧ fieldOf h 12 2 ≤ 256) && fieldOf h 16 8 % 64 = 0 &&
    fieldOf h 24 8 % 12 = 0

/-- The header, the handler table and the tree of an image. Where the header is wrong its tables are not read. -/
def State.readImage (s : State) (asid : Nat) (at' : Word) : Ag (List Byte × List Byte × List Byte) :=
  (s.agentRead asid at' 128).bind (fun h s =>
    if !headerGood at' h then .ok (h, [], []) s
    else
      (s.agentRead asid (wordAt h 32) (32 * fieldOf h 12 2)).bind (fun hs s =>
        (s.agentRead asid (wordAt h 40) 16).bind (fun head s =>
          let n := fieldOf head 0 1
          if n = 0 || decide (16 < n) then .ok (h, hs, head) s
          else (s.agentRead asid (wordAt h 40 + 16) (16 * n)).bind (fun ls s => .ok (h, hs, head ++ ls) s))))

end Sys2Proof.Machine
end

