-- ==== Sys2Proof/Machine/QueueEvents.lean ====
section
/-! DEFINITION. The events of queues: enable and disable (R263, R278), doorbell (R264, R442), acceptance (R267, R276),
dispatch (R271), the packets CUE, COPY, COLLECTIVE-STEP, FENCE and MARK (R272 to R275), pushes (R282), and faults of the
queue's own accesses (R456). -/

namespace Sys2Proof.Machine

/-! ## Faults of the queue's accesses (R456) -/

/-- A refusal noted, for the event that faults the context.
DEDUCED, unsafe: log 37. -/
def State.noteBad (s : State) (asid : Nat) (code : FaultCode) (va : Word) : State :=
  if (s.ctx asid).agentBad.contains (va, code) then s
  else s.modCtx asid (fun c => { c with agentBad := c.agentBad ++ [(va, code)] })

/-- How work on a queue ends; a refusal is noted (R456). -/
def State.queueEnd {α : Type} (s : State) (asid : Nat) (r : Ag α) (done : α → State → State) : State :=
  match r with
  | .bad c va => s.noteBad asid c va
  | r => s.agentEnd asid r done (fun _ s => s)

/-- The sequence number that a refused address of a queue concerns; none where it is no address of the queue. -/
def State.refusedSeq (s : State) (asid q : Nat) (va : Word) : Option Word :=
  let k := s.queue asid q
  let table := s.queueEntryVa asid q
  if (va - table).toNat < 64 then some 0
  else
    match k.entries.find? (fun e => (va - e.book).toNat < 32) with
    | some e => some e.seq
    | none =>
      if (va - k.ring).toNat < 128 * k.nent then
        some (BitVec.ofNat 64 ((if va = k.ringVa k.taken then k.taken else k.write) + 1))
      else if (va - k.pbook).toNat < 32 * k.nent then some (BitVec.ofNat 64 (k.taken + 1))
      else none

/-- An unresolved fault of a queue's accesses faults the context at the root (R456).
DEDUCED, unsafe: log 37. -/
def execQueueAccessFault (asid q : Nat) (s : State) : Out :=
  match (s.ctx asid).agentBad.findSome? (fun b => (s.refusedSeq asid q b.1).map (fun seq => (b, seq))) with
  | some ((va, code), seq) => .next ((s.agentForget asid va).rootBare asid (codeOf code) none (q, seq))
  | none => .next s

/-! ## Enable and disable (R263, R277, R278) -/

/-- Whether NENT, RING and PBOOK keep the rules (R263). -/
def Queue.wellSet (k : Queue) : Bool :=
  decide (2 ≤ k.nent ∧ k.nent ≤ 65536) && 2 ^ Nat.log2 k.nent = k.nent && k.ring.toNat % 4096 = 0 && k.pbook.toNat % 4096 = 0

/-- Whether a context is loaded with its queues not parked or halted. -/
def State.queuesLive (s : State) (asid : Nat) : Bool :=
  match (s.ctx asid).state with
  | .loaded | .resident | .pausing => true
  | _ => false

/-! ### Pushed packets given up -/

/-- The access of a push ends (R226, R282). -/
def State.endPush (s : State) (acc : Nat) : State :=
  (s.modAcc acc (fun a => { a with parts := a.parts.map (fun p => { p with stage := Stage.acked }) })).settle acc

/-- A pushed packet stands in its ring at a position, or is given up: its access ends, here or on the pushing package (R226, R282). -/
def State.pushOver (s : State) (asid q : Nat) (p : Push) (pos : Option Nat) : State :=
  if p.origin = s.pkg then s.endPush p.acc else s.sendTo 0 p.origin (.pushed asid q p.acc pos)

/-- The pushed packets of a queue that are not yet in its ring given up (R278). -/
def State.dropPushes (s : State) (asid q : Nat) : State :=
  ((s.queue asid q).pushes.foldl (fun (s : State) p => if p.pos.isNone && !p.sent then s.pushOver asid q p none else s) s).modQueue
    asid q (fun k => { k with pushes := k.pushes.filter (fun p => p.sent), promised := 0 })

/-- The access to the queue table that an enable or disable needs must wait; it is made later. -/
def State.turnLater (s : State) (asid q : Nat) (n : Need) (on : Bool) : State :=
  (s.needs asid n).modQueue asid q (fun k => { k with turning := some on })
/-- An enable or disable is over. -/
def State.turned (s : State) (asid q : Nat) : State := s.modQueue asid q (fun k => { k with turning := none })
/-- The queue table cannot be read or written: the context faults at the root (R456).
DEDUCED, unsafe: log 37. -/
def State.tableFault (s : State) (asid q : Nat) (code : FaultCode) : State :=
  (s.turned asid q).rootBare asid (codeOf code) none (q, 0)

/-- The queue as its table entry `e` says, READ and a DEVICE queue's WRITE set to 0 in the table by the package that reads it (R278).
DEDUCED, unsafe: log 40. -/
def State.enabledAs (s : State) (asid q : Nat) (e : List Byte) : Ag Unit :=
  let k := s.queue asid q
  let on := (leNat ((e.drop 13).take 1)).testBit 0
  let new := { Queue.disabled.config e with
    entries := k.leftOver, pushes := k.pushes, askers := k.askers, asked := k.asked, granted := k.granted }
  if !on || !new.wellSet then .ok () (s.setQueue asid q new)
  else
    let live := { new with enabled := true, write := if new.device then 0 else leNat ((e.drop 16).take 8) }
    if live.pkg != s.pkg then .ok () (s.setQueue asid q live)
    else
      (s.agentWrites asid ((s.queueEntryVa asid q + 24, leBytes 8 0) ::
        (if live.device then [(s.queueEntryVa asid q + 16, leBytes 8 0)] else []))).bind (fun _ s => .ok () (s.setQueue asid q live))

/-- A queue is enabled as its table entry says (R278).
DEDUCED, unsafe: log 40. -/
def execQueueEnable (asid q : Nat) (s : State) : Out :=
  if (s.queue asid q).enabled || (s.ctx asid).desc.qcount ≤ q || !s.queuesLive asid then .next (s.turned asid q)
  else
    .next (match (s.agentRead asid (s.queueEntryVa asid q) 64).bind (fun e s => s.enabledAs asid q e) with
      | .wait n => s.turnLater asid q n true
      | r => s.agentEnd asid r (fun _ s => s.turned asid q) (fun code s => s.tableFault asid q code))

/-- A queue without its unread and accepted packets; what was dispatched runs on (R278). -/
def Queue.off (k : Queue) : Queue :=
  let run := (k.entries.filter (fun e => e.state = .dispatched)).map (fun e => { e with stale := true })
  { k with enabled := false, doorbell := false, turning := none, taken := 0, read := 0, write := 0, entries := run, lost := [], skipped := [] }

/-- A queue is disabled: unread and accepted packets are dropped without entries (R278). -/
def execQueueDisable (asid q : Nat) (s : State) : Out :=
  let off := fun (s : State) => (s.dropPushes asid q).modQueue asid q Queue.off
  if !(s.queue asid q).enabled then .next (s.turned asid q)
  else if !s.isLoaded asid then .next (off s)
  else
    .next (match s.agentRead asid (s.queueEntryVa asid q + 13) 1 with
      | .wait n => s.turnLater asid q n false
      | r => s.agentEnd asid r (fun b s => if (leNat b).testBit 0 then s.turned asid q else off s)
          (fun code s => s.tableFault asid q code))

/-- A doorbell: the stage manager reads WRITE (R264, R442). A DEVICE queue's WRITE is the agent's own. -/
def execDoorbell (asid q : Nat) (s : State) : Out :=
  let k := s.queue asid q
  if !k.enabled || k.pkg != s.pkg || k.device then .next s
  else
    match s.agentRead asid (s.queueEntryVa asid q + 16) 8 with
    | .ok b s => .next ((s.agentDone asid).modQueue asid q (fun k => { k with write := leNat b, doorbell := false }))
    | .wait n => .next ((s.needs asid n).modQueue asid q (fun k => { k with doorbell := true }))
    | .bad c va => .next (s.noteBad asid c va)

/-! ## Acceptance (R267, R276, R288) -/

/-- Whether bytes are all zero. -/
def zeros (p : List Byte) (off n : Nat) : Bool := ((p.drop off).take n).all (fun b => b = 0)

/-- The header rules of R267. -/
def headerOk (qcount q : Nat) (e : QEntry) : Bool :=
  decide (1 ≤ e.kind ∧ e.kind ≤ 8) && e.field 1 1 / 8 = 0 && zeros e.packet 4 4 && zeros e.packet 24 8 &&
    (!(e.field 1 1).testBit 1 || (decide (e.field 2 2 < qcount) && !(e.field 2 2 = q && decide (e.seq.toNat ≤ e.field 8 8))))

/-- The COPY body (R274): the descriptor of a GO2 and MODE.
DEDUCED, unsafe: log 41. -/
def copyBodyOk (e : QEntry) : Bool :=
  let al := fun (off : Nat) => e.field off 8 % 16 = 0
  al 32 && al 40 && al 48 && al 56 && zeros e.packet 72 8 && decide (16 ≤ e.field 64 4 ∧ e.field 64 4 ≤ 2 ^ 20) &&
    e.field 64 4 % 16 = 0 && decide (1 ≤ e.field 68 4 ∧ e.field 68 4 ≤ 65536) && decide (e.field 96 1 / 4 % 8 ≤ 3) &&
    e.field 96 1 / 64 = 0 && zeros e.packet 97 31 && spaceOf (BitVec.ofNat 64 (e.field 32 8)) != .own &&
    spaceOf (BitVec.ofNat 64 (e.field 40 8)) != .own

/-- The body rules (R272 to R275, R287, R288); `push` holds the levels allowed to a pushed LAUNCH.
DEDUCED, unsafe: log 41. -/
def bodyOk (qcount vcmask : Nat) (device : Bool) (push : Option (Nat × Nat)) (e : QEntry) : Bool :=
  match e.kind with
  | 1 =>
    let plevel := e.field 56 1
    zeros e.packet 57 1 && zeros e.packet 72 56 &&
      (if device then plevel = 0xFF || (match push with
        | some (lo, hi) => decide (lo ≤ plevel ∧ plevel ≤ hi)
        | none => false)
       else plevel = 0xFF && zeros e.packet 58 14)
  | 2 => decide (e.field 37 1 ≤ 8) && zeros e.packet 58 6 && zeros e.packet 72 56 && decide (e.field 56 2 < qcount)
  | 3 => copyBodyOk e
  | 4 =>
    let vc := e.field 33 1
    decide (e.field 32 1 ≤ 2) && (vc = 3 || (decide (4 ≤ vc ∧ vc ≤ 7) && vcmask.testBit (vc - 4))) && e.field 34 2 / 2048 = 0 &&
      e.field 56 8 % 64 = 0 && decide (64 ≤ e.field 56 8 ∧ e.field 56 8 ≤ 2 ^ 32) && zeros e.packet 64 64
  | 6 => e.field 32 8 % 8 = 0 && zeros e.packet 48 80
  | 7 => e.field 34 1 / 2 = 0 && zeros e.packet 35 93
  | _ => zeros e.packet 32 96

/-- Entries of a table owned by a context (R30, R212, R423). -/
def ownSlots (m : SMap SlotEntry) (asid own lend : Nat) : SMap SlotEntry :=
  (List.range 16).foldl (fun m n => if own.testBit n then putAt SlotEntry.unowned m n ⟨some asid, lend.testBit n⟩ else m) m
/-- A context's entries of a table rewritten as unowned. -/
def disownSlots (m : SMap SlotEntry) (asid : Nat) : SMap SlotEntry := m.filter (fun p => p.2.owner != some asid)

/-- The slot tables of the package written for a context that becomes resident (R251). -/
def State.writeTables (s : State) (asid : Nat) : State :=
  let d := (s.ctx asid).desc
  let s := if d.mxown = 0 then s else (List.range 1280).foldl (fun (s : State) t =>
    s.modTile t (fun x => { x with slots := ownSlots x.slots asid d.mxown d.mxlend })) s
  let s := if d.drown = 0 then s else (List.range 256).foldl (fun (s : State) c =>
    s.setChannel c { s.channel c with slots := ownSlots (s.channel c).slots asid d.drown d.drlend }) s
  if d.lkown = 0 then s else (List.range 64).foldl (fun (s : State) p =>
    s.modPort p (fun x => { x with slots := ownSlots x.slots asid d.lkown d.lklend })) s

/-- The tables without a context's entries (R251). -/
def State.clearTables (s : State) (asid : Nat) : State :=
  let tiles := mapVals (fun (t : Tile) => { t with slots := disownSlots t.slots asid }) s.tiles
  let channels := mapVals (fun (c : Channel) => { c with slots := disownSlots c.slots asid }) s.channels
  { s with
    tiles := tiles.filter (fun p => p.2 != Tile.idle)
    channels := channels.filter (fun p => p.2 != Channel.idle)
    ports := (mapVals (fun (p : Port) => { p with slots := disownSlots p.slots asid }) s.ports).filter (fun p => p.2 != Port.off) }

/-- Whether a queue's next packet may be read in the context's state (R276): any packet, or only a RESUME. -/
def State.mayRead (s : State) (asid : Nat) : Option Bool :=
  match (s.ctx asid).state with
  | .resident | .pausing => some true
  | .loaded => if s.hotDies.isEmpty then some true else none
  | .paused => some false
  | _ => none

/-- The pushed packet at a position. -/
def Queue.pushAt (k : Queue) (w : Nat) : Option Push := k.pushes.find? (fun p => p.pos = some w)

/-! ## What a CUE packet names (R267, R272, R337) -/

/-- The image of the launch that an entry names, where it is known or can be read: from the launch's own record, or from the
packet in the ring and its image header. -/
def State.namedImage (s : State) (asid q : Nat) (seq : Word) : Ag (Option Image) :=
  match (s.findLaunch ⟨asid, q, seq⟩).filter (fun a => !a.image.levels.isEmpty) with
  | some a => .ok (some a.image) s
  | none =>
    let k := s.queue asid q
    if !k.enabled then .ok none s
    else
      (s.agentRead asid (k.ringVa (seq.toNat - 1)) 128).bind (fun p s =>
        let at' := wordAt p 32
        match s.readImage asid at' with
        | .ok t s => .ok (if headerGood at' t.1 then some (imageOfBytes at' t.1 t.2.1 t.2.2) else none) s
        | .wait n => .wait n
        | .bad _ _ => .ok none s)

/-- Whether the entry that a CUE packet names holds LSEQ, is a LAUNCH and has not ended: as this package's records say, or the
prompt book of a queue that another package reads. -/
def State.namedLaunch (s : State) (asid : Nat) (e : QEntry) : Ag Bool :=
  let lq := e.field 56 2
  let seq := BitVec.ofNat 64 (e.field 64 8)
  let k := s.queue asid lq
  if (s.ctx asid).desc.qcount ≤ lq || !k.enabled || seq = 0 then .ok false s
  else if k.pkg = s.pkg then .ok ((k.entry seq).any (fun f => f.kind = 1 && !f.finished)) s
  else (s.agentRead asid (k.bookVa (seq.toNat - 1)) 16).bind (fun bs s =>
    .ok (leNat (bs.take 8) = seq.toNat && decide (fieldOf bs 12 1 < 2) && fieldOf bs 14 1 = 1) s)

/-- Whether the launch that a CUE packet names is there, and has the target (R272). -/
def State.cueNames (s : State) (asid : Nat) (e : QEntry) : Ag Bool :=
  (s.namedLaunch asid e).bind (fun there s =>
    if !there then .ok false s
    else (s.namedImage asid (e.field 56 2) (BitVec.ofNat 64 (e.field 64 8))).bind (fun i s =>
      .ok (i.all (fun i => decide (e.field 32 4 < threadCount i.levels))) s))

/-- Whether the port of a CUE packet has an entry in the handler table of the launch that it names (R267, R337). -/
def State.cuePortOk (s : State) (asid : Nat) (e : QEntry) : Ag Bool :=
  if e.kind != 2 then .ok true s
  else (s.namedLaunch asid e).bind (fun there s =>
    if !there then .ok true s
    else (s.namedImage asid (e.field 56 2) (BitVec.ofNat 64 (e.field 64 8))).bind (fun i s =>
      .ok (i.all (fun i => i.handlers.any (fun h => h.port = e.field 36 1))) s))

/-! ## Acceptance of a packet -/

/-- The stage manager accepts the next packet of a queue (R267, R268, R276); the first packet of a loaded context activates it
(R251).
DEDUCED, unsafe: log 40. -/
def execPacketAccept (asid q : Nat) (s : State) : Out :=
  let k := s.queue asid q
  match s.mayRead asid with
  | none => .next s
  | some any =>
    let full := decide (64 ≤ k.entries.countP (fun e => e.state = .accepted))
    if !k.enabled || k.pkg != s.pkg || k.write ≤ k.taken || (any && full) || k.read + k.nent ≤ k.taken ||
        (k.entry (BitVec.ofNat 64 (k.taken + 1))).isSome then .next s
    else
      .next (s.queueEnd asid ((s.agentRead asid (k.ringVa k.taken) 128).bind (fun bs s =>
        let e : QEntry := { seq := BitVec.ofNat 64 (k.taken + 1), state := .accepted, code := 0, packet := bs, tacc := s.time,
                            book := k.bookVa k.taken, urgent := !any, stale := false, acted := false, ended := false, progress := 0 }
        let stamped := fun (s : State) (e : QEntry) => { e with tacc := s.stampAt asid e.book ((e.bytes k.nent 0).take 16) 16 }
        if !any && e.kind != 8 then .ok () s
        else (s.cuePortOk asid e).bind (fun port s =>
          let s := if (s.ctx asid).state = .loaded then (s.modCtx asid (fun c => { c with state := .resident })).writeTables asid
            else s
          let d := (s.ctx asid).desc
          let push := (k.pushAt k.taken).map (fun p => (p.level, p.top))
          let ok := headerOk d.qcount q e && bodyOk d.qcount d.vcmask k.device push e && port
          let e := stamped s (if ok then e else { e with state := .discarded, code := 0x50, ended := true })
          let s := s.setQueue asid q { k with taken := k.taken + 1, entries := k.entries ++ [e],
                                              pushes := k.pushes.filter (fun p => p.pos != some k.taken) }
          s.putEntry asid q e))) (fun _ s => s))

/-! ## Dispatch (R271, R276) -/

/-- Whether a packet must wait for every earlier entry of its queue.
DEDUCED, unsafe: log 38. -/
def QEntry.ordered (e : QEntry) : Bool := (e.field 1 1).testBit 0 || e.kind = 4 || e.kind = 5 || e.kind = 6 || e.kind = 7

/-- The state of the entry that a packet waits on, if it is finished: some true where it is complete. Of a queue that another package
reads, what that package has told of discarded entries counts before its prompt book.
DEDUCED, unsafe: log 38. -/
def State.awaited (s : State) (asid : Nat) (e : QEntry) : Ag (Option Bool) :=
  let seq := BitVec.ofNat 64 (e.field 8 8)
  (s.queueView asid (e.field 2 2)).bind (fun k s =>
    if seq = 0 || k.skips seq then .ok none s
    else if k.lost.contains seq then .ok (some false) s
    else if k.pkg != s.pkg then
      (s.agentRead asid (k.bookVa (e.field 8 8 - 1)) 16).bind (fun bs s =>
        let at' := leNat (bs.take 8)
        let st := leNat ((bs.drop 12).take 1)
        .ok (if seq.toNat < at' then some true else if at' = seq.toNat && 2 ≤ st then some (st = 2) else none) s)
    else if seq.toNat ≤ k.read then .ok (some true) s
    else .ok (match k.entry seq with
      | some f => if f.finished then some (f.state = .complete) else none
      | none => none) s)

/-- The head packet of a queue: a RESUME that was accepted in a paused context, else the first accepted one, none before it being only
accepted. In a paused context what was accepted before the pause stays accepted (R276, R278). -/
def Queue.head (k : Queue) (paused : Bool) : Option QEntry :=
  match k.entries.find? (fun e => e.state = .accepted && e.urgent) with
  | some e => some e
  | none => if paused then none else k.entries.find? (fun e => e.state = .accepted)

/-- Whether a head packet is ready: some true to dispatch it, some false to discard it with DEPENDENCY (R271). A RESUME read in a
paused context is ready at once (R276). -/
def State.headReady (s : State) (asid q : Nat) (e : QEntry) : Ag (Option Bool) :=
  let k := s.queue asid q
  let before := k.counted.filter (fun f => decide (f.seq.toNat < e.seq.toNat))
  if e.urgent then .ok (some true) s
  else
    let bad := e.ordered && (k.lost != [] || before.any (fun f => f.state = .discarded))
    let busy := e.ordered && before.any (fun f => f.state != .complete)
    if bad then .ok (some false) s
    else if (e.field 1 1).testBit 1 then
      (s.awaited asid e).bind (fun r s => .ok (match r with
        | some false => some false
        | some true => if busy then none else some true
        | none => none) s)
    else .ok (if busy then none else some true) s

/-- What a look at the heads of the queues finds: those that are ready, as (class, key, entry, dispatch or discard), what others wait
for, and the package after the reads. -/
structure Heads where
  s     : State
  ready : List (Nat × Nat × QEntry × Bool)
  waits : List (Nat × Need)

/-- The queues whose head is ready. -/
def State.readyHeads (s : State) : Heads :=
  s.queues.foldl (fun (r : Heads) p =>
    let asid := p.1 / 256
    let q := p.1 % 256
    let live := match (s.ctx asid).state with
      | .resident | .pausing | .paused => true
      | _ => false
    if !p.2.enabled || !live then r
    else
      match p.2.head ((s.ctx asid).state = .paused) with
      | none => r
      | some e =>
        match r.s.headReady asid q e with
        | .ok b s' => { r with s := s'.agentDone asid, ready := r.ready ++ (b.map (fun go => (p.2.cls, p.1, e, go))).toList }
        | .wait n => { r with waits := r.waits ++ [(asid, n)] }
        | .bad _ _ => r) ⟨s, [], []⟩

/-- A launch recorded, any earlier one of the same name forgotten. -/
def State.addLaunch (s : State) (a : Launch) : State :=
  { s with launches := s.launches.filter (fun b => b.id != a.id) ++ [a] }

/-- The launch tag time of a LAUNCH that is dispatched now (R289). -/
def State.launchTag (s : State) (asid : Nat) (e : QEntry) : Nat :=
  if e.field 48 8 = 2 ^ 64 - 1 then s.logical asid else e.field 48 8

/-- A dispatched LAUNCH is being checked, its launch tag fixed (R289, R303). -/
def State.checkLaunch (s : State) (asid q : Nat) (e : QEntry) : State :=
  if e.kind = 1 then
    s.addLaunch { Launch.stub ⟨asid, q, e.seq⟩ with
      state := .checking, home := s.pkg, args := BitVec.ofNat 64 (e.field 40 8), tagT := BitVec.ofNat 64 (s.launchTag asid e) }
  else s

/-- One ready packet is dispatched: lowest class, then the next queue in ascending index after the one served last (R271). A LAUNCH
whose tag time lies below the logical clock is discarded (R289). -/
def execDispatchOpportunity (s : State) : Out :=
  let heads := s.readyHeads
  let s := heads.waits.foldl (fun (s : State) n => s.needs n.1 n.2) heads.s
  match (heads.ready.map (fun h => h.1)).min? with
  | none => .next s
  | some cls =>
    let of := heads.ready.filter (fun h => h.1 = cls)
    match nextAfter (lookAt 0 s.lastServed cls) (of.map (fun h => h.2.1)) with
    | none => .next s
    | some key =>
      match of.find? (fun h => h.2.1 = key) with
      | none => .next s
      | some (_, _, e, go) =>
        let asid := key / 256
        let q := key % 256
        let late := e.kind = 1 && decide (s.launchTag asid e < s.logical asid)
        let r := if !go then s.endEntry asid q e.seq .discarded 0x52
          else if late then s.endEntry asid q e.seq .discarded 0x11
          else (s.putEntry asid q { e with state := .dispatched }).bind (fun _ s => .ok () (s.checkLaunch asid q e))
        .next (s.queueEnd asid r (fun _ s => { s with lastServed := putAt 0 s.lastServed cls key }))

/-! ## Packets (R272 to R275) -/

/-- The first dispatched entry of a kind whose work has not ended. -/
def Queue.working (k : Queue) (kind : Nat) : Option QEntry :=
  k.entries.find? (fun e => e.state = .dispatched && e.kind = kind && !e.ended)

/-- A CUE packet posts its cue, or is discarded (R272). A target on another package is judged by that package's clock, which differs
from this one's by no more than EDOM (R246): by how much is left free.
DEDUCED, unsafe: log 78. -/
def execCuePacket (asid q : Nat) (s : State) : Out :=
  match (s.queue asid q).entries.find? (fun e => e.state = .dispatched && e.kind = 2 && !e.acted) with
  | none => .next s
  | some e =>
    let l : LaunchId := ⟨asid, e.field 56 2, BitVec.ofNat 64 (e.field 64 8)⟩
    let edom := (s.ctx asid).desc.edom
    let clock := match s.placeOf l (e.field 32 4) with
      | some (p, _, _) => if p = s.pkg then s.logical asid
          else s.logical asid + (Config.freeWord s.fresh).toNat % (2 * edom + 1) - edom
      | none => s.logical asid
    .next (s.queueEnd asid ((s.cueNames asid e).bind (fun good s => (s.cuePortOk asid e).bind (fun port s =>
      if !(good && port) then s.endEntry asid q e.seq .discarded 0x50
      else if e.field 40 8 < clock then s.endEntry asid q e.seq .discarded 0x11
      else
        let msg : CueMsg :=
          { launch := l, target := e.field 32 4,
            tagT := BitVec.ofNat 64 (e.field 40 8), tagM := BitVec.ofNat 16 (e.field 38 2), port := BitVec.ofNat 8 (e.field 36 1),
            late := false, retag := false, wire := 0, block := false, src := 0xFFFFFFFF, seq := e.seq.setWidth 32,
            len := e.field 37 1, payload := (e.packet.drop 48).take 8, kind := 0, isLaunch := false }
        let id := s.nextId
        .ok () ((((s.post msg []).modCue id (fun c => { c with sender := some (s.pkg, q, e.seq) })).modEntry asid q e.seq (fun e =>
          { e with acted := true, progress := id })))))) (fun _ s => { s with fresh := s.fresh + 1 }))

/-- The command of a COPY packet (R274). -/
def packetCopy (e : QEntry) : CopyCmd :=
  let w := fun (off : Nat) => BitVec.ofNat 64 (e.field off 8)
  { fn := 2, qmask := 0, tid := 0, state := .running, wire := e.field 96 1 % 4, rnd := e.field 96 1 / 4 % 8,
    sat := (e.field 96 1).testBit 5, port := 0, progress := e.progress, src := w 32, dst := w 40, sstride := w 48,
    dstride := w 56, rowBytes := e.field 64 4, rows := e.field 68 4, index := 0, pattern := 0, id := 0, cue := none, pc := 0,
    faddr := 0, fcode := none, house := none, pendOp := none, got := none, index1 := none, old := [], saving := none,
    num := none, again := false, after := [] }

/-- Sixteen bytes read, and written, by the stage manager's copy channel in any space; those of a pool in their order within the cycle
(R229). -/
def State.channelRead (s : State) (asid : Nat) (va : Word) : Ag (List Byte) :=
  if spaceOf va = .virt then s.agentRead asid va 16
  else
    match s.engineLoc 0 asid va false with
    | (s, .loc l) => if s.locTurn rankCopy l then .ok (s.readLoc l 16) (s.locServed rankCopy l) else .wait .turn
    | (_, .bad c) => .bad c va
    | (_, .house p) => .wait (.house va p)
    | (_, .busy) => .wait .turn
def State.channelWrite (s : State) (asid : Nat) (va : Word) (bs : List Byte) : Ag Unit :=
  if spaceOf va = .virt then s.agentWrite asid va bs
  else
    match s.engineLoc 0 asid va true with
    | (s, .loc (.pool k off)) =>
      if s.locTurn rankCopy (.pool k off) then
        .ok () (((s.poolWrite k off bs).setFull k off true).locServed rankCopy (.pool k off))
      else .wait .turn
    | (_, .bad c) => .bad c va
    | (_, .house p) => .wait (.house va p)
    | (_, .busy) => .wait .turn
    | (s, .loc _) => .ok () s

/-- A packet whose access is refused is discarded with the fault's code.
DEDUCED, unsafe: log 37. -/
def State.packetFail (s : State) (asid q : Nat) (seq : Word) (code : FaultCode) : State :=
  s.queueEnd asid (s.endEntry asid q seq .discarded (codeOf code)) (fun _ s => s)

/-- The copy channel retires the next unit of a COPY packet; its remote operations go on VC 3 (R274, R422). A unit reads what the units
before it have written.
DESIGN CHOICE, unsafe: log 95. -/
def execCopyPacket (asid q : Nat) (s : State) : Out :=
  match (s.queue asid q).working 3 with
  | none => .next s
  | some e =>
    let c := packetCopy e
    if c.units ≤ e.progress then .next (s.modEntry asid q e.seq (fun e => { e with ended := true }))
    else
      .next (s.agentEndOn 3 asid ((s.channelRead asid (c.srcAt e.progress 0)).bind (fun bs s =>
        s.channelWrite asid (c.dstAt e.progress 0) (c.convert bs)))
        (fun _ s => s.modEntry asid q e.seq (fun e => { e with progress := e.progress + 1, ended := e.progress + 1 = c.units }))
        (fun code s => s.packetFail asid q e.seq code))

/-- Sums of two runs of FP32 words (R273). -/
def addBytes (a b : List Byte) : List Byte := bytesOf (addWords (wordsOf a) (wordsOf b)).1

/-- A COLLECTIVE-STEP packet sends its next 64 bytes or sets its next word, sends its notice, or meets its acknowledgement (R273). -/
def execCollectiveStep (asid q : Nat) (s : State) : Out :=
  match (s.queue asid q).working 4 with
  | none => .next s
  | some e =>
    let vc := e.field 33 1
    let peer := e.field 34 2
    let step := BitVec.ofNat 32 (e.field 36 4)
    let len := e.field 56 8
    let at' := fun (base : Nat) => BitVec.ofNat 64 (base + e.progress)
    let local' := at' (e.field 40 8)
    let stage := at' (e.field 48 8)
    let moved := fun (n : Nat) (s : State) => s.modEntry asid q e.seq (fun e =>
      { e with progress := e.progress + n, ended := e.field 32 1 != 0 && e.progress + n = len })
    let fail := fun (code : FaultCode) (s : State) => s.packetFail asid q e.seq code
    if e.field 32 1 = 0 then
      if (s.linkTo peer).isNone then .next (s.packetFail asid q e.seq .link)
      else if e.progress < len then
        .next (s.agentEnd asid (s.agentRead asid local' 64) (fun bs s => moved 64 (s.sendTo vc peer (.collData asid step stage bs))) fail)
      else if !e.acted then
        .next ((s.sendTo vc peer (.collNotice asid step)).modEntry asid q e.seq (fun e => { e with acted := true }))
      else
        match s.inbox.find? (fun m => m.src = peer && m.msg = .collAck asid step) with
        | some m => .next ({ s with inbox := s.inbox.erase m }.modEntry asid q e.seq (fun e => { e with ended := true }))
        | none => .next s
    else if !e.acted then
      if (s.ctx asid).notices.contains (peer, step) then
        .next ((s.modCtx asid (fun c => { c with notices := c.notices.erase (peer, step) })).modEntry asid q e.seq (fun e =>
          { e with acted := true }))
      else .next s
    else
      .next (s.agentEnd asid ((s.agentRead asid stage 4).bind (fun b s =>
        if e.field 32 1 = 1 then (s.agentRead asid local' 4).bind (fun a s => s.agentWrite asid local' (addBytes a b))
        else s.agentWrite asid local' b)) (fun _ s => moved 4 s) fail)

/-- Data and notices of collective steps that have come in (R273): data are written at the staging address, a notice is held
and acknowledged. -/
def execArrivalNotice (s : State) : Out :=
  match s.takeMsg (fun m => match m with
    | .collData _ _ _ _ | .collNotice _ _ => true
    | _ => false) with
  | some (⟨_, _, _, .collData asid _ va bs⟩, s') =>
    (match s'.agentWrite asid va bs with
     | .ok _ s => .next (s.agentDone asid)
     | .wait n => .next (s.needs asid n)
     | .bad _ va => .next (s'.agentForget asid va))
  | some (⟨_, src, vc, .collNotice asid step⟩, s) =>
    .next ((s.modCtx asid (fun c => { c with notices := c.notices ++ [(src, step)] })).sendTo vc src (.collAck asid step))
  | _ => .next s

/-- A FENCE is complete on dispatch (R275): code that no queue names any more may have been replaced (R113).
DESIGN CHOICE, unsafe: log 77. -/
def execFencePacket (asid q : Nat) (s : State) : Out :=
  match (s.queue asid q).working 5 with
  | none => .next s
  | some e =>
    let s := (s.ctx asid).peers.foldl (fun (s : State) p => s.sendTo 1 p (.refresh asid q)) (s.fenceCode asid q)
    .next (s.modEntry asid q e.seq (fun e => { e with acted := true, ended := true }))

/-- A MARK stores its value (R275). -/
def execMark (asid q : Nat) (s : State) : Out :=
  match (s.queue asid q).working 6 with
  | none => .next s
  | some e =>
    .next (s.agentEnd asid (s.agentWrite asid (BitVec.ofNat 64 (e.field 32 8)) ((e.packet.drop 40).take 8))
      (fun _ s => s.modEntry asid q e.seq (fun e => { e with acted := true, ended := true }))
      (fun code s => s.packetFail asid q e.seq code))

/-! ## Pushes (R282, R288) -/

/-- A pushed packet with the pushing thread's identity, where it is a LAUNCH (R288). -/
def Push.bytes (p : Push) : List Byte :=
  if leNat (p.packet.take 1) = 1 then
    p.packet.take 58 ++ leBytes 2 p.launch.q ++ leBytes 4 p.gidx ++ leBytes 8 p.launch.seq.toNat ++ p.packet.drop 72
  else p.packet

/-- Whether a pushed packet is a LAUNCH attached to the pushing thread's tree (R288, R301). -/
def Push.attached (p : Push) : Bool := leNat (p.packet.take 1) = 1 && leNat ((p.packet.drop 56).take 1) != 0xFF

/-- A pushed packet for a queue that another package reads is sent there; a record of an attached child stays (R282, R301). -/
def State.sendPush (s : State) (asid q : Nat) (p : Push) : State :=
  let k := s.queue asid q
  let rest := k.pushes.erase p
  (s.setQueue asid q { k with pushes := rest ++ (if p.attached then [{ p with sent := true }] else []) }).sendTo 2 k.pkg
    (.push asid q p.packet p.launch p.gidx p.level p.top p.acc)

/-- The memory-side agent writes the first pushed packet to the ring and advances WRITE, or sends it to the package that reads the
queue, whose agent does so (R264, R282).
DEDUCED, unsafe: log 40. -/
def execQueuePushWrite (asid q : Nat) (s : State) : Out :=
  let k := s.queue asid q
  match k.pushes.find? (fun p => p.pos.isNone && !p.sent) with
  | none => .next s
  | some p =>
    if !s.allDone p.after then .next s
    else if k.pkg != s.pkg then .next (if k.enabled && (s.linkTo k.pkg).isSome then s.sendPush asid q p else s)
    else if k.read + k.nent ≤ k.write then .next s
    else
      .next (s.queueEnd asid (s.agentWrites asid [(k.ringVa k.write, p.bytes), (s.queueEntryVa asid q + 16, leBytes 8 (k.write + 1))])
        (fun _ s => (s.setQueue asid q { k with
          write := k.write + 1, pushes := k.pushes.erase p ++ [{ p with pos := some k.write }] }).pushOver asid q p (some k.write)))

/-- A package on which a push waits for room asks for it, once (R282).
DESIGN CHOICE, unsafe: log 83. -/
def execPushAsk (asid q : Nat) (s : State) : Out :=
  let k := s.queue asid q
  let waits := s.tids.any (fun t => (s.thread t).launch.asid = asid && (s.thread t).wait = some (.pushRoom q))
  if k.pkg = s.pkg || k.asked || k.granted != 0 || !waits || (s.linkTo k.pkg).isNone then .next s
  else .next ((s.modQueue asid q (fun k => { k with asked := true })).sendTo 0 k.pkg (.pushAsk asid q))

/-- The package that reads a queue promises room in its ring to the first package that has asked (R282).
DESIGN CHOICE, unsafe: log 83. -/
def execPushGrant (asid q : Nat) (s : State) : Out :=
  let k := s.queue asid q
  match k.askers with
  | [] => .next s
  | p :: rest =>
    if k.pkg = s.pkg && k.enabled && k.pushRoom && (s.linkTo p).isSome then
      .next ((s.setQueue asid q { k with askers := rest, promised := k.promised + 1 }).sendTo 0 p (.pushRoom asid q))
    else .next s

end Sys2Proof.Machine
end

