-- ==== Sys2Proof/Machine/LaunchEvents.lean ====
section
/-! DEFINITION. Launches: the image (R285, R286), its checks (R112, R290 to R295), placement (R297, R298), the casting tree
(R299, R300), gangs that leave, and the completion of prompt book entries (R270, R301, R458). -/

namespace Sys2Proof.Machine

/-! ## The checks of an image (R103, R104, R112) -/

/-- Whether a receive region keeps the rules (R104). -/
def recvGood (w : Word) (h : Handler) : Bool :=
  h.recvSize = 0 || (h.recvSize % 16 = 0 && decide (16 ≤ h.recvSize ∧ h.recvSize ≤ 4096) && h.recvOff % 16 = 0 &&
    decide (h.recvOff + h.recvSize ≤ partScr w * 1024))

/-- Whether ports rise strictly. -/
def rising : List Nat → Bool
  | a :: b :: l => decide (a < b) && rising (b :: l)
  | _ => true

/-- LAUNCH.IMAGE, beside the header (R112). -/
def imageGood (i : Image) : Bool :=
  i.handlers.all (fun h => validIn i.codeBase i.codeSize (i.codeBase + h.entry) && recvGood i.partWord h) &&
  decide (1 ≤ i.levels.length ∧ i.levels.length ≤ 16) && decide (i.resident < i.levels.length) &&
  i.levels.all (fun l => decide (l.bind < 9) && l.fan != 0) && (i.inputs.getLsbD 0 || i.inputs.getLsbD 1) &&
  rising (i.handlers.map (fun h => h.port)) && i.handlers.any (fun h => h.port = i.port)

/-- Whether a partition word keeps the rules (R103). -/
def partGood (w : Word) : Bool :=
  decide (2 ≤ partXn w ∧ partXn w ≤ 16) && decide (partVn w ≤ 8) && decide (partScr w ≤ 384) && decide (partAcc w ≤ 5) &&
    bitsAt w 23 41 = 0 && decide (partTotal w ≤ poolSize)

/-! ## Signatures (R110, R112, R286) -/

/-- A digest from its 32 bytes. -/
def digestOf (bs : List Byte) : BitVec 256 := BitVec.ofNat 256 (leNat bs)

/-- The contents and the place of a section of a GOF file (R105, R106). -/
def gofSection (file : List Byte) (ty : Nat) : Option (Nat × List Byte) :=
  ((records 40 (fieldOf file 12 2) (file.drop (fieldOf file 16 8))).find? (fun e => fieldOf e 0 2 = ty)).map (fun e =>
    (fieldOf e 8 8, (file.drop (fieldOf e 8 8)).take (fieldOf e 16 8)))

/-- A byte string with a run of bytes replaced. -/
def splice (bs : List Byte) (off : Nat) (new : List Byte) : List Byte := bs.take off ++ new ++ bs.drop (off + new.length)

/-- The digest that a signature covers (R110). -/
def signedDigest (file : List Byte) (sigOff : Nat) : BitVec 256 :=
  Config.sm3 (splice (splice file sigOff (List.replicate 96 0)) 8 (leBytes 4 (fieldOf file 8 4 ||| 4)))

/-- Whether a file is signed by one of the keys, with a signature that verifies. -/
def signatureGood (keys : List (List Byte)) (file : List Byte) : Bool :=
  match gofSection file 13 with
  | some (off, sig) => (fieldOf file 8 4).testBit 2 && keys.contains (sig.take 32) &&
      Config.sm2Verify (digestOf (sig.take 32)) (signedDigest file off) (BitVec.ofNat 512 (leNat ((sig.drop 32).take 64)))
  | none => false

/-- A tree with its NAME fields taken as zero. -/
def noNames (depth : Nat) (tree : List Byte) : List Byte :=
  tree.take 16 ++ (records 16 depth (tree.drop 16)).flatMap (fun l => splice l 8 [0, 0, 0, 0])

/-- Whether the file's sections are those of the image (R286). -/
def sectionsMatch (file code hs tree : List Byte) (partWord : Word) : Bool :=
  (gofSection file 1).map Prod.snd = some code && (gofSection file 9).map Prod.snd = some hs &&
  (gofSection file 10).map (fun p => noNames (fieldOf tree 0 1) p.2) = some (noNames (fieldOf tree 0 1) tree) &&
  (gofSection file 11).map (fun p => wordAt p.2 0) = some partWord

/-- LAUNCH.SIGN (R112, R286): some true where the image is admitted. -/
def State.signGood (s : State) (asid : Nat) (h hs tree : List Byte) : Ag Bool :=
  let d := (s.ctx asid).desc
  if !d.flags.testBit 1 then .ok true s
  else if !(fieldOf h 8 4).testBit 0 then .ok false s
  else
    (s.agentRead asid d.keytab (32 * d.keycount)).bind (fun keys s =>
      (s.agentRead asid (wordAt h 56) (fieldOf h 64 8)).bind (fun file s =>
        (s.agentRead asid (wordAt h 16) (fieldOf h 24 8)).bind (fun code s =>
          .ok (signatureGood (records 32 d.keycount keys) file && sectionsMatch file code hs tree (wordAt h 48)) s)))

/-! ## The checks of a tree (R291 to R294) -/

/-- Units of the level below in one unit of a binding (R291). -/
def unitOf (w : Word) (x : Nat) : Nat :=
  match x with
  | 2 => partTpc w + 1
  | 3 => 8
  | 4 => 320
  | 5 => 4
  | 6 => 4
  | 7 => 16
  | 8 => 32
  | _ => 1
/-- CAP(P, Q) (R291). -/
def capOf (w : Word) (p q : Nat) : Nat := ((List.range (p - q)).map (fun i => unitOf w (q + 1 + i))).foldl (· * ·) 1

/-- Whether bindings never fall. -/
def neverFalls : List Nat → Bool
  | a :: b :: l => decide (a ≤ b) && neverFalls (b :: l)
  | _ => true

/-- LAUNCH.ORDER (R292). -/
def imageOrdered (i : Image) : Bool :=
  i.levels.countP (fun l => l.bind = 1) = 1 && neverFalls (i.levels.map (fun l => l.bind)) &&
    decide (threadLevel i.levels ≤ i.resident)

/-- The products of a run of equal bindings, from its first level on: `low` is the binding below, `n` the product so far,
`b` the run's binding. -/
def blocksFit (w : Word) (low b n : Nat) : List Level → Bool
  | [] => decide (n ≤ capOf w b low)
  | l :: ls => if l.bind = b then blocksFit w low b (n * l.fan) ls else decide (n ≤ capOf w b low) && blocksFit w b l.bind l.fan ls

/-- LAUNCH.FIT (R293). -/
def imageFits (i : Image) : Bool :=
  let s := threadLevel i.levels
  let lanes := fanProd i.levels 0 (s + 1)
  (if s = 0 then fanAt i.levels 0 = 1 else 16 % lanes = 0) &&
    (match i.levels.drop (s + 1) with
     | [] => true
     | l :: ls => blocksFit i.partWord 1 l.bind l.fan ls) && decide (threadCount i.levels ≤ 0xFFFFFFFE)

/-- Whether the shape of a level under `up` is in order (R294). -/
def shapeGood (l : Level) (up : Option Level) : Bool :=
  (l.rows = 0 && l.cols = 0) ||
    (l.rows != 0 && l.cols != 0 && decide (l.rows ≤ 16) && decide (l.cols ≤ 20) && (match up with
     | some u => u.bind = 4 && ((l.bind = 3 && u.fan = l.rows * l.cols) || (l.bind = 2 && u.fan = 8 * l.rows * l.cols))
     | none => false))
/-- LAUNCH.SHAPE (R294). -/
def shapesGood : List Level → Bool
  | [] => true
  | l :: ls => shapeGood l ls.head? && shapesGood ls

/-! ## Placement (R297)

A unit of a binding is a number among the units of its kind over the whole domain, counted in slots: a core has four, a
tile 8 cores, a die 320 tiles, a package 4 dies, and so on. The core number over the domain is package × 10,240 + core. -/

/-- Slots in a unit of a binding. -/
def unitSlots (b : Nat) : Nat :=
  match b with
  | 2 => 4
  | 3 => 32
  | 4 => 10240
  | 5 => 40960
  | 6 => 163840
  | 7 => 2621440
  | 8 => 83886080
  | _ => 1

/-- A placement under way: units taken, as (binding, number), and threads as (slot, global index), last first. -/
structure Placing where
  taken   : List (Nat × Nat)
  threads : List (Nat × Nat)
  deriving DecidableEq, Repr

/-- What placement must know: the partition word, the packages of the context, and the cores that are free. -/
structure Room where
  word : Word
  pkgs : List Nat
  free : Nat → Bool

/-- The units of a binding inside a unit, in ascending order, on packages of the context. -/
def Room.units (r : Room) (b : Nat) (u : Nat × Nat) : List Nat :=
  let lo := u.2 * (unitSlots u.1 / unitSlots b)
  let n := unitSlots u.1 / unitSlots b
  if 5 ≤ b then
    ((r.pkgs.map (fun p => p * unitSlots 5 / unitSlots b)).filter (fun k => decide (lo ≤ k ∧ k < lo + n))).eraseDups.mergeSort
      (fun a b => decide (a ≤ b))
  else if 5 ≤ u.1 then
    let m := unitSlots 5 / unitSlots b
    ((r.pkgs.mergeSort (fun a b => decide (a ≤ b))).filter (fun p => p * unitSlots 5 / unitSlots u.1 = u.2)).flatMap (fun p =>
      (List.range m).map (fun i => p * m + i))
  else (List.range n).map (fun i => lo + i)

/-- Whether a unit may be taken: not taken by this placement and, for a core or a slot, on a free core. -/
def Room.open (r : Room) (p : Placing) (b k : Nat) : Bool :=
  !p.taken.contains (b, k) && (decide (2 < b) || (b = 2 && r.free k) || (b = 1 && r.free (k / 4) && decide (k % 4 ≤ partTpc r.word)))

/-- A unit taken. -/
def Placing.take (p : Placing) (b k : Nat) : Placing := { p with taken := (b, k) :: p.taken }

/-- The tile, or core, of child `c` in a rectangle with its origin, on a die. -/
def shapedUnit (l : Level) (die row0 col0 c : Nat) : Nat :=
  let k := if l.bind = 2 then c / 8 else c
  let tile := die * 320 + (row0 + k / l.cols) * 20 + col0 + k % l.cols
  if l.bind = 2 then tile * 8 + c % 8 else tile

/-- The origins of a rectangle in row-major order. -/
def origins (l : Level) : List (Nat × Nat) :=
  (List.range (17 - l.rows)).flatMap (fun r => (List.range (21 - l.cols)).map (fun c => (r, c)))

/-- A node and everything beneath it placed on a unit: levels from the node's own down to the thread level. Children take
the lowest free unit in which their own part is possible; those with the same binding share the unit; those of a shaped
level fill the first free rectangle. -/
def Room.place (r : Room) : List Level → Nat → Nat × Nat → Placing → Option Placing
  | [], _, _, _ => none
  | v :: ws, n, u, p =>
    match ws with
    | [] => some { p with threads := (u.2, n) :: p.threads }
    | w :: _ =>
      let child := fun (p : Placing) (c k : Nat) =>
        if r.open p w.bind k then r.place ws (n * v.fan + c) (w.bind, k) (p.take w.bind k) else none
      if w.rows != 0 then
        (origins w).findSome? (fun o =>
          (List.range v.fan).foldlM (fun p c => child p c (shapedUnit w u.2 o.1 o.2 c)) p)
      else if w.bind = v.bind then (List.range v.fan).foldlM (fun p c => r.place ws (n * v.fan + c) u p) p
      else (List.range v.fan).foldlM (fun p c => (r.units w.bind u).findSome? (fun k => child p c k)) p

/-- A gang placed: its node on the lowest unit not held by another gang of the launch in which the rest is possible.
DEDUCED, unsafe: log 42. -/
def Room.gang (r : Room) (i : Image) (g : Nat) (held : List Nat) : Option Placing :=
  let s := threadLevel i.levels
  let vs := ((i.levels.drop s).take (i.resident + 1 - s)).reverse
  let b := bindAt i.levels i.resident
  (r.units b (8, 0)).findSome? (fun k =>
    if held.contains k || !r.open ⟨[], []⟩ b k then none else r.place vs g (b, k) ⟨[(b, k)], []⟩)

/-- A placed gang with its cores in placement order. -/
def gangOf (g : Nat) (p : Placing) : Gang :=
  let ts := p.threads.reverse
  { index := g, cores := ((ts.map (fun (t : Nat × Nat) => t.1 / 4)).eraseDups).map (fun c => (c / 10240, c % 10240)),
    threads := ts.map (fun t => (t.1 / 40960, t.1 / 4 % 10240, t.1 % 4, t.2)), ended := [], finished := false, gone := [], left := false }

/-- The unit of a gang's own level that a gang stands in. -/
def Gang.unit (g : Gang) (b : Nat) : Nat :=
  match g.threads with
  | [] => 0
  | (p, c, t, _) :: _ => (p * 40960 + c * 4 + t) / unitSlots b

/-- The gangs that share a unit with gang `g`, because levels above it have its binding. -/
def blockOf (i : Image) (g : Nat) : Nat :=
  let up := i.levels.drop (i.resident + 1)
  g / ((up.takeWhile (fun l => l.bind = bindAt i.levels i.resident)).foldl (fun n l => n * l.fan) 1)

/-- The number of gangs. -/
def gangCount (i : Image) : Nat := fanProd i.levels (i.resident + 1) i.levels.length

/-! ## The size of a save image (R249, R254) -/

/-- The part of the worst-case size that cores and their threads make. -/
def coresBytes (cores : List Nat) (threads : Nat) : Nat :=
  let tiles := ((cores.map tileOf).eraseDups).length
  let n := cores.length
  384 * threads + 96 * 14 * threads + 396352 * n + 128 * (256 * n) + 128 * 32 * n + 320 * 8 * n + 640 * 64 * tiles +
    64 * 64 * tiles + 64 * threads
/-- Header and directory. -/
def imageHead : Nat := 128 + 16 * 9 + 64 * 9

/-- The packages of a context, and this package's place among them. -/
def State.ctxPkgs (s : State) (asid : Nat) : List Nat := (s.pkg :: (s.ctx asid).peers).mergeSort (fun a b => decide (a ≤ b))
def State.partIndex (s : State) (asid : Nat) : Nat := (s.ctxPkgs asid).findIdx (fun p => p = s.pkg)

/-- An entry of the region table (R259). -/
structure Region where
  va   : Word
  len  : Nat
  mode : Nat
  deriving DecidableEq, Repr

/-- The region table. -/
def State.regionTable (s : State) (asid : Nat) : Ag (List Region) :=
  let d := (s.ctx asid).desc
  if d.regions = 0 then .ok [] s
  else (s.agentRead asid d.regions (32 * d.nregion)).bind (fun bs s =>
    .ok ((records 32 d.nregion bs).map (fun e => ⟨wordAt e 0, fieldOf e 8 8, fieldOf e 16 1⟩)) s)

/-- The bytes of a region in an image. -/
def Region.bytes (r : Region) : Nat := if r.mode = 1 then r.len / 2 else r.len
/-- The entries that this package's part carries. -/
def ownRegions (npart part : Nat) (rs : List Region) : List (Region × Nat) := rs.zipIdx.filter (fun p => p.2 % npart = part)

/-- The bytes of region data that a package's part may carry. -/
def State.regionBytes (s : State) (asid pkg : Nat) (rs : List Region) : Nat :=
  let pkgs := s.ctxPkgs asid
  ((ownRegions pkgs.length (pkgs.findIdx (fun p => p = pkg)) rs).map (fun p => p.1.bytes)).sum

/-- The cores of this package that a context's gangs hold. -/
def State.heldCores (s : State) (asid : Nat) : List Nat :=
  (s.cores.filter (fun p => match p.2.owner with
    | some (l, _) => l.asid = asid
    | none => false)).map Prod.fst

/-- The cores and the number of threads of a gang on a package, those on free cores apart. -/
def Gang.within (g : Gang) (pkg : Nat) (free : Nat → Bool) : List Nat × Nat :=
  ((g.cores.filter (fun c => c.1 = pkg && !free (c.1 * 10240 + c.2))).map Prod.snd,
   g.threads.countP (fun t => t.1 = pkg && !free (t.1 * 10240 + t.2.1)))

/-- The cores and the number of threads that a context's placed gangs hold on a package. -/
def State.heldOn (s : State) (asid pkg : Nat) (free : Nat → Bool) : List Nat × Nat :=
  let gs := ((s.launches.filter (fun a => a.id.asid = asid)).flatMap (fun a => a.gangs)).filter (fun g => !g.gone.contains pkg)
  (gs.flatMap (fun g => (g.within pkg free).1), (gs.map (fun g => (g.within pkg free).2)).sum)

/-- Whether a gang leaves the worst-case size of every package's part within its SAVESIZE: beside what is placed, or alone (R249, R295).
DEDUCED, unsafe: log 44. -/
def State.saveFits (s : State) (asid : Nat) (g : Gang) (alone : Bool) (free : Nat → Bool) (rs : List Region) : Bool :=
  ((s.pkg, (s.ctx asid).desc.saveSize) :: (s.ctx asid).loads).all (fun p =>
    let new := g.within p.1 (fun _ => false)
    let old := if alone then ([], 0) else s.heldOn asid p.1 free
    new.1.isEmpty ||
      decide (imageHead + coresBytes (old.1 ++ new.1) (old.2 + new.2) + s.regionBytes asid p.1 rs ≤ p.2))

/-! ## LAUNCH (R287 to R295, R303) -/

/-- LAUNCH.RES (R295): no place for gang 0 with every core of the context's packages free, or no room in the save area. -/
def State.resGood (s : State) (asid : Nat) (i : Image) (rs : List Region) : Bool :=
  let r : Room := ⟨i.partWord, s.ctxPkgs asid, fun _ => true⟩
  match r.gang i 0 [] with
  | some p => s.saveFits asid (gangOf 0 p) true (fun _ => true) rs
  | none => false

/-- The first launch fault but for LAUNCH.RES, as its prompt book code (R290).
DEDUCED, unsafe: log 42. -/
def launchFault (at' : Word) (h : List Byte) (i : Image) (signed : Bool) : Option Nat :=
  if !headerGood at' h || !imageGood i then some 0x45
  else if !partGood i.partWord then some 0x43
  else if !signed then some 0x46
  else if !imageOrdered i then some 0x40
  else if !imageFits i then some 0x41
  else if !shapesGood i.levels then some 0x42
  else none

/-- The checks of an image in their order (R290): the image with its first failure, if there is one. A check reads what it needs
when its turn comes.
DEDUCED, unsafe: log 42. -/
def State.checkImage (s : State) (asid : Nat) (at' : Word) : Ag (Image × Option Nat) :=
  (s.readImage asid at').bind (fun t s =>
    let i := imageOfBytes at' t.1 t.2.1 t.2.2
    (if headerGood at' t.1 && imageGood i && partGood i.partWord then s.signGood asid t.1 t.2.1 t.2.2 else .ok true s).bind
      (fun signed s => match launchFault at' t.1 i signed with
        | some code => .ok (i, some code) s
        | none => (s.regionTable asid).bind (fun rs s => .ok (i, if s.resGood asid i rs then none else some 0x44) s)))

/-- The launch of an entry whose checks have passed. -/
def newLaunch (s : State) (id : LaunchId) (e : QEntry) (i : Image) (tag : Word) : Launch :=
  let up : LaunchId := ⟨id.asid, e.field 58 2, BitVec.ofNat 64 (e.field 64 8)⟩
  let level := e.field 56 1
  { Launch.stub id with
    state := .waiting, home := s.pkg, image := i, args := BitVec.ofNat 64 (e.field 40 8), tagT := tag,
    parent := if level = 0xFF then none else some (up, level, nodeIndex (s.levelsOf up) (e.field 60 4) level) }

/-- A queue names the code of an image it launches, until its next FENCE (R113). -/
def State.nameCode (s : State) (asid q : Nat) (i : Image) : State :=
  s.modCtx asid (fun c => { c with
    coded := if c.coded.contains (q, i.codeBase, i.codeSize) then c.coded else c.coded ++ [(q, i.codeBase, i.codeSize)] })

/-- The cast message of a gang. -/
def castOf (a : Launch) (g : Gang) : CastMsg :=
  { launch := a.id, home := a.home, image := a.image, args := a.args, tagT := a.tagT, gang := g.index, cores := g.cores,
    threads := g.threads }

/-- A launch whose checks have passed waits for its first gang: its handler table and tree go to every package of the context (R303).
DESIGN CHOICE, unsafe: log 80. -/
def State.spreadLaunch (s : State) (a : Launch) : State :=
  (s.ctx a.id.asid).peers.foldl (fun (s : State) p => s.sendTo 1 p (.launched (castOf a ⟨0, [], [], [], false, [], false⟩)))
    ((s.addLaunch a).nameCode a.id.asid a.id.q a.image)

/-- A LAUNCH under its checks is found good and waits for its gangs, or it and its entry are discarded (R290, R303).
DEDUCED, unsafe: log 42. -/
def execLaunch (asid q : Nat) (s : State) : Out :=
  match (s.queue asid q).entries.find? (fun e => e.state = .dispatched && e.kind = 1 && !e.acted) with
  | none => .next s
  | some e =>
    match s.findLaunch ⟨asid, q, e.seq⟩ with
    | none => .next s
    | some a =>
      let discard := fun (code : Nat) (s : State) => s.queueEnd asid (s.endEntry asid q e.seq .discarded code)
        (fun _ s => s.modLaunch a.id (fun a => { a with state := .discarded }))
      if a.state != .checking then .next s
      else
        .next (s.agentEnd asid (s.checkImage asid (BitVec.ofNat 64 (e.field 32 8)))
          (fun r s => match r.2 with
            | some code => discard code s
            | none => (s.spreadLaunch (newLaunch s a.id e r.1 a.tagT)).modEntry asid q e.seq (fun e => { e with acted := true }))
          (fun code s => discard (codeOf code) s))

/-! ## Placing and casting (R297 to R300) -/

/-- Whether a core of this package is free: no gang holds it. -/
def State.coreFree (s : State) (c : Nat) : Bool := (s.core c).owner.isNone

/-- Cores given to a gang. -/
def State.claim (s : State) (l : LaunchId) (g : Nat) (w : Word) (cores : List Nat) : State :=
  cores.foldl (fun (s : State) c => s.modCore c (fun k => { k with owner := some (l, g), part := w })) s

/-- A cast begun on this package, where the gang has cores here (R299). -/
def State.beginCast (s : State) (m : CastMsg) : State :=
  let mine := (m.cores.filter (fun c => c.1 = s.pkg)).map Prod.snd
  if mine = [] then s else { s.claim m.launch m.gang m.image.partWord mine with casts := s.casts ++ [⟨m, [0]⟩] }

/-- A cast sent to another package, and noted until that package has told that it is complete there (R299, R303). -/
def State.sendCast (s : State) (pkg : Nat) (m : CastMsg) : State :=
  (s.modCtx m.launch.asid (fun c => { c with castOut := c.castOut ++ [(m.launch, m.gang, pkg)] })).sendTo 1 pkg (.cast m)

/-- A cast is complete on this package, and the dispatching package is told (R303). -/
def State.castOver (s : State) (m : CastMsg) : State :=
  if m.home = s.pkg then s else s.sendTo 0 m.home (.castDone m.launch m.gang s.pkg)

/-- The next gang of a launch that is to be placed (R298, R319). -/
def Launch.nextGang (a : Launch) : Option Nat :=
  (List.range (gangCount a.image)).find? (fun g => !a.gangs.any (fun h => h.index = g) && !a.dead.contains g)

/-- The units that other gangs of a launch hold, where they do not share them with gang `g`. -/
def Launch.heldUnits (a : Launch) (g : Nat) : List Nat :=
  (a.gangs.filter (fun h => !h.left && blockOf a.image h.index != blockOf a.image g)).map (fun h =>
    h.unit (bindAt a.image.levels a.image.resident))

/-- The next gang of a launch is placed, if it can be (R249, R297, R298): the cast begins here, and the other packages of
the context are told of it and begin their part. `remoteFree` says which cores of other packages are free, by their number over the domain. A refused read of the region table leaves the gang unplaced.
DEDUCED, unsafe: log 42; DESIGN CHOICE, unsafe: log 89. -/
def execGangPlaced (asid q : Nat) (seq : Word) (remoteFree : List Nat) (s : State) : Out :=
  match s.findLaunch ⟨asid, q, seq⟩ with
  | none => .next s
  | some a =>
    let live := match a.state with
      | .waiting | .running => true
      | _ => false
    if !live || a.home != s.pkg || (s.ctx asid).state != .resident then .next s
    else
      match a.nextGang with
      | none => .next s
      | some g =>
        let free := fun (c : Nat) => if c / 10240 = s.pkg then s.coreFree (c % 10240) else remoteFree.contains c
        match (Room.gang ⟨a.image.partWord, s.ctxPkgs asid, free⟩ a.image g (a.heldUnits g)) with
        | none => .next s
        | some p =>
          let gang := gangOf g p
          .next (s.agentEnd asid (s.regionTable asid) (fun rs s =>
            if !s.saveFits asid gang false free rs then s
            else
              let s := s.modLaunch a.id (fun a => { a with gangs := a.gangs ++ [gang], state := .running })
              (s.ctx asid).peers.foldl (fun (s : State) p => s.sendCast p (castOf a gang)) (s.beginCast (castOf a gang)))
            (fun _ s => s))

/-- A thread of a launch as its core sets it up (R300): its registers and its control state.
DEDUCED, unsafe: log 43. -/
def startThread (m : CastMsg) (gidx : Nat) : Thread :=
  let x4 : SMap Word := putAt 0 (putAt 0 [] 5 (BitVec.ofNat 64 gidx)) 4 m.args
  { Thread.vacant with
    status := .asleep, prior := .asleep, before := .asleep, launch := m.launch, gidx := gidx, xn := 8 * partXn m.image.partWord,
    vn := 8 * partVn m.image.partWord, x := x4,
    srstate := (let w : BitVec 32 := BitVec.ofNat 32 gidx ^^^ 0x9E3779B9; if w = 0 then 1 else w.setWidth 64),
    stacklim := -1, lastT := m.tagT }

/-- The launch cue of a thread (R300). -/
def launchCue (m : CastMsg) (gidx : Nat) : CueMsg :=
  { launch := m.launch, target := gidx, tagT := m.tagT, tagM := 0, port := BitVec.ofNat 8 m.image.port, late := false, retag := false,
    wire := 0, block := false, src := 0xFFFFFFFF, seq := m.launch.seq.setWidth 32, len := 8, payload := leBytes 8 m.args.toNat,
    kind := 0, isLaunch := true }

/-- The core's pool as a launch finds it: every full bit clear, accumulator slots and status bytes zero (R300). The
scratchpad keeps what it held.
DEDUCED, unsafe: log 43. -/
def Core.start (c : Core) (w : Word) : Core :=
  { c with
    full := [], slotStat := [], newest := [],
    pool := c.pool.filter (fun p => decide (p.1 < freeTop w)) }

/-- One thread set up, with its launch cue stored; one that a kill has met already is killed (R300, R319).
DEDUCED, unsafe: log 43; DEDUCED, unsafe: log 45. -/
def State.setUp (s : State) (m : CastMsg) (core slot gidx : Nat) : State :=
  let tid := 4 * core + slot
  let cue : Cue := { id := s.nextId, msg := launchCue m gidx, place := .stored tid, after := [], cell := none, block := none,
                     first := false, shared := false, sender := none }
  let s := { s.setThread tid (startThread m gidx) with cues := s.cues ++ [cue], nextId := s.nextId + 1 }
  let kills := ((s.findLaunch m.launch).map (fun a => a.kills)).getD []
  if kills.any (fun k => beneath m.image.levels gidx k.1 k.2) then s.killThread tid 2 else s

/-- The cast message reaches a core: the core sets up its threads and forwards it (R299, R300). -/
def execCast (core : Nat) (s : State) : Out :=
  let mine := fun (r : CastRun) => (r.msg.cores.filter (fun c => c.1 = s.pkg)).map Prod.snd
  let at' := fun (r : CastRun) => r.due.find? (fun i => (mine r)[i]? = some core)
  match s.casts.findSome? (fun r => (at' r).map (fun i => (r, i))) with
  | none => .next s
  | some (r, i) =>
    let next := ([1, 2, 3, 4].map (fun k => 4 * i + k)).filter (fun k => decide (k < (mine r).length))
    let due := r.due.erase i ++ next
    let s := { s with casts := if due = [] then s.casts.erase r else s.casts.map (fun x => if x = r then { r with due := due } else x) }
    let s := s.modCore core (fun c => c.start r.msg.image.partWord)
    let s := (r.msg.threads.filter (fun t => t.1 = s.pkg && t.2.1 = core)).foldl (fun (s : State) t =>
      s.setUp r.msg core t.2.2.1 t.2.2.2) s
    .next (if due = [] then s.castOver r.msg else s)

/-! ## The end of gangs and launches (R270, R298, R301, R302, R458) -/

/-- The threads of a gang on this package, as slots with their global indices. -/
def State.gangSlots (s : State) (g : Gang) : List (Nat × Nat) :=
  (g.threads.filter (fun t => t.1 = s.pkg)).map (fun t => (4 * t.2.1 + t.2.2.1, t.2.2.2))

/-- Whether every thread of a gang on this package has retired or been killed. -/
def State.gangEnded (s : State) (l : LaunchId) (g : Gang) : Bool :=
  g.gone.contains s.pkg || (s.gangSlots g).all (fun t =>
    (s.thread t.1).launch = l && (s.thread t.1).gidx = t.2 && ((s.thread t.1).status = .retired || (s.thread t.1).status = .killed))

/-- Whether a thread has left nothing behind that holds its core: no matrix command, copy or open chain (R298). -/
def State.lettingGo (s : State) (tid : Nat) : Bool := s.enginesDone tid && (s.ownChains tid).isEmpty

/-- The accesses of a thread whose slot is given up go on without it, under a number that no slot has (R298). -/
def State.orphan (s : State) (tid : Nat) : State :=
  { s with accs := s.accs.map (fun a => if a.tid = tid then { a with tid := tid + 2 ^ 32 } else a) }

/-- Whether a barrier or departure of a node belongs to a gang. -/
def inGang (i : Image) (g level node : Nat) : Bool :=
  decide (level ≤ i.resident) && node / fanProd i.levels (level + 1) (i.resident + 1) = g

/-- The barrier objects and departures of a gang's nodes freed on this package (R378). -/
def State.freeGangBars (s : State) (a : Launch) (g : Nat) : State :=
  let keepBar := fun (p : Nat × Option Barrier) => match p.2 with
    | some b => !(b.key.launch = a.id && inGang a.image g b.key.level b.key.node)
    | none => false
  let keepDep := fun (d : Departure) => !(d.launch = a.id && inGang a.image g d.level d.node)
  let clean := fun (t : Tile) => { t with bars := t.bars.filter keepBar, departed := t.departed.filter keepDep }
  { s with tiles := (mapVals clean s.tiles).filter (fun p => p.2 != Tile.idle) }

/-- Whether every child launch attached to a launch has ended, as far as this package knows: pushed, accepted or running
ones hold it back (R301). -/
def State.childrenOver (s : State) (l : LaunchId) : Ag Bool :=
  let mine := s.queues.filter (fun p => p.1 / 256 = l.asid)
  let attached := fun (e : QEntry) => e.kind = 1 && e.field 56 1 != 0xFF && e.field 58 2 = l.q && e.field 64 8 = l.seq.toNat
  if mine.any (fun p => p.2.entries.any (fun e => attached e && !e.finished)) then .ok false s
  else
    (mine.flatMap (fun p => (p.2.pushes.filter (fun u => u.launch = l && u.attached)).map (fun u => (p.1 % 256, u)))).foldl
      (fun (r : Ag Bool) u => r.bind (fun b s => match u.2.pos with
        | none => .ok false s
        | some w =>
          if (s.queue l.asid u.1).pkg = s.pkg then .ok false s
          else (s.entryFinished l.asid u.1 (BitVec.ofNat 64 (w + 1))).bind (fun c s => .ok (b && c) s))) (.ok true s)

/-- Whether a launch's threads on this package have all ended, with no write of them on its way. -/
def State.launchQuiet (s : State) (a : Launch) : Bool :=
  a.gangs.all (fun g => s.gangEnded a.id g) && s.casts.all (fun c => c.msg.launch != a.id) &&
    s.accs.all (fun x => x.launch != a.id || !x.op.writes || x.parts.all Part.performed)

/-- All threads of a gang on a package have ended; with the last package the gang is over. -/
def Gang.endOn (g : Gang) (pkg : Nat) : Gang :=
  let out := if g.ended.contains pkg then g.ended else g.ended ++ [pkg]
  { g with ended := out, finished := g.cores.all (fun c => out.contains c.1) }

/-- A running launch whose last thread has retired or been killed is finishing (R302, R303). -/
def Launch.settle (pkg : Nat) (a : Launch) : Launch :=
  if a.home = pkg && a.state = .running && a.nextGang.isNone && a.gangs.all (fun g => g.finished) then { a with state := .finishing } else a

/-- The packages that hold parts of a gang, but for one. -/
def Gang.others (g : Gang) (pkg : Nat) : List Nat := ((g.cores.map Prod.fst).eraseDups).filter (fun p => p != pkg)

/-- All threads of a gang on a package have ended; `pending` where host stores or attached children are outstanding there. At the
dispatching package the end of a gang's last thread is told to every package that holds a part of it: only then do its parts leave
(R298). -/
def State.partOver (s : State) (l : LaunchId) (gang pkg : Nat) (pending : Bool) : State :=
  let home := (s.findLaunch l).any (fun a => a.home = s.pkg)
  let s := s.modLaunch l (fun a => Launch.settle s.pkg { a with
    gangs := a.gangs.map (fun g =>
      if g.index != gang then g else if home then g.endOn pkg else { g.endOn pkg with finished := g.finished })
    owed := a.owed || (pending && pkg = s.pkg && a.home != s.pkg)
    hostWait := if pending && pkg != s.pkg && !a.hostWait.contains pkg then a.hostWait ++ [pkg] else a.hostWait })
  match (s.findLaunch l).bind (fun a => a.gangs.find? (fun g => g.index = gang)) with
  | some g => if home && g.finished then (g.others s.pkg).foldl (fun (s : State) p => s.sendTo 0 p (.gangOver l gang)) s else s
  | none => s

/-- Whether host stores of a launch, or children attached to it, are outstanding on this package (R270, R301). -/
def State.outstandingHere (s : State) (a : Launch) : Bool :=
  a.hostStores != 0 || s.accs.any (fun x => x.launch = a.id && x.op.writes && !x.parts.all Part.performed) ||
    (match s.childrenOver a.id with
     | .ok b _ => !b
     | _ => true)

/-- The last thread of a launch's gang on this package has retired or been killed: the dispatching package is told (R302, R303,
R458). -/
def execPartEnded (asid q : Nat) (seq : Word) (s : State) : Out :=
  match s.findLaunch ⟨asid, q, seq⟩ with
  | none => .next s
  | some a =>
    match a.gangs.find? (fun g => s.gangSlots g != [] && !g.ended.contains s.pkg && s.gangEnded a.id g &&
        s.casts.all (fun c => !(c.msg.launch = a.id && c.msg.gang = g.index))) with
    | none => .next (s.modLaunch a.id (Launch.settle s.pkg))
    | some g =>
      let pending := a.home != s.pkg && s.outstandingHere a
      let s := s.partOver a.id g.index s.pkg pending
      .next (if a.home = s.pkg then s else s.sendTo 0 a.home (.partEnded a.id g.index pending))

/-- The gang leaves this package and frees its cores; its home is told (R298). Its threads stay what they were, retired or killed, until
others are placed in their slots (R311). -/
def State.leave (s : State) (a : Launch) (g : Gang) : State :=
  let s := (s.gangSlots g).foldl (fun (s : State) t => (s.orphan t.1).modThread t.1 (fun t => { t with gone := true })) s
  let s := ((g.cores.filter (fun c => c.1 = s.pkg)).map Prod.snd).foldl (fun (s : State) c =>
    s.modCore c (fun k => { k with owner := none, part := 0, mx := [], sfu := [], copies := [], newest := [] })) s
  let s := s.freeGangBars a g.index
  let gone := fun (h : Gang) =>
    let out := h.gone ++ [s.pkg]
    { h with gone := out, left := h.cores.all (fun c => out.contains c.1) }
  let s := s.modLaunch a.id (fun a => { a with gangs := a.gangs.map (fun h => if h.index = g.index then gone h else h) })
  if a.home = s.pkg then s else s.sendTo 0 a.home (.partLeft a.id g.index)

/-- A gang all of whose threads have ended leaves a package once its engines there have let go (R298).
DEDUCED, unsafe: log 44. -/
def execGangLeaves (asid q : Nat) (seq : Word) (gang : Nat) (s : State) : Out :=
  match s.findLaunch ⟨asid, q, seq⟩ with
  | none => .next s
  | some a =>
    match a.gangs.find? (fun g => g.index = gang) with
    | none => .next s
    | some g =>
      if g.gone.contains s.pkg || !g.finished || !s.gangEnded a.id g || !(s.gangSlots g).all (fun t => s.lettingGo t.1) then
        .next s
      else .next (s.leave a g)

/-- The flushing read of a launch's host stores completes; the home of the launch is told that nothing is outstanding here
(R270, R458). -/
def execHostStoreAckRead (asid q : Nat) (seq : Word) (s : State) : Out :=
  match s.findLaunch ⟨asid, q, seq⟩ with
  | none => .next s
  | some a =>
    if (a.hostStores = 0 && !a.owed) || a.hostSent != a.hostStores || !s.launchQuiet a then .next s
    else
      .next (s.agentEnd asid (s.childrenOver a.id) (fun b s =>
        let read := s.modLaunch a.id (fun a => { a with hostStores := 0, hostSent := 0, owed := a.owed && !b })
        if b && a.owed then read.sendTo 0 a.home (.hostDone a.id) else read) (fun _ s => s))

/-- Whether the tree of a launch has ended: it is finishing, and its host stores are performed, here and elsewhere. -/
def State.treeOver (s : State) (a : Launch) : Bool :=
  a.state = .finishing && s.launchQuiet a && a.hostStores = 0 && a.hostWait.isEmpty

/-- Whether a dispatched entry's work has ended (R270). -/
def State.workOver (s : State) (asid q : Nat) (e : QEntry) : Ag Bool :=
  match e.kind with
  | 1 =>
    (match s.findLaunch ⟨asid, q, e.seq⟩ with
     | some a => if s.treeOver a then s.childrenOver a.id else .ok false s
     | none => .ok false s)
  | _ => .ok e.ended s

/-- A prompt book entry becomes complete (R270); a launch is complete with it (R302).
DEDUCED, unsafe: log 44. -/
def execPromptBookComplete (asid q : Nat) (seq : Word) (s : State) : Out :=
  match (s.queue asid q).entries.find? (fun e => e.seq = seq && e.state = .dispatched) with
  | none => .next s
  | some e =>
    .next (s.queueEnd asid ((s.workOver asid q e).bind (fun b s =>
      if !b then .ok () s
      else (s.endEntry asid q seq .complete 0).bind (fun _ s =>
        .ok () (s.modLaunch ⟨asid, q, seq⟩ (fun a => { a with state := .complete }))))) (fun _ s => s))

end Sys2Proof.Machine
end

