-- ==== Sys2Proof/Machine/SaveImage.lean ====
section
/-! DEFINITION. The save image of a context on this package, byte for byte (R195, R218, R254 to R256, R259, R371, R393). -/

namespace Sys2Proof.Machine

/-- The code of a thread's state (R311); a paused one has the state that the pause found. -/
def statusCode (t : Thread) : Nat :=
  let code := fun (x : Status) => match x with
    | .running => 0 | .parked => 1 | .blocked => 2 | .stalled => 3 | .asleep => 4 | .paused => 5 | .faulted => 6
    | .retired => 7 | .killed => 8 | .vacant => 4
  if t.status = .paused then code t.prior else code t.status

/-- A byte string cut or filled with zeros to `n` bytes. -/
def sized (n : Nat) (bs : List Byte) : List Byte := (bs ++ List.replicate (n - bs.length) 0).take n
/-- Little-endian fields with their sizes, one after another. -/
def fields (fs : List (Nat × Nat)) : List Byte := fs.flatMap (fun f => leBytes f.1 f.2)

/-- PHYS (R255). -/
def State.phys (s : State) (tile core slot : Nat) : Nat :=
  s.pkg + tile / 320 * 2 ^ 11 + tile % 320 * 2 ^ 13 + core * 2 ^ 22 + slot * 2 ^ 25
/-- PHYS of a core, and of a slot. -/
def State.physCore (s : State) (core : Nat) : Nat := s.phys (tileOf core) (core % 8) 0
def State.physTid (s : State) (tid : Nat) : Nat := s.phys (tileOf (coreOf tid)) (coreOf tid % 8) (tid % 4)

/-! ## THREAD and PEND (R255, R256) -/

/-- The cancelled consuming loads of a thread, oldest first. -/
def State.cancelled (s : State) (tid : Nat) : List Access := s.accs.filter (fun a => a.tid = tid && a.op.consumes)
/-- The squashed special-function requests of a thread, in queue order. -/
def State.squashed (s : State) (tid : Nat) : List SfuReq := (s.core (coreOf tid)).sfu.filter (fun r => r.tid = tid)

/-- The FELD layout of a cancelled load. -/
def feldBytes (a : Access) : List Byte :=
  let va := (a.parts.head?.map (fun p => p.va)).getD 0
  let ty := match a.ret with
    | .scalar ty | .bytes (some ty) => ty.code.toNat
    | _ => 0
  let vec := match a.ret with
    | .bytes _ => 4
    | _ => 0
  let take := match a.op with
    | .consume true => 1
    | _ => 0
  fields [(8, va.toNat), (1, ((a.dest.bind pendBit).getD 0)), (1, ty), (1, take + 2 + vec), (5, 0)]

/-- The SFQ layout of a squashed request. -/
def sfqBytes (r : SfuReq) : List Byte :=
  fields [(1, r.fn), (1, r.ty.code.toNat), (1, (pendBit r.dest).getD 0), (1, 1), (2, r.mask.toNat), (2, 0), (64, r.src.toNat), (8, 0)]

/-- The PEND records of a thread: its second and later loads, then its second and later requests.
DESIGN CHOICE, unsafe: log 88. -/
def State.pendRecords (s : State) (tid : Nat) : List (List Byte) :=
  let g := (s.thread tid).gidx
  let one := fun (kind : Nat) (p : List Byte × Nat) =>
    fields [(4, g), (1, kind), (1, p.2 + 1), (2, 0)] ++ sized 80 p.1 ++ List.replicate 8 0
  (((s.cancelled tid).drop 1).map feldBytes).zipIdx.map (one 0) ++ (((s.squashed tid).drop 1).map sfqBytes).zipIdx.map (one 1)

/-- A THREAD record; `first` is the index of its first PEND record. -/
def State.threadRecord (s : State) (tid first : Nat) : List Byte :=
  let t := s.thread tid
  let ls := s.levels tid
  let th := threadLevel ls
  let loads := (s.cancelled tid).length - 1
  let reqs := (s.squashed tid).length - 1
  let coord := (List.range 16).map (fun l => (4, if th ≤ l && decide (l < ls.length) then coordAt ls t.gidx l else 0))
  let w := fun (m : SMap Word) (n : Nat) => (List.range n).map (fun i => (8, (lookAt 0 m i).toNat))
  sized 384 (fields [(4, t.gidx), (1, statusCode t), (1, ls.length), (1, t.xn / 8), (1, t.vn / 8), (4, s.physTid tid), (4, 0)] ++
    fields coord ++ fields [(8, t.pc.toNat), (32, t.pend.toNat)] ++
    sized 16 (((s.cancelled tid).head?.map feldBytes).getD []) ++ sized 80 (((s.squashed tid).head?.map sfqBytes).getD []) ++
    fields [(8, t.tagT.toNat), (2, t.tagM.toNat), (1, t.port.toNat), (1, 0), (4, t.budget.getD 0), (8, t.stacklim.toNat),
      (8, t.fpflags.toNat), (8, t.rndmode.toNat), (8, t.srstate.toNat)] ++
    fields (w t.perf 5) ++ fields (w t.finfo 4) ++
    fields [(8, t.baseT.toNat), (2, t.baseM.toNat), (1, if t.baseOver then 1 else 0), (1, loads + 16 * reqs), (4, t.postCtr.toNat),
      (8, t.cycle.toNat), (4, if loads + reqs = 0 then 0 else first)])

/-! ## CORE (R103, R255) -/

/-- The bytes of a thread area behind its cue window: predicates and masks, scale registers, x and v registers.
DESIGN CHOICE, unsafe: log 48. -/
def areaBytes (t : Thread) (w : Word) : List Byte :=
  sized 32 ([BitVec.setWidth 8 t.p] ++ [0] ++ (List.range 8).flatMap (fun i => leBytes 2 (t.getK (BitVec.ofNat 3 i)).toNat)) ++
  (List.range 8).flatMap (fun i => leBytes 128 (t.getS (BitVec.ofNat 3 i)).toNat) ++
  (List.range (8 * partXn w)).flatMap (fun i => leBytes 8 (t.getX (BitVec.ofNat 7 i)).toNat) ++
  (List.range (8 * partVn w)).flatMap (fun i => leBytes 64 (t.getV (BitVec.ofNat 6 i)).toNat)

/-- `n` bytes of a memory from address `a` on, in one pass over its entries. -/
def denseFrom : Nat → Nat → Memory → List Byte
  | 0, _, _ => []
  | n + 1, a, m =>
    match m with
    | [] => List.replicate (n + 1) 0
    | (k, b) :: rest => if k = a then b :: denseFrom n (a + 1) rest else 0 :: denseFrom n (a + 1) m

/-- The pool of a core with the registers of its threads in their areas. -/
def State.fullPool (s : State) (core : Nat) : List Byte :=
  let c := s.core core
  let m := (s.placedOn core).foldl (fun (m : Memory) t => m.write (areaOff c.part (t % 4) + 96) (areaBytes (s.thread t) c.part)) c.pool
  denseFrom poolSize 0 m

/-- Records of a core: matrix, copy and cue counts, and the index of the first of each. -/
structure CoreCounts where
  mx    : Nat
  cpy   : Nat
  cue   : Nat
  mx0   : Nat
  cpy0  : Nat
  cue0  : Nat
  deriving DecidableEq, Repr

/-- A CORE record. -/
def State.coreRecord (s : State) (core : Nat) (n : CoreCounts) : List Byte :=
  let c := s.core core
  let full := (List.range 3072).map (fun b => BitVec.ofNat 8 ((List.range 8).foldl (fun v i =>
    v + (if lookAt false c.full (8 * b + i) then 2 ^ i else 0)) 0))
  sized 64 (fields [(4, s.physCore core), (1, partTpc c.part + 1)] ++
    fields ((List.range 5).map (fun i => (1, (lookAt 0 c.slotStat i).toNat))) ++
    fields [(1, n.mx), (1, n.cpy), (2, n.cue), (2, 0), (4, n.mx0), (4, n.cpy0), (4, n.cue0)]) ++ full ++ s.fullPool core

/-! ## COPY, MATRIX, CUE (R195, R218, R255) -/

/-- A copy record. -/
def State.copyRecord (s : State) (q : Nat) (c : CopyCmd) : List Byte :=
  let cue := (c.cue.bind s.findCue).map (fun k => k.msg)
  let tag := (cue.map (fun m => (m.tagT.toNat, m.tagM.toNat, m.seq.toNat))).getD (0, 0, 0)
  let mode := c.wire + 4 * c.rnd + (if c.sat then 32 else 0) + (if cue.isSome then 64 else 0) + (if c.fcode.isSome then 128 else 0)
  let body := match c.fn with
    | 1 => fields [(8, c.src.toNat), (8, c.dst.toNat), (8, c.rowBytes)]
    | 5 => fields [(8, c.dst.toNat), (8, c.pattern.toNat), (8, c.rowBytes)]
    | 6 => []
    | _ => fields [(8, c.src.toNat), (8, c.dst.toNat), (8, c.sstride.toNat), (8, c.dstride.toNat), (4, c.rowBytes), (4, c.rows),
        (8, c.index.toNat)]
  sized 128 (fields [(1, c.fn), (1, q + (if c.fn = 6 then 16 * c.qmask else 0)), (1, c.tid % 4), (1, mode), (1, c.port), (3, 0),
    (8, c.progress), (8, tag.1), (2, tag.2.1), (2, 0), (4, if c.fn = 6 then c.id else tag.2.2)] ++ sized 64 body ++
    fields [(8, if c.fcode.isSome then c.faddr.toNat else 0), (8, c.pc.toNat)])

/-- A matrix record. -/
def matrixRecord (c : MxCmd) : List Byte :=
  let mode := (if c.zc then 1 else 0) + (if c.wide then 2 else 0) + (if c.sat then 4 else 0) + (if c.fcode.isSome then 8 else 0) +
    (if c.progress != 0 then 16 else 0)
  sized 320 (fields [(1, c.fn), (1, c.ty.code.toNat), (1, c.btyCode), (1, c.slot), (1, c.pslot), (1, mode), (1, c.tid % 4), (1, 0),
    (8, c.aaddr.toNat), (8, c.baddr.toNat), (4, c.astr.toNat), (4, c.bstr.toNat), (2, c.total), (2, c.progress), (1, c.row0),
    (1, c.nrow), (2, 0), (8, if c.fcode.isSome then c.faddr.toNat else 0), (8, c.pc.toNat), (8, 0), (128, c.sa.toNat), (128, c.sb.toNat)])

/-- A cue record. -/
def cueRecord (slot : Nat) (m : CueMsg) : List Byte :=
  sized 128 (descBytes m ++ windowPayload m ++ fields [(1, slot), (1, m.kind)])

/-- The cues of a core's cue store, and the slot that each is for. -/
def State.storeCues (s : State) (core : Nat) : List (Nat × Cue) :=
  s.cues.filterMap (fun c => match c.holder with
    | some t => if coreOf t = core && c.inStore then some (t % 4, c) else none
    | none => none)

/-- The commands of a core's copy queues, queue by queue. -/
def State.coreCopies (s : State) (core : Nat) : List (Nat × CopyCmd) :=
  [0, 1, 2, 3].flatMap (fun q => (s.copyQueue core q).map (fun c => (q, c)))

/-! ## CHAIN and BARRIER (R371, R393) -/

/-- A chain record. -/
def State.chainRecord (s : State) (e : ChainEntry) : List Byte :=
  let limit := (s.ctx e.asid).desc.chTimeout
  let left := if limit != 0 && e.role != 2 && e.firstSend && !e.ackIn && e.state != .broken then limit - e.elapsed else 0xFFFFFFFF
  let cseq := ((e.cue.bind s.findCue).map (fun k => k.msg.seq.toNat)).getD 0
  let joined := (e.joined.map (fun m => m.1)).eraseDups.foldl (fun n m => n + 2 ^ m) 0
  sized 640 (sized 64 e.desc ++ fields [(4, s.physCore e.core), (1, chainStateCode e.state), (1, e.tid % 4), (1, e.scope), (1, e.cause),
    (2, e.sent.toNat), (2, e.decl.toNat), (2, e.fwd.toNat), (2, e.dups), (4, if e.stageLen = 0 then 0 else e.stageOff), (2, e.countField), (1, e.flags), (1, 0),
    (4, left), (4, cseq), (32, joined)] ++ fields ((List.range 256).map (fun i => (2, (lookAt 0 e.rx i).toNat))))

/-- A barrier record. -/
def State.barRecord (s : State) (tile : Nat) (b : Barrier) : List Byte :=
  let flags := (if b.init then 1 else 0) + (if b.curtain then 2 else 0) + (if b.bound then 4 else 0) + (if b.sense then 8 else 0) +
    (if b.retried then 16 else 0)
  let n := b.arrived.length
  let left := if b.timeout != 0 && b.isOpen && n != 0 then b.timeout - b.elapsed else 0xFFFFFFFF
  sized 64 (fields [(1, 0), (1, b.key.level), (1, b.key.obj), (1, flags), (4, s.phys tile 0 0), (8, b.key.node), (4, b.count),
    (4, if b.isOpen then n else 0), (4, if b.isOpen then 0 else n), (4, b.phase.toNat), (4, b.timeout), (4, left),
    (4, bitsAt b.rect 0 18), (1, b.chan)])

/-- A thread's member record. -/
def memberRecord (t : Thread) : List Byte :=
  sized 64 (fields [(1, 1), (3, 0), (4, t.gidx)] ++ t.members.flatMap (fun e =>
    fields [(1, e.level), (1, e.obj), (1, if e.dropped then 3 else if e.arrived then 2 else 1), (1, if e.sense then 1 else 0), (2, 0)]))

/-! ## REGION (R259) -/

/-- FP32 words as BF16, round to nearest even without saturation, NaN as 0x7FC0. -/
def bf16Bytes (bs : List Byte) : List Byte :=
  (wordsOf bs).flatMap (fun w => leBytes 2 (roundF .bf16 0 false true 0 (decodeF .f32 w.toNat)).1)
/-- BF16 values as FP32 words. -/
def fromBf16 (bs : List Byte) : List Byte :=
  (List.range (bs.length / 2)).flatMap (fun i => [0, 0] ++ (bs.drop (2 * i)).take 2)

/-- The data of the regions that this package's part carries, in table order. -/
def State.regionData (s : State) (asid : Nat) : List (Region × Nat) → Ag (List (Nat × Region × List Byte))
  | [] => .ok [] s
  | (r, i) :: rs => (s.agentRead asid r.va r.len).bind (fun bs s => (State.regionData s asid rs).bind (fun l s =>
      .ok ((i, r, if r.mode = 1 then bf16Bytes bs else bs) :: l) s))

/-! ## The part (R254) -/

/-- Sections laid one after another at multiples of 64: bytes, with the offset of each section, from offset `at'`.
DESIGN CHOICE, unsafe: log 48. -/
def layout : Nat → List (List Byte) → List Byte × List Nat
  | _, [] => ([], [])
  | at', b :: bs =>
    let pad := (64 - b.length % 64) % 64
    let r := layout (at' + b.length + pad) bs
    (b ++ List.replicate pad 0 ++ r.1, at' :: r.2)

/-- Running sums from 0. -/
def sums : Nat → List Nat → List Nat
  | _, [] => []
  | n, k :: ks => n :: sums (n + k) ks

/-- The tiles and entries of a context's chains on this package. -/
def State.ctxChains (s : State) (asid : Nat) : List (Nat × Nat × ChainEntry) :=
  s.tiles.flatMap (fun p => (p.2.chains.filter (fun e => e.2.asid = asid)).map (fun e => (p.1, e.1, e.2)))
/-- The barriers of a context on this package, with their home tiles. -/
def State.ctxBars (s : State) (asid : Nat) : List (Nat × Barrier) :=
  s.tiles.flatMap (fun p => (p.2.barriers.filter (fun b => b.2.key.launch.asid = asid)).map (fun b => (p.1, b.2)))

/-- The sections of a context's part in the order of their types: count and bytes.
DESIGN CHOICE, unsafe: log 48. -/
def State.sections (s : State) (asid : Nat) (regions : List (Nat × Region × List Byte)) : List (Nat × List Byte) :=
  let tids := s.ctxTids asid
  let cores := s.heldCores asid
  let pend := tids.map s.pendRecords
  let mx := cores.map (fun c => (s.core c).mx)
  let cpy := cores.map s.coreCopies
  let cue := cores.map s.storeCues
  let mx0 := sums 0 (mx.map List.length)
  let cpy0 := sums 0 (cpy.map List.length)
  let cue0 := sums 0 (cue.map List.length)
  let count := fun (i : Nat) => (⟨((mx[i]?).getD []).length, ((cpy[i]?).getD []).length, ((cue[i]?).getD []).length,
    (mx0[i]?).getD 0, (cpy0[i]?).getD 0, (cue0[i]?).getD 0⟩ : CoreCounts)
  let flat := fun (l : List (List Byte)) => (l.length, l.flatten)
  [flat ((tids.zip (sums 0 (pend.map List.length))).map (fun p => s.threadRecord p.1 p.2)),
   flat (cores.zipIdx.map (fun p => s.coreRecord p.1 (count p.2))),
   flat (cpy.flatMap (fun l => l.map (fun p => s.copyRecord p.1 p.2))),
   flat (mx.flatMap (fun l => l.map matrixRecord)),
   flat (cue.flatMap (fun l => l.map (fun p => cueRecord p.1 p.2.msg))),
   flat ((s.ctxChains asid).map (fun p => s.chainRecord p.2.2)),
   flat ((s.ctxBars asid).map (fun p => s.barRecord p.1 p.2) ++
     ((tids.map s.thread).filter (fun t => !t.members.isEmpty)).map memberRecord),
   flat (regions.map (fun r => r.2.2)),
   flat pend.flatten]

/-- The first placed launch of a context: its header and partition word stand in the image.
DESIGN CHOICE, unsafe: log 48. -/
def State.imageKernel (s : State) (asid : Nat) : Word × Word :=
  ((s.launches.find? (fun a => a.id.asid = asid &&
    a.gangs.any (fun g => !g.gone.contains s.pkg && g.cores.any (fun c => c.1 = s.pkg)))).map (fun a => (a.image.header, a.image.partWord))).getD (0, 0)

/-- The part of a context's image, where its sections stand, and the offset of each region's data. -/
def State.imagePart (s : State) (asid : Nat) (p : Pause) (regions : List (Nat × Region × List Byte)) (has : Bool) :
    List Byte × PartMap × List (Nat × Nat) :=
  let c := s.ctx asid
  let secs := s.sections asid regions
  let start := 128 + 16 * secs.length
  let start := start + (64 - start % 64) % 64
  let l := layout start (secs.map Prod.snd)
  let dir := (secs.zip l.2).zipIdx.flatMap (fun e => fields [(2, e.2 + 1), (2, 0), (4, e.1.1.1), (8, e.1.2)])
  let k := s.imageKernel asid
  let head := fun (digest : Nat) => sized 128 ([0x53, 0x43, 0x58, 0x01] ++ fields [(2, 1),
    (2, (if has then 1 else 0) + (if c.resliced then 2 else 0)), (2, asid), (1, c.desc.tk), (1, 0), (2, (s.ctxPkgs asid).length),
    (2, secs.length), (8, p.tp.toNat), (8, c.delta.toNat), (8, k.1.toNat), (8, k.2.toNat), (4, c.epoch), (2, s.partIndex asid),
    (2, p.reason), (8, 0), (32, digest)])
  let whole := fun (d : Nat) => sized start (head d ++ dir) ++ l.1
  let base := (l.2[7]?).getD 0
  (whole (Config.sm3 (whole 0)).toNat, ⟨(secs.take 7).map Prod.fst, l.2⟩, (regions.zip (sums base (regions.map (fun r => r.2.2.length)))).map (fun r => (r.1.1, r.2)))

end Sys2Proof.Machine
end

