-- ==== Sys2Proof/Machine/RestoreImage.lean ====
section
/-! DEFINITION. Reading a save image back (R195, R218, R254, R255, R257, R259, R371, R393): what its records carry replaces what the
package has kept of the paused context; the order of the records, and what no record carries, is the package's own. -/

namespace Sys2Proof.Machine

/-- A record's field of 8 bytes, of 4 bytes with a sign, and bit `i` of the byte at an offset. -/
def recHalf (r : List Byte) (off : Nat) : Word := (BitVec.ofNat 32 (fieldOf r off 4)).signExtend 64
def recBit (r : List Byte) (off i : Nat) : Bool := (fieldOf r off 1).testBit i
/-- `n` bits of a record as a word of any width, from bytes. -/
def recBits (w : Nat) (r : List Byte) (off n : Nat) : BitVec w := BitVec.ofNat w (fieldOf r off n)
/-- `n` words of 8 bytes as a map. -/
def wordsFrom (r : List Byte) (off n : Nat) : SMap Word :=
  ((List.range n).map (fun i => (i, wordAt r (off + 8 * i)))).filter (fun p => p.2 != 0)

/-- The records of a section. -/
def recordsOf (size n : Nat) (bs : List Byte) : List (List Byte) := (List.range n).map (fun i => (bs.drop (i * size)).take size)

/-! ## THREAD and CORE (R255) -/

/-- A thread as its THREAD record has it. -/
def Thread.ofRecord (r : List Byte) (t : Thread) : Thread :=
  { t with
    xn := 8 * fieldOf r 6 1, vn := 8 * fieldOf r 7 1, pc := wordAt r 80, pend := recBits 256 r 88 32, tagT := wordAt r 216
    tagM := recBits 16 r 224 2, port := recBits 8 r 226 1, budget := t.budget.map (fun _ => fieldOf r 228 4), stacklim := wordAt r 232
    fpflags := wordAt r 240, rndmode := wordAt r 248, srstate := wordAt r 256, perf := wordsFrom r 264 5, finfo := wordsFrom r 304 4
    baseT := wordAt r 336, baseM := recBits 16 r 344 2, baseOver := recBit r 346 0, postCtr := recBits 32 r 348 4, cycle := wordAt r 352 }

/-- A thread's registers as its area holds them, behind the cue window.
DESIGN CHOICE, unsafe: log 48. -/
def Thread.ofArea (w : Word) (bs : List Byte) (t : Thread) : Thread :=
  let x0 := 32 + 8 * 128
  let v0 := x0 + 64 * partXn w
  let t := { t with p := recBits 8 bs 0 1 }
  let t := (List.range 8).foldl (fun (t : Thread) i =>
    (t.setK (BitVec.ofNat 3 i) (recBits 16 bs (2 + 2 * i) 2)).setS (BitVec.ofNat 3 i) (recBits 1024 bs (32 + 128 * i) 128)) t
  let t := (List.range (8 * partXn w)).foldl (fun (t : Thread) i => t.setX (BitVec.ofNat 7 i) (wordAt bs (x0 + 8 * i))) t
  (List.range (8 * partVn w)).foldl (fun (t : Thread) i => t.setV (BitVec.ofNat 6 i) (recBits 512 bs (v0 + 64 * i) 64)) t

/-- Bytes as a memory in its canonical form, from address `a` on. -/
def memoryFrom : Nat → List Byte → Memory
  | _, [] => []
  | a, b :: bs => if b = 0 then memoryFrom (a + 1) bs else (a, b) :: memoryFrom (a + 1) bs

/-- Bytes of the registers in an area. -/
def areaRegs (w : Word) : Nat := 32 + 8 * 128 + 64 * partXn w + 512 * partVn w

/-- The pool of a record, and its bytes at a thread's registers. -/
def poolOf (r : List Byte) : List Byte := (r.drop 3136).take poolSize
def areaOf (r : List Byte) (w : Word) (slot : Nat) : List Byte := ((poolOf r).drop (areaOff w slot + 96)).take (areaRegs w)

/-- A core as its CORE record has it: where the pool's bytes are registers of its threads, the pool keeps its own. -/
def Core.ofRecord (slots : List Nat) (r : List Byte) (c : Core) : Core :=
  let pool := slots.foldl (fun (m : Memory) i =>
    m.write (areaOff c.part i + 96) (c.pool.read (areaOff c.part i + 96) (areaRegs c.part))) (memoryFrom 0 (poolOf r))
  { c with
    pool := pool
    full := ((List.range 24576).filter (fun g => recBit r (64 + g / 8) (g % 8))).map (fun g => (g, true))
    slotStat := ((List.range 5).map (fun i => (i, recBits 8 r (5 + i) 1))).filter (fun p => p.2 != 0) }

/-! ## COPY, MATRIX and CUE (R195, R218, R255) -/

/-- A copy command as its record has it. -/
def CopyCmd.ofRecord (r : List Byte) (c : CopyCmd) : CopyCmd :=
  let mode := fieldOf r 3 1
  let c := { c with
    wire := mode % 4, rnd := mode / 4 % 8, sat := mode.testBit 5, port := fieldOf r 4 1, progress := fieldOf r 8 8, pc := wordAt r 104
    faddr := if mode.testBit 7 then wordAt r 96 else c.faddr }
  match c.fn with
  | 1 => { c with src := wordAt r 32, dst := wordAt r 40, rowBytes := fieldOf r 48 8 }
  | 5 => { c with dst := wordAt r 32, pattern := wordAt r 40, rowBytes := fieldOf r 48 8 }
  | 6 => { c with qmask := fieldOf r 1 1 / 16 }
  | _ =>
    { c with
      src := wordAt r 32, dst := wordAt r 40, sstride := wordAt r 48, dstride := wordAt r 56, rowBytes := fieldOf r 64 4
      rows := fieldOf r 68 4, index := wordAt r 72 }

/-- A matrix command as its record has it. -/
def MxCmd.ofRecord (r : List Byte) (c : MxCmd) : MxCmd :=
  { c with
    ty := (Ty.ofCode (fieldOf r 1 1)).getD c.ty, slot := fieldOf r 3 1, pslot := fieldOf r 4 1, zc := recBit r 5 0, wide := recBit r 5 1
    sat := recBit r 5 2, aaddr := wordAt r 8, baddr := wordAt r 16, astr := recHalf r 24, bstr := recHalf r 28, total := fieldOf r 32 2
    progress := fieldOf r 34 2, row0 := fieldOf r 36 1, nrow := fieldOf r 37 1, pc := wordAt r 48, sa := recBits 1024 r 64 128
    sb := recBits 1024 r 192 128, faddr := if recBit r 5 3 then wordAt r 40 else c.faddr }

/-- A cue as its record has it. A block's payload is not in the record. -/
def cueOfRecord (r : List Byte) (m : CueMsg) : CueMsg :=
  { m with
    tagT := wordAt r 0, tagM := recBits 16 r 8 2, port := recBits 8 r 10 1, src := recBits 32 r 12 4, seq := recBits 32 r 16 4
    payload := if m.block then m.payload else (r.drop 32).take (min m.len 64) ++ m.payload.drop 64, kind := fieldOf r 97 1 }

/-! ## CHAIN and BARRIER (R371, R393) -/

/-- A chain entry as its record has it. -/
def ChainEntry.ofRecord (limit : Nat) (r : List Byte) (e : ChainEntry) : ChainEntry :=
  { e with
    cause := fieldOf r 71 1, sent := recBits 16 r 72 2, decl := recBits 16 r 74 2, fwd := recBits 16 r 76 2, dups := fieldOf r 78 2
    count := if e.role = 2 then fieldOf r 84 2 else e.count, flags := fieldOf r 86 1
    elapsed := if fieldOf r 88 4 = 0xFFFFFFFF then e.elapsed else limit - fieldOf r 88 4
    rx := ((List.range 256).map (fun i => (i, recBits 16 r (128 + 2 * i) 2))).filter (fun p => p.2 != 0) }

/-- A barrier as its record has it. -/
def Barrier.ofRecord (r : List Byte) (b : Barrier) : Barrier :=
  let left := fieldOf r 36 4
  { b with
    init := recBit r 3 0, curtain := recBit r 3 1, bound := recBit r 3 2, sense := recBit r 3 3, retried := recBit r 3 4, count := fieldOf r 16 4
    phase := recBits 32 r 28 4, timeout := fieldOf r 32 4, elapsed := if left = 0xFFFFFFFF then b.elapsed else fieldOf r 32 4 - left
    rect := recBits 64 r 40 4, chan := fieldOf r 44 1 }

/-- A thread's entries as its member record has them. -/
def Thread.ofMembers (r : List Byte) (t : Thread) : Thread :=
  { t with members := t.members.zipIdx.map (fun p =>
      let at' := 8 + 6 * p.2
      let st := fieldOf r (at' + 2) 1
      { p.1 with level := fieldOf r at' 1, obj := fieldOf r (at' + 1) 1, dropped := st = 3, arrived := st = 2 || (st = 3 && p.1.arrived),
                 sense := recBit r (at' + 3) 0 }) }

/-! ## The part (R254, R257) -/

/-- The records of sections 1 to 7 of a part. -/
structure Records where
  threads : List (List Byte)
  cores   : List (List Byte)
  copies  : List (List Byte)
  mx      : List (List Byte)
  cues    : List (List Byte)
  chains  : List (List Byte)
  bars    : List (List Byte)
  deriving DecidableEq, Repr

/-- Sizes of the records of sections 1 to 7, in order. -/
def recordSizes : List Nat := [384, 396352, 128, 320, 128, 640, 64]

/-- Whether a directory names the sections where the save has laid them out (R254). -/
def PartMap.names (m : PartMap) (dir : List Byte) : Bool :=
  (List.range 9).all (fun i => fieldOf dir (16 * i) 2 = i + 1 && some (fieldOf dir (16 * i + 8) 8) = m.offs[i]?) &&
  (m.counts.zipIdx.all (fun c => fieldOf dir (16 * c.2 + 4) 4 = c.1))

/-- The records of sections, each given by its offset, the size of a record and their number. -/
def State.readSections (asid : Nat) (base : Word) : List (Nat × Nat × Nat) → State → Ag (List (List (List Byte)))
  | [], s => .ok [] s
  | (off, size, n) :: rest, s =>
    (s.agentRead asid (base + BitVec.ofNat 64 off) (size * n)).bind (fun bs s =>
      (State.readSections asid base rest s).bind (fun l s => .ok (recordsOf size n bs :: l) s))

/-- The records of a context's part in memory. -/
def State.readPart (s : State) (asid : Nat) (m : PartMap) : Ag Records :=
  (State.readSections asid (s.ctx asid).desc.saveAddr (m.offs.zip (recordSizes.zip m.counts)) s).bind (fun l s =>
    let of := fun (i : Nat) => (l[i]?).getD []
    .ok ⟨of 0, of 1, of 2, of 3, of 4, of 5, of 6⟩ s)

/-- The regions' data in a context's part, as they return to memory: BF16 data are widened (R259). -/
def State.readRegions (asid : Nat) : Word → List (Word × Nat × Nat) → State → Ag (List (Word × List Byte))
  | _, [], s => .ok [] s
  | at', (va, mode, n) :: rest, s =>
    (s.agentRead asid at' n).bind (fun bs s => (State.readRegions asid (at' + BitVec.ofNat 64 n) rest s).bind (fun l s =>
      .ok ((va, if mode = 1 then fromBf16 bs else bs) :: l) s))

/-- The cues of the cue stores of an image's cores, in the order of their records. -/
def Saved.storeIds (v : Saved) : List Nat :=
  v.cores.flatMap (fun c => (v.cues.filter (fun k => k.inStore && (k.holder.any (fun t => coreOf t = c.1)))).map (fun k => k.id))

/-- Elements changed each by its own record, in their order; what has no record stays. -/
def byRecord {α : Type} (f : List Byte → α → α) : List (List Byte) → List α → List α
  | r :: rs, a :: as => f r a :: byRecord f rs as
  | _, as => as

/-- A core's engines as the records of its commands have them. -/
def Core.ofCommands (copies mx : List (List Byte)) (c : Core) : Core :=
  let run := fun (p : List (List Byte) × SMap (List CopyCmd)) (q : Nat) =>
    let l := lookAt [] p.2 q
    (p.1.drop l.length, putAt [] p.2 q (byRecord CopyCmd.ofRecord p.1 l))
  { c with copies := ([0, 1, 2, 3].foldl run (copies, c.copies)).2, mx := byRecord MxCmd.ofRecord mx c.mx }

/-- The slots of a core that an image has threads for. -/
def Saved.slots (v : Saved) (core : Nat) : List Nat := (v.threads.filter (fun t => coreOf t.1 = core)).map (fun t => t.1 % 4)

/-- An image's cores as their records, and those of their commands, have them. -/
def coresOf (v : Saved) : List (Nat × Core) → List (List Byte) → List (List Byte) → List (List Byte) → List (Nat × Core)
  | c :: cs, r :: rs, copies, mx =>
    let n := ([0, 1, 2, 3].map (fun q => (lookAt [] c.2.copies q).length)).sum
    (c.1, (c.2.ofRecord (v.slots c.1) r).ofCommands copies mx) :: coresOf v cs rs (copies.drop n) (mx.drop c.2.mx.length)
  | cs, _, _, _ => cs

/-- An image as its records in memory have it (R257). What they do not carry is what the package has kept.
DESIGN CHOICE, unsafe: log 49. -/
def Saved.ofRecords (v : Saved) (limit : Nat) (rs : Records) : Saved :=
  let area := fun (t : Nat × Thread) =>
    match (v.cores.zip rs.cores).find? (fun c => c.1.1 = coreOf t.1) with
    | some (c, r) => (t.1, t.2.ofArea c.2.part (areaOf r c.2.part (t.1 % 4)))
    | none => t
  let threads := (byRecord (fun r (t : Nat × Thread) => (t.1, t.2.ofRecord r)) rs.threads v.threads).map area
  let members := (threads.filter (fun t => !t.2.members.isEmpty)).map Prod.fst
  let memberRecs := members.zip (rs.bars.drop v.bars.length)
  let cueRecs := v.storeIds.zip rs.cues
  { v with
    threads := threads.map (fun t => match memberRecs.find? (fun m => m.1 = t.1) with
      | some m => (t.1, t.2.ofMembers m.2)
      | none => t)
    cores := coresOf v v.cores rs.cores rs.copies rs.mx
    cues := v.cues.map (fun c => match cueRecs.find? (fun k => k.1 = c.id) with
      | some k => { c with msg := cueOfRecord k.2 c.msg }
      | none => c)
    chains := byRecord (fun r (e : Nat × Nat × ChainEntry) => (e.1, e.2.1, e.2.2.ofRecord limit r)) rs.chains v.chains
    bars := byRecord (fun r (b : Nat × Barrier) => (b.1, b.2.ofRecord r)) rs.bars v.bars }

end Sys2Proof.Machine
end

