-- ==== Sys2Proof/Machine/ContextEvents.lean ====
section
/-! DEFINITION. The events of contexts: the host's commands (R247, R251, R444, R447), pause and resume (R252, R253), saving and
restoring (R254, R257, R259, R457). -/

namespace Sys2Proof.Machine

/-! ## Commands of the host (R444) -/

/-- The opcode and the ASID of a value written to CMD. -/
def cmdOp (v : Nat) : Nat := v % 256
def cmdAsid (v : Nat) : Nat := v / 256 % 4096

/-- Whether a command is under way for a context. -/
def State.commanded (s : State) (op asid : Nat) : Bool :=
  s.bar0.cmdState = 1 && cmdOp s.bar0.cmd = op && cmdAsid s.bar0.cmd = asid

/-- The command done (2) or refused (3) with a reason, and its interrupt (R443 to R445).
DEDUCED, unsafe: log 46. -/
def State.endCommand (s : State) (st reason : Nat) : State :=
  { s with bar0 := { s.bar0 with cmdState := st, reason := reason }, msix := s.msix ++ [0] }

/-! ## CREATE and LOAD (R245, R247, R251) -/

/-- A context descriptor from its 128 bytes (R245). -/
def descOf (asid : Nat) (d : List Byte) : Desc :=
  let w := fun (off n : Nat) => fieldOf d off n
  { asid := asid, tk := w 2 1, flags := w 3 1, bpkg := w 8 4, bdom := w 12 4, edom := w 16 4, chTimeout := w 20 4,
    mxown := w 32 2, mxlend := w 34 2, drown := w 36 2, drlend := w 38 2, vcmask := w 40 1, pauseAllow := w 44 4,
    qtable := wordAt d 48, qcount := w 56 2, keycount := w 58 2, saveAddr := wordAt d 64, saveSize := w 72 8,
    ovfAddr := wordAt d 80, ovfSize := w 88 8, keytab := wordAt d 96, regions := wordAt d 104, nregion := w 112 2,
    lkown := w 114 2, lklend := w 116 2,
    reserved := w 0 2 / 4096 != 0 || w 3 1 / 4 != 0 || !zeros d 5 3 || w 40 1 / 16 != 0 || !zeros d 41 3 || !zeros d 60 4 ||
      !zeros d 118 10 }

/-- The code of a context's state (R250). -/
def ctxStateCode : CtxState → Nat
  | .built => 0 | .loaded => 1 | .resident => 2 | .pausing => 3 | .paused => 4 | .restoring => 5 | .faulted => 6 | .absent => 7

/-- The descriptor as the device keeps it: STATE and DELTA are written by the device (R245). -/
def Ctx.descriptor (c : Ctx) : List Byte :=
  splice (splice c.raw 4 (leBytes 1 (ctxStateCode c.state))) 24 (leBytes 8 c.delta.toNat)

/-- What must be alike in the descriptors of a context on all its packages: every byte but those of the save and overflow areas,
STATE and DELTA (R245, R247). -/
def descKey (d : List Byte) : List Byte :=
  splice (splice (splice d 4 [0]) 24 (List.replicate 8 0)) 64 (List.replicate 32 0)

/-- CREATE builds a context from its descriptor, the 128 bytes that must lie at ARG0 (R251, R444); `peers` are the other packages that
hold the descriptor.
DEDUCED, unsafe: log 46. -/
def execCreate (asid : Nat) (peers : List Nat) (s : State) : Out :=
  if !s.commanded 1 asid then .next s
  else if (s.ctx asid).state != .absent then .next (s.endCommand 3 2)
  else if 2 ^ 64 < s.bar0.arg0.toNat + 128 then .next (s.endCommand 3 3)
  else
    let d := s.hostMem.read s.bar0.arg0.toNat 128
    .next ((s.setCtx asid { Ctx.absent with
      state := .built, desc := descOf asid d, raw := d, peers := peers, waits := peers }).endCommand 2 0)

/-- Whether one mask lies within another. -/
def maskIn (a b : Nat) : Bool := a &&& b = a

/-- Whether a context holds its reservation on this package. -/
def Ctx.reserves (c : Ctx) : Bool := c.loadedHere && c.state != .absent

/-- The checks of R247; the descriptors of the packages on which the context has been loaded are in `told`. -/
def State.descGood (s : State) (asid : Nat) : Bool :=
  let c := s.ctx asid
  let d := c.desc
  decide (d.tk ≤ 20) && maskIn d.mxlend d.mxown && maskIn d.drlend d.drown && maskIn d.lklend d.lkown &&
    (d.lkown = 0 || d.vcmask % 16 != 0) && decide (1 ≤ d.qcount ∧ d.qcount ≤ 256) && d.saveAddr.toNat % 4096 = 0 &&
    d.ovfAddr.toNat % 4096 = 0 && decide (d.keycount ≤ 64) && decide (d.nregion ≤ 1024) && !d.reserved &&
    s.ctxs.all (fun p => p.1 = asid || !p.2.reserves ||
      (p.2.desc.mxown &&& d.mxown = 0 && p.2.desc.drown &&& d.drown = 0 && p.2.desc.lkown &&& d.lkown = 0 &&
        p.2.desc.vcmask &&& d.vcmask = 0)) &&
    c.told.all (fun d => descKey d = descKey c.raw)

/-- The context is loaded once LOAD has succeeded on every package (R251). -/
def Ctx.agreeLoad (c : Ctx) : Ctx :=
  if c.state = .built && c.loadedHere && c.waits.isEmpty then { c with state := .loaded, unchecked := List.range c.desc.qcount } else c

/-- What the loaded FLOCK contexts lock on this package: MXOWN, DROWN and VCMASK of each (R246). -/
def State.locks (s : State) : List (Nat × Nat × Nat) :=
  (s.ctxs.filter (fun p => p.2.reserves && p.2.desc.flags.testBit 0)).map (fun p =>
    (p.2.desc.mxown, p.2.desc.drown, p.2.desc.vcmask))

/-- Whether the package refuses a FLOCK context: beside those loaded it needs more power than the limit leaves (R246, R449).
DEDUCED, unsafe: log 46. -/
def State.lockRefused (s : State) (asid : Nat) : Bool :=
  let d := (s.ctx asid).desc
  d.flags.testBit 0 && decide (s.bar0.power.toNat < Config.lockedWatts (s.locks ++ [(d.mxown, d.drown, d.vcmask)]))

/-- LOAD with the descriptors compared: the reservation is admitted, or the command is refused and the context stays built. -/
def State.loadHere (s : State) (asid : Nat) : State :=
  let s' := s.modCtx asid (fun c => { c with asking := none, told := [] })
  if !s.descGood asid then s'.endCommand 3 1
  else
    let c := { s'.ctx asid with root := s.bar0.arg1.toNat, loadedHere := true }
    ((s'.setCtx asid c.agreeLoad).sendPeers asid (.loaded asid c.desc.saveSize)).endCommand 2 0

/-- LOAD admits the reservation, or is refused and leaves the context built (R247, R251, R444).
DEDUCED, unsafe: log 46. -/
def execLoad (asid : Nat) (s : State) : Out :=
  let c := s.ctx asid
  let linked := c.peers.filter (fun p => (s.linkTo p).isSome)
  if !s.commanded 2 asid then .next s
  else if c.state != .built || c.loadedHere || s.lockRefused asid then .next (s.endCommand 3 2)
  else
    match c.asking with
    | none =>
      if !s.descGood asid || linked = [] then .next (s.loadHere asid)
      else .next (linked.foldl (fun (s : State) p => s.sendTo 0 p (.loadAsk asid)) (s.modCtx asid (fun c => { c with asking := some linked })))
    | some [] => .next (s.loadHere asid)
    | some _ => .next s

/-- Whether a message of the comparison of descriptors can be acted on: a package that compares its own answers a package of a higher
number once its LOAD is over. -/
def State.loadTurn (s : State) (m : InMsg) : Bool :=
  match m.msg with
  | .loadAsk asid => (s.ctx asid).asking.isNone || decide (m.src < s.pkg)
  | .loadTell _ _ => true
  | .loaded asid _ => (s.ctx asid).state != .absent
  | _ => false

/-- The house kernels compare descriptors over VC0 as LOAD runs (R247), and tell one another that LOAD has succeeded (R251).
DEDUCED, unsafe: log 46. -/
def execLoadAgreement (s : State) : Out :=
  match (s.inbox.find? s.loadTurn).map (fun m => (m, { s with inbox := s.inbox.erase m })) with
  | some (⟨_, src, _, .loadAsk asid⟩, s) =>
    let c := s.ctx asid
    .next (s.sendTo 0 src (.loadTell asid (if c.loadedHere then some c.descriptor else none)))
  | some (⟨_, src, _, .loadTell asid d⟩, s) =>
    .next (s.modCtx asid (fun c => { c with asking := c.asking.map (fun l => l.filter (fun p => p != src)), told := c.told ++ d.toList }))
  | some (⟨_, src, _, .loaded asid size⟩, s) =>
    .next (s.modCtx asid (fun c =>
      ({ c with loads := c.loads ++ [(src, size)], waits := c.waits.filter (fun p => p != src) } : Ctx).agreeLoad))
  | _ => .next s

/-- A queue of a newly loaded context is looked at: the host is told of one that is to be enabled and breaks the rules (R263). The
form of the notice is open. A refused read faults the context (R456).
DESIGN CHOICE, unsafe: log 79. -/
def execQueueCheck (asid : Nat) (s : State) : Out :=
  match (s.ctx asid).unchecked with
  | [] => .next s
  | q :: rest =>
    let past := fun (s : State) => s.modCtx asid (fun c => { c with unchecked := rest })
    let note := fun (i : Nat) => (Config.freeWord (s.fresh + i)).toNat % 256
    .next (s.agentEnd asid (s.agentRead asid (s.queueEntryVa asid q) 64) (fun e s =>
      let k := Queue.disabled.config e
      if (fieldOf e 13 1).testBit 0 && k.pkg = s.pkg && !k.wellSet then
        { past s with fresh := s.fresh + 2 }.ctxEvent (note 0) (note 1) asid q 0 0
      else past s) (fun code s => (past s).tableFault asid q code))

/-! ## DESTROY and CLEAR -/

/-- The cores of a context given up: no thread in its slots, pools and queues cleared. -/
def State.clearCores (s : State) (asid : Nat) : State :=
  let s := { s with threads := s.threads.filter (fun p => p.2.launch.asid != asid) }
  (s.heldCores asid).foldl (fun (s : State) c => s.setCore c Core.idle) s

/-- Whether a barrier message concerns a context. -/
def barMsgOf (asid : Nat) (m : BarMsg) : Bool :=
  match barMsgHome m, barMsgMember m with
  | some (l, _, _), _ => l.asid = asid
  | none, some w => w.launch.asid = asid
  | none, none => false

/-- The objects of a context dropped: accesses, cues, casts, chains, barriers and departures (R251). -/
def State.clearObjects (s : State) (asid : Nat) : State :=
  let s := s.discardChains asid
  let clean := fun (t : Tile) => { t with
    bars := t.bars.filter (fun p => match p.2 with
      | some b => b.key.launch.asid != asid
      | none => false)
    departed := t.departed.filter (fun d => d.launch.asid != asid) }
  { s with
    tiles := (mapVals clean s.tiles).filter (fun p => p.2 != Tile.idle)
    accs := s.accs.filter (fun a => a.asid != asid)
    cues := s.cues.filter (fun c => c.msg.launch.asid != asid)
    casts := s.casts.filter (fun c => c.msg.launch.asid != asid)
    barMsgs := s.barMsgs.filter (fun m => !barMsgOf asid m.msg) }

/-- DESTROY: as a root fault where anything is placed, then, with the prompt books marked, the ASID is free (R251, R279). While the
context is pausing or restoring it is held.
DEDUCED, unsafe: log 46. -/
def execDestroy (asid : Nat) (s : State) : Out :=
  if !s.commanded 3 asid then .next s
  else
    match (s.ctx asid).state with
    | .absent => .next (s.endCommand 3 2)
    | .pausing | .restoring => .next s
    | _ =>
      if s.heldCores asid != [] && (s.ctx asid).canFault then .next (s.rootBare asid 0x51 none (0, 0))
      else if (s.ctx asid).owed != [] then .next s
      else
      let s := (((s.clearCores asid).clearObjects asid).clearTables asid).dropLines asid (fun _ => true)
      .next ({ s with
        ctxs := putAt Ctx.absent s.ctxs asid Ctx.absent
        queues := s.queues.filter (fun p => p.1 / 256 != asid)
        launches := s.launches.filter (fun a => a.id.asid != asid) }.endCommand 2 0)

/-- A queue at position `w`: nothing accepted or pushed is left, and the other packages know what stayed without an entry. -/
def State.queueAt (s : State) (asid q w : Nat) : State :=
  let k := s.queue asid q
  let s := (s.dropPushes asid q).modQueue asid q (fun k => { k with
    write := w, taken := w, read := w, entries := [], askers := [], skipped := if k.taken < w then k.skipped ++ [(k.taken, w)] else k.skipped })
  if k.taken < w then s.sendPeers asid (.skipped asid q k.taken w) else s

/-- Halted queues are idle again: READ := WRITE (R278). -/
def State.idleQueues (asid : Nat) : List Nat → State → Ag Unit
  | [], s => .ok () s
  | q :: qs, s =>
    let k := s.queue asid q
    if !k.enabled || k.pkg != s.pkg then State.idleQueues asid qs (s.modQueue asid q (fun k => { k with asked := false, granted := 0 }))
    else
      (if k.device then .ok (leBytes 8 k.write) s else s.agentRead asid (s.queueEntryVa asid q + 16) 8).bind (fun bs s =>
        (s.agentWrite asid (s.queueEntryVa asid q + 24) (leBytes 8 (leNat bs))).bind (fun _ s =>
          State.idleQueues asid qs (s.queueAt asid q (leNat bs))))

/-- A faulted context loaded again: pools, slots, cue stores, barriers and chains cleared (R251). -/
def State.unfaulted (s : State) (asid : Nat) : State :=
  let s := (((s.clearCores asid).clearObjects asid).clearTables asid).dropLines asid (fun _ => true)
  let emptied := fun (a : Launch) => if a.id.asid = asid then { a with gangs := [] } else a
  { s with launches := s.launches.map emptied }.modCtx asid (fun c => { c with
    state := .loaded, pause := none, saved := none, notices := [], coded := [], ovfTodo := [], castOut := [] })

/-- CLEAR: a faulted context is loaded again, once what its fault left to be marked is marked (R251, R278, R279). A queue table that
cannot be read or written faults it anew (R456).
DEDUCED, unsafe: log 46. -/
def execClear (asid : Nat) (s : State) : Out :=
  if !s.commanded 4 asid then .next s
  else if (s.ctx asid).state != .faulted then .next (s.endCommand 3 2)
  else if (s.ctx asid).owed != [] then .next s
  else
    let done := fun (s : State) => (s.unfaulted asid).endCommand 2 0
    match State.idleQueues asid (s.queuesOf asid) s with
    | .bad code va =>
      .next ((done (s.agentForget asid va)).rootBare asid (codeOf code) none ((va - (s.ctx asid).desc.qtable).toNat / 64, 0))
    | r => .next (s.agentEnd asid r (fun _ s => done s) (fun _ s => s))

/-! ## ATTEST (R447) -/

/-- One measurement. -/
def measurement (kind index : Nat) (d : BitVec 256) : List Byte := fields [(4, kind), (4, index), (32, d.toNat)]

/-- The report before its signature. -/
def State.report (s : State) (nonce : List Byte) (keys : Option (Nat × List Byte)) : List Byte :=
  let ms := [measurement 1 0 s.bootDigest, measurement 2 0 (Config.measurement 2), measurement 3 0 (Config.measurement 3),
    measurement 4 0 (Config.configDigest s.routes s.timeRoot s.parent)] ++ (match keys with
    | some (asid, ks) => [measurement 5 asid (Config.sm3 ks)]
    | none => [])
  [0x48, 0x5A, 0x41, 0x01] ++ fields [(2, 1), (2, ms.length), (2, s.pkg), (1, 0xB0), (1, 1), (4, 0), (8, s.time.toNat), (8, 0)] ++
    sized 32 nonce ++ sized 320 ms.flatten

/-- ATTEST writes a signed report of 448 bytes at ARG1 for the nonce of 32 bytes at ARG0; both must lie in the host's memory (R444,
R447).
DEDUCED, unsafe: log 46. -/
def execAttest (asid : Nat) (s : State) : Out :=
  if !s.commanded 5 asid then .next s
  else if 2 ^ 64 < s.bar0.arg0.toNat + 32 || 2 ^ 64 < s.bar0.arg1.toNat + 448 then .next (s.endCommand 3 3)
  else
    let nonce := s.hostMem.read s.bar0.arg0.toNat 32
    let write := fun (keys : Option (Nat × List Byte)) (s : State) =>
      let r := s.report nonce keys
      let sig := leBytes 64 (Config.sm2Sign (Config.sm3 r)).toNat
      { s with hostMem := s.hostMem.write s.bar0.arg1.toNat (r ++ sig) }.endCommand 2 0
    if s.isLoaded asid then
      .next (s.agentEnd asid (s.agentRead asid (s.ctx asid).desc.keytab (32 * (s.ctx asid).desc.keycount))
        (fun ks s => write (some (asid, ks)) s) (fun _ s => s.endCommand 3 3))
    else .next (write none s)

/-! ## Pause (R251, R252) -/

/-- A loaded context becomes resident (R251), unless activation is refused (R449).
DEDUCED, unsafe: log 63. -/
def State.activate (s : State) (asid : Nat) : State :=
  if (s.ctx asid).state = .loaded && s.hotDies.isEmpty then (s.modCtx asid (fun c => { c with state := .resident })).writeTables asid else s

/-- A PREEMPT makes a pause request, or is over at once in a context already pausing or paused (R270, R275). -/
def execPreempt (asid q : Nat) (s : State) : Out :=
  match (s.queue asid q).entries.find? (fun e => e.state = .dispatched && e.kind = 7 && !e.acted) with
  | none => .next s
  | some e =>
    let past := (s.ctx asid).state != .resident
    .next ((s.pauseRequest asid (e.field 32 2) ((e.field 34 1).testBit 0) (some (q, e.seq))).modEntry asid q e.seq (fun e =>
      { e with acted := true, ended := past }))

/-- A pause that another package proposes begins here: from then on no gang is placed, and no packet read (R252, R276). -/
def State.joinPause (s : State) (asid tp reason : Nat) (regions : Bool) (by' : Option (Nat × Word)) : State :=
  s.modCtx asid (fun c => { c with
    state := .pausing
    pause := some { (newPause tp [] reason regions by') with agreed := false, byProposer := false, saveWaits := c.peers } })

/-- Whether a context is one in which a proposed pause begins. -/
def Ctx.canPause (c : Ctx) : Bool :=
  match c.state with
  | .loaded | .resident => true
  | _ => false

/-- A proposal reaches a package, which begins its pause (R252), a loaded context of a package too hot to activate it as well (R449);
it replies once every cast that it has sent is complete (R303).
DEDUCED, unsafe: log 47. -/
def execPauseProposal (s : State) : Out :=
  match s.takeMsg (fun m => match m with
    | .pausePropose asid _ _ _ _ => (s.ctx asid).canPause || (s.ctx asid).castOut.isEmpty
    | _ => false) with
  | some (⟨_, src, _, .pausePropose asid tp reason regions by'⟩, s') =>
    let own := s.ownReply asid tp.toNat
    if (s.ctx asid).canPause then .next ((s.activate asid).joinPause asid own reason regions by')
    else .next (s'.sendTo 0 src (.pauseReply asid (BitVec.ofNat 64 own)))
  | _ => .next s

/-- With the last reply in, and every cast that this package has sent complete (R303), the greatest is agreed and sent to all (R252).
DEDUCED, unsafe: log 47. -/
def State.agreePause (s : State) (asid : Nat) : State :=
  match (s.ctx asid).state, (s.ctx asid).pause with
  | .pausing, some p =>
    if !p.byProposer || p.agreed || !p.waits.isEmpty || !(s.ctx asid).castOut.isEmpty then s
    else (s.modCtx asid (fun c => { c with pause := some { p with agreed := true } })).sendPeers asid (.pauseAgree asid p.tp)
  | _, _ => s

/-- A reply reaches the proposer (R252).
DEDUCED, unsafe: log 47. -/
def execPauseReply (s : State) : Out :=
  match s.takeMsg (fun m => match m with
    | .pauseReply _ _ => true
    | _ => false) with
  | some (⟨_, src, _, .pauseReply asid tp⟩, s) =>
    (match (s.ctx asid).pause with
     | some p =>
       if !p.waits.contains src then .next s
       else
         let waits := p.waits.filter (fun x => x != src)
         let tp := BitVec.ofNat 64 (max p.tp.toNat tp.toNat)
         .next ((s.modCtx asid (fun c => { c with pause := some { p with tp := tp, waits := waits } })).agreePause asid)
     | none => .next s)
  | _ => .next s

/-- The agreed time reaches a package (R252).
DEDUCED, unsafe: log 47. -/
def execPauseAgreed (s : State) : Out :=
  match s.takeMsg (fun m => match m with
    | .pauseAgree _ _ => true
    | _ => false) with
  | some (⟨_, _, _, .pauseAgree asid tp⟩, s) =>
    (match (s.ctx asid).state, (s.ctx asid).pause with
     | .pausing, some p =>
       if p.stopped then .next s
       else .next (s.modCtx asid (fun c => { c with pause := some { p with
         tp := BitVec.ofNat 64 (max p.tp.toNat tp.toNat), agreed := true } }))
     | _, _ => .next s)
  | _ => .next s

/-- A thread stopped at an instruction boundary (R252): any but an ended one is paused, a faulted one too (R312). YIELD is over
for it (R261). -/
def Thread.stop (t : Thread) : Thread :=
  match t.status with
  | .vacant | .retired | .killed | .paused => t
  | _ =>
    if t.wait = some .yield then { t with status := .paused, prior := .running, wait := none }
    else { t with status := .paused, prior := t.status }

/-- The newest-command records of a core follow the commands of its queue (R219). -/
def Core.noteAll (c : Core) : Core :=
  { c with newest := mapVals (fun n => match c.mx.find? (fun d => d.id = n.id) with
    | some d => { n with progress := d.progress, state := d.state }
    | none => n) c.newest }

/-- Whether a matrix command is in the middle of a step, or has taken its last and is not yet done (R216, R218). -/
def MxCmd.midStep (d : MxCmd) : Bool :=
  d.midWrite || (d.state = .running && d.progress = d.total)

/-- A core's commands checkpointed (R194, R216): a copy's units ahead of PROGRESS are abandoned; a matrix step in progress
completes first. A copy stopped on a fault stays faulted. -/
def Core.checkpoint (c : Core) : Core :=
  let copy := fun (d : CopyCmd) =>
    if d.state = .faulted && d.fcode.isSome then d
    else { d with state := CopyState.checkpointed, pendOp := none, saving := none, got := none, index1 := none }
  let mx := fun (d : MxCmd) =>
    if d.midStep then d
    else { d with
      state := MxState.checkpointed, staged := [], pendOp := [], told := d.told && d.fcode.isSome,
      faddr := if d.fcode.isSome then d.faddr else 0 }
  { c with copies := mapVals (List.map copy) c.copies, mx := c.mx.map mx }.noteAll

/-- A cue that was released and whose handler cannot start, because a fault of its thread comes first, waits again; a fetched one stays
spilled.
DEDUCED, unsafe: log 35. -/
def Cue.unrelease (c : Cue) : Cue :=
  match c.place with
  | .released t => { c with place := if c.cell.isNone then .stored t else .spilled t }
  | .fetched t => { c with place := .spilled t }
  | _ => c

/-- Whether a released cue is still on its way to its handler's start, which comes before issue stops (R348). -/
def State.startsBefore (s : State) (asid : Nat) (c : Cue) : Bool :=
  match c.place with
  | .released t => c.msg.launch.asid = asid && (s.thread t).status = .asleep && (s.thread t).reports.isEmpty
  | _ => false

/-- From the agreed time on, the package releases no cue of the context; its threads stop and its engines are checkpointed
(R252). A cast already begun (R303), and the handler of a cue released before (R348), come first. -/
def execReleaseStop (asid : Nat) (s : State) : Out :=
  match (s.ctx asid).state, (s.ctx asid).pause with
  | .pausing, some p =>
    if p.stopped || !p.agreed || decide (s.logical asid < p.tp.toNat) || s.casts.any (fun c => c.msg.launch.asid = asid) ||
        s.cues.any (s.startsBefore asid) then .next s
    else
      let tids := s.ctxTids asid
      let s := tids.foldl (fun (s : State) t => if (s.thread t).ended then s else (s.cancelLoads t).modThread t Thread.stop) s
      let s := (s.heldCores asid).foldl (fun (s : State) c => s.modCore c Core.checkpoint) s
      let cue := fun (c : Cue) => if c.msg.launch.asid = asid then c.unrelease else c
      .next ({ s with cues := s.cues.map cue }.modCtx asid (fun c => { c with pause := some { p with stopped := true } }))
  | _, _ => .next s

/-! ## Saving (R254, R259, R457) -/

/-- Whether a core's engines are at rest for the image: matrix steps over, the house kernel's answers in, and each refusal
recorded (R216, R251, R408). -/
def Core.enginesAtRest (c : Core) : Bool :=
  c.copies.all (fun q => q.2.all (fun d => d.house.isNone && (d.fcode.isNone || d.state = .faulted))) &&
  c.mx.all (fun d => !d.midStep && d.house.isNone && (d.fcode.isNone || d.told))

/-- Whether a strip cannot be accepted while its target's writers are checkpointed, or the accesses that the target's SEND
follows are held: it is sent again after the resume (R363, R371). -/
def State.stripHeld (s : State) (p : Strip) : Bool :=
  let e := s.chain p.tile p.entry
  p.served = 0 && e.role = 2 && !(s.writersDone e && s.allDone e.after)

/-- Whether a part waits for the house kernel. -/
def Part.isHeld (p : Part) : Bool :=
  match p.stage with
  | .house _ => true
  | _ => false

/-- Whether a chain's control message must be delivered before its entries are saved: any but a CREDIT (R371). -/
def ChainMsg.holdsSave (m : ChainMsg) : Bool :=
  match m.kind with
  | .credit _ => false
  | _ => true

/-- Whether a thread's fault is to kill a node, or reaches the root, before the image is written (R318). -/
def State.killDue (s : State) (tid : Nat) : Bool :=
  match s.deliverable tid with
  | some f => (match s.actionFor tid f with
    | .kill _ | .root => true
    | _ => false)
  | none => false

/-- Whether nothing of a thread is under way that the image must wait for. -/
def State.threadAtRest (s : State) (tid : Nat) : Bool :=
  (s.thread tid).fetchHold.isNone && (s.thread tid).fetchOps.isEmpty && !s.killDue tid

/-- Whether a barrier message waits for a free entry at its home tile on this package (R378). -/
def State.barStuck (s : State) (m : BarMsg) : Bool :=
  match m with
  | .arrive k _ _ | .drop k _ _ | .init k _ _ _ _ | .ask k _ =>
    (s.homeTile k.launch k.level k.node).any (fun h => h.1 = s.pkg && !(s.tile h.2).barRoom k)
  | _ => false

/-- Whether nothing of a context is under way on this package that the image must wait for: results and acknowledgements
(R81), engines, fetches and requests to the house kernel (R216, R408), kills (R318), strips and control messages (R371), barrier
messages, and the overflow area. What stands in a memory port behind a cancelled load is kept with it (R452). -/
def State.saveReady (s : State) (asid : Nat) : Bool :=
  s.accs.all (fun a => a.asid != asid || ((s.stuck a.tid).contains a.id && a.parts.all (fun p => !p.isHeld))) &&
  (s.heldCores asid).all (fun c => (s.core c).enginesAtRest) && (s.ctxTids asid).all s.threadAtRest &&
  (s.ctx asid).agentHold.isEmpty && (s.ctx asid).ovfTodo.isEmpty &&
  s.strips.all (fun p => (s.chain p.tile p.entry).asid != asid || s.stripHeld p) &&
  s.chainMsgs.all (fun m => m.asid != asid || !m.holdsSave) &&
  s.barMsgs.all (fun m => !s.allDone m.after || s.barEarlier m || !barMsgOf asid m.msg || s.barStuck m.msg) &&
  (s.heldCores asid).all (fun c => decide ((s.tile (tileOf c)).busy ≤ s.clock))

/-- What the image holds, in the form in which it is restored.
DESIGN CHOICE, unsafe: log 49; DEDUCED, unsafe: log 50. -/
def State.snapshot (s : State) (asid : Nat) (part : PartMap) (regions : List (Word × Nat × Nat)) : Saved :=
  { part := part
    threads := (s.ctxTids asid).map (fun t => (t, s.thread t))
    cores := (s.heldCores asid).map (fun c => (c, (s.core c).checkpoint))
    cues := s.cues.filter (fun c => c.msg.launch.asid = asid && (c.holder.isSome || !s.allDone c.after))
    accs := s.accs.filter (fun a => a.asid = asid)
    chains := s.ctxChains asid
    bars := s.ctxBars asid
    departed := s.tiles.flatMap (fun p => (p.2.departed.filter (fun d => d.launch.asid = asid)).map (fun d => (p.1, d)))
    regions := regions
    sending := s.barMsgs.filter (fun m => barMsgOf asid m.msg) }

/-- The resume that a RESUME entry asks for: the placement begins, and an instant is proposed to the other packages (R251, R253). -/
def State.beginResume (s : State) (asid : Nat) (entry : Option (Nat × Word)) : State :=
  match (s.ctx asid).pause with
  | none => s
  | some p =>
    let peers := (s.ctx asid).peers
    let pr := s.time + 10000
    let p := { p with pr := some pr, prWaits := peers, resumeHeld := entry, agreed := false, byProposer := true, placed := false }
    (s.modCtx asid (fun c => { c with state := .restoring, pause := some p })).sendPeers asid (.resumeReady asid p.tp pr entry)

/-- The event record of a completed pause (R445). Where a region's MODE made the pause save none, its CODE says why by a
value that the spec does not give. -/
def State.pauseEvent (s : State) (asid : Nat) (p : Pause) (failed : Bool) : State :=
  let at' := p.byEntry.getD (0, 0)
  let code := if failed then (Config.freeWord s.fresh).toNat % 256 else 0
  { s with fresh := if failed then s.fresh + 1 else s.fresh }.ctxEvent 4 code asid at'.1 p.reason at'.2.toNat

/-- The context is paused: nothing of it remains on any core, its slot-table entries are free, the PREEMPT is over, and a
held resume begins (R251). -/
def State.paused (s : State) (asid : Nat) (p : Pause) (keep : Saved) (failed : Bool) : State :=
  let cores := s.heldCores asid
  let kept := s.cues.filter (fun c => c.msg.launch.asid = asid && c.holder.isNone && s.allDone c.after)
  let s := ((s.ctxTids asid).foldl (fun (s : State) t => s.setThread t Thread.vacant) s)
  let s := cores.foldl (fun (s : State) c => s.setCore c Core.idle) s
  let s := (s.clearObjects asid).clearTables asid
  let s := { s with cues := s.cues ++ kept }
  let s := s.modCtx asid (fun c => { c with state := .paused, saved := some keep, pause := some { p with resumeHeld := none } })
  let s := (match p.byEntry with
    | some (q, seq) => s.modEntry asid q seq (fun e => { e with ended := true })
    | none => s).pauseEvent asid p failed
  match p.resumeHeld with
  | some e => s.beginResume asid (some e)
  | none => s

/-- A save that fails faults the context at the root, and leaves no DIGEST that matches (R457). -/
def State.saveFailed (s : State) (asid : Nat) (p : Pause) (code : FaultCode) : State :=
  (s.owe asid [.write ((s.ctx asid).desc.saveAddr + 64) (List.replicate 32 0)]).rootBare asid (codeOf code) p.byEntry
    (p.byEntry.getD (0, 0))

/-- Whether a kill of the context has come in and is not yet acted on. -/
def State.killComing (s : State) (asid : Nat) : Bool :=
  s.inbox.any (fun m => match m.msg with
    | .kill l _ _ => l.asid = asid
    | _ => false)

/-- The image is written and the context is paused, once nothing of it is under way here, nor on another package that might still
decide a kill (R318); a write that cannot be made, or an image past the area, faults the context at the root (R457).
DESIGN CHOICE, unsafe: log 49. -/
def execSaveComplete (asid : Nat) (s : State) : Out :=
  match (s.ctx asid).state, (s.ctx asid).pause with
  | .pausing, some p =>
    if !p.stopped || !s.saveReady asid then .next s
    else if !p.saveTold then
      .next ((s.modCtx asid (fun c => { c with pause := some { p with saveTold := true } })).sendPeers asid (.saveReady asid))
    else if !p.saveWaits.isEmpty || s.killComing asid then .next s
    else
      let d := (s.ctx asid).desc
      let table : Ag (List Region) := if p.regions then s.regionTable asid else .ok [] s
      .next (s.agentEnd asid (table.bind (fun rs s =>
        let bad := rs.any (fun r => decide (2 ≤ r.mode))
        let own := if bad then [] else ownRegions (s.ctxPkgs asid).length (s.partIndex asid) rs
        (s.regionData asid own).bind (fun data s =>
          let part := s.imagePart asid p data (p.regions && !bad && rs != [])
          let offs := part.2.2.map (fun o => (d.regions + BitVec.ofNat 64 (32 * o.1 + 24), leBytes 8 o.2))
          if d.saveSize < part.1.length then .bad .prot (d.saveAddr + BitVec.ofNat 64 d.saveSize)
          else (s.agentWrites asid ((d.saveAddr, part.1) :: offs)).bind (fun _ s =>
            .ok (s.snapshot asid part.2.1 (data.map (fun r => (r.2.1.va, r.2.1.mode, r.2.2.length))), bad) s))))
        (fun r s => s.paused asid p r.1 r.2)
        (fun code s => s.saveFailed asid p code))
  | _, _ => .next s

/-! ## Resume (R253, R257) -/

/-- A RESUME makes a resume request, is held in a pausing context, or is over at once in a resident one (R251, R270). -/
def execResume (asid q : Nat) (s : State) : Out :=
  match (s.queue asid q).entries.find? (fun e => e.state = .dispatched && e.kind = 8 && !e.acted) with
  | none => .next s
  | some e =>
    let acted := fun (past : Bool) (s : State) => s.modEntry asid q e.seq (fun e => { e with acted := true, ended := past })
    match (s.ctx asid).state with
    | .paused => .next (acted false (s.beginResume asid (some (q, e.seq))))
    | .pausing =>
      if (((s.ctx asid).pause).bind (fun p => p.resumeHeld)).isSome then .next s
      else .next (acted false (s.modCtx asid (fun c => { c with pause := c.pause.map (fun p => { p with resumeHeld := some (q, e.seq) }) })))
    | .resident => .next (acted true s)
    | _ => .next s

/-- DELTA at the resume instant (R253). -/
def newDelta (tp pr : Word) (tk : Nat) : Word := pr - BitVec.ofNat 64 (tp.toNat * 2 ^ tk)

/-- The instant agreed: DELTA set on this package (R253). -/
def State.agreeResume (s : State) (asid : Nat) (p : Pause) (pr : Word) : State :=
  s.modCtx asid (fun c => { c with
    delta := newDelta p.tp pr c.desc.tk, pause := some { p with pr := some pr, prWaits := [], agreed := true } })

/-- The instant that a package takes or answers: the greatest that it has heard of, at least 10 µs ahead (R253). -/
def State.resumeInstant (s : State) (p : Pause) : Word := BitVec.ofNat 64 (max (p.pr.getD 0).toNat (s.time.toNat + 10000))

/-- A message of the exchange reaches a package that restores. Of two that propose, the one of the lower number goes on and the other
answers it.
DEDUCED, unsafe: log 94. -/
def State.resumeMsg (s : State) (asid src : Nat) (p : Pause) (m : LinkMsg) : State :=
  let set := fun (p : Pause) => s.modCtx asid (fun c => { c with pause := some p })
  match m with
  | .resumeReady _ _ pr entry =>
    let most := some (BitVec.ofNat 64 (max pr.toNat (p.pr.getD 0).toNat))
    if entry.isNone then
      if p.byProposer then set { p with pr := most, prWaits := p.prWaits.filter (fun x => x != src) } else s
    else if !p.byProposer then set { p with pr := most, prWaits := p.prWaits ++ [src] }
    else if src < s.pkg then set { p with pr := most, prWaits := [src], byProposer := false }
    else s
  | .resumeAgree _ _ pr => if p.agreed then s else s.agreeResume asid p pr
  | _ => s

/-- The exchange of the resume instant (R253): a proposal finds a paused package, whose restore begins; a package answers once its image
is placed back; with the last answer the greatest instant is agreed and sent; an agreed one is taken.
DEDUCED, unsafe: log 94. -/
def execResumeAgreement (asid : Nat) (s : State) : Out :=
  let mine := fun (m : LinkMsg) => match m with
    | .resumeReady a _ _ _ | .resumeAgree a _ _ => a = asid
    | _ => false
  match (s.ctx asid).state, (s.ctx asid).pause with
  | .restoring, some p =>
    (match s.takeMsg mine with
     | some (m, s) => .next (s.resumeMsg asid m.src p m.msg)
     | none =>
       let pr := s.resumeInstant p
       if p.agreed || !p.placed then .next s
       else if p.byProposer then
         .next (if p.prWaits.isEmpty then (s.agreeResume asid p pr).sendPeers asid (.resumeAgree asid p.tp pr) else s)
       else
         .next (p.prWaits.foldl (fun (s : State) src => s.sendTo 0 src (.resumeReady asid p.tp pr none))
           (s.modCtx asid (fun c => { c with pause := some { p with pr := some pr, prWaits := [] } }))))
  | .paused, some p =>
    (match s.takeMsg mine with
     | some (⟨_, src, _, .resumeReady _ _ pr by'⟩, s) =>
       .next (s.modCtx asid (fun c => { c with
         state := .restoring
         pause := some { p with pr := some pr, prWaits := [src], agreed := false, byProposer := false, resumeHeld := by', placed := false } }))
     | _ => .next s)
  | _, _ => .next s

/-! ## Placing the image back (R257) -/

/-- Where an image goes: its cores, and its chain entries as (tile, entry), old and new. -/
structure Moves where
  cores  : List (Nat × Nat)
  chains : List ((Nat × Nat) × (Nat × Nat))
  deriving DecidableEq, Repr

/-- The new place of a core, a thread and a chain entry. -/
def Moves.core (m : Moves) (c : Nat) : Nat := ((m.cores.find? (fun p => p.1 = c)).map Prod.snd).getD c
def Moves.tid (m : Moves) (t : Nat) : Nat := 4 * m.core (coreOf t) + t % 4
def Moves.chain (m : Moves) (tile entry : Nat) : Nat × Nat := ((m.chains.find? (fun p => p.1 = (tile, entry))).map Prod.snd).getD (tile, entry)

/-- A place in a pool, after the move. -/
def Moves.loc (m : Moves) (l : Loc) : Loc :=
  match l with
  | .pool c off => .pool (m.core c) off
  | l => l

/-- What faulted, after the move. -/
def Moves.src (m : Moves) (f : FaultSrc) : FaultSrc :=
  match f with
  | .copy c q => .copy (m.core c) q
  | .matrix c => .matrix (m.core c)
  | .chain t e => .chain (m.chain t e).1 (m.chain t e).2
  | f => f

/-- A thread at its new place, paused still. -/
def Thread.moved (m : Moves) (t : Thread) : Thread :=
  let move := fun (r : Raised) => { r with src := m.src r.src }
  { t with raised := t.raised.map move, reports := t.reports.map move, retrying := t.retrying.map m.src }

/-- A thread that goes on (R81, R311): its cancelled loads go first. A fault reported while it was paused is raised now
(R173, R251). -/
def Thread.wake (t : Thread) : Thread :=
  let back : Thread := { t with status := if t.status = .paused then t.prior else t.status }
  match back.status, back.retrying, back.reports with
  | .faulted, some src, _ =>
    (match back.reports.find? (fun f => src.same f.src) with
     | some f => { back with raised := some f, retrying := none, reports := back.reports.erase f }
     | none => back)
  | .faulted, none, _ => back
  | _, _, [] => { back with reissue := [] }
  | _, _, f :: fs => ({ back with reports := fs } : Thread).raiseOn f

/-- A core's engines at their new place, checkpointed still. -/
def Core.moved (m : Moves) (c : Core) : Core :=
  let copy := fun (d : CopyCmd) => { d with tid := m.tid d.tid, old := d.old.map (fun p => (m.loc p.1, p.2)) }
  { c with
    copies := mapVals (List.map copy) c.copies, mx := c.mx.map (fun d => { d with tid := m.tid d.tid })
    sfu := c.sfu.map (fun r => { r with tid := m.tid r.tid }) }

/-- A core's engines go on: what was checkpointed is queued again, and goes on from its recorded progress (R195, R216); a faulted copy or
matrix command is faulted, or accepted, again (R195, R218). -/
def Core.wake (c : Core) : Core :=
  let copy := fun (d : CopyCmd) => { d with state := if d.state = .checkpointed then CopyState.queued else d.state }
  let mx := fun (d : MxCmd) => { d with state := if d.fcode.isSome then MxState.accepted else .queued }
  { c with copies := mapVals (List.map copy) c.copies, mx := c.mx.map mx }.noteAll

/-- A cue's place after the move. -/
def Cue.moved (m : Moves) (c : Cue) : Cue :=
  { c with place := match c.place with
    | .reserved t => .reserved (m.tid t)
    | .stored t => .stored (m.tid t)
    | .spilled t => .spilled (m.tid t)
    | .fetched t => .fetched (m.tid t)
    | .released t => .released (m.tid t)
    | p => p }

/-- An access in a memory port after the move. -/
def Access.moved (m : Moves) (a : Access) : Access :=
  { a with tid := m.tid a.tid, core := m.core a.core, parts := a.parts.map (fun p => { p with loc := p.loc.map m.loc }) }

/-- The strips of an entry to be sent again: those declared whose SENT bit, or at a relay FWD bit, is clear (R372). -/
def ChainEntry.replay (e : ChainEntry) : ChainEntry :=
  let done := if e.role = 1 then e.fwd else e.sent
  { e with toSend := if e.role = 2 then [] else
      ((List.range e.ns).filter (fun k => e.decl.getLsbD k && !done.getLsbD k)).map (fun k => (k, true)) }

/-- A chain entry after the move, NEXT rewritten (R372). -/
def ChainEntry.moved (m : Moves) (e : ChainEntry) : ChainEntry :=
  { e with
    next := m.core e.next, nextEntry := (m.chain (tileOf e.next) e.nextEntry).2, core := m.core e.core, tid := m.tid e.tid,
    joined := e.joined.map (fun (j : Nat × Nat × Nat) => (j.1, m.chain j.2.1 j.2.2)) }.replay

/-- The cores of a gang on this package in placement order. -/
def State.ownCores (s : State) (g : Gang) : List Nat := (g.cores.filter (fun c => c.1 = s.pkg)).map Prod.snd

/-- Placed gangs of a context that have not left this package. -/
def State.savedGangs (s : State) (asid : Nat) : List (Launch × Gang) :=
  (s.launches.filter (fun a => a.id.asid = asid)).flatMap (fun a =>
    (a.gangs.filter (fun g => !g.gone.contains s.pkg && s.ownCores g != [])).map (fun g => (a, g)))

/-- A move for every gang: in place where its cores are free, else to the units that a new placement gives, the cores of other packages
staying as they are; each core keeps its position in the gang (R257). None where a gang cannot be placed now.
DEDUCED, unsafe: log 50. -/
def State.reslice (s : State) (asid : Nat) : List (Launch × Gang) → List (Nat × Nat) → Option (List (Nat × Nat))
  | [], m => some m
  | (a, g) :: gs, m =>
    let taken := fun (c : Nat) => m.any (fun p => p.2 = c)
    let free := fun (c : Nat) => s.coreFree c && !taken c
    let own := s.ownCores g
    if own.all free then State.reslice s asid gs (m ++ own.map (fun c => (c, c)))
    else
      let away := g.cores.filter (fun c => c.1 != s.pkg)
      let room : Room := ⟨a.image.partWord, if away.isEmpty then [s.pkg] else s.ctxPkgs asid,
        fun c => if c / 10240 = s.pkg then free (c % 10240) else away.contains (c / 10240, c % 10240)⟩
      match room.gang a.image g.index [] with
      | some p =>
        let new := gangOf g.index p
        if new.cores.filter (fun c => c.1 != s.pkg) = away then State.reslice s asid gs (m ++ own.zip (s.ownCores new)) else none
      | none => none

/-- Entries for an image's chains in the tables of their cores' tiles: of the old index where that is free, else the lowest free
(R372). None where a table has too few.
DEDUCED, unsafe: log 50. -/
def State.moveChains (s : State) (m : Moves) : List (Nat × Nat × ChainEntry) → Option Moves
  | [] => some m
  | (tile, i, e) :: es =>
    let to' := tileOf (m.core e.core)
    let free := fun (k : Nat) => (s.chain to' k).state = .closed && !m.chains.any (fun p => p.2 = (to', k))
    match (i :: List.range 64).find? free with
    | some k => State.moveChains s { m with chains := m.chains ++ [((tile, i), (to', k))] } es
    | none => none

/-- A gang's places after the move. -/
def Gang.moved (m : Moves) (pkg : Nat) (g : Gang) : Gang :=
  { g with
    cores := g.cores.map (fun c => if c.1 = pkg then (pkg, m.core c.2) else c)
    threads := g.threads.map (fun t => if t.1 = pkg then (pkg, m.core t.2.1, t.2.2) else t) }

/-- The gangs of a context at their new places. -/
def State.moveGangs (s : State) (asid : Nat) (m : Moves) : State :=
  { s with launches := s.launches.map (fun (a : Launch) => if a.id.asid = asid then { a with gangs := a.gangs.map (Gang.moved m s.pkg) } else a) }

/-- The home tile of a barrier that an image holds. -/
def State.homeOf (s : State) (b : Nat × Barrier) : Nat :=
  ((s.homeTile b.2.key.launch b.2.key.level b.2.key.node).map Prod.snd).getD b.1

/-- Whether the barrier tables have room for an image's barriers (R378, R393). -/
def State.barsFit (s : State) (v : Saved) : Bool :=
  let homes := v.bars.map s.homeOf
  homes.all (fun t => decide (homes.count t + (s.tile t).barriers.length ≤ 64))

/-- The moves of an image, if it can be placed now: its gangs, and the entries of its chains and barriers (R257, R372, R393). -/
def State.placing (s : State) (asid : Nat) (v : Saved) : Option Moves :=
  (s.reslice asid (s.savedGangs asid) []).bind (fun cores => (s.moveChains ⟨cores, []⟩ v.chains).bind (fun m =>
    if (s.moveGangs asid m).barsFit v then some m else none))

/-- The first tile of the gang that holds a barrier's node, on this package. -/
def State.gangTile (s : State) (key : BarKey) : Nat :=
  ((s.findLaunch key.launch).bind (fun a => (a.gangs.find? (fun g => inGang a.image g.index key.level key.node)).bind (fun g =>
    (s.ownCores g).head?.map tileOf))).getD 0

/-- A curtain barrier whose gang's first tile goes from one place to another: the rectangle shifted with it, or a memory barrier where it
does not fit the die or its channel is bound there (R392).
DEDUCED, unsafe: log 50. -/
def State.shiftCurtain (s : State) (from' to' : Nat) (b : Barrier) : Barrier :=
  if !b.bound then b
  else
    let row := rectRow0 b.rect + to' % 320 / 20
    let col := rectCol0 b.rect + to' % 320 % 20
    let dr := from' % 320 / 20
    let dc := from' % 320 % 20
    let rect := BitVec.ofNat 64 (row - dr + (col - dc) * 2 ^ 4 + rectNrow b.rect * 2 ^ 9 + rectNcol b.rect * 2 ^ 13)
    if row < dr || col < dc || decide (15 < row - dr + rectNrow b.rect) || decide (19 < col - dc + rectNcol b.rect) ||
        s.curtains.any (fun c => c.2.chan = b.chan && dieOf c.1 = dieOf to' && rectsMeet rect c.2.rect) then
      { b with curtain := false, bound := false }
    else { b with rect := rect }

/-- Barriers put back at their home tiles, each in a free entry (R393); `old` holds the gangs as they stood before. -/
def State.placeBars (s old : State) (v : Saved) : State :=
  v.bars.foldl (fun (s : State) b =>
    let tile := s.homeOf b
    match (s.tile tile).freeBar with
    | some i => s.setBar tile i (some (s.shiftCurtain (old.gangTile b.2.key) (s.gangTile b.2.key) b.2))
    | none => s) s

/-- Departures put back at their home tiles. -/
def State.placeDepartures (s : State) (v : Saved) : State :=
  v.departed.foldl (fun (s : State) d =>
    let tile := ((s.homeTile d.2.launch d.2.level d.2.node).map Prod.snd).getD d.1
    s.modTile tile (fun t => { t with departed := t.departed ++ [d.2] })) s

/-- Kills that came while the context was away meet its threads as these are placed back (R319). -/
def State.killsMet (s : State) (asid : Nat) : State :=
  (s.ctxTids asid).foldl (fun (s : State) t =>
    let u := s.thread t
    if ((s.findLaunch u.launch).map (fun a => a.kills.any (fun k => beneath (s.levelsOf u.launch) u.gidx k.1 k.2))).getD false then
      s.killThread t 2
    else s) s

/-- The image placed back where the moves say, its threads paused and its engines checkpointed still (R257, R372). -/
def State.putBack (s : State) (asid : Nat) (v : Saved) (m : Moves) : State :=
  let moved := s.moveGangs asid m
  let t := { moved with
    accs := s.accs ++ v.accs.map (Access.moved m)
    cues := s.cues ++ v.cues.map (Cue.moved m)
    barMsgs := s.barMsgs ++ v.sending }
  let t := v.cores.foldl (fun (s : State) c => s.setCore (m.core c.1) (c.2.moved m)) t
  let t := v.threads.foldl (fun (s : State) t => s.setThread (m.tid t.1) (t.2.moved m)) t
  let t := v.chains.foldl (fun (s : State) e => s.setChain (m.chain e.1 e.2.1).1 (m.chain e.1 e.2.1).2 (e.2.2.moved m)) t
  ((t.placeBars s v).placeDepartures v).killsMet asid

/-- Whether the image in memory is one of this context, and agrees with the kernel images in memory in tree and partition word (R257): its
header and directory are looked at, and the kernel image of every placed launch. -/
def State.imageAgrees (s : State) (asid : Nat) (m : PartMap) (gs : List (Launch × Gang)) : Ag Bool :=
  (s.agentRead asid (s.ctx asid).desc.saveAddr 272).bind (fun h s =>
    gs.foldl (fun (r : Ag Bool) g => r.bind (fun b s =>
      if !b then .ok false s
      else (s.readImage asid g.1.image.header).bind (fun t s =>
        let i := imageOfBytes g.1.image.header t.1 t.2.1 t.2.2
        .ok (i.levels = g.1.image.levels && i.resident = g.1.image.resident && i.partWord = g.1.image.partWord) s)))
      (.ok (fieldOf h 0 4 = 0x01584353 && fieldOf h 8 2 = asid && m.names (h.drop 128) && (wordAt h 32, wordAt h 40) = s.imageKernel asid) s))

/-- Gangs whose own part has moved told to the other packages that hold parts of them (R257).
DEDUCED, unsafe: log 50. -/
def State.tellMoved (s : State) (asid : Nat) (gs : List (Launch × Gang)) (m : Moves) : State :=
  (gs.filter (fun g => g.2.cores.any (fun c => c.1 != s.pkg) && (s.ownCores g.2).any (fun c => m.core c != c))).foldl
    (fun (s : State) g => (s.ctx asid).peers.foldl (fun (s : State) p => s.sendTo 1 p (.launched (castOf g.1 (g.2.moved m s.pkg)))) s) s

/-- A restore that fails because the image does not agree with the kernel faults the context; the code that tells the host why is not
stated (R257).
DESIGN CHOICE, unsafe: log 49. -/
def State.restoreFailed (s : State) (asid : Nat) (p : Pause) : State :=
  { s with fresh := s.fresh + 1 }.rootBare asid ((Config.freeWord s.fresh).toNat % 256) p.resumeHeld (p.resumeHeld.getD (0, 0))

/-- The RESUME that a restore serves is over, and the host is told (R270, R445).
DESIGN CHOICE, unsafe: log 49. -/
def State.resumed (s : State) (asid : Nat) (p : Pause) : State :=
  let at' := p.resumeHeld.getD (0, 0)
  (match p.resumeHeld with
   | some (q, seq) => s.modEntry asid q seq (fun e => { e with ended := true })
   | none => s).ctxEvent 5 0 asid at'.1 0 at'.2.toNat

/-- The image of a restoring context as memory has it, once it agrees with the kernels: its records, and the regions' data, which
return to their places; none where it does not agree (R257, R259). -/
def State.readBack (s : State) (asid : Nat) (v : Saved) : Ag (Option Saved) :=
  (s.imageAgrees asid v.part (s.savedGangs asid)).bind (fun b s =>
    if !b then .ok none s
    else
      let d := (s.ctx asid).desc
      (s.readPart asid v.part).bind (fun rs s =>
        (State.readRegions asid (d.saveAddr + BitVec.ofNat 64 ((v.part.offs[7]?).getD 0)) v.regions s).bind (fun data s =>
          (s.agentWrites asid data).bind (fun _ s => .ok (some (v.ofRecords d.chTimeout rs)) s))))

/-- The image of a restoring context is read and placed back, as soon as it can be (R251, R257, R259).
DESIGN CHOICE, unsafe: log 49. -/
def execImagePlaced (asid : Nat) (s : State) : Out :=
  match (s.ctx asid).state, (s.ctx asid).pause, (s.ctx asid).saved with
  | .restoring, some p, some v =>
    (match s.placing asid v with
     | none => .next s
     | some m =>
       let gs := s.savedGangs asid
       .next (s.agentEnd asid (s.readBack asid v) (fun v s =>
         match v with
         | none => s.restoreFailed asid p
         | some v =>
           ((s.putBack asid v m).tellMoved asid gs m).modCtx asid (fun c => { c with
             saved := none, pause := some { p with placed := true, resliced := m.cores.any (fun x => x.1 != x.2) } }))
         (fun code s => s.rootBare asid (codeOf code) p.resumeHeld (p.resumeHeld.getD (0, 0)))))
  | _, _, _ => .next s

/-- At the agreed instant the context, placed back, is resident again: its slot-table entries are written, its threads and engines go
on, and strips not credited are sent again (R251, R253, R372). -/
def execRestoreComplete (asid : Nat) (s : State) : Out :=
  match (s.ctx asid).state, (s.ctx asid).pause with
  | .restoring, some p =>
    if !p.placed || !p.agreed || decide (s.time.toNat < (p.pr.getD 0).toNat) then .next s
    else
      let s := (s.ctxTids asid).foldl (fun (s : State) t => s.modThread t Thread.wake) s
      let s := (s.heldCores asid).foldl (fun (s : State) c => s.modCore c Core.wake) s
      let s := (s.writeTables asid).modCtx asid (fun c => { c with
        state := .resident, pause := none, epoch := c.epoch + 1, resliced := p.resliced })
      let s := (((s.ctxChains asid).map Prod.fst).eraseDups).foldl State.pumpTile s
      .next (s.resumed asid p)
  | _, _ => .next s

end Sys2Proof.Machine
end

