-- ==== Sys2Proof/Machine/BarrierEvents.lean ====
section
/-! DEFINITION. The events of barriers: arrivals, drops and departures at a home tile (R385, R455), releases at a member (R385, R387),
curtain releases (R390) and timeouts (R387). -/

namespace Sys2Proof.Machine

/-! ## Messages that may be delivered -/

/-- Whether the barriers and threads of a context are on this package, not in an image (R392). -/
def State.barsHere (s : State) (m : BarMsg) : Bool :=
  match (barMsgHome m).map (fun h => h.1.asid), (barMsgMember m).map (fun w => w.launch.asid) with
  | some asid, _ | none, some asid => (match (s.ctx asid).state with
    | .paused => false
    | .restoring => (s.ctx asid).pause.any (fun p => p.placed)
    | _ => true)
  | none, none => true

/-- A message that has reached this package's barrier logic, taken from the list: its DRAIN is over and it is the next of its
thread. -/
def State.takeBarMsg (s : State) (id : Nat) (p : BarMsg → Bool) : Option (BarMsg × State) :=
  (s.barMsgs.find? (fun f => f.id = id)).bind (fun f =>
    if p f.msg && s.barsHere f.msg && s.allDone f.after && !s.barEarlier f && s.barPkg f.msg = some s.pkg then
      some (f.msg, { s with barMsgs := s.barMsgs.filter (fun g => g.id != id) })
    else none)

/-- The home tile, on this package, of a message to a home. -/
def State.msgTile (s : State) (m : BarMsg) : Option Nat :=
  (barMsgHome m).bind (fun h => (s.homeTile h.1 h.2.1 h.2.2).map Prod.snd)

/-- Whether the gang that holds a node has left this package (R378).
DEDUCED, unsafe: log 54. -/
def State.nodeGone (s : State) (l : LaunchId) (level node : Nat) : Bool :=
  let low := node * threadsBelow (s.levelsOf l) level
  ((s.findLaunch l).map (fun a => a.gangs.any (fun g => g.gone.contains s.pkg && g.threads.any (fun t => t.2.2.2 = low)))).getD false

/-! ## At the home tile -/

/-- The effect of an arrival, a drop or an INIT on a barrier's entry (R383 to R385, R387); one that is asked for is now taken (R378).
DEDUCED, unsafe: log 54. -/
def State.applyBar (s : State) (tile i : Nat) (b : Barrier) (m : BarMsg) : State :=
  match m with
  | .arrive _ who _ => if b.dropped.contains who then s else s.settleBar tile i { b with arrived := b.arrived ++ [who] }
  | .drop _ who withdraw => s.settleBar tile i (b.drop who withdraw)
  | .init _ count timeout curtain who => s.initBar tile i b count timeout curtain who
  | .ask key who => s.sendBar (.room key who) []
  | _ => s

/-- The barrier that a message other than a departure is for. -/
def barMsgKey : BarMsg → Option BarKey
  | .arrive k _ _ | .drop k _ _ | .init k _ _ _ _ | .ask k _ => some k
  | _ => none

/-- An arrival or a drop, or an INIT from another package, reaches the home tile (R383 to R385). With the table full it waits
(R378). -/
def execBarrierArrival (msg : Nat) (s : State) : Out :=
  match s.takeBarMsg msg (fun m => (barMsgKey m).isSome) with
  | none => .next s
  | some (m, s') =>
    match s.msgTile m, barMsgKey m with
    | some tile, some key =>
      if s.nodeGone key.launch key.level key.node then .next s'
      else
        (match s'.takeBar tile key with
         | some (s', i, b) => .next (s'.applyBar tile i b m)
         | none => .next s)
    | _, _ => .next s

/-- The departure of a thread reaches the home tile of one of its nodes (R455).
DEDUCED, unsafe: log 54. -/
def execThreadDeparture (msg : Nat) (s : State) : Out :=
  match s.takeBarMsg msg (fun m => match m with
    | .depart _ _ _ _ _ => true
    | _ => false) with
  | some (.depart l level node who entries, s') =>
    (match s.msgTile (.depart l level node who entries) with
     | none => .next s
     | some tile =>
       if s.nodeGone l level node then .next s'
       else
         let s := s'.modTile tile (fun t => { t with departed := t.departed ++ [⟨l, level, node, who⟩] })
         let of := (s.tile tile).barriers.filter (fun p => p.2.key.launch = l && p.2.key.level = level && p.2.key.node = node)
         .next (of.foldl (fun (s : State) p =>
           let withdraw := entries.any (fun e => e.1 = p.2.key.obj && e.2.1)
           if p.2.dropped.contains who then s else s.settleBar tile p.1 (p.2.drop who withdraw)) s))
  | _ => .next s

/-- The last tile's arrival of a curtain barrier is set: the release reaches every member 40 cycles later (R390). -/
def execCurtainArrival (tile entry : Nat) (s : State) : Out :=
  match lookAt none (s.tile tile).bars entry with
  | some b => if b.curtain && b.complete then .next (s.releaseBar tile entry b false (s.clock + 40)) else .next s
  | none => .next s

/-- The action that BAR.TIMEOUT meets (R316, R317, R387). -/
def State.timeoutAction (s : State) (b : Barrier) : Verdict :=
  let ls := s.levelsOf b.key.launch
  policyWalk true (!b.retried) (groupOf .barTimeout) (threadLevel ls) (ls.drop (threadLevel ls))

/-- A phase has timed out: the arrived members are told, and the home tile applies the action to the barrier (R387). -/
def execBarTimeout (tile entry : Nat) (s : State) : Out :=
  match lookAt none (s.tile tile).bars entry with
  | none => .next s
  | some b =>
    if b.timeout = 0 || b.elapsed != b.timeout || b.arrived.isEmpty || !b.isOpen then .next s
    else
      let s := b.arrived.foldl (fun (s : State) w =>
        s.sendBar (.timeout b.key w b.arrived.length b.count b.retried) []) s
      match s.timeoutAction b with
      | .ignore => .next (s.releaseBar tile entry b true 0)
      | .retry => .next (s.setBar tile entry (some { b with retried := true, elapsed := 0 }))
      | _ => .next (s.setBar tile entry (some { b with elapsed := b.timeout + 1 }))

/-! ## At a member -/

/-- The member entry after a release that the thread had arrived for (R383, R386). -/
def Member.released (e : Member) (phase : BitVec 32) (timedOut : Bool) : Member :=
  { e with arrived := false, sense := !e.sense, done := true,
           status := BitVec.ofNat 64 ((if timedOut then 1 else 0) + phase.toNat * 2 ^ 32) }

/-- A release that the thread had not arrived for: where no member entry is free, a fault reported away from the core (R173, R387). -/
def State.missed (s : State) (tid level obj : Nat) (sense : Bool) : State :=
  let t := s.thread tid
  match t.member level obj with
  | some _ => s.modThread tid (fun t => t.modMember level obj (fun e => { e with sense := !e.sense }))
  | none =>
    if 8 ≤ t.members.length then s.raiseAt tid ⟨.barOverrun, 0, 2, t.pc, .barrier false⟩
    else s.modThread tid (fun t => { t with members := t.members ++ [newMember level obj sense] })

/-- A release, a freed barrier, a timeout, or an entry that it asked for reaches a member (R378, R380, R385, R387). -/
def execBarrierRelease (msg : Nat) (s : State) : Out :=
  let ready := fun (m : BarMsg) => match m with
    | .release _ _ _ _ _ _ due => decide (due ≤ s.clock)
    | .freed _ _ | .timeout _ _ _ _ _ | .room _ _ => true
    | _ => false
  match s.takeBarMsg msg ready with
  | none => .next s
  | some (m, s) =>
    match (barMsgMember m).bind (fun w => s.findThread w.launch w.gidx) with
    | none => .next s
    | some tid =>
      if (s.thread tid).ended then .next s
      else
        match m with
        | .release key _ phase sense timedOut missed _ =>
          if missed then .next (s.missed tid key.level key.obj sense)
          else .next (s.modThread tid (fun t => t.modMember key.level key.obj (fun e => e.released phase timedOut)))
        | .freed key _ =>
          .next (s.modThread tid (fun t => { t with members := t.members.filter (fun e => !(e.level = key.level && e.obj = key.obj)) }))
        | .room key _ =>
          .next (s.modThread tid (fun t =>
            { t with barAsk := if t.barAsk = some (key.level, key.obj, false) then some (key.level, key.obj, true) else t.barAsk }))
        | .timeout key _ total count again =>
          let pc := (((s.thread tid).member key.level key.obj).map (fun e => e.pc)).getD (s.thread tid).pc
          .next (s.raiseAt tid ⟨.barTimeout, 0, BitVec.ofNat 64 (total % 2 ^ 32 + count * 2 ^ 32), pc, .barrier again⟩)
        | _ => .next s

end Sys2Proof.Machine
end

