-- ==== Sys2Proof/Machine/ChainEvents.lean ====
section
/-! DEFINITION. The events of chains: JOIN, ACK and NAK (R362, R363), strips, the target adder and credits (R355, R357), completion
(R366), breaks (R369) and the setup timeout (R368). -/

namespace Sys2Proof.Machine

/-! ## Messages -/

/-- A control message that has arrived, taken from the network: those of one tile to another arrive in the order in which they
were sent (R24, R26). -/
def State.takeChainMsg (s : State) (id : Nat) (p : ChainKind → Bool) : Option (ChainMsg × State) :=
  ((s.chainMsgs.find? (fun m => m.id = id && p m.kind)).filter (fun m =>
    (s.chainMsgs.takeWhile (fun n => n.id != id)).all (fun n =>
      n.fromTile != m.fromTile || tileOf n.toCore != tileOf m.toCore))).map (fun m =>
    (m, { s with chainMsgs := s.chainMsgs.filter (fun n => n.id != id) }))

/-- A reply to the sender of a message. -/
def State.replyChain (s : State) (m : ChainMsg) (kind : ChainKind) (src i : Nat) : State :=
  { s with chainMsgs := s.chainMsgs ++ [⟨s.nextId, kind, m.asid, m.chain, src, tileOf m.toCore, i, m.fromTile * 8, some m.fromEntry⟩],
           nextId := s.nextId + 1 }

/-- Whether an entry consumes from a member (R362). -/
def ChainEntry.consumes (e : ChainEntry) (member : Nat) : Bool :=
  if e.rule = 2 then e.role != 0 && e.member = member + 1 else e.role = 2

/-- The entry of a tile that a message concerns, in use and of the same chain.
DEDUCED, unsafe: log 51. -/
def State.chainFor (s : State) (m : ChainMsg) : Option (Nat × Nat × ChainEntry) :=
  let tile := tileOf m.toCore
  let same := fun (e : ChainEntry) => e.state != .closed && e.asid = m.asid && e.chain = m.chain
  match m.toEntry with
  | some i => let e := s.chain tile i; if same e then some (tile, i, e) else none
  | none =>
    let of := (s.chainsOf tile).filter (fun p => same p.2 && p.2.consumes m.src)
    match of.find? (fun p => p.2.isOpen) with
    | some (i, e) => some (tile, i, e)
    | none => of.head?.map (fun p => (tile, p.1, p.2))

/-- An entry broken; it closes at once where its thread has ended (R369). -/
def State.breakAt (s : State) (tile i cause : Nat) (tell : Bool) : State :=
  let e := s.chain tile i
  let s := s.breakChain tile i cause tell
  if (s.thread e.tid).status = .retired || (s.thread e.tid).status = .killed then s.closeChain tile i else s

/-! ## The handshake (R362, R363) -/

/-- A JOIN reaches its consumer (R362).
DEDUCED, unsafe: log 51. -/
def execChainJoin (msg : Nat) (s : State) : Out :=
  match s.takeChainMsg msg (fun k => match k with
    | .join _ _ _ _ _ _ _ => true
    | _ => false) with
  | some (m, s) =>
    (match m.kind, s.chainFor m with
     | .join rule w row0 nrows nmem member _, some (tile, i, e) =>
       if !e.isOpen then .next (s.replyChain m (.nak 4 e.cause) e.member i)
       else if (s.thread e.tid).status = .retired then .next (s.replyChain m (.nak 3 0) e.member i)
       else if e.rule != rule || e.w != w || e.row0 != row0 || e.nrows != nrows || e.nmem != nmem then
         .next (s.replyChain m (.nak 2 0) e.member i)
       else
         let s := s.modChain tile i (fun e => { e with joined := e.joined ++ [(member, m.fromTile, m.fromEntry)] })
         let f := s.chain m.fromTile m.fromEntry
         let s := if f.state = .joining && f.asid = m.asid && f.chain = m.chain then
             s.setChain m.fromTile m.fromEntry { f with state := .joined, nextEntry := i }
           else s
         .next (s.sendAcks tile i)
     | _, none =>
       let same := match (s.core m.toCore).owner with
         | some (l, _) => decide (l.asid = m.asid)
         | none => false
       .next (s.replyChain m (.nak (if same then 1 else 3) 0) 0 0)
     | _, _ => .next s)
  | none => .next s

/-- An ACK reaches a member: its declared strips may leave (R363). -/
def execChainAck (msg : Nat) (s : State) : Out :=
  match s.takeChainMsg msg (fun k => k = .ack) with
  | some (m, s) =>
    (match s.chainFor m with
     | some (tile, i, e) =>
       if !e.isOpen || e.role = 2 then .next s
       else
         .next ((s.setChain tile i { e with
           ackIn := true, nextEntry := m.fromEntry, state := if e.state = .joining || e.state = .joined then .sending else e.state }).pump
           tile i)
     | none => .next s)
  | none => .next s

/-- A NAK reaches a member, which tries again, or faults and breaks (R362). -/
def execChainNak (msg : Nat) (s : State) : Out :=
  match s.takeChainMsg msg (fun k => match k with
    | .nak _ _ => true
    | _ => false) with
  | some (m, s) =>
    (match m.kind, s.chainFor m with
     | .nak arg cause, some (tile, i, e) =>
       if !e.isOpen then .next s
       else if arg = 1 then
         .next (if e.state = .joining then s.setChain tile i { e with joinDue := some (s.clock + 256) } else s)
       else if arg = 4 then .next (s.breakAt tile i cause true)
       else
         let code := if arg = 2 then FaultCode.chainBusy else .chainAbsent
         let data : Word := if arg = 2 then 8 else 0
         .next ((s.breakAt tile i 4 false).raiseAt e.tid ⟨code, 0, data, e.pc, .chain tile i⟩)
     | _, _ => .next s)
  | none => .next s

/-- 256 cycles after NAK 1 the member sends JOIN again (R362). -/
def execJoinRetry (tile entry : Nat) (s : State) : Out :=
  let e := s.chain tile entry
  match e.joinDue with
  | some due =>
    if e.state = .joining && decide (due ≤ s.clock) && !s.halted e.asid then
      .next ((s.setChain tile entry { e with joinDue := none }).sendChain (.join e.rule e.w e.row0 e.nrows e.nmem e.member e.core) e
        tile entry e.next none)
    else .next s
  | none => .next s

/-! ## The target adder (R353, R355, R356, R59) -/

/-- The flag RANGE of a chain's status. -/
def flagRANGE : Nat := 64

/-- The EXACT word of an element of a STAR.X target: 16 bytes. -/
def ChainEntry.exactOff (e : ChainEntry) (n : Nat) : Nat := slotOff (e.xslot + n / 4096) + 16 * (n % 4096)

/-- What an element has received beside finite values (R356). -/
def State.elemSpecial (s : State) (e : ChainEntry) (n : Nat) : Nat :=
  (leNat (s.poolRead e.core (e.stageOff + n / 4) 1)) / 4 ^ (n % 4) % 4
def State.addSpecial (s : State) (e : ChainEntry) (n v : Nat) : State :=
  let b := leNat (s.poolRead e.core (e.stageOff + n / 4) 1)
  let old := b / 4 ^ (n % 4) % 4
  s.poolWrite e.core (e.stageOff + n / 4) [BitVec.ofNat 8 (b + (old ||| v) * 4 ^ (n % 4) - old * 4 ^ (n % 4))]

/-- The code of a special value: +∞, −∞, NaN. -/
def specialOf : FVal → Nat
  | .inf neg => if neg then 2 else 1
  | .nan => 3
  | _ => 0

/-- One contribution added to the EXACT word of an element (R59); `fresh` starts the word. -/
def State.addExact (s : State) (tile i : Nat) (n : Nat) (w : BitVec 32) : State :=
  let e := s.chain tile i
  let v := decodeF .f32 w.toNat
  if specialOf v != 0 then s.addSpecial e n (specialOf v)
  else
    let r := toExact e.w v
    let off := e.exactOff n
    let old := BitVec.ofNat 128 (leNat (s.poolRead e.core off 16))
    (s.poolWrite e.core off (leBytes 16 (old + r.1).toNat)).modChain tile i (fun e => { e with flags := orF e.flags r.2 })

/-- Words added to the elements from `n` on. -/
def State.addExacts (s : State) (tile i n : Nat) (ws : List (BitVec 32)) : State :=
  ws.zipIdx.foldl (fun (s : State) p => s.addExact tile i (n + p.2) p.1) s

/-- A STAR.X target begins with its own contribution (R355, R363).
DEDUCED, unsafe: log 53. -/
def State.beginExact (s : State) (tile i : Nat) : State :=
  let e := s.chain tile i
  if e.begun then s
  else
    let all := 128 * e.nrows
    let s := (List.range (chainNx e.nrows)).foldl (fun (s : State) k =>
      s.poolWrite e.core (slotOff (e.xslot + k)) (List.replicate 65536 0)) s
    let s := s.poolWrite e.core e.stageOff (List.replicate (e.nrows * 32) 0)
    let own := wordsOf (s.poolRead e.core (slotOff e.slot + 512 * e.row0) (4 * all))
    (s.addExacts tile i 0 own).modChain tile i (fun e => { e with begun := true })

/-- One flit added to the slot by RNE_F32 (R355). -/
def State.addFlit (s : State) (tile i k f : Nat) (ws : List (BitVec 32)) : State :=
  let e := s.chain tile i
  let off := e.stripOff k + 128 * f
  let r := addWords (wordsOf (s.poolRead e.core off 128)) ws
  (s.poolWrite e.core off (bytesOf r.1)).modChain tile i (fun e => { e with flags := orF e.flags r.2 })

/-- Whether a strip has been accepted before (R357). -/
def ChainEntry.holds (e : ChainEntry) (src k : Nat) : Bool := (lookAt 0 e.rx src).getLsbD k

/-- The strip of a sender that the adder may serve: the first on its path, not a duplicate, with flits left.
DESIGN CHOICE, safe: log 52. -/
def State.servable (s : State) (tile i src : Nat) : Option Strip :=
  (s.strips.find? (fun p => p.tile = tile && p.entry = i && p.src = src)).filter (fun p =>
    decide (p.served < 32) && !(s.chain tile i).holds src p.strip)

/-- The strips sent before this one from the same tile to the same tile are in: they took the same path (R24, R26). -/
def State.pathIn (s : State) (p : Strip) : State :=
  let before := s.strips.takeWhile (fun q => !(q.tile = p.tile && q.entry = p.entry && q.src = p.src && q.strip = p.strip))
  { s with strips := before.map (fun q =>
      if q.fromTile = p.fromTile && q.tile = p.tile then { q with arrived := true } else q) ++ s.strips.drop before.length }

/-- The senders with a flit at the target's port. Whether the next flit of a strip has come in is left free, but for a strip
whose path has brought a later one.
DESIGN CHOICE, safe: log 52. -/
def State.portSenders (s : State) (tile i : Nat) : List Nat × State :=
  let srcs := ((s.chain tile i).joined.map (fun j => j.1)).eraseDups
  srcs.foldl (fun (r : List Nat × State) m =>
    match r.2.servable tile i m with
    | none => r
    | some p =>
      let s := { r.2 with fresh := r.2.fresh + 1 }
      (if p.arrived || Config.freeBit r.2.fresh then r.1 ++ [m] else r.1, s)) ([], s)

/-- The target adder serves one flit, by round robin over the senders present, once the commands that write the target's own
contribution are done, and the accesses that its SEND follows (R353, R355, R363, R226).
DESIGN CHOICE, safe: log 52. -/
def execTargetAdderFlit (tile entry : Nat) (s : State) : Out :=
  let e := s.chain tile entry
  if e.role != 2 || !e.isOpen || !s.writersDone e || !s.allDone e.after then .next s
  else
    let r := s.portSenders tile entry
    match (nextAfter e.lastSrc r.1).bind (fun m => (r.2.servable tile entry m).map (fun p => (m, p))) with
    | none => .next r.2
    | some (m, p) =>
      let f := p.served
      let ws := (p.data.drop (32 * f)).take 32
      let place := if e.rule = 1 then (e.exactOff (1024 * p.strip + 32 * f), 512) else (e.stripOff p.strip + 128 * f, 128)
      if !r.2.inTurn e.core place.1 place.2 rankEngine then .next r.2
      else
      let s := (r.2.pathIn p).serve e.core place.1 place.2 rankEngine
      let s := if e.rule = 1 then (s.beginExact tile entry).addExacts tile entry (1024 * p.strip + 32 * f) ws
        else s.addFlit tile entry p.strip f ws
      let serve := fun (q : Strip) =>
        if q.tile = tile && q.entry = entry && q.src = m && q.strip = p.strip && q.served = f then { q with served := f + 1 } else q
      .next ({ s with strips := s.strips.map serve }.modChain tile entry (fun e => { e with lastSrc := m }))

/-! ## Strips accepted (R357) and completion (R366) -/

/-- CREDIT to the sender of a strip. -/
def State.credit (s : State) (tile i : Nat) (p : Strip) : State :=
  s.sendChain (.credit p.strip) (s.chain tile i) tile i (p.fromTile * 8) (some p.fromEntry)

/-- One element of a STAR.X result, with its flags: a special value replaces FROM_EXACT's result, not its flags (R59). -/
def exactResult (w : Int) (n : BitVec 128) (special : Nat) : Nat × Nat :=
  let r := fromExact w n
  match special with
  | 0 => r
  | 1 => (0x7F800000, r.2)
  | 2 => (0xFF800000, r.2)
  | _ => (0x7FC00000, orF r.2 flagNV)

/-- Every element of a STAR.X target converted into its slot. -/
def State.finishExact (s : State) (tile i : Nat) : State :=
  let e := s.chain tile i
  (List.range (128 * e.nrows)).foldl (fun (s : State) n =>
    let r := exactResult e.w (BitVec.ofNat 128 (leNat (s.poolRead e.core (e.exactOff n) 16))) (s.elemSpecial e n)
    (s.poolWrite e.core (slotOff e.slot + 512 * e.row0 + 4 * n) (leBytes 4 r.1)).modChain tile i (fun e =>
      { e with flags := orF e.flags r.2 })) s

/-- The strips that a target waits for. -/
def ChainEntry.wanted (e : ChainEntry) : Nat := if e.rule = 2 then e.ns else e.ns * (e.nmem - 1)

/-- COMPLETE to every member that joined. -/
def State.sendCompletes (s : State) (tile i : Nat) : State :=
  let e := s.chain tile i
  e.joined.foldl (fun (s : State) m => s.sendChain .complete e tile i (m.2.1 * 8) (some m.2.2)) s

/-- The target completes: result, completion word, COMPLETE, cue, and the entry closes (R366). -/
def State.completeChain (s : State) (tile i : Nat) : State :=
  let s := if (s.chain tile i).rule = 1 then (s.beginExact tile i).finishExact tile i else s
  let e := s.chain tile i
  let s := (s.writeCword e false).sendCompletes tile i
  let s := match e.cue with
    | some id => s.modCue id (fun c => { c with
        place := .stored e.tid, msg := { c.msg with kind := 0, payload := leBytes 8 (e.cwordValue false) } })
    | none => s
  s.closeChain tile i

/-- A strip is accepted, or discarded as a duplicate, of which a strict chain's sender is told while its entry is open (R357). A relay stages it and gives its CREDIT once the buffer is free
again (R367).
DEDUCED, unsafe: log 51. -/
def execStripAccepted (tile entry src : Nat) (s : State) : Out :=
  let e := s.chain tile entry
  match s.strips.find? (fun p => p.tile = tile && p.entry = entry && p.src = src) with
  | none => .next s
  | some p =>
    let s := s.pathIn p
    let gone := { s with strips := s.strips.erase p }
    if !e.isOpen then .next gone
    else if e.holds src p.strip then
      let s := (gone.setChain tile entry { e with dups := e.dups + 1 }).credit tile entry p
      let f := s.chain p.fromTile p.fromEntry
      let same := f.isOpen && f.asid = e.asid && f.chain = e.chain && f.member = src
      .next (if !p.replay && e.strict && same then s.raiseAt f.tid ⟨.chainDup, 0, 0, f.sendPc, .chain p.fromTile p.fromEntry⟩ else s)
    else
      let seen := { e with rx := putAt 0 e.rx src (lookAt 0 e.rx src ||| (1#16 <<< p.strip)), flags := orF e.flags p.flags }
      if e.role = 1 then
        let at' := e.stageOff + 4096 * (p.strip % 2)
        let s := (gone.poolWrite e.core at' (bytesOf p.data)).setChain tile entry { seen with
          flags := e.flags, staged := e.staged ++ [(p.strip, p.flags, p.replay, p.data)] }
        .next (s.pump tile entry)
      else if p.served != 32 || (decide (e.count + 1 = e.wanted) && !s.inTurn e.core (poolOff e.cword) 16 rankEngine) then .next s
      else
        let s := (gone.setChain tile entry { seen with count := e.count + 1, state := .sending }).credit tile entry p
        .next (if e.count + 1 = e.wanted then s.completeChain tile entry else s)

/-- A CREDIT reaches a sender (R357, R364). A relay frees the buffer and credits its own predecessor. -/
def execChainCredit (msg : Nat) (s : State) : Out :=
  match s.takeChainMsg msg (fun k => match k with
    | .credit _ => true
    | _ => false) with
  | some (m, s) =>
    (match m.kind, s.chainFor m with
     | .credit k, some (tile, i, e) =>
       if !e.isOpen then .next s
       else
         let bit := 1#16 <<< k
         let staged := e.staged.filter (fun q => q.1 != k)
         let e' := { e with sent := e.sent ||| bit, fwd := if e.role = 1 then e.fwd ||| bit else e.fwd, staged := staged }
         let e' := if e'.sent &&& e'.allStrips = e'.allStrips then { e' with state := ChainState.done } else e'
         let s := s.setChain tile i e'
         let s := if e.role = 1 && staged.length != e.staged.length then
             e.joined.foldl (fun (s : State) j => s.sendChain (.credit k) e tile i (j.2.1 * 8) (some j.2.2)) s
           else s
         .next (s.pump tile i)
     | _, _ => .next s)
  | none => .next s

/-- COMPLETE reaches a member, which passes it on under LINE and closes (R366). -/
def execChainComplete (msg : Nat) (s : State) : Out :=
  match s.takeChainMsg msg (fun k => k = .complete) with
  | some (m, s) =>
    (match s.chainFor m with
     | some (tile, i, e) =>
       if e.state = .broken || e.role = 2 then .next s
       else .next ((if e.role = 1 then s.sendCompletes tile i else s).closeChain tile i)
     | none => .next s)
  | none => .next s

/-! ## Breaks and the timeout (R368, R369) -/

/-- A BREAK reaches a member, which records the cause and passes it on (R369). -/
def execChainBreak (msg : Nat) (s : State) : Out :=
  match s.takeChainMsg msg (fun k => match k with
    | .brk _ => true
    | _ => false) with
  | some (m, s) =>
    (match m.kind, s.chainFor m with
     | .brk cause, some (tile, i, e) => .next (if e.isOpen then s.breakAt tile i cause true else s)
     | _, _ => .next s)
  | none => .next s

/-- The setup timeout of a member has run out (R368). A thread that has ended takes no fault: its entry breaks.
DEDUCED, unsafe: log 53. -/
def execChainTimeout (tile entry : Nat) (s : State) : Out :=
  let e := s.chain tile entry
  let limit := (s.ctx e.asid).desc.chTimeout
  if !e.isOpen || e.role = 2 || !e.firstSend || e.ackIn || limit = 0 || e.elapsed != limit then .next s
  else
    let s := s.setChain tile entry { e with elapsed := limit + 1 }
    if (s.thread e.tid).status = .retired || (s.thread e.tid).status = .killed then .next (s.breakAt tile entry 5 false)
    else .next (s.raiseAt e.tid ⟨.chainTimeout, 0, 0, e.sendPc, .chain tile entry⟩)

end Sys2Proof.Machine
end

