-- ==== Sys2Proof/Machine/LinkEvents.lean ====
section
/-! DEFINITION. The link and the domain (R419 to R434): flits, retry, arbitration, port states, what a port that goes down
fails, routes, and the time transfer. -/

namespace Sys2Proof.Machine

/-! ## A message that has come in -/

/-- A gang's part has left another package (R298). -/
def State.partGone (s : State) (l : LaunchId) (gang pkg : Nat) : State :=
  s.modLaunch l (fun a =>
    let gone := fun (g : Gang) =>
      let out := if g.gone.contains pkg then g.gone else g.gone ++ [pkg]
      if g.index = gang then { g with gone := out, left := g.cores.all (fun c => out.contains c.1) } else g
    { a with gangs := a.gangs.map gone })

/-- All threads of a gang have ended everywhere (R298). -/
def State.gangIsOver (s : State) (l : LaunchId) (gang : Nat) : State :=
  s.modLaunch l (fun a => { a with gangs := a.gangs.map (fun g => if g.index = gang then { g with finished := true } else g) })

/-- The gang of a cast message, as a launch lists it. -/
def castGang (m : CastMsg) : Gang :=
  { index := m.gang, cores := m.cores, threads := m.threads, ended := [], finished := false, gone := [], left := false }

/-- A launch that another package dispatched, as it is told of it: what was known of it before, by a kill, stays. -/
def State.knownLaunch (s : State) (m : CastMsg) : Launch :=
  { (s.findLaunch m.launch).getD (Launch.stub m.launch) with home := m.home, image := m.image, args := m.args, tagT := m.tagT }

/-- Whether a launch is known here with its image. -/
def State.knows (s : State) (l : LaunchId) : Bool := (s.findLaunch l).any (fun a => !a.image.levels.isEmpty)

/-- A launch that has passed its checks is known here, too, and its queue names its code (R113, R303); where the message names cores, its
gang has moved to them (R257). -/
def State.launchIn (s : State) (m : CastMsg) : State :=
  let a := s.knownLaunch m
  if m.cores = [] then
    (s.addLaunch { a with state := if s.knows m.launch then a.state else .waiting }).nameCode m.launch.asid m.launch.q m.image
  else s.addLaunch { a with gangs := a.gangs.map (fun g => if g.index = m.gang then { g with cores := m.cores, threads := m.threads } else g) }

/-- Whether a context can take a cast, some false where it never will: a loaded one only while activation is not refused (R449), one in
an image when it is back (R303). -/
def State.takesCast (s : State) (asid : Nat) : Option Bool :=
  match (s.ctx asid).state with
  | .loaded => if s.hotDies.isEmpty then some true else none
  | .resident | .pausing => some true
  | .paused | .restoring => none
  | .absent | .built | .faulted => some false

/-- A cast from another package: the launch and its gang are recorded, the context becomes resident, and the cast begins
here (R251, R299). Nothing starts of a launch that is over, nor in a context that has faulted (R303). -/
def State.castIn (s : State) (m : CastMsg) : State :=
  let a := s.knownLaunch m
  let isOver := a.state = .complete || a.state = .discarded
  if isOver || s.takesCast m.launch.asid != some true then s.castOver m
  else
    let s := (s.activate m.launch.asid).addLaunch { a with state := .running, gangs := a.gangs ++ [castGang m] }
    if m.cores.any (fun c => c.1 = s.pkg) then s.beginCast m else s.castOver m

/-- A cast that has come in begins, or is passed over (R299, R303). -/
def execCastIn (s : State) : Out :=
  match s.takeMsg (fun m => match m with
    | .cast c => (s.takesCast c.launch.asid).isSome
    | _ => false) with
  | some (⟨_, _, _, .cast c⟩, s) => .next (s.castIn c)
  | _ => .next s

/-- A cast is complete on another package, or was lost on its way there: a pause that waits for it goes on (R303). -/
def State.castDone (s : State) (l : LaunchId) (gang pkg : Nat) : State :=
  (s.modCtx l.asid (fun c => { c with castOut := c.castOut.filter (fun o => o != (l, gang, pkg)) })).agreePause l.asid

/-- A packet pushed on another package: it waits here to be written to its ring, or is given up where the queue is not enabled (R278,
R282). -/
def State.pushIn (s : State) (src asid q : Nat) (p : Push) : State :=
  if !(s.queue asid q).enabled then s.pushOver asid q p none
  else s.modQueue asid q (fun k => { k with pushes := k.pushes ++ [{ p with origin := src }], promised := k.promised - 1 })

/-- What became of a packet that was sent to the package that reads its queue: its access is over, and where it was an attached child its
position is noted (R282, R301). -/
def State.pushedAt (s : State) (asid q acc : Nat) (pos : Option Nat) : State :=
  (s.endPush acc).modQueue asid q (fun k => { k with pushes := match pos with
    | some w => k.pushes.map (fun p => if p.sent && p.acc = acc then { p with pos := some w } else p)
    | none => k.pushes.filter (fun p => !(p.sent && p.acc = acc)) })

/-- A message for this package: cues, barrier messages and what packages tell one another of launches, queues and casts take
effect; any other message waits for its event. -/
def State.deliver (s : State) (port vc src : Nat) (m : LinkMsg) : State :=
  match m with
  | .cue c sender =>
    { s with
      cues := s.cues ++ [{ id := s.nextId, msg := c, place := .inFlight, after := [], cell := none, block := none,
                           first := false, shared := false, sender := sender }]
      nextId := s.nextId + 1 }
  | .cueStored asid q seq => s.modEntry asid q seq (fun e => { e with ended := true })
  | .bar b => s.sendBar b []
  | .launched c => s.launchIn c
  | .castDone l gang pkg => s.castDone l gang pkg
  | .push asid q packet l gidx level top acc =>
    s.pushIn src asid q { origin := src, sent := false, packet := packet, launch := l, gidx := gidx, level := level, top := top,
                          after := [], pos := none, acc := acc }
  | .pushed asid q acc pos => s.pushedAt asid q acc pos
  | .pushAsk asid q => s.modQueue asid q (fun k => { k with askers := k.askers ++ [src] })
  | .pushRoom asid q => s.modQueue asid q (fun k => { k with granted := k.granted + 1, asked := false })
  | .entryLost asid q seq => s.modQueue asid q (fun k => { k with lost := k.lost ++ [seq] })
  | .skipped asid q first past => s.modQueue asid q (fun k => { k with skipped := k.skipped ++ [(first, past)] })
  | .partEnded l gang stores => s.partOver l gang src stores
  | .partLeft l gang => s.partGone l gang src
  | .gangOver l gang => s.gangIsOver l gang
  | .hostDone l => s.modLaunch l (fun a => { a with hostWait := a.hostWait.filter (fun p => p != src) })
  | .saveReady asid => s.modCtx asid (fun c => { c with
      pause := c.pause.map (fun p => { p with saveWaits := p.saveWaits.filter (fun x => x != src) }) })
  | .refresh asid q => s.fenceCode asid q
  | m => { s with inbox := s.inbox ++ [⟨port, src, vc, m⟩] }

/-! ## Messages that wait for a route -/

/-- A message goes where it belongs: here, or on its way once a route carries it. -/
def State.sendBack (s : State) (vc dst : Nat) (m : LinkMsg) : State :=
  if dst = s.pkg then s.deliver 0 vc s.pkg m else { s with unsent := s.unsent ++ [(vc, dst, m)] }

/-- Messages that have waited for a route leave over it, in their order. -/
def execUnsent (s : State) : Out :=
  match s.unsent.find? (fun u => (s.linkTo u.2.1).isSome) with
  | none => .next s
  | some u =>
    let rest := s.unsent.erase u
    .next { { s with unsent := [] }.sendTo u.1 u.2.1 u.2.2 with unsent := rest }

/-! ## A port that goes down (R430, R432) -/

/-- A message that a dropped flit carried is failed back: a remote operation, or one whose acknowledgement is dropped, is answered LINK at
its source; the source of a collective step, of a cast and of a pushed packet is told. Any other message is lost (R430, R432).
DEDUCED, unsafe: log 58. -/
def State.failMsg (s : State) (f : Flit) : State :=
  let src := f.src.toNat
  let dst := f.dst.toNat
  match f.msg with
  | some (.remoteOp num _ _ _) => s.sendBack 2 src (.remoteAck num (.refused .link))
  | some (.remoteAck num _) => s.sendBack 2 dst (.remoteAck num (.refused .link))
  | some (.collData asid step _ _) | some (.collNotice asid step) => s.sendBack 0 src (.collLost asid dst step)
  | some (.collAck asid step) => s.sendBack 0 dst (.collLost asid src step)
  | some (.cast c) => s.sendBack 0 src (.castDone c.launch c.gang dst)
  | some (.push asid q _ _ _ _ _ acc) => s.sendBack 2 src (.pushed asid q acc none)
  | some (.pushed asid q acc pos) => s.sendBack 2 dst (.pushed asid q acc pos)
  | _ => s

/-- Everything that the port carried is dropped, and failed back to its source (R430, R432).
DEDUCED, unsafe: log 58. -/
def State.failPort (s : State) (port : Nat) : State :=
  let p := s.port port
  let lost := p.replay ++ p.queues.flatMap Prod.snd
  lost.foldl State.failMsg (s.modPort port (fun p => { p with replay := [], again := [], queues := [], retryDue := false, exchange := none }))

/-- A collective step of which a flit was dropped is discarded with LINK (R430, R432). -/
def execCollectiveLost (s : State) : Out :=
  match s.takeMsg (fun m => match m with
    | .collLost _ _ _ => true
    | _ => false) with
  | some (⟨_, _, _, .collLost asid peer step⟩, s') =>
    let of := fun (p : Nat × Queue) => if p.1 / 256 != asid then none
      else (p.2.entries.find? (fun e => e.state = .dispatched && e.kind = 4 && !e.ended && e.field 32 1 = 0 && e.field 34 2 = peer &&
        BitVec.ofNat 32 (e.field 36 4) = step)).map (fun e => (p.1 % 256, e.seq))
    (match s.queues.findSome? of with
     | none => .next s'
     | some (q, seq) =>
       (match s'.endEntry asid q seq .discarded (codeOf .link) with
        | .ok _ t => .next (t.agentDone asid)
        | .wait n => .next (s.needs asid n)
        | .bad c va => .next (s'.noteBad asid c va)))
  | _ => .next s

/-- A change of a port's state, with the event record of R445.
DEDUCED, unsafe: log 59. -/
def State.portState (s : State) (port : Nat) (st : PortState) : State :=
  if (s.port port).state = st then s else (s.modPort port (fun p => { p with state := st })).pkgEvent 6 0 port

/-- The port goes down (R429, R430). -/
def State.portDown (s : State) (port : Nat) : State :=
  ((s.portState port .down).failPort port).modPort port (fun p => { p with lanes := 0, locked := false })

/-! ## Link-level retry (R421) -/

/-- The replay buffer without the flits up to a sequence number.
DEDUCED, unsafe: log 58. -/
def dropThrough (seq : BitVec 12) (fs : List Flit) : List Flit :=
  if fs.any (fun f => f.seq = seq) then (fs.dropWhile (fun f => f.seq != seq)).drop 1 else fs

/-- The transmitter sends again from the flit after the last good one (R421). -/
def State.resend (s : State) (port : Nat) (seq : BitVec 12) : State :=
  s.modPort port (fun p =>
    let left := dropThrough seq p.replay
    let same := left != [] && left.length = p.replay.length
    { p with replay := left, again := left, resends := if left = [] then 0 else if same then p.resends + 1 else 1 })

/-- A retry request names the last good SEQ (R421).
DEDUCED, unsafe: log 57. -/
def execRetryRequest (port seq : Nat) (s : State) : Out :=
  if (s.port port).carries then .next (s.resend port (BitVec.ofNat 12 seq)) else .next s

/-- The same flit has failed eight times in a row: the port goes down (R421, R429).
DEDUCED, unsafe: log 59. -/
def execRetryExhausted (port : Nat) (s : State) : Out :=
  let p := s.port port
  if p.carries && (decide (8 ≤ p.fails) || decide (8 ≤ p.resends)) then .next (s.portDown port) else .next s

/-! ## Flits that have come in -/

/-- An accepted flit: with its last flit a message is delivered, or its flits are passed on together over the same VC (R423,
R424).
DEDUCED, unsafe: log 58. -/
def State.acceptFlit (s : State) (port : Nat) (f : Flit) : State :=
  if !f.last then s
  else if f.dst.toNat = s.pkg then
    match f.msg with
    | some m => s.deliver port f.vc.toNat f.src.toNat m
    | none => s
  else
    match s.linkTo f.dst.toNat with
    | some out => s.queueFlit out f
    | none => s.failMsg f

/-- The half of a VC's buffers that flits from this package over a port use: ascending or, where the hop is to a lower package,
descending. A route rises and then falls, so a flit never comes back to the ascending half (R424). -/
def Port.half (p : Port) (pkg vc : Nat) : Nat := 2 * vc + (if p.peer < pkg then 1 else 0)
/-- The credits held for a VC, and credits returned for it (R422). -/
def Port.credit (p : Port) (pkg vc : Nat) : Nat := lookAt 0 p.credits (p.half pkg vc)
def Port.addCredit (p : Port) (pkg vc n : Nat) : SMap Nat := putAt 0 p.credits (p.half pkg vc) (p.credit pkg vc + n)

/-- The symbols that FEC has corrected within the last 1 ms, with those of a flit that arrives in this cycle (R419).
DEDUCED, unsafe: log 57. -/
def Port.fixed (p : Port) (clock : Nat) (f : Flit) : List (Nat × Nat) :=
  (if f.fixed = 0 then p.fixes else p.fixes ++ [(clock, f.fixed)]).filter (fun e => decide (clock < e.1 + 1000000))

/-- A flit arrives (R420, R421): a failed one, or one of a reserved KIND, makes the receiver drop all that follow until it has sent a
retry request; one that carries the next SEQ is accepted, and its acknowledgement and credits are taken.
DEDUCED, unsafe: log 57. -/
def execFlitReceived (port : Nat) (f : Flit) (s : State) : Out :=
  let p := s.port port
  if !p.carries then .next s
  else
    let s := s.modPort port (fun p => { p with heard := s.clock, fixes := p.fixed s.clock f })
    if p.retryDue then .next s
    else if !f.good || f.kind.isReserved then
      .next (s.modPort port (fun p => { p with retryDue := true, fails := p.fails + 1 }))
    else if f.kind = .retry then .next (s.resend port f.ack)
    else if f.seq != p.rxSeq then .next s
    else
      let s := s.modPort port (fun p => { p with
        rxSeq := if f.kept then p.rxSeq + 1 else p.rxSeq
        fails := 0
        resends := if f.ackv && p.replay.any (fun g => g.seq = f.ack) then 0 else p.resends
        replay := if f.ackv then dropThrough f.ack p.replay else p.replay
        again := if f.ackv then dropThrough f.ack p.again else p.again
        credits := if f.credit = 0 then p.credits else p.addCredit s.pkg f.cvc.toNat f.credit.toNat
        freed := if f.kind != .idle then putAt 0 p.freed f.vc.toNat (lookAt 0 p.freed f.vc.toNat + 1) else p.freed })
      .next (if f.kind = .idle then s else s.acceptFlit port f)

/-! ## Arbitration (R422, R423) -/

/-- The flit buffers of a VC (R422). -/
def vcBuffers (vc : Nat) : Nat := if vc = 0 then 8 else if vc = 3 then 128 else 64

/-- Whether a VC has a flit that may leave: a credit is held, and the replay buffer has room for a data flit (R421, R422). -/
def Port.ready (p : Port) (pkg vc : Nat) : Bool :=
  match lookAt [] p.queues vc with
  | [] => false
  | f :: _ => decide (0 < p.credit pkg vc) && (f.kind != .data || decide (p.replay.length < 512))

/-- Whether a VC leaves a flit time unused to keep the power limit: one that no FLOCK context reserves (R449).
DEDUCED, unsafe: log 63. -/
def State.vcIdle (s : State) (port vc : Nat) : Bool :=
  s.powerIdle 2 (8 * port + vc) && !s.locks.any (fun l => decide (4 ≤ vc) && l.2.2.testBit (vc - 4))

/-- Whether a VC may send in this flit time. -/
def State.vcReady (s : State) (port : Nat) (p : Port) (vc : Nat) : Bool := p.ready s.pkg vc && !s.vcIdle port vc

/-- The VCs from 4 to 7 that a context reserves. -/
def Ctx.vcs (c : Ctx) : List Nat := if c.reserves then [4, 5, 6, 7].filter (fun v => c.desc.vcmask.testBit (v - 4)) else []

/-- The VC served in this flit time, and whether as an owner's (R423). -/
def State.pickVc (s : State) (port : Nat) (p : Port) : Option (Nat × Bool) :=
  let shared := ([1, 2, 3] ++ [4, 5, 6, 7].filter (fun v => s.ctxs.any (fun c => c.2.vcs.contains v))).filter (s.vcReady port p)
  let any := (nextAfter p.lastVc shared).map (fun v => (v, false))
  if s.vcReady port p 0 then some (0, false)
  else
    let e := lookAt SlotEntry.unowned p.slots (s.clock / 4096 % 16)
    match e.owner with
    | none => any
    | some asid =>
      match nextAfter p.lastOwn ((s.ctx asid).vcs.filter (s.vcReady port p)) with
      | some v => some (v, true)
      | none => if e.lend then any else none

/-- A flit as it leaves: SEQ, the acknowledgement, the credits given back, and the CRC (R420). -/
def Port.stamped (p : Port) (f : Flit) : Flit × Port :=
  let v := ((List.range 8).find? (fun v => decide (0 < lookAt 0 p.freed v))).getD 0
  let n := min 63 (lookAt 0 p.freed v)
  (({ f with seq := p.txSeq, ack := p.rxSeq - 1, ackv := p.rxSeq != 0, credit := BitVec.ofNat 6 n, cvc := BitVec.ofNat 3 v } : Flit).sealed,
   { p with freed := putAt 0 p.freed v (lookAt 0 p.freed v - n) })

/-- A flit without a message.
DEDUCED, unsafe: log 57. -/
def bareFlit (s : State) (p : Port) (kind : FlitKind) : Flit := { mkFlit 0 s.pkg p.peer none with kind := kind }

/-- The port after a flit has left: one that stands in the order of SEQ takes its number and stays in the replay buffer (R421). -/
def Port.sent (p : Port) (f : Flit) : Port :=
  { p with
    txSeq := if f.kept then p.txSeq + 1 else p.txSeq, replay := if f.kept then p.replay ++ [f] else p.replay, wire := some f }

/-- What the transmitter does in one flit time: a retry request that is due, a flit to be sent again, the flit of the VC that
arbitration picks, or an idle flit (R421, R423).
DEDUCED, unsafe: log 57. -/
def State.transmit (s : State) (port : Nat) (p : Port) : Port :=
  if p.retryDue then
    { p with retryDue := false, wire := some ({ bareFlit s p .retry with seq := p.txSeq, ack := p.rxSeq - 1, ackv := true } : Flit).sealed }
  else
    match p.again with
    | f :: fs => { p with again := fs, resent := p.resent + 1, wire := some f }
    | [] =>
      match s.pickVc port p with
      | none =>
        let r := p.stamped (bareFlit s p .idle)
        r.2.sent r.1
      | some (v, own) =>
        match lookAt [] p.queues v with
        | [] => p
        | f :: fs =>
          let r := p.stamped f
          { r.2.sent r.1 with
            queues := putAt [] p.queues v fs
            credits := putAt 0 p.credits (p.half s.pkg v) (p.credit s.pkg v - 1)
            lastVc := if own || v = 0 then p.lastVc else v
            lastOwn := if own then v else p.lastOwn }

/-- The cues, and the barrier messages, whose way leads over a port and whose turn has come: they enter its queues, those to a
home on VC 3 and a release, which is a cast, on VC 1 (R391, R422).
DEDUCED, unsafe: log 58. -/
def State.departOver (s : State) (port : Nat) : State :=
  let out := fun (pkg : Option Nat) => match pkg with
    | some d => d != s.pkg && s.linkTo d = some port
    | none => false
  let cues := s.cues.filter (fun c => c.place = .inFlight && s.allDone c.after &&
    out ((s.placeOf c.msg.launch c.msg.target).map (fun p => p.1)))
  let bars := s.barMsgs.filter (fun f => s.allDone f.after && !s.barEarlier f && out (s.barPkg f.msg))
  let s := cues.foldl (fun (s : State) c =>
    match s.placeOf c.msg.launch c.msg.target with
    | some (d, _, _) => (s.sendTo 1 d (.cue c.msg c.sender)).dropCuesBy (fun k => k.id = c.id)
    | none => s) s
  bars.foldl (fun (s : State) f =>
    match s.barPkg f.msg with
    | some d => { s with barMsgs := s.barMsgs.filter (fun g => g.id != f.id) }.sendTo (if (barMsgMember f.msg).isSome then 1 else 3) d (.bar f.msg)
    | none => s) s

/-- One flit time of a port (R423). -/
def execFlitTime (port : Nat) (s : State) : Out :=
  if !(s.port port).carries then .next s
  else
    let s := s.departOver port
    .next (s.setPort port { s.transmit port (s.port port) with sentAt := s.clock + 1 })

/-! ## Port states (R428, R429) -/

/-- The house cluster configures a port: its training begins (R429). -/
def execConfigure (port peer peerPort : Nat) (s : State) : Out :=
  if (s.port port).state = .off && decide (port < 64) then
    .next ((s.portState port .training).modPort port (fun p => { p with peer := peer, peerPort := peerPort, resent := 0 }))
  else .next s

/-- The credits of a port that has come up: each half of a VC has half its buffers (R422, R424, R429). -/
def freshCredits : SMap Nat := (List.range 16).map (fun k => (k, vcBuffers (k / 2) / 2))

/-- Training is done: the port comes up with 4, 2 or 1 lanes, fresh credits, and SEQ at 0 (R419, R429). -/
def execTrainDone (port lanes : Nat) (s : State) : Out :=
  if (s.port port).state = .training && (lanes = 4 || lanes = 2 || lanes = 1) then
    .next ((s.portState port .up).modPort port (fun p => { p with
      lanes := lanes, txSeq := 0, rxSeq := 0, retryDue := false, fails := 0, resends := 0, replay := [], again := [], queues := [],
      credits := freshCredits, freed := [], locked := false, heard := s.clock, stamp := s.clock - 16000, exchange := none, fixes := [] }))
  else .next s

/-- Training fails: the port is down (R429). -/
def execTrainFail (port : Nat) (s : State) : Out :=
  if (s.port port).state = .training then .next (s.portDown port) else .next s

/-- A lane is dropped: the replay buffer is sent again, or the port goes down with its last lane (R429). -/
def execLaneFailure (port : Nat) (s : State) : Out :=
  let p := s.port port
  if !p.carries then .next s
  else if p.lanes ≤ 1 then .next (s.portDown port)
  else .next ((s.portState port .degraded).modPort port (fun p => { p with
    lanes := if p.lanes = 4 then 2 else 1, again := p.replay }))

/-- FEC has corrected more than 1 in 10^5 of the symbols of the last 1 ms, of which an active lane has 4 × 10^7: a lane is failing (R419).
DEDUCED, unsafe: log 57. -/
def execFecFailure (port : Nat) (s : State) : Out :=
  let p := s.port port
  if p.carries && decide (400 * p.lanes < ((p.fixes.filter (fun e => decide (s.clock < e.1 + 1000000))).map Prod.snd).sum) then
    execLaneFailure port (s.modPort port (fun p => { p with fixes := [] }))
  else .next s

/-- No flit has come for 10 µs: the port goes down (R429).
DEDUCED, unsafe: log 59. -/
def execPeerLost (port : Nat) (s : State) : Out :=
  let p := s.port port
  if p.carries && decide (10000 ≤ s.clock - p.heard) then .next (s.portDown port) else .next s

/-- The house cluster retrains a degraded or down port; what it had not delivered is failed (R429). -/
def execRetrain (port : Nat) (s : State) : Out :=
  match (s.port port).state with
  | .degraded | .down => .next (((s.portState port .training).failPort port).modPort port (fun p => { p with lanes := 0 }))
  | _ => .next s

/-- The house cluster disables a port, as if it went down (R429). -/
def execPortDisable (port : Nat) (s : State) : Out :=
  if (s.port port).state = .off then .next s
  else .next (((s.portState port .off).failPort port).modPort port (fun p => { Port.off with slots := p.slots }))

/-- Whether a remote operation of another package to a destination stands in a port of this one, on its way. -/
def State.passesOn (s : State) (dst : Nat) : Bool :=
  s.ports.any (fun p => (p.2.replay ++ p.2.queues.flatMap Prod.snd).any (fun f => f.dst.toNat = dst && (match f.msg with
    | some (.remoteOp _ _ _ _) => true
    | _ => false)))

/-- A new route is named; it takes effect once no operation is under way by the old one, of this package or on its way through it (R430).
Port 64 and above stands for no route.
DEDUCED, unsafe: log 59. -/
def execRouteTableUpdate (dst port : Nat) (s : State) : Out :=
  if s.opsOut.any (fun o => o.pkg = dst) || s.passesOn dst then .next s
  else .next { s with routes := putAt none s.routes dst (if port < 64 then some port else none) }

/-! ## Time transfer (R329, R426, R427) -/

/-- Whether a launched tree of a context declares the domain class: any that this package lists, one whose launch is over too.
DESIGN CHOICE, unsafe: log 90. -/
def State.domainClass (s : State) (asid : Nat) : Bool :=
  s.launches.any (fun a => a.id.asid = asid && a.image.inputs.getLsbD 1)

/-- A new error estimate: CLOCK at every thread of each context whose bound it crosses (R329).
DEDUCED, unsafe: log 60. -/
def State.setErr (s : State) (n : Nat) : State :=
  let new := min n (2 ^ 64 - 1)
  let old := s.err.toNat
  let crossed := (s.ctxs.filter (fun c =>
    let bound := c.2.desc.edom * 2 ^ c.2.desc.tk
    c.2.loadedHere && decide (old ≤ bound ∧ bound < new) && s.domainClass c.1)).map Prod.fst
  let s := { s with err := BitVec.ofNat 64 new }
  crossed.foldl (fun (s : State) asid =>
    ((s.ctxTids asid).foldl (fun (s : State) t =>
      s.raiseAt t ⟨.clock, 0, BitVec.ofNat 64 new, (s.thread t).pc, .clock⟩) s).ctxEvent 7 (codeOf .clock) asid 0 0 0) s

/-- The first exchange of a port (R428, R429). -/
def State.timeLock (s : State) (port : Nat) : State :=
  let s := if (s.port port).state = .up then s.portState port .timeLocked else s
  s.modPort port (fun p => { p with locked := true })

/-- Every 16 µs the parent's end of a port begins an exchange (R426).
DEDUCED, unsafe: log 60. -/
def execTimeExchange (port : Nat) (s : State) : Out :=
  let p := s.port port
  if p.carries && s.parent != some port && decide (16000 ≤ s.clock - p.stamp) then
    .next ((s.modPort port (fun p => { p with stamp := s.clock })).queueFlit port (mkFlit 0 s.pkg p.peer (some (.stamp1 s.time))))
  else .next s

/-- Twice the OFF and twice the DELAY of an exchange, in ns: the halves of their formulas are exact (R12, R426). -/
def clockOffset (t1 t2 t3 t4 : Word) : Int := ((t2.toNat : Int) - t1.toNat) - ((t4.toNat : Int) - t3.toNat)
def clockDelay (t1 t2 t3 t4 : Word) : Int := ((t2.toNat : Int) - t1.toNat) + ((t4.toNat : Int) - t3.toNat)

/-- An exchange with the parent is over: the clock is to be slewed, or set at once where no context is loaded, and ERR
follows (R426, R427). `off` is twice OFF; TIME has whole nanoseconds, so a half is left to be slewed, and in ERR, a whole number, it
counts as one.
DEDUCED, unsafe: log 60. -/
def State.correct (s : State) (off : Int) (parentErr : Word) : State :=
  let err := parentErr.toNat + ((off + s.slew).natAbs + 1) / 2 + s.asym
  let step := s.ctxs.all (fun c => !s.isLoaded c.1)
  let time := if step then BitVec.ofInt 64 ((s.time.toNat : Int) - off / 2) else s.time
  { s with time := time, slew := if step then -(off % 2) else -off, slewWait := 0, holdover := false, lastExchange := s.clock }.setErr err

/-- A time stamp is acted on (R426): t1 is noted and answered with t3, t3 with t4, and t4 ends the exchange.
DEDUCED, unsafe: log 60. -/
def execTimeStamp (s : State) : Out :=
  match s.takeMsg (fun m => match m with
    | .stamp1 _ | .stamp3 _ | .stamp4 _ _ => true
    | _ => false) with
  | some (⟨port, src, _, .stamp1 t1⟩, s) =>
    .next ((s.modPort port (fun p => { p with exchange := some (t1, s.time, s.time) })).queueFlit port
      (mkFlit 0 s.pkg src (some (.stamp3 s.time))))
  | some (⟨port, src, _, .stamp3 _⟩, s) =>
    .next ((s.queueFlit port (mkFlit 0 s.pkg src (some (.stamp4 s.time s.err)))).timeLock port)
  | some (⟨port, _, _, .stamp4 t4 err⟩, s) =>
    (match (s.port port).exchange with
     | none => .next s
     | some (t1, t2, t3) =>
       let s := (s.modPort port (fun p => { p with exchange := none, delay := clockDelay t1 t2 t3 t4 })).timeLock port
       .next (if s.parent = some port then s.correct (clockOffset t1 t2 t3 t4) err else s))
  | _ => .next s

/-- An exchange was missed: ERR grows by 1 ns for each 16 µs without one (R427).
DEDUCED, unsafe: log 60. -/
def execHoldover (s : State) : Out :=
  if s.timeRoot != s.pkg && decide (16000 ≤ s.clock - s.lastExchange) then
    .next ({ s with holdover := true, lastExchange := s.lastExchange + 16000 }.setErr (s.err.toNat + 1))
  else .next s

/-- The house cluster names the time root and this package's parent port; ERR grows until the first exchange with it. At the
root ERR is 0. The time without an exchange counts from then on (R426, R427). -/
def execParentPortNamed (port root asym : Nat) (s : State) : Out :=
  if root = s.pkg then .next ({ s with timeRoot := root, parent := none, holdover := false, slew := 0, lastExchange := s.clock }.setErr 0)
  else .next { s with timeRoot := root, parent := some port, asym := asym, lastExchange := s.clock }

end Sys2Proof.Machine
end

