-- ==== Sys2Proof/Machine/StartEvents.lean ====
section
/-! DEFINITION. Starting the device and meeting the host: resets and starts (R437 to R440, R446), writes to the control registers
and the window (R442 to R444), power and temperature (R449). -/

namespace Sys2Proof.Machine

/-! ## Resets and starts (R437 to R440, R446) -/

/-- SIZE, KEYHASH and SIG of a boot image (R438). -/
def bootSize (i : List Byte) : Nat := leNat ((i.drop 4).take 4)
def bootKeyHash (i : List Byte) : BitVec 256 := BitVec.ofNat 256 (leNat ((i.drop 32).take 32))
def bootSig (i : List Byte) : BitVec 512 := BitVec.ofNat 512 (leNat ((i.drop 64).take 64))

/-- Whether bytes begin with the header of a boot image (R438): MAGIC, and a SIZE that is a multiple of 4,096, at most 64 MiB,
and there.
DESIGN CHOICE, unsafe: log 76. -/
def isBootImage (i : List Byte) : Bool :=
  i.take 4 = [0x48, 0x5A, 0x42, 0x01] && bootSize i % 4096 = 0 && decide (128 ≤ bootSize i ∧ bootSize i ≤ 2 ^ 26) &&
  decide (bootSize i ≤ i.length)

/-- The image that the boot ROM reads: from root port 0, or else from root port 1 (R437). -/
def bootImage (b : BootReport) : Option (List Byte) :=
  match b.image0.filter isBootImage with
  | some i => some i
  | none => b.image1.filter isBootImage

/-- The digest of an image: of all SIZE bytes, SIG taken as zero (R438). -/
def imageDigest (i : List Byte) : BitVec 256 := Config.sm3 (i.take 64 ++ List.replicate 64 0 ++ (i.take (bootSize i)).drop 128)

/-- Whether the image is signed by the key with the fused hash (R437, R438). -/
def bootSigned (i : List Byte) : Bool :=
  bootKeyHash i = Config.measurement 3 && Config.sm2Verify (bootKeyHash i) (imageDigest i) (bootSig i)

/-- Whether a step of a start fails: the image is not found, it is not signed, or what the package meets outside (R437). Training a
port never fails a start, nor does the last step. -/
def bootFails (b : BootReport) (step : Nat) : Bool :=
  match step with
  | 1 => (bootImage b).isNone
  | 2 => !((bootImage b).all bootSigned)
  | 3 | 4 | 6 => b.failed = some step
  | _ => false

/-- What the host reads of a start that has failed (R443). -/
def failedBar (step code : Nat) : Bar0 := { Bar0.reset with status := 3, step := step, failure := code }
/-- The registers of a package that is ready.
DEDUCED, unsafe: log 61. -/
def readyBar : Bar0 := { Bar0.reset with status := 2, power := 7500 }

/-- The package as a reset leaves it, before any step of a start: every context is gone and every unit at reset (R440, R446). Pools and
DRAM hold what they held, and the parameters of the always-on domain, until a step of the start changes them. What does not belong
to the package stays: the host's memory. The counters of free values and of operation numbers go on. A package number has 11 bits
(R22). -/
def State.cleared (s : State) (boot : BootReport) : State :=
  { State.reset with
    hostMem := s.hostMem, fresh := s.fresh, opNum := s.opNum, agenda := s.agenda, pkg := boot.pkg % 2048,
    bootDigest := ((bootImage boot).map imageDigest).getD 0, dram := s.dram, dramParams := s.dramParams
    cores := (mapVals (fun (c : Core) => { Core.idle with pool := c.pool, full := c.full }) s.cores).filter (fun p => p.2 != Core.idle) }

/-- A configured port that has been trained: up, or down where it failed (R429, R437).
DEDUCED, unsafe: log 61. -/
def trainedPort (b : BootPort) : Port :=
  let ok : Bool := decide (b.lanes = 4 ∨ b.lanes = 2 ∨ b.lanes = 1)
  let st : PortState := if ok then .up else .down
  { Port.off with
    state := st, lanes := if ok then b.lanes else 0, peer := b.peer, peerPort := b.peerPort
    credits := if ok then freshCredits else [] }

/-- Step 5: every configured port that does not carry flits is trained (R437, R439). -/
def State.trainPorts (s : State) (bs : List BootPort) : State :=
  bs.foldl (fun (s : State) b => if b.port < 64 && !(s.port b.port).carries then s.setPort b.port (trainedPort b) else s) s

/-- Step 6: the package becomes the time root, or locks to its parent port (R426, R427, R437). -/
def State.lockTime (s : State) (boot : BootReport) : State :=
  match boot.parent with
  | none => { s with timeRoot := s.pkg, parent := none, err := 0 }
  | some p =>
    { s with timeRoot := boot.root % 2048, parent := some p, asym := boot.asym, time := boot.time, err := boot.err }.modPort p (fun p =>
      { p with state := if p.state = PortState.up then PortState.timeLocked else p.state, locked := p.carries })

/-- The work of a step of a start that does not fail (R437). -/
def State.startStep (s : State) (boot : BootReport) (step : Nat) : State :=
  match step with
  | 3 => { s with dramParams := true }
  | 5 => s.trainPorts boot.ports
  | 6 => s.lockTime boot
  | 7 => { s with dram := [], cores := [] }
  | _ => s

/-- The steps of a start in their order: one that fails leaves the package failed, and no later one runs (R437).
DEDUCED, unsafe: log 61. -/
def State.runStart (boot : BootReport) : List Nat → State → State
  | [], s => { s with bar0 := readyBar }
  | n :: ns, s =>
    if bootFails boot n then { s with bar0 := failedBar n n, dramParams := s.dramParams && n != 3 }
    else State.runStart boot ns (s.startStep boot n)

/-- A cold start (R437). -/
def State.coldStart (s : State) (boot : BootReport) : State := State.runStart boot [1, 2, 3, 4, 5, 6, 7] (s.cleared boot)

/-- A port through a warm start: one that carries flits keeps its SEQ, credits and time lock, with its slot table unowned and its cycles
counted from the start; any other stays as it is, its slot table unowned (R439, R440).
DEDUCED, unsafe: log 61. -/
def Port.warm (p : Port) : Port :=
  if p.carries then { p with slots := [], queues := [], sentAt := 0, heard := 0, stamp := 0, fixes := [] }
  else { Port.off with state := p.state, peer := p.peer, peerPort := p.peerPort, resent := p.resent }

/-- A warm start, which is a cold one where the saved DRAM parameters fail their check (R439).
DEDUCED, unsafe: log 61. -/
def State.warmStart (s : State) (boot : BootReport) : State :=
  if !(s.dramParams && boot.dramOk) then s.coldStart boot
  else
    State.runStart boot [1, 2, 5, 6, 7] { s.cleared boot with
      ports := (mapVals Port.warm s.ports).filter (fun p => p.2 != Port.off), routes := s.routes, time := s.time,
      timeRoot := s.timeRoot, parent := s.parent, err := s.err, asym := s.asym, holdover := s.holdover, slew := s.slew,
      slewWait := s.slewWait }

/-- Power-on, or PERST# (R446). -/
def execPowerOnReset (boot : BootReport) (s : State) : Out := .next (s.coldStart boot)
/-- A RESET write of 2 (R446). -/
def execResetCold (boot : BootReport) (s : State) : Out := .next (s.coldStart boot)
/-- A RESET write of 1 (R446). -/
def execResetWarm (boot : BootReport) (s : State) : Out := .next (s.warmStart boot)
/-- A PCIe function-level reset (R446). -/
def execFunctionLevelReset (boot : BootReport) (s : State) : Out := .next (s.warmStart boot)

/-! ## Control registers (R443, R444) -/

/-- Whether the package is ready for the host (R446). -/
def State.isReady (s : State) : Bool := s.bar0.status = 2

/-- What the host reads of BAR 0 at an offset (R443, R449). Until STATUS is ready only ID and STATUS read as anything but zero.
DEDUCED, unsafe: log 62. -/
def State.readRegister (s : State) (offset : Nat) : Word :=
  let b := s.bar0
  let n := fun (v : Nat) => BitVec.ofNat 64 v
  let other : Word := match offset with
    | 0x010 => n (s.pkg % 2048)
    | 0x028 => b.arg0
    | 0x030 => b.arg1
    | 0x038 => n (b.cmdState + b.reason * 2 ^ 8)
    | 0x040 => b.winbase
    | 0x048 => b.evbase
    | 0x050 => b.evsize
    | 0x058 => b.evwrite
    | 0x060 => b.evread
    | 0x068 => b.evlost
    | 0x070 => b.power
    | 0x078 => n (b.watts % 2 ^ 16 + b.hottest % 2 ^ 8 * 2 ^ 16 + (if b.capping then 2 ^ 24 else 0))
    | _ => 0
  match offset with
  | 0x000 => n (0x5A04 + 0xB0 * 2 ^ 16 + 1 * 2 ^ 24)
  | 0x008 => n (b.status + b.step * 2 ^ 8 + b.failure * 2 ^ 16)
  | _ => if s.isReady then other else 0

/-- The queue of a doorbell, as ASID and queue, from its offset in BAR 4 (R442). -/
def doorbellOf (offset : Nat) : Nat × Nat := (offset / 8 / 256 % 4096, offset / 8 % 256)

/-- What the host reads through the BAR 2 window: zero until the package is ready (R442, R446). -/
def State.windowRead (s : State) (offset len : Nat) : List Byte :=
  if s.isReady then s.dram.read (s.bar0.winbase.toNat + offset) len else List.replicate len 0

/-- The register that a write to BAR 0 reaches, by its offset (R443). -/
def ctlRegAt (offset : Nat) : CtlReg :=
  match offset with
  | 0x018 => .reset | 0x020 => .cmd | 0x028 => .arg0 | 0x030 => .arg1 | 0x040 => .winbase | 0x048 => .evbase | 0x050 => .evsize
  | 0x060 => .evread | 0x070 => .power
  | _ => .other

/-- A ring size that EVSIZE takes (R443).
DEDUCED, unsafe: log 62. -/
def ringSize (n : Nat) : Bool := (List.range 11).any (fun k => n = 64 * 2 ^ k)

/-- The power in W that the loaded FLOCK contexts need (R246, R449). -/
def State.lockedNeed (s : State) : Nat := if s.locks = [] then 0 else Config.lockedWatts s.locks

/-- A limit written to POWER: refused, with a record, below what the loaded FLOCK contexts need; one out of its range is ignored (R449).
DEDUCED, unsafe: log 62. -/
def State.writePower (s : State) (value : Word) : State :=
  if !s.isReady then s
  else if value.toNat < s.lockedNeed then s.pkgEvent 8 0 0
  else if decide (1000 ≤ value.toNat ∧ value.toNat ≤ 7500) then { s with bar0 := { s.bar0 with power := value } }
  else s

/-- A write to POWER, held against the figure `needed` of the loaded FLOCK contexts: an event that names another figure than theirs does
not come about (R9, R449). -/
def execPowerWrite (value : Word) (needed : Nat) (s : State) : Out :=
  .next (if needed = s.lockedNeed then s.writePower value else s)

/-- A write to a register of BAR 0, named by its offset: RESET, a command, an argument, a base, a limit (R443, R444, R446).
DEDUCED, unsafe: log 62. -/
def execRegisterWrite (reg : RegWrite) (value : Word) (s : State) : Out :=
  let b := s.bar0
  match ctlRegAt reg.offset with
  | .reset => .next (if value = 1 then s.warmStart reg.boot else if value = 2 then s.coldStart reg.boot else s)
  | .power => .next (s.writePower value)
  | reg =>
    if !s.isReady then .next s
    else
      match reg with
      | .cmd =>
        if b.cmdState = 1 then .next s
        else
          let s := { s with bar0 := { b with cmd := value.toNat % 2 ^ 20, cmdState := 1, reason := 0 } }
          .next (if 1 ≤ cmdOp value.toNat ∧ cmdOp value.toNat ≤ 5 then s else s.endCommand 3 4)
      | .arg0 => .next { s with bar0 := { b with arg0 := value } }
      | .arg1 => .next { s with bar0 := { b with arg1 := value } }
      | .winbase => .next { s with bar0 := { b with winbase := value &&& ~~~(0x1FFFFFFFF#64) } }
      | .evbase => .next { s with bar0 := { b with evbase := value &&& ~~~(0xFFF#64), evwrite := 0 } }
      | .evsize => .next { s with bar0 := { b with evsize := if ringSize value.toNat then value else b.evsize } }
      | .evread => .next { s with bar0 := { b with evread := value } }
      | _ => .next s

/-- A host write through the BAR 2 window (R442): it reaches the package's DRAM; where the window lies on no DRAM (R28) the
machine stops.
DESIGN CHOICE, safe: log 7. -/
def execHostWindowWrite (offset : Nat) (bytes : List Byte) (s : State) : Out :=
  let pa := s.bar0.winbase.toNat + offset
  if !s.isReady || 2 ^ 33 < offset + bytes.length then .next s
  else if dramSize < pa + bytes.length then .fault (.noMemory pa)
  else .next { s with dram := s.dram.write pa bytes }

/-! ## Power and temperature (R449) -/

/-- The power averaged over 1 ms: capping is active at the limit (R449).
DEDUCED, unsafe: log 63. -/
def execPowerCapping (watts : Nat) (s : State) : Out :=
  .next { s with bar0 := { s.bar0 with watts := watts, capping := decide (s.bar0.power.toNat ≤ watts) } }

/-- A die reaches 105 °C: with capping active every resident context is paused and activation refused (R449).
DEDUCED, unsafe: log 63. -/
def execThermalTrip (die : Nat) (s : State) : Out :=
  let s := { s with bar0 := { s.bar0 with hottest := max 105 s.bar0.hottest } }
  if !s.bar0.capping || s.hotDies.contains die then .next s
  else
    let live := (s.ctxs.filter (fun c => c.2.state = .resident)).map Prod.fst
    let s := live.foldl (fun (s : State) asid => s.pauseRequest asid 0 false none) { s with hotDies := s.hotDies ++ [die] }
    .next (s.pkgEvent 8 0 0)

/-- Every die is below 95 °C: contexts may be activated again (R449). The temperature itself is free below that bound.
DEDUCED, unsafe: log 63. -/
def execThermalClear (s : State) : Out :=
  let s := { s with bar0 := { s.bar0 with hottest := (Config.freeWord s.fresh).toNat % 95 }, fresh := s.fresh + 1 }
  .next (if s.hotDies = [] then s else { s with hotDies := [] }.pkgEvent 8 0 0)

end Sys2Proof.Machine
end

