-- ==== Sys2Proof/Machine/Dispatch.lean ====
section
/-! DEFINITION. One arm for each constructor of `Instr`: a direct call of its meaning. -/

namespace Sys2Proof.Machine

/-- The effect of one instruction, or of one event, on the package.
DEDUCED, safe: log 8; DEDUCED, unsafe: log 9. -/
def exec (i : Instr) (s : State) : Host.Outcome State Fault Refusal :=
  match i with
  | .intAdd o => Sys2Proof.Machine.execIntAdd o s
  | .intSub o => Sys2Proof.Machine.execIntSub o s
  | .intMul o => Sys2Proof.Machine.execIntMul o s
  | .intMulh o => Sys2Proof.Machine.execIntMulh o s
  | .intDiv o => Sys2Proof.Machine.execIntDiv o s
  | .intRem o => Sys2Proof.Machine.execIntRem o s
  | .intMin o => Sys2Proof.Machine.execIntMin o s
  | .intMax o => Sys2Proof.Machine.execIntMax o s
  | .intAbs o => Sys2Proof.Machine.execIntAbs o s
  | .intAnd o => Sys2Proof.Machine.execIntAnd o s
  | .intOr o => Sys2Proof.Machine.execIntOr o s
  | .intXor o => Sys2Proof.Machine.execIntXor o s
  | .intAndn o => Sys2Proof.Machine.execIntAndn o s
  | .intShl o => Sys2Proof.Machine.execIntShl o s
  | .intShr o => Sys2Proof.Machine.execIntShr o s
  | .intRot o => Sys2Proof.Machine.execIntRot o s
  | .intClz o => Sys2Proof.Machine.execIntClz o s
  | .intCtz o => Sys2Proof.Machine.execIntCtz o s
  | .intPopc o => Sys2Proof.Machine.execIntPopc o s
  | .intMov o => Sys2Proof.Machine.execIntMov o s
  | .intSel o => Sys2Proof.Machine.execIntSel o s
  | .intiAddi o => Sys2Proof.Machine.execIntiAddi o s
  | .intiMuli o => Sys2Proof.Machine.execIntiMuli o s
  | .intiAndi o => Sys2Proof.Machine.execIntiAndi o s
  | .intiOri o => Sys2Proof.Machine.execIntiOri o s
  | .intiXori o => Sys2Proof.Machine.execIntiXori o s
  | .intiShli o => Sys2Proof.Machine.execIntiShli o s
  | .intiShri o => Sys2Proof.Machine.execIntiShri o s
  | .intiRoti o => Sys2Proof.Machine.execIntiRoti o s
  | .intiMovi o => Sys2Proof.Machine.execIntiMovi o s
  | .intiMovhi o => Sys2Proof.Machine.execIntiMovhi o s
  | .intiLea o => Sys2Proof.Machine.execIntiLea o s
  | .cmpEq o => Sys2Proof.Machine.execCmpEq o s
  | .cmpNe o => Sys2Proof.Machine.execCmpNe o s
  | .cmpLt o => Sys2Proof.Machine.execCmpLt o s
  | .cmpLe o => Sys2Proof.Machine.execCmpLe o s
  | .cmpGt o => Sys2Proof.Machine.execCmpGt o s
  | .cmpGe o => Sys2Proof.Machine.execCmpGe o s
  | .cmpUnord o => Sys2Proof.Machine.execCmpUnord o s
  | .prdAnd o => Sys2Proof.Machine.execPrdAnd o s
  | .prdOr o => Sys2Proof.Machine.execPrdOr o s
  | .prdXor o => Sys2Proof.Machine.execPrdXor o s
  | .prdAndn o => Sys2Proof.Machine.execPrdAndn o s
  | .prdNot o => Sys2Proof.Machine.execPrdNot o s
  | .prdSet o => Sys2Proof.Machine.execPrdSet o s
  | .prdPack o => Sys2Proof.Machine.execPrdPack o s
  | .prdUnpack o => Sys2Proof.Machine.execPrdUnpack o s
  | .prdKpack o => Sys2Proof.Machine.execPrdKpack o s
  | .prdKunpack o => Sys2Proof.Machine.execPrdKunpack o s
  | .ctlBra o => Sys2Proof.Machine.execCtlBra o s
  | .ctlJmp o => Sys2Proof.Machine.execCtlJmp o s
  | .ctlCall o => Sys2Proof.Machine.execCtlCall o s
  | .ctlCallr o => Sys2Proof.Machine.execCtlCallr o s
  | .ctlRet o => Sys2Proof.Machine.execCtlRet o s
  | .ctlLoop o => Sys2Proof.Machine.execCtlLoop o s
  | .ctlNop o => Sys2Proof.Machine.execCtlNop o s
  | .ctlEnter o => Sys2Proof.Machine.execCtlEnter o s
  | .ctlLeave o => Sys2Proof.Machine.execCtlLeave o s
  | .sysGet o => Sys2Proof.Machine.execSysGet o s
  | .sysSet o => Sys2Proof.Machine.execSysSet o s
  | .sysTrap o => Sys2Proof.Machine.execSysTrap o s
  | .sysBreak o => Sys2Proof.Machine.execSysBreak o s
  | .sysPerf o => Sys2Proof.Machine.execSysPerf o s
  | .fltAdd o => Sys2Proof.Machine.execFltAdd o s
  | .fltSub o => Sys2Proof.Machine.execFltSub o s
  | .fltMul o => Sys2Proof.Machine.execFltMul o s
  | .fltFma o => Sys2Proof.Machine.execFltFma o s
  | .fltDiv o => Sys2Proof.Machine.execFltDiv o s
  | .fltSqrt o => Sys2Proof.Machine.execFltSqrt o s
  | .fltMin o => Sys2Proof.Machine.execFltMin o s
  | .fltMax o => Sys2Proof.Machine.execFltMax o s
  | .fltAbs o => Sys2Proof.Machine.execFltAbs o s
  | .fltNeg o => Sys2Proof.Machine.execFltNeg o s
  | .fltCvt o => Sys2Proof.Machine.execFltCvt o s
  | .ldDisp o => Sys2Proof.Machine.execLdDisp o s
  | .ldIdx o => Sys2Proof.Machine.execLdIdx o s
  | .ldFe o => Sys2Proof.Machine.execLdFe o s
  | .ldAcq o => Sys2Proof.Machine.execLdAcq o s
  | .ldProbe o => Sys2Proof.Machine.execLdProbe o s
  | .stDisp o => Sys2Proof.Machine.execStDisp o s
  | .stIdx o => Sys2Proof.Machine.execStIdx o s
  | .stFe o => Sys2Proof.Machine.execStFe o s
  | .stRel o => Sys2Proof.Machine.execStRel o s
  | .stClr o => Sys2Proof.Machine.execStClr o s
  | .atmAdd o => Sys2Proof.Machine.execAtmAdd o s
  | .atmAnd o => Sys2Proof.Machine.execAtmAnd o s
  | .atmOr o => Sys2Proof.Machine.execAtmOr o s
  | .atmXor o => Sys2Proof.Machine.execAtmXor o s
  | .atmMin o => Sys2Proof.Machine.execAtmMin o s
  | .atmMax o => Sys2Proof.Machine.execAtmMax o s
  | .atmXchg o => Sys2Proof.Machine.execAtmXchg o s
  | .atmCas o => Sys2Proof.Machine.execAtmCas o s
  | .atmFadd o => Sys2Proof.Machine.execAtmFadd o s
  | .fncFence o => Sys2Proof.Machine.execFncFence o s
  | .fncDrain o => Sys2Proof.Machine.execFncDrain o s
  | .cpyGo1 o => Sys2Proof.Machine.execCpyGo1 o s
  | .cpyGo2 o => Sys2Proof.Machine.execCpyGo2 o s
  | .cpyGather o => Sys2Proof.Machine.execCpyGather o s
  | .cpyScatter o => Sys2Proof.Machine.execCpyScatter o s
  | .cpyFill o => Sys2Proof.Machine.execCpyFill o s
  | .cpyJoin o => Sys2Proof.Machine.execCpyJoin o s
  | .cpyWait o => Sys2Proof.Machine.execCpyWait o s
  | .vecAdd o => Sys2Proof.Machine.execVecAdd o s
  | .vecSub o => Sys2Proof.Machine.execVecSub o s
  | .vecMul o => Sys2Proof.Machine.execVecMul o s
  | .vecFma o => Sys2Proof.Machine.execVecFma o s
  | .vecFms o => Sys2Proof.Machine.execVecFms o s
  | .vecMin o => Sys2Proof.Machine.execVecMin o s
  | .vecMax o => Sys2Proof.Machine.execVecMax o s
  | .vecAbs o => Sys2Proof.Machine.execVecAbs o s
  | .vecNeg o => Sys2Proof.Machine.execVecNeg o s
  | .vecAnd o => Sys2Proof.Machine.execVecAnd o s
  | .vecOr o => Sys2Proof.Machine.execVecOr o s
  | .vecXor o => Sys2Proof.Machine.execVecXor o s
  | .vecShl o => Sys2Proof.Machine.execVecShl o s
  | .vecShr o => Sys2Proof.Machine.execVecShr o s
  | .vecMov o => Sys2Proof.Machine.execVecMov o s
  | .vecBcast o => Sys2Proof.Machine.execVecBcast o s
  | .vecSel o => Sys2Proof.Machine.execVecSel o s
  | .vecAdds o => Sys2Proof.Machine.execVecAdds o s
  | .vecSubs o => Sys2Proof.Machine.execVecSubs o s
  | .vcvCvt o => Sys2Proof.Machine.execVcvCvt o s
  | .vcvPack o => Sys2Proof.Machine.execVcvPack o s
  | .vcvUnpack o => Sys2Proof.Machine.execVcvUnpack o s
  | .vcvQnt o => Sys2Proof.Machine.execVcvQnt o s
  | .vcvScale o => Sys2Proof.Machine.execVcvScale o s
  | .vsfExp2 o => Sys2Proof.Machine.execVsfExp2 o s
  | .vsfLog2 o => Sys2Proof.Machine.execVsfLog2 o s
  | .vsfRcp o => Sys2Proof.Machine.execVsfRcp o s
  | .vsfRsqrt o => Sys2Proof.Machine.execVsfRsqrt o s
  | .vsfSqrt o => Sys2Proof.Machine.execVsfSqrt o s
  | .vpmPerm o => Sys2Proof.Machine.execVpmPerm o s
  | .vpmRot o => Sys2Proof.Machine.execVpmRot o s
  | .vpmRed o => Sys2Proof.Machine.execVpmRed o s
  | .vpmScan o => Sys2Proof.Machine.execVpmScan o s
  | .vpmExtr o => Sys2Proof.Machine.execVpmExtr o s
  | .vpmIns o => Sys2Proof.Machine.execVpmIns o s
  | .vpmIota o => Sys2Proof.Machine.execVpmIota o s
  | .vlsLd o => Sys2Proof.Machine.execVlsLd o s
  | .vlsSt o => Sys2Proof.Machine.execVlsSt o s
  | .vlsLds o => Sys2Proof.Machine.execVlsLds o s
  | .vlsSts o => Sys2Proof.Machine.execVlsSts o s
  | .vlsLdg o => Sys2Proof.Machine.execVlsLdg o s
  | .vlsLdfe o => Sys2Proof.Machine.execVlsLdfe o s
  | .vlsStfe o => Sys2Proof.Machine.execVlsStfe o s
  | .vcmpEq o => Sys2Proof.Machine.execVcmpEq o s
  | .vcmpNe o => Sys2Proof.Machine.execVcmpNe o s
  | .vcmpLt o => Sys2Proof.Machine.execVcmpLt o s
  | .vcmpLe o => Sys2Proof.Machine.execVcmpLe o s
  | .vcmpGt o => Sys2Proof.Machine.execVcmpGt o s
  | .vcmpGe o => Sys2Proof.Machine.execVcmpGe o s
  | .vcmpUnord o => Sys2Proof.Machine.execVcmpUnord o s
  | .mxuMma o => Sys2Proof.Machine.execMxuMma o s
  | .mxuBlk o => Sys2Proof.Machine.execMxuBlk o s
  | .mxuSca o => Sys2Proof.Machine.execMxuSca o s
  | .mxuZero o => Sys2Proof.Machine.execMxuZero o s
  | .mxuXfer o => Sys2Proof.Machine.execMxuXfer o s
  | .mxuLoad o => Sys2Proof.Machine.execMxuLoad o s
  | .mxuWait o => Sys2Proof.Machine.execMxuWait o s
  | .mxuProg o => Sys2Proof.Machine.execMxuProg o s
  | .sclLd o => Sys2Proof.Machine.execSclLd o s
  | .sclMov o => Sys2Proof.Machine.execSclMov o s
  | .sclClr o => Sys2Proof.Machine.execSclClr o s
  | .cuePost o => Sys2Proof.Machine.execCuePost o s
  | .cuePostb o => Sys2Proof.Machine.execCuePostb o s
  | .cueSelf o => Sys2Proof.Machine.execCueSelf o s
  | .cueTimer o => Sys2Proof.Machine.execCueTimer o s
  | .cueEnd o => Sys2Proof.Machine.execCueEnd o s
  | .cueNow o => Sys2Proof.Machine.execCueNow o s
  | .cueTag o => Sys2Proof.Machine.execCueTag o s
  | .cueInfo o => Sys2Proof.Machine.execCueInfo o s
  | .cueHzn o => Sys2Proof.Machine.execCueHzn o s
  | .accChain o => Sys2Proof.Machine.execAccChain o s
  | .accSend o => Sys2Proof.Machine.execAccSend o s
  | .accStat o => Sys2Proof.Machine.execAccStat o s
  | .accBreak o => Sys2Proof.Machine.execAccBreak o s
  | .barInit o => Sys2Proof.Machine.execBarInit o s
  | .barArrive o => Sys2Proof.Machine.execBarArrive o s
  | .barWait o => Sys2Proof.Machine.execBarWait o s
  | .barSync o => Sys2Proof.Machine.execBarSync o s
  | .barLine o => Sys2Proof.Machine.execBarLine o s
  | .barDrop o => Sys2Proof.Machine.execBarDrop o s
  | .grpId o => Sys2Proof.Machine.execGrpId o s
  | .grpSize o => Sys2Proof.Machine.execGrpSize o s
  | .grpExit o => Sys2Proof.Machine.execGrpExit o s
  | .grpBudget o => Sys2Proof.Machine.execGrpBudget o s
  | .grpRegs o => Sys2Proof.Machine.execGrpRegs o s
  | .quePush o => Sys2Proof.Machine.execQuePush o s
  | .queStat o => Sys2Proof.Machine.execQueStat o s
  | .queWait o => Sys2Proof.Machine.execQueWait o s
  | .ctxYield o => Sys2Proof.Machine.execCtxYield o s
  | .ctxInfo o => Sys2Proof.Machine.execCtxInfo o s
  | .pgProbe o => Sys2Proof.Machine.execPgProbe o s
  | .lnkStat o => Sys2Proof.Machine.execLnkStat o s
  | .variableLatencyResult acc => Sys2Proof.Machine.execVariableLatencyResult acc s
  | .switchMarkerWaitEnds tid => Sys2Proof.Machine.execSwitchMarkerWaitEnds tid s
  | .faultDelivered tid => Sys2Proof.Machine.execFaultDelivered tid s
  | .remoteFaultReport acc part ecc => Sys2Proof.Machine.execRemoteFaultReport acc part ecc s
  | .consumingLoadServed core => Sys2Proof.Machine.execConsumingLoadServed core s
  | .consumingLoadResend acc => Sys2Proof.Machine.execConsumingLoadResend acc s
  | .poolAccessArrival acc part => Sys2Proof.Machine.execPoolAccessArrival acc part s
  | .storeAcknowledgement acc part => Sys2Proof.Machine.execStoreAcknowledgement acc part s
  | .sfuResult core => Sys2Proof.Machine.execSfuResult core s
  | .copyStart core q => Sys2Proof.Machine.execCopyStart core q s
  | .retireUnit core q => Sys2Proof.Machine.execRetireUnit core q s
  | .copyFinish core q => Sys2Proof.Machine.execCopyFinish core q s
  | .copyFault core q ecc => Sys2Proof.Machine.execCopyFault core q ecc s
  | .copyRetry core q => Sys2Proof.Machine.execCopyRetry core q s
  | .mxuAccept core => Sys2Proof.Machine.execMxuAccept core s
  | .mxuGrant tile => Sys2Proof.Machine.execMxuGrant tile s
  | .mxuFinish core => Sys2Proof.Machine.execMxuFinish core s
  | .mxuOperandFault core ecc => Sys2Proof.Machine.execMxuOperandFault core ecc s
  | .mxuRetry core => Sys2Proof.Machine.execMxuRetry core s
  | .cueStore cue => Sys2Proof.Machine.execCueStore cue s
  | .cueSpill cue => Sys2Proof.Machine.execCueSpill cue s
  | .cueHold cue => Sys2Proof.Machine.execCueHold cue s
  | .cueMerge tid => Sys2Proof.Machine.execCueMerge tid s
  | .spillFetchDone tid => Sys2Proof.Machine.execSpillFetchDone tid s
  | .cueForward cue => Sys2Proof.Machine.execCueForward cue s
  | .cueRelease tid => Sys2Proof.Machine.execCueRelease tid s
  | .handlerStart tid => Sys2Proof.Machine.execHandlerStart tid s
  | .budgetExhausted tid => Sys2Proof.Machine.execBudgetExhausted tid s
  | .packetAccept asid q => Sys2Proof.Machine.execPacketAccept asid q s
  | .doorbell asid q => Sys2Proof.Machine.execDoorbell asid q s
  | .dispatchOpportunity => Sys2Proof.Machine.execDispatchOpportunity s
  | .launch asid q => Sys2Proof.Machine.execLaunch asid q s
  | .cuePacket asid q => Sys2Proof.Machine.execCuePacket asid q s
  | .copyPacket asid q => Sys2Proof.Machine.execCopyPacket asid q s
  | .collectiveStep asid q => Sys2Proof.Machine.execCollectiveStep asid q s
  | .arrivalNotice => Sys2Proof.Machine.execArrivalNotice s
  | .fencePacket asid q => Sys2Proof.Machine.execFencePacket asid q s
  | .mark asid q => Sys2Proof.Machine.execMark asid q s
  | .preempt asid q => Sys2Proof.Machine.execPreempt asid q s
  | .resume asid q => Sys2Proof.Machine.execResume asid q s
  | .promptBookComplete asid q seq => Sys2Proof.Machine.execPromptBookComplete asid q seq s
  | .hostStoreAckRead asid q seq => Sys2Proof.Machine.execHostStoreAckRead asid q seq s
  | .queuePushWrite asid q => Sys2Proof.Machine.execQueuePushWrite asid q s
  | .queueAccessFault asid q => Sys2Proof.Machine.execQueueAccessFault asid q s
  | .gangPlaced asid q seq remoteFree => Sys2Proof.Machine.execGangPlaced asid q seq remoteFree s
  | .cast core => Sys2Proof.Machine.execCast core s
  | .gangLeaves asid q seq gang => Sys2Proof.Machine.execGangLeaves asid q seq gang s
  | .create asid peers => Sys2Proof.Machine.execCreate asid peers s
  | .load asid => Sys2Proof.Machine.execLoad asid s
  | .destroy asid => Sys2Proof.Machine.execDestroy asid s
  | .clear asid => Sys2Proof.Machine.execClear asid s
  | .attest asid => Sys2Proof.Machine.execAttest asid s
  | .pauseProposal => Sys2Proof.Machine.execPauseProposal s
  | .pauseReply => Sys2Proof.Machine.execPauseReply s
  | .pauseAgreed => Sys2Proof.Machine.execPauseAgreed s
  | .releaseStop asid => Sys2Proof.Machine.execReleaseStop asid s
  | .saveComplete asid => Sys2Proof.Machine.execSaveComplete asid s
  | .resumeAgreement asid => Sys2Proof.Machine.execResumeAgreement asid s
  | .restoreComplete asid => Sys2Proof.Machine.execRestoreComplete asid s
  | .killNotice => Sys2Proof.Machine.execKillNotice s
  | .chainJoin msg => Sys2Proof.Machine.execChainJoin msg s
  | .chainAck msg => Sys2Proof.Machine.execChainAck msg s
  | .chainNak msg => Sys2Proof.Machine.execChainNak msg s
  | .joinRetry tile entry => Sys2Proof.Machine.execJoinRetry tile entry s
  | .stripAccepted tile entry src => Sys2Proof.Machine.execStripAccepted tile entry src s
  | .chainCredit msg => Sys2Proof.Machine.execChainCredit msg s
  | .chainComplete msg => Sys2Proof.Machine.execChainComplete msg s
  | .chainBreak msg => Sys2Proof.Machine.execChainBreak msg s
  | .chainTimeout tile entry => Sys2Proof.Machine.execChainTimeout tile entry s
  | .barrierArrival msg => Sys2Proof.Machine.execBarrierArrival msg s
  | .barrierRelease msg => Sys2Proof.Machine.execBarrierRelease msg s
  | .curtainArrival tile entry => Sys2Proof.Machine.execCurtainArrival tile entry s
  | .barTimeout tile entry => Sys2Proof.Machine.execBarTimeout tile entry s
  | .threadDeparture msg => Sys2Proof.Machine.execThreadDeparture msg s
  | .translationRequest acc part => Sys2Proof.Machine.execTranslationRequest acc part s
  | .walkDone acc part => Sys2Proof.Machine.execWalkDone acc part s
  | .pageFaultAnswer asid va resolved writes => Sys2Proof.Machine.execPageFaultAnswer asid va resolved writes s
  | .invalidation kind writes => Sys2Proof.Machine.execInvalidation kind writes s
  | .invalidationComplete => Sys2Proof.Machine.execInvalidationComplete s
  | .dramBurst ch => Sys2Proof.Machine.execDramBurst ch s
  | .dramRefresh ch => Sys2Proof.Machine.execDramRefresh ch s
  | .flitReceived port flit => Sys2Proof.Machine.execFlitReceived port flit s
  | .retryRequest port seq => Sys2Proof.Machine.execRetryRequest port seq s
  | .remoteOperation ecc => Sys2Proof.Machine.execRemoteOperation ecc s
  | .remoteAck => Sys2Proof.Machine.execRemoteAck s
  | .timeExchange port => Sys2Proof.Machine.execTimeExchange port s
  | .timeStamp => Sys2Proof.Machine.execTimeStamp s
  | .holdover => Sys2Proof.Machine.execHoldover s
  | .configure port peer peerPort => Sys2Proof.Machine.execConfigure port peer peerPort s
  | .trainDone port lanes => Sys2Proof.Machine.execTrainDone port lanes s
  | .trainFail port => Sys2Proof.Machine.execTrainFail port s
  | .laneFailure port => Sys2Proof.Machine.execLaneFailure port s
  | .retryExhausted port => Sys2Proof.Machine.execRetryExhausted port s
  | .peerLost port => Sys2Proof.Machine.execPeerLost port s
  | .retrain port => Sys2Proof.Machine.execRetrain port s
  | .portDisable port => Sys2Proof.Machine.execPortDisable port s
  | .routeTableUpdate dst port => Sys2Proof.Machine.execRouteTableUpdate dst port s
  | .powerOnReset boot => Sys2Proof.Machine.execPowerOnReset boot s
  | .functionLevelReset boot => Sys2Proof.Machine.execFunctionLevelReset boot s
  | .resetCold boot => Sys2Proof.Machine.execResetCold boot s
  | .resetWarm boot => Sys2Proof.Machine.execResetWarm boot s
  | .powerWrite value needed => Sys2Proof.Machine.execPowerWrite value needed s
  | .thermalTrip die => Sys2Proof.Machine.execThermalTrip die s
  | .thermalClear => Sys2Proof.Machine.execThermalClear s
  | .registerWrite reg value => Sys2Proof.Machine.execRegisterWrite reg value s
  | .flitTime port => Sys2Proof.Machine.execFlitTime port s
  | .targetAdderFlit tile entry => Sys2Proof.Machine.execTargetAdderFlit tile entry s
  | .hostWindowWrite offset bytes => Sys2Proof.Machine.execHostWindowWrite offset bytes s
  | .queueEnable asid q => Sys2Proof.Machine.execQueueEnable asid q s
  | .queueDisable asid q => Sys2Proof.Machine.execQueueDisable asid q s
  | .loadAgreement => Sys2Proof.Machine.execLoadAgreement s
  | .parentPortNamed port root asym => Sys2Proof.Machine.execParentPortNamed port root asym s
  | .powerCapping watts => Sys2Proof.Machine.execPowerCapping watts s

end Sys2Proof.Machine
end

