-- ==== Sys2Proof/Machine/Schedule.lean ====
section
/-! DEFINITION. What comes next: fetching an instruction (R82, R83, R407), the choice of a slot (R313), a cycle of the package, and
the device's own events, in one order out of those that the spec leaves open. -/

namespace Sys2Proof.Machine

/-! ## Fetch -/

/-- What a fetch finds. -/
inductive Fetched where
  | bytes (bs : List Byte)
  | wait
  | bad (code : FaultCode) (va : Word)
  deriving DecidableEq, Repr

/-- Four bytes of the code of a thread: from its tile's instruction cache, which a fetch from memory fills (R20, R402, R407). A
line once filled is what a fetch finds, whatever has been stored or mapped since (R113).
DEDUCED, unsafe: log 65; DESIGN CHOICE, unsafe: log 77. -/
def State.fetchWord (s : State) (tid : Nat) (va : Word) : State × Fetched :=
  let t := s.thread tid
  let tile := tileOf (coreOf tid)
  match (s.tile tile).line t.launch.asid va, t.fetchBuf.find? (fun p => p.1 = va) with
  | some bs, _ => (s, .bytes bs)
  | none, some (_, bs) => (s.fillLine tile t.launch.asid va bs, .bytes bs)
  | none, none =>
    if t.fetchOps.any (fun p => p.2 = va) then (s, .wait)
    else if spaceOf va != .virt || !canonicalVa va then (s, .bad .prot va)
    else
      if !s.translateOpen (some t.launch.asid) t.launch.asid va false then (s, .wait)
      else
      match s.translateFor (some t.launch.asid) t.launch.asid va true false with
      | (s, .fail perm _) => (s.modThread tid (fun t => { t with fetchHold := some (va, perm) }), .wait)
      | (s, .ok (.remote pkg pa) _ _ _) =>
        if (s.linkTo pkg).isNone then (s, .bad .link va)
        else
          let r := s.sendOp 2 t.launch.asid pkg va pa (.read 4) none
          (r.2.modThread tid (fun t => { t with fetchOps := t.fetchOps ++ [(r.1, va)] }), .wait)
      | (s', .ok l _ _ _) =>
        if s.placeOpen (some t.launch.asid) l then
          let bs := s'.readLoc l 4
          ((s'.placeServed (some t.launch.asid) l).fillLine tile t.launch.asid va bs, .bytes bs)
        else (s, .wait)

/-- `n` times four bytes of code. -/
def State.fetchWords (tid : Nat) : Nat → Word → State → State × Fetched
  | 0, _, s => (s, .bytes [])
  | n + 1, va, s =>
    match s.fetchWord tid va with
    | (s, .bytes bs) =>
      (match State.fetchWords tid n (va + 4) s with
       | (s, .bytes cs) => (s, .bytes (bs ++ cs))
       | r => r)
    | r => r

/-- The fetched bytes of a thread are used up. -/
def State.fetchDone (s : State) (tid : Nat) : State :=
  s.modThread tid (fun t => { t with fetchOps := [], fetchBuf := [], fetchAgain := false })

/-! ## Issue -/

/-- A fault of the thread at an instruction that has not issued. -/
def State.raiseHere (s : State) (tid : Nat) (code : FaultCode) (field : Nat) (data : Word) : State :=
  { s with me := tid }.raise code field data

/-- The instruction word of a thread is decoded and executed; a word that is no instruction raises ILLEGAL (R84, R86). -/
def State.runWord (s : State) (tid : Nat) (w : BitVec 96) : Out :=
  match decode w with
  | .error field => .next (s.raiseHere tid .illegal field 0)
  | .ok i => exec i { s with me := tid }

/-- A thread at an instruction boundary: a fault reported before, unless its context is pausing, a spent budget, a refused fetch or a PC outside
the code section is raised; otherwise its instruction is fetched and runs (R83, R315, R318, R407).
DEDUCED, unsafe: log 9; DEDUCED, unsafe: log 28; DEDUCED, unsafe: log 65. -/
def State.issueThread (s : State) (tid : Nat) : Out :=
  let t := s.thread tid
  match (if s.deferring tid then [] else t.reports), t.fetchBad with
  | f :: fs, _ => .next (s.modThread tid (fun t => ({ t with reports := fs } : Thread).raiseOn f))
  | [], some (va, code) => .next ((s.modThread tid (fun t => { t with fetchBad := none })).raiseHere tid code 0 va)
  | [], none =>
    if t.budget = some 0 then execBudgetExhausted tid s
    else if t.fetchHold.isSome then .next s
    else if !s.validTarget tid t.pc then .next (s.raiseHere tid .pcalign 0 t.pc)
    else
      match State.fetchWords tid 3 t.pc s with
      | (s, .wait) => .next s
      | (s, .bad code va) => .next (s.raiseHere tid code 0 va)
      | (s, .bytes bs) => (s.fetchDone tid).runWord tid (bytesWord bs)

/-! ## The choice of a slot (R313) -/

/-- Whether a slot's thread is running in a context that issues, and not in the gap after a transfer.
DEDUCED, unsafe: log 9. -/
def State.mayIssue (s : State) (tid : Nat) : Bool :=
  let t := s.thread tid
  t.status = .running && !s.halted t.launch.asid && decide (t.gap ≤ s.clock)

/-- Whether the interlock lets the thread's next instruction issue: it changes its thread. -/
def State.ready (s : State) (tid : Nat) : Bool :=
  match s.issueThread tid with
  | .next s' => s'.thread tid != s.thread tid
  | _ => true

/-- Whether slot `a` goes before slot `b`: the lower handler tag, then the one that issued least recently, then the lower slot. -/
def State.goesBefore (s : State) (a b : Nat) : Bool :=
  let t := s.thread a
  let u := s.thread b
  let k := tagKey t.tagT t.tagM
  let l := tagKey u.tagT u.tagM
  if k = l then
    match t.lastIssue, u.lastIssue with
    | none, none => decide (a < b)
    | none, some _ => true
    | some _, none => false
    | some m, some n => decide (m < n) || (m = n && decide (a < b))
  else lexLt k l

/-- The slot that issues, of the eligible ones: those passed over 64 times first. -/
def State.choice (s : State) (live : List Nat) : Option Nat :=
  let late := live.filter (fun t => decide (64 ≤ (s.thread t).count))
  (if late = [] then live else late).foldl (fun b t => match b with
    | none => some t
    | some u => if s.goesBefore t u then some t else some u) none

/-- The counts of the slots that do not issue: passed over once more, or back to 0 where not eligible (R136, R313).
DEDUCED, unsafe: log 16. -/
def State.passOver (s : State) (core : Nat) (live : List Nat) (tid : Nat) : State :=
  (slotsOf core).foldl (fun (s : State) t =>
    if t = tid then s
    else if live.contains t then
      s.modThread t (fun t => { t with count := t.count + 1, perf := putAt 0 t.perf 1 (lookAt 0 t.perf 1 + 1) })
    else if (s.thread t).count = 0 then s
    else s.modThread t (fun t => { t with count := 0 })) s

/-- No slot of a core has been passed over in this cycle: every count is 0 but those of the slots that stay eligible (R313). -/
def State.noneOver (s : State) (core : Nat) (keep : List Nat) : State :=
  (slotsOf core).foldl (fun (s : State) t =>
    if (s.thread t).count = 0 || keep.contains t then s else s.modThread t (fun t => { t with count := 0 })) s

/-- Whether a slot's next instruction is still on its way from memory. That does not end its being eligible (R313): its count goes on. -/
def State.awaitsCode (s : State) (tid : Nat) : Bool :=
  (s.thread tid).fetchHold.isSome || (match (State.fetchWords tid 3 (s.thread tid).pc s).2 with
    | .wait => true
    | _ => false)

/-- Whether a slot that may issue counts as eligible (R313). -/
def State.eligible (s : State) (tid : Nat) : Bool := s.ready tid || s.awaitsCode tid

/-- A core issues one instruction from one eligible slot (R313). -/
def State.issueCore (s : State) (core : Nat) : Out :=
  match (slotsOf core).filter s.mayIssue with
  | [] => .next s
  | [tid] => (s.noneOver core ([tid].filter s.awaitsCode)).issueThread tid
  | several =>
    match s.choice (several.filter s.ready) with
    | none => .next (s.noneOver core (several.filter s.awaitsCode))
    | some tid => (s.passOver core (several.filter s.eligible) tid).issueThread tid

/-! ## A cycle -/

/-- One cycle of a thread (R132, R136, R315). The count of R313 is 0 where it cannot be eligible.
DEDUCED, unsafe: log 16. -/
def Thread.tick (halted : Bool) (clock : Nat) (t : Thread) : Thread :=
  let t := if halted || t.status != .running || decide (clock < t.gap) then { t with count := 0 } else t
  if halted || t.ended then t
  else
    let n := match t.status with
      | .blocked => some 2
      | .parked => some 3
      | _ => none
    { t with
      cycle := if t.launched then t.cycle + 1 else t.cycle
      budget := if t.inHandler then t.budget.map (fun b => b - 1) else t.budget
      perf := match n with
        | some n => putAt 0 t.perf n (lookAt 0 t.perf n + 1)
        | none => t.perf }

/-- One cycle of a chain member that waits for its ACK (R368). -/
def ChainEntry.tick (halted : Bool) (limit : Nat) (e : ChainEntry) : ChainEntry :=
  if !halted && e.firstSend && !e.ackIn && e.isOpen && e.role != 2 && decide (e.elapsed < limit) then { e with elapsed := e.elapsed + 1 }
  else e

/-- One cycle of a barrier whose phase has begun (R387). -/
def Barrier.tick (halted : Bool) (b : Barrier) : Barrier :=
  if !halted && b.isOpen && !b.arrived.isEmpty && decide (b.elapsed < b.timeout) then { b with elapsed := b.elapsed + 1 } else b

/-- One cycle of a tile's chain and barrier tables. -/
def State.tickTile (s : State) (t : Tile) : Tile :=
  { t with
    chains := mapVals (fun e => e.tick (s.halted e.asid) (s.ctx e.asid).desc.chTimeout) t.chains
    bars := mapVals (fun b => b.map (fun b => b.tick (s.halted b.key.launch.asid))) t.bars }

/-- One cycle of a core: no granule has been served in it yet (R229), and a matrix credit is kept by a core with commands only
(R213). -/
def Core.tick (c : Core) : Core := { c with served := [], credit := if c.mx = [] then 0 else c.credit }

/-- TIME advances by a nanosecond, and by the correction that falls in this cycle: at most 1 ns in 16 µs (R33, R426). The
correction is counted in half nanoseconds; a half alone moves no whole nanosecond.
DEDUCED, unsafe: log 60. -/
def State.tickTime (s : State) : State :=
  if s.slew.natAbs < 2 then { s with time := s.time + 1, clock := s.clock + 1 }
  else if s.slewWait + 1 < 16000 then { s with time := s.time + 1, clock := s.clock + 1, slewWait := s.slewWait + 1 }
  else if s.slew < 0 then { s with clock := s.clock + 1, slewWait := 0, slew := s.slew + 2 }
  else { s with time := s.time + 2, clock := s.clock + 1, slewWait := 0, slew := s.slew - 2 }

/-- The DRAM channels with accesses in front of them. -/
def State.busyChannels (s : State) : List Nat :=
  ((s.accs.flatMap (fun a => a.parts)).filterMap (fun p => match p.stage, p.loc with
    | .channel, some (.dram pa) => some (channelOf pa)
    | _, _ => none)).eraseDups

/-- Whether a port has something to send. -/
def State.portBusy (s : State) (port : Nat) : Bool :=
  let p := s.port port
  p.carries && (p.retryDue || p.again != [] || p.queues != [] || p.freed != [] || s.departOver port != s)

/-- What happens once in a cycle, or once in every 64 cycles: a dispatch opportunity, a burst of each busy channel, a
flit time of each busy port, a flit at each busy target adder (R30, R271, R353, R423).
DESIGN CHOICE, unsafe: log 1. -/
def State.cycleWork (s : State) : List Action :=
  let each := decide (s.clock % 64 = 0)
  (if each && s.queues.any (fun p => p.2.enabled) then [Action.dispatch] else []) ++
  s.busyChannels.map Action.burst ++
  (s.ports.filter (fun p => s.portBusy p.1)).map (fun p => Action.flit p.1) ++
  ((s.strips.filter (fun p => decide (p.served < 32))).map (fun p => (p.tile, p.entry))).eraseDups.map (fun p => Action.adder p.1 p.2)

/-- The cores with a slot that may issue. -/
def State.issuing (s : State) : List Nat :=
  ((s.threads.filter (fun p => s.mayIssue p.1)).map (fun p => coreOf p.1)).eraseDups

/-- A cycle passes: its work is next, and every core issues (R21, R313). What CUE.INFO will read is noted (R343). -/
def State.tick (s : State) : State :=
  let threads := s.threads.map (fun p => (p.1, { p.2.tick (s.halted p.2.launch.asid) s.clock with seen := s.cueItems p.1 }))
  let tiles := mapVals s.tickTile s.tiles
  let cores := (mapVals Core.tick s.cores).filter (fun p => p.2 != Core.idle)
  let s := { s with threads := threads, tiles := tiles, cores := cores }.tickTime
  let s := s.tiles.foldl (fun (s : State) p => if p.2.chains = [] then s else s.pumpTile p.1) s
  { s with agenda := s.issuing.map Action.issue ++ s.cycleWork ++ s.agenda }

/-! ## The device's own events -/

/-- An event with its arguments. -/
abbrev Event := State → Out

/-- Events of an access in flight. -/
def Access.events (a : Access) : List Event :=
  [execVariableLatencyResult a.id, execConsumingLoadResend a.id] ++
  (List.range a.parts.length).flatMap (fun i =>
    [execStoreAcknowledgement a.id i, execRemoteFaultReport a.id i false, execPoolAccessArrival a.id i, execTranslationRequest a.id i,
     execWalkDone a.id i])

/-- Events of a core. -/
def coreEvents (c : Nat) : List Event :=
  [execSfuResult c, execConsumingLoadServed c, execMxuFinish c, execMxuAccept c, execMxuStage c, execMxuOperandFault c false, execMxuRetry c] ++
  [0, 1, 2, 3].flatMap (fun q =>
    [execCopyFinish c q, execCopyStart c q, execCopyFault c q false, execCopyRetry c q, execRetireUnit c q])

/-- Events of a tile. -/
def tileEvents (t : Nat) (x : Tile) : List Event :=
  x.chains.flatMap (fun p => [execJoinRetry t p.1, execChainTimeout t p.1] ++
    (List.range p.2.nmem).map (fun m => execStripAccepted t p.1 m)) ++
  x.bars.flatMap (fun p => [execCurtainArrival t p.1, execBarTimeout t p.1])

/-- Events of a thread. -/
def threadEvents (t : Nat) : List Event :=
  [execFaultDelivered t, execBudgetExhausted t, execSwitchMarkerWaitEnds t, execCueMerge t, execCueRelease t, execSpillFetchDone t,
   execHandlerStart t]

/-- Events of a control message of a chain, of a barrier message, and of a cue. -/
def chainMsgEvents (m : Nat) : List Event :=
  [execChainJoin m, execChainAck m, execChainNak m, execChainCredit m, execChainComplete m, execChainBreak m]
def barMsgEvents (m : Nat) : List Event := [execBarrierArrival m, execThreadDeparture m, execBarrierRelease m]
def cueEvents (c : Nat) : List Event := [execCueStore c, execCueSpill c, execCueHold c, execCueForward c]

/-- Events of a queue. -/
def queueEvents (asid q : Nat) (k : Queue) : List Event :=
  (match k.turning with
   | some true => [execQueueEnable asid q]
   | some false => [execQueueDisable asid q]
   | none => []) ++
  (if k.doorbell then [execDoorbell asid q] else []) ++
  [execQueueAccessFault asid q, execPushAsk asid q, execPushGrant asid q, execQueuePushWrite asid q, execPacketAccept asid q, execLaunch asid q, execCuePacket asid q,
   execCopyPacket asid q, execCollectiveStep asid q, execFencePacket asid q, execMark asid q, execPreempt asid q, execResume asid q] ++
  k.entries.map (fun e => execPromptBookComplete asid q e.seq)

/-- Events of a launch. -/
def launchEvents (a : Launch) : List Event :=
  execPartEnded a.id.asid a.id.q a.id.seq :: a.gangs.map (fun g => execGangLeaves a.id.asid a.id.q a.id.seq g.index) ++
  [execGangPlaced a.id.asid a.id.q a.id.seq [], execHostStoreAckRead a.id.asid a.id.q a.id.seq]

/-- Events of a context. -/
def ctxEvents (asid : Nat) : List Event :=
  [execOwedWrites asid, execOverflowUpdate asid, execQueueCheck asid, execReleaseStop asid, execSaveComplete asid, execImagePlaced asid,
   execResumeAgreement asid, execRestoreComplete asid]

/-- The command that the host has written, if it is under way (R444). -/
def State.commandEvents (s : State) : List Event :=
  let asid := cmdAsid s.bar0.cmd
  if s.bar0.cmdState = 1 then [execCreate asid [], execLoad asid, execDestroy asid, execClear asid, execAttest asid] else []

/-- What messages that have come in bring about. -/
def State.inboxEvents (s : State) : List Event :=
  if s.inbox = [] then []
  else [execRemoteOperation false, execRemoteAck, execTimeStamp, execKillNotice, execPauseProposal, execPauseReply, execPauseAgreed,
        execLoadAgreement, execArrivalNotice, execCastIn, execCollectiveLost]

/-- Events of the ports and of the time transfer. -/
def State.portEvents (s : State) : List Event :=
  (if s.unsent = [] then [] else [execUnsent]) ++
  s.ports.flatMap (fun p => [execTimeExchange p.1, execRetryExhausted p.1, execPeerLost p.1, execFecFailure p.1]) ++
  (match s.parent with
   | some p => if (s.port p).carries && decide (s.clock - s.lastExchange < 32000) then [] else [execHoldover]
   | none => [])

/-- Every event of the device itself that may be due, in the order in which the model looks for one.
DESIGN CHOICE, unsafe: log 1. -/
def State.candidates (s : State) : List Event :=
  s.commandEvents ++ s.inboxEvents ++ s.portEvents ++
  s.accs.flatMap Access.events ++ (if s.invals = [] then [] else [execInvalidationComplete]) ++
  s.cores.flatMap (fun p => coreEvents p.1) ++
  (s.cores.filter (fun p => !p.2.mx.isEmpty)).map (fun p => execMxuGrant (tileOf p.1)) ++
  s.tiles.flatMap (fun p => tileEvents p.1 p.2) ++
  s.chainMsgs.flatMap (fun m => chainMsgEvents m.id) ++ s.barMsgs.flatMap (fun m => barMsgEvents m.id) ++
  s.casts.flatMap (fun r => (r.msg.cores.filter (fun c => c.1 = s.pkg)).map (fun c => execCast c.2)) ++
  s.cues.flatMap (fun c => cueEvents c.id) ++ s.threads.flatMap (fun p => threadEvents p.1) ++
  s.ctxs.flatMap (fun p => ctxEvents p.1) ++ s.queues.flatMap (fun p => queueEvents (p.1 / 256) (p.1 % 256) p.2) ++
  s.launches.flatMap launchEvents

/-- What the first of some events does that does something now.
DESIGN CHOICE, unsafe: log 1. -/
def State.firstDue (s : State) : List Event → Option Out
  | [] => none
  | e :: es =>
    match e s with
    | .next t => if t = s then s.firstDue es else some (.next t)
    | r => some r

/-- One thing of the agenda. -/
def State.act (s : State) (a : Action) : Out :=
  match a with
  | .event i => exec i s
  | .tick => .next s.tick
  | .issue core => s.issueCore core
  | .hostStore addr bytes => .next { s with hostMem := s.hostMem.write addr bytes }
  | .dispatch => execDispatchOpportunity s
  | .burst ch => execDramBurst ch s
  | .flit port => execFlitTime port s
  | .adder tile entry => execTargetAdderFlit tile entry s

/-- What the package does where nothing is on the agenda: an event of its own that is due, or else a cycle passes.
DESIGN CHOICE, unsafe: log 1. -/
def State.goOn (s : State) : Out :=
  match s.firstDue s.candidates with
  | some r => r
  | none => .next s.tick

end Sys2Proof.Machine
end

