-- ==== Sys2Proof/Machine/Step.lean ====
section
/-! DEFINITION. One step of the package, and placing an instruction where the step fetches. -/

namespace Sys2Proof.Machine

/-- One step: the head of the agenda, or what the package does of itself.
DESIGN CHOICE, unsafe: log 1. -/
def step (s : State) : Host.Outcome State Fault Refusal :=
  match s.agenda with
  | a :: rest => { s with agenda := rest }.act a
  | [] => s.goOn

/-- `s` with an instruction placed where the next step fetches it.
DESIGN CHOICE, safe: log 4. -/
def State.withFetchWord (s : State) (nbits w : Nat) : State := s.placeWord (BitVec.ofNat 96 (w % 2 ^ nbits))

end Sys2Proof.Machine
end

