-- ==== Sys2Proof/Machine/GlasText.lean ====
section
/-! DEFINITION. The `glas` assembler, first part: source lines, names, numbers and expressions (R91 to R94). A text is a
list of characters; every function is total, and what is not legal source is a named error. -/

namespace Sys2Proof

/-- Why `glas` reports an error. -/
inductive GlasError where
  /-- A line of more than 4,096 characters (R91). -/
  | lineTooLong
  /-- Characters that begin no token, or a number that runs into a letter (R92, R93). -/
  | badToken
  /-- A finite floating constant whose rounded value is not finite, or which overflows E2M1 (R93). -/
  | constantOverflow
  /-- A symbol with the spelling of a register, a type or a keyword, or of more than 255 characters (R92). -/
  | badSymbol
  /-- A symbol defined twice (R100, R91). -/
  | symbolTwice
  /-- A statement, an expression or an argument list that has not the form the rules give (R91 to R102). -/
  | badSyntax
  /-- An expression with an intermediate value outside −2^63 to 2^64 − 1 (R94), or an addend outside ADDEND (R107). -/
  | expressionRange
  /-- Division by zero (R94). -/
  | divisionByZero
  /-- A shift by a negative count (R94). -/
  | negativeShift
  /-- A symbol of another section, or an undefined one, outside the forms of a relocation (R94, R102). -/
  | foreignSymbol
  /-- `rel()` outside an instruction of the code section, or whose argument does not lie there, or which differs from the
  instruction's address by no multiple of 12 (R94). -/
  | badRel
  /-- A mnemonic that R89 does not list (R97). -/
  | noSuchInstruction
  /-- A type suffix on a class that takes none, or a missing one (R95). -/
  | typeSuffix
  /-- An operand of another class than its position requires, or one left out or written in an unused position (R95, R97). -/
  | badOperand
  /-- A subfield that the instruction does not have, or a keyword that the subfield does not accept (R95 to R97). -/
  | badSubfield
  /-- A subfield written twice (R95). -/
  | subfieldTwice
  /-- A value that does not fit its subfield, or is no multiple of its unit (R67, R97). -/
  | subfieldRange
  /-- An unknown hint, or one written twice (R95). -/
  | badHint
  /-- A `scope` level name that the tree does not declare (R96). -/
  | noSuchLevel
  /-- A word that is no instruction under R84, with the FIELD code of R450 (R97). -/
  | notAnInstruction (field : Nat)
  /-- An x or v register at or above the count of `.partition` (R97). -/
  | registerCount
  /-- A directive that glas does not know, or one that may not stand where it does (R98, R99, R101). -/
  | badDirective
  /-- A directive's argument outside its range (R99 to R104). -/
  | argumentRange
  /-- A second `.kernel`, a kernel without `.tree`, `.resident` or `.partition`, or without a handler for its port (R99). -/
  | badKernel
  /-- A partition whose pool overflows, or a `.scratch` section larger than its scratchpad (R101, R103). -/
  | poolOverflow
  /-- A handler's port declared twice, its entry outside the code section, or a receive region against R104 (R99). -/
  | badHandler
  deriving DecidableEq, Repr

/-- A piece of source text. -/
abbrev Chars := List Char

/-! ## Characters and names (R92) -/

/-- A letter. -/
def isLetter (c : Char) : Bool :=
  let n := c.toNat
  (Nat.ble 97 n && Nat.ble n 122) || (Nat.ble 65 n && Nat.ble n 90)

/-- A decimal digit. -/
def isDigit (c : Char) : Bool :=
  let n := c.toNat
  Nat.ble 48 n && Nat.ble n 57

/-- A character with which a symbol begins. -/
def symStart (c : Char) : Bool := isLetter c || c.toNat == 95

/-- A character with which a symbol goes on. -/
def symChar (c : Char) : Bool := isLetter c || isDigit c || c.toNat == 95 || c.toNat == 46

/-- Blank space: spaces and tabs (R91). -/
def isBlank (c : Char) : Bool := c.toNat == 32 || c.toNat == 9

/-- A letter in lower case; any other character as it is. -/
def lowerChar (c : Char) : Char := if Nat.ble 65 c.toNat && Nat.ble c.toNat 90 then Char.ofNat (c.toNat + 32) else c

/-- A text in lower case: mnemonics, registers, directives, types and keywords are compared so (R92). -/
def lower (cs : Chars) : Chars := cs.map lowerChar

/-- Whether a text spells a word that is not case-sensitive. -/
def spells (cs : Chars) (w : String) : Bool := lower cs = w.toList

/-- The value that a table gives a word, in any case. -/
def wordIn {α : Type} (cs : Chars) : List (String × α) → Option α
  | [] => none
  | (w, v) :: rest => if spells cs w then some v else wordIn cs rest

/-- The position of a word in a list of words. -/
def placeIn (cs : Chars) (ws : List String) : Option Nat := wordIn cs ws.zipIdx

/-- The value of a digit in bases up to 16; none where it is no digit of the base. -/
def digitValue (base : Nat) (c : Char) : Option Nat :=
  let v := if isDigit c then c.toNat - 48 else if isLetter c then (lowerChar c).toNat - 87 else base
  if v < base then some v else none

/-- A run of digits of a base, a `_` between two of them ignored (R93): their number, their value, and the rest.
DEDUCED, unsafe: log 67. -/
def digitRun (base : Nat) : Nat → Nat → Chars → Nat × Nat × Chars
  | n, v, '_' :: c :: cs =>
    match digitValue base c with
    | some d => if n = 0 then (n, v, '_' :: c :: cs) else digitRun base (n + 1) (v * base + d) cs
    | none => (n, v, '_' :: c :: cs)
  | n, v, c :: cs =>
    match digitValue base c with
    | some d => digitRun base (n + 1) (v * base + d) cs
    | none => (n, v, c :: cs)
  | n, v, [] => (n, v, [])

/-- The number that a text of decimal digits without a leading zero spells. -/
def plainNat (cs : Chars) : Option Nat :=
  match digitRun 10 0 0 cs with
  | (0, _, _) => none
  | (n, v, []) => if (n ≠ 1 && cs.head? = some '0') || cs.contains '_' then none else some v
  | _ => none

/-- The register that a name spells (R70), with the aliases `ra` and `sp` (R92). -/
def regNamed (cs : Chars) : Option Reg :=
  if spells cs "ra" then some (.x 1) else if spells cs "sp" then some (.x 2)
  else match lower cs with
    | [] => none
    | c :: rest =>
      (plainNat rest).bind (fun n =>
        if c = 'x' && decide (n < 128) then some (Reg.x (BitVec.ofNat 7 n))
        else if c = 'v' && decide (n < 64) then some (Reg.v (BitVec.ofNat 6 n))
        else if c = 'p' && decide (n < 8) then some (Reg.p (BitVec.ofNat 3 n))
        else if c = 'k' && decide (n < 8) then some (Reg.k (BitVec.ofNat 3 n))
        else if c = 's' && decide (n < 8) then some (Reg.s (BitVec.ofNat 3 n))
        else none)

/-- The type names, by code (R74). -/
def typeNames : List String :=
  ["i64", "i32", "i16", "i8", "n64", "n32", "n16", "n8", "f32", "f16", "bf16", "e4m3", "e5m2", "e2m1", "e8m0"]

/-- The type that a name spells. -/
def typeNamed (cs : Chars) : Option Ty := (placeIn cs typeNames).bind Ty.ofCode

/-- The keywords of R96, and `rel` of R94.
DEDUCED, unsafe: log 67. -/
def keywords : List String :=
  ["rne", "rz", "ru", "rd", "sr", "dyn", "nonsat", "sat", "rlx", "acq", "rel", "ar", "q0", "q1", "q2", "q3"]

/-- Whether a name may be a symbol's (R92). -/
def symbolOk (cs : Chars) : Bool :=
  decide (cs.length ≤ 255) && (regNamed cs).isNone && (typeNamed cs).isNone && (placeIn cs keywords).isNone &&
  (match cs with | [] => false | c :: rest => symStart c && rest.all symChar)

/-! ## Numbers (R93) -/

/-- A non-negative rational number: what a floating constant spells. -/
structure Ratio where
  num : Nat
  den : Nat
  deriving DecidableEq, Repr

/-- A rational times a power of a base. -/
def Ratio.scale (r : Ratio) (base : Nat) (e : Int) : Ratio :=
  if 0 ≤ e then { r with num := r.num * base ^ e.toNat } else { r with den := r.den * base ^ (-e).toNat }

/-- The floating value of a rational with a sign: exact, or cut after at least 200 bits with a sticky bit. -/
def Ratio.value (r : Ratio) (neg : Bool) : FVal :=
  if r.num = 0 then .zero neg
  else
    let up := 200 + Nat.log2 r.den
    let n := r.num * 2 ^ up
    .fin neg (n / r.den) (-(up : Int)) (n % r.den != 0)

/-- A floating constant: ROUND(v, format, RNE, NONSAT), or an error where a finite value does not stay finite or overflows
E2M1 (R93, R46). -/
def Ratio.bits (r : Ratio) (neg : Bool) (t : Ty) : Except GlasError Nat :=
  let p := roundF t 0 false false 0 (r.value neg)
  if p.2 &&& flagOF != 0 || p.2 &&& flagSAT != 0 then .error .constantOverflow else .ok p.1

/-! ## Tokens (R91) -/

/-- The tokens of a line. `real` is a number with a fraction or an exponent and no suffix, as the floating data directives
take it (R102); `pair` is RxC of `shape=` (R100). -/
inductive Tok where
  | num (n : Nat)
  | flt (r : Ratio) (t : Ty)
  | real (r : Ratio)
  | pair (r c : Nat)
  | name (cs : Chars)
  | sym (cs : Chars)
  deriving DecidableEq, Repr

/-- A token of punctuation. -/
def Tok.isSym (t : Tok) (s : String) : Bool := t = .sym s.toList

/-- Whether a symbol character follows: a number may not run into one. -/
def runsOn : Chars → Bool
  | c :: _ => symChar c
  | [] => false

/-- The type suffixes of a floating constant (R93). -/
def floatSuffixes : List String := ["bf16", "f32", "f16", "e4m3", "e5m2", "e2m1"]

/-- A suffix that stands here whole, and what follows it. -/
def suffixOf (cs : Chars) : List String → Option (Ty × Chars)
  | [] => none
  | w :: ws =>
    let k := w.toList.length
    if lower (cs.take k) = w.toList && !runsOn (cs.drop k) then (typeNamed w.toList).map (fun t => (t, cs.drop k))
    else suffixOf cs ws

/-- The end of a floating number: its suffix, or none. -/
def endFloat (r : Ratio) (cs : Chars) : Except GlasError (Tok × Chars) :=
  match suffixOf cs floatSuffixes with
  | some (t, rest) => .ok (.flt r t, rest)
  | none => if runsOn cs then .error .badToken else .ok (.real r, cs)

/-- An exponent: a sign and decimal digits, after its letter. -/
def exponentOf (cs : Chars) : Option (Int × Chars) :=
  let neg := cs.head? = some '-'
  let cs := if neg || cs.head? = some '+' then cs.tail else cs
  match digitRun 10 0 0 cs with
  | (0, _, _) => none
  | (_, v, rest) => some ((if neg then -(v : Int) else (v : Int)), rest)

/-- The rest of a number after its digits in base 10 or 16: a fraction, an exponent and a suffix (R93). A fraction that a
suffix follows has no exponent: `1.0e4m3` is 1.0 in E4M3.
DEDUCED, unsafe: log 67. -/
def numberTail (base v : Nat) (cs : Chars) : Except GlasError (Tok × Chars) :=
  let hex := base = 16
  let frac : Option (Ratio × Chars) :=
    match cs with
    | '.' :: rest =>
      (match digitRun base 0 v rest with
      | (0, _, _) => none
      | (n, w, rest) => some (⟨w, base ^ n⟩, rest))
    | _ => none
  let r := (frac.map Prod.fst).getD ⟨v, 1⟩
  let rest := (frac.map Prod.snd).getD cs
  let early := if frac.isSome && !hex then suffixOf rest floatSuffixes else none
  match early, rest with
  | some (t, rest), _ => .ok (.flt r t, rest)
  | none, c :: cs' =>
    if lowerChar c = (if hex then 'p' else 'e') then
      match exponentOf cs' with
      | some (e, rest) => endFloat (r.scale (if hex then 2 else 10) e) rest
      | none => .error .badToken
    else if frac.isSome then (if hex then .error .badToken else endFloat r (c :: cs'))
    else if !hex && lowerChar c = 'x' then
      (match digitRun 10 0 0 cs' with
      | (0, _, _) => .error .badToken
      | (_, w, rest) => if runsOn rest then .error .badToken else .ok (.pair v w, rest))
    else if symChar c then .error .badToken else .ok (.num v, c :: cs')
  | none, [] => if frac.isSome then (if hex then .error .badToken else .ok (.real r, [])) else .ok (.num v, [])

/-- A number: decimal, hexadecimal after `0x` or binary after `0b` (R93). -/
def numberTok (cs : Chars) : Except GlasError (Tok × Chars) :=
  match cs with
  | '0' :: 'x' :: rest =>
    (match digitRun 16 0 0 rest with
    | (0, _, _) => .error .badToken
    | (_, v, rest) => numberTail 16 v rest)
  | '0' :: 'b' :: rest =>
    (match digitRun 2 0 0 rest with
    | (0, _, _) => .error .badToken
    | (_, v, rest) => if runsOn rest then .error .badToken else .ok (.num v, rest))
  | _ =>
    match digitRun 10 0 0 cs with
    | (_, v, rest) => numberTail 10 v rest

/-- The first token of a text that begins with no blank, and what follows it. -/
def firstTok (cs : Chars) : Except GlasError (Tok × Chars) :=
  match cs with
  | [] => .error .badToken
  | c :: rest =>
    if isDigit c then numberTok cs
    else if symStart c then .ok (.name (cs.takeWhile symChar), cs.dropWhile symChar)
    else if c = '.' then
      .ok (if rest.head?.any isLetter then (.sym (c :: rest.takeWhile symChar), rest.dropWhile symChar) else (.sym [c], rest))
    else if (c = '<' || c = '>') && rest.head? = some c then .ok (.sym [c, c], rest.tail)
    else if "-~*/%+&^|(),=:!?".toList.contains c then .ok (.sym [c], rest)
    else .error .badToken

/-- The text before a comment: `;` or `//` to the end of the line (R91). -/
def beforeComment : Chars → Chars
  | [] => []
  | ';' :: _ => []
  | '/' :: '/' :: _ => []
  | c :: cs => c :: beforeComment cs

/-- The tokens of a text; every token takes at least one character of it. -/
def tokensOf : Nat → Chars → Except GlasError (List Tok)
  | 0, _ => .ok []
  | fuel + 1, cs =>
    match cs.dropWhile isBlank with
    | [] => .ok []
    | cs =>
      match firstTok cs with
      | .error e => .error e
      | .ok (t, rest) => (tokensOf fuel rest).map (t :: ·)

/-- The tokens of a line (R91). -/
def lineTokens (line : Chars) : Except GlasError (List Tok) :=
  if 4096 < line.length then .error .lineTooLong else tokensOf (line.length + 1) (beforeComment line)

/-! ## Expressions (R94) -/

/-- The binary operators of R94. -/
inductive BinOp where
  | mul | div | rem | add | sub | shl | shr | and | xor | or
  deriving DecidableEq, Repr

/-- An expression. A floating constant is its bit pattern (R93). -/
inductive Expr where
  | lit (v : Int)
  | sym (s : Chars)
  | dot
  | neg (e : Expr)
  | not (e : Expr)
  | bin (op : BinOp) (a b : Expr)
  | rel (e : Expr)
  deriving DecidableEq, Repr

/-- A binary operator and its precedence, 1 binding tightest (R94). -/
def binOpOf (t : Tok) : Option (BinOp × Nat) :=
  match t with
  | .sym ['*'] => some (.mul, 2)
  | .sym ['/'] => some (.div, 2)
  | .sym ['%'] => some (.rem, 2)
  | .sym ['+'] => some (.add, 3)
  | .sym ['-'] => some (.sub, 3)
  | .sym ['<', '<'] => some (.shl, 4)
  | .sym ['>', '>'] => some (.shr, 4)
  | .sym ['&'] => some (.and, 5)
  | .sym ['^'] => some (.xor, 6)
  | .sym ['|'] => some (.or, 7)
  | _ => none

/-- A token after a parenthesis or none: the closing one. -/
def closed (p : Expr × List Tok) : Except GlasError (Expr × List Tok) :=
  match p.2 with
  | .sym [')'] :: rest => .ok (p.1, rest)
  | _ => .error .badSyntax

mutual

/-- A factor: a literal, a symbol, `.`, a parenthesis, `rel(e)` or a unary operator. A minus sign before a floating constant
belongs to the constant: `-2.0bf16` is 0xC000 (R93).
DEDUCED, unsafe: log 67. -/
def parseFactor (fuel : Nat) (ts : List Tok) : Except GlasError (Expr × List Tok) :=
  match fuel, ts with
  | 0, _ => .error .badSyntax
  | _ + 1, .num n :: rest => .ok (.lit n, rest)
  | _ + 1, .flt r t :: rest => (r.bits false t).map (fun b => (.lit b, rest))
  | _ + 1, .sym ['-'] :: .flt r t :: rest => (r.bits true t).map (fun b => (.lit b, rest))
  | fuel + 1, .sym ['-'] :: rest => (parseFactor fuel rest).map (fun p => (.neg p.1, p.2))
  | fuel + 1, .sym ['~'] :: rest => (parseFactor fuel rest).map (fun p => (.not p.1, p.2))
  | _ + 1, .sym ['.'] :: rest => .ok (.dot, rest)
  | fuel + 1, .sym ['('] :: rest => (parseBin fuel 7 rest).bind closed
  | fuel + 1, .name n :: .sym ['('] :: rest =>
    if spells n "rel" then ((parseBin fuel 7 rest).bind closed).map (fun p => (.rel p.1, p.2)) else .error .badSyntax
  | _ + 1, .name n :: rest => if symbolOk n then .ok (.sym n, rest) else .error .badSyntax
  | _ + 1, _ => .error .badSyntax
termination_by structural fuel

/-- An expression whose operators bind at least as tightly as a precedence. -/
def parseBin (fuel prec : Nat) (ts : List Tok) : Except GlasError (Expr × List Tok) :=
  match fuel with
  | 0 => .error .badSyntax
  | fuel + 1 => (parseFactor fuel ts).bind (fun p => parseMore fuel prec p.1 p.2)
termination_by structural fuel

/-- The operators and right operands after a left operand, grouping from left to right. -/
def parseMore (fuel prec : Nat) (left : Expr) (ts : List Tok) : Except GlasError (Expr × List Tok) :=
  match fuel, ts with
  | 0, _ => .error .badSyntax
  | _ + 1, [] => .ok (left, [])
  | fuel + 1, t :: rest =>
    match binOpOf t with
    | none => .ok (left, t :: rest)
    | some (op, p) =>
      if prec < p then .ok (left, t :: rest)
      else (parseBin fuel (p - 1) rest).bind (fun q => parseMore fuel prec (.bin op left q.1) q.2)
termination_by structural fuel

end

/-- The longest expression at the head of a list of tokens, and the tokens after it. -/
def parseExpr (ts : List Tok) : Except GlasError (Expr × List Tok) := parseBin (4 * ts.length + 4) 7 ts

/-! ## Symbols and values (R94, R101, R107) -/

/-- Where a symbol lies: a section of the source, an absolute value, or a level of the tree. -/
inductive Place where
  | code | data | rodata | bss | scratch
  | abs
  | level
  deriving DecidableEq, Repr

/-- A symbol of the source and its value: an offset in its section, an absolute value or a level index. -/
structure Symbol where
  name   : Chars
  place  : Place
  value  : Int
  isGlobal : Bool := false
  deriving DecidableEq, Repr

/-- The symbol with a name; symbols are case-sensitive (R92). -/
def symbolNamed (syms : List Symbol) (n : Chars) : Option Symbol := syms.find? (fun s => s.name = n)

/-- Where an expression stands: the symbols, the current section and its location counter, and, inside an instruction, the
size of the code section. -/
structure ExprEnv where
  syms  : List Symbol
  place : Place
  loc   : Nat
  code  : Option Nat
  deriving DecidableEq, Repr

/-- The value of an expression: a number, or the form of a relocation: the address of a symbol and an addend, its bits 63 to
40, or the distance in instructions (R94, R107). `num` notes whether a symbol stands in it. -/
inductive ExprVal where
  | num (v : Int) (sym : Bool)
  | addr (s : Chars) (add : Int)
  | high (s : Chars)
  | dist (s : Chars) (add : Int)
  deriving DecidableEq, Repr

/-- A value inside the range of R94. -/
def inExprRange (v : Int) : Bool := decide (-(2 ^ 63 : Int) ≤ v) && decide (v < (2 ^ 64 : Int))

/-- A number that must lie inside the range of R94. -/
def exprNum (v : Int) (sym : Bool) : Except GlasError ExprVal :=
  if inExprRange v then .ok (.num v sym) else .error .expressionRange

/-- A bitwise operation on two's complement values of any length: 66 bits hold every value of R94. -/
def bitwise (f : BitVec 66 → BitVec 66 → BitVec 66) (a b : Int) : Int := (f (BitVec.ofInt 66 a) (BitVec.ofInt 66 b)).toInt

/-- A binary operator on numbers (R94): division and remainder truncate towards zero. -/
def BinOp.apply (op : BinOp) (a b : Int) : Except GlasError Int :=
  match op with
  | .mul => .ok (a * b)
  | .div => if b = 0 then .error .divisionByZero else .ok (a.tdiv b)
  | .rem => if b = 0 then .error .divisionByZero else .ok (a.tmod b)
  | .add => .ok (a + b)
  | .sub => .ok (a - b)
  | .shl => if b < 0 then .error .negativeShift
            else if a = 0 then .ok 0 else if 64 < b then .error .expressionRange else .ok (a * 2 ^ b.toNat)
  | .shr => if b < 0 then .error .negativeShift else .ok (a / 2 ^ (min b.toNat 66))
  | .and => .ok (bitwise (· &&& ·) a b)
  | .xor => .ok (bitwise (· ^^^ ·) a b)
  | .or => .ok (bitwise (· ||| ·) a b)

/-- A binary operator on values: a foreign symbol stands only as `sym`, `sym + e` or `sym - e`, where e holds no symbol, and,
for XIHI, as `sym >> 40` (R94, R107).
DEDUCED, unsafe: log 67. -/
def BinOp.values (op : BinOp) (a b : ExprVal) : Except GlasError ExprVal :=
  match a, b with
  | .num x sx, .num y sy => (op.apply x y).bind (fun v => exprNum v (sx || sy))
  | .addr s x, .num y sy =>
    if op = .shr && y = 40 && x = 0 && !sy then .ok (.high s)
    else if sy then .error .foreignSymbol
    else if op = .add then (if inExprRange (x + y) then .ok (.addr s (x + y)) else .error .expressionRange)
    else if op = .sub then (if inExprRange (x - y) then .ok (.addr s (x - y)) else .error .expressionRange)
    else .error .foreignSymbol
  | _, _ => .error .foreignSymbol

/-- `rel(e)` (R94): the distance from the instruction in instructions. A number, an absolute symbol or a level name lies in the
code section where its value does.
DESIGN CHOICE, unsafe: log 74. -/
def relValue (env : ExprEnv) (v : ExprVal) : Except GlasError ExprVal :=
  match env.code, v with
  | none, _ => .error .badRel
  | some size, .num x sym =>
    let d := x - env.loc
    if d % 12 = 0 && decide (0 ≤ x) && decide (x < size) then exprNum (d / 12) sym else .error .badRel
  | some _, .addr s x => if (symbolNamed env.syms s).isNone then .ok (.dist s x) else .error .badRel
  | some _, _ => .error .badRel

/-- The value of an expression (R94): exact, every intermediate value in range. A symbol of the current section, an absolute
one and a level have their value; any other is foreign. -/
def Expr.eval (env : ExprEnv) : Expr → Except GlasError ExprVal
  | .lit v => exprNum v false
  | .dot => exprNum env.loc false
  | .sym s =>
    match symbolNamed env.syms s with
    | some y => if y.place = env.place || y.place = .abs || y.place = .level then exprNum y.value true else .ok (.addr s 0)
    | none => .ok (.addr s 0)
  | .neg e =>
    match e.eval env with
    | .error x => .error x
    | .ok (.num v hs) => exprNum (-v) hs
    | .ok _ => .error .foreignSymbol
  | .not e =>
    match e.eval env with
    | .error x => .error x
    | .ok (.num v hs) => exprNum (-v - 1) hs
    | .ok _ => .error .foreignSymbol
  | .bin op a b =>
    match a.eval env, b.eval env with
    | .error x, _ => .error x
    | _, .error x => .error x
    | .ok x, .ok y => op.values x y
  | .rel e =>
    match e.eval env with
    | .error x => .error x
    | .ok v => relValue env v

/-- The value of an expression that no relocation may carry. -/
def Expr.number (env : ExprEnv) (e : Expr) : Except GlasError Int :=
  match e.eval env with
  | .error x => .error x
  | .ok (.num v _) => .ok v
  | .ok _ => .error .foreignSymbol

end Sys2Proof
end

