-- ==== Sys2Proof/Machine/GlasInstr.lean ====
section
/-! DEFINITION. The `glas` assembler, second part: an instruction as written and its word (R95 to R97, R66, R89). -/

namespace Sys2Proof

/-! ## Mnemonics (R89) -/

/-- The major classes of R89: name, MAJ, extension form, whether the class takes a type, and its functions from FN 1. -/
structure ClassRow where
  name  : String
  maj   : Nat
  form  : String
  typed : Bool
  fns   : List String
  deriving DecidableEq, Repr

/-- The comparisons of CMP and VCMP (R89). -/
def compareNames : List String := ["eq", "ne", "lt", "le", "gt", "ge", "unord"]

/-- The scalar, memory and control classes of R89. -/
def scalarRows : List ClassRow :=
  [⟨"int", 0x01, "xa", true, ["add", "sub", "mul", "mulh", "div", "rem", "min", "max", "abs", "and", "or", "xor", "andn",
     "shl", "shr", "rot", "clz", "ctz", "popc", "mov", "sel"]⟩,
   ⟨"inti", 0x02, "xi", true, ["addi", "muli", "andi", "ori", "xori", "shli", "shri", "roti", "movi", "movhi", "lea"]⟩,
   ⟨"cmp", 0x03, "xa", true, compareNames⟩,
   ⟨"prd", 0x04, "xa", false, ["and", "or", "xor", "andn", "not", "set", "pack", "unpack", "kpack", "kunpack"]⟩,
   ⟨"ctl", 0x05, "xi", false, ["bra", "jmp", "call", "callr", "ret", "loop", "nop", "enter", "leave"]⟩,
   ⟨"sys", 0x06, "xq", false, ["get", "set", "trap", "break", "perf"]⟩,
   ⟨"flt", 0x07, "xq", true, ["add", "sub", "mul", "fma", "div", "sqrt", "min", "max", "abs", "neg", "cvt"]⟩,
   ⟨"ld", 0x08, "xm", true, ["disp", "idx", "fe", "acq", "probe"]⟩,
   ⟨"st", 0x09, "xm", true, ["disp", "idx", "fe", "rel", "clr"]⟩,
   ⟨"atm", 0x0A, "xq", true, ["add", "and", "or", "xor", "min", "max", "xchg", "cas", "fadd"]⟩,
   ⟨"fnc", 0x0B, "xq", false, ["fence", "drain"]⟩,
   ⟨"cpy", 0x0C, "xq", false, ["go1", "go2", "gather", "scatter", "fill", "join", "wait"]⟩]

/-- The vector and matrix classes of R89. -/
def vectorRows : List ClassRow :=
  [⟨"vec", 0x10, "xq", true, ["add", "sub", "mul", "fma", "fms", "min", "max", "abs", "neg", "and", "or", "xor", "shl", "shr",
     "mov", "bcast", "sel", "adds", "subs"]⟩,
   ⟨"vcv", 0x11, "xq", true, ["cvt", "pack", "unpack", "qnt", "scale"]⟩,
   ⟨"vsf", 0x12, "xa", true, ["exp2", "log2", "rcp", "rsqrt", "sqrt"]⟩,
   ⟨"vpm", 0x13, "xq", true, ["perm", "rot", "red", "scan", "extr", "ins", "iota"]⟩,
   ⟨"vls", 0x14, "xm", true, ["ld", "st", "lds", "sts", "ldg", "ldfe", "stfe"]⟩,
   ⟨"vcmp", 0x15, "xa", true, compareNames⟩,
   ⟨"mxu", 0x18, "xq", true, ["mma", "blk", "sca", "zero", "xfer", "load", "wait", "prog"]⟩,
   ⟨"scl", 0x19, "xm", false, ["ld", "mov", "clr"]⟩]

/-- The object classes of R89. -/
def objectRows : List ClassRow :=
  [⟨"cue", 0x1C, "xq", false, ["post", "postb", "self", "timer", "end", "now", "tag", "info", "hzn"]⟩,
   ⟨"acc", 0x1D, "xq", false, ["chain", "send", "stat", "break"]⟩,
   ⟨"bar", 0x1E, "xq", false, ["init", "arrive", "wait", "sync", "line", "drop"]⟩,
   ⟨"grp", 0x1F, "xq", false, ["id", "size", "exit", "budget", "regs"]⟩,
   ⟨"que", 0x20, "xq", false, ["push", "stat", "wait"]⟩,
   ⟨"ctx", 0x21, "xq", false, ["yield", "info"]⟩,
   ⟨"pg", 0x22, "xq", false, ["probe"]⟩,
   ⟨"lnk", 0x23, "xq", false, ["stat"]⟩]

/-- All classes of R89. -/
def classRows : List ClassRow := scalarRows ++ vectorRows ++ objectRows

/-- Whether a function's mnemonic carries a type: its class takes one, but for SCA, ZERO, WAIT and PROG of MXU (R198). -/
def ClassRow.takesType (r : ClassRow) (fn : Nat) : Bool :=
  r.typed && !(r.maj = 0x18 && (fn = 0x03 || fn = 0x04 || fn = 0x07 || fn = 0x08))

/-- The parts of a name between its dots. -/
def dotParts (cs : Chars) : List Chars :=
  cs.foldr (fun c acc =>
    match acc with
    | [] => if c = '.' then [[], []] else [[c]]
    | p :: ps => if c = '.' then [] :: p :: ps else (c :: p) :: ps) []

/-- A mnemonic MAJ.FN[.TY] (R66, R95): its class, FN and type. -/
def mnemonicOf (cs : Chars) : Except GlasError (ClassRow × Nat × Ty) :=
  match dotParts cs with
  | m :: f :: rest =>
    match classRows.find? (fun r => spells m r.name) with
    | none => .error .noSuchInstruction
    | some r =>
      match placeIn f r.fns, rest with
      | none, _ => .error .noSuchInstruction
      | some n, [] => if r.takesType (n + 1) then .error .typeSuffix else .ok (r, n + 1, .i64)
      | some n, [t] =>
        (match typeNamed t with
        | some ty => if r.takesType (n + 1) then .ok (r, n + 1, ty) else .error .typeSuffix
        | none => .error .typeSuffix)
      | some _, _ => .error .noSuchInstruction
  | _ => .error .noSuchInstruction

/-! ## Subfields (R95, R96, and the field maps of the instruction chapters) -/

/-- What a subfield takes beside an expression: nothing, keywords, a type name, a level of the tree, a list of queues, or a
register alone. -/
inductive SubKind where
  | plain
  | words (ws : List (String × Nat))
  | type
  | level
  | queues
  | reg
  deriving DecidableEq, Repr

/-- A subfield of X: its name, its lowest bit and width, whether it is signed, what it takes, and how a written value is
encoded: a multiple of `unit` from `low` up, divided by it, less `minus`. -/
structure SubField where
  name   : String
  lo     : Nat
  width  : Nat
  signed : Bool := false
  kind   : SubKind := .plain
  unit   : Nat := 1
  minus  : Nat := 0
  deriving DecidableEq, Repr

/-- Consecutive keywords, the first standing for 0. -/
def wordsFrom0 (ws : List String) : SubKind := .words ws.zipIdx

/-- The rounding keywords (R96). -/
def rndWords : SubKind := .words [("rne", 0), ("rz", 1), ("ru", 2), ("rd", 3), ("sr", 4), ("dyn", 7)]

/-- The WIRE keywords (R185, R339). -/
def wireWords : SubKind := wordsFrom0 ["none", "bf16", "e4m3", "e5m2"]

/-- The TAKE keywords (R162, R174). -/
def takeWords : SubKind := wordsFrom0 ["keep", "clear"]

/-- The selector names of R132. -/
def selectorNames : List String :=
  ["time", "tag.t", "tag.m", "cycle", "thread", "slot", "core", "tile", "die", "pkg", "fpflags", "rndmode", "srstate",
   "stacklim", "budget", "faultinfo", "horizon"]

/-- The subfields that the form of the class gives (R67, R68). -/
def formFields (form : String) : List SubField :=
  if form = "xa" then [{ name := "c", lo := 0, width := 8, kind := .reg }]
  else if form = "xi" then [{ name := "imm", lo := 0, width := 40, signed := true }]
  else if form = "xm" then [{ name := "disp", lo := 8, width := 32, signed := true }]
  else
    [{ name := "c", lo := 0, width := 8, kind := .reg }, { name := "rnd", lo := 8, width := 3, kind := rndWords },
     { name := "sat", lo := 11, width := 1, kind := wordsFrom0 ["nonsat", "sat"] },
     { name := "order", lo := 12, width := 2, kind := wordsFrom0 ["rlx", "acq", "rel", "ar"] },
     { name := "scope", lo := 14, width := 4, kind := .level }, { name := "qmask", lo := 18, width := 4, kind := .queues }]

/-- The subfields of MXU (R199). -/
def mxuFields (fn : Nat) : List SubField :=
  let slot : SubField := { name := "slot", lo := 22, width := 3 }
  if fn = 0x01 || fn = 0x02 then
    [slot, { name := "k", lo := 25, width := 10, unit := 32 }, { name := "bty", lo := 35, width := 4, kind := .type },
     { name := "zc", lo := 39, width := 1 }]
  else if fn = 0x03 then [slot, { name := "pslot", lo := 25, width := 3 }]
  else if fn = 0x05 || fn = 0x06 then
    [slot, { name := "wide", lo := 25, width := 1 }, { name := "row0", lo := 26, width := 7 },
     { name := "rows", lo := 33, width := 7, minus := 1 }]
  else if fn = 0x07 then [{ name := "smask", lo := 22, width := 5 }]
  else [slot]

/-- The subfields of CUE (R339). -/
def cueFields (fn : Nat) : List SubField :=
  if fn = 0x02 then
    [{ name := "port", lo := 22, width := 8 }, { name := "wire", lo := 30, width := 2, kind := wireWords },
     { name := "size", lo := 32, width := 8, unit := 16, minus := 1 }]
  else if fn = 0x01 || fn = 0x03 || fn = 0x04 then [{ name := "port", lo := 22, width := 8 }, { name := "len", lo := 30, width := 7 }]
  else if fn = 0x06 then [{ name := "ns", lo := 22, width := 1 }]
  else if fn = 0x08 then [{ name := "sel", lo := 22, width := 4 }]
  else []

/-- The subfields of an instruction's own (R95): the tables of R123, R127, R131, R145, R153, R158, R162, R174, R185, R199,
R220, R260, R281, R306, R339, R358, R381 and R433.
DESIGN CHOICE, unsafe: log 85. -/
def ownFields (maj fn : Nat) : List SubField :=
  match maj with
  | 0x05 =>
    if fn = 0x08 || fn = 0x09 then
      [{ name := "frame", lo := 0, width := 12, unit := 64 }, { name := "nx", lo := 12, width := 4 },
       { name := "nv", lo := 16, width := 5 }, { name := "ra", lo := 21, width := 1 }, { name := "small", lo := 22, width := 1 }]
    else []
  | 0x06 =>
    if fn = 0x01 then
      [{ name := "sel", lo := 22, width := 8, kind := wordsFrom0 selectorNames }, { name := "idx", lo := 30, width := 2 }]
    else if fn = 0x02 then [{ name := "sel", lo := 22, width := 8, kind := wordsFrom0 selectorNames }]
    else if fn = 0x03 then [{ name := "code", lo := 22, width := 16 }]
    else if fn = 0x05 then [{ name := "cnt", lo := 22, width := 4 }]
    else []
  | 0x07 => if fn = 0x0B then [{ name := "to", lo := 22, width := 1, kind := wordsFrom0 ["int", "f32"] }] else []
  | 0x08 => [{ name := "scope", lo := 0, width := 4, kind := .level }, { name := "take", lo := 4, width := 1, kind := takeWords }]
  | 0x09 => [{ name := "scope", lo := 0, width := 4, kind := .level }]
  | 0x0C =>
    [{ name := "q", lo := 22, width := 2, kind := wordsFrom0 ["q0", "q1", "q2", "q3"] },
     { name := "wire", lo := 24, width := 2, kind := wireWords }, { name := "cue", lo := 26, width := 1 },
     { name := "port", lo := 27, width := 8 }]
  | 0x10 => [{ name := "idx", lo := 22, width := 7 }]
  | 0x11 =>
    [{ name := "sty", lo := 22, width := 4, kind := .type }, { name := "part", lo := 26, width := 3 },
     { name := "sidx", lo := 29, width := 7 }]
  | 0x13 =>
    [{ name := "idx", lo := 22, width := 7 },
     { name := "op", lo := 29, width := 3, kind := wordsFrom0 ["add", "min", "max", "and", "or", "xor"] }]
  | 0x14 => [{ name := "take", lo := 0, width := 1, kind := takeWords }]
  | 0x18 => mxuFields fn
  | 0x19 =>
    if fn = 0x02 then [{ name := "half", lo := 0, width := 1 }] else if fn = 0x03 then [{ name := "val", lo := 0, width := 8 }] else []
  | 0x1C => cueFields fn
  | 0x1D => if fn = 0x02 then [{ name := "first", lo := 22, width := 4 }, { name := "strips", lo := 26, width := 4, minus := 1 }] else []
  | 0x1E =>
    [{ name := "obj", lo := 22, width := 6 }, { name := "mode", lo := 28, width := 1, kind := wordsFrom0 ["memory", "curtain"] },
     { name := "chan", lo := 29, width := 3 }]
  | 0x1F =>
    if fn = 0x01 then [{ name := "kind", lo := 22, width := 2, kind := wordsFrom0 ["coord", "node"] }]
    else if fn = 0x02 then [{ name := "kind", lo := 22, width := 2, kind := wordsFrom0 ["siblings", "count", "threads", "lanes"] }]
    else if fn = 0x05 then [{ name := "xn", lo := 22, width := 5, unit := 8 }, { name := "vn", lo := 27, width := 4, unit := 8 }]
    else []
  | 0x20 => if fn = 0x02 then [{ name := "sel", lo := 22, width := 2 }] else []
  | 0x21 =>
    if fn = 0x01 then [{ name := "reason", lo := 22, width := 16 }] else [{ name := "sel", lo := 22, width := 4 }]
  | 0x23 => [{ name := "sel", lo := 22, width := 4 }]
  | _ => []

/-- The subfields that may be written on a function. ENTER and LEAVE have no immediate beside their own. -/
def subFields (r : ClassRow) (fn : Nat) : List SubField :=
  (if r.maj = 0x05 && (fn = 0x08 || fn = 0x09) then [] else formFields r.form) ++ ownFields r.maj fn

/-- The subfield with a name. -/
def subNamed (r : ClassRow) (fn : Nat) (n : Chars) : Option SubField := (subFields r fn).find? (fun f => spells n f.name)

/-- A written number as a subfield holds it (R67, R97): a multiple of the unit, in range. -/
def SubField.encode (f : SubField) (v : Int) : Except GlasError Int :=
  if v % f.unit ≠ 0 then .error .subfieldRange
  else
    let e := v / f.unit - f.minus
    let fits := if f.signed then decide (-(2 ^ (f.width - 1) : Int) ≤ e) && decide (e < (2 ^ (f.width - 1) : Int))
                else decide (0 ≤ e) && decide (e < (2 ^ f.width : Int))
    if fits then .ok e else .error .subfieldRange

/-- A list of queues `q0+q2`: the OR of their bits, and what follows (R96). -/
def queueList : List Tok → Option (Nat × List Tok)
  | .name n :: .sym ['+'] :: rest =>
    (placeIn n ["q0", "q1", "q2", "q3"]).bind (fun b => (queueList rest).map (fun p => (p.1 ||| 2 ^ b, p.2)))
  | .name n :: rest => (placeIn n ["q0", "q1", "q2", "q3"]).map (fun b => (2 ^ b, rest))
  | _ => none

/-- The value of a subfield: a number as the subfield holds it, or a relocation's form, which the immediate of XI and the
displacement of XM alone may hold (R94, R107). -/
inductive SubVal where
  | num (v : Int)
  | foreign (v : ExprVal)
  deriving DecidableEq, Repr

/-- Whether an expression stands where a name alone stands: the item ends after it. -/
def endsItem : List Tok → Bool
  | [] => true
  | .sym [','] :: _ => true
  | .sym ['!'] :: _ => true
  | _ => false

/-- A subfield given by an expression. -/
def SubField.expr (env : ExprEnv) (f : SubField) (ts : List Tok) : Except GlasError (SubVal × List Tok) :=
  (parseExpr ts).bind (fun p =>
    (p.1.eval env).bind (fun v =>
      match v with
      | .num n _ => (f.encode n).map (fun e => (SubVal.num e, p.2))
      | v => if f.signed then .ok (.foreign v, p.2) else .error .foreignSymbol))

/-- A subfield's value, written after its `=` (R96). -/
def SubField.parse (env : ExprEnv) (f : SubField) (ts : List Tok) : Except GlasError (SubVal × List Tok) :=
  match ts with
  | .name n :: rest =>
    if endsItem rest then
      match f.kind with
      | .reg => (match regNamed n with
        | some r => .ok (.num (Reg.code r).toNat, rest)
        | none => .error .badOperand)
      | .words ws => (match wordIn n ws with
        | some v => .ok (.num v, rest)
        | none => if symbolOk n then f.expr env ts else .error .badSubfield)
      | .type => (match typeNamed n with
        | some t => .ok (.num t.code.toNat, rest)
        | none => f.expr env ts)
      | .level => (match symbolNamed env.syms n with
        | some y => if y.place = .level then (f.encode y.value).map (fun e => (.num e, rest)) else .error .noSuchLevel
        | none => .error .noSuchLevel)
      | .queues => (match queueList ts with
        | some (v, rest) => .ok (.num v, rest)
        | none => f.expr env ts)
      | .plain => f.expr env ts
    else
      match f.kind, queueList ts with
      | .queues, some (v, rest) => if endsItem rest then .ok (.num v, rest) else .error .badSubfield
      | .reg, _ => .error .badOperand
      | _, _ => f.expr env ts
  | _ => if f.kind = .reg then .error .badOperand else f.expr env ts

/-! ## The statement (R95) -/

/-- An instruction as written: guard, mnemonic, operands by position (none is `_`), subfields and hints. -/
structure Written where
  guard : Guard
  row   : ClassRow
  fn    : Nat
  ty    : Ty
  ops   : List (Option Reg)
  subs  : List (SubField × SubVal)
  hints : Hints
  deriving DecidableEq, Repr

/-- The guard prefix, G (R76). `?p0` is the same as no guard. -/
def guardOf (ts : List Tok) : Except GlasError (Guard × List Tok) :=
  let make : Bool → Chars → List Tok → Except GlasError (Guard × List Tok) := fun neg n rest =>
    match regNamed n with
    | some (.p i) => .ok (⟨i, false, neg⟩, rest)
    | some (.k i) => .ok (⟨i, true, neg⟩, rest)
    | _ => .error .badOperand
  match ts with
  | .sym ['?'] :: .sym ['!'] :: .name n :: rest => make true n rest
  | .sym ['?'] :: .name n :: rest => make false n rest
  | .sym ['?'] :: _ => .error .badSyntax
  | _ => .ok (⟨0, false, false⟩, ts)

/-- The hints at the end of a statement, each once (R95). -/
def hintsOf : List Tok → Hints → Except GlasError Hints
  | [], h => .ok h
  | .sym ['!'] :: .name n :: rest, h =>
    if spells n "sw" then (if h.sw then .error .badHint else hintsOf rest { h with sw := true })
    else if spells n "ka" then (if h.ka then .error .badHint else hintsOf rest { h with ka := true })
    else if spells n "kb" then (if h.kb then .error .badHint else hintsOf rest { h with kb := true })
    else .error .badHint
  | _, _ => .error .badSyntax

/-- Another item of the list, or its end: after a comma an item must follow. -/
def nextItem (ts : List Tok) : Except GlasError (Option (List Tok)) :=
  match ts with
  | [] => .ok none
  | .sym ['!'] :: _ => .ok none
  | .sym [','] :: rest => if endsItem rest then .error .badSyntax else .ok (some rest)
  | _ => .error .badSyntax

/-- The operands and subfields: items between commas, subfields after every operand. `n` bounds the number of items. -/
def itemsOf (env : ExprEnv) (r : ClassRow) (fn : Nat) : Nat → List Tok → List (Option Reg) → List (SubField × SubVal) →
    Except GlasError (List (Option Reg) × List (SubField × SubVal) × List Tok)
  | 0, _, _, _ => .error .badSyntax
  | n + 1, ts, ops, subs =>
    let go : List (Option Reg) → List (SubField × SubVal) → List Tok →
        Except GlasError (List (Option Reg) × List (SubField × SubVal) × List Tok) := fun ops subs rest =>
      match nextItem rest with
      | .error e => .error e
      | .ok none => .ok (ops, subs, rest)
      | .ok (some rest) => itemsOf env r fn n rest ops subs
    match ts with
    | .name x :: .sym ['='] :: rest =>
      (match subNamed r fn x with
      | none => .error .badSubfield
      | some f =>
        if subs.any (fun p => p.1.name = f.name) then .error .subfieldTwice
        else match f.parse env rest with
          | .error e => .error e
          | .ok (v, rest) => go ops (subs ++ [(f, v)]) rest)
    | .name x :: rest =>
      if subs.isEmpty && decide (ops.length < 3) then
        (if x = ['_'] then go (ops ++ [none]) subs rest
         else match regNamed x with
          | some reg => go (ops ++ [some reg]) subs rest
          | none => .error .badOperand)
      else .error .badOperand
    | _ => .error .badSyntax

/-- An instruction statement (R95). -/
def writtenOf (env : ExprEnv) (ts : List Tok) : Except GlasError Written :=
  (guardOf ts).bind (fun g =>
    match g.2 with
    | .name m :: rest =>
      (mnemonicOf m).bind (fun mn =>
        let items := if endsItem rest then .ok ([], [], rest) else itemsOf env mn.1 mn.2.1 (rest.length + 1) rest [] []
        items.bind (fun it =>
          (hintsOf it.2.2 ⟨false, false, false⟩).map (fun h =>
            { guard := g.1, row := mn.1, fn := mn.2.1, ty := mn.2.2, ops := it.1, subs := it.2.1, hints := h })))
    | _ => .error .badSyntax)

/-! ## The word (R65, R97, R107) -/

/-- The extension field with the numbers of the subfields in their places; a relocation's field is zero. -/
def xField (subs : List (SubField × SubVal)) : BitVec 40 :=
  subs.foldl (fun x p =>
    match p.2 with
    | .num v => x ||| ((BitVec.ofInt 40 v &&& BitVec.ofNat 40 (2 ^ p.1.width - 1)) <<< p.1.lo)
    | .foreign _ => x) 0

/-- The operand fields: an unused position, or one left out, encodes as 0 (R95). -/
def Written.fields (w : Written) : Ops :=
  let at' : Nat → Reg := fun n => ((w.ops[n]?).getD none).getD (.x 0)
  { g := w.guard, h := w.hints, ty := w.ty, d := at' 0, a := at' 1, b := at' 2, x := xField w.subs }

/-- A position as written suits its class: a used one names a register, an unused one is `_` or left out (R95, R97).
DEDUCED, unsafe: log 67. -/
def positionOk (sl : Slot) (w : Option Reg) : Bool :=
  match w with
  | some r => sl != .unused && sl.admits r
  | none => sl = .unused

/-- The kinds of relocation (R107). -/
inductive RelocKind where
  | abs64 | abs32 | xi40 | xiHi | xm32 | rel40 | rel32
  deriving DecidableEq, Repr

/-- A relocation in the making: kind, symbol and addend. -/
structure Reloc where
  kind   : RelocKind
  symbol : Chars
  addend : Int
  deriving DecidableEq, Repr

/-- The relocation of a subfield: `imm=` takes XI40, XIHI and REL40, `disp=` XM32 and REL32 (R107). -/
def relocOf (f : SubField) (v : ExprVal) : Option Reloc :=
  let imm := f.name = "imm"
  match v with
  | .addr s a => some ⟨if imm then .xi40 else .xm32, s, a⟩
  | .dist s a => some ⟨if imm then .rel40 else .rel32, s, a⟩
  | .high s => if imm then some ⟨.xiHi, s, 0⟩ else none
  | .num _ _ => none

/-- Whether an addend fits the signed 64 bits of ADDEND (R107). -/
def signed64 (a : Int) : Bool := decide (-(2 ^ 63 : Int) ≤ a) && decide (a < (2 ^ 63 : Int))

/-- The relocations of an instruction; a form that no kind carries is an error (R94), as is an addend that a record cannot
hold. -/
def relocsOf : List (SubField × SubVal) → Except GlasError (List Reloc)
  | [] => .ok []
  | (f, .foreign v) :: rest =>
    match relocOf f v with
    | some r => if signed64 r.addend then (relocsOf rest).map (r :: ·) else .error .expressionRange
    | none => .error .foreignSymbol
  | (_, .num _) :: rest => relocsOf rest

/-- The x and v registers of an instruction in its positions and its C byte, and those it names without a field (R114), lie
under the counts of `.partition` (R97). -/
def countsOk (counts : Option (Nat × Nat)) (sh : Shape) (implied : List Reg) (o : Ops) : Bool :=
  match counts with
  | none => true
  | some (xs, vs) =>
    let ok : Reg → Bool := fun r =>
      match r with
      | .x n => decide (n.toNat < xs)
      | .v n => decide (n.toNat < vs)
      | _ => true
    let used : Slot → Reg → Bool := fun sl r => sl = .unused || ok r
    used sh.d o.d && used sh.a o.a && used sh.b o.b && used (sh.c.getD .unused) o.c && implied.all ok

/-- An instruction's word and its relocations, after every check that the source allows (R97): the positions, R84 and the
register counts. -/
def Written.word (counts : Option (Nat × Nat)) (w : Written) : Except GlasError (BitVec 96 × List Reloc) :=
  let o := w.fields
  let sh := shapeOf w.row.maj w.fn o
  let at' : Nat → Option Reg := fun n => (w.ops[n]?).getD none
  if !(positionOk sh.d (at' 0) && positionOk sh.a (at' 1) && positionOk sh.b (at' 2)) then .error .badOperand
  else if fieldFault w.row.maj w.fn o ≠ 0 then .error (.notAnInstruction (fieldFault w.row.maj w.fn o))
  else if !countsOk counts sh (impliedRegs w.row.maj w.fn o) o then .error .registerCount
  else (relocsOf w.subs).map (fun rs => (encodeFields w.row.maj w.fn o, rs))

/-- One instruction statement, assembled. -/
def assembleInstr (counts : Option (Nat × Nat)) (env : ExprEnv) (ts : List Tok) : Except GlasError (BitVec 96 × List Reloc) :=
  (writtenOf env ts).bind (Written.word counts)

end Sys2Proof
end

