-- ==== Sys2Proof/Safety.lean ====
section
/-! DEFINITION. A safe step, what every state of a run should satisfy, and the terms in which the claims speak of an
instruction: when it acts, what it leaves, and what it must not touch. -/

namespace Sys2Proof

open Machine

/-- A state from which one step leads to a next state: the machine neither stops nor meets an instruction without a meaning. -/
def Safe (s : State) : Prop := ∃ t, step s = .next t

/-- The package's DRAM and the host's memory are in canonical form. -/
def MemoryOk (s : State) : Prop := s.dram.wf = true ∧ s.hostMem.wf = true

namespace Claims

/-! ## When an instruction acts (R72 to R86) -/

/-- The registers that a function reads or writes without naming them (R114): the predicates of PACK and UNPACK, x1 of the
calls and of RET, x2 and the frame registers of ENTER and LEAVE. -/
def extraRegs (maj fn : Nat) (o : Ops) : List Reg :=
  if maj = 0x04 then (if fn = 0x07 || fn = 0x08 then predRegs else [])
  else if maj = 0x05 then
    (if fn = 0x03 || fn = 0x04 || fn = 0x05 then [.x 1] else if fn = 0x08 || fn = 0x09 then frameExtra o else [])
  else []

/-- The functions that always act as a switch marker (R79): TRAP, BREAK, EXIT, CUE.END, BAR.WAIT, SYNC and LINE,
CTX.YIELD. -/
def alwaysMarker (maj fn : Nat) : Bool :=
  (maj = 0x06 && (fn = 0x03 || fn = 0x04)) || (maj = 0x1F && fn = 0x03) || (maj = 0x1C && fn = 0x05) ||
  (maj = 0x1E && (fn = 0x03 || fn = 0x04 || fn = 0x05)) || (maj = 0x21 && fn = 0x01)

/-- Whether the instruction is a switch marker: by its function, or by its SW bit. -/
def isMarker (maj fn : Nat) (o : Ops) : Bool := alwaysMarker maj fn || o.h.sw

/-- The registers of the instruction, named or not, each with its FIELD code. -/
def regsOf (maj fn : Nat) (o : Ops) : List (Nat × Reg) := namedRegs maj fn o (extraRegs maj fn o)

/-- The issue stage lets the instruction of the issuing thread act: its registers lie inside the allotment (R72), none is
pending unless it is a switch marker (R80), none has a fixed-latency result under way (R79), a marker finds no
variable-latency result outstanding (R79), and the guard is on (R76). -/
abbrev Ready (maj fn : Nat) (o : Ops) (s : State) : Prop :=
  (∀ p ∈ regsOf maj fn o, s.cur.outside p.2 = false) ∧
  (isMarker maj fn o = true ∨ ∀ p ∈ regsOf maj fn o, s.cur.pending p.2 = false) ∧
  (∀ p ∈ regsOf maj fn o, (s.busyRegs s.me).contains p.2 = false) ∧
  (isMarker maj fn o = false ∨ s.outstanding s.me = []) ∧
  s.cur.guardOn o.g = true

/-! ## What an instruction leaves -/

/-- Every register outside `regs` reads as before. -/
structure RegsKept (a b : Thread) (regs : List Reg) : Prop where
  x : ∀ n, .x n ∉ regs → b.getX n = a.getX n
  v : ∀ n, .v n ∉ regs → b.getV n = a.getV n
  p : ∀ n, .p n ∉ regs → b.getP n = a.getP n
  k : ∀ n, .k n ∉ regs → b.getK n = a.getK n
  s : ∀ n, .s n ∉ regs → b.getS n = a.getS n

/-- All of a thread but its registers, PC, pending bits, FPFLAGS, SRSTATE, wait and issue record: its other special
registers, its fault record, its tags, budget, barrier entries and state. -/
def restOf (t : Thread) : Thread :=
  { t with x := [], v := [], p := 0, k := [], s := [], pend := 0, pc := 0, fpflags := 0, srstate := 0, wait := none,
           count := 0, lastIssue := none, perf := [], gap := 0 }

/-- What an instruction changes of its thread: where control goes, the pending bits it leaves, the registers it may write,
FPFLAGS and SRSTATE after it, the cycle before which nothing issues after a taken transfer, and the rest of the thread. -/
structure Change where
  pc    : Word
  pend  : BitVec 256
  regs  : List Reg
  flags : Word
  gen   : Word
  gap   : Nat
  rest  : Thread

/-- The change that every instruction makes which issues and goes on at PC + 12 (R82): a marker clears the pending bits
(R80), no register is written, no flag is set. -/
def plain (maj fn : Nat) (o : Ops) (s : State) : Change :=
  { pc := s.cur.pc + 12, pend := if isMarker maj fn o then 0 else s.cur.pend, regs := [], flags := s.cur.fpflags,
    gen := s.cur.srstate, gap := s.cur.gap, rest := restOf s.cur }

/-- The threads after the issuing thread's instruction has issued with a change: one more instruction in PERF counter 0
(R136); the other registers and the other threads as before. -/
structure Issued (s t : State) (c : Change) : Prop where
  others  : ∀ u, u ≠ s.me → t.thread u = s.thread u
  pc      : t.cur.pc = c.pc
  pend    : t.cur.pend = c.pend
  perf0   : lookAt 0 t.cur.perf 0 = lookAt 0 s.cur.perf 0 + 1
  perf    : ∀ n, n ≠ 0 → lookAt 0 t.cur.perf n = lookAt 0 s.cur.perf n
  fpflags : t.cur.fpflags = c.flags
  srstate : t.cur.srstate = c.gen
  gap     : t.cur.gap = c.gap
  regs    : RegsKept s.cur t.cur c.regs
  rest    : restOf t.cur = c.rest

/-- Only threads differ: every byte of every memory, every engine, queue, cue, barrier, link and context is as before. -/
def OnlyThreads (s t : State) : Prop := { t with threads := s.threads } = s

/-- exec answers a next state in which the instruction has issued with the change `c`, and `done` holds of that state. -/
def Issues (i : Instr) (s : State) (c : Change) (done : State → Prop) : Prop :=
  ∃ t, exec i s = .next t ∧ Issued s t c ∧ done t

/-- The instruction acts on its own thread alone: nothing else of the machine changes. -/
def Acts (i : Instr) (s : State) (c : Change) (done : Thread → Prop) : Prop :=
  Issues i s c (fun t => OnlyThreads s t ∧ done t.cur)

/-- The instruction acts and x register `d` holds `w`; a write to x0 is discarded (R70). -/
def WritesX (i : Instr) (maj fn : Nat) (o : Ops) (s : State) (d : BitVec 7) (w : Word) : Prop :=
  Acts i s { plain maj fn o s with regs := [.x d] } (fun t => t.getX d = if d = 0 then 0 else w)

/-- The instruction acts and p register `d` holds `b`; a write to p0 is discarded. -/
def WritesP (i : Instr) (maj fn : Nat) (o : Ops) (s : State) (d : BitVec 3) (b : Bool) : Prop :=
  Acts i s { plain maj fn o s with regs := [.p d] } (fun t => t.getP d = if d = 0 then true else b)

/-- The instruction acts and k register `d` holds `w`; a write to k0 is discarded. -/
def WritesK (i : Instr) (maj fn : Nat) (o : Ops) (s : State) (d : BitVec 3) (w : BitVec 16) : Prop :=
  Acts i s { plain maj fn o s with regs := [.k d] } (fun t => t.getK d = if d = 0 then 0xFFFF else w)

/-- A floating-point instruction acts: x register `d` holds `w`, and the flags `fl` are ORed into FPFLAGS (R54). -/
def WritesXFlags (i : Instr) (maj fn : Nat) (o : Ops) (s : State) (d : BitVec 7) (w : Word) (fl : Nat) : Prop :=
  Acts i s { plain maj fn o s with regs := [.x d], flags := s.cur.fpflags ||| BitVec.ofNat 64 fl }
    (fun t => t.getX d = if d = 0 then 0 else w)

/-! ## Vector results -/

/-- The active elements of D, ascending (R142, R143). -/
def activeElems (o : Ops) (t : Thread) : List Nat := (List.range o.ty.elems).filter (fun e => t.act o.g o.ty.per e)

/-- The generator after the elements of a list, each produced by `r` (R48). -/
def genAfter (r : Nat → BitVec 32 → ElemRes) (es : List Nat) (g : BitVec 32) : BitVec 32 :=
  es.foldl (fun g e => (r e g).2.2) g

/-- The flags of the elements of a list, ORed (R54). -/
def flagsAfter (r : Nat → BitVec 32 → ElemRes) : List Nat → BitVec 32 → Nat → Nat
  | [], _, fl => fl
  | e :: es, g, fl => flagsAfter r es (r e g).2.2 (orF fl (r e g).2.1)

/-- The instruction acts: every active element e of v register `d` becomes the bits that `r` gives for it, with the generator
as the active elements below e have left it; every inactive one keeps its bits. -/
def WritesElems (i : Instr) (maj fn : Nat) (o : Ops) (s : State) (d : BitVec 6) (r : Nat → BitVec 32 → ElemRes) : Prop :=
  let es := activeElems o s.cur
  Acts i s { plain maj fn o s with
      regs := [.v d], flags := s.cur.fpflags ||| BitVec.ofNat 64 (flagsAfter r es s.cur.gen 0),
      gen := (genAfter r es s.cur.gen).setWidth 64 }
    (fun t => ∀ e, e < o.ty.elems → elemOf (t.getV d) o.ty.width e =
      if s.cur.act o.g o.ty.per e then
        (r e (genAfter r (es.filter (fun f => decide (f < e))) s.cur.gen)).1 % 2 ^ o.ty.width
      else elemOf (s.cur.getV d) o.ty.width e)

/-- Elements of width `w` produced one after another into a register: destination element and computation of each. -/
def afterMoves (w : Nat) (v : VWord) (g : BitVec 32) (ms : List (Nat × (BitVec 32 → ElemRes))) : VecAcc :=
  ms.foldl (fun a m => ⟨setElem a.d w m.1 (m.2 a.gen).1, orF a.fl (m.2 a.gen).2.1, (m.2 a.gen).2.2⟩) ⟨v, 0, g⟩

/-- The instruction acts: v register `d` after these elements have been produced in order. -/
def WritesMoves (i : Instr) (maj fn : Nat) (o : Ops) (s : State) (d : BitVec 6) (w : Nat)
    (ms : List (Nat × (BitVec 32 → ElemRes))) : Prop :=
  let v := afterMoves w (s.cur.getV d) s.cur.gen ms
  Acts i s { plain maj fn o s with
      regs := [.v d], flags := s.cur.fpflags ||| BitVec.ofNat 64 v.fl, gen := v.gen.setWidth 64 }
    (fun t => t.getV d = v.d)

/-- The two halves that UNPACK produces (R154), the flags and the generator. -/
structure Halves where
  low  : VWord
  high : VWord
  fl   : Nat
  gen  : BitVec 32

/-- UNPACK by lane: first D's elements of the lane from the lower half of A's, then C's from the upper half. -/
def unpackRun (o : Ops) (t : Thread) (lanes : List Nat) : Halves :=
  let ns := (vcvSty o).per
  let nd := o.ty.per
  let conv := fun (e : Nat) => convElem (vcvSty o) o.ty (vcvMode t o) o.sat (elemOf (t.vr o.a) (vcvSty o).width e)
  lanes.foldl (fun h i =>
    let a := afterMoves o.ty.width h.low h.gen ((List.range nd).map (fun j => (i * nd + j, conv (i * ns + j))))
    let b := afterMoves o.ty.width h.high a.gen ((List.range nd).map (fun j => (i * nd + j, conv (i * ns + nd + j))))
    ⟨a.d, b.d, orF (orF h.fl a.fl) b.fl, b.gen⟩) ⟨t.vr o.d, t.vr o.c, 0, t.gen⟩

/-- The issuing thread stops on a fault of its own (R85, R86): code, FIELD, the word for FAULTINFO and the PC are recorded,
its PC stays, and no register, flag, memory, queue or engine has changed. -/
structure Stopped (s t : State) (code : FaultCode) (field : Nat) (data : Word) (pend : BitVec 256) : Prop where
  only   : OnlyThreads s t
  others : ∀ u, u ≠ s.me → t.thread u = s.thread u
  raised : t.cur.raised = some ⟨code, field, data, s.cur.pc, .own⟩
  status : t.cur.status = .faulted
  pend   : t.cur.pend = pend
  rest   : { t.cur with status := s.cur.status, before := s.cur.before, raised := s.cur.raised, pend := s.cur.pend } = s.cur

/-- exec stops the issuing thread on a fault of its own. -/
def Stops (i : Instr) (s : State) (code : FaultCode) (field : Nat) (data : Word) (pend : BitVec 256) : Prop :=
  ∃ t, exec i s = .next t ∧ Stopped s t code field data pend

/-- exec stops the issuing thread on a fault of its own, after a read of its pool that `b` notes (R229). -/
def StopsFrom (i : Instr) (s b : State) (code : FaultCode) (field : Nat) (data : Word) (pend : BitVec 256) : Prop :=
  ∃ t, exec i s = .next t ∧ Stopped b t code field data pend

/-! ## Memory -/

/-- Every byte of the pools, the DRAM and the host's memory reads as before, but for those of `n` bytes from `off` of the
pool of core `c`. -/
def BytesKeptBut (s t : State) (c off n : Nat) : Prop :=
  (∀ d a, (d ≠ c ∨ a < off ∨ off + n ≤ a) → (t.core d).pool.byte a = (s.core d).pool.byte a) ∧
  t.dram = s.dram ∧ t.hostMem = s.hostMem

/-- Every byte of every memory reads as before. -/
def BytesKept (s t : State) : Prop :=
  (∀ d, (t.core d).pool = (s.core d).pool) ∧ t.dram = s.dram ∧ t.hostMem = s.hostMem

/-- Only threads differ, bytes of pools and full bits, the record of the granules served in this cycle, and the next identity. -/
def OnlyPools (s t : State) : Prop :=
  { t with threads := s.threads, cores := s.cores, nextId := s.nextId } = s ∧
  ∀ d, { t.core d with pool := (s.core d).pool, full := (s.core d).full, served := (s.core d).served } = s.core d

/-- Every full bit is as before but for that of granule `g` of core `c`, which is set where `set` (R172). -/
def FullBits (s t : State) (c g : Nat) (set : Bool) : Prop :=
  ∀ d h, lookAt false (t.core d).full h = if set && d = c && h = g then true else lookAt false (s.core d).full h

/-- The access enters the list of those in flight, with the next identity, and nothing else of the machine changes but
threads: no byte of any memory yet. -/
def Queued (s t : State) (a : Access) : Prop :=
  t.accs = s.accs ++ [{ a with id := s.nextId }] ∧ { t with threads := s.threads, accs := s.accs, nextId := s.nextId } = s ∧
  t.nextId = s.nextId + 1

/-- Pending bits with one more set (R80). -/
def withBit (q : BitVec 256) (r : Reg) : BitVec 256 :=
  match pendBit r with
  | some b => q ||| (1#256 <<< b)
  | none => q

/-- The instruction's request, with a variable-latency result for `d`, is on its way: the register is pending (R79, R80). -/
def Requests (i : Instr) (maj fn : Nat) (o : Ops) (s : State) (d : Reg) (a : Access) : Prop :=
  Issues i s { plain maj fn o s with pend := withBit (plain maj fn o s).pend d } (fun t => Queued s t a)

/-- The instruction's request, without a result, is on its way. -/
def Sends (i : Instr) (maj fn : Nat) (o : Ops) (s : State) (a : Access) : Prop :=
  Issues i s (plain maj fn o s) (fun t => Queued s t a)

/-- The thread waits, its instruction not issued: its PC and registers are as before, and nothing else of the machine has
changed. -/
def Waits (i : Instr) (s : State) (st : Status) (w : Wait) : Prop :=
  ∃ t, exec i s = .next t ∧ OnlyThreads s t ∧ (∀ u, u ≠ s.me → t.thread u = s.thread u) ∧ t.cur.status = st ∧
    t.cur.wait = some w ∧ t.cur.pc = s.cur.pc ∧ RegsKept s.cur t.cur []

/-- The thread waits, its instruction not issued, after a read of its pool that `b` notes (R229). -/
def WaitsFrom (i : Instr) (s b : State) (st : Status) (w : Wait) : Prop :=
  ∃ t, exec i s = .next t ∧ OnlyThreads b t ∧ (∀ u, u ≠ s.me → t.thread u = s.thread u) ∧ t.cur.status = st ∧
    t.cur.wait = some w ∧ t.cur.pc = s.cur.pc ∧ RegsKept s.cur t.cur []

/-- exec answers a next state for the event, and `done` holds of that state. -/
def Does (i : Instr) (s : State) (done : State → Prop) : Prop := ∃ u, exec i s = .next u ∧ done u

/-- Every thread but those that `p` picks is as before. -/
def ThreadsBut (s u : State) (p : Nat → Prop) : Prop := ∀ v, ¬ p v → u.thread v = s.thread v

/-- FAULTINFO words 0 to 3 of `u` after a fault of `t` (R134): code, FIELD and action; PC; data; the count, held at its
greatest value. -/
def FaultTold (t : Thread) (f : Raised) (action : Nat) (u : Thread) : Prop :=
  lookAt 0 u.finfo 0 = BitVec.ofNat 64 (codeOf f.code + f.field * 2 ^ 8 + action * 2 ^ 16) ∧ lookAt 0 u.finfo 1 = f.pc ∧
  lookAt 0 u.finfo 2 = f.data ∧ (lookAt 0 u.finfo 3).toNat = min ((lookAt 0 t.finfo 3).toNat + 1) (2 ^ 64 - 1)

/-- The identities given out are below the next one. -/
def IdsFresh (s : State) : Prop := ∀ a ∈ s.accs, a.id < s.nextId

end Claims

end Sys2Proof
end

