-- ==== Sys2Proof/Certificates/Slice0/Obligations.lean ====
section
/-! DEFINITION. The statements for the provers: what each instruction and each event does and what it leaves, that a step runs the
instruction it decodes, that encoding and decoding agree, and what every step keeps. -/

open Sys2Proof Machine Claims

/-! ## Decoding and the machine as a whole -/

/-- Words written out from the fields of R65, and the instructions that they are; and words that are none, by the FIELD code of
R450: an unlisted class, an unlisted function, type 15, a type refused beside SAT or beside the source type, though a rounding code of 5
stands there too, a reserved operand, an A that a SEL of LNK.STAT does not take, a hint bit above 2. -/
def Obligations.KnownWordsDecode : Prop :=
  let g : Guard := ⟨0, false, false⟩
  let h : Hints := ⟨false, false, false⟩
  decodeTableWord 96 (0x01 + 1 * 2 ^ 7 + 0 * 2 ^ 15 + 3 * 2 ^ 19 + 1 * 2 ^ 27 + 2 * 2 ^ 35) =
    some (.intAdd ⟨g, h, .i64, .x 3, .x 1, .x 2, 0⟩) ∧
  decodeTableWord 96 (0x05 + 1 * 2 ^ 7 + (2 ^ 40 - 2) * 2 ^ 56) = some (.ctlBra ⟨g, h, .i64, .x 0, .x 0, .x 0, 0xFFFFFFFFFE⟩) ∧
  decodeTableWord 96 (0x00000405 + 0x02000000 * 2 ^ 32 + 0x00002040 * 2 ^ 64) =
    some (.ctlEnter ⟨g, h, .i64, .x 0, .x 0, .x 0, 0x204002⟩) ∧
  decodeTableWord 96 (0x10 + 1 * 2 ^ 7 + 8 * 2 ^ 15 + 130 * 2 ^ 19 + 128 * 2 ^ 27 + 129 * 2 ^ 35 + 0b01010 * 2 ^ 43 + 1 * 2 ^ 48) =
    some (.vecAdd ⟨⟨2, true, false⟩, ⟨true, false, false⟩, .f32, .v 2, .v 0, .v 1, 0⟩) ∧
  decode 0x0D = .error 1 ∧ decode (0x01 + 22 * 2 ^ 7) = .error 2 ∧ decode (0x01 + 1 * 2 ^ 7 + 15 * 2 ^ 15) = .error 3 ∧
  decode (0x10 + 1 * 2 ^ 7 + 1 * 2 ^ 15 + 130 * 2 ^ 19 + 128 * 2 ^ 27 + 129 * 2 ^ 35 + 0xD00 * 2 ^ 56) = .error 3 ∧
  decode (0x11 + 2 * 2 ^ 7 + 2 * 2 ^ 15 + 129 * 2 ^ 19 + 130 * 2 ^ 27 + 131 * 2 ^ 35 + 0x2400500 * 2 ^ 56) = .error 3 ∧
  decode (0x01 + 1 * 2 ^ 7 + 216 * 2 ^ 19) = .error 4 ∧
  decode (0x23 + 1 * 2 ^ 7 + 0 * 2 ^ 15 + 7 * 2 ^ 19 + 1 * 2 ^ 27 + 0xC00000 * 2 ^ 56) = .error 5 ∧
  decode (0x01 + 1 * 2 ^ 7 + 8 * 2 ^ 48) = .error 8

/-- A step runs the decoded instruction (R82 to R86, R313). Where it is a core's turn and slot `tid` is the one that issues, with
nothing reported and no budget spent, a PC that is not an instruction of its code section raises PCALIGN with that PC as DATA; else the
twelve bytes at the PC are fetched
(from the tile's instruction cache, which memory fills), and the step is that
of the instruction they decode to; bytes that are no instruction stop the thread on ILLEGAL with the field at fault. The other
slots are only counted as passed over. With nothing on the agenda and no event due, a cycle passes,
and every core with a slot that may issue is next.
What the cache holds, and the order of events, are the model's choice (logs 77 and 1). -/
def Obligations.StepRunsDecoded : Prop :=
  ∀ (s : State),
    (∀ core rest tid over' t u bs, s.agenda = .issue core :: rest →
      let now := { s with agenda := rest }
      let may := (slotsOf core).filter now.mayIssue
      (may = [tid] ∧ over' = now.noneOver core (may.filter now.awaitsCode) ∨
        2 ≤ may.length ∧ now.choice (may.filter now.ready) = some tid ∧ over' = now.passOver core (may.filter now.eligible) tid) →
      s.thread tid = t → t.reports = [] → t.fetchBad = none → t.budget ≠ some 0 → t.fetchHold = none →
      (s.validTarget tid t.pc = false → step s = .next (over'.raiseHere tid .pcalign 0 t.pc)) ∧
      (s.validTarget tid t.pc = true → State.fetchWords tid 3 t.pc over' = (u, .bytes bs) →
        (∀ i, decode (bytesWord bs) = .ok i → step s = exec i { u.fetchDone tid with me := tid }) ∧
        (∀ f, decode (bytesWord bs) = .error f → step s = .next ((u.fetchDone tid).raiseHere tid .illegal f 0)))) ∧
    (s.agenda = [] → s.firstDue s.candidates = none → step s = .next s.tick ∧
      ∀ tid, s.tick.mayIssue tid = true → .issue (coreOf tid) ∈ s.tick.agenda) ∧
    (∀ i rest, s.agenda = .event i :: rest → step s = exec i { s with agenda := rest })

/-- Encoding and decoding agree for every instruction of the table (R65 to R89): the word of a well-formed instruction decodes to
it, every field at every value that its checks admit; a word that decodes is the word of its instruction, which is
well-formed; and the twelve bytes of a word, lowest first, are that word. -/
def Obligations.EncodeDecodeAgree : Prop :=
  (∀ i, i.opcode.isSome = true → WellFormed i = true → ∃ w, encode i = some w ∧ decode w = .ok i) ∧
  (∀ w i, decode w = .ok i → WellFormed i = true ∧ encode i = some w) ∧
  (∀ w, (wordBytes w).length = 12 ∧ bytesWord (wordBytes w) = w)

/-- The machine right after reset (R440, R443, R446): every slot vacant, every register of it zero but those that read as a constant,
every pool, DRAM and host byte zero, every full bit clear, no context, queue, launch, cue, barrier or port, STATUS resetting,
TIME 0. The values of registers that the spec does not name at reset, and of the host's memory, are the model's choice (log
entries 2 and 3). -/
def Obligations.ResetState : Prop :=
  let s := State.reset
  (∀ t, s.thread t = Thread.vacant) ∧
  (∀ n, Thread.vacant.getX n = 0) ∧ (∀ n, Thread.vacant.getV n = 0) ∧ (∀ n, Thread.vacant.getP n = (n = 0)) ∧
  (∀ n, Thread.vacant.getK n = if n = 0 then 0xFFFF else 0) ∧ (∀ n, Thread.vacant.getS n = 0) ∧
  (∀ c a, (s.core c).pool.byte a = 0 ∧ s.fullBit c a = false ∧ (s.core c).owner = none) ∧
  (∀ a, s.dram.byte a = 0 ∧ s.hostMem.byte a = 0) ∧ (∀ a, (s.ctx a).state = .absent) ∧
  (∀ a q, s.queue a q = Queue.disabled) ∧ (∀ p, (s.port p).state = .off) ∧ s.launches = [] ∧ s.cues = [] ∧
  (∀ t, s.tile t = Tile.idle) ∧ s.bar0.status = 0 ∧ s.time = 0 ∧ s.clock = 0

/-- What every reachable state satisfies: memory in its canonical form, and identities given out below the next one, in flight and
in what a save keeps. -/
def Sys2Proof.Claims.Inv (s : State) : Prop :=
  MemoryOk s ∧ IdsFresh s ∧ ∀ a, ∀ v, (s.ctx a).saved = some v → ∀ x ∈ v.accs, x.id < s.nextId

/-- The machine after reset satisfies the invariant. -/
def Obligations.InvariantAtReset : Prop := Claims.Inv State.reset

/-- Every step, whatever it does, keeps the invariant: every memory operation keeps the canonical form of DRAM and of the host's
memory, and no access enters with an identity that is not new. -/
def Obligations.InvariantKept : Prop := ∀ s t : State, Claims.Inv s → step s = .next t → Claims.Inv t

/-- R97: what `glas` writes for an instruction statement is an instruction under R84, never a silently altered word: the word
decodes to a well-formed instruction, which has the class and function of the mnemonic and the guard, hints, type, operands and
extension field as written, a field left to a relocation being zero (R95, R107); and no x or v register that it names in a used
position, or saves or restores, is at or above the counts of `.partition` (R72). -/
def Obligations.AssembledWordsAreInstructions : Prop :=
  ∀ (counts : Option (Nat × Nat)) (env : ExprEnv) (ts : List Tok) (w : BitVec 96) (rs : List Reloc),
    assembleInstr counts env ts = .ok (w, rs) →
    ∃ (i : Instr) (wr : Written), writtenOf env ts = .ok wr ∧ decode w = .ok i ∧ WellFormed i = true ∧
      i.opcode = some (wr.row.maj, wr.fn, wr.fields) ∧
      ∀ xs vs, counts = some (xs, vs) →
        ∀ p ∈ [((shapeOf wr.row.maj wr.fn wr.fields).d, wr.fields.d), ((shapeOf wr.row.maj wr.fn wr.fields).a, wr.fields.a),
               ((shapeOf wr.row.maj wr.fn wr.fields).b, wr.fields.b),
               ((shapeOf wr.row.maj wr.fn wr.fields).c.getD .unused, wr.fields.c)] ++
              (impliedRegs wr.row.maj wr.fn wr.fields).map (fun r => (Slot.x, r)),
          p.1 ≠ .unused → (∀ n, p.2 = .x n → n.toNat < xs) ∧ (∀ n, p.2 = .v n → n.toNat < vs)

/-! ## The issue stage -/

/-- Every instruction of every class goes through the issue stage of R86 before its own effect, in this order: a register
outside the allotment stops it with REGRANGE and the FIELD of the first such register (R72); then, for an instruction that
is no switch marker, a pending register stops it with HAZARD (R80); then a register whose fixed-latency result is under way
holds it, and nothing changes (R79); then, with no result outstanding, a false guard makes it have no effect but its issue
(R76): a marker still clears the pending bits, and control goes on at PC + 12 (R82). -/
def Sys2Proof.Claims.IssueStageOfEveryInstruction : Prop :=
  ∀ (i : Instr) (maj fn : Nat) (o : Ops) (s : State), i.opcode = some (maj, fn, o) → s.cur.raised = none →
    let regs := regsOf maj fn o
    let inside := ∀ p ∈ regs, s.cur.outside p.2 = false
    let settled := isMarker maj fn o = true ∨ ∀ p ∈ regs, s.cur.pending p.2 = false
    let written := ∀ p ∈ regs, (s.busyRegs s.me).contains p.2 = false
    (∀ p, regs.find? (fun p => s.cur.outside p.2) = some p → Stops i s .regrange p.1 0 s.cur.pend) ∧
    (inside → isMarker maj fn o = false → ∀ p, regs.find? (fun p => s.cur.pending p.2) = some p →
      Stops i s .hazard p.1 0 s.cur.pend) ∧
    (inside → settled → ¬ written → exec i s = .next s) ∧
    (inside → settled → written → (isMarker maj fn o = false ∨ s.outstanding s.me = []) → s.cur.guardOn o.g = false →
      Acts i s (plain maj fn o s) (fun _ => True))

/-- A switch marker waits (R79): while a variable-latency result of the thread is outstanding and none of them has been
refused, the thread parks, or is blocked where a consuming load waits for a granule to fill (R177, R311), and its
instruction has not issued. -/
def Sys2Proof.Claims.MarkerWaitsForOutstandingResults : Prop :=
  ∀ (i : Instr) (maj fn : Nat) (o : Ops) (s : State), i.opcode = some (maj, fn, o) → isMarker maj fn o = true →
    (∀ p ∈ regsOf maj fn o, s.cur.outside p.2 = false) → (∀ p ∈ regsOf maj fn o, (s.busyRegs s.me).contains p.2 = false) →
    (∃ a ∈ s.outstanding s.me, (s.stuck s.me).contains a.id = false) →
    exec i s = .next (s.modCur (fun t => { t with
      status := if (s.outstanding s.me).any Access.inTable then .blocked else .parked, wait := some .results }))

/-- The issue stage of every instruction: allotment, hazards, waits and guard, in order. -/
def Obligations.IssueStage : Prop :=
  Claims.IssueStageOfEveryInstruction ∧ Claims.MarkerWaitsForOutstandingResults

/-- R70: an operand value 0 to 127 names x0 to x127 (64 bits), 128 to 191 v0 to v63 (512 bits), 192 to 199 p0 to p7,
200 to 207 k0 to k7 (16 bits), 208 to 215 s0 to s7 (128 bytes), and 216 to 255 nothing. x0 reads as zero, p0 as true and
k0 as all ones, whatever is written to them; any other register reads back what was written, and no other register of its
file changes. A word whose D, A, B or C names nothing is no instruction. -/
def Obligations.RegistersAndTheirNumbers : Prop :=
  (∀ c : BitVec 8, Reg.ofCode c =
    (if c.toNat ≤ 127 then some (.x (BitVec.ofNat 7 c.toNat))
     else if c.toNat ≤ 191 then some (.v (BitVec.ofNat 6 (c.toNat - 128)))
     else if c.toNat ≤ 199 then some (.p (BitVec.ofNat 3 (c.toNat - 192)))
     else if c.toNat ≤ 207 then some (.k (BitVec.ofNat 3 (c.toNat - 200)))
     else if c.toNat ≤ 215 then some (.s (BitVec.ofNat 3 (c.toNat - 208)))
     else none)) ∧
  (∀ t : Thread,
    (∀ n m (w : BitVec 64), (t.wx (.x n) w).getX m = if m = 0 then 0 else if m = n then w else t.getX m) ∧
    (∀ n m (w : BitVec 512), (t.wv (.v n) w).getV m = if m = n then w else t.getV m) ∧
    (∀ n m b, (t.wp (.p n) b).getP m = if m = 0 then true else if m = n then b else t.getP m) ∧
    (∀ n m (w : BitVec 16), (t.wk (.k n) w).getK m = if m = 0 then 0xFFFF else if m = n then w else t.getK m) ∧
    (∀ n m (w : BitVec 1024), (t.ws (.s n) w).getS m = if m = n then w else t.getS m)) ∧
  ∀ (w : BitVec 96) (i : Instr) (maj fn : Nat) (o : Ops), decode w = .ok i → i.opcode = some (maj, fn, o) →
    Reg.ofCode (w.extractLsb' 19 8) = some o.d ∧ Reg.ofCode (w.extractLsb' 27 8) = some o.a ∧
    Reg.ofCode (w.extractLsb' 35 8) = some o.b ∧
    ((shapeOf maj fn o).c ≠ none → Reg.ofCode (w.extractLsb' 56 8) = some o.c)

/-! ## Scalar integers -/

/-- INT (R117, R118): for every operand form and type, D gets the wrapped, extended result (WRV) of the function on the
typed operands (OPV), and nothing else changes. -/
def Obligations.IntegerResults : Prop :=
  ∀ (o : Ops) (s : State) (d : BitVec 7), o.d = .x d →
    let a := opv (s.cur.xr o.a) o.ty
    let b := opv (s.cur.xr o.b) o.ty
    let n := o.ty.width
    let ua := wrapN n a
    let ub := wrapN n b
    let gives := fun (i : Ops → Instr) (fn : Nat) (v : Int) =>
      Ready 0x01 fn o s → WritesX (i o) 0x01 fn o s d (wrv v o.ty)
    gives .intAdd 0x01 (a + b) ∧ gives .intSub 0x02 (a - b) ∧ gives .intMul 0x03 (a * b) ∧
    gives .intMulh 0x04 (a * b / (2 ^ n : Nat)) ∧
    gives .intDiv 0x05 (if b = 0 then -1 else a.tdiv b) ∧ gives .intRem 0x06 (if b = 0 then a else a.tmod b) ∧
    gives .intMin 0x07 (min a b) ∧ gives .intMax 0x08 (max a b) ∧ gives .intAbs 0x09 (a.natAbs : Int) ∧
    gives .intAnd 0x0A ((ua &&& ub : Nat) : Int) ∧ gives .intOr 0x0B ((ua ||| ub : Nat) : Int) ∧
    gives .intXor 0x0C ((ua ^^^ ub : Nat) : Int) ∧ gives .intAndn 0x0D ((ua &&& (2 ^ n - 1 - ub) : Nat) : Int) ∧
    gives .intShl 0x0E (a * (2 ^ (ub % n) : Nat)) ∧ gives .intShr 0x0F (a / (2 ^ (ub % n) : Nat)) ∧
    gives .intRot 0x10 (rotateLeft n a (ub % n)) ∧ gives .intClz 0x11 (countLeading n a) ∧
    gives .intCtz 0x12 (trailingFrom n ua : Int) ∧ gives .intPopc 0x13 (onesFrom n ua : Int) ∧ gives .intMov 0x14 a ∧
    gives .intSel 0x15 (if s.cur.pr o.c then a else b)

/-- WRV and OPV (R44, R115): the operand value of a type is the low bits read signed or unsigned; a result is written as
the number that has the value's low bits, sign-extended for In and zero-extended for Nn, so that reading it back as the
type gives the value modulo 2^n. -/
def Sys2Proof.Claims.TypedValuesWrapAndExtend : Prop :=
  ∀ (ty : Ty) (v : Int) (w : Word), ty.isInt = true →
    let n := ty.width
    (opv w ty - (w.toNat : Int)) % (2 ^ n : Nat) = 0 ∧
    (if ty.isSigned then -(2 ^ (n - 1) : Nat) ≤ opv w ty ∧ opv w ty < (2 ^ (n - 1) : Nat)
     else 0 ≤ opv w ty ∧ opv w ty < (2 ^ n : Nat)) ∧
    (opv (wrv v ty) ty - v) % (2 ^ n : Nat) = 0 ∧
    (if ty.isSigned then (wrv v ty).toInt = opv (wrv v ty) ty else ((wrv v ty).toNat : Int) = opv (wrv v ty) ty)

/-- What the counting and rotating functions of INT give (R117), on the n bits of the operand: ROT moves bit i to bit i + k
modulo n; CLZ counts the zeros above the highest one, CTZ those below the lowest, POPC the ones. -/
def Sys2Proof.Claims.BitCountFunctions : Prop :=
  ∀ (n : Nat) (a : Int), 0 < n →
    let m := wrapN n a
    (∀ k, k < n → ∃ r : Nat, rotateLeft n a k = (r : Int) ∧ r < 2 ^ n ∧ ∀ i, i < n → r.testBit ((i + k) % n) = m.testBit i) ∧
    (∃ c : Nat, countLeading n a = (c : Int) ∧ c ≤ n ∧ m < 2 ^ (n - c) ∧ (c < n → 2 ^ (n - c - 1) ≤ m)) ∧
    (trailingFrom n m ≤ n ∧ m % 2 ^ trailingFrom n m = 0 ∧ (trailingFrom n m < n → m.testBit (trailingFrom n m) = true)) ∧
    onesFrom n m = (List.range n).countP (fun i => m.testBit i)

/-- Typed values wrap and extend; what the counting and rotating functions give. -/
def Obligations.IntegerValues : Prop :=
  Claims.TypedValuesWrapAndExtend ∧ Claims.BitCountFunctions

/-- INTI (R121, R122): the same with the 40-bit immediate as the second operand; MOVHI joins the immediate's low 24 bits
above A's low 40; LEA gives PC + 12 × imm, unchecked. -/
def Obligations.ImmediateResults : Prop :=
  ∀ (o : Ops) (s : State) (d : BitVec 7), o.d = .x d →
    let a := opv (s.cur.xr o.a) o.ty
    let b := opv o.imm o.ty
    let n := o.ty.width
    let k := o.imm.toNat
    let gives := fun (i : Ops → Instr) (fn : Nat) (w : Word) => Ready 0x02 fn o s → WritesX (i o) 0x02 fn o s d w
    gives .intiAddi 0x01 (wrv (a + b) o.ty) ∧ gives .intiMuli 0x02 (wrv (a * b) o.ty) ∧
    gives .intiAndi 0x03 (wrv ((wrapN n a &&& wrapN n b : Nat) : Int) o.ty) ∧
    gives .intiOri 0x04 (wrv ((wrapN n a ||| wrapN n b : Nat) : Int) o.ty) ∧
    gives .intiXori 0x05 (wrv ((wrapN n a ^^^ wrapN n b : Nat) : Int) o.ty) ∧
    gives .intiShli 0x06 (wrv (a * (2 ^ k : Nat)) o.ty) ∧ gives .intiShri 0x07 (wrv (a / (2 ^ k : Nat)) o.ty) ∧
    gives .intiRoti 0x08 (wrv (rotateLeft n a k) o.ty) ∧ gives .intiMovi 0x09 (wrv b o.ty) ∧
    gives .intiMovhi 0x0A (BitVec.ofNat 64 (o.x.toNat % 2 ^ 24 * 2 ^ 40 + (s.cur.xr o.a).toNat % 2 ^ 40)) ∧
    gives .intiLea 0x0B (s.cur.pc + 12 * o.imm)

/-! ## Comparisons and predicates -/

/-- CMP (R119) writes predicate D with the relation of the operands: typed integers, or FP32 under R53; nothing else
changes, and no flag is set. -/
def Sys2Proof.Claims.ComparisonResults : Prop :=
  ∀ (o : Ops) (s : State) (d : BitVec 3), o.d = .p d →
    let a := opv (s.cur.xr o.a) o.ty
    let b := opv (s.cur.xr o.b) o.ty
    let x := opF (s.cur.xr o.a)
    let y := opF (s.cur.xr o.b)
    let gives := fun (i : Ops → Instr) (fn : Nat) (r : Bool) =>
      Ready 0x03 fn o s → WritesP (i o) 0x03 fn o s d (if o.ty = .f32 then FVal.compare fn x y else r)
    gives .cmpEq 0x01 (decide (a = b)) ∧ gives .cmpNe 0x02 (decide (a ≠ b)) ∧ gives .cmpLt 0x03 (decide (a < b)) ∧
    gives .cmpLe 0x04 (decide (a ≤ b)) ∧ gives .cmpGt 0x05 (decide (b < a)) ∧ gives .cmpGe 0x06 (decide (b ≤ a)) ∧
    gives .cmpUnord 0x07 false

/-- R53: EQ, LT, LE, GT and GE (1, 3, 4, 5, 6) are false if either operand is NaN, NE (2) is true, UNORD (7) is true exactly
then; −0 and +0 compare equal. That no flag is set is the frame of the instructions' own statements. -/
def Sys2Proof.Claims.FloatComparisons : Prop :=
  ∀ x y : FVal,
    (x = .nan ∨ y = .nan → FVal.compare 1 x y = false ∧ FVal.compare 2 x y = true ∧ FVal.compare 3 x y = false ∧
      FVal.compare 4 x y = false ∧ FVal.compare 5 x y = false ∧ FVal.compare 6 x y = false) ∧
    (FVal.compare 7 x y = true ↔ x = .nan ∨ y = .nan) ∧
    (∀ p q : Bool, FVal.compare 1 (.zero p) (.zero q) = true ∧ FVal.compare 2 (.zero p) (.zero q) = false ∧
      FVal.compare 3 (.zero p) (.zero q) = false ∧ FVal.compare 4 (.zero p) (.zero q) = true ∧
      FVal.compare 5 (.zero p) (.zero q) = false ∧ FVal.compare 6 (.zero p) (.zero q) = true)

/-- VCMP (R149): bit i of D, for an active lane i, says whether the relation holds for every element of the lane; the bits of
inactive lanes keep their value; a write to k0 is discarded. -/
def Sys2Proof.Claims.VectorComparisonResults : Prop :=
  ∀ (o : Ops) (s : State) (d : BitVec 3), o.d = .k d →
    let t := s.cur
    let w := o.ty.width
    let rel := fun (fn : Nat) (i : Nat) => (List.range o.ty.per).all (fun j =>
      let x := elemOf (t.vr o.a) w (i * o.ty.per + j)
      let y := elemB t o.b w (i * o.ty.per + j)
      if o.ty.isFloat then FVal.compare fn (decodeF o.ty x) (decodeF o.ty y)
      else compareInt fn (intVal o.ty x) (intVal o.ty y))
    let gives := fun (j : Ops → Instr) (fn : Nat) =>
      Ready 0x15 fn o s → Acts (j o) s { plain 0x15 fn o s with regs := [.k d] } (fun u =>
        ∀ i, i < 16 → (u.getK d).getLsbD i =
          if d = 0 then true else if (t.laneMask o.g).getLsbD i then rel fn i else (t.getK d).getLsbD i)
    gives .vcmpEq 0x01 ∧ gives .vcmpNe 0x02 ∧ gives .vcmpLt 0x03 ∧ gives .vcmpLe 0x04 ∧ gives .vcmpGt 0x05 ∧ gives .vcmpGe 0x06 ∧
    gives .vcmpUnord 0x07

/-- CMP and VCMP: the relation is written and no flag is set; NaN and the zeros compare as R53 says. -/
def Obligations.Comparisons : Prop :=
  Claims.ComparisonResults ∧ Claims.FloatComparisons ∧ Claims.VectorComparisonResults

/-- PRD (R120): the predicate functions, SET from an x register, PACK and UNPACK of all predicates, KPACK and KUNPACK of
masks. UNPACK writes p1 to p7 together; bit 0 of PACK is 1. -/
def Obligations.PredicateResults : Prop :=
  ∀ (o : Ops) (s : State),
    let a := s.cur.pr o.a
    let b := s.cur.pr o.b
    let w := s.cur.xr o.a
    let gives := fun (i : Ops → Instr) (fn : Nat) (r : Bool) =>
      ∀ d, o.d = .p d → Ready 0x04 fn o s → WritesP (i o) 0x04 fn o s d r
    gives .prdAnd 0x01 (a && b) ∧ gives .prdOr 0x02 (a || b) ∧ gives .prdXor 0x03 (a ^^ b) ∧ gives .prdAndn 0x04 (a && !b) ∧
    gives .prdNot 0x05 (!a) ∧ gives .prdSet 0x06 (decide (w ≠ 0)) ∧
    (∀ d, o.d = .x d → Ready 0x04 0x07 o s →
      WritesX (.prdPack o) 0x04 0x07 o s d (BitVec.ofNat 64 (s.cur.p.toNat ||| 1))) ∧
    (Ready 0x04 0x08 o s → Acts (.prdUnpack o) s { plain 0x04 0x08 o s with regs := predRegs }
      (fun t => ∀ n, t.getP n = (n = 0 || w.getLsbD n.toNat))) ∧
    (∀ d, o.d = .x d → Ready 0x04 0x09 o s →
      WritesX (.prdKpack o) 0x04 0x09 o s d (BitVec.ofNat 64 ((s.cur.kr o.b).toNat * 65536 + (s.cur.kr o.a).toNat))) ∧
    (∀ d, o.d = .k d → Ready 0x04 0x0A o s →
      WritesK (.prdKunpack o) 0x04 0x0A o s d (BitVec.ofNat 16 (w.toNat % 65536)))

/-! ## Scalar floating point -/

/-- One dyadic magnitude below another: a × 2^i < b × 2^j. -/
def Sys2Proof.Claims.belowF (a : Nat) (i : Int) (b : Nat) (j : Int) : Prop :=
  a * 2 ^ (i - min i j).toNat < b * 2 ^ (j - min i j).toNat

/-- ROUND (R46 to R50) into each floating format, of an exact value m × 2^e or, with `sticky`, of one strictly between that and
(m + 1) × 2^e. With q = 2^qe the weight of the format's last bit at the value, the magnitude n × q is the nearest multiple, the even one
on a tie, under RNE, the one towards zero, or the one that RU, RD or SR names. One up to MAXF is the result, with the sign of the
value; NX is set exactly where it differs from the value, UF where the value also lies below the smallest normal number. A greater one
gives OVERFLOW's result, with OF and NX, and SAT where it is clamped. A value of the format rounds to itself and sets no flag; a
zero keeps its sign; NaN gives the canonical NaN, and +0 with NV in E2M1.
That SAT clamps an infinite value in the conversions alone is the model's choice (log 18). -/
def Sys2Proof.Claims.RoundedValues : Prop :=
  ∀ (t : Ty) (mode g : Nat) (sat clamp : Bool), t ∈ [Ty.f32, .f16, .bf16, .e4m3, .e5m2, .e2m1] → mode ≤ 4 → g < 65536 →
    (∀ neg m e sticky M E, 0 < m → (sticky = true → 2 ^ 64 ≤ m) → decodeF t t.maxCode = .fin false M E false →
      let r := roundF t mode sat clamp g (.fin neg m e sticky)
      let l : Int := Nat.log2 m + e
      let qe : Int := max l t.emin - t.mbits
      let q : Nat := 2 ^ (qe - e).toNat
      let hi : Nat := if sticky then m + 1 else m
      ∃ n : Nat,
        (qe ≤ e → n = m * 2 ^ (e - qe).toNat) ∧
        (e < qe →
          (mode = 0 → 2 * hi ≤ 2 * n * q + q ∧ 2 * n * q ≤ 2 * m + q ∧
            (sticky = false → 2 * m = 2 * n * q + q ∨ 2 * n * q = 2 * m + q → n % 2 = 0)) ∧
          (mode = 1 ∨ mode = 2 ∧ neg = true ∨ mode = 3 ∧ neg = false → n * q ≤ m ∧ m < (n + 1) * q) ∧
          (mode = 2 ∧ neg = false ∨ mode = 3 ∧ neg = true → hi ≤ n * q ∧ n * q < hi + q) ∧
          (mode = 4 → n = (65536 * m + g * q) / (65536 * q))) ∧
        (let inexact := sticky || decide (e < qe ∧ n * q ≠ m)
         ¬ belowF M E n qe → r.1 < 2 ^ t.width ∧
          r.2 = orF (flagIf (decide (l < t.emin) && inexact) flagUF) (flagIf inexact flagNX) ∧
          (n = 0 → decodeF t r.1 = .zero neg) ∧
          (0 < n → ∃ m' e', decodeF t r.1 = .fin neg m' e' false ∧ qe ≤ e' ∧ n = m' * 2 ^ (e' - qe).toNat)) ∧
        (belowF M E n qe →
          (t = .e2m1 ∨ sat = true → r = (withSign t neg t.maxCode, flagOF + flagNX + flagSAT)) ∧
          (t ≠ .e2m1 → sat = false →
            (t = .e4m3 → r = (0x7F, flagOF + flagNX)) ∧
            (t = .e5m2 → r = (withSign t neg t.infCode, flagOF + flagNX)) ∧
            (t ≠ .e4m3 → t ≠ .e5m2 → r = (withSign t neg (if mode = 1 ∨ mode = 2 ∧ neg = true ∨ mode = 3 ∧ neg = false
              then t.maxCode else t.infCode), flagOF + flagNX))))) ∧
    (∀ x, x < 2 ^ t.width → decodeF t x ≠ .nan → (∀ b, decodeF t x ≠ .inf b) →
      roundF t mode sat clamp g (decodeF t x) = (x, 0)) ∧
    roundF t mode sat clamp g .nan = (if t = .e2m1 then (0, flagNV) else (t.nanCode, 0)) ∧
    (∀ neg, roundF t mode sat clamp g (.inf neg) =
      if t = .e2m1 ∨ sat = true ∧ clamp = true then (withSign t neg t.maxCode, flagSAT)
      else if t = .e4m3 then (0x7F, 0) else (withSign t neg t.infCode, 0))

/-- FLT (R123 to R125): the exact value on the FP32 operands is rounded once to FP32 in the instruction's mode, written to
D[31:0] with zeros above, and its flags are ORed into FPFLAGS; MIN, MAX, ABS and NEG round nothing and set no flag; CVT
converts between FP32 and the integer type. -/
def Sys2Proof.Claims.ScalarFloatResults : Prop :=
  ∀ (o : Ops) (s : State) (d : BitVec 7), o.d = .x d →
    let a := opF (s.cur.xr o.a)
    let b := opF (s.cur.xr o.b)
    let c := opF (s.cur.xr o.c)
    let mode := s.cur.mode o.rnd false
    let rd := decide (mode = 3)
    let round := fun (fn : Nat) (i : Ops → Instr) (v : FVal) (fl : Nat) =>
      let r := roundF .f32 mode o.sat false 0 v
      Ready 0x07 fn o s → WritesXFlags (i o) 0x07 fn o s d (BitVec.ofNat 64 r.1) (orF fl r.2)
    let pick := fun (fn : Nat) (i : Ops → Instr) (v : FVal) =>
      Ready 0x07 fn o s → WritesX (i o) 0x07 fn o s d (BitVec.ofNat 64 (rneF32 v).1)
    round 0x01 .fltAdd (a.add rd b).1 (a.add rd b).2 ∧ round 0x02 .fltSub (a.add rd b.neg).1 (a.add rd b.neg).2 ∧
    round 0x03 .fltMul (a.mul b).1 (a.mul b).2 ∧
    round 0x04 .fltFma ((a.mul b).1.add rd c).1 (orF (a.mul b).2 ((a.mul b).1.add rd c).2) ∧
    round 0x05 .fltDiv (a.div b).1 (a.div b).2 ∧ round 0x06 .fltSqrt a.sqrt.1 a.sqrt.2 ∧
    pick 0x07 .fltMin (FVal.minMax false a b) ∧ pick 0x08 .fltMax (FVal.minMax true a b) ∧
    pick 0x09 .fltAbs a.abs ∧ pick 0x0A .fltNeg a.neg ∧
    (Ready 0x07 0x0B o s →
      if o.fld 22 1 = 1 then
        (let r := roundF .f32 mode o.sat false 0 (FVal.ofInt (opv (s.cur.xr o.a) o.ty))
         WritesXFlags (.fltCvt o) 0x07 0x0B o s d (BitVec.ofNat 64 r.1) r.2)
      else
        (let r := floatToInt o.ty mode a
         WritesXFlags (.fltCvt o) 0x07 0x0B o s d (wrv r.1 o.ty) r.2))

/-- R52: MIN and MAX return the other operand when exactly one is NaN and NaN when both are, order −0 below +0, and
otherwise choose by value. That they set no flag is the frame of the instructions' own statements. -/
def Sys2Proof.Claims.FloatMinMax : Prop :=
  ∀ (mx : Bool) (x y : FVal),
    FVal.minMax mx .nan .nan = .nan ∧
    (x ≠ .nan → FVal.minMax mx x .nan = x ∧ FVal.minMax mx .nan x = x) ∧
    (∀ p q : Bool, FVal.minMax false (.zero p) (.zero q) = .zero (p || q) ∧
      FVal.minMax true (.zero p) (.zero q) = .zero (p && q)) ∧
    (x.cmp y = some .lt → FVal.minMax false x y = x ∧ FVal.minMax true x y = y ∧
      FVal.minMax false y x = x ∧ FVal.minMax true y x = y)

/-- ROUND: the value that it gives and its flags; FLT: the rounded result and the flags of every function; how MIN and MAX choose. -/
def Obligations.ScalarFloat : Prop :=
  Claims.RoundedValues ∧ Claims.ScalarFloatResults ∧ Claims.FloatMinMax

/-! ## Control transfers, frames and special registers -/

/-- R128, with R83's check: BRA and JMP go to their target, CALL and CALLR write x1 := PC + 12 first, RET goes to x1, LOOP
counts D down and goes to its target unless D has become 0; a target that is not an instruction of the code section stops
the instruction with PCALIGN and the target, and x1 and the counter are unchanged. A LOOP that falls through checks nothing,
a LOOP on x0 is no instruction, NOP does nothing, and a transfer guarded false goes on at PC + 12. -/
def Sys2Proof.Claims.ControlTransfers : Prop :=
  ∀ (o : Ops) (s : State), s.cur.raised = none →
    let rel := s.cur.pc + 12 * o.imm
    let link := s.cur.pc + 12
    let pend := fun (fn : Nat) => (plain 0x05 fn o s).pend
    let jump := fun (i : Instr) (fn : Nat) (target : Word) (regs : List Reg) (done : Thread → Prop) =>
      Ready 0x05 fn o s →
        (s.validTarget s.me target = true →
          Acts i s { plain 0x05 fn o s with pc := target, regs := regs, gap := s.clock + 2 } done) ∧
        (s.validTarget s.me target = false → Stops i s .pcalign 0 target (pend fn))
    jump (.ctlBra o) 0x01 rel [] (fun _ => True) ∧
    jump (.ctlJmp o) 0x02 (s.cur.xr o.a) [] (fun _ => True) ∧
    jump (.ctlCall o) 0x03 rel [.x 1] (fun t => t.getX 1 = link) ∧
    jump (.ctlCallr o) 0x04 (s.cur.xr o.a) [.x 1] (fun t => t.getX 1 = link) ∧
    jump (.ctlRet o) 0x05 (s.cur.getX 1) [] (fun _ => True) ∧
    (∀ d, o.d = .x d → d ≠ 0 → s.cur.getX d ≠ 1 →
      jump (.ctlLoop o) 0x06 rel [.x d] (fun t => t.getX d = s.cur.getX d - 1)) ∧
    (∀ d, o.d = .x d → d ≠ 0 → s.cur.getX d = 1 → Ready 0x05 0x06 o s → WritesX (.ctlLoop o) 0x05 0x06 o s d 0) ∧
    (o.d = .x 0 → WellFormed (.ctlLoop o) = false) ∧
    (Ready 0x05 0x07 o s → Acts (.ctlNop o) s (plain 0x05 0x07 o s) (fun _ => True)) ∧
    (∀ i fn, i.opcode = some (0x05, fn, o) → issueCheck 0x05 fn o (extraRegs 0x05 fn o) false s = .skip →
      Acts i s (plain 0x05 fn o s) (fun _ => True))

/-- R83: a target is valid when it lies in the thread's code section and its distance from the code base is a multiple of
12. -/
def Sys2Proof.Claims.ValidTargets : Prop :=
  ∀ (s : State) (a : Word) (g : Image), s.imageOf s.me = some g →
    (s.validTarget s.me a = true ↔ ∃ n : Nat, 12 * n < g.codeSize ∧ a = g.codeBase + BitVec.ofNat 64 (12 * n) ∧ 12 * n < 2 ^ 64)

/-- CTL: where control goes, what the link and the counter become, and when the target is refused. -/
def Obligations.Transfers : Prop :=
  Claims.ControlTransfers ∧ Claims.ValidTargets

/-- CTL.ENTER (R129): the four faults in their order; else, with no earlier access of the thread unfinished and every slot in its turn (R229), every frame
register's bytes stand at its slot below x2, x2 is the new stack pointer, and no other byte and no other register changes.
Stated for the frames that R127 admits.
The address that a frame outside the scratchpad records is the model's choice (log 75). -/
def Sys2Proof.Claims.EnterOpensAFrame : Prop :=
  ∀ (o : Ops) (s : State), IdsFresh s → s.cur.raised = none → Ready 0x05 0x08 o s →
    let x2 := s.cur.getX 2
    let new := x2 - BitVec.ofNat 64 (frameBytes o)
    let c := coreOf s.me
    let part := (s.core c).part
    let pend := (plain 0x05 0x08 o s).pend
    let stack := bitsAt x2 60 4 = 0xD
    let even := bitsAt x2 0 6 = 0
    let limit := s.cur.stacklim.toNat ≤ new.toNat
    let inside := inScratch part new.toNat x2.toNat = true
    (¬ stack → Stops (.ctlEnter o) s .pool 0 x2 pend) ∧
    (stack → ¬ even → Stops (.ctlEnter o) s .align 0 x2 pend) ∧
    (stack → even → ¬ limit → Stops (.ctlEnter o) s .stack 0 0 pend) ∧
    (stack → even → limit → ¬ inside → Stops (.ctlEnter o) s .pool 0 new pend) ∧
    (stack → even → limit → inside → s.undone s.me = [] →
      (∀ q ∈ frameSlots x2 (frameRegs o), s.inTurn c (poolOff q.2.2) q.2.1 (s.me % 4) = true) → frameNx o ≤ 8 → frameNv o ≤ 16 →
      64 * frameNv o + 8 * (frameNx o + if frameRa o then 1 else 0) ≤ frameBytes o →
      Issues (.ctlEnter o) s { plain 0x05 0x08 o s with regs := [.x 2] } (fun t =>
        t.cur.getX 2 = new ∧
        (∀ q ∈ frameSlots x2 (frameRegs o), t.poolRead c (poolOff q.2.2) q.2.1 = regBytes s.cur q.1 q.2.1) ∧
        BytesKeptBut s t c (poolOff new) (frameBytes o) ∧ OnlyPools s t))

/-- CTL.LEAVE (R130): the three faults in their order; else, with no earlier access of the thread unfinished and every slot in its turn (R229), every frame
register holds the bytes of its slot, x2 is the old stack pointer, and no byte and no other register changes.
The address that a frame outside the scratchpad records is the model's choice (log 75). -/
def Sys2Proof.Claims.LeaveClosesAFrame : Prop :=
  ∀ (o : Ops) (s : State), IdsFresh s → s.cur.raised = none → Ready 0x05 0x09 o s →
    let x2 := s.cur.getX 2
    let top := x2 + BitVec.ofNat 64 (frameBytes o)
    let c := coreOf s.me
    let pend := (plain 0x05 0x09 o s).pend
    let stack := bitsAt x2 60 4 = 0xD
    let even := bitsAt x2 0 6 = 0
    let inside := inScratch (s.core c).part x2.toNat (x2.toNat + frameBytes o) = true
    (¬ stack → Stops (.ctlLeave o) s .pool 0 x2 pend) ∧
    (stack → ¬ even → Stops (.ctlLeave o) s .align 0 x2 pend) ∧
    (stack → even → ¬ inside → Stops (.ctlLeave o) s .pool 0 x2 pend) ∧
    (stack → even → inside → s.undone s.me = [] →
      (∀ q ∈ frameSlots top (frameRegs o), s.inTurn c (poolOff q.2.2) q.2.1 (s.me % 4) = true) → frameNx o ≤ 8 → frameNv o ≤ 16 →
      Issues (.ctlLeave o) s { plain 0x05 0x09 o s with regs := .x 2 :: (frameRegs o).map Prod.fst } (fun t =>
        t.cur.getX 2 = top ∧
        (∀ q ∈ frameSlots top (frameRegs o), regBytes t.cur q.1 q.2.1 = s.poolRead c (poolOff q.2.2) q.2.1) ∧
        BytesKept s t ∧ OnlyPools s t))

/-- ENTER and LEAVE: their faults in order, the frame saved and restored, every other byte kept. -/
def Obligations.Frames : Prop :=
  Claims.EnterOpensAFrame ∧ Claims.LeaveClosesAFrame

/-- SYS.GET (R132, R133) gives the value of its selector at issue: time, tag, cycle count, coordinates, FPFLAGS, RNDMODE,
SRSTATE, STACKLIM, the budget left (0 where there is none), a word of FAULTINFO, the horizon. A GET of FPFLAGS waits for the
flags of the thread's special-function requests. SYS.PERF gives an event counter (R136). -/
def Sys2Proof.Claims.SpecialRegistersRead : Prop :=
  ∀ (o : Ops) (s : State) (d : BitVec 7), o.d = .x d →
    let t := s.cur
    let c := coreOf s.me
    let get := fun (sel : Nat) (w : Word) =>
      sysSel o = sel → Ready 0x06 0x01 o s → s.flagsWait o = false → WritesX (.sysGet o) 0x06 0x01 o s d w
    get 0 s.time ∧ get 1 t.tagT ∧ get 2 (BitVec.ofNat 64 t.tagM.toNat) ∧ get 3 t.cycle ∧ get 4 (BitVec.ofNat 64 t.gidx) ∧
    get 5 (BitVec.ofNat 64 (s.me % 4)) ∧ get 6 (BitVec.ofNat 64 (c % 8)) ∧ get 7 (BitVec.ofNat 64 (c / 8 % 320)) ∧
    get 8 (BitVec.ofNat 64 (c / 8 / 320)) ∧ get 9 (BitVec.ofNat 64 s.pkg) ∧ get 10 t.fpflags ∧ get 11 t.rndmode ∧
    get 12 t.srstate ∧ get 13 t.stacklim ∧ get 14 (BitVec.ofNat 64 (t.budget.getD 0)) ∧
    get 15 (lookAt 0 t.finfo (sysIdx o)) ∧ get 16 (BitVec.ofNat 64 (s.horizon s.me)) ∧
    (sysSel o = 10 → (∃ r ∈ (s.core c).sfu, r.tid = s.me) → o.h.sw = false → Ready 0x06 0x01 o s →
      exec (.sysGet o) s = .next s) ∧
    (Ready 0x06 0x05 o s → WritesX (.sysPerf o) 0x06 0x05 o s d (lookAt 0 t.perf (o.fld 22 4)))

/-- SYS.SET (R132, R133) replaces FPFLAGS, RNDMODE, SRSTATE or STACKLIM, the reserved bits ignored; RNDMODE refuses 5, 6
and 7 with ILLEGAL and FIELD 5. Nothing else changes. -/
def Sys2Proof.Claims.SpecialRegistersWritten : Prop :=
  ∀ (o : Ops) (s : State), s.cur.raised = none → Ready 0x06 0x02 o s → s.flagsWait o = false →
    let w := s.cur.xr o.a
    let gives := fun (c : Change) => Acts (.sysSet o) s c (fun _ => True)
    let p := plain 0x06 0x02 o s
    (sysSel o = 10 → gives { p with flags := BitVec.ofNat 64 (w.toNat % 64) }) ∧
    (sysSel o = 11 → 5 ≤ w.toNat % 8 → Stops (.sysSet o) s .illegal 5 0 p.pend) ∧
    (sysSel o = 11 → w.toNat % 8 < 5 → gives { p with rest := restOf { s.cur with rndmode := BitVec.ofNat 64 (w.toNat % 8) } }) ∧
    (sysSel o = 12 → gives { p with gen := BitVec.ofNat 64 (w.toNat % 2 ^ 32) }) ∧
    (sysSel o = 13 → gives { p with rest := restOf { s.cur with stacklim := w } })

/-- SYS.GET, SET and PERF: every special register read and written. -/
def Obligations.SpecialRegisters : Prop :=
  Claims.SpecialRegistersRead ∧ Claims.SpecialRegistersWritten

/-- R135: TRAP stops its thread with TRAP and its CODE, BREAK with BREAK; both are switch markers, so no result is
outstanding and the pending bits are clear. -/
def Obligations.TrapAndBreak : Prop :=
  ∀ (o : Ops) (s : State), s.cur.raised = none →
    (Ready 0x06 0x03 o s → Stops (.sysTrap o) s .trap 0 (BitVec.ofNat 64 (o.fld 22 16)) 0) ∧
    (Ready 0x06 0x04 o s → Stops (.sysBreak o) s .brk 0 0 0)

/-! ## Vectors -/

/-- VEC (R141 to R147): every element of an active lane gets the function of its operands' elements, in ascending order; an
element of an inactive lane keeps its bits, sets no flag and advances no generator; the flags of all elements are ORed into
FPFLAGS; nothing else changes. -/
def Obligations.VectorElementResults : Prop :=
  ∀ (o : Ops) (s : State) (d : BitVec 6), o.d = .v d →
    let t := s.cur
    let ty := o.ty
    let w := ty.width
    let a := fun (e : Nat) => elemOf (t.vr o.a) w e
    let b := fun (e : Nat) => elemB t o.b w e
    let c := fun (e : Nat) => elemOf (t.vr o.c) w e
    let i := fun (x : Nat) => intVal ty x
    let f := fun (x : Nat) => decodeF ty x
    let mode := t.mode o.rnd (ty != .f32)
    let rd := decide (mode = 3)
    let int := fun (v : Nat → Int) (e : Nat) (g : BitVec 32) => (wrapN w (v e), 0, g)
    let arith := fun (vi : Nat → Int) (vf : Nat → FVal × Nat) (e : Nat) (g : BitVec 32) =>
      if ty.isFloat then roundElem ty mode o.sat false (vf e) g else (wrapN w (vi e), 0, g)
    let pick := fun (vi : Nat → Int) (vf : Nat → FVal) (e : Nat) (g : BitVec 32) =>
      if ty.isFloat then ((roundF ty 0 false false 0 (vf e)).1, 0, g) else (wrapN w (vi e), 0, g)
    let bits := fun (v : Nat → Nat) (e : Nat) (g : BitVec 32) => (v e, 0, g)
    let clamp := fun (v : Nat → Int) (e : Nat) (g : BitVec 32) =>
      (wrapN w (satInt ty.isSigned w (v e)).1, flagIf (satInt ty.isSigned w (v e)).2 flagSAT, g)
    let gives := fun (j : Ops → Instr) (fn : Nat) (r : Nat → BitVec 32 → ElemRes) =>
      Ready 0x10 fn o s → WritesElems (j o) 0x10 fn o s d r
    gives .vecAdd 0x01 (arith (fun e => i (a e) + i (b e)) (fun e => (f (a e)).add rd (f (b e)))) ∧
    gives .vecSub 0x02 (arith (fun e => i (a e) - i (b e)) (fun e => (f (a e)).add rd (f (b e)).neg)) ∧
    gives .vecMul 0x03 (arith (fun e => i (a e) * i (b e)) (fun e => (f (a e)).mul (f (b e)))) ∧
    gives .vecFma 0x04 (arith (fun e => i (a e) * i (b e) + i (c e)) (fun e => fmaV rd (f (a e)) (f (b e)) (f (c e)))) ∧
    gives .vecFms 0x05 (arith (fun e => i (a e) * i (b e) - i (c e)) (fun e => fmaV rd (f (a e)) (f (b e)) (f (c e)).neg)) ∧
    gives .vecMin 0x06 (pick (fun e => min (i (a e)) (i (b e))) (fun e => (f (a e)).minMax false (f (b e)))) ∧
    gives .vecMax 0x07 (pick (fun e => max (i (a e)) (i (b e))) (fun e => (f (a e)).minMax true (f (b e)))) ∧
    gives .vecAbs 0x08 (pick (fun e => (i (a e)).natAbs) (fun e => (f (a e)).abs)) ∧
    gives .vecNeg 0x09 (pick (fun e => -i (a e)) (fun e => (f (a e)).neg)) ∧
    gives .vecAnd 0x0A (bits (fun e => a e &&& b e)) ∧ gives .vecOr 0x0B (bits (fun e => a e ||| b e)) ∧
    gives .vecXor 0x0C (bits (fun e => a e ^^^ b e)) ∧
    gives .vecShl 0x0D (int (fun e => i (a e) * (2 ^ (b e % w) : Nat))) ∧
    gives .vecShr 0x0E (int (fun e => i (a e) / (2 ^ (b e % w) : Nat))) ∧
    gives .vecMov 0x0F (bits a) ∧
    gives .vecBcast 0x10 (bits (fun _ => match o.a with
      | .x n => (t.getX n).toNat % 2 ^ w
      | r => elemOf (t.vr r) w (o.fld 22 7))) ∧
    gives .vecSel 0x11 (bits (fun e => if (t.kr o.c).getLsbD (e / ty.per) then a e else b e)) ∧
    gives .vecAdds 0x12 (clamp (fun e => i (a e) + i (b e))) ∧ gives .vecSubs 0x13 (clamp (fun e => i (a e) - i (b e)))

/-- VPM.PERM, ROT and IOTA (R159): the same, D's elements taken from A by the index in B, rotated by IDX, or counted up from
A. EXTR gives an x register the element IDX, sign- or zero-extended, INS puts x A into element IDX, each only where that lane
is active. -/
def Sys2Proof.Claims.PermutationResults : Prop :=
  ∀ (o : Ops) (s : State),
    let t := s.cur
    let w := o.ty.width
    let n := o.ty.elems
    let on := t.act o.g o.ty.per (vpmIdx o)
    let elem := fun (e : Nat) => elemOf (t.vr o.a) w e
    (∀ d, o.d = .v d →
      (Ready 0x13 0x01 o s →
        WritesElems (.vpmPerm o) 0x13 0x01 o s d (fun e g => (elem (elemOf (t.vr o.b) w e % n), 0, g))) ∧
      (Ready 0x13 0x02 o s → WritesElems (.vpmRot o) 0x13 0x02 o s d (fun e g => (elem ((e + vpmIdx o) % n), 0, g))) ∧
      (Ready 0x13 0x07 o s →
        WritesElems (.vpmIota o) 0x13 0x07 o s d (fun e g => (wrapN w (opv (t.xr o.a) o.ty + e), 0, g))) ∧
      (Ready 0x13 0x06 o s →
        Acts (.vpmIns o) s { plain 0x13 0x06 o s with regs := [.v d] } (fun u => ∀ e, e < n →
          elemOf (u.getV d) w e = if on && e = vpmIdx o then (t.xr o.a).toNat % 2 ^ w else elemOf (t.getV d) w e))) ∧
    (∀ d, o.d = .x d → Ready 0x13 0x05 o s →
      WritesX (.vpmExtr o) 0x13 0x05 o s d
        (if on then BitVec.ofInt 64 (readInt o.ty.isSigned w (elem (vpmIdx o))) else t.getX d))

/-- VPM.RED and SCAN (R160, R161) combine the elements of the active lanes of each lane group in ascending order, RED giving
every one of them the result and SCAN the result so far; a SCOPE above the thread level, or outside the tree, raises LEVEL,
and nothing changes. -/
def Sys2Proof.Claims.ReductionResults : Prop :=
  ∀ (o : Ops) (s : State), s.cur.raised = none →
    let t := s.cur
    (∀ d g, o.d = .v d → groupLanes s.tree o.scope = some g →
      (Ready 0x13 0x03 o s →
        Acts (.vpmRed o) s { plain 0x13 0x03 o s with
          regs := [.v d], flags := (combAll o t false g).fpflags, gen := (combAll o t false g).srstate }
          (fun u => u.getV d = (combAll o t false g).getV d)) ∧
      (Ready 0x13 0x04 o s →
        Acts (.vpmScan o) s { plain 0x13 0x04 o s with
          regs := [.v d], flags := (combAll o t true g).fpflags, gen := (combAll o t true g).srstate }
          (fun u => u.getV d = (combAll o t true g).getV d))) ∧
    (groupLanes s.tree o.scope = none →
      (Ready 0x13 0x03 o s → Stops (.vpmRed o) s .level 0 0 (plain 0x13 0x03 o s).pend) ∧
      (Ready 0x13 0x04 o s → Stops (.vpmScan o) s .level 0 0 (plain 0x13 0x04 o s).pend)) ∧
    (groupLanes s.tree o.scope = none ↔ s.tree.length ≤ o.scope ∨ threadLevel s.tree < o.scope)

/-- What RED ADD over all lanes gives on integers (R161): every element of an active lane the sum of them all modulo 2^n,
every other element what it held. -/
def Sys2Proof.Claims.IntegerSumReduction : Prop :=
  ∀ (o : Ops) (t : Thread) (d : BitVec 6), o.d = .v d → o.ty.isInt = true → o.ty.width ≤ 32 → vpmOp o = 0 →
    let w := o.ty.width
    let es := (List.range o.ty.elems).filter (fun e => t.act o.g o.ty.per e)
    let sum := (es.map (fun e => intVal o.ty (elemOf (t.vr o.a) w e))).sum
    ∀ e, e < o.ty.elems → elemOf ((combAll o t false 16).getV d) w e =
      if t.act o.g o.ty.per e then wrapN w sum else elemOf (t.getV d) w e

/-- VPM: permutations, element moves, reductions and scans. -/
def Obligations.PermutationsAndReductions : Prop :=
  Claims.PermutationResults ∧ Claims.ReductionResults ∧ Claims.IntegerSumReduction

/-- VCV (R153 to R157): the elements that CVT, PACK, UNPACK, QNT and SCALE produce, in the order in which they are produced:
by lane, then within the lane; SCALE multiplies 16 block elements by their scales; QNT writes one block of 32 and its scale.
Nothing else changes but FPFLAGS and the generator. That QNT sets NV for a block that is not finite whatever the guard is the model's
choice (log 72). -/
def Sys2Proof.Claims.VectorConversionResults : Prop :=
  ∀ (o : Ops) (s : State) (d : BitVec 6), o.d = .v d →
    let t := s.cur
    let src := (vcvSty o).width
    let ns := (vcvSty o).per
    let nd := o.ty.per
    let lanes := t.activeLanes o.g
    let conv := fun (r : Reg) (from' : Nat) => convElem (vcvSty o) o.ty (vcvMode t o) o.sat (elemOf (t.vr r) src from')
    let gives := fun (i : Ops → Instr) (fn : Nat) (w : Nat) (ms : List (Nat × (BitVec 32 → ElemRes))) =>
      Ready 0x11 fn o s → WritesMoves (i o) 0x11 fn o s d w ms
    gives .vcvCvt 0x01 o.ty.width (lanes.flatMap (fun i =>
      if o.ty.width ≤ src then (List.range ns).map (fun j => (i * nd + vcvPart o * ns + j, conv o.a (i * ns + j)))
      else (List.range nd).map (fun j => (i * nd + j, conv o.a (i * ns + vcvPart o * nd + j))))) ∧
    gives .vcvPack 0x02 o.ty.width (lanes.flatMap (fun i => (List.range ns).flatMap (fun j =>
      [(i * nd + j, conv o.a (i * ns + j)), (i * nd + ns + j, conv o.b (i * ns + j))]))) ∧
    gives .vcvScale 0x05 32 (lanes.map (fun i => (i, fun g =>
      let e := vcvPart o * 16 + i
      let sc := scaleByte (t.sr o.c) (vcvSidx o + e / 32)
      let x := decodeF o.ty (elemOf (t.vr o.a) o.ty.width e)
      if sc = 0xFF || x.isNan then (Ty.nanCode .f32, 0, g)
      else roundElem .f32 (t.mode o.rnd false) o.sat false (x.scale ((sc : Int) - 127), 0) g))) ∧
    (∀ c, o.c = .v c → c ≠ d → Ready 0x11 0x03 o s →
      Acts (.vcvUnpack o) s { plain 0x11 0x03 o s with
        regs := [.v d, .v c],
        flags := s.cur.fpflags ||| BitVec.ofNat 64 (unpackRun o t lanes).fl,
        gen := (unpackRun o t lanes).gen.setWidth 64 }
        (fun u => u.getV d = (unpackRun o t lanes).low ∧ u.getV c = (unpackRun o t lanes).high)) ∧
    (∀ c, o.c = .s c → Ready 0x11 0x04 o s →
      let xs := (List.range 16).map (fun i => decodeF .f32 (elemOf (t.vr o.a) 32 i)) ++
        (List.range 16).map (fun i => decodeF .f32 (elemOf (t.vr o.b) 32 i))
      let sc := blockScale o.ty xs
      let ms := (xs.zipIdx.filter (fun p => t.act o.g nd (vcvPart o * 32 + p.2))).map (fun p =>
        (vcvPart o * 32 + p.2, fun (g : BitVec 32) =>
          if sc = 0xFF then (o.ty.nanCode, 0, (genStep (t.mode o.rnd true) g).2)
          else roundElem o.ty (t.mode o.rnd true) true true (p.1.scale (127 - (sc : Int)), 0) g))
      let v := afterMoves o.ty.width (t.getV d) t.gen ms
      Acts (.vcvQnt o) s { plain 0x11 0x04 o s with
        regs := [.v d, .s c],
        flags := s.cur.fpflags ||| BitVec.ofNat 64 (flagIf (sc = 0xFF) flagNV) ||| BitVec.ofNat 64 v.fl,
        gen := v.gen.setWidth 64 }
        (fun u => u.getV d = v.d ∧ u.getS c = setScaleByte (t.getS c) (vcvSidx o) sc))

/-- The scale of an MX block of finite values whose largest magnitude lies in [2^l, 2^(l+1)) (R58): l − emax + 127, kept
between 0 and 254; a block with a NaN or an infinity has scale 0xFF, a block of zeros scale 0. -/
def Sys2Proof.Claims.BlockScales : Prop :=
  ∀ (ty : Ty) (xs : List FVal),
    ((∃ x ∈ xs, x = .nan ∨ ∃ n, x = .inf n) → blockScale ty xs = 0xFF) ∧
    ((∀ x ∈ xs, ∃ n, x = .zero n) → blockScale ty xs = 0) ∧
    (∀ (n : Bool) (m : Nat) (e : Int), (∀ x ∈ xs, x ≠ .nan ∧ ∀ n, x ≠ .inf n) → FVal.fin n m e false ∈ xs → m ≠ 0 →
      (∀ x ∈ xs, x.abs.cmp (FVal.fin false m e false) ≠ some .gt) →
      (blockScale ty xs : Int) = max 0 (min 254 ((Nat.log2 m : Int) + e - emaxOf ty + 127)))

/-- VCV: the elements each conversion produces, in order; the scale of a block. -/
def Obligations.Conversions : Prop :=
  Claims.VectorConversionResults ∧ Claims.BlockScales

/-- VSF (R150, R151): the request enters the special-function queue of the core with its operands as they are at issue; while
8 stand there, the thread stalls and its instruction has not issued. -/
def Obligations.SpecialFunctionsQueue : Prop :=
  ∀ (o : Ops) (s : State),
    let c := coreOf s.me
    let room := (s.core c).sfu.length < 8
    let gives := fun (j : Ops → Instr) (fn : Nat) => Ready 0x12 fn o s →
      (room → Issues (j o) s (plain 0x12 fn o s) (fun t =>
        (t.core c).sfu = (s.core c).sfu ++ [⟨fn, o.ty, o.d, s.cur.laneMask o.g, s.cur.vr o.a, s.me⟩] ∧
        { t.core c with sfu := (s.core c).sfu } = s.core c ∧ (∀ e, e ≠ c → t.core e = s.core e) ∧
        { t with threads := s.threads, cores := s.cores } = s)) ∧
      (¬ room → ∃ t, exec (j o) s = .next t ∧ t.cur.pc = s.cur.pc ∧ t.cur.status = .stalled ∧
        t.cur.wait = some .sfuRoom ∧ OnlyThreads s t)
    gives .vsfExp2 0x01 ∧ gives .vsfLog2 0x02 ∧ gives .vsfRcp 0x03 ∧ gives .vsfRsqrt 0x04 ∧ gives .vsfSqrt 0x05

/-! ## Memory -/

/-- LD (R171, R174 to R177). The effective address is A + DISP, with B × W/8 added for IDX; a misaligned one raises ALIGN, one
that the core may not reach the fault of R171, each with the address. From the own pool, with no earlier access unfinished and in its turn (R229),
DISP and IDX give the bytes extended and PROBE the full bit, at once, and change nothing else; whatever is unfinished, no
byte changes. Every other load leaves its register pending and its access on its way: FE as a consuming load, ACQ as an
acquire. A ninth consuming load stalls. -/
def Obligations.LoadResults : Prop :=
  ∀ (o : Ops) (s : State), IdsFresh s → s.cur.raised = none →
    let t := s.cur
    let n := o.ty.width / 8
    let c := coreOf s.me
    let part := (s.core c).part
    let ea := t.xr o.a + o.disp
    let eax := t.xr o.a + t.xr o.b * BitVec.ofNat 64 n + o.disp
    let req := fun (op : AccOp) (d : Reg) (ret : Ret) (acq : Bool) (a : Word) (len : Nat) =>
      s.newAccess op (some d) ret false acq false (s.mustFollow s.me .load) [mkPart a len 0 []]
    let pend := fun (fn : Nat) => (plain 0x08 fn o s).pend
    let checked := fun (i : Instr) (fn : Nat) (a : Word) (pool : Bool) =>
      (a.toNat % n ≠ 0 → Stops i s .align 0 a (pend fn)) ∧
      (a.toNat % n = 0 → pool = true → spaceOf a = .virt → Stops i s .pool 0 a (pend fn)) ∧
      (∀ f, a.toNat % n = 0 → ¬ (pool = true ∧ spaceOf a = .virt) → checkAddr part a n = some f → Stops i s f 0 a (pend fn))
    let plainLd := fun (i : Instr) (fn : Nat) (a : Word) (d : BitVec 7) => Ready 0x08 fn o s →
      checked i fn a false ∧
      (a.toNat % n = 0 → checkAddr part a n = none →
        (spaceOf a = .own → Issues i s { plain 0x08 fn o s with regs := [.x d] } (fun u => BytesKept s u)) ∧
        (spaceOf a = .own → s.undone s.me = [] → s.inTurn c (poolOff a) n (s.me % 4) = true → Issues i s { plain 0x08 fn o s with regs := [.x d] } (fun u =>
          u.cur.getX d = (if d = 0 then 0 else ext o.ty (s.poolRead c (poolOff a) n)) ∧ BytesKept s u ∧ OnlyPools s u)) ∧
        (spaceOf a ≠ .own → Requests i 0x08 fn o s (.x d) (req .load (.x d) (.scalar o.ty) false a n)))
    (∀ d, o.d = .x d →
      plainLd (.ldDisp o) 0x01 ea d ∧ plainLd (.ldIdx o) 0x02 eax d ∧
      (Ready 0x08 0x03 o s → checked (.ldFe o) 0x03 ea true ∧
        (ea.toNat % n = 0 → spaceOf ea ≠ .virt → checkAddr part ea n = none →
          (s.consuming s.me < 8 → Requests (.ldFe o) 0x08 0x03 o s (.x d)
            (req (.consume (o.fld 4 1 = 1)) (.x d) (.scalar o.ty) false ea n)) ∧
          (8 ≤ s.consuming s.me → Waits (.ldFe o) s .stalled .consumeRoom))) ∧
      (Ready 0x08 0x04 o s →
        (s.depth s.me ≤ xmScope o → Stops (.ldAcq o) s .level 0 0 (pend 0x04)) ∧
        (xmScope o < s.depth s.me → checked (.ldAcq o) 0x04 ea false ∧
          (ea.toNat % n = 0 → checkAddr part ea n = none →
            Requests (.ldAcq o) 0x08 0x04 o s (.x d) (req .load (.x d) (.scalar o.ty) true ea n))))) ∧
    (∀ d, o.d = .p d → Ready 0x08 0x05 o s →
      (spaceOf ea = .virt → Stops (.ldProbe o) s .pool 0 ea (pend 0x05)) ∧
      (∀ f, spaceOf ea ≠ .virt → checkAddr part ea 1 = some f → Stops (.ldProbe o) s f 0 ea (pend 0x05)) ∧
      (spaceOf ea = .any → checkAddr part ea 1 = none →
        Requests (.ldProbe o) 0x08 0x05 o s (.p d) (req .probe (.p d) .pred false ea 1)) ∧
      (spaceOf ea = .own → checkAddr part ea 1 = none → s.undone s.me = [] → s.inTurn c (poolOff ea) 1 (s.me % 4) = true →
        Issues (.ldProbe o) s { plain 0x08 0x05 o s with regs := [.p d] } (fun u =>
          u.cur.getP d = (if d = 0 then true else s.fullBit c (poolOff ea)) ∧ BytesKept s u ∧ OnlyPools s u)))

/-- ST (R171, R174, R178). Into the own pool, with no earlier access of the thread unfinished and in its turn, the bytes of D's type stand at
the effective address at once, every other byte of every memory and every register is as before, and FE sets the full bit of
the granule; anywhere else the store is on its way, REL behind what a release waits for. REL raises LEVEL for a
level outside the tree. -/
def Sys2Proof.Claims.StoreResults : Prop :=
  ∀ (o : Ops) (s : State), IdsFresh s → s.cur.raised = none →
    let t := s.cur
    let n := o.ty.width / 8
    let c := coreOf s.me
    let part := (s.core c).part
    let ea := t.xr o.a + o.disp
    let eax := t.xr o.a + t.xr o.b * BitVec.ofNat 64 n + o.disp
    let bytes := leBytes n (t.xr o.d).toNat
    let pend := fun (fn : Nat) => (plain 0x09 fn o s).pend
    let stores := fun (i : Instr) (fn : Nat) (a : Word) (full : Bool) (rel : Bool) (k : OrdKind) =>
      (a.toNat % n ≠ 0 → Stops i s .align 0 a (pend fn)) ∧
      (a.toNat % n = 0 → full = true → spaceOf a = .virt → Stops i s .pool 0 a (pend fn)) ∧
      (∀ f, a.toNat % n = 0 → ¬ (full = true ∧ spaceOf a = .virt) → checkAddr part a n = some f →
        Stops i s f 0 a (pend fn)) ∧
      (a.toNat % n = 0 → ¬ (full = true ∧ spaceOf a = .virt) → checkAddr part a n = none →
        (spaceOf a = .own → Issues i s (plain 0x09 fn o s) (fun u => BytesKeptBut s u c (poolOff a) n)) ∧
        (spaceOf a = .own → s.undone s.me = [] → s.inTurn c (poolOff a) n (s.me % 4) = true → Issues i s (plain 0x09 fn o s) (fun u =>
          u.poolRead c (poolOff a) n = bytes ∧ BytesKeptBut s u c (poolOff a) n ∧ FullBits s u c (poolOff a / 16) full ∧
          OnlyPools s u)) ∧
        (spaceOf a ≠ .own → Sends i 0x09 fn o s (s.newAccess (.store full) none .none false false rel (s.mustFollow s.me k)
          [mkPart a n 0 bytes])))
    (Ready 0x09 0x01 o s → stores (.stDisp o) 0x01 ea false false .write) ∧
    (Ready 0x09 0x02 o s → stores (.stIdx o) 0x02 eax false false .write) ∧
    (Ready 0x09 0x03 o s → stores (.stFe o) 0x03 ea true false .write) ∧
    (Ready 0x09 0x04 o s →
      (s.depth s.me ≤ xmScope o → Stops (.stRel o) s .level 0 0 (pend 0x04)) ∧
      (xmScope o < s.depth s.me → stores (.stRel o) 0x04 ea false true .release))

/-- ST.CLR (R178) empties the granules of EA to EA + B − 1: EA and B must be multiples of 16, else ALIGN; with B = 0 nothing
happens; a range that the core may not reach gives the fault of R171, as does one longer than a pool; the clears of all granules are one
access on its way. -/
def Sys2Proof.Claims.ClearResults : Prop :=
  ∀ (o : Ops) (s : State), s.cur.raised = none → Ready 0x09 0x05 o s →
    let ea := s.cur.xr o.a + o.disp
    let b := (s.cur.xr o.b).toNat
    let part := (s.core (coreOf s.me)).part
    let pend := (plain 0x09 0x05 o s).pend
    (ea.toNat % 16 ≠ 0 ∨ b % 16 ≠ 0 → Stops (.stClr o) s .align 0 ea pend) ∧
    (ea.toNat % 16 = 0 → b = 0 → Acts (.stClr o) s (plain 0x09 0x05 o s) (fun _ => True)) ∧
    (ea.toNat % 16 = 0 → b % 16 = 0 → 0 < b → b ≤ poolSize → spaceOf ea = .virt → Stops (.stClr o) s .pool 0 ea pend) ∧
    (ea.toNat % 16 = 0 → b % 16 = 0 → 0 < b → spaceOf ea = .none → Stops (.stClr o) s .prot 0 ea pend) ∧
    (∀ f, ea.toNat % 16 = 0 → b % 16 = 0 → 0 < b → b ≤ poolSize → spaceOf ea ≠ .virt → checkAddr part ea b = some f →
      Stops (.stClr o) s f 0 ea pend) ∧
    (ea.toNat % 16 = 0 → b % 16 = 0 → poolSize < b → spaceOf ea ≠ .none → Stops (.stClr o) s .pool 0 ea pend) ∧
    (ea.toNat % 16 = 0 → b % 16 = 0 → 0 < b → b ≤ poolSize → spaceOf ea ≠ .virt → checkAddr part ea b = none →
      Sends (.stClr o) 0x09 0x05 o s (s.newAccess .clear none .none false false false (s.mustFollow s.me .write)
        ((List.range (b / 16)).map (fun i => mkPart (ea + BitVec.ofNat 64 (16 * i)) 16 0 []))))

/-- ST: the bytes stored, every other byte kept; the clears of ST.CLR. -/
def Obligations.StoresAndClears : Prop :=
  Claims.StoreResults ∧ Claims.ClearResults

/-- An atomic (R179 to R181) raises LEVEL, ALIGN or the fault of R171; else one access with its function, its operands and
its order is on its way, and D is pending unless it is x0. -/
def Sys2Proof.Claims.AtomicsIssue : Prop :=
  ∀ (o : Ops) (s : State) (d : BitVec 7), o.d = .x d → s.cur.raised = none →
    let t := s.cur
    let n := o.ty.width / 8
    let ea := t.xr o.a
    let part := (s.core (coreOf s.me)).part
    let acq := o.order = 1 ∨ o.order = 3
    let rel := o.order = 2 ∨ o.order = 3
    let gives := fun (i : Ops → Instr) (fn : Nat) (f : AtmFn) => Ready 0x0A fn o s →
      (s.depth s.me ≤ o.scope → Stops (i o) s .level 0 0 (plain 0x0A fn o s).pend) ∧
      (o.scope < s.depth s.me →
        (ea.toNat % n ≠ 0 → Stops (i o) s .align 0 ea (plain 0x0A fn o s).pend) ∧
        (∀ c, ea.toNat % n = 0 → checkAddr part ea n = some c → Stops (i o) s c 0 ea (plain 0x0A fn o s).pend) ∧
        (ea.toNat % n = 0 → checkAddr part ea n = none →
          let acc := fun (dest : Option Reg) (ret : Ret) =>
            s.newAccess (.atomic f o.ty (t.xr o.b) (t.xr o.c) (t.mode o.rnd false)) dest ret false (decide acq) (decide rel)
              (s.mustFollow s.me (if rel then .release else .write)) [mkPart ea n 0 []]
          if d = 0 then Sends (i o) 0x0A fn o s (acc none .none)
          else Requests (i o) 0x0A fn o s (.x d) (acc (some (.x d)) (.scalar o.ty))))
    gives .atmAdd 0x01 .add ∧ gives .atmAnd 0x02 .and ∧ gives .atmOr 0x03 .or ∧ gives .atmXor 0x04 .xor ∧ gives .atmMin 0x05 .min ∧
    gives .atmMax 0x06 .max ∧ gives .atmXchg 0x07 .xchg ∧ gives .atmCas 0x08 .cas ∧ gives .atmFadd 0x09 .fadd

/-- What an atomic leaves at its place (R180), by its function, on integers of n bytes: the old value with B under the
function, modulo 2^8n; CAS leaves C where the old bytes are B's, and else the old bytes. -/
def Sys2Proof.Claims.AtomicFunctions : Prop :=
  ∀ (ty : Ty) (b c : Word) (rnd : Nat) (old : List Byte), ty.isInt = true → old.length = ty.width / 8 →
    let n := ty.width
    let x := readInt ty.isSigned n (leNat old)
    let y := readInt ty.isSigned n b.toNat
    let u := leNat old
    let v := b.toNat % 2 ^ n
    let leaves := fun (f : AtmFn) (r : Int) => (leNat (atomicBytes f ty b c rnd old) : Int) = r % (2 ^ n : Nat)
    leaves .add (x + y) ∧ leaves .and (u &&& v : Nat) ∧ leaves .or (u ||| v : Nat) ∧ leaves .xor (u ^^^ v : Nat) ∧
    leaves .min (min x y) ∧ leaves .max (max x y) ∧ leaves .xchg (v : Int) ∧
    leaves .cas (if u = v then ((c.toNat % 2 ^ n : Nat) : Int) else (u : Int))

/-- ATM: checks and request, and what each function leaves. -/
def Obligations.Atomics : Prop :=
  Claims.AtomicsIssue ∧ Claims.AtomicFunctions

/-- FNC.FENCE (R183) orders without waiting: it goes on at once, no register and no byte changes, and every unfinished read
(acquire), or every unfinished read and every unfinished write that is not one to host memory (release), is among those that later
accesses (acquire), or later writes and commands (release), must follow. A level outside the tree raises LEVEL. -/
def Sys2Proof.Claims.FenceOrders : Prop :=
  ∀ (o : Ops) (s : State), s.cur.raised = none → Ready 0x0B 0x01 o s →
    (s.depth s.me ≤ o.scope → Stops (.fncFence o) s .level 0 0 (plain 0x0B 0x01 o s).pend) ∧
    (o.scope < s.depth s.me → ∃ all wr,
      Issues (.fncFence o) s { plain 0x0B 0x01 o s with rest := restOf { s.cur with fenceAll := all, fenceWr := wr } }
        (fun t => OnlyThreads s t ∧
          ((o.order = 1 ∨ o.order = 3) → ∀ a ∈ s.undone s.me, a.op.reads = true → ∀ k, a.id ∈ t.mustFollow s.me k) ∧
          ((o.order = 2 ∨ o.order = 3) → ∀ a ∈ s.undone s.me, (a.op.reads = true ∨ (a.op.writes = true ∧
            ∃ p ∈ a.parts, ∀ pa, s.partLoc a p ≠ some (.host pa))) →
            ∀ k, k ≠ .load → a.id ∈ t.mustFollow s.me k)))

/-- FNC.DRAIN (R184) goes on once every earlier write of the thread in the extent is acknowledged and its copies in the
queues of QMASK are over, and parks until then. -/
def Sys2Proof.Claims.DrainWaits : Prop :=
  ∀ (o : Ops) (s : State), s.cur.raised = none → Ready 0x0B 0x02 o s →
    (s.depth s.me ≤ o.scope → Stops (.fncDrain o) s .level 0 0 s.cur.pend) ∧
    (o.scope < s.depth s.me →
      (s.drained s.me (s.bindOf s.me o.scope) = true → s.copiesDone s.me o.qmask = true → ∃ all wr,
        Issues (.fncDrain o) s { plain 0x0B 0x02 o s with rest := restOf { s.cur with fenceAll := all, fenceWr := wr } }
          (fun t => OnlyThreads s t)) ∧
      (s.drained s.me (s.bindOf s.me o.scope) = false ∨ s.copiesDone s.me o.qmask = false →
        Waits (.fncDrain o) s .parked (.drain o.scope o.qmask)))

/-- FNC: what a fence orders without waiting, and when a drain goes on. -/
def Obligations.FencesAndDrains : Prop :=
  Claims.FenceOrders ∧ Claims.DrainWaits

/-- VLS.LD, LDS, LDG and LDFE (R162 to R165). The first fault of the three passes of R164 stops the instruction with its
element's address; with no active lane nothing moves, and LDFE's register is pending all the same (log 73); from the own pool, with no
earlier access unfinished and in its turn, every active element has the bytes at its address and every other one keeps its own; any other load leaves its register pending and its
access on its way, LDFE always, a ninth consuming load stalling. -/
def Sys2Proof.Claims.VectorLoadResults : Prop :=
  ∀ (o : Ops) (s : State) (d : BitVec 6), o.d = .v d → IdsFresh s → s.cur.raised = none →
    let t := s.cur
    let n := o.ty.width / 8
    let c := coreOf s.me
    let es := activeElems o t
    let req := fun (op : AccOp) (fn : Nat) => s.newAccess op (some (.v d)) (.bytes (some o.ty)) false false false
      (s.mustFollow s.me .load) (es.map (fun e => mkPart (vlsAddr fn t o e) n (n * e) []))
    let gives := fun (i : Ops → Instr) (fn : Nat) => Ready 0x14 fn o s →
      (∀ f a, vlsFault (s.core c).part fn t o = some (f, a) → Stops (i o) s f 0 a (plain 0x14 fn o s).pend) ∧
      (vlsFault (s.core c).part fn t o = none →
        (es = [] → Acts (i o) s { plain 0x14 fn o s with
          pend := if fn = 0x06 then withBit (plain 0x14 fn o s).pend (.v d) else (plain 0x14 fn o s).pend } (fun _ => True)) ∧
        (es ≠ [] → fn ≠ 0x06 → (∀ e ∈ es, spaceOf (vlsAddr fn t o e) = .own) → s.undone s.me = [] →
          (∀ e ∈ es, s.inTurn c (poolOff (vlsAddr fn t o e)) n (s.me % 4) = true) →
          Issues (i o) s { plain 0x14 fn o s with regs := [.v d] } (fun u =>
            (∀ e, e < o.ty.elems → elemOf (u.cur.getV d) o.ty.width e =
              if e ∈ es then leNat (s.poolRead c (poolOff (vlsAddr fn t o e)) n) else elemOf (t.getV d) o.ty.width e) ∧
            BytesKept s u ∧ OnlyPools s u)) ∧
        (fn ≠ 0x06 → (∃ e ∈ es, spaceOf (vlsAddr fn t o e) ≠ .own) → Requests (i o) 0x14 fn o s (.v d) (req .load fn)) ∧
        (es ≠ [] → fn = 0x06 → s.consuming s.me < 8 →
          Requests (i o) 0x14 fn o s (.v d) (req (.consume (o.fld 0 1 = 1)) fn)) ∧
        (es ≠ [] → fn = 0x06 → 8 ≤ s.consuming s.me → Waits (i o) s .stalled .consumeRoom))
    8 ≤ o.ty.width → gives .vlsLd 0x01 ∧ gives .vlsLds 0x03 ∧ gives .vlsLdg 0x05 ∧ gives .vlsLdfe 0x06

/-- Where element e of a vector access lies (R163): the base is A + DISP; the contiguous forms step by 4 bytes, the strided
ones by B, the indexed one adds element e of B, signed. -/
def Sys2Proof.Claims.VectorAddresses : Prop :=
  ∀ (t : Thread) (o : Ops) (e : Nat),
    let base := t.xr o.a + o.disp
    vlsAddr 0x01 t o e = base + BitVec.ofNat 64 (4 * e) ∧ vlsAddr 0x02 t o e = base + BitVec.ofNat 64 (4 * e) ∧
    vlsAddr 0x06 t o e = base + BitVec.ofNat 64 (4 * e) ∧ vlsAddr 0x07 t o e = base + BitVec.ofNat 64 (4 * e) ∧
    vlsAddr 0x03 t o e = base + BitVec.ofNat 64 e * t.xr o.b ∧ vlsAddr 0x04 t o e = base + BitVec.ofNat 64 e * t.xr o.b ∧
    vlsAddr 0x05 t o e = base + (BitVec.ofNat 32 (elemOf (t.vr o.b) 32 e)).signExtend 64

/-- VLS loads: where each element lies, and what a load gives. -/
def Obligations.VectorLoads : Prop :=
  Claims.VectorLoadResults ∧ Claims.VectorAddresses

/-- VLS.ST, STS and STFE with elements of 8, 16 or 32 bits (R162 to R165). Into the own pool, with no earlier access
unfinished and in its turn, the bytes of every active element stand at its address (the last of several at one address), STFE sets their full
bits, and every byte of every memory that no active element covers is as before; anywhere else the stores are on their way as
one access.
Which of several elements at one address stays is the model's choice (log 69). -/
def Obligations.VectorStoreResults : Prop :=
  ∀ (o : Ops) (s : State), IdsFresh s → s.cur.raised = none →
    let t := s.cur
    let n := o.ty.width / 8
    let c := coreOf s.me
    let es := activeElems o t
    let elem := fun (e : Nat) => leBytes n (elemOf (t.vr o.d) o.ty.width e)
    let at' := fun (fn e : Nat) => poolOff (vlsAddr fn t o e)
    let gives := fun (i : Ops → Instr) (fn : Nat) => Ready 0x14 fn o s →
      (∀ f a, vlsFault (s.core c).part fn t o = some (f, a) → Stops (i o) s f 0 a (plain 0x14 fn o s).pend) ∧
      (vlsFault (s.core c).part fn t o = none →
        (es = [] → Acts (i o) s (plain 0x14 fn o s) (fun _ => True)) ∧
        (es ≠ [] → (∀ e ∈ es, spaceOf (vlsAddr fn t o e) = .own) → s.undone s.me = [] →
          (∀ e ∈ es, s.inTurn c (at' fn e) n (s.me % 4) = true) →
          Issues (i o) s (plain 0x14 fn o s) (fun u =>
            (∀ e ∈ es, (∀ e' ∈ es, e < e' → at' fn e' ≠ at' fn e) → u.poolRead c (at' fn e) n = elem e) ∧
            (∀ k a, (k ≠ c ∨ ∀ e ∈ es, a < at' fn e ∨ at' fn e + n ≤ a) → (u.core k).pool.byte a = (s.core k).pool.byte a) ∧
            u.dram = s.dram ∧ u.hostMem = s.hostMem ∧
            (∀ g, lookAt false (u.core c).full g =
              if fn = 0x07 ∧ (∃ e ∈ es, at' fn e / 16 = g) then true else lookAt false (s.core c).full g) ∧ OnlyPools s u)) ∧
        ((∃ e ∈ es, spaceOf (vlsAddr fn t o e) ≠ .own) → Sends (i o) 0x14 fn o s
          (s.newAccess (.store (fn = 7)) none .none false false false (s.mustFollow s.me .write)
            (es.map (fun e => mkPart (vlsAddr fn t o e) n (n * e) (elem e))))))
    8 ≤ o.ty.width → o.ty.width ≤ 32 → gives .vlsSt 0x02 ∧ gives .vlsSts 0x04 ∧ gives .vlsStfe 0x07

/-- SCL (R220, R221): LD brings 128 bytes into a scale register, from the own pool in its turn (R229); MOV copies between scale registers, or 64 bytes of one to or
from a v register; CLR fills one with a byte. -/
def Obligations.ScaleRegisterResults : Prop :=
  ∀ (o : Ops) (s : State), IdsFresh s → s.cur.raised = none →
    let t := s.cur
    let c := coreOf s.me
    let ea := t.xr o.a + o.disp
    let half := o.fld 0 1
    let sreg := fun (i : Instr) (fn : Nat) (d : BitVec 3) (w : SWord) => Ready 0x19 fn o s →
      Acts i s { plain 0x19 fn o s with regs := [.s d] } (fun u => u.getS d = w)
    (∀ d, o.d = .s d → Ready 0x19 0x01 o s →
      (ea.toNat % 16 ≠ 0 → Stops (.sclLd o) s .align 0 ea (plain 0x19 0x01 o s).pend) ∧
      (∀ f, ea.toNat % 16 = 0 → checkAddr (s.core c).part ea 128 = some f →
        Stops (.sclLd o) s f 0 ea (plain 0x19 0x01 o s).pend) ∧
      (ea.toNat % 16 = 0 → checkAddr (s.core c).part ea 128 = none →
        (spaceOf ea = .own → s.undone s.me = [] → s.inTurn c (poolOff ea) 128 (s.me % 4) = true → Issues (.sclLd o) s { plain 0x19 0x01 o s with regs := [.s d] } (fun u =>
          u.cur.getS d = BitVec.ofNat 1024 (leNat (s.poolRead c (poolOff ea) 128)) ∧ BytesKept s u ∧ OnlyPools s u)) ∧
        (spaceOf ea ≠ .own → Requests (.sclLd o) 0x19 0x01 o s (.s d) (s.newAccess .load (some (.s d)) (.bytes none) false
          false false (s.mustFollow s.me .load) (granuleParts ea [] 128))))) ∧
    (∀ d a, o.d = .s d → o.a = .s a → sreg (.sclMov o) 0x02 d (t.getS a)) ∧
    (∀ d a, o.d = .s d → o.a = .v a → sreg (.sclMov o) 0x02 d
      (if half = 0 then (t.getS d).extractLsb' 512 512 ++ t.getV a else t.getV a ++ (t.getS d).extractLsb' 0 512)) ∧
    (∀ d a, o.d = .v d → o.a = .s a → Ready 0x19 0x02 o s →
      Acts (.sclMov o) s { plain 0x19 0x02 o s with regs := [.v d] } (fun u =>
        u.getV d = (t.getS a).extractLsb' (512 * half) 512)) ∧
    (∀ d, o.d = .s d → Ready 0x19 0x03 o s →
      Acts (.sclClr o) s { plain 0x19 0x03 o s with regs := [.s d] } (fun u =>
        ∀ i, i < 128 → scaleByte (u.getS d) i = o.fld 0 8))

/-! ## Copy and matrix commands -/

/-- How a copy command issues whose fields are `c` (R188, R189, R191): its first fault stops the instruction with the address
at fault; with CUE = 1 the port must be in the handler table and the tag at or below the largest microstep; then it enters
queue Q at the end, behind the accesses that a command must follow, with its completion cue reserved if it asks for one; a
full queue, or a full cue store, stalls the thread. `b` is the state before, with the read of a descriptor noted where there is one
(R229). -/
def Sys2Proof.Claims.CopyIssues (i : Instr) (fn : Nat) (o : Ops) (s b : State) (c : CopyCmd) : Prop :=
  let k := coreOf s.me
  let q := cpyQ o
  let p := plain 0x0C fn o s
  let room := (s.copyQueue k q).length < 8
  let entered := fun (t : State) (cue : Option Nat) =>
    t.copyQueue k q = s.copyQueue k q ++ [{ c with after := s.mustFollow s.me .command, cue := cue }] ∧
    (∀ r, r ≠ q → t.copyQueue k r = s.copyQueue k r) ∧ (∀ d, d ≠ k → t.core d = s.core d) ∧
    { t.core k with copies := (s.core k).copies } = b.core k
  (∀ f a, c.fault (s.core k).part = some (f, a) → StopsFrom i s b f 0 a p.pend) ∧
  (c.fault (s.core k).part = none → cpyCue o = false →
    (room → Issues i s p (fun t => entered t none ∧
      { t with threads := s.threads, cores := s.cores, nextId := s.nextId } = s)) ∧
    (¬ room → WaitsFrom i s b .stalled (.copyRoom (2 ^ q) false))) ∧
  (c.fault (s.core k).part = none → cpyCue o = true →
    (s.handlerOf s.me (cpyPort o) = none → StopsFrom i s b .illegal 10 0 p.pend) ∧
    (s.handlerOf s.me (cpyPort o) ≠ none → tagOf s.cur 0 = none → StopsFrom i s b .microstep 0 0 p.pend) ∧
    (∀ tag shared, s.handlerOf s.me (cpyPort o) ≠ none → tagOf s.cur 0 = some tag → s.freeEntry s.me = some shared → room →
      Issues i s { p with rest := restOf { s.cur with postCtr := s.cur.postCtr + 1 } } (fun t =>
        entered t (some (s.nextId + 1)) ∧
        t.cues = s.cues ++ [⟨s.nextId + 1, copyCue s.cur c tag, .reserved s.me, [], none, none, false, shared, none⟩] ∧
        { t with threads := s.threads, cores := s.cores, nextId := s.nextId, cues := s.cues } = s)) ∧
    (∀ tag, s.handlerOf s.me (cpyPort o) ≠ none → tagOf s.cur 0 = some tag → (s.freeEntry s.me = none ∨ ¬ room) →
      WaitsFrom i s b .stalled (.copyRoom (2 ^ q) true)))

/-- CPY.GO1, FILL, GO2, GATHER and SCATTER (R185 to R188): GO1 copies C bytes from A to B, FILL repeats B over C bytes at A;
the others read 64 bytes at A, which must be a multiple of 64 in the own pool, and wait there for the thread's own earlier
writes to them. -/
def Sys2Proof.Claims.CopyCommandsIssue : Prop :=
  ∀ (o : Ops) (s : State), s.cur.raised = none →
    let t := s.cur
    let k := coreOf s.me
    let a := t.xr o.a
    (Ready 0x0C 0x01 o s →
      CopyIssues (.cpyGo1 o) 0x01 o s s (copyBase 0x01 o s a (t.xr o.b) (t.xr o.c).toNat)) ∧
    (Ready 0x0C 0x05 o s → CopyIssues (.cpyFill o) 0x05 o s s
      { copyBase 0x05 o s 0 a (t.xr o.c).toNat with pattern := t.xr o.b }) ∧
    ∀ e ∈ [(0x02, Instr.cpyGo2 o), (0x03, Instr.cpyGather o), (0x04, Instr.cpyScatter o)], Ready 0x0C e.1 o s →
      (a.toNat % 64 ≠ 0 → Stops e.2 s .align 0 a (plain 0x0C e.1 o s).pend) ∧
      (a.toNat % 64 = 0 → (spaceOf a ≠ .own ∨ checkAddr (s.core k).part a 64 ≠ none) →
        Stops e.2 s .pool 0 a (plain 0x0C e.1 o s).pend) ∧
      (a.toNat % 64 = 0 → spaceOf a = .own → checkAddr (s.core k).part a 64 = none →
        s.ownReadReady s.me (poolOff a) 64 = true →
        CopyIssues e.2 e.1 o s (s.ownServed s.me (poolOff a) 64) (copyDesc e.1 o s (s.poolRead k (poolOff a) 64)))

/-- The fields of a copy command: from the instruction for every function, and for those with a descriptor from its 64 bytes
at the offsets of R187; each function takes those that it uses. -/
def Sys2Proof.Claims.CopyDescriptorFields : Prop :=
  ∀ (fn : Nat) (o : Ops) (s : State) (d : List Byte), fn ∈ [2, 3, 4] →
    let w := fun (off n : Nat) => leNat ((d.drop off).take n)
    let c := copyDesc fn o s d
    c.src = BitVec.ofNat 64 (w 0 8) ∧ c.dst = BitVec.ofNat 64 (w 8 8) ∧ c.rowBytes = w 32 4 ∧ c.rows = w 36 4 ∧
    c.sstride = (if fn = 4 then 0 else BitVec.ofNat 64 (w 16 8)) ∧
    c.dstride = (if fn = 3 then 0 else BitVec.ofNat 64 (w 24 8)) ∧
    c.index = (if fn = 2 then 0 else BitVec.ofNat 64 (w 40 8)) ∧
    c.fn = fn ∧ c.tid = s.me ∧ c.pc = s.cur.pc ∧ c.state = .queued ∧ c.progress = 0 ∧ c.wire = cpyWire o ∧ c.sat = o.sat ∧
    c.rnd = s.cur.mode o.rnd false ∧ c.port = cpyPort o

/-- CPY: how a copy command issues, and the fields it takes. -/
def Obligations.CopyCommands : Prop :=
  Claims.CopyCommandsIssue ∧ Claims.CopyDescriptorFields

/-- How a checked matrix command issues (R207, R216): it enters the core's matrix queue at the end, behind the accesses that a
command must follow, and is its slot's newest command (R219); while 8 stand there the thread stalls. -/
def Sys2Proof.Claims.MatrixIssues (i : Instr) (fn : Nat) (o : Ops) (s : State) (c : MxCmd) : Prop :=
  let k := coreOf s.me
  ((s.core k).mx.length < 8 → Issues i s (plain 0x18 fn o s) (fun t =>
    (t.core k).mx = (s.core k).mx ++ [{ c with after := s.mustFollow s.me .command }] ∧
    (∀ n, lookAt MxNewest.none (t.core k).newest n =
      if n = c.slot then ⟨c.id, 0, c.total, .queued⟩ else lookAt MxNewest.none (s.core k).newest n) ∧
    { t.core k with mx := (s.core k).mx, newest := (s.core k).newest } = s.core k ∧ (∀ d, d ≠ k → t.core d = s.core d) ∧
    { t with threads := s.threads, cores := s.cores, nextId := s.nextId } = s)) ∧
  (8 ≤ (s.core k).mx.length → Waits i s .stalled .matrixRoom)

/-- MXU.MMA, BLK, SCA, ZERO, XFER and LOAD (R199 to R206): a slot at or above the partition's count raises POOL; an operand
address or stride that is not a multiple of 16 raises ALIGN with the address, or with 0 where only the stride is at fault (R134; log 21);
a row stride shorter than the row raises ILLEGAL
for XFER and LOAD; the first granule that the core may not reach raises its fault; else the command is queued with its
operands as they are at issue. -/
def Obligations.MatrixCommandsIssue : Prop :=
  ∀ (o : Ops) (s : State), s.cur.raised = none →
    let t := s.cur
    let a := t.xr o.a
    let b := t.xr o.b
    let part := (s.core (coreOf s.me)).part
    let astr := strideOf (t.xr o.c) false
    let bstr := strideOf (t.xr o.c) true
    let str := strideOf b false
    let stop := fun (i : Instr) (fn : Nat) (f : FaultCode) (fld : Nat) (d : Word) => Stops i s f fld d (plain 0x18 fn o s).pend
    let slot := mxSlot o < partAcc part
    let at' := fun (w : Word) => if w.toNat % 16 ≠ 0 then w else 0
    (∀ e ∈ [(0x01, Instr.mxuMma o), (0x02, Instr.mxuBlk o)], Ready 0x18 e.1 o s →
      let gs := rowGranules a astr 128 (mxK o * o.ty.width / 8) ++ rowGranules b bstr (mxK o) (128 * (mxBty o).width / 8)
      let aok := a.toNat % 16 = 0 ∧ astr.toNat % 16 = 0
      let bok := b.toNat % 16 = 0 ∧ bstr.toNat % 16 = 0
      (¬ slot → stop e.2 e.1 .pool 0 0) ∧ (slot → ¬ aok → stop e.2 e.1 .align 0 (at' a)) ∧
      (slot → aok → ¬ bok → stop e.2 e.1 .align 0 (at' b)) ∧
      (∀ f x, slot → aok → bok → granuleFault part gs = some (f, x) → stop e.2 e.1 f 0 x) ∧
      (slot → aok → bok → granuleFault part gs = none → MatrixIssues e.2 e.1 o s { mxBase e.1 o s with
        bty := mxBty o, btyCode := o.fld 35 4, zc := mxZc o, aaddr := a, baddr := b, astr := astr, bstr := bstr, total := mxK o })) ∧
    (Ready 0x18 0x03 o s →
      (¬ (slot ∧ mxPslot o < partAcc part) → stop (.mxuSca o) 0x03 .pool 0 0) ∧
      (slot → mxPslot o < partAcc part → MatrixIssues (.mxuSca o) 0x03 o s
        { mxBase 0x03 o s with pslot := mxPslot o, sa := t.sr o.a, sb := t.sr o.b })) ∧
    (Ready 0x18 0x04 o s → (¬ slot → stop (.mxuZero o) 0x04 .pool 0 0) ∧
      (slot → MatrixIssues (.mxuZero o) 0x04 o s (mxBase 0x04 o s))) ∧
    (∀ e ∈ [(0x05, Instr.mxuXfer o), (0x06, Instr.mxuLoad o)], Ready 0x18 e.1 o s →
      let bytes := 128 * mxEb (mxWide o) o.ty
      let gs := rowGranules a str (mxNrow o + 1) bytes
      let aok := a.toNat % 16 = 0 ∧ str.toNat % 16 = 0
      (¬ slot → stop e.2 e.1 .pool 0 0) ∧ (slot → ¬ aok → stop e.2 e.1 .align 0 (at' a)) ∧
      (slot → aok → str.toInt.natAbs < bytes → stop e.2 e.1 .illegal 6 0) ∧
      (∀ f x, slot → aok → bytes ≤ str.toInt.natAbs → granuleFault part gs = some (f, x) → stop e.2 e.1 f 0 x) ∧
      (slot → aok → bytes ≤ str.toInt.natAbs → granuleFault part gs = none → MatrixIssues e.2 e.1 o s
        { mxBase e.1 o s with wide := mxWide o, sat := o.sat, aaddr := a, astr := str, total := mxNrow o + 1,
                              row0 := mxRow0 o, nrow := mxNrow o }))

/-- CPY.JOIN and WAIT (R192): JOIN enters every queue of QMASK, or stalls while one of them is full; WAIT goes on once every
copy of the thread in the queues of QMASK is over or checkpointed, and parks until then. -/
def Sys2Proof.Claims.CopyJoinAndWait : Prop :=
  ∀ (o : Ops) (s : State),
    let k := coreOf s.me
    let qs := [0, 1, 2, 3].filter (fun q => o.qmask.testBit q)
    let c := { copyBase 0x06 o s 0 0 0 with qmask := o.qmask, after := s.mustFollow s.me .command }
    (Ready 0x0C 0x06 o s →
      ((∀ q ∈ qs, (s.copyQueue k q).length < 8) → Issues (.cpyJoin o) s (plain 0x0C 0x06 o s) (fun t =>
        (∀ q, t.copyQueue k q = if q ∈ qs then s.copyQueue k q ++ [c] else s.copyQueue k q) ∧
        (∀ d, d ≠ k → t.core d = s.core d) ∧ { t.core k with copies := (s.core k).copies } = s.core k ∧
        { t with threads := s.threads, cores := s.cores, nextId := s.nextId } = s)) ∧
      ((∃ q ∈ qs, 8 ≤ (s.copyQueue k q).length) → Waits (.cpyJoin o) s .stalled (.copyRoom o.qmask false))) ∧
    (Ready 0x0C 0x07 o s →
      (s.copiesDone s.me o.qmask = true → Acts (.cpyWait o) s (plain 0x0C 0x07 o s) (fun _ => True)) ∧
      (s.copiesDone s.me o.qmask = false → Waits (.cpyWait o) s .parked (.copies o.qmask)))

/-- MXU.WAIT (R207) goes on when none of the commands that stood in the queue and that it names is left, this thread's for
SMASK 0, else those that name a slot of SMASK, and parks until then; a slot that is not there raises POOL. MXU.PROG (R219)
leaves D pending with the progress word of its slot. -/
def Sys2Proof.Claims.MatrixWaitAndProgress : Prop :=
  ∀ (o : Ops) (s : State), s.cur.raised = none →
    let k := s.core (coreOf s.me)
    let slots := partAcc k.part
    let named := fun (c : MxCmd) =>
      if mxSmask o = 0 then c.tid = s.me
      else (mxSmask o).testBit c.slot = true ∨ (c.fn = 3 ∧ (mxSmask o).testBit c.pslot = true)
    (Ready 0x18 0x07 o s →
      ((∃ n, n < 5 ∧ (mxSmask o).testBit n = true ∧ slots ≤ n) → Stops (.mxuWait o) s .pool 0 0 s.cur.pend) ∧
      ((∀ n, n < 5 → (mxSmask o).testBit n = true → n < slots) → (∀ ids, s.cur.wait ≠ some (.matrix ids)) →
        ((∀ c ∈ k.mx, ¬ named c) → Acts (.mxuWait o) s (plain 0x18 0x07 o s) (fun _ => True)) ∧
        ((∃ c ∈ k.mx, named c) → ∃ ids, Waits (.mxuWait o) s .parked (.matrix ids) ∧
          ∀ c ∈ k.mx, named c → c.id ∈ ids)) ∧
      (∀ ids, (∀ n, n < 5 → (mxSmask o).testBit n = true → n < slots) → s.cur.wait = some (.matrix ids) →
        (∀ c ∈ k.mx, c.id ∉ ids) → Acts (.mxuWait o) s (plain 0x18 0x07 o s) (fun _ => True))) ∧
    (∀ d, o.d = .x d → Ready 0x18 0x08 o s →
      (slots ≤ mxSlot o → Stops (.mxuProg o) s .pool 0 0 (plain 0x18 0x08 o s).pend) ∧
      (mxSlot o < slots → Requests (.mxuProg o) 0x18 0x08 o s (.x d)
        (s.newAccess .load (some (.x d)) (.word (s.mxWord (coreOf s.me) (mxSlot o))) false false false [] [])))

/-- JOIN, WAIT and PROG: what is waited for and what is told. -/
def Obligations.CopyAndMatrixWaits : Prop :=
  Claims.CopyJoinAndWait ∧ Claims.MatrixWaitAndProgress

/-! ## Cues -/

/-- R322: tags compare lexically, (t1, m1) below (t2, m2) when t1 is below t2, or when they are equal and m1 is below m2; the
release key of a cue compares (t, m, SRC, SEQ) in that order, every part unsigned. Stated for two cues that are neither a
launch cue nor delivered late (R325, R326), which come before all others. -/
def Obligations.TagOrder : Prop :=
  (∀ (t1 t2 : Word) (m1 m2 : BitVec 16), lexLt (tagKey t1 m1) (tagKey t2 m2) = true ↔
    (t1.toNat < t2.toNat ∨ (t1.toNat = t2.toNat ∧ m1.toNat < m2.toNat))) ∧
  (∀ c d : Cue, c.msg.isLaunch = false → d.msg.isLaunch = false → c.first = false → d.first = false →
    (lexLt c.key d.key = true ↔
      (c.msg.tagT.toNat < d.msg.tagT.toNat ∨ (c.msg.tagT.toNat = d.msg.tagT.toNat ∧
        (c.msg.tagM.toNat < d.msg.tagM.toNat ∨ (c.msg.tagM.toNat = d.msg.tagM.toNat ∧
          (c.msg.src.toNat < d.msg.src.toNat ∨ (c.msg.src.toNat = d.msg.src.toNat ∧
            c.msg.seq.toNat < d.msg.seq.toNat))))))))

/-- TAGOF (R327): an offset of 0 is the base tag, and MICROSTEP where its microstep has run over; any other offset adds to the
base time with microstep 0, and MICROSTEP where the sum leaves 64 bits. -/
def Sys2Proof.Claims.TagOfAPost : Prop :=
  ∀ (t : Thread) (d : Word),
    (d = 0 → t.baseOver = false → tagOf t d = some (t.baseT, t.baseM)) ∧
    (d = 0 → t.baseOver = true → tagOf t d = none) ∧
    (d ≠ 0 → t.baseT.toNat + d.toNat < 2 ^ 64 → ∃ u, tagOf t d = some (u, 0) ∧ u.toNat = t.baseT.toNat + d.toNat) ∧
    (d ≠ 0 → 2 ^ 64 ≤ t.baseT.toNat + d.toNat → tagOf t d = none)

/-- The four posting instructions (R327, R331, R337, R340): the payload checks, the target, the port, the tag and the late
send to a thread of another package, in that order; else, once the thread's own earlier writes to the payload are performed, one cue is on its way with the
target, the tag, the port, the payload bytes, the sender's index and its post counter, and the counter advances. The tag of a TIMER is
(A, 0) where A lies above the current tag time, else TAGOF(0); that of the others TAGOF(C). POSTB sends its payload as WIRE converts it
(R338). The cue leaves once what a post must follow is over. No register changes, and no byte of any memory. -/
def Sys2Proof.Claims.PostsSendACue : Prop :=
  ∀ (o : Ops) (s : State), s.cur.raised = none →
    let t := s.cur
    let k := coreOf s.me
    ∀ e ∈ [(0x01, PostKind.post, Instr.cuePost o), (0x02, .postb, .cuePostb o), (0x03, .self, .cueSelf o),
           (0x04, .timer, .cueTimer o)], Ready 0x1C e.1 o s →
      let i := e.2.2
      let kind := e.2.1
      let pend := (plain 0x1C e.1 o s).pend
      let target := if e.1 ≤ 2 then (t.xr o.a).toNat else t.gidx
      let n := if e.1 = 2 then 16 * (cueNg o + 1) else cueLen o
      let b := t.xr o.b
      let even := n = 0 ∨ e.1 ≠ 2 ∨ b.toNat % 16 = 0
      let inPool := n = 0 ∨ (spaceOf b = .own ∧ checkAddr (s.core k).part b n = none)
      let port := portOk (s.handlerOf s.me (cuePort o)) kind n = true
      let there := (s.clearPending (isMarker 0x1C e.1 o)).placedTid t.launch target
      let posts : Option (Word × BitVec 16) :=
        if e.1 = 4 then (if t.tagT.toNat < (t.xr o.a).toNat then some (t.xr o.a, 0) else tagOf t 0) else tagOf t (t.xr o.c)
      (¬ even → Stops i s .align 0 b pend) ∧
      (even → ¬ inPool → Stops i s .pool 0 b pend) ∧
      (even → inPool → threadCount s.tree ≤ target → Stops i s .prot 0 (BitVec.ofNat 64 target) pend) ∧
      (even → inPool → target < threadCount s.tree → ¬ port → Stops i s .illegal 10 0 pend) ∧
      (even → inPool → target < threadCount s.tree → port → posts = none → Stops i s .microstep 0 0 pend) ∧
      (∀ tag, even → inPool → target < threadCount s.tree → port → posts = some tag →
        (there = none → tag.1.toNat < s.logical t.launch.asid → Stops i s .latesend 0 tag.1 pend) ∧
        ((there ≠ none ∨ s.logical t.launch.asid ≤ tag.1.toNat) →
          (n = 0 ∨ s.ownReadReady s.me (poolOff b) n = true) →
          Issues i s { plain 0x1C e.1 o s with rest := restOf { t with postCtr := t.postCtr + 1 } } (fun u =>
            ∃ c : Cue, u.cues = s.cues ++ [c] ∧ c.id = s.nextId ∧ c.place = .inFlight ∧
              c.after = s.mustFollow s.me .post ∧ c.sender = none ∧
              c.msg.launch = t.launch ∧ c.msg.target = target ∧ c.msg.tagT = tag.1 ∧ c.msg.tagM = tag.2 ∧
              c.msg.port = BitVec.ofNat 8 (cuePort o) ∧ c.msg.src = BitVec.ofNat 32 t.gidx ∧ c.msg.seq = t.postCtr ∧
              c.msg.len = n ∧ c.msg.block = decide (e.1 = 2) ∧ c.msg.isLaunch = false ∧
              c.msg.payload = (if e.1 = 2 then wireBytes (cueWire o) (t.mode o.rnd false) o.sat (s.poolRead k (poolOff b) n)
                else s.poolRead k (poolOff b) n) ∧
              c.msg.wire = (if e.1 = 2 then BitVec.ofNat 2 (cueWire o) else 0) ∧ BytesKept s u ∧
              { u with threads := s.threads, cues := s.cues, nextId := s.nextId } =
                if n = 0 then s else s.ownServed s.me (poolOff b) n)))

/-- The posting instructions: the tag of a post, the checks, and the cue that is sent. -/
def Obligations.Posts : Prop :=
  Claims.TagOfAPost ∧ Claims.PostsSendACue

/-- A barrier as a release leaves it (R385). -/
def Sys2Proof.Claims.released (b : Barrier) : Barrier :=
  { b with arrived := [], sense := !b.sense, phase := b.phase + 1, retried := false, elapsed := 0, due := none }

/-- CUE.END (R315, R342): the handler is over, its budget and base tag are gone, the thread sleeps, or its first cue is
released at once where it may be and no fault waits to be raised; no other cue changes, and the PC stays. CUE.NOW leaves D pending with the logical clock, or with the time in ns
(R344). CUE.TAG replaces the base tag by one above the current tag (R341). CUE.INFO and HZN give an item of the prompter and
the time at which a tag becomes safe (R343, R344). -/
def Obligations.HandlerInstructions : Prop :=
  ∀ (o : Ops) (s : State), s.cur.raised = none →
    let t := s.cur
    let asid := t.launch.asid
    (Ready 0x1C 0x05 o s → ∃ u, exec (.cueEnd o) s = .next u ∧ u.cur.status = .asleep ∧ u.cur.inHandler = false ∧
      u.cur.budget = none ∧ u.cur.baseT = 0 ∧ u.cur.baseM = 0 ∧ u.cur.pc = t.pc ∧ u.cur.pend = 0 ∧
      RegsKept t u.cur [] ∧ (∀ v, v ≠ s.me → u.thread v = s.thread v) ∧
      { u with threads := s.threads, cues := s.cues } = s ∧
      (({ u with cues := s.cues } : State).releasable s.me = none → u.cues = s.cues) ∧ (t.reports ≠ [] → u.cues = s.cues) ∧
      (∀ c, ({ u with cues := s.cues } : State).releasable s.me = some c → t.reports = [] →
        u.cues = s.cues.map (fun k => if k.id = c.id then { k with place := .released s.me } else k))) ∧
    (∀ d, o.d = .x d → Ready 0x1C 0x06 o s → Requests (.cueNow o) 0x1C 0x06 o s (.x d)
      (s.newAccess .load (some (.x d)) (.word (if o.fld 22 1 = 1 then s.time - (s.ctx asid).delta
        else BitVec.ofNat 64 (s.logical asid))) false false false [] [])) ∧
    (Ready 0x1C 0x07 o s →
      let a := t.xr o.a
      let b := (t.xr o.b).toNat
      let above := t.tagT.toNat < a.toNat ∨ (t.tagT.toNat = a.toNat ∧ t.tagM.toNat < b)
      (65536 ≤ b → Stops (.cueTag o) s .microstep 0 0 (plain 0x1C 0x07 o s).pend) ∧
      (b < 65536 → ¬ above → Stops (.cueTag o) s .latesend 0 a (plain 0x1C 0x07 o s).pend) ∧
      (b < 65536 → above → Acts (.cueTag o) s { plain 0x1C 0x07 o s with
        rest := restOf { t with baseT := a, baseM := BitVec.ofNat 16 b, baseOver := false } } (fun _ => True))) ∧
    (∀ d, o.d = .x d → Ready 0x1C 0x08 o s → WritesX (.cueInfo o) 0x1C 0x08 o s d (s.cueItem (o.fld 22 4))) ∧
    (∀ d, o.d = .x d → Ready 0x1C 0x09 o s → WritesX (.cueHzn o) 0x1C 0x09 o s d
      (BitVec.ofNat 64 (min ((t.xr o.a).toNat + s.horizon s.me) (2 ^ 64 - 1))))

/-! ## Chains, barriers, groups, queues -/

/-- ACC.CHAIN (R359 to R361), once the thread's own earlier writes to its descriptor are performed: the checks in order; else
a closed entry of the tile's table opens with the descriptor's fields, D is its handle, JOIN goes to the consumer (a member or
relay), and the completion cue is reserved where one is asked for. No byte of any memory changes. -/
def Obligations.ChainOpens : Prop :=
  ∀ (o : Ops) (s : State) (x : BitVec 7), o.d = .x x → s.cur.raised = none → Ready 0x1D 0x01 o s →
    let t := s.cur
    let a := t.xr o.a
    let tile := tileOf (coreOf s.me)
    let part := (s.core (coreOf s.me)).part
    let bytes := s.poolRead (coreOf s.me) (poolOff a) 64
    let d := chainDescOf bytes
    let stop := fun (f : FaultCode) (fld : Nat) (w : Word) => Stops (.accChain o) s f fld w (plain 0x1D 0x01 o s).pend
    let own := spaceOf a = .own ∧ checkAddr part a 64 = none
    let ready := s.ownReadReady s.me (poolOff a) 64 = true
    let slots := d.slotsBad (partAcc part) = false
    let word := d.role ≠ 2 ∨ (d.cword.toNat % 16 = 0 ∧ spaceOf d.cword = .own ∧ checkAddr part d.cword 16 = none)
    let port := d.cue = false ∨ s.handlerOf s.me d.cport ≠ none
    let late := d.cue = true ∧ lexLt (tagKey t.tagT t.tagM) (tagKey d.ctagT d.ctagM) = false
    (¬ own → stop .pool 0 a) ∧ (own → a.toNat % 64 ≠ 0 → stop .align 0 a) ∧
    (own → a.toNat % 64 = 0 → ready →
      let stop := fun (f : FaultCode) (fld : Nat) (w : Word) =>
        StopsFrom (.accChain o) s (s.ownServed s.me (poolOff a) 64) f fld w (plain 0x1D 0x01 o s).pend
      (s.depth s.me ≤ o.scope → stop .level 0 0) ∧
      (o.scope < s.depth s.me →
        (d.valid = false → stop .illegal 0 0) ∧
        (d.valid = true → ¬ slots → stop .pool 0 0) ∧
        (d.valid = true → slots → d.role = 2 → d.cword.toNat % 16 ≠ 0 → stop .align 0 d.cword) ∧
        (d.valid = true → slots → d.role = 2 → d.cword.toNat % 16 = 0 → ¬ word → stop .pool 0 d.cword) ∧
        (d.valid = true → slots → word → ¬ port → stop .illegal 10 0) ∧
        (d.valid = true → slots → word → port → late → stop .latesend 0 d.ctagT) ∧
        (∀ c, d.valid = true → slots → word → port → ¬ late → s.busyCheck d o.scope = some c →
          stop .chainBusy 0 (BitVec.ofNat 64 c)) ∧
        (d.valid = true → slots → word → port → ¬ late → s.busyCheck d o.scope = none →
          ∃ i off, (s.chain tile i).state = .closed ∧
            Issues (.accChain o) s { plain 0x1D 0x01 o s with
              regs := [.x x],
              rest := restOf { t with postCtr := t.postCtr + if d.cue then 1 else 0 } } (fun u =>
              u.cur.getX x = (if x = 0 then 0 else BitVec.ofNat 64 (i + d.chain * 2 ^ 6 + d.role * 2 ^ 22)) ∧
              u.chain tile i = { s.chainEntry d o.scope off bytes (if d.cue then some s.nextId else none) with handle := i } ∧
              (∀ t' j, (t' ≠ tile ∨ j ≠ i) → u.chain t' j = s.chain t' j) ∧
              (if d.role = 2 then u.chainMsgs = s.chainMsgs else ∃ m, u.chainMsgs = s.chainMsgs ++ [m] ∧
                m.toCore = d.nextCore ∧ m.fromTile = tile ∧ m.fromEntry = i ∧ m.chain = d.chain ∧ m.src = d.member ∧
                m.kind = .join d.rule d.w d.row0 d.nrows d.nmem d.member (coreOf s.me)) ∧
              (d.cue = true → ∃ q, u.cues = s.cues ++ [q] ∧ q.id = s.nextId ∧ q.place = .reserved s.me) ∧
              BytesKept s u))))

/-- ACC.SEND (R355, R357, R363): a handle that names no entry of this thread raises CHAIN.ABSENT, strips past the last ILLEGAL, a broken
entry CHAIN.BROKEN; else the strips are declared. An acknowledged source whose writers, and the accesses that the SEND follows, are over
puts every declared strip on the chorus network with the words of its slot, unless its consumer is a relay; a relay a strip that it
declares and whose predecessor's stands in its buffer, with the sums; a target none. Once every strip is declared, each joined member
that has none gets its ACK. ACC.STAT (R365) leaves D
pending with the status word, 0 for a handle that names nothing; a broken entry it closes, whichever thread holds it. ACC.BREAK (R369, R370)
closes this thread's entry, an open one with a BREAK of CAUSE 3 to its consumer and to every member that joined, and does nothing on any
other handle. -/
def Obligations.ChainInstructions : Prop :=
  ∀ (o : Ops) (s : State), s.cur.raised = none →
    let a := s.cur.xr o.a
    let tile := tileOf (coreOf s.me)
    let mine := fun (i : Nat) (e : ChainEntry) => s.named a = some (i, e) ∧ e.tid = s.me
    let word := fun (x : BitVec 7) (w : Word) => s.newAccess .load (some (.x x)) (.word w) false false false [] []
    let shown := fun (ms : List ChainMsg) =>
      ms.map (fun m => (m.kind, m.asid, m.chain, m.src, m.fromTile, m.fromEntry, m.toCore, m.toEntry))
    (Ready 0x1D 0x02 o s →
      let stop := fun (f : FaultCode) (fld : Nat) => Stops (.accSend o) s f fld 0 (plain 0x1D 0x02 o s).pend
      ((∀ i e, ¬ mine i e) → stop .chainAbsent 0) ∧
      (∀ i e, mine i e → e.nrows / 8 < accFirst o + accStrips o → stop .illegal 10) ∧
      (∀ i e, mine i e → accFirst o + accStrips o ≤ e.nrows / 8 → e.state = .broken → stop .chainBroken 0) ∧
      (∀ i e, mine i e → accFirst o + accStrips o ≤ e.nrows / 8 → e.state ≠ .broken →
        Issues (.accSend o) s (plain 0x1D 0x02 o s) (fun t => BytesKept s t ∧ (t.chain tile i).firstSend = true ∧
          (∀ k, k < 16 → (t.chain tile i).decl.getLsbD k =
            (e.decl.getLsbD k || decide (accFirst o ≤ k ∧ k < accFirst o + accStrips o))) ∧
          (∀ t' j, (t' ≠ tile ∨ j ≠ i) → t.chain t' j = s.chain t' j) ∧
          (let first := accFirst o
           let ks := (List.range (accStrips o)).map (fun k => (first + k, false))
           let e' := e.send (ks.map Prod.fst) s.cur.pc ((s.core e.core).mx.map (fun c => c.id)) (s.mustFollow s.me .send)
           let strip := fun (k : Nat) (replay : Bool) (flags : Nat) (data : List (BitVec 32)) =>
             (⟨tileOf e.next, e.nextEntry, e.member, k, replay, flags, tile, i, data, 0, false⟩ : Strip)
           let open' := e.ackIn = true ∧ s.halted e.asid = false ∧ s.writersDone e' = true ∧ s.allDone e'.after = true ∧
             s.toRelay e = false
           let acks := e.joined.filter (fun m => !e.acked.contains m.1)
           let all := e'.decl &&& e.allStrips = e.allStrips
           (e.role = 0 → open' → e.toSend.length ≤ 16 →
             t.strips = s.strips ++ (e.toSend ++ ks).map (fun p => strip p.1 p.2 0 (s.ownStrip e p.1))) ∧
           (∀ k fl rp ws, e.role = 1 → open' → e.toSend = [] → accStrips o = 1 →
             e.staged.find? (fun q => q.1 = first) = some (k, fl, rp, ws) →
             let r := addWords ws (s.ownStrip e first)
             t.strips = s.strips ++ [strip first false (orF fl r.2) r.1]) ∧
           (e.role = 2 ∨ e.ackIn = false ∨ s.writersDone e' = false ∨ s.allDone e'.after = false → t.strips = s.strips) ∧
           (¬ all → t.chainMsgs = s.chainMsgs) ∧
           (all → s.allDone e'.after = true → s.halted e.asid = false → ∃ ms, t.chainMsgs = s.chainMsgs ++ ms ∧
             shown ms = acks.map (fun m => (.ack, e.asid, e.chain, e.member, tile, i, m.2.1 * 8, some m.2.2))))))) ∧
    (∀ x, o.d = .x x → Ready 0x1D 0x03 o s →
      (s.named a = none → Requests (.accStat o) 0x1D 0x03 o s (.x x) (word x 0)) ∧
      (∀ i e, s.named a = some (i, e) → e.state ≠ .broken →
        Requests (.accStat o) 0x1D 0x03 o s (.x x) (word x e.statWord)) ∧
      (∀ i e, s.named a = some (i, e) → e.state = .broken →
        Issues (.accStat o) s { plain 0x1D 0x03 o s with pend := withBit (plain 0x1D 0x03 o s).pend (.x x) } (fun t =>
          t.accs = s.accs ++ [{ word x e.statWord with id := s.nextId }] ∧ t.chain tile i = ChainEntry.free ∧
          BytesKept s t))) ∧
    (Ready 0x1D 0x04 o s →
      ((∀ i e, ¬ mine i e) → Acts (.accBreak o) s (plain 0x1D 0x04 o s) (fun _ => True)) ∧
      (∀ i e, mine i e → s.chain tile i = e → Issues (.accBreak o) s (plain 0x1D 0x04 o s) (fun t =>
        t.chain tile i = ChainEntry.free ∧ (∀ t' j, (t' ≠ tile ∨ j ≠ i) → t.chain t' j = s.chain t' j) ∧
        (e.role ≠ 2 ∨ e.state = .broken → BytesKept s t) ∧
        (e.role = 2 → e.state ≠ .broken → BytesKeptBut s t e.core (poolOff e.cword) 16) ∧
        t.strips = s.strips.filter (fun p => !(p.tile = tile && p.entry = i)) ∧
        (e.state = .broken → t.chainMsgs = s.chainMsgs) ∧
        (e.state ≠ .broken → ∃ ms, t.chainMsgs = s.chainMsgs ++ ms ∧
          shown ms = (if e.role = 2 then []
              else [(.brk 3, e.asid, e.chain, e.member, tile, i, e.next, if e.state = .joining then none else some e.nextEntry)]) ++
            e.joined.map (fun m => (.brk 3, e.asid, e.chain, e.member, tile, i, m.2.1 * 8, some m.2.2))))))

/-- The thread's barrier entries with the one for a barrier made where it has none, and changed (R380). -/
def Sys2Proof.Claims.membersAfter (t : Thread) (level obj : Nat) (f : Member → Member) : List Member :=
  (t.members ++ (if (t.member level obj).isSome then [] else [newMember level obj false])).map (fun e =>
    if e.level = level && e.obj = obj then f e else e)

/-- The barrier has its entry at its home tile, or there is a free one; of a home tile on another package the answer has come (R378). -/
def Sys2Proof.Claims.BarEntry (o : Ops) (s : State) : Prop :=
  let key := s.barKey o.scope (barObj o)
  let home := s.myHome key
  if home.1 = s.pkg then (s.tile home.2).barRoom key = true else s.cur.barAsk = some (o.scope, barObj o, true)

/-- A BAR instruction stalls for an entry at its home tile (R378): with the table full there; with a home tile on another package until
its answer comes, which is asked for once. -/
def Sys2Proof.Claims.BarStalls (i : Instr) (o : Ops) (s : State) : Prop :=
  let n := barObj o
  let key := s.barKey o.scope n
  let home := s.myHome key
  (home.1 = s.pkg → (s.tile home.2).barRoom key = false → Waits i s .stalled (.barRoom o.scope n)) ∧
  (home.1 ≠ s.pkg → s.cur.barAsk = some (o.scope, n, false) → Waits i s .stalled (.barRoom o.scope n)) ∧
  (home.1 ≠ s.pkg → s.cur.barAsk ≠ some (o.scope, n, false) → s.cur.barAsk ≠ some (o.scope, n, true) → ∃ u,
    exec i s = .next u ∧ u.barMsgs = s.barMsgs ++ [⟨s.nextId, .ask key s.myId, []⟩] ∧ u.cur.barAsk = some (o.scope, n, false) ∧
    u.cur.status = .stalled ∧ u.cur.wait = some (.barRoom o.scope n) ∧ u.cur.pc = s.cur.pc ∧ RegsKept s.cur u.cur [] ∧
    (∀ v, v ≠ s.me → u.thread v = s.thread v) ∧ { u with threads := s.threads, barMsgs := s.barMsgs, nextId := s.nextId } = s)

/-- The first checks of every BAR instruction (R382): a level outside the tree or below the thread level raises LEVEL, one
above the residence level BAR.QUEUED. -/
def Sys2Proof.Claims.BarrierLevelChecks : Prop :=
  ∀ (o : Ops) (s : State), s.cur.raised = none →
    ∀ e ∈ [(0x01, Instr.barInit o), (0x02, .barArrive o), (0x03, .barWait o), (0x04, .barSync o), (0x05, .barLine o),
           (0x06, .barDrop o)], Ready 0x1E e.1 o s → (e.1 = 0x04 → s.cur.wait ≠ some (.barrier o.scope (barObj o))) →
      ((s.depth s.me ≤ o.scope ∨ o.scope < threadLevel s.tree) → Stops e.2 s .level 0 0 (plain 0x1E e.1 o s).pend) ∧
      (threadLevel s.tree ≤ o.scope → o.scope < s.depth s.me → s.residence < o.scope →
        Stops e.2 s .barQueued 0 0 (plain 0x1E e.1 o s).pend)

/-- BAR.ARRIVE, SYNC and WAIT (R378, R380, R383, R386, R388) at a level that passes R382. ARRIVE and SYNC stall while the home tile has no
entry for the barrier. A second arrival of the phase raises BAR.OVERRUN with DATA 1, a ninth entry with DATA 2, an arrival
after a drop with DATA 3; else the thread drains at that level (R184), parking while an earlier write in its extent is not
acknowledged, and then a FENCE ar holds, one arrival is on its way to the home tile, behind what an arrive must follow, and the
thread's entry is arrived. ARRIVE goes on; SYNC parks. WAIT parks on an arrived entry; on any other it writes the status of the
released phase, 4 for a dropped member and 2 for one that has not arrived.
Where an ARRIVE waits, and the words of a WAIT without an arrival, are read by inference (logs 55 and 56). -/
def Sys2Proof.Claims.BarrierArrivesAndWaits : Prop :=
  ∀ (o : Ops) (s : State), s.cur.raised = none → s.barFault o = none →
    let t := s.cur
    let n := barObj o
    let key := s.barKey o.scope n
    let room := BarEntry o s
    let overrun := fun (i : Instr) (fn : Nat) (d : Word) => Stops i s .barOverrun 0 d (plain 0x1E fn o s).pend
    let arrived := { (s.fence 3).cur with
      barAsk := none
      members := membersAfter t o.scope n (fun e => { e with arrived := true, done := false, pc := t.pc }) }
    let bind' := s.bindOf s.me o.scope
    let sent := fun (sense : Bool) (u : State) =>
      u.barMsgs = s.barMsgs ++ [⟨s.nextId, .arrive key s.myId sense, (s.fence 3).mustFollow s.me (.arrive bind')⟩] ∧
      { u with threads := s.threads, barMsgs := s.barMsgs, nextId := s.nextId } = s
    let sense := ((t.member o.scope n).map (fun e => e.sense)).getD false
    let free := ∀ e, t.member o.scope n = some e → e.arrived = false ∧ e.dropped = false
    let full := t.member o.scope n = none ∧ 8 ≤ t.members.length
    let waiting := s.cur.wait = some (.barrier o.scope n)
    (∀ e ∈ [(0x02, Instr.barArrive o), (0x04, Instr.barSync o)], Ready 0x1E e.1 o s → (e.1 = 0x04 → ¬ waiting) → BarStalls e.2 o s) ∧
    (∀ e ∈ [(0x02, Instr.barArrive o), (0x04, Instr.barSync o)], Ready 0x1E e.1 o s → (e.1 = 0x04 → ¬ waiting) → room →
      (∀ m, t.member o.scope n = some m → m.arrived = true → overrun e.2 e.1 1) ∧
      (full → overrun e.2 e.1 2) ∧
      (∀ m, t.member o.scope n = some m → m.arrived = false → m.dropped = true → overrun e.2 e.1 3)) ∧
    (∀ e ∈ [(0x02, Instr.barArrive o), (0x04, Instr.barSync o)], Ready 0x1E e.1 o s → (e.1 = 0x04 → ¬ waiting) → room → free →
      ¬ full → s.drained s.me bind' = false → Waits e.2 s .parked (.drain o.scope 0)) ∧
    (Ready 0x1E 0x02 o s → room → free → ¬ full → s.drained s.me bind' = true →
      Issues (.barArrive o) s { plain 0x1E 0x02 o s with rest := restOf arrived } (sent sense)) ∧
    (Ready 0x1E 0x04 o s → room → free → ¬ full → ¬ waiting → s.drained s.me bind' = true → ∃ u,
      exec (.barSync o) s = .next u ∧ sent sense u ∧
      u.cur.members = arrived.members ∧ u.cur.status = .parked ∧ u.cur.wait = some (.barrier o.scope n) ∧ u.cur.pc = t.pc ∧
      RegsKept t u.cur []) ∧
    (∀ e ∈ [(0x03, Instr.barWait o), (0x04, Instr.barSync o)], Ready 0x1E e.1 o s → (e.1 = 0x04 → waiting) →
      (∀ m, t.member o.scope n = some m → m.arrived = true → Waits e.2 s .parked (.barrier o.scope n)) ∧
      (full → overrun e.2 e.1 2) ∧
      (∀ x, o.d = .x x → ∀ m, t.member o.scope n = some m → m.arrived = false →
        Acts e.2 s { plain 0x1E e.1 o s with
          regs := [.x x],
          rest := restOf { t with members := membersAfter t o.scope n (fun e => { e with done := false }) } }
          (fun u => u.getX x = if x = 0 then 0 else if m.dropped then 4 else if m.done then m.status else 2)) ∧
      (∀ x, o.d = .x x → t.member o.scope n = none → t.members.length < 8 →
        Acts e.2 s { plain 0x1E e.1 o s with
          regs := [.x x], rest := restOf { t with members := t.members ++ [newMember o.scope n false] } }
          (fun u => u.getX x = if x = 0 then 0 else 2)))

/-- BAR: level checks, arrivals and waits. -/
def Obligations.BarrierArrivals : Prop :=
  Claims.BarrierLevelChecks ∧ Claims.BarrierArrivesAndWaits

/-- What a release sends to the members that arrived: the phase that is over, the new sense, and the cycle in which it reaches them (R385,
R390). -/
def Sys2Proof.Claims.releases (key : BarKey) (b : Barrier) (due : Nat) : List BarMsg :=
  b.arrived.map (fun w => .release key w b.phase (!b.sense) false false due)

/-- BAR.INIT, LINE and DROP (R378, R382 to R385, R389, R390). INIT makes the barrier at its home tile with its count (0 for every member,
less those that have departed), timeout and kind, and applies the arrivals that a pending one holds, one by one: with the last that the
count asks for, the phase is released; with a count of 0 it is freed; one already initialised stays as it is. It does so at once where the
tile is on this package and else by a message; a full table there stalls; a count or timeout of more than 32 bits, and a curtain barrier
with a count or above a die, raise ILLEGAL.
LINE binds a curtain barrier of this thread to its rectangle and channel, and applies held arrivals: a full phase is released 40 cycles
later. DROP drains as ARRIVE does, then sends the drop, with the
arrival of the phase withdrawn, and the thread's entry is dropped.
Where a message stands before it is applied is read by inference (log 54). -/
def Obligations.BarrierObjects : Prop :=
  ∀ (o : Ops) (s : State), s.cur.raised = none → s.barFault o = none →
    let t := s.cur
    let n := barObj o
    let key := s.barKey o.scope n
    let home := s.myHome key
    let here := home.1 = s.pkg
    let tab := s.tile home.2
    let a := t.xr o.a
    let b := (t.xr o.b).toNat
    let full := t.member o.scope n = none ∧ 8 ≤ t.members.length
    let count := if a = 0 then threadsBelow (s.levelsOf key.launch) key.level else a.toNat
    let gone := (tab.newBar key).dropped.length
    let told := fun (u : State) (ms : List BarMsg) => ∃ fs : List BarFly, u.barMsgs = s.barMsgs ++ fs ∧ fs.map (fun f => f.msg) = ms
    let freed := (s.barMembers key).map (fun w => BarMsg.freed key w)
    (Ready 0x1E 0x01 o s →
      let bad := fun (f : Nat) => Stops (.barInit o) s .illegal f 0 (plain 0x1E 0x01 o s).pend
      let fits := b < 2 ^ 32 ∧ a.toNat < 2 ^ 32 ∧ (barMode o = true → a = 0 ∧ s.bindOf s.me o.scope < 5)
      (2 ^ 32 ≤ b → bad 6) ∧ (b < 2 ^ 32 → barMode o = true → a ≠ 0 → bad 5) ∧
      (b < 2 ^ 32 → barMode o = true → a = 0 → 5 ≤ s.bindOf s.me o.scope → bad 10) ∧
      (b < 2 ^ 32 → barMode o = false → 2 ^ 32 ≤ a.toNat → bad 5) ∧
      (fits → here → tab.findBar key = none → tab.freeBar ≠ none → gone < count →
        Issues (.barInit o) s (plain 0x1E 0x01 o s) (fun u => BytesKept s u ∧ ∃ i v, i < 64 ∧
          lookAt none (u.tile home.2).bars i = some v ∧ v.key = key ∧ v.init = true ∧ v.curtain = barMode o ∧
          v.bound = false ∧ v.count = count - gone ∧ v.timeout = b ∧ v.maker = some s.myId ∧ v.arrived = [] ∧
          v.sense = false ∧ v.phase = 0 ∧
          ∀ j, j ≠ i → lookAt none (u.tile home.2).bars j = lookAt none tab.bars j)) ∧
      (∀ i v, fits → here → tab.findBar key = some (i, v) → lookAt none tab.bars i = some v → v.init = false → v.bound = false →
        v.arrived.length < count - v.dropped.length →
        Issues (.barInit o) s (plain 0x1E 0x01 o s) (fun u => BytesKept s u ∧ u.barMsgs = s.barMsgs ∧
          lookAt none (u.tile home.2).bars i = some { v with
            init := true, curtain := barMode o, count := count - v.dropped.length, timeout := b, maker := some s.myId })) ∧
      (∀ i v, fits → here → tab.findBar key = some (i, v) → lookAt none tab.bars i = some v → v.init = false → v.bound = false →
        barMode o = false → 0 < count - v.dropped.length → v.arrived.length = count - v.dropped.length →
        let b := { v with init := true, curtain := false, count := count - v.dropped.length, timeout := b, maker := some s.myId }
        Issues (.barInit o) s (plain 0x1E 0x01 o s) (fun u => BytesKept s u ∧ told u (releases key b 0) ∧
          lookAt none (u.tile home.2).bars i = some (released b))) ∧
      (∀ i v, fits → here → tab.findBar key = some (i, v) → v.init = true →
        Acts (.barInit o) s (plain 0x1E 0x01 o s) (fun _ => True)) ∧
      (∀ i v, fits → here → tab.findBar key = some (i, v) → lookAt none tab.bars i = some v → v.init = false →
        count ≤ v.dropped.length → Issues (.barInit o) s (plain 0x1E 0x01 o s) (fun u => BytesKept s u ∧ told u freed ∧
          lookAt none (u.tile home.2).bars i = none)) ∧
      (fits → here → tab.findBar key = none → tab.freeBar ≠ none → count ≤ gone →
        Issues (.barInit o) s (plain 0x1E 0x01 o s) (fun u => BytesKept s u ∧ told u freed ∧
          ∀ j, lookAt none (u.tile home.2).bars j = lookAt none tab.bars j)) ∧
      (fits → BarStalls (.barInit o) o s) ∧
      (fits → ¬ here → BarEntry o s → Issues (.barInit o) s { plain 0x1E 0x01 o s with rest := restOf { t with barAsk := none } } (fun u =>
        u.barMsgs = s.barMsgs ++ [⟨s.nextId, .init key a.toNat b (barMode o) s.myId, []⟩] ∧
        { u with threads := s.threads, barMsgs := s.barMsgs, nextId := s.nextId } = s))) ∧
    (Ready 0x1E 0x05 o s →
      let die := dieOf home.2
      let bad := fun (f : Nat) => Stops (.barLine o) s .illegal f 0 (plain 0x1E 0x05 o s).pend
      (¬ here → bad (if s.lineRectBad key (dieOf (tileOf (coreOf s.me))) a then 5 else 10)) ∧
      (here → s.lineRectBad key die a = true → bad 5) ∧
      (here → s.lineRectBad key die a = false → tab.findBar key = none → bad 10) ∧
      (∀ i v, here → s.lineRectBad key die a = false → tab.findBar key = some (i, v) →
        (v.curtain = false ∨ v.maker ≠ some s.myId ∨ v.bound = true) → bad 10) ∧
      (∀ i v, here → s.lineRectBad key die a = false → tab.findBar key = some (i, v) → v.curtain = true →
        v.maker = some s.myId → v.bound = false →
        (∀ c ∈ s.curtains, c.2.chan = barChan o → dieOf c.1 = die → rectsMeet a c.2.rect = false) →
        let b := { v with bound := true, rect := a, chan := barChan o }
        ((v.init = true → v.arrived.length < v.count) → Issues (.barLine o) s (plain 0x1E 0x05 o s) (fun u => BytesKept s u ∧
          u.barMsgs = s.barMsgs ∧ lookAt none (u.tile home.2).bars i = some b)) ∧
        (v.init = true → v.arrived.length = v.count → 0 < v.count → Issues (.barLine o) s (plain 0x1E 0x05 o s) (fun u => BytesKept s u ∧
          told u (releases key b (s.clock + 40)) ∧ lookAt none (u.tile home.2).bars i = some (released b))))) ∧
    (Ready 0x1E 0x06 o s → BarStalls (.barDrop o) o s) ∧
    (Ready 0x1E 0x06 o s → BarEntry o s →
      (∀ m, t.member o.scope n = some m → m.dropped = true → Acts (.barDrop o) s (plain 0x1E 0x06 o s) (fun _ => True)) ∧
      (full → Stops (.barDrop o) s .barOverrun 0 2 (plain 0x1E 0x06 o s).pend) ∧
      (¬ full → (∀ m, t.member o.scope n = some m → m.dropped = false) → s.drained s.me (s.bindOf s.me o.scope) = false →
        Waits (.barDrop o) s .parked (.drain o.scope 0)) ∧
      (¬ full → (∀ m, t.member o.scope n = some m → m.dropped = false) → s.drained s.me (s.bindOf s.me o.scope) = true →
        Issues (.barDrop o) s { plain 0x1E 0x06 o s with
          rest := restOf { (s.fence 3).cur with barAsk := none, members := membersAfter t o.scope n (fun e =>
            { e with dropped := true, arrived := false, done := false }) } } (fun u =>
          u.barMsgs = s.barMsgs ++ [⟨s.nextId, .drop key s.myId (((t.member o.scope n).map (fun e => e.arrived)).getD false),
            (s.fence 3).mustFollow s.me (.arrive (s.bindOf s.me o.scope))⟩] ∧
          { u with threads := s.threads, barMsgs := s.barMsgs, nextId := s.nextId } = s)))

/-- GRP.ID and SIZE (R304 to R307): coordinates, node indices and sizes of the thread's tree; a level outside it raises LEVEL,
and an x result of ID below the thread level too. GRP.BUDGET (R308) returns the budget left, 0 where there is none, and never
loosens it. GRP.REGS (R309) sets the allotment, or raises REGRANGE; the registers outside it come back as zero; it does not issue
while a fixed-latency result is due in one of them. -/
def Sys2Proof.Claims.GroupInstructions : Prop :=
  ∀ (o : Ops) (s : State), s.cur.raised = none →
    let t := s.cur
    let l := o.scope
    let node := nodeIndex s.tree t.gidx l
    let size := match grpKind o with
      | 0 => siblings s.tree l
      | 1 => nodeCount s.tree l
      | 2 => threadsBelow s.tree l
      | _ => lanesOf s.tree l
    let part := (s.core (coreOf s.me)).part
    (Ready 0x1F 0x01 o s →
      (s.depth s.me ≤ l → Stops (.grpId o) s .level 0 0 (plain 0x1F 0x01 o s).pend) ∧
      (∀ d, o.d = .x d → l < s.depth s.me →
        (l < threadLevel s.tree → Stops (.grpId o) s .level 0 0 (plain 0x1F 0x01 o s).pend) ∧
        (threadLevel s.tree ≤ l → WritesX (.grpId o) 0x1F 0x01 o s d (BitVec.ofNat 64
          (if grpKind o = 0 then (if l + 1 = s.tree.length then 0 else node % fanAt s.tree (l + 1)) else node)))) ∧
      (∀ d, o.d = .v d → l < s.depth s.me → Acts (.grpId o) s { plain 0x1F 0x01 o s with regs := [.v d] } (fun u =>
        ∀ i, i < 16 → elemOf (u.getV d) 32 i =
          (if threadLevel s.tree ≤ l then
            (if grpKind o = 0 then (if l + 1 = s.tree.length then 0 else node % fanAt s.tree (l + 1)) else node)
          else if laneCount s.tree ≤ i then 0xFFFFFFFF
          else if grpKind o = 0 then laneCoord s.tree i l else laneNode s.tree t.gidx i l) % 2 ^ 32))) ∧
    (∀ d, o.d = .x d → Ready 0x1F 0x02 o s →
      (s.depth s.me ≤ l → Stops (.grpSize o) s .level 0 0 (plain 0x1F 0x02 o s).pend) ∧
      (l < s.depth s.me → WritesX (.grpSize o) 0x1F 0x02 o s d (BitVec.ofNat 64 size))) ∧
    (∀ d, o.d = .x d → Ready 0x1F 0x04 o s →
      let a := (t.xr o.a).toNat
      Acts (.grpBudget o) s { plain 0x1F 0x04 o s with
        regs := [.x d],
        rest := restOf { t with budget := if a = 0 then t.budget else some (min a (t.budget.getD a)) } }
        (fun u => u.getX d = if d = 0 then 0 else BitVec.ofNat 64 (t.budget.getD 0))) ∧
    (Ready 0x1F 0x05 o s →
      (8 * partXn part < grpXn o ∨ 8 * partVn part < grpVn o →
        Stops (.grpRegs o) s .regrange 10 0 (plain 0x1F 0x05 o s).pend) ∧
      (grpXn o ≤ 8 * partXn part → grpVn o ≤ 8 * partVn part → (∃ r ∈ s.busyRegs s.me, regBeyond (grpXn o) (grpVn o) r = true) →
        ∃ u, exec (.grpRegs o) s = .next u ∧ OnlyThreads s u ∧ u.cur.pc = t.pc ∧ u.cur.xn = t.xn ∧ u.cur.vn = t.vn ∧
          RegsKept t u.cur []) ∧
      (grpXn o ≤ 8 * partXn part → grpVn o ≤ 8 * partVn part → (∀ r ∈ s.busyRegs s.me, regBeyond (grpXn o) (grpVn o) r = false) →
        ∃ u, exec (.grpRegs o) s = .next u ∧ OnlyThreads s u ∧
        u.cur.xn = grpXn o ∧ u.cur.vn = grpVn o ∧ u.cur.pc = t.pc + 12 ∧
        (∀ n, u.cur.getX n = if n.toNat < grpXn o then t.getX n else 0) ∧
        (∀ n, u.cur.getV n = if n.toNat < grpVn o then t.getV n else 0) ∧
        u.cur.p = t.p ∧ u.cur.k = t.k ∧ u.cur.s = t.s ∧ u.cur.fpflags = t.fpflags ∧
        (∀ v, v ≠ s.me → u.thread v = s.thread v)))

/-- GRP.EXIT (R310, R209): while a matrix or copy command of the thread is not over, it parks; then the thread retires, at the
PC of its EXIT: its cues are dropped, its requests are gone, it leaves its barriers; no other thread changes. -/
def Sys2Proof.Claims.ExitRetires : Prop :=
  ∀ (o : Ops) (s : State), Ready 0x1F 0x03 o s →
    let c := coreOf s.me
    let idle := (∀ m ∈ (s.core c).mx, m.tid ≠ s.me) ∧ (∀ q, q < 4 → ∀ m ∈ s.copyQueue c q, m.tid ≠ s.me)
    (¬ idle → Waits (.grpExit o) s .parked .engines) ∧
    (idle → ∃ u, exec (.grpExit o) s = .next u ∧ u.cur.status = .retired ∧ u.cur.pc = s.cur.pc ∧ u.cur.wait = none ∧
      u.cur.members = [] ∧ (∀ q ∈ u.cues, q.holder ≠ some s.me) ∧ (∀ r ∈ (u.core c).sfu, r.tid ≠ s.me) ∧
      (∀ v, v ≠ s.me → u.thread v = s.thread v) ∧ u.dram = s.dram ∧ u.hostMem = s.hostMem ∧ u.accs = s.accs)

/-- GRP: identity, size, budget, allotment and exit. -/
def Obligations.Groups : Prop :=
  Claims.GroupInstructions ∧ Claims.ExitRetires

/-- QUE (R226, R281 to R284). PUSH checks the packet's place and the queue, waits for the thread's own writes to the packet, stalls
while the ring is full, for a queue that another package reads until that package has granted room (log 83), and gives the 128 bytes to the
memory-side agent: a write stands for it among the thread's accesses, behind what a release must follow. STAT leaves D pending with a load of the queue's
entry (READ or WRITE) or of the prompt book entry of a sequence number, whose place the queue table gives where the queue was never
enabled here. WAIT goes on once that entry is finished, as this package's own records say, or for a queue of another package the prompt
book in memory, and parks until then; a packet that a CLEAR left without an entry never finishes. -/
def Sys2Proof.Claims.QueueInstructions : Prop :=
  ∀ (o : Ops) (s : State), s.cur.raised = none →
    let t := s.cur
    let asid := t.launch.asid
    let qw := t.xr o.a
    let q := qw.toNat
    let pa := t.xr o.b
    let k := s.queue asid q
    let part := (s.core (coreOf s.me)).part
    let known := q < (s.ctx asid).desc.qcount
    (Ready 0x20 0x01 o s →
      let stop := fun (f : FaultCode) (w : Word) => Stops (.quePush o) s f 0 w (plain 0x20 0x01 o s).pend
      let place := spaceOf pa = .own ∧ pa.toNat % 16 = 0 ∧ checkAddr part pa 128 = none
      let open' := known ∧ k.device = true ∧ k.enabled = true
      let ready := s.ownReadReady s.me (poolOff pa) 128 = true
      (spaceOf pa ≠ .own → stop .pool pa) ∧ (spaceOf pa = .own → pa.toNat % 16 ≠ 0 → stop .align pa) ∧
      (spaceOf pa = .own → pa.toNat % 16 = 0 → checkAddr part pa 128 ≠ none → stop .pool pa) ∧
      (place → ¬ open' → stop .prot qw) ∧
      let full := if k.pkg = s.pkg then k.pushRoom = false else k.granted = 0
      (place → open' → ready → full → Waits (.quePush o) s .stalled (.pushRoom q)) ∧
      (place → open' → ready → ¬ full → Issues (.quePush o) s (plain 0x20 0x01 o s) (fun u =>
        ∃ (p : Push) (a : Access), u.queue asid q = { k with pushes := k.pushes ++ [p], granted := k.granted - 1 } ∧
          p.packet = s.poolRead (coreOf s.me) (poolOff pa) 128 ∧ p.origin = s.pkg ∧ p.launch = t.launch ∧ p.gidx = t.gidx ∧
          p.pos = none ∧ p.after = s.mustFollow s.me .release ∧ p.acc = s.nextId ∧ u.accs = s.accs ++ [a] ∧ a.id = s.nextId ∧
          a.op = .push ∧ a.tid = s.me ∧ a.after = p.after ∧ a.dest = none ∧ a.isDone = false ∧
          (∀ b r, queueKey b r ≠ queueKey asid q → u.queue b r = s.queue b r) ∧ BytesKept s u ∧
          { u with threads := s.threads, queues := s.queues, accs := s.accs, nextId := s.nextId } =
            s.ownServed s.me (poolOff pa) 128))) ∧
    (∀ d, o.d = .x d → Ready 0x20 0x02 o s →
      let base := (s.ctx asid).desc.qtable + BitVec.ofNat 64 (64 * q)
      let req := fun (ret : Ret) (va : Word) (n : Nat) => Requests (.queStat o) 0x20 0x02 o s (.x d)
        (s.newAccess .load (some (.x d)) ret false false false (s.mustFollow s.me .load) [mkPart va n 0 []])
      (¬ known → Stops (.queStat o) s .prot 0 qw (plain 0x20 0x02 o s).pend) ∧
      (known → queSel o = 0 → req (.scalar .i64) (base + 16) 8) ∧
      (known → queSel o = 1 → req (.scalar .i64) (base + 24) 8) ∧
      (known → 2 ≤ queSel o → k.nent ≠ 0 → req (.entry pa) (k.pbook + BitVec.ofNat 64 (32 * ((pa.toNat - 1) % k.nent))) 16) ∧
      (∀ bs v, known → 2 ≤ queSel o → k.nent = 0 →
        (s.clearPending (isMarker 0x20 0x02 o)).agentRead asid base 64 = .ok bs v →
        let w := fun (off n : Nat) => leNat ((bs.drop off).take n)
        ∃ u, exec (.queStat o) s = .next u ∧ u.cur.pc = t.pc + 12 ∧ ∃ a ∈ u.accs, a.op = .load ∧ a.tid = s.me ∧ a.dest = some (.x d) ∧
          a.ret = .entry pa ∧ a.parts = [mkPart (BitVec.ofNat 64 (w 32 8) + BitVec.ofNat 64 (32 * ((pa.toNat - 1) % w 8 4))) 16 0 []])) ∧
    (Ready 0x20 0x03 o s →
      (¬ known → Stops (.queWait o) s .prot 0 qw s.cur.pend) ∧
      (known → (pa = 0 ∨ (k.nent ≠ 0 ∧ k.pkg = s.pkg)) →
        let finished := pa = 0 ∨ (pa.toNat - 1 < k.read ∧ k.skips pa = false) ∨ ∃ e ∈ k.entries, e.seq = pa ∧ e.finished = true
        (finished → ∃ u, exec (.queWait o) s = .next u ∧ u.cur.pc = t.pc + 12 ∧ u.cur.wait = none ∧
          RegsKept t u.cur [] ∧ (∀ v, v ≠ s.me → u.thread v = s.thread v) ∧ BytesKept s u) ∧
        (¬ finished → ∃ u, exec (.queWait o) s = .next u ∧ u.cur.status = .parked ∧ u.cur.wait = some (.queue q pa) ∧
          u.cur.pc = t.pc ∧ RegsKept t u.cur [] ∧ BytesKept s u)) ∧
      (∀ bs v, known → pa ≠ 0 → k.nent ≠ 0 → k.pkg ≠ s.pkg → k.skips pa = false →
        s.agentRead asid (k.bookVa (pa.toNat - 1)) 16 = .ok bs v →
        let seq := leNat (bs.take 8)
        let isOver := pa.toNat < seq ∨ (seq = pa.toNat ∧ 2 ≤ leNat ((bs.drop 12).take 1))
        ∃ u, exec (.queWait o) s = .next u ∧ RegsKept t u.cur [] ∧
          (isOver → u.cur.pc = t.pc + 12 ∧ u.cur.wait = none) ∧
          (¬ isOver → u.cur.pc = t.pc ∧ u.cur.status = .parked ∧ u.cur.wait = some (.queue q pa))) ∧
      (known → pa ≠ 0 → k.nent ≠ 0 → k.pkg ≠ s.pkg → k.skips pa = true → ∃ u, exec (.queWait o) s = .next u ∧ u.cur.pc = t.pc ∧
        u.cur.status = .parked ∧ u.cur.wait = some (.queue q pa) ∧ RegsKept t u.cur [] ∧ BytesKept s u))

/-- CTX.YIELD (R260, R261) asks for a pause of a resident context, with its REASON, and parks after itself until the resume.
CTX.INFO (R262) gives an item of the context. PG.PROBE (R411, R412) goes to the home station of its address, and LNK.STAT
(R433, R434) reads the links: each leaves D pending. -/
def Sys2Proof.Claims.ContextPageAndLinkInstructions : Prop :=
  ∀ (o : Ops) (s : State), s.cur.raised = none →
    let t := s.cur
    let asid := t.launch.asid
    let c := s.ctx asid
    let a := t.xr o.a
    let sel := o.fld 22 4
    let item := match sel with
      | 0 => BitVec.ofNat 64 asid
      | 1 => BitVec.ofNat 64 c.desc.tk
      | 2 => BitVec.ofNat 64 ((s.time.toNat - c.delta.toNat) / 2 ^ c.desc.tk)
      | 3 => c.delta
      | 4 => BitVec.ofNat 64 c.epoch
      | 5 => BitVec.ofNat 64 (c.desc.flags % 4)
      | 6 => BitVec.ofNat 64 (c.desc.mxown + c.desc.drown * 2 ^ 16 + c.desc.vcmask % 16 * 2 ^ 32)
      | _ => BitVec.ofNat 64 (c.peers.length + 1)
    (Ready 0x21 0x01 o s → ∃ u, exec (.ctxYield o) s = .next u ∧ u.cur.pc = t.pc + 12 ∧ u.cur.status = .parked ∧
      u.cur.wait = some .yield ∧ u.cur.pend = 0 ∧ RegsKept t u.cur [] ∧ (∀ v, v ≠ s.me → u.thread v = s.thread v) ∧
      BytesKept s u ∧
      (c.state = .resident → (u.ctx asid).state = .pausing ∧ ∃ p, (u.ctx asid).pause = some p ∧ p.reason = o.fld 22 16) ∧
      (c.state ≠ .resident → u.ctx asid = c)) ∧
    (∀ d, o.d = .x d → Ready 0x21 0x02 o s → WritesX (.ctxInfo o) 0x21 0x02 o s d item) ∧
    (∀ d, o.d = .x d → Ready 0x22 0x01 o s →
      ((spaceOf a ≠ .virt ∨ canonicalVa a = false) → Stops (.pgProbe o) s .prot 0 a (plain 0x22 0x01 o s).pend) ∧
      (spaceOf a = .virt → canonicalVa a = true → Requests (.pgProbe o) 0x22 0x01 o s (.x d)
        (s.newAccess .page (some (.x d)) (.scalar .i64) false false false [] [mkPart a 8 0 []]))) ∧
    (∀ d, o.d = .x d → Ready 0x23 0x01 o s →
      ((sel ≤ 1 ∧ 64 ≤ a.toNat) ∨ (sel = 2 ∧ 2047 < a.toNat) →
        Stops (.lnkStat o) s .prot 0 a (plain 0x23 0x01 o s).pend) ∧
      ((sel ≤ 1 → a.toNat < 64) → (sel = 2 → a.toNat ≤ 2047) →
        Requests (.lnkStat o) 0x23 0x01 o s (.x d)
          (s.newAccess .load (some (.x d)) (.word (s.linkWord sel a.toNat)) false false false [] [])))

/-- QUE, CTX, PG and LNK. -/
def Obligations.QueuesAndQueries : Prop :=
  Claims.QueueInstructions ∧ Claims.ContextPageAndLinkInstructions

/-! ## Events: memory -/

/-- VARIABLE-LATENCY RESULT (R79, R80): the result of a wholly performed access reaches its register as its kind says, the
access is over, and the register stays pending; no other register of the thread, no other thread and no byte of memory
changes. STORE ACKNOWLEDGEMENT (R451): the part is acknowledged, and a write without a result is over once all its parts are.
SWITCH-MARKER WAIT ENDS (R312): a waiting thread runs again exactly when what it waits for has come about, and keeps waiting
otherwise; for a marker that is when no result is outstanding. -/
def Sys2Proof.Claims.ResultsAndAcknowledgements : Prop :=
  ∀ (s : State) (acc : Nat) (a : Access),
    (∀ r, s.findAcc acc = some a → a.dest = some r → a.fixed = false → a.parts.all Part.performed = true →
      (s.thread a.tid).ended = false →
      ∃ u, exec (.variableLatencyResult acc) s = .next u ∧ u.findAcc acc = none ∧ BytesKept s u ∧
        (∀ v, v ≠ a.tid → u.thread v = s.thread v) ∧ (u.thread a.tid).pend = (s.thread a.tid).pend ∧
        (u.thread a.tid).pc = (s.thread a.tid).pc ∧ RegsKept (s.thread a.tid) (u.thread a.tid) [r] ∧
        (∀ d ty p ps, r = .x d → a.ret = .scalar ty → a.parts = p :: ps →
          (u.thread a.tid).getX d = if d = 0 then 0 else ext ty p.data) ∧
        (∀ d w, r = .x d → a.ret = .word w → (u.thread a.tid).getX d = if d = 0 then 0 else w) ∧
        (∀ d p ps, r = .p d → a.ret = .pred → a.parts = p :: ps → (u.thread a.tid).getP d = (d = 0 || p.data != [0])) ∧
        (∀ d ty, r = .v d → a.ret = .bytes ty →
          (u.thread a.tid).getV d = patchParts ((s.thread a.tid).getV d) a.parts)) ∧
    (∀ i p, s.findAcc acc = some a → a.parts[i]? = some p → a.op.writes = true → p.stage = .performed →
      ∃ u, exec (.storeAcknowledgement acc i) s = .next u ∧ BytesKept s u ∧
        (∀ b, u.findAcc acc = some b → ∃ q, b.parts[i]? = some q ∧ q.stage = .acked) ∧
        (a.parts = [p] → a.dest = none → u.findAcc acc = none)) ∧
    (∀ tid w b, (s.thread tid).wait = some w → (s.thread tid).status ∈ [.parked, .blocked, .stalled] →
      s.waitOver tid w = .ok b s →
      ∃ u, exec (.switchMarkerWaitEnds tid) s = .next u ∧ BytesKept s u ∧ (∀ v, v ≠ tid → u.thread v = s.thread v) ∧
        (u.thread tid).status = (if b then .running else (s.thread tid).status) ∧ (u.thread tid).pc = (s.thread tid).pc) ∧
    (∀ tid, s.outstanding tid = [] → s.waitOver tid .results = .ok true s)

/-- REMOTE FAULT REPORT (R173) of a refused access of one part: the report is recorded; for an access with a variable-latency
result the fault waits for the thread's next marker (R173), for a store it is raised on its thread, with the code, the address
and the PC of the instruction, or kept for it while its context is pausing (R251); one of what a RETRY replays stops the thread again at once (R312). -/
def Sys2Proof.Claims.FaultReports : Prop :=
  ∀ (s : State) (acc : Nat) (a : Access) (p : Part) (code : FaultCode), s.findAcc acc = some a → a.parts = [p] →
    p.stage = .refused code → (s.thread a.tid).ended = false →
    (a.dest ≠ none → a.fixed = false → (∀ src, (s.thread a.tid).retrying = some src → src.same (.access acc 0) = false) →
      ∃ u, exec (.remoteFaultReport acc 0 false) s = .next u ∧ BytesKept s u ∧
      u.threads = s.threads ∧ ∃ b, u.findAcc acc = some b ∧ b.parts = [{ p with stage := .reported code }]) ∧
    (a.dest = none → (s.thread a.tid).status = .running → s.deferring a.tid = true →
      ∃ u, exec (.remoteFaultReport acc 0 false) s = .next u ∧ BytesKept s u ∧ (∀ v, v ≠ a.tid → u.thread v = s.thread v) ∧
        u.thread a.tid = { s.thread a.tid with reports := (s.thread a.tid).reports ++ [⟨code, 0, p.va, a.pc, .access acc 0⟩] }) ∧
    (a.dest = none → (s.thread a.tid).status = .running → s.deferring a.tid = false → (s.thread a.tid).raised = none →
      (s.thread a.tid).retrying = none → ∃ u, exec (.remoteFaultReport acc 0 false) s = .next u ∧ BytesKept s u ∧ (∀ v, v ≠ a.tid → u.thread v = s.thread v) ∧
        (u.thread a.tid).status = .faulted ∧
        (u.thread a.tid).raised = some ⟨code, 0, p.va, a.pc, .access acc 0⟩ ∧ (u.thread a.tid).pc = (s.thread a.tid).pc) ∧
    (a.fixed = false → (s.thread a.tid).status = .faulted → s.deferring a.tid = false → (s.thread a.tid).raised = none →
      (s.thread a.tid).retrying = some (.access acc 0) → ∃ u, exec (.remoteFaultReport acc 0 false) s = .next u ∧ BytesKept s u ∧
        (∀ v, v ≠ a.tid → u.thread v = s.thread v) ∧ (u.thread a.tid).status = .faulted ∧ (u.thread a.tid).retrying = none ∧
        (u.thread a.tid).raised = some ⟨code, 0, p.va, a.pc, .access acc 0⟩ ∧ (u.thread a.tid).pc = (s.thread a.tid).pc)

/-- Results written, stores acknowledged, waits ended, and refused accesses reported. -/
def Obligations.ResultsAndReports : Prop :=
  Claims.ResultsAndAcknowledgements ∧ Claims.FaultReports

/-- POOL ACCESS ARRIVAL (R171, R172, R176, R177, R229) of an access of one part in another core's pool: refused with POOL
where the core is not held by the context, or the bytes are not reachable there; else a load gets the bytes, a store puts its
bytes there and nothing elsewhere, with the full bit for FE, a clear empties its granule, a probe reads the full bit, and a
consuming load takes a full granule for which no other one waits, or waits itself in the pool's table (of 64). Accesses to a granule
in one cycle come in the order of their ranks, requests of one tile to one pool in the order of their issue (R24). CONSUMING LOAD SERVED and RESEND
(R177): the first load in the table whose granule is full gets its bytes and empties it where it takes; a load that was sent
back is at the port again when its time has come. -/
def Obligations.PoolEvents : Prop :=
  ∀ (s : State) (acc : Nat) (a : Access) (p : Part), s.findAcc acc = some a → a.parts = [p] → a.fixed = false →
    let k := anyCore p.va
    let off := poolOff p.va
    let there := (∃ l g, (s.core k).owner = some (l, g) ∧ l.asid = a.asid) ∧
      reachable (s.core k).part off (if a.op = .clear then 16 else p.len) = true
    let part := fun (u : State) (q : Part) => ∃ b, u.findAcc acc = some b ∧ b.parts = [q]
    let done := { p with stage := Stage.performed, loc := some (.pool k off) }
    let full := s.fullBit k off = true
    (p.stage = .port → s.withheld a = false → s.groupReady a 0 = true → s.behindOnMesh a p = false → spaceOf p.va = .any →
      (¬ there → ∃ u, exec (.poolAccessArrival acc 0) s = .next u ∧ part u { p with stage := .refused .pool } ∧
        BytesKept s u ∧ (∀ d g, lookAt false (u.core d).full g = lookAt false (s.core d).full g)) ∧
      (there → s.inTurn k off p.len (a.rank false) = true → ∃ u, exec (.poolAccessArrival acc 0) s = .next u ∧
        (a.op = .load → a.dest ≠ none → part u { done with data := s.poolRead k off p.len } ∧ BytesKept s u) ∧
        (∀ f, a.op = .store f → p.data.length = p.len → part u done ∧ u.poolRead k off p.len = p.data ∧
          BytesKeptBut s u k off p.len ∧ FullBits s u k (off / 16) f) ∧
        (a.op = .clear → part u done ∧ BytesKept s u ∧ u.fullBit k off = false) ∧
        (a.op = .probe → a.dest ≠ none → part u { done with data := [if s.fullBit k off then 1 else 0] } ∧ BytesKept s u) ∧
        (∀ take, a.op = .consume take → a.dest ≠ none → full → s.awaitedHere a k = false → part u { done with data := s.poolRead k off p.len } ∧ BytesKept s u ∧
          u.fullBit k off = !take) ∧
        (∀ take, a.op = .consume take → (¬ full ∨ s.awaitedHere a k = true) → (s.tableLoads k).length < 64 → BytesKept s u ∧
          ∃ q, part u q ∧ q.stage = .table ∧ q.loc = some (.pool k off)))) ∧
    (∀ take core, p.stage = .table → a.op = .consume take → p.loc = some (.pool core off) → s.nextServed core = some a →
      a.id = acc →
      ∃ u, exec (.consumingLoadServed core) s = .next u ∧ BytesKept s u ∧ u.fullBit core off = (if take then false else s.fullBit core off) ∧
        part u { p with stage := .performed, data := s.poolRead core off p.len }) ∧
    (∀ due, p.stage = .resend due → due ≤ s.clock →
      ∃ u, exec (.consumingLoadResend acc) s = .next u ∧ BytesKept s u ∧ part u { p with stage := .port, loc := none })

/-- TRANSLATION REQUEST and WALK DONE (R402 to R406), of an access of one part in virtual space: a cached leaf that grants the
access, with its A and D bits set, sends it to its place, its arrival there noted, with the leaf that translated it (R410); one whose region has an earlier access
at the station is queued behind it; a probe gets the probe word; anything else goes to one of the eight
walkers. A walk whose reads the channels serve and that ends on a leaf that grants the access sends it to its place in this package's DRAM, to the channel; one
that fails holds it for the house kernel. No byte of memory changes but, at a walk's end, table entries.
When a channel serves a walk is the model's choice (log 70). -/
def Sys2Proof.Claims.TranslationEvents : Prop :=
  ∀ (s : State) (acc : Nat) (a : Access) (p : Part), s.findAcc acc = some a → a.id = acc → a.parts = [p] →
    let st := s.station (homeStation p.va a.asid)
    let part := fun (u : State) (q : Part) => ∃ b, u.findAcc acc = some b ∧ b.parts = [q]
    let needs := a.op.needs
    (spaceOf p.va = .virt → p.stage = .port → s.withheld a = false → s.groupReady a 0 = true → s.refusedBefore a p = false →
      s.behindOnMesh a p = false → s.stationQueue (homeStation p.va a.asid) < 64 →
      (∀ e pa, a.op ≠ .page → s.regionBusy a p = false → st.lookup p.va a.asid = some e →
        grants e.pte needs.1 needs.2 = true → withAD e.pte needs.2 = e.pte → leafLoc e.size e.pte (vaOf p.va) = .dram pa →
        ∃ u, exec (.translationRequest acc 0) s = .next u ∧ BytesKept s u ∧
          part u { p with stage := .channel, loc := some (.dram pa), arr := s.arrivals, leaf := some (e.size, e.pte) }) ∧
      (a.op ≠ .page → s.regionBusy a p = true → ∃ u, exec (.translationRequest acc 0) s = .next u ∧ BytesKept s u ∧
        part u { p with stage := .queued, arr := s.arrivals }) ∧
      (a.op ≠ .page → s.regionBusy a p = false → st.lookup p.va a.asid = none →
        s.stationLoad (homeStation p.va a.asid) (fun st => st = .walking) < 8 →
        ∃ u, exec (.translationRequest acc 0) s = .next u ∧ BytesKept s u ∧
          part u { p with stage := .walking, arr := s.arrivals }) ∧
      (a.op = .page → s.translateOpen (some a.asid) a.asid p.va false = true → ∃ u, exec (.translationRequest acc 0) s = .next u ∧ BytesKept s u ∧
        part u { p with stage := .performed, data := leBytes 8 (s.probe a.asid p.va).2.toNat })) ∧
    (p.stage = .walking → s.groupReady a 0 = true → s.walkOpen (some a.asid) a.asid p.va needs.1 needs.2 = true →
      (∀ v pa l w h, s.translate a.asid p.va needs.1 needs.2 = (v, .ok (.dram pa) l w h) →
        ∃ u, exec (.walkDone acc 0) s = .next u ∧ u.dram = v.dram ∧ u.hostMem = s.hostMem ∧
          part u { p with stage := .channel, loc := some (.dram pa), leaf := v.leafOf a.asid p.va }) ∧
      (∀ v perm l, s.translate a.asid p.va needs.1 needs.2 = (v, .fail perm l) →
        ∃ u, exec (.walkDone acc 0) s = .next u ∧ BytesKept s u ∧ part u { p with stage := .house perm }))

/-- PAGE-FAULT ANSWER (R406): every held part of the region waits for a walker again where the house kernel resolved the fault, and
refused otherwise, with PAGE, or PROT for a permission; parts of other regions and contexts stay as they are. INVALIDATION
(R409): no station keeps a leaf or a pointer that it names, and every other one is kept. INVALIDATION COMPLETE (R410): the
first one whose accesses have all been performed or refused is over. DRAM REFRESH (R30): no burst of the channel in this
cycle. -/
def Sys2Proof.Claims.StationEvents : Prop :=
  ∀ (s : State),
    (∀ (asid : Nat) (va : Word) (resolved : Bool) (i j : Nat) (a : Access) (p : Part) (perm : Bool), s.accs[i]? = some a →
      a.parts[j]? = some p → p.stage = .house perm →
      ∃ u b q, exec (.pageFaultAnswer asid va resolved []) s = .next u ∧ u.dram = s.dram ∧ u.hostMem = s.hostMem ∧
        u.accs[i]? = some b ∧ b.parts[j]? = some q ∧
        q.stage = (if a.asid = asid ∧ regionOf p.va = regionOf va then
          (if resolved then .queued else .refused (if perm then .prot else .page)) else .house perm)) ∧
    (∀ k, ∃ u, exec (.invalidation k []) s = .next u ∧ u.dram = s.dram ∧ u.hostMem = s.hostMem ∧ u.cores = s.cores ∧
      (∀ n st, (n, st) ∈ u.stations → (∀ e ∈ st.cache, dropsLeaf k e = false) ∧ ∀ e ∈ st.walk, dropsWalk k e = false) ∧
      (∀ n st, (n, st) ∈ s.stations → ∀ e ∈ st.cache, dropsLeaf k e = false →
        ∃ st', (n, st') ∈ u.stations ∧ e ∈ st'.cache)) ∧
    (∀ i, s.invals.find? s.invalOver = some i → exec .invalidationComplete s = .next { s with invals := s.invals.erase i }) ∧
    (∀ ch, ∃ u, exec (.dramRefresh ch) s = .next u ∧ exec (.dramBurst ch) u = .next u ∧ BytesKept s u)

/-- Translation, walks, page faults and invalidations. -/
def Obligations.Translation : Prop :=
  Claims.TranslationEvents ∧ Claims.StationEvents

/-- DRAM BURST (R30) for the access of one part that the channel picks: a load gets the bytes at its place, a store puts its
bytes there, an atomic leaves what its function gives (R180) and returns the old bytes; the ASID counts as served, and no byte
elsewhere changes. -/
def Sys2Proof.Claims.DramBursts : Prop :=
  ∀ (s : State) (ch asid pa : Nat) (a : Access) (p : Part), s.burst ch = some (asid, a, 0, pa) →
    s.findAcc a.id = some a → a.parts = [p] → p.stage = .channel → p.loc = some (.dram pa) →
    s.refreshing ch = false →
    let old := fun (n : Nat) => s.dram.read pa n
    ∃ u, exec (.dramBurst ch) s = .next u ∧ (u.channel ch).last = asid ∧ u.hostMem = s.hostMem ∧ u.cores = s.cores ∧
      (a.op = .load → a.fixed = false → a.dest ≠ none → u.dram = s.dram ∧ ∃ b, u.findAcc a.id = some b ∧
        b.parts = [{ p with stage := .performed, data := old p.len }]) ∧
      (∀ f, a.op = .store f → u.dram.read pa p.data.length = p.data ∧
        ∀ x, x < pa ∨ pa + p.data.length ≤ x → u.dram.byte x = s.dram.byte x) ∧
      (∀ fn ty b c rnd, a.op = .atomic fn ty b c rnd → a.fixed = false →
        u.dram.read pa (ty.width / 8) = atomicBytes fn ty b c rnd (old (ty.width / 8)) ∧
        (∀ x, x < pa ∨ pa + ty.width / 8 ≤ x → u.dram.byte x = s.dram.byte x) ∧
        ∃ b', u.findAcc a.id = some b' ∧ b'.parts = [{ p with stage := .performed, data := old (ty.width / 8) }])

/-- REMOTE OPERATION (R431): a read, a write of one run or of the several runs of one granule, or an atomic: the first one in the inbox is performed on this package's DRAM, refused where it lies outside the
DRAM or its context is not loaded, or with ECC where its bytes cannot be corrected; an operation already in the log is not
performed again, and is answered as it was. Its answer goes back on VC 2 and its result into the log. REMOTE ACK (R243): the
part that waits for the answer has the bytes, or is refused. -/
def Sys2Proof.Claims.RemoteOperations : Prop :=
  ∀ (s : State) (port src vc : Nat) (num : BitVec 32) (rest : List InMsg),
    (∀ asid pa op, s.inbox = ⟨port, src, vc, .remoteOp num asid pa op⟩ :: rest →
      let log := lookAt [] s.remLog src
      let new := ∀ e ∈ log, e.1 ≠ num
      let len := match op with
        | .read n => n
        | .write bs => bs.length
        | .scatter runs => ((runs.map (fun r => r.1 + r.2.length)).max?).getD 0
        | .atomic _ ty _ _ _ => ty.width / 8
      let fits := pa + len ≤ dramSize ∧ (s.ctx asid).state ≠ .absent ∧ (s.ctx asid).state ≠ .built
      let answers := fun (ecc : Bool) (m : Memory) (res : RemRes) => ∃ v : State, exec (.remoteOperation ecc) s =
        .next (v.sendTo 2 src (.remoteAck num res)) ∧ v.dram = m ∧ v.inbox = rest ∧ v.cores = s.cores ∧
        lookAt [] v.remLog src = ((num, res) :: log).take 256
      (∀ e res, log.find? (fun e => e.1 = num) = some e → e.2 = res →
        exec (.remoteOperation false) s = .next ({ s with inbox := rest }.sendTo 2 src (.remoteAck num res))) ∧
      (new → ¬ fits → answers false s.dram (.refused .remote) ∧ answers true s.dram (.refused .remote)) ∧
      (new → fits → answers true s.dram (.refused .ecc)) ∧
      (∀ n, new → fits → op = .read n → answers false s.dram (.data (s.dram.read pa n))) ∧
      (∀ bs, new → fits → op = .write bs → answers false (s.dram.write pa bs) .done) ∧
      (∀ runs, new → fits → op = .scatter runs →
        answers false (runs.foldl (fun m r => m.write (pa + r.1) r.2) s.dram) .done) ∧
      (∀ fn ty b c rnd, new → fits → op = .atomic fn ty b c rnd →
        answers false (s.dram.write pa (atomicBytes fn ty b c rnd (s.dram.read pa (ty.width / 8))))
          (.data (s.dram.read pa (ty.width / 8))))) ∧
    (∀ res a p, s.inbox = ⟨port, src, vc, .remoteAck num res⟩ :: rest → s.accs = [a] → a.fixed = false → a.dest ≠ none →
      a.parts = [p] → p.stage = .remote num →
      ∃ u b q, exec .remoteAck s = .next u ∧ u.inbox = rest ∧ u.accs = [b] ∧ b.parts = [q] ∧ u.dram = s.dram ∧
        (∀ bs, res = .data bs → q.data = bs.take p.len ∧ q.performed = true) ∧ (res = .done → q.performed = true) ∧
        (∀ c, res = .refused c → q.stage = .refused c))

/-- DRAM bursts, and operations on another package. -/
def Obligations.DramAndRemote : Prop :=
  Claims.DramBursts ∧ Claims.RemoteOperations

/-! ## Events: faults and cues -/

/-- The action for a fault (R316, R317), over any list of levels: the walk starts at the SLOT level and goes up while a level's
POLICY field for the fault's group says KILLPARENT. At the first level with another value, IGNORE and RETRY act where R316
permits them, and as KILLSELF of that level's node otherwise; past the last level the context faults. RETRY of a LINK, a
CHAIN.TIMEOUT and a BAR.TIMEOUT is permitted once: not for an access, copy, matrix command or fetch that is being replayed, an
entry whose timeout was retried, or a phase that has counted twice. -/
def Sys2Proof.Claims.PolicyWalk : Prop :=
  ∀ (s : State) (tid : Nat) (f : Raised),
    let ls := s.levels tid
    let slot := ls.findIdx (fun v => v.bind = 1)
    let code := codeOf f.code
    let group := if code ∈ [0x04, 0x06, 0x07, 0x08, 0x28, 0x29] then 1
      else if code ∈ [0x0C, 0x10, 0x11, 0x12, 0x13, 0x19, 0x1A, 0x21] then 2 else if code = 0x30 then 3 else 0
    let chosen := fun (v : Level) => v.policy.toNat / 4 ^ group % 4
    let ignorable := code ∈ [0x0C, 0x10, 0x1B, 0x21]
    let retriable := code ∈ [0x07, 0x10] ∨
      (code = 0x28 ∧ ((∃ id i, f.src = .access id i ∧ ∀ a, s.findAcc id = some a → a.again = false) ∨
        (∃ core q, f.src = .copy core q ∧ ∀ c, (s.copyQueue core q).head? = some c → c.again = false) ∨
        (∃ core, f.src = .matrix core ∧ ∀ c, (s.core core).mx.head? = some c → c.again = false) ∨
        (f.src = .own ∧ (s.thread tid).fetchAgain = false))) ∨
      (code = 0x19 ∧ ∃ tile i, f.src = .chain tile i ∧ (s.chain tile i).retried = false) ∨
      (code = 0x21 ∧ f.src = .barrier false)
    let upTo := fun (l : Nat) => ∀ k w, slot ≤ k → k < l → ls[k]? = some w → chosen w = 3
    (∀ l v, slot ≤ l → ls[l]? = some v → upTo l →
      (chosen v = 0 → ignorable → s.actionFor tid f = .ignore) ∧ (chosen v = 1 → retriable → s.actionFor tid f = .retry) ∧
      (chosen v = 2 ∨ (chosen v = 0 ∧ ¬ ignorable) ∨ (chosen v = 1 ∧ ¬ retriable) → s.actionFor tid f = .kill l)) ∧
    (upTo ls.length → s.actionFor tid f = .root)

/-- FAULT DELIVERED (R85, R134, R316 to R319), for a fault that no outstanding result holds back: FAULTINFO tells code, FIELD,
action, PC, data and count; the action is the one that the walk gives (PolicyWalk). IGNORE and RETRY let the thread go on as it
was before, in no other thread and no byte of memory; a budget is then unlimited, a late cue is delivered late, or re-tagged
behind the last handler's tag; after RETRY of a PAGE the thread stays faulted until the house kernel has acted (R311); a RETRY of LINK or
CHAIN.TIMEOUT notes that it was the one permitted. Where no fault of a wider node comes first, a kill ends every thread beneath the node, and the root ends every thread of the context and
faults it; threads elsewhere are as before. KILL NOTICE (R279, R319): the same on another package. -/
def Sys2Proof.Claims.FaultDelivery : Prop :=
  ∀ (s : State),
    (∀ tid f, (s.thread tid).raised = some f → (s.thread tid).status = .faulted →
      (f.waits = false ∨ s.resultsIn tid = true) →
      let t := s.thread tid
      let act := s.actionFor tid f
      let goesOn := fun (more : State → Prop) => Does (.faultDelivered tid) s (fun u => FaultTold t f act.code (u.thread tid) ∧
        (u.thread tid).status = t.before ∧ (u.thread tid).raised = none ∧ (u.thread tid).pc = t.pc ∧
        ThreadsBut s u (· = tid) ∧ BytesKept s u ∧ more u)
      (act = .ignore ∨ act = .retry → s.sfuEmpty tid = true → t.reports = [] →
        (f.code ≠ .late → ¬ (act = .retry ∧ f.code = .page) → goesOn (fun _ => True)) ∧
        (act = .retry → f.code = .page → Does (.faultDelivered tid) s (fun u => FaultTold t f act.code (u.thread tid) ∧
          (u.thread tid).status = .faulted ∧ (u.thread tid).raised = none ∧ (u.thread tid).retrying = some f.src ∧
          (u.thread tid).pc = t.pc ∧ ThreadsBut s u (· = tid) ∧ BytesKept s u)) ∧
        (f.code = .budget → goesOn (fun u => (u.thread tid).budget = none)) ∧
        (∀ id i a, act = .retry → f.code = .link → f.src = .access id i → s.findAcc id = some a →
          goesOn (fun u => ∃ b, u.findAcc id = some b ∧ b.again = true ∧ b.parts = a.replayed)) ∧
        (act = .retry → f.code = .link → f.src = .own → goesOn (fun u => (u.thread tid).fetchAgain = true)) ∧
        (∀ tile i, act = .retry → f.code = .chainTimeout → f.src = .chain tile i →
          goesOn (fun u => u.chain tile i = { s.chain tile i with retried := true, elapsed := 0 })) ∧
        (∀ id c, f.code = .late → f.src = .cue id → s.findCue id = some c →
          (act = .ignore → goesOn (fun u => u.findCue id = some { c with first := true, msg := { c.msg with late := true } })) ∧
          (act = .retry → t.lastM ≠ 0xFFFF → goesOn (fun u => u.findCue id = some { c with
            msg := { c.msg with tagT := t.lastT, tagM := t.lastM + 1, retag := true } })))) ∧
      (∀ level, act = .kill level → s.widerFault tid level = false →
        let under := fun v => v ∈ s.launchTids t.launch ∧
          nodeIndex (s.levels tid) (s.thread v).gidx level = nodeIndex (s.levels tid) t.gidx level
        Does (.faultDelivered tid) s (fun u => FaultTold t f 2 (u.thread tid) ∧ u.dram = s.dram ∧ u.hostMem = s.hostMem ∧
          (∀ v, under v → (s.thread v).ended = false → (u.thread v).status = .killed) ∧ ThreadsBut s u under)) ∧
      (act = .root → (s.ctx t.launch.asid).state ∈ [.loaded, .resident, .pausing, .paused, .restoring] →
        Does (.faultDelivered tid) s (fun u => FaultTold t f 3 (u.thread tid) ∧ (u.ctx t.launch.asid).state = .faulted ∧
          (∀ v ∈ s.ctxTids t.launch.asid, (s.thread v).ended = false → (u.thread v).status = .killed) ∧
          ThreadsBut s u (· ∈ s.ctxTids t.launch.asid)))) ∧
    (∀ port src vc rest l level node, s.inbox = ⟨port, src, vc, .kill l level node⟩ :: rest → (s.ctx l.asid).state ∉ [.absent, .built] →
      let under := fun v => v ∈ s.launchTids l ∧ nodeIndex (s.levelsOf l) (s.thread v).gidx level = node
      Does .killNotice s (fun u => u.inbox = rest ∧ u.dram = s.dram ∧ u.hostMem = s.hostMem ∧
        (∀ v, under v → (s.thread v).ended = false → (u.thread v).status = .killed) ∧ ThreadsBut s u under)) ∧
    (∀ port src vc rest asid code by' q seq, s.inbox = ⟨port, src, vc, .rootFault asid code by' q seq⟩ :: rest →
      (s.ctx asid).state ∈ [.loaded, .resident, .pausing, .paused, .restoring] →
      Does .killNotice s (fun u => u.inbox = rest ∧ (u.ctx asid).state = .faulted ∧
        (∀ v ∈ s.ctxTids asid, (s.thread v).ended = false → (u.thread v).status = .killed) ∧
        ThreadsBut s u (· ∈ s.ctxTids asid)))

/-- The walk up the levels gives the action; a fault is delivered: FAULTINFO, and who goes on. -/
def Obligations.FaultsTaken : Prop :=
  Claims.PolicyWalk ∧ Claims.FaultDelivery

/-- CUE STORE, SPILL, HOLD, MERGE, FORWARD, SPILL FETCH DONE and OVERFLOW UPDATE (R326, R332 to R336, R348): an arriving cue, no
earlier one of its way still coming (R24), takes an entry of its target's store, or a cell of the overflow area where none is free;
one for a target that has ended is dropped; one for a target that is not placed, or whose context does not release, is held in a
cell, and forwarded once it is placed and resident; a spilled cue comes back as an entry is free, or is fetched when it comes first.
A block is staged in cells of its own as its cue arrives. The cells taken are in no other use; the agent then writes each, the
cue with its STATE or the block's bytes, and the head. A cue earlier than the last handler's tag raises LATE.
The STATE of a cell is the model's choice (log 81), and where a cue waits is read by inference (log 36). -/
def Obligations.CuesArrive : Prop :=
  ∀ (s : State) (cue : Nat) (c : Cue), s.findCue cue = some c → (∀ d ∈ s.cues, d.id = cue → d = c) →
    let l := c.msg.launch
    let asid := l.asid
    let arrived := c.place = .inFlight ∧ s.allDone c.after = true
    let first := s.cueBehind c = false
    let late := fun tid => c.msg.isLaunch = false ∧ lexLt (tagKey c.msg.tagT c.msg.tagM)
      (tagKey (s.thread tid).lastT (s.thread tid).lastM) = true
    let told := fun (tid : Nat) (u : State) => ThreadsBut s u (· = tid) ∧ (¬ late tid → u.thread tid = s.thread tid) ∧
      (late tid → (s.thread tid).status = .running → (s.thread tid).raised = none → (s.thread tid).retrying = none →
        s.deferring tid = false →
        (u.thread tid).status = .faulted ∧
        (u.thread tid).raised = some ⟨.late, 0, c.msg.tagT, (s.thread tid).pc, .cue c.id⟩)
    let cells := (c.msg.len + 127) / 128
    let free := fun (i n : Nat) => ∀ r ∈ s.cellsTaken asid, i + n ≤ r.1 ∨ r.1 + r.2 ≤ i
    let owed := fun (u : State) (j : OvfJob) => (j, l) ∈ (u.ctx asid).ovfTodo
    let staged := fun (u : State) (b : Option Nat) =>
      ((c.msg.block = false ∨ c.block.isSome = true) → b = c.block) ∧
      (c.msg.block = true → c.block = none → ∃ j, b = some j ∧ free j cells ∧ owed u (.block j))
    let stands := fun (u : State) (d : Cue) => ∃ b, u.findCue cue = some { d with block := b, sender := none } ∧ staged u b ∧ BytesKept s u
    let celled := fun (u : State) (p : CuePlace) => ∃ i b, u.findCue cue = some { c with
        place := p, cell := some i, after := [], block := b, sender := none } ∧
      free i 1 ∧ owed u (.cell i) ∧ (u.ctx asid).ovfSpills = (s.ctx asid).ovfSpills + 1 ∧ staged u b ∧ BytesKept s u ∧
      (c.msg.block = true → c.block = none → ∀ j, b = some j → i + 1 ≤ j ∨ j + cells ≤ i)
    let kept := fun (u : State) => u.threads = s.threads ∧ BytesKept s u
    (arrived → s.cueDead c = true → Does (.cueStore cue) s (fun u => u.findCue cue = none ∧ kept u)) ∧
    (∀ tid, arrived → first → s.cueDead c = false → s.findThread l c.msg.target = some tid → s.releases asid = true →
      (∀ shared, s.freeEntry tid = some shared →
        Does (.cueStore cue) s (fun u => stands u { c with place := .stored tid, shared := shared, after := [] } ∧ told tid u)) ∧
      (s.freeEntry tid = none → Does (.cueSpill cue) s (fun u => celled u (.spilled tid) ∧ told tid u))) ∧
    (arrived → first → s.cueDead c = false →
      (s.placeOf l c.msg.target = none ∨
        (s.releases asid = false ∧ ∃ x, s.placeOf l c.msg.target = some (s.pkg, x))) →
      Does (.cueHold cue) s (fun u => celled u .held ∧ kept u)) ∧
    (c.place = .held → s.cueDead c = false → (s.placeOf l c.msg.target).isSome = true →
      (s.ctx asid).state = .resident →
      Does (.cueForward cue) s (fun u => u.findCue cue = some { c with place := .inFlight, cell := none } ∧ kept u)) ∧
    (∀ tid shared, firstOf (s.cues.filter (fun c => c.place = .spilled tid)) = some c → s.freeEntry tid = some shared →
      c.id = cue →
      Does (.cueMerge tid) s (fun u => u.findCue cue = some { c with place := .stored tid, cell := none, shared := shared } ∧
        kept u)) ∧
    (∀ tid, s.firstCue tid = some c → c.id = cue → c.place = .spilled tid →
      (∀ i, c.cell = some i → s.ovfDue asid (.cell i) = false) →
      Does (.spillFetchDone tid) s (fun u => u.findCue cue = some { c with place := .fetched tid } ∧ kept u)) ∧
    (∀ j m rest, (s.ctx asid).ovfTodo = (j, m) :: rest →
      let wrote := fun (va : Word) (bs : List Byte) => ∀ v w, s.ovfWrite asid va bs = .ok () v →
        v.ovfWrite asid (v.ctx asid).desc.ovfAddr (v.ovfHead asid) = .ok () w →
        ∃ u, execOverflowUpdate asid s = .next u ∧ u.dram = w.dram ∧ u.hostMem = w.hostMem ∧ u.threads = w.threads ∧
          u.cues = w.cues ∧ (u.ctx asid).ovfTodo = rest
      (∀ i, j = .block i → (s.areaCues asid).find? (fun d => d.block = some i) = some c →
        wrote (s.cellVa asid i) (c.msg.payload.take c.msg.len)) ∧
      (∀ i, j = .cell i → (s.areaCues asid).find? (fun d => d.cell = some i) = some c →
        wrote (s.cellVa asid i) (cellBytes c.msg (match c.place with
          | .held | .inFlight => 3
          | _ => if c.block.isSome then 2 else 1) c.block)) ∧
      (∀ i, j = .cell i → (∀ d ∈ s.areaCues asid, d.cell ≠ some i) → wrote (s.cellVa asid i + 103) [0]))

/-- CUE RELEASE (R323, R324): the first cue of an asleep thread, once it is safe and lies in the store. A cue is safe exactly when it
is LATE or RETAG, or its tag and the thread's horizon add up to at most the logical clock, below 2^64. HANDLER START (R80,
R315, R321, R327, R333): once no access of the thread to its own pool is under way (R235) and the window's granules are in turn
(R229), the thread runs at the port's handler with no register pending, with the cue's tag and port, its
base tag one microstep later, its budget, and its registers as they were; the descriptor and the payload stand in its
window, a block where its receive region begins, with full bits, and no other byte changes. BUDGET EXHAUSTED (R315): a thread inside a handler
stops on BUDGET, its PC kept. -/
def Obligations.HandlersStart : Prop :=
  ∀ (s : State) (tid : Nat),
    let t := s.thread tid
    (∀ c, s.safe tid c = true ↔ (c.msg.late = true ∨ c.msg.retag = true ∨
      (c.msg.tagT.toNat + s.horizon tid < 2 ^ 64 ∧ c.msg.tagT.toNat + s.horizon tid ≤ s.logical t.launch.asid))) ∧
    (∀ c, s.firstCue tid = some c → s.safe tid c = false → exec (.cueRelease tid) s = .next s) ∧
    (∀ c, t.status = .asleep → t.reports = [] → (∀ d ∈ s.cues, d.place ≠ .released tid) → s.firstCue tid = some c → s.safe tid c = true →
      s.releases t.launch.asid = true → c.place = .stored tid ∨ c.place = .fetched tid → s.findCue c.id = some c →
      Does (.cueRelease tid) s (fun u => u.findCue c.id = some { c with place := .released tid } ∧ u.threads = s.threads ∧
        BytesKept s u)) ∧
    (∀ c img h, t.status = .asleep → t.reports = [] → s.ownPoolBusy tid = false → s.cues.find? (fun c => c.place = .released tid) = some c → s.imageOf tid = some img →
      s.handlerOf tid c.msg.port.toNat = some h →
      (∀ i, c.block = some i → s.ovfDue c.msg.launch.asid (.block i) = false) →
      let core := coreOf tid
      let window := areaOff (s.core core).part (tid % 4)
      s.startTurn core window h.recvOff c.msg = true → Does (.handlerStart tid) s (fun u =>
        let v := u.thread tid
        v.status = .running ∧ v.pc = img.codeBase + h.entry ∧ v.pend = 0 ∧ v.tagT = c.msg.tagT ∧ v.tagM = c.msg.tagM ∧
        v.port = c.msg.port ∧ v.inHandler = true ∧ v.baseT = c.msg.tagT ∧ v.baseM = c.msg.tagM + 1 ∧
        v.baseOver = (c.msg.tagM = 0xFFFF) ∧ v.lastT = c.msg.tagT ∧ v.lastM = c.msg.tagM ∧
        v.budget = (if h.budget = 0 then none else some h.budget) ∧ RegsKept t v [] ∧ v.fpflags = t.fpflags ∧
        v.srstate = t.srstate ∧ ThreadsBut s u (· = tid) ∧ u.findCue c.id = none ∧
        u.poolRead core window 96 = descBytes c.msg ++ windowPayload c.msg ∧
        (c.msg.block = false → BytesKeptBut s u core window 96) ∧
        (c.msg.block = true → c.msg.payload.length = c.msg.len → h.recvOff + c.msg.len ≤ window →
          u.poolRead core h.recvOff c.msg.len = c.msg.payload ∧ u.dram = s.dram ∧ u.hostMem = s.hostMem ∧
          ∀ d a, (d ≠ core ∨ ((a < window ∨ window + 96 ≤ a) ∧ (a < h.recvOff ∨ h.recvOff + c.msg.len ≤ a))) →
            (u.core d).pool.byte a = (s.core d).pool.byte a) ∧
        (c.msg.block = true → ∀ g, g < c.msg.len / 16 → u.fullBit core (h.recvOff + 16 * g) = true))) ∧
    (t.budget = some 0 → t.inHandler = true → t.status ∈ [.running, .parked, .blocked, .stalled] → t.raised = none →
      t.retrying = none →
      Does (.budgetExhausted tid) s (fun u => (u.thread tid).status = .faulted ∧
        (u.thread tid).raised = some ⟨.budget, 0, 0, t.pc, .own⟩ ∧ (u.thread tid).pc = t.pc ∧
        ThreadsBut s u (· = tid) ∧ BytesKept s u))

/-! ## Events: engines, queues, contexts -/

/-- SFU RESULT (R150, R151): the oldest request of the core leaves the queue; every element of its destination whose lane its
mask picks becomes the function of the operand's element, the others keep their bits, and the flags are ORed into FPFLAGS.
COPY START, RETIRE UNIT, COPY FINISH, COPY FAULT and COPY RETRY (R189 to R194): a queued command runs once its turn has come,
and a JOIN leaves every queue whose head it is; a unit of 16 bytes between pools, in its turn (R229) and not written over by the same
command, is read, converted and written with its full bit, one further each time, the index of its element read once (R187), and no other byte changes; a finished command leaves its queue and its cue is stored as an ordinary one (R255); a fault
stops it and is raised on its thread; after RETRY it goes on where it stood. The engine never moves a unit ahead of PROGRESS: the
model's choice (log 71). -/
def Obligations.EnginesOfTheCore : Prop :=
  ∀ (s : State) (core : Nat),
    (∀ r rs d, (s.core core).sfu = r :: rs → s.halted (s.thread r.tid).launch.asid = false → r.dest = .v d →
      Does (.sfuResult core) s (fun u => (u.core core).sfu = rs ∧ BytesKept s u ∧ ThreadsBut s u (· = r.tid) ∧
        RegsKept (s.thread r.tid) (u.thread r.tid) [.v d] ∧ (u.thread r.tid).pc = (s.thread r.tid).pc ∧
        (∀ e, e < r.ty.elems → elemOf ((u.thread r.tid).getV d) r.ty.width e =
          if r.mask.getLsbD (e / r.ty.per) then (sfuElem r.fn r.ty (elemOf r.src r.ty.width e)).1 % 2 ^ r.ty.width
          else elemOf ((s.thread r.tid).getV d) r.ty.width e) ∧
        (u.thread r.tid).fpflags = (s.thread r.tid).fpflags ||| BitVec.ofNat 64
          (((List.range r.ty.elems).filter (fun e => r.mask.getLsbD (e / r.ty.per))).foldl (fun fl e =>
            orF fl (sfuElem r.fn r.ty (elemOf r.src r.ty.width e)).2) 0))) ∧
    (∀ q c cs, s.copyQueue core q = c :: cs →
      let asid := (s.thread c.tid).launch.asid
      let now := fun (u : State) (cs : List CopyCmd) => u.copyQueue core q = cs
      (c.state = .queued → s.allDone c.after = true → s.halted asid = false →
        (c.fn ≠ 6 → Does (.copyStart core q) s (fun u => now u ({ c with state := .running } :: cs) ∧ u.threads = s.threads ∧
          BytesKept s u)) ∧
        (c.fn = 6 → s.joinReady core c = true → Does (.copyStart core q) s (fun u => u.threads = s.threads ∧ BytesKept s u ∧
          ∀ r, r < 4 → u.copyQueue core r = (s.copyQueue core r).filter (fun d => !(d.fn = 6 && d.id = c.id))))) ∧
      (c.state = .running → c.fcode = none →
        (∀ i k off bs, c.house = none → c.pendOp = none → c.progress < c.units →
          s.elemIndex core c = some i →
          s.engineLoc core asid (c.dstAt c.progress i) true = (s, .loc (.pool k off)) →
          (∀ m, s.indexDue core c = some m → s.locTurn rankCopy m = true) → s.inTurn k off 16 rankCopy = true → s.copyOverlaps core c (.pool k off) = false →
          (c.fn = 5 → bs = leBytes 8 c.pattern.toNat ++ leBytes 8 c.pattern.toNat) →
          (c.fn ≠ 5 → c.got = none ∧ ∃ j src, s.engineLoc core asid (c.srcAt c.progress i) false = (s, .loc (.pool j src)) ∧
            s.inTurn j src 16 rankCopy = true ∧ c.kept (.pool j src) = none ∧
            bs = c.convert (s.poolRead j src 16)) →
          Does (.retireUnit core q) s (fun u => u.poolRead k off 16 = bs ∧ u.fullBit k off = true ∧
            BytesKeptBut s u k off 16 ∧ u.threads = s.threads ∧
            now u ({ c with progress := c.progress + 1, got := none, pendOp := none, num := none, again := false,
                            index1 := some ((c.unitAt c.progress).1, i) } :: cs))) ∧
        (c.progress = c.units → Does (.copyFinish core q) s (fun u => now u cs ∧ u.threads = s.threads ∧ BytesKept s u ∧
          ∀ id k, c.cue = some id → s.findCue id = some k → u.findCue id = some { k with place := .stored c.tid, msg := { k.msg with kind := 0 } }))) ∧
      (∀ code, c.state = .running → c.fcode = some code → (s.thread c.tid).status = .running → (s.thread c.tid).raised = none →
        (s.thread c.tid).retrying = none → s.deferring c.tid = false →
        Does (.copyFault core q false) s (fun u => now u ({ c with state := .faulted } :: cs) ∧ BytesKept s u ∧
          ThreadsBut s u (· = c.tid) ∧ (u.thread c.tid).status = .faulted ∧
          (u.thread c.tid).raised = some ⟨code, 0, c.faddr, c.pc, .copy core q⟩)) ∧
      (c.state = .faulted → c.fcode = none → c.house = none → s.halted asid = false →
        Does (.copyRetry core q) s (fun u => u.threads = s.threads ∧ BytesKept s u ∧
          now u ({ c with state := .running, got := none, pendOp := none, saving := none, faddr := 0 } :: cs))))

/-- A word of a slot. -/
def Sys2Proof.Claims.slotWord (s : State) (core slot i j : Nat) : Nat := leNat (s.poolRead core (slotOff slot + 512 * i + 4 * j) 4)

/-- Element k of packed bytes: the low one first, two to a byte for E2M1 (R201). -/
def Sys2Proof.Claims.packed (ty : Ty) (bs : List Byte) (k : Nat) : Nat := leNat bs / 2 ^ (ty.width * k) % 2 ^ ty.width

/-- What one step of each command leaves in a word of its slot, its operand rows at hand (R55 to R57, R201 to R206). MMA: the old
word, +0 for the first step under ZC, and one group of kd exact products after another added and rounded to nearest, or for I8
added and wrapped. BLK: the exact sum of the 32 products, rounded once. SCA: the canonical NaN where a scale is 0xFF, else the word
plus the scaled partial, rounded once. ZERO: +0. LOAD: the element, converted exactly. XFER: every granule that a row covers is
to hold the row's elements, rounded to the type, and no slot changes. No byte outside the rows of the step changes. What the
model adds in which order is its reading (log 33). -/
def Sys2Proof.Claims.MatrixStepValues : Prop :=
  ∀ (s : State) (core : Nat) (c : MxCmd) (here : List (Word × Sum Loc (List Byte))),
    let u := s.stepMx core c here
    let opnd := fun (r : Nat) => runBytes s here (c.runs[r]?.getD (0, 0))
    let atHand := ∀ r ∈ c.runs, (runBytes s here r).length = r.2
    let a := fun (i k : Nat) => packed c.ty (opnd i) k
    let b := fun (k j : Nat) => packed c.bty (opnd (128 + k)) j
    let prod := fun (i j k : Nat) => ((decodeF c.ty (a i k)).mul (decodeF c.bty (b k j))).1
    let plus := fun (x y : FVal) => (x.add false y).1
    let old := fun (i j : Nat) => slotWord s core c.slot i j
    let new := fun (i j : Nat) => slotWord u core c.slot i j
    let first := fun (i j : Nat) => if c.zc = true ∧ c.progress = 0 then 0 else old i j
    let n := min 8 (c.total - c.progress)
    let row0 := c.row0 + c.progress
    let inStep := fun (i : Nat) => row0 ≤ i ∧ i < row0 + n
    let eb := if c.wide then 4 else c.ty.width / 8
    let keptBut := fun (row rows : Nat) => BytesKeptBut s u core (slotOff c.slot + 512 * row) (512 * rows)
    row0 + n ≤ 128 →
      (c.fn = 1 → atHand → keptBut 0 128 ∧ ∀ i j, i < 128 → j < 128 →
        (c.ty ∈ [.bf16, .f16] → c.bty.width = 16 → new i j = (List.range 32).foldl (fun w k =>
          (rneF32 (plus (decodeF .f32 w) (prod i j k))).1) (first i j)) ∧
        (c.ty ∈ [.e4m3, .e5m2] → c.bty.width = 8 → new i j = (List.range 16).foldl (fun w g =>
          (rneF32 (plus (decodeF .f32 w) (plus (prod i j (2 * g)) (prod i j (2 * g + 1))))).1) (first i j)) ∧
        (c.ty = .i8 → c.bty = .i8 → new i j = (List.range 16).foldl (fun w g => wrapN 32 (readInt true 32 w +
          readInt true 8 (a i (2 * g)) * readInt true 8 (b (2 * g) j) +
          readInt true 8 (a i (2 * g + 1)) * readInt true 8 (b (2 * g + 1) j))) (first i j))) ∧
      (c.fn = 2 → atHand → c.ty ∈ [.e2m1, .e4m3, .e5m2] → c.bty ∈ [.e2m1, .e4m3, .e5m2] → keptBut 0 128 ∧
        ∀ i j, i < 128 → j < 128 →
          new i j = (rneF32 ((List.range 31).foldr (fun k r => plus (prod i j k) r) (prod i j 31))).1) ∧
      (c.fn = 3 → keptBut row0 n ∧ ∀ i j, inStep i → j < 128 →
        let sa := (c.sa.extractLsb' (8 * i) 8).toNat
        let sb := (c.sb.extractLsb' (8 * j) 8).toNat
        let scaled := match decodeF .f32 (slotWord s core c.pslot i j) with
          | .fin neg m e st => .fin neg m (e + ((sa : Int) + sb - 254)) st
          | v => v
        new i j = if sa = 0xFF ∨ sb = 0xFF then 0x7FC00000 else (rneF32 (plus (decodeF .f32 (old i j)) scaled)).1) ∧
      (c.fn = 4 → keptBut row0 n ∧ (∀ i j, inStep i → j < 128 → new i j = 0) ∧
        (row0 + n = 128 → lookAt 0 (u.core core).slotStat c.slot = 0)) ∧
      (c.fn = 6 → atHand → c.wide = true ∨ c.ty ∈ [.bf16, .f16, .e4m3, .e5m2] → keptBut row0 n ∧
        ∀ i j, inStep i → j < 128 → new i j = if c.wide then packed .f32 (opnd (i - row0)) j else
          (rneF32 (decodeF c.ty (packed c.ty (opnd (i - row0)) j))).1) ∧
      (c.fn = 5 → c.wide = true ∨ c.ty ∈ [.bf16, .f16, .e4m3, .e5m2] → BytesKept s u ∧
        ((c.runs.flatMap runGranules).Nodup → ∀ i j g, inStep i → j < 128 →
          (c.runs.flatMap runGranules)[(i - row0) * (8 * eb) + j * eb / 16]? = some g →
          leNat (((s.xferBytes core c g).drop (j * eb % 16)).take eb) =
            if c.wide then old i j else (roundF c.ty 0 c.sat true 0 (decodeF .f32 (old i j))).1))

/-- MXU ACCEPT, GRANT, FINISH, OPERAND FAULT and RETRY (R205, R210 to R217): the head of a core's queue is accepted, also
one that an earlier load holds back (R377); a step of the picked core, its operands at hand, leaves what the step computes
(MatrixStepValues), an XFER each of its rows, moves PROGRESS, and takes the unit for its cost; a step of ZERO clears its rows of
the slot and no other byte; the step of a pausing context's XFER is its last before the checkpoint; a command leaves the queue as its last step ends, MMA, BLK and SCA 24 cycles
later; an operand fault halts the queue and is raised on its thread, and staging resumes after RETRY with the rows already staged. -/
def Sys2Proof.Claims.MatrixCommandsWork : Prop :=
  ∀ (s : State) (core : Nat) (c : MxCmd) (cs : List MxCmd), (s.core core).mx = c :: cs →
    let asid := (s.thread c.tid).launch.asid
    let now := fun (u : State) (m : List MxCmd) => (u.core core).mx = m
    let head := fun (c : MxCmd) => c :: cs
    (c.state = .queued → s.halted asid = false →
      Does (.mxuAccept core) s (fun u => now u (head { c with state := .accepted }) ∧ u.threads = s.threads ∧ BytesKept s u)) ∧
    (∀ tile credit r, (s.tile tile).busy ≤ s.clock →
      (∀ k ∈ (List.range 8).map (fun k => tile * 8 + k), s.mxReady k = none → (s.core k).credit = 0) →
      s.mxPick tile (s.mxCands tile) = some (core, c, credit) →
      stage core asid (c.fn = 5) c.staged (c.runs.flatMap runGranules) ⟨s, [], [], none⟩ = r → r.stop = none → r.missing = [] →
      Does (.mxuGrant tile) s (fun u =>
        now u (head { c with progress := c.progress + c.stepSize, staged := [], nums := [], again := false,
                             state := if s.halted asid = true ∧ c.progress + c.stepSize < c.total then .checkpointed else .running,
                             due := s.clock + c.cost + (if c.fn ≤ 3 then 24 else 0) }) ∧
        u.threads = s.threads ∧ (u.tile tile).lastCore = core % 8 ∧ (u.tile tile).busy = s.clock + c.cost ∧
        (u.core core).credit = credit - c.cost ∧ (c.fn ≠ 5 → BytesKept (r.s.stepMx core c r.here) u) ∧
        (c.fn = 5 → BytesKept (r.fresh.foldl (fun (v : State) g => v.writeLoc g.2 (v.xferBytes core c g.1)) r.s) u) ∧
        (c.fn = 4 → let n := 512 * min 8 (c.total - c.progress)
          let off := slotOff c.slot + 512 * (c.row0 + c.progress)
          u.poolRead core off n = List.replicate n 0 ∧ BytesKeptBut s u core off n))) ∧
    (c.state = .running → c.progress = c.total → c.due ≤ s.clock →
      Does (.mxuFinish core) s (fun u => now u cs ∧ u.threads = s.threads ∧ BytesKept s u ∧
        ((lookAt MxNewest.none (s.core core).newest c.slot).id = c.id →
          (lookAt MxNewest.none (s.core core).newest c.slot).state ≠ .none →
          (lookAt MxNewest.none (u.core core).newest c.slot).state = .done))) ∧
    (∀ code, c.fcode = some code → c.told = false → c.state = .accepted ∨ c.state = .running →
      (s.thread c.tid).status = .running → (s.thread c.tid).raised = none → (s.thread c.tid).retrying = none →
      s.deferring c.tid = false →
      Does (.mxuOperandFault core false) s (fun u => now u (head { c with state := .accepted, told := true }) ∧ BytesKept s u ∧
        ThreadsBut s u (· = c.tid) ∧ (u.thread c.tid).status = .faulted ∧
        (u.thread c.tid).raised = some ⟨code, 0, c.faddr, c.pc, .matrix core⟩)) ∧
    (c.told = true → c.fcode = none → c.house = none → Does (.mxuRetry core) s (fun u => u.threads = s.threads ∧ BytesKept s u ∧
      now u (head { c with told := false, faddr := 0, pendOp := [],
                           staged := if c.fn = 5 then [] else c.staged.filter (fun e => e.2.isSome) })))

/-- Matrix commands at work: what a step leaves in each word, and the turns of the unit. -/
def Obligations.MatrixUnitWorks : Prop :=
  Claims.MatrixStepValues ∧ Claims.MatrixCommandsWork

/-- QUEUE ENABLE and DISABLE, DOORBELL, PACKET ACCEPT, DISPATCH OPPORTUNITY, QUEUE PUSH WRITE and QUEUE ACCESS FAULT (R263 to R271,
R276, R278, R282, R456), the accesses to the queue's memory being those of the agent: a queue is what its table entry says;
a doorbell brings WRITE; the next packet gets the next sequence number and an entry, accepted or discarded with 0x50 by the
header and body rules and by the port of a CUE, and activates a loaded context; a ready head packet is dispatched, a LAUNCH with its
tag time fixed and in state checking, or discarded with 0x11 where that time is past (R289); a disabled queue drops what was not
dispatched, the pushes not yet sent among it; a pushed packet goes to the ring, WRITE moves by one and its
access is over (R226), or is sent to the package that reads the queue; a refused access
to the queue faults the context.
When the table entry is read is read by inference (log 40). -/
def Obligations.QueuesWork : Prop :=
  ∀ (s : State) (asid q : Nat),
    let k := s.queue asid q
    let table := s.queueEntryVa asid q
    let plainPush := fun (p : Push) => ∀ a, s.findAcc p.acc = some a → a.fixed = false ∧ a.dest = none
    let live := (s.ctx asid).state = .loaded ∨ (s.ctx asid).state = .resident ∨ (s.ctx asid).state = .pausing
    (∀ e v, k.enabled = false → q < (s.ctx asid).desc.qcount → live → s.agentRead asid table 64 = .ok e v →
      let on := (leNat ((e.drop 13).take 1)).testBit 0
      let c := { Queue.disabled.config e with
        entries := k.leftOver, pushes := k.pushes, askers := k.askers, asked := k.asked, granted := k.granted, turning := none }
      let wr := if c.device then 0 else leNat ((e.drop 16).take 8)
      (on = false ∨ c.wellSet = false → Does (.queueEnable asid q) s (fun u =>
        u.queue asid q = c ∧ u.threads = s.threads)) ∧
      (on = true → c.wellSet = true → c.pkg ≠ s.pkg → Does (.queueEnable asid q) s (fun u =>
        u.queue asid q = { c with enabled := true, write := wr } ∧ u.threads = s.threads)) ∧
      (∀ w, on = true → c.wellSet = true → c.pkg = s.pkg → v.agentWrites asid ((table + 24, leBytes 8 0) ::
          (if c.device then [(table + 16, leBytes 8 0)] else [])) = .ok () w →
        Does (.queueEnable asid q) s (fun u => u.queue asid q = { c with enabled := true, write := wr } ∧
          u.dram = w.dram ∧ u.threads = s.threads))) ∧
    (∀ b v, k.enabled = true → s.isLoaded asid = true → s.agentRead asid (table + 13) 1 = .ok b v →
      (leNat b).testBit 0 = false → (∀ p ∈ k.pushes, plainPush p) →
      Does (.queueDisable asid q) s (fun u => (u.queue asid q).enabled = false ∧
        (u.queue asid q).entries = (k.entries.filter (fun e => e.state = .dispatched)).map (fun e => { e with stale := true }) ∧
        (u.queue asid q).pushes = k.pushes.filter (fun p => p.sent) ∧ (u.queue asid q).taken = 0 ∧ u.threads = s.threads)) ∧
    (∀ b v, k.enabled = true → k.pkg = s.pkg → k.device = false → s.agentRead asid (table + 16) 8 = .ok b v →
      Does (.doorbell asid q) s (fun u => u.queue asid q = { k with write := leNat b, doorbell := false } ∧
        u.threads = s.threads)) ∧
    (∀ bs v v1 w port, (s.ctx asid).state = .resident ∨ ((s.ctx asid).state = .loaded ∧ s.hotDies = []) → k.enabled = true →
      k.pkg = s.pkg → k.taken < k.write → k.entries.countP (fun e => e.state = .accepted) < 64 → k.taken < k.read + k.nent →
      k.entry (BitVec.ofNat 64 (k.taken + 1)) = none → (s.ctx asid).agentOps = [] →
      s.agentRead asid (k.ringVa k.taken) 128 = .ok bs v →
      let e : QEntry := { seq := BitVec.ofNat 64 (k.taken + 1), state := .accepted, code := 0, packet := bs, tacc := s.time,
                          book := k.bookVa k.taken, urgent := false, stale := false, acted := false, ended := false, progress := 0 }
      v.cuePortOk asid e = .ok port v1 →
      let d := (s.ctx asid).desc
      let ok := headerOk d.qcount q e &&
        bodyOk d.qcount d.vcmask k.device ((k.pushAt k.taken).map (fun p => (p.level, p.top))) e && port
      let e' := if ok then e else { e with state := EntryState.discarded, code := 0x50, ended := true }
      let v2 := if (s.ctx asid).state = .loaded then (v1.modCtx asid (fun c => { c with state := .resident })).writeTables asid
        else v1
      (v2.setQueue asid q { k with
          taken := k.taken + 1, entries := k.entries ++ [e'],
          pushes := k.pushes.filter (fun p => p.pos != some k.taken) }).putEntry asid q e' = .ok () w →
      Does (.packetAccept asid q) s (fun u => (u.queue asid q).taken = k.taken + 1 ∧ (u.ctx asid).state = .resident ∧
        (ok = true → (u.queue asid q).entry e.seq = some e) ∧
        (ok = false → ∀ f, (u.queue asid q).entry e.seq = some f → f.state = .discarded ∧ f.code = 0x50) ∧
        u.threads = s.threads)) ∧
    (∀ e cls r v, s.readyHeads = ⟨r, [(cls, queueKey asid q, e, true)], []⟩ → q < 256 → k.entry e.seq = some e →
      ¬ (e.kind = 1 ∧ r.launchTag asid e < r.logical asid) → r.putEntry asid q { e with state := .dispatched } = .ok () v →
      Does .dispatchOpportunity s (fun u => (u.queue asid q).entry e.seq = some { e with state := .dispatched } ∧
        lookAt 0 u.lastServed cls = queueKey asid q ∧ u.threads = s.threads ∧
        (e.kind = 1 → ∃ a, u.findLaunch ⟨asid, q, e.seq⟩ = some a ∧ a.state = .checking ∧
          a.tagT = BitVec.ofNat 64 (r.launchTag asid e)))) ∧
    (∀ e cls r v, s.readyHeads = ⟨r, [(cls, queueKey asid q, e, true)], []⟩ → q < 256 → k.entry e.seq = some e → e.kind = 1 →
      r.launchTag asid e < r.logical asid → r.endEntry asid q e.seq .discarded 0x11 = .ok () v →
      Does .dispatchOpportunity s (fun u => u.threads = s.threads ∧ u.launches = s.launches ∧
        ∀ f, (u.queue asid q).entry e.seq = some f → f.state = .discarded ∧ f.code = 0x11)) ∧
    (∀ e, e.urgent = true → s.headReady asid q e = .ok (some true) s) ∧
    (∀ e, e.ordered = false → (e.field 1 1).testBit 1 = false → s.headReady asid q e = .ok (some true) s) ∧
    (∀ p, k.pushes.find? (fun p => p.pos.isNone && !p.sent) = some p → s.allDone p.after = true → k.pkg ≠ s.pkg →
      k.enabled = true → (s.linkTo k.pkg).isSome = true →
      Does (.queuePushWrite asid q) s (fun u => u.threads = s.threads ∧ BytesKept s u ∧
        (u.queue asid q).pushes = k.pushes.erase p ++ (if p.attached then [{ p with sent := true }] else []))) ∧
    (∀ p v, k.pushes.find? (fun p => p.pos.isNone && !p.sent) = some p → s.allDone p.after = true → k.write < k.read + k.nent →
      k.pkg = s.pkg → plainPush p →
      s.agentWrites asid [(k.ringVa k.write, p.bytes), (table + 16, leBytes 8 (k.write + 1))] = .ok () v →
      Does (.queuePushWrite asid q) s (fun u => (u.queue asid q).write = k.write + 1 ∧ u.dram = v.dram ∧
        (u.queue asid q).pushes = k.pushes.erase p ++ [{ p with pos := some k.write }] ∧ u.threads = s.threads ∧
        (p.origin = s.pkg → u.findAcc p.acc = none))) ∧
    (∀ va code seq, (s.ctx asid).agentBad = [(va, code)] → s.refusedSeq asid q va = some seq →
      (s.ctx asid).state ∈ [.loaded, .resident, .pausing, .paused, .restoring] →
      Does (.queueAccessFault asid q) s (fun u => (u.ctx asid).state = .faulted ∧
        (∀ t ∈ s.ctxTids asid, (s.thread t).ended = false → (u.thread t).status = .killed) ∧
        ThreadsBut s u (· ∈ s.ctxTids asid)))

/-- The packets at work (R270, R272 to R275). CUE: a cue from the host, or its entry discarded with 0x50 where it names no launch, target or port, or, past its time, with
0x11; the clock of a target on another package is within EDOM of this one's (the model's choice: log 78). COPY: one unit a time.
FENCE, MARK: over at once, the value stored. COLLECTIVE-STEP: a SEND moves 64 bytes at a time, sends its notice, and ends on the
acknowledgement of that peer; a RECV takes its notice, and adds or copies what came word by word; ARRIVAL NOTICE: data
written, a notice held and acknowledged. PREEMPT and RESUME: a pause request, or a resume request, as the context's state has
it. PROMPT BOOK COMPLETE: an entry whose work is over becomes complete, and its launch with it. -/
def Obligations.PacketsWork : Prop :=
  ∀ (s : State) (asid q : Nat) (e : QEntry), let k := s.queue asid q
    k.entry e.seq = some e →
    let goes := fun (i : Instr) (e' : QEntry) (more : State → Prop) =>
      Does i s (fun u => (u.queue asid q).entry e.seq = some e' ∧ u.threads = s.threads ∧ more u)
    let drops := fun (b : State) (i : Instr) (code : Nat) => ∀ v, b.endEntry asid q e.seq .discarded code = .ok () v →
      Does i s (fun u => u.threads = s.threads ∧ u.dram = v.dram ∧
        ∀ f, (u.queue asid q).entry e.seq = some f → f.state = .discarded ∧ f.code = code)
    let at' := fun (off : Nat) => BitVec.ofNat 64 (e.field off 8 + e.progress)
    (k.entries.find? (fun e => e.state = .dispatched && e.kind = 2 && !e.acted) = some e →
      let l : LaunchId := ⟨asid, e.field 56 2, BitVec.ofNat 64 (e.field 64 8)⟩
      let edom := (s.ctx asid).desc.edom
      (∀ good port v w, s.cueNames asid e = .ok good v → v.cuePortOk asid e = .ok port w → (good && port) = false →
        drops w (.cuePacket asid q) 0x50) ∧
      ∃ clock, ((∀ p x, s.placeOf l (e.field 32 4) = some (p, x) → p = s.pkg) → clock = s.logical asid) ∧
        clock ≤ s.logical asid + edom ∧ s.logical asid - edom ≤ clock ∧
      (∀ x v, s.cueNames asid e = .ok true x → x.cuePortOk asid e = .ok true v → e.field 40 8 < clock →
        drops v (.cuePacket asid q) 0x11) ∧
      (∀ x v, s.cueNames asid e = .ok true x → x.cuePortOk asid e = .ok true v → clock ≤ e.field 40 8 →
        (∀ d ∈ v.cues, d.id ≠ v.nextId) →
        goes (.cuePacket asid q) { e with acted := true, progress := v.nextId } (fun u => BytesKept v u ∧
          ∃ c, u.cues = v.cues ++ [c] ∧ c.id = v.nextId ∧ c.place = .inFlight ∧ c.sender = some (s.pkg, q, e.seq) ∧
            c.msg.launch = l ∧ c.msg.target = e.field 32 4 ∧
            c.msg.tagT.toNat = e.field 40 8 % 2 ^ 64 ∧ c.msg.tagM.toNat = e.field 38 2 % 2 ^ 16 ∧
            c.msg.port.toNat = e.field 36 1 % 256 ∧ c.msg.src = 0xFFFFFFFF ∧ c.msg.seq = e.seq.setWidth 32 ∧
            c.msg.len = e.field 37 1 ∧ c.msg.payload = (e.packet.drop 48).take 8))) ∧
    (∀ bs v w, k.working 3 = some e → e.progress < (packetCopy e).units →
      s.channelRead asid ((packetCopy e).srcAt e.progress 0) = .ok bs v →
      v.channelWrite asid ((packetCopy e).dstAt e.progress 0) ((packetCopy e).convert bs) = .ok () w →
      goes (.copyPacket asid q) { e with progress := e.progress + 1, ended := e.progress + 1 = (packetCopy e).units }
        (fun u => BytesKept w u)) ∧
    (k.working 5 = some e → goes (.fencePacket asid q) { e with acted := true, ended := true } (BytesKept s)) ∧
    (∀ v, k.working 6 = some e → s.agentWrite asid (BitVec.ofNat 64 (e.field 32 8)) ((e.packet.drop 40).take 8) = .ok () v →
      goes (.mark asid q) { e with acted := true, ended := true } (BytesKept v)) ∧
    (k.working 4 = some e →
      let peer := e.field 34 2
      let step := BitVec.ofNat 32 (e.field 36 4)
      let len := e.field 56 8
      let moved := fun (n : Nat) => { e with progress := e.progress + n, ended := e.field 32 1 != 0 && e.progress + n = len }
      let sends := fun (m : LinkMsg) (u : State) => ∀ p, s.linkTo peer = some p →
        lookAt [] (u.port p).queues (e.field 33 1 % 8) = lookAt [] (s.port p).queues (e.field 33 1 % 8) ++
          messageFlits (mkFlit (e.field 33 1) s.pkg peer (some m))
      (e.field 32 1 = 0 → (s.linkTo peer).isSome = true → (∀ w ∈ s.unsent, w.2.1 ≠ peer) →
        (∀ bs v, e.progress < len → s.agentRead asid (at' 40) 64 = .ok bs v →
          goes (.collectiveStep asid q) (moved 64) (fun u => sends (.collData asid step (at' 48) bs) u)) ∧
        (len ≤ e.progress → e.acted = false →
          goes (.collectiveStep asid q) { e with acted := true } (fun u => sends (.collNotice asid step) u ∧ BytesKept s u)) ∧
        (∀ port src vc rest, len ≤ e.progress → e.acted = true → src = peer → s.inbox = ⟨port, src, vc, .collAck asid step⟩ :: rest →
          goes (.collectiveStep asid q) { e with ended := true } (fun u => u.inbox = rest ∧ BytesKept s u))) ∧
      (e.field 32 1 ≠ 0 →
        (e.acted = false → (peer, step) ∈ (s.ctx asid).notices →
          goes (.collectiveStep asid q) { e with acted := true } (fun u => BytesKept s u ∧
            (u.ctx asid).notices = (s.ctx asid).notices.erase (peer, step))) ∧
        (∀ b v w, e.acted = true → e.field 32 1 = 2 → s.agentRead asid (at' 48) 4 = .ok b v →
          v.agentWrite asid (at' 40) b = .ok () w →
          goes (.collectiveStep asid q) (moved 4) (BytesKept w)) ∧
        (∀ a b v v' w, e.acted = true → e.field 32 1 = 1 → s.agentRead asid (at' 48) 4 = .ok b v →
          v.agentRead asid (at' 40) 4 = .ok a v' → v'.agentWrite asid (at' 40) (addBytes a b) = .ok () w →
          goes (.collectiveStep asid q) (moved 4) (BytesKept w)))) ∧
    (∀ port src vc rest step, s.inbox = ⟨port, src, vc, .collNotice asid step⟩ :: rest →
      Does .arrivalNotice s (fun u => (u.ctx asid).notices = (s.ctx asid).notices ++ [(src, step)] ∧ u.inbox = rest ∧
        u.threads = s.threads ∧ BytesKept s u)) ∧
    (∀ port src vc rest step va bs v, s.inbox = ⟨port, src, vc, .collData asid step va bs⟩ :: rest →
      { s with inbox := rest }.agentWrite asid va bs = .ok () v →
      Does .arrivalNotice s (fun u => u.inbox = rest ∧ u.threads = s.threads ∧ BytesKept v u)) ∧
    (k.entries.find? (fun e => e.state = .dispatched && e.kind = 7 && !e.acted) = some e →
      let past := decide ((s.ctx asid).state ≠ .resident)
      goes (.preempt asid q) { e with acted := true, ended := past } (fun u => BytesKept s u ∧
        (u.ctx asid).state = (if past then (s.ctx asid).state else .pausing) ∧
        (past = false → (u.ctx asid).pause = some (newPause (s.ownReply asid (s.proposal asid)) (s.ctx asid).peers (e.field 32 2)
          ((e.field 34 1).testBit 0) (some (q, e.seq)))))) ∧
    (k.entries.find? (fun e => e.state = .dispatched && e.kind = 8 && !e.acted) = some e →
      ((s.ctx asid).state = .resident → goes (.resume asid q) { e with acted := true, ended := true } (BytesKept s)) ∧
      (∀ p, (s.ctx asid).state = .paused → (s.ctx asid).pause = some p →
        goes (.resume asid q) { e with acted := true, ended := false } (fun u => BytesKept s u ∧
          (u.ctx asid).state = .restoring ∧ ∃ r, (u.ctx asid).pause = some r ∧ r.pr = some (s.time + 10000) ∧
            r.prWaits = (s.ctx asid).peers ∧ r.placed = false ∧ r.resumeHeld = some (q, e.seq))) ∧
      (∀ p, (s.ctx asid).state = .pausing → (s.ctx asid).pause = some p → p.resumeHeld = none →
        goes (.resume asid q) { e with acted := true, ended := false } (fun u => BytesKept s u ∧
          (u.ctx asid).pause = some { p with resumeHeld := some (q, e.seq) }))) ∧
    (∀ v w, k.entries.find? (fun f => f.seq = e.seq && f.state = .dispatched) = some e → s.workOver asid q e = .ok true v →
      v.endEntry asid q e.seq .complete 0 = .ok () w →
      Does (.promptBookComplete asid q e.seq) s (fun u => u.threads = s.threads ∧ u.dram = w.dram ∧ u.hostMem = w.hostMem ∧
        (∀ f, (u.queue asid q).entry e.seq = some f → f.state = .complete ∧ f.code = 0) ∧
        ∀ a, u.findLaunch ⟨asid, q, e.seq⟩ = some a → a.state = .complete))

/-- LAUNCH (R289, R290, R303): the entry of a launch under its checks is discarded with the code of the first check of its image that
fails, the image's own first with 0x45; else the launch, its tag as fixed at dispatch, waits for its gangs. PART ENDED (R302, R303): the last
thread of a gang here has ended, and with the last gang the launch is finishing. GANG PLACED (R297, R298): the cores of the next gang are held, with the kernel's
partition word, and its cast begins. CAST (R299, R300): the core's threads are asleep with the registers of R300 and a launch
cue, full bits clear and accumulator slots zero, and the message goes on to the next four cores. GANG LEAVES (R298): once all its
threads, on every package, have ended, its cores are free, and its threads stay retired or killed (R311). HOST STORE ACK READ (R458): no host store of the launch is outstanding.
The order of checks and placements beyond R290 and R297 is read by inference (logs 42 and 44). -/
def Obligations.LaunchesRun : Prop :=
  ∀ (s : State) (asid q : Nat) (seq : Word), let id : LaunchId := ⟨asid, q, seq⟩
    (∀ e a, (s.queue asid q).entries.find? (fun e => e.state = .dispatched && e.kind = 1 && !e.acted) = some e →
      (s.queue asid q).entry e.seq = some e → e.seq = seq → s.findLaunch id = some a → a.state = .checking →
      let at' := BitVec.ofNat 64 (e.field 32 8)
      (∀ t v, s.readImage asid at' = .ok t v →
        (headerGood at' t.1 = false ∨ imageGood (imageOfBytes at' t.1 t.2.1 t.2.2) = false) →
        ∃ i w, s.checkImage asid at' = .ok (i, some 0x45) w) ∧
      (∀ i code x v, s.checkImage asid at' = .ok (i, some code) x →
        (x.agentDone asid).endEntry asid q seq .discarded code = .ok () v →
        Does (.launch asid q) s (fun u => u.threads = s.threads ∧ (∃ b, u.findLaunch id = some b ∧ b.state = .discarded) ∧
          ∀ f, (u.queue asid q).entry seq = some f → f.state = .discarded ∧ f.code = code)) ∧
      (∀ i x, s.checkImage asid at' = .ok (i, none) x → Does (.launch asid q) s (fun u => u.threads = s.threads ∧
        (u.queue asid q).entry seq = some { e with acted := true } ∧
        ∃ b, u.findLaunch id = some b ∧ b.state = .waiting ∧ b.home = s.pkg ∧ b.image = i ∧
          b.args = BitVec.ofNat 64 (e.field 40 8) ∧ b.tagT = a.tagT ∧ b.gangs = []))) ∧
    (∀ a g p rs v free, s.findLaunch id = some a → a.state = .waiting ∨ a.state = .running → a.home = s.pkg →
      (s.ctx asid).state = .resident → a.nextGang = some g →
      Room.gang ⟨a.image.partWord, s.ctxPkgs asid, fun c => if c / 10240 = s.pkg then s.coreFree (c % 10240)
        else free.contains c⟩ a.image g (a.heldUnits g) = some p →
      s.regionTable asid = .ok rs v → (v.agentDone asid).saveFits asid (gangOf g p) false
        (fun c => if c / 10240 = s.pkg then s.coreFree (c % 10240) else free.contains c) rs = true →
      let own := ((gangOf g p).cores.filter (fun c => c.1 = s.pkg)).map Prod.snd
      Does (.gangPlaced asid q seq free) s (fun u => u.threads = s.threads ∧
        u.findLaunch id = some { a with gangs := a.gangs ++ [gangOf g p], state := .running } ∧
        (∀ c ∈ own, (u.core c).owner = some (id, g) ∧ (u.core c).part = a.image.partWord ∧
          (u.core c).pool = (s.core c).pool) ∧
        (own ≠ [] → ∃ r ∈ u.casts, r.msg = castOf a (gangOf g p) ∧ r.due = [0]))) ∧
    (∀ m core rest, s.casts = [⟨m, [0]⟩] → (m.cores.filter (fun c => c.1 = s.pkg)).map Prod.snd = core :: rest →
      ((s.findLaunch m.launch).map (fun a => a.kills)).getD [] = [] →
      let kids := [1, 2, 3, 4].filter (fun k => decide (k ≤ rest.length))
      Does (.cast core) s (fun u => u.casts = (if kids = [] then [] else [⟨m, kids⟩]) ∧
        (∀ g, lookAt false (u.core core).full g = false) ∧
        (∀ a, (u.core core).pool.byte a = if freeTop m.image.partWord ≤ a then 0 else (s.core core).pool.byte a) ∧
        (∀ n, lookAt 0 (u.core core).slotStat n = 0) ∧
        ∀ slot gidx, (s.pkg, core, slot, gidx) ∈ m.threads →
          (∀ t ∈ m.threads, t.1 = s.pkg → t.2.1 = core → t.2.2.1 = slot → t.2.2.2 = gidx) →
          let t := u.thread (4 * core + slot)
          t.status = .asleep ∧ t.launch = m.launch ∧ t.gidx = gidx ∧ t.xn = 8 * partXn m.image.partWord ∧
          t.vn = 8 * partVn m.image.partWord ∧ t.getX 4 = m.args ∧ t.getX 5 = BitVec.ofNat 64 gidx ∧
          (∀ r, r ≠ 4 → r ≠ 5 → t.getX r = 0) ∧ (∀ r, t.getV r = 0) ∧ (∀ r, r ≠ 0 → t.getP r = false) ∧
          (∀ r, r ≠ 0 → t.getK r = 0) ∧ (∀ r, t.getS r = 0) ∧ t.pend = 0 ∧ t.fpflags = 0 ∧ t.rndmode = 0 ∧
          t.srstate = (if (BitVec.ofNat 32 gidx ^^^ 0x9E3779B9 : BitVec 32) = 0 then 1
            else (BitVec.ofNat 32 gidx ^^^ 0x9E3779B9 : BitVec 32).setWidth 64) ∧
          t.stacklim = -1 ∧ t.budget = none ∧ t.lastT = m.tagT ∧ t.lastM = 0 ∧
          ∃ c ∈ u.cues, c.place = .stored (4 * core + slot) ∧ c.msg.isLaunch = true ∧ c.msg.target = gidx ∧
            c.msg.launch = m.launch ∧ c.msg.tagT = m.tagT ∧ c.msg.tagM = 0 ∧ c.msg.payload = leBytes 8 m.args.toNat)) ∧
    (∀ a g gang, s.findLaunch id = some a → a.gangs.find? (fun g => g.index = gang) = some g → g.gone.contains s.pkg = false →
      g.finished = true → s.gangEnded id g = true → (∀ t ∈ s.gangSlots g, s.lettingGo t.1 = true) →
      Does (.gangLeaves asid q seq gang) s (fun u => BytesKept s u ∧
        (∀ t ∈ s.gangSlots g, u.thread t.1 = { s.thread t.1 with gone := true }) ∧ ThreadsBut s u (· ∈ (s.gangSlots g).map Prod.fst) ∧
        (∀ c ∈ (g.cores.filter (fun c => c.1 = s.pkg)).map Prod.snd, (u.core c).owner = none ∧ (u.core c).part = 0) ∧
        ∃ b, u.findLaunch id = some b ∧ ∃ h ∈ b.gangs, h.index = gang ∧ s.pkg ∈ h.gone)) ∧
    (∀ a g, s.findLaunch id = some a → a.gangs = [g] → s.gangSlots g ≠ [] → g.ended = [] → s.gangEnded id g = true → s.casts = [] →
      a.home = s.pkg → a.state = .running → (∀ c ∈ g.cores, c.1 = s.pkg) → a.nextGang = none →
      ∃ u, execPartEnded asid q seq s = .next u ∧ u.threads = s.threads ∧ BytesKept s u ∧
        u.findLaunch id = some { a with gangs := [{ g with ended := [s.pkg], finished := true }], state := .finishing }) ∧
    (∀ a b v, s.findLaunch id = some a → a.hostStores ≠ 0 → a.hostSent = a.hostStores → s.launchQuiet a = true →
      s.childrenOver id = .ok b v →
      Does (.hostStoreAckRead asid q seq) s (fun u => u.threads = s.threads ∧
        u.findLaunch id = some { a with hostStores := 0, hostSent := 0, owed := a.owed && !b }))

/-- The host's commands (R247, R251, R443, R444, R447). CREATE builds the context that the descriptor describes; LOAD compares the
descriptor with those of the packages that have loaded it and admits a good one, and the context is loaded once every package has
done so; DESTROY acts as a root fault where anything is placed, then, its marks written, frees its cores, threads and ASID; CLEAR frees a
faulted one's, its marks written and READ := WRITE in each queue, and loads it again; ATTEST writes the report of the nonce and its signature; each ends with done and
interrupt 0, and a command that the state does not allow is refused with 2, a bad descriptor with 1, an argument that does not
lie in memory with 3. What a locked context needs of the power limit, and the order in which packages ask and answer, are the model's
choice (log 46). -/
def Obligations.HostCommands : Prop :=
  ∀ (s : State) (asid : Nat),
    let c := s.ctx asid
    let ends := fun (i : Instr) (st reason : Nat) (more : State → Prop) =>
      Does i s (fun u => u.bar0.cmdState = st ∧ u.bar0.reason = reason ∧ u.msix.getLast? = some 0 ∧ more u)
    let same := fun (u : State) => u.threads = s.threads ∧ u.ctxs = s.ctxs ∧ BytesKept s u
    let freed := fun (u : State) => (∀ t ∈ s.ctxTids asid, u.thread t = Thread.vacant) ∧
      (∀ k ∈ s.heldCores asid, u.core k = Core.idle) ∧ ThreadsBut s u (· ∈ s.ctxTids asid)
    (∀ peers, s.commanded 1 asid = true →
      (c.state = .absent → 2 ^ 64 < s.bar0.arg0.toNat + 128 → ends (.create asid peers) 3 3 same) ∧
      (c.state = .absent → s.bar0.arg0.toNat + 128 ≤ 2 ^ 64 → ends (.create asid peers) 2 0 (fun u => u.threads = s.threads ∧ BytesKept s u ∧
        u.ctx asid = { Ctx.absent with
          state := .built, desc := descOf asid (s.hostMem.read s.bar0.arg0.toNat 128),
          raw := s.hostMem.read s.bar0.arg0.toNat 128, peers := peers, waits := peers })) ∧
      (c.state ≠ .absent → ends (.create asid peers) 3 2 same)) ∧
    (s.commanded 2 asid = true →
      let linked := c.peers.filter (fun p => (s.linkTo p).isSome)
      let fresh : Ctx := { c with asking := none, told := [] }
      let loaded : Ctx := { fresh with root := s.bar0.arg1.toNat, loadedHere := true }
      let open' := c.state = .built ∧ c.loadedHere = false ∧ s.lockRefused asid = false
      (¬ open' → ends (.load asid) 3 2 same) ∧
      (open' → c.asking = none → s.descGood asid = true → linked ≠ [] → Does (.load asid) s (fun u => u.bar0 = s.bar0 ∧
        u.ctx asid = { c with asking := some linked } ∧ u.threads = s.threads ∧ BytesKept s u)) ∧
      (open' → s.descGood asid = false → c.asking = none ∨ c.asking = some [] → ends (.load asid) 3 1 (fun u =>
        u.ctx asid = fresh ∧ u.threads = s.threads ∧ BytesKept s u)) ∧
      (open' → s.descGood asid = true → (c.asking = none ∧ linked = []) ∨ c.asking = some [] → ends (.load asid) 2 0 (fun u =>
        u.ctx asid = (if c.waits = [] then { loaded with state := .loaded, unchecked := List.range c.desc.qcount } else loaded) ∧
        u.threads = s.threads ∧ BytesKept s u))) ∧
    (∀ port src vc rest, s.inbox = ⟨port, src, vc, .loadAsk asid⟩ :: rest → c.asking = none ∨ src < s.pkg →
      Does .loadAgreement s (fun u => u.inbox = rest ∧ u.threads = s.threads ∧ u.ctxs = s.ctxs ∧ BytesKept s u)) ∧
    (∀ port src vc rest d, s.inbox = ⟨port, src, vc, .loadTell asid d⟩ :: rest →
      Does .loadAgreement s (fun u => u.inbox = rest ∧ u.threads = s.threads ∧ u.ctx asid = { c with
        asking := c.asking.map (fun l => l.filter (fun p => p != src)), told := c.told ++ d.toList } ∧ BytesKept s u)) ∧
    (∀ port src vc rest d, s.inbox = ⟨port, src, vc, .loaded asid d⟩ :: rest → c.state = .built →
      let waits := c.waits.filter (fun p => p != src)
      Does .loadAgreement s (fun u => u.inbox = rest ∧ u.threads = s.threads ∧ (u.ctx asid).loads = c.loads ++ [(src, d)] ∧
        (u.ctx asid).waits = waits ∧ (u.ctx asid).state = if c.loadedHere && waits.isEmpty then .loaded else .built)) ∧
    (s.commanded 3 asid = true →
      (c.state = .absent → ends (.destroy asid) 3 2 same) ∧
      (c.state ∈ [.loaded, .resident, .paused] → s.heldCores asid ≠ [] → Does (.destroy asid) s (fun u =>
        (u.ctx asid).state = .faulted ∧ u.bar0.cmdState = s.bar0.cmdState ∧
        (∀ t ∈ s.ctxTids asid, (s.thread t).ended = false → (u.thread t).status = .killed) ∧ ThreadsBut s u (· ∈ s.ctxTids asid))) ∧
      (c.state ∉ [.absent, .pausing, .restoring] → s.heldCores asid = [] ∨ c.state ∈ [.built, .faulted] → c.owed = [] →
        ends (.destroy asid) 2 0 (fun u => u.ctx asid = Ctx.absent ∧ freed u ∧ ∀ q, q < 256 → u.queue asid q = Queue.disabled)) ∧
      (c.state ∈ [.pausing, .restoring] ∨ (c.state = .faulted ∧ c.owed ≠ []) → exec (.destroy asid) s = .next s)) ∧
    (s.commanded 4 asid = true →
      (c.state ≠ .faulted → ends (.clear asid) 3 2 same) ∧
      (c.state = .faulted → c.owed ≠ [] → exec (.clear asid) s = .next s) ∧
      (∀ v, c.state = .faulted → c.owed = [] → (∀ q ∈ s.queuesOf asid, (s.queue asid q).pushes = []) →
        State.idleQueues asid (s.queuesOf asid) s = .ok () v →
        ends (.clear asid) 2 0 (fun u => (u.ctx asid).state = .loaded ∧ freed u))) ∧
    (s.commanded 5 asid = true →
      let nonce := s.hostMem.read s.bar0.arg0.toNat 32
      let at' := s.bar0.arg1.toNat
      let wrote := fun (m : Memory) (keys : Option (Nat × List Byte)) (u : State) =>
        let r := s.report nonce keys
        let bs := r ++ leBytes 64 (Config.sm2Sign (Config.sm3 r)).toNat
        u.threads = s.threads ∧ u.hostMem.read at' bs.length = bs ∧
        ∀ a, a < at' ∨ at' + bs.length ≤ a → u.hostMem.byte a = m.byte a
      let lies := s.bar0.arg0.toNat + 32 ≤ 2 ^ 64 ∧ at' + 448 ≤ 2 ^ 64
      (¬ lies → ends (.attest asid) 3 3 same) ∧
      (lies → s.isLoaded asid = false → ends (.attest asid) 2 0 (wrote s.hostMem none)) ∧
      (∀ ks v, lies → s.isLoaded asid = true → s.agentRead asid c.desc.keytab (32 * c.desc.keycount) = .ok ks v →
        ends (.attest asid) 2 0 (wrote v.hostMem (some (asid, ks)))))

/-- Pause and resume (R251 to R254, R257): a proposal is answered with a time not yet reached; the greatest of the answers is
agreed; at that time the threads of the context stop, keeping what they were doing; once nothing is under way, here and on the other
packages, the image is written, the threads and cores are free and the context is paused. A resume reads the image back, and, the image
and the kernel agreeing, places its threads and cores; the greatest instant is agreed once every package has done so, DELTA makes
the logical clock go on at tp, and at that instant the threads go on and the context is resident. An image past its area, and one
that does not agree, fault the context. What a THREAD record holds comes back as it was.
What no record carries, and the exchange of messages, are the model's choice (logs 47 and 49). -/
def Obligations.PauseAndResume : Prop :=
  ∀ (s : State) (asid : Nat),
    let c := s.ctx asid
    let tells := fun (u : State) (dst : Nat) (m : LinkMsg) => (∀ w ∈ s.unsent, w.2.1 ≠ dst) → ∀ p, s.linkTo dst = some p →
      lookAt [] (u.port p).queues 0 = lookAt [] (s.port p).queues 0 ++ [mkFlit 0 s.pkg dst (some m)]
    (∀ port src vc rest tp reason regions by', s.inbox = ⟨port, src, vc, .pausePropose asid tp reason regions by'⟩ :: rest →
      let own := max tp.toNat (s.logical asid + 1)
      (c.state = .resident ∨ c.state = .loaded → Does .pauseProposal s (fun u => u.inbox = s.inbox ∧ u.threads = s.threads ∧
        (u.ctx asid).state = .pausing ∧
        ((u.ctx asid).pause.map (fun p => (p.tp, p.agreed, p.reason, p.regions, p.byEntry))) =
          some (BitVec.ofNat 64 own, false, reason, regions, by'))) ∧
      (c.state ≠ .resident → c.state ≠ .loaded → c.castOut = [] → Does .pauseProposal s (fun u => u.inbox = rest ∧
        u.threads = s.threads ∧ u.ctxs = s.ctxs ∧ tells u src (.pauseReply asid (BitVec.ofNat 64 own))))) ∧
    (∀ port src vc rest tp p, s.inbox = ⟨port, src, vc, .pauseReply asid tp⟩ :: rest → c.state = .pausing → c.pause = some p →
      src ∈ p.waits →
      let waits := p.waits.filter (fun x => x != src)
      Does .pauseReply s (fun u => u.inbox = rest ∧ u.threads = s.threads ∧ (u.ctx asid).pause = some { p with
        tp := BitVec.ofNat 64 (max p.tp.toNat tp.toNat), waits := waits,
        agreed := p.agreed || (p.byProposer && waits.isEmpty && c.castOut.isEmpty) })) ∧
    (∀ port src vc rest tp p, s.inbox = ⟨port, src, vc, .pauseAgree asid tp⟩ :: rest → c.state = .pausing →
      c.pause = some p → p.stopped = false →
      Does .pauseAgreed s (fun u => u.inbox = rest ∧ u.threads = s.threads ∧ (u.ctx asid).pause = some { p with
        tp := BitVec.ofNat 64 (max p.tp.toNat tp.toNat), agreed := true })) ∧
    (∀ p, c.state = .pausing → c.pause = some p → p.stopped = false → p.agreed = true → p.tp.toNat ≤ s.logical asid →
      s.casts = [] → (∀ q ∈ s.cues, s.startsBefore asid q = false) →
      Does (.releaseStop asid) s (fun u => (u.ctx asid).pause = some { p with stopped := true } ∧ BytesKept s u ∧
        ThreadsBut s u (· ∈ s.ctxTids asid) ∧
        ∀ t ∈ s.ctxTids asid, (s.thread t).status ∈ [.running, .parked, .blocked, .stalled, .asleep, .faulted] →
          (u.thread t).status = .paused ∧ (u.thread t).pc = (s.thread t).pc ∧ RegsKept (s.thread t) (u.thread t) [] ∧
          ((s.thread t).wait ≠ some .yield → (u.thread t).prior = (s.thread t).status ∧ (u.thread t).wait = (s.thread t).wait))) ∧
    (∀ p, c.state = .pausing → c.pause = some p → p.stopped = true → s.saveReady asid = true → p.saveTold = false →
      Does (.saveComplete asid) s (fun u => (u.ctx asid).state = .pausing ∧ (u.ctx asid).pause = some { p with saveTold := true } ∧
        u.threads = s.threads ∧ BytesKept s u ∧ (c.peers = [] → u.ports = s.ports) ∧
        ∀ d, c.peers = [d] → tells u d (.saveReady asid))) ∧
    (∀ p, c.state = .pausing → c.pause = some p → p.stopped = true → p.regions = false → s.saveReady asid = true →
      p.saveTold = true → p.saveWaits = [] → s.killComing asid = false →
      let part := s.imagePart asid p [] false
      (∀ v, part.1.length ≤ c.desc.saveSize → p.resumeHeld = none → s.agentWrites asid [(c.desc.saveAddr, part.1)] = .ok () v →
        Does (.saveComplete asid) s (fun u => (u.ctx asid).state = .paused ∧ (u.ctx asid).saved = some (v.snapshot asid part.2.1 []) ∧
          u.dram = v.dram ∧ (∀ t ∈ s.ctxTids asid, u.thread t = Thread.vacant) ∧
          (∀ k ∈ s.heldCores asid, u.core k = Core.idle) ∧ ThreadsBut s u (· ∈ s.ctxTids asid))) ∧
      (c.desc.saveSize < part.1.length →
        Does (.saveComplete asid) s (fun u => (u.ctx asid).state = .faulted ∧ ThreadsBut s u (· ∈ s.ctxTids asid)))) ∧
    (∀ p, c.state = .restoring → c.pause = some p → p.agreed = false → p.placed = true → s.inbox = [] →
      let pr := BitVec.ofNat 64 (max (p.pr.getD 0).toNat (s.time.toNat + 10000))
      (p.byProposer = true → p.prWaits = [] → Does (.resumeAgreement asid) s (fun u => u.threads = s.threads ∧ BytesKept s u ∧
        (u.ctx asid).delta = newDelta p.tp pr c.desc.tk ∧
        (u.ctx asid).pause = some { p with pr := some pr, prWaits := [], agreed := true })) ∧
      (∀ d, p.byProposer = false → p.prWaits = [d] → Does (.resumeAgreement asid) s (fun u => u.threads = s.threads ∧
        BytesKept s u ∧ (u.ctx asid).pause = some { p with pr := some pr, prWaits := [] } ∧
        tells u d (.resumeReady asid p.tp pr none)))) ∧
    (∀ p port src vc rest tp pr by', s.inbox = ⟨port, src, vc, .resumeReady asid tp pr by'⟩ :: rest → c.state = .paused →
      c.pause = some p →
      Does (.resumeAgreement asid) s (fun u => u.inbox = rest ∧ u.threads = s.threads ∧ (u.ctx asid).state = .restoring ∧
        (u.ctx asid).pause.map (fun p => (p.pr, p.prWaits, p.agreed, p.placed, p.resumeHeld)) =
          some (some pr, [src], false, false, by'))) ∧
    (∀ p v m w, c.state = .restoring → c.pause = some p → c.saved = some v → s.placing asid v = some m →
      (∀ r, s.readBack asid v = .ok (some r) w → (∀ a ∈ s.launches, a.kills = []) →
        (r.threads.map (fun t => m.tid t.1)).Nodup → (r.cores.map (fun k => m.core k.1)).Nodup →
        ∃ u, execImagePlaced asid s = .next u ∧ (u.ctx asid).state = .restoring ∧ (u.ctx asid).saved = none ∧ u.dram = w.dram ∧
          (u.ctx asid).pause.map (fun p => p.placed) = some true ∧
          (∀ t ∈ r.threads, u.thread (m.tid t.1) = t.2.moved m) ∧ ∀ k ∈ r.cores, u.core (m.core k.1) = k.2.moved m) ∧
      (s.readBack asid v = .ok none w → ∃ u, execImagePlaced asid s = .next u ∧ (u.ctx asid).state = .faulted)) ∧
    (∀ p, c.state = .restoring → c.pause = some p → p.placed = true → p.agreed = true → (p.pr.getD 0).toNat ≤ s.time.toNat →
      (s.ctxTids asid).Nodup →
      Does (.restoreComplete asid) s (fun u => (u.ctx asid).state = .resident ∧ (u.ctx asid).pause = none ∧
        (u.ctx asid).epoch = c.epoch + 1 ∧ u.dram = s.dram ∧ (∀ t ∈ s.ctxTids asid, u.thread t = (s.thread t).wake) ∧
        ThreadsBut s u (· ∈ s.ctxTids asid))) ∧
    (∀ tid first (old : Thread), let t := s.thread tid
      let v := old.ofRecord (s.threadRecord tid first)
      v.pc = t.pc ∧ v.pend = t.pend ∧ v.tagT = t.tagT ∧ v.tagM = t.tagM ∧ v.port = t.port ∧ v.stacklim = t.stacklim ∧
      v.fpflags = t.fpflags ∧ v.rndmode = t.rndmode ∧ v.srstate = t.srstate ∧ v.baseT = t.baseT ∧ v.baseM = t.baseM ∧
      v.baseOver = t.baseOver ∧ v.postCtr = t.postCtr ∧ v.cycle = t.cycle ∧
      (∀ n, n < 5 → lookAt 0 v.perf n = lookAt 0 t.perf n) ∧ ∀ n, n < 4 → lookAt 0 v.finfo n = lookAt 0 t.finfo n)

/-! ## Events: chains, barriers, links, starts -/

/-- The control messages of a chain (R357, R362 to R370), for the first message in the list and the entry that it concerns: JOIN
records a member that agrees, and is refused with NAK 4, 3, 2 or 1 as the consumer stands; ACK lets the declared strips leave; NAK
makes the member try again after 256 cycles, or break and fault; a strip is counted and credited, or discarded as a duplicate,
and the last one completes the target, when its
word's turn at the pool has come (R229): its word, its full bit, its entry closed; CREDIT, COMPLETE and BREAK do what they say;
a member whose setup time runs out raises CHAIN.TIMEOUT.
The answers to a JOIN and the timeout of an ended thread are read by inference (logs 51 and 53). -/
def Obligations.ChainsWork : Prop :=
  ∀ (s : State),
    (∀ m rest tile i e, s.chainMsgs = m :: rest → (∀ x ∈ rest, x.id ≠ m.id) → s.chainFor m = some (tile, i, e) →
      s.chain tile i = e →
      let reply := fun (u : State) (kind : ChainKind) => u.chainMsgs = rest ++ [⟨s.nextId, kind, m.asid, m.chain, e.member,
        tileOf m.toCore, i, m.fromTile * 8, some m.fromEntry⟩] ∧ u.threads = s.threads ∧ BytesKept s u
      let thread := s.thread e.tid
      let runs := thread.status = .running ∧ thread.raised = none ∧ thread.retrying = none ∧ s.deferring e.tid = false
      let raises := fun (u : State) (code : FaultCode) (data pc : Word) => ThreadsBut s u (· = e.tid) ∧
        (u.thread e.tid).status = .faulted ∧ (u.thread e.tid).raised = some ⟨code, 0, data, pc, .chain tile i⟩
      let broken := fun (u : State) (cause : Nat) => (u.chain tile i).state = .broken ∧ (u.chain tile i).cause = cause
      (∀ rule w row0 nrows nmem member core, m.kind = .join rule w row0 nrows nmem member core →
        let agrees := e.rule = rule ∧ e.w = w ∧ e.row0 = row0 ∧ e.nrows = nrows ∧ e.nmem = nmem
        (e.isOpen = false → Does (.chainJoin m.id) s (fun u => reply u (.nak 4 e.cause))) ∧
        (e.isOpen = true → thread.status = .retired → Does (.chainJoin m.id) s (fun u => reply u (.nak 3 0))) ∧
        (e.isOpen = true → thread.status ≠ .retired → ¬ agrees → Does (.chainJoin m.id) s (fun u => reply u (.nak 2 0))) ∧
        (e.isOpen = true → thread.status ≠ .retired → agrees → Does (.chainJoin m.id) s (fun u => u.threads = s.threads ∧
          BytesKept s u ∧ (u.chain tile i).joined = e.joined ++ [(member, m.fromTile, m.fromEntry)] ∧
          ((m.fromTile, m.fromEntry) ≠ (tile, i) → (s.chain m.fromTile m.fromEntry).state = .joining →
            (s.chain m.fromTile m.fromEntry).asid = m.asid → (s.chain m.fromTile m.fromEntry).chain = m.chain →
            (u.chain m.fromTile m.fromEntry).state = .joined ∧ (u.chain m.fromTile m.fromEntry).nextEntry = i)))) ∧
      (m.kind = .ack → e.isOpen = true → e.role ≠ 2 → Does (.chainAck m.id) s (fun u => u.threads = s.threads ∧
        BytesKept s u ∧ (u.chain tile i).ackIn = true ∧ (u.chain tile i).nextEntry = m.fromEntry ∧
        (e.state = .joining ∨ e.state = .joined → (u.chain tile i).state = .sending))) ∧
      (∀ cause, m.kind = .nak 1 cause → e.state = .joining → Does (.chainNak m.id) s (fun u => u.threads = s.threads ∧
        (u.chain tile i).joinDue = some (s.clock + 256))) ∧
      (∀ cause, m.kind = .nak 2 cause → e.isOpen = true → runs → Does (.chainNak m.id) s (fun u => broken u 4 ∧
        raises u .chainBusy 8 e.pc)) ∧
      (∀ cause, m.kind = .nak 3 cause → e.isOpen = true → runs → Does (.chainNak m.id) s (fun u => broken u 4 ∧
        raises u .chainAbsent 0 e.pc)) ∧
      (∀ cause, m.kind = .nak 4 cause → e.isOpen = true → runs → Does (.chainNak m.id) s (fun u => broken u cause ∧
        (e.role ≠ 2 → e.firstSend = true → e.ackIn = false → raises u .chainBroken 0 e.sendPc))) ∧
      (∀ k, m.kind = .credit k → e.isOpen = true → Does (.chainCredit m.id) s (fun u => u.threads = s.threads ∧
        BytesKept s u ∧ (u.chain tile i).sent = e.sent ||| (1#16 <<< k) ∧
        ((e.sent ||| (1#16 <<< k)) &&& e.allStrips = e.allStrips → (u.chain tile i).state = .done))) ∧
      (m.kind = .complete → e.state ≠ .broken → e.role ≠ 2 → Does (.chainComplete m.id) s (fun u =>
        u.chain tile i = ChainEntry.free ∧ u.threads = s.threads ∧ BytesKept s u)) ∧
      (∀ cause, m.kind = .brk cause → e.isOpen = true → runs → Does (.chainBreak m.id) s (fun u => broken u cause ∧
        (e.role ≠ 2 → e.firstSend = true → e.ackIn = false → raises u .chainBroken 0 e.sendPc)))) ∧
    (∀ m rest rule w row0 nrows nmem member core, s.chainMsgs = m :: rest → (∀ x ∈ rest, x.id ≠ m.id) →
      m.kind = .join rule w row0 nrows nmem member core → s.chainFor m = none →
      Does (.chainJoin m.id) s (fun u => u.threads = s.threads ∧ BytesKept s u ∧ ∃ x, u.chainMsgs = rest ++ [x] ∧
        x.toEntry = some m.fromEntry ∧ x.kind = .nak (match (s.core m.toCore).owner with
          | some (l, _) => if l.asid = m.asid then 1 else 3
          | none => 3) 0)) ∧
    (∀ tile entry, let e := s.chain tile entry
      let limit := (s.ctx e.asid).desc.chTimeout
      (∀ due, e.joinDue = some due → e.state = .joining → due ≤ s.clock → s.halted e.asid = false →
        Does (.joinRetry tile entry) s (fun u => u.threads = s.threads ∧ BytesKept s u ∧ (u.chain tile entry).joinDue = none ∧
          u.chainMsgs = s.chainMsgs ++ [⟨s.nextId, .join e.rule e.w e.row0 e.nrows e.nmem e.member e.core, e.asid, e.chain,
            e.member, tile, entry, e.next, none⟩])) ∧
      (e.isOpen = true → e.role ≠ 2 → e.firstSend = true → e.ackIn = false → limit ≠ 0 → e.elapsed = limit →
        (s.thread e.tid).status = .running → (s.thread e.tid).raised = none →
        (s.thread e.tid).retrying = none → s.deferring e.tid = false → Does (.chainTimeout tile entry) s (fun u => ThreadsBut s u (· = e.tid) ∧ BytesKept s u ∧
          (u.thread e.tid).status = .faulted ∧
          (u.thread e.tid).raised = some ⟨.chainTimeout, 0, 0, e.sendPc, .chain tile entry⟩)) ∧
      (∀ src p, s.strips.find? (fun p => p.tile = tile && p.entry = entry && p.src = src) = some p → e.isOpen = true →
        let credited := fun (u : State) => ∃ c ∈ u.chainMsgs, c.kind = .credit p.strip ∧ c.toEntry = some p.fromEntry
        let f := s.chain p.fromTile p.fromEntry
        let sender := f.isOpen = true ∧ f.asid = e.asid ∧ f.chain = e.chain ∧ f.member = src
        (e.holds src p.strip = true → Does (.stripAccepted tile entry src) s (fun u => u.strips = (s.pathIn p).strips.erase p ∧
          (u.chain tile entry).dups = e.dups + 1 ∧ (u.chain tile entry).count = e.count ∧ credited u ∧ BytesKept s u ∧
          (p.replay = true ∨ e.strict = false ∨ ¬ sender → u.threads = s.threads) ∧
          (p.replay = false → e.strict = true → sender → (p.fromTile, p.fromEntry) ≠ (tile, entry) →
            (s.thread f.tid).status = .running → (s.thread f.tid).raised = none → (s.thread f.tid).retrying = none →
            s.deferring f.tid = false → (u.thread f.tid).raised =
              some ⟨.chainDup, 0, 0, f.sendPc, .chain p.fromTile p.fromEntry⟩))) ∧
        (e.holds src p.strip = false → e.role = 2 → p.served = 32 →
          (e.count + 1 ≠ e.wanted → Does (.stripAccepted tile entry src) s (fun u => u.strips = (s.pathIn p).strips.erase p ∧
            (u.chain tile entry).count = e.count + 1 ∧ (p.strip < 16 → (u.chain tile entry).holds src p.strip = true) ∧
            credited u ∧ u.threads = s.threads ∧ BytesKept s u)) ∧
          (e.count + 1 = e.wanted → e.rule ≠ 1 → s.inTurn e.core (poolOff e.cword) 16 rankEngine = true → Does (.stripAccepted tile entry src) s (fun u => credited u ∧
            u.threads = s.threads ∧ u.chain tile entry = ChainEntry.free ∧ u.fullBit e.core (poolOff e.cword) = true ∧
            u.poolRead e.core (poolOff e.cword) 16 = leBytes 8 ((e.count + 1) % 2 ^ 16 + e.dups % 2 ^ 16 * 2 ^ 16 +
              orF e.flags p.flags % 128 * 2 ^ 32) ++ List.replicate 8 0 ∧
            BytesKeptBut s u e.core (poolOff e.cword) 16)))) ∧
      (∀ r m p, s.portSenders tile entry = r → nextAfter e.lastSrc r.1 = some m → r.2.servable tile entry m = some p →
        e.role = 2 → e.isOpen = true → s.writersDone e = true → s.allDone e.after = true → e.rule ≠ 1 →
        p.data.length = 1024 → let off := e.stripOff p.strip + 128 * p.served
        r.2.inTurn e.core off 128 rankEngine = true →
        Does (.targetAdderFlit tile entry) s (fun u => (u.chain tile entry).lastSrc = m ∧ u.threads = s.threads ∧
          u.poolRead e.core off 128 = bytesOf (addWords (wordsOf (s.poolRead e.core off 128))
            ((p.data.drop (32 * p.served)).take 32)).1 ∧ BytesKeptBut s u e.core off 128)))

/-- Barriers at their homes and members (R378, R383 to R390, R455). The arrival that makes the count releases the phase: the sense
flips, the phase counts up and every member that arrived is told; others only count, those at a barrier that is not initialised
too. A drop lowers the count of an initialised barrier, which may release the phase, and frees the barrier with its last member; a departure is
a drop that the tile remembers. A curtain's release reaches the members 40 cycles later. A release ends the member's wait
with the phase as its status, a freed barrier frees the entry, a release that the thread had not arrived for flips its sense or, where a
ninth entry would be needed, raises BAR.OVERRUN with DATA 2; a timeout raises BAR.TIMEOUT; at the home IGNORE releases the phase
and RETRY starts its time again.
The order of messages is read by inference (log 54). -/
def Obligations.BarriersWork : Prop :=
  ∀ (s : State),
    let bar := fun (u : State) (tile i : Nat) => lookAt none (u.tile tile).bars i
    let next := fun (b : Barrier) => { b with
      arrived := [], sense := !b.sense, phase := b.phase + 1, retried := false, elapsed := 0, due := none }
    let told := fun (u : State) (b : Barrier) (timedOut : Bool) (due : Nat) => ∀ w ∈ b.arrived,
      (timedOut = false ∨ (w ∈ s.barMembers b.key ∧ w ∉ b.dropped)) →
      ∃ g ∈ u.barMsgs, g.msg = .release b.key w b.phase (!b.sense) timedOut false due
    (∀ f rest, s.barMsgs = f :: rest → (∀ g ∈ rest, g.id ≠ f.id) → s.allDone f.after = true → s.barPkg f.msg = some s.pkg →
      s.barsHere f.msg = true →
      (∀ key tile, s.msgTile f.msg = some tile → s.nodeGone key.launch key.level key.node = false →
        (∀ who sense i, f.msg = .arrive key who sense → (s.tile tile).findBar key = none → (s.tile tile).freeBar = some i →
          who ∉ ((s.tile tile).newBar key).dropped → Does (.barrierArrival f.id) s (fun u => u.threads = s.threads ∧ BytesKept s u ∧
            u.barMsgs = rest ∧ bar u tile i = some { (s.tile tile).newBar key with arrived := [who] })) ∧
        (∀ who i b, f.msg = .ask key who → (s.tile tile).findBar key = some (i, b) → Does (.barrierArrival f.id) s (fun u =>
          u.barMsgs = rest ++ [⟨s.nextId, .room key who, []⟩] ∧ { u with barMsgs := s.barMsgs, nextId := s.nextId } = s)) ∧
        (∀ i b, (s.tile tile).findBar key = some (i, b) → bar s tile i = some b →
          let keeps := fun (b' : Barrier) => Does (.barrierArrival f.id) s (fun u => u.threads = s.threads ∧ BytesKept s u ∧
            u.barMsgs = rest ∧ bar u tile i = some b')
          let releases := fun (b' : Barrier) => Does (.barrierArrival f.id) s (fun u => u.threads = s.threads ∧ BytesKept s u ∧
            bar u tile i = some (next b') ∧ told u b' false 0)
          (∀ who sense, f.msg = .arrive key who sense → who ∉ b.dropped → (b.init = true → 1 ≤ b.count) →
            let b' := { b with arrived := b.arrived ++ [who] }
            (b.isOpen = true → b.curtain = false → b.count = b'.arrived.length → releases b') ∧
            (b.isOpen = false ∨ b.curtain = true ∨ b.count ≠ b'.arrived.length → keeps b')) ∧
          (∀ who withdraw, f.msg = .drop key who withdraw → who ∉ b.dropped →
            let b' := { b with
              dropped := b.dropped ++ [who], count := if b.init then b.count - 1 else b.count
              arrived := if withdraw then b.arrived.erase who else b.arrived }
            (b.init = false → keeps b') ∧
            (b.init = true → b.count ≤ 1 → Does (.barrierArrival f.id) s (fun u => u.threads = s.threads ∧ BytesKept s u ∧
              bar u tile i = none ∧ ∃ fs : List BarFly, u.barMsgs = rest ++ fs ∧
                fs.map (fun g => g.msg) = (s.barMembers key).map (fun w => .freed key w))) ∧
            (b.isOpen = true → b.curtain = false → 2 ≤ b.count → b.count = b'.arrived.length + 1 → releases b') ∧
            (b.init = true → 2 ≤ b.count → b.isOpen = false ∨ b.curtain = true ∨ b.count ≠ b'.arrived.length + 1 → keeps b')))) ∧
      (∀ key tile, (∃ who sense, f.msg = .arrive key who sense) ∨ (∃ who withdraw, f.msg = .drop key who withdraw) →
        s.msgTile f.msg = some tile → s.nodeGone key.launch key.level key.node = true →
        exec (.barrierArrival f.id) s = .next { s with barMsgs := rest }) ∧
      (∀ l level node who entries tile, f.msg = .depart l level node who entries → s.msgTile f.msg = some tile →
        s.nodeGone l level node = false →
        Does (.threadDeparture f.id) s (fun u => u.threads = s.threads ∧ BytesKept s u ∧
          (u.tile tile).departed = (s.tile tile).departed ++ [⟨l, level, node, who⟩])) ∧
      (∀ key who tid, s.findThread who.launch who.gidx = some tid → (s.thread tid).ended = false →
        (∀ phase sense timedOut due e, f.msg = .release key who phase sense timedOut false due → due ≤ s.clock →
          (s.thread tid).member key.level key.obj = some e →
          Does (.barrierRelease f.id) s (fun u => ThreadsBut s u (· = tid) ∧ BytesKept s u ∧
            (u.thread tid).member key.level key.obj = some { e with
              arrived := false, sense := !e.sense, done := true,
              status := BitVec.ofNat 64 ((if timedOut then 1 else 0) + phase.toNat * 2 ^ 32) })) ∧
        (f.msg = .freed key who → Does (.barrierRelease f.id) s (fun u => ThreadsBut s u (· = tid) ∧ BytesKept s u ∧
          (u.thread tid).member key.level key.obj = none)) ∧
        (∀ phase sense timedOut due, f.msg = .release key who phase sense timedOut true due → due ≤ s.clock →
          (∀ e, (s.thread tid).member key.level key.obj = some e → Does (.barrierRelease f.id) s (fun u =>
            ThreadsBut s u (· = tid) ∧ BytesKept s u ∧ (u.thread tid).member key.level key.obj = some { e with sense := !e.sense })) ∧
          ((s.thread tid).member key.level key.obj = none → (s.thread tid).members.length < 8 → Does (.barrierRelease f.id) s
            (fun u => ThreadsBut s u (· = tid) ∧ BytesKept s u ∧
              (u.thread tid).member key.level key.obj = some (newMember key.level key.obj sense))) ∧
          ((s.thread tid).member key.level key.obj = none → 8 ≤ (s.thread tid).members.length →
            (s.thread tid).status = .running → (s.thread tid).raised = none → (s.thread tid).retrying = none →
            s.deferring tid = false → Does (.barrierRelease f.id) s (fun u => ThreadsBut s u (· = tid) ∧ BytesKept s u ∧
              (u.thread tid).raised = some ⟨.barOverrun, 0, 2, (s.thread tid).pc, .barrier false⟩))) ∧
        (f.msg = .room key who → (s.thread tid).barAsk = some (key.level, key.obj, false) →
          Does (.barrierRelease f.id) s (fun u => ThreadsBut s u (· = tid) ∧ BytesKept s u ∧
            (u.thread tid).barAsk = some (key.level, key.obj, true))) ∧
        (∀ total count again e, f.msg = .timeout key who total count again →
          (s.thread tid).member key.level key.obj = some e → (s.thread tid).status = .parked → (s.thread tid).raised = none →
          (s.thread tid).retrying = none → s.deferring tid = false → Does (.barrierRelease f.id) s (fun u => ThreadsBut s u (· = tid) ∧ BytesKept s u ∧
            (u.thread tid).status = .faulted ∧ (u.thread tid).raised = some ⟨.barTimeout, 0,
              BitVec.ofNat 64 (total % 2 ^ 32 + count * 2 ^ 32), e.pc, .barrier again⟩)))) ∧
    (∀ tile i b, bar s tile i = some b →
      (b.curtain = true → b.complete = true → Does (.curtainArrival tile i) s (fun u => u.threads = s.threads ∧
        BytesKept s u ∧ bar u tile i = some (next b) ∧ told u b false (s.clock + 40))) ∧
      (b.timeout ≠ 0 → b.elapsed = b.timeout → b.arrived ≠ [] → b.isOpen = true →
        let warned := fun (u : State) => ∀ w ∈ b.arrived,
          ∃ g ∈ u.barMsgs, g.msg = .timeout b.key w b.arrived.length b.count b.retried
        (s.timeoutAction b = .ignore → Does (.barTimeout tile i) s (fun u => warned u ∧ u.threads = s.threads ∧
          bar u tile i = some (next b) ∧ told u b true 0)) ∧
        (s.timeoutAction b = .retry → Does (.barTimeout tile i) s (fun u => warned u ∧ u.threads = s.threads ∧
          bar u tile i = some { b with retried := true, elapsed := 0 })) ∧
        (∀ l, s.timeoutAction b = .kill l → Does (.barTimeout tile i) s (fun u => warned u ∧ u.threads = s.threads ∧
          bar u tile i = some { b with elapsed := b.timeout + 1 }))))

/-- The link (R419 to R424, R428 to R432). A flit that fails FEC or its CRC, and one of a reserved KIND, makes the receiver ask for a
retry; the next good one is accepted, its credits are taken, and
with its last flit a message is delivered here, or passed on over the same VC. A flit time carries a retry request, a flit sent again, the flit that
arbitration picks, or an idle flit, each with its SEQ, its acknowledgement, the credits given back and its CRC. The states of a port
follow R428 and R429, more than 400 symbols corrected for each lane in 1 ms fail a lane, a port that goes down carries and keeps
nothing and fails the remote operations it held back to their source, and a route changes once no operation is under way by the old one.
The size of a message is the model's choice (log 82); the CRC's start, what idle and retry flits carry, and what fails with a port, are read by
inference or chosen (logs 57 to 59). -/
def Sys2Proof.Claims.LinksWork : Prop :=
  ∀ (s : State) (port : Nat), let p := s.port port
    let same := fun (u : State) => u.threads = s.threads ∧ BytesKept s u
    let down := fun (i : Instr) => Does i s (fun u => (u.port port).state = .down ∧ (u.port port).lanes = 0 ∧
      (u.port port).replay = [] ∧ (u.port port).queues = [])
    let got := fun (u : State) (f : Flit) => (u.port port).rxSeq = (if f.kept then p.rxSeq + 1 else p.rxSeq) ∧ (u.port port).fails = 0
    (∀ f : Flit, p.carries = true → p.retryDue = false →
      (f.fec = false ∨ f.crc ≠ crc64 f.covered ∨ 5 ≤ f.kind.code.toNat → Does (.flitReceived port f) s (fun u => same u ∧
        u.port port = { p with heard := s.clock, fixes := p.fixed s.clock f, retryDue := true, fails := p.fails + 1 })) ∧
      (f.good = true → f.kind = .retry → Does (.flitReceived port f) s (fun u => same u ∧ u.cues = s.cues ∧ u.inbox = s.inbox ∧
        (u.port port).replay = dropThrough f.ack p.replay ∧ (u.port port).again = (u.port port).replay)) ∧
      (f.good = true → f.kind.code.toNat < 5 → f.kind ≠ .retry → f.seq ≠ p.rxSeq → Does (.flitReceived port f) s (fun u => same u ∧
        u.port port = { p with heard := s.clock, fixes := p.fixed s.clock f } ∧ u.cues = s.cues ∧ u.inbox = s.inbox)) ∧
      (f.good = true → f.kind = .idle → f.seq = p.rxSeq → Does (.flitReceived port f) s (fun u => same u ∧ got u f ∧
        u.cues = s.cues ∧ u.inbox = s.inbox ∧ (∀ v, f.credit ≠ 0 → p.half s.pkg v = p.half s.pkg f.cvc.toNat →
          (u.port port).credit s.pkg v = p.credit s.pkg v + f.credit.toNat))) ∧
      (f.good = true → f.kind = .data → f.seq = p.rxSeq → f.last = false → Does (.flitReceived port f) s (fun u => same u ∧ got u f ∧
        u.cues = s.cues ∧ u.inbox = s.inbox ∧ lookAt 0 (u.port port).freed f.vc.toNat = lookAt 0 p.freed f.vc.toNat + 1 ∧
        (f.ackv = true → (u.port port).replay = dropThrough f.ack p.replay))) ∧
      (f.good = true → f.kind = .data ∨ f.kind = .stamp ∨ f.kind = .manage → f.seq = p.rxSeq → f.last = true →
        (∀ c sender, f.dst.toNat = s.pkg → f.msg = some (.cue c sender) → Does (.flitReceived port f) s (fun u => same u ∧ got u f ∧
          ∃ k, u.cues = s.cues ++ [k] ∧ k.id = s.nextId ∧ k.msg = c ∧ k.place = .inFlight ∧ k.sender = sender)) ∧
        (∀ num asid pa op, f.dst.toNat = s.pkg → f.msg = some (.remoteOp num asid pa op) →
          Does (.flitReceived port f) s (fun u => same u ∧ got u f ∧
            u.inbox = s.inbox ++ [⟨port, f.src.toNat, f.vc.toNat, .remoteOp num asid pa op⟩])) ∧
        (∀ t1, f.dst.toNat = s.pkg → f.msg = some (.stamp1 t1) → Does (.flitReceived port f) s (fun u => same u ∧ got u f ∧
          u.inbox = s.inbox ++ [⟨port, f.src.toNat, f.vc.toNat, .stamp1 t1⟩])) ∧
        (∀ out, f.dst.toNat ≠ s.pkg → s.linkTo f.dst.toNat = some out → Does (.flitReceived port f) s (fun u => same u ∧ got u f ∧
          lookAt [] (u.port out).queues f.vc.toNat = lookAt [] (s.port out).queues f.vc.toNat ++ messageFlits f)))) ∧
    (∀ seq, p.carries = true → Does (.retryRequest port seq) s (fun u => same u ∧
      (u.port port).replay = dropThrough (BitVec.ofNat 12 seq) p.replay ∧ (u.port port).again = (u.port port).replay ∧
      ((u.port port).replay = [] → (u.port port).resends = 0) ∧
      ((u.port port).replay ≠ [] → (u.port port).replay.length = p.replay.length → (u.port port).resends = p.resends + 1))) ∧
    (p.carries = true → s.cues = [] → s.barMsgs = [] →
      let on := fun (u : State) (f : Flit) => (u.port port).wire = some f ∧ same u ∧ (u.port port).sentAt = s.clock + 1
      let marked := fun (f : Flit) => f.seq = p.txSeq ∧ f.ack = p.rxSeq - 1 ∧ f.crc = crc64 f.covered
      (p.retryDue = true → Does (.flitTime port) s (fun u => (u.port port).retryDue = false ∧
        ∃ f, on u f ∧ f.kind = .retry ∧ f.ackv = true ∧ marked f)) ∧
      (∀ f fs, p.retryDue = false → p.again = f :: fs → Does (.flitTime port) s (fun u => on u f ∧
        (u.port port).again = fs ∧ (u.port port).resent = p.resent + 1)) ∧
      (p.retryDue = false → p.again = [] → s.pickVc port p = none → Does (.flitTime port) s (fun u =>
        ∃ f, on u f ∧ f.kind = .idle ∧ marked f ∧ (f.credit = 0 → (u.port port).txSeq = p.txSeq ∧ (u.port port).replay = p.replay) ∧
          (f.credit ≠ 0 → (u.port port).txSeq = p.txSeq + 1 ∧ (u.port port).replay = p.replay ++ [f]))) ∧
      (∀ v own f fs, p.retryDue = false → p.again = [] → s.pickVc port p = some (v, own) → lookAt [] p.queues v = f :: fs →
        f.kind = .data ∨ f.kind = .stamp ∨ f.kind = .manage → Does (.flitTime port) s (fun u => lookAt [] (u.port port).queues v = fs ∧
          (u.port port).credit s.pkg v = p.credit s.pkg v - 1 ∧ (u.port port).txSeq = p.txSeq + 1 ∧
          ∃ g, on u g ∧ marked g ∧ g.kind = f.kind ∧ g.msg = f.msg ∧ g.dst = f.dst ∧ (u.port port).replay = p.replay ++ [g]))) ∧
    (p.carries = true → 8 ≤ p.fails ∨ 8 ≤ p.resends → down (.retryExhausted port)) ∧
    (p.carries = true → 10000 ≤ s.clock - p.heard → down (.peerLost port)) ∧
    (p.carries = true → p.lanes ≤ 1 → down (.laneFailure port)) ∧
    (p.carries = true → 1 < p.lanes → Does (.laneFailure port) s (fun u => (u.port port).state = .degraded ∧
      (u.port port).lanes = (if p.lanes = 4 then 2 else 1) ∧ (u.port port).again = p.replay ∧ u.threads = s.threads)) ∧
    (p.carries = true → let fixed := ((p.fixes.filter (fun e => decide (s.clock < e.1 + 1000000))).map Prod.snd).sum
      (fixed ≤ 400 * p.lanes → execFecFailure port s = .next s) ∧
      (400 * p.lanes < fixed → ∃ u, execFecFailure port s = .next u ∧ u.threads = s.threads ∧
        (p.lanes ≤ 1 → (u.port port).state = .down ∧ (u.port port).lanes = 0) ∧
        (1 < p.lanes → (u.port port).state = .degraded ∧ (u.port port).lanes = (if p.lanes = 4 then 2 else 1) ∧
          (u.port port).again = p.replay))) ∧
    (∀ f num asid pa op, p.carries = true → p.replay = [f] → p.queues = [] → f.msg = some (.remoteOp num asid pa op) →
      f.src.toNat ≠ s.pkg → 10000 ≤ s.clock - p.heard → Does (.peerLost port) s (fun u =>
        u.unsent = s.unsent ++ [(2, f.src.toNat, .remoteAck num (.refused .link))])) ∧
    (p.state = .training → down (.trainFail port)) ∧
    (∀ lanes, p.state = .training → lanes = 4 ∨ lanes = 2 ∨ lanes = 1 → Does (.trainDone port lanes) s (fun u =>
      (u.port port).state = .up ∧ (u.port port).lanes = lanes ∧ (u.port port).txSeq = 0 ∧ (u.port port).rxSeq = 0 ∧
      (∀ v, v < 8 → ∀ pkg, (u.port port).credit pkg v = vcBuffers v / 2) ∧ (u.port port).replay = [] ∧
      (u.port port).heard = s.clock ∧ (u.port port).fixes = [] ∧ u.threads = s.threads)) ∧
    (∀ peer peerPort, p.state = .off → port < 64 → Does (.configure port peer peerPort) s (fun u =>
      (u.port port).state = .training ∧ (u.port port).peer = peer ∧ (u.port port).peerPort = peerPort ∧
      (u.port port).resent = 0 ∧ u.threads = s.threads)) ∧
    (p.state = .degraded ∨ p.state = .down → Does (.retrain port) s (fun u => (u.port port).state = .training ∧
      (u.port port).lanes = 0)) ∧
    (p.state ≠ .off → Does (.portDisable port) s (fun u => u.port port = { Port.off with slots := p.slots })) ∧
    (∀ dst, (∀ o ∈ s.opsOut, o.pkg ≠ dst) → s.passesOn dst = false → Does (.routeTableUpdate dst port) s (fun u => same u ∧
      u.route dst = (if port < 64 then some port else none) ∧ ∀ d, d ≠ dst → u.route d = s.route d))

/-- Time (R329, R426, R427). Every 16 µs the parent's end of a port sends t1; the child notes it and answers t3, and the parent t4;
then DELAY is known, the child's clock is set where no context is loaded and slewed otherwise, and ERR is the parent's, the correction and the
asymmetry together; it grows by 1 while exchanges are missed, and is 0 at the root. OFF and DELAY are counted in half nanoseconds.
How a half counts in TIME and ERR is read by inference (log 60). -/
def Sys2Proof.Claims.TimeTransfer : Prop :=
  ∀ (s : State) (port : Nat), let p := s.port port
    let sends := fun (u : State) (dst : Nat) (m : LinkMsg) => lookAt [] (u.port port).queues 0 =
      lookAt [] p.queues 0 ++ [mkFlit 0 s.pkg dst (some m)]
    let errIs := fun (u : State) (n : Nat) => u.err.toNat = min n (2 ^ 64 - 1)
    (p.carries = true → s.parent ≠ some port → 16000 ≤ s.clock - p.stamp → Does (.timeExchange port) s (fun u =>
      (u.port port).stamp = s.clock ∧ sends u p.peer (.stamp1 s.time) ∧ u.threads = s.threads ∧ BytesKept s u)) ∧
    (∀ src vc rest t1, s.inbox = ⟨port, src, vc, .stamp1 t1⟩ :: rest → Does .timeStamp s (fun u => u.inbox = rest ∧
      (u.port port).exchange = some (t1, s.time, s.time) ∧ sends u src (.stamp3 s.time) ∧ u.threads = s.threads)) ∧
    (∀ src vc rest t3, s.inbox = ⟨port, src, vc, .stamp3 t3⟩ :: rest → Does .timeStamp s (fun u => u.inbox = rest ∧
      sends u src (.stamp4 s.time s.err) ∧ (u.port port).locked = true ∧
      (u.port port).state = (if p.state = .up then .timeLocked else p.state) ∧ u.threads = s.threads)) ∧
    (∀ src vc rest t4 e t1 t2 t3, s.inbox = ⟨port, src, vc, .stamp4 t4 e⟩ :: rest → p.exchange = some (t1, t2, t3) →
      s.parent = some port →
      let there : Int := t2.toNat - t1.toNat
      let back : Int := t4.toNat - t3.toNat
      let off := there - back
      Does .timeStamp s (fun u => u.inbox = rest ∧ errIs u (e.toNat + ((off + s.slew).natAbs + 1) / 2 + s.asym) ∧
        u.holdover = false ∧ u.lastExchange = s.clock ∧ (u.port port).locked = true ∧ (u.port port).delay = there + back ∧
        ((∃ c ∈ s.ctxs, s.isLoaded c.1 = true) → u.time = s.time ∧ u.slew = -off) ∧
        ((∀ c ∈ s.ctxs, s.isLoaded c.1 = false) → u.time = BitVec.ofInt 64 ((s.time.toNat : Int) - off / 2) ∧
          u.slew = -(off % 2)))) ∧
    (s.timeRoot ≠ s.pkg → 16000 ≤ s.clock - s.lastExchange → Does .holdover s (fun u => u.holdover = true ∧
      errIs u (s.err.toNat + 1) ∧ u.lastExchange = s.lastExchange + 16000 ∧ u.time = s.time)) ∧
    (∀ root asym, (root = s.pkg → Does (.parentPortNamed port root asym) s (fun u => u.timeRoot = root ∧ u.parent = none ∧
        u.err = 0 ∧ u.slew = 0 ∧ u.lastExchange = s.clock)) ∧
      (root ≠ s.pkg → Does (.parentPortNamed port root asym) s (fun u => u.timeRoot = root ∧ u.parent = some port ∧
        u.asym = asym ∧ u.err = s.err ∧ u.lastExchange = s.clock ∧ u.threads = s.threads)))

/-- Links: flits, retries, port states and routes; time transfer. -/
def Obligations.LinksAndTime : Prop :=
  Claims.LinksWork ∧ Claims.TimeTransfer

/-- Starts and the host's registers (R28, R437 to R449). The steps of a start run in order, and one that fails leaves the package failed
with its number and code and no later step's work done: step 1 where neither root port holds an image, step 2 where the image's key hash is not the
fused one or its signature does not verify over the digest taken with SIG zero, step 3, 4 or 6 where that step fails. A cold start
that no step stops leaves every unit at reset, every configured port trained, the package time root or locked to its parent port, its memory
zero and STATUS ready; a warm start keeps routes and the ports that carry flits, and is a cold one where the DRAM parameters fail their
check. A write to BAR 0 at the offset of a control register
stores its value, which a read gives back, RESET starts the package, CMD starts a command, a window write reaches DRAM and the window reads
zero until STATUS is ready, POWER takes a value in its range that covers what is
needed, capping is active at the limit, and the thermal trip pauses every resident context while capping.
What is no boot image is the model's choice (log 76); what a start keeps, POWER at 7500, and refused writes are read by inference (logs 61 to 63). -/
def Obligations.StartsAndRegisters : Prop :=
  ∀ (s : State),
    let bare := fun (u : State) => u.threads = [] ∧ u.tiles = [] ∧ u.accs = [] ∧ u.ctxs = [] ∧
      u.queues = [] ∧ u.launches = [] ∧ u.stations = [] ∧ u.channels = [] ∧ u.cues = [] ∧ u.hotDies = [] ∧
      u.hostMem = s.hostMem
    let ready := fun (u : State) => u.cores = [] ∧ u.dram = [] ∧ u.bar0 = { Bar0.reset with status := 2, power := 7500 }
    let stops := fun (u : State) (n : Nat) => u.bar0 = { Bar0.reset with status := 3, step := n, failure := n } ∧ u.dram = s.dram
    (∀ boot,
      let image := fun (i : List Byte) => boot.image0.filter isBootImage = some i ∨
        boot.image0.filter isBootImage = none ∧ boot.image1.filter isBootImage = some i
      let digest := fun (i : List Byte) => Config.sm3 (i.take 64 ++ List.replicate 64 0 ++ (i.take (bootSize i)).drop 128)
      let signed := fun (i : List Byte) => bootKeyHash i = Config.measurement 3 ∧
        Config.sm2Verify (bootKeyHash i) (digest i) (bootSig i) = true
      let signedImage := ∃ i, image i ∧ signed i
      let locks := fun (u : State) => u.pkg = boot.pkg % 2048 ∧
        (boot.parent = none → u.timeRoot = u.pkg ∧ u.parent = none ∧ u.err = 0) ∧
        (∀ p, boot.parent = some p → u.timeRoot = boot.root % 2048 ∧ u.parent = some p ∧ u.asym = boot.asym ∧ u.time = boot.time ∧
          u.err = boot.err)
      let trained := fun (u : State) (b : BootPort) => let p := u.port b.port
        p.peer = b.peer ∧ p.peerPort = b.peerPort ∧
        (b.lanes = 4 ∨ b.lanes = 2 ∨ b.lanes = 1 → p.lanes = b.lanes ∧ p.credits = freshCredits ∧
          p.state = (if boot.parent = some b.port then .timeLocked else .up)) ∧
        (¬ (b.lanes = 4 ∨ b.lanes = 2 ∨ b.lanes = 1) → p.lanes = 0 ∧ p.state = .down)
      let single := boot.ports.Pairwise (fun a b => a.port ≠ b.port)
      (∀ i ∈ [Instr.powerOnReset boot, .resetCold boot, .registerWrite ⟨0x018, boot⟩ 2],
        ((∀ img, ¬ image img) → Does i s (fun u => bare u ∧ stops u 1 ∧ u.ports = [] ∧ u.dramParams = s.dramParams)) ∧
        (∀ img, image img → Does i s (fun u => bare u ∧ u.bootDigest = digest img) ∧
          (¬ signed img → Does i s (fun u => stops u 2 ∧ u.ports = [] ∧ u.dramParams = s.dramParams))) ∧
        (signedImage → boot.failed = some 3 → Does i s (fun u => bare u ∧ stops u 3 ∧ u.ports = [] ∧ u.dramParams = false)) ∧
        (signedImage → boot.failed = some 4 → Does i s (fun u => bare u ∧ stops u 4 ∧ u.ports = [] ∧ u.dramParams = true)) ∧
        (signedImage → boot.failed = some 6 → Does i s (fun u => bare u ∧ stops u 6 ∧ u.parent = none ∧ u.dramParams = true)) ∧
        (signedImage → boot.failed ≠ some 3 → boot.failed ≠ some 4 → boot.failed ≠ some 6 → Does i s (fun u => bare u ∧ ready u ∧
          locks u ∧ u.routes = [] ∧ u.dramParams = true ∧ (boot.parent = none → u.time = 0) ∧
          (single → ∀ b ∈ boot.ports, b.port < 64 → trained u b)))) ∧
      (∀ i ∈ [Instr.functionLevelReset boot, .resetWarm boot, .registerWrite ⟨0x018, boot⟩ 1], s.dramParams = true → boot.dramOk = true →
        let keeps := fun (u : State) (port : Nat) (st : PortState) => (s.port port).carries = true → (u.port port).state = st ∧
          (u.port port).txSeq = (s.port port).txSeq ∧ (u.port port).rxSeq = (s.port port).rxSeq ∧
          (u.port port).credits = (s.port port).credits ∧ (u.port port).slots = []
        ((∀ img, ¬ image img) → Does i s (fun u => bare u ∧ stops u 1 ∧ ∀ port, keeps u port (s.port port).state)) ∧
        (∀ img, image img → ¬ signed img → Does i s (fun u => bare u ∧ stops u 2 ∧ ∀ port, keeps u port (s.port port).state)) ∧
        (signedImage → boot.failed = some 6 → Does i s (fun u => bare u ∧ stops u 6)) ∧
        (signedImage → boot.failed ≠ some 6 → Does i s (fun u => bare u ∧ ready u ∧ locks u ∧ u.routes = s.routes ∧
          u.dramParams = true ∧ (boot.parent = none → u.time = s.time) ∧
          (∀ port, boot.parent ≠ some port → keeps u port (s.port port).state) ∧
          (single → ∀ b ∈ boot.ports, b.port < 64 → (s.ports.map Prod.fst).Nodup →
            (s.port b.port).carries = false → trained u b)))) ∧
      (∀ i ∈ [Instr.functionLevelReset boot, .resetWarm boot], s.dramParams = false ∨ boot.dramOk = false →
        exec i s = exec (.resetCold boot) s)) ∧
    (∀ off len, s.bar0.status ≠ 2 → s.windowRead off len = List.replicate len 0 ∧
      ∀ reg, reg ≠ 0 → reg ≠ 8 → s.readRegister reg = 0) ∧
    (s.bar0.status = 2 → ∀ (w : Word) (boot : BootReport),
      let b := s.bar0
      let writes := fun (off : Nat) => Instr.registerWrite ⟨off, boot⟩ w
      let leaves := fun (off : Nat) (b' : Bar0) => exec (writes off) s = .next { s with bar0 := b' }
      leaves 0x028 { b with arg0 := w } ∧ leaves 0x030 { b with arg1 := w } ∧ leaves 0x060 { b with evread := w } ∧
      leaves 0x040 { b with winbase := w &&& 0xFFFFFFFE00000000 } ∧
      leaves 0x048 { b with evbase := w &&& 0xFFFFFFFFFFFFF000, evwrite := 0 } ∧
      (∀ k, k ≤ 10 → w.toNat = 64 * 2 ^ k → leaves 0x050 { b with evsize := w }) ∧
      (∀ off, off ∉ [0x018, 0x020, 0x028, 0x030, 0x040, 0x048, 0x050, 0x060, 0x070] → exec (writes off) s = .next s) ∧
      s.readRegister 0 = 0x01B05A04 ∧ s.readRegister 0x38 = BitVec.ofNat 64 (b.cmdState + b.reason * 2 ^ 8) ∧
      (∀ t, exec (writes 0x028) s = .next t → t.readRegister 0x28 = w ∧ ∀ off, off ≠ 0x28 →
        t.readRegister off = s.readRegister off) ∧
      (w ≠ 1 → w ≠ 2 → exec (writes 0x018) s = .next s) ∧
      (b.cmdState = 1 → exec (writes 0x020) s = .next s) ∧
      (b.cmdState ≠ 1 → 1 ≤ cmdOp w.toNat → cmdOp w.toNat ≤ 5 →
        leaves 0x020 { b with cmd := w.toNat % 2 ^ 20, cmdState := 1, reason := 0 }) ∧
      (b.cmdState ≠ 1 → cmdOp w.toNat = 0 ∨ 5 < cmdOp w.toNat → Does (writes 0x020) s (fun u =>
        u.bar0.cmdState = 3 ∧ u.bar0.reason = 4 ∧ u.msix = s.msix ++ [0])) ∧
      (let needed := if s.locks = [] then 0 else Config.lockedWatts s.locks
       (∀ n, n ≠ needed → exec (.powerWrite w n) s = .next s) ∧
       ∀ i ∈ [writes 0x070, .powerWrite w needed],
        (1000 ≤ w.toNat → w.toNat ≤ 7500 → needed ≤ w.toNat → exec i s = .next { s with bar0 := { b with power := w } }) ∧
        (needed ≤ w.toNat → w.toNat < 1000 ∨ 7500 < w.toNat → exec i s = .next s) ∧
        (w.toNat < needed → Does i s (fun u => u.bar0.power = b.power ∧ u.msix = s.msix ++ [1]))) ∧
      (∀ off bs, off + bs.length ≤ 2 ^ 33 → let pa := b.winbase.toNat + off
        (pa + bs.length ≤ dramSize → Does (.hostWindowWrite off bs) s (fun u => u.windowRead off bs.length = bs ∧
          u.dram.read pa bs.length = bs ∧
          (∀ a, a < pa ∨ pa + bs.length ≤ a → u.dram.byte a = s.dram.byte a) ∧ u.hostMem = s.hostMem ∧
          u.threads = s.threads ∧ u.cores = s.cores)) ∧
        (dramSize < pa + bs.length → exec (.hostWindowWrite off bs) s = .fault (.noMemory pa)))) ∧
    (∀ watts, exec (.powerCapping watts) s =
      .next { s with bar0 := { s.bar0 with watts := watts, capping := decide (s.bar0.power.toNat ≤ watts) } }) ∧
    (∀ die, s.bar0.capping = true → die ∉ s.hotDies → Does (.thermalTrip die) s (fun u => u.hotDies = s.hotDies ++ [die] ∧
      u.bar0.hottest = max 105 s.bar0.hottest ∧ u.threads = s.threads ∧
      ∀ asid, (s.ctx asid).state = .resident → (u.ctx asid).state = .pausing)) ∧
    Does .thermalClear s (fun u => u.hotDies = [] ∧ u.bar0.hottest < 95 ∧ u.threads = s.threads)
end

