-- ==== Sys2Proof/Laws/Sparse.lean ====
section
/-! SUPPORT. Reading after writing in a sparse map and in a memory, and the canonical form that every write keeps. -/

namespace Sys2Proof

variable {α : Type}

/-! ## Maps -/

@[simp] theorem lookAt_dropKey_self (d : α) (m : SMap α) (k : Nat) : lookAt d (dropKey m k) k = d := by
  induction m with
  | nil => rfl
  | cons p m ih =>
    obtain ⟨j, b⟩ := p
    by_cases h : j = k <;> simp [dropKey, lookAt, h, ih]

theorem lookAt_dropKey_ne (d : α) (m : SMap α) {k j : Nat} (h : j ≠ k) : lookAt d (dropKey m k) j = lookAt d m j := by
  induction m with
  | nil => rfl
  | cons p m ih =>
    obtain ⟨i, b⟩ := p
    by_cases hi : i = k
    · subst hi; simp [dropKey, lookAt, ih, Ne.symm h]
    · by_cases hj : i = j
      · subst hj; simp [dropKey, lookAt, hi]
      · simp [dropKey, lookAt, hi, hj, ih]

theorem dropKey_notMem (m : SMap α) (k : Nat) (p : Nat × α) (hp : p ∈ dropKey m k) : p.1 ≠ k := by
  induction m with
  | nil => simp [dropKey] at hp
  | cons q m ih =>
    obtain ⟨j, b⟩ := q
    by_cases h : j = k
    · exact ih (by simpa [dropKey, h] using hp)
    · rcases List.mem_cons.mp (by simpa [dropKey, h] using hp : p ∈ (j, b) :: dropKey m k) with rfl | hq
      · exact h
      · exact ih hq

theorem lookAt_insertKey_self (d : α) (m : SMap α) (k : Nat) (a : α) (h : ∀ p ∈ m, p.1 ≠ k) :
    lookAt d (insertKey m k a) k = a := by
  induction m with
  | nil => simp [insertKey, lookAt]
  | cons p m ih =>
    obtain ⟨j, b⟩ := p
    have hj : j ≠ k := h (j, b) (by simp)
    by_cases hk : k < j
    · simp [insertKey, lookAt, hk]
    · simp [insertKey, lookAt, hk, hj, ih (fun q hq => h q (by simp [hq]))]

theorem lookAt_insertKey_ne (d : α) (m : SMap α) {k j : Nat} (a : α) (h : j ≠ k) :
    lookAt d (insertKey m k a) j = lookAt d m j := by
  induction m with
  | nil => simp [insertKey, lookAt, Ne.symm h]
  | cons p m ih =>
    obtain ⟨i, b⟩ := p
    by_cases hk : k < i
    · simp [insertKey, lookAt, hk, Ne.symm h]
    · by_cases hi : i = j
      · subst hi; simp [insertKey, lookAt, hk]
      · simp [insertKey, lookAt, hk, hi, ih]

/-- Reading after a write, whatever the map. -/
theorem lookAt_putAt [DecidableEq α] (d : α) (m : SMap α) (k : Nat) (a : α) (j : Nat) :
    lookAt d (putAt d m k a) j = if j = k then a else lookAt d m j := by
  by_cases hj : j = k
  · subst hj
    by_cases ha : a = d
    · simp [putAt, ha]
    · simp [putAt, ha, lookAt_insertKey_self d _ j a (dropKey_notMem m j)]
  · by_cases ha : a = d
    · simp [putAt, ha, hj, lookAt_dropKey_ne]
    · simp [putAt, ha, hj, lookAt_insertKey_ne, lookAt_dropKey_ne]

@[simp] theorem lookAt_putAt_self [DecidableEq α] (d : α) (m : SMap α) (k : Nat) (a : α) : lookAt d (putAt d m k a) k = a := by
  simp [lookAt_putAt]

theorem lookAt_putAt_ne [DecidableEq α] (d : α) (m : SMap α) {k j : Nat} (a : α) (h : j ≠ k) :
    lookAt d (putAt d m k a) j = lookAt d m j := by
  simp [lookAt_putAt, h]

/-- Reading a map whose entries are changed by a function that leaves the default alone. -/
theorem lookAt_mapVals (d : α) (f : α → α) (hf : f d = d) (m : SMap α) (k : Nat) :
    lookAt d (mapVals f m) k = f (lookAt d m k) := by
  induction m with
  | nil => exact hf.symm
  | cons p m ih =>
    obtain ⟨j, b⟩ := p
    by_cases h : j = k
    · simp [mapVals, lookAt, h]
    · have := ih
      simp only [mapVals] at this
      simp [mapVals, lookAt, h, this]

/-! ## The canonical form -/

/-- Every key of the map is above `k`. -/
theorem keysAbove_iff {k : Nat} {m : SMap α} [DecidableEq α] {d : α} (hc : canonical d m = true) (h : keysAbove k m = true) :
    ∀ p ∈ m, k < p.1 := by
  induction m generalizing k with
  | nil => simp
  | cons p m ih =>
    obtain ⟨j, b⟩ := p
    simp only [canonical, keysAbove, Bool.and_eq_true, decide_eq_true_eq] at hc h
    intro q hq
    rcases List.mem_cons.mp hq with rfl | hq
    · exact h
    · exact h.trans (ih hc.2 hc.1.2 q hq)

theorem keysAbove_of {k : Nat} {m : SMap α} (h : ∀ p ∈ m, k < p.1) : keysAbove k m = true := by
  cases m with
  | nil => rfl
  | cons p m => obtain ⟨j, b⟩ := p; simpa [keysAbove] using h (j, b) (by simp)

theorem canonical_cons_iff [DecidableEq α] (d : α) (j : Nat) (b : α) (m : SMap α) :
    canonical d ((j, b) :: m) = true ↔ b ≠ d ∧ (∀ p ∈ m, j < p.1) ∧ canonical d m = true := by
  constructor
  · intro h
    have hc := h
    simp only [canonical, Bool.and_eq_true, decide_eq_true_eq] at h
    exact ⟨h.1.1, keysAbove_iff h.2 h.1.2, h.2⟩
  · rintro ⟨hb, hk, hc⟩
    simp [canonical, hb, keysAbove_of hk, hc]

theorem mem_dropKey {m : SMap α} {k : Nat} {p : Nat × α} (h : p ∈ dropKey m k) : p ∈ m := by
  induction m with
  | nil => simp [dropKey] at h
  | cons q m ih =>
    obtain ⟨j, b⟩ := q
    by_cases hj : j = k
    · simp only [dropKey, hj, if_true] at h; exact List.mem_cons_of_mem _ (ih h)
    · simp only [dropKey, hj, if_false] at h
      rcases List.mem_cons.mp h with rfl | h
      · simp
      · exact List.mem_cons_of_mem _ (ih h)

theorem mem_insertKey {m : SMap α} {k : Nat} {a : α} {p : Nat × α} (h : p ∈ insertKey m k a) : p = (k, a) ∨ p ∈ m := by
  induction m with
  | nil => simpa [insertKey] using h
  | cons q m ih =>
    obtain ⟨j, b⟩ := q
    by_cases hj : k < j
    · simpa [insertKey, hj] using h
    · simp only [insertKey, hj, if_false] at h
      rcases List.mem_cons.mp h with rfl | h
      · simp
      · rcases ih h with h | h
        · exact .inl h
        · exact .inr (List.mem_cons_of_mem _ h)

theorem canonical_dropKey [DecidableEq α] {d : α} {m : SMap α} (h : canonical d m = true) (k : Nat) :
    canonical d (dropKey m k) = true := by
  induction m with
  | nil => rfl
  | cons p m ih =>
    obtain ⟨j, b⟩ := p
    obtain ⟨hb, hk, hc⟩ := (canonical_cons_iff d j b m).mp h
    by_cases hj : j = k
    · simpa [dropKey, hj] using ih hc
    · simp only [dropKey, hj, if_false]
      exact (canonical_cons_iff d j b _).mpr ⟨hb, fun q hq => hk q (mem_dropKey hq), ih hc⟩

theorem canonical_insertKey [DecidableEq α] {d : α} {m : SMap α} {k : Nat} {a : α} (h : canonical d m = true)
    (hk : ∀ p ∈ m, p.1 ≠ k) (ha : a ≠ d) : canonical d (insertKey m k a) = true := by
  induction m with
  | nil => simp [insertKey, canonical, keysAbove, ha]
  | cons p m ih =>
    obtain ⟨j, b⟩ := p
    obtain ⟨hb, hj, hc⟩ := (canonical_cons_iff d j b m).mp h
    by_cases hkj : k < j
    · simp only [insertKey, hkj, if_true]
      refine (canonical_cons_iff d k a _).mpr ⟨ha, ?_, h⟩
      intro q hq
      rcases List.mem_cons.mp hq with rfl | hq
      · exact hkj
      · exact hkj.trans (hj q hq)
    · simp only [insertKey, hkj, if_false]
      refine (canonical_cons_iff d j b _).mpr ⟨hb, ?_, ih hc (fun q hq => hk q (by simp [hq]))⟩
      intro q hq
      have hjk : j ≠ k := hk (j, b) (by simp)
      rcases mem_insertKey hq with rfl | hq
      · simp only; omega
      · exact hj q hq

/-- A write keeps the canonical form. -/
theorem canonical_putAt [DecidableEq α] {d : α} {m : SMap α} (h : canonical d m = true) (k : Nat) (a : α) :
    canonical d (putAt d m k a) = true := by
  by_cases ha : a = d
  · simpa [putAt, ha] using canonical_dropKey h k
  · simpa [putAt, ha] using canonical_insertKey (canonical_dropKey h k) (dropKey_notMem m k) ha

/-! ## Memory -/

/-- An empty memory is canonical. -/
@[simp] theorem Memory.wf_nil : Memory.wf [] = true := rfl

theorem Memory.wf_setByte {m : Memory} (h : m.wf = true) (a : Nat) (b : Byte) : (m.setByte a b).wf = true :=
  canonical_putAt h a b

/-- Every write keeps a memory canonical. -/
theorem Memory.wf_write {m : Memory} (h : m.wf = true) (a : Nat) (bs : List Byte) : (m.write a bs).wf = true := by
  induction bs generalizing m a with
  | nil => exact h
  | cons b bs ih => exact ih (Memory.wf_setByte h a b) (a + 1)

theorem Memory.byte_setByte (m : Memory) (a : Nat) (b : Byte) (c : Nat) :
    (m.setByte a b).byte c = if c = a then b else m.byte c := lookAt_putAt 0 m a b c

/-- A byte outside a write reads as before. -/
theorem Memory.byte_write_out (m : Memory) (a : Nat) (bs : List Byte) (c : Nat) (h : c < a ∨ a + bs.length ≤ c) :
    (m.write a bs).byte c = m.byte c := by
  induction bs generalizing m a with
  | nil => rfl
  | cons b bs ih =>
    simp only [List.length_cons] at h
    rw [Memory.write, ih _ _ (by omega), Memory.byte_setByte, if_neg (by omega)]

/-- A byte inside a write reads as written. -/
theorem Memory.byte_write_in (m : Memory) (a : Nat) (bs : List Byte) (i : Nat) (h : i < bs.length) :
    (m.write a bs).byte (a + i) = bs[i] := by
  induction bs generalizing m a i with
  | nil => simp at h
  | cons b bs ih =>
    cases i with
    | zero => rw [Memory.write, Memory.byte_write_out _ _ _ _ (by omega), Memory.byte_setByte]; simp
    | succ i =>
      have := ih (m.setByte a b) (a + 1) i (by simpa using h)
      rw [Memory.write, show a + (i + 1) = a + 1 + i by omega, this]; simp

@[simp] theorem Memory.length_read (m : Memory) (a n : Nat) : (m.read a n).length = n := by
  induction n generalizing a with
  | zero => rfl
  | succ n ih => simp [Memory.read, ih]

/-- A read of what has just been written gives it back. -/
theorem Memory.read_write_same (m : Memory) (a : Nat) (bs : List Byte) : (m.write a bs).read a bs.length = bs := by
  have key : ∀ (n : Nat) (k : Nat) (l : List Byte), l.length = n → (∀ i (h : i < l.length), (m.write a bs).byte (k + i) = l[i]) →
      (m.write a bs).read k n = l := by
    intro n
    induction n with
    | zero => intro k l hl _; simp [Memory.read, List.length_eq_zero_iff.mp hl]
    | succ n ih =>
      intro k l hl hb
      cases l with
      | nil => simp at hl
      | cons b l =>
        have h0 := hb 0 (by simp)
        have := ih (k + 1) l (by simpa using hl) (fun i h => by
          have := hb (i + 1) (by simpa using h)
          simpa [show k + (i + 1) = k + 1 + i by omega] using this)
        simp [Memory.read, this]; simpa using h0
  exact key bs.length a bs rfl (fun i h => Memory.byte_write_in m a bs i h)

/-! ## Little-endian numbers (R6) -/

@[simp] theorem length_leBytes (n v : Nat) : (leBytes n v).length = n := by
  induction n generalizing v with
  | zero => rfl
  | succ n ih => simp [leBytes, ih]

/-- Bytes of a number read back as the number modulo the width. -/
theorem leNat_leBytes (n v : Nat) : leNat (leBytes n v) = v % 256 ^ n := by
  induction n generalizing v with
  | zero => simp [leBytes, leNat, Nat.mod_one]
  | succ n ih =>
    have h : (BitVec.ofNat 8 v).toNat = v % 256 := by simp
    rw [leBytes, leNat, ih, h, pow_succ', Nat.mod_mul]

end Sys2Proof
end

