-- ==== Sys2Proof/Laws/Thread.lean ====
section
/-! SUPPORT. What each register write leaves of the other fields of a thread: one lemma per field per write. -/

namespace Sys2Proof.Machine

/-- A thread with other pending bits. -/
def Thread.withPend (t : Thread) (q : BitVec 256) : Thread := { t with pend := q }
@[simp] theorem Thread.withPend_pend (t : Thread) (q : BitVec 256) : (t.withPend q).pend = q := rfl

/-! `Thread.setX` -/

@[simp] theorem Thread.setX_status (t : Thread) (n : BitVec 7) (w : Word) : (t.setX n w).status = t.status := by unfold Thread.setX; split <;> rfl
@[simp] theorem Thread.setX_prior (t : Thread) (n : BitVec 7) (w : Word) : (t.setX n w).prior = t.prior := by unfold Thread.setX; split <;> rfl
@[simp] theorem Thread.setX_before (t : Thread) (n : BitVec 7) (w : Word) : (t.setX n w).before = t.before := by unfold Thread.setX; split <;> rfl
@[simp] theorem Thread.setX_launch (t : Thread) (n : BitVec 7) (w : Word) : (t.setX n w).launch = t.launch := by unfold Thread.setX; split <;> rfl
@[simp] theorem Thread.setX_gidx (t : Thread) (n : BitVec 7) (w : Word) : (t.setX n w).gidx = t.gidx := by unfold Thread.setX; split <;> rfl
@[simp] theorem Thread.setX_xn (t : Thread) (n : BitVec 7) (w : Word) : (t.setX n w).xn = t.xn := by unfold Thread.setX; split <;> rfl
@[simp] theorem Thread.setX_vn (t : Thread) (n : BitVec 7) (w : Word) : (t.setX n w).vn = t.vn := by unfold Thread.setX; split <;> rfl
@[simp] theorem Thread.setX_v (t : Thread) (n : BitVec 7) (w : Word) : (t.setX n w).v = t.v := by unfold Thread.setX; split <;> rfl
@[simp] theorem Thread.setX_p (t : Thread) (n : BitVec 7) (w : Word) : (t.setX n w).p = t.p := by unfold Thread.setX; split <;> rfl
@[simp] theorem Thread.setX_k (t : Thread) (n : BitVec 7) (w : Word) : (t.setX n w).k = t.k := by unfold Thread.setX; split <;> rfl
@[simp] theorem Thread.setX_s (t : Thread) (n : BitVec 7) (w : Word) : (t.setX n w).s = t.s := by unfold Thread.setX; split <;> rfl
@[simp] theorem Thread.setX_pend (t : Thread) (n : BitVec 7) (w : Word) : (t.setX n w).pend = t.pend := by unfold Thread.setX; split <;> rfl
@[simp] theorem Thread.setX_pc (t : Thread) (n : BitVec 7) (w : Word) : (t.setX n w).pc = t.pc := by unfold Thread.setX; split <;> rfl
@[simp] theorem Thread.setX_fpflags (t : Thread) (n : BitVec 7) (w : Word) : (t.setX n w).fpflags = t.fpflags := by unfold Thread.setX; split <;> rfl
@[simp] theorem Thread.setX_rndmode (t : Thread) (n : BitVec 7) (w : Word) : (t.setX n w).rndmode = t.rndmode := by unfold Thread.setX; split <;> rfl
@[simp] theorem Thread.setX_srstate (t : Thread) (n : BitVec 7) (w : Word) : (t.setX n w).srstate = t.srstate := by unfold Thread.setX; split <;> rfl
@[simp] theorem Thread.setX_stacklim (t : Thread) (n : BitVec 7) (w : Word) : (t.setX n w).stacklim = t.stacklim := by unfold Thread.setX; split <;> rfl
@[simp] theorem Thread.setX_finfo (t : Thread) (n : BitVec 7) (w : Word) : (t.setX n w).finfo = t.finfo := by unfold Thread.setX; split <;> rfl
@[simp] theorem Thread.setX_perf (t : Thread) (n : BitVec 7) (w : Word) : (t.setX n w).perf = t.perf := by unfold Thread.setX; split <;> rfl
@[simp] theorem Thread.setX_cycle (t : Thread) (n : BitVec 7) (w : Word) : (t.setX n w).cycle = t.cycle := by unfold Thread.setX; split <;> rfl
@[simp] theorem Thread.setX_budget (t : Thread) (n : BitVec 7) (w : Word) : (t.setX n w).budget = t.budget := by unfold Thread.setX; split <;> rfl
@[simp] theorem Thread.setX_tagT (t : Thread) (n : BitVec 7) (w : Word) : (t.setX n w).tagT = t.tagT := by unfold Thread.setX; split <;> rfl
@[simp] theorem Thread.setX_tagM (t : Thread) (n : BitVec 7) (w : Word) : (t.setX n w).tagM = t.tagM := by unfold Thread.setX; split <;> rfl
@[simp] theorem Thread.setX_port (t : Thread) (n : BitVec 7) (w : Word) : (t.setX n w).port = t.port := by unfold Thread.setX; split <;> rfl
@[simp] theorem Thread.setX_inHandler (t : Thread) (n : BitVec 7) (w : Word) : (t.setX n w).inHandler = t.inHandler := by unfold Thread.setX; split <;> rfl
@[simp] theorem Thread.setX_baseT (t : Thread) (n : BitVec 7) (w : Word) : (t.setX n w).baseT = t.baseT := by unfold Thread.setX; split <;> rfl
@[simp] theorem Thread.setX_baseM (t : Thread) (n : BitVec 7) (w : Word) : (t.setX n w).baseM = t.baseM := by unfold Thread.setX; split <;> rfl
@[simp] theorem Thread.setX_baseOver (t : Thread) (n : BitVec 7) (w : Word) : (t.setX n w).baseOver = t.baseOver := by unfold Thread.setX; split <;> rfl
@[simp] theorem Thread.setX_lastT (t : Thread) (n : BitVec 7) (w : Word) : (t.setX n w).lastT = t.lastT := by unfold Thread.setX; split <;> rfl
@[simp] theorem Thread.setX_lastM (t : Thread) (n : BitVec 7) (w : Word) : (t.setX n w).lastM = t.lastM := by unfold Thread.setX; split <;> rfl
@[simp] theorem Thread.setX_launched (t : Thread) (n : BitVec 7) (w : Word) : (t.setX n w).launched = t.launched := by unfold Thread.setX; split <;> rfl
@[simp] theorem Thread.setX_postCtr (t : Thread) (n : BitVec 7) (w : Word) : (t.setX n w).postCtr = t.postCtr := by unfold Thread.setX; split <;> rfl
@[simp] theorem Thread.setX_wait (t : Thread) (n : BitVec 7) (w : Word) : (t.setX n w).wait = t.wait := by unfold Thread.setX; split <;> rfl
@[simp] theorem Thread.setX_raised (t : Thread) (n : BitVec 7) (w : Word) : (t.setX n w).raised = t.raised := by unfold Thread.setX; split <;> rfl
@[simp] theorem Thread.setX_reports (t : Thread) (n : BitVec 7) (w : Word) : (t.setX n w).reports = t.reports := by unfold Thread.setX; split <;> rfl
@[simp] theorem Thread.setX_retrying (t : Thread) (n : BitVec 7) (w : Word) : (t.setX n w).retrying = t.retrying := by unfold Thread.setX; split <;> rfl
@[simp] theorem Thread.setX_reissue (t : Thread) (n : BitVec 7) (w : Word) : (t.setX n w).reissue = t.reissue := by unfold Thread.setX; split <;> rfl
@[simp] theorem Thread.setX_members (t : Thread) (n : BitVec 7) (w : Word) : (t.setX n w).members = t.members := by unfold Thread.setX; split <;> rfl
@[simp] theorem Thread.setX_barAsk (t : Thread) (n : BitVec 7) (w : Word) : (t.setX n w).barAsk = t.barAsk := by unfold Thread.setX; split <;> rfl
@[simp] theorem Thread.setX_fenceAll (t : Thread) (n : BitVec 7) (w : Word) : (t.setX n w).fenceAll = t.fenceAll := by unfold Thread.setX; split <;> rfl
@[simp] theorem Thread.setX_fenceWr (t : Thread) (n : BitVec 7) (w : Word) : (t.setX n w).fenceWr = t.fenceWr := by unfold Thread.setX; split <;> rfl
@[simp] theorem Thread.setX_seen (t : Thread) (n : BitVec 7) (w : Word) : (t.setX n w).seen = t.seen := by unfold Thread.setX; split <;> rfl
@[simp] theorem Thread.setX_count (t : Thread) (n : BitVec 7) (w : Word) : (t.setX n w).count = t.count := by unfold Thread.setX; split <;> rfl
@[simp] theorem Thread.setX_lastIssue (t : Thread) (n : BitVec 7) (w : Word) : (t.setX n w).lastIssue = t.lastIssue := by unfold Thread.setX; split <;> rfl
@[simp] theorem Thread.setX_gap (t : Thread) (n : BitVec 7) (w : Word) : (t.setX n w).gap = t.gap := by unfold Thread.setX; split <;> rfl
@[simp] theorem Thread.setX_fetchHold (t : Thread) (n : BitVec 7) (w : Word) : (t.setX n w).fetchHold = t.fetchHold := by unfold Thread.setX; split <;> rfl
@[simp] theorem Thread.setX_fetchBad (t : Thread) (n : BitVec 7) (w : Word) : (t.setX n w).fetchBad = t.fetchBad := by unfold Thread.setX; split <;> rfl
@[simp] theorem Thread.setX_fetchAgain (t : Thread) (n : BitVec 7) (w : Word) : (t.setX n w).fetchAgain = t.fetchAgain := by unfold Thread.setX; split <;> rfl
@[simp] theorem Thread.setX_gone (t : Thread) (n : BitVec 7) (w : Word) : (t.setX n w).gone = t.gone := by unfold Thread.setX; split <;> rfl
@[simp] theorem Thread.setX_fetchOps (t : Thread) (n : BitVec 7) (w : Word) : (t.setX n w).fetchOps = t.fetchOps := by unfold Thread.setX; split <;> rfl
@[simp] theorem Thread.setX_fetchBuf (t : Thread) (n : BitVec 7) (w : Word) : (t.setX n w).fetchBuf = t.fetchBuf := by unfold Thread.setX; split <;> rfl

/-! `Thread.setV` -/

@[simp] theorem Thread.setV_status (t : Thread) (n : BitVec 6) (w : VWord) : (t.setV n w).status = t.status := rfl
@[simp] theorem Thread.setV_prior (t : Thread) (n : BitVec 6) (w : VWord) : (t.setV n w).prior = t.prior := rfl
@[simp] theorem Thread.setV_before (t : Thread) (n : BitVec 6) (w : VWord) : (t.setV n w).before = t.before := rfl
@[simp] theorem Thread.setV_launch (t : Thread) (n : BitVec 6) (w : VWord) : (t.setV n w).launch = t.launch := rfl
@[simp] theorem Thread.setV_gidx (t : Thread) (n : BitVec 6) (w : VWord) : (t.setV n w).gidx = t.gidx := rfl
@[simp] theorem Thread.setV_xn (t : Thread) (n : BitVec 6) (w : VWord) : (t.setV n w).xn = t.xn := rfl
@[simp] theorem Thread.setV_vn (t : Thread) (n : BitVec 6) (w : VWord) : (t.setV n w).vn = t.vn := rfl
@[simp] theorem Thread.setV_x (t : Thread) (n : BitVec 6) (w : VWord) : (t.setV n w).x = t.x := rfl
@[simp] theorem Thread.setV_p (t : Thread) (n : BitVec 6) (w : VWord) : (t.setV n w).p = t.p := rfl
@[simp] theorem Thread.setV_k (t : Thread) (n : BitVec 6) (w : VWord) : (t.setV n w).k = t.k := rfl
@[simp] theorem Thread.setV_s (t : Thread) (n : BitVec 6) (w : VWord) : (t.setV n w).s = t.s := rfl
@[simp] theorem Thread.setV_pend (t : Thread) (n : BitVec 6) (w : VWord) : (t.setV n w).pend = t.pend := rfl
@[simp] theorem Thread.setV_pc (t : Thread) (n : BitVec 6) (w : VWord) : (t.setV n w).pc = t.pc := rfl
@[simp] theorem Thread.setV_fpflags (t : Thread) (n : BitVec 6) (w : VWord) : (t.setV n w).fpflags = t.fpflags := rfl
@[simp] theorem Thread.setV_rndmode (t : Thread) (n : BitVec 6) (w : VWord) : (t.setV n w).rndmode = t.rndmode := rfl
@[simp] theorem Thread.setV_srstate (t : Thread) (n : BitVec 6) (w : VWord) : (t.setV n w).srstate = t.srstate := rfl
@[simp] theorem Thread.setV_stacklim (t : Thread) (n : BitVec 6) (w : VWord) : (t.setV n w).stacklim = t.stacklim := rfl
@[simp] theorem Thread.setV_finfo (t : Thread) (n : BitVec 6) (w : VWord) : (t.setV n w).finfo = t.finfo := rfl
@[simp] theorem Thread.setV_perf (t : Thread) (n : BitVec 6) (w : VWord) : (t.setV n w).perf = t.perf := rfl
@[simp] theorem Thread.setV_cycle (t : Thread) (n : BitVec 6) (w : VWord) : (t.setV n w).cycle = t.cycle := rfl
@[simp] theorem Thread.setV_budget (t : Thread) (n : BitVec 6) (w : VWord) : (t.setV n w).budget = t.budget := rfl
@[simp] theorem Thread.setV_tagT (t : Thread) (n : BitVec 6) (w : VWord) : (t.setV n w).tagT = t.tagT := rfl
@[simp] theorem Thread.setV_tagM (t : Thread) (n : BitVec 6) (w : VWord) : (t.setV n w).tagM = t.tagM := rfl
@[simp] theorem Thread.setV_port (t : Thread) (n : BitVec 6) (w : VWord) : (t.setV n w).port = t.port := rfl
@[simp] theorem Thread.setV_inHandler (t : Thread) (n : BitVec 6) (w : VWord) : (t.setV n w).inHandler = t.inHandler := rfl
@[simp] theorem Thread.setV_baseT (t : Thread) (n : BitVec 6) (w : VWord) : (t.setV n w).baseT = t.baseT := rfl
@[simp] theorem Thread.setV_baseM (t : Thread) (n : BitVec 6) (w : VWord) : (t.setV n w).baseM = t.baseM := rfl
@[simp] theorem Thread.setV_baseOver (t : Thread) (n : BitVec 6) (w : VWord) : (t.setV n w).baseOver = t.baseOver := rfl
@[simp] theorem Thread.setV_lastT (t : Thread) (n : BitVec 6) (w : VWord) : (t.setV n w).lastT = t.lastT := rfl
@[simp] theorem Thread.setV_lastM (t : Thread) (n : BitVec 6) (w : VWord) : (t.setV n w).lastM = t.lastM := rfl
@[simp] theorem Thread.setV_launched (t : Thread) (n : BitVec 6) (w : VWord) : (t.setV n w).launched = t.launched := rfl
@[simp] theorem Thread.setV_postCtr (t : Thread) (n : BitVec 6) (w : VWord) : (t.setV n w).postCtr = t.postCtr := rfl
@[simp] theorem Thread.setV_wait (t : Thread) (n : BitVec 6) (w : VWord) : (t.setV n w).wait = t.wait := rfl
@[simp] theorem Thread.setV_raised (t : Thread) (n : BitVec 6) (w : VWord) : (t.setV n w).raised = t.raised := rfl
@[simp] theorem Thread.setV_reports (t : Thread) (n : BitVec 6) (w : VWord) : (t.setV n w).reports = t.reports := rfl
@[simp] theorem Thread.setV_retrying (t : Thread) (n : BitVec 6) (w : VWord) : (t.setV n w).retrying = t.retrying := rfl
@[simp] theorem Thread.setV_reissue (t : Thread) (n : BitVec 6) (w : VWord) : (t.setV n w).reissue = t.reissue := rfl
@[simp] theorem Thread.setV_members (t : Thread) (n : BitVec 6) (w : VWord) : (t.setV n w).members = t.members := rfl
@[simp] theorem Thread.setV_barAsk (t : Thread) (n : BitVec 6) (w : VWord) : (t.setV n w).barAsk = t.barAsk := rfl
@[simp] theorem Thread.setV_fenceAll (t : Thread) (n : BitVec 6) (w : VWord) : (t.setV n w).fenceAll = t.fenceAll := rfl
@[simp] theorem Thread.setV_fenceWr (t : Thread) (n : BitVec 6) (w : VWord) : (t.setV n w).fenceWr = t.fenceWr := rfl
@[simp] theorem Thread.setV_seen (t : Thread) (n : BitVec 6) (w : VWord) : (t.setV n w).seen = t.seen := rfl
@[simp] theorem Thread.setV_count (t : Thread) (n : BitVec 6) (w : VWord) : (t.setV n w).count = t.count := rfl
@[simp] theorem Thread.setV_lastIssue (t : Thread) (n : BitVec 6) (w : VWord) : (t.setV n w).lastIssue = t.lastIssue := rfl
@[simp] theorem Thread.setV_gap (t : Thread) (n : BitVec 6) (w : VWord) : (t.setV n w).gap = t.gap := rfl
@[simp] theorem Thread.setV_fetchHold (t : Thread) (n : BitVec 6) (w : VWord) : (t.setV n w).fetchHold = t.fetchHold := rfl
@[simp] theorem Thread.setV_fetchBad (t : Thread) (n : BitVec 6) (w : VWord) : (t.setV n w).fetchBad = t.fetchBad := rfl
@[simp] theorem Thread.setV_fetchAgain (t : Thread) (n : BitVec 6) (w : VWord) : (t.setV n w).fetchAgain = t.fetchAgain := rfl
@[simp] theorem Thread.setV_gone (t : Thread) (n : BitVec 6) (w : VWord) : (t.setV n w).gone = t.gone := rfl
@[simp] theorem Thread.setV_fetchOps (t : Thread) (n : BitVec 6) (w : VWord) : (t.setV n w).fetchOps = t.fetchOps := rfl
@[simp] theorem Thread.setV_fetchBuf (t : Thread) (n : BitVec 6) (w : VWord) : (t.setV n w).fetchBuf = t.fetchBuf := rfl

/-! `Thread.setP` -/

@[simp] theorem Thread.setP_status (t : Thread) (n : BitVec 3) (b : Bool) : (t.setP n b).status = t.status := by unfold Thread.setP; split <;> rfl
@[simp] theorem Thread.setP_prior (t : Thread) (n : BitVec 3) (b : Bool) : (t.setP n b).prior = t.prior := by unfold Thread.setP; split <;> rfl
@[simp] theorem Thread.setP_before (t : Thread) (n : BitVec 3) (b : Bool) : (t.setP n b).before = t.before := by unfold Thread.setP; split <;> rfl
@[simp] theorem Thread.setP_launch (t : Thread) (n : BitVec 3) (b : Bool) : (t.setP n b).launch = t.launch := by unfold Thread.setP; split <;> rfl
@[simp] theorem Thread.setP_gidx (t : Thread) (n : BitVec 3) (b : Bool) : (t.setP n b).gidx = t.gidx := by unfold Thread.setP; split <;> rfl
@[simp] theorem Thread.setP_xn (t : Thread) (n : BitVec 3) (b : Bool) : (t.setP n b).xn = t.xn := by unfold Thread.setP; split <;> rfl
@[simp] theorem Thread.setP_vn (t : Thread) (n : BitVec 3) (b : Bool) : (t.setP n b).vn = t.vn := by unfold Thread.setP; split <;> rfl
@[simp] theorem Thread.setP_x (t : Thread) (n : BitVec 3) (b : Bool) : (t.setP n b).x = t.x := by unfold Thread.setP; split <;> rfl
@[simp] theorem Thread.setP_v (t : Thread) (n : BitVec 3) (b : Bool) : (t.setP n b).v = t.v := by unfold Thread.setP; split <;> rfl
@[simp] theorem Thread.setP_k (t : Thread) (n : BitVec 3) (b : Bool) : (t.setP n b).k = t.k := by unfold Thread.setP; split <;> rfl
@[simp] theorem Thread.setP_s (t : Thread) (n : BitVec 3) (b : Bool) : (t.setP n b).s = t.s := by unfold Thread.setP; split <;> rfl
@[simp] theorem Thread.setP_pend (t : Thread) (n : BitVec 3) (b : Bool) : (t.setP n b).pend = t.pend := by unfold Thread.setP; split <;> rfl
@[simp] theorem Thread.setP_pc (t : Thread) (n : BitVec 3) (b : Bool) : (t.setP n b).pc = t.pc := by unfold Thread.setP; split <;> rfl
@[simp] theorem Thread.setP_fpflags (t : Thread) (n : BitVec 3) (b : Bool) : (t.setP n b).fpflags = t.fpflags := by unfold Thread.setP; split <;> rfl
@[simp] theorem Thread.setP_rndmode (t : Thread) (n : BitVec 3) (b : Bool) : (t.setP n b).rndmode = t.rndmode := by unfold Thread.setP; split <;> rfl
@[simp] theorem Thread.setP_srstate (t : Thread) (n : BitVec 3) (b : Bool) : (t.setP n b).srstate = t.srstate := by unfold Thread.setP; split <;> rfl
@[simp] theorem Thread.setP_stacklim (t : Thread) (n : BitVec 3) (b : Bool) : (t.setP n b).stacklim = t.stacklim := by unfold Thread.setP; split <;> rfl
@[simp] theorem Thread.setP_finfo (t : Thread) (n : BitVec 3) (b : Bool) : (t.setP n b).finfo = t.finfo := by unfold Thread.setP; split <;> rfl
@[simp] theorem Thread.setP_perf (t : Thread) (n : BitVec 3) (b : Bool) : (t.setP n b).perf = t.perf := by unfold Thread.setP; split <;> rfl
@[simp] theorem Thread.setP_cycle (t : Thread) (n : BitVec 3) (b : Bool) : (t.setP n b).cycle = t.cycle := by unfold Thread.setP; split <;> rfl
@[simp] theorem Thread.setP_budget (t : Thread) (n : BitVec 3) (b : Bool) : (t.setP n b).budget = t.budget := by unfold Thread.setP; split <;> rfl
@[simp] theorem Thread.setP_tagT (t : Thread) (n : BitVec 3) (b : Bool) : (t.setP n b).tagT = t.tagT := by unfold Thread.setP; split <;> rfl
@[simp] theorem Thread.setP_tagM (t : Thread) (n : BitVec 3) (b : Bool) : (t.setP n b).tagM = t.tagM := by unfold Thread.setP; split <;> rfl
@[simp] theorem Thread.setP_port (t : Thread) (n : BitVec 3) (b : Bool) : (t.setP n b).port = t.port := by unfold Thread.setP; split <;> rfl
@[simp] theorem Thread.setP_inHandler (t : Thread) (n : BitVec 3) (b : Bool) : (t.setP n b).inHandler = t.inHandler := by unfold Thread.setP; split <;> rfl
@[simp] theorem Thread.setP_baseT (t : Thread) (n : BitVec 3) (b : Bool) : (t.setP n b).baseT = t.baseT := by unfold Thread.setP; split <;> rfl
@[simp] theorem Thread.setP_baseM (t : Thread) (n : BitVec 3) (b : Bool) : (t.setP n b).baseM = t.baseM := by unfold Thread.setP; split <;> rfl
@[simp] theorem Thread.setP_baseOver (t : Thread) (n : BitVec 3) (b : Bool) : (t.setP n b).baseOver = t.baseOver := by unfold Thread.setP; split <;> rfl
@[simp] theorem Thread.setP_lastT (t : Thread) (n : BitVec 3) (b : Bool) : (t.setP n b).lastT = t.lastT := by unfold Thread.setP; split <;> rfl
@[simp] theorem Thread.setP_lastM (t : Thread) (n : BitVec 3) (b : Bool) : (t.setP n b).lastM = t.lastM := by unfold Thread.setP; split <;> rfl
@[simp] theorem Thread.setP_launched (t : Thread) (n : BitVec 3) (b : Bool) : (t.setP n b).launched = t.launched := by unfold Thread.setP; split <;> rfl
@[simp] theorem Thread.setP_postCtr (t : Thread) (n : BitVec 3) (b : Bool) : (t.setP n b).postCtr = t.postCtr := by unfold Thread.setP; split <;> rfl
@[simp] theorem Thread.setP_wait (t : Thread) (n : BitVec 3) (b : Bool) : (t.setP n b).wait = t.wait := by unfold Thread.setP; split <;> rfl
@[simp] theorem Thread.setP_raised (t : Thread) (n : BitVec 3) (b : Bool) : (t.setP n b).raised = t.raised := by unfold Thread.setP; split <;> rfl
@[simp] theorem Thread.setP_reports (t : Thread) (n : BitVec 3) (b : Bool) : (t.setP n b).reports = t.reports := by unfold Thread.setP; split <;> rfl
@[simp] theorem Thread.setP_retrying (t : Thread) (n : BitVec 3) (b : Bool) : (t.setP n b).retrying = t.retrying := by unfold Thread.setP; split <;> rfl
@[simp] theorem Thread.setP_reissue (t : Thread) (n : BitVec 3) (b : Bool) : (t.setP n b).reissue = t.reissue := by unfold Thread.setP; split <;> rfl
@[simp] theorem Thread.setP_members (t : Thread) (n : BitVec 3) (b : Bool) : (t.setP n b).members = t.members := by unfold Thread.setP; split <;> rfl
@[simp] theorem Thread.setP_barAsk (t : Thread) (n : BitVec 3) (b : Bool) : (t.setP n b).barAsk = t.barAsk := by unfold Thread.setP; split <;> rfl
@[simp] theorem Thread.setP_fenceAll (t : Thread) (n : BitVec 3) (b : Bool) : (t.setP n b).fenceAll = t.fenceAll := by unfold Thread.setP; split <;> rfl
@[simp] theorem Thread.setP_fenceWr (t : Thread) (n : BitVec 3) (b : Bool) : (t.setP n b).fenceWr = t.fenceWr := by unfold Thread.setP; split <;> rfl
@[simp] theorem Thread.setP_seen (t : Thread) (n : BitVec 3) (b : Bool) : (t.setP n b).seen = t.seen := by unfold Thread.setP; split <;> rfl
@[simp] theorem Thread.setP_count (t : Thread) (n : BitVec 3) (b : Bool) : (t.setP n b).count = t.count := by unfold Thread.setP; split <;> rfl
@[simp] theorem Thread.setP_lastIssue (t : Thread) (n : BitVec 3) (b : Bool) : (t.setP n b).lastIssue = t.lastIssue := by unfold Thread.setP; split <;> rfl
@[simp] theorem Thread.setP_gap (t : Thread) (n : BitVec 3) (b : Bool) : (t.setP n b).gap = t.gap := by unfold Thread.setP; split <;> rfl
@[simp] theorem Thread.setP_fetchHold (t : Thread) (n : BitVec 3) (b : Bool) : (t.setP n b).fetchHold = t.fetchHold := by unfold Thread.setP; split <;> rfl
@[simp] theorem Thread.setP_fetchBad (t : Thread) (n : BitVec 3) (b : Bool) : (t.setP n b).fetchBad = t.fetchBad := by unfold Thread.setP; split <;> rfl
@[simp] theorem Thread.setP_fetchAgain (t : Thread) (n : BitVec 3) (b : Bool) : (t.setP n b).fetchAgain = t.fetchAgain := by unfold Thread.setP; split <;> rfl
@[simp] theorem Thread.setP_gone (t : Thread) (n : BitVec 3) (b : Bool) : (t.setP n b).gone = t.gone := by unfold Thread.setP; split <;> rfl
@[simp] theorem Thread.setP_fetchOps (t : Thread) (n : BitVec 3) (b : Bool) : (t.setP n b).fetchOps = t.fetchOps := by unfold Thread.setP; split <;> rfl
@[simp] theorem Thread.setP_fetchBuf (t : Thread) (n : BitVec 3) (b : Bool) : (t.setP n b).fetchBuf = t.fetchBuf := by unfold Thread.setP; split <;> rfl

/-! `Thread.setK` -/

@[simp] theorem Thread.setK_status (t : Thread) (n : BitVec 3) (w : BitVec 16) : (t.setK n w).status = t.status := by unfold Thread.setK; split <;> rfl
@[simp] theorem Thread.setK_prior (t : Thread) (n : BitVec 3) (w : BitVec 16) : (t.setK n w).prior = t.prior := by unfold Thread.setK; split <;> rfl
@[simp] theorem Thread.setK_before (t : Thread) (n : BitVec 3) (w : BitVec 16) : (t.setK n w).before = t.before := by unfold Thread.setK; split <;> rfl
@[simp] theorem Thread.setK_launch (t : Thread) (n : BitVec 3) (w : BitVec 16) : (t.setK n w).launch = t.launch := by unfold Thread.setK; split <;> rfl
@[simp] theorem Thread.setK_gidx (t : Thread) (n : BitVec 3) (w : BitVec 16) : (t.setK n w).gidx = t.gidx := by unfold Thread.setK; split <;> rfl
@[simp] theorem Thread.setK_xn (t : Thread) (n : BitVec 3) (w : BitVec 16) : (t.setK n w).xn = t.xn := by unfold Thread.setK; split <;> rfl
@[simp] theorem Thread.setK_vn (t : Thread) (n : BitVec 3) (w : BitVec 16) : (t.setK n w).vn = t.vn := by unfold Thread.setK; split <;> rfl
@[simp] theorem Thread.setK_x (t : Thread) (n : BitVec 3) (w : BitVec 16) : (t.setK n w).x = t.x := by unfold Thread.setK; split <;> rfl
@[simp] theorem Thread.setK_v (t : Thread) (n : BitVec 3) (w : BitVec 16) : (t.setK n w).v = t.v := by unfold Thread.setK; split <;> rfl
@[simp] theorem Thread.setK_p (t : Thread) (n : BitVec 3) (w : BitVec 16) : (t.setK n w).p = t.p := by unfold Thread.setK; split <;> rfl
@[simp] theorem Thread.setK_s (t : Thread) (n : BitVec 3) (w : BitVec 16) : (t.setK n w).s = t.s := by unfold Thread.setK; split <;> rfl
@[simp] theorem Thread.setK_pend (t : Thread) (n : BitVec 3) (w : BitVec 16) : (t.setK n w).pend = t.pend := by unfold Thread.setK; split <;> rfl
@[simp] theorem Thread.setK_pc (t : Thread) (n : BitVec 3) (w : BitVec 16) : (t.setK n w).pc = t.pc := by unfold Thread.setK; split <;> rfl
@[simp] theorem Thread.setK_fpflags (t : Thread) (n : BitVec 3) (w : BitVec 16) : (t.setK n w).fpflags = t.fpflags := by unfold Thread.setK; split <;> rfl
@[simp] theorem Thread.setK_rndmode (t : Thread) (n : BitVec 3) (w : BitVec 16) : (t.setK n w).rndmode = t.rndmode := by unfold Thread.setK; split <;> rfl
@[simp] theorem Thread.setK_srstate (t : Thread) (n : BitVec 3) (w : BitVec 16) : (t.setK n w).srstate = t.srstate := by unfold Thread.setK; split <;> rfl
@[simp] theorem Thread.setK_stacklim (t : Thread) (n : BitVec 3) (w : BitVec 16) : (t.setK n w).stacklim = t.stacklim := by unfold Thread.setK; split <;> rfl
@[simp] theorem Thread.setK_finfo (t : Thread) (n : BitVec 3) (w : BitVec 16) : (t.setK n w).finfo = t.finfo := by unfold Thread.setK; split <;> rfl
@[simp] theorem Thread.setK_perf (t : Thread) (n : BitVec 3) (w : BitVec 16) : (t.setK n w).perf = t.perf := by unfold Thread.setK; split <;> rfl
@[simp] theorem Thread.setK_cycle (t : Thread) (n : BitVec 3) (w : BitVec 16) : (t.setK n w).cycle = t.cycle := by unfold Thread.setK; split <;> rfl
@[simp] theorem Thread.setK_budget (t : Thread) (n : BitVec 3) (w : BitVec 16) : (t.setK n w).budget = t.budget := by unfold Thread.setK; split <;> rfl
@[simp] theorem Thread.setK_tagT (t : Thread) (n : BitVec 3) (w : BitVec 16) : (t.setK n w).tagT = t.tagT := by unfold Thread.setK; split <;> rfl
@[simp] theorem Thread.setK_tagM (t : Thread) (n : BitVec 3) (w : BitVec 16) : (t.setK n w).tagM = t.tagM := by unfold Thread.setK; split <;> rfl
@[simp] theorem Thread.setK_port (t : Thread) (n : BitVec 3) (w : BitVec 16) : (t.setK n w).port = t.port := by unfold Thread.setK; split <;> rfl
@[simp] theorem Thread.setK_inHandler (t : Thread) (n : BitVec 3) (w : BitVec 16) : (t.setK n w).inHandler = t.inHandler := by unfold Thread.setK; split <;> rfl
@[simp] theorem Thread.setK_baseT (t : Thread) (n : BitVec 3) (w : BitVec 16) : (t.setK n w).baseT = t.baseT := by unfold Thread.setK; split <;> rfl
@[simp] theorem Thread.setK_baseM (t : Thread) (n : BitVec 3) (w : BitVec 16) : (t.setK n w).baseM = t.baseM := by unfold Thread.setK; split <;> rfl
@[simp] theorem Thread.setK_baseOver (t : Thread) (n : BitVec 3) (w : BitVec 16) : (t.setK n w).baseOver = t.baseOver := by unfold Thread.setK; split <;> rfl
@[simp] theorem Thread.setK_lastT (t : Thread) (n : BitVec 3) (w : BitVec 16) : (t.setK n w).lastT = t.lastT := by unfold Thread.setK; split <;> rfl
@[simp] theorem Thread.setK_lastM (t : Thread) (n : BitVec 3) (w : BitVec 16) : (t.setK n w).lastM = t.lastM := by unfold Thread.setK; split <;> rfl
@[simp] theorem Thread.setK_launched (t : Thread) (n : BitVec 3) (w : BitVec 16) : (t.setK n w).launched = t.launched := by unfold Thread.setK; split <;> rfl
@[simp] theorem Thread.setK_postCtr (t : Thread) (n : BitVec 3) (w : BitVec 16) : (t.setK n w).postCtr = t.postCtr := by unfold Thread.setK; split <;> rfl
@[simp] theorem Thread.setK_wait (t : Thread) (n : BitVec 3) (w : BitVec 16) : (t.setK n w).wait = t.wait := by unfold Thread.setK; split <;> rfl
@[simp] theorem Thread.setK_raised (t : Thread) (n : BitVec 3) (w : BitVec 16) : (t.setK n w).raised = t.raised := by unfold Thread.setK; split <;> rfl
@[simp] theorem Thread.setK_reports (t : Thread) (n : BitVec 3) (w : BitVec 16) : (t.setK n w).reports = t.reports := by unfold Thread.setK; split <;> rfl
@[simp] theorem Thread.setK_retrying (t : Thread) (n : BitVec 3) (w : BitVec 16) : (t.setK n w).retrying = t.retrying := by unfold Thread.setK; split <;> rfl
@[simp] theorem Thread.setK_reissue (t : Thread) (n : BitVec 3) (w : BitVec 16) : (t.setK n w).reissue = t.reissue := by unfold Thread.setK; split <;> rfl
@[simp] theorem Thread.setK_members (t : Thread) (n : BitVec 3) (w : BitVec 16) : (t.setK n w).members = t.members := by unfold Thread.setK; split <;> rfl
@[simp] theorem Thread.setK_barAsk (t : Thread) (n : BitVec 3) (w : BitVec 16) : (t.setK n w).barAsk = t.barAsk := by unfold Thread.setK; split <;> rfl
@[simp] theorem Thread.setK_fenceAll (t : Thread) (n : BitVec 3) (w : BitVec 16) : (t.setK n w).fenceAll = t.fenceAll := by unfold Thread.setK; split <;> rfl
@[simp] theorem Thread.setK_fenceWr (t : Thread) (n : BitVec 3) (w : BitVec 16) : (t.setK n w).fenceWr = t.fenceWr := by unfold Thread.setK; split <;> rfl
@[simp] theorem Thread.setK_seen (t : Thread) (n : BitVec 3) (w : BitVec 16) : (t.setK n w).seen = t.seen := by unfold Thread.setK; split <;> rfl
@[simp] theorem Thread.setK_count (t : Thread) (n : BitVec 3) (w : BitVec 16) : (t.setK n w).count = t.count := by unfold Thread.setK; split <;> rfl
@[simp] theorem Thread.setK_lastIssue (t : Thread) (n : BitVec 3) (w : BitVec 16) : (t.setK n w).lastIssue = t.lastIssue := by unfold Thread.setK; split <;> rfl
@[simp] theorem Thread.setK_gap (t : Thread) (n : BitVec 3) (w : BitVec 16) : (t.setK n w).gap = t.gap := by unfold Thread.setK; split <;> rfl
@[simp] theorem Thread.setK_fetchHold (t : Thread) (n : BitVec 3) (w : BitVec 16) : (t.setK n w).fetchHold = t.fetchHold := by unfold Thread.setK; split <;> rfl
@[simp] theorem Thread.setK_fetchBad (t : Thread) (n : BitVec 3) (w : BitVec 16) : (t.setK n w).fetchBad = t.fetchBad := by unfold Thread.setK; split <;> rfl
@[simp] theorem Thread.setK_fetchAgain (t : Thread) (n : BitVec 3) (w : BitVec 16) : (t.setK n w).fetchAgain = t.fetchAgain := by unfold Thread.setK; split <;> rfl
@[simp] theorem Thread.setK_gone (t : Thread) (n : BitVec 3) (w : BitVec 16) : (t.setK n w).gone = t.gone := by unfold Thread.setK; split <;> rfl
@[simp] theorem Thread.setK_fetchOps (t : Thread) (n : BitVec 3) (w : BitVec 16) : (t.setK n w).fetchOps = t.fetchOps := by unfold Thread.setK; split <;> rfl
@[simp] theorem Thread.setK_fetchBuf (t : Thread) (n : BitVec 3) (w : BitVec 16) : (t.setK n w).fetchBuf = t.fetchBuf := by unfold Thread.setK; split <;> rfl

/-! `Thread.setS` -/

@[simp] theorem Thread.setS_status (t : Thread) (n : BitVec 3) (w : SWord) : (t.setS n w).status = t.status := rfl
@[simp] theorem Thread.setS_prior (t : Thread) (n : BitVec 3) (w : SWord) : (t.setS n w).prior = t.prior := rfl
@[simp] theorem Thread.setS_before (t : Thread) (n : BitVec 3) (w : SWord) : (t.setS n w).before = t.before := rfl
@[simp] theorem Thread.setS_launch (t : Thread) (n : BitVec 3) (w : SWord) : (t.setS n w).launch = t.launch := rfl
@[simp] theorem Thread.setS_gidx (t : Thread) (n : BitVec 3) (w : SWord) : (t.setS n w).gidx = t.gidx := rfl
@[simp] theorem Thread.setS_xn (t : Thread) (n : BitVec 3) (w : SWord) : (t.setS n w).xn = t.xn := rfl
@[simp] theorem Thread.setS_vn (t : Thread) (n : BitVec 3) (w : SWord) : (t.setS n w).vn = t.vn := rfl
@[simp] theorem Thread.setS_x (t : Thread) (n : BitVec 3) (w : SWord) : (t.setS n w).x = t.x := rfl
@[simp] theorem Thread.setS_v (t : Thread) (n : BitVec 3) (w : SWord) : (t.setS n w).v = t.v := rfl
@[simp] theorem Thread.setS_p (t : Thread) (n : BitVec 3) (w : SWord) : (t.setS n w).p = t.p := rfl
@[simp] theorem Thread.setS_k (t : Thread) (n : BitVec 3) (w : SWord) : (t.setS n w).k = t.k := rfl
@[simp] theorem Thread.setS_pend (t : Thread) (n : BitVec 3) (w : SWord) : (t.setS n w).pend = t.pend := rfl
@[simp] theorem Thread.setS_pc (t : Thread) (n : BitVec 3) (w : SWord) : (t.setS n w).pc = t.pc := rfl
@[simp] theorem Thread.setS_fpflags (t : Thread) (n : BitVec 3) (w : SWord) : (t.setS n w).fpflags = t.fpflags := rfl
@[simp] theorem Thread.setS_rndmode (t : Thread) (n : BitVec 3) (w : SWord) : (t.setS n w).rndmode = t.rndmode := rfl
@[simp] theorem Thread.setS_srstate (t : Thread) (n : BitVec 3) (w : SWord) : (t.setS n w).srstate = t.srstate := rfl
@[simp] theorem Thread.setS_stacklim (t : Thread) (n : BitVec 3) (w : SWord) : (t.setS n w).stacklim = t.stacklim := rfl
@[simp] theorem Thread.setS_finfo (t : Thread) (n : BitVec 3) (w : SWord) : (t.setS n w).finfo = t.finfo := rfl
@[simp] theorem Thread.setS_perf (t : Thread) (n : BitVec 3) (w : SWord) : (t.setS n w).perf = t.perf := rfl
@[simp] theorem Thread.setS_cycle (t : Thread) (n : BitVec 3) (w : SWord) : (t.setS n w).cycle = t.cycle := rfl
@[simp] theorem Thread.setS_budget (t : Thread) (n : BitVec 3) (w : SWord) : (t.setS n w).budget = t.budget := rfl
@[simp] theorem Thread.setS_tagT (t : Thread) (n : BitVec 3) (w : SWord) : (t.setS n w).tagT = t.tagT := rfl
@[simp] theorem Thread.setS_tagM (t : Thread) (n : BitVec 3) (w : SWord) : (t.setS n w).tagM = t.tagM := rfl
@[simp] theorem Thread.setS_port (t : Thread) (n : BitVec 3) (w : SWord) : (t.setS n w).port = t.port := rfl
@[simp] theorem Thread.setS_inHandler (t : Thread) (n : BitVec 3) (w : SWord) : (t.setS n w).inHandler = t.inHandler := rfl
@[simp] theorem Thread.setS_baseT (t : Thread) (n : BitVec 3) (w : SWord) : (t.setS n w).baseT = t.baseT := rfl
@[simp] theorem Thread.setS_baseM (t : Thread) (n : BitVec 3) (w : SWord) : (t.setS n w).baseM = t.baseM := rfl
@[simp] theorem Thread.setS_baseOver (t : Thread) (n : BitVec 3) (w : SWord) : (t.setS n w).baseOver = t.baseOver := rfl
@[simp] theorem Thread.setS_lastT (t : Thread) (n : BitVec 3) (w : SWord) : (t.setS n w).lastT = t.lastT := rfl
@[simp] theorem Thread.setS_lastM (t : Thread) (n : BitVec 3) (w : SWord) : (t.setS n w).lastM = t.lastM := rfl
@[simp] theorem Thread.setS_launched (t : Thread) (n : BitVec 3) (w : SWord) : (t.setS n w).launched = t.launched := rfl
@[simp] theorem Thread.setS_postCtr (t : Thread) (n : BitVec 3) (w : SWord) : (t.setS n w).postCtr = t.postCtr := rfl
@[simp] theorem Thread.setS_wait (t : Thread) (n : BitVec 3) (w : SWord) : (t.setS n w).wait = t.wait := rfl
@[simp] theorem Thread.setS_raised (t : Thread) (n : BitVec 3) (w : SWord) : (t.setS n w).raised = t.raised := rfl
@[simp] theorem Thread.setS_reports (t : Thread) (n : BitVec 3) (w : SWord) : (t.setS n w).reports = t.reports := rfl
@[simp] theorem Thread.setS_retrying (t : Thread) (n : BitVec 3) (w : SWord) : (t.setS n w).retrying = t.retrying := rfl
@[simp] theorem Thread.setS_reissue (t : Thread) (n : BitVec 3) (w : SWord) : (t.setS n w).reissue = t.reissue := rfl
@[simp] theorem Thread.setS_members (t : Thread) (n : BitVec 3) (w : SWord) : (t.setS n w).members = t.members := rfl
@[simp] theorem Thread.setS_barAsk (t : Thread) (n : BitVec 3) (w : SWord) : (t.setS n w).barAsk = t.barAsk := rfl
@[simp] theorem Thread.setS_fenceAll (t : Thread) (n : BitVec 3) (w : SWord) : (t.setS n w).fenceAll = t.fenceAll := rfl
@[simp] theorem Thread.setS_fenceWr (t : Thread) (n : BitVec 3) (w : SWord) : (t.setS n w).fenceWr = t.fenceWr := rfl
@[simp] theorem Thread.setS_seen (t : Thread) (n : BitVec 3) (w : SWord) : (t.setS n w).seen = t.seen := rfl
@[simp] theorem Thread.setS_count (t : Thread) (n : BitVec 3) (w : SWord) : (t.setS n w).count = t.count := rfl
@[simp] theorem Thread.setS_lastIssue (t : Thread) (n : BitVec 3) (w : SWord) : (t.setS n w).lastIssue = t.lastIssue := rfl
@[simp] theorem Thread.setS_gap (t : Thread) (n : BitVec 3) (w : SWord) : (t.setS n w).gap = t.gap := rfl
@[simp] theorem Thread.setS_fetchHold (t : Thread) (n : BitVec 3) (w : SWord) : (t.setS n w).fetchHold = t.fetchHold := rfl
@[simp] theorem Thread.setS_fetchBad (t : Thread) (n : BitVec 3) (w : SWord) : (t.setS n w).fetchBad = t.fetchBad := rfl
@[simp] theorem Thread.setS_fetchAgain (t : Thread) (n : BitVec 3) (w : SWord) : (t.setS n w).fetchAgain = t.fetchAgain := rfl
@[simp] theorem Thread.setS_gone (t : Thread) (n : BitVec 3) (w : SWord) : (t.setS n w).gone = t.gone := rfl
@[simp] theorem Thread.setS_fetchOps (t : Thread) (n : BitVec 3) (w : SWord) : (t.setS n w).fetchOps = t.fetchOps := rfl
@[simp] theorem Thread.setS_fetchBuf (t : Thread) (n : BitVec 3) (w : SWord) : (t.setS n w).fetchBuf = t.fetchBuf := rfl

/-! `Thread.wx` -/

@[simp] theorem Thread.wx_status (t : Thread) (r : Reg) (w : Word) : (t.wx r w).status = t.status := by unfold Thread.wx; split <;> simp
@[simp] theorem Thread.wx_prior (t : Thread) (r : Reg) (w : Word) : (t.wx r w).prior = t.prior := by unfold Thread.wx; split <;> simp
@[simp] theorem Thread.wx_before (t : Thread) (r : Reg) (w : Word) : (t.wx r w).before = t.before := by unfold Thread.wx; split <;> simp
@[simp] theorem Thread.wx_launch (t : Thread) (r : Reg) (w : Word) : (t.wx r w).launch = t.launch := by unfold Thread.wx; split <;> simp
@[simp] theorem Thread.wx_gidx (t : Thread) (r : Reg) (w : Word) : (t.wx r w).gidx = t.gidx := by unfold Thread.wx; split <;> simp
@[simp] theorem Thread.wx_xn (t : Thread) (r : Reg) (w : Word) : (t.wx r w).xn = t.xn := by unfold Thread.wx; split <;> simp
@[simp] theorem Thread.wx_vn (t : Thread) (r : Reg) (w : Word) : (t.wx r w).vn = t.vn := by unfold Thread.wx; split <;> simp
@[simp] theorem Thread.wx_v (t : Thread) (r : Reg) (w : Word) : (t.wx r w).v = t.v := by unfold Thread.wx; split <;> simp
@[simp] theorem Thread.wx_p (t : Thread) (r : Reg) (w : Word) : (t.wx r w).p = t.p := by unfold Thread.wx; split <;> simp
@[simp] theorem Thread.wx_k (t : Thread) (r : Reg) (w : Word) : (t.wx r w).k = t.k := by unfold Thread.wx; split <;> simp
@[simp] theorem Thread.wx_s (t : Thread) (r : Reg) (w : Word) : (t.wx r w).s = t.s := by unfold Thread.wx; split <;> simp
@[simp] theorem Thread.wx_pend (t : Thread) (r : Reg) (w : Word) : (t.wx r w).pend = t.pend := by unfold Thread.wx; split <;> simp
@[simp] theorem Thread.wx_pc (t : Thread) (r : Reg) (w : Word) : (t.wx r w).pc = t.pc := by unfold Thread.wx; split <;> simp
@[simp] theorem Thread.wx_fpflags (t : Thread) (r : Reg) (w : Word) : (t.wx r w).fpflags = t.fpflags := by unfold Thread.wx; split <;> simp
@[simp] theorem Thread.wx_rndmode (t : Thread) (r : Reg) (w : Word) : (t.wx r w).rndmode = t.rndmode := by unfold Thread.wx; split <;> simp
@[simp] theorem Thread.wx_srstate (t : Thread) (r : Reg) (w : Word) : (t.wx r w).srstate = t.srstate := by unfold Thread.wx; split <;> simp
@[simp] theorem Thread.wx_stacklim (t : Thread) (r : Reg) (w : Word) : (t.wx r w).stacklim = t.stacklim := by unfold Thread.wx; split <;> simp
@[simp] theorem Thread.wx_finfo (t : Thread) (r : Reg) (w : Word) : (t.wx r w).finfo = t.finfo := by unfold Thread.wx; split <;> simp
@[simp] theorem Thread.wx_perf (t : Thread) (r : Reg) (w : Word) : (t.wx r w).perf = t.perf := by unfold Thread.wx; split <;> simp
@[simp] theorem Thread.wx_cycle (t : Thread) (r : Reg) (w : Word) : (t.wx r w).cycle = t.cycle := by unfold Thread.wx; split <;> simp
@[simp] theorem Thread.wx_budget (t : Thread) (r : Reg) (w : Word) : (t.wx r w).budget = t.budget := by unfold Thread.wx; split <;> simp
@[simp] theorem Thread.wx_tagT (t : Thread) (r : Reg) (w : Word) : (t.wx r w).tagT = t.tagT := by unfold Thread.wx; split <;> simp
@[simp] theorem Thread.wx_tagM (t : Thread) (r : Reg) (w : Word) : (t.wx r w).tagM = t.tagM := by unfold Thread.wx; split <;> simp
@[simp] theorem Thread.wx_port (t : Thread) (r : Reg) (w : Word) : (t.wx r w).port = t.port := by unfold Thread.wx; split <;> simp
@[simp] theorem Thread.wx_inHandler (t : Thread) (r : Reg) (w : Word) : (t.wx r w).inHandler = t.inHandler := by unfold Thread.wx; split <;> simp
@[simp] theorem Thread.wx_baseT (t : Thread) (r : Reg) (w : Word) : (t.wx r w).baseT = t.baseT := by unfold Thread.wx; split <;> simp
@[simp] theorem Thread.wx_baseM (t : Thread) (r : Reg) (w : Word) : (t.wx r w).baseM = t.baseM := by unfold Thread.wx; split <;> simp
@[simp] theorem Thread.wx_baseOver (t : Thread) (r : Reg) (w : Word) : (t.wx r w).baseOver = t.baseOver := by unfold Thread.wx; split <;> simp
@[simp] theorem Thread.wx_lastT (t : Thread) (r : Reg) (w : Word) : (t.wx r w).lastT = t.lastT := by unfold Thread.wx; split <;> simp
@[simp] theorem Thread.wx_lastM (t : Thread) (r : Reg) (w : Word) : (t.wx r w).lastM = t.lastM := by unfold Thread.wx; split <;> simp
@[simp] theorem Thread.wx_launched (t : Thread) (r : Reg) (w : Word) : (t.wx r w).launched = t.launched := by unfold Thread.wx; split <;> simp
@[simp] theorem Thread.wx_postCtr (t : Thread) (r : Reg) (w : Word) : (t.wx r w).postCtr = t.postCtr := by unfold Thread.wx; split <;> simp
@[simp] theorem Thread.wx_wait (t : Thread) (r : Reg) (w : Word) : (t.wx r w).wait = t.wait := by unfold Thread.wx; split <;> simp
@[simp] theorem Thread.wx_raised (t : Thread) (r : Reg) (w : Word) : (t.wx r w).raised = t.raised := by unfold Thread.wx; split <;> simp
@[simp] theorem Thread.wx_reports (t : Thread) (r : Reg) (w : Word) : (t.wx r w).reports = t.reports := by unfold Thread.wx; split <;> simp
@[simp] theorem Thread.wx_retrying (t : Thread) (r : Reg) (w : Word) : (t.wx r w).retrying = t.retrying := by unfold Thread.wx; split <;> simp
@[simp] theorem Thread.wx_reissue (t : Thread) (r : Reg) (w : Word) : (t.wx r w).reissue = t.reissue := by unfold Thread.wx; split <;> simp
@[simp] theorem Thread.wx_members (t : Thread) (r : Reg) (w : Word) : (t.wx r w).members = t.members := by unfold Thread.wx; split <;> simp
@[simp] theorem Thread.wx_barAsk (t : Thread) (r : Reg) (w : Word) : (t.wx r w).barAsk = t.barAsk := by unfold Thread.wx; split <;> simp
@[simp] theorem Thread.wx_fenceAll (t : Thread) (r : Reg) (w : Word) : (t.wx r w).fenceAll = t.fenceAll := by unfold Thread.wx; split <;> simp
@[simp] theorem Thread.wx_fenceWr (t : Thread) (r : Reg) (w : Word) : (t.wx r w).fenceWr = t.fenceWr := by unfold Thread.wx; split <;> simp
@[simp] theorem Thread.wx_seen (t : Thread) (r : Reg) (w : Word) : (t.wx r w).seen = t.seen := by unfold Thread.wx; split <;> simp
@[simp] theorem Thread.wx_count (t : Thread) (r : Reg) (w : Word) : (t.wx r w).count = t.count := by unfold Thread.wx; split <;> simp
@[simp] theorem Thread.wx_lastIssue (t : Thread) (r : Reg) (w : Word) : (t.wx r w).lastIssue = t.lastIssue := by unfold Thread.wx; split <;> simp
@[simp] theorem Thread.wx_gap (t : Thread) (r : Reg) (w : Word) : (t.wx r w).gap = t.gap := by unfold Thread.wx; split <;> simp
@[simp] theorem Thread.wx_fetchHold (t : Thread) (r : Reg) (w : Word) : (t.wx r w).fetchHold = t.fetchHold := by unfold Thread.wx; split <;> simp
@[simp] theorem Thread.wx_fetchBad (t : Thread) (r : Reg) (w : Word) : (t.wx r w).fetchBad = t.fetchBad := by unfold Thread.wx; split <;> simp
@[simp] theorem Thread.wx_fetchAgain (t : Thread) (r : Reg) (w : Word) : (t.wx r w).fetchAgain = t.fetchAgain := by unfold Thread.wx; split <;> simp
@[simp] theorem Thread.wx_gone (t : Thread) (r : Reg) (w : Word) : (t.wx r w).gone = t.gone := by unfold Thread.wx; split <;> simp
@[simp] theorem Thread.wx_fetchOps (t : Thread) (r : Reg) (w : Word) : (t.wx r w).fetchOps = t.fetchOps := by unfold Thread.wx; split <;> simp
@[simp] theorem Thread.wx_fetchBuf (t : Thread) (r : Reg) (w : Word) : (t.wx r w).fetchBuf = t.fetchBuf := by unfold Thread.wx; split <;> simp

/-! `Thread.wv` -/

@[simp] theorem Thread.wv_status (t : Thread) (r : Reg) (w : VWord) : (t.wv r w).status = t.status := by unfold Thread.wv; split <;> simp
@[simp] theorem Thread.wv_prior (t : Thread) (r : Reg) (w : VWord) : (t.wv r w).prior = t.prior := by unfold Thread.wv; split <;> simp
@[simp] theorem Thread.wv_before (t : Thread) (r : Reg) (w : VWord) : (t.wv r w).before = t.before := by unfold Thread.wv; split <;> simp
@[simp] theorem Thread.wv_launch (t : Thread) (r : Reg) (w : VWord) : (t.wv r w).launch = t.launch := by unfold Thread.wv; split <;> simp
@[simp] theorem Thread.wv_gidx (t : Thread) (r : Reg) (w : VWord) : (t.wv r w).gidx = t.gidx := by unfold Thread.wv; split <;> simp
@[simp] theorem Thread.wv_xn (t : Thread) (r : Reg) (w : VWord) : (t.wv r w).xn = t.xn := by unfold Thread.wv; split <;> simp
@[simp] theorem Thread.wv_vn (t : Thread) (r : Reg) (w : VWord) : (t.wv r w).vn = t.vn := by unfold Thread.wv; split <;> simp
@[simp] theorem Thread.wv_x (t : Thread) (r : Reg) (w : VWord) : (t.wv r w).x = t.x := by unfold Thread.wv; split <;> simp
@[simp] theorem Thread.wv_p (t : Thread) (r : Reg) (w : VWord) : (t.wv r w).p = t.p := by unfold Thread.wv; split <;> simp
@[simp] theorem Thread.wv_k (t : Thread) (r : Reg) (w : VWord) : (t.wv r w).k = t.k := by unfold Thread.wv; split <;> simp
@[simp] theorem Thread.wv_s (t : Thread) (r : Reg) (w : VWord) : (t.wv r w).s = t.s := by unfold Thread.wv; split <;> simp
@[simp] theorem Thread.wv_pend (t : Thread) (r : Reg) (w : VWord) : (t.wv r w).pend = t.pend := by unfold Thread.wv; split <;> simp
@[simp] theorem Thread.wv_pc (t : Thread) (r : Reg) (w : VWord) : (t.wv r w).pc = t.pc := by unfold Thread.wv; split <;> simp
@[simp] theorem Thread.wv_fpflags (t : Thread) (r : Reg) (w : VWord) : (t.wv r w).fpflags = t.fpflags := by unfold Thread.wv; split <;> simp
@[simp] theorem Thread.wv_rndmode (t : Thread) (r : Reg) (w : VWord) : (t.wv r w).rndmode = t.rndmode := by unfold Thread.wv; split <;> simp
@[simp] theorem Thread.wv_srstate (t : Thread) (r : Reg) (w : VWord) : (t.wv r w).srstate = t.srstate := by unfold Thread.wv; split <;> simp
@[simp] theorem Thread.wv_stacklim (t : Thread) (r : Reg) (w : VWord) : (t.wv r w).stacklim = t.stacklim := by unfold Thread.wv; split <;> simp
@[simp] theorem Thread.wv_finfo (t : Thread) (r : Reg) (w : VWord) : (t.wv r w).finfo = t.finfo := by unfold Thread.wv; split <;> simp
@[simp] theorem Thread.wv_perf (t : Thread) (r : Reg) (w : VWord) : (t.wv r w).perf = t.perf := by unfold Thread.wv; split <;> simp
@[simp] theorem Thread.wv_cycle (t : Thread) (r : Reg) (w : VWord) : (t.wv r w).cycle = t.cycle := by unfold Thread.wv; split <;> simp
@[simp] theorem Thread.wv_budget (t : Thread) (r : Reg) (w : VWord) : (t.wv r w).budget = t.budget := by unfold Thread.wv; split <;> simp
@[simp] theorem Thread.wv_tagT (t : Thread) (r : Reg) (w : VWord) : (t.wv r w).tagT = t.tagT := by unfold Thread.wv; split <;> simp
@[simp] theorem Thread.wv_tagM (t : Thread) (r : Reg) (w : VWord) : (t.wv r w).tagM = t.tagM := by unfold Thread.wv; split <;> simp
@[simp] theorem Thread.wv_port (t : Thread) (r : Reg) (w : VWord) : (t.wv r w).port = t.port := by unfold Thread.wv; split <;> simp
@[simp] theorem Thread.wv_inHandler (t : Thread) (r : Reg) (w : VWord) : (t.wv r w).inHandler = t.inHandler := by unfold Thread.wv; split <;> simp
@[simp] theorem Thread.wv_baseT (t : Thread) (r : Reg) (w : VWord) : (t.wv r w).baseT = t.baseT := by unfold Thread.wv; split <;> simp
@[simp] theorem Thread.wv_baseM (t : Thread) (r : Reg) (w : VWord) : (t.wv r w).baseM = t.baseM := by unfold Thread.wv; split <;> simp
@[simp] theorem Thread.wv_baseOver (t : Thread) (r : Reg) (w : VWord) : (t.wv r w).baseOver = t.baseOver := by unfold Thread.wv; split <;> simp
@[simp] theorem Thread.wv_lastT (t : Thread) (r : Reg) (w : VWord) : (t.wv r w).lastT = t.lastT := by unfold Thread.wv; split <;> simp
@[simp] theorem Thread.wv_lastM (t : Thread) (r : Reg) (w : VWord) : (t.wv r w).lastM = t.lastM := by unfold Thread.wv; split <;> simp
@[simp] theorem Thread.wv_launched (t : Thread) (r : Reg) (w : VWord) : (t.wv r w).launched = t.launched := by unfold Thread.wv; split <;> simp
@[simp] theorem Thread.wv_postCtr (t : Thread) (r : Reg) (w : VWord) : (t.wv r w).postCtr = t.postCtr := by unfold Thread.wv; split <;> simp
@[simp] theorem Thread.wv_wait (t : Thread) (r : Reg) (w : VWord) : (t.wv r w).wait = t.wait := by unfold Thread.wv; split <;> simp
@[simp] theorem Thread.wv_raised (t : Thread) (r : Reg) (w : VWord) : (t.wv r w).raised = t.raised := by unfold Thread.wv; split <;> simp
@[simp] theorem Thread.wv_reports (t : Thread) (r : Reg) (w : VWord) : (t.wv r w).reports = t.reports := by unfold Thread.wv; split <;> simp
@[simp] theorem Thread.wv_retrying (t : Thread) (r : Reg) (w : VWord) : (t.wv r w).retrying = t.retrying := by unfold Thread.wv; split <;> simp
@[simp] theorem Thread.wv_reissue (t : Thread) (r : Reg) (w : VWord) : (t.wv r w).reissue = t.reissue := by unfold Thread.wv; split <;> simp
@[simp] theorem Thread.wv_members (t : Thread) (r : Reg) (w : VWord) : (t.wv r w).members = t.members := by unfold Thread.wv; split <;> simp
@[simp] theorem Thread.wv_barAsk (t : Thread) (r : Reg) (w : VWord) : (t.wv r w).barAsk = t.barAsk := by unfold Thread.wv; split <;> simp
@[simp] theorem Thread.wv_fenceAll (t : Thread) (r : Reg) (w : VWord) : (t.wv r w).fenceAll = t.fenceAll := by unfold Thread.wv; split <;> simp
@[simp] theorem Thread.wv_fenceWr (t : Thread) (r : Reg) (w : VWord) : (t.wv r w).fenceWr = t.fenceWr := by unfold Thread.wv; split <;> simp
@[simp] theorem Thread.wv_seen (t : Thread) (r : Reg) (w : VWord) : (t.wv r w).seen = t.seen := by unfold Thread.wv; split <;> simp
@[simp] theorem Thread.wv_count (t : Thread) (r : Reg) (w : VWord) : (t.wv r w).count = t.count := by unfold Thread.wv; split <;> simp
@[simp] theorem Thread.wv_lastIssue (t : Thread) (r : Reg) (w : VWord) : (t.wv r w).lastIssue = t.lastIssue := by unfold Thread.wv; split <;> simp
@[simp] theorem Thread.wv_gap (t : Thread) (r : Reg) (w : VWord) : (t.wv r w).gap = t.gap := by unfold Thread.wv; split <;> simp
@[simp] theorem Thread.wv_fetchHold (t : Thread) (r : Reg) (w : VWord) : (t.wv r w).fetchHold = t.fetchHold := by unfold Thread.wv; split <;> simp
@[simp] theorem Thread.wv_fetchBad (t : Thread) (r : Reg) (w : VWord) : (t.wv r w).fetchBad = t.fetchBad := by unfold Thread.wv; split <;> simp
@[simp] theorem Thread.wv_fetchAgain (t : Thread) (r : Reg) (w : VWord) : (t.wv r w).fetchAgain = t.fetchAgain := by unfold Thread.wv; split <;> simp
@[simp] theorem Thread.wv_gone (t : Thread) (r : Reg) (w : VWord) : (t.wv r w).gone = t.gone := by unfold Thread.wv; split <;> simp
@[simp] theorem Thread.wv_fetchOps (t : Thread) (r : Reg) (w : VWord) : (t.wv r w).fetchOps = t.fetchOps := by unfold Thread.wv; split <;> simp
@[simp] theorem Thread.wv_fetchBuf (t : Thread) (r : Reg) (w : VWord) : (t.wv r w).fetchBuf = t.fetchBuf := by unfold Thread.wv; split <;> simp

/-! `Thread.wp` -/

@[simp] theorem Thread.wp_status (t : Thread) (r : Reg) (b : Bool) : (t.wp r b).status = t.status := by unfold Thread.wp; split <;> simp
@[simp] theorem Thread.wp_prior (t : Thread) (r : Reg) (b : Bool) : (t.wp r b).prior = t.prior := by unfold Thread.wp; split <;> simp
@[simp] theorem Thread.wp_before (t : Thread) (r : Reg) (b : Bool) : (t.wp r b).before = t.before := by unfold Thread.wp; split <;> simp
@[simp] theorem Thread.wp_launch (t : Thread) (r : Reg) (b : Bool) : (t.wp r b).launch = t.launch := by unfold Thread.wp; split <;> simp
@[simp] theorem Thread.wp_gidx (t : Thread) (r : Reg) (b : Bool) : (t.wp r b).gidx = t.gidx := by unfold Thread.wp; split <;> simp
@[simp] theorem Thread.wp_xn (t : Thread) (r : Reg) (b : Bool) : (t.wp r b).xn = t.xn := by unfold Thread.wp; split <;> simp
@[simp] theorem Thread.wp_vn (t : Thread) (r : Reg) (b : Bool) : (t.wp r b).vn = t.vn := by unfold Thread.wp; split <;> simp
@[simp] theorem Thread.wp_x (t : Thread) (r : Reg) (b : Bool) : (t.wp r b).x = t.x := by unfold Thread.wp; split <;> simp
@[simp] theorem Thread.wp_v (t : Thread) (r : Reg) (b : Bool) : (t.wp r b).v = t.v := by unfold Thread.wp; split <;> simp
@[simp] theorem Thread.wp_k (t : Thread) (r : Reg) (b : Bool) : (t.wp r b).k = t.k := by unfold Thread.wp; split <;> simp
@[simp] theorem Thread.wp_s (t : Thread) (r : Reg) (b : Bool) : (t.wp r b).s = t.s := by unfold Thread.wp; split <;> simp
@[simp] theorem Thread.wp_pend (t : Thread) (r : Reg) (b : Bool) : (t.wp r b).pend = t.pend := by unfold Thread.wp; split <;> simp
@[simp] theorem Thread.wp_pc (t : Thread) (r : Reg) (b : Bool) : (t.wp r b).pc = t.pc := by unfold Thread.wp; split <;> simp
@[simp] theorem Thread.wp_fpflags (t : Thread) (r : Reg) (b : Bool) : (t.wp r b).fpflags = t.fpflags := by unfold Thread.wp; split <;> simp
@[simp] theorem Thread.wp_rndmode (t : Thread) (r : Reg) (b : Bool) : (t.wp r b).rndmode = t.rndmode := by unfold Thread.wp; split <;> simp
@[simp] theorem Thread.wp_srstate (t : Thread) (r : Reg) (b : Bool) : (t.wp r b).srstate = t.srstate := by unfold Thread.wp; split <;> simp
@[simp] theorem Thread.wp_stacklim (t : Thread) (r : Reg) (b : Bool) : (t.wp r b).stacklim = t.stacklim := by unfold Thread.wp; split <;> simp
@[simp] theorem Thread.wp_finfo (t : Thread) (r : Reg) (b : Bool) : (t.wp r b).finfo = t.finfo := by unfold Thread.wp; split <;> simp
@[simp] theorem Thread.wp_perf (t : Thread) (r : Reg) (b : Bool) : (t.wp r b).perf = t.perf := by unfold Thread.wp; split <;> simp
@[simp] theorem Thread.wp_cycle (t : Thread) (r : Reg) (b : Bool) : (t.wp r b).cycle = t.cycle := by unfold Thread.wp; split <;> simp
@[simp] theorem Thread.wp_budget (t : Thread) (r : Reg) (b : Bool) : (t.wp r b).budget = t.budget := by unfold Thread.wp; split <;> simp
@[simp] theorem Thread.wp_tagT (t : Thread) (r : Reg) (b : Bool) : (t.wp r b).tagT = t.tagT := by unfold Thread.wp; split <;> simp
@[simp] theorem Thread.wp_tagM (t : Thread) (r : Reg) (b : Bool) : (t.wp r b).tagM = t.tagM := by unfold Thread.wp; split <;> simp
@[simp] theorem Thread.wp_port (t : Thread) (r : Reg) (b : Bool) : (t.wp r b).port = t.port := by unfold Thread.wp; split <;> simp
@[simp] theorem Thread.wp_inHandler (t : Thread) (r : Reg) (b : Bool) : (t.wp r b).inHandler = t.inHandler := by unfold Thread.wp; split <;> simp
@[simp] theorem Thread.wp_baseT (t : Thread) (r : Reg) (b : Bool) : (t.wp r b).baseT = t.baseT := by unfold Thread.wp; split <;> simp
@[simp] theorem Thread.wp_baseM (t : Thread) (r : Reg) (b : Bool) : (t.wp r b).baseM = t.baseM := by unfold Thread.wp; split <;> simp
@[simp] theorem Thread.wp_baseOver (t : Thread) (r : Reg) (b : Bool) : (t.wp r b).baseOver = t.baseOver := by unfold Thread.wp; split <;> simp
@[simp] theorem Thread.wp_lastT (t : Thread) (r : Reg) (b : Bool) : (t.wp r b).lastT = t.lastT := by unfold Thread.wp; split <;> simp
@[simp] theorem Thread.wp_lastM (t : Thread) (r : Reg) (b : Bool) : (t.wp r b).lastM = t.lastM := by unfold Thread.wp; split <;> simp
@[simp] theorem Thread.wp_launched (t : Thread) (r : Reg) (b : Bool) : (t.wp r b).launched = t.launched := by unfold Thread.wp; split <;> simp
@[simp] theorem Thread.wp_postCtr (t : Thread) (r : Reg) (b : Bool) : (t.wp r b).postCtr = t.postCtr := by unfold Thread.wp; split <;> simp
@[simp] theorem Thread.wp_wait (t : Thread) (r : Reg) (b : Bool) : (t.wp r b).wait = t.wait := by unfold Thread.wp; split <;> simp
@[simp] theorem Thread.wp_raised (t : Thread) (r : Reg) (b : Bool) : (t.wp r b).raised = t.raised := by unfold Thread.wp; split <;> simp
@[simp] theorem Thread.wp_reports (t : Thread) (r : Reg) (b : Bool) : (t.wp r b).reports = t.reports := by unfold Thread.wp; split <;> simp
@[simp] theorem Thread.wp_retrying (t : Thread) (r : Reg) (b : Bool) : (t.wp r b).retrying = t.retrying := by unfold Thread.wp; split <;> simp
@[simp] theorem Thread.wp_reissue (t : Thread) (r : Reg) (b : Bool) : (t.wp r b).reissue = t.reissue := by unfold Thread.wp; split <;> simp
@[simp] theorem Thread.wp_members (t : Thread) (r : Reg) (b : Bool) : (t.wp r b).members = t.members := by unfold Thread.wp; split <;> simp
@[simp] theorem Thread.wp_barAsk (t : Thread) (r : Reg) (b : Bool) : (t.wp r b).barAsk = t.barAsk := by unfold Thread.wp; split <;> simp
@[simp] theorem Thread.wp_fenceAll (t : Thread) (r : Reg) (b : Bool) : (t.wp r b).fenceAll = t.fenceAll := by unfold Thread.wp; split <;> simp
@[simp] theorem Thread.wp_fenceWr (t : Thread) (r : Reg) (b : Bool) : (t.wp r b).fenceWr = t.fenceWr := by unfold Thread.wp; split <;> simp
@[simp] theorem Thread.wp_seen (t : Thread) (r : Reg) (b : Bool) : (t.wp r b).seen = t.seen := by unfold Thread.wp; split <;> simp
@[simp] theorem Thread.wp_count (t : Thread) (r : Reg) (b : Bool) : (t.wp r b).count = t.count := by unfold Thread.wp; split <;> simp
@[simp] theorem Thread.wp_lastIssue (t : Thread) (r : Reg) (b : Bool) : (t.wp r b).lastIssue = t.lastIssue := by unfold Thread.wp; split <;> simp
@[simp] theorem Thread.wp_gap (t : Thread) (r : Reg) (b : Bool) : (t.wp r b).gap = t.gap := by unfold Thread.wp; split <;> simp
@[simp] theorem Thread.wp_fetchHold (t : Thread) (r : Reg) (b : Bool) : (t.wp r b).fetchHold = t.fetchHold := by unfold Thread.wp; split <;> simp
@[simp] theorem Thread.wp_fetchBad (t : Thread) (r : Reg) (b : Bool) : (t.wp r b).fetchBad = t.fetchBad := by unfold Thread.wp; split <;> simp
@[simp] theorem Thread.wp_fetchAgain (t : Thread) (r : Reg) (b : Bool) : (t.wp r b).fetchAgain = t.fetchAgain := by unfold Thread.wp; split <;> simp
@[simp] theorem Thread.wp_gone (t : Thread) (r : Reg) (b : Bool) : (t.wp r b).gone = t.gone := by unfold Thread.wp; split <;> simp
@[simp] theorem Thread.wp_fetchOps (t : Thread) (r : Reg) (b : Bool) : (t.wp r b).fetchOps = t.fetchOps := by unfold Thread.wp; split <;> simp
@[simp] theorem Thread.wp_fetchBuf (t : Thread) (r : Reg) (b : Bool) : (t.wp r b).fetchBuf = t.fetchBuf := by unfold Thread.wp; split <;> simp

/-! `Thread.wk` -/

@[simp] theorem Thread.wk_status (t : Thread) (r : Reg) (w : BitVec 16) : (t.wk r w).status = t.status := by unfold Thread.wk; split <;> simp
@[simp] theorem Thread.wk_prior (t : Thread) (r : Reg) (w : BitVec 16) : (t.wk r w).prior = t.prior := by unfold Thread.wk; split <;> simp
@[simp] theorem Thread.wk_before (t : Thread) (r : Reg) (w : BitVec 16) : (t.wk r w).before = t.before := by unfold Thread.wk; split <;> simp
@[simp] theorem Thread.wk_launch (t : Thread) (r : Reg) (w : BitVec 16) : (t.wk r w).launch = t.launch := by unfold Thread.wk; split <;> simp
@[simp] theorem Thread.wk_gidx (t : Thread) (r : Reg) (w : BitVec 16) : (t.wk r w).gidx = t.gidx := by unfold Thread.wk; split <;> simp
@[simp] theorem Thread.wk_xn (t : Thread) (r : Reg) (w : BitVec 16) : (t.wk r w).xn = t.xn := by unfold Thread.wk; split <;> simp
@[simp] theorem Thread.wk_vn (t : Thread) (r : Reg) (w : BitVec 16) : (t.wk r w).vn = t.vn := by unfold Thread.wk; split <;> simp
@[simp] theorem Thread.wk_x (t : Thread) (r : Reg) (w : BitVec 16) : (t.wk r w).x = t.x := by unfold Thread.wk; split <;> simp
@[simp] theorem Thread.wk_v (t : Thread) (r : Reg) (w : BitVec 16) : (t.wk r w).v = t.v := by unfold Thread.wk; split <;> simp
@[simp] theorem Thread.wk_p (t : Thread) (r : Reg) (w : BitVec 16) : (t.wk r w).p = t.p := by unfold Thread.wk; split <;> simp
@[simp] theorem Thread.wk_s (t : Thread) (r : Reg) (w : BitVec 16) : (t.wk r w).s = t.s := by unfold Thread.wk; split <;> simp
@[simp] theorem Thread.wk_pend (t : Thread) (r : Reg) (w : BitVec 16) : (t.wk r w).pend = t.pend := by unfold Thread.wk; split <;> simp
@[simp] theorem Thread.wk_pc (t : Thread) (r : Reg) (w : BitVec 16) : (t.wk r w).pc = t.pc := by unfold Thread.wk; split <;> simp
@[simp] theorem Thread.wk_fpflags (t : Thread) (r : Reg) (w : BitVec 16) : (t.wk r w).fpflags = t.fpflags := by unfold Thread.wk; split <;> simp
@[simp] theorem Thread.wk_rndmode (t : Thread) (r : Reg) (w : BitVec 16) : (t.wk r w).rndmode = t.rndmode := by unfold Thread.wk; split <;> simp
@[simp] theorem Thread.wk_srstate (t : Thread) (r : Reg) (w : BitVec 16) : (t.wk r w).srstate = t.srstate := by unfold Thread.wk; split <;> simp
@[simp] theorem Thread.wk_stacklim (t : Thread) (r : Reg) (w : BitVec 16) : (t.wk r w).stacklim = t.stacklim := by unfold Thread.wk; split <;> simp
@[simp] theorem Thread.wk_finfo (t : Thread) (r : Reg) (w : BitVec 16) : (t.wk r w).finfo = t.finfo := by unfold Thread.wk; split <;> simp
@[simp] theorem Thread.wk_perf (t : Thread) (r : Reg) (w : BitVec 16) : (t.wk r w).perf = t.perf := by unfold Thread.wk; split <;> simp
@[simp] theorem Thread.wk_cycle (t : Thread) (r : Reg) (w : BitVec 16) : (t.wk r w).cycle = t.cycle := by unfold Thread.wk; split <;> simp
@[simp] theorem Thread.wk_budget (t : Thread) (r : Reg) (w : BitVec 16) : (t.wk r w).budget = t.budget := by unfold Thread.wk; split <;> simp
@[simp] theorem Thread.wk_tagT (t : Thread) (r : Reg) (w : BitVec 16) : (t.wk r w).tagT = t.tagT := by unfold Thread.wk; split <;> simp
@[simp] theorem Thread.wk_tagM (t : Thread) (r : Reg) (w : BitVec 16) : (t.wk r w).tagM = t.tagM := by unfold Thread.wk; split <;> simp
@[simp] theorem Thread.wk_port (t : Thread) (r : Reg) (w : BitVec 16) : (t.wk r w).port = t.port := by unfold Thread.wk; split <;> simp
@[simp] theorem Thread.wk_inHandler (t : Thread) (r : Reg) (w : BitVec 16) : (t.wk r w).inHandler = t.inHandler := by unfold Thread.wk; split <;> simp
@[simp] theorem Thread.wk_baseT (t : Thread) (r : Reg) (w : BitVec 16) : (t.wk r w).baseT = t.baseT := by unfold Thread.wk; split <;> simp
@[simp] theorem Thread.wk_baseM (t : Thread) (r : Reg) (w : BitVec 16) : (t.wk r w).baseM = t.baseM := by unfold Thread.wk; split <;> simp
@[simp] theorem Thread.wk_baseOver (t : Thread) (r : Reg) (w : BitVec 16) : (t.wk r w).baseOver = t.baseOver := by unfold Thread.wk; split <;> simp
@[simp] theorem Thread.wk_lastT (t : Thread) (r : Reg) (w : BitVec 16) : (t.wk r w).lastT = t.lastT := by unfold Thread.wk; split <;> simp
@[simp] theorem Thread.wk_lastM (t : Thread) (r : Reg) (w : BitVec 16) : (t.wk r w).lastM = t.lastM := by unfold Thread.wk; split <;> simp
@[simp] theorem Thread.wk_launched (t : Thread) (r : Reg) (w : BitVec 16) : (t.wk r w).launched = t.launched := by unfold Thread.wk; split <;> simp
@[simp] theorem Thread.wk_postCtr (t : Thread) (r : Reg) (w : BitVec 16) : (t.wk r w).postCtr = t.postCtr := by unfold Thread.wk; split <;> simp
@[simp] theorem Thread.wk_wait (t : Thread) (r : Reg) (w : BitVec 16) : (t.wk r w).wait = t.wait := by unfold Thread.wk; split <;> simp
@[simp] theorem Thread.wk_raised (t : Thread) (r : Reg) (w : BitVec 16) : (t.wk r w).raised = t.raised := by unfold Thread.wk; split <;> simp
@[simp] theorem Thread.wk_reports (t : Thread) (r : Reg) (w : BitVec 16) : (t.wk r w).reports = t.reports := by unfold Thread.wk; split <;> simp
@[simp] theorem Thread.wk_retrying (t : Thread) (r : Reg) (w : BitVec 16) : (t.wk r w).retrying = t.retrying := by unfold Thread.wk; split <;> simp
@[simp] theorem Thread.wk_reissue (t : Thread) (r : Reg) (w : BitVec 16) : (t.wk r w).reissue = t.reissue := by unfold Thread.wk; split <;> simp
@[simp] theorem Thread.wk_members (t : Thread) (r : Reg) (w : BitVec 16) : (t.wk r w).members = t.members := by unfold Thread.wk; split <;> simp
@[simp] theorem Thread.wk_barAsk (t : Thread) (r : Reg) (w : BitVec 16) : (t.wk r w).barAsk = t.barAsk := by unfold Thread.wk; split <;> simp
@[simp] theorem Thread.wk_fenceAll (t : Thread) (r : Reg) (w : BitVec 16) : (t.wk r w).fenceAll = t.fenceAll := by unfold Thread.wk; split <;> simp
@[simp] theorem Thread.wk_fenceWr (t : Thread) (r : Reg) (w : BitVec 16) : (t.wk r w).fenceWr = t.fenceWr := by unfold Thread.wk; split <;> simp
@[simp] theorem Thread.wk_seen (t : Thread) (r : Reg) (w : BitVec 16) : (t.wk r w).seen = t.seen := by unfold Thread.wk; split <;> simp
@[simp] theorem Thread.wk_count (t : Thread) (r : Reg) (w : BitVec 16) : (t.wk r w).count = t.count := by unfold Thread.wk; split <;> simp
@[simp] theorem Thread.wk_lastIssue (t : Thread) (r : Reg) (w : BitVec 16) : (t.wk r w).lastIssue = t.lastIssue := by unfold Thread.wk; split <;> simp
@[simp] theorem Thread.wk_gap (t : Thread) (r : Reg) (w : BitVec 16) : (t.wk r w).gap = t.gap := by unfold Thread.wk; split <;> simp
@[simp] theorem Thread.wk_fetchHold (t : Thread) (r : Reg) (w : BitVec 16) : (t.wk r w).fetchHold = t.fetchHold := by unfold Thread.wk; split <;> simp
@[simp] theorem Thread.wk_fetchBad (t : Thread) (r : Reg) (w : BitVec 16) : (t.wk r w).fetchBad = t.fetchBad := by unfold Thread.wk; split <;> simp
@[simp] theorem Thread.wk_fetchAgain (t : Thread) (r : Reg) (w : BitVec 16) : (t.wk r w).fetchAgain = t.fetchAgain := by unfold Thread.wk; split <;> simp
@[simp] theorem Thread.wk_gone (t : Thread) (r : Reg) (w : BitVec 16) : (t.wk r w).gone = t.gone := by unfold Thread.wk; split <;> simp
@[simp] theorem Thread.wk_fetchOps (t : Thread) (r : Reg) (w : BitVec 16) : (t.wk r w).fetchOps = t.fetchOps := by unfold Thread.wk; split <;> simp
@[simp] theorem Thread.wk_fetchBuf (t : Thread) (r : Reg) (w : BitVec 16) : (t.wk r w).fetchBuf = t.fetchBuf := by unfold Thread.wk; split <;> simp

/-! `Thread.ws` -/

@[simp] theorem Thread.ws_status (t : Thread) (r : Reg) (w : SWord) : (t.ws r w).status = t.status := by unfold Thread.ws; split <;> simp
@[simp] theorem Thread.ws_prior (t : Thread) (r : Reg) (w : SWord) : (t.ws r w).prior = t.prior := by unfold Thread.ws; split <;> simp
@[simp] theorem Thread.ws_before (t : Thread) (r : Reg) (w : SWord) : (t.ws r w).before = t.before := by unfold Thread.ws; split <;> simp
@[simp] theorem Thread.ws_launch (t : Thread) (r : Reg) (w : SWord) : (t.ws r w).launch = t.launch := by unfold Thread.ws; split <;> simp
@[simp] theorem Thread.ws_gidx (t : Thread) (r : Reg) (w : SWord) : (t.ws r w).gidx = t.gidx := by unfold Thread.ws; split <;> simp
@[simp] theorem Thread.ws_xn (t : Thread) (r : Reg) (w : SWord) : (t.ws r w).xn = t.xn := by unfold Thread.ws; split <;> simp
@[simp] theorem Thread.ws_vn (t : Thread) (r : Reg) (w : SWord) : (t.ws r w).vn = t.vn := by unfold Thread.ws; split <;> simp
@[simp] theorem Thread.ws_x (t : Thread) (r : Reg) (w : SWord) : (t.ws r w).x = t.x := by unfold Thread.ws; split <;> simp
@[simp] theorem Thread.ws_v (t : Thread) (r : Reg) (w : SWord) : (t.ws r w).v = t.v := by unfold Thread.ws; split <;> simp
@[simp] theorem Thread.ws_p (t : Thread) (r : Reg) (w : SWord) : (t.ws r w).p = t.p := by unfold Thread.ws; split <;> simp
@[simp] theorem Thread.ws_k (t : Thread) (r : Reg) (w : SWord) : (t.ws r w).k = t.k := by unfold Thread.ws; split <;> simp
@[simp] theorem Thread.ws_pend (t : Thread) (r : Reg) (w : SWord) : (t.ws r w).pend = t.pend := by unfold Thread.ws; split <;> simp
@[simp] theorem Thread.ws_pc (t : Thread) (r : Reg) (w : SWord) : (t.ws r w).pc = t.pc := by unfold Thread.ws; split <;> simp
@[simp] theorem Thread.ws_fpflags (t : Thread) (r : Reg) (w : SWord) : (t.ws r w).fpflags = t.fpflags := by unfold Thread.ws; split <;> simp
@[simp] theorem Thread.ws_rndmode (t : Thread) (r : Reg) (w : SWord) : (t.ws r w).rndmode = t.rndmode := by unfold Thread.ws; split <;> simp
@[simp] theorem Thread.ws_srstate (t : Thread) (r : Reg) (w : SWord) : (t.ws r w).srstate = t.srstate := by unfold Thread.ws; split <;> simp
@[simp] theorem Thread.ws_stacklim (t : Thread) (r : Reg) (w : SWord) : (t.ws r w).stacklim = t.stacklim := by unfold Thread.ws; split <;> simp
@[simp] theorem Thread.ws_finfo (t : Thread) (r : Reg) (w : SWord) : (t.ws r w).finfo = t.finfo := by unfold Thread.ws; split <;> simp
@[simp] theorem Thread.ws_perf (t : Thread) (r : Reg) (w : SWord) : (t.ws r w).perf = t.perf := by unfold Thread.ws; split <;> simp
@[simp] theorem Thread.ws_cycle (t : Thread) (r : Reg) (w : SWord) : (t.ws r w).cycle = t.cycle := by unfold Thread.ws; split <;> simp
@[simp] theorem Thread.ws_budget (t : Thread) (r : Reg) (w : SWord) : (t.ws r w).budget = t.budget := by unfold Thread.ws; split <;> simp
@[simp] theorem Thread.ws_tagT (t : Thread) (r : Reg) (w : SWord) : (t.ws r w).tagT = t.tagT := by unfold Thread.ws; split <;> simp
@[simp] theorem Thread.ws_tagM (t : Thread) (r : Reg) (w : SWord) : (t.ws r w).tagM = t.tagM := by unfold Thread.ws; split <;> simp
@[simp] theorem Thread.ws_port (t : Thread) (r : Reg) (w : SWord) : (t.ws r w).port = t.port := by unfold Thread.ws; split <;> simp
@[simp] theorem Thread.ws_inHandler (t : Thread) (r : Reg) (w : SWord) : (t.ws r w).inHandler = t.inHandler := by unfold Thread.ws; split <;> simp
@[simp] theorem Thread.ws_baseT (t : Thread) (r : Reg) (w : SWord) : (t.ws r w).baseT = t.baseT := by unfold Thread.ws; split <;> simp
@[simp] theorem Thread.ws_baseM (t : Thread) (r : Reg) (w : SWord) : (t.ws r w).baseM = t.baseM := by unfold Thread.ws; split <;> simp
@[simp] theorem Thread.ws_baseOver (t : Thread) (r : Reg) (w : SWord) : (t.ws r w).baseOver = t.baseOver := by unfold Thread.ws; split <;> simp
@[simp] theorem Thread.ws_lastT (t : Thread) (r : Reg) (w : SWord) : (t.ws r w).lastT = t.lastT := by unfold Thread.ws; split <;> simp
@[simp] theorem Thread.ws_lastM (t : Thread) (r : Reg) (w : SWord) : (t.ws r w).lastM = t.lastM := by unfold Thread.ws; split <;> simp
@[simp] theorem Thread.ws_launched (t : Thread) (r : Reg) (w : SWord) : (t.ws r w).launched = t.launched := by unfold Thread.ws; split <;> simp
@[simp] theorem Thread.ws_postCtr (t : Thread) (r : Reg) (w : SWord) : (t.ws r w).postCtr = t.postCtr := by unfold Thread.ws; split <;> simp
@[simp] theorem Thread.ws_wait (t : Thread) (r : Reg) (w : SWord) : (t.ws r w).wait = t.wait := by unfold Thread.ws; split <;> simp
@[simp] theorem Thread.ws_raised (t : Thread) (r : Reg) (w : SWord) : (t.ws r w).raised = t.raised := by unfold Thread.ws; split <;> simp
@[simp] theorem Thread.ws_reports (t : Thread) (r : Reg) (w : SWord) : (t.ws r w).reports = t.reports := by unfold Thread.ws; split <;> simp
@[simp] theorem Thread.ws_retrying (t : Thread) (r : Reg) (w : SWord) : (t.ws r w).retrying = t.retrying := by unfold Thread.ws; split <;> simp
@[simp] theorem Thread.ws_reissue (t : Thread) (r : Reg) (w : SWord) : (t.ws r w).reissue = t.reissue := by unfold Thread.ws; split <;> simp
@[simp] theorem Thread.ws_members (t : Thread) (r : Reg) (w : SWord) : (t.ws r w).members = t.members := by unfold Thread.ws; split <;> simp
@[simp] theorem Thread.ws_barAsk (t : Thread) (r : Reg) (w : SWord) : (t.ws r w).barAsk = t.barAsk := by unfold Thread.ws; split <;> simp
@[simp] theorem Thread.ws_fenceAll (t : Thread) (r : Reg) (w : SWord) : (t.ws r w).fenceAll = t.fenceAll := by unfold Thread.ws; split <;> simp
@[simp] theorem Thread.ws_fenceWr (t : Thread) (r : Reg) (w : SWord) : (t.ws r w).fenceWr = t.fenceWr := by unfold Thread.ws; split <;> simp
@[simp] theorem Thread.ws_seen (t : Thread) (r : Reg) (w : SWord) : (t.ws r w).seen = t.seen := by unfold Thread.ws; split <;> simp
@[simp] theorem Thread.ws_count (t : Thread) (r : Reg) (w : SWord) : (t.ws r w).count = t.count := by unfold Thread.ws; split <;> simp
@[simp] theorem Thread.ws_lastIssue (t : Thread) (r : Reg) (w : SWord) : (t.ws r w).lastIssue = t.lastIssue := by unfold Thread.ws; split <;> simp
@[simp] theorem Thread.ws_gap (t : Thread) (r : Reg) (w : SWord) : (t.ws r w).gap = t.gap := by unfold Thread.ws; split <;> simp
@[simp] theorem Thread.ws_fetchHold (t : Thread) (r : Reg) (w : SWord) : (t.ws r w).fetchHold = t.fetchHold := by unfold Thread.ws; split <;> simp
@[simp] theorem Thread.ws_fetchBad (t : Thread) (r : Reg) (w : SWord) : (t.ws r w).fetchBad = t.fetchBad := by unfold Thread.ws; split <;> simp
@[simp] theorem Thread.ws_fetchAgain (t : Thread) (r : Reg) (w : SWord) : (t.ws r w).fetchAgain = t.fetchAgain := by unfold Thread.ws; split <;> simp
@[simp] theorem Thread.ws_gone (t : Thread) (r : Reg) (w : SWord) : (t.ws r w).gone = t.gone := by unfold Thread.ws; split <;> simp
@[simp] theorem Thread.ws_fetchOps (t : Thread) (r : Reg) (w : SWord) : (t.ws r w).fetchOps = t.fetchOps := by unfold Thread.ws; split <;> simp
@[simp] theorem Thread.ws_fetchBuf (t : Thread) (r : Reg) (w : SWord) : (t.ws r w).fetchBuf = t.fetchBuf := by unfold Thread.ws; split <;> simp

/-! `Thread.setPending` -/

@[simp] theorem Thread.setPending_status (t : Thread) (r : Reg) : (t.setPending r).status = t.status := by unfold Thread.setPending; split <;> rfl
@[simp] theorem Thread.setPending_prior (t : Thread) (r : Reg) : (t.setPending r).prior = t.prior := by unfold Thread.setPending; split <;> rfl
@[simp] theorem Thread.setPending_before (t : Thread) (r : Reg) : (t.setPending r).before = t.before := by unfold Thread.setPending; split <;> rfl
@[simp] theorem Thread.setPending_launch (t : Thread) (r : Reg) : (t.setPending r).launch = t.launch := by unfold Thread.setPending; split <;> rfl
@[simp] theorem Thread.setPending_gidx (t : Thread) (r : Reg) : (t.setPending r).gidx = t.gidx := by unfold Thread.setPending; split <;> rfl
@[simp] theorem Thread.setPending_xn (t : Thread) (r : Reg) : (t.setPending r).xn = t.xn := by unfold Thread.setPending; split <;> rfl
@[simp] theorem Thread.setPending_vn (t : Thread) (r : Reg) : (t.setPending r).vn = t.vn := by unfold Thread.setPending; split <;> rfl
@[simp] theorem Thread.setPending_x (t : Thread) (r : Reg) : (t.setPending r).x = t.x := by unfold Thread.setPending; split <;> rfl
@[simp] theorem Thread.setPending_v (t : Thread) (r : Reg) : (t.setPending r).v = t.v := by unfold Thread.setPending; split <;> rfl
@[simp] theorem Thread.setPending_p (t : Thread) (r : Reg) : (t.setPending r).p = t.p := by unfold Thread.setPending; split <;> rfl
@[simp] theorem Thread.setPending_k (t : Thread) (r : Reg) : (t.setPending r).k = t.k := by unfold Thread.setPending; split <;> rfl
@[simp] theorem Thread.setPending_s (t : Thread) (r : Reg) : (t.setPending r).s = t.s := by unfold Thread.setPending; split <;> rfl
@[simp] theorem Thread.setPending_pc (t : Thread) (r : Reg) : (t.setPending r).pc = t.pc := by unfold Thread.setPending; split <;> rfl
@[simp] theorem Thread.setPending_fpflags (t : Thread) (r : Reg) : (t.setPending r).fpflags = t.fpflags := by unfold Thread.setPending; split <;> rfl
@[simp] theorem Thread.setPending_rndmode (t : Thread) (r : Reg) : (t.setPending r).rndmode = t.rndmode := by unfold Thread.setPending; split <;> rfl
@[simp] theorem Thread.setPending_srstate (t : Thread) (r : Reg) : (t.setPending r).srstate = t.srstate := by unfold Thread.setPending; split <;> rfl
@[simp] theorem Thread.setPending_stacklim (t : Thread) (r : Reg) : (t.setPending r).stacklim = t.stacklim := by unfold Thread.setPending; split <;> rfl
@[simp] theorem Thread.setPending_finfo (t : Thread) (r : Reg) : (t.setPending r).finfo = t.finfo := by unfold Thread.setPending; split <;> rfl
@[simp] theorem Thread.setPending_perf (t : Thread) (r : Reg) : (t.setPending r).perf = t.perf := by unfold Thread.setPending; split <;> rfl
@[simp] theorem Thread.setPending_cycle (t : Thread) (r : Reg) : (t.setPending r).cycle = t.cycle := by unfold Thread.setPending; split <;> rfl
@[simp] theorem Thread.setPending_budget (t : Thread) (r : Reg) : (t.setPending r).budget = t.budget := by unfold Thread.setPending; split <;> rfl
@[simp] theorem Thread.setPending_tagT (t : Thread) (r : Reg) : (t.setPending r).tagT = t.tagT := by unfold Thread.setPending; split <;> rfl
@[simp] theorem Thread.setPending_tagM (t : Thread) (r : Reg) : (t.setPending r).tagM = t.tagM := by unfold Thread.setPending; split <;> rfl
@[simp] theorem Thread.setPending_port (t : Thread) (r : Reg) : (t.setPending r).port = t.port := by unfold Thread.setPending; split <;> rfl
@[simp] theorem Thread.setPending_inHandler (t : Thread) (r : Reg) : (t.setPending r).inHandler = t.inHandler := by unfold Thread.setPending; split <;> rfl
@[simp] theorem Thread.setPending_baseT (t : Thread) (r : Reg) : (t.setPending r).baseT = t.baseT := by unfold Thread.setPending; split <;> rfl
@[simp] theorem Thread.setPending_baseM (t : Thread) (r : Reg) : (t.setPending r).baseM = t.baseM := by unfold Thread.setPending; split <;> rfl
@[simp] theorem Thread.setPending_baseOver (t : Thread) (r : Reg) : (t.setPending r).baseOver = t.baseOver := by unfold Thread.setPending; split <;> rfl
@[simp] theorem Thread.setPending_lastT (t : Thread) (r : Reg) : (t.setPending r).lastT = t.lastT := by unfold Thread.setPending; split <;> rfl
@[simp] theorem Thread.setPending_lastM (t : Thread) (r : Reg) : (t.setPending r).lastM = t.lastM := by unfold Thread.setPending; split <;> rfl
@[simp] theorem Thread.setPending_launched (t : Thread) (r : Reg) : (t.setPending r).launched = t.launched := by unfold Thread.setPending; split <;> rfl
@[simp] theorem Thread.setPending_postCtr (t : Thread) (r : Reg) : (t.setPending r).postCtr = t.postCtr := by unfold Thread.setPending; split <;> rfl
@[simp] theorem Thread.setPending_wait (t : Thread) (r : Reg) : (t.setPending r).wait = t.wait := by unfold Thread.setPending; split <;> rfl
@[simp] theorem Thread.setPending_raised (t : Thread) (r : Reg) : (t.setPending r).raised = t.raised := by unfold Thread.setPending; split <;> rfl
@[simp] theorem Thread.setPending_reports (t : Thread) (r : Reg) : (t.setPending r).reports = t.reports := by unfold Thread.setPending; split <;> rfl
@[simp] theorem Thread.setPending_retrying (t : Thread) (r : Reg) : (t.setPending r).retrying = t.retrying := by unfold Thread.setPending; split <;> rfl
@[simp] theorem Thread.setPending_reissue (t : Thread) (r : Reg) : (t.setPending r).reissue = t.reissue := by unfold Thread.setPending; split <;> rfl
@[simp] theorem Thread.setPending_members (t : Thread) (r : Reg) : (t.setPending r).members = t.members := by unfold Thread.setPending; split <;> rfl
@[simp] theorem Thread.setPending_barAsk (t : Thread) (r : Reg) : (t.setPending r).barAsk = t.barAsk := by unfold Thread.setPending; split <;> rfl
@[simp] theorem Thread.setPending_fenceAll (t : Thread) (r : Reg) : (t.setPending r).fenceAll = t.fenceAll := by unfold Thread.setPending; split <;> rfl
@[simp] theorem Thread.setPending_fenceWr (t : Thread) (r : Reg) : (t.setPending r).fenceWr = t.fenceWr := by unfold Thread.setPending; split <;> rfl
@[simp] theorem Thread.setPending_seen (t : Thread) (r : Reg) : (t.setPending r).seen = t.seen := by unfold Thread.setPending; split <;> rfl
@[simp] theorem Thread.setPending_count (t : Thread) (r : Reg) : (t.setPending r).count = t.count := by unfold Thread.setPending; split <;> rfl
@[simp] theorem Thread.setPending_lastIssue (t : Thread) (r : Reg) : (t.setPending r).lastIssue = t.lastIssue := by unfold Thread.setPending; split <;> rfl
@[simp] theorem Thread.setPending_gap (t : Thread) (r : Reg) : (t.setPending r).gap = t.gap := by unfold Thread.setPending; split <;> rfl
@[simp] theorem Thread.setPending_fetchHold (t : Thread) (r : Reg) : (t.setPending r).fetchHold = t.fetchHold := by unfold Thread.setPending; split <;> rfl
@[simp] theorem Thread.setPending_fetchBad (t : Thread) (r : Reg) : (t.setPending r).fetchBad = t.fetchBad := by unfold Thread.setPending; split <;> rfl
@[simp] theorem Thread.setPending_fetchAgain (t : Thread) (r : Reg) : (t.setPending r).fetchAgain = t.fetchAgain := by unfold Thread.setPending; split <;> rfl
@[simp] theorem Thread.setPending_gone (t : Thread) (r : Reg) : (t.setPending r).gone = t.gone := by unfold Thread.setPending; split <;> rfl
@[simp] theorem Thread.setPending_fetchOps (t : Thread) (r : Reg) : (t.setPending r).fetchOps = t.fetchOps := by unfold Thread.setPending; split <;> rfl
@[simp] theorem Thread.setPending_fetchBuf (t : Thread) (r : Reg) : (t.setPending r).fetchBuf = t.fetchBuf := by unfold Thread.setPending; split <;> rfl

/-! `Thread.orFlags` -/

@[simp] theorem Thread.orFlags_status (t : Thread) (n : Nat) : (t.orFlags n).status = t.status := rfl
@[simp] theorem Thread.orFlags_prior (t : Thread) (n : Nat) : (t.orFlags n).prior = t.prior := rfl
@[simp] theorem Thread.orFlags_before (t : Thread) (n : Nat) : (t.orFlags n).before = t.before := rfl
@[simp] theorem Thread.orFlags_launch (t : Thread) (n : Nat) : (t.orFlags n).launch = t.launch := rfl
@[simp] theorem Thread.orFlags_gidx (t : Thread) (n : Nat) : (t.orFlags n).gidx = t.gidx := rfl
@[simp] theorem Thread.orFlags_xn (t : Thread) (n : Nat) : (t.orFlags n).xn = t.xn := rfl
@[simp] theorem Thread.orFlags_vn (t : Thread) (n : Nat) : (t.orFlags n).vn = t.vn := rfl
@[simp] theorem Thread.orFlags_x (t : Thread) (n : Nat) : (t.orFlags n).x = t.x := rfl
@[simp] theorem Thread.orFlags_v (t : Thread) (n : Nat) : (t.orFlags n).v = t.v := rfl
@[simp] theorem Thread.orFlags_p (t : Thread) (n : Nat) : (t.orFlags n).p = t.p := rfl
@[simp] theorem Thread.orFlags_k (t : Thread) (n : Nat) : (t.orFlags n).k = t.k := rfl
@[simp] theorem Thread.orFlags_s (t : Thread) (n : Nat) : (t.orFlags n).s = t.s := rfl
@[simp] theorem Thread.orFlags_pend (t : Thread) (n : Nat) : (t.orFlags n).pend = t.pend := rfl
@[simp] theorem Thread.orFlags_pc (t : Thread) (n : Nat) : (t.orFlags n).pc = t.pc := rfl
@[simp] theorem Thread.orFlags_rndmode (t : Thread) (n : Nat) : (t.orFlags n).rndmode = t.rndmode := rfl
@[simp] theorem Thread.orFlags_srstate (t : Thread) (n : Nat) : (t.orFlags n).srstate = t.srstate := rfl
@[simp] theorem Thread.orFlags_stacklim (t : Thread) (n : Nat) : (t.orFlags n).stacklim = t.stacklim := rfl
@[simp] theorem Thread.orFlags_finfo (t : Thread) (n : Nat) : (t.orFlags n).finfo = t.finfo := rfl
@[simp] theorem Thread.orFlags_perf (t : Thread) (n : Nat) : (t.orFlags n).perf = t.perf := rfl
@[simp] theorem Thread.orFlags_cycle (t : Thread) (n : Nat) : (t.orFlags n).cycle = t.cycle := rfl
@[simp] theorem Thread.orFlags_budget (t : Thread) (n : Nat) : (t.orFlags n).budget = t.budget := rfl
@[simp] theorem Thread.orFlags_tagT (t : Thread) (n : Nat) : (t.orFlags n).tagT = t.tagT := rfl
@[simp] theorem Thread.orFlags_tagM (t : Thread) (n : Nat) : (t.orFlags n).tagM = t.tagM := rfl
@[simp] theorem Thread.orFlags_port (t : Thread) (n : Nat) : (t.orFlags n).port = t.port := rfl
@[simp] theorem Thread.orFlags_inHandler (t : Thread) (n : Nat) : (t.orFlags n).inHandler = t.inHandler := rfl
@[simp] theorem Thread.orFlags_baseT (t : Thread) (n : Nat) : (t.orFlags n).baseT = t.baseT := rfl
@[simp] theorem Thread.orFlags_baseM (t : Thread) (n : Nat) : (t.orFlags n).baseM = t.baseM := rfl
@[simp] theorem Thread.orFlags_baseOver (t : Thread) (n : Nat) : (t.orFlags n).baseOver = t.baseOver := rfl
@[simp] theorem Thread.orFlags_lastT (t : Thread) (n : Nat) : (t.orFlags n).lastT = t.lastT := rfl
@[simp] theorem Thread.orFlags_lastM (t : Thread) (n : Nat) : (t.orFlags n).lastM = t.lastM := rfl
@[simp] theorem Thread.orFlags_launched (t : Thread) (n : Nat) : (t.orFlags n).launched = t.launched := rfl
@[simp] theorem Thread.orFlags_postCtr (t : Thread) (n : Nat) : (t.orFlags n).postCtr = t.postCtr := rfl
@[simp] theorem Thread.orFlags_wait (t : Thread) (n : Nat) : (t.orFlags n).wait = t.wait := rfl
@[simp] theorem Thread.orFlags_raised (t : Thread) (n : Nat) : (t.orFlags n).raised = t.raised := rfl
@[simp] theorem Thread.orFlags_reports (t : Thread) (n : Nat) : (t.orFlags n).reports = t.reports := rfl
@[simp] theorem Thread.orFlags_retrying (t : Thread) (n : Nat) : (t.orFlags n).retrying = t.retrying := rfl
@[simp] theorem Thread.orFlags_reissue (t : Thread) (n : Nat) : (t.orFlags n).reissue = t.reissue := rfl
@[simp] theorem Thread.orFlags_members (t : Thread) (n : Nat) : (t.orFlags n).members = t.members := rfl
@[simp] theorem Thread.orFlags_barAsk (t : Thread) (n : Nat) : (t.orFlags n).barAsk = t.barAsk := rfl
@[simp] theorem Thread.orFlags_fenceAll (t : Thread) (n : Nat) : (t.orFlags n).fenceAll = t.fenceAll := rfl
@[simp] theorem Thread.orFlags_fenceWr (t : Thread) (n : Nat) : (t.orFlags n).fenceWr = t.fenceWr := rfl
@[simp] theorem Thread.orFlags_seen (t : Thread) (n : Nat) : (t.orFlags n).seen = t.seen := rfl
@[simp] theorem Thread.orFlags_count (t : Thread) (n : Nat) : (t.orFlags n).count = t.count := rfl
@[simp] theorem Thread.orFlags_lastIssue (t : Thread) (n : Nat) : (t.orFlags n).lastIssue = t.lastIssue := rfl
@[simp] theorem Thread.orFlags_gap (t : Thread) (n : Nat) : (t.orFlags n).gap = t.gap := rfl
@[simp] theorem Thread.orFlags_fetchHold (t : Thread) (n : Nat) : (t.orFlags n).fetchHold = t.fetchHold := rfl
@[simp] theorem Thread.orFlags_fetchBad (t : Thread) (n : Nat) : (t.orFlags n).fetchBad = t.fetchBad := rfl
@[simp] theorem Thread.orFlags_fetchAgain (t : Thread) (n : Nat) : (t.orFlags n).fetchAgain = t.fetchAgain := rfl
@[simp] theorem Thread.orFlags_gone (t : Thread) (n : Nat) : (t.orFlags n).gone = t.gone := rfl
@[simp] theorem Thread.orFlags_fetchOps (t : Thread) (n : Nat) : (t.orFlags n).fetchOps = t.fetchOps := rfl
@[simp] theorem Thread.orFlags_fetchBuf (t : Thread) (n : Nat) : (t.orFlags n).fetchBuf = t.fetchBuf := rfl

/-! `Thread.setGen` -/

@[simp] theorem Thread.setGen_status (t : Thread) (g : BitVec 32) : (t.setGen g).status = t.status := rfl
@[simp] theorem Thread.setGen_prior (t : Thread) (g : BitVec 32) : (t.setGen g).prior = t.prior := rfl
@[simp] theorem Thread.setGen_before (t : Thread) (g : BitVec 32) : (t.setGen g).before = t.before := rfl
@[simp] theorem Thread.setGen_launch (t : Thread) (g : BitVec 32) : (t.setGen g).launch = t.launch := rfl
@[simp] theorem Thread.setGen_gidx (t : Thread) (g : BitVec 32) : (t.setGen g).gidx = t.gidx := rfl
@[simp] theorem Thread.setGen_xn (t : Thread) (g : BitVec 32) : (t.setGen g).xn = t.xn := rfl
@[simp] theorem Thread.setGen_vn (t : Thread) (g : BitVec 32) : (t.setGen g).vn = t.vn := rfl
@[simp] theorem Thread.setGen_x (t : Thread) (g : BitVec 32) : (t.setGen g).x = t.x := rfl
@[simp] theorem Thread.setGen_v (t : Thread) (g : BitVec 32) : (t.setGen g).v = t.v := rfl
@[simp] theorem Thread.setGen_p (t : Thread) (g : BitVec 32) : (t.setGen g).p = t.p := rfl
@[simp] theorem Thread.setGen_k (t : Thread) (g : BitVec 32) : (t.setGen g).k = t.k := rfl
@[simp] theorem Thread.setGen_s (t : Thread) (g : BitVec 32) : (t.setGen g).s = t.s := rfl
@[simp] theorem Thread.setGen_pend (t : Thread) (g : BitVec 32) : (t.setGen g).pend = t.pend := rfl
@[simp] theorem Thread.setGen_pc (t : Thread) (g : BitVec 32) : (t.setGen g).pc = t.pc := rfl
@[simp] theorem Thread.setGen_fpflags (t : Thread) (g : BitVec 32) : (t.setGen g).fpflags = t.fpflags := rfl
@[simp] theorem Thread.setGen_rndmode (t : Thread) (g : BitVec 32) : (t.setGen g).rndmode = t.rndmode := rfl
@[simp] theorem Thread.setGen_stacklim (t : Thread) (g : BitVec 32) : (t.setGen g).stacklim = t.stacklim := rfl
@[simp] theorem Thread.setGen_finfo (t : Thread) (g : BitVec 32) : (t.setGen g).finfo = t.finfo := rfl
@[simp] theorem Thread.setGen_perf (t : Thread) (g : BitVec 32) : (t.setGen g).perf = t.perf := rfl
@[simp] theorem Thread.setGen_cycle (t : Thread) (g : BitVec 32) : (t.setGen g).cycle = t.cycle := rfl
@[simp] theorem Thread.setGen_budget (t : Thread) (g : BitVec 32) : (t.setGen g).budget = t.budget := rfl
@[simp] theorem Thread.setGen_tagT (t : Thread) (g : BitVec 32) : (t.setGen g).tagT = t.tagT := rfl
@[simp] theorem Thread.setGen_tagM (t : Thread) (g : BitVec 32) : (t.setGen g).tagM = t.tagM := rfl
@[simp] theorem Thread.setGen_port (t : Thread) (g : BitVec 32) : (t.setGen g).port = t.port := rfl
@[simp] theorem Thread.setGen_inHandler (t : Thread) (g : BitVec 32) : (t.setGen g).inHandler = t.inHandler := rfl
@[simp] theorem Thread.setGen_baseT (t : Thread) (g : BitVec 32) : (t.setGen g).baseT = t.baseT := rfl
@[simp] theorem Thread.setGen_baseM (t : Thread) (g : BitVec 32) : (t.setGen g).baseM = t.baseM := rfl
@[simp] theorem Thread.setGen_baseOver (t : Thread) (g : BitVec 32) : (t.setGen g).baseOver = t.baseOver := rfl
@[simp] theorem Thread.setGen_lastT (t : Thread) (g : BitVec 32) : (t.setGen g).lastT = t.lastT := rfl
@[simp] theorem Thread.setGen_lastM (t : Thread) (g : BitVec 32) : (t.setGen g).lastM = t.lastM := rfl
@[simp] theorem Thread.setGen_launched (t : Thread) (g : BitVec 32) : (t.setGen g).launched = t.launched := rfl
@[simp] theorem Thread.setGen_postCtr (t : Thread) (g : BitVec 32) : (t.setGen g).postCtr = t.postCtr := rfl
@[simp] theorem Thread.setGen_wait (t : Thread) (g : BitVec 32) : (t.setGen g).wait = t.wait := rfl
@[simp] theorem Thread.setGen_raised (t : Thread) (g : BitVec 32) : (t.setGen g).raised = t.raised := rfl
@[simp] theorem Thread.setGen_reports (t : Thread) (g : BitVec 32) : (t.setGen g).reports = t.reports := rfl
@[simp] theorem Thread.setGen_retrying (t : Thread) (g : BitVec 32) : (t.setGen g).retrying = t.retrying := rfl
@[simp] theorem Thread.setGen_reissue (t : Thread) (g : BitVec 32) : (t.setGen g).reissue = t.reissue := rfl
@[simp] theorem Thread.setGen_members (t : Thread) (g : BitVec 32) : (t.setGen g).members = t.members := rfl
@[simp] theorem Thread.setGen_barAsk (t : Thread) (g : BitVec 32) : (t.setGen g).barAsk = t.barAsk := rfl
@[simp] theorem Thread.setGen_fenceAll (t : Thread) (g : BitVec 32) : (t.setGen g).fenceAll = t.fenceAll := rfl
@[simp] theorem Thread.setGen_fenceWr (t : Thread) (g : BitVec 32) : (t.setGen g).fenceWr = t.fenceWr := rfl
@[simp] theorem Thread.setGen_seen (t : Thread) (g : BitVec 32) : (t.setGen g).seen = t.seen := rfl
@[simp] theorem Thread.setGen_count (t : Thread) (g : BitVec 32) : (t.setGen g).count = t.count := rfl
@[simp] theorem Thread.setGen_lastIssue (t : Thread) (g : BitVec 32) : (t.setGen g).lastIssue = t.lastIssue := rfl
@[simp] theorem Thread.setGen_gap (t : Thread) (g : BitVec 32) : (t.setGen g).gap = t.gap := rfl
@[simp] theorem Thread.setGen_fetchHold (t : Thread) (g : BitVec 32) : (t.setGen g).fetchHold = t.fetchHold := rfl
@[simp] theorem Thread.setGen_fetchBad (t : Thread) (g : BitVec 32) : (t.setGen g).fetchBad = t.fetchBad := rfl
@[simp] theorem Thread.setGen_fetchAgain (t : Thread) (g : BitVec 32) : (t.setGen g).fetchAgain = t.fetchAgain := rfl
@[simp] theorem Thread.setGen_gone (t : Thread) (g : BitVec 32) : (t.setGen g).gone = t.gone := rfl
@[simp] theorem Thread.setGen_fetchOps (t : Thread) (g : BitVec 32) : (t.setGen g).fetchOps = t.fetchOps := rfl
@[simp] theorem Thread.setGen_fetchBuf (t : Thread) (g : BitVec 32) : (t.setGen g).fetchBuf = t.fetchBuf := rfl

/-! `Thread.withPend` -/

@[simp] theorem Thread.withPend_status (t : Thread) (q : BitVec 256) : (t.withPend q).status = t.status := rfl
@[simp] theorem Thread.withPend_prior (t : Thread) (q : BitVec 256) : (t.withPend q).prior = t.prior := rfl
@[simp] theorem Thread.withPend_before (t : Thread) (q : BitVec 256) : (t.withPend q).before = t.before := rfl
@[simp] theorem Thread.withPend_launch (t : Thread) (q : BitVec 256) : (t.withPend q).launch = t.launch := rfl
@[simp] theorem Thread.withPend_gidx (t : Thread) (q : BitVec 256) : (t.withPend q).gidx = t.gidx := rfl
@[simp] theorem Thread.withPend_xn (t : Thread) (q : BitVec 256) : (t.withPend q).xn = t.xn := rfl
@[simp] theorem Thread.withPend_vn (t : Thread) (q : BitVec 256) : (t.withPend q).vn = t.vn := rfl
@[simp] theorem Thread.withPend_x (t : Thread) (q : BitVec 256) : (t.withPend q).x = t.x := rfl
@[simp] theorem Thread.withPend_v (t : Thread) (q : BitVec 256) : (t.withPend q).v = t.v := rfl
@[simp] theorem Thread.withPend_p (t : Thread) (q : BitVec 256) : (t.withPend q).p = t.p := rfl
@[simp] theorem Thread.withPend_k (t : Thread) (q : BitVec 256) : (t.withPend q).k = t.k := rfl
@[simp] theorem Thread.withPend_s (t : Thread) (q : BitVec 256) : (t.withPend q).s = t.s := rfl
@[simp] theorem Thread.withPend_pc (t : Thread) (q : BitVec 256) : (t.withPend q).pc = t.pc := rfl
@[simp] theorem Thread.withPend_fpflags (t : Thread) (q : BitVec 256) : (t.withPend q).fpflags = t.fpflags := rfl
@[simp] theorem Thread.withPend_rndmode (t : Thread) (q : BitVec 256) : (t.withPend q).rndmode = t.rndmode := rfl
@[simp] theorem Thread.withPend_srstate (t : Thread) (q : BitVec 256) : (t.withPend q).srstate = t.srstate := rfl
@[simp] theorem Thread.withPend_stacklim (t : Thread) (q : BitVec 256) : (t.withPend q).stacklim = t.stacklim := rfl
@[simp] theorem Thread.withPend_finfo (t : Thread) (q : BitVec 256) : (t.withPend q).finfo = t.finfo := rfl
@[simp] theorem Thread.withPend_perf (t : Thread) (q : BitVec 256) : (t.withPend q).perf = t.perf := rfl
@[simp] theorem Thread.withPend_cycle (t : Thread) (q : BitVec 256) : (t.withPend q).cycle = t.cycle := rfl
@[simp] theorem Thread.withPend_budget (t : Thread) (q : BitVec 256) : (t.withPend q).budget = t.budget := rfl
@[simp] theorem Thread.withPend_tagT (t : Thread) (q : BitVec 256) : (t.withPend q).tagT = t.tagT := rfl
@[simp] theorem Thread.withPend_tagM (t : Thread) (q : BitVec 256) : (t.withPend q).tagM = t.tagM := rfl
@[simp] theorem Thread.withPend_port (t : Thread) (q : BitVec 256) : (t.withPend q).port = t.port := rfl
@[simp] theorem Thread.withPend_inHandler (t : Thread) (q : BitVec 256) : (t.withPend q).inHandler = t.inHandler := rfl
@[simp] theorem Thread.withPend_baseT (t : Thread) (q : BitVec 256) : (t.withPend q).baseT = t.baseT := rfl
@[simp] theorem Thread.withPend_baseM (t : Thread) (q : BitVec 256) : (t.withPend q).baseM = t.baseM := rfl
@[simp] theorem Thread.withPend_baseOver (t : Thread) (q : BitVec 256) : (t.withPend q).baseOver = t.baseOver := rfl
@[simp] theorem Thread.withPend_lastT (t : Thread) (q : BitVec 256) : (t.withPend q).lastT = t.lastT := rfl
@[simp] theorem Thread.withPend_lastM (t : Thread) (q : BitVec 256) : (t.withPend q).lastM = t.lastM := rfl
@[simp] theorem Thread.withPend_launched (t : Thread) (q : BitVec 256) : (t.withPend q).launched = t.launched := rfl
@[simp] theorem Thread.withPend_postCtr (t : Thread) (q : BitVec 256) : (t.withPend q).postCtr = t.postCtr := rfl
@[simp] theorem Thread.withPend_wait (t : Thread) (q : BitVec 256) : (t.withPend q).wait = t.wait := rfl
@[simp] theorem Thread.withPend_raised (t : Thread) (q : BitVec 256) : (t.withPend q).raised = t.raised := rfl
@[simp] theorem Thread.withPend_reports (t : Thread) (q : BitVec 256) : (t.withPend q).reports = t.reports := rfl
@[simp] theorem Thread.withPend_retrying (t : Thread) (q : BitVec 256) : (t.withPend q).retrying = t.retrying := rfl
@[simp] theorem Thread.withPend_reissue (t : Thread) (q : BitVec 256) : (t.withPend q).reissue = t.reissue := rfl
@[simp] theorem Thread.withPend_members (t : Thread) (q : BitVec 256) : (t.withPend q).members = t.members := rfl
@[simp] theorem Thread.withPend_barAsk (t : Thread) (q : BitVec 256) : (t.withPend q).barAsk = t.barAsk := rfl
@[simp] theorem Thread.withPend_fenceAll (t : Thread) (q : BitVec 256) : (t.withPend q).fenceAll = t.fenceAll := rfl
@[simp] theorem Thread.withPend_fenceWr (t : Thread) (q : BitVec 256) : (t.withPend q).fenceWr = t.fenceWr := rfl
@[simp] theorem Thread.withPend_seen (t : Thread) (q : BitVec 256) : (t.withPend q).seen = t.seen := rfl
@[simp] theorem Thread.withPend_count (t : Thread) (q : BitVec 256) : (t.withPend q).count = t.count := rfl
@[simp] theorem Thread.withPend_lastIssue (t : Thread) (q : BitVec 256) : (t.withPend q).lastIssue = t.lastIssue := rfl
@[simp] theorem Thread.withPend_gap (t : Thread) (q : BitVec 256) : (t.withPend q).gap = t.gap := rfl
@[simp] theorem Thread.withPend_fetchHold (t : Thread) (q : BitVec 256) : (t.withPend q).fetchHold = t.fetchHold := rfl
@[simp] theorem Thread.withPend_fetchBad (t : Thread) (q : BitVec 256) : (t.withPend q).fetchBad = t.fetchBad := rfl
@[simp] theorem Thread.withPend_fetchAgain (t : Thread) (q : BitVec 256) : (t.withPend q).fetchAgain = t.fetchAgain := rfl
@[simp] theorem Thread.withPend_gone (t : Thread) (q : BitVec 256) : (t.withPend q).gone = t.gone := rfl
@[simp] theorem Thread.withPend_fetchOps (t : Thread) (q : BitVec 256) : (t.withPend q).fetchOps = t.fetchOps := rfl
@[simp] theorem Thread.withPend_fetchBuf (t : Thread) (q : BitVec 256) : (t.withPend q).fetchBuf = t.fetchBuf := rfl

/-! `Thread.issued` -/

@[simp] theorem Thread.issued_status (c : Nat) (pc : Word) (t : Thread) : (Thread.issued c pc t).status = t.status := rfl
@[simp] theorem Thread.issued_prior (c : Nat) (pc : Word) (t : Thread) : (Thread.issued c pc t).prior = t.prior := rfl
@[simp] theorem Thread.issued_before (c : Nat) (pc : Word) (t : Thread) : (Thread.issued c pc t).before = t.before := rfl
@[simp] theorem Thread.issued_launch (c : Nat) (pc : Word) (t : Thread) : (Thread.issued c pc t).launch = t.launch := rfl
@[simp] theorem Thread.issued_gidx (c : Nat) (pc : Word) (t : Thread) : (Thread.issued c pc t).gidx = t.gidx := rfl
@[simp] theorem Thread.issued_xn (c : Nat) (pc : Word) (t : Thread) : (Thread.issued c pc t).xn = t.xn := rfl
@[simp] theorem Thread.issued_vn (c : Nat) (pc : Word) (t : Thread) : (Thread.issued c pc t).vn = t.vn := rfl
@[simp] theorem Thread.issued_x (c : Nat) (pc : Word) (t : Thread) : (Thread.issued c pc t).x = t.x := rfl
@[simp] theorem Thread.issued_v (c : Nat) (pc : Word) (t : Thread) : (Thread.issued c pc t).v = t.v := rfl
@[simp] theorem Thread.issued_p (c : Nat) (pc : Word) (t : Thread) : (Thread.issued c pc t).p = t.p := rfl
@[simp] theorem Thread.issued_k (c : Nat) (pc : Word) (t : Thread) : (Thread.issued c pc t).k = t.k := rfl
@[simp] theorem Thread.issued_s (c : Nat) (pc : Word) (t : Thread) : (Thread.issued c pc t).s = t.s := rfl
@[simp] theorem Thread.issued_pend (c : Nat) (pc : Word) (t : Thread) : (Thread.issued c pc t).pend = t.pend := rfl
@[simp] theorem Thread.issued_fpflags (c : Nat) (pc : Word) (t : Thread) : (Thread.issued c pc t).fpflags = t.fpflags := rfl
@[simp] theorem Thread.issued_rndmode (c : Nat) (pc : Word) (t : Thread) : (Thread.issued c pc t).rndmode = t.rndmode := rfl
@[simp] theorem Thread.issued_srstate (c : Nat) (pc : Word) (t : Thread) : (Thread.issued c pc t).srstate = t.srstate := rfl
@[simp] theorem Thread.issued_stacklim (c : Nat) (pc : Word) (t : Thread) : (Thread.issued c pc t).stacklim = t.stacklim := rfl
@[simp] theorem Thread.issued_finfo (c : Nat) (pc : Word) (t : Thread) : (Thread.issued c pc t).finfo = t.finfo := rfl
@[simp] theorem Thread.issued_cycle (c : Nat) (pc : Word) (t : Thread) : (Thread.issued c pc t).cycle = t.cycle := rfl
@[simp] theorem Thread.issued_budget (c : Nat) (pc : Word) (t : Thread) : (Thread.issued c pc t).budget = t.budget := rfl
@[simp] theorem Thread.issued_tagT (c : Nat) (pc : Word) (t : Thread) : (Thread.issued c pc t).tagT = t.tagT := rfl
@[simp] theorem Thread.issued_tagM (c : Nat) (pc : Word) (t : Thread) : (Thread.issued c pc t).tagM = t.tagM := rfl
@[simp] theorem Thread.issued_port (c : Nat) (pc : Word) (t : Thread) : (Thread.issued c pc t).port = t.port := rfl
@[simp] theorem Thread.issued_inHandler (c : Nat) (pc : Word) (t : Thread) : (Thread.issued c pc t).inHandler = t.inHandler := rfl
@[simp] theorem Thread.issued_baseT (c : Nat) (pc : Word) (t : Thread) : (Thread.issued c pc t).baseT = t.baseT := rfl
@[simp] theorem Thread.issued_baseM (c : Nat) (pc : Word) (t : Thread) : (Thread.issued c pc t).baseM = t.baseM := rfl
@[simp] theorem Thread.issued_baseOver (c : Nat) (pc : Word) (t : Thread) : (Thread.issued c pc t).baseOver = t.baseOver := rfl
@[simp] theorem Thread.issued_lastT (c : Nat) (pc : Word) (t : Thread) : (Thread.issued c pc t).lastT = t.lastT := rfl
@[simp] theorem Thread.issued_lastM (c : Nat) (pc : Word) (t : Thread) : (Thread.issued c pc t).lastM = t.lastM := rfl
@[simp] theorem Thread.issued_launched (c : Nat) (pc : Word) (t : Thread) : (Thread.issued c pc t).launched = t.launched := rfl
@[simp] theorem Thread.issued_postCtr (c : Nat) (pc : Word) (t : Thread) : (Thread.issued c pc t).postCtr = t.postCtr := rfl
@[simp] theorem Thread.issued_raised (c : Nat) (pc : Word) (t : Thread) : (Thread.issued c pc t).raised = t.raised := rfl
@[simp] theorem Thread.issued_reports (c : Nat) (pc : Word) (t : Thread) : (Thread.issued c pc t).reports = t.reports := rfl
@[simp] theorem Thread.issued_retrying (c : Nat) (pc : Word) (t : Thread) : (Thread.issued c pc t).retrying = t.retrying := rfl
@[simp] theorem Thread.issued_reissue (c : Nat) (pc : Word) (t : Thread) : (Thread.issued c pc t).reissue = t.reissue := rfl
@[simp] theorem Thread.issued_members (c : Nat) (pc : Word) (t : Thread) : (Thread.issued c pc t).members = t.members := rfl
@[simp] theorem Thread.issued_barAsk (c : Nat) (pc : Word) (t : Thread) : (Thread.issued c pc t).barAsk = t.barAsk := rfl
@[simp] theorem Thread.issued_fenceAll (c : Nat) (pc : Word) (t : Thread) : (Thread.issued c pc t).fenceAll = t.fenceAll := rfl
@[simp] theorem Thread.issued_fenceWr (c : Nat) (pc : Word) (t : Thread) : (Thread.issued c pc t).fenceWr = t.fenceWr := rfl
@[simp] theorem Thread.issued_seen (c : Nat) (pc : Word) (t : Thread) : (Thread.issued c pc t).seen = t.seen := rfl
@[simp] theorem Thread.issued_gap (c : Nat) (pc : Word) (t : Thread) : (Thread.issued c pc t).gap = t.gap := rfl
@[simp] theorem Thread.issued_fetchHold (c : Nat) (pc : Word) (t : Thread) : (Thread.issued c pc t).fetchHold = t.fetchHold := rfl
@[simp] theorem Thread.issued_fetchBad (c : Nat) (pc : Word) (t : Thread) : (Thread.issued c pc t).fetchBad = t.fetchBad := rfl
@[simp] theorem Thread.issued_fetchAgain (c : Nat) (pc : Word) (t : Thread) : (Thread.issued c pc t).fetchAgain = t.fetchAgain := rfl
@[simp] theorem Thread.issued_gone (c : Nat) (pc : Word) (t : Thread) : (Thread.issued c pc t).gone = t.gone := rfl
@[simp] theorem Thread.issued_fetchOps (c : Nat) (pc : Word) (t : Thread) : (Thread.issued c pc t).fetchOps = t.fetchOps := rfl
@[simp] theorem Thread.issued_fetchBuf (c : Nat) (pc : Word) (t : Thread) : (Thread.issued c pc t).fetchBuf = t.fetchBuf := rfl
@[simp] theorem Thread.issued_pc (c : Nat) (pc : Word) (t : Thread) : (Thread.issued c pc t).pc = pc := rfl
@[simp] theorem Thread.issued_wait (c : Nat) (pc : Word) (t : Thread) : (Thread.issued c pc t).wait = none := rfl

end Sys2Proof.Machine
end

