-- ==== Sys2Proof/Laws/Registers.lean ====
section
/-! SUPPORT. Reading a register back after a write (R70): the hard-wired registers, the one written, the others. -/

namespace Sys2Proof.Machine

variable (t : Thread)

@[simp] theorem Thread.getX_zero : t.getX 0#7 = 0 := rfl
@[simp] theorem Thread.getP_zero : t.getP 0#3 = true := by simp [Thread.getP]
@[simp] theorem Thread.getK_zero : t.getK 0#3 = 0xFFFF := rfl

theorem Thread.getX_setX (n m : BitVec 7) (w : Word) :
    (t.setX n w).getX m = if m = n ∧ n ≠ 0 then w else t.getX m := by
  unfold Thread.setX Thread.getX
  by_cases hm : m = 0 <;> by_cases hn : n = 0 <;> by_cases h : m = n <;>
    simp_all [lookAt_putAt, BitVec.toNat_inj]
theorem Thread.getV_setV (n m : BitVec 6) (w : VWord) : (t.setV n w).getV m = if m = n then w else t.getV m := by
  simp [Thread.setV, Thread.getV, lookAt_putAt, BitVec.toNat_inj]
theorem Thread.getK_setK (n m : BitVec 3) (w : BitVec 16) :
    (t.setK n w).getK m = if m = n ∧ n ≠ 0 then w else t.getK m := by
  unfold Thread.setK Thread.getK
  by_cases hm : m = 0 <;> by_cases hn : n = 0 <;> by_cases h : m = n <;>
    simp_all [lookAt_putAt, BitVec.toNat_inj]
theorem Thread.getS_setS (n m : BitVec 3) (w : SWord) : (t.setS n w).getS m = if m = n then w else t.getS m := by
  simp [Thread.setS, Thread.getS, lookAt_putAt, BitVec.toNat_inj]
/-- A bit put into a byte. -/
theorem getLsbD_putBit (n m : BitVec 3) (b : Bool) (p : BitVec 8) :
    ((p &&& ~~~(1#8 <<< n.toNat)) ||| (if b then 1#8 <<< n.toNat else 0#8)).getLsbD m.toNat =
      if m = n then b else p.getLsbD m.toNat := by
  revert n m b p
  decide +kernel

theorem Thread.getP_setP (n m : BitVec 3) (b : Bool) :
    (t.setP n b).getP m = if m = n ∧ n ≠ 0 then b else t.getP m := by
  unfold Thread.setP Thread.getP
  by_cases hn : n = 0
  · simp [hn]
  · simp only [hn, if_false, getLsbD_putBit]
    by_cases h : m = n <;> simp_all

/-- The registers of the other files. -/
theorem Thread.getX_congr {t u : Thread} (h : t.x = u.x) (m : BitVec 7) : t.getX m = u.getX m := by simp [Thread.getX, h]
theorem Thread.getV_congr {t u : Thread} (h : t.v = u.v) (m : BitVec 6) : t.getV m = u.getV m := by simp [Thread.getV, h]
theorem Thread.getP_congr {t u : Thread} (h : t.p = u.p) (m : BitVec 3) : t.getP m = u.getP m := by simp [Thread.getP, h]
theorem Thread.getK_congr {t u : Thread} (h : t.k = u.k) (m : BitVec 3) : t.getK m = u.getK m := by simp [Thread.getK, h]
theorem Thread.getS_congr {t u : Thread} (h : t.s = u.s) (m : BitVec 3) : t.getS m = u.getS m := by simp [Thread.getS, h]

@[simp] theorem Thread.getX_withPend (q : BitVec 256) (m : BitVec 7) : (t.withPend q).getX m = t.getX m := rfl
@[simp] theorem Thread.getV_withPend (q : BitVec 256) (m : BitVec 6) : (t.withPend q).getV m = t.getV m := rfl
@[simp] theorem Thread.getP_withPend (q : BitVec 256) (m : BitVec 3) : (t.withPend q).getP m = t.getP m := rfl
@[simp] theorem Thread.getK_withPend (q : BitVec 256) (m : BitVec 3) : (t.withPend q).getK m = t.getK m := rfl
@[simp] theorem Thread.getS_withPend (q : BitVec 256) (m : BitVec 3) : (t.withPend q).getS m = t.getS m := rfl
@[simp] theorem Thread.xr_withPend (q : BitVec 256) (r : Reg) : (t.withPend q).xr r = t.xr r := rfl
@[simp] theorem Thread.vr_withPend (q : BitVec 256) (r : Reg) : (t.withPend q).vr r = t.vr r := rfl
@[simp] theorem Thread.pr_withPend (q : BitVec 256) (r : Reg) : (t.withPend q).pr r = t.pr r := rfl
@[simp] theorem Thread.kr_withPend (q : BitVec 256) (r : Reg) : (t.withPend q).kr r = t.kr r := rfl
@[simp] theorem Thread.sr_withPend (q : BitVec 256) (r : Reg) : (t.withPend q).sr r = t.sr r := rfl
@[simp] theorem Thread.getX_issued (c : Nat) (pc : Word) (m : BitVec 7) : (Thread.issued c pc t).getX m = t.getX m := rfl
@[simp] theorem Thread.getV_issued (c : Nat) (pc : Word) (m : BitVec 6) : (Thread.issued c pc t).getV m = t.getV m := rfl
@[simp] theorem Thread.getP_issued (c : Nat) (pc : Word) (m : BitVec 3) : (Thread.issued c pc t).getP m = t.getP m := rfl
@[simp] theorem Thread.getK_issued (c : Nat) (pc : Word) (m : BitVec 3) : (Thread.issued c pc t).getK m = t.getK m := rfl
@[simp] theorem Thread.getS_issued (c : Nat) (pc : Word) (m : BitVec 3) : (Thread.issued c pc t).getS m = t.getS m := rfl

end Sys2Proof.Machine
end

