-- ==== Sys2Proof/Laws/State.lean ====
section
/-! SUPPORT. What each update of the package leaves of the other fields of State: one lemma per field per update. -/

namespace Sys2Proof.Machine

/-! `State.setThread` -/

@[simp] theorem State.setThread_cores (s : State) (t : Nat) (a : Thread) : (s.setThread t a).cores = s.cores := rfl
@[simp] theorem State.setThread_tiles (s : State) (t : Nat) (a : Thread) : (s.setThread t a).tiles = s.tiles := rfl
@[simp] theorem State.setThread_accs (s : State) (t : Nat) (a : Thread) : (s.setThread t a).accs = s.accs := rfl
@[simp] theorem State.setThread_dram (s : State) (t : Nat) (a : Thread) : (s.setThread t a).dram = s.dram := rfl
@[simp] theorem State.setThread_hostMem (s : State) (t : Nat) (a : Thread) : (s.setThread t a).hostMem = s.hostMem := rfl
@[simp] theorem State.setThread_stations (s : State) (t : Nat) (a : Thread) : (s.setThread t a).stations = s.stations := rfl
@[simp] theorem State.setThread_channels (s : State) (t : Nat) (a : Thread) : (s.setThread t a).channels = s.channels := rfl
@[simp] theorem State.setThread_invals (s : State) (t : Nat) (a : Thread) : (s.setThread t a).invals = s.invals := rfl
@[simp] theorem State.setThread_cues (s : State) (t : Nat) (a : Thread) : (s.setThread t a).cues = s.cues := rfl
@[simp] theorem State.setThread_ctxs (s : State) (t : Nat) (a : Thread) : (s.setThread t a).ctxs = s.ctxs := rfl
@[simp] theorem State.setThread_queues (s : State) (t : Nat) (a : Thread) : (s.setThread t a).queues = s.queues := rfl
@[simp] theorem State.setThread_launches (s : State) (t : Nat) (a : Thread) : (s.setThread t a).launches = s.launches := rfl
@[simp] theorem State.setThread_casts (s : State) (t : Nat) (a : Thread) : (s.setThread t a).casts = s.casts := rfl
@[simp] theorem State.setThread_chainMsgs (s : State) (t : Nat) (a : Thread) : (s.setThread t a).chainMsgs = s.chainMsgs := rfl
@[simp] theorem State.setThread_strips (s : State) (t : Nat) (a : Thread) : (s.setThread t a).strips = s.strips := rfl
@[simp] theorem State.setThread_barMsgs (s : State) (t : Nat) (a : Thread) : (s.setThread t a).barMsgs = s.barMsgs := rfl
@[simp] theorem State.setThread_ports (s : State) (t : Nat) (a : Thread) : (s.setThread t a).ports = s.ports := rfl
@[simp] theorem State.setThread_routes (s : State) (t : Nat) (a : Thread) : (s.setThread t a).routes = s.routes := rfl
@[simp] theorem State.setThread_inbox (s : State) (t : Nat) (a : Thread) : (s.setThread t a).inbox = s.inbox := rfl
@[simp] theorem State.setThread_remLog (s : State) (t : Nat) (a : Thread) : (s.setThread t a).remLog = s.remLog := rfl
@[simp] theorem State.setThread_opNum (s : State) (t : Nat) (a : Thread) : (s.setThread t a).opNum = s.opNum := rfl
@[simp] theorem State.setThread_opsOut (s : State) (t : Nat) (a : Thread) : (s.setThread t a).opsOut = s.opsOut := rfl
@[simp] theorem State.setThread_unsent (s : State) (t : Nat) (a : Thread) : (s.setThread t a).unsent = s.unsent := rfl
@[simp] theorem State.setThread_time (s : State) (t : Nat) (a : Thread) : (s.setThread t a).time = s.time := rfl
@[simp] theorem State.setThread_clock (s : State) (t : Nat) (a : Thread) : (s.setThread t a).clock = s.clock := rfl
@[simp] theorem State.setThread_pkg (s : State) (t : Nat) (a : Thread) : (s.setThread t a).pkg = s.pkg := rfl
@[simp] theorem State.setThread_timeRoot (s : State) (t : Nat) (a : Thread) : (s.setThread t a).timeRoot = s.timeRoot := rfl
@[simp] theorem State.setThread_parent (s : State) (t : Nat) (a : Thread) : (s.setThread t a).parent = s.parent := rfl
@[simp] theorem State.setThread_err (s : State) (t : Nat) (a : Thread) : (s.setThread t a).err = s.err := rfl
@[simp] theorem State.setThread_asym (s : State) (t : Nat) (a : Thread) : (s.setThread t a).asym = s.asym := rfl
@[simp] theorem State.setThread_holdover (s : State) (t : Nat) (a : Thread) : (s.setThread t a).holdover = s.holdover := rfl
@[simp] theorem State.setThread_slew (s : State) (t : Nat) (a : Thread) : (s.setThread t a).slew = s.slew := rfl
@[simp] theorem State.setThread_slewWait (s : State) (t : Nat) (a : Thread) : (s.setThread t a).slewWait = s.slewWait := rfl
@[simp] theorem State.setThread_lastExchange (s : State) (t : Nat) (a : Thread) : (s.setThread t a).lastExchange = s.lastExchange := rfl
@[simp] theorem State.setThread_bar0 (s : State) (t : Nat) (a : Thread) : (s.setThread t a).bar0 = s.bar0 := rfl
@[simp] theorem State.setThread_msix (s : State) (t : Nat) (a : Thread) : (s.setThread t a).msix = s.msix := rfl
@[simp] theorem State.setThread_hotDies (s : State) (t : Nat) (a : Thread) : (s.setThread t a).hotDies = s.hotDies := rfl
@[simp] theorem State.setThread_bootDigest (s : State) (t : Nat) (a : Thread) : (s.setThread t a).bootDigest = s.bootDigest := rfl
@[simp] theorem State.setThread_dramParams (s : State) (t : Nat) (a : Thread) : (s.setThread t a).dramParams = s.dramParams := rfl
@[simp] theorem State.setThread_lastServed (s : State) (t : Nat) (a : Thread) : (s.setThread t a).lastServed = s.lastServed := rfl
@[simp] theorem State.setThread_nextId (s : State) (t : Nat) (a : Thread) : (s.setThread t a).nextId = s.nextId := rfl
@[simp] theorem State.setThread_arrivals (s : State) (t : Nat) (a : Thread) : (s.setThread t a).arrivals = s.arrivals := rfl
@[simp] theorem State.setThread_fresh (s : State) (t : Nat) (a : Thread) : (s.setThread t a).fresh = s.fresh := rfl
@[simp] theorem State.setThread_me (s : State) (t : Nat) (a : Thread) : (s.setThread t a).me = s.me := rfl
@[simp] theorem State.setThread_agenda (s : State) (t : Nat) (a : Thread) : (s.setThread t a).agenda = s.agenda := rfl

/-! `State.modThread` -/

@[simp] theorem State.modThread_cores (s : State) (t : Nat) (f : Thread → Thread) : (s.modThread t f).cores = s.cores := rfl
@[simp] theorem State.modThread_tiles (s : State) (t : Nat) (f : Thread → Thread) : (s.modThread t f).tiles = s.tiles := rfl
@[simp] theorem State.modThread_accs (s : State) (t : Nat) (f : Thread → Thread) : (s.modThread t f).accs = s.accs := rfl
@[simp] theorem State.modThread_dram (s : State) (t : Nat) (f : Thread → Thread) : (s.modThread t f).dram = s.dram := rfl
@[simp] theorem State.modThread_hostMem (s : State) (t : Nat) (f : Thread → Thread) : (s.modThread t f).hostMem = s.hostMem := rfl
@[simp] theorem State.modThread_stations (s : State) (t : Nat) (f : Thread → Thread) : (s.modThread t f).stations = s.stations := rfl
@[simp] theorem State.modThread_channels (s : State) (t : Nat) (f : Thread → Thread) : (s.modThread t f).channels = s.channels := rfl
@[simp] theorem State.modThread_invals (s : State) (t : Nat) (f : Thread → Thread) : (s.modThread t f).invals = s.invals := rfl
@[simp] theorem State.modThread_cues (s : State) (t : Nat) (f : Thread → Thread) : (s.modThread t f).cues = s.cues := rfl
@[simp] theorem State.modThread_ctxs (s : State) (t : Nat) (f : Thread → Thread) : (s.modThread t f).ctxs = s.ctxs := rfl
@[simp] theorem State.modThread_queues (s : State) (t : Nat) (f : Thread → Thread) : (s.modThread t f).queues = s.queues := rfl
@[simp] theorem State.modThread_launches (s : State) (t : Nat) (f : Thread → Thread) : (s.modThread t f).launches = s.launches := rfl
@[simp] theorem State.modThread_casts (s : State) (t : Nat) (f : Thread → Thread) : (s.modThread t f).casts = s.casts := rfl
@[simp] theorem State.modThread_chainMsgs (s : State) (t : Nat) (f : Thread → Thread) : (s.modThread t f).chainMsgs = s.chainMsgs := rfl
@[simp] theorem State.modThread_strips (s : State) (t : Nat) (f : Thread → Thread) : (s.modThread t f).strips = s.strips := rfl
@[simp] theorem State.modThread_barMsgs (s : State) (t : Nat) (f : Thread → Thread) : (s.modThread t f).barMsgs = s.barMsgs := rfl
@[simp] theorem State.modThread_ports (s : State) (t : Nat) (f : Thread → Thread) : (s.modThread t f).ports = s.ports := rfl
@[simp] theorem State.modThread_routes (s : State) (t : Nat) (f : Thread → Thread) : (s.modThread t f).routes = s.routes := rfl
@[simp] theorem State.modThread_inbox (s : State) (t : Nat) (f : Thread → Thread) : (s.modThread t f).inbox = s.inbox := rfl
@[simp] theorem State.modThread_remLog (s : State) (t : Nat) (f : Thread → Thread) : (s.modThread t f).remLog = s.remLog := rfl
@[simp] theorem State.modThread_opNum (s : State) (t : Nat) (f : Thread → Thread) : (s.modThread t f).opNum = s.opNum := rfl
@[simp] theorem State.modThread_opsOut (s : State) (t : Nat) (f : Thread → Thread) : (s.modThread t f).opsOut = s.opsOut := rfl
@[simp] theorem State.modThread_unsent (s : State) (t : Nat) (f : Thread → Thread) : (s.modThread t f).unsent = s.unsent := rfl
@[simp] theorem State.modThread_time (s : State) (t : Nat) (f : Thread → Thread) : (s.modThread t f).time = s.time := rfl
@[simp] theorem State.modThread_clock (s : State) (t : Nat) (f : Thread → Thread) : (s.modThread t f).clock = s.clock := rfl
@[simp] theorem State.modThread_pkg (s : State) (t : Nat) (f : Thread → Thread) : (s.modThread t f).pkg = s.pkg := rfl
@[simp] theorem State.modThread_timeRoot (s : State) (t : Nat) (f : Thread → Thread) : (s.modThread t f).timeRoot = s.timeRoot := rfl
@[simp] theorem State.modThread_parent (s : State) (t : Nat) (f : Thread → Thread) : (s.modThread t f).parent = s.parent := rfl
@[simp] theorem State.modThread_err (s : State) (t : Nat) (f : Thread → Thread) : (s.modThread t f).err = s.err := rfl
@[simp] theorem State.modThread_asym (s : State) (t : Nat) (f : Thread → Thread) : (s.modThread t f).asym = s.asym := rfl
@[simp] theorem State.modThread_holdover (s : State) (t : Nat) (f : Thread → Thread) : (s.modThread t f).holdover = s.holdover := rfl
@[simp] theorem State.modThread_slew (s : State) (t : Nat) (f : Thread → Thread) : (s.modThread t f).slew = s.slew := rfl
@[simp] theorem State.modThread_slewWait (s : State) (t : Nat) (f : Thread → Thread) : (s.modThread t f).slewWait = s.slewWait := rfl
@[simp] theorem State.modThread_lastExchange (s : State) (t : Nat) (f : Thread → Thread) : (s.modThread t f).lastExchange = s.lastExchange := rfl
@[simp] theorem State.modThread_bar0 (s : State) (t : Nat) (f : Thread → Thread) : (s.modThread t f).bar0 = s.bar0 := rfl
@[simp] theorem State.modThread_msix (s : State) (t : Nat) (f : Thread → Thread) : (s.modThread t f).msix = s.msix := rfl
@[simp] theorem State.modThread_hotDies (s : State) (t : Nat) (f : Thread → Thread) : (s.modThread t f).hotDies = s.hotDies := rfl
@[simp] theorem State.modThread_bootDigest (s : State) (t : Nat) (f : Thread → Thread) : (s.modThread t f).bootDigest = s.bootDigest := rfl
@[simp] theorem State.modThread_dramParams (s : State) (t : Nat) (f : Thread → Thread) : (s.modThread t f).dramParams = s.dramParams := rfl
@[simp] theorem State.modThread_lastServed (s : State) (t : Nat) (f : Thread → Thread) : (s.modThread t f).lastServed = s.lastServed := rfl
@[simp] theorem State.modThread_nextId (s : State) (t : Nat) (f : Thread → Thread) : (s.modThread t f).nextId = s.nextId := rfl
@[simp] theorem State.modThread_arrivals (s : State) (t : Nat) (f : Thread → Thread) : (s.modThread t f).arrivals = s.arrivals := rfl
@[simp] theorem State.modThread_fresh (s : State) (t : Nat) (f : Thread → Thread) : (s.modThread t f).fresh = s.fresh := rfl
@[simp] theorem State.modThread_me (s : State) (t : Nat) (f : Thread → Thread) : (s.modThread t f).me = s.me := rfl
@[simp] theorem State.modThread_agenda (s : State) (t : Nat) (f : Thread → Thread) : (s.modThread t f).agenda = s.agenda := rfl

/-! `State.modCur` -/

@[simp] theorem State.modCur_cores (s : State) (f : Thread → Thread) : (s.modCur f).cores = s.cores := rfl
@[simp] theorem State.modCur_tiles (s : State) (f : Thread → Thread) : (s.modCur f).tiles = s.tiles := rfl
@[simp] theorem State.modCur_accs (s : State) (f : Thread → Thread) : (s.modCur f).accs = s.accs := rfl
@[simp] theorem State.modCur_dram (s : State) (f : Thread → Thread) : (s.modCur f).dram = s.dram := rfl
@[simp] theorem State.modCur_hostMem (s : State) (f : Thread → Thread) : (s.modCur f).hostMem = s.hostMem := rfl
@[simp] theorem State.modCur_stations (s : State) (f : Thread → Thread) : (s.modCur f).stations = s.stations := rfl
@[simp] theorem State.modCur_channels (s : State) (f : Thread → Thread) : (s.modCur f).channels = s.channels := rfl
@[simp] theorem State.modCur_invals (s : State) (f : Thread → Thread) : (s.modCur f).invals = s.invals := rfl
@[simp] theorem State.modCur_cues (s : State) (f : Thread → Thread) : (s.modCur f).cues = s.cues := rfl
@[simp] theorem State.modCur_ctxs (s : State) (f : Thread → Thread) : (s.modCur f).ctxs = s.ctxs := rfl
@[simp] theorem State.modCur_queues (s : State) (f : Thread → Thread) : (s.modCur f).queues = s.queues := rfl
@[simp] theorem State.modCur_launches (s : State) (f : Thread → Thread) : (s.modCur f).launches = s.launches := rfl
@[simp] theorem State.modCur_casts (s : State) (f : Thread → Thread) : (s.modCur f).casts = s.casts := rfl
@[simp] theorem State.modCur_chainMsgs (s : State) (f : Thread → Thread) : (s.modCur f).chainMsgs = s.chainMsgs := rfl
@[simp] theorem State.modCur_strips (s : State) (f : Thread → Thread) : (s.modCur f).strips = s.strips := rfl
@[simp] theorem State.modCur_barMsgs (s : State) (f : Thread → Thread) : (s.modCur f).barMsgs = s.barMsgs := rfl
@[simp] theorem State.modCur_ports (s : State) (f : Thread → Thread) : (s.modCur f).ports = s.ports := rfl
@[simp] theorem State.modCur_routes (s : State) (f : Thread → Thread) : (s.modCur f).routes = s.routes := rfl
@[simp] theorem State.modCur_inbox (s : State) (f : Thread → Thread) : (s.modCur f).inbox = s.inbox := rfl
@[simp] theorem State.modCur_remLog (s : State) (f : Thread → Thread) : (s.modCur f).remLog = s.remLog := rfl
@[simp] theorem State.modCur_opNum (s : State) (f : Thread → Thread) : (s.modCur f).opNum = s.opNum := rfl
@[simp] theorem State.modCur_opsOut (s : State) (f : Thread → Thread) : (s.modCur f).opsOut = s.opsOut := rfl
@[simp] theorem State.modCur_unsent (s : State) (f : Thread → Thread) : (s.modCur f).unsent = s.unsent := rfl
@[simp] theorem State.modCur_time (s : State) (f : Thread → Thread) : (s.modCur f).time = s.time := rfl
@[simp] theorem State.modCur_clock (s : State) (f : Thread → Thread) : (s.modCur f).clock = s.clock := rfl
@[simp] theorem State.modCur_pkg (s : State) (f : Thread → Thread) : (s.modCur f).pkg = s.pkg := rfl
@[simp] theorem State.modCur_timeRoot (s : State) (f : Thread → Thread) : (s.modCur f).timeRoot = s.timeRoot := rfl
@[simp] theorem State.modCur_parent (s : State) (f : Thread → Thread) : (s.modCur f).parent = s.parent := rfl
@[simp] theorem State.modCur_err (s : State) (f : Thread → Thread) : (s.modCur f).err = s.err := rfl
@[simp] theorem State.modCur_asym (s : State) (f : Thread → Thread) : (s.modCur f).asym = s.asym := rfl
@[simp] theorem State.modCur_holdover (s : State) (f : Thread → Thread) : (s.modCur f).holdover = s.holdover := rfl
@[simp] theorem State.modCur_slew (s : State) (f : Thread → Thread) : (s.modCur f).slew = s.slew := rfl
@[simp] theorem State.modCur_slewWait (s : State) (f : Thread → Thread) : (s.modCur f).slewWait = s.slewWait := rfl
@[simp] theorem State.modCur_lastExchange (s : State) (f : Thread → Thread) : (s.modCur f).lastExchange = s.lastExchange := rfl
@[simp] theorem State.modCur_bar0 (s : State) (f : Thread → Thread) : (s.modCur f).bar0 = s.bar0 := rfl
@[simp] theorem State.modCur_msix (s : State) (f : Thread → Thread) : (s.modCur f).msix = s.msix := rfl
@[simp] theorem State.modCur_hotDies (s : State) (f : Thread → Thread) : (s.modCur f).hotDies = s.hotDies := rfl
@[simp] theorem State.modCur_bootDigest (s : State) (f : Thread → Thread) : (s.modCur f).bootDigest = s.bootDigest := rfl
@[simp] theorem State.modCur_dramParams (s : State) (f : Thread → Thread) : (s.modCur f).dramParams = s.dramParams := rfl
@[simp] theorem State.modCur_lastServed (s : State) (f : Thread → Thread) : (s.modCur f).lastServed = s.lastServed := rfl
@[simp] theorem State.modCur_nextId (s : State) (f : Thread → Thread) : (s.modCur f).nextId = s.nextId := rfl
@[simp] theorem State.modCur_arrivals (s : State) (f : Thread → Thread) : (s.modCur f).arrivals = s.arrivals := rfl
@[simp] theorem State.modCur_fresh (s : State) (f : Thread → Thread) : (s.modCur f).fresh = s.fresh := rfl
@[simp] theorem State.modCur_me (s : State) (f : Thread → Thread) : (s.modCur f).me = s.me := rfl
@[simp] theorem State.modCur_agenda (s : State) (f : Thread → Thread) : (s.modCur f).agenda = s.agenda := rfl

/-! `State.setCore` -/

@[simp] theorem State.setCore_threads (s : State) (c : Nat) (a : Core) : (s.setCore c a).threads = s.threads := rfl
@[simp] theorem State.setCore_tiles (s : State) (c : Nat) (a : Core) : (s.setCore c a).tiles = s.tiles := rfl
@[simp] theorem State.setCore_accs (s : State) (c : Nat) (a : Core) : (s.setCore c a).accs = s.accs := rfl
@[simp] theorem State.setCore_dram (s : State) (c : Nat) (a : Core) : (s.setCore c a).dram = s.dram := rfl
@[simp] theorem State.setCore_hostMem (s : State) (c : Nat) (a : Core) : (s.setCore c a).hostMem = s.hostMem := rfl
@[simp] theorem State.setCore_stations (s : State) (c : Nat) (a : Core) : (s.setCore c a).stations = s.stations := rfl
@[simp] theorem State.setCore_channels (s : State) (c : Nat) (a : Core) : (s.setCore c a).channels = s.channels := rfl
@[simp] theorem State.setCore_invals (s : State) (c : Nat) (a : Core) : (s.setCore c a).invals = s.invals := rfl
@[simp] theorem State.setCore_cues (s : State) (c : Nat) (a : Core) : (s.setCore c a).cues = s.cues := rfl
@[simp] theorem State.setCore_ctxs (s : State) (c : Nat) (a : Core) : (s.setCore c a).ctxs = s.ctxs := rfl
@[simp] theorem State.setCore_queues (s : State) (c : Nat) (a : Core) : (s.setCore c a).queues = s.queues := rfl
@[simp] theorem State.setCore_launches (s : State) (c : Nat) (a : Core) : (s.setCore c a).launches = s.launches := rfl
@[simp] theorem State.setCore_casts (s : State) (c : Nat) (a : Core) : (s.setCore c a).casts = s.casts := rfl
@[simp] theorem State.setCore_chainMsgs (s : State) (c : Nat) (a : Core) : (s.setCore c a).chainMsgs = s.chainMsgs := rfl
@[simp] theorem State.setCore_strips (s : State) (c : Nat) (a : Core) : (s.setCore c a).strips = s.strips := rfl
@[simp] theorem State.setCore_barMsgs (s : State) (c : Nat) (a : Core) : (s.setCore c a).barMsgs = s.barMsgs := rfl
@[simp] theorem State.setCore_ports (s : State) (c : Nat) (a : Core) : (s.setCore c a).ports = s.ports := rfl
@[simp] theorem State.setCore_routes (s : State) (c : Nat) (a : Core) : (s.setCore c a).routes = s.routes := rfl
@[simp] theorem State.setCore_inbox (s : State) (c : Nat) (a : Core) : (s.setCore c a).inbox = s.inbox := rfl
@[simp] theorem State.setCore_remLog (s : State) (c : Nat) (a : Core) : (s.setCore c a).remLog = s.remLog := rfl
@[simp] theorem State.setCore_opNum (s : State) (c : Nat) (a : Core) : (s.setCore c a).opNum = s.opNum := rfl
@[simp] theorem State.setCore_opsOut (s : State) (c : Nat) (a : Core) : (s.setCore c a).opsOut = s.opsOut := rfl
@[simp] theorem State.setCore_unsent (s : State) (c : Nat) (a : Core) : (s.setCore c a).unsent = s.unsent := rfl
@[simp] theorem State.setCore_time (s : State) (c : Nat) (a : Core) : (s.setCore c a).time = s.time := rfl
@[simp] theorem State.setCore_clock (s : State) (c : Nat) (a : Core) : (s.setCore c a).clock = s.clock := rfl
@[simp] theorem State.setCore_pkg (s : State) (c : Nat) (a : Core) : (s.setCore c a).pkg = s.pkg := rfl
@[simp] theorem State.setCore_timeRoot (s : State) (c : Nat) (a : Core) : (s.setCore c a).timeRoot = s.timeRoot := rfl
@[simp] theorem State.setCore_parent (s : State) (c : Nat) (a : Core) : (s.setCore c a).parent = s.parent := rfl
@[simp] theorem State.setCore_err (s : State) (c : Nat) (a : Core) : (s.setCore c a).err = s.err := rfl
@[simp] theorem State.setCore_asym (s : State) (c : Nat) (a : Core) : (s.setCore c a).asym = s.asym := rfl
@[simp] theorem State.setCore_holdover (s : State) (c : Nat) (a : Core) : (s.setCore c a).holdover = s.holdover := rfl
@[simp] theorem State.setCore_slew (s : State) (c : Nat) (a : Core) : (s.setCore c a).slew = s.slew := rfl
@[simp] theorem State.setCore_slewWait (s : State) (c : Nat) (a : Core) : (s.setCore c a).slewWait = s.slewWait := rfl
@[simp] theorem State.setCore_lastExchange (s : State) (c : Nat) (a : Core) : (s.setCore c a).lastExchange = s.lastExchange := rfl
@[simp] theorem State.setCore_bar0 (s : State) (c : Nat) (a : Core) : (s.setCore c a).bar0 = s.bar0 := rfl
@[simp] theorem State.setCore_msix (s : State) (c : Nat) (a : Core) : (s.setCore c a).msix = s.msix := rfl
@[simp] theorem State.setCore_hotDies (s : State) (c : Nat) (a : Core) : (s.setCore c a).hotDies = s.hotDies := rfl
@[simp] theorem State.setCore_bootDigest (s : State) (c : Nat) (a : Core) : (s.setCore c a).bootDigest = s.bootDigest := rfl
@[simp] theorem State.setCore_dramParams (s : State) (c : Nat) (a : Core) : (s.setCore c a).dramParams = s.dramParams := rfl
@[simp] theorem State.setCore_lastServed (s : State) (c : Nat) (a : Core) : (s.setCore c a).lastServed = s.lastServed := rfl
@[simp] theorem State.setCore_nextId (s : State) (c : Nat) (a : Core) : (s.setCore c a).nextId = s.nextId := rfl
@[simp] theorem State.setCore_arrivals (s : State) (c : Nat) (a : Core) : (s.setCore c a).arrivals = s.arrivals := rfl
@[simp] theorem State.setCore_fresh (s : State) (c : Nat) (a : Core) : (s.setCore c a).fresh = s.fresh := rfl
@[simp] theorem State.setCore_me (s : State) (c : Nat) (a : Core) : (s.setCore c a).me = s.me := rfl
@[simp] theorem State.setCore_agenda (s : State) (c : Nat) (a : Core) : (s.setCore c a).agenda = s.agenda := rfl

/-! `State.modCore` -/

@[simp] theorem State.modCore_threads (s : State) (c : Nat) (f : Core → Core) : (s.modCore c f).threads = s.threads := rfl
@[simp] theorem State.modCore_tiles (s : State) (c : Nat) (f : Core → Core) : (s.modCore c f).tiles = s.tiles := rfl
@[simp] theorem State.modCore_accs (s : State) (c : Nat) (f : Core → Core) : (s.modCore c f).accs = s.accs := rfl
@[simp] theorem State.modCore_dram (s : State) (c : Nat) (f : Core → Core) : (s.modCore c f).dram = s.dram := rfl
@[simp] theorem State.modCore_hostMem (s : State) (c : Nat) (f : Core → Core) : (s.modCore c f).hostMem = s.hostMem := rfl
@[simp] theorem State.modCore_stations (s : State) (c : Nat) (f : Core → Core) : (s.modCore c f).stations = s.stations := rfl
@[simp] theorem State.modCore_channels (s : State) (c : Nat) (f : Core → Core) : (s.modCore c f).channels = s.channels := rfl
@[simp] theorem State.modCore_invals (s : State) (c : Nat) (f : Core → Core) : (s.modCore c f).invals = s.invals := rfl
@[simp] theorem State.modCore_cues (s : State) (c : Nat) (f : Core → Core) : (s.modCore c f).cues = s.cues := rfl
@[simp] theorem State.modCore_ctxs (s : State) (c : Nat) (f : Core → Core) : (s.modCore c f).ctxs = s.ctxs := rfl
@[simp] theorem State.modCore_queues (s : State) (c : Nat) (f : Core → Core) : (s.modCore c f).queues = s.queues := rfl
@[simp] theorem State.modCore_launches (s : State) (c : Nat) (f : Core → Core) : (s.modCore c f).launches = s.launches := rfl
@[simp] theorem State.modCore_casts (s : State) (c : Nat) (f : Core → Core) : (s.modCore c f).casts = s.casts := rfl
@[simp] theorem State.modCore_chainMsgs (s : State) (c : Nat) (f : Core → Core) : (s.modCore c f).chainMsgs = s.chainMsgs := rfl
@[simp] theorem State.modCore_strips (s : State) (c : Nat) (f : Core → Core) : (s.modCore c f).strips = s.strips := rfl
@[simp] theorem State.modCore_barMsgs (s : State) (c : Nat) (f : Core → Core) : (s.modCore c f).barMsgs = s.barMsgs := rfl
@[simp] theorem State.modCore_ports (s : State) (c : Nat) (f : Core → Core) : (s.modCore c f).ports = s.ports := rfl
@[simp] theorem State.modCore_routes (s : State) (c : Nat) (f : Core → Core) : (s.modCore c f).routes = s.routes := rfl
@[simp] theorem State.modCore_inbox (s : State) (c : Nat) (f : Core → Core) : (s.modCore c f).inbox = s.inbox := rfl
@[simp] theorem State.modCore_remLog (s : State) (c : Nat) (f : Core → Core) : (s.modCore c f).remLog = s.remLog := rfl
@[simp] theorem State.modCore_opNum (s : State) (c : Nat) (f : Core → Core) : (s.modCore c f).opNum = s.opNum := rfl
@[simp] theorem State.modCore_opsOut (s : State) (c : Nat) (f : Core → Core) : (s.modCore c f).opsOut = s.opsOut := rfl
@[simp] theorem State.modCore_unsent (s : State) (c : Nat) (f : Core → Core) : (s.modCore c f).unsent = s.unsent := rfl
@[simp] theorem State.modCore_time (s : State) (c : Nat) (f : Core → Core) : (s.modCore c f).time = s.time := rfl
@[simp] theorem State.modCore_clock (s : State) (c : Nat) (f : Core → Core) : (s.modCore c f).clock = s.clock := rfl
@[simp] theorem State.modCore_pkg (s : State) (c : Nat) (f : Core → Core) : (s.modCore c f).pkg = s.pkg := rfl
@[simp] theorem State.modCore_timeRoot (s : State) (c : Nat) (f : Core → Core) : (s.modCore c f).timeRoot = s.timeRoot := rfl
@[simp] theorem State.modCore_parent (s : State) (c : Nat) (f : Core → Core) : (s.modCore c f).parent = s.parent := rfl
@[simp] theorem State.modCore_err (s : State) (c : Nat) (f : Core → Core) : (s.modCore c f).err = s.err := rfl
@[simp] theorem State.modCore_asym (s : State) (c : Nat) (f : Core → Core) : (s.modCore c f).asym = s.asym := rfl
@[simp] theorem State.modCore_holdover (s : State) (c : Nat) (f : Core → Core) : (s.modCore c f).holdover = s.holdover := rfl
@[simp] theorem State.modCore_slew (s : State) (c : Nat) (f : Core → Core) : (s.modCore c f).slew = s.slew := rfl
@[simp] theorem State.modCore_slewWait (s : State) (c : Nat) (f : Core → Core) : (s.modCore c f).slewWait = s.slewWait := rfl
@[simp] theorem State.modCore_lastExchange (s : State) (c : Nat) (f : Core → Core) : (s.modCore c f).lastExchange = s.lastExchange := rfl
@[simp] theorem State.modCore_bar0 (s : State) (c : Nat) (f : Core → Core) : (s.modCore c f).bar0 = s.bar0 := rfl
@[simp] theorem State.modCore_msix (s : State) (c : Nat) (f : Core → Core) : (s.modCore c f).msix = s.msix := rfl
@[simp] theorem State.modCore_hotDies (s : State) (c : Nat) (f : Core → Core) : (s.modCore c f).hotDies = s.hotDies := rfl
@[simp] theorem State.modCore_bootDigest (s : State) (c : Nat) (f : Core → Core) : (s.modCore c f).bootDigest = s.bootDigest := rfl
@[simp] theorem State.modCore_dramParams (s : State) (c : Nat) (f : Core → Core) : (s.modCore c f).dramParams = s.dramParams := rfl
@[simp] theorem State.modCore_lastServed (s : State) (c : Nat) (f : Core → Core) : (s.modCore c f).lastServed = s.lastServed := rfl
@[simp] theorem State.modCore_nextId (s : State) (c : Nat) (f : Core → Core) : (s.modCore c f).nextId = s.nextId := rfl
@[simp] theorem State.modCore_arrivals (s : State) (c : Nat) (f : Core → Core) : (s.modCore c f).arrivals = s.arrivals := rfl
@[simp] theorem State.modCore_fresh (s : State) (c : Nat) (f : Core → Core) : (s.modCore c f).fresh = s.fresh := rfl
@[simp] theorem State.modCore_me (s : State) (c : Nat) (f : Core → Core) : (s.modCore c f).me = s.me := rfl
@[simp] theorem State.modCore_agenda (s : State) (c : Nat) (f : Core → Core) : (s.modCore c f).agenda = s.agenda := rfl

/-! `State.setTile` -/

@[simp] theorem State.setTile_threads (s : State) (t : Nat) (a : Tile) : (s.setTile t a).threads = s.threads := rfl
@[simp] theorem State.setTile_cores (s : State) (t : Nat) (a : Tile) : (s.setTile t a).cores = s.cores := rfl
@[simp] theorem State.setTile_accs (s : State) (t : Nat) (a : Tile) : (s.setTile t a).accs = s.accs := rfl
@[simp] theorem State.setTile_dram (s : State) (t : Nat) (a : Tile) : (s.setTile t a).dram = s.dram := rfl
@[simp] theorem State.setTile_hostMem (s : State) (t : Nat) (a : Tile) : (s.setTile t a).hostMem = s.hostMem := rfl
@[simp] theorem State.setTile_stations (s : State) (t : Nat) (a : Tile) : (s.setTile t a).stations = s.stations := rfl
@[simp] theorem State.setTile_channels (s : State) (t : Nat) (a : Tile) : (s.setTile t a).channels = s.channels := rfl
@[simp] theorem State.setTile_invals (s : State) (t : Nat) (a : Tile) : (s.setTile t a).invals = s.invals := rfl
@[simp] theorem State.setTile_cues (s : State) (t : Nat) (a : Tile) : (s.setTile t a).cues = s.cues := rfl
@[simp] theorem State.setTile_ctxs (s : State) (t : Nat) (a : Tile) : (s.setTile t a).ctxs = s.ctxs := rfl
@[simp] theorem State.setTile_queues (s : State) (t : Nat) (a : Tile) : (s.setTile t a).queues = s.queues := rfl
@[simp] theorem State.setTile_launches (s : State) (t : Nat) (a : Tile) : (s.setTile t a).launches = s.launches := rfl
@[simp] theorem State.setTile_casts (s : State) (t : Nat) (a : Tile) : (s.setTile t a).casts = s.casts := rfl
@[simp] theorem State.setTile_chainMsgs (s : State) (t : Nat) (a : Tile) : (s.setTile t a).chainMsgs = s.chainMsgs := rfl
@[simp] theorem State.setTile_strips (s : State) (t : Nat) (a : Tile) : (s.setTile t a).strips = s.strips := rfl
@[simp] theorem State.setTile_barMsgs (s : State) (t : Nat) (a : Tile) : (s.setTile t a).barMsgs = s.barMsgs := rfl
@[simp] theorem State.setTile_ports (s : State) (t : Nat) (a : Tile) : (s.setTile t a).ports = s.ports := rfl
@[simp] theorem State.setTile_routes (s : State) (t : Nat) (a : Tile) : (s.setTile t a).routes = s.routes := rfl
@[simp] theorem State.setTile_inbox (s : State) (t : Nat) (a : Tile) : (s.setTile t a).inbox = s.inbox := rfl
@[simp] theorem State.setTile_remLog (s : State) (t : Nat) (a : Tile) : (s.setTile t a).remLog = s.remLog := rfl
@[simp] theorem State.setTile_opNum (s : State) (t : Nat) (a : Tile) : (s.setTile t a).opNum = s.opNum := rfl
@[simp] theorem State.setTile_opsOut (s : State) (t : Nat) (a : Tile) : (s.setTile t a).opsOut = s.opsOut := rfl
@[simp] theorem State.setTile_unsent (s : State) (t : Nat) (a : Tile) : (s.setTile t a).unsent = s.unsent := rfl
@[simp] theorem State.setTile_time (s : State) (t : Nat) (a : Tile) : (s.setTile t a).time = s.time := rfl
@[simp] theorem State.setTile_clock (s : State) (t : Nat) (a : Tile) : (s.setTile t a).clock = s.clock := rfl
@[simp] theorem State.setTile_pkg (s : State) (t : Nat) (a : Tile) : (s.setTile t a).pkg = s.pkg := rfl
@[simp] theorem State.setTile_timeRoot (s : State) (t : Nat) (a : Tile) : (s.setTile t a).timeRoot = s.timeRoot := rfl
@[simp] theorem State.setTile_parent (s : State) (t : Nat) (a : Tile) : (s.setTile t a).parent = s.parent := rfl
@[simp] theorem State.setTile_err (s : State) (t : Nat) (a : Tile) : (s.setTile t a).err = s.err := rfl
@[simp] theorem State.setTile_asym (s : State) (t : Nat) (a : Tile) : (s.setTile t a).asym = s.asym := rfl
@[simp] theorem State.setTile_holdover (s : State) (t : Nat) (a : Tile) : (s.setTile t a).holdover = s.holdover := rfl
@[simp] theorem State.setTile_slew (s : State) (t : Nat) (a : Tile) : (s.setTile t a).slew = s.slew := rfl
@[simp] theorem State.setTile_slewWait (s : State) (t : Nat) (a : Tile) : (s.setTile t a).slewWait = s.slewWait := rfl
@[simp] theorem State.setTile_lastExchange (s : State) (t : Nat) (a : Tile) : (s.setTile t a).lastExchange = s.lastExchange := rfl
@[simp] theorem State.setTile_bar0 (s : State) (t : Nat) (a : Tile) : (s.setTile t a).bar0 = s.bar0 := rfl
@[simp] theorem State.setTile_msix (s : State) (t : Nat) (a : Tile) : (s.setTile t a).msix = s.msix := rfl
@[simp] theorem State.setTile_hotDies (s : State) (t : Nat) (a : Tile) : (s.setTile t a).hotDies = s.hotDies := rfl
@[simp] theorem State.setTile_bootDigest (s : State) (t : Nat) (a : Tile) : (s.setTile t a).bootDigest = s.bootDigest := rfl
@[simp] theorem State.setTile_dramParams (s : State) (t : Nat) (a : Tile) : (s.setTile t a).dramParams = s.dramParams := rfl
@[simp] theorem State.setTile_lastServed (s : State) (t : Nat) (a : Tile) : (s.setTile t a).lastServed = s.lastServed := rfl
@[simp] theorem State.setTile_nextId (s : State) (t : Nat) (a : Tile) : (s.setTile t a).nextId = s.nextId := rfl
@[simp] theorem State.setTile_arrivals (s : State) (t : Nat) (a : Tile) : (s.setTile t a).arrivals = s.arrivals := rfl
@[simp] theorem State.setTile_fresh (s : State) (t : Nat) (a : Tile) : (s.setTile t a).fresh = s.fresh := rfl
@[simp] theorem State.setTile_me (s : State) (t : Nat) (a : Tile) : (s.setTile t a).me = s.me := rfl
@[simp] theorem State.setTile_agenda (s : State) (t : Nat) (a : Tile) : (s.setTile t a).agenda = s.agenda := rfl

/-! `State.modTile` -/

@[simp] theorem State.modTile_threads (s : State) (t : Nat) (f : Tile → Tile) : (s.modTile t f).threads = s.threads := rfl
@[simp] theorem State.modTile_cores (s : State) (t : Nat) (f : Tile → Tile) : (s.modTile t f).cores = s.cores := rfl
@[simp] theorem State.modTile_accs (s : State) (t : Nat) (f : Tile → Tile) : (s.modTile t f).accs = s.accs := rfl
@[simp] theorem State.modTile_dram (s : State) (t : Nat) (f : Tile → Tile) : (s.modTile t f).dram = s.dram := rfl
@[simp] theorem State.modTile_hostMem (s : State) (t : Nat) (f : Tile → Tile) : (s.modTile t f).hostMem = s.hostMem := rfl
@[simp] theorem State.modTile_stations (s : State) (t : Nat) (f : Tile → Tile) : (s.modTile t f).stations = s.stations := rfl
@[simp] theorem State.modTile_channels (s : State) (t : Nat) (f : Tile → Tile) : (s.modTile t f).channels = s.channels := rfl
@[simp] theorem State.modTile_invals (s : State) (t : Nat) (f : Tile → Tile) : (s.modTile t f).invals = s.invals := rfl
@[simp] theorem State.modTile_cues (s : State) (t : Nat) (f : Tile → Tile) : (s.modTile t f).cues = s.cues := rfl
@[simp] theorem State.modTile_ctxs (s : State) (t : Nat) (f : Tile → Tile) : (s.modTile t f).ctxs = s.ctxs := rfl
@[simp] theorem State.modTile_queues (s : State) (t : Nat) (f : Tile → Tile) : (s.modTile t f).queues = s.queues := rfl
@[simp] theorem State.modTile_launches (s : State) (t : Nat) (f : Tile → Tile) : (s.modTile t f).launches = s.launches := rfl
@[simp] theorem State.modTile_casts (s : State) (t : Nat) (f : Tile → Tile) : (s.modTile t f).casts = s.casts := rfl
@[simp] theorem State.modTile_chainMsgs (s : State) (t : Nat) (f : Tile → Tile) : (s.modTile t f).chainMsgs = s.chainMsgs := rfl
@[simp] theorem State.modTile_strips (s : State) (t : Nat) (f : Tile → Tile) : (s.modTile t f).strips = s.strips := rfl
@[simp] theorem State.modTile_barMsgs (s : State) (t : Nat) (f : Tile → Tile) : (s.modTile t f).barMsgs = s.barMsgs := rfl
@[simp] theorem State.modTile_ports (s : State) (t : Nat) (f : Tile → Tile) : (s.modTile t f).ports = s.ports := rfl
@[simp] theorem State.modTile_routes (s : State) (t : Nat) (f : Tile → Tile) : (s.modTile t f).routes = s.routes := rfl
@[simp] theorem State.modTile_inbox (s : State) (t : Nat) (f : Tile → Tile) : (s.modTile t f).inbox = s.inbox := rfl
@[simp] theorem State.modTile_remLog (s : State) (t : Nat) (f : Tile → Tile) : (s.modTile t f).remLog = s.remLog := rfl
@[simp] theorem State.modTile_opNum (s : State) (t : Nat) (f : Tile → Tile) : (s.modTile t f).opNum = s.opNum := rfl
@[simp] theorem State.modTile_opsOut (s : State) (t : Nat) (f : Tile → Tile) : (s.modTile t f).opsOut = s.opsOut := rfl
@[simp] theorem State.modTile_unsent (s : State) (t : Nat) (f : Tile → Tile) : (s.modTile t f).unsent = s.unsent := rfl
@[simp] theorem State.modTile_time (s : State) (t : Nat) (f : Tile → Tile) : (s.modTile t f).time = s.time := rfl
@[simp] theorem State.modTile_clock (s : State) (t : Nat) (f : Tile → Tile) : (s.modTile t f).clock = s.clock := rfl
@[simp] theorem State.modTile_pkg (s : State) (t : Nat) (f : Tile → Tile) : (s.modTile t f).pkg = s.pkg := rfl
@[simp] theorem State.modTile_timeRoot (s : State) (t : Nat) (f : Tile → Tile) : (s.modTile t f).timeRoot = s.timeRoot := rfl
@[simp] theorem State.modTile_parent (s : State) (t : Nat) (f : Tile → Tile) : (s.modTile t f).parent = s.parent := rfl
@[simp] theorem State.modTile_err (s : State) (t : Nat) (f : Tile → Tile) : (s.modTile t f).err = s.err := rfl
@[simp] theorem State.modTile_asym (s : State) (t : Nat) (f : Tile → Tile) : (s.modTile t f).asym = s.asym := rfl
@[simp] theorem State.modTile_holdover (s : State) (t : Nat) (f : Tile → Tile) : (s.modTile t f).holdover = s.holdover := rfl
@[simp] theorem State.modTile_slew (s : State) (t : Nat) (f : Tile → Tile) : (s.modTile t f).slew = s.slew := rfl
@[simp] theorem State.modTile_slewWait (s : State) (t : Nat) (f : Tile → Tile) : (s.modTile t f).slewWait = s.slewWait := rfl
@[simp] theorem State.modTile_lastExchange (s : State) (t : Nat) (f : Tile → Tile) : (s.modTile t f).lastExchange = s.lastExchange := rfl
@[simp] theorem State.modTile_bar0 (s : State) (t : Nat) (f : Tile → Tile) : (s.modTile t f).bar0 = s.bar0 := rfl
@[simp] theorem State.modTile_msix (s : State) (t : Nat) (f : Tile → Tile) : (s.modTile t f).msix = s.msix := rfl
@[simp] theorem State.modTile_hotDies (s : State) (t : Nat) (f : Tile → Tile) : (s.modTile t f).hotDies = s.hotDies := rfl
@[simp] theorem State.modTile_bootDigest (s : State) (t : Nat) (f : Tile → Tile) : (s.modTile t f).bootDigest = s.bootDigest := rfl
@[simp] theorem State.modTile_dramParams (s : State) (t : Nat) (f : Tile → Tile) : (s.modTile t f).dramParams = s.dramParams := rfl
@[simp] theorem State.modTile_lastServed (s : State) (t : Nat) (f : Tile → Tile) : (s.modTile t f).lastServed = s.lastServed := rfl
@[simp] theorem State.modTile_nextId (s : State) (t : Nat) (f : Tile → Tile) : (s.modTile t f).nextId = s.nextId := rfl
@[simp] theorem State.modTile_arrivals (s : State) (t : Nat) (f : Tile → Tile) : (s.modTile t f).arrivals = s.arrivals := rfl
@[simp] theorem State.modTile_fresh (s : State) (t : Nat) (f : Tile → Tile) : (s.modTile t f).fresh = s.fresh := rfl
@[simp] theorem State.modTile_me (s : State) (t : Nat) (f : Tile → Tile) : (s.modTile t f).me = s.me := rfl
@[simp] theorem State.modTile_agenda (s : State) (t : Nat) (f : Tile → Tile) : (s.modTile t f).agenda = s.agenda := rfl

/-! `State.setCtx` -/

@[simp] theorem State.setCtx_threads (s : State) (n : Nat) (c : Ctx) : (s.setCtx n c).threads = s.threads := rfl
@[simp] theorem State.setCtx_cores (s : State) (n : Nat) (c : Ctx) : (s.setCtx n c).cores = s.cores := rfl
@[simp] theorem State.setCtx_tiles (s : State) (n : Nat) (c : Ctx) : (s.setCtx n c).tiles = s.tiles := rfl
@[simp] theorem State.setCtx_accs (s : State) (n : Nat) (c : Ctx) : (s.setCtx n c).accs = s.accs := rfl
@[simp] theorem State.setCtx_dram (s : State) (n : Nat) (c : Ctx) : (s.setCtx n c).dram = s.dram := rfl
@[simp] theorem State.setCtx_hostMem (s : State) (n : Nat) (c : Ctx) : (s.setCtx n c).hostMem = s.hostMem := rfl
@[simp] theorem State.setCtx_stations (s : State) (n : Nat) (c : Ctx) : (s.setCtx n c).stations = s.stations := rfl
@[simp] theorem State.setCtx_channels (s : State) (n : Nat) (c : Ctx) : (s.setCtx n c).channels = s.channels := rfl
@[simp] theorem State.setCtx_invals (s : State) (n : Nat) (c : Ctx) : (s.setCtx n c).invals = s.invals := rfl
@[simp] theorem State.setCtx_cues (s : State) (n : Nat) (c : Ctx) : (s.setCtx n c).cues = s.cues := rfl
@[simp] theorem State.setCtx_queues (s : State) (n : Nat) (c : Ctx) : (s.setCtx n c).queues = s.queues := rfl
@[simp] theorem State.setCtx_launches (s : State) (n : Nat) (c : Ctx) : (s.setCtx n c).launches = s.launches := rfl
@[simp] theorem State.setCtx_casts (s : State) (n : Nat) (c : Ctx) : (s.setCtx n c).casts = s.casts := rfl
@[simp] theorem State.setCtx_chainMsgs (s : State) (n : Nat) (c : Ctx) : (s.setCtx n c).chainMsgs = s.chainMsgs := rfl
@[simp] theorem State.setCtx_strips (s : State) (n : Nat) (c : Ctx) : (s.setCtx n c).strips = s.strips := rfl
@[simp] theorem State.setCtx_barMsgs (s : State) (n : Nat) (c : Ctx) : (s.setCtx n c).barMsgs = s.barMsgs := rfl
@[simp] theorem State.setCtx_ports (s : State) (n : Nat) (c : Ctx) : (s.setCtx n c).ports = s.ports := rfl
@[simp] theorem State.setCtx_routes (s : State) (n : Nat) (c : Ctx) : (s.setCtx n c).routes = s.routes := rfl
@[simp] theorem State.setCtx_inbox (s : State) (n : Nat) (c : Ctx) : (s.setCtx n c).inbox = s.inbox := rfl
@[simp] theorem State.setCtx_remLog (s : State) (n : Nat) (c : Ctx) : (s.setCtx n c).remLog = s.remLog := rfl
@[simp] theorem State.setCtx_opNum (s : State) (n : Nat) (c : Ctx) : (s.setCtx n c).opNum = s.opNum := rfl
@[simp] theorem State.setCtx_opsOut (s : State) (n : Nat) (c : Ctx) : (s.setCtx n c).opsOut = s.opsOut := rfl
@[simp] theorem State.setCtx_unsent (s : State) (n : Nat) (c : Ctx) : (s.setCtx n c).unsent = s.unsent := rfl
@[simp] theorem State.setCtx_time (s : State) (n : Nat) (c : Ctx) : (s.setCtx n c).time = s.time := rfl
@[simp] theorem State.setCtx_clock (s : State) (n : Nat) (c : Ctx) : (s.setCtx n c).clock = s.clock := rfl
@[simp] theorem State.setCtx_pkg (s : State) (n : Nat) (c : Ctx) : (s.setCtx n c).pkg = s.pkg := rfl
@[simp] theorem State.setCtx_timeRoot (s : State) (n : Nat) (c : Ctx) : (s.setCtx n c).timeRoot = s.timeRoot := rfl
@[simp] theorem State.setCtx_parent (s : State) (n : Nat) (c : Ctx) : (s.setCtx n c).parent = s.parent := rfl
@[simp] theorem State.setCtx_err (s : State) (n : Nat) (c : Ctx) : (s.setCtx n c).err = s.err := rfl
@[simp] theorem State.setCtx_asym (s : State) (n : Nat) (c : Ctx) : (s.setCtx n c).asym = s.asym := rfl
@[simp] theorem State.setCtx_holdover (s : State) (n : Nat) (c : Ctx) : (s.setCtx n c).holdover = s.holdover := rfl
@[simp] theorem State.setCtx_slew (s : State) (n : Nat) (c : Ctx) : (s.setCtx n c).slew = s.slew := rfl
@[simp] theorem State.setCtx_slewWait (s : State) (n : Nat) (c : Ctx) : (s.setCtx n c).slewWait = s.slewWait := rfl
@[simp] theorem State.setCtx_lastExchange (s : State) (n : Nat) (c : Ctx) : (s.setCtx n c).lastExchange = s.lastExchange := rfl
@[simp] theorem State.setCtx_bar0 (s : State) (n : Nat) (c : Ctx) : (s.setCtx n c).bar0 = s.bar0 := rfl
@[simp] theorem State.setCtx_msix (s : State) (n : Nat) (c : Ctx) : (s.setCtx n c).msix = s.msix := rfl
@[simp] theorem State.setCtx_hotDies (s : State) (n : Nat) (c : Ctx) : (s.setCtx n c).hotDies = s.hotDies := rfl
@[simp] theorem State.setCtx_bootDigest (s : State) (n : Nat) (c : Ctx) : (s.setCtx n c).bootDigest = s.bootDigest := rfl
@[simp] theorem State.setCtx_dramParams (s : State) (n : Nat) (c : Ctx) : (s.setCtx n c).dramParams = s.dramParams := rfl
@[simp] theorem State.setCtx_lastServed (s : State) (n : Nat) (c : Ctx) : (s.setCtx n c).lastServed = s.lastServed := rfl
@[simp] theorem State.setCtx_nextId (s : State) (n : Nat) (c : Ctx) : (s.setCtx n c).nextId = s.nextId := rfl
@[simp] theorem State.setCtx_arrivals (s : State) (n : Nat) (c : Ctx) : (s.setCtx n c).arrivals = s.arrivals := rfl
@[simp] theorem State.setCtx_fresh (s : State) (n : Nat) (c : Ctx) : (s.setCtx n c).fresh = s.fresh := rfl
@[simp] theorem State.setCtx_me (s : State) (n : Nat) (c : Ctx) : (s.setCtx n c).me = s.me := rfl
@[simp] theorem State.setCtx_agenda (s : State) (n : Nat) (c : Ctx) : (s.setCtx n c).agenda = s.agenda := rfl

/-! `State.modCtx` -/

@[simp] theorem State.modCtx_threads (s : State) (n : Nat) (f : Ctx → Ctx) : (s.modCtx n f).threads = s.threads := rfl
@[simp] theorem State.modCtx_cores (s : State) (n : Nat) (f : Ctx → Ctx) : (s.modCtx n f).cores = s.cores := rfl
@[simp] theorem State.modCtx_tiles (s : State) (n : Nat) (f : Ctx → Ctx) : (s.modCtx n f).tiles = s.tiles := rfl
@[simp] theorem State.modCtx_accs (s : State) (n : Nat) (f : Ctx → Ctx) : (s.modCtx n f).accs = s.accs := rfl
@[simp] theorem State.modCtx_dram (s : State) (n : Nat) (f : Ctx → Ctx) : (s.modCtx n f).dram = s.dram := rfl
@[simp] theorem State.modCtx_hostMem (s : State) (n : Nat) (f : Ctx → Ctx) : (s.modCtx n f).hostMem = s.hostMem := rfl
@[simp] theorem State.modCtx_stations (s : State) (n : Nat) (f : Ctx → Ctx) : (s.modCtx n f).stations = s.stations := rfl
@[simp] theorem State.modCtx_channels (s : State) (n : Nat) (f : Ctx → Ctx) : (s.modCtx n f).channels = s.channels := rfl
@[simp] theorem State.modCtx_invals (s : State) (n : Nat) (f : Ctx → Ctx) : (s.modCtx n f).invals = s.invals := rfl
@[simp] theorem State.modCtx_cues (s : State) (n : Nat) (f : Ctx → Ctx) : (s.modCtx n f).cues = s.cues := rfl
@[simp] theorem State.modCtx_queues (s : State) (n : Nat) (f : Ctx → Ctx) : (s.modCtx n f).queues = s.queues := rfl
@[simp] theorem State.modCtx_launches (s : State) (n : Nat) (f : Ctx → Ctx) : (s.modCtx n f).launches = s.launches := rfl
@[simp] theorem State.modCtx_casts (s : State) (n : Nat) (f : Ctx → Ctx) : (s.modCtx n f).casts = s.casts := rfl
@[simp] theorem State.modCtx_chainMsgs (s : State) (n : Nat) (f : Ctx → Ctx) : (s.modCtx n f).chainMsgs = s.chainMsgs := rfl
@[simp] theorem State.modCtx_strips (s : State) (n : Nat) (f : Ctx → Ctx) : (s.modCtx n f).strips = s.strips := rfl
@[simp] theorem State.modCtx_barMsgs (s : State) (n : Nat) (f : Ctx → Ctx) : (s.modCtx n f).barMsgs = s.barMsgs := rfl
@[simp] theorem State.modCtx_ports (s : State) (n : Nat) (f : Ctx → Ctx) : (s.modCtx n f).ports = s.ports := rfl
@[simp] theorem State.modCtx_routes (s : State) (n : Nat) (f : Ctx → Ctx) : (s.modCtx n f).routes = s.routes := rfl
@[simp] theorem State.modCtx_inbox (s : State) (n : Nat) (f : Ctx → Ctx) : (s.modCtx n f).inbox = s.inbox := rfl
@[simp] theorem State.modCtx_remLog (s : State) (n : Nat) (f : Ctx → Ctx) : (s.modCtx n f).remLog = s.remLog := rfl
@[simp] theorem State.modCtx_opNum (s : State) (n : Nat) (f : Ctx → Ctx) : (s.modCtx n f).opNum = s.opNum := rfl
@[simp] theorem State.modCtx_opsOut (s : State) (n : Nat) (f : Ctx → Ctx) : (s.modCtx n f).opsOut = s.opsOut := rfl
@[simp] theorem State.modCtx_unsent (s : State) (n : Nat) (f : Ctx → Ctx) : (s.modCtx n f).unsent = s.unsent := rfl
@[simp] theorem State.modCtx_time (s : State) (n : Nat) (f : Ctx → Ctx) : (s.modCtx n f).time = s.time := rfl
@[simp] theorem State.modCtx_clock (s : State) (n : Nat) (f : Ctx → Ctx) : (s.modCtx n f).clock = s.clock := rfl
@[simp] theorem State.modCtx_pkg (s : State) (n : Nat) (f : Ctx → Ctx) : (s.modCtx n f).pkg = s.pkg := rfl
@[simp] theorem State.modCtx_timeRoot (s : State) (n : Nat) (f : Ctx → Ctx) : (s.modCtx n f).timeRoot = s.timeRoot := rfl
@[simp] theorem State.modCtx_parent (s : State) (n : Nat) (f : Ctx → Ctx) : (s.modCtx n f).parent = s.parent := rfl
@[simp] theorem State.modCtx_err (s : State) (n : Nat) (f : Ctx → Ctx) : (s.modCtx n f).err = s.err := rfl
@[simp] theorem State.modCtx_asym (s : State) (n : Nat) (f : Ctx → Ctx) : (s.modCtx n f).asym = s.asym := rfl
@[simp] theorem State.modCtx_holdover (s : State) (n : Nat) (f : Ctx → Ctx) : (s.modCtx n f).holdover = s.holdover := rfl
@[simp] theorem State.modCtx_slew (s : State) (n : Nat) (f : Ctx → Ctx) : (s.modCtx n f).slew = s.slew := rfl
@[simp] theorem State.modCtx_slewWait (s : State) (n : Nat) (f : Ctx → Ctx) : (s.modCtx n f).slewWait = s.slewWait := rfl
@[simp] theorem State.modCtx_lastExchange (s : State) (n : Nat) (f : Ctx → Ctx) : (s.modCtx n f).lastExchange = s.lastExchange := rfl
@[simp] theorem State.modCtx_bar0 (s : State) (n : Nat) (f : Ctx → Ctx) : (s.modCtx n f).bar0 = s.bar0 := rfl
@[simp] theorem State.modCtx_msix (s : State) (n : Nat) (f : Ctx → Ctx) : (s.modCtx n f).msix = s.msix := rfl
@[simp] theorem State.modCtx_hotDies (s : State) (n : Nat) (f : Ctx → Ctx) : (s.modCtx n f).hotDies = s.hotDies := rfl
@[simp] theorem State.modCtx_bootDigest (s : State) (n : Nat) (f : Ctx → Ctx) : (s.modCtx n f).bootDigest = s.bootDigest := rfl
@[simp] theorem State.modCtx_dramParams (s : State) (n : Nat) (f : Ctx → Ctx) : (s.modCtx n f).dramParams = s.dramParams := rfl
@[simp] theorem State.modCtx_lastServed (s : State) (n : Nat) (f : Ctx → Ctx) : (s.modCtx n f).lastServed = s.lastServed := rfl
@[simp] theorem State.modCtx_nextId (s : State) (n : Nat) (f : Ctx → Ctx) : (s.modCtx n f).nextId = s.nextId := rfl
@[simp] theorem State.modCtx_arrivals (s : State) (n : Nat) (f : Ctx → Ctx) : (s.modCtx n f).arrivals = s.arrivals := rfl
@[simp] theorem State.modCtx_fresh (s : State) (n : Nat) (f : Ctx → Ctx) : (s.modCtx n f).fresh = s.fresh := rfl
@[simp] theorem State.modCtx_me (s : State) (n : Nat) (f : Ctx → Ctx) : (s.modCtx n f).me = s.me := rfl
@[simp] theorem State.modCtx_agenda (s : State) (n : Nat) (f : Ctx → Ctx) : (s.modCtx n f).agenda = s.agenda := rfl

/-! `State.setQueue` -/

@[simp] theorem State.setQueue_threads (s : State) (n q : Nat) (a : Queue) : (s.setQueue n q a).threads = s.threads := rfl
@[simp] theorem State.setQueue_cores (s : State) (n q : Nat) (a : Queue) : (s.setQueue n q a).cores = s.cores := rfl
@[simp] theorem State.setQueue_tiles (s : State) (n q : Nat) (a : Queue) : (s.setQueue n q a).tiles = s.tiles := rfl
@[simp] theorem State.setQueue_accs (s : State) (n q : Nat) (a : Queue) : (s.setQueue n q a).accs = s.accs := rfl
@[simp] theorem State.setQueue_dram (s : State) (n q : Nat) (a : Queue) : (s.setQueue n q a).dram = s.dram := rfl
@[simp] theorem State.setQueue_hostMem (s : State) (n q : Nat) (a : Queue) : (s.setQueue n q a).hostMem = s.hostMem := rfl
@[simp] theorem State.setQueue_stations (s : State) (n q : Nat) (a : Queue) : (s.setQueue n q a).stations = s.stations := rfl
@[simp] theorem State.setQueue_channels (s : State) (n q : Nat) (a : Queue) : (s.setQueue n q a).channels = s.channels := rfl
@[simp] theorem State.setQueue_invals (s : State) (n q : Nat) (a : Queue) : (s.setQueue n q a).invals = s.invals := rfl
@[simp] theorem State.setQueue_cues (s : State) (n q : Nat) (a : Queue) : (s.setQueue n q a).cues = s.cues := rfl
@[simp] theorem State.setQueue_ctxs (s : State) (n q : Nat) (a : Queue) : (s.setQueue n q a).ctxs = s.ctxs := rfl
@[simp] theorem State.setQueue_launches (s : State) (n q : Nat) (a : Queue) : (s.setQueue n q a).launches = s.launches := rfl
@[simp] theorem State.setQueue_casts (s : State) (n q : Nat) (a : Queue) : (s.setQueue n q a).casts = s.casts := rfl
@[simp] theorem State.setQueue_chainMsgs (s : State) (n q : Nat) (a : Queue) : (s.setQueue n q a).chainMsgs = s.chainMsgs := rfl
@[simp] theorem State.setQueue_strips (s : State) (n q : Nat) (a : Queue) : (s.setQueue n q a).strips = s.strips := rfl
@[simp] theorem State.setQueue_barMsgs (s : State) (n q : Nat) (a : Queue) : (s.setQueue n q a).barMsgs = s.barMsgs := rfl
@[simp] theorem State.setQueue_ports (s : State) (n q : Nat) (a : Queue) : (s.setQueue n q a).ports = s.ports := rfl
@[simp] theorem State.setQueue_routes (s : State) (n q : Nat) (a : Queue) : (s.setQueue n q a).routes = s.routes := rfl
@[simp] theorem State.setQueue_inbox (s : State) (n q : Nat) (a : Queue) : (s.setQueue n q a).inbox = s.inbox := rfl
@[simp] theorem State.setQueue_remLog (s : State) (n q : Nat) (a : Queue) : (s.setQueue n q a).remLog = s.remLog := rfl
@[simp] theorem State.setQueue_opNum (s : State) (n q : Nat) (a : Queue) : (s.setQueue n q a).opNum = s.opNum := rfl
@[simp] theorem State.setQueue_opsOut (s : State) (n q : Nat) (a : Queue) : (s.setQueue n q a).opsOut = s.opsOut := rfl
@[simp] theorem State.setQueue_unsent (s : State) (n q : Nat) (a : Queue) : (s.setQueue n q a).unsent = s.unsent := rfl
@[simp] theorem State.setQueue_time (s : State) (n q : Nat) (a : Queue) : (s.setQueue n q a).time = s.time := rfl
@[simp] theorem State.setQueue_clock (s : State) (n q : Nat) (a : Queue) : (s.setQueue n q a).clock = s.clock := rfl
@[simp] theorem State.setQueue_pkg (s : State) (n q : Nat) (a : Queue) : (s.setQueue n q a).pkg = s.pkg := rfl
@[simp] theorem State.setQueue_timeRoot (s : State) (n q : Nat) (a : Queue) : (s.setQueue n q a).timeRoot = s.timeRoot := rfl
@[simp] theorem State.setQueue_parent (s : State) (n q : Nat) (a : Queue) : (s.setQueue n q a).parent = s.parent := rfl
@[simp] theorem State.setQueue_err (s : State) (n q : Nat) (a : Queue) : (s.setQueue n q a).err = s.err := rfl
@[simp] theorem State.setQueue_asym (s : State) (n q : Nat) (a : Queue) : (s.setQueue n q a).asym = s.asym := rfl
@[simp] theorem State.setQueue_holdover (s : State) (n q : Nat) (a : Queue) : (s.setQueue n q a).holdover = s.holdover := rfl
@[simp] theorem State.setQueue_slew (s : State) (n q : Nat) (a : Queue) : (s.setQueue n q a).slew = s.slew := rfl
@[simp] theorem State.setQueue_slewWait (s : State) (n q : Nat) (a : Queue) : (s.setQueue n q a).slewWait = s.slewWait := rfl
@[simp] theorem State.setQueue_lastExchange (s : State) (n q : Nat) (a : Queue) : (s.setQueue n q a).lastExchange = s.lastExchange := rfl
@[simp] theorem State.setQueue_bar0 (s : State) (n q : Nat) (a : Queue) : (s.setQueue n q a).bar0 = s.bar0 := rfl
@[simp] theorem State.setQueue_msix (s : State) (n q : Nat) (a : Queue) : (s.setQueue n q a).msix = s.msix := rfl
@[simp] theorem State.setQueue_hotDies (s : State) (n q : Nat) (a : Queue) : (s.setQueue n q a).hotDies = s.hotDies := rfl
@[simp] theorem State.setQueue_bootDigest (s : State) (n q : Nat) (a : Queue) : (s.setQueue n q a).bootDigest = s.bootDigest := rfl
@[simp] theorem State.setQueue_dramParams (s : State) (n q : Nat) (a : Queue) : (s.setQueue n q a).dramParams = s.dramParams := rfl
@[simp] theorem State.setQueue_lastServed (s : State) (n q : Nat) (a : Queue) : (s.setQueue n q a).lastServed = s.lastServed := rfl
@[simp] theorem State.setQueue_nextId (s : State) (n q : Nat) (a : Queue) : (s.setQueue n q a).nextId = s.nextId := rfl
@[simp] theorem State.setQueue_arrivals (s : State) (n q : Nat) (a : Queue) : (s.setQueue n q a).arrivals = s.arrivals := rfl
@[simp] theorem State.setQueue_fresh (s : State) (n q : Nat) (a : Queue) : (s.setQueue n q a).fresh = s.fresh := rfl
@[simp] theorem State.setQueue_me (s : State) (n q : Nat) (a : Queue) : (s.setQueue n q a).me = s.me := rfl
@[simp] theorem State.setQueue_agenda (s : State) (n q : Nat) (a : Queue) : (s.setQueue n q a).agenda = s.agenda := rfl

/-! `State.modQueue` -/

@[simp] theorem State.modQueue_threads (s : State) (n q : Nat) (f : Queue → Queue) : (s.modQueue n q f).threads = s.threads := rfl
@[simp] theorem State.modQueue_cores (s : State) (n q : Nat) (f : Queue → Queue) : (s.modQueue n q f).cores = s.cores := rfl
@[simp] theorem State.modQueue_tiles (s : State) (n q : Nat) (f : Queue → Queue) : (s.modQueue n q f).tiles = s.tiles := rfl
@[simp] theorem State.modQueue_accs (s : State) (n q : Nat) (f : Queue → Queue) : (s.modQueue n q f).accs = s.accs := rfl
@[simp] theorem State.modQueue_dram (s : State) (n q : Nat) (f : Queue → Queue) : (s.modQueue n q f).dram = s.dram := rfl
@[simp] theorem State.modQueue_hostMem (s : State) (n q : Nat) (f : Queue → Queue) : (s.modQueue n q f).hostMem = s.hostMem := rfl
@[simp] theorem State.modQueue_stations (s : State) (n q : Nat) (f : Queue → Queue) : (s.modQueue n q f).stations = s.stations := rfl
@[simp] theorem State.modQueue_channels (s : State) (n q : Nat) (f : Queue → Queue) : (s.modQueue n q f).channels = s.channels := rfl
@[simp] theorem State.modQueue_invals (s : State) (n q : Nat) (f : Queue → Queue) : (s.modQueue n q f).invals = s.invals := rfl
@[simp] theorem State.modQueue_cues (s : State) (n q : Nat) (f : Queue → Queue) : (s.modQueue n q f).cues = s.cues := rfl
@[simp] theorem State.modQueue_ctxs (s : State) (n q : Nat) (f : Queue → Queue) : (s.modQueue n q f).ctxs = s.ctxs := rfl
@[simp] theorem State.modQueue_launches (s : State) (n q : Nat) (f : Queue → Queue) : (s.modQueue n q f).launches = s.launches := rfl
@[simp] theorem State.modQueue_casts (s : State) (n q : Nat) (f : Queue → Queue) : (s.modQueue n q f).casts = s.casts := rfl
@[simp] theorem State.modQueue_chainMsgs (s : State) (n q : Nat) (f : Queue → Queue) : (s.modQueue n q f).chainMsgs = s.chainMsgs := rfl
@[simp] theorem State.modQueue_strips (s : State) (n q : Nat) (f : Queue → Queue) : (s.modQueue n q f).strips = s.strips := rfl
@[simp] theorem State.modQueue_barMsgs (s : State) (n q : Nat) (f : Queue → Queue) : (s.modQueue n q f).barMsgs = s.barMsgs := rfl
@[simp] theorem State.modQueue_ports (s : State) (n q : Nat) (f : Queue → Queue) : (s.modQueue n q f).ports = s.ports := rfl
@[simp] theorem State.modQueue_routes (s : State) (n q : Nat) (f : Queue → Queue) : (s.modQueue n q f).routes = s.routes := rfl
@[simp] theorem State.modQueue_inbox (s : State) (n q : Nat) (f : Queue → Queue) : (s.modQueue n q f).inbox = s.inbox := rfl
@[simp] theorem State.modQueue_remLog (s : State) (n q : Nat) (f : Queue → Queue) : (s.modQueue n q f).remLog = s.remLog := rfl
@[simp] theorem State.modQueue_opNum (s : State) (n q : Nat) (f : Queue → Queue) : (s.modQueue n q f).opNum = s.opNum := rfl
@[simp] theorem State.modQueue_opsOut (s : State) (n q : Nat) (f : Queue → Queue) : (s.modQueue n q f).opsOut = s.opsOut := rfl
@[simp] theorem State.modQueue_unsent (s : State) (n q : Nat) (f : Queue → Queue) : (s.modQueue n q f).unsent = s.unsent := rfl
@[simp] theorem State.modQueue_time (s : State) (n q : Nat) (f : Queue → Queue) : (s.modQueue n q f).time = s.time := rfl
@[simp] theorem State.modQueue_clock (s : State) (n q : Nat) (f : Queue → Queue) : (s.modQueue n q f).clock = s.clock := rfl
@[simp] theorem State.modQueue_pkg (s : State) (n q : Nat) (f : Queue → Queue) : (s.modQueue n q f).pkg = s.pkg := rfl
@[simp] theorem State.modQueue_timeRoot (s : State) (n q : Nat) (f : Queue → Queue) : (s.modQueue n q f).timeRoot = s.timeRoot := rfl
@[simp] theorem State.modQueue_parent (s : State) (n q : Nat) (f : Queue → Queue) : (s.modQueue n q f).parent = s.parent := rfl
@[simp] theorem State.modQueue_err (s : State) (n q : Nat) (f : Queue → Queue) : (s.modQueue n q f).err = s.err := rfl
@[simp] theorem State.modQueue_asym (s : State) (n q : Nat) (f : Queue → Queue) : (s.modQueue n q f).asym = s.asym := rfl
@[simp] theorem State.modQueue_holdover (s : State) (n q : Nat) (f : Queue → Queue) : (s.modQueue n q f).holdover = s.holdover := rfl
@[simp] theorem State.modQueue_slew (s : State) (n q : Nat) (f : Queue → Queue) : (s.modQueue n q f).slew = s.slew := rfl
@[simp] theorem State.modQueue_slewWait (s : State) (n q : Nat) (f : Queue → Queue) : (s.modQueue n q f).slewWait = s.slewWait := rfl
@[simp] theorem State.modQueue_lastExchange (s : State) (n q : Nat) (f : Queue → Queue) : (s.modQueue n q f).lastExchange = s.lastExchange := rfl
@[simp] theorem State.modQueue_bar0 (s : State) (n q : Nat) (f : Queue → Queue) : (s.modQueue n q f).bar0 = s.bar0 := rfl
@[simp] theorem State.modQueue_msix (s : State) (n q : Nat) (f : Queue → Queue) : (s.modQueue n q f).msix = s.msix := rfl
@[simp] theorem State.modQueue_hotDies (s : State) (n q : Nat) (f : Queue → Queue) : (s.modQueue n q f).hotDies = s.hotDies := rfl
@[simp] theorem State.modQueue_bootDigest (s : State) (n q : Nat) (f : Queue → Queue) : (s.modQueue n q f).bootDigest = s.bootDigest := rfl
@[simp] theorem State.modQueue_dramParams (s : State) (n q : Nat) (f : Queue → Queue) : (s.modQueue n q f).dramParams = s.dramParams := rfl
@[simp] theorem State.modQueue_lastServed (s : State) (n q : Nat) (f : Queue → Queue) : (s.modQueue n q f).lastServed = s.lastServed := rfl
@[simp] theorem State.modQueue_nextId (s : State) (n q : Nat) (f : Queue → Queue) : (s.modQueue n q f).nextId = s.nextId := rfl
@[simp] theorem State.modQueue_arrivals (s : State) (n q : Nat) (f : Queue → Queue) : (s.modQueue n q f).arrivals = s.arrivals := rfl
@[simp] theorem State.modQueue_fresh (s : State) (n q : Nat) (f : Queue → Queue) : (s.modQueue n q f).fresh = s.fresh := rfl
@[simp] theorem State.modQueue_me (s : State) (n q : Nat) (f : Queue → Queue) : (s.modQueue n q f).me = s.me := rfl
@[simp] theorem State.modQueue_agenda (s : State) (n q : Nat) (f : Queue → Queue) : (s.modQueue n q f).agenda = s.agenda := rfl

/-! `State.setPort` -/

@[simp] theorem State.setPort_threads (s : State) (p : Nat) (a : Port) : (s.setPort p a).threads = s.threads := rfl
@[simp] theorem State.setPort_cores (s : State) (p : Nat) (a : Port) : (s.setPort p a).cores = s.cores := rfl
@[simp] theorem State.setPort_tiles (s : State) (p : Nat) (a : Port) : (s.setPort p a).tiles = s.tiles := rfl
@[simp] theorem State.setPort_accs (s : State) (p : Nat) (a : Port) : (s.setPort p a).accs = s.accs := rfl
@[simp] theorem State.setPort_dram (s : State) (p : Nat) (a : Port) : (s.setPort p a).dram = s.dram := rfl
@[simp] theorem State.setPort_hostMem (s : State) (p : Nat) (a : Port) : (s.setPort p a).hostMem = s.hostMem := rfl
@[simp] theorem State.setPort_stations (s : State) (p : Nat) (a : Port) : (s.setPort p a).stations = s.stations := rfl
@[simp] theorem State.setPort_channels (s : State) (p : Nat) (a : Port) : (s.setPort p a).channels = s.channels := rfl
@[simp] theorem State.setPort_invals (s : State) (p : Nat) (a : Port) : (s.setPort p a).invals = s.invals := rfl
@[simp] theorem State.setPort_cues (s : State) (p : Nat) (a : Port) : (s.setPort p a).cues = s.cues := rfl
@[simp] theorem State.setPort_ctxs (s : State) (p : Nat) (a : Port) : (s.setPort p a).ctxs = s.ctxs := rfl
@[simp] theorem State.setPort_queues (s : State) (p : Nat) (a : Port) : (s.setPort p a).queues = s.queues := rfl
@[simp] theorem State.setPort_launches (s : State) (p : Nat) (a : Port) : (s.setPort p a).launches = s.launches := rfl
@[simp] theorem State.setPort_casts (s : State) (p : Nat) (a : Port) : (s.setPort p a).casts = s.casts := rfl
@[simp] theorem State.setPort_chainMsgs (s : State) (p : Nat) (a : Port) : (s.setPort p a).chainMsgs = s.chainMsgs := rfl
@[simp] theorem State.setPort_strips (s : State) (p : Nat) (a : Port) : (s.setPort p a).strips = s.strips := rfl
@[simp] theorem State.setPort_barMsgs (s : State) (p : Nat) (a : Port) : (s.setPort p a).barMsgs = s.barMsgs := rfl
@[simp] theorem State.setPort_routes (s : State) (p : Nat) (a : Port) : (s.setPort p a).routes = s.routes := rfl
@[simp] theorem State.setPort_inbox (s : State) (p : Nat) (a : Port) : (s.setPort p a).inbox = s.inbox := rfl
@[simp] theorem State.setPort_remLog (s : State) (p : Nat) (a : Port) : (s.setPort p a).remLog = s.remLog := rfl
@[simp] theorem State.setPort_opNum (s : State) (p : Nat) (a : Port) : (s.setPort p a).opNum = s.opNum := rfl
@[simp] theorem State.setPort_opsOut (s : State) (p : Nat) (a : Port) : (s.setPort p a).opsOut = s.opsOut := rfl
@[simp] theorem State.setPort_unsent (s : State) (p : Nat) (a : Port) : (s.setPort p a).unsent = s.unsent := rfl
@[simp] theorem State.setPort_time (s : State) (p : Nat) (a : Port) : (s.setPort p a).time = s.time := rfl
@[simp] theorem State.setPort_clock (s : State) (p : Nat) (a : Port) : (s.setPort p a).clock = s.clock := rfl
@[simp] theorem State.setPort_pkg (s : State) (p : Nat) (a : Port) : (s.setPort p a).pkg = s.pkg := rfl
@[simp] theorem State.setPort_timeRoot (s : State) (p : Nat) (a : Port) : (s.setPort p a).timeRoot = s.timeRoot := rfl
@[simp] theorem State.setPort_parent (s : State) (p : Nat) (a : Port) : (s.setPort p a).parent = s.parent := rfl
@[simp] theorem State.setPort_err (s : State) (p : Nat) (a : Port) : (s.setPort p a).err = s.err := rfl
@[simp] theorem State.setPort_asym (s : State) (p : Nat) (a : Port) : (s.setPort p a).asym = s.asym := rfl
@[simp] theorem State.setPort_holdover (s : State) (p : Nat) (a : Port) : (s.setPort p a).holdover = s.holdover := rfl
@[simp] theorem State.setPort_slew (s : State) (p : Nat) (a : Port) : (s.setPort p a).slew = s.slew := rfl
@[simp] theorem State.setPort_slewWait (s : State) (p : Nat) (a : Port) : (s.setPort p a).slewWait = s.slewWait := rfl
@[simp] theorem State.setPort_lastExchange (s : State) (p : Nat) (a : Port) : (s.setPort p a).lastExchange = s.lastExchange := rfl
@[simp] theorem State.setPort_bar0 (s : State) (p : Nat) (a : Port) : (s.setPort p a).bar0 = s.bar0 := rfl
@[simp] theorem State.setPort_msix (s : State) (p : Nat) (a : Port) : (s.setPort p a).msix = s.msix := rfl
@[simp] theorem State.setPort_hotDies (s : State) (p : Nat) (a : Port) : (s.setPort p a).hotDies = s.hotDies := rfl
@[simp] theorem State.setPort_bootDigest (s : State) (p : Nat) (a : Port) : (s.setPort p a).bootDigest = s.bootDigest := rfl
@[simp] theorem State.setPort_dramParams (s : State) (p : Nat) (a : Port) : (s.setPort p a).dramParams = s.dramParams := rfl
@[simp] theorem State.setPort_lastServed (s : State) (p : Nat) (a : Port) : (s.setPort p a).lastServed = s.lastServed := rfl
@[simp] theorem State.setPort_nextId (s : State) (p : Nat) (a : Port) : (s.setPort p a).nextId = s.nextId := rfl
@[simp] theorem State.setPort_arrivals (s : State) (p : Nat) (a : Port) : (s.setPort p a).arrivals = s.arrivals := rfl
@[simp] theorem State.setPort_fresh (s : State) (p : Nat) (a : Port) : (s.setPort p a).fresh = s.fresh := rfl
@[simp] theorem State.setPort_me (s : State) (p : Nat) (a : Port) : (s.setPort p a).me = s.me := rfl
@[simp] theorem State.setPort_agenda (s : State) (p : Nat) (a : Port) : (s.setPort p a).agenda = s.agenda := rfl

/-! `State.modPort` -/

@[simp] theorem State.modPort_threads (s : State) (p : Nat) (f : Port → Port) : (s.modPort p f).threads = s.threads := rfl
@[simp] theorem State.modPort_cores (s : State) (p : Nat) (f : Port → Port) : (s.modPort p f).cores = s.cores := rfl
@[simp] theorem State.modPort_tiles (s : State) (p : Nat) (f : Port → Port) : (s.modPort p f).tiles = s.tiles := rfl
@[simp] theorem State.modPort_accs (s : State) (p : Nat) (f : Port → Port) : (s.modPort p f).accs = s.accs := rfl
@[simp] theorem State.modPort_dram (s : State) (p : Nat) (f : Port → Port) : (s.modPort p f).dram = s.dram := rfl
@[simp] theorem State.modPort_hostMem (s : State) (p : Nat) (f : Port → Port) : (s.modPort p f).hostMem = s.hostMem := rfl
@[simp] theorem State.modPort_stations (s : State) (p : Nat) (f : Port → Port) : (s.modPort p f).stations = s.stations := rfl
@[simp] theorem State.modPort_channels (s : State) (p : Nat) (f : Port → Port) : (s.modPort p f).channels = s.channels := rfl
@[simp] theorem State.modPort_invals (s : State) (p : Nat) (f : Port → Port) : (s.modPort p f).invals = s.invals := rfl
@[simp] theorem State.modPort_cues (s : State) (p : Nat) (f : Port → Port) : (s.modPort p f).cues = s.cues := rfl
@[simp] theorem State.modPort_ctxs (s : State) (p : Nat) (f : Port → Port) : (s.modPort p f).ctxs = s.ctxs := rfl
@[simp] theorem State.modPort_queues (s : State) (p : Nat) (f : Port → Port) : (s.modPort p f).queues = s.queues := rfl
@[simp] theorem State.modPort_launches (s : State) (p : Nat) (f : Port → Port) : (s.modPort p f).launches = s.launches := rfl
@[simp] theorem State.modPort_casts (s : State) (p : Nat) (f : Port → Port) : (s.modPort p f).casts = s.casts := rfl
@[simp] theorem State.modPort_chainMsgs (s : State) (p : Nat) (f : Port → Port) : (s.modPort p f).chainMsgs = s.chainMsgs := rfl
@[simp] theorem State.modPort_strips (s : State) (p : Nat) (f : Port → Port) : (s.modPort p f).strips = s.strips := rfl
@[simp] theorem State.modPort_barMsgs (s : State) (p : Nat) (f : Port → Port) : (s.modPort p f).barMsgs = s.barMsgs := rfl
@[simp] theorem State.modPort_routes (s : State) (p : Nat) (f : Port → Port) : (s.modPort p f).routes = s.routes := rfl
@[simp] theorem State.modPort_inbox (s : State) (p : Nat) (f : Port → Port) : (s.modPort p f).inbox = s.inbox := rfl
@[simp] theorem State.modPort_remLog (s : State) (p : Nat) (f : Port → Port) : (s.modPort p f).remLog = s.remLog := rfl
@[simp] theorem State.modPort_opNum (s : State) (p : Nat) (f : Port → Port) : (s.modPort p f).opNum = s.opNum := rfl
@[simp] theorem State.modPort_opsOut (s : State) (p : Nat) (f : Port → Port) : (s.modPort p f).opsOut = s.opsOut := rfl
@[simp] theorem State.modPort_unsent (s : State) (p : Nat) (f : Port → Port) : (s.modPort p f).unsent = s.unsent := rfl
@[simp] theorem State.modPort_time (s : State) (p : Nat) (f : Port → Port) : (s.modPort p f).time = s.time := rfl
@[simp] theorem State.modPort_clock (s : State) (p : Nat) (f : Port → Port) : (s.modPort p f).clock = s.clock := rfl
@[simp] theorem State.modPort_pkg (s : State) (p : Nat) (f : Port → Port) : (s.modPort p f).pkg = s.pkg := rfl
@[simp] theorem State.modPort_timeRoot (s : State) (p : Nat) (f : Port → Port) : (s.modPort p f).timeRoot = s.timeRoot := rfl
@[simp] theorem State.modPort_parent (s : State) (p : Nat) (f : Port → Port) : (s.modPort p f).parent = s.parent := rfl
@[simp] theorem State.modPort_err (s : State) (p : Nat) (f : Port → Port) : (s.modPort p f).err = s.err := rfl
@[simp] theorem State.modPort_asym (s : State) (p : Nat) (f : Port → Port) : (s.modPort p f).asym = s.asym := rfl
@[simp] theorem State.modPort_holdover (s : State) (p : Nat) (f : Port → Port) : (s.modPort p f).holdover = s.holdover := rfl
@[simp] theorem State.modPort_slew (s : State) (p : Nat) (f : Port → Port) : (s.modPort p f).slew = s.slew := rfl
@[simp] theorem State.modPort_slewWait (s : State) (p : Nat) (f : Port → Port) : (s.modPort p f).slewWait = s.slewWait := rfl
@[simp] theorem State.modPort_lastExchange (s : State) (p : Nat) (f : Port → Port) : (s.modPort p f).lastExchange = s.lastExchange := rfl
@[simp] theorem State.modPort_bar0 (s : State) (p : Nat) (f : Port → Port) : (s.modPort p f).bar0 = s.bar0 := rfl
@[simp] theorem State.modPort_msix (s : State) (p : Nat) (f : Port → Port) : (s.modPort p f).msix = s.msix := rfl
@[simp] theorem State.modPort_hotDies (s : State) (p : Nat) (f : Port → Port) : (s.modPort p f).hotDies = s.hotDies := rfl
@[simp] theorem State.modPort_bootDigest (s : State) (p : Nat) (f : Port → Port) : (s.modPort p f).bootDigest = s.bootDigest := rfl
@[simp] theorem State.modPort_dramParams (s : State) (p : Nat) (f : Port → Port) : (s.modPort p f).dramParams = s.dramParams := rfl
@[simp] theorem State.modPort_lastServed (s : State) (p : Nat) (f : Port → Port) : (s.modPort p f).lastServed = s.lastServed := rfl
@[simp] theorem State.modPort_nextId (s : State) (p : Nat) (f : Port → Port) : (s.modPort p f).nextId = s.nextId := rfl
@[simp] theorem State.modPort_arrivals (s : State) (p : Nat) (f : Port → Port) : (s.modPort p f).arrivals = s.arrivals := rfl
@[simp] theorem State.modPort_fresh (s : State) (p : Nat) (f : Port → Port) : (s.modPort p f).fresh = s.fresh := rfl
@[simp] theorem State.modPort_me (s : State) (p : Nat) (f : Port → Port) : (s.modPort p f).me = s.me := rfl
@[simp] theorem State.modPort_agenda (s : State) (p : Nat) (f : Port → Port) : (s.modPort p f).agenda = s.agenda := rfl

/-! `State.setStation` -/

@[simp] theorem State.setStation_threads (s : State) (n : Nat) (a : Station) : (s.setStation n a).threads = s.threads := rfl
@[simp] theorem State.setStation_cores (s : State) (n : Nat) (a : Station) : (s.setStation n a).cores = s.cores := rfl
@[simp] theorem State.setStation_tiles (s : State) (n : Nat) (a : Station) : (s.setStation n a).tiles = s.tiles := rfl
@[simp] theorem State.setStation_accs (s : State) (n : Nat) (a : Station) : (s.setStation n a).accs = s.accs := rfl
@[simp] theorem State.setStation_dram (s : State) (n : Nat) (a : Station) : (s.setStation n a).dram = s.dram := rfl
@[simp] theorem State.setStation_hostMem (s : State) (n : Nat) (a : Station) : (s.setStation n a).hostMem = s.hostMem := rfl
@[simp] theorem State.setStation_channels (s : State) (n : Nat) (a : Station) : (s.setStation n a).channels = s.channels := rfl
@[simp] theorem State.setStation_invals (s : State) (n : Nat) (a : Station) : (s.setStation n a).invals = s.invals := rfl
@[simp] theorem State.setStation_cues (s : State) (n : Nat) (a : Station) : (s.setStation n a).cues = s.cues := rfl
@[simp] theorem State.setStation_ctxs (s : State) (n : Nat) (a : Station) : (s.setStation n a).ctxs = s.ctxs := rfl
@[simp] theorem State.setStation_queues (s : State) (n : Nat) (a : Station) : (s.setStation n a).queues = s.queues := rfl
@[simp] theorem State.setStation_launches (s : State) (n : Nat) (a : Station) : (s.setStation n a).launches = s.launches := rfl
@[simp] theorem State.setStation_casts (s : State) (n : Nat) (a : Station) : (s.setStation n a).casts = s.casts := rfl
@[simp] theorem State.setStation_chainMsgs (s : State) (n : Nat) (a : Station) : (s.setStation n a).chainMsgs = s.chainMsgs := rfl
@[simp] theorem State.setStation_strips (s : State) (n : Nat) (a : Station) : (s.setStation n a).strips = s.strips := rfl
@[simp] theorem State.setStation_barMsgs (s : State) (n : Nat) (a : Station) : (s.setStation n a).barMsgs = s.barMsgs := rfl
@[simp] theorem State.setStation_ports (s : State) (n : Nat) (a : Station) : (s.setStation n a).ports = s.ports := rfl
@[simp] theorem State.setStation_routes (s : State) (n : Nat) (a : Station) : (s.setStation n a).routes = s.routes := rfl
@[simp] theorem State.setStation_inbox (s : State) (n : Nat) (a : Station) : (s.setStation n a).inbox = s.inbox := rfl
@[simp] theorem State.setStation_remLog (s : State) (n : Nat) (a : Station) : (s.setStation n a).remLog = s.remLog := rfl
@[simp] theorem State.setStation_opNum (s : State) (n : Nat) (a : Station) : (s.setStation n a).opNum = s.opNum := rfl
@[simp] theorem State.setStation_opsOut (s : State) (n : Nat) (a : Station) : (s.setStation n a).opsOut = s.opsOut := rfl
@[simp] theorem State.setStation_unsent (s : State) (n : Nat) (a : Station) : (s.setStation n a).unsent = s.unsent := rfl
@[simp] theorem State.setStation_time (s : State) (n : Nat) (a : Station) : (s.setStation n a).time = s.time := rfl
@[simp] theorem State.setStation_clock (s : State) (n : Nat) (a : Station) : (s.setStation n a).clock = s.clock := rfl
@[simp] theorem State.setStation_pkg (s : State) (n : Nat) (a : Station) : (s.setStation n a).pkg = s.pkg := rfl
@[simp] theorem State.setStation_timeRoot (s : State) (n : Nat) (a : Station) : (s.setStation n a).timeRoot = s.timeRoot := rfl
@[simp] theorem State.setStation_parent (s : State) (n : Nat) (a : Station) : (s.setStation n a).parent = s.parent := rfl
@[simp] theorem State.setStation_err (s : State) (n : Nat) (a : Station) : (s.setStation n a).err = s.err := rfl
@[simp] theorem State.setStation_asym (s : State) (n : Nat) (a : Station) : (s.setStation n a).asym = s.asym := rfl
@[simp] theorem State.setStation_holdover (s : State) (n : Nat) (a : Station) : (s.setStation n a).holdover = s.holdover := rfl
@[simp] theorem State.setStation_slew (s : State) (n : Nat) (a : Station) : (s.setStation n a).slew = s.slew := rfl
@[simp] theorem State.setStation_slewWait (s : State) (n : Nat) (a : Station) : (s.setStation n a).slewWait = s.slewWait := rfl
@[simp] theorem State.setStation_lastExchange (s : State) (n : Nat) (a : Station) : (s.setStation n a).lastExchange = s.lastExchange := rfl
@[simp] theorem State.setStation_bar0 (s : State) (n : Nat) (a : Station) : (s.setStation n a).bar0 = s.bar0 := rfl
@[simp] theorem State.setStation_msix (s : State) (n : Nat) (a : Station) : (s.setStation n a).msix = s.msix := rfl
@[simp] theorem State.setStation_hotDies (s : State) (n : Nat) (a : Station) : (s.setStation n a).hotDies = s.hotDies := rfl
@[simp] theorem State.setStation_bootDigest (s : State) (n : Nat) (a : Station) : (s.setStation n a).bootDigest = s.bootDigest := rfl
@[simp] theorem State.setStation_dramParams (s : State) (n : Nat) (a : Station) : (s.setStation n a).dramParams = s.dramParams := rfl
@[simp] theorem State.setStation_lastServed (s : State) (n : Nat) (a : Station) : (s.setStation n a).lastServed = s.lastServed := rfl
@[simp] theorem State.setStation_nextId (s : State) (n : Nat) (a : Station) : (s.setStation n a).nextId = s.nextId := rfl
@[simp] theorem State.setStation_arrivals (s : State) (n : Nat) (a : Station) : (s.setStation n a).arrivals = s.arrivals := rfl
@[simp] theorem State.setStation_fresh (s : State) (n : Nat) (a : Station) : (s.setStation n a).fresh = s.fresh := rfl
@[simp] theorem State.setStation_me (s : State) (n : Nat) (a : Station) : (s.setStation n a).me = s.me := rfl
@[simp] theorem State.setStation_agenda (s : State) (n : Nat) (a : Station) : (s.setStation n a).agenda = s.agenda := rfl

/-! `State.setChannel` -/

@[simp] theorem State.setChannel_threads (s : State) (n : Nat) (a : Channel) : (s.setChannel n a).threads = s.threads := rfl
@[simp] theorem State.setChannel_cores (s : State) (n : Nat) (a : Channel) : (s.setChannel n a).cores = s.cores := rfl
@[simp] theorem State.setChannel_tiles (s : State) (n : Nat) (a : Channel) : (s.setChannel n a).tiles = s.tiles := rfl
@[simp] theorem State.setChannel_accs (s : State) (n : Nat) (a : Channel) : (s.setChannel n a).accs = s.accs := rfl
@[simp] theorem State.setChannel_dram (s : State) (n : Nat) (a : Channel) : (s.setChannel n a).dram = s.dram := rfl
@[simp] theorem State.setChannel_hostMem (s : State) (n : Nat) (a : Channel) : (s.setChannel n a).hostMem = s.hostMem := rfl
@[simp] theorem State.setChannel_stations (s : State) (n : Nat) (a : Channel) : (s.setChannel n a).stations = s.stations := rfl
@[simp] theorem State.setChannel_invals (s : State) (n : Nat) (a : Channel) : (s.setChannel n a).invals = s.invals := rfl
@[simp] theorem State.setChannel_cues (s : State) (n : Nat) (a : Channel) : (s.setChannel n a).cues = s.cues := rfl
@[simp] theorem State.setChannel_ctxs (s : State) (n : Nat) (a : Channel) : (s.setChannel n a).ctxs = s.ctxs := rfl
@[simp] theorem State.setChannel_queues (s : State) (n : Nat) (a : Channel) : (s.setChannel n a).queues = s.queues := rfl
@[simp] theorem State.setChannel_launches (s : State) (n : Nat) (a : Channel) : (s.setChannel n a).launches = s.launches := rfl
@[simp] theorem State.setChannel_casts (s : State) (n : Nat) (a : Channel) : (s.setChannel n a).casts = s.casts := rfl
@[simp] theorem State.setChannel_chainMsgs (s : State) (n : Nat) (a : Channel) : (s.setChannel n a).chainMsgs = s.chainMsgs := rfl
@[simp] theorem State.setChannel_strips (s : State) (n : Nat) (a : Channel) : (s.setChannel n a).strips = s.strips := rfl
@[simp] theorem State.setChannel_barMsgs (s : State) (n : Nat) (a : Channel) : (s.setChannel n a).barMsgs = s.barMsgs := rfl
@[simp] theorem State.setChannel_ports (s : State) (n : Nat) (a : Channel) : (s.setChannel n a).ports = s.ports := rfl
@[simp] theorem State.setChannel_routes (s : State) (n : Nat) (a : Channel) : (s.setChannel n a).routes = s.routes := rfl
@[simp] theorem State.setChannel_inbox (s : State) (n : Nat) (a : Channel) : (s.setChannel n a).inbox = s.inbox := rfl
@[simp] theorem State.setChannel_remLog (s : State) (n : Nat) (a : Channel) : (s.setChannel n a).remLog = s.remLog := rfl
@[simp] theorem State.setChannel_opNum (s : State) (n : Nat) (a : Channel) : (s.setChannel n a).opNum = s.opNum := rfl
@[simp] theorem State.setChannel_opsOut (s : State) (n : Nat) (a : Channel) : (s.setChannel n a).opsOut = s.opsOut := rfl
@[simp] theorem State.setChannel_unsent (s : State) (n : Nat) (a : Channel) : (s.setChannel n a).unsent = s.unsent := rfl
@[simp] theorem State.setChannel_time (s : State) (n : Nat) (a : Channel) : (s.setChannel n a).time = s.time := rfl
@[simp] theorem State.setChannel_clock (s : State) (n : Nat) (a : Channel) : (s.setChannel n a).clock = s.clock := rfl
@[simp] theorem State.setChannel_pkg (s : State) (n : Nat) (a : Channel) : (s.setChannel n a).pkg = s.pkg := rfl
@[simp] theorem State.setChannel_timeRoot (s : State) (n : Nat) (a : Channel) : (s.setChannel n a).timeRoot = s.timeRoot := rfl
@[simp] theorem State.setChannel_parent (s : State) (n : Nat) (a : Channel) : (s.setChannel n a).parent = s.parent := rfl
@[simp] theorem State.setChannel_err (s : State) (n : Nat) (a : Channel) : (s.setChannel n a).err = s.err := rfl
@[simp] theorem State.setChannel_asym (s : State) (n : Nat) (a : Channel) : (s.setChannel n a).asym = s.asym := rfl
@[simp] theorem State.setChannel_holdover (s : State) (n : Nat) (a : Channel) : (s.setChannel n a).holdover = s.holdover := rfl
@[simp] theorem State.setChannel_slew (s : State) (n : Nat) (a : Channel) : (s.setChannel n a).slew = s.slew := rfl
@[simp] theorem State.setChannel_slewWait (s : State) (n : Nat) (a : Channel) : (s.setChannel n a).slewWait = s.slewWait := rfl
@[simp] theorem State.setChannel_lastExchange (s : State) (n : Nat) (a : Channel) : (s.setChannel n a).lastExchange = s.lastExchange := rfl
@[simp] theorem State.setChannel_bar0 (s : State) (n : Nat) (a : Channel) : (s.setChannel n a).bar0 = s.bar0 := rfl
@[simp] theorem State.setChannel_msix (s : State) (n : Nat) (a : Channel) : (s.setChannel n a).msix = s.msix := rfl
@[simp] theorem State.setChannel_hotDies (s : State) (n : Nat) (a : Channel) : (s.setChannel n a).hotDies = s.hotDies := rfl
@[simp] theorem State.setChannel_bootDigest (s : State) (n : Nat) (a : Channel) : (s.setChannel n a).bootDigest = s.bootDigest := rfl
@[simp] theorem State.setChannel_dramParams (s : State) (n : Nat) (a : Channel) : (s.setChannel n a).dramParams = s.dramParams := rfl
@[simp] theorem State.setChannel_lastServed (s : State) (n : Nat) (a : Channel) : (s.setChannel n a).lastServed = s.lastServed := rfl
@[simp] theorem State.setChannel_nextId (s : State) (n : Nat) (a : Channel) : (s.setChannel n a).nextId = s.nextId := rfl
@[simp] theorem State.setChannel_arrivals (s : State) (n : Nat) (a : Channel) : (s.setChannel n a).arrivals = s.arrivals := rfl
@[simp] theorem State.setChannel_fresh (s : State) (n : Nat) (a : Channel) : (s.setChannel n a).fresh = s.fresh := rfl
@[simp] theorem State.setChannel_me (s : State) (n : Nat) (a : Channel) : (s.setChannel n a).me = s.me := rfl
@[simp] theorem State.setChannel_agenda (s : State) (n : Nat) (a : Channel) : (s.setChannel n a).agenda = s.agenda := rfl

/-! `State.modLaunch` -/

@[simp] theorem State.modLaunch_threads (s : State) (l : LaunchId) (f : Launch → Launch) : (s.modLaunch l f).threads = s.threads := rfl
@[simp] theorem State.modLaunch_cores (s : State) (l : LaunchId) (f : Launch → Launch) : (s.modLaunch l f).cores = s.cores := rfl
@[simp] theorem State.modLaunch_tiles (s : State) (l : LaunchId) (f : Launch → Launch) : (s.modLaunch l f).tiles = s.tiles := rfl
@[simp] theorem State.modLaunch_accs (s : State) (l : LaunchId) (f : Launch → Launch) : (s.modLaunch l f).accs = s.accs := rfl
@[simp] theorem State.modLaunch_dram (s : State) (l : LaunchId) (f : Launch → Launch) : (s.modLaunch l f).dram = s.dram := rfl
@[simp] theorem State.modLaunch_hostMem (s : State) (l : LaunchId) (f : Launch → Launch) : (s.modLaunch l f).hostMem = s.hostMem := rfl
@[simp] theorem State.modLaunch_stations (s : State) (l : LaunchId) (f : Launch → Launch) : (s.modLaunch l f).stations = s.stations := rfl
@[simp] theorem State.modLaunch_channels (s : State) (l : LaunchId) (f : Launch → Launch) : (s.modLaunch l f).channels = s.channels := rfl
@[simp] theorem State.modLaunch_invals (s : State) (l : LaunchId) (f : Launch → Launch) : (s.modLaunch l f).invals = s.invals := rfl
@[simp] theorem State.modLaunch_cues (s : State) (l : LaunchId) (f : Launch → Launch) : (s.modLaunch l f).cues = s.cues := rfl
@[simp] theorem State.modLaunch_ctxs (s : State) (l : LaunchId) (f : Launch → Launch) : (s.modLaunch l f).ctxs = s.ctxs := rfl
@[simp] theorem State.modLaunch_queues (s : State) (l : LaunchId) (f : Launch → Launch) : (s.modLaunch l f).queues = s.queues := rfl
@[simp] theorem State.modLaunch_casts (s : State) (l : LaunchId) (f : Launch → Launch) : (s.modLaunch l f).casts = s.casts := rfl
@[simp] theorem State.modLaunch_chainMsgs (s : State) (l : LaunchId) (f : Launch → Launch) : (s.modLaunch l f).chainMsgs = s.chainMsgs := rfl
@[simp] theorem State.modLaunch_strips (s : State) (l : LaunchId) (f : Launch → Launch) : (s.modLaunch l f).strips = s.strips := rfl
@[simp] theorem State.modLaunch_barMsgs (s : State) (l : LaunchId) (f : Launch → Launch) : (s.modLaunch l f).barMsgs = s.barMsgs := rfl
@[simp] theorem State.modLaunch_ports (s : State) (l : LaunchId) (f : Launch → Launch) : (s.modLaunch l f).ports = s.ports := rfl
@[simp] theorem State.modLaunch_routes (s : State) (l : LaunchId) (f : Launch → Launch) : (s.modLaunch l f).routes = s.routes := rfl
@[simp] theorem State.modLaunch_inbox (s : State) (l : LaunchId) (f : Launch → Launch) : (s.modLaunch l f).inbox = s.inbox := rfl
@[simp] theorem State.modLaunch_remLog (s : State) (l : LaunchId) (f : Launch → Launch) : (s.modLaunch l f).remLog = s.remLog := rfl
@[simp] theorem State.modLaunch_opNum (s : State) (l : LaunchId) (f : Launch → Launch) : (s.modLaunch l f).opNum = s.opNum := rfl
@[simp] theorem State.modLaunch_opsOut (s : State) (l : LaunchId) (f : Launch → Launch) : (s.modLaunch l f).opsOut = s.opsOut := rfl
@[simp] theorem State.modLaunch_unsent (s : State) (l : LaunchId) (f : Launch → Launch) : (s.modLaunch l f).unsent = s.unsent := rfl
@[simp] theorem State.modLaunch_time (s : State) (l : LaunchId) (f : Launch → Launch) : (s.modLaunch l f).time = s.time := rfl
@[simp] theorem State.modLaunch_clock (s : State) (l : LaunchId) (f : Launch → Launch) : (s.modLaunch l f).clock = s.clock := rfl
@[simp] theorem State.modLaunch_pkg (s : State) (l : LaunchId) (f : Launch → Launch) : (s.modLaunch l f).pkg = s.pkg := rfl
@[simp] theorem State.modLaunch_timeRoot (s : State) (l : LaunchId) (f : Launch → Launch) : (s.modLaunch l f).timeRoot = s.timeRoot := rfl
@[simp] theorem State.modLaunch_parent (s : State) (l : LaunchId) (f : Launch → Launch) : (s.modLaunch l f).parent = s.parent := rfl
@[simp] theorem State.modLaunch_err (s : State) (l : LaunchId) (f : Launch → Launch) : (s.modLaunch l f).err = s.err := rfl
@[simp] theorem State.modLaunch_asym (s : State) (l : LaunchId) (f : Launch → Launch) : (s.modLaunch l f).asym = s.asym := rfl
@[simp] theorem State.modLaunch_holdover (s : State) (l : LaunchId) (f : Launch → Launch) : (s.modLaunch l f).holdover = s.holdover := rfl
@[simp] theorem State.modLaunch_slew (s : State) (l : LaunchId) (f : Launch → Launch) : (s.modLaunch l f).slew = s.slew := rfl
@[simp] theorem State.modLaunch_slewWait (s : State) (l : LaunchId) (f : Launch → Launch) : (s.modLaunch l f).slewWait = s.slewWait := rfl
@[simp] theorem State.modLaunch_lastExchange (s : State) (l : LaunchId) (f : Launch → Launch) : (s.modLaunch l f).lastExchange = s.lastExchange := rfl
@[simp] theorem State.modLaunch_bar0 (s : State) (l : LaunchId) (f : Launch → Launch) : (s.modLaunch l f).bar0 = s.bar0 := rfl
@[simp] theorem State.modLaunch_msix (s : State) (l : LaunchId) (f : Launch → Launch) : (s.modLaunch l f).msix = s.msix := rfl
@[simp] theorem State.modLaunch_hotDies (s : State) (l : LaunchId) (f : Launch → Launch) : (s.modLaunch l f).hotDies = s.hotDies := rfl
@[simp] theorem State.modLaunch_bootDigest (s : State) (l : LaunchId) (f : Launch → Launch) : (s.modLaunch l f).bootDigest = s.bootDigest := rfl
@[simp] theorem State.modLaunch_dramParams (s : State) (l : LaunchId) (f : Launch → Launch) : (s.modLaunch l f).dramParams = s.dramParams := rfl
@[simp] theorem State.modLaunch_lastServed (s : State) (l : LaunchId) (f : Launch → Launch) : (s.modLaunch l f).lastServed = s.lastServed := rfl
@[simp] theorem State.modLaunch_nextId (s : State) (l : LaunchId) (f : Launch → Launch) : (s.modLaunch l f).nextId = s.nextId := rfl
@[simp] theorem State.modLaunch_arrivals (s : State) (l : LaunchId) (f : Launch → Launch) : (s.modLaunch l f).arrivals = s.arrivals := rfl
@[simp] theorem State.modLaunch_fresh (s : State) (l : LaunchId) (f : Launch → Launch) : (s.modLaunch l f).fresh = s.fresh := rfl
@[simp] theorem State.modLaunch_me (s : State) (l : LaunchId) (f : Launch → Launch) : (s.modLaunch l f).me = s.me := rfl
@[simp] theorem State.modLaunch_agenda (s : State) (l : LaunchId) (f : Launch → Launch) : (s.modLaunch l f).agenda = s.agenda := rfl

/-! `State.modAcc` -/

@[simp] theorem State.modAcc_threads (s : State) (n : Nat) (f : Access → Access) : (s.modAcc n f).threads = s.threads := rfl
@[simp] theorem State.modAcc_cores (s : State) (n : Nat) (f : Access → Access) : (s.modAcc n f).cores = s.cores := rfl
@[simp] theorem State.modAcc_tiles (s : State) (n : Nat) (f : Access → Access) : (s.modAcc n f).tiles = s.tiles := rfl
@[simp] theorem State.modAcc_dram (s : State) (n : Nat) (f : Access → Access) : (s.modAcc n f).dram = s.dram := rfl
@[simp] theorem State.modAcc_hostMem (s : State) (n : Nat) (f : Access → Access) : (s.modAcc n f).hostMem = s.hostMem := rfl
@[simp] theorem State.modAcc_stations (s : State) (n : Nat) (f : Access → Access) : (s.modAcc n f).stations = s.stations := rfl
@[simp] theorem State.modAcc_channels (s : State) (n : Nat) (f : Access → Access) : (s.modAcc n f).channels = s.channels := rfl
@[simp] theorem State.modAcc_invals (s : State) (n : Nat) (f : Access → Access) : (s.modAcc n f).invals = s.invals := rfl
@[simp] theorem State.modAcc_cues (s : State) (n : Nat) (f : Access → Access) : (s.modAcc n f).cues = s.cues := rfl
@[simp] theorem State.modAcc_ctxs (s : State) (n : Nat) (f : Access → Access) : (s.modAcc n f).ctxs = s.ctxs := rfl
@[simp] theorem State.modAcc_queues (s : State) (n : Nat) (f : Access → Access) : (s.modAcc n f).queues = s.queues := rfl
@[simp] theorem State.modAcc_launches (s : State) (n : Nat) (f : Access → Access) : (s.modAcc n f).launches = s.launches := rfl
@[simp] theorem State.modAcc_casts (s : State) (n : Nat) (f : Access → Access) : (s.modAcc n f).casts = s.casts := rfl
@[simp] theorem State.modAcc_chainMsgs (s : State) (n : Nat) (f : Access → Access) : (s.modAcc n f).chainMsgs = s.chainMsgs := rfl
@[simp] theorem State.modAcc_strips (s : State) (n : Nat) (f : Access → Access) : (s.modAcc n f).strips = s.strips := rfl
@[simp] theorem State.modAcc_barMsgs (s : State) (n : Nat) (f : Access → Access) : (s.modAcc n f).barMsgs = s.barMsgs := rfl
@[simp] theorem State.modAcc_ports (s : State) (n : Nat) (f : Access → Access) : (s.modAcc n f).ports = s.ports := rfl
@[simp] theorem State.modAcc_routes (s : State) (n : Nat) (f : Access → Access) : (s.modAcc n f).routes = s.routes := rfl
@[simp] theorem State.modAcc_inbox (s : State) (n : Nat) (f : Access → Access) : (s.modAcc n f).inbox = s.inbox := rfl
@[simp] theorem State.modAcc_remLog (s : State) (n : Nat) (f : Access → Access) : (s.modAcc n f).remLog = s.remLog := rfl
@[simp] theorem State.modAcc_opNum (s : State) (n : Nat) (f : Access → Access) : (s.modAcc n f).opNum = s.opNum := rfl
@[simp] theorem State.modAcc_opsOut (s : State) (n : Nat) (f : Access → Access) : (s.modAcc n f).opsOut = s.opsOut := rfl
@[simp] theorem State.modAcc_unsent (s : State) (n : Nat) (f : Access → Access) : (s.modAcc n f).unsent = s.unsent := rfl
@[simp] theorem State.modAcc_time (s : State) (n : Nat) (f : Access → Access) : (s.modAcc n f).time = s.time := rfl
@[simp] theorem State.modAcc_clock (s : State) (n : Nat) (f : Access → Access) : (s.modAcc n f).clock = s.clock := rfl
@[simp] theorem State.modAcc_pkg (s : State) (n : Nat) (f : Access → Access) : (s.modAcc n f).pkg = s.pkg := rfl
@[simp] theorem State.modAcc_timeRoot (s : State) (n : Nat) (f : Access → Access) : (s.modAcc n f).timeRoot = s.timeRoot := rfl
@[simp] theorem State.modAcc_parent (s : State) (n : Nat) (f : Access → Access) : (s.modAcc n f).parent = s.parent := rfl
@[simp] theorem State.modAcc_err (s : State) (n : Nat) (f : Access → Access) : (s.modAcc n f).err = s.err := rfl
@[simp] theorem State.modAcc_asym (s : State) (n : Nat) (f : Access → Access) : (s.modAcc n f).asym = s.asym := rfl
@[simp] theorem State.modAcc_holdover (s : State) (n : Nat) (f : Access → Access) : (s.modAcc n f).holdover = s.holdover := rfl
@[simp] theorem State.modAcc_slew (s : State) (n : Nat) (f : Access → Access) : (s.modAcc n f).slew = s.slew := rfl
@[simp] theorem State.modAcc_slewWait (s : State) (n : Nat) (f : Access → Access) : (s.modAcc n f).slewWait = s.slewWait := rfl
@[simp] theorem State.modAcc_lastExchange (s : State) (n : Nat) (f : Access → Access) : (s.modAcc n f).lastExchange = s.lastExchange := rfl
@[simp] theorem State.modAcc_bar0 (s : State) (n : Nat) (f : Access → Access) : (s.modAcc n f).bar0 = s.bar0 := rfl
@[simp] theorem State.modAcc_msix (s : State) (n : Nat) (f : Access → Access) : (s.modAcc n f).msix = s.msix := rfl
@[simp] theorem State.modAcc_hotDies (s : State) (n : Nat) (f : Access → Access) : (s.modAcc n f).hotDies = s.hotDies := rfl
@[simp] theorem State.modAcc_bootDigest (s : State) (n : Nat) (f : Access → Access) : (s.modAcc n f).bootDigest = s.bootDigest := rfl
@[simp] theorem State.modAcc_dramParams (s : State) (n : Nat) (f : Access → Access) : (s.modAcc n f).dramParams = s.dramParams := rfl
@[simp] theorem State.modAcc_lastServed (s : State) (n : Nat) (f : Access → Access) : (s.modAcc n f).lastServed = s.lastServed := rfl
@[simp] theorem State.modAcc_nextId (s : State) (n : Nat) (f : Access → Access) : (s.modAcc n f).nextId = s.nextId := rfl
@[simp] theorem State.modAcc_arrivals (s : State) (n : Nat) (f : Access → Access) : (s.modAcc n f).arrivals = s.arrivals := rfl
@[simp] theorem State.modAcc_fresh (s : State) (n : Nat) (f : Access → Access) : (s.modAcc n f).fresh = s.fresh := rfl
@[simp] theorem State.modAcc_me (s : State) (n : Nat) (f : Access → Access) : (s.modAcc n f).me = s.me := rfl
@[simp] theorem State.modAcc_agenda (s : State) (n : Nat) (f : Access → Access) : (s.modAcc n f).agenda = s.agenda := rfl

/-! `State.dropAcc` -/

@[simp] theorem State.dropAcc_threads (s : State) (n : Nat) : (s.dropAcc n).threads = s.threads := rfl
@[simp] theorem State.dropAcc_cores (s : State) (n : Nat) : (s.dropAcc n).cores = s.cores := rfl
@[simp] theorem State.dropAcc_tiles (s : State) (n : Nat) : (s.dropAcc n).tiles = s.tiles := rfl
@[simp] theorem State.dropAcc_dram (s : State) (n : Nat) : (s.dropAcc n).dram = s.dram := rfl
@[simp] theorem State.dropAcc_hostMem (s : State) (n : Nat) : (s.dropAcc n).hostMem = s.hostMem := rfl
@[simp] theorem State.dropAcc_stations (s : State) (n : Nat) : (s.dropAcc n).stations = s.stations := rfl
@[simp] theorem State.dropAcc_channels (s : State) (n : Nat) : (s.dropAcc n).channels = s.channels := rfl
@[simp] theorem State.dropAcc_invals (s : State) (n : Nat) : (s.dropAcc n).invals = s.invals := rfl
@[simp] theorem State.dropAcc_cues (s : State) (n : Nat) : (s.dropAcc n).cues = s.cues := rfl
@[simp] theorem State.dropAcc_ctxs (s : State) (n : Nat) : (s.dropAcc n).ctxs = s.ctxs := rfl
@[simp] theorem State.dropAcc_queues (s : State) (n : Nat) : (s.dropAcc n).queues = s.queues := rfl
@[simp] theorem State.dropAcc_launches (s : State) (n : Nat) : (s.dropAcc n).launches = s.launches := rfl
@[simp] theorem State.dropAcc_casts (s : State) (n : Nat) : (s.dropAcc n).casts = s.casts := rfl
@[simp] theorem State.dropAcc_chainMsgs (s : State) (n : Nat) : (s.dropAcc n).chainMsgs = s.chainMsgs := rfl
@[simp] theorem State.dropAcc_strips (s : State) (n : Nat) : (s.dropAcc n).strips = s.strips := rfl
@[simp] theorem State.dropAcc_barMsgs (s : State) (n : Nat) : (s.dropAcc n).barMsgs = s.barMsgs := rfl
@[simp] theorem State.dropAcc_ports (s : State) (n : Nat) : (s.dropAcc n).ports = s.ports := rfl
@[simp] theorem State.dropAcc_routes (s : State) (n : Nat) : (s.dropAcc n).routes = s.routes := rfl
@[simp] theorem State.dropAcc_inbox (s : State) (n : Nat) : (s.dropAcc n).inbox = s.inbox := rfl
@[simp] theorem State.dropAcc_remLog (s : State) (n : Nat) : (s.dropAcc n).remLog = s.remLog := rfl
@[simp] theorem State.dropAcc_opNum (s : State) (n : Nat) : (s.dropAcc n).opNum = s.opNum := rfl
@[simp] theorem State.dropAcc_opsOut (s : State) (n : Nat) : (s.dropAcc n).opsOut = s.opsOut := rfl
@[simp] theorem State.dropAcc_unsent (s : State) (n : Nat) : (s.dropAcc n).unsent = s.unsent := rfl
@[simp] theorem State.dropAcc_time (s : State) (n : Nat) : (s.dropAcc n).time = s.time := rfl
@[simp] theorem State.dropAcc_clock (s : State) (n : Nat) : (s.dropAcc n).clock = s.clock := rfl
@[simp] theorem State.dropAcc_pkg (s : State) (n : Nat) : (s.dropAcc n).pkg = s.pkg := rfl
@[simp] theorem State.dropAcc_timeRoot (s : State) (n : Nat) : (s.dropAcc n).timeRoot = s.timeRoot := rfl
@[simp] theorem State.dropAcc_parent (s : State) (n : Nat) : (s.dropAcc n).parent = s.parent := rfl
@[simp] theorem State.dropAcc_err (s : State) (n : Nat) : (s.dropAcc n).err = s.err := rfl
@[simp] theorem State.dropAcc_asym (s : State) (n : Nat) : (s.dropAcc n).asym = s.asym := rfl
@[simp] theorem State.dropAcc_holdover (s : State) (n : Nat) : (s.dropAcc n).holdover = s.holdover := rfl
@[simp] theorem State.dropAcc_slew (s : State) (n : Nat) : (s.dropAcc n).slew = s.slew := rfl
@[simp] theorem State.dropAcc_slewWait (s : State) (n : Nat) : (s.dropAcc n).slewWait = s.slewWait := rfl
@[simp] theorem State.dropAcc_lastExchange (s : State) (n : Nat) : (s.dropAcc n).lastExchange = s.lastExchange := rfl
@[simp] theorem State.dropAcc_bar0 (s : State) (n : Nat) : (s.dropAcc n).bar0 = s.bar0 := rfl
@[simp] theorem State.dropAcc_msix (s : State) (n : Nat) : (s.dropAcc n).msix = s.msix := rfl
@[simp] theorem State.dropAcc_hotDies (s : State) (n : Nat) : (s.dropAcc n).hotDies = s.hotDies := rfl
@[simp] theorem State.dropAcc_bootDigest (s : State) (n : Nat) : (s.dropAcc n).bootDigest = s.bootDigest := rfl
@[simp] theorem State.dropAcc_dramParams (s : State) (n : Nat) : (s.dropAcc n).dramParams = s.dramParams := rfl
@[simp] theorem State.dropAcc_lastServed (s : State) (n : Nat) : (s.dropAcc n).lastServed = s.lastServed := rfl
@[simp] theorem State.dropAcc_nextId (s : State) (n : Nat) : (s.dropAcc n).nextId = s.nextId := rfl
@[simp] theorem State.dropAcc_arrivals (s : State) (n : Nat) : (s.dropAcc n).arrivals = s.arrivals := rfl
@[simp] theorem State.dropAcc_fresh (s : State) (n : Nat) : (s.dropAcc n).fresh = s.fresh := rfl
@[simp] theorem State.dropAcc_me (s : State) (n : Nat) : (s.dropAcc n).me = s.me := rfl
@[simp] theorem State.dropAcc_agenda (s : State) (n : Nat) : (s.dropAcc n).agenda = s.agenda := rfl

/-! `State.finishAt` -/

@[simp] theorem State.finishAt_cores (s : State) (pc : Word) : (s.finishAt pc).cores = s.cores := rfl
@[simp] theorem State.finishAt_tiles (s : State) (pc : Word) : (s.finishAt pc).tiles = s.tiles := rfl
@[simp] theorem State.finishAt_accs (s : State) (pc : Word) : (s.finishAt pc).accs = s.accs := rfl
@[simp] theorem State.finishAt_dram (s : State) (pc : Word) : (s.finishAt pc).dram = s.dram := rfl
@[simp] theorem State.finishAt_hostMem (s : State) (pc : Word) : (s.finishAt pc).hostMem = s.hostMem := rfl
@[simp] theorem State.finishAt_stations (s : State) (pc : Word) : (s.finishAt pc).stations = s.stations := rfl
@[simp] theorem State.finishAt_channels (s : State) (pc : Word) : (s.finishAt pc).channels = s.channels := rfl
@[simp] theorem State.finishAt_invals (s : State) (pc : Word) : (s.finishAt pc).invals = s.invals := rfl
@[simp] theorem State.finishAt_cues (s : State) (pc : Word) : (s.finishAt pc).cues = s.cues := rfl
@[simp] theorem State.finishAt_ctxs (s : State) (pc : Word) : (s.finishAt pc).ctxs = s.ctxs := rfl
@[simp] theorem State.finishAt_queues (s : State) (pc : Word) : (s.finishAt pc).queues = s.queues := rfl
@[simp] theorem State.finishAt_launches (s : State) (pc : Word) : (s.finishAt pc).launches = s.launches := rfl
@[simp] theorem State.finishAt_casts (s : State) (pc : Word) : (s.finishAt pc).casts = s.casts := rfl
@[simp] theorem State.finishAt_chainMsgs (s : State) (pc : Word) : (s.finishAt pc).chainMsgs = s.chainMsgs := rfl
@[simp] theorem State.finishAt_strips (s : State) (pc : Word) : (s.finishAt pc).strips = s.strips := rfl
@[simp] theorem State.finishAt_barMsgs (s : State) (pc : Word) : (s.finishAt pc).barMsgs = s.barMsgs := rfl
@[simp] theorem State.finishAt_ports (s : State) (pc : Word) : (s.finishAt pc).ports = s.ports := rfl
@[simp] theorem State.finishAt_routes (s : State) (pc : Word) : (s.finishAt pc).routes = s.routes := rfl
@[simp] theorem State.finishAt_inbox (s : State) (pc : Word) : (s.finishAt pc).inbox = s.inbox := rfl
@[simp] theorem State.finishAt_remLog (s : State) (pc : Word) : (s.finishAt pc).remLog = s.remLog := rfl
@[simp] theorem State.finishAt_opNum (s : State) (pc : Word) : (s.finishAt pc).opNum = s.opNum := rfl
@[simp] theorem State.finishAt_opsOut (s : State) (pc : Word) : (s.finishAt pc).opsOut = s.opsOut := rfl
@[simp] theorem State.finishAt_unsent (s : State) (pc : Word) : (s.finishAt pc).unsent = s.unsent := rfl
@[simp] theorem State.finishAt_time (s : State) (pc : Word) : (s.finishAt pc).time = s.time := rfl
@[simp] theorem State.finishAt_clock (s : State) (pc : Word) : (s.finishAt pc).clock = s.clock := rfl
@[simp] theorem State.finishAt_pkg (s : State) (pc : Word) : (s.finishAt pc).pkg = s.pkg := rfl
@[simp] theorem State.finishAt_timeRoot (s : State) (pc : Word) : (s.finishAt pc).timeRoot = s.timeRoot := rfl
@[simp] theorem State.finishAt_parent (s : State) (pc : Word) : (s.finishAt pc).parent = s.parent := rfl
@[simp] theorem State.finishAt_err (s : State) (pc : Word) : (s.finishAt pc).err = s.err := rfl
@[simp] theorem State.finishAt_asym (s : State) (pc : Word) : (s.finishAt pc).asym = s.asym := rfl
@[simp] theorem State.finishAt_holdover (s : State) (pc : Word) : (s.finishAt pc).holdover = s.holdover := rfl
@[simp] theorem State.finishAt_slew (s : State) (pc : Word) : (s.finishAt pc).slew = s.slew := rfl
@[simp] theorem State.finishAt_slewWait (s : State) (pc : Word) : (s.finishAt pc).slewWait = s.slewWait := rfl
@[simp] theorem State.finishAt_lastExchange (s : State) (pc : Word) : (s.finishAt pc).lastExchange = s.lastExchange := rfl
@[simp] theorem State.finishAt_bar0 (s : State) (pc : Word) : (s.finishAt pc).bar0 = s.bar0 := rfl
@[simp] theorem State.finishAt_msix (s : State) (pc : Word) : (s.finishAt pc).msix = s.msix := rfl
@[simp] theorem State.finishAt_hotDies (s : State) (pc : Word) : (s.finishAt pc).hotDies = s.hotDies := rfl
@[simp] theorem State.finishAt_bootDigest (s : State) (pc : Word) : (s.finishAt pc).bootDigest = s.bootDigest := rfl
@[simp] theorem State.finishAt_dramParams (s : State) (pc : Word) : (s.finishAt pc).dramParams = s.dramParams := rfl
@[simp] theorem State.finishAt_lastServed (s : State) (pc : Word) : (s.finishAt pc).lastServed = s.lastServed := rfl
@[simp] theorem State.finishAt_nextId (s : State) (pc : Word) : (s.finishAt pc).nextId = s.nextId := rfl
@[simp] theorem State.finishAt_arrivals (s : State) (pc : Word) : (s.finishAt pc).arrivals = s.arrivals := rfl
@[simp] theorem State.finishAt_fresh (s : State) (pc : Word) : (s.finishAt pc).fresh = s.fresh := rfl
@[simp] theorem State.finishAt_me (s : State) (pc : Word) : (s.finishAt pc).me = s.me := rfl
@[simp] theorem State.finishAt_agenda (s : State) (pc : Word) : (s.finishAt pc).agenda = s.agenda := rfl

/-! `State.finish` -/

@[simp] theorem State.finish_cores (s : State) : (s.finish).cores = s.cores := rfl
@[simp] theorem State.finish_tiles (s : State) : (s.finish).tiles = s.tiles := rfl
@[simp] theorem State.finish_accs (s : State) : (s.finish).accs = s.accs := rfl
@[simp] theorem State.finish_dram (s : State) : (s.finish).dram = s.dram := rfl
@[simp] theorem State.finish_hostMem (s : State) : (s.finish).hostMem = s.hostMem := rfl
@[simp] theorem State.finish_stations (s : State) : (s.finish).stations = s.stations := rfl
@[simp] theorem State.finish_channels (s : State) : (s.finish).channels = s.channels := rfl
@[simp] theorem State.finish_invals (s : State) : (s.finish).invals = s.invals := rfl
@[simp] theorem State.finish_cues (s : State) : (s.finish).cues = s.cues := rfl
@[simp] theorem State.finish_ctxs (s : State) : (s.finish).ctxs = s.ctxs := rfl
@[simp] theorem State.finish_queues (s : State) : (s.finish).queues = s.queues := rfl
@[simp] theorem State.finish_launches (s : State) : (s.finish).launches = s.launches := rfl
@[simp] theorem State.finish_casts (s : State) : (s.finish).casts = s.casts := rfl
@[simp] theorem State.finish_chainMsgs (s : State) : (s.finish).chainMsgs = s.chainMsgs := rfl
@[simp] theorem State.finish_strips (s : State) : (s.finish).strips = s.strips := rfl
@[simp] theorem State.finish_barMsgs (s : State) : (s.finish).barMsgs = s.barMsgs := rfl
@[simp] theorem State.finish_ports (s : State) : (s.finish).ports = s.ports := rfl
@[simp] theorem State.finish_routes (s : State) : (s.finish).routes = s.routes := rfl
@[simp] theorem State.finish_inbox (s : State) : (s.finish).inbox = s.inbox := rfl
@[simp] theorem State.finish_remLog (s : State) : (s.finish).remLog = s.remLog := rfl
@[simp] theorem State.finish_opNum (s : State) : (s.finish).opNum = s.opNum := rfl
@[simp] theorem State.finish_opsOut (s : State) : (s.finish).opsOut = s.opsOut := rfl
@[simp] theorem State.finish_unsent (s : State) : (s.finish).unsent = s.unsent := rfl
@[simp] theorem State.finish_time (s : State) : (s.finish).time = s.time := rfl
@[simp] theorem State.finish_clock (s : State) : (s.finish).clock = s.clock := rfl
@[simp] theorem State.finish_pkg (s : State) : (s.finish).pkg = s.pkg := rfl
@[simp] theorem State.finish_timeRoot (s : State) : (s.finish).timeRoot = s.timeRoot := rfl
@[simp] theorem State.finish_parent (s : State) : (s.finish).parent = s.parent := rfl
@[simp] theorem State.finish_err (s : State) : (s.finish).err = s.err := rfl
@[simp] theorem State.finish_asym (s : State) : (s.finish).asym = s.asym := rfl
@[simp] theorem State.finish_holdover (s : State) : (s.finish).holdover = s.holdover := rfl
@[simp] theorem State.finish_slew (s : State) : (s.finish).slew = s.slew := rfl
@[simp] theorem State.finish_slewWait (s : State) : (s.finish).slewWait = s.slewWait := rfl
@[simp] theorem State.finish_lastExchange (s : State) : (s.finish).lastExchange = s.lastExchange := rfl
@[simp] theorem State.finish_bar0 (s : State) : (s.finish).bar0 = s.bar0 := rfl
@[simp] theorem State.finish_msix (s : State) : (s.finish).msix = s.msix := rfl
@[simp] theorem State.finish_hotDies (s : State) : (s.finish).hotDies = s.hotDies := rfl
@[simp] theorem State.finish_bootDigest (s : State) : (s.finish).bootDigest = s.bootDigest := rfl
@[simp] theorem State.finish_dramParams (s : State) : (s.finish).dramParams = s.dramParams := rfl
@[simp] theorem State.finish_lastServed (s : State) : (s.finish).lastServed = s.lastServed := rfl
@[simp] theorem State.finish_nextId (s : State) : (s.finish).nextId = s.nextId := rfl
@[simp] theorem State.finish_arrivals (s : State) : (s.finish).arrivals = s.arrivals := rfl
@[simp] theorem State.finish_fresh (s : State) : (s.finish).fresh = s.fresh := rfl
@[simp] theorem State.finish_me (s : State) : (s.finish).me = s.me := rfl
@[simp] theorem State.finish_agenda (s : State) : (s.finish).agenda = s.agenda := rfl

/-! `State.await` -/

@[simp] theorem State.await_cores (s : State) (st : Status) (w : Wait) : (s.await st w).cores = s.cores := rfl
@[simp] theorem State.await_tiles (s : State) (st : Status) (w : Wait) : (s.await st w).tiles = s.tiles := rfl
@[simp] theorem State.await_accs (s : State) (st : Status) (w : Wait) : (s.await st w).accs = s.accs := rfl
@[simp] theorem State.await_dram (s : State) (st : Status) (w : Wait) : (s.await st w).dram = s.dram := rfl
@[simp] theorem State.await_hostMem (s : State) (st : Status) (w : Wait) : (s.await st w).hostMem = s.hostMem := rfl
@[simp] theorem State.await_stations (s : State) (st : Status) (w : Wait) : (s.await st w).stations = s.stations := rfl
@[simp] theorem State.await_channels (s : State) (st : Status) (w : Wait) : (s.await st w).channels = s.channels := rfl
@[simp] theorem State.await_invals (s : State) (st : Status) (w : Wait) : (s.await st w).invals = s.invals := rfl
@[simp] theorem State.await_cues (s : State) (st : Status) (w : Wait) : (s.await st w).cues = s.cues := rfl
@[simp] theorem State.await_ctxs (s : State) (st : Status) (w : Wait) : (s.await st w).ctxs = s.ctxs := rfl
@[simp] theorem State.await_queues (s : State) (st : Status) (w : Wait) : (s.await st w).queues = s.queues := rfl
@[simp] theorem State.await_launches (s : State) (st : Status) (w : Wait) : (s.await st w).launches = s.launches := rfl
@[simp] theorem State.await_casts (s : State) (st : Status) (w : Wait) : (s.await st w).casts = s.casts := rfl
@[simp] theorem State.await_chainMsgs (s : State) (st : Status) (w : Wait) : (s.await st w).chainMsgs = s.chainMsgs := rfl
@[simp] theorem State.await_strips (s : State) (st : Status) (w : Wait) : (s.await st w).strips = s.strips := rfl
@[simp] theorem State.await_barMsgs (s : State) (st : Status) (w : Wait) : (s.await st w).barMsgs = s.barMsgs := rfl
@[simp] theorem State.await_ports (s : State) (st : Status) (w : Wait) : (s.await st w).ports = s.ports := rfl
@[simp] theorem State.await_routes (s : State) (st : Status) (w : Wait) : (s.await st w).routes = s.routes := rfl
@[simp] theorem State.await_inbox (s : State) (st : Status) (w : Wait) : (s.await st w).inbox = s.inbox := rfl
@[simp] theorem State.await_remLog (s : State) (st : Status) (w : Wait) : (s.await st w).remLog = s.remLog := rfl
@[simp] theorem State.await_opNum (s : State) (st : Status) (w : Wait) : (s.await st w).opNum = s.opNum := rfl
@[simp] theorem State.await_opsOut (s : State) (st : Status) (w : Wait) : (s.await st w).opsOut = s.opsOut := rfl
@[simp] theorem State.await_unsent (s : State) (st : Status) (w : Wait) : (s.await st w).unsent = s.unsent := rfl
@[simp] theorem State.await_time (s : State) (st : Status) (w : Wait) : (s.await st w).time = s.time := rfl
@[simp] theorem State.await_clock (s : State) (st : Status) (w : Wait) : (s.await st w).clock = s.clock := rfl
@[simp] theorem State.await_pkg (s : State) (st : Status) (w : Wait) : (s.await st w).pkg = s.pkg := rfl
@[simp] theorem State.await_timeRoot (s : State) (st : Status) (w : Wait) : (s.await st w).timeRoot = s.timeRoot := rfl
@[simp] theorem State.await_parent (s : State) (st : Status) (w : Wait) : (s.await st w).parent = s.parent := rfl
@[simp] theorem State.await_err (s : State) (st : Status) (w : Wait) : (s.await st w).err = s.err := rfl
@[simp] theorem State.await_asym (s : State) (st : Status) (w : Wait) : (s.await st w).asym = s.asym := rfl
@[simp] theorem State.await_holdover (s : State) (st : Status) (w : Wait) : (s.await st w).holdover = s.holdover := rfl
@[simp] theorem State.await_slew (s : State) (st : Status) (w : Wait) : (s.await st w).slew = s.slew := rfl
@[simp] theorem State.await_slewWait (s : State) (st : Status) (w : Wait) : (s.await st w).slewWait = s.slewWait := rfl
@[simp] theorem State.await_lastExchange (s : State) (st : Status) (w : Wait) : (s.await st w).lastExchange = s.lastExchange := rfl
@[simp] theorem State.await_bar0 (s : State) (st : Status) (w : Wait) : (s.await st w).bar0 = s.bar0 := rfl
@[simp] theorem State.await_msix (s : State) (st : Status) (w : Wait) : (s.await st w).msix = s.msix := rfl
@[simp] theorem State.await_hotDies (s : State) (st : Status) (w : Wait) : (s.await st w).hotDies = s.hotDies := rfl
@[simp] theorem State.await_bootDigest (s : State) (st : Status) (w : Wait) : (s.await st w).bootDigest = s.bootDigest := rfl
@[simp] theorem State.await_dramParams (s : State) (st : Status) (w : Wait) : (s.await st w).dramParams = s.dramParams := rfl
@[simp] theorem State.await_lastServed (s : State) (st : Status) (w : Wait) : (s.await st w).lastServed = s.lastServed := rfl
@[simp] theorem State.await_nextId (s : State) (st : Status) (w : Wait) : (s.await st w).nextId = s.nextId := rfl
@[simp] theorem State.await_arrivals (s : State) (st : Status) (w : Wait) : (s.await st w).arrivals = s.arrivals := rfl
@[simp] theorem State.await_fresh (s : State) (st : Status) (w : Wait) : (s.await st w).fresh = s.fresh := rfl
@[simp] theorem State.await_me (s : State) (st : Status) (w : Wait) : (s.await st w).me = s.me := rfl
@[simp] theorem State.await_agenda (s : State) (st : Status) (w : Wait) : (s.await st w).agenda = s.agenda := rfl

/-! `State.raise` -/

@[simp] theorem State.raise_cores (s : State) (c : FaultCode) (n : Nat) (d : Word) : (s.raise c n d).cores = s.cores := rfl
@[simp] theorem State.raise_tiles (s : State) (c : FaultCode) (n : Nat) (d : Word) : (s.raise c n d).tiles = s.tiles := rfl
@[simp] theorem State.raise_accs (s : State) (c : FaultCode) (n : Nat) (d : Word) : (s.raise c n d).accs = s.accs := rfl
@[simp] theorem State.raise_dram (s : State) (c : FaultCode) (n : Nat) (d : Word) : (s.raise c n d).dram = s.dram := rfl
@[simp] theorem State.raise_hostMem (s : State) (c : FaultCode) (n : Nat) (d : Word) : (s.raise c n d).hostMem = s.hostMem := rfl
@[simp] theorem State.raise_stations (s : State) (c : FaultCode) (n : Nat) (d : Word) : (s.raise c n d).stations = s.stations := rfl
@[simp] theorem State.raise_channels (s : State) (c : FaultCode) (n : Nat) (d : Word) : (s.raise c n d).channels = s.channels := rfl
@[simp] theorem State.raise_invals (s : State) (c : FaultCode) (n : Nat) (d : Word) : (s.raise c n d).invals = s.invals := rfl
@[simp] theorem State.raise_cues (s : State) (c : FaultCode) (n : Nat) (d : Word) : (s.raise c n d).cues = s.cues := rfl
@[simp] theorem State.raise_ctxs (s : State) (c : FaultCode) (n : Nat) (d : Word) : (s.raise c n d).ctxs = s.ctxs := rfl
@[simp] theorem State.raise_queues (s : State) (c : FaultCode) (n : Nat) (d : Word) : (s.raise c n d).queues = s.queues := rfl
@[simp] theorem State.raise_launches (s : State) (c : FaultCode) (n : Nat) (d : Word) : (s.raise c n d).launches = s.launches := rfl
@[simp] theorem State.raise_casts (s : State) (c : FaultCode) (n : Nat) (d : Word) : (s.raise c n d).casts = s.casts := rfl
@[simp] theorem State.raise_chainMsgs (s : State) (c : FaultCode) (n : Nat) (d : Word) : (s.raise c n d).chainMsgs = s.chainMsgs := rfl
@[simp] theorem State.raise_strips (s : State) (c : FaultCode) (n : Nat) (d : Word) : (s.raise c n d).strips = s.strips := rfl
@[simp] theorem State.raise_barMsgs (s : State) (c : FaultCode) (n : Nat) (d : Word) : (s.raise c n d).barMsgs = s.barMsgs := rfl
@[simp] theorem State.raise_ports (s : State) (c : FaultCode) (n : Nat) (d : Word) : (s.raise c n d).ports = s.ports := rfl
@[simp] theorem State.raise_routes (s : State) (c : FaultCode) (n : Nat) (d : Word) : (s.raise c n d).routes = s.routes := rfl
@[simp] theorem State.raise_inbox (s : State) (c : FaultCode) (n : Nat) (d : Word) : (s.raise c n d).inbox = s.inbox := rfl
@[simp] theorem State.raise_remLog (s : State) (c : FaultCode) (n : Nat) (d : Word) : (s.raise c n d).remLog = s.remLog := rfl
@[simp] theorem State.raise_opNum (s : State) (c : FaultCode) (n : Nat) (d : Word) : (s.raise c n d).opNum = s.opNum := rfl
@[simp] theorem State.raise_opsOut (s : State) (c : FaultCode) (n : Nat) (d : Word) : (s.raise c n d).opsOut = s.opsOut := rfl
@[simp] theorem State.raise_unsent (s : State) (c : FaultCode) (n : Nat) (d : Word) : (s.raise c n d).unsent = s.unsent := rfl
@[simp] theorem State.raise_time (s : State) (c : FaultCode) (n : Nat) (d : Word) : (s.raise c n d).time = s.time := rfl
@[simp] theorem State.raise_clock (s : State) (c : FaultCode) (n : Nat) (d : Word) : (s.raise c n d).clock = s.clock := rfl
@[simp] theorem State.raise_pkg (s : State) (c : FaultCode) (n : Nat) (d : Word) : (s.raise c n d).pkg = s.pkg := rfl
@[simp] theorem State.raise_timeRoot (s : State) (c : FaultCode) (n : Nat) (d : Word) : (s.raise c n d).timeRoot = s.timeRoot := rfl
@[simp] theorem State.raise_parent (s : State) (c : FaultCode) (n : Nat) (d : Word) : (s.raise c n d).parent = s.parent := rfl
@[simp] theorem State.raise_err (s : State) (c : FaultCode) (n : Nat) (d : Word) : (s.raise c n d).err = s.err := rfl
@[simp] theorem State.raise_asym (s : State) (c : FaultCode) (n : Nat) (d : Word) : (s.raise c n d).asym = s.asym := rfl
@[simp] theorem State.raise_holdover (s : State) (c : FaultCode) (n : Nat) (d : Word) : (s.raise c n d).holdover = s.holdover := rfl
@[simp] theorem State.raise_slew (s : State) (c : FaultCode) (n : Nat) (d : Word) : (s.raise c n d).slew = s.slew := rfl
@[simp] theorem State.raise_slewWait (s : State) (c : FaultCode) (n : Nat) (d : Word) : (s.raise c n d).slewWait = s.slewWait := rfl
@[simp] theorem State.raise_lastExchange (s : State) (c : FaultCode) (n : Nat) (d : Word) : (s.raise c n d).lastExchange = s.lastExchange := rfl
@[simp] theorem State.raise_bar0 (s : State) (c : FaultCode) (n : Nat) (d : Word) : (s.raise c n d).bar0 = s.bar0 := rfl
@[simp] theorem State.raise_msix (s : State) (c : FaultCode) (n : Nat) (d : Word) : (s.raise c n d).msix = s.msix := rfl
@[simp] theorem State.raise_hotDies (s : State) (c : FaultCode) (n : Nat) (d : Word) : (s.raise c n d).hotDies = s.hotDies := rfl
@[simp] theorem State.raise_bootDigest (s : State) (c : FaultCode) (n : Nat) (d : Word) : (s.raise c n d).bootDigest = s.bootDigest := rfl
@[simp] theorem State.raise_dramParams (s : State) (c : FaultCode) (n : Nat) (d : Word) : (s.raise c n d).dramParams = s.dramParams := rfl
@[simp] theorem State.raise_lastServed (s : State) (c : FaultCode) (n : Nat) (d : Word) : (s.raise c n d).lastServed = s.lastServed := rfl
@[simp] theorem State.raise_nextId (s : State) (c : FaultCode) (n : Nat) (d : Word) : (s.raise c n d).nextId = s.nextId := rfl
@[simp] theorem State.raise_arrivals (s : State) (c : FaultCode) (n : Nat) (d : Word) : (s.raise c n d).arrivals = s.arrivals := rfl
@[simp] theorem State.raise_fresh (s : State) (c : FaultCode) (n : Nat) (d : Word) : (s.raise c n d).fresh = s.fresh := rfl
@[simp] theorem State.raise_me (s : State) (c : FaultCode) (n : Nat) (d : Word) : (s.raise c n d).me = s.me := rfl
@[simp] theorem State.raise_agenda (s : State) (c : FaultCode) (n : Nat) (d : Word) : (s.raise c n d).agenda = s.agenda := rfl

/-! `State.clearPending` -/

@[simp] theorem State.clearPending_cores (s : State) (b : Bool) : (s.clearPending b).cores = s.cores := by cases b <;> rfl
@[simp] theorem State.clearPending_tiles (s : State) (b : Bool) : (s.clearPending b).tiles = s.tiles := by cases b <;> rfl
@[simp] theorem State.clearPending_accs (s : State) (b : Bool) : (s.clearPending b).accs = s.accs := by cases b <;> rfl
@[simp] theorem State.clearPending_dram (s : State) (b : Bool) : (s.clearPending b).dram = s.dram := by cases b <;> rfl
@[simp] theorem State.clearPending_hostMem (s : State) (b : Bool) : (s.clearPending b).hostMem = s.hostMem := by cases b <;> rfl
@[simp] theorem State.clearPending_stations (s : State) (b : Bool) : (s.clearPending b).stations = s.stations := by cases b <;> rfl
@[simp] theorem State.clearPending_channels (s : State) (b : Bool) : (s.clearPending b).channels = s.channels := by cases b <;> rfl
@[simp] theorem State.clearPending_invals (s : State) (b : Bool) : (s.clearPending b).invals = s.invals := by cases b <;> rfl
@[simp] theorem State.clearPending_cues (s : State) (b : Bool) : (s.clearPending b).cues = s.cues := by cases b <;> rfl
@[simp] theorem State.clearPending_ctxs (s : State) (b : Bool) : (s.clearPending b).ctxs = s.ctxs := by cases b <;> rfl
@[simp] theorem State.clearPending_queues (s : State) (b : Bool) : (s.clearPending b).queues = s.queues := by cases b <;> rfl
@[simp] theorem State.clearPending_launches (s : State) (b : Bool) : (s.clearPending b).launches = s.launches := by cases b <;> rfl
@[simp] theorem State.clearPending_casts (s : State) (b : Bool) : (s.clearPending b).casts = s.casts := by cases b <;> rfl
@[simp] theorem State.clearPending_chainMsgs (s : State) (b : Bool) : (s.clearPending b).chainMsgs = s.chainMsgs := by cases b <;> rfl
@[simp] theorem State.clearPending_strips (s : State) (b : Bool) : (s.clearPending b).strips = s.strips := by cases b <;> rfl
@[simp] theorem State.clearPending_barMsgs (s : State) (b : Bool) : (s.clearPending b).barMsgs = s.barMsgs := by cases b <;> rfl
@[simp] theorem State.clearPending_ports (s : State) (b : Bool) : (s.clearPending b).ports = s.ports := by cases b <;> rfl
@[simp] theorem State.clearPending_routes (s : State) (b : Bool) : (s.clearPending b).routes = s.routes := by cases b <;> rfl
@[simp] theorem State.clearPending_inbox (s : State) (b : Bool) : (s.clearPending b).inbox = s.inbox := by cases b <;> rfl
@[simp] theorem State.clearPending_remLog (s : State) (b : Bool) : (s.clearPending b).remLog = s.remLog := by cases b <;> rfl
@[simp] theorem State.clearPending_opNum (s : State) (b : Bool) : (s.clearPending b).opNum = s.opNum := by cases b <;> rfl
@[simp] theorem State.clearPending_opsOut (s : State) (b : Bool) : (s.clearPending b).opsOut = s.opsOut := by cases b <;> rfl
@[simp] theorem State.clearPending_unsent (s : State) (b : Bool) : (s.clearPending b).unsent = s.unsent := by cases b <;> rfl
@[simp] theorem State.clearPending_time (s : State) (b : Bool) : (s.clearPending b).time = s.time := by cases b <;> rfl
@[simp] theorem State.clearPending_clock (s : State) (b : Bool) : (s.clearPending b).clock = s.clock := by cases b <;> rfl
@[simp] theorem State.clearPending_pkg (s : State) (b : Bool) : (s.clearPending b).pkg = s.pkg := by cases b <;> rfl
@[simp] theorem State.clearPending_timeRoot (s : State) (b : Bool) : (s.clearPending b).timeRoot = s.timeRoot := by cases b <;> rfl
@[simp] theorem State.clearPending_parent (s : State) (b : Bool) : (s.clearPending b).parent = s.parent := by cases b <;> rfl
@[simp] theorem State.clearPending_err (s : State) (b : Bool) : (s.clearPending b).err = s.err := by cases b <;> rfl
@[simp] theorem State.clearPending_asym (s : State) (b : Bool) : (s.clearPending b).asym = s.asym := by cases b <;> rfl
@[simp] theorem State.clearPending_holdover (s : State) (b : Bool) : (s.clearPending b).holdover = s.holdover := by cases b <;> rfl
@[simp] theorem State.clearPending_slew (s : State) (b : Bool) : (s.clearPending b).slew = s.slew := by cases b <;> rfl
@[simp] theorem State.clearPending_slewWait (s : State) (b : Bool) : (s.clearPending b).slewWait = s.slewWait := by cases b <;> rfl
@[simp] theorem State.clearPending_lastExchange (s : State) (b : Bool) : (s.clearPending b).lastExchange = s.lastExchange := by cases b <;> rfl
@[simp] theorem State.clearPending_bar0 (s : State) (b : Bool) : (s.clearPending b).bar0 = s.bar0 := by cases b <;> rfl
@[simp] theorem State.clearPending_msix (s : State) (b : Bool) : (s.clearPending b).msix = s.msix := by cases b <;> rfl
@[simp] theorem State.clearPending_hotDies (s : State) (b : Bool) : (s.clearPending b).hotDies = s.hotDies := by cases b <;> rfl
@[simp] theorem State.clearPending_bootDigest (s : State) (b : Bool) : (s.clearPending b).bootDigest = s.bootDigest := by cases b <;> rfl
@[simp] theorem State.clearPending_dramParams (s : State) (b : Bool) : (s.clearPending b).dramParams = s.dramParams := by cases b <;> rfl
@[simp] theorem State.clearPending_lastServed (s : State) (b : Bool) : (s.clearPending b).lastServed = s.lastServed := by cases b <;> rfl
@[simp] theorem State.clearPending_nextId (s : State) (b : Bool) : (s.clearPending b).nextId = s.nextId := by cases b <;> rfl
@[simp] theorem State.clearPending_arrivals (s : State) (b : Bool) : (s.clearPending b).arrivals = s.arrivals := by cases b <;> rfl
@[simp] theorem State.clearPending_fresh (s : State) (b : Bool) : (s.clearPending b).fresh = s.fresh := by cases b <;> rfl
@[simp] theorem State.clearPending_me (s : State) (b : Bool) : (s.clearPending b).me = s.me := by cases b <;> rfl
@[simp] theorem State.clearPending_agenda (s : State) (b : Bool) : (s.clearPending b).agenda = s.agenda := by cases b <;> rfl

end Sys2Proof.Machine
end

