-- ==== Sys2Proof/Laws/Units.lean ====
section
/-! SUPPORT. Reading a unit back after an update: threads, cores, tiles and the rest, each by its number. -/

namespace Sys2Proof.Machine

variable (s : State)

theorem State.thread_setThread (t u : Nat) (a : Thread) :
    (s.setThread t a).thread u = if u = t then a else s.thread u := by
  simp only [State.thread, State.setThread, lookAt_putAt]
@[simp] theorem State.thread_setThread_self (t : Nat) (a : Thread) : (s.setThread t a).thread t = a := by
  simp [State.thread_setThread]
theorem State.thread_setThread_ne {t u : Nat} (a : Thread) (h : u ≠ t) : (s.setThread t a).thread u = s.thread u := by
  simp [State.thread_setThread, h]
theorem State.thread_modThread (t u : Nat) (f : Thread → Thread) :
    (s.modThread t f).thread u = if u = t then f (s.thread t) else s.thread u := State.thread_setThread s t u _
@[simp] theorem State.thread_modThread_self (t : Nat) (f : Thread → Thread) : (s.modThread t f).thread t = f (s.thread t) := by
  simp [State.thread_modThread]
theorem State.thread_modThread_ne {t u : Nat} (f : Thread → Thread) (h : u ≠ t) : (s.modThread t f).thread u = s.thread u := by
  simp [State.thread_modThread, h]
@[simp] theorem State.cur_modCur (f : Thread → Thread) : (s.modCur f).cur = f s.cur := by
  simp [State.cur, State.modCur]
theorem State.thread_modCur_ne {u : Nat} (f : Thread → Thread) (h : u ≠ s.me) : (s.modCur f).thread u = s.thread u := by
  simp [State.modCur, State.thread_modThread_ne, h]
@[simp] theorem State.cur_finishAt (pc : Word) : (s.finishAt pc).cur = Thread.issued s.clock pc s.cur := by
  simp [State.finishAt]
theorem State.thread_finishAt_ne {u : Nat} (pc : Word) (h : u ≠ s.me) : (s.finishAt pc).thread u = s.thread u := by
  simp [State.finishAt, State.thread_modCur_ne, h]
@[simp] theorem State.cur_finish : s.finish.cur = Thread.issued s.clock (s.cur.pc + 12) s.cur := by simp [State.finish]
theorem State.thread_finish_ne {u : Nat} (h : u ≠ s.me) : s.finish.thread u = s.thread u := by
  simp [State.finish, State.thread_finishAt_ne, h]
@[simp] theorem State.cur_clearPending (b : Bool) :
    (s.clearPending b).cur = s.cur.withPend (if b then 0 else s.cur.pend) := by
  cases b
  · rfl
  · simp [State.clearPending, Thread.withPend]
theorem State.thread_clearPending_ne {u : Nat} (b : Bool) (h : u ≠ s.me) : (s.clearPending b).thread u = s.thread u := by
  cases b <;> simp [State.clearPending, State.thread_modCur_ne, h]

theorem State.core_setCore (c d : Nat) (a : Core) : (s.setCore c a).core d = if d = c then a else s.core d := by
  simp only [State.core, State.setCore, lookAt_putAt]
@[simp] theorem State.core_setCore_self (c : Nat) (a : Core) : (s.setCore c a).core c = a := by simp [State.core_setCore]
theorem State.core_modCore (c d : Nat) (f : Core → Core) :
    (s.modCore c f).core d = if d = c then f (s.core c) else s.core d := State.core_setCore s c d _
@[simp] theorem State.core_modCore_self (c : Nat) (f : Core → Core) : (s.modCore c f).core c = f (s.core c) := by
  simp [State.core_modCore]
theorem State.core_modCore_ne {c d : Nat} (f : Core → Core) (h : d ≠ c) : (s.modCore c f).core d = s.core d := by
  simp [State.core_modCore, h]
theorem State.tile_modTile (c d : Nat) (f : Tile → Tile) :
    (s.modTile c f).tile d = if d = c then f (s.tile c) else s.tile d := by
  simp only [State.tile, State.modTile, State.setTile, lookAt_putAt]
@[simp] theorem State.tile_modTile_self (c : Nat) (f : Tile → Tile) : (s.modTile c f).tile c = f (s.tile c) := by
  simp [State.tile_modTile]
theorem State.ctx_setCtx (c d : Nat) (a : Ctx) : (s.setCtx c a).ctx d = if d = c then a else s.ctx d := by
  simp only [State.ctx, State.setCtx, lookAt_putAt]
@[simp] theorem State.ctx_setCtx_self (c : Nat) (a : Ctx) : (s.setCtx c a).ctx c = a := by simp [State.ctx_setCtx]
theorem State.ctx_modCtx (c d : Nat) (f : Ctx → Ctx) : (s.modCtx c f).ctx d = if d = c then f (s.ctx c) else s.ctx d :=
  State.ctx_setCtx s c d _
@[simp] theorem State.ctx_modCtx_self (c : Nat) (f : Ctx → Ctx) : (s.modCtx c f).ctx c = f (s.ctx c) := by
  simp [State.ctx_modCtx]
theorem State.port_setPort (c d : Nat) (a : Port) : (s.setPort c a).port d = if d = c then a else s.port d := by
  simp only [State.port, State.setPort, lookAt_putAt]
@[simp] theorem State.port_setPort_self (c : Nat) (a : Port) : (s.setPort c a).port c = a := by simp [State.port_setPort]
theorem State.port_modPort (c d : Nat) (f : Port → Port) : (s.modPort c f).port d = if d = c then f (s.port c) else s.port d :=
  State.port_setPort s c d _
@[simp] theorem State.port_modPort_self (c : Nat) (f : Port → Port) : (s.modPort c f).port c = f (s.port c) := by
  simp [State.port_modPort]
@[simp] theorem State.queue_setQueue_self (n q : Nat) (a : Queue) : (s.setQueue n q a).queue n q = a := by
  simp [State.queue, State.setQueue]
@[simp] theorem State.queue_modQueue_self (n q : Nat) (f : Queue → Queue) : (s.modQueue n q f).queue n q = f (s.queue n q) := by
  simp [State.modQueue]
@[simp] theorem State.station_setStation_self (n : Nat) (a : Station) : (s.setStation n a).station n = a := by
  simp [State.station, State.setStation]
@[simp] theorem State.channel_setChannel_self (n : Nat) (a : Channel) : (s.setChannel n a).channel n = a := by
  simp [State.channel, State.setChannel]

/-- A thread update leaves every other unit as it was. -/
@[simp] theorem State.core_modCur (f : Thread → Thread) (c : Nat) : (s.modCur f).core c = s.core c := rfl
@[simp] theorem State.core_finish (c : Nat) : s.finish.core c = s.core c := rfl
@[simp] theorem State.core_clearPending (b : Bool) (c : Nat) : (s.clearPending b).core c = s.core c := by cases b <;> rfl

end Sys2Proof.Machine
end

