-- ==== Sys2Proof/Laws/Issue.lean ====
section
/-! SUPPORT. What the issue stage does with an instruction: once for every way out of it, and the whole of it for an
instruction that only writes its own thread's registers. -/

namespace Sys2Proof.Claims

open Machine

variable {maj fn : Nat} {o : Ops} {s : State}

/-- Where the issue stage lets an instruction act, it finds nothing against it. -/
theorem issueCheck_ready (h : Ready maj fn o s) :
    issueCheck maj fn o (extraRegs maj fn o) (alwaysMarker maj fn) s = .go := by
  obtain ⟨hin, hpend, hbusy, hmark, hguard⟩ := h
  have h1 : (namedRegs maj fn o (extraRegs maj fn o)).find? (fun p => s.cur.outside p.2) = none := by
    simpa [List.find?_eq_none, regsOf] using hin
  have h2 : (if alwaysMarker maj fn || o.h.sw then none
      else (namedRegs maj fn o (extraRegs maj fn o)).find? (fun p => s.cur.pending p.2)) = none := by
    rcases hpend with hm | hp
    · simp [show (alwaysMarker maj fn || o.h.sw) = true from hm]
    · split
      · rfl
      · simpa [List.find?_eq_none, regsOf] using hp
  have h3 : (namedRegs maj fn o (extraRegs maj fn o)).any (fun p => (s.busyRegs s.me).contains p.2) = false := by
    rw [List.any_eq_false]
    intro p hp
    simpa using hbusy p hp
  have h4 : (if alwaysMarker maj fn || o.h.sw then s.markerCheck s.me else .go) = .go := by
    rcases hmark with hm | ho
    · simp [show (alwaysMarker maj fn || o.h.sw) = false from hm]
    · simp [State.markerCheck, ho]
  unfold issueCheck
  simp only [h1, h2, h3, h4, hguard, if_true, Bool.false_eq_true, if_false]

/-- An instruction that acts: its own effect, on the state in which a marker has cleared the pending bits. -/
theorem issue_ready (h : Ready maj fn o s) (body : State → State) :
    issue maj fn o (extraRegs maj fn o) (alwaysMarker maj fn) s body = .next (body (s.clearPending (isMarker maj fn o))) := by
  simp [issue, issueCheck_ready h, isMarker]

/-- The same for an instruction without unnamed registers that is no marker of itself. -/
theorem issue_plain (h : Ready maj fn o s) (hx : extraRegs maj fn o = []) (hm : alwaysMarker maj fn = false)
    (body : State → State) : issue maj fn o [] false s body = .next (body (s.clearPending o.h.sw)) := by
  have := issue_ready h body
  rwa [hx, hm, isMarker, hm, Bool.false_or] at this

/-- The same for an instruction that clears the pending bits itself. -/
theorem issueLate_plain (h : Ready maj fn o s) (hx : extraRegs maj fn o = []) (hm : alwaysMarker maj fn = false)
    (body : State → State) : issueLate maj fn o s body = .next (body s) := by
  have h' := issueCheck_ready h
  rw [hx, hm] at h'
  simp [issueLate, h']

/-- Every register file as it was. -/
theorem RegsKept.of_eq {a b : Thread} {regs : List Reg} (hx : b.x = a.x) (hv : b.v = a.v) (hp : b.p = a.p) (hk : b.k = a.k)
    (hs : b.s = a.s) : RegsKept a b regs :=
  ⟨fun n _ => Thread.getX_congr hx n, fun n _ => Thread.getV_congr hv n, fun n _ => Thread.getP_congr hp n,
    fun n _ => Thread.getK_congr hk n, fun n _ => Thread.getS_congr hs n⟩

/-- What one thread owes to `Issued`, for a thread changed to `b` and counted as issued. -/
theorem Issued.of_thread {t : State} {c : Change} (b : Thread) (hothers : ∀ u, u ≠ s.me → t.thread u = s.thread u)
    (hcur : t.cur = Thread.issued s.clock c.pc b) (hpend : b.pend = c.pend) (hperf : b.perf = s.cur.perf)
    (hflags : b.fpflags = c.flags) (hgen : b.srstate = c.gen) (hgap : b.gap = c.gap) (hregs : RegsKept s.cur b c.regs)
    (hrest : restOf b = c.rest) : Issued s t c where
  others := hothers
  pc := by rw [hcur]; rfl
  pend := by rw [hcur]; exact hpend
  perf0 := by rw [hcur]; simp [Thread.issued, hperf]
  perf n hn := by rw [hcur]; simp [Thread.issued, hperf, lookAt_putAt, hn]
  fpflags := by rw [hcur]; exact hflags
  srstate := by rw [hcur]; exact hgen
  gap := by rw [hcur]; exact hgap
  regs := by
    rw [hcur]
    exact ⟨hregs.x, hregs.v, hregs.p, hregs.k, hregs.s⟩
  rest := by rw [hcur, ← hrest]; rfl

/-- What a register write keeps of the thread it is done to. -/
structure WriteKeeps (a b : Thread) (regs : List Reg) : Prop where
  pc   : b.pc = a.pc
  pend : b.pend = a.pend
  perf : b.perf = a.perf
  gap  : b.gap = a.gap
  regs : RegsKept a b regs
  rest : restOf b = restOf a

/-- An instruction that only writes registers of its own thread, whole: `f` is what it does to the thread. -/
theorem issueReg_acts {i : Instr} {regs : List Reg} {f : Thread → Thread} {done : Thread → Prop} {flags gen : Word}
    (h : Ready maj fn o s) (hx : extraRegs maj fn o = []) (hm : alwaysMarker maj fn = false)
    (hi : exec i s = issueReg maj fn o s f) (hf : ∀ q, WriteKeeps (s.cur.withPend q) (f (s.cur.withPend q)) regs)
    (hflags : ∀ q, (f (s.cur.withPend q)).fpflags = flags) (hgen : ∀ q, (f (s.cur.withPend q)).srstate = gen)
    (hdone : ∀ q, done (Thread.issued s.clock (s.cur.pc + 12) (f (s.cur.withPend q)))) :
    Acts i s { plain maj fn o s with regs := regs, flags := flags, gen := gen } done := by
  have hsw : isMarker maj fn o = o.h.sw := by simp [isMarker, hm]
  generalize hq : (if o.h.sw then 0 else s.cur.pend) = q
  have hk := hf q
  have hcur : ((s.clearPending o.h.sw).modCur f).finish.cur =
      Thread.issued s.clock (s.cur.pc + 12) (f (s.cur.withPend q)) := by
    simp only [State.cur_finish, State.cur_modCur, State.cur_clearPending, State.modCur_clock, State.clearPending_clock, hq]
    rw [hk.pc]
    rfl
  refine ⟨((s.clearPending o.h.sw).modCur f).finish, ?_, ?_, ?_, ?_⟩
  · rw [hi, issueReg, issue_plain h hx hm]
  · refine Issued.of_thread (f (s.cur.withPend q)) ?_ hcur ?_ ?_ (hflags q) (hgen q) ?_ ?_ ?_
    · intro u hu
      rw [State.thread_finish_ne _ (by simpa using hu), State.thread_modCur_ne _ _ (by simpa using hu),
        State.thread_clearPending_ne _ _ hu]
    · rw [hk.pend, ← hq, ← hsw]; rfl
    · rw [hk.perf]; rfl
    · rw [hk.gap]; rfl
    · exact ⟨hk.regs.x, hk.regs.v, hk.regs.p, hk.regs.k, hk.regs.s⟩
    · rw [hk.rest]; rfl
  · cases o.h.sw <;> rfl
  · rw [hcur]; exact hdone q

/-- Writing an x register. -/
theorem wx_keeps (a : Thread) (d : BitVec 7) (w : Word) : WriteKeeps a (a.wx (.x d) w) [.x d] where
  pc := by simp
  pend := by simp
  perf := by simp
  gap := by simp
  regs := ⟨fun n hn => by simp_all [Thread.wx, Thread.getX_setX], fun n _ => Thread.getV_congr (by simp) n,
    fun n _ => Thread.getP_congr (by simp) n, fun n _ => Thread.getK_congr (by simp) n, fun n _ => Thread.getS_congr (by simp) n⟩
  rest := by simp only [Thread.wx, Thread.setX]; split <;> rfl

/-- Writing a p register. -/
theorem wp_keeps (a : Thread) (d : BitVec 3) (b : Bool) : WriteKeeps a (a.wp (.p d) b) [.p d] where
  pc := by simp
  pend := by simp
  perf := by simp
  gap := by simp
  regs := ⟨fun n _ => Thread.getX_congr (by simp) n, fun n _ => Thread.getV_congr (by simp) n,
    fun n hn => by simp_all [Thread.wp, Thread.getP_setP], fun n _ => Thread.getK_congr (by simp) n,
    fun n _ => Thread.getS_congr (by simp) n⟩
  rest := by simp only [Thread.wp, Thread.setP]; split <;> rfl

/-- Writing a k register. -/
theorem wk_keeps (a : Thread) (d : BitVec 3) (w : BitVec 16) : WriteKeeps a (a.wk (.k d) w) [.k d] where
  pc := by simp
  pend := by simp
  perf := by simp
  gap := by simp
  regs := ⟨fun n _ => Thread.getX_congr (by simp) n, fun n _ => Thread.getV_congr (by simp) n,
    fun n _ => Thread.getP_congr (by simp) n, fun n hn => by simp_all [Thread.wk, Thread.getK_setK],
    fun n _ => Thread.getS_congr (by simp) n⟩
  rest := by simp only [Thread.wk, Thread.setK]; split <;> rfl

/-- An instruction that writes one x register. -/
theorem writesX {i : Instr} {d : BitVec 7} {w : Word} {f : Thread → Word} (h : Ready maj fn o s) (hd : o.d = .x d)
    (hx : extraRegs maj fn o = []) (hm : alwaysMarker maj fn = false)
    (hi : exec i s = issueReg maj fn o s (fun t => t.wx o.d (f t))) (hw : ∀ q, f (s.cur.withPend q) = w) :
    WritesX i maj fn o s d w := by
  rw [hd] at hi
  refine issueReg_acts h hx hm hi (fun q => wx_keeps _ d _) (fun q => by simp [plain]) (fun q => by simp [plain]) (fun q => ?_)
  by_cases hz : d = 0 <;> simp_all [Thread.wx, Thread.getX_setX]

/-- An instruction that writes one p register. -/
theorem writesP {i : Instr} {d : BitVec 3} {b : Bool} {f : Thread → Bool} (h : Ready maj fn o s) (hd : o.d = .p d)
    (hx : extraRegs maj fn o = []) (hm : alwaysMarker maj fn = false)
    (hi : exec i s = issueReg maj fn o s (fun t => t.wp o.d (f t))) (hw : ∀ q, f (s.cur.withPend q) = b) :
    WritesP i maj fn o s d b := by
  rw [hd] at hi
  refine issueReg_acts h hx hm hi (fun q => wp_keeps _ d _) (fun q => by simp [plain]) (fun q => by simp [plain]) (fun q => ?_)
  by_cases hz : d = 0 <;> simp_all [Thread.wp, Thread.getP_setP]

/-- An instruction that writes one k register. -/
theorem writesK {i : Instr} {d : BitVec 3} {w : BitVec 16} {f : Thread → BitVec 16} (h : Ready maj fn o s) (hd : o.d = .k d)
    (hx : extraRegs maj fn o = []) (hm : alwaysMarker maj fn = false)
    (hi : exec i s = issueReg maj fn o s (fun t => t.wk o.d (f t))) (hw : ∀ q, f (s.cur.withPend q) = w) :
    WritesK i maj fn o s d w := by
  rw [hd] at hi
  refine issueReg_acts h hx hm hi (fun q => wk_keeps _ d _) (fun q => by simp [plain]) (fun q => by simp [plain]) (fun q => ?_)
  by_cases hz : d = 0 <;> simp_all [Thread.wk, Thread.getK_setK]

end Sys2Proof.Claims
end

