-- ==== Sys2Proof/Laws/PerInstr.lean ====
section
/-! SUPPORT. For every instruction: the class and the function that its word holds are numbers of seven and of eight bits, the class is
listed, and the decoder's table builds it back from them and its fields (R65, R84). An event of the device has no word. -/

namespace Sys2Proof.Laws.Rebuilt

/-- The table builds the instruction back from its opcode. -/
def Statement (i : Instr) : Prop :=
  ∀ maj fn o, i.opcode = some (maj, fn, o) → maj < 128 ∧ fn < 256 ∧ (classCtors maj).isEmpty = false ∧ buildInstr maj fn o = some i

/-- An instruction whose opcode is known is built back. -/
theorem of_opcode {i : Instr} {m f : Nat} {p : Ops} (h : i.opcode = some (m, f, p))
    (c : m < 128 ∧ f < 256 ∧ (classCtors m).isEmpty = false ∧ buildInstr m f p = some i) : Statement i := by
  intro maj fn o e
  rw [h] at e
  cases e
  exact c

/-- An event has no opcode. -/
theorem of_event {i : Instr} (h : i.opcode = none) : Statement i := by
  intro maj fn o e
  rw [h] at e
  cases e

theorem intAdd (o : Ops) : Statement (.intAdd o) := of_opcode rfl ⟨by decide, by decide, rfl, rfl⟩
theorem intSub (o : Ops) : Statement (.intSub o) := of_opcode rfl ⟨by decide, by decide, rfl, rfl⟩
theorem intMul (o : Ops) : Statement (.intMul o) := of_opcode rfl ⟨by decide, by decide, rfl, rfl⟩
theorem intMulh (o : Ops) : Statement (.intMulh o) := of_opcode rfl ⟨by decide, by decide, rfl, rfl⟩
theorem intDiv (o : Ops) : Statement (.intDiv o) := of_opcode rfl ⟨by decide, by decide, rfl, rfl⟩
theorem intRem (o : Ops) : Statement (.intRem o) := of_opcode rfl ⟨by decide, by decide, rfl, rfl⟩
theorem intMin (o : Ops) : Statement (.intMin o) := of_opcode rfl ⟨by decide, by decide, rfl, rfl⟩
theorem intMax (o : Ops) : Statement (.intMax o) := of_opcode rfl ⟨by decide, by decide, rfl, rfl⟩
theorem intAbs (o : Ops) : Statement (.intAbs o) := of_opcode rfl ⟨by decide, by decide, rfl, rfl⟩
theorem intAnd (o : Ops) : Statement (.intAnd o) := of_opcode rfl ⟨by decide, by decide, rfl, rfl⟩
theorem intOr (o : Ops) : Statement (.intOr o) := of_opcode rfl ⟨by decide, by decide, rfl, rfl⟩
theorem intXor (o : Ops) : Statement (.intXor o) := of_opcode rfl ⟨by decide, by decide, rfl, rfl⟩
theorem intAndn (o : Ops) : Statement (.intAndn o) := of_opcode rfl ⟨by decide, by decide, rfl, rfl⟩
theorem intShl (o : Ops) : Statement (.intShl o) := of_opcode rfl ⟨by decide, by decide, rfl, rfl⟩
theorem intShr (o : Ops) : Statement (.intShr o) := of_opcode rfl ⟨by decide, by decide, rfl, rfl⟩
theorem intRot (o : Ops) : Statement (.intRot o) := of_opcode rfl ⟨by decide, by decide, rfl, rfl⟩
theorem intClz (o : Ops) : Statement (.intClz o) := of_opcode rfl ⟨by decide, by decide, rfl, rfl⟩
theorem intCtz (o : Ops) : Statement (.intCtz o) := of_opcode rfl ⟨by decide, by decide, rfl, rfl⟩
theorem intPopc (o : Ops) : Statement (.intPopc o) := of_opcode rfl ⟨by decide, by decide, rfl, rfl⟩
theorem intMov (o : Ops) : Statement (.intMov o) := of_opcode rfl ⟨by decide, by decide, rfl, rfl⟩
theorem intSel (o : Ops) : Statement (.intSel o) := of_opcode rfl ⟨by decide, by decide, rfl, rfl⟩
theorem intiAddi (o : Ops) : Statement (.intiAddi o) := of_opcode rfl ⟨by decide, by decide, rfl, rfl⟩
theorem intiMuli (o : Ops) : Statement (.intiMuli o) := of_opcode rfl ⟨by decide, by decide, rfl, rfl⟩
theorem intiAndi (o : Ops) : Statement (.intiAndi o) := of_opcode rfl ⟨by decide, by decide, rfl, rfl⟩
theorem intiOri (o : Ops) : Statement (.intiOri o) := of_opcode rfl ⟨by decide, by decide, rfl, rfl⟩
theorem intiXori (o : Ops) : Statement (.intiXori o) := of_opcode rfl ⟨by decide, by decide, rfl, rfl⟩
theorem intiShli (o : Ops) : Statement (.intiShli o) := of_opcode rfl ⟨by decide, by decide, rfl, rfl⟩
theorem intiShri (o : Ops) : Statement (.intiShri o) := of_opcode rfl ⟨by decide, by decide, rfl, rfl⟩
theorem intiRoti (o : Ops) : Statement (.intiRoti o) := of_opcode rfl ⟨by decide, by decide, rfl, rfl⟩
theorem intiMovi (o : Ops) : Statement (.intiMovi o) := of_opcode rfl ⟨by decide, by decide, rfl, rfl⟩
theorem intiMovhi (o : Ops) : Statement (.intiMovhi o) := of_opcode rfl ⟨by decide, by decide, rfl, rfl⟩
theorem intiLea (o : Ops) : Statement (.intiLea o) := of_opcode rfl ⟨by decide, by decide, rfl, rfl⟩
theorem cmpEq (o : Ops) : Statement (.cmpEq o) := of_opcode rfl ⟨by decide, by decide, rfl, rfl⟩
theorem cmpNe (o : Ops) : Statement (.cmpNe o) := of_opcode rfl ⟨by decide, by decide, rfl, rfl⟩
theorem cmpLt (o : Ops) : Statement (.cmpLt o) := of_opcode rfl ⟨by decide, by decide, rfl, rfl⟩
theorem cmpLe (o : Ops) : Statement (.cmpLe o) := of_opcode rfl ⟨by decide, by decide, rfl, rfl⟩
theorem cmpGt (o : Ops) : Statement (.cmpGt o) := of_opcode rfl ⟨by decide, by decide, rfl, rfl⟩
theorem cmpGe (o : Ops) : Statement (.cmpGe o) := of_opcode rfl ⟨by decide, by decide, rfl, rfl⟩
theorem cmpUnord (o : Ops) : Statement (.cmpUnord o) := of_opcode rfl ⟨by decide, by decide, rfl, rfl⟩
theorem prdAnd (o : Ops) : Statement (.prdAnd o) := of_opcode rfl ⟨by decide, by decide, rfl, rfl⟩
theorem prdOr (o : Ops) : Statement (.prdOr o) := of_opcode rfl ⟨by decide, by decide, rfl, rfl⟩
theorem prdXor (o : Ops) : Statement (.prdXor o) := of_opcode rfl ⟨by decide, by decide, rfl, rfl⟩
theorem prdAndn (o : Ops) : Statement (.prdAndn o) := of_opcode rfl ⟨by decide, by decide, rfl, rfl⟩
theorem prdNot (o : Ops) : Statement (.prdNot o) := of_opcode rfl ⟨by decide, by decide, rfl, rfl⟩
theorem prdSet (o : Ops) : Statement (.prdSet o) := of_opcode rfl ⟨by decide, by decide, rfl, rfl⟩
theorem prdPack (o : Ops) : Statement (.prdPack o) := of_opcode rfl ⟨by decide, by decide, rfl, rfl⟩
theorem prdUnpack (o : Ops) : Statement (.prdUnpack o) := of_opcode rfl ⟨by decide, by decide, rfl, rfl⟩
theorem prdKpack (o : Ops) : Statement (.prdKpack o) := of_opcode rfl ⟨by decide, by decide, rfl, rfl⟩
theorem prdKunpack (o : Ops) : Statement (.prdKunpack o) := of_opcode rfl ⟨by decide, by decide, rfl, rfl⟩
theorem ctlBra (o : Ops) : Statement (.ctlBra o) := of_opcode rfl ⟨by decide, by decide, rfl, rfl⟩
theorem ctlJmp (o : Ops) : Statement (.ctlJmp o) := of_opcode rfl ⟨by decide, by decide, rfl, rfl⟩
theorem ctlCall (o : Ops) : Statement (.ctlCall o) := of_opcode rfl ⟨by decide, by decide, rfl, rfl⟩
theorem ctlCallr (o : Ops) : Statement (.ctlCallr o) := of_opcode rfl ⟨by decide, by decide, rfl, rfl⟩
theorem ctlRet (o : Ops) : Statement (.ctlRet o) := of_opcode rfl ⟨by decide, by decide, rfl, rfl⟩
theorem ctlLoop (o : Ops) : Statement (.ctlLoop o) := of_opcode rfl ⟨by decide, by decide, rfl, rfl⟩
theorem ctlNop (o : Ops) : Statement (.ctlNop o) := of_opcode rfl ⟨by decide, by decide, rfl, rfl⟩
theorem ctlEnter (o : Ops) : Statement (.ctlEnter o) := of_opcode rfl ⟨by decide, by decide, rfl, rfl⟩
theorem ctlLeave (o : Ops) : Statement (.ctlLeave o) := of_opcode rfl ⟨by decide, by decide, rfl, rfl⟩
theorem sysGet (o : Ops) : Statement (.sysGet o) := of_opcode rfl ⟨by decide, by decide, rfl, rfl⟩
theorem sysSet (o : Ops) : Statement (.sysSet o) := of_opcode rfl ⟨by decide, by decide, rfl, rfl⟩
theorem sysTrap (o : Ops) : Statement (.sysTrap o) := of_opcode rfl ⟨by decide, by decide, rfl, rfl⟩
theorem sysBreak (o : Ops) : Statement (.sysBreak o) := of_opcode rfl ⟨by decide, by decide, rfl, rfl⟩
theorem sysPerf (o : Ops) : Statement (.sysPerf o) := of_opcode rfl ⟨by decide, by decide, rfl, rfl⟩
theorem fltAdd (o : Ops) : Statement (.fltAdd o) := of_opcode rfl ⟨by decide, by decide, rfl, rfl⟩
theorem fltSub (o : Ops) : Statement (.fltSub o) := of_opcode rfl ⟨by decide, by decide, rfl, rfl⟩
theorem fltMul (o : Ops) : Statement (.fltMul o) := of_opcode rfl ⟨by decide, by decide, rfl, rfl⟩
theorem fltFma (o : Ops) : Statement (.fltFma o) := of_opcode rfl ⟨by decide, by decide, rfl, rfl⟩
theorem fltDiv (o : Ops) : Statement (.fltDiv o) := of_opcode rfl ⟨by decide, by decide, rfl, rfl⟩
theorem fltSqrt (o : Ops) : Statement (.fltSqrt o) := of_opcode rfl ⟨by decide, by decide, rfl, rfl⟩
theorem fltMin (o : Ops) : Statement (.fltMin o) := of_opcode rfl ⟨by decide, by decide, rfl, rfl⟩
theorem fltMax (o : Ops) : Statement (.fltMax o) := of_opcode rfl ⟨by decide, by decide, rfl, rfl⟩
theorem fltAbs (o : Ops) : Statement (.fltAbs o) := of_opcode rfl ⟨by decide, by decide, rfl, rfl⟩
theorem fltNeg (o : Ops) : Statement (.fltNeg o) := of_opcode rfl ⟨by decide, by decide, rfl, rfl⟩
theorem fltCvt (o : Ops) : Statement (.fltCvt o) := of_opcode rfl ⟨by decide, by decide, rfl, rfl⟩
theorem ldDisp (o : Ops) : Statement (.ldDisp o) := of_opcode rfl ⟨by decide, by decide, rfl, rfl⟩
theorem ldIdx (o : Ops) : Statement (.ldIdx o) := of_opcode rfl ⟨by decide, by decide, rfl, rfl⟩
theorem ldFe (o : Ops) : Statement (.ldFe o) := of_opcode rfl ⟨by decide, by decide, rfl, rfl⟩
theorem ldAcq (o : Ops) : Statement (.ldAcq o) := of_opcode rfl ⟨by decide, by decide, rfl, rfl⟩
theorem ldProbe (o : Ops) : Statement (.ldProbe o) := of_opcode rfl ⟨by decide, by decide, rfl, rfl⟩
theorem stDisp (o : Ops) : Statement (.stDisp o) := of_opcode rfl ⟨by decide, by decide, rfl, rfl⟩
theorem stIdx (o : Ops) : Statement (.stIdx o) := of_opcode rfl ⟨by decide, by decide, rfl, rfl⟩
theorem stFe (o : Ops) : Statement (.stFe o) := of_opcode rfl ⟨by decide, by decide, rfl, rfl⟩
theorem stRel (o : Ops) : Statement (.stRel o) := of_opcode rfl ⟨by decide, by decide, rfl, rfl⟩
theorem stClr (o : Ops) : Statement (.stClr o) := of_opcode rfl ⟨by decide, by decide, rfl, rfl⟩
theorem atmAdd (o : Ops) : Statement (.atmAdd o) := of_opcode rfl ⟨by decide, by decide, rfl, rfl⟩
theorem atmAnd (o : Ops) : Statement (.atmAnd o) := of_opcode rfl ⟨by decide, by decide, rfl, rfl⟩
theorem atmOr (o : Ops) : Statement (.atmOr o) := of_opcode rfl ⟨by decide, by decide, rfl, rfl⟩
theorem atmXor (o : Ops) : Statement (.atmXor o) := of_opcode rfl ⟨by decide, by decide, rfl, rfl⟩
theorem atmMin (o : Ops) : Statement (.atmMin o) := of_opcode rfl ⟨by decide, by decide, rfl, rfl⟩
theorem atmMax (o : Ops) : Statement (.atmMax o) := of_opcode rfl ⟨by decide, by decide, rfl, rfl⟩
theorem atmXchg (o : Ops) : Statement (.atmXchg o) := of_opcode rfl ⟨by decide, by decide, rfl, rfl⟩
theorem atmCas (o : Ops) : Statement (.atmCas o) := of_opcode rfl ⟨by decide, by decide, rfl, rfl⟩
theorem atmFadd (o : Ops) : Statement (.atmFadd o) := of_opcode rfl ⟨by decide, by decide, rfl, rfl⟩
theorem fncFence (o : Ops) : Statement (.fncFence o) := of_opcode rfl ⟨by decide, by decide, rfl, rfl⟩
theorem fncDrain (o : Ops) : Statement (.fncDrain o) := of_opcode rfl ⟨by decide, by decide, rfl, rfl⟩
theorem cpyGo1 (o : Ops) : Statement (.cpyGo1 o) := of_opcode rfl ⟨by decide, by decide, rfl, rfl⟩
theorem cpyGo2 (o : Ops) : Statement (.cpyGo2 o) := of_opcode rfl ⟨by decide, by decide, rfl, rfl⟩
theorem cpyGather (o : Ops) : Statement (.cpyGather o) := of_opcode rfl ⟨by decide, by decide, rfl, rfl⟩
theorem cpyScatter (o : Ops) : Statement (.cpyScatter o) := of_opcode rfl ⟨by decide, by decide, rfl, rfl⟩
theorem cpyFill (o : Ops) : Statement (.cpyFill o) := of_opcode rfl ⟨by decide, by decide, rfl, rfl⟩
theorem cpyJoin (o : Ops) : Statement (.cpyJoin o) := of_opcode rfl ⟨by decide, by decide, rfl, rfl⟩
theorem cpyWait (o : Ops) : Statement (.cpyWait o) := of_opcode rfl ⟨by decide, by decide, rfl, rfl⟩
theorem vecAdd (o : Ops) : Statement (.vecAdd o) := of_opcode rfl ⟨by decide, by decide, rfl, rfl⟩
theorem vecSub (o : Ops) : Statement (.vecSub o) := of_opcode rfl ⟨by decide, by decide, rfl, rfl⟩
theorem vecMul (o : Ops) : Statement (.vecMul o) := of_opcode rfl ⟨by decide, by decide, rfl, rfl⟩
theorem vecFma (o : Ops) : Statement (.vecFma o) := of_opcode rfl ⟨by decide, by decide, rfl, rfl⟩
theorem vecFms (o : Ops) : Statement (.vecFms o) := of_opcode rfl ⟨by decide, by decide, rfl, rfl⟩
theorem vecMin (o : Ops) : Statement (.vecMin o) := of_opcode rfl ⟨by decide, by decide, rfl, rfl⟩
theorem vecMax (o : Ops) : Statement (.vecMax o) := of_opcode rfl ⟨by decide, by decide, rfl, rfl⟩
theorem vecAbs (o : Ops) : Statement (.vecAbs o) := of_opcode rfl ⟨by decide, by decide, rfl, rfl⟩
theorem vecNeg (o : Ops) : Statement (.vecNeg o) := of_opcode rfl ⟨by decide, by decide, rfl, rfl⟩
theorem vecAnd (o : Ops) : Statement (.vecAnd o) := of_opcode rfl ⟨by decide, by decide, rfl, rfl⟩
theorem vecOr (o : Ops) : Statement (.vecOr o) := of_opcode rfl ⟨by decide, by decide, rfl, rfl⟩
theorem vecXor (o : Ops) : Statement (.vecXor o) := of_opcode rfl ⟨by decide, by decide, rfl, rfl⟩
theorem vecShl (o : Ops) : Statement (.vecShl o) := of_opcode rfl ⟨by decide, by decide, rfl, rfl⟩
theorem vecShr (o : Ops) : Statement (.vecShr o) := of_opcode rfl ⟨by decide, by decide, rfl, rfl⟩
theorem vecMov (o : Ops) : Statement (.vecMov o) := of_opcode rfl ⟨by decide, by decide, rfl, rfl⟩
theorem vecBcast (o : Ops) : Statement (.vecBcast o) := of_opcode rfl ⟨by decide, by decide, rfl, rfl⟩
theorem vecSel (o : Ops) : Statement (.vecSel o) := of_opcode rfl ⟨by decide, by decide, rfl, rfl⟩
theorem vecAdds (o : Ops) : Statement (.vecAdds o) := of_opcode rfl ⟨by decide, by decide, rfl, rfl⟩
theorem vecSubs (o : Ops) : Statement (.vecSubs o) := of_opcode rfl ⟨by decide, by decide, rfl, rfl⟩
theorem vcvCvt (o : Ops) : Statement (.vcvCvt o) := of_opcode rfl ⟨by decide, by decide, rfl, rfl⟩
theorem vcvPack (o : Ops) : Statement (.vcvPack o) := of_opcode rfl ⟨by decide, by decide, rfl, rfl⟩
theorem vcvUnpack (o : Ops) : Statement (.vcvUnpack o) := of_opcode rfl ⟨by decide, by decide, rfl, rfl⟩
theorem vcvQnt (o : Ops) : Statement (.vcvQnt o) := of_opcode rfl ⟨by decide, by decide, rfl, rfl⟩
theorem vcvScale (o : Ops) : Statement (.vcvScale o) := of_opcode rfl ⟨by decide, by decide, rfl, rfl⟩
theorem vsfExp2 (o : Ops) : Statement (.vsfExp2 o) := of_opcode rfl ⟨by decide, by decide, rfl, rfl⟩
theorem vsfLog2 (o : Ops) : Statement (.vsfLog2 o) := of_opcode rfl ⟨by decide, by decide, rfl, rfl⟩
theorem vsfRcp (o : Ops) : Statement (.vsfRcp o) := of_opcode rfl ⟨by decide, by decide, rfl, rfl⟩
theorem vsfRsqrt (o : Ops) : Statement (.vsfRsqrt o) := of_opcode rfl ⟨by decide, by decide, rfl, rfl⟩
theorem vsfSqrt (o : Ops) : Statement (.vsfSqrt o) := of_opcode rfl ⟨by decide, by decide, rfl, rfl⟩
theorem vpmPerm (o : Ops) : Statement (.vpmPerm o) := of_opcode rfl ⟨by decide, by decide, rfl, rfl⟩
theorem vpmRot (o : Ops) : Statement (.vpmRot o) := of_opcode rfl ⟨by decide, by decide, rfl, rfl⟩
theorem vpmRed (o : Ops) : Statement (.vpmRed o) := of_opcode rfl ⟨by decide, by decide, rfl, rfl⟩
theorem vpmScan (o : Ops) : Statement (.vpmScan o) := of_opcode rfl ⟨by decide, by decide, rfl, rfl⟩
theorem vpmExtr (o : Ops) : Statement (.vpmExtr o) := of_opcode rfl ⟨by decide, by decide, rfl, rfl⟩
theorem vpmIns (o : Ops) : Statement (.vpmIns o) := of_opcode rfl ⟨by decide, by decide, rfl, rfl⟩
theorem vpmIota (o : Ops) : Statement (.vpmIota o) := of_opcode rfl ⟨by decide, by decide, rfl, rfl⟩
theorem vlsLd (o : Ops) : Statement (.vlsLd o) := of_opcode rfl ⟨by decide, by decide, rfl, rfl⟩
theorem vlsSt (o : Ops) : Statement (.vlsSt o) := of_opcode rfl ⟨by decide, by decide, rfl, rfl⟩
theorem vlsLds (o : Ops) : Statement (.vlsLds o) := of_opcode rfl ⟨by decide, by decide, rfl, rfl⟩
theorem vlsSts (o : Ops) : Statement (.vlsSts o) := of_opcode rfl ⟨by decide, by decide, rfl, rfl⟩
theorem vlsLdg (o : Ops) : Statement (.vlsLdg o) := of_opcode rfl ⟨by decide, by decide, rfl, rfl⟩
theorem vlsLdfe (o : Ops) : Statement (.vlsLdfe o) := of_opcode rfl ⟨by decide, by decide, rfl, rfl⟩
theorem vlsStfe (o : Ops) : Statement (.vlsStfe o) := of_opcode rfl ⟨by decide, by decide, rfl, rfl⟩
theorem vcmpEq (o : Ops) : Statement (.vcmpEq o) := of_opcode rfl ⟨by decide, by decide, rfl, rfl⟩
theorem vcmpNe (o : Ops) : Statement (.vcmpNe o) := of_opcode rfl ⟨by decide, by decide, rfl, rfl⟩
theorem vcmpLt (o : Ops) : Statement (.vcmpLt o) := of_opcode rfl ⟨by decide, by decide, rfl, rfl⟩
theorem vcmpLe (o : Ops) : Statement (.vcmpLe o) := of_opcode rfl ⟨by decide, by decide, rfl, rfl⟩
theorem vcmpGt (o : Ops) : Statement (.vcmpGt o) := of_opcode rfl ⟨by decide, by decide, rfl, rfl⟩
theorem vcmpGe (o : Ops) : Statement (.vcmpGe o) := of_opcode rfl ⟨by decide, by decide, rfl, rfl⟩
theorem vcmpUnord (o : Ops) : Statement (.vcmpUnord o) := of_opcode rfl ⟨by decide, by decide, rfl, rfl⟩
theorem mxuMma (o : Ops) : Statement (.mxuMma o) := of_opcode rfl ⟨by decide, by decide, rfl, rfl⟩
theorem mxuBlk (o : Ops) : Statement (.mxuBlk o) := of_opcode rfl ⟨by decide, by decide, rfl, rfl⟩
theorem mxuSca (o : Ops) : Statement (.mxuSca o) := of_opcode rfl ⟨by decide, by decide, rfl, rfl⟩
theorem mxuZero (o : Ops) : Statement (.mxuZero o) := of_opcode rfl ⟨by decide, by decide, rfl, rfl⟩
theorem mxuXfer (o : Ops) : Statement (.mxuXfer o) := of_opcode rfl ⟨by decide, by decide, rfl, rfl⟩
theorem mxuLoad (o : Ops) : Statement (.mxuLoad o) := of_opcode rfl ⟨by decide, by decide, rfl, rfl⟩
theorem mxuWait (o : Ops) : Statement (.mxuWait o) := of_opcode rfl ⟨by decide, by decide, rfl, rfl⟩
theorem mxuProg (o : Ops) : Statement (.mxuProg o) := of_opcode rfl ⟨by decide, by decide, rfl, rfl⟩
theorem sclLd (o : Ops) : Statement (.sclLd o) := of_opcode rfl ⟨by decide, by decide, rfl, rfl⟩
theorem sclMov (o : Ops) : Statement (.sclMov o) := of_opcode rfl ⟨by decide, by decide, rfl, rfl⟩
theorem sclClr (o : Ops) : Statement (.sclClr o) := of_opcode rfl ⟨by decide, by decide, rfl, rfl⟩
theorem cuePost (o : Ops) : Statement (.cuePost o) := of_opcode rfl ⟨by decide, by decide, rfl, rfl⟩
theorem cuePostb (o : Ops) : Statement (.cuePostb o) := of_opcode rfl ⟨by decide, by decide, rfl, rfl⟩
theorem cueSelf (o : Ops) : Statement (.cueSelf o) := of_opcode rfl ⟨by decide, by decide, rfl, rfl⟩
theorem cueTimer (o : Ops) : Statement (.cueTimer o) := of_opcode rfl ⟨by decide, by decide, rfl, rfl⟩
theorem cueEnd (o : Ops) : Statement (.cueEnd o) := of_opcode rfl ⟨by decide, by decide, rfl, rfl⟩
theorem cueNow (o : Ops) : Statement (.cueNow o) := of_opcode rfl ⟨by decide, by decide, rfl, rfl⟩
theorem cueTag (o : Ops) : Statement (.cueTag o) := of_opcode rfl ⟨by decide, by decide, rfl, rfl⟩
theorem cueInfo (o : Ops) : Statement (.cueInfo o) := of_opcode rfl ⟨by decide, by decide, rfl, rfl⟩
theorem cueHzn (o : Ops) : Statement (.cueHzn o) := of_opcode rfl ⟨by decide, by decide, rfl, rfl⟩
theorem accChain (o : Ops) : Statement (.accChain o) := of_opcode rfl ⟨by decide, by decide, rfl, rfl⟩
theorem accSend (o : Ops) : Statement (.accSend o) := of_opcode rfl ⟨by decide, by decide, rfl, rfl⟩
theorem accStat (o : Ops) : Statement (.accStat o) := of_opcode rfl ⟨by decide, by decide, rfl, rfl⟩
theorem accBreak (o : Ops) : Statement (.accBreak o) := of_opcode rfl ⟨by decide, by decide, rfl, rfl⟩
theorem barInit (o : Ops) : Statement (.barInit o) := of_opcode rfl ⟨by decide, by decide, rfl, rfl⟩
theorem barArrive (o : Ops) : Statement (.barArrive o) := of_opcode rfl ⟨by decide, by decide, rfl, rfl⟩
theorem barWait (o : Ops) : Statement (.barWait o) := of_opcode rfl ⟨by decide, by decide, rfl, rfl⟩
theorem barSync (o : Ops) : Statement (.barSync o) := of_opcode rfl ⟨by decide, by decide, rfl, rfl⟩
theorem barLine (o : Ops) : Statement (.barLine o) := of_opcode rfl ⟨by decide, by decide, rfl, rfl⟩
theorem barDrop (o : Ops) : Statement (.barDrop o) := of_opcode rfl ⟨by decide, by decide, rfl, rfl⟩
theorem grpId (o : Ops) : Statement (.grpId o) := of_opcode rfl ⟨by decide, by decide, rfl, rfl⟩
theorem grpSize (o : Ops) : Statement (.grpSize o) := of_opcode rfl ⟨by decide, by decide, rfl, rfl⟩
theorem grpExit (o : Ops) : Statement (.grpExit o) := of_opcode rfl ⟨by decide, by decide, rfl, rfl⟩
theorem grpBudget (o : Ops) : Statement (.grpBudget o) := of_opcode rfl ⟨by decide, by decide, rfl, rfl⟩
theorem grpRegs (o : Ops) : Statement (.grpRegs o) := of_opcode rfl ⟨by decide, by decide, rfl, rfl⟩
theorem quePush (o : Ops) : Statement (.quePush o) := of_opcode rfl ⟨by decide, by decide, rfl, rfl⟩
theorem queStat (o : Ops) : Statement (.queStat o) := of_opcode rfl ⟨by decide, by decide, rfl, rfl⟩
theorem queWait (o : Ops) : Statement (.queWait o) := of_opcode rfl ⟨by decide, by decide, rfl, rfl⟩
theorem ctxYield (o : Ops) : Statement (.ctxYield o) := of_opcode rfl ⟨by decide, by decide, rfl, rfl⟩
theorem ctxInfo (o : Ops) : Statement (.ctxInfo o) := of_opcode rfl ⟨by decide, by decide, rfl, rfl⟩
theorem pgProbe (o : Ops) : Statement (.pgProbe o) := of_opcode rfl ⟨by decide, by decide, rfl, rfl⟩
theorem lnkStat (o : Ops) : Statement (.lnkStat o) := of_opcode rfl ⟨by decide, by decide, rfl, rfl⟩
theorem variableLatencyResult (acc : Nat) : Statement (.variableLatencyResult acc) := of_event rfl
theorem switchMarkerWaitEnds (tid : Nat) : Statement (.switchMarkerWaitEnds tid) := of_event rfl
theorem faultDelivered (tid : Nat) : Statement (.faultDelivered tid) := of_event rfl
theorem remoteFaultReport (acc part : Nat) (ecc : Bool) : Statement (.remoteFaultReport acc part ecc) := of_event rfl
theorem consumingLoadServed (core : Nat) : Statement (.consumingLoadServed core) := of_event rfl
theorem consumingLoadResend (acc : Nat) : Statement (.consumingLoadResend acc) := of_event rfl
theorem poolAccessArrival (acc part : Nat) : Statement (.poolAccessArrival acc part) := of_event rfl
theorem storeAcknowledgement (acc part : Nat) : Statement (.storeAcknowledgement acc part) := of_event rfl
theorem sfuResult (core : Nat) : Statement (.sfuResult core) := of_event rfl
theorem copyStart (core q : Nat) : Statement (.copyStart core q) := of_event rfl
theorem retireUnit (core q : Nat) : Statement (.retireUnit core q) := of_event rfl
theorem copyFinish (core q : Nat) : Statement (.copyFinish core q) := of_event rfl
theorem copyFault (core q : Nat) (ecc : Bool) : Statement (.copyFault core q ecc) := of_event rfl
theorem copyRetry (core q : Nat) : Statement (.copyRetry core q) := of_event rfl
theorem mxuAccept (core : Nat) : Statement (.mxuAccept core) := of_event rfl
theorem mxuGrant (tile : Nat) : Statement (.mxuGrant tile) := of_event rfl
theorem mxuFinish (core : Nat) : Statement (.mxuFinish core) := of_event rfl
theorem mxuOperandFault (core : Nat) (ecc : Bool) : Statement (.mxuOperandFault core ecc) := of_event rfl
theorem mxuRetry (core : Nat) : Statement (.mxuRetry core) := of_event rfl
theorem cueStore (cue : Nat) : Statement (.cueStore cue) := of_event rfl
theorem cueSpill (cue : Nat) : Statement (.cueSpill cue) := of_event rfl
theorem cueHold (cue : Nat) : Statement (.cueHold cue) := of_event rfl
theorem cueMerge (tid : Nat) : Statement (.cueMerge tid) := of_event rfl
theorem spillFetchDone (tid : Nat) : Statement (.spillFetchDone tid) := of_event rfl
theorem cueForward (cue : Nat) : Statement (.cueForward cue) := of_event rfl
theorem cueRelease (tid : Nat) : Statement (.cueRelease tid) := of_event rfl
theorem handlerStart (tid : Nat) : Statement (.handlerStart tid) := of_event rfl
theorem budgetExhausted (tid : Nat) : Statement (.budgetExhausted tid) := of_event rfl
theorem packetAccept (asid q : Nat) : Statement (.packetAccept asid q) := of_event rfl
theorem doorbell (asid q : Nat) : Statement (.doorbell asid q) := of_event rfl
theorem dispatchOpportunity : Statement (.dispatchOpportunity) := of_event rfl
theorem launch (asid q : Nat) : Statement (.launch asid q) := of_event rfl
theorem cuePacket (asid q : Nat) : Statement (.cuePacket asid q) := of_event rfl
theorem copyPacket (asid q : Nat) : Statement (.copyPacket asid q) := of_event rfl
theorem collectiveStep (asid q : Nat) : Statement (.collectiveStep asid q) := of_event rfl
theorem arrivalNotice : Statement (.arrivalNotice) := of_event rfl
theorem fencePacket (asid q : Nat) : Statement (.fencePacket asid q) := of_event rfl
theorem mark (asid q : Nat) : Statement (.mark asid q) := of_event rfl
theorem preempt (asid q : Nat) : Statement (.preempt asid q) := of_event rfl
theorem resume (asid q : Nat) : Statement (.resume asid q) := of_event rfl
theorem promptBookComplete (asid q : Nat) (seq : Word) : Statement (.promptBookComplete asid q seq) := of_event rfl
theorem hostStoreAckRead (asid q : Nat) (seq : Word) : Statement (.hostStoreAckRead asid q seq) := of_event rfl
theorem queuePushWrite (asid q : Nat) : Statement (.queuePushWrite asid q) := of_event rfl
theorem queueAccessFault (asid q : Nat) : Statement (.queueAccessFault asid q) := of_event rfl
theorem gangPlaced (asid q : Nat) (seq : Word) (remoteFree : List Nat) : Statement (.gangPlaced asid q seq remoteFree) := of_event rfl
theorem cast (core : Nat) : Statement (.cast core) := of_event rfl
theorem gangLeaves (asid q : Nat) (seq : Word) (gang : Nat) : Statement (.gangLeaves asid q seq gang) := of_event rfl
theorem create (asid : Nat) (peers : List Nat) : Statement (.create asid peers) := of_event rfl
theorem load (asid : Nat) : Statement (.load asid) := of_event rfl
theorem destroy (asid : Nat) : Statement (.destroy asid) := of_event rfl
theorem clear (asid : Nat) : Statement (.clear asid) := of_event rfl
theorem attest (asid : Nat) : Statement (.attest asid) := of_event rfl
theorem pauseProposal : Statement (.pauseProposal) := of_event rfl
theorem pauseReply : Statement (.pauseReply) := of_event rfl
theorem pauseAgreed : Statement (.pauseAgreed) := of_event rfl
theorem releaseStop (asid : Nat) : Statement (.releaseStop asid) := of_event rfl
theorem saveComplete (asid : Nat) : Statement (.saveComplete asid) := of_event rfl
theorem resumeAgreement (asid : Nat) : Statement (.resumeAgreement asid) := of_event rfl
theorem restoreComplete (asid : Nat) : Statement (.restoreComplete asid) := of_event rfl
theorem killNotice : Statement (.killNotice) := of_event rfl
theorem chainJoin (msg : Nat) : Statement (.chainJoin msg) := of_event rfl
theorem chainAck (msg : Nat) : Statement (.chainAck msg) := of_event rfl
theorem chainNak (msg : Nat) : Statement (.chainNak msg) := of_event rfl
theorem joinRetry (tile entry : Nat) : Statement (.joinRetry tile entry) := of_event rfl
theorem stripAccepted (tile entry src : Nat) : Statement (.stripAccepted tile entry src) := of_event rfl
theorem chainCredit (msg : Nat) : Statement (.chainCredit msg) := of_event rfl
theorem chainComplete (msg : Nat) : Statement (.chainComplete msg) := of_event rfl
theorem chainBreak (msg : Nat) : Statement (.chainBreak msg) := of_event rfl
theorem chainTimeout (tile entry : Nat) : Statement (.chainTimeout tile entry) := of_event rfl
theorem barrierArrival (msg : Nat) : Statement (.barrierArrival msg) := of_event rfl
theorem barrierRelease (msg : Nat) : Statement (.barrierRelease msg) := of_event rfl
theorem curtainArrival (tile entry : Nat) : Statement (.curtainArrival tile entry) := of_event rfl
theorem barTimeout (tile entry : Nat) : Statement (.barTimeout tile entry) := of_event rfl
theorem threadDeparture (msg : Nat) : Statement (.threadDeparture msg) := of_event rfl
theorem translationRequest (acc part : Nat) : Statement (.translationRequest acc part) := of_event rfl
theorem walkDone (acc part : Nat) : Statement (.walkDone acc part) := of_event rfl
theorem pageFaultAnswer (asid : Nat) (va : Word) (resolved : Bool) (writes : List (Nat × Word)) : Statement (.pageFaultAnswer asid va resolved writes) := of_event rfl
theorem invalidation (kind : InvKind) (writes : List (Nat × Word)) : Statement (.invalidation kind writes) := of_event rfl
theorem invalidationComplete : Statement (.invalidationComplete) := of_event rfl
theorem dramBurst (ch : Nat) : Statement (.dramBurst ch) := of_event rfl
theorem dramRefresh (ch : Nat) : Statement (.dramRefresh ch) := of_event rfl
theorem flitReceived (port : Nat) (flit : Flit) : Statement (.flitReceived port flit) := of_event rfl
theorem retryRequest (port seq : Nat) : Statement (.retryRequest port seq) := of_event rfl
theorem remoteOperation (ecc : Bool) : Statement (.remoteOperation ecc) := of_event rfl
theorem remoteAck : Statement (.remoteAck) := of_event rfl
theorem timeExchange (port : Nat) : Statement (.timeExchange port) := of_event rfl
theorem timeStamp : Statement (.timeStamp) := of_event rfl
theorem holdover : Statement (.holdover) := of_event rfl
theorem configure (port peer peerPort : Nat) : Statement (.configure port peer peerPort) := of_event rfl
theorem trainDone (port lanes : Nat) : Statement (.trainDone port lanes) := of_event rfl
theorem trainFail (port : Nat) : Statement (.trainFail port) := of_event rfl
theorem laneFailure (port : Nat) : Statement (.laneFailure port) := of_event rfl
theorem retryExhausted (port : Nat) : Statement (.retryExhausted port) := of_event rfl
theorem peerLost (port : Nat) : Statement (.peerLost port) := of_event rfl
theorem retrain (port : Nat) : Statement (.retrain port) := of_event rfl
theorem portDisable (port : Nat) : Statement (.portDisable port) := of_event rfl
theorem routeTableUpdate (dst port : Nat) : Statement (.routeTableUpdate dst port) := of_event rfl
theorem powerOnReset (boot : BootReport) : Statement (.powerOnReset boot) := of_event rfl
theorem functionLevelReset (boot : BootReport) : Statement (.functionLevelReset boot) := of_event rfl
theorem resetCold (boot : BootReport) : Statement (.resetCold boot) := of_event rfl
theorem resetWarm (boot : BootReport) : Statement (.resetWarm boot) := of_event rfl
theorem powerWrite (value : Word) (needed : Nat) : Statement (.powerWrite value needed) := of_event rfl
theorem thermalTrip (die : Nat) : Statement (.thermalTrip die) := of_event rfl
theorem thermalClear : Statement (.thermalClear) := of_event rfl
theorem registerWrite (reg : RegWrite) (value : Word) : Statement (.registerWrite reg value) := of_event rfl
theorem flitTime (port : Nat) : Statement (.flitTime port) := of_event rfl
theorem targetAdderFlit (tile entry : Nat) : Statement (.targetAdderFlit tile entry) := of_event rfl
theorem hostWindowWrite (offset : Nat) (bytes : List Byte) : Statement (.hostWindowWrite offset bytes) := of_event rfl
theorem queueEnable (asid q : Nat) : Statement (.queueEnable asid q) := of_event rfl
theorem queueDisable (asid q : Nat) : Statement (.queueDisable asid q) := of_event rfl
theorem loadAgreement : Statement (.loadAgreement) := of_event rfl
theorem parentPortNamed (port root : Nat) (asym : Nat) : Statement (.parentPortNamed port root asym) := of_event rfl
theorem powerCapping (watts : Nat) : Statement (.powerCapping watts) := of_event rfl

end Sys2Proof.Laws.Rebuilt
end

