-- ==== Sys2Proof/Laws/Vector.lean ====
section
/-! SUPPORT. Elements of vector registers read back, and what an instruction does that produces D's elements in order. -/

namespace Sys2Proof.Claims

open Machine

/-- An element of `w` bits that lies inside the register reads back as written; another element is as before. -/
theorem elemOf_setElem (v : VWord) (w e f y : Nat) (he : w * (e + 1) ≤ 512) (hf : w * (f + 1) ≤ 512) :
    elemOf (setElem v w e y) w f = if f = e then y % 2 ^ w else elemOf v w f := by
  have hfe : ∀ i, i < w → w * f + i < 512 := by intro i hi; nlinarith
  have key : ∀ i, i < w → (setElem v w e y).getLsbD (w * f + i) =
      if f = e then y.testBit i else v.getLsbD (w * f + i) := by
    intro i hi
    have hlt := hfe i hi
    unfold setElem
    simp only [BitVec.getLsbD_or, BitVec.getLsbD_and, BitVec.getLsbD_not, BitVec.getLsbD_ofNat, hlt, decide_true,
      Bool.true_and, Nat.testBit_mul_two_pow, Nat.testBit_two_pow_sub_one, Nat.testBit_mod_two_pow]
    by_cases h : f = e
    · subst h
      simp [hi]
    · simp only [h, if_false]
      rcases Nat.lt_or_gt_of_ne h with h1 | h1
      · have : ¬ w * e ≤ w * f + i := by nlinarith
        simp [this]
      · have h2 : ¬ (w * f + i - w * e < w) := by
          have : w * (e + 1) ≤ w * f := Nat.mul_le_mul_left _ h1
          have : w * e + w ≤ w * f := by linarith [Nat.mul_succ w e]
          omega
        simp [h2]
  apply Nat.eq_of_testBit_eq
  intro i
  unfold elemOf
  simp only [BitVec.extractLsb'_toNat, Nat.testBit_mod_two_pow, Nat.testBit_shiftRight]
  by_cases hi : i < w
  · have := key i hi
    by_cases h : f = e
    · simp only [h, if_true, Nat.testBit_mod_two_pow, hi, decide_true, Bool.true_and] at this ⊢
      subst h
      simpa [BitVec.getLsbD] using this
    · simp only [h, if_false] at this ⊢
      simpa [BitVec.getLsbD, hi, BitVec.extractLsb'_toNat, Nat.testBit_shiftRight] using this
  · by_cases h : f = e <;> simp [h, hi, Nat.testBit_mod_two_pow]

/-- The flags gathered from a start are the start ORed with those gathered from nothing. -/
theorem flagsAfter_or (r : Nat → BitVec 32 → ElemRes) (es : List Nat) (g : BitVec 32) (fl : Nat) :
    flagsAfter r es g fl = orF fl (flagsAfter r es g 0) := by
  induction es generalizing g fl with
  | nil => simp [flagsAfter, orF]
  | cons e es ih =>
    simp only [flagsAfter]
    rw [ih, ih (fl := orF 0 _)]
    simp [orF, Nat.or_assoc]

/-- Elements produced in order into a register: the flags and the generator. -/
theorem foldl_put (w : Nat) (r : Nat → BitVec 32 → ElemRes) (es : List Nat) (v : VecAcc) :
    (es.foldl (fun v e => v.put w e (r e)) v).fl = flagsAfter r es v.gen v.fl ∧
    (es.foldl (fun v e => v.put w e (r e)) v).gen = genAfter r es v.gen := by
  induction es generalizing v with
  | nil => exact ⟨rfl, rfl⟩
  | cons e es ih => exact ih (v.put w e (r e))

/-- Elements produced in rising order into a register: each as its computation gives it, with the generator as the elements
below have left it; the others as before. -/
theorem foldl_put_elem (w n : Nat) (hn : w * n ≤ 512) (r : Nat → BitVec 32 → ElemRes) (es : List Nat)
    (hs : es.Pairwise (· < ·)) (hes : ∀ e ∈ es, e < n) (v : VecAcc) (f : Nat) (hf : f < n) :
    elemOf (es.foldl (fun v e => v.put w e (r e)) v).d w f =
      if f ∈ es then (r f (genAfter r (es.filter (fun e => decide (e < f))) v.gen)).1 % 2 ^ w else elemOf v.d w f := by
  have bound : ∀ e, e < n → w * (e + 1) ≤ 512 := fun e he => le_trans (Nat.mul_le_mul_left _ he) hn
  induction es generalizing v with
  | nil => simp
  | cons e es ih =>
    obtain ⟨hlt, hs'⟩ := List.pairwise_cons.1 hs
    have hes' : ∀ a ∈ es, a < n := fun a ha => hes a (List.mem_cons_of_mem _ ha)
    rw [List.foldl_cons, ih hs' hes']
    have he : e < n := hes e (List.mem_cons_self)
    have hput : elemOf (v.put w e (r e)).d w f = if f = e then (r e v.gen).1 % 2 ^ w else elemOf v.d w f :=
      elemOf_setElem v.d w e f _ (bound e he) (bound f hf)
    by_cases hmem : f ∈ es
    · have hef : e < f := hlt f hmem
      simp [hmem, hef, genAfter, VecAcc.put]
    · by_cases hfe : f = e
      · subst hfe
        have : (es.filter (fun e => decide (e < f))) = [] := by
          rw [List.filter_eq_nil_iff]
          intro a ha
          simpa using Nat.le_of_lt (hlt a ha)
        simp [hmem, hput, this, genAfter]
      · simp [hmem, hput, hfe]

/-- The elements of a type fit the register. -/
theorem width_elems (ty : Ty) : ty.width * ty.elems ≤ 512 := by cases ty <;> decide

/-- A fold that skips inactive elements is the fold over the active ones. -/
theorem foldl_active {α : Type} (f : α → Nat → α) (p : Nat → Bool) (es : List Nat) (a : α) :
    es.foldl (fun a e => if p e then f a e else a) a = (es.filter p).foldl f a := by
  induction es generalizing a with
  | nil => rfl
  | cons e es ih => by_cases h : p e <;> simp [h, ih]

/-- What the end of a vector instruction keeps of the thread. -/
theorem vecEnd_keeps (a : Thread) (d : BitVec 6) (v : VecAcc) : WriteKeeps a (a.vecEnd (.v d) v) [.v d] where
  pc := by simp [Thread.vecEnd]
  pend := by simp [Thread.vecEnd]
  perf := by simp [Thread.vecEnd]
  gap := by simp [Thread.vecEnd]
  regs := ⟨fun n _ => Thread.getX_congr (by simp [Thread.vecEnd]) n,
    fun n hn => by
      simp only [List.mem_singleton, Reg.v.injEq] at hn
      simp only [Thread.vecEnd, Thread.wv, Thread.getV_setV, hn, if_false]
      exact Thread.getV_congr (by simp) n,
    fun n _ => Thread.getP_congr (by simp [Thread.vecEnd]) n, fun n _ => Thread.getK_congr (by simp [Thread.vecEnd]) n,
    fun n _ => Thread.getS_congr (by simp [Thread.vecEnd]) n⟩
  rest := rfl

/-- An instruction that produces D's active elements in order. -/
theorem writesElems {maj fn : Nat} {o : Ops} {s : State} {i : Instr} {d : BitVec 6} {r : Nat → BitVec 32 → ElemRes}
    (h : Ready maj fn o s) (hd : o.d = .v d) (hx : extraRegs maj fn o = []) (hm : alwaysMarker maj fn = false)
    (f : Thread → Nat → BitVec 32 → ElemRes) (hi : exec i s = issueReg maj fn o s (fun t => t.vecMap o (f t)))
    (hr : ∀ q, f (s.cur.withPend q) = r) : WritesElems i maj fn o s d r := by
  have hfold : ∀ q, ((s.cur.withPend q).vecMap o (f (s.cur.withPend q))) =
      (s.cur.withPend q).vecEnd (.v d) ((activeElems o s.cur).foldl (fun v e => v.put o.ty.width e (r e))
        ⟨s.cur.getV d, 0, s.cur.gen⟩) := by
    intro q
    rw [hr q]
    simp only [Thread.vecMap, hd]
    rw [foldl_active (f := fun v e => VecAcc.put v o.ty.width e (r e))]
    rfl
  have hput := foldl_put o.ty.width r (activeElems o s.cur) ⟨s.cur.getV d, 0, s.cur.gen⟩
  unfold WritesElems
  refine issueReg_acts h hx hm hi (fun q => ?_) (fun q => ?_) (fun q => ?_) (fun q => ?_)
  · rw [hfold]; exact vecEnd_keeps _ d _
  · rw [hfold, ← hput.1]; rfl
  · rw [hfold, ← hput.2]; rfl
  · intro e he
    rw [Thread.getV_issued, hfold]
    have : ∀ (a : Thread) v, (a.vecEnd (.v d) v).getV d = v.d := by
      intro a v; simp [Thread.vecEnd, Thread.wv, Thread.getV_setV]
    rw [this]
    have hs : (activeElems o s.cur).Pairwise (· < ·) := List.Pairwise.filter _ List.pairwise_lt_range
    have hb : ∀ a ∈ activeElems o s.cur, a < o.ty.elems := fun a ha => List.mem_range.1 (List.mem_filter.1 ha).1
    rw [foldl_put_elem o.ty.width o.ty.elems (width_elems _) r _ hs hb _ e he]
    have hmem : (e ∈ activeElems o s.cur) ↔ s.cur.act o.g o.ty.per e = true := by simp [activeElems, he]
    simp only [hmem]

end Sys2Proof.Claims
end

