-- ==== Sys2Proof/Machine/GlasFile.lean ====
section
/-! DEFINITION. The `glas` assembler, third part: labels, directives and sections, and what a source assembles to (R91, R98
to R104). The source is read twice: the first pass fixes the addresses, the second encodes. -/

namespace Sys2Proof

/-! ## What the first pass gathers -/

/-- A `.handler` as written (R99, R104). -/
structure HandlerDecl where
  port     : Nat
  entry    : Chars
  budget   : Nat
  recv     : Option (Chars × Nat)
  deriving DecidableEq, Repr

/-- A level of the tree with its name (R100). -/
structure LevelDecl where
  name  : Chars
  level : Level
  deriving DecidableEq, Repr

/-- The arguments of `.partition` (R103). -/
structure PartDecl where
  x       : Nat
  v       : Nat
  threads : Nat
  scratch : Nat
  acc     : Nat
  deriving DecidableEq, Repr

/-- The kernel of a source (R98, R99). `treeOpen` holds between `.tree` and `.endtree`. -/
structure KernelDecl where
  name     : Chars
  port     : Nat
  isOpen   : Bool := true
  treeOpen : Bool := false
  levels   : List LevelDecl := []
  resident : Option Chars := none
  inputs   : Option Nat := none
  part     : Option PartDecl := none
  handlers : List HandlerDecl := []
  deriving DecidableEq, Repr

/-- A section under construction: its location counter and the log2 of its alignment (R101, R102). -/
structure SectionState where
  size  : Nat := 0
  align : Nat := 0
  deriving DecidableEq, Repr

/-- What a statement puts into its section: an instruction, integers of a width in bytes, or bytes. -/
inductive Piece where
  | instr (ts : List Tok)
  | ints (width : Nat) (es : List Expr)
  | bytes (bs : List Byte)
  deriving DecidableEq, Repr

/-- A piece with its section and its offset there. -/
structure Item where
  place : Place
  loc   : Nat
  piece : Piece
  deriving DecidableEq, Repr

/-- The state of the first pass. A file starts in `.code`, and the code section is aligned to 64 bytes (R101, R106). -/
structure AsmState where
  place   : Place := .code
  code    : SectionState := { align := 6 }
  data    : SectionState := {}
  rodata  : SectionState := {}
  bss     : SectionState := {}
  scratch : SectionState := {}
  syms    : List Symbol := []
  globals : List Chars := []
  kernel  : Option KernelDecl := none
  items   : List Item := []
  deriving DecidableEq, Repr

/-- A section's state. -/
def AsmState.at' (s : AsmState) (p : Place) : SectionState :=
  match p with
  | .code => s.code
  | .data => s.data
  | .rodata => s.rodata
  | .bss => s.bss
  | .scratch => s.scratch
  | .abs | .level => {}

/-- A section's state replaced. -/
def AsmState.put (s : AsmState) (p : Place) (x : SectionState) : AsmState :=
  match p with
  | .code => { s with code := x }
  | .data => { s with data := x }
  | .rodata => { s with rodata := x }
  | .bss => { s with bss := x }
  | .scratch => { s with scratch := x }
  | .abs | .level => s

/-- The location counter of the current section. -/
def AsmState.loc (s : AsmState) : Nat := (s.at' s.place).size

/-- The location counter moved on. -/
def AsmState.advance (s : AsmState) (n : Nat) : AsmState :=
  s.put s.place { s.at' s.place with size := s.loc + n }

/-- A piece placed at the location counter, `n` bytes long. -/
def AsmState.emit (s : AsmState) (piece : Piece) (n : Nat) : AsmState :=
  { s.advance n with items := s.items ++ [⟨s.place, s.loc, piece⟩] }

/-- A symbol defined (R92, R100). -/
def AsmState.define (s : AsmState) (n : Chars) (p : Place) (v : Int) : Except GlasError AsmState :=
  if !symbolOk n then .error .badSymbol
  else if (symbolNamed s.syms n).isSome then .error .symbolTwice
  else .ok { s with syms := s.syms ++ [{ name := n, place := p, value := v }] }

/-- The symbols and the location of a directive's expressions. -/
def AsmState.env (s : AsmState) : ExprEnv := { syms := s.syms, place := s.place, loc := s.loc, code := none }

/-- Whether the directives of R98 may stand here: inside a kernel. -/
def AsmState.inKernel (s : AsmState) (f : KernelDecl → Except GlasError KernelDecl) : Except GlasError AsmState :=
  match s.kernel with
  | some k => if k.isOpen then (f k).map (fun k => { s with kernel := some k }) else .error .badDirective
  | none => .error .badDirective

/-! ## Arguments -/

/-- A number of a directive: an expression without a symbol of another section.
DEDUCED, unsafe: log 67. -/
def AsmState.number (s : AsmState) (ts : List Tok) : Except GlasError (Int × List Tok) :=
  (parseExpr ts).bind (fun p => (p.1.number s.env).map (fun v => (v, p.2)))

/-- A number of a directive inside a range. -/
def AsmState.numberIn (s : AsmState) (lo hi : Int) (ts : List Tok) : Except GlasError (Nat × List Tok) :=
  (s.number ts).bind (fun p => if decide (lo ≤ p.1) && decide (p.1 ≤ hi) then .ok (p.1.toNat, p.2) else .error .argumentRange)

/-- A number that ends the arguments. -/
def AsmState.lastNumber (s : AsmState) (lo hi : Int) (ts : List Tok) : Except GlasError Nat :=
  (s.numberIn lo hi ts).bind (fun p => if p.2.isEmpty then .ok p.1 else .error .badSyntax)

/-- A name that is the whole argument. -/
def oneName (ts : List Tok) : Except GlasError Chars :=
  match ts with
  | [.name n] => .ok n
  | _ => .error .badSyntax

/-- Expressions between commas. `n` bounds their number. -/
def exprList : Nat → List Tok → Except GlasError (List Expr)
  | 0, _ => .error .badSyntax
  | n + 1, ts =>
    (parseExpr ts).bind (fun p =>
      match p.2 with
      | [] => .ok [p.1]
      | .sym [','] :: rest => (exprList n rest).map (p.1 :: ·)
      | _ => .error .badSyntax)

/-- A number of a floating data directive: decimal or hexadecimal, with a sign and without a suffix (R102). -/
def realOf (ts : List Tok) : Except GlasError (Ratio × Bool × List Tok) :=
  match ts with
  | .sym ['-'] :: .num n :: rest => .ok (⟨n, 1⟩, true, rest)
  | .sym ['-'] :: .real r :: rest => .ok (r, true, rest)
  | .num n :: rest => .ok (⟨n, 1⟩, false, rest)
  | .real r :: rest => .ok (r, false, rest)
  | _ => .error .badSyntax

/-- The codes of floating numbers between commas (R93, R102). -/
def realList (t : Ty) : Nat → List Tok → Except GlasError (List Nat)
  | 0, _ => .error .badSyntax
  | n + 1, ts =>
    (realOf ts).bind (fun p =>
      (p.1.bits p.2.1 t).bind (fun b =>
        match p.2.2 with
        | [] => .ok [b]
        | .sym [','] :: rest => (realList t n rest).map (b :: ·)
        | _ => .error .badSyntax))

/-- Codes of 4 bits packed two to a byte, the first in bits 3 to 0 (R102). -/
def packNibbles : List Nat → List Byte
  | a :: b :: rest => BitVec.ofNat 8 (a % 16 + 16 * (b % 16)) :: packNibbles rest
  | [a] => [BitVec.ofNat 8 (a % 16)]
  | [] => []

/-! ## Kernel directives (R98 to R100) -/

/-- `.kernel name port=n` (R99). -/
def dirKernel (s : AsmState) (ts : List Tok) : Except GlasError AsmState :=
  match s.kernel, ts with
  | some _, _ => .error .badKernel
  | none, .name n :: .name p :: .sym ['='] :: rest =>
    if !spells p "port" then .error .badSyntax
    else if !symbolOk n then .error .badSymbol
    else (s.lastNumber 0 255 rest).map (fun v => { s with kernel := some { name := n, port := v } })
  | none, _ => .error .badSyntax

/-- The physical levels in the order of their codes (R34, R100). -/
def bindNames : List String := ["lane", "slot", "core", "tile", "die", "package", "node", "rack", "domain"]

/-- The containment policies in the order of their codes (R109). -/
def policyNames : List String := ["ignore", "retry", "killself", "killparent"]

/-- The arguments of a `.level` line (R100), each at most once. -/
structure LevelArgs where
  fan    : Option Nat := none
  bind   : Option Nat := none
  shape  : Option (Nat × Nat) := none
  policy : Option (BitVec 8) := none
  deriving DecidableEq, Repr

/-- A policy list `a,b,c,d`: PROG, MEM, TIME and HW (R100, R109). -/
def policyOf (ts : List Tok) : Except GlasError (BitVec 8 × List Tok) :=
  match ts with
  | .name a :: .sym [','] :: .name b :: .sym [','] :: .name c :: .sym [','] :: .name d :: rest =>
    (match placeIn a policyNames, placeIn b policyNames, placeIn c policyNames, placeIn d policyNames with
    | some a, some b, some c, some d => .ok (BitVec.ofNat 8 (a + 4 * b + 16 * c + 64 * d), rest)
    | _, _, _, _ => .error .argumentRange)
  | _ => .error .badSyntax

/-- The binding of a level: a name, or a code from 0 to 8 (R35, R100). -/
def bindOf (s : AsmState) (ts : List Tok) : Except GlasError (Nat × List Tok) :=
  match ts with
  | .name n :: rest => (match placeIn n bindNames with
    | some b => .ok (b, rest)
    | none => s.numberIn 0 8 ts)
  | _ => s.numberIn 0 8 ts

/-- The arguments of a `.level` line. `n` bounds their number. -/
def levelArgs (s : AsmState) : Nat → List Tok → LevelArgs → Except GlasError LevelArgs
  | _, [], a => .ok a
  | 0, _, _ => .error .badSyntax
  | n + 1, .name k :: .sym ['='] :: rest, a =>
    if spells k "fan" && a.fan.isNone then
      (s.numberIn 1 (2 ^ 32 - 1) rest).bind (fun p => levelArgs s n p.2 { a with fan := some p.1 })
    else if spells k "bind" && a.bind.isNone then
      (bindOf s rest).bind (fun p => levelArgs s n p.2 { a with bind := some p.1 })
    else if spells k "shape" && a.shape.isNone then
      (match rest with
      | .pair r c :: rest =>
        if decide (1 ≤ r ∧ r ≤ 255 ∧ 1 ≤ c ∧ c ≤ 255) then levelArgs s n rest { a with shape := some (r, c) }
        else .error .argumentRange
      | _ => .error .badSyntax)
    else if spells k "policy" && a.policy.isNone then
      (policyOf rest).bind (fun p => levelArgs s n p.2 { a with policy := some p.1 })
    else .error .badSyntax
  | _ + 1, _, _ => .error .badSyntax

/-- `.level name fan=n bind=L [shape=RxC] [policy=a,b,c,d]` (R99, R100): the next level upwards. -/
def dirLevel (s : AsmState) (ts : List Tok) : Except GlasError AsmState :=
  match s.kernel, ts with
  | some k, .name n :: rest =>
    if !k.treeOpen then .error .badDirective
    else if k.levels.length = 16 then .error .argumentRange
    else
      (levelArgs s (rest.length + 1) rest {}).bind (fun a =>
        match a.fan, a.bind with
        | some fan, some bind =>
          if a.shape.isSome && bind ≠ 2 && bind ≠ 3 then .error .argumentRange
          else
            let l : Level := { bind := bind, policy := a.policy.getD 0xFF, rows := (a.shape.map Prod.fst).getD 0,
                               cols := (a.shape.map Prod.snd).getD 0, fan := fan }
            (s.define n .level k.levels.length).map (fun s =>
              { s with kernel := some { k with levels := k.levels ++ [⟨n, l⟩] } })
        | _, _ => .error .badSyntax)
  | _, _ => .error .badDirective

/-- `.tree`: the levels follow (R99). -/
def dirTree (s : AsmState) (ts : List Tok) : Except GlasError AsmState :=
  if !ts.isEmpty then .error .badSyntax
  else s.inKernel (fun k => if k.levels.isEmpty then .ok { k with treeOpen := true } else .error .badDirective)

/-- `.endtree`: the tree has 1 to 16 levels (R99). -/
def dirEndtree (s : AsmState) (ts : List Tok) : Except GlasError AsmState :=
  if !ts.isEmpty then .error .badSyntax
  else s.inKernel (fun k =>
    if !k.treeOpen then .error .badDirective
    else if k.levels.isEmpty then .error .argumentRange else .ok { k with treeOpen := false })

/-- `.resident name` (R99). -/
def dirResident (s : AsmState) (ts : List Tok) : Except GlasError AsmState :=
  (oneName ts).bind (fun n =>
    s.inKernel (fun k => if k.resident.isSome then .error .badDirective else .ok { k with resident := some n }))

/-- The classes of `.inputs`, each once: bit 0 package, bit 1 domain (R99, R109). -/
def inputsOf : List Tok → Nat → Except GlasError Nat
  | .name n :: rest, v =>
    let bit := if spells n "package" then 1 else if spells n "domain" then 2 else 0
    if bit = 0 || v &&& bit ≠ 0 then .error .argumentRange
    else match rest with
      | [] => .ok (v ||| bit)
      | .sym [','] :: rest => inputsOf rest (v ||| bit)
      | _ => .error .badSyntax
  | _, _ => .error .badSyntax

/-- `.inputs list` (R99). -/
def dirInputs (s : AsmState) (ts : List Tok) : Except GlasError AsmState :=
  (inputsOf ts 0).bind (fun v =>
    s.inKernel (fun k => if k.inputs.isSome then .error .badDirective else .ok { k with inputs := some v }))

/-- TOTAL of a partition (R103). -/
def PartDecl.total (p : PartDecl) : Nat :=
  p.threads * (p.x / 8 * 64 + p.v / 8 * 512 + 1152) + p.scratch * 1024 + p.acc * 65536

/-- The partition word (R103). -/
def PartDecl.word (p : PartDecl) : Word :=
  BitVec.ofNat 64 (p.x / 8 + (p.v / 8) * 2 ^ 5 + (p.threads - 1) * 2 ^ 9 + p.scratch * 2 ^ 11 + p.acc * 2 ^ 20)

/-- The five arguments of `.partition` in any order, each once.
DEDUCED, unsafe: log 67. -/
def partArgs (s : AsmState) : Nat → List Tok → List (String × Nat) → Except GlasError (List (String × Nat))
  | _, [], a => .ok a
  | 0, _, _ => .error .badSyntax
  | n + 1, .name k :: .sym ['='] :: rest, a =>
    let names := ["x", "v", "threads", "scratch", "acc"]
    match (placeIn k names).bind (fun i => names[i]?) with
    | none => .error .badSyntax
    | some w =>
      if a.any (fun p => p.1 = w) then .error .badSyntax
      else (s.numberIn 0 (2 ^ 32 - 1) rest).bind (fun p => partArgs s n p.2 (a ++ [(w, p.1)]))
  | _ + 1, _, _ => .error .badSyntax

/-- `.partition x=n v=n threads=n scratch=n acc=n` (R99, R103). -/
def dirPartition (s : AsmState) (ts : List Tok) : Except GlasError AsmState :=
  (partArgs s (ts.length + 1) ts []).bind (fun a =>
    let get : String → Option Nat := fun w => (a.find? (fun p => p.1 = w)).map Prod.snd
    match get "x", get "v", get "threads", get "scratch", get "acc" with
    | some x, some v, some t, some c, some acc =>
      let p : PartDecl := ⟨x, v, t, c, acc⟩
      if decide (x % 8 ≠ 0 ∨ v % 8 ≠ 0) then .error .argumentRange
      else if !decide (16 ≤ x ∧ x ≤ 128 ∧ v ≤ 64 ∧ 1 ≤ t ∧ t ≤ 4 ∧ c ≤ 384 ∧ acc ≤ 5) then .error .argumentRange
      else if 393216 < p.total then .error .poolOverflow
      else s.inKernel (fun k => if k.part.isSome then .error .badDirective else .ok { k with part := some p })
    | _, _, _, _, _ => .error .badSyntax)

/-- The optional arguments of a `.handler`: budget, receive region and its size (R99, R104). -/
def handlerArgs (s : AsmState) : Nat → List Tok → Option Nat → Option Chars → Option Nat →
    Except GlasError (Option Nat × Option Chars × Option Nat)
  | _, [], b, r, z => .ok (b, r, z)
  | 0, _, _, _, _ => .error .badSyntax
  | n + 1, .sym [','] :: .name k :: .sym ['='] :: rest, b, r, z =>
    if spells k "budget" && b.isNone then
      (s.numberIn 0 (2 ^ 32 - 1) rest).bind (fun p => handlerArgs s n p.2 (some p.1) r z)
    else if spells k "recv" && r.isNone then
      (match rest with
      | .name y :: rest => handlerArgs s n rest b (some y) z
      | _ => .error .badSyntax)
    else if spells k "recvsize" && z.isNone then
      (s.numberIn 16 4096 rest).bind (fun p =>
        if p.1 % 16 = 0 then handlerArgs s n p.2 b r (some p.1) else .error .argumentRange)
    else .error .badSyntax
  | _ + 1, _, _, _, _ => .error .badSyntax

/-- `.handler port, entry [, budget=n] [, recv=sym, recvsize=n]` (R99, R104). -/
def dirHandler (s : AsmState) (ts : List Tok) : Except GlasError AsmState :=
  (s.numberIn 0 255 ts).bind (fun p =>
    match p.2 with
    | .sym [','] :: .name entry :: rest =>
      (handlerArgs s (rest.length + 1) rest none none none).bind (fun a =>
        if a.2.1.isSome ≠ a.2.2.isSome then .error .badHandler
        else
          let h : HandlerDecl := { port := p.1, entry := entry, budget := a.1.getD 0, recv := a.2.1.bind (fun y => a.2.2.map (fun z => (y, z))) }
          s.inKernel (fun k =>
            if k.handlers.any (fun h' => h'.port = h.port) then .error .badHandler else .ok { k with handlers := k.handlers ++ [h] }))
    | _ => .error .badSyntax)

/-- `.endkernel` (R99). What the kernel needs of symbols and section sizes is checked once the whole source is read. -/
def dirEndkernel (s : AsmState) (ts : List Tok) : Except GlasError AsmState :=
  if !ts.isEmpty then .error .badSyntax
  else s.inKernel (fun k =>
    if k.treeOpen || k.levels.isEmpty || k.resident.isNone || k.part.isNone then .error .badKernel
    else if !k.handlers.any (fun h => h.port = k.port) then .error .badKernel
    else .ok { k with isOpen := false })

/-! ## Data and symbol directives (R101, R102) -/

/-- Whether the current section holds initialised data. -/
def AsmState.inData (s : AsmState) : Bool := s.place = .data || s.place = .rodata

/-- `.i8`, `.i16`, `.i32`, `.i64` (R102). -/
def dirInts (width : Nat) (s : AsmState) (ts : List Tok) : Except GlasError AsmState :=
  if !s.inData then .error .badDirective
  else (exprList (ts.length + 1) ts).map (fun es => s.emit (.ints width es) (width * es.length))

/-- The floating data directives (R102). -/
def dirFloats (t : Ty) (s : AsmState) (ts : List Tok) : Except GlasError AsmState :=
  if !s.inData then .error .badDirective
  else (realList t (ts.length + 1) ts).map (fun bs =>
    let out := if t = .e2m1 then packNibbles bs else bs.flatMap (leBytes (t.width / 8))
    s.emit (.bytes out) out.length)

/-- `.space n` (R102): zero bytes, or reserved bytes in `.bss` and `.scratch`. -/
def dirSpace (s : AsmState) (ts : List Tok) : Except GlasError AsmState :=
  if s.place = .code then .error .badDirective
  else (s.lastNumber 0 (2 ^ 64 - 1) ts).map (fun n => s.advance n)

/-- `.align n` (R102). -/
def dirAlign (s : AsmState) (ts : List Tok) : Except GlasError AsmState :=
  if s.place = .code then .error .badDirective
  else (s.lastNumber 1 (2 ^ 20) ts).bind (fun n =>
    let l := Nat.log2 n
    if n ≠ 2 ^ l then .error .argumentRange
    else .ok (s.put s.place { size := (s.loc + n - 1) / n * n, align := max l (s.at' s.place).align }))

/-- `.set sym, e` (R102): the expression is read where it stands.
DEDUCED, unsafe: log 67. -/
def dirSet (s : AsmState) (ts : List Tok) : Except GlasError AsmState :=
  match ts with
  | .name n :: .sym [','] :: rest =>
    (s.number rest).bind (fun p => if p.2.isEmpty then s.define n .abs p.1 else .error .badSyntax)
  | _ => .error .badSyntax

/-- `.global sym` (R102). -/
def dirGlobal (s : AsmState) (ts : List Tok) : Except GlasError AsmState :=
  (oneName ts).bind (fun n => if symbolOk n then .ok { s with globals := s.globals ++ [n] } else .error .badSymbol)

/-- A section directive (R101). -/
def dirSection (p : Place) (s : AsmState) (ts : List Tok) : Except GlasError AsmState :=
  if ts.isEmpty then .ok { s with place := p } else .error .badSyntax

/-- The directives by name (R99, R101, R102). -/
def directives : List (String × (AsmState → List Tok → Except GlasError AsmState)) :=
  [(".kernel", dirKernel), (".endkernel", dirEndkernel), (".tree", dirTree), (".endtree", dirEndtree), (".level", dirLevel),
   (".resident", dirResident), (".inputs", dirInputs), (".partition", dirPartition), (".handler", dirHandler),
   (".code", dirSection .code), (".data", dirSection .data), (".rodata", dirSection .rodata), (".bss", dirSection .bss),
   (".scratch", dirSection .scratch), (".i8", dirInts 1), (".i16", dirInts 2), (".i32", dirInts 4), (".i64", dirInts 8),
   (".f32", dirFloats .f32), (".f16", dirFloats .f16), (".bf16", dirFloats .bf16), (".e4m3", dirFloats .e4m3),
   (".e5m2", dirFloats .e5m2), (".e2m1", dirFloats .e2m1), (".space", dirSpace), (".align", dirAlign), (".set", dirSet),
   (".global", dirGlobal)]

/-! ## The first pass (R91) -/

/-- Whether a tree is open: only `.level` lines stand between `.tree` and `.endtree` (R99). -/
def AsmState.inTree (s : AsmState) : Bool := s.kernel.any (fun k => k.treeOpen)

/-- The labels at the head of a line, each with the value of the location counter (R91). -/
def labelsOf : List Tok → AsmState → Except GlasError (List Tok × AsmState)
  | .name n :: .sym [':'] :: rest, s =>
    if s.inTree then .error .badDirective
    else match s.define n s.place s.loc with
      | .error e => .error e
      | .ok s => labelsOf rest s
  | ts, s => .ok (ts, s)

/-- A statement: nothing, a directive, or an instruction, which stands in the code section alone (R91, R101). -/
def statement (ts : List Tok) (s : AsmState) : Except GlasError AsmState :=
  match ts with
  | [] => .ok s
  | .sym ('.' :: n) :: rest =>
    if s.inTree && !(spells n "level" || spells n "endtree") then .error .badDirective
    else match wordIn ('.' :: n) directives with
      | some f => f s rest
      | none => .error .badDirective
  | ts =>
    if s.inTree || s.place != .code then .error .badDirective
    else .ok (s.emit (.instr ts) 12)

/-- One source line (R91). -/
def readLine (line : Chars) (s : AsmState) : Except GlasError AsmState :=
  (lineTokens line).bind (fun ts => (labelsOf ts s).bind (fun p => statement p.1 p.2))

/-- The lines of a source; an error names its line, counted from 1. -/
def readLines : Nat → List Chars → AsmState → Except (Nat × GlasError) AsmState
  | _, [], s => .ok s
  | n, l :: ls, s =>
    match readLine l s with
    | .error e => .error (n, e)
    | .ok s => readLines (n + 1) ls s

/-! ## The second pass -/

/-- A relocation of an assembled source: the section and offset it patches. -/
structure PlacedReloc where
  place  : Place
  offset : Nat
  reloc  : Reloc
  deriving DecidableEq, Repr

/-- What an item assembles to: bytes and relocations. -/
abbrev Encoded := List Byte × List PlacedReloc

/-- An integer of a data directive: its bytes, or the relocation ABS64 or ABS32 of an `.i64` or `.i32` (R102). -/
def encodeInt (env : ExprEnv) (width : Nat) (e : Expr) : Except GlasError (List Byte × Option Reloc) :=
  match e.eval env with
  | .error x => .error x
  | .ok (.num v _) =>
    if decide (-(2 ^ (8 * width - 1) : Int) ≤ v) && decide (v < (2 ^ (8 * width) : Int)) then
      .ok (leBytes width (v % (2 ^ (8 * width) : Int)).toNat, none)
    else .error .argumentRange
  | .ok (.addr s a) =>
    if !signed64 a then .error .expressionRange
    else if width = 8 then .ok (List.replicate 8 0, some ⟨.abs64, s, a⟩)
    else if width = 4 then .ok (List.replicate 4 0, some ⟨.abs32, s, a⟩)
    else .error .foreignSymbol
  | .ok _ => .error .foreignSymbol

/-- The integers of a data directive, one after another from an offset; `.` is the offset of the first in all of them.
DESIGN CHOICE, unsafe: log 74. -/
def encodeInts (env : ExprEnv) (p : Place) (width : Nat) : Nat → List Expr → Except GlasError Encoded
  | _, [] => .ok ([], [])
  | off, e :: es =>
    match encodeInt env width e, encodeInts env p width (off + width) es with
    | .error x, _ => .error x
    | _, .error x => .error x
    | .ok (bs, r), .ok (rest, rs) => .ok (bs ++ rest, (r.map (fun r => ⟨p, off, r⟩)).toList ++ rs)

/-- An item assembled. -/
def Item.encode (s : AsmState) (i : Item) : Except GlasError Encoded :=
  let env : ExprEnv := { syms := s.syms, place := i.place, loc := i.loc, code := none }
  match i.piece with
  | .bytes bs => .ok (bs, [])
  | .ints width es => encodeInts env i.place width i.loc es
  | .instr ts =>
    let counts := (s.kernel.bind (fun k => k.part)).map (fun p => (p.x, p.v))
    (assembleInstr counts { env with code := some s.code.size } ts).map (fun w =>
      (wordBytes w.1, w.2.map (fun r => ⟨i.place, i.loc, r⟩)))

/-- A section's bytes from its items, with zeros between them (R102). -/
def fillTo (bs : List Byte) (n : Nat) : List Byte := bs ++ List.replicate (n - bs.length) 0

/-- An assembled source: the bytes of its sections, the sizes of the others, relocations, symbols and kernel. -/
structure Assembled where
  code    : List Byte
  data    : List Byte
  rodata  : List Byte
  sizes   : AsmState
  relocs  : List PlacedReloc
  handlers : List Handler
  resident : Nat
  deriving DecidableEq, Repr

/-- The items assembled in order, each after the zeros that reach its offset. -/
def encodeItems (s : AsmState) : List Item → Assembled → Except GlasError Assembled
  | [], a => .ok a
  | i :: is, a =>
    match i.encode s with
    | .error e => .error e
    | .ok (bs, rs) =>
      let a := { a with relocs := a.relocs ++ rs }
      encodeItems s is
        (match i.place with
        | .code => { a with code := fillTo a.code i.loc ++ bs }
        | .data => { a with data := fillTo a.data i.loc ++ bs }
        | _ => { a with rodata := fillTo a.rodata i.loc ++ bs })

/-- A handler-table entry (R104, R108): its entry is a code label of this source, and its receive region a `.scratch` symbol at
a multiple of 16, wholly inside the scratchpad. -/
def HandlerDecl.resolve (s : AsmState) (scr : Nat) (h : HandlerDecl) : Except GlasError Handler :=
  match symbolNamed s.syms h.entry with
  | none => .error .badHandler
  | some e =>
    if e.place ≠ .code || decide (e.value < 0) || decide ((s.code.size : Int) ≤ e.value) then .error .badHandler
    else match h.recv with
      | none => .ok ⟨h.port, h.budget, BitVec.ofInt 64 e.value, 0, 0⟩
      | some (y, size) =>
        (match symbolNamed s.syms y with
        | none => .error .badHandler
        | some r =>
          if r.place ≠ .scratch || r.value % 16 ≠ 0 || decide ((scr * 1024 : Int) < r.value + size) then .error .badHandler
          else .ok ⟨h.port, h.budget, BitVec.ofInt 64 e.value, r.value.toNat, size⟩)

/-- Handlers in ascending port order (R108). -/
def insertHandler (h : Handler) : List Handler → List Handler
  | [] => [h]
  | a :: as => if h.port ≤ a.port then h :: a :: as else a :: insertHandler h as

/-- All handler-table entries. -/
def resolveHandlers (s : AsmState) (scr : Nat) : List HandlerDecl → Except GlasError (List Handler)
  | [] => .ok []
  | h :: hs =>
    match h.resolve s scr, resolveHandlers s scr hs with
    | .error e, _ => .error e
    | _, .error e => .error e
    | .ok h, .ok hs => .ok (insertHandler h hs)

/-- What `.endkernel` checks of symbols and sizes (R99, R101, R104): the residence level, the scratch section's size and the
handlers. -/
def finishKernel (s : AsmState) (a : Assembled) : Except GlasError Assembled :=
  match s.kernel with
  | none => .ok a
  | some k =>
    let scr := (k.part.map (fun p => p.scratch)).getD 0
    match k.levels.findIdx? (fun l => some l.name = k.resident) with
    | none => .error .badKernel
    | some r =>
      if k.isOpen then .error .badKernel
      else if scr * 1024 < s.scratch.size then .error .poolOverflow
      else (resolveHandlers s scr k.handlers).map (fun hs => { a with handlers := hs, resident := r })

/-- An item that may not be assembled, by its position among the items; the errors of the second pass name no line. -/
def assembleRest (s : AsmState) : Except GlasError Assembled :=
  (encodeItems s s.items { code := [], data := [], rodata := [], sizes := s, relocs := [], handlers := [], resident := 0 }).bind
    (fun a => finishKernel s { a with data := fillTo a.data s.data.size, rodata := fillTo a.rodata s.rodata.size })

/-- The lines of a text. -/
def linesOf : Chars → List Chars
  | [] => [[]]
  | '\n' :: cs => [] :: linesOf cs
  | c :: cs =>
    match linesOf cs with
    | [] => [[c]]
    | l :: ls => (c :: l) :: ls

/-- `glas`: a source text assembled, or the first error, with the line of the first pass where it has one (0 otherwise). -/
def assemble (source : Chars) : Except (Nat × GlasError) Assembled :=
  match readLines 1 (linesOf source) {} with
  | .error e => .error e
  | .ok s =>
    match assembleRest s with
    | .error e => .error (0, e)
    | .ok a => .ok a

end Sys2Proof
end

