-- ==== Sys2Proof/Machine/Gof.lean ====
section
/-! DEFINITION. The Glihel Object Format, version 1 (R105 to R110): the records byte by byte, the file that an assembled source
becomes, and a reader of files. -/

namespace Sys2Proof

open Machine (fieldOf wordAt records handlerAt)

/-! ## Records (R105 to R109) -/

/-- The header (R105). -/
structure GofHeader where
  flags  : Nat
  shnum  : Nat
  strsec : Nat
  shoff  : Nat
  deriving DecidableEq, Repr

/-- A section: its table entry, but OFFSET, and its contents. BSS and SCRATCH have a size and no contents (R106). -/
structure GofSection where
  type     : Nat
  sflags   : Nat
  name     : Nat
  size     : Nat
  align    : Nat
  link     : Nat
  entsize  : Nat
  contents : List Byte
  deriving DecidableEq, Repr

/-- A symbol entry (R107). -/
structure GofSymbol where
  name    : Nat
  sec : Nat
  kind    : Nat
  bind    : Nat
  value   : Word
  size    : Nat
  deriving DecidableEq, Repr

/-- A relocation entry (R107). -/
structure GofReloc where
  offset : Nat
  symbol : Nat
  kind   : Nat
  addend : Word
  deriving DecidableEq, Repr

/-- The magic number of a file (R105). -/
def gofMagic : Nat := 0x01464F47

/-- The bytes of the header (R105). -/
def GofHeader.bytes (h : GofHeader) : List Byte :=
  leBytes 4 gofMagic ++ leBytes 2 1 ++ leBytes 2 1 ++ leBytes 4 h.flags ++ leBytes 2 h.shnum ++ leBytes 2 h.strsec ++
  leBytes 8 h.shoff ++ leBytes 8 0

/-- The bytes of a section-table entry whose contents stand at a file offset (R106). -/
def GofSection.entry (s : GofSection) (offset : Nat) : List Byte :=
  leBytes 2 s.type ++ leBytes 2 s.sflags ++ leBytes 4 s.name ++ leBytes 8 offset ++ leBytes 8 s.size ++ leBytes 4 s.align ++
  leBytes 4 s.link ++ leBytes 4 s.entsize ++ leBytes 4 0

/-- The bytes of a symbol entry (R107). -/
def GofSymbol.bytes (s : GofSymbol) : List Byte :=
  leBytes 4 s.name ++ leBytes 2 s.sec ++ leBytes 1 s.kind ++ leBytes 1 s.bind ++ leBytes 8 s.value.toNat ++ leBytes 8 s.size

/-- The bytes of a relocation entry (R107). -/
def GofReloc.bytes (r : GofReloc) : List Byte :=
  leBytes 8 r.offset ++ leBytes 4 r.symbol ++ leBytes 2 r.kind ++ leBytes 2 0 ++ leBytes 8 r.addend.toNat

/-- The bytes of a handler entry (R108). -/
def handlerBytes (h : Handler) : List Byte :=
  leBytes 1 h.port ++ leBytes 3 0 ++ leBytes 4 h.budget ++ leBytes 8 h.entry.toNat ++ leBytes 4 h.recvOff ++
  leBytes 4 h.recvSize ++ leBytes 8 0

/-- The bytes of a level entry whose name stands at a string-table offset (R109). -/
def levelBytes (l : Level) (name : Nat) : List Byte :=
  leBytes 1 l.bind ++ leBytes 1 l.policy.toNat ++ leBytes 1 l.rows ++ leBytes 1 l.cols ++ leBytes 4 l.fan ++ leBytes 4 name ++
  leBytes 4 0

/-- The bytes of a TREE section (R109). -/
def treeBytes (resident inputs : Nat) (levels : List (Level × Nat)) : List Byte :=
  leBytes 1 levels.length ++ leBytes 1 resident ++ leBytes 1 inputs ++ leBytes 13 0 ++
  levels.flatMap (fun p => levelBytes p.1 p.2)

/-- The bytes of a PARTITION section (R109). -/
def partitionBytes (w : Word) : List Byte := leBytes 8 w.toNat ++ leBytes 8 0

/-- The bytes of a KERNEL section (R109). -/
def kernelRecord (name port : Nat) : List Byte := leBytes 4 name ++ leBytes 1 port ++ leBytes 11 0

/-! ## The string table (R106) -/

/-- A string table with a name added: the name's offset, and the table. The empty name stands at offset 0. -/
def addString (tab : List Byte) (n : Chars) : Nat × List Byte :=
  if n.isEmpty then (0, tab) else (tab.length, tab ++ n.map (fun c => BitVec.ofNat 8 c.toNat) ++ [0])

/-- The names added in order: their offsets, and the table. -/
def addStrings : List Byte → List Chars → List Nat × List Byte
  | tab, [] => ([], tab)
  | tab, n :: ns =>
    let p := addString tab n
    let q := addStrings p.2 ns
    (p.1 :: q.1, q.2)

/-- The name at an offset of a string table. -/
def stringAt (tab : List Byte) (off : Nat) : List Byte := (tab.drop off).takeWhile (fun b => b ≠ 0)

/-! ## A file -/

/-- A file: its flags and its sections from index 1; the string table is one of them. -/
structure GofFile where
  flags    : Nat
  strsec   : Nat
  sections : List GofSection
  deriving DecidableEq, Repr

/-- KERNEL: the file has a kernel (R105). -/
def GofFile.isKernel (f : GofFile) : Bool := f.flags.testBit 0
/-- SIGNED (R105). -/
def GofFile.isSigned (f : GofFile) : Bool := f.flags.testBit 2

/-- A number rounded up to a multiple. -/
def roundUp (n m : Nat) : Nat := (n + m - 1) / m * m

/-- The file offsets of the contents of sections, each at a multiple of 8, from an offset on; 0 for BSS and SCRATCH. -/
def contentOffsets : Nat → List GofSection → List Nat
  | _, [] => []
  | off, s :: ss =>
    if s.type = 4 || s.type = 5 then 0 :: contentOffsets off ss
    else off :: contentOffsets (roundUp (off + s.contents.length) 8) ss

/-- The contents of sections, each padded to a multiple of 8. -/
def contentBytes : List GofSection → List Byte
  | [] => []
  | s :: ss =>
    if s.type = 4 || s.type = 5 then contentBytes ss
    else s.contents ++ List.replicate (roundUp s.contents.length 8 - s.contents.length) 0 ++ contentBytes ss

/-- A file's bytes (R105, R106): the header, the section table at 32, the contents.
DESIGN CHOICE, unsafe: log 68. -/
def GofFile.bytes (f : GofFile) : List Byte :=
  let n := f.sections.length + 1
  let offs := contentOffsets (32 + 40 * n) f.sections
  GofHeader.bytes ⟨f.flags, n, f.strsec, 32⟩ ++ List.replicate 40 0 ++
  (f.sections.zip offs).flatMap (fun p => p.1.entry p.2) ++ contentBytes f.sections

/-- Why a file is not one (R105, R106). -/
inductive GofError where
  /-- MAGIC, VERSION or ARCH (R105). -/
  | header
  /-- SHNUM, SHOFF or STRSEC outside what R105 gives. -/
  | table
  /-- A section of a reserved type, a CODE size that is no multiple of 12, contents outside the file, or a second section of a
  type that may stand once (R106). -/
  | badSection
  deriving DecidableEq, Repr

/-- A section read from its table entry. -/
def readSection (file e : List Byte) : GofSection :=
  let ty := fieldOf e 0 2
  let size := fieldOf e 16 8
  { type := ty, sflags := fieldOf e 2 2, name := fieldOf e 4 4, size := size, align := fieldOf e 24 4, link := fieldOf e 28 4,
    entsize := fieldOf e 32 4,
    contents := if ty = 4 || ty = 5 then [] else (file.drop (fieldOf e 8 8)).take size }

/-- What R106 asks of one section. -/
def GofSection.ok (s : GofSection) : Bool :=
  decide (1 ≤ s.type ∧ s.type ≤ 13) && (s.type != 1 || s.size % 12 = 0) &&
  (s.type = 4 || s.type = 5 || s.contents.length = s.size) &&
  (s.type != 6 || s.entsize = 24) && (s.type != 8 || s.entsize = 24) && (s.type != 9 || s.entsize = 32)

/-- The types of which a file has at most one section (R106). -/
def singleTypes : List Nat := [1, 5, 6, 9, 10, 11, 12, 13]

/-- What R106 asks of the sections together: one at most of the single types, and one RELOC for a patched section. -/
def sectionsOk (ss : List GofSection) : Bool :=
  ss.all GofSection.ok && singleTypes.all (fun t => decide (ss.countP (fun s => s.type = t) ≤ 1)) &&
  decide ((ss.filter (fun s => s.type = 8)).map (fun s => s.link)).Nodup

/-- The header check of R105: MAGIC, VERSION and ARCH; reserved fields are ignored (R7). -/
def gofHeaderOk (file : List Byte) : Bool :=
  decide (32 ≤ file.length) && fieldOf file 0 4 = gofMagic && fieldOf file 4 2 = 1 && fieldOf file 6 2 = 1

/-- A file read from its bytes. -/
def readGof (file : List Byte) : Except GofError GofFile :=
  let n := fieldOf file 12 2
  let off := fieldOf file 16 8
  let str := fieldOf file 14 2
  if !gofHeaderOk file then .error .header
  else if !(decide (1 ≤ n ∧ n ≤ 4096) && off % 8 = 0 && decide (off + 40 * n ≤ file.length) && decide (str < n)) then .error .table
  else
    let ss := ((records 40 n (file.drop off)).drop 1).map (readSection file)
    if sectionsOk ss then .ok ⟨fieldOf file 8 4, str, ss⟩ else .error .badSection

/-- The sections of a type, each with its index. -/
def GofFile.ofType (f : GofFile) (t : Nat) : List (Nat × GofSection) :=
  ((f.sections.zipIdx 1).filter (fun p => p.1.type = t)).map (fun p => (p.2, p.1))

/-- The contents of the first section of a type; none where there is no such section. -/
def GofFile.contents? (f : GofFile) (t : Nat) : Option (List Byte) := ((f.ofType t).head?).map (fun p => p.2.contents)

/-- A symbol entry read (R107). -/
def symbolAt (bs : List Byte) : GofSymbol :=
  ⟨fieldOf bs 0 4, fieldOf bs 4 2, fieldOf bs 6 1, fieldOf bs 7 1, wordAt bs 8, fieldOf bs 16 8⟩

/-- A relocation entry read (R107). -/
def relocAt (bs : List Byte) : GofReloc := ⟨fieldOf bs 0 8, fieldOf bs 8 4, fieldOf bs 12 2, wordAt bs 16⟩

/-- The symbols of a file, in table order. -/
def GofFile.symbols (f : GofFile) : List GofSymbol :=
  match f.contents? 6 with
  | some bs => (records 24 (bs.length / 24) bs).map symbolAt
  | none => []

/-- The relocations of a file: the patched secs index with each. -/
def GofFile.relocs (f : GofFile) : List (Nat × GofReloc) :=
  (f.ofType 8).flatMap (fun p => (records 24 (p.2.contents.length / 24) p.2.contents).map (fun r => (p.2.link, relocAt r)))

/-- The name of a symbol of a file: from the string table that its SYMTAB links (R106). -/
def GofFile.symbolName (f : GofFile) (s : GofSymbol) : List Byte :=
  let tab := ((f.ofType 6).head?).bind (fun p => f.sections[p.2.link - 1]?)
  (tab.map (fun t => stringAt t.contents s.name)).getD []

/-! ## From an assembled source to a file -/

/-- The section index of a place: CODE, DATA, RODATA, BSS and SCRATCH stand first, in this order. A tree level has the index of
an absolute symbol.
DESIGN CHOICE, unsafe: log 74. -/
def Place.index (p : Place) : Nat :=
  match p with
  | .code => 1
  | .data => 2
  | .rodata => 3
  | .bss => 4
  | .scratch => 5
  | .abs | .level => 0xFFFF

/-- The symbol KIND of a place (R107). -/
def Place.kind (p : Place) : Nat :=
  match p with
  | .code => 1
  | .data | .rodata | .bss => 2
  | .scratch => 3
  | .level => 4
  | .abs => 0

/-- The number of a relocation kind (R107). -/
def RelocKind.code : RelocKind → Nat
  | .abs64 => 1 | .abs32 => 2 | .xi40 => 3 | .xiHi => 4 | .xm32 => 5 | .rel40 => 6 | .rel32 => 7

/-- The names that relocations or `.global` mention and the source does not define, each once. -/
def undefinedNames (a : Assembled) : List Chars :=
  ((a.relocs.map (fun r => r.reloc.symbol) ++ a.sizes.globals).filter
    (fun n => (symbolNamed a.sizes.syms n).isNone)).eraseDups

/-- The symbols of the file: the defined ones in order, then the undefined ones. -/
def fileSymbols (a : Assembled) (names : List Nat) : List GofSymbol :=
  let def' := a.sizes.syms.map (fun s => fun n =>
    (⟨n, s.place.index, s.place.kind, if a.sizes.globals.contains s.name then 1 else 0, BitVec.ofInt 64 s.value, 0⟩ : GofSymbol))
  let undef := (undefinedNames a).map (fun _ => fun n => (⟨n, 0, 0, 1, 0, 0⟩ : GofSymbol))
  ((def' ++ undef).zip names).map (fun p => p.1 p.2)

/-- The RELOC section of a place; none where nothing of it is patched (R106). -/
def relocSection (a : Assembled) (p : Place) : List GofSection :=
  let names := a.sizes.syms.map (fun s => s.name) ++ undefinedNames a
  let rs := a.relocs.filter (fun r => r.place = p)
  let bs := rs.flatMap (fun r =>
    GofReloc.bytes ⟨r.offset, names.findIdx (fun n => n = r.reloc.symbol), r.reloc.kind.code, BitVec.ofInt 64 r.reloc.addend⟩)
  if rs.isEmpty then [] else [⟨8, 0, 0, bs.length, 3, p.index, 24, bs⟩]

/-- The kernel's own sections, HANDLERS, TREE, PARTITION and KERNEL (R108, R109). `names` are the string-table offsets of the
kernel's name and of the level names. -/
def kernelSections (a : Assembled) (names : List Nat) : List GofSection :=
  match a.sizes.kernel with
  | none => []
  | some k =>
    let hs := a.handlers.flatMap handlerBytes
    let tree := treeBytes a.resident (k.inputs.getD 1) ((k.levels.map (fun l => l.level)).zip (names.drop 1))
    let word := ((k.part.map PartDecl.word).getD 0)
    [⟨9, 0, 0, hs.length, 3, 0, 32, hs⟩, ⟨10, 0, 0, tree.length, 3, 0, 0, tree⟩,
     ⟨11, 0, 0, 16, 3, 0, 0, partitionBytes word⟩, ⟨12, 0, 0, 16, 3, 0, 0, kernelRecord (names.headD 0) k.port⟩]

/-- The object file of an assembled source; `sign` leaves room for a signature (R105 to R110).
DESIGN CHOICE, unsafe: log 68. -/
def objectOf (a : Assembled) (sign : Bool) : GofFile :=
  let secNames := [".code", ".data", ".rodata", ".bss", ".scratch"].map String.toList
  let kNames := match a.sizes.kernel with
    | some k => k.name :: k.levels.map (fun l => l.name)
    | none => []
  let symNames := a.sizes.syms.map (fun s => s.name) ++ undefinedNames a
  let p := addStrings [0] secNames
  let q := addStrings p.2 kNames
  let r := addStrings q.2 symNames
  let nm : Nat → Nat := fun i => (p.1[i]?).getD 0
  let syms := (fileSymbols a r.1).flatMap GofSymbol.bytes
  let z := a.sizes
  let heads : List GofSection :=
    [⟨1, 5, nm 0, z.code.size, z.code.align, 0, 0, a.code⟩, ⟨2, 3, nm 1, z.data.size, z.data.align, 0, 0, a.data⟩,
     ⟨3, 1, nm 2, z.rodata.size, z.rodata.align, 0, 0, a.rodata⟩, ⟨4, 3, nm 3, z.bss.size, z.bss.align, 0, 0, []⟩,
     ⟨5, 2, nm 4, z.scratch.size, z.scratch.align, 0, 0, []⟩]
  let mids := relocSection a .code ++ relocSection a .data ++ relocSection a .rodata ++ kernelSections a q.1 ++
    (if sign then [⟨13, 0, 0, 96, 3, 0, 0, List.replicate 96 0⟩] else [])
  let n := heads.length + mids.length
  let tabs : List GofSection := [⟨6, 0, 0, syms.length, 3, n + 2, 24, syms⟩, ⟨7, 0, 0, r.2.length, 0, 0, 0, r.2⟩]
  { flags := (if z.kernel.isSome then 1 else 0) + (if a.relocs.isEmpty then 2 else 0), strsec := n + 2,
    sections := heads ++ mids ++ tabs }

/-- A source text to the bytes of its object file. -/
def glas (source : Chars) (sign : Bool) : Except (Nat × GlasError) (List Byte) :=
  (assemble source).map (fun a => (objectOf a sign).bytes)

end Sys2Proof
end

