-- ==== Sys2Proof/Machine/Loader.lean ====
section
/-! DEFINITION. From objects to a kernel image (R107, R111, R285): the loader, host software in the device driver. It answers
what is stored where, and what is mapped how; the driver chooses the addresses. -/

namespace Sys2Proof

open Machine (fieldOf wordAt records handlerAt splice)

/-- The addresses that the driver chooses: of each kind of section, of the image header, of its handler table and tree, and
of the signed file.
DESIGN CHOICE, unsafe: log 68. -/
structure Placement where
  code     : Nat
  data     : Nat
  rodata   : Nat
  bss      : Nat
  header   : Nat
  handlers : Nat
  tree     : Nat
  object   : Nat
  deriving DecidableEq, Repr

/-- Why a link fails (R107, R111). -/
inductive LinkError where
  /-- A file that is no GOF file (R105, R106). -/
  | file (e : GofError)
  /-- No object with KERNEL set, or more than one, or a kernel without its sections. -/
  | kernel
  /-- A global symbol that no object defines. -/
  | undefinedSymbol
  /-- A global symbol that two objects define. -/
  | doubleSymbol
  /-- A code base that is no multiple of 64, or a header address that is no multiple of 128. -/
  | base
  /-- Scratch sections larger than the scratchpad of the partition. -/
  | scratch
  /-- A relocation of a reserved kind, outside its section, out of range, or not exact (R107). -/
  | relocation
  deriving DecidableEq, Repr

/-- A section in its place: its object and index there, its address and its bytes. A scratch secs address is its offset
in the combined scratchpad. -/
structure Placed where
  obj   : Nat
  sec   : Nat
  type  : Nat
  addr  : Nat
  bytes : List Byte
  size  : Nat
  deriving DecidableEq, Repr

/-- The sections of a type one after another from an address: CODE padded to 12, the others at their alignments (R111).
DESIGN CHOICE, unsafe: log 68. -/
def placeList (t : Nat) : Nat → List (Nat × Nat × GofSection) → List Placed
  | _, [] => []
  | a, (o, i, s) :: rest =>
    let a := if t = 1 then a else roundUp a (2 ^ s.align)
    let size := if t = 1 then roundUp s.size 12 else s.size
    let bytes := if t = 4 || t = 5 then List.replicate s.size 0 else fillTo s.contents size
    ⟨o, i, t, a, bytes, size⟩ :: placeList t (a + size) rest

/-- The sections of a type of all objects, in order. -/
def allOfType (objs : List GofFile) (t : Nat) : List (Nat × Nat × GofSection) :=
  objs.zipIdx.flatMap (fun o => (o.1.ofType t).map (fun s => (o.2, s.1, s.2)))

/-- Every section in its place (R111): CODE, DATA, RODATA, BSS and SCRATCH. -/
def placeAll (pl : Placement) (objs : List GofFile) : List Placed :=
  placeList 1 pl.code (allOfType objs 1) ++ placeList 2 pl.data (allOfType objs 2) ++
  placeList 3 pl.rodata (allOfType objs 3) ++ placeList 4 pl.bss (allOfType objs 4) ++ placeList 5 0 (allOfType objs 5)

/-- The place of a section of an object. -/
def placedSec (ps : List Placed) (o i : Nat) : Option Placed := ps.find? (fun p => p.obj = o && p.sec = i)

/-- The end of the sections of a type. -/
def endOf (ps : List Placed) (t base : Nat) : Nat :=
  ((ps.filter (fun p => p.type = t)).map (fun p => p.addr + p.size)).foldl max base

/-- The address of a symbol that its object defines (R107): absolute, or in its section; none where it is undefined.
DESIGN CHOICE, unsafe: log 84. -/
def definedAddr (ps : List Placed) (o : Nat) (s : GofSymbol) : Option Int :=
  if s.sec = 0 then none
  else if s.sec = 0xFFFF then some s.value.toInt
  else (placedSec ps o s.sec).map (fun p => (p.addr : Int) + s.value.toNat)

/-- The global definitions of all objects: name and address. -/
def globalDefs (ps : List Placed) (objs : List GofFile) : List (List Byte × Int) :=
  objs.zipIdx.flatMap (fun o =>
    (o.1.symbols.filter (fun s => s.bind = 1)).filterMap (fun s => (definedAddr ps o.2 s).map (fun a => (o.1.symbolName s, a))))

/-- The final address of a symbol of an object (R107). -/
def finalAddr (ps : List Placed) (defs : List (List Byte × Int)) (f : GofFile) (o : Nat) (s : GofSymbol) : Option Int :=
  if s.sec = 0 then (defs.find? (fun d => d.1 = f.symbolName s)).map Prod.snd else definedAddr ps o s

/-- Whether every global symbol resolves (R111): an undefined or doubly defined one is a link error. -/
def resolveCheck (defs : List (List Byte × Int)) (objs : List GofFile) : Option LinkError :=
  if !decide (defs.map Prod.fst).Nodup then some .doubleSymbol
  else if objs.all (fun f => f.symbols.all (fun s => s.sec != 0 || f.symbolName s = [] || defs.any (fun d => d.1 = f.symbolName s)))
  then none else some .undefinedSymbol

/-! ## Relocation (R107) -/

/-- Whether a value lies in a range. -/
def within (v lo hi : Int) : Bool := decide (lo ≤ v) && decide (v ≤ hi)

/-- A value as a number of `n` bits. -/
def lowBits (v : Int) (n : Nat) : Nat := (v % (2 ^ n : Int)).toNat

/-- What a relocation writes (R107): where, from its OFFSET, how many bytes, and the value; none where the value is out of
range or the distance is not exact. `sa` is S + A, `p` the final address of the instruction.
DESIGN CHOICE, unsafe: log 68. -/
def relocWrite (kind : Nat) (sa p : Int) : Option (Nat × Nat × Nat) :=
  let dist := (sa - p) / 12
  let exact := (sa - p) % 12 = 0
  let xi : Int := 2 ^ 39
  let xm : Int := 2 ^ 31
  match kind with
  | 1 => if within sa (-(2 ^ 63)) (2 ^ 64 - 1) then some (0, 8, lowBits sa 64) else none
  | 2 => if within sa (-(2 ^ 31)) (2 ^ 32 - 1) then some (0, 4, lowBits sa 32) else none
  | 3 => if within sa (-xi) (xi - 1) then some (7, 5, lowBits sa 40) else none
  | 4 => some (7, 5, ((BitVec.ofNat 24 (lowBits sa 64 / 2 ^ 40)).signExtend 40).toNat)
  | 5 => if within sa (-xm) (xm - 1) then some (8, 4, lowBits sa 32) else none
  | 6 => if exact && within dist (-xi) (xi - 1) then some (7, 5, lowBits dist 40) else none
  | 7 => if exact && within dist (-xm) (xm - 1) then some (8, 4, lowBits dist 32) else none
  | _ => none

/-- One relocation applied to the placed bytes (R111). -/
def relocate (defs : List (List Byte × Int)) (f : GofFile) (o sec : Nat) (r : GofReloc) (ps : List Placed) : Option (List Placed) :=
  match placedSec ps o sec, (f.symbols[r.symbol]?).bind (finalAddr ps defs f o) with
  | some p, some s =>
    (relocWrite r.kind (s + r.addend.toInt) (p.addr + r.offset : Nat)).bind (fun w =>
      if r.offset + w.1 + w.2.1 ≤ p.bytes.length then
        some (ps.map (fun q => if q.obj = o && q.sec = sec then
          { q with bytes := splice q.bytes (r.offset + w.1) (leBytes w.2.1 w.2.2) } else q))
      else none)
  | _, _ => none

/-- All relocations of an object. -/
def relocateAll (defs : List (List Byte × Int)) (f : GofFile) (o : Nat) : List (Nat × GofReloc) → List Placed → Option (List Placed)
  | [], ps => some ps
  | (sec, r) :: rest, ps => (relocate defs f o sec r ps).bind (relocateAll defs f o rest)

/-- The relocations of every object. -/
def relocateObjs (defs : List (List Byte × Int)) : List (GofFile × Nat) → List Placed → Option (List Placed)
  | [], ps => some ps
  | (f, o) :: rest, ps => (relocateAll defs f o f.relocs ps).bind (relocateObjs defs rest)

/-! ## The image (R111, R285) -/

/-- A range of the context's address space and whether it is writable (R111). -/
structure MapRange where
  start    : Nat
  len      : Nat
  writable : Bool
  deriving DecidableEq, Repr

/-- A kernel image as the loader leaves it: runs of bytes by address, and the mapped ranges. -/
structure LoadedImage where
  stores : List (Nat × List Byte)
  maps   : List MapRange
  deriving DecidableEq, Repr

/-- The bytes of the image header (R285). -/
def imageHeader (pl : Placement) (signed : Option Nat) (nhandler port codeSize : Nat) (part : Word) : List Byte :=
  leBytes 4 0x01494B47 ++ leBytes 2 1 ++ leBytes 2 1 ++ leBytes 4 (if signed.isSome then 3 else 2) ++ leBytes 2 nhandler ++
  leBytes 1 port ++ leBytes 1 0 ++ leBytes 8 pl.code ++ leBytes 8 codeSize ++ leBytes 8 pl.handlers ++ leBytes 8 pl.tree ++
  leBytes 8 part.toNat ++ leBytes 8 (if signed.isSome then pl.object else 0) ++ leBytes 8 (signed.getD 0) ++ leBytes 56 0

/-- A handler entry after placement: ENTRY relative to the combined code section, RECVOFF to the combined scratchpad (R111). -/
def placedHandler (codeOff scratchOff : Nat) (h : Handler) : Handler :=
  { h with entry := h.entry + BitVec.ofNat 64 codeOff, recvOff := if h.recvSize = 0 then h.recvOff else h.recvOff + scratchOff }

/-- The kernel object's own sections: HANDLERS, TREE, PARTITION and KERNEL. -/
def kernelParts (f : GofFile) : Option (List Byte × List Byte × List Byte × List Byte) :=
  match f.contents? 9, f.contents? 10, f.contents? 11, f.contents? 12 with
  | some h, some t, some p, some k => some (h, t, p, k)
  | _, _, _, _ => none

/-- The image of placed and patched sections (R111). `file` holds the bytes of the kernel object, which stay for a signed image
(R286). -/
def imageOf (pl : Placement) (ps : List Placed) (k : GofFile) (o : Nat) (file : List Byte)
    (parts : List Byte × List Byte × List Byte × List Byte) : LoadedImage :=
  let codeOff := (((ps.find? (fun p => p.obj = o && p.type = 1)).map (fun p => p.addr)).getD pl.code) - pl.code
  let scrOff := ((ps.find? (fun p => p.obj = o && p.type = 5)).map (fun p => p.addr)).getD 0
  let hs := (records 32 (parts.1.length / 32) parts.1).map (fun b => placedHandler codeOff scrOff (handlerAt b))
  let part := wordAt parts.2.2.1 0
  let codeSize := endOf ps 1 pl.code - pl.code
  let signed := if k.isSigned then some file.length else none
  let body := (ps.filter (fun p => p.type != 5)).map (fun p => (p.addr, p.bytes))
  let table := hs.flatMap handlerBytes
  { stores := body ++ [(pl.header, imageHeader pl signed hs.length (fieldOf parts.2.2.2 4 1) codeSize part), (pl.handlers, table),
                       (pl.tree, parts.2.1)] ++ (if k.isSigned then [(pl.object, file)] else []),
    maps := [⟨pl.code, codeSize, false⟩, ⟨pl.rodata, endOf ps 3 pl.rodata - pl.rodata, false⟩,
             ⟨pl.data, endOf ps 2 pl.data - pl.data, true⟩, ⟨pl.bss, endOf ps 4 pl.bss - pl.bss, true⟩] }

/-- The files read, or the first that is none (R105). -/
def readAll : List (List Byte) → Except LinkError (List GofFile)
  | [] => .ok []
  | f :: fs =>
    match readGof f with
    | .error e => .error (.file e)
    | .ok g => (readAll fs).map (g :: ·)

/-- The loader (R111): the steps in their order, the first failure reported. -/
def loadObjects (pl : Placement) (files : List (List Byte)) : Except LinkError LoadedImage :=
  match readAll files with
  | .error e => .error e
  | .ok objs =>
    match objs.zipIdx.filter (fun o => o.1.isKernel) with
    | [(k, o)] =>
      let ps := placeAll pl objs
      let defs := globalDefs ps objs
      (match resolveCheck defs objs, kernelParts k with
      | some e, _ => .error e
      | none, none => .error .kernel
      | none, some parts =>
        if pl.code % 64 ≠ 0 || pl.header % 128 ≠ 0 then .error .base
        else if fieldOf parts.2.2.1 0 8 / 2 ^ 11 % 512 * 1024 < endOf ps 5 0 then .error .scratch
        else match relocateObjs defs objs.zipIdx ps with
          | none => .error .relocation
          | some ps => .ok (imageOf pl ps k o ((files[o]?).getD []) parts))
    | _ => .error .kernel

end Sys2Proof
end

