-- ==== Sys2Proof/Tests/Slice0.lean ====
section
/-! SUPPORT. Tests: words of the manual and words laid out by R65, ill-formed terms, single steps on small states, and for every
statement a state and operands that meet its hypotheses. -/

namespace Sys2Proof.Tests

set_option Elab.async false

open Machine Claims

/-! ## Words -/

/-- A word laid out by R65: MAJ [6:0], FN [14:7], TY [18:15], D [26:19], A [34:27], B [42:35], G [47:43], H [55:48], X [95:56]. -/
def word (maj fn ty d a b g h x : Nat) : Nat :=
  maj + fn * 2 ^ 7 + ty * 2 ^ 15 + d * 2 ^ 19 + a * 2 ^ 27 + b * 2 ^ 35 + g * 2 ^ 43 + h * 2 ^ 48 + x * 2 ^ 56

/-- Three 32-bit words, the first at the lowest address. -/
def words (a b c : Nat) : Nat := a + b * 2 ^ 32 + c * 2 ^ 64

theorem test_decode_int :
  decodeTableWord 96 (word 0x01 0x01 0 3 1 2 0x00 0 0x0000000000) =
    some (.intAdd ⟨⟨0, false, false⟩, ⟨false, false, false⟩, .i64, .x 3, .x 1, .x 2, 0x0000000000⟩) ∧
  decodeTableWord 96 (word 0x01 0x02 1 3 1 2 0x13 0 0x0000000000) =
    some (.intSub ⟨⟨3, false, true⟩, ⟨false, false, false⟩, .i32, .x 3, .x 1, .x 2, 0x0000000000⟩) ∧
  decodeTableWord 96 (word 0x01 0x03 2 3 1 2 0x00 0 0x0000000000) =
    some (.intMul ⟨⟨0, false, false⟩, ⟨false, false, false⟩, .i16, .x 3, .x 1, .x 2, 0x0000000000⟩) ∧
  decodeTableWord 96 (word 0x01 0x04 3 3 1 2 0x00 0 0x0000000000) =
    some (.intMulh ⟨⟨0, false, false⟩, ⟨false, false, false⟩, .i8, .x 3, .x 1, .x 2, 0x0000000000⟩) ∧
  decodeTableWord 96 (word 0x01 0x05 4 3 1 2 0x00 0 0x0000000000) =
    some (.intDiv ⟨⟨0, false, false⟩, ⟨false, false, false⟩, .n64, .x 3, .x 1, .x 2, 0x0000000000⟩) ∧
  decodeTableWord 96 (word 0x01 0x06 5 3 1 2 0x00 0 0x0000000000) =
    some (.intRem ⟨⟨0, false, false⟩, ⟨false, false, false⟩, .n32, .x 3, .x 1, .x 2, 0x0000000000⟩) ∧
  decodeTableWord 96 (word 0x01 0x07 6 3 1 2 0x00 0 0x0000000000) =
    some (.intMin ⟨⟨0, false, false⟩, ⟨false, false, false⟩, .n16, .x 3, .x 1, .x 2, 0x0000000000⟩) ∧
  decodeTableWord 96 (word 0x01 0x08 7 3 1 2 0x00 0 0x0000000000) =
    some (.intMax ⟨⟨0, false, false⟩, ⟨false, false, false⟩, .n8, .x 3, .x 1, .x 2, 0x0000000000⟩) ∧
  decodeTableWord 96 (word 0x01 0x09 0 3 1 0 0x00 0 0x0000000000) =
    some (.intAbs ⟨⟨0, false, false⟩, ⟨false, false, false⟩, .i64, .x 3, .x 1, .x 0, 0x0000000000⟩) ∧
  decodeTableWord 96 (word 0x01 0x0A 0 3 1 2 0x00 0 0x0000000000) =
    some (.intAnd ⟨⟨0, false, false⟩, ⟨false, false, false⟩, .i64, .x 3, .x 1, .x 2, 0x0000000000⟩) ∧
  decodeTableWord 96 (word 0x01 0x0B 0 3 1 2 0x00 0 0x0000000000) =
    some (.intOr ⟨⟨0, false, false⟩, ⟨false, false, false⟩, .i64, .x 3, .x 1, .x 2, 0x0000000000⟩) ∧
  decodeTableWord 96 (word 0x01 0x0C 0 3 1 2 0x00 0 0x0000000000) =
    some (.intXor ⟨⟨0, false, false⟩, ⟨false, false, false⟩, .i64, .x 3, .x 1, .x 2, 0x0000000000⟩) ∧
  decodeTableWord 96 (word 0x01 0x0D 0 3 1 2 0x00 0 0x0000000000) =
    some (.intAndn ⟨⟨0, false, false⟩, ⟨false, false, false⟩, .i64, .x 3, .x 1, .x 2, 0x0000000000⟩) ∧
  decodeTableWord 96 (word 0x01 0x0E 0 3 1 2 0x00 0 0x0000000000) =
    some (.intShl ⟨⟨0, false, false⟩, ⟨false, false, false⟩, .i64, .x 3, .x 1, .x 2, 0x0000000000⟩) ∧
  decodeTableWord 96 (word 0x01 0x0F 0 3 1 2 0x00 0 0x0000000000) =
    some (.intShr ⟨⟨0, false, false⟩, ⟨false, false, false⟩, .i64, .x 3, .x 1, .x 2, 0x0000000000⟩) ∧
  decodeTableWord 96 (word 0x01 0x10 0 3 1 2 0x00 0 0x0000000000) =
    some (.intRot ⟨⟨0, false, false⟩, ⟨false, false, false⟩, .i64, .x 3, .x 1, .x 2, 0x0000000000⟩) ∧
  decodeTableWord 96 (word 0x01 0x11 0 3 1 0 0x00 0 0x0000000000) =
    some (.intClz ⟨⟨0, false, false⟩, ⟨false, false, false⟩, .i64, .x 3, .x 1, .x 0, 0x0000000000⟩) ∧
  decodeTableWord 96 (word 0x01 0x12 0 3 1 0 0x00 0 0x0000000000) =
    some (.intCtz ⟨⟨0, false, false⟩, ⟨false, false, false⟩, .i64, .x 3, .x 1, .x 0, 0x0000000000⟩) ∧
  decodeTableWord 96 (word 0x01 0x13 0 3 1 0 0x00 0 0x0000000000) =
    some (.intPopc ⟨⟨0, false, false⟩, ⟨false, false, false⟩, .i64, .x 3, .x 1, .x 0, 0x0000000000⟩) ∧
  decodeTableWord 96 (word 0x01 0x14 0 3 1 0 0x00 0 0x0000000000) =
    some (.intMov ⟨⟨0, false, false⟩, ⟨false, false, false⟩, .i64, .x 3, .x 1, .x 0, 0x0000000000⟩) ∧
  decodeTableWord 96 (word 0x01 0x15 0 3 1 2 0x00 0 0x00000000C3) =
    some (.intSel ⟨⟨0, false, false⟩, ⟨false, false, false⟩, .i64, .x 3, .x 1, .x 2, 0x00000000C3⟩) := by
  decide +kernel

theorem test_decode_inti :
  decodeTableWord 96 (word 0x02 0x01 0 5 6 0 0x00 0 0xFFFFFFFFFF) =
    some (.intiAddi ⟨⟨0, false, false⟩, ⟨false, false, false⟩, .i64, .x 5, .x 6, .x 0, 0xFFFFFFFFFF⟩) ∧
  decodeTableWord 96 (word 0x02 0x02 0 5 6 0 0x00 0 0xFFFFFFFFFF) =
    some (.intiMuli ⟨⟨0, false, false⟩, ⟨false, false, false⟩, .i64, .x 5, .x 6, .x 0, 0xFFFFFFFFFF⟩) ∧
  decodeTableWord 96 (word 0x02 0x03 0 5 6 0 0x00 0 0xFFFFFFFFFF) =
    some (.intiAndi ⟨⟨0, false, false⟩, ⟨false, false, false⟩, .i64, .x 5, .x 6, .x 0, 0xFFFFFFFFFF⟩) ∧
  decodeTableWord 96 (word 0x02 0x04 0 5 6 0 0x00 0 0xFFFFFFFFFF) =
    some (.intiOri ⟨⟨0, false, false⟩, ⟨false, false, false⟩, .i64, .x 5, .x 6, .x 0, 0xFFFFFFFFFF⟩) ∧
  decodeTableWord 96 (word 0x02 0x05 0 5 6 0 0x00 0 0xFFFFFFFFFF) =
    some (.intiXori ⟨⟨0, false, false⟩, ⟨false, false, false⟩, .i64, .x 5, .x 6, .x 0, 0xFFFFFFFFFF⟩) ∧
  decodeTableWord 96 (word 0x02 0x06 0 5 6 0 0x00 0 0x000000003F) =
    some (.intiShli ⟨⟨0, false, false⟩, ⟨false, false, false⟩, .i64, .x 5, .x 6, .x 0, 0x000000003F⟩) ∧
  decodeTableWord 96 (word 0x02 0x07 1 5 6 0 0x00 0 0x0000000001) =
    some (.intiShri ⟨⟨0, false, false⟩, ⟨false, false, false⟩, .i32, .x 5, .x 6, .x 0, 0x0000000001⟩) ∧
  decodeTableWord 96 (word 0x02 0x08 1 5 6 0 0x00 0 0x000000001F) =
    some (.intiRoti ⟨⟨0, false, false⟩, ⟨false, false, false⟩, .i32, .x 5, .x 6, .x 0, 0x000000001F⟩) ∧
  decodeTableWord 96 (word 0x02 0x09 0 5 0 0 0x00 0 0xFFFFFFFFFF) =
    some (.intiMovi ⟨⟨0, false, false⟩, ⟨false, false, false⟩, .i64, .x 5, .x 0, .x 0, 0xFFFFFFFFFF⟩) ∧
  decodeTableWord 96 (word 0x02 0x0A 0 5 6 0 0x00 0 0x0000FFFFFF) =
    some (.intiMovhi ⟨⟨0, false, false⟩, ⟨false, false, false⟩, .i64, .x 5, .x 6, .x 0, 0x0000FFFFFF⟩) ∧
  decodeTableWord 96 (word 0x02 0x0B 0 5 0 0 0x00 0 0xFFFFFFFFFD) =
    some (.intiLea ⟨⟨0, false, false⟩, ⟨false, false, false⟩, .i64, .x 5, .x 0, .x 0, 0xFFFFFFFFFD⟩) := by
  decide +kernel

theorem test_decode_cmp :
  decodeTableWord 96 (word 0x03 0x01 0 193 4 127 0x00 0 0x0000000000) =
    some (.cmpEq ⟨⟨0, false, false⟩, ⟨false, false, false⟩, .i64, .p 1, .x 4, .x 127, 0x0000000000⟩) ∧
  decodeTableWord 96 (word 0x03 0x02 4 193 4 127 0x00 0 0x0000000000) =
    some (.cmpNe ⟨⟨0, false, false⟩, ⟨false, false, false⟩, .n64, .p 1, .x 4, .x 127, 0x0000000000⟩) ∧
  decodeTableWord 96 (word 0x03 0x03 8 193 4 127 0x00 0 0x0000000000) =
    some (.cmpLt ⟨⟨0, false, false⟩, ⟨false, false, false⟩, .f32, .p 1, .x 4, .x 127, 0x0000000000⟩) ∧
  decodeTableWord 96 (word 0x03 0x04 1 193 4 127 0x00 0 0x0000000000) =
    some (.cmpLe ⟨⟨0, false, false⟩, ⟨false, false, false⟩, .i32, .p 1, .x 4, .x 127, 0x0000000000⟩) ∧
  decodeTableWord 96 (word 0x03 0x05 1 193 4 127 0x00 0 0x0000000000) =
    some (.cmpGt ⟨⟨0, false, false⟩, ⟨false, false, false⟩, .i32, .p 1, .x 4, .x 127, 0x0000000000⟩) ∧
  decodeTableWord 96 (word 0x03 0x06 1 193 4 127 0x00 0 0x0000000000) =
    some (.cmpGe ⟨⟨0, false, false⟩, ⟨false, false, false⟩, .i32, .p 1, .x 4, .x 127, 0x0000000000⟩) ∧
  decodeTableWord 96 (word 0x03 0x07 8 193 4 127 0x00 0 0x0000000000) =
    some (.cmpUnord ⟨⟨0, false, false⟩, ⟨false, false, false⟩, .f32, .p 1, .x 4, .x 127, 0x0000000000⟩) := by
  decide +kernel

theorem test_decode_prd :
  decodeTableWord 96 (word 0x04 0x01 0 193 194 195 0x00 0 0x0000000000) =
    some (.prdAnd ⟨⟨0, false, false⟩, ⟨false, false, false⟩, .i64, .p 1, .p 2, .p 3, 0x0000000000⟩) ∧
  decodeTableWord 96 (word 0x04 0x02 0 193 194 195 0x00 0 0x0000000000) =
    some (.prdOr ⟨⟨0, false, false⟩, ⟨false, false, false⟩, .i64, .p 1, .p 2, .p 3, 0x0000000000⟩) ∧
  decodeTableWord 96 (word 0x04 0x03 0 193 194 195 0x00 0 0x0000000000) =
    some (.prdXor ⟨⟨0, false, false⟩, ⟨false, false, false⟩, .i64, .p 1, .p 2, .p 3, 0x0000000000⟩) ∧
  decodeTableWord 96 (word 0x04 0x04 0 193 194 195 0x00 0 0x0000000000) =
    some (.prdAndn ⟨⟨0, false, false⟩, ⟨false, false, false⟩, .i64, .p 1, .p 2, .p 3, 0x0000000000⟩) ∧
  decodeTableWord 96 (word 0x04 0x05 0 194 199 0 0x00 0 0x0000000000) =
    some (.prdNot ⟨⟨0, false, false⟩, ⟨false, false, false⟩, .i64, .p 2, .p 7, .x 0, 0x0000000000⟩) ∧
  decodeTableWord 96 (word 0x04 0x06 0 194 9 0 0x00 0 0x0000000000) =
    some (.prdSet ⟨⟨0, false, false⟩, ⟨false, false, false⟩, .i64, .p 2, .x 9, .x 0, 0x0000000000⟩) ∧
  decodeTableWord 96 (word 0x04 0x07 0 9 0 0 0x00 0 0x0000000000) =
    some (.prdPack ⟨⟨0, false, false⟩, ⟨false, false, false⟩, .i64, .x 9, .x 0, .x 0, 0x0000000000⟩) ∧
  decodeTableWord 96 (word 0x04 0x08 0 0 9 0 0x00 0 0x0000000000) =
    some (.prdUnpack ⟨⟨0, false, false⟩, ⟨false, false, false⟩, .i64, .x 0, .x 9, .x 0, 0x0000000000⟩) ∧
  decodeTableWord 96 (word 0x04 0x09 0 9 201 202 0x00 0 0x0000000000) =
    some (.prdKpack ⟨⟨0, false, false⟩, ⟨false, false, false⟩, .i64, .x 9, .k 1, .k 2, 0x0000000000⟩) ∧
  decodeTableWord 96 (word 0x04 0x0A 0 207 9 0 0x00 0 0x0000000000) =
    some (.prdKunpack ⟨⟨0, false, false⟩, ⟨false, false, false⟩, .i64, .k 7, .x 9, .x 0, 0x0000000000⟩) := by
  decide +kernel

theorem test_decode_ctl :
  decodeTableWord 96 (word 0x05 0x01 0 0 0 0 0x01 0 0xFFFFFFFFFE) =
    some (.ctlBra ⟨⟨1, false, false⟩, ⟨false, false, false⟩, .i64, .x 0, .x 0, .x 0, 0xFFFFFFFFFE⟩) ∧
  decodeTableWord 96 (word 0x05 0x02 0 0 7 0 0x00 0 0x0000000000) =
    some (.ctlJmp ⟨⟨0, false, false⟩, ⟨false, false, false⟩, .i64, .x 0, .x 7, .x 0, 0x0000000000⟩) ∧
  decodeTableWord 96 (word 0x05 0x03 0 0 0 0 0x00 0 0xFFFFFFFFFE) =
    some (.ctlCall ⟨⟨0, false, false⟩, ⟨false, false, false⟩, .i64, .x 0, .x 0, .x 0, 0xFFFFFFFFFE⟩) ∧
  decodeTableWord 96 (word 0x05 0x04 0 0 7 0 0x00 0 0x0000000000) =
    some (.ctlCallr ⟨⟨0, false, false⟩, ⟨false, false, false⟩, .i64, .x 0, .x 7, .x 0, 0x0000000000⟩) ∧
  decodeTableWord 96 (word 0x05 0x05 0 0 0 0 0x00 0 0x0000000000) =
    some (.ctlRet ⟨⟨0, false, false⟩, ⟨false, false, false⟩, .i64, .x 0, .x 0, .x 0, 0x0000000000⟩) ∧
  decodeTableWord 96 (word 0x05 0x06 0 5 0 0 0x00 0 0xFFFFFFFFFB) =
    some (.ctlLoop ⟨⟨0, false, false⟩, ⟨false, false, false⟩, .i64, .x 5, .x 0, .x 0, 0xFFFFFFFFFB⟩) ∧
  decodeTableWord 96 (word 0x05 0x07 0 0 0 0 0x00 0 0x0000000000) =
    some (.ctlNop ⟨⟨0, false, false⟩, ⟨false, false, false⟩, .i64, .x 0, .x 0, .x 0, 0x0000000000⟩) ∧
  decodeTableWord 96 (word 0x05 0x08 0 0 0 0 0x00 0 0x0000204002) =
    some (.ctlEnter ⟨⟨0, false, false⟩, ⟨false, false, false⟩, .i64, .x 0, .x 0, .x 0, 0x0000204002⟩) ∧
  decodeTableWord 96 (word 0x05 0x09 0 0 0 0 0x00 0 0x0000204002) =
    some (.ctlLeave ⟨⟨0, false, false⟩, ⟨false, false, false⟩, .i64, .x 0, .x 0, .x 0, 0x0000204002⟩) := by
  decide +kernel

theorem test_decode_sys :
  decodeTableWord 96 (word 0x06 0x01 0 8 0 0 0x00 0 0x0083C00000) =
    some (.sysGet ⟨⟨0, false, false⟩, ⟨false, false, false⟩, .i64, .x 8, .x 0, .x 0, 0x0083C00000⟩) ∧
  decodeTableWord 96 (word 0x06 0x02 0 0 8 0 0x00 0 0x0002C00000) =
    some (.sysSet ⟨⟨0, false, false⟩, ⟨false, false, false⟩, .i64, .x 0, .x 8, .x 0, 0x0002C00000⟩) ∧
  decodeTableWord 96 (word 0x06 0x03 0 0 0 0 0x00 0 0x3FFFC00000) =
    some (.sysTrap ⟨⟨0, false, false⟩, ⟨false, false, false⟩, .i64, .x 0, .x 0, .x 0, 0x3FFFC00000⟩) ∧
  decodeTableWord 96 (word 0x06 0x04 0 0 0 0 0x00 0 0x0000000000) =
    some (.sysBreak ⟨⟨0, false, false⟩, ⟨false, false, false⟩, .i64, .x 0, .x 0, .x 0, 0x0000000000⟩) ∧
  decodeTableWord 96 (word 0x06 0x05 0 8 0 0 0x00 0 0x0001000000) =
    some (.sysPerf ⟨⟨0, false, false⟩, ⟨false, false, false⟩, .i64, .x 8, .x 0, .x 0, 0x0001000000⟩) := by
  decide +kernel

theorem test_decode_flt :
  decodeTableWord 96 (word 0x07 0x01 8 3 1 2 0x00 0 0x0000000300) =
    some (.fltAdd ⟨⟨0, false, false⟩, ⟨false, false, false⟩, .f32, .x 3, .x 1, .x 2, 0x0000000300⟩) ∧
  decodeTableWord 96 (word 0x07 0x02 8 3 1 2 0x00 0 0x0000000000) =
    some (.fltSub ⟨⟨0, false, false⟩, ⟨false, false, false⟩, .f32, .x 3, .x 1, .x 2, 0x0000000000⟩) ∧
  decodeTableWord 96 (word 0x07 0x03 8 3 1 2 0x00 0 0x0000000000) =
    some (.fltMul ⟨⟨0, false, false⟩, ⟨false, false, false⟩, .f32, .x 3, .x 1, .x 2, 0x0000000000⟩) ∧
  decodeTableWord 96 (word 0x07 0x04 8 3 1 2 0x00 0 0x0000000F09) =
    some (.fltFma ⟨⟨0, false, false⟩, ⟨false, false, false⟩, .f32, .x 3, .x 1, .x 2, 0x0000000F09⟩) ∧
  decodeTableWord 96 (word 0x07 0x05 8 3 1 2 0x00 0 0x0000000000) =
    some (.fltDiv ⟨⟨0, false, false⟩, ⟨false, false, false⟩, .f32, .x 3, .x 1, .x 2, 0x0000000000⟩) ∧
  decodeTableWord 96 (word 0x07 0x06 8 3 1 0 0x00 0 0x0000000000) =
    some (.fltSqrt ⟨⟨0, false, false⟩, ⟨false, false, false⟩, .f32, .x 3, .x 1, .x 0, 0x0000000000⟩) ∧
  decodeTableWord 96 (word 0x07 0x07 8 3 1 2 0x00 0 0x0000000000) =
    some (.fltMin ⟨⟨0, false, false⟩, ⟨false, false, false⟩, .f32, .x 3, .x 1, .x 2, 0x0000000000⟩) ∧
  decodeTableWord 96 (word 0x07 0x08 8 3 1 2 0x00 0 0x0000000000) =
    some (.fltMax ⟨⟨0, false, false⟩, ⟨false, false, false⟩, .f32, .x 3, .x 1, .x 2, 0x0000000000⟩) ∧
  decodeTableWord 96 (word 0x07 0x09 8 3 1 0 0x00 0 0x0000000000) =
    some (.fltAbs ⟨⟨0, false, false⟩, ⟨false, false, false⟩, .f32, .x 3, .x 1, .x 0, 0x0000000000⟩) ∧
  decodeTableWord 96 (word 0x07 0x0A 8 3 1 0 0x00 0 0x0000000000) =
    some (.fltNeg ⟨⟨0, false, false⟩, ⟨false, false, false⟩, .f32, .x 3, .x 1, .x 0, 0x0000000000⟩) ∧
  decodeTableWord 96 (word 0x07 0x0B 0 3 1 0 0x00 0 0x0000400300) =
    some (.fltCvt ⟨⟨0, false, false⟩, ⟨false, false, false⟩, .i64, .x 3, .x 1, .x 0, 0x0000400300⟩) := by
  decide +kernel

theorem test_decode_ld :
  decodeTableWord 96 (word 0x08 0x01 7 10 20 0 0x00 0 0xFFFFFFF800) =
    some (.ldDisp ⟨⟨0, false, false⟩, ⟨false, false, false⟩, .n8, .x 10, .x 20, .x 0, 0xFFFFFFF800⟩) ∧
  decodeTableWord 96 (word 0x08 0x02 2 10 20 21 0x00 0 0xFFFFFFF800) =
    some (.ldIdx ⟨⟨0, false, false⟩, ⟨false, false, false⟩, .i16, .x 10, .x 20, .x 21, 0xFFFFFFF800⟩) ∧
  decodeTableWord 96 (word 0x08 0x03 1 10 20 0 0x00 0 0xFFFFFFF810) =
    some (.ldFe ⟨⟨0, false, false⟩, ⟨false, false, false⟩, .i32, .x 10, .x 20, .x 0, 0xFFFFFFF810⟩) ∧
  decodeTableWord 96 (word 0x08 0x04 0 10 20 0 0x00 0 0xFFFFFFF803) =
    some (.ldAcq ⟨⟨0, false, false⟩, ⟨false, false, false⟩, .i64, .x 10, .x 20, .x 0, 0xFFFFFFF803⟩) ∧
  decodeTableWord 96 (word 0x08 0x05 0 196 20 0 0x00 0 0xFFFFFFF800) =
    some (.ldProbe ⟨⟨0, false, false⟩, ⟨false, false, false⟩, .i64, .p 4, .x 20, .x 0, 0xFFFFFFF800⟩) := by
  decide +kernel

theorem test_decode_st :
  decodeTableWord 96 (word 0x09 0x01 3 12 17 0 0x00 0 0x0000001000) =
    some (.stDisp ⟨⟨0, false, false⟩, ⟨false, false, false⟩, .i8, .x 12, .x 17, .x 0, 0x0000001000⟩) ∧
  decodeTableWord 96 (word 0x09 0x02 6 12 17 18 0x00 0 0x0000001000) =
    some (.stIdx ⟨⟨0, false, false⟩, ⟨false, false, false⟩, .n16, .x 12, .x 17, .x 18, 0x0000001000⟩) ∧
  decodeTableWord 96 (word 0x09 0x03 0 12 17 0 0x00 0 0x0000001000) =
    some (.stFe ⟨⟨0, false, false⟩, ⟨false, false, false⟩, .i64, .x 12, .x 17, .x 0, 0x0000001000⟩) ∧
  decodeTableWord 96 (word 0x09 0x04 0 12 17 0 0x00 0 0x0000001005) =
    some (.stRel ⟨⟨0, false, false⟩, ⟨false, false, false⟩, .i64, .x 12, .x 17, .x 0, 0x0000001005⟩) ∧
  decodeTableWord 96 (word 0x09 0x05 0 0 17 18 0x00 0 0x0000001000) =
    some (.stClr ⟨⟨0, false, false⟩, ⟨false, false, false⟩, .i64, .x 0, .x 17, .x 18, 0x0000001000⟩) := by
  decide +kernel

theorem test_decode_atm :
  decodeTableWord 96 (word 0x0A 0x01 5 1 2 3 0x00 0 0x000000B000) =
    some (.atmAdd ⟨⟨0, false, false⟩, ⟨false, false, false⟩, .n32, .x 1, .x 2, .x 3, 0x000000B000⟩) ∧
  decodeTableWord 96 (word 0x0A 0x02 5 1 2 3 0x00 0 0x000000B000) =
    some (.atmAnd ⟨⟨0, false, false⟩, ⟨false, false, false⟩, .n32, .x 1, .x 2, .x 3, 0x000000B000⟩) ∧
  decodeTableWord 96 (word 0x0A 0x03 5 1 2 3 0x00 0 0x000000B000) =
    some (.atmOr ⟨⟨0, false, false⟩, ⟨false, false, false⟩, .n32, .x 1, .x 2, .x 3, 0x000000B000⟩) ∧
  decodeTableWord 96 (word 0x0A 0x04 5 1 2 3 0x00 0 0x000000B000) =
    some (.atmXor ⟨⟨0, false, false⟩, ⟨false, false, false⟩, .n32, .x 1, .x 2, .x 3, 0x000000B000⟩) ∧
  decodeTableWord 96 (word 0x0A 0x05 5 1 2 3 0x00 0 0x000000B000) =
    some (.atmMin ⟨⟨0, false, false⟩, ⟨false, false, false⟩, .n32, .x 1, .x 2, .x 3, 0x000000B000⟩) ∧
  decodeTableWord 96 (word 0x0A 0x06 5 1 2 3 0x00 0 0x000000B000) =
    some (.atmMax ⟨⟨0, false, false⟩, ⟨false, false, false⟩, .n32, .x 1, .x 2, .x 3, 0x000000B000⟩) ∧
  decodeTableWord 96 (word 0x0A 0x07 5 1 2 3 0x00 0 0x000000B000) =
    some (.atmXchg ⟨⟨0, false, false⟩, ⟨false, false, false⟩, .n32, .x 1, .x 2, .x 3, 0x000000B000⟩) ∧
  decodeTableWord 96 (word 0x0A 0x08 5 1 2 3 0x00 0 0x000000B004) =
    some (.atmCas ⟨⟨0, false, false⟩, ⟨false, false, false⟩, .n32, .x 1, .x 2, .x 3, 0x000000B004⟩) ∧
  decodeTableWord 96 (word 0x0A 0x09 8 1 2 3 0x00 0 0x000000B100) =
    some (.atmFadd ⟨⟨0, false, false⟩, ⟨false, false, false⟩, .f32, .x 1, .x 2, .x 3, 0x000000B100⟩) := by
  decide +kernel

theorem test_decode_fnc :
  decodeTableWord 96 (word 0x0B 0x01 0 0 0 0 0x00 0 0x0000013000) =
    some (.fncFence ⟨⟨0, false, false⟩, ⟨false, false, false⟩, .i64, .x 0, .x 0, .x 0, 0x0000013000⟩) ∧
  decodeTableWord 96 (word 0x0B 0x02 0 0 0 0 0x00 0 0x0000250000) =
    some (.fncDrain ⟨⟨0, false, false⟩, ⟨false, false, false⟩, .i64, .x 0, .x 0, .x 0, 0x0000250000⟩) := by
  decide +kernel

theorem test_decode_cpy :
  decodeTableWord 96 (word 0x0C 0x01 0 0 25 20 0x00 0 0x0000C00016) =
    some (.cpyGo1 ⟨⟨0, false, false⟩, ⟨false, false, false⟩, .i64, .x 0, .x 25, .x 20, 0x0000C00016⟩) ∧
  decodeTableWord 96 (word 0x0C 0x02 0 0 25 0 0x00 0 0x0645800F00) =
    some (.cpyGo2 ⟨⟨0, false, false⟩, ⟨false, false, false⟩, .i64, .x 0, .x 25, .x 0, 0x0645800F00⟩) ∧
  decodeTableWord 96 (word 0x0C 0x03 0 0 25 0 0x00 0 0x0645800F00) =
    some (.cpyGather ⟨⟨0, false, false⟩, ⟨false, false, false⟩, .i64, .x 0, .x 25, .x 0, 0x0645800F00⟩) ∧
  decodeTableWord 96 (word 0x0C 0x04 0 0 25 0 0x00 0 0x0645800F00) =
    some (.cpyScatter ⟨⟨0, false, false⟩, ⟨false, false, false⟩, .i64, .x 0, .x 25, .x 0, 0x0645800F00⟩) ∧
  decodeTableWord 96 (word 0x0C 0x05 0 0 25 20 0x00 0 0x0000C00016) =
    some (.cpyFill ⟨⟨0, false, false⟩, ⟨false, false, false⟩, .i64, .x 0, .x 25, .x 20, 0x0000C00016⟩) ∧
  decodeTableWord 96 (word 0x0C 0x06 0 0 0 0 0x00 0 0x00000C0000) =
    some (.cpyJoin ⟨⟨0, false, false⟩, ⟨false, false, false⟩, .i64, .x 0, .x 0, .x 0, 0x00000C0000⟩) ∧
  decodeTableWord 96 (word 0x0C 0x07 0 0 0 0 0x00 0 0x00000C0000) =
    some (.cpyWait ⟨⟨0, false, false⟩, ⟨false, false, false⟩, .i64, .x 0, .x 0, .x 0, 0x00000C0000⟩) := by
  decide +kernel

theorem test_decode_vec :
  decodeTableWord 96 (word 0x10 0x01 8 131 132 5 0x00 0 0x0000000000) =
    some (.vecAdd ⟨⟨0, false, false⟩, ⟨false, false, false⟩, .f32, .v 3, .v 4, .x 5, 0x0000000000⟩) ∧
  decodeTableWord 96 (word 0x10 0x02 9 131 132 133 0x00 0 0x0000000000) =
    some (.vecSub ⟨⟨0, false, false⟩, ⟨false, false, false⟩, .f16, .v 3, .v 4, .v 5, 0x0000000000⟩) ∧
  decodeTableWord 96 (word 0x10 0x03 10 131 132 133 0x00 0 0x0000000000) =
    some (.vecMul ⟨⟨0, false, false⟩, ⟨false, false, false⟩, .bf16, .v 3, .v 4, .v 5, 0x0000000000⟩) ∧
  decodeTableWord 96 (word 0x10 0x04 8 131 132 133 0x1A 0 0x0000000086) =
    some (.vecFma ⟨⟨2, true, true⟩, ⟨false, false, false⟩, .f32, .v 3, .v 4, .v 5, 0x0000000086⟩) ∧
  decodeTableWord 96 (word 0x10 0x05 8 131 132 133 0x00 0 0x0000000086) =
    some (.vecFms ⟨⟨0, false, false⟩, ⟨false, false, false⟩, .f32, .v 3, .v 4, .v 5, 0x0000000086⟩) ∧
  decodeTableWord 96 (word 0x10 0x06 8 131 132 133 0x00 0 0x0000000000) =
    some (.vecMin ⟨⟨0, false, false⟩, ⟨false, false, false⟩, .f32, .v 3, .v 4, .v 5, 0x0000000000⟩) ∧
  decodeTableWord 96 (word 0x10 0x07 8 131 132 133 0x00 0 0x0000000000) =
    some (.vecMax ⟨⟨0, false, false⟩, ⟨false, false, false⟩, .f32, .v 3, .v 4, .v 5, 0x0000000000⟩) ∧
  decodeTableWord 96 (word 0x10 0x08 1 131 132 0 0x00 0 0x0000000000) =
    some (.vecAbs ⟨⟨0, false, false⟩, ⟨false, false, false⟩, .i32, .v 3, .v 4, .x 0, 0x0000000000⟩) ∧
  decodeTableWord 96 (word 0x10 0x09 8 131 132 0 0x00 0 0x0000000000) =
    some (.vecNeg ⟨⟨0, false, false⟩, ⟨false, false, false⟩, .f32, .v 3, .v 4, .x 0, 0x0000000000⟩) ∧
  decodeTableWord 96 (word 0x10 0x0A 2 131 132 133 0x00 0 0x0000000000) =
    some (.vecAnd ⟨⟨0, false, false⟩, ⟨false, false, false⟩, .i16, .v 3, .v 4, .v 5, 0x0000000000⟩) ∧
  decodeTableWord 96 (word 0x10 0x0B 8 131 132 133 0x00 0 0x0000000000) =
    some (.vecOr ⟨⟨0, false, false⟩, ⟨false, false, false⟩, .f32, .v 3, .v 4, .v 5, 0x0000000000⟩) ∧
  decodeTableWord 96 (word 0x10 0x0C 8 131 132 133 0x00 0 0x0000000000) =
    some (.vecXor ⟨⟨0, false, false⟩, ⟨false, false, false⟩, .f32, .v 3, .v 4, .v 5, 0x0000000000⟩) ∧
  decodeTableWord 96 (word 0x10 0x0D 5 131 132 133 0x00 0 0x0000000000) =
    some (.vecShl ⟨⟨0, false, false⟩, ⟨false, false, false⟩, .n32, .v 3, .v 4, .v 5, 0x0000000000⟩) ∧
  decodeTableWord 96 (word 0x10 0x0E 1 131 132 133 0x00 0 0x0000000000) =
    some (.vecShr ⟨⟨0, false, false⟩, ⟨false, false, false⟩, .i32, .v 3, .v 4, .v 5, 0x0000000000⟩) ∧
  decodeTableWord 96 (word 0x10 0x0F 8 131 132 0 0x00 0 0x0000000000) =
    some (.vecMov ⟨⟨0, false, false⟩, ⟨false, false, false⟩, .f32, .v 3, .v 4, .x 0, 0x0000000000⟩) ∧
  decodeTableWord 96 (word 0x10 0x10 8 131 4 0 0x00 0 0x0000000000) =
    some (.vecBcast ⟨⟨0, false, false⟩, ⟨false, false, false⟩, .f32, .v 3, .x 4, .x 0, 0x0000000000⟩) ∧
  decodeTableWord 96 (word 0x10 0x11 8 131 132 133 0x00 0 0x00000000CB) =
    some (.vecSel ⟨⟨0, false, false⟩, ⟨false, false, false⟩, .f32, .v 3, .v 4, .v 5, 0x00000000CB⟩) ∧
  decodeTableWord 96 (word 0x10 0x12 3 131 132 133 0x00 0 0x0000000000) =
    some (.vecAdds ⟨⟨0, false, false⟩, ⟨false, false, false⟩, .i8, .v 3, .v 4, .v 5, 0x0000000000⟩) ∧
  decodeTableWord 96 (word 0x10 0x13 7 131 132 133 0x00 0 0x0000000000) =
    some (.vecSubs ⟨⟨0, false, false⟩, ⟨false, false, false⟩, .n8, .v 3, .v 4, .v 5, 0x0000000000⟩) := by
  decide +kernel

theorem test_decode_vcv :
  decodeTableWord 96 (word 0x11 0x01 10 129 130 0 0x00 0 0x0006000400) =
    some (.vcvCvt ⟨⟨0, false, false⟩, ⟨false, false, false⟩, .bf16, .v 1, .v 2, .x 0, 0x0006000400⟩) ∧
  decodeTableWord 96 (word 0x11 0x02 3 129 130 131 0x00 0 0x0000800000) =
    some (.vcvPack ⟨⟨0, false, false⟩, ⟨false, false, false⟩, .i8, .v 1, .v 2, .v 3, 0x0000800000⟩) ∧
  decodeTableWord 96 (word 0x11 0x03 8 129 130 0 0x00 0 0x0002800089) =
    some (.vcvUnpack ⟨⟨0, false, false⟩, ⟨false, false, false⟩, .f32, .v 1, .v 2, .x 0, 0x0002800089⟩) ∧
  decodeTableWord 96 (word 0x11 0x04 11 129 130 131 0x00 0 0x0FE60000D2) =
    some (.vcvQnt ⟨⟨0, false, false⟩, ⟨false, false, false⟩, .e4m3, .v 1, .v 2, .v 3, 0x0FE60000D2⟩) ∧
  decodeTableWord 96 (word 0x11 0x05 13 129 130 0 0x00 0 0x0F9E0000D2) =
    some (.vcvScale ⟨⟨0, false, false⟩, ⟨false, false, false⟩, .e2m1, .v 1, .v 2, .x 0, 0x0F9E0000D2⟩) := by
  decide +kernel

theorem test_decode_vsf :
  decodeTableWord 96 (word 0x12 0x01 8 135 191 0 0x00 0 0x0000000000) =
    some (.vsfExp2 ⟨⟨0, false, false⟩, ⟨false, false, false⟩, .f32, .v 7, .v 63, .x 0, 0x0000000000⟩) ∧
  decodeTableWord 96 (word 0x12 0x02 9 135 191 0 0x00 0 0x0000000000) =
    some (.vsfLog2 ⟨⟨0, false, false⟩, ⟨false, false, false⟩, .f16, .v 7, .v 63, .x 0, 0x0000000000⟩) ∧
  decodeTableWord 96 (word 0x12 0x03 10 135 191 0 0x00 0 0x0000000000) =
    some (.vsfRcp ⟨⟨0, false, false⟩, ⟨false, false, false⟩, .bf16, .v 7, .v 63, .x 0, 0x0000000000⟩) ∧
  decodeTableWord 96 (word 0x12 0x04 8 135 191 0 0x00 0 0x0000000000) =
    some (.vsfRsqrt ⟨⟨0, false, false⟩, ⟨false, false, false⟩, .f32, .v 7, .v 63, .x 0, 0x0000000000⟩) ∧
  decodeTableWord 96 (word 0x12 0x05 8 135 191 0 0x00 0 0x0000000000) =
    some (.vsfSqrt ⟨⟨0, false, false⟩, ⟨false, false, false⟩, .f32, .v 7, .v 63, .x 0, 0x0000000000⟩) := by
  decide +kernel

theorem test_decode_vpm :
  decodeTableWord 96 (word 0x13 0x01 1 133 134 135 0x00 0 0x0000000000) =
    some (.vpmPerm ⟨⟨0, false, false⟩, ⟨false, false, false⟩, .i32, .v 5, .v 6, .v 7, 0x0000000000⟩) ∧
  decodeTableWord 96 (word 0x13 0x02 1 133 134 0 0x00 0 0x0003C00000) =
    some (.vpmRot ⟨⟨0, false, false⟩, ⟨false, false, false⟩, .i32, .v 5, .v 6, .x 0, 0x0003C00000⟩) ∧
  decodeTableWord 96 (word 0x13 0x03 1 133 134 0 0x00 0 0x00A0008000) =
    some (.vpmRed ⟨⟨0, false, false⟩, ⟨false, false, false⟩, .i32, .v 5, .v 6, .x 0, 0x00A0008000⟩) ∧
  decodeTableWord 96 (word 0x13 0x04 1 133 134 0 0x00 0 0x0000004000) =
    some (.vpmScan ⟨⟨0, false, false⟩, ⟨false, false, false⟩, .i32, .v 5, .v 6, .x 0, 0x0000004000⟩) ∧
  decodeTableWord 96 (word 0x13 0x05 1 5 134 0 0x00 0 0x0003C00000) =
    some (.vpmExtr ⟨⟨0, false, false⟩, ⟨false, false, false⟩, .i32, .x 5, .v 6, .x 0, 0x0003C00000⟩) ∧
  decodeTableWord 96 (word 0x13 0x06 1 133 6 0 0x00 0 0x0000C00000) =
    some (.vpmIns ⟨⟨0, false, false⟩, ⟨false, false, false⟩, .i32, .v 5, .x 6, .x 0, 0x0000C00000⟩) ∧
  decodeTableWord 96 (word 0x13 0x07 1 133 6 0 0x00 0 0x0000000000) =
    some (.vpmIota ⟨⟨0, false, false⟩, ⟨false, false, false⟩, .i32, .v 5, .x 6, .x 0, 0x0000000000⟩) := by
  decide +kernel

theorem test_decode_vls :
  decodeTableWord 96 (word 0x14 0x01 1 137 8 0 0x00 0 0x0000004000) =
    some (.vlsLd ⟨⟨0, false, false⟩, ⟨false, false, false⟩, .i32, .v 9, .x 8, .x 0, 0x0000004000⟩) ∧
  decodeTableWord 96 (word 0x14 0x02 1 137 8 0 0x00 0 0x0000004000) =
    some (.vlsSt ⟨⟨0, false, false⟩, ⟨false, false, false⟩, .i32, .v 9, .x 8, .x 0, 0x0000004000⟩) ∧
  decodeTableWord 96 (word 0x14 0x03 6 137 8 7 0x00 0 0x0000004000) =
    some (.vlsLds ⟨⟨0, false, false⟩, ⟨false, false, false⟩, .n16, .v 9, .x 8, .x 7, 0x0000004000⟩) ∧
  decodeTableWord 96 (word 0x14 0x04 6 137 8 7 0x00 0 0x0000004000) =
    some (.vlsSts ⟨⟨0, false, false⟩, ⟨false, false, false⟩, .n16, .v 9, .x 8, .x 7, 0x0000004000⟩) ∧
  decodeTableWord 96 (word 0x14 0x05 1 137 8 136 0x00 0 0x0000004000) =
    some (.vlsLdg ⟨⟨0, false, false⟩, ⟨false, false, false⟩, .i32, .v 9, .x 8, .v 8, 0x0000004000⟩) ∧
  decodeTableWord 96 (word 0x14 0x06 1 137 8 0 0x00 0 0x0000004001) =
    some (.vlsLdfe ⟨⟨0, false, false⟩, ⟨false, false, false⟩, .i32, .v 9, .x 8, .x 0, 0x0000004001⟩) ∧
  decodeTableWord 96 (word 0x14 0x07 1 137 8 0 0x00 0 0x0000004000) =
    some (.vlsStfe ⟨⟨0, false, false⟩, ⟨false, false, false⟩, .i32, .v 9, .x 8, .x 0, 0x0000004000⟩) := by
  decide +kernel

theorem test_decode_vcmp :
  decodeTableWord 96 (word 0x15 0x01 3 202 129 130 0x00 0 0x0000000000) =
    some (.vcmpEq ⟨⟨0, false, false⟩, ⟨false, false, false⟩, .i8, .k 2, .v 1, .v 2, 0x0000000000⟩) ∧
  decodeTableWord 96 (word 0x15 0x02 9 202 129 130 0x00 0 0x0000000000) =
    some (.vcmpNe ⟨⟨0, false, false⟩, ⟨false, false, false⟩, .f16, .k 2, .v 1, .v 2, 0x0000000000⟩) ∧
  decodeTableWord 96 (word 0x15 0x03 1 202 129 130 0x00 0 0x0000000000) =
    some (.vcmpLt ⟨⟨0, false, false⟩, ⟨false, false, false⟩, .i32, .k 2, .v 1, .v 2, 0x0000000000⟩) ∧
  decodeTableWord 96 (word 0x15 0x04 1 202 129 130 0x00 0 0x0000000000) =
    some (.vcmpLe ⟨⟨0, false, false⟩, ⟨false, false, false⟩, .i32, .k 2, .v 1, .v 2, 0x0000000000⟩) ∧
  decodeTableWord 96 (word 0x15 0x05 1 202 129 130 0x00 0 0x0000000000) =
    some (.vcmpGt ⟨⟨0, false, false⟩, ⟨false, false, false⟩, .i32, .k 2, .v 1, .v 2, 0x0000000000⟩) ∧
  decodeTableWord 96 (word 0x15 0x06 1 202 129 130 0x00 0 0x0000000000) =
    some (.vcmpGe ⟨⟨0, false, false⟩, ⟨false, false, false⟩, .i32, .k 2, .v 1, .v 2, 0x0000000000⟩) ∧
  decodeTableWord 96 (word 0x15 0x07 8 202 129 130 0x00 0 0x0000000000) =
    some (.vcmpUnord ⟨⟨0, false, false⟩, ⟨false, false, false⟩, .f32, .k 2, .v 1, .v 2, 0x0000000000⟩) := by
  decide +kernel

theorem test_decode_mxu :
  decodeTableWord 96 (word 0x18 0x01 10 0 20 21 0x00 0 0x8100C00017) =
    some (.mxuMma ⟨⟨0, false, false⟩, ⟨false, false, false⟩, .bf16, .x 0, .x 20, .x 21, 0x8100C00017⟩) ∧
  decodeTableWord 96 (word 0x18 0x02 13 0 20 21 0x00 0 0x5803000000) =
    some (.mxuBlk ⟨⟨0, false, false⟩, ⟨false, false, false⟩, .e2m1, .x 0, .x 20, .x 21, 0x5803000000⟩) ∧
  decodeTableWord 96 (word 0x18 0x03 0 0 209 210 0x00 0 0x0004400000) =
    some (.mxuSca ⟨⟨0, false, false⟩, ⟨false, false, false⟩, .i64, .x 0, .s 1, .s 2, 0x0004400000⟩) ∧
  decodeTableWord 96 (word 0x18 0x04 0 0 0 0 0x00 0 0x0001000000) =
    some (.mxuZero ⟨⟨0, false, false⟩, ⟨false, false, false⟩, .i64, .x 0, .x 0, .x 0, 0x0001000000⟩) ∧
  decodeTableWord 96 (word 0x18 0x05 10 0 9 12 0x00 0 0x0FE0000800) =
    some (.mxuXfer ⟨⟨0, false, false⟩, ⟨false, false, false⟩, .bf16, .x 0, .x 9, .x 12, 0x0FE0000800⟩) ∧
  decodeTableWord 96 (word 0x18 0x06 3 0 9 12 0x00 0 0xFE02000000) =
    some (.mxuLoad ⟨⟨0, false, false⟩, ⟨false, false, false⟩, .i8, .x 0, .x 9, .x 12, 0xFE02000000⟩) ∧
  decodeTableWord 96 (word 0x18 0x07 0 0 0 0 0x00 1 0x0007C00000) =
    some (.mxuWait ⟨⟨0, false, false⟩, ⟨true, false, false⟩, .i64, .x 0, .x 0, .x 0, 0x0007C00000⟩) ∧
  decodeTableWord 96 (word 0x18 0x08 0 3 0 0 0x00 0 0x0000800000) =
    some (.mxuProg ⟨⟨0, false, false⟩, ⟨false, false, false⟩, .i64, .x 3, .x 0, .x 0, 0x0000800000⟩) := by
  decide +kernel

theorem test_decode_scl :
  decodeTableWord 96 (word 0x19 0x01 0 211 4 0 0x00 0 0xFFFFFFF000) =
    some (.sclLd ⟨⟨0, false, false⟩, ⟨false, false, false⟩, .i64, .s 3, .x 4, .x 0, 0xFFFFFFF000⟩) ∧
  decodeTableWord 96 (word 0x19 0x02 0 131 212 0 0x00 0 0x0000000001) =
    some (.sclMov ⟨⟨0, false, false⟩, ⟨false, false, false⟩, .i64, .v 3, .s 4, .x 0, 0x0000000001⟩) ∧
  decodeTableWord 96 (word 0x19 0x03 0 211 0 0 0x00 0 0x000000007F) =
    some (.sclClr ⟨⟨0, false, false⟩, ⟨false, false, false⟩, .i64, .s 3, .x 0, .x 0, 0x000000007F⟩) := by
  decide +kernel

theorem test_decode_cue :
  decodeTableWord 96 (word 0x1C 0x01 0 0 8 9 0x00 0 0x0400C0000A) =
    some (.cuePost ⟨⟨0, false, false⟩, ⟨false, false, false⟩, .i64, .x 0, .x 8, .x 9, 0x0400C0000A⟩) ∧
  decodeTableWord 96 (word 0x1C 0x02 0 0 11 25 0x00 0 0x0080400000) =
    some (.cuePostb ⟨⟨0, false, false⟩, ⟨false, false, false⟩, .i64, .x 0, .x 11, .x 25, 0x0080400000⟩) ∧
  decodeTableWord 96 (word 0x1C 0x03 0 0 0 9 0x00 0 0x003FC0000A) =
    some (.cueSelf ⟨⟨0, false, false⟩, ⟨false, false, false⟩, .i64, .x 0, .x 0, .x 9, 0x003FC0000A⟩) ∧
  decodeTableWord 96 (word 0x1C 0x04 0 0 8 9 0x00 0 0x1001000000) =
    some (.cueTimer ⟨⟨0, false, false⟩, ⟨false, false, false⟩, .i64, .x 0, .x 8, .x 9, 0x1001000000⟩) ∧
  decodeTableWord 96 (word 0x1C 0x05 0 0 0 0 0x00 0 0x0000000000) =
    some (.cueEnd ⟨⟨0, false, false⟩, ⟨false, false, false⟩, .i64, .x 0, .x 0, .x 0, 0x0000000000⟩) ∧
  decodeTableWord 96 (word 0x1C 0x06 0 3 0 0 0x00 0 0x0000400000) =
    some (.cueNow ⟨⟨0, false, false⟩, ⟨false, false, false⟩, .i64, .x 3, .x 0, .x 0, 0x0000400000⟩) ∧
  decodeTableWord 96 (word 0x1C 0x07 0 0 11 13 0x00 0 0x0000000000) =
    some (.cueTag ⟨⟨0, false, false⟩, ⟨false, false, false⟩, .i64, .x 0, .x 11, .x 13, 0x0000000000⟩) ∧
  decodeTableWord 96 (word 0x1C 0x08 0 3 0 0 0x00 0 0x0001C00000) =
    some (.cueInfo ⟨⟨0, false, false⟩, ⟨false, false, false⟩, .i64, .x 3, .x 0, .x 0, 0x0001C00000⟩) ∧
  decodeTableWord 96 (word 0x1C 0x09 0 3 4 0 0x00 0 0x0000000000) =
    some (.cueHzn ⟨⟨0, false, false⟩, ⟨false, false, false⟩, .i64, .x 3, .x 4, .x 0, 0x0000000000⟩) := by
  decide +kernel

theorem test_decode_acc :
  decodeTableWord 96 (word 0x1D 0x01 0 6 20 0 0x00 0 0x0000004000) =
    some (.accChain ⟨⟨0, false, false⟩, ⟨false, false, false⟩, .i64, .x 6, .x 20, .x 0, 0x0000004000⟩) ∧
  decodeTableWord 96 (word 0x1D 0x02 0 0 6 0 0x00 0 0x003C000000) =
    some (.accSend ⟨⟨0, false, false⟩, ⟨false, false, false⟩, .i64, .x 0, .x 6, .x 0, 0x003C000000⟩) ∧
  decodeTableWord 96 (word 0x1D 0x03 0 7 6 0 0x00 0 0x0000000000) =
    some (.accStat ⟨⟨0, false, false⟩, ⟨false, false, false⟩, .i64, .x 7, .x 6, .x 0, 0x0000000000⟩) ∧
  decodeTableWord 96 (word 0x1D 0x04 0 0 6 0 0x00 0 0x0000000000) =
    some (.accBreak ⟨⟨0, false, false⟩, ⟨false, false, false⟩, .i64, .x 0, .x 6, .x 0, 0x0000000000⟩) := by
  decide +kernel

theorem test_decode_bar :
  decodeTableWord 96 (word 0x1E 0x01 0 0 9 14 0x00 0 0x001000C000) =
    some (.barInit ⟨⟨0, false, false⟩, ⟨false, false, false⟩, .i64, .x 0, .x 9, .x 14, 0x001000C000⟩) ∧
  decodeTableWord 96 (word 0x1E 0x02 0 0 0 0 0x00 0 0x0001408000) =
    some (.barArrive ⟨⟨0, false, false⟩, ⟨false, false, false⟩, .i64, .x 0, .x 0, .x 0, 0x0001408000⟩) ∧
  decodeTableWord 96 (word 0x1E 0x03 0 7 0 0 0x00 0 0x0001408000) =
    some (.barWait ⟨⟨0, false, false⟩, ⟨false, false, false⟩, .i64, .x 7, .x 0, .x 0, 0x0001408000⟩) ∧
  decodeTableWord 96 (word 0x1E 0x04 0 7 0 0 0x00 0 0x0001408000) =
    some (.barSync ⟨⟨0, false, false⟩, ⟨false, false, false⟩, .i64, .x 7, .x 0, .x 0, 0x0001408000⟩) ∧
  decodeTableWord 96 (word 0x1E 0x05 0 0 9 0 0x00 0 0x00A080C000) =
    some (.barLine ⟨⟨0, false, false⟩, ⟨false, false, false⟩, .i64, .x 0, .x 9, .x 0, 0x00A080C000⟩) ∧
  decodeTableWord 96 (word 0x1E 0x06 0 0 0 0 0x00 0 0x0001408000) =
    some (.barDrop ⟨⟨0, false, false⟩, ⟨false, false, false⟩, .i64, .x 0, .x 0, .x 0, 0x0001408000⟩) := by
  decide +kernel

theorem test_decode_grp :
  decodeTableWord 96 (word 0x1F 0x01 0 134 0 0 0x00 0 0x0000408000) =
    some (.grpId ⟨⟨0, false, false⟩, ⟨false, false, false⟩, .i64, .v 6, .x 0, .x 0, 0x0000408000⟩) ∧
  decodeTableWord 96 (word 0x1F 0x02 0 6 0 0 0x00 0 0x0000008000) =
    some (.grpSize ⟨⟨0, false, false⟩, ⟨false, false, false⟩, .i64, .x 6, .x 0, .x 0, 0x0000008000⟩) ∧
  decodeTableWord 96 (word 0x1F 0x03 0 0 0 0 0x00 0 0x0000000000) =
    some (.grpExit ⟨⟨0, false, false⟩, ⟨false, false, false⟩, .i64, .x 0, .x 0, .x 0, 0x0000000000⟩) ∧
  decodeTableWord 96 (word 0x1F 0x04 0 6 7 0 0x00 0 0x0000000000) =
    some (.grpBudget ⟨⟨0, false, false⟩, ⟨false, false, false⟩, .i64, .x 6, .x 7, .x 0, 0x0000000000⟩) ∧
  decodeTableWord 96 (word 0x1F 0x05 0 0 0 0 0x00 1 0x0009000000) =
    some (.grpRegs ⟨⟨0, false, false⟩, ⟨true, false, false⟩, .i64, .x 0, .x 0, .x 0, 0x0009000000⟩) := by
  decide +kernel

theorem test_decode_que :
  decodeTableWord 96 (word 0x20 0x01 0 0 4 5 0x00 0 0x0000000000) =
    some (.quePush ⟨⟨0, false, false⟩, ⟨false, false, false⟩, .i64, .x 0, .x 4, .x 5, 0x0000000000⟩) ∧
  decodeTableWord 96 (word 0x20 0x02 0 6 4 5 0x00 0 0x0000800000) =
    some (.queStat ⟨⟨0, false, false⟩, ⟨false, false, false⟩, .i64, .x 6, .x 4, .x 5, 0x0000800000⟩) ∧
  decodeTableWord 96 (word 0x20 0x03 0 0 4 5 0x00 0 0x0000000000) =
    some (.queWait ⟨⟨0, false, false⟩, ⟨false, false, false⟩, .i64, .x 0, .x 4, .x 5, 0x0000000000⟩) := by
  decide +kernel

theorem test_decode_ctx :
  decodeTableWord 96 (word 0x21 0x01 0 0 0 0 0x00 0 0x048D000000) =
    some (.ctxYield ⟨⟨0, false, false⟩, ⟨false, false, false⟩, .i64, .x 0, .x 0, .x 0, 0x048D000000⟩) ∧
  decodeTableWord 96 (word 0x21 0x02 0 7 0 0 0x00 0 0x0001000000) =
    some (.ctxInfo ⟨⟨0, false, false⟩, ⟨false, false, false⟩, .i64, .x 7, .x 0, .x 0, 0x0001000000⟩) := by
  decide +kernel

theorem test_decode_pg :
  decodeTableWord 96 (word 0x22 0x01 0 7 20 0 0x00 0 0x0000000000) =
    some (.pgProbe ⟨⟨0, false, false⟩, ⟨false, false, false⟩, .i64, .x 7, .x 20, .x 0, 0x0000000000⟩) := by
  decide +kernel

theorem test_decode_lnk :
  decodeTableWord 96 (word 0x23 0x01 0 7 0 0 0x00 0 0x0000C00000) =
    some (.lnkStat ⟨⟨0, false, false⟩, ⟨false, false, false⟩, .i64, .x 7, .x 0, .x 0, 0x0000C00000⟩) := by
  decide +kernel
/-- Fields with no guard and no hint. -/
def ops (ty : Ty) (d a b : Reg) (x : BitVec 40) : Ops := ⟨⟨0, false, false⟩, ⟨false, false, false⟩, ty, d, a, b, x⟩

/-- Words printed in the manual (chapters 3 to 8, 10, 11, 13 to 23). -/
theorem test_words_of_the_manual :
    decodeTableWord 96 (words 0x30280081 0x38 0) = some (.intAdd (ops .i64 (.x 5) (.x 6) (.x 7) 0)) ∧
    decodeTableWord 96 (words 0x48480082 0xF4019800 0xFFFFFFFF) =
      some (.intiAddi ⟨⟨3, false, true⟩, ⟨true, false, false⟩, .i64, .x 9, .x 9, .x 0, 0xFFFFFFFFF4⟩) ∧
    decodeTableWord 96 (words 0x00200482 0x03000000 0) = some (.intiMovi (ops .i64 (.x 4) (.x 0) (.x 0) 3)) ∧
    decodeTableWord 96 (words 0x26080283 0 0) = some (.cmpGt (ops .i64 (.p 1) (.x 4) (.x 0) 0)) ∧
    decodeTableWord 96 (words 0x00000085 0xFE000800 0xFFFFFFFF) =
      some (.ctlBra ⟨⟨1, false, false⟩, ⟨false, false, false⟩, .i64, .x 0, .x 0, .x 0, 0xFFFFFFFFFE⟩) ∧
    decodeTableWord 96 (words 0x0000029C 0 0) = some (.cueEnd (ops .i64 (.x 0) (.x 0) (.x 0) 0)) ∧
    decodeTableWord 96 (words 0x00000405 0x02000000 0x2040) = some (.ctlEnter (ops .i64 (.x 0) (.x 0) (.x 0) 0x204002)) ∧
    decodeTableWord 96 (words 0xA0500188 0x10010000 0) =
      some (.ldFe ⟨⟨0, false, false⟩, ⟨true, false, false⟩, .i64, .x 10, .x 20, .x 0, 0x10⟩) ∧
    decodeTableWord 96 (words 0x00380121 0 0x10000) = some (.ctxInfo (ops .i64 (.x 7) (.x 0) (.x 0) 0x1000000)) ∧
    decodeTableWord 96 (words 0x200000A0 0x28 0) = some (.quePush (ops .i64 (.x 0) (.x 4) (.x 5) 0)) ∧
    decodeTableWord 96 (words 0x0030009F 0 0x80) = some (.grpId (ops .i64 (.x 6) (.x 0) (.x 0) 0x8000)) ∧
    decodeTableWord 96 (words 0x4000009C 0x0A000048 0x0400C000) =
      some (.cuePost (ops .i64 (.x 0) (.x 8) (.x 9) 0x0400C0000A)) ∧
    decodeTableWord 96 (words 0xA030009D 0 0x40) = some (.accChain (ops .i64 (.x 6) (.x 20) (.x 0) 0x4000)) ∧
    decodeTableWord 96 (words 0xA0050098 0xA8 0x80080000) = some (.mxuMma (ops .bf16 (.x 0) (.x 20) (.x 21) 0x8008000000)) ∧
    decodeTableWord 96 (words 0x48050298 0x00010060 0xFE000000) =
      some (.mxuXfer ⟨⟨0, false, false⟩, ⟨true, false, false⟩, .bf16, .x 0, .x 9, .x 12, 0xFE00000000⟩) ∧
    decodeTableWord 96 (words 0x0038021E 0 0x14080) = some (.barSync (ops .i64 (.x 7) (.x 0) (.x 0) 0x1408000)) ∧
    decodeTableWord 96 (words 0x4800029E 0 0xA080C0) = some (.barLine (ops .i64 (.x 0) (.x 9) (.x 0) 0xA080C000)) ∧
    decodeTableWord 96 (words 0xA03800A2 0 0) = some (.pgProbe (ops .i64 (.x 7) (.x 20) (.x 0) 0)) ∧
    decodeTableWord 96 (words 0xC800008C 0x160018A0 0) =
      some (.cpyGo1 ⟨⟨3, false, false⟩, ⟨false, false, false⟩, .i64, .x 0, .x 25, .x 20, 22⟩) ∧
    decodeTableWord 96 (words 0x003800A3 0 0xC000) = some (.lnkStat (ops .i64 (.x 7) (.x 0) (.x 0) 0xC00000)) ∧
    decodeTableWord 96 (words 0x5800011C 0xC8 0x804000) = some (.cuePostb (ops .i64 (.x 0) (.x 11) (.x 25) 0x80400000)) := by
  decide +kernel

/-- The FIELD code of a word that is no instruction, 0 for one that is. -/
def fieldAt (w : Nat) : Nat :=
  match decode (BitVec.ofNat 96 w) with
  | .error f => f
  | .ok _ => 0

/-- Words that the manual lists as ILLEGAL (chapter 3), with the FIELD code of R450. -/
theorem test_illegal_words_of_the_manual :
    [words 0 0 0, words 0x8D 0 0, words 0x0B01 0 0, words 0x30280081 0x80038 0, words 0x30280081 0x4038 0,
      words 0x30280081 0x06C0 0, words 0x33200081 0x38 0].map fieldAt = [1, 1, 2, 8, 7, 6, 0] := by
  decide +kernel

/-! ## Ill-formed terms: one for each check -/

/-- The type of the function (R75, R117, R122, R125, R200). -/
theorem test_ill_formed_type :
    WellFormed (.intAdd (ops .f32 (.x 1) (.x 2) (.x 3) 0)) = false ∧ WellFormed (.intAbs (ops .n64 (.x 1) (.x 2) (.x 0) 0)) = false ∧
    WellFormed (.intiShli (ops .i32 (.x 1) (.x 2) (.x 0) 32)) = false ∧ WellFormed (.intiLea (ops .i32 (.x 1) (.x 0) (.x 0) 0)) = false ∧
    WellFormed (.cmpUnord (ops .i64 (.p 1) (.x 2) (.x 3) 0)) = false ∧ WellFormed (.prdNot (ops .i32 (.p 1) (.p 2) (.x 0) 0)) = false ∧
    WellFormed (.fltAdd (ops .f16 (.x 1) (.x 2) (.x 3) 0)) = false ∧ WellFormed (.fltCvt (ops .f32 (.x 1) (.x 2) (.x 0) 0)) = false ∧
    WellFormed (.ldProbe (ops .i32 (.p 1) (.x 2) (.x 0) 0)) = false ∧ WellFormed (.atmFadd (ops .i64 (.x 1) (.x 2) (.x 3) 0)) = false ∧
    WellFormed (.vecAdd (ops .i64 (.v 1) (.v 2) (.v 3) 0)) = false ∧ WellFormed (.vecShl (ops .f32 (.v 1) (.v 2) (.v 3) 0)) = false ∧
    WellFormed (.vcvPack (ops .i8 (.v 1) (.v 2) (.v 3) 0x0400000)) = false ∧ WellFormed (.vlsLds (ops .f32 (.v 1) (.x 2) (.x 3) 0)) = false ∧
    WellFormed (.mxuMma (ops .e2m1 (.x 0) (.x 2) (.x 3) 0x2000000)) = false ∧ WellFormed (.vpmIota (ops .f32 (.v 1) (.x 2) (.x 0) 0)) = false := by
  decide +kernel

/-- The classes of D, A, B and C, and fields that a function does not use (R71). -/
theorem test_ill_formed_operands :
    WellFormed (.intAdd (ops .i64 (.v 1) (.x 2) (.x 3) 0)) = false ∧ WellFormed (.intAdd (ops .i64 (.x 1) (.p 2) (.x 3) 0)) = false ∧
    WellFormed (.intClz (ops .i64 (.x 1) (.x 2) (.x 3) 0)) = false ∧ WellFormed (.intSel (ops .i64 (.x 1) (.x 2) (.x 3) 5)) = false ∧
    WellFormed (.intSel (ops .i64 (.x 1) (.x 2) (.x 3) 216)) = false ∧ WellFormed (.ctlLoop (ops .i64 (.x 0) (.x 0) (.x 0) 1)) = false ∧
    WellFormed (.vcvUnpack (ops .f32 (.v 9) (.v 2) (.x 0) 0x2800089)) = false ∧ WellFormed (.sclMov (ops .i64 (.v 1) (.v 2) (.x 0) 0)) = false ∧
    WellFormed (.lnkStat (ops .i64 (.x 7) (.x 1) (.x 0) 0xC00000)) = false ∧ WellFormed (.queStat (ops .i64 (.x 6) (.x 4) (.x 5) 0)) = false ∧
    WellFormed (.stClr (ops .i64 (.x 1) (.x 2) (.x 3) 0)) = false ∧ WellFormed (.vecBcast (ops .i32 (.v 1) (.p 2) (.x 0) 0)) = false := by
  decide +kernel

/-- A k guard outside the vector classes, and GRP.REGS without SW (R76, R306). -/
theorem test_ill_formed_guard_and_hints :
    WellFormed (.intAdd ⟨⟨0, true, false⟩, ⟨false, false, false⟩, .i64, .x 1, .x 2, .x 3, 0⟩) = false ∧
    WellFormed (.grpRegs (ops .i64 (.x 0) (.x 0) (.x 0) 0x9000000)) = false := by
  decide +kernel

/-- The extension field: reserved bits, ranges and modes (R47, R67 to R69, R122, R127, R132, R178 to R200, R305, R339, R381). -/
theorem test_ill_formed_extension :
    WellFormed (.intAdd (ops .i64 (.x 1) (.x 2) (.x 3) 0x100)) = false ∧ WellFormed (.intiShli (ops .i64 (.x 1) (.x 2) (.x 0) 64)) = false ∧
    WellFormed (.ctlJmp (ops .i64 (.x 0) (.x 2) (.x 0) 1)) = false ∧ WellFormed (.ctlEnter (ops .i64 (.x 0) (.x 0) (.x 0) 0x204000)) = false ∧
    WellFormed (.sysGet (ops .i64 (.x 1) (.x 0) (.x 0) 0x4400000)) = false ∧ WellFormed (.sysSet (ops .i64 (.x 0) (.x 1) (.x 0) 0)) = false ∧
    WellFormed (.fltAdd (ops .f32 (.x 1) (.x 2) (.x 3) 0x400)) = false ∧ WellFormed (.ldDisp (ops .i64 (.x 1) (.x 2) (.x 0) 1)) = false ∧
    WellFormed (.stFe (ops .i64 (.x 1) (.x 2) (.x 0) 0x10)) = false ∧ WellFormed (.atmAdd (ops .i64 (.x 1) (.x 2) (.x 3) 0x100)) = false ∧
    WellFormed (.fncFence (ops .i64 (.x 0) (.x 0) (.x 0) 0)) = false ∧ WellFormed (.cpyWait (ops .i64 (.x 0) (.x 0) (.x 0) 0)) = false ∧
    WellFormed (.cpyFill (ops .i64 (.x 0) (.x 1) (.x 2) 0x1000003)) = false ∧ WellFormed (.vecMov (ops .i32 (.v 1) (.v 2) (.x 0) 0x400000)) = false ∧
    WellFormed (.vcvQnt (ops .e4m3 (.v 1) (.v 2) (.v 3) 0x10000D0)) = false ∧ WellFormed (.vsfExp2 (ops .f32 (.v 1) (.v 2) (.x 0) 0x100)) = false ∧
    WellFormed (.vpmRed (ops .i32 (.v 1) (.v 2) (.x 0) 0xC0000000)) = false ∧ WellFormed (.vlsLd (ops .i32 (.v 1) (.x 2) (.x 0) 1)) = false ∧
    WellFormed (.vcmpEq (ops .i32 (.k 1) (.v 2) (.v 3) 0x100)) = false ∧ WellFormed (.mxuMma (ops .bf16 (.x 0) (.x 2) (.x 3) 0)) = false ∧
    WellFormed (.mxuXfer (ops .bf16 (.x 0) (.x 2) (.x 3) 0xFE04000000)) = false ∧ WellFormed (.sclClr (ops .i64 (.s 1) (.x 0) (.x 0) 0x100)) = false ∧
    WellFormed (.cuePost (ops .i64 (.x 0) (.x 2) (.x 3) 0x1040000004)) = false ∧ WellFormed (.accStat (ops .i64 (.x 1) (.x 2) (.x 0) 0x4000)) = false ∧
    WellFormed (.barArrive (ops .i64 (.x 0) (.x 0) (.x 0) 0x10000000)) = false ∧ WellFormed (.grpId (ops .i64 (.x 1) (.x 0) (.x 0) 0x800000)) = false ∧
    WellFormed (.queStat (ops .i64 (.x 1) (.x 2) (.x 3) 0xC00000)) = false ∧ WellFormed (.ctxInfo (ops .i64 (.x 1) (.x 0) (.x 0) 0x2000000)) = false ∧
    WellFormed (.pgProbe (ops .i64 (.x 1) (.x 2) (.x 0) 0x100)) = false ∧ WellFormed (.lnkStat (ops .i64 (.x 1) (.x 0) (.x 0) 0x1400000)) = false := by
  decide +kernel
/-! ## Single steps -/

/-- A thread in a handler on core 0, its code, leaf, launch and context as `placeWord` leaves them. -/
def base : State := { State.reset.placeWord 0 with agenda := [] }

/-- `base` with its thread changed. -/
def st (f : Thread → Thread) : State := base.modCur f

/-- Whether the issue stage lets the instruction act in this state, and its next state is as `p` says. -/
def acts (i : Instr) (s : State) (p : State → Bool) : Bool :=
  (match i.opcode with
   | some (maj, fn, o) => decide (Ready maj fn o s) && WellFormed i
   | none => true) && s.cur.raised.isNone &&
  (match exec i s with
   | .next t => p t
   | _ => false)

/-- The x register 3 after an instruction, and the PC after it. -/
def x3 (i : Instr) (s : State) (w : Word) : Bool := acts i s (fun t => t.cur.getX 3 = w && t.cur.pc = s.cur.pc + 12)

/-- x1, x2 and x4 set. -/
def xs (a b c : Word) : State := st (fun t => ((t.setX 1 a).setX 2 b).setX 4 c)

/-- D = x3, A = x1, B = x2. -/
def o3 (ty : Ty) (x : BitVec 40) : Ops := ops ty (.x 3) (.x 1) (.x 2) x
/-- D = x3, A = x1. -/
def o2 (ty : Ty) (x : BitVec 40) : Ops := ops ty (.x 3) (.x 1) (.x 0) x

/-- INT (R117, R118): wraps, the division corners, shifts of the full width, and a source that is the destination. -/
theorem test_int :
    x3 (.intAdd (o3 .i8 0)) (xs 0x7F 1 0) 0xFFFFFFFFFFFFFF80 ∧ x3 (.intSub (o3 .n32 0)) (xs 0 1 0) 0xFFFFFFFF ∧
    x3 (.intMul (o3 .i16 0)) (xs 0x100 0x80 0) 0xFFFFFFFFFFFF8000 ∧ x3 (.intMulh (o3 .i64 0)) (xs (-1) 5 0) (-1) ∧
    x3 (.intMulh (o3 .n64 0)) (xs (-1) 5 0) 4 ∧ x3 (.intDiv (o3 .i64 0)) (xs (-7) 2 0) (-3) ∧ x3 (.intDiv (o3 .n8 0)) (xs 9 0 0) 0xFF ∧
    x3 (.intDiv (o3 .i8 0)) (xs 0x80 0xFF 0) 0xFFFFFFFFFFFFFF80 ∧ x3 (.intRem (o3 .i64 0)) (xs (-7) 2 0) (-1) ∧
    x3 (.intRem (o3 .i64 0)) (xs (-7) 0 0) (-7) ∧ x3 (.intMin (o3 .i8 0)) (xs 0x80 1 0) 0xFFFFFFFFFFFFFF80 ∧
    x3 (.intMax (o3 .n8 0)) (xs 0x80 1 0) 0x80 ∧ x3 (.intAbs (o2 .i8 0)) (xs 0x80 0 0) 0xFFFFFFFFFFFFFF80 ∧
    x3 (.intAnd (o3 .i64 0)) (xs 12 10 0) 8 ∧ x3 (.intOr (o3 .i64 0)) (xs 12 10 0) 14 ∧ x3 (.intXor (o3 .i64 0)) (xs 12 10 0) 6 ∧
    x3 (.intAndn (o3 .i64 0)) (xs 12 10 0) 4 := by
  decide +kernel

theorem test_int_shifts_and_counts :
    x3 (.intShl (o3 .i32 0)) (xs 1 33 0) 2 ∧ x3 (.intShr (o3 .i8 0)) (xs 0x80 7 0) (-1) ∧ x3 (.intShr (o3 .n8 0)) (xs 0x80 7 0) 1 ∧
    x3 (.intRot (o3 .n8 0)) (xs 0x81 1 0) 3 ∧ x3 (.intClz (o2 .i16 0)) (xs 1 0 0) 15 ∧ x3 (.intCtz (o2 .i16 0)) (xs 0 0 0) 16 ∧
    x3 (.intPopc (o2 .n8 0)) (xs 0x1FF 0 0) 8 ∧ x3 (.intMov (o2 .i32 0)) (xs 0x80000000 0 0) 0xFFFFFFFF80000000 ∧
    x3 (.intSel (o3 .i64 193)) (xs 5 6 0) 6 ∧ x3 (.intSel (o3 .i64 192)) (xs 5 6 0) 5 ∧
    acts (.intAdd (ops .i64 (.x 1) (.x 1) (.x 1) 0)) (xs 21 0 0) (fun t => t.cur.getX 1 = 42) ∧
    acts (.intAdd (ops .i64 (.x 0) (.x 1) (.x 1) 0)) (xs 21 0 0) (fun t => t.cur.getX 0 = 0 && t.cur.pc = base.cur.pc + 12) := by
  decide +kernel

/-- INTI (R121, R122). -/
theorem test_inti :
    x3 (.intiAddi (o2 .i64 0xFFFFFFFFFF)) (xs 5 0 0) 4 ∧ x3 (.intiMuli (o2 .i8 3)) (xs 0x55 0 0) 0xFFFFFFFFFFFFFFFF ∧
    x3 (.intiAndi (o2 .i64 0xFFFFFFFFF0)) (xs 0x1F 0 0) 0x10 ∧ x3 (.intiOri (o2 .i64 1)) (xs 2 0 0) 3 ∧
    x3 (.intiXori (o2 .n64 0xFFFFFFFFFF)) (xs 0 0 0) (-1) ∧ x3 (.intiShli (o2 .i64 63)) (xs 3 0 0) 0x8000000000000000 ∧
    x3 (.intiShri (o2 .i64 63)) (xs (-1) 0 0) (-1) ∧ x3 (.intiRoti (o2 .n32 4)) (xs 0xF0000001 0 0) 0x1F ∧
    x3 (.intiMovi (ops .n8 (.x 3) (.x 0) (.x 0) 0xFFFFFFFFFF)) (xs 0 0 0) 0xFF ∧
    x3 (.intiMovhi (o2 .i64 0xFFFFFFFFFF)) (xs (-1) 0 0) (-1) ∧ x3 (.intiMovhi (o2 .i64 0x123456)) (xs 0xABCDEF0123 0 0) 0x123456ABCDEF0123 ∧
    x3 (.intiLea (ops .i64 (.x 3) (.x 0) (.x 0) 0xFFFFFFFFFF)) base 0xFFF4 := by
  decide +kernel

/-- CMP (R53, R119) into p1, with a NaN and with both zeros. -/
theorem test_cmp :
    let p1 := fun (i : Instr) (s : State) (b : Bool) => acts i s (fun t => t.cur.getP 1 = b && t.cur.fpflags = 0)
    let c := fun (ty : Ty) => ops ty (.p 1) (.x 1) (.x 2) 0
    p1 (.cmpEq (c .i8)) (xs 0x100 0 0) true ∧ p1 (.cmpNe (c .f32)) (xs 0x7FC00000 0 0) true ∧ p1 (.cmpLt (c .i8)) (xs 0x80 1 0) true ∧
    p1 (.cmpLt (c .n8)) (xs 0x80 1 0) false ∧ p1 (.cmpLe (c .f32)) (xs 0x80000000 0 0) true ∧ p1 (.cmpGt (c .i64)) (xs 2 1 0) true ∧
    p1 (.cmpGe (c .f32)) (xs 0x7FC00000 0x7FC00000 0) false ∧ p1 (.cmpUnord (c .f32)) (xs 0x7FC00000 0 0) true ∧
    acts (.cmpEq (ops .i64 (.p 0) (.x 1) (.x 2) 0)) (xs 1 2 0) (fun t => t.cur.getP 0) := by
  decide +kernel

/-- PRD (R120). -/
theorem test_prd :
    let s := st (fun t => (((t.setP 1 true).setK 1 0xAAAA).setK 2 0x5555).setX 1 0x12345)
    let p := fun (i : Instr) (b : Bool) => acts i s (fun t => t.cur.getP 3 = b)
    let d := fun (a b : Reg) => ops .i64 (.p 3) a b 0
    p (.prdAnd (d (.p 1) (.p 0))) true ∧ p (.prdOr (d (.p 2) (.p 4))) false ∧ p (.prdXor (d (.p 1) (.p 0))) false ∧
    p (.prdAndn (d (.p 1) (.p 2))) true ∧ p (.prdNot (d (.p 2) (.x 0))) true ∧ p (.prdSet (d (.x 1) (.x 0))) true ∧
    acts (.prdPack (ops .i64 (.x 3) (.x 0) (.x 0) 0)) s (fun t => t.cur.getX 3 = 3) ∧
    acts (.prdUnpack (ops .i64 (.x 0) (.x 1) (.x 0) 0)) s (fun t => !t.cur.getP 1 && t.cur.getP 2 && t.cur.getP 6) ∧
    acts (.prdKpack (ops .i64 (.x 3) (.k 1) (.k 2) 0)) s (fun t => t.cur.getX 3 = 0x5555AAAA) ∧
    acts (.prdKunpack (ops .i64 (.k 3) (.x 1) (.x 0) 0)) s (fun t => t.cur.getK 3 = 0x2345) := by
  decide +kernel

/-- FLT (R123 to R125): 1.5 + 2 = 3.5, a half-way sum to even, a division by zero, an invalid root, MIN of the zeros. -/
theorem test_flt :
    let f := fun (i : Instr) (s : State) (w fl : Word) => acts i s (fun t => t.cur.getX 3 = w && t.cur.fpflags = fl)
    let nv := BitVec.ofNat 64 flagNV
    let dz := BitVec.ofNat 64 flagDZ
    let nx := BitVec.ofNat 64 flagNX
    f (.fltAdd (o3 .f32 0)) (xs 0x3FC00000 0x40000000 0) 0x40600000 0 ∧ f (.fltSub (o3 .f32 0)) (xs 0x7F800000 0x7F800000 0) 0x7FC00000 nv ∧
    f (.fltMul (o3 .f32 0)) (xs 0x40000000 0xC0400000 0) 0xC0C00000 0 ∧ f (.fltAdd (o3 .f32 0)) (xs 0x4B800000 0x3F800000 0) 0x4B800000 nx ∧
    f (.fltFma (o3 .f32 4)) (xs 0x40000000 0x40400000 0x3F800000) 0x40E00000 0 ∧ f (.fltDiv (o3 .f32 0)) (xs 0x3F800000 0x80000000 0) 0xFF800000 dz ∧
    f (.fltSqrt (o2 .f32 0)) (xs 0x40800000 0 0) 0x40000000 0 ∧ f (.fltSqrt (o2 .f32 0)) (xs 0xBF800000 0 0) 0x7FC00000 nv ∧
    f (.fltMin (o3 .f32 0)) (xs 0 0x80000000 0) 0x80000000 0 ∧ f (.fltMax (o3 .f32 0)) (xs 0x7FC00000 0x40000000 0) 0x40000000 0 ∧
    f (.fltAbs (o2 .f32 0)) (xs 0xC0000000 0 0) 0x40000000 0 ∧ f (.fltNeg (o2 .f32 0)) (xs 0x3F800000 0 0) 0xBF800000 0 ∧
    f (.fltCvt (o2 .i32 0x100)) (xs 0xC0200000 0 0) 0xFFFFFFFFFFFFFFFE nx ∧ f (.fltCvt (o2 .i64 0x400000)) (xs 3 0 0) 0x40400000 0 := by
  decide +kernel

/-- The code of the launch stretched to eight instructions, and the PC at its second. -/
def coded (f : Thread → Thread) : State :=
  let s := st (fun t => f { t with pc := 0x1000C })
  { s with launches := s.launches.map (fun a => { a with image := { a.image with codeSize := 96 } }) }

/-- Whether an instruction stops its thread with this fault, the PC kept. -/
def stops (i : Instr) (s : State) (code : FaultCode) (field : Nat) (data : Word) : Bool :=
  acts i s (fun t => t.cur.raised = some ⟨code, field, data, s.cur.pc, .own⟩ && t.cur.status = .faulted && t.cur.pc = s.cur.pc)

/-- CTL (R83, R128): taken and refused transfers, the link, the counter of LOOP. -/
theorem test_ctl :
    let c := fun (a : Reg) (x : BitVec 40) => ops .i64 (.x 0) a (.x 0) x
    let s := coded (fun t => ((t.setX 1 0x10018).setX 5 1).setX 6 3)
    acts (.ctlBra (c (.x 0) 0xFFFFFFFFFF)) s (fun t => t.cur.pc = 0x10000) ∧
    stops (.ctlBra (c (.x 0) 7)) s .pcalign 0 0x10060 ∧ acts (.ctlBra (c (.x 0) 6)) s (fun t => t.cur.pc = 0x10054) ∧
    acts (.ctlJmp (c (.x 1) 0)) s (fun t => t.cur.pc = 0x10018) ∧
    acts (.ctlCall (c (.x 0) 2)) s (fun t => t.cur.pc = 0x10024 && t.cur.getX 1 = 0x10018) ∧
    acts (.ctlCallr (c (.x 1) 0)) s (fun t => t.cur.pc = 0x10018 && t.cur.getX 1 = 0x10018) ∧
    acts (.ctlRet (c (.x 0) 0)) s (fun t => t.cur.pc = 0x10018) ∧
    acts (.ctlLoop (ops .i64 (.x 6) (.x 0) (.x 0) 1)) s (fun t => t.cur.pc = 0x10018 && t.cur.getX 6 = 2) ∧
    acts (.ctlLoop (ops .i64 (.x 5) (.x 0) (.x 0) 0x7FFFFFFFFF)) s (fun t => t.cur.pc = 0x10018 && t.cur.getX 5 = 0) ∧
    stops (.ctlLoop (ops .i64 (.x 6) (.x 0) (.x 0) 0x7FFFFFFFFF)) s .pcalign 0 (0x1000C + 12 * 0x7FFFFFFFFF) ∧
    acts (.ctlNop (c (.x 0) 0)) s (fun t => t.cur.pc = 0x10018) := by
  decide +kernel

/-- ENTER and LEAVE (R129, R130): a frame of 128 bytes with x1 and x24 to x27, at the top of the 64 KiB of scratchpad; each
fault in its order. -/
theorem test_frames :
    let o := ops .i64 (.x 0) (.x 0) (.x 0) 0x204002
    let s := st (fun t => { ((((t.setX 2 0xD000000000010000).setX 1 77).setX 24 99).setX 27 55) with stacklim := 0 })
    let at' := fun (f : Thread → Thread) => s.modCur f
    acts (.ctlEnter o) s (fun t => t.cur.getX 2 = 0xD00000000000FF80 && t.undone t.me = [] &&
      (frameSlots 0xD000000000010000 (frameRegs o)).all (fun q => t.poolRead 0 (poolOff q.2.2) q.2.1 = regBytes s.cur q.1 q.2.1)) ∧
    (frameRegs o).map Prod.fst = [.x 1, .x 24, .x 25, .x 26, .x 27] ∧
    acts (.ctlLeave o) (at' (fun t => t.setX 2 0xD00000000000FF80)) (fun t =>
      t.cur.getX 2 = 0xD000000000010000 && t.cur.getX 27 = 0 && t.cur.getX 1 = 0) ∧
    stops (.ctlEnter o) (at' (fun t => t.setX 2 0x20000)) .pool 0 0x20000 ∧
    stops (.ctlEnter o) (at' (fun t => t.setX 2 0xD000000000000020)) .align 0 0xD000000000000020 ∧
    stops (.ctlEnter o) (at' (fun t => { t with stacklim := -1 })) .stack 0 0 ∧
    stops (.ctlEnter o) (at' (fun t => t.setX 2 0xD000000000020000)) .pool 0 0xD00000000001FF80 ∧
    stops (.ctlLeave o) (at' (fun t => t.setX 2 0x20000)) .pool 0 0x20000 ∧
    stops (.ctlLeave o) (at' (fun t => t.setX 2 0xD000000000000020)) .align 0 0xD000000000000020 ∧
    stops (.ctlLeave o) (at' (fun t => t.setX 2 0xD000000000010000)) .pool 0 0xD000000000010000 := by
  decide +kernel

/-- SYS (R132 to R136): each selector, the reserved bits, RNDMODE 5, TRAP and BREAK. -/
theorem test_sys :
    let s := st (fun t => { (t.setX 1 0xFFFFFFFFFFFFFFFF) with
      tagT := 7, tagM := 3, cycle := 9, gidx := 5, fpflags := 2, rndmode := 4, srstate := 11, stacklim := 12, budget := some 13,
      finfo := [(1, 14)], perf := [(3, 15)] })
    let get := fun (sel idx : Nat) => Instr.sysGet (ops .i64 (.x 3) (.x 0) (.x 0) (BitVec.ofNat 40 (sel * 2 ^ 22 + idx * 2 ^ 30)))
    let set := fun (sel : Nat) => Instr.sysSet (ops .i64 (.x 0) (.x 1) (.x 0) (BitVec.ofNat 40 (sel * 2 ^ 22)))
    x3 (get 0 0) s 0 ∧ x3 (get 1 0) s 7 ∧ x3 (get 2 0) s 3 ∧ x3 (get 3 0) s 9 ∧ x3 (get 4 0) s 5 ∧ x3 (get 5 0) s 0 ∧ x3 (get 6 0) s 0 ∧
    x3 (get 7 0) s 0 ∧ x3 (get 8 0) s 0 ∧ x3 (get 9 0) s 0 ∧ x3 (get 10 0) s 2 ∧ x3 (get 11 0) s 4 ∧ x3 (get 12 0) s 11 ∧
    x3 (get 13 0) s 12 ∧ x3 (get 14 0) s 13 ∧ x3 (get 15 1) s 14 ∧ x3 (get 16 0) s 0 ∧
    x3 (.sysPerf (ops .i64 (.x 3) (.x 0) (.x 0) 0xC00000)) s 15 ∧
    acts (set 10) s (fun t => t.cur.fpflags = 63) ∧ stops (set 11) s .illegal 5 0 ∧
    acts (set 11) (s.modCur (fun t => t.setX 1 0xC)) (fun t => t.cur.rndmode = 4) ∧
    acts (set 12) s (fun t => t.cur.srstate = 0xFFFFFFFF) ∧ acts (set 13) s (fun t => t.cur.stacklim = -1) ∧
    stops (.sysTrap (ops .i64 (.x 0) (.x 0) (.x 0) (0xBEEF * 2 ^ 22))) s .trap 0 0xBEEF ∧
    stops (.sysBreak (ops .i64 (.x 0) (.x 0) (.x 0) 0)) s .brk 0 0 := by
  decide +kernel

/-- A GET of FPFLAGS with a request of the thread in the special-function queue changes nothing (R150). -/
theorem test_get_fpflags_waits :
    acts (.sysGet (ops .i64 (.x 3) (.x 0) (.x 0) (10 * 2 ^ 22)))
      (base.modCore 0 (fun c => { c with sfu := [⟨1, .f32, .v 1, 0xFFFF, 0, 0⟩] }))
      (fun t => t = base.modCore 0 (fun c => { c with sfu := [⟨1, .f32, .v 1, 0xFFFF, 0, 0⟩] })) := by
  decide +kernel

/-! ## Vectors -/

/-- A vector register with one value in every element of `w` bits. -/
def fill (w x : Nat) : VWord := BitVec.ofNat 512 ((List.range (512 / w)).foldl (fun a i => a + x * 2 ^ (w * i)) 0)

/-- v1, v2, v3 and v4 set, k1 = 1: only lane 0. -/
def vs (a b c d : VWord) : State := st (fun t => ((((t.setV 1 a).setV 2 b).setV 3 c).setV 4 d).setK 1 1)

/-- Element `e` of v4 after an instruction. -/
def el (i : Instr) (s : State) (w e x : Nat) : Bool := acts i s (fun t => elemOf (t.cur.getV 4) w e = x)

/-- D = v4, A = v1, B = v2. -/
def v4 (ty : Ty) (x : BitVec 40) : Ops := ops ty (.v 4) (.v 1) (.v 2) x
def v4a (ty : Ty) (x : BitVec 40) : Ops := ops ty (.v 4) (.v 1) (.x 0) x
/-- The same under the mask k1. -/
def masked (o : Ops) : Ops := { o with g := ⟨1, true, false⟩ }

/-- VEC (R141 to R147), the last element of each. -/
theorem test_vec :
    let n := vs (fill 8 0x7F) (fill 8 2) (fill 8 1) (fill 8 0xEE)
    let f := vs (fill 32 0x3F800000) (fill 32 0x40000000) (fill 32 0x40400000) 0
    el (.vecAdd (v4 .i8 0)) n 8 63 0x81 ∧ el (.vecSub (v4 .i8 0)) n 8 63 0x7D ∧ el (.vecMul (v4 .i16 0)) n 16 31 0xFCFE ∧
    el (.vecFma (v4 .f32 131)) f 32 15 0x40A00000 ∧ el (.vecFms (v4 .f32 131)) f 32 15 0xBF800000 ∧
    el (.vecMin (v4 .i8 0)) n 8 0 2 ∧ el (.vecMax (v4 .f32 0)) f 32 15 0x40000000 ∧ el (.vecAbs (v4a .i8 0)) (vs (fill 8 0x80) 0 0 0) 8 1 0x80 ∧
    el (.vecNeg (v4a .f32 0)) f 32 2 0xBF800000 ∧ el (.vecAnd (v4 .i32 0)) n 32 15 0x02020202 ∧ el (.vecOr (v4 .n32 0)) n 32 15 0x7F7F7F7F ∧
    el (.vecXor (v4 .i32 0)) n 32 15 0x7D7D7D7D ∧ el (.vecShl (v4 .i8 0)) n 8 63 0xFC ∧ el (.vecShr (v4 .n8 0)) n 8 63 0x1F ∧
    el (.vecMov (v4a .i32 0)) n 32 15 0x7F7F7F7F ∧ el (.vecBcast (v4a .i8 0xFC00000)) n 8 0 0x7F ∧
    el (.vecBcast (ops .i8 (.v 4) (.x 9) (.x 0) 0)) (n.modCur (fun t => t.setX 9 0x1AB)) 8 63 0xAB ∧
    el (.vecSel (v4 .i8 201)) n 8 3 0x7F ∧ el (.vecSel (v4 .i8 201)) n 8 4 2 ∧ el (.vecAdds (v4 .i8 0)) n 8 63 0x7F ∧
    el (.vecSubs (v4 .n8 0)) (vs (fill 8 1) (fill 8 2) 0 0) 8 63 0 := by
  decide +kernel

/-- A masked element keeps its bits, and the flags of the active ones are ORed (R142, R54). -/
theorem test_vec_masks_and_flags :
    let s := vs (fill 32 0x7F800000) (fill 32 0xFF800000) 0 (fill 32 7)
    el (.vecAdd (masked (v4 .f32 0))) s 32 0 0x7FC00000 ∧ el (.vecAdd (masked (v4 .f32 0))) s 32 1 7 ∧
    acts (.vecAdd (masked (v4 .f32 0))) s (fun t => t.cur.fpflags = BitVec.ofNat 64 flagNV) ∧
    acts (.vecAdds (v4 .i8 0)) (vs (fill 8 0x7F) (fill 8 1) 0 0) (fun t => t.cur.fpflags = BitVec.ofNat 64 flagSAT) := by
  decide +kernel

/-- VPM (R159 to R161). -/
theorem test_vpm :
    let count : VWord := BitVec.ofNat 512 ((List.range 16).foldl (fun a i => a + (i + 1) * 2 ^ (32 * i)) 0)
    let s := (vs count (fill 32 3) 0 (fill 32 9)).modCur (fun t => t.setX 9 0xFFFFFFFE)
    let idx := fun (n : Nat) => BitVec.ofNat 40 (n * 2 ^ 22)
    el (.vpmPerm (v4 .i32 0)) s 32 5 4 ∧ el (.vpmRot (v4a .i32 (idx 15))) s 32 1 1 ∧
    acts (.vpmExtr (ops .i32 (.x 3) (.v 1) (.x 0) (idx 15))) s (fun t => t.cur.getX 3 = 16) ∧
    el (.vpmIns (ops .i32 (.v 4) (.x 9) (.x 0) (idx 2))) s 32 2 0xFFFFFFFE ∧ el (.vpmIns (ops .i32 (.v 4) (.x 9) (.x 0) (idx 2))) s 32 3 9 ∧
    el (.vpmIota (ops .i32 (.v 4) (.x 9) (.x 0) 0)) s 32 3 1 := by
  decide +kernel

/-- RED over the thread of the placed tree, and the LEVEL of a scope above it or outside it (R160). -/
theorem test_reductions :
    let s := vs (fill 32 2) 0 0 (fill 32 9)
    let at' := fun (n : Nat) => v4a .i32 (BitVec.ofNat 40 (n * 2 ^ 14))
    groupLanes s.tree 0 ≠ none ∧ el (.vpmRed (at' 0)) s 32 7 32 ∧ el (.vpmScan (at' 0)) s 32 7 16 ∧
    el (.vpmRed (masked (at' 0))) s 32 0 2 ∧ el (.vpmRed (masked (at' 0))) s 32 1 9 ∧
    groupLanes s.tree 3 = none ∧ stops (.vpmRed (at' 3)) s .level 0 0 ∧ groupLanes s.tree 1 = none ∧ stops (.vpmScan (at' 1)) s .level 0 0 := by
  decide +kernel

/-- VCMP (R149): bits of active lanes, and k0. -/
theorem test_vcmp :
    let s := (vs (fill 32 0x3F800000) (fill 32 0x7FC00000) 0 0).modCur (fun t => t.setK 2 0xF0F0)
    let k := fun (i : Instr) (m : BitVec 16) => acts i s (fun t => t.cur.getK 2 = m && t.cur.fpflags = 0)
    let o := fun (ty : Ty) => ops ty (.k 2) (.v 1) (.v 2) 0
    k (.vcmpEq (o .i32)) 0 ∧ k (.vcmpNe (o .f32)) 0xFFFF ∧ k (.vcmpLt (o .f32)) 0 ∧ k (.vcmpLt (masked (o .i8))) 0xF0F0 ∧
    k (.vcmpLe (o .i16)) 0xFFFF ∧ k (.vcmpGt (o .n32)) 0 ∧ k (.vcmpGe (o .f32)) 0 ∧ k (.vcmpUnord (masked (o .f32))) 0xF0F1 ∧
    acts (.vcmpUnord (ops .f32 (.k 0) (.v 1) (.v 1) 0)) s (fun t => t.cur.getK 0 = 0xFFFF) := by
  decide +kernel

/-- VCV (R153 to R157): FP32 to BF16 to even in the lower half, 16 to 8 bits, 8 to 16, a block of ones, a block value scaled. -/
theorem test_vcv :
    let s := vs (fill 32 0x3F808000) (fill 32 0x3F800000) 0 (fill 16 0xEEEE)
    el (.vcvCvt (v4a .bf16 0x2000000)) s 16 0 0x3F80 ∧ el (.vcvCvt (v4a .bf16 0x2000000)) s 16 1 0xEEEE ∧
    el (.vcvPack (v4 .i8 0x800000)) (vs (fill 16 300) (fill 16 1) 0 0) 8 0 (300 % 256) ∧
    acts (.vcvUnpack (ops .i16 (.v 4) (.v 1) (.x 0) 0xC00085)) (vs (fill 8 0xFE) 0 0 0) (fun t =>
      elemOf (t.cur.getV 4) 16 31 = 0xFFFE && elemOf (t.cur.getV 5) 16 0 = 0xFFFE) ∧
    acts (.vcvQnt (ops .e4m3 (.v 4) (.v 1) (.v 2) 0x20000D0)) (vs (fill 32 0x3F800000) (fill 32 0x3F800000) 0 0) (fun t =>
      scaleByte (t.cur.getS 0) 0 = 119 && elemOf (t.cur.getV 4) 8 31 = 0x78) ∧
    el (.vcvScale (ops .e4m3 (.v 4) (.v 1) (.x 0) 0x20000D0)) ((vs (fill 8 0x38) 0 0 0).modCur (fun t => t.setS 0 128)) 32 15 0x40000000 := by
  decide +kernel

/-- VSF (R150, R151): the request of each function enters the queue; a ninth stalls. -/
theorem test_vsf :
    let o := v4a .f32 0
    let full := base.modCore 0 (fun c => { c with sfu := List.replicate 8 ⟨1, .f32, .v 9, 0xFFFF, 0, 1⟩ })
    (List.all [(Instr.vsfExp2 o, 1), (.vsfLog2 o, 2), (.vsfRcp o, 3), (.vsfRsqrt o, 4), (.vsfSqrt o, 5)] (fun q =>
      acts q.1 base (fun t => (t.core 0).sfu = [⟨q.2, .f32, .v 4, 0xFFFF, 0, 0⟩]) &&
      acts q.1 full (fun t => t.cur.status = .stalled && t.cur.wait = some .sfuRoom && t.cur.pc = full.cur.pc))) = true := by
  decide +kernel
/-! ## Memory -/

/-- `base` with x1 as an address, x2 and x3 set, and eight bytes 0x81 to 0x88 at offset 64 of the own pool, granule 4 full. -/
def ms (a b d : Word) : State :=
  ((st (fun t => ((t.setX 1 a).setX 2 b).setX 3 d)).poolWrite 0 64 [0x81, 0x82, 0x83, 0x84, 0x85, 0x86, 0x87, 0x88]).setFull 0 64 true

/-- Whether an instruction leaves one access on its way, as `p` says, and its destination pending or not. -/
def sent (i : Instr) (s : State) (d : Reg) (pending : Bool) (p : Access → Bool) : Bool :=
  acts i s (fun t => t.cur.pending d = pending && t.cur.pc = s.cur.pc + 12 && t.nextId = s.nextId + 1 &&
    (match t.accs with
     | [a] => a.id = s.nextId && p a
     | _ => false))

/-- The own pool, another core's pool, virtual space, no space. -/
def own (n : Nat) : Word := BitVec.ofNat 64 (0xD * 2 ^ 60 + n)
def any' (n : Nat) : Word := BitVec.ofNat 64 (0xE * 2 ^ 60 + n)

/-- Eight consuming loads of the thread waiting in the pool's table. -/
def eight (s : State) : State :=
  { s with nextId := 8, accs := (List.range 8).map (fun n => { s.newAccess (.consume true) (some (.x 9)) (.scalar .i64) false false
      false [] [{ mkPart (own (256 + 16 * n)) 8 0 [] with stage := .table, loc := some (.pool 0 (256 + 16 * n)) }] with id := n }) }

/-- LD (R171, R174 to R177). -/
theorem test_ld :
    let o := fun (ty : Ty) (x : BitVec 40) => o2 ty x
    x3 (.ldDisp (o .i16 0)) (ms (own 66) 0 0) 0xFFFFFFFFFFFF8483 ∧ x3 (.ldDisp (o .n32 0xFFFFFFFC00)) (ms (own 72) 0 0) 0x88878685 ∧
    x3 (.ldIdx (o3 .n16 0)) (ms (own 64) 3 0) 0x8887 ∧ stops (.ldDisp (o .i32 0)) (ms (own 66) 0 0) .align 0 (own 66) ∧
    stops (.ldDisp (o .i8 0)) (ms (own poolSize) 0 0) .pool 0 (own poolSize) ∧ stops (.ldIdx (o3 .i8 0)) (ms 0x2000000000000000 0 0) .prot 0 0x2000000000000000 ∧
    stops (.ldFe (o .i64 0)) (ms 0x8000 0 0) .pool 0 0x8000 ∧
    sent (.ldDisp (o .i64 0)) (ms 0x8000 0 0) (.x 3) true (fun a => a.op = .load && a.ret = .scalar .i64 && a.dest = some (.x 3)) ∧
    sent (.ldIdx (o3 .i64 0)) (ms (any' 64) 1 0) (.x 3) true (fun a => a.parts.map Part.va = [any' 72]) ∧
    sent (.ldFe (o .i64 0x10)) (ms (own 64) 0 0) (.x 3) true (fun a => a.op = .consume true) ∧
    sent (.ldAcq (o .i64 0)) (ms 0x8000 0 0) (.x 3) true (fun a => a.acq) ∧ stops (.ldAcq (o .i64 3)) (ms 0x8000 0 0) .level 0 0 ∧
    acts (.ldFe (o .i64 0)) (eight (ms (own 64) 0 0)) (fun t => t.cur.status = .stalled && t.cur.wait = some .consumeRoom) := by
  decide +kernel

/-- LD.PROBE (R177). -/
theorem test_probe :
    let o := ops .i64 (.p 3) (.x 1) (.x 0) 0
    acts (.ldProbe o) (ms (own 64) 0 0) (fun t => t.cur.getP 3) ∧ acts (.ldProbe o) (ms (own 80) 0 0) (fun t => !t.cur.getP 3) ∧
    sent (.ldProbe o) (ms (any' 64) 0 0) (.p 3) true (fun a => a.op = .probe) ∧ stops (.ldProbe o) (ms 0x8000 0 0) .pool 0 0x8000 ∧
    stops (.ldProbe o) (ms (own poolSize) 0 0) .pool 0 (own poolSize) := by
  decide +kernel

/-- ST (R174, R178): the bytes stored and the byte after them. -/
theorem test_st :
    let s := fun (a : Word) => ms a 1 0x1122334455667788
    let mem := fun (i : Instr) (a : Word) (off : Nat) (bs : List Byte) => acts i (s a) (fun t => t.poolRead 0 off bs.length = bs)
    mem (.stDisp (o2 .i32 0)) (own 64) 64 [0x88, 0x77, 0x66, 0x55, 0x85] ∧ mem (.stIdx (o3 .i16 0)) (own 64) 64 [0x81, 0x82, 0x88, 0x77, 0x85] ∧
    mem (.stRel (o2 .i8 0)) (own 64) 63 [0, 0x88, 0x82] ∧
    acts (.stFe (o2 .i64 0)) (s (own 128)) (fun t => t.fullBit 0 128 && !t.fullBit 0 144 && t.poolRead 0 128 1 = [0x88]) ∧
    acts (.stDisp (o2 .i64 0)) (s (own 128)) (fun t => !t.fullBit 0 128) ∧ stops (.stDisp (o2 .i16 0x100)) (s (own 64)) .align 0 (own 65) ∧
    stops (.stFe (o2 .i64 0)) (s 0x8000) .pool 0 0x8000 ∧ stops (.stRel (o2 .i8 3)) (s (own 64)) .level 0 0 ∧
    sent (.stDisp (o2 .i16 0)) (s 0x8000) (.x 3) false (fun a => a.op = .store false && a.parts.map Part.data = [[0x88, 0x77]]) ∧
    sent (.stIdx (o3 .i16 0)) (s 0x8000) (.x 3) false (fun a => a.parts.map Part.va = [0x8002]) ∧
    sent (.stFe (o2 .i16 0)) (s (any' 64)) (.x 3) false (fun a => a.op = .store true) ∧
    sent (.stRel (o2 .i16 0)) (s 0x8000) (.x 3) false (fun a => a.rel) := by
  decide +kernel

/-- ST.CLR (R178). -/
theorem test_st_clr :
    let i := Instr.stClr (ops .i64 (.x 0) (.x 1) (.x 2) 0)
    acts i (ms (own 64) 0 0) (fun t => t.fullBit 0 64 && t.accs = []) ∧ stops i (ms (own 72) 16 0) .align 0 (own 72) ∧
    stops i (ms (own 64) 8 0) .align 0 (own 64) ∧ stops i (ms 0x8000 16 0) .pool 0 0x8000 ∧
    stops i (ms 0x2000000000000000 16 0) .prot 0 0x2000000000000000 ∧ stops i (ms (own 0) (BitVec.ofNat 64 (poolSize + 16)) 0) .pool 0 (own 0) ∧
    sent i (ms (own 64) 32 0) (.x 0) false (fun a => a.op = .clear && a.parts.map Part.va = [own 64, own 80]) := by
  decide +kernel

/-- ATM (R179 to R181): each function on its way, each check, and what each leaves on 8 and 32 bits. -/
theorem test_atm :
    let o := fun (ty : Ty) (x : BitVec 40) => o3 ty x
    let s := ms 0x8000 5 0
    let f := fun (i : Instr) (fn : AtmFn) (ty : Ty) => sent i s (.x 3) true (fun a => match a.op with
      | .atomic g t b _ _ => g = fn && t = ty && b = 5
      | _ => false)
    f (.atmAdd (o .i64 0)) .add .i64 ∧ f (.atmAnd (o .i64 0)) .and .i64 ∧ f (.atmOr (o .i64 0)) .or .i64 ∧ f (.atmXor (o .i64 0)) .xor .i64 ∧
    f (.atmMin (o .i8 0)) .min .i8 ∧ f (.atmMax (o .n8 0)) .max .n8 ∧ f (.atmXchg (o .i64 0)) .xchg .i64 ∧ f (.atmCas (o .i64 4)) .cas .i64 ∧
    f (.atmFadd (o .f32 0)) .fadd .f32 ∧ stops (.atmAdd (o .i64 0xC000)) s .level 0 0 ∧ stops (.atmAdd (o .i64 0)) (ms 0x8004 0 0) .align 0 0x8004 ∧
    stops (.atmAdd (o .i8 0)) (ms 0x2000000000000000 0 0) .prot 0 0x2000000000000000 ∧
    sent (.atmAdd (ops .i64 (.x 0) (.x 1) (.x 2) 0x3000)) s (.x 0) false (fun a => a.dest = none && a.acq && a.rel) := by
  decide +kernel

theorem test_atomic_functions :
    let f := fun (fn : AtmFn) (ty : Ty) (b c : Word) (old : List Byte) => atomicBytes fn ty b c 0 old
    f .add .i8 0xFF 0 [0x01] = [0x00] ∧ f .and .n8 0x0F 0 [0x3C] = [0x0C] ∧ f .or .n8 0x0F 0 [0x30] = [0x3F] ∧ f .xor .n8 0xFF 0 [0x0F] = [0xF0] ∧
    f .min .i8 0x80 0 [0x7F] = [0x80] ∧ f .min .n8 0x80 0 [0x7F] = [0x7F] ∧ f .max .i8 0x80 0 [0x7F] = [0x7F] ∧ f .xchg .n16 0x1234 0 [0, 0] = [0x34, 0x12] ∧
    f .cas .n8 0x101 7 [0x01] = [0x07] ∧ f .cas .n8 2 7 [0x01] = [0x01] ∧
    f .fadd .f32 0x3F800000 0 [0, 0, 0x80, 0x3F] = [0, 0, 0, 0x40] := by
  decide +kernel

/-- A store of the thread on its way to virtual memory, and a load. -/
def busy (s : State) : State :=
  { s with nextId := 2, accs :=
      [{ s.newAccess (.store false) none .none false false false [] [mkPart 0x8000 8 0 []] with id := 0 },
       { s.newAccess .load (some (.x 9)) (.scalar .i64) false false false [] [mkPart 0x9000 8 0 []] with id := 1 }] }

/-- FNC (R183, R184): what a fence orders, what a drain waits for. -/
theorem test_fnc :
    let f := fun (x : BitVec 40) => Instr.fncFence (ops .i64 (.x 0) (.x 0) (.x 0) x)
    let d := fun (x : BitVec 40) => Instr.fncDrain (ops .i64 (.x 0) (.x 0) (.x 0) x)
    acts (f 0x1000) (busy base) (fun t => (t.mustFollow 0 .load).contains 1) ∧ acts (f 0x2000) (busy base) (fun t => (t.mustFollow 0 .write).contains 0) ∧
    acts (f 0x3000) base (fun t => t.accs = [] && t.cur.pc = base.cur.pc + 12) ∧ stops (f 0xD000) base .level 0 0 ∧
    acts (d 0) base (fun t => t.cur.pc = base.cur.pc + 12) ∧ stops (d 0xC000) base .level 0 0 ∧
    acts (d 0x8000) (busy base) (fun t => t.cur.status = .parked && t.cur.wait = some (.drain 2 0)) := by
  decide +kernel

/-- A marker with a result outstanding parks (R79), an instruction with a pending register stops (R80), with a register outside
the allotment stops (R72), with a busy register changes nothing, with its guard off only issues (R76). -/
theorem test_issue_stage :
    let add := Instr.intAdd (o3 .i64 0)
    let s := busy base
    (match exec (.sysBreak (ops .i64 (.x 0) (.x 0) (.x 0) 0)) s with
     | .next t => t.cur.status = .parked && t.cur.wait = some .results && t.cur.pc = base.cur.pc
     | _ => false) = true ∧
    (match exec add (st (fun t => t.setPending (.x 2))) with
     | .next t => t.cur.raised.map (fun r => (r.code, r.field)) = some (.hazard, 6)
     | _ => false) = true ∧
    (match exec (.intAdd (ops .i64 (.x 3) (.x 70) (.x 2) 0)) (st (fun t => { t with xn := 64 })) with
     | .next t => t.cur.raised.map (fun r => (r.code, r.field)) = some (.regrange, 5)
     | _ => false) = true ∧
    (match exec (.vecMov (v4a .i32 0)) (base.modCore 0 (fun c => { c with sfu := [⟨1, .f32, .v 1, 0xFFFF, 0, 0⟩] })) with
     | .next t => t = base.modCore 0 (fun c => { c with sfu := [⟨1, .f32, .v 1, 0xFFFF, 0, 0⟩] })
     | _ => false) = true ∧
    (match exec (.intAdd { o3 .i64 0 with g := ⟨1, false, false⟩ }) (xs 1 2 3) with
     | .next t => t.cur.getX 3 = 0 && t.cur.pc = base.cur.pc + 12
     | _ => false) = true := by
  decide +kernel

/-- VLS (R162 to R165): element addresses, the own pool, requests and the first fault. -/
theorem test_vls :
    let o := fun (b : Reg) (ty : Ty) (x : BitVec 40) => ops ty (.v 4) (.x 1) b x
    let s := (ms (own 64) 8 0).modCur (fun t => ((t.setV 4 (fill 32 0xA5A5A5A5)).setV 2 (fill 32 0xFFFFFFFC)).setK 1 1)
    let at' := fun (a : Word) => s.modCur (fun t => t.setX 1 a)
    let pool := fun (i : Instr) (s : State) (off : Nat) (bs : List Byte) => acts i s (fun t => t.poolRead 0 off bs.length = bs)
    el (.vlsLd (o (.x 0) .i32 0)) s 32 1 0x88878685 ∧ el (.vlsLd (masked (o (.x 0) .i32 0))) s 32 1 0xA5A5A5A5 ∧
    el (.vlsLds (o (.x 2) .n8 0)) s 8 0 0x81 ∧ el (.vlsLdg (o (.v 2) .i32 0x400)) s 32 15 0x84838281 ∧
    pool (.vlsSt (o (.x 0) .i32 0)) s 64 [0xA5, 0xA5, 0xA5, 0xA5, 0xA5] ∧ pool (.vlsSts (masked (o (.x 2) .i16 0))) s 64 [0xA5, 0xA5, 0x83, 0x84, 0x85] ∧
    acts (.vlsStfe (masked (o (.x 0) .i32 0))) (at' (own 128)) (fun t => t.fullBit 0 128 && !t.fullBit 0 144) ∧
    stops (.vlsLd (o (.x 0) .i32 0x100)) s .align 0 (own 65) ∧ stops (.vlsSt (o (.x 0) .i32 0)) (at' 0x2000000000000000) .prot 0 0x2000000000000000 ∧
    acts (.vlsLd { masked (o (.x 0) .i32 0) with g := ⟨1, true, true⟩ }) (s.modCur (fun t => t.setK 1 0xFFFF)) (fun t => t.accs = []) ∧
    sent (.vlsLd (masked (o (.x 0) .i32 0))) (at' 0x8000) (.v 4) true (fun a => a.op = .load && a.parts.length = 1) ∧
    sent (.vlsLdfe (masked (o (.x 0) .i32 1))) s (.v 4) true (fun a => a.op = .consume true) ∧
    sent (.vlsSt (masked (o (.x 0) .i32 0))) (at' 0x8000) (.v 4) false (fun a => a.op = .store false) ∧
    acts (.vlsLdfe (masked (o (.x 0) .i32 1))) (eight s) (fun t => t.cur.wait = some .consumeRoom) := by
  decide +kernel

/-- SCL (R220, R221). -/
theorem test_scl :
    let s := (ms (own 64) 0 0).modCur (fun t => (t.setS 1 0x1FF).setV 1 7)
    let i := fun (x : BitVec 40) => Instr.sclLd (ops .i64 (.s 3) (.x 1) (.x 0) x)
    acts (i 0) s (fun t => scaleByte (t.cur.getS 3) 1 = 0x82) ∧ stops (i 0x100) s .align 0 (own 65) ∧ stops (i 0) (ms (own 65520) 0 0) .pool 0 (own 65520) ∧
    sent (i 0) (ms 0x8000 0 0) (.s 3) true (fun a => a.parts.length = 8) ∧
    acts (.sclMov (ops .i64 (.s 3) (.s 1) (.x 0) 0)) s (fun t => t.cur.getS 3 = 0x1FF) ∧
    acts (.sclMov (ops .i64 (.s 1) (.v 1) (.x 0) 1)) s (fun t => scaleByte (t.cur.getS 1) 64 = 7 && scaleByte (t.cur.getS 1) 0 = 0xFF) ∧
    acts (.sclMov (ops .i64 (.v 3) (.s 1) (.x 0) 0)) s (fun t => t.cur.getV 3 = 0x1FF) ∧
    acts (.sclClr (ops .i64 (.s 3) (.x 0) (.x 0) 0x7F)) s (fun t => scaleByte (t.cur.getS 3) 127 = 0x7F) := by
  decide +kernel
/-! ## Copies, matrix commands, cues -/

/-- `base` with x1, x2 and x4 set and 64 bytes at offset 256 of the own pool. -/
def ps (a b c : Word) (bytes : List Byte) : State := (xs a b c).poolWrite 0 256 bytes

/-- Queue `q` of core 0 filled with eight commands. -/
def fullQueue (q : Nat) (s : State) : State :=
  s.setCopyQueue 0 q ((List.range 8).map (fun n => { copyBase 0x01 (o3 .i64 0) s (own 0) (own 64) 16 with id := 100 + n }))

/-- CPY (R185 to R192): each function enters its queue; the checks; a full queue; JOIN and WAIT. -/
theorem test_cpy :
    let c := fun (a b : Reg) (x : BitVec 40) => ops .i64 (.x 0) a b x
    let desc := leBytes 8 (own 1024).toNat ++ leBytes 8 (own 2048).toNat ++ leBytes 8 64 ++ leBytes 8 64 ++ leBytes 4 32 ++ leBytes 4 2 ++
      leBytes 8 (own 512).toNat ++ List.replicate 16 0
    let q := fun (i : Instr) (s : State) (n : Nat) (p : CopyCmd → Bool) => acts i s (fun t => match t.copyQueue 0 n with
      | [c] => p c && t.cur.pc = s.cur.pc + 12
      | _ => false)
    let s := ps (own 0) (own 64) 32 []
    let d := ps (own 256) 0 0 desc
    q (.cpyGo1 (c (.x 1) (.x 2) 4)) s 0 (fun c => c.src = own 0 && c.dst = own 64 && c.rowBytes = 32) ∧
    q (.cpyFill (c (.x 1) (.x 2) 0x400004)) s 1 (fun c => c.dst = own 0 && c.pattern = own 64) ∧
    q (.cpyGo2 (c (.x 1) (.x 0) 0)) d 0 (fun c => c.dst = own 2048 && c.rows = 2) ∧ q (.cpyGather (c (.x 1) (.x 0) 0)) d 0 (fun c => c.index = own 512) ∧
    q (.cpyScatter (c (.x 1) (.x 0) 0)) d 0 (fun c => c.index = own 512) ∧
    stops (.cpyGo1 (c (.x 1) (.x 2) 4)) (ps (own 8) (own 64) 32 []) .align 0 (own 8) ∧
    stops (.cpyGo2 (c (.x 1) (.x 0) 0)) (ps (own 264) 0 0 desc) .align 0 (own 264) ∧ stops (.cpyGather (c (.x 1) (.x 0) 0)) (ps 0x8000 0 0 desc) .pool 0 0x8000 ∧
    acts (.cpyGo1 (c (.x 1) (.x 2) 4)) (fullQueue 0 s) (fun t => t.cur.wait = some (.copyRoom 1 false) && t.cur.pc = s.cur.pc) ∧
    q (.cpyJoin (c (.x 0) (.x 0) 0x40000)) s 0 (fun c => c.fn = 6) ∧
    acts (.cpyJoin (c (.x 0) (.x 0) 0xC0000)) (fullQueue 1 s) (fun t => t.cur.wait = some (.copyRoom 3 false)) ∧
    acts (.cpyWait (c (.x 0) (.x 0) 0x40000)) s (fun t => t.cur.pc = s.cur.pc + 12) ∧
    acts (.cpyWait (c (.x 0) (.x 0) 0x40000)) (fullQueue 0 s) (fun t => t.cur.status = .parked && t.cur.wait = some (.copies 1)) := by
  decide +kernel

/-- A copy with a completion cue (R191): the port, the tag, the reserved cue, a store without room. -/
theorem test_cpy_cue :
    let i := fun (port : Nat) => Instr.cpyGo1 (ops .i64 (.x 0) (.x 1) (.x 2) (BitVec.ofNat 40 (4 + 2 ^ 26 + port * 2 ^ 27)))
    let s := ps (own 0) (own 64) 32 []
    acts (i 0) s (fun t => t.cues.map (fun c => c.place) = [.reserved 0] && t.cur.postCtr = 1) ∧ stops (i 5) s .illegal 10 0 ∧
    stops (i 0) (s.modCur (fun t => { t with baseOver := true })) .microstep 0 0 ∧
    acts (i 0) (fullQueue 0 s) (fun t => t.cur.wait = some (.copyRoom 1 true) && t.cues = []) := by
  decide +kernel

/-- MXU (R199 to R207, R219). -/
theorem test_mxu :
    let m := fun (ty : Ty) (x : BitVec 40) => ops ty (.x 0) (.x 1) (.x 2) x
    let s := xs (own 0) (own 1024) 0
    let q := fun (i : Instr) (s : State) (p : MxCmd → Bool) => acts i s (fun t => match (t.core 0).mx with
      | [c] => p c && (lookAt MxNewest.none (t.core 0).newest c.slot).state = .queued
      | _ => false)
    let full := (xs (own 0) 256 0).modCore 0 (fun k => { k with mx := List.replicate 8 (mxBase 4 (m .i64 0) base) })
    q (.mxuMma (m .bf16 0x2000000)) s (fun c => c.total = 32 && c.aaddr = own 0 && c.baddr = own 1024) ∧ q (.mxuBlk (m .e4m3 0x2000000)) s (fun c => c.fn = 2) ∧
    q (.mxuSca (ops .i64 (.x 0) (.s 1) (.s 2) 0x2000000)) ((s.modCur (fun t => t.setS 1 5)).modCore 0 (fun k => { k with part := 0x320110 }))
      (fun c => c.sa = 5 && c.pslot = 1) ∧
    stops (.mxuSca (ops .i64 (.x 0) (.s 1) (.s 2) 0x2000000)) s .pool 0 0 ∧ q (.mxuZero (ops .i64 (.x 0) (.x 0) (.x 0) 0)) s (fun c => c.fn = 4) ∧
    q (.mxuXfer (m .bf16 0)) (xs (own 0) 256 0) (fun c => c.total = 1 && c.row0 = 0) ∧ q (.mxuLoad (m .bf16 0)) (xs (own 0) 256 0) (fun c => c.nrow = 0) ∧
    stops (.mxuZero (ops .i64 (.x 0) (.x 0) (.x 0) 0x400000)) s .pool 0 0 ∧ stops (.mxuMma (m .bf16 0x2000000)) (xs (own 8) (own 1024) 0) .align 0 (own 8) ∧
    stops (.mxuMma (m .bf16 0x2000000)) (xs (own 0) (own 8) 0) .align 0 (own 8) ∧ stops (.mxuMma (m .bf16 0x2000000)) (xs (own 0) (own poolSize) 0) .pool 0 (own poolSize) ∧
    stops (.mxuXfer (m .bf16 0)) (xs (own 0) 16 0) .illegal 6 0 ∧ stops (.mxuLoad (m .bf16 0)) (xs (own 0) 8 0) .align 0 0 ∧
    acts (.mxuXfer (m .bf16 0)) full (fun t => t.cur.wait = some .matrixRoom && t.cur.pc = base.cur.pc) := by
  decide +kernel

theorem test_mxu_wait_and_prog :
    let w := fun (x : BitVec 40) => Instr.mxuWait ⟨⟨0, false, false⟩, ⟨true, false, false⟩, .i64, .x 0, .x 0, .x 0, x⟩
    let p := fun (x : BitVec 40) => Instr.mxuProg (ops .i64 (.x 3) (.x 0) (.x 0) x)
    let one := base.modCore 0 (fun k => { k with mx := [{ mxBase 4 (o3 .i64 0) base with id := 7 }] })
    acts (w 0) base (fun t => t.cur.pc = base.cur.pc + 12) ∧ acts (w 0) one (fun t => t.cur.status = .parked && t.cur.wait = some (.matrix [7])) ∧
    acts (w 0x400000) one (fun t => t.cur.wait = some (.matrix [7])) ∧ stops (w 0x800000) base .pool 0 0 ∧
    acts (w 0) (base.modCur (fun t => { t with wait := some (.matrix [7]) })) (fun t => t.cur.pc = base.cur.pc + 12) ∧
    sent (p 0) base (.x 3) true (fun a => a.ret = .word 0) ∧ stops (p 0x400000) base .pool 0 0 := by
  decide +kernel

/-- Posts (R327, R331, R340): each kind sends a cue; every check in its order. -/
theorem test_posts :
    let o := fun (a b c : Reg) (x : BitVec 40) => ops .i64 (.x 0) a b (x + (Reg.code c).setWidth 40)
    let s := (ps 0 (own 256) 3 [1, 2, 3, 4, 5, 6, 7, 8]).modCur (fun t => { t with baseT := 10, baseM := 4 })
    let one := fun (i : Instr) (s : State) (p : Cue → Bool) => acts i s (fun t => t.cur.postCtr = s.cur.postCtr + 1 && (match t.cues with
      | [c] => c.place = .inFlight && p c
      | _ => false))
    let post := fun (x : BitVec 40) => Instr.cuePost (o (.x 1) (.x 2) (.x 4) x)
    one (post (8 * 2 ^ 30)) s (fun c => c.msg.payload = [1, 2, 3, 4, 5, 6, 7, 8] && c.msg.tagT = 13 && c.msg.tagM = 0 && c.msg.target = 0) ∧
    one (.cuePost (o (.x 1) (.x 2) (.x 0) 0)) s (fun c => c.msg.tagT = 10 && c.msg.tagM = 4 && c.msg.payload = []) ∧
    one (.cueSelf (o (.x 0) (.x 2) (.x 4) 0)) s (fun c => c.msg.target = 0 && c.msg.tagT = 13) ∧
    one (.cueTimer (ops .i64 (.x 0) (.x 4) (.x 2) 0)) s (fun c => c.msg.tagT = 3) ∧
    stops (.cuePostb (o (.x 1) (.x 4) (.x 0) 0)) s .align 0 3 ∧ stops (post (8 * 2 ^ 30)) (s.modCur (fun t => t.setX 2 0x8000)) .pool 0 0x8000 ∧
    stops (post 0) (s.modCur (fun t => t.setX 1 99)) .prot 0 99 ∧ stops (post (9 * 2 ^ 22)) s .illegal 10 0 ∧
    stops (.cuePost (o (.x 1) (.x 2) (.x 0) 0)) (s.modCur (fun t => { t with baseOver := true })) .microstep 0 0 := by
  decide +kernel

/-- `base` with its launch image changed. -/
def imaged (f : Image → Image) : State :=
  { base with launches := base.launches.map (fun (a : Launch) => { a with image := f a.image }) }

/-- A block post to a port that takes blocks, and a late post to a thread that is not here (R331). -/
theorem test_postb_and_latesend :
    let recv := imaged (fun g => { g with handlers := [⟨0, 0, 0, 4096, 1024⟩] })
    let i := Instr.cuePostb (ops .i64 (.x 0) (.x 1) (.x 2) 0)
    let s := recv.modCur (fun t => (t.setX 1 0).setX 2 (own 256))
    let far : State := { imaged (fun g => { g with levels := [⟨1, 0xFF, 0, 0, 1⟩, ⟨2, 0xFF, 0, 0, 1⟩, ⟨3, 0xF6, 0, 0, 2⟩] }) with time := 100 }
    let late := Instr.cuePost (ops .i64 (.x 0) (.x 1) (.x 2) 4)
    let t := far.modCur (fun t => ((t.setX 1 1).setX 2 0).setX 4 5)
    acts i s (fun t => t.cues.map (fun c => (c.msg.block, c.msg.len)) = [(true, 16)]) ∧ threadCount t.tree = 2 ∧
    stops late t .latesend 0 5 := by
  decide +kernel

/-- Tags and release keys (R322, R327). -/
theorem test_tags :
    lexLt (tagKey 1 0xFFFF) (tagKey 2 0) = true ∧ lexLt (tagKey 2 1) (tagKey 2 1) = false ∧ lexLt (tagKey 2 1) (tagKey 2 2) = true ∧
    tagOf { Thread.vacant with baseT := 7, baseM := 3 } 0 = some (7, 3) ∧ tagOf { Thread.vacant with baseOver := true } 0 = none ∧
    tagOf { Thread.vacant with baseT := 7, baseM := 3 } 2 = some (9, 0) ∧ tagOf { Thread.vacant with baseT := -1 } 1 = none := by
  decide +kernel

/-- CUE.END, NOW, TAG, INFO and HZN (R341 to R344). -/
theorem test_handler_instructions :
    let s := (xs 9 1 0).modCur (fun t => { t with tagT := 9, tagM := 0, budget := some 5 })
    let tag := Instr.cueTag (ops .i64 (.x 0) (.x 1) (.x 2) 0)
    acts (.cueEnd (ops .i64 (.x 0) (.x 0) (.x 0) 0)) s (fun t => t.cur.status = .asleep && !t.cur.inHandler && t.cur.pc = s.cur.pc && t.cur.budget = none) ∧
    sent (.cueNow (ops .i64 (.x 3) (.x 0) (.x 0) 0)) { s with time := 77 } (.x 3) true (fun a => a.ret = .word 77) ∧
    acts tag s (fun t => t.cur.baseT = 9 && t.cur.baseM = 1) ∧ stops tag (s.modCur (fun t => { t with tagM := 1 })) .latesend 0 9 ∧
    stops tag (s.modCur (fun t => t.setX 2 0x10000)) .microstep 0 0 ∧
    acts (.cueInfo (ops .i64 (.x 3) (.x 0) (.x 0) 0)) s (fun t => t.cur.getX 3 = s.cueItem 0) ∧
    x3 (.cueHzn (ops .i64 (.x 3) (.x 1) (.x 0) 0)) s (9 + BitVec.ofNat 64 (s.horizon 0)) ∧
    x3 (.cueHzn (ops .i64 (.x 3) (.x 1) (.x 0) 0)) (s.modCur (fun t => t.setX 1 (-1))) (-1) := by
  decide +kernel
/-! ## Chains, barriers, the group, queues, the context, pages and links -/

/-- A chain descriptor (R359): MODE, ROLE, MEMBER, the last row, NEXT and CWORD, of chain 7 with two members on slot 0. -/
def chainBytes (mode role member rows next : Nat) (cword : Word) : List Byte :=
  leBytes 2 7 ++ leBytes 1 role ++ leBytes 1 mode ++ [0, 0] ++ leBytes 1 member ++ [1, 0, 0, 0] ++ leBytes 1 (rows - 1) ++ leBytes 4 next ++
  leBytes 8 cword.toNat ++ List.replicate 40 0

/-- x1 at a descriptor in the own pool. -/
def cs (bytes : List Byte) : State := ps (own 256) 0 0 bytes

/-- The source of a line that opens, as entry 0 of tile 0, towards core 1. -/
def source : List Byte := chainBytes 2 0 0 8 (2 ^ 22) 0

/-- Its target. -/
def target : List Byte := chainBytes 2 2 1 8 0 (own 512)

/-- ACC.CHAIN (R359 to R361): a source and a target open; each check. -/
theorem test_acc_chain :
    let i := fun (x : BitVec 40) => Instr.accChain (o2 .i64 x)
    acts (i 0x8000) (cs source) (fun t => t.cur.getX 3 = 7 * 2 ^ 6 && (t.chain 0 0).state = .joining && t.chainMsgs.map (fun m => (m.toCore, m.fromEntry)) = [(1, 0)]) ∧
    acts (i 0x8000) (cs target) (fun t => t.cur.getX 3 = 7 * 2 ^ 6 + 2 * 2 ^ 22 && t.chainMsgs = []) ∧
    stops (i 0x8000) (ps 0x8000 0 0 source) .pool 0 0x8000 ∧ stops (i 0x8000) (ps (own 264) 0 0 source) .align 0 (own 264) ∧ stops (i 0xC000) (cs source) .level 0 0 ∧
    stops (i 0x8000) (cs (chainBytes 3 0 0 8 0 0)) .illegal 0 0 ∧ stops (i 0x8000) ((cs source).modCore 0 (fun k => { k with part := 0x020110 })) .pool 0 0 ∧
    stops (i 0x8000) (cs (chainBytes 2 2 1 8 0 (own 520))) .align 0 (own 520) ∧ stops (i 0x8000) (cs (chainBytes 2 2 1 8 0 0x8000)) .pool 0 0x8000 ∧
    stops (i 0x8000) (cs (chainBytes 10 2 1 8 0 (own 512))) .latesend 0 0 ∧
    stops (i 0x8000) (cs ((chainBytes 10 2 1 8 0 (own 512)).set 34 9)) .illegal 10 0 ∧
    acts (i 0x8000) (cs ((chainBytes 10 2 1 8 0 (own 512)).set 24 5)) (fun t => t.cues.map (fun c => c.place) = [.reserved 0]) := by
  decide +kernel

/-- A second entry of the same chain and member is busy (R361). -/
theorem test_chain_busy :
    let i := Instr.accChain (o2 .i64 0x8000)
    (match exec i (cs target) with
     | .next t => (t.busyCheck (chainDescOf target) 2).isSome && acts i t (fun u => u.cur.raised.map Raised.code = some .chainBusy)
     | _ => false) = true := by
  decide +kernel

/-- `base` with an open entry 0 of this thread and its handle in x1. -/
def opened (st' : ChainState) (tid : Nat) : State :=
  (xs (7 * 2 ^ 6) 0 0).setChain 0 0 { ChainEntry.free with
    state := st', chain := 7, nmem := 2, nrows := 16, next := 1, tid := tid, asid := 1, rule := 2, cword := own 512 }

/-- ACC.SEND, STAT and BREAK (R363, R365, R370). -/
theorem test_acc :
    let send := fun (x : BitVec 40) => Instr.accSend (ops .i64 (.x 0) (.x 1) (.x 0) x)
    let stat := Instr.accStat (o2 .i64 0)
    let brk := Instr.accBreak (ops .i64 (.x 0) (.x 1) (.x 0) 0)
    acts (send 0x4000000) (opened .joining 0) (fun t => (t.chain 0 0).decl = 3 && (t.chain 0 0).firstSend) ∧
    acts (send 0x0400000) (opened .joining 0) (fun t => (t.chain 0 0).decl = 2) ∧ stops (send 0x8000000) (opened .joining 0) .illegal 10 0 ∧
    stops (send 0) (xs 9 0 0) .chainAbsent 0 0 ∧ stops (send 0) (opened .joining 1) .chainAbsent 0 0 ∧ stops (send 0) (opened .broken 0) .chainBroken 0 0 ∧
    sent stat (xs 9 0 0) (.x 3) true (fun a => a.ret = .word 0) ∧ sent stat (opened .joining 1) (.x 3) true (fun a => a.ret != .word 0) ∧
    acts stat (opened .broken 0) (fun t => t.chain 0 0 = ChainEntry.free && t.cur.pending (.x 3)) ∧
    acts stat (opened .broken 1) (fun t => t.chain 0 0 = ChainEntry.free && t.cur.pending (.x 3)) ∧
    acts brk (opened .joining 0) (fun t => t.chain 0 0 = ChainEntry.free) ∧ acts brk (opened .joining 1) (fun t => t.chain 0 0 ≠ ChainEntry.free) ∧
    acts brk ((opened .joining 0).modChain 0 0 (fun e => { e with role := 2 })) (fun t => t.chain 0 0 = ChainEntry.free) := by
  decide +kernel

/-- BAR operands: SCOPE and OBJ. -/
def bo (d a b : Reg) (scope obj : Nat) (more : Nat) : Ops := ops .i64 d a b (BitVec.ofNat 40 (scope * 2 ^ 14 + obj * 2 ^ 22 + more))

/-- The thread with an entry for the barrier (2, 5). -/
def member (arrived dropped : Bool) : State :=
  st (fun t => { t with members := [{ newMember 2 5 false with arrived := arrived, dropped := dropped }] })

/-- Eight other entries. -/
def fullMembers : State := st (fun t => { t with members := (List.range 8).map (fun n => newMember 1 n false) })

/-- BAR.ARRIVE, WAIT and SYNC (R380 to R388). -/
theorem test_bar_arrive :
    let arrive := Instr.barArrive (bo (.x 0) (.x 0) (.x 0) 2 5 0)
    let wait := Instr.barWait (bo (.x 3) (.x 0) (.x 0) 2 5 0)
    let sync := Instr.barSync (bo (.x 3) (.x 0) (.x 0) 2 5 0)
    let msg := fun (t : State) => t.barMsgs.map (fun m => match m.msg with
      | .arrive k _ _ => k.level
      | _ => 99) = [2]
    let waiting := fun (s : State) => s.modCur (fun t => { t with wait := some (.barrier 2 5) })
    acts arrive base (fun t => msg t && t.cur.members.map Member.arrived = [true] && t.cur.pc = base.cur.pc + 12) ∧
    acts sync base (fun t => msg t && t.cur.status = .parked && t.cur.wait = some (.barrier 2 5)) ∧
    stops arrive (member true false) .barOverrun 0 1 ∧ stops sync fullMembers .barOverrun 0 2 ∧ stops arrive (member false true) .barOverrun 0 3 ∧
    acts wait (member true false) (fun t => t.cur.status = .parked && t.cur.wait = some (.barrier 2 5)) ∧ stops wait fullMembers .barOverrun 0 2 ∧
    acts wait (member false true) (fun t => t.cur.getX 3 = 4) ∧ acts wait base (fun t => t.cur.getX 3 = 2 && t.cur.members.length = 1) ∧
    acts sync (waiting (member false false)) (fun t => t.cur.getX 3 = 2) ∧ acts sync (waiting (member true false)) (fun t => t.cur.status = .parked) ∧
    acts wait ((member false false).modCur (fun t => { t with members := t.members.map (fun m => { m with done := true, status := 9 }) }))
      (fun t => t.cur.getX 3 = 9) := by
  decide +kernel

/-- The first checks of every BAR instruction (R382). -/
theorem test_bar_levels :
    let low := imaged (fun g => { g with resident := 1 })
    (List.all [3, 2] (fun n =>
      let s := if n = 3 then base else low
      let f := if n = 3 then FaultCode.level else .barQueued
      stops (.barInit (bo (.x 0) (.x 1) (.x 2) n 0 0)) s f 0 0 && stops (.barArrive (bo (.x 0) (.x 0) (.x 0) n 0 0)) s f 0 0 &&
      stops (.barWait (bo (.x 3) (.x 0) (.x 0) n 0 0)) s f 0 0 && stops (.barSync (bo (.x 3) (.x 0) (.x 0) n 0 0)) s f 0 0 &&
      stops (.barLine (bo (.x 0) (.x 1) (.x 0) n 0 0)) s f 0 0 && stops (.barDrop (bo (.x 0) (.x 0) (.x 0) n 0 0)) s f 0 0)) = true := by
  decide +kernel

/-- The curtain barrier (2, 0) made by this thread and not bound. -/
def curtain (f : Barrier → Barrier) : State :=
  let key := base.barKey 2 0
  base.setBar (base.myHome key).2 3 (some (f { base.tile 0 |>.newBar key with init := true, curtain := true, count := 1, maker := some base.myId }))

/-- The barrier (2, 0) not initialised, with arrivals held. -/
def pending (s : State) (who : List ThreadId) : State :=
  let key := base.barKey 2 0
  s.setBar (base.myHome key).2 3 (some { base.tile 0 |>.newBar key with arrived := who })

/-- BAR.INIT, LINE and DROP (R382 to R389). -/
theorem test_bar_objects :
    let init := fun (a b : Word) (more : Nat) => (Instr.barInit (bo (.x 0) (.x 1) (.x 2) 2 0 more), xs a b 0)
    let line := Instr.barLine (bo (.x 0) (.x 1) (.x 0) 2 0 (5 * 2 ^ 29))
    let drop := Instr.barDrop (bo (.x 0) (.x 0) (.x 0) 2 5 0)
    let full := (List.range 64).foldl (fun (s : State) n =>
      s.setBar 0 n (some { Tile.newBar (base.tile 0) (base.barKey 1 n) with key := { base.barKey 1 n with obj := 100 + n } })) (xs 2 9 0)
    acts (init 2 9 0).1 (init 2 9 0).2 (fun t => (t.tile 0).bars.map (fun p => p.2.map (fun b => (b.count, b.timeout, b.curtain))) = [some (2, 9, false)]) ∧
    acts (init 0 0 (2 ^ 28)).1 (init 0 0 0).2 (fun t => (t.tile 0).bars.map (fun p => p.2.map (fun b => b.curtain)) = [some true]) ∧
    stops (init 2 (2 ^ 32) 0).1 (init 2 (2 ^ 32) 0).2 .illegal 6 0 ∧ stops (init (2 ^ 32) 9 0).1 (init (2 ^ 32) 9 0).2 .illegal 5 0 ∧
    stops (init 1 9 (2 ^ 28)).1 (init 1 9 0).2 .illegal 5 0 ∧
    acts (init 3 9 0).1 (pending (init 3 9 0).2 [base.myId, base.myId]) (fun t => t.barMsgs = [] &&
      (lookAt none (t.tile 0).bars 3).map (fun b => (b.init, b.count, b.arrived.length, b.phase.toNat)) = some (true, 3, 2, 0)) ∧
    acts (init 1 9 0).1 (pending (init 1 9 0).2 [base.myId, base.myId]) (fun t => t.barMsgs.length = 2 &&
      (lookAt none (t.tile 0).bars 3).map (fun b => (b.count, b.arrived.length, b.phase.toNat)) = some (1, 0, 2)) ∧
    acts (init 2 9 0).1 full (fun t => t.cur.status = .stalled && t.cur.wait = some (.barRoom 2 0)) ∧
    stops line ((xs 0 0 0)) .illegal 10 0 ∧ base.lineRectBad (base.barKey 2 0) 0 0xFFFF = true ∧
    stops line ((curtain id).modCur (fun t => t.setX 1 0xFFFF)) .illegal 5 0 ∧ stops line (curtain (fun b => { b with bound := true })) .illegal 10 0 ∧
    acts drop base (fun t => t.barMsgs.length = 1 && t.cur.members.map Member.dropped = [true]) ∧ acts drop (member false true) (fun t => t.barMsgs = []) ∧
    stops drop fullMembers .barOverrun 0 2 ∧
    acts line (curtain id) (fun t => ((lookAt none (t.tile 0).bars 3).map (fun b => (b.bound, b.chan))) = some (true, 5)) := by
  decide +kernel
/-- GRP (R304 to R310), on a tree of two threads in a core, this one the second; BUDGET, REGS and EXIT. -/
theorem test_grp :
    let two := (imaged (fun g => { g with levels := [⟨1, 0xFF, 0, 0, 1⟩, ⟨2, 0xFF, 0, 0, 2⟩, ⟨3, 0xF6, 0, 0, 1⟩] })).modCur (fun t => { t with gidx := 1 })
    let id := fun (d : Reg) (x : BitVec 40) => Instr.grpId (ops .i64 d (.x 0) (.x 0) x)
    let size := fun (x : BitVec 40) => Instr.grpSize (ops .i64 (.x 3) (.x 0) (.x 0) x)
    let budget := Instr.grpBudget (o2 .i64 0)
    let regs := fun (x : BitVec 40) => Instr.grpRegs ⟨⟨0, false, false⟩, ⟨true, false, false⟩, .i64, .x 0, .x 0, .x 0, x⟩
    x3 (id (.x 3) 0x400000) two 1 ∧ x3 (id (.x 3) 0) two 1 ∧ x3 (id (.x 3) 0x404000) two 0 ∧ acts (id (.v 3) 0x400000) two (fun t => elemOf (t.cur.getV 3) 32 7 = 1) ∧
    stops (id (.x 3) 0xC000) two .level 0 0 ∧ stops (id (.v 3) 0xC000) two .level 0 0 ∧ x3 (size 0) two 2 ∧ x3 (size 0x800000) two 1 ∧ stops (size 0xC000) two .level 0 0 ∧
    acts budget ((xs 5 0 0).modCur (fun t => { t with budget := some 3 })) (fun t => t.cur.budget = some 3 && t.cur.getX 3 = 3) ∧
    acts budget (xs 5 0 0) (fun t => t.cur.budget = some 5 && t.cur.getX 3 = 0) ∧ acts budget (xs 0 0 0) (fun t => t.cur.budget = none) ∧
    acts (regs 0x9000000) (st (fun t => ((t.setX 31 7).setX 32 8).setV 8 9)) (fun t =>
      t.cur.xn = 32 && t.cur.vn = 8 && t.cur.getX 31 = 7 && t.cur.getX 32 = 0 && t.cur.getV 8 = 0) ∧
    stops (regs 0x9000000) (base.modCore 0 (fun k => { k with part := 0x120102 })) .regrange 10 0 := by
  decide +kernel

theorem test_exit :
    let exit := Instr.grpExit (ops .i64 (.x 0) (.x 0) (.x 0) 0)
    let sfu := base.modCore 0 (fun c => { c with sfu := [⟨1, .f32, .v 1, 0xFFFF, 0, 1⟩] })
    acts exit sfu (fun t => t.cur.status = .retired && t.cur.pc = base.cur.pc && (t.core 0).sfu.length = 1) ∧
    acts exit (fullQueue 0 base) (fun t => t.cur.status = .parked && t.cur.wait = some .engines) := by
  decide +kernel

/-- Context 1 with one DEVICE queue of four entries, enabled. -/
def queued (pa : Word) (k : Queue → Queue) : State :=
  let s := (xs 0 pa 0).modCtx 1 (fun c => { c with desc := { c.desc with qcount := 1, qtable := 0x40000 } })
  s.setQueue 1 0 (k { Queue.disabled with enabled := true, device := true, nent := 4, pbook := 0x50000 })

/-- QUE (R281 to R284). -/
theorem test_que :
    let push := Instr.quePush (ops .i64 (.x 0) (.x 1) (.x 2) 0)
    let stat := fun (b : Reg) (x : BitVec 40) => Instr.queStat (ops .i64 (.x 3) (.x 1) b x)
    let wait := Instr.queWait (ops .i64 (.x 0) (.x 1) (.x 2) 0)
    let entry := fun (st' : EntryState) => ({ seq := 1, state := st', code := 0, packet := [], tacc := 0, book := 0, urgent := false, stale := false, acted := true, ended := true, progress := 0 } : QEntry)
    acts push (queued (own 256) id) (fun t => (t.queue 1 0).pushes.length = 1 && t.cur.pc = base.cur.pc + 12) ∧
    stops push (queued 0x8000 id) .pool 0 0x8000 ∧ stops push (queued (own 264) id) .align 0 (own 264) ∧ stops push (queued (own poolSize) id) .pool 0 (own poolSize) ∧
    stops push (queued (own 256) (fun k => { k with device := false })) .prot 0 0 ∧ stops push ((queued (own 256) id).modCur (fun t => t.setX 1 9)) .prot 0 9 ∧
    acts push (queued (own 256) (fun k => { k with nent := 0 })) (fun t => t.cur.wait = some (.pushRoom 0)) ∧
    sent (stat (.x 0) 0) (queued 0 id) (.x 3) true (fun a => a.parts.map Part.va = [0x40010]) ∧
    sent (stat (.x 0) 0x400000) (queued 0 id) (.x 3) true (fun a => a.parts.map Part.va = [0x40018]) ∧
    sent (stat (.x 2) 0x800000) (queued 6 id) (.x 3) true (fun a => a.ret = .entry 6 && a.parts.map Part.va = [0x50020]) ∧
    stops (stat (.x 0) 0) (xs 0 0 0) .prot 0 0 ∧ stops wait (xs 0 0 0) .prot 0 0 ∧ acts wait (queued 0 id) (fun t => t.cur.pc = base.cur.pc + 12) ∧
    acts wait (queued 1 (fun k => { k with entries := [entry .complete] })) (fun t => t.cur.pc = base.cur.pc + 12) ∧
    acts wait (queued 1 (fun k => { k with entries := [entry .accepted] })) (fun t => t.cur.status = .parked && t.cur.wait = some (.queue 0 1)) := by
  decide +kernel

/-- CTX (R260 to R262), PG.PROBE (R411, R412), LNK.STAT (R433, R434). -/
theorem test_ctx_pg_lnk :
    let info := fun (n : Nat) => Instr.ctxInfo (ops .i64 (.x 3) (.x 0) (.x 0) (BitVec.ofNat 40 (n * 2 ^ 22)))
    let c := base.modCtx 1 (fun c => { c with delta := 5, epoch := 7, desc := { c.desc with tk := 1, flags := 3, mxown := 2, drown := 3, vcmask := 9 } })
    let probe := Instr.pgProbe (o2 .i64 0)
    let lnk := fun (n : Nat) (a : Reg) => Instr.lnkStat (ops .i64 (.x 3) a (.x 0) (BitVec.ofNat 40 (n * 2 ^ 22)))
    let yield := Instr.ctxYield (ops .i64 (.x 0) (.x 0) (.x 0) (0x1234 * 2 ^ 22))
    x3 (info 0) c 1 ∧ x3 (info 1) c 1 ∧ x3 (info 2) { c with time := 25 } 10 ∧ x3 (info 3) c 5 ∧ x3 (info 4) c 7 ∧ x3 (info 5) c 3 ∧
    x3 (info 6) c 0x900030002 ∧ x3 (info 7) c 1 ∧
    acts yield base (fun t => t.cur.status = .parked && t.cur.wait = some .yield && t.cur.pc = base.cur.pc + 12 && (t.ctx 1).state = .pausing) ∧
    acts yield (base.modCtx 1 (fun c => { c with state := .pausing })) (fun t => t.cur.wait = some .yield) ∧
    sent probe (xs 0x8000 0 0) (.x 3) true (fun a => a.op = .page) ∧ stops probe (xs (own 0) 0 0) .prot 0 (own 0) ∧
    stops probe (xs 0x0FF0000000000000 0 0) .prot 0 0x0FF0000000000000 ∧
    sent (lnk 0 (.x 1)) (xs 63 0 0) (.x 3) true (fun a => a.ret = .word (base.linkWord 0 63)) ∧ stops (lnk 1 (.x 1)) (xs 64 0 0) .prot 0 64 ∧
    sent (lnk 2 (.x 1)) (xs 2047 0 0) (.x 3) true (fun a => a.ret = .word (base.linkWord 2 2047)) ∧ stops (lnk 2 (.x 1)) (xs 2048 0 0) .prot 0 2048 ∧
    sent (lnk 3 (.x 0)) base (.x 3) true (fun a => a.ret = .word (base.linkWord 3 0)) ∧ WellFormed (lnk 3 (.x 1)) = false := by
  decide +kernel
/-! ## Events -/

/-- Whether an event changes the state so. -/
def does (i : Instr) (s : State) (p : State → Bool) : Bool :=
  match exec i s with
  | .next t => p t
  | _ => false

/-- One access of the thread in flight, with identity 0. -/
def flying (s : State) (op : AccOp) (d : Option Reg) (ret : Ret) (p : Part) : State :=
  { s with nextId := s.nextId + 1, accs := [{ s.newAccess op d ret false false false [] [p] with id := 0 }] }

/-- The stage of the one part in flight. -/
def stageIs (t : State) (g : Stage) : Bool :=
  match t.accs with
  | [a] => a.parts.map Part.stage = [g]
  | _ => false

/-- The bytes of the one part in flight. -/
def dataIs (t : State) (bs : List Byte) : Bool :=
  match t.accs with
  | [a] => a.parts.map Part.data = [bs]
  | _ => false

/-- VARIABLE-LATENCY RESULT (R79, R80): scalar, vector, predicate and word results; the register stays pending. -/
theorem test_results :
    let done := fun (bs : List Byte) => { mkPart 0x8000 bs.length 0 bs with stage := Stage.performed }
    let s := base.modCur (fun t => t.setPending (.x 3))
    does (.variableLatencyResult 0) (flying s .load (some (.x 3)) (.scalar .i8) (done [0x80])) (fun t =>
      t.cur.getX 3 = 0xFFFFFFFFFFFFFF80 && t.cur.pending (.x 3) && t.accs = []) ∧
    does (.variableLatencyResult 0) (flying s .load (some (.x 3)) (.word 9) (done [])) (fun t => t.cur.getX 3 = 9) ∧
    does (.variableLatencyResult 0) (flying s .probe (some (.p 3)) .pred (done [1])) (fun t => t.cur.getP 3) ∧
    does (.variableLatencyResult 0) (flying s .load (some (.v 3)) (.bytes (some .i32)) { done [1, 2, 3, 4] with off := 8 }) (fun t =>
      elemOf (t.cur.getV 3) 32 2 = 0x04030201) ∧
    does (.variableLatencyResult 0) (flying s .load (some (.x 3)) (.scalar .i8) (mkPart 0x8000 1 0 [])) (fun t => t.accs.length = 1) := by
  decide +kernel

/-- STORE ACKNOWLEDGEMENT (R451) and the end of a wait (R312). -/
theorem test_acks_and_waits :
    let w := flying base (.store false) none .none { mkPart 0x8000 8 0 [] with stage := .performed }
    let parked := base.modCur (fun t => { t with status := .parked, wait := some .results })
    let blocked := (flying parked .load (some (.x 3)) (.scalar .i64) (mkPart 0x8000 8 0 []))
    does (.storeAcknowledgement 0 0) w (fun t => t.accs = []) ∧ does (.switchMarkerWaitEnds 0) parked (fun t => t.cur.status = .running) ∧
    does (.switchMarkerWaitEnds 0) blocked (fun t => t.cur.status = .parked) := by
  decide +kernel

/-- REMOTE FAULT REPORT (R173): of a load, which waits for a marker, and of a store. -/
theorem test_fault_reports :
    let p := { mkPart 0x8000 8 0 [] with stage := Stage.refused .page }
    does (.remoteFaultReport 0 0 false) (flying base .load (some (.x 3)) (.scalar .i64) p) (fun t => stageIs t (.reported .page) && t.cur.raised.isNone) ∧
    does (.remoteFaultReport 0 0 false) (flying base (.store false) none .none p) (fun t =>
      t.cur.raised = some ⟨.page, 0, 0x8000, base.cur.pc, .access 0 0⟩ && t.cur.status = .faulted) := by
  decide +kernel

/-- POOL ACCESS ARRIVAL (R171 to R177, R229) at core 1 of the same context, and at core 2, which nobody holds. -/
theorem test_pool_arrival :
    let s := ((base.modCore 1 (fun k => { k with part := placedImage.partWord, owner := some (placedId, 0) })).poolWrite 1 64 [1, 2, 3, 4]).setFull 1 64 true
    let at' := fun (core : Nat) (n : Nat) => mkPart (BitVec.ofNat 64 (0xE * 2 ^ 60 + core * 2 ^ 46 + 64)) n 0
    let x := some (Reg.x 3)
    let go := fun (op : AccOp) (d : Option Reg) (p : Part) (f : State → Bool) => does (.poolAccessArrival 0 0) (flying s op d (.scalar .i32) p) f
    go .load x (at' 1 4 []) (fun t => stageIs t .performed && dataIs t [1, 2, 3, 4]) ∧ go .load x (at' 2 4 []) (fun t => stageIs t (.refused .pool)) ∧
    go (.store true) none (at' 1 2 [8, 9]) (fun t => t.poolRead 1 64 4 = [8, 9, 3, 4] && t.fullBit 1 64) ∧
    go .clear none (at' 1 16 []) (fun t => !t.fullBit 1 64) ∧ go .probe x (at' 1 1 []) (fun t => dataIs t [1]) ∧
    go (.consume true) x (at' 1 4 []) (fun t => dataIs t [1, 2, 3, 4] && !t.fullBit 1 64) ∧
    does (.poolAccessArrival 0 0) ((flying s (.consume true) x (.scalar .i32) (at' 1 4 [])).setFull 1 64 false) (fun t => stageIs t .table) := by
  decide +kernel

/-- CONSUMING LOAD SERVED and RESEND (R177). -/
theorem test_consuming_loads :
    let p := { mkPart (own 64) 4 0 [] with stage := Stage.table, loc := some (.pool 0 64) }
    let s := flying ((base.poolWrite 0 64 [5, 6]).setFull 0 64 true) (.consume true) (some (.x 3)) (.scalar .i32) p
    does (.consumingLoadServed 0) s (fun t => stageIs t .performed && dataIs t [5, 6, 0, 0] && !t.fullBit 0 64) ∧
    s.nextServed 0 = s.findAcc 0 ∧
    does (.consumingLoadResend 0) (flying base (.consume true) (some (.x 3)) (.scalar .i32) { p with stage := .resend 0 }) (fun t => stageIs t .port) := by
  decide +kernel

/-- A leaf of region 4 (8 KiB at 0x8000) at physical address 0x20000: readable, writable, accessed, dirty. -/
def leaf : CacheEntry := { set := cacheSet 0x8000 1, asid := 1, size := 0, base := 4, pte := 0x20000 + 0x1F, addr := 0 }

/-- TRANSLATION REQUEST (R402 to R405): a hit, a miss, a probe. -/
theorem test_translation :
    let n := homeStation 0x8000 1
    let hit := base.setStation n { base.station n with cache := [leaf] }
    let at' := fun (s : State) (op : AccOp) => flying s op (some (.x 3)) (.scalar .i64) (mkPart 0x8008 8 0 [])
    ((at' hit .load).station n).lookup 0x8008 1 = some leaf ∧
    does (.translationRequest 0 0) (at' hit .load) (fun t => stageIs t .channel && t.accs.map (fun a => a.parts.map Part.loc) = [[some (.dram 0x20008)]]) ∧
    does (.translationRequest 0 0) (at' base .load) (fun t => stageIs t .walking) ∧
    does (.translationRequest 0 0) (at' base .page) (fun t => stageIs t .performed) := by
  decide +kernel

/-- A table of three levels in DRAM with a leaf for region 4, its root at 0x100000; and a root of zeros. -/
def tables : State :=
  let s := base.modCtx 1 (fun c => { c with root := 0x100000 })
  { s with dram := ((((s.dram.write 0x100000 (leBytes 8 0x110001)).write 0x110000 (leBytes 8 0x120001)).write 0x120000 (leBytes 8 0x130001)).write (0x130000 + 32)
      (leBytes 8 0x2001F)) }

/-- WALK DONE (R403 to R406): a leaf found, and a region without one, held for the house kernel. -/
theorem test_walks :
    let at' := fun (s : State) (va : Word) => flying s .load (some (.x 3)) (.scalar .i64) { mkPart va 8 0 [] with stage := .walking }
    does (.walkDone 0 0) (at' base 0x8000) (fun t => stageIs t (.house false)) ∧
    (match (at' tables 0x8000).translate 1 0x8000 false false with
     | (_, .ok (.dram pa) _ _ _) => pa = 0x20000 && does (.walkDone 0 0) (at' tables 0x8000) (fun t => stageIs t .channel)
     | _ => false) = true := by
  decide +kernel

/-- PAGE-FAULT ANSWER (R406), INVALIDATION and its end (R409, R410), DRAM REFRESH (R30). -/
theorem test_station_events :
    let held := fun (perm : Bool) => flying base .load (some (.x 3)) (.scalar .i64) { mkPart 0x8000 8 0 [] with stage := .house perm }
    let n := homeStation 0x8000 1
    let hit := base.setStation n { base.station n with cache := [leaf] }
    does (.pageFaultAnswer 1 0x9FFF true []) (held false) (fun t => stageIs t .queued) ∧
    does (.pageFaultAnswer 1 0x8000 false []) (held true) (fun t => stageIs t (.refused .prot)) ∧
    does (.pageFaultAnswer 1 0x8000 false []) (held false) (fun t => stageIs t (.refused .page)) ∧
    does (.pageFaultAnswer 1 0xA000 true []) (held false) (fun t => stageIs t (.house false)) ∧
    does (.invalidation (.asid 1) []) hit (fun t => (t.station n).cache = []) ∧ does (.invalidation (.asid 2) []) hit (fun t => (t.station n).cache = [leaf]) ∧
    does .invalidationComplete { base with invals := [⟨.asid 1, [], []⟩] } (fun t => t.invals = []) ∧
    does (.dramRefresh 3) base (fun t => (t.channel 3).fresh = t.clock + 1) := by
  decide +kernel

/-- DRAM BURST (R30, R180): a load, a store, an atomic at the channel. -/
theorem test_bursts :
    let s := { base with dram := base.dram.write 0x20000 [1, 0, 0, 0, 0, 0, 0, 0] }
    let p := fun (bs : List Byte) => { mkPart 0x8000 8 0 bs with stage := Stage.channel, loc := some (.dram 0x20000) }
    let ch := channelOf 0x20000
    let go := fun (op : AccOp) (bs : List Byte) (d : Option Reg) (f : State → Bool) =>
      ((flying s op d (.scalar .i64) (p bs)).burst ch).isSome && does (.dramBurst ch) (flying s op d (.scalar .i64) (p bs)) f
    go .load [] (some (.x 3)) (fun t => dataIs t [1, 0, 0, 0, 0, 0, 0, 0] && (t.channel ch).last = 1) ∧
    go (.store false) [7, 7, 7, 7, 7, 7, 7, 7] none (fun t => t.dram.read 0x20000 9 = [7, 7, 7, 7, 7, 7, 7, 7, 0]) ∧
    go (.atomic .add .i64 5 0 0) [] (some (.x 3)) (fun t => t.dram.read 0x20000 1 = [6] && dataIs t [1, 0, 0, 0, 0, 0, 0, 0]) := by
  decide +kernel

/-- REMOTE OPERATION (R431) with each outcome, an operation already in the log, and REMOTE ACK (R243). -/
theorem test_remote :
    let s := { base with dram := base.dram.write 0x20000 [1, 2] }
    let come := fun (op : RemOp) (pa asid : Nat) => { s with inbox := [⟨0, 5, 1, .remoteOp 77 asid pa op⟩] }
    let log := fun (t : State) (r : RemRes) => lookAt [] t.remLog 5 = [(77, r)] && t.inbox = []
    let wait := { flying base .load (some (.x 3)) (.scalar .i64) { mkPart 0x8000 8 0 [] with stage := .remote 77 } with
      inbox := [⟨0, 5, 2, .remoteAck 77 (.data [9])⟩] }
    let no := { flying base .load (some (.x 3)) (.scalar .i64) { mkPart 0x8000 8 0 [] with stage := .remote 77 } with
      inbox := [⟨0, 5, 2, .remoteAck 77 (.refused .ecc)⟩] }
    does (.remoteOperation false) (come (.read 2) 0x20000 1) (fun t => log t (.data [1, 2])) ∧
    does (.remoteOperation false) (come (.write [8]) 0x20001 1) (fun t => log t .done && t.dram.read 0x20000 2 = [1, 8]) ∧
    does (.remoteOperation false) (come (.atomic .add .n8 1 0 0) 0x20000 1) (fun t => log t (.data [1]) && t.dram.read 0x20000 1 = [2]) ∧
    does (.remoteOperation false) (come (.read 2) 0x20000 9) (fun t => log t (.refused .remote)) ∧
    does (.remoteOperation false) (come (.read 2) (dramSize - 1) 1) (fun t => log t (.refused .remote)) ∧
    does (.remoteOperation true) (come (.read 2) 0x20000 1) (fun t => log t (.refused .ecc)) ∧
    does (.remoteOperation false) { come (.write [8]) 0x20000 1 with remLog := [(5, [(77, .done)])] } (fun t => t.dram.read 0x20000 1 = [1]) ∧
    does .remoteAck wait (fun t => stageIs t .performed && dataIs t [9]) ∧ does .remoteAck no (fun t => stageIs t (.refused .ecc)) := by
  decide +kernel
/-- The thread stopped on a fault with FIELD 3 and DATA 77, its count at the greatest value, and one policy byte for all its levels
but the highest, which has KILLPARENT. -/
def faulted (code : FaultCode) (src : FaultSrc) (p : BitVec 8) : State :=
  (imaged (fun g => { g with levels := [⟨1, p, 0, 0, 1⟩, ⟨2, p, 0, 0, 1⟩, ⟨3, 0xFF, 0, 0, 1⟩] })).modCur (fun t =>
    { t with status := .faulted, prior := .running, raised := some ⟨code, 3, 77, t.pc, src⟩, finfo := [(3, 0xFFFFFFFFFFFFFFFF)] })

/-- The same with a late cue in the store. -/
def lateCue (p : BitVec 8) : State :=
  let s := faulted .late (.cue 9) p
  { s with cues := [⟨9, ⟨placedId, 0, 4, 0, 0, false, false, 0, false, 0, 0, 0, [], 0, false⟩, .stored 0, [], none, none, false, false, none⟩] }

/-- FAULT DELIVERED (R134, R316 to R319): to the root, to a kill, ignored and retried. -/
theorem test_fault_delivered :
    let told := fun (t : State) (code action : Nat) => lookAt 0 t.cur.finfo 0 = BitVec.ofNat 64 (code + 3 * 256 + action * 65536) &&
      lookAt 0 t.cur.finfo 1 = base.cur.pc && lookAt 0 t.cur.finfo 2 = 77 && lookAt 0 t.cur.finfo 3 = -1
    let on := fun (s : State) (p : State → Bool) => s.resultsIn 0 && s.sfuEmpty 0 && does (.faultDelivered 0) s p
    on (faulted .trap .own 0xFF) (fun t => told t 0x0A 3 && (t.ctx 1).state = .faulted && t.cur.status = .killed) ∧
    on (faulted .trap .own 0xAA) (fun t => told t 0x0A 2 && (t.ctx 1).state = .resident && t.cur.status = .killed) ∧
    on (faulted .trap .own 0) (fun t => t.cur.status = .killed) ∧
    on (faulted .budget .own 0) (fun t => told t (codeOf .budget) 0 && t.cur.status = .running && t.cur.raised.isNone && t.cur.budget.isNone) ∧
    on (lateCue 0) (fun t => told t (codeOf .late) 0 && t.cues.map (fun c => (c.first, c.msg.late)) = [(true, true)]) ∧
    on ((lateCue 0x55).modCur (fun t => { t with lastT := 6, lastM := 2 })) (fun t =>
      told t (codeOf .late) 1 && t.cues.map (fun c => (c.msg.tagT, c.msg.tagM, c.msg.retag)) = [(6, 3, true)]) := by
  decide +kernel

/-- KILL NOTICE of a node and of a root fault (R279, R319). -/
theorem test_kill_notice :
    does .killNotice { base with inbox := [⟨0, 5, 0, .kill placedId 1 0⟩] } (fun t => t.cur.status = .killed && t.inbox = []) ∧
    does .killNotice { base with inbox := [⟨0, 5, 0, .rootFault 1 (codeOf .trap) none 0 0⟩] } (fun t => (t.ctx 1).state = .faulted && t.cur.status = .killed) := by
  decide +kernel

/-- A cue with tag (t, m) for thread `target` of the placed launch, with identity 9. -/
def cue9 (place : CuePlace) (target : Nat) (tag : Word) : Cue :=
  ⟨9, ⟨placedId, target, tag, 0, 0, false, false, 0, false, 0, 0, 2, [1, 2], 0, false⟩, place, [], none, none, false, false, none⟩

/-- A leaf of region 4 (0x8000) at physical address 0x20000 in its home station, and the overflow area and the queue table there. -/
def mapped (s : State) : State :=
  let n := homeStation 0x8000 1
  let s := s.setStation n { s.station n with cache := leaf :: (s.station n).cache }
  s.modCtx 1 (fun c => { c with desc := { c.desc with ovfAddr := 0x9000, ovfSize := 4096, qtable := 0x8000, qcount := 1 } })

/-- The store of core 0 with no free entry. -/
def stuffed (s : State) : State :=
  { s with cues := (List.range 256).map (fun n => { cue9 (.stored 0) 0 5 with id := 100 + n, shared := decide (8 ≤ n) }) ++ s.cues }

/-- CUE STORE, SPILL, HOLD, FORWARD, MERGE and SPILL FETCH DONE (R326, R332 to R336, R348). -/
theorem test_cues_arrive :
    let put := fun (s : State) (c : Cue) => { s with cues := [c] }
    let place := fun (t : State) => (t.findCue 9).map (fun c => c.place)
    does (.cueStore 9) (put base (cue9 .inFlight 0 5)) (fun t => place t = some (.stored 0) && t.cur.raised.isNone) ∧
    does (.cueStore 9) (put (base.modCur (fun t => { t with lastT := 6 })) (cue9 .inFlight 0 5)) (fun t =>
      t.cur.raised = some ⟨.late, 0, 5, base.cur.pc, .cue 9⟩ && t.cur.status = .faulted) ∧
    does (.cueStore 9) (put (base.modCur (fun t => { t with status := .killed })) (cue9 .inFlight 0 5)) (fun t => t.cues = []) ∧
    does (.cueSpill 9) (stuffed (put (mapped base) (cue9 .inFlight 0 5))) (fun t => place t = some (.spilled 0) && (t.ctx 1).ovfSpills = 1) ∧
    does (.cueHold 9) (put ((mapped base).modLaunch placedId (fun a => { a with gangs := [] })) (cue9 .inFlight 0 5)) (fun t => place t = some .held) ∧
    does (.cueForward 9) (put (mapped base) { cue9 .held 0 5 with cell := some 1 }) (fun t => place t = some .inFlight) ∧
    does (.cueMerge 0) (put (mapped base) { cue9 (.spilled 0) 0 5 with cell := some 1 }) (fun t => place t = some (.stored 0)) ∧
    does (.spillFetchDone 0) (put (mapped base) { cue9 (.spilled 0) 0 5 with cell := some 1 }) (fun t => place t = some (.fetched 0)) := by
  decide +kernel

/-- CUE RELEASE, HANDLER START and BUDGET EXHAUSTED (R315, R321 to R327, R333). -/
theorem test_handlers_start :
    let put := fun (c : Cue) => { base.modCur (fun t => { (t.setX 5 77).setPending (.x 3) with status := .asleep, inHandler := false }) with cues := [c], time := 50 }
    let s := put (cue9 (.released 0) 0 5)
    does (.cueRelease 0) (put (cue9 (.stored 0) 0 5)) (fun t => (t.findCue 9).map (fun c => c.place) = some (.released 0)) ∧
    does (.handlerStart 0) s (fun t => t.cur.status = .running && t.cur.pc = 0x10000 && t.cur.pend = 0 && t.cur.tagT = 5 && t.cur.baseM = 1 && t.cur.getX 5 = 77 &&
      t.poolRead 0 (areaOff placedImage.partWord 0) 96 = descBytes (cue9 (.released 0) 0 5).msg ++ windowPayload (cue9 (.released 0) 0 5).msg && t.cues = []) ∧
    does (.budgetExhausted 0) (base.modCur (fun t => { t with budget := some 0 })) (fun t => t.cur.raised = some ⟨.budget, 0, 0, base.cur.pc, .own⟩) := by
  decide +kernel

/-- A handler that takes a block: its bytes stand in its area with full bits (R333). -/
theorem test_block_delivered :
    let s := { (imaged (fun g => { g with handlers := [⟨0, 0, 0, 4096, 1024⟩] })).modCur (fun t => { t with status := .asleep }) with
      cues := [{ cue9 (.released 0) 0 5 with msg := { (cue9 (.released 0) 0 5).msg with block := true, len := 32, payload := List.replicate 32 7 } }] }
    does (.handlerStart 0) s (fun t => t.fullBit 0 4096 && t.fullBit 0 4112 && !t.fullBit 0 4128 && t.poolRead 0 4127 2 = [7, 0]) := by
  decide +kernel

/-- SFU RESULT (R150, R151): 2^3 in the lanes of the mask. -/
theorem test_sfu_result :
    let s := (vs (fill 32 0x40400000) 0 0 (fill 32 7)).modCore 0 (fun c => { c with sfu := [⟨1, .f32, .v 4, 0x0001, fill 32 0x40400000, 0⟩] })
    does (.sfuResult 0) s (fun t => elemOf (t.cur.getV 4) 32 0 = 0x41000000 && elemOf (t.cur.getV 4) 32 1 = 7 && (t.core 0).sfu = []) := by
  decide +kernel

/-- A copy of 32 bytes from offset 0 to 64 of the own pool in queue 0. -/
def copy (st' : CopyState) (progress : Nat) : CopyCmd :=
  { copyBase 0x01 (o3 .i64 0) base (own 0) (own 64) 32 with state := st', progress := progress, id := 50 }

/-- COPY START, RETIRE UNIT, FINISH, FAULT and RETRY (R189 to R194). -/
theorem test_copy_events :
    let put := fun (c : CopyCmd) => (base.poolWrite 0 0 [1, 2, 3]).setCopyQueue 0 0 [c]
    let head := fun (t : State) (p : CopyCmd → Bool) => match t.copyQueue 0 0 with
      | [c] => p c
      | _ => false
    let join := { copy .queued 0 with fn := 6, qmask := 3 }
    does (.copyStart 0 0) (put (copy .queued 0)) (fun t => head t (fun c => c.state = .running)) ∧
    does (.copyStart 0 0) ((put join).setCopyQueue 0 1 [join]) (fun t => t.copyQueue 0 0 = [] && t.copyQueue 0 1 = []) ∧
    does (.retireUnit 0 0) (put (copy .running 0)) (fun t => head t (fun c => c.progress = 1) && t.poolRead 0 64 4 = [1, 2, 3, 0] && t.fullBit 0 64) ∧
    does (.retireUnit 0 0) (put { copy .running 0 with fn := 5, pattern := 0x0807060504030201 }) (fun t => t.poolRead 0 71 3 = [8, 1, 2]) ∧
    (copy .running 0).units = 2 ∧ does (.copyFinish 0 0) (put (copy .running 2)) (fun t => t.copyQueue 0 0 = []) ∧
    does (.copyFinish 0 0) { put { copy .running 2 with cue := some 9 } with cues := [cue9 (.reserved 0) 0 5] } (fun t =>
      t.cues.map (fun c => c.place) = [.stored 0]) ∧
    does (.copyFault 0 0 false) (put { copy .running 1 with fcode := some .page, faddr := 0x8000 }) (fun t =>
      head t (fun c => c.state = .faulted) && t.cur.raised.map (fun r => (r.code, r.data)) = some (.page, 0x8000)) ∧
    does (.copyRetry 0 0) (put (copy .faulted 1)) (fun t => head t (fun c => c.state = .running && c.progress = 1)) := by
  decide +kernel

/-- A matrix command at the head of core 0's queue. -/
def matrix (fn : Nat) (st' : MxState) (progress total : Nat) : MxCmd :=
  { mxBase fn (ops .bf16 (.x 0) (.x 1) (.x 2) 0) base with state := st', progress := progress, total := total, aaddr := own 0, baddr := own 0, id := 70, nrow := total - 1 }

/-- The command at the head of core 0's queue, which has written some bytes of slot 0. -/
def putMx (c : MxCmd) : State :=
  (base.poolWrite 0 (slotOff 0) [9, 9, 9, 9]).modCore 0 (fun k => { k with mx := [c], newest := [(0, ⟨70, 0, 8, .queued⟩)] })

def headMx (t : State) (p : MxCmd → Bool) : Bool :=
  match (t.core 0).mx with
  | [c] => p c
  | _ => false

/-- MXU ACCEPT and GRANT (R205, R210, R211): ZERO clears the rows of its step. -/
theorem test_mxu_accept :
    does (.mxuAccept 0) (putMx (matrix 4 .queued 0 128)) (fun t => headMx t (fun c => c.state = .accepted)) := by
  decide +kernel

theorem test_mxu_pick : ((putMx (matrix 4 .accepted 0 128)).mxPick 0 ((putMx (matrix 4 .accepted 0 128)).mxCands 0)).isSome = true := by
  decide +kernel

theorem test_mxu_grant :
    does (.mxuGrant 0) (putMx (matrix 4 .accepted 0 1)) (fun t => headMx t (fun c => c.progress = 1 && c.state = .running) &&
      t.poolRead 0 (slotOff 0) 4 = [0, 0, 0, 0] && (t.tile 0).busy = t.clock + (matrix 4 .accepted 0 1).cost) := by
  decide +kernel

/-- MXU FINISH, OPERAND FAULT and RETRY (R212 to R217). -/
theorem test_mxu_finish :
    does (.mxuFinish 0) (putMx (matrix 4 .running 128 128)) (fun t => (t.core 0).mx = [] && (lookAt MxNewest.none (t.core 0).newest 0).state = .done) := by
  decide +kernel

theorem test_mxu_fault :
    does (.mxuOperandFault 0 false) (putMx { matrix 4 .running 0 128 with fcode := some .page, faddr := 0x8000 }) (fun t =>
      headMx t (fun c => c.told) && t.cur.raised.map (fun r => (r.code, r.data)) = some (.page, 0x8000)) ∧
    does (.mxuRetry 0) (putMx { matrix 1 .accepted 0 32 with told := true }) (fun t => headMx t (fun c => !c.told)) := by
  decide +kernel
/-- The regions 4, 5 and 6 (0x8000 to 0xDFFF) mapped at 0x20000 on, and context 1 with one queue, its table at 0x8000. -/
def paged (s : State) : State :=
  let s := [4, 5, 6].foldl (fun (s : State) r =>
    let va := BitVec.ofNat 64 (8192 * r)
    let n := homeStation va 1
    s.setStation n { s.station n with cache := { leaf with set := cacheSet va 1, base := r, pte := 0x20000 + 8192 * (r - 4) + 0x1F } :: (s.station n).cache }) s
  s.modCtx 1 (fun c => { c with desc := { c.desc with qtable := 0x8000, qcount := 1 } })

/-- A queue of four entries with its ring at 0xA000 and its prompt book at 0xB000. -/
def ring : Queue := { Queue.disabled with enabled := true, nent := 4, ring := 0xA000, pbook := 0xB000 }

/-- Context 1 with this queue and 128 bytes at the first place of its ring. -/
def served (k : Queue) (packet : List Byte) : State :=
  ({ paged base with dram := base.dram.write 0x22000 packet, time := 50 }).setQueue 1 0 k

/-- An entry of the queue. -/
def entryOf (st' : EntryState) (packet : List Byte) : QEntry :=
  { seq := 1, state := st', code := 0, packet := packet, tacc := 50, book := 0xB000, urgent := false, stale := false, acted := false, ended := false, progress := 0 }

/-- 128 bytes from these. -/
def padded (bs : List Byte) : List Byte := bs ++ List.replicate (128 - bs.length) 0

/-- A MARK packet: 77 to 0xC000. -/
def markPacket : List Byte := padded ([6, 0, 0, 0] ++ List.replicate 28 0 ++ leBytes 8 0xC000 ++ leBytes 8 77)

/-- QUEUE ENABLE, DISABLE and DOORBELL (R263, R264, R278). -/
theorem test_queue_enable :
    let entry := fun (on : BitVec 8) => leBytes 8 0xA000 ++ leBytes 4 4 ++ [0, on, 0, 0] ++ leBytes 8 3 ++ leBytes 8 9 ++ leBytes 8 0xB000
    let s := fun (k : Queue) (on : BitVec 8) => { served k [] with dram := (base.dram.write 0x20000 (entry on)) }
    does (.queueEnable 1 0) (s Queue.disabled 1) (fun t => t.queue 1 0 = { ring with write := 3 } && t.dram.read 0x20018 8 = leBytes 8 0) ∧
    does (.queueEnable 1 0) (s Queue.disabled 0) (fun t => !(t.queue 1 0).enabled) ∧
    does (.queueDisable 1 0) (s ring 0) (fun t => !(t.queue 1 0).enabled) ∧
    does (.doorbell 1 0) (s ring 1) (fun t => (t.queue 1 0).write = 3) := by
  decide +kernel

/-- PACKET ACCEPT and DISPATCH OPPORTUNITY (R267, R271): a good packet, a bad one, and the entry in the prompt book. -/
theorem test_packet_accept :
    let k := { ring with write := 1 }
    let states := fun (t : State) => (t.queue 1 0).entries.map (fun e => (e.seq, e.state, e.code))
    does (.packetAccept 1 0) (served k markPacket) (fun t => states t = [(1, .accepted, 0)] && (t.queue 1 0).taken = 1 &&
      t.dram.read 0x23000 8 = leBytes 8 1) ∧
    does (.packetAccept 1 0) ((served k markPacket).modCtx 1 (fun c => { c with state := .loaded })) (fun t => (t.ctx 1).state = .resident) ∧
    does (.packetAccept 1 0) (served k (List.replicate 128 9)) (fun t => states t = [] && (t.queue 1 0).lost = [1]) ∧
    does .dispatchOpportunity (served { k with taken := 1, entries := [entryOf .accepted markPacket] } []) (fun t => states t = [(1, .dispatched, 0)] &&
      lookAt 0 t.lastServed 0 = queueKey 1 0) := by
  decide +kernel

/-- QUEUE PUSH WRITE and QUEUE ACCESS FAULT (R282, R456). -/
theorem test_queue_push :
    let p : Push := { origin := 0, sent := false, pos := none, packet := markPacket, level := 0, top := 0, launch := placedId, gidx := 0, after := [], acc := 0 }
    does (.queuePushWrite 1 0) (served { ring with device := true, pushes := [p] } []) (fun t => (t.queue 1 0).write = 1 && (t.queue 1 0).pushes.map (fun p => p.pos) = [some 0] &&
      t.dram.read 0x22000 128 = markPacket && t.dram.read 0x20010 8 = leBytes 8 1) ∧
    does (.queueAccessFault 1 0) ((served ring []).modCtx 1 (fun c => { c with agentBad := [(0xA000, .page)] })) (fun t =>
      (t.ctx 1).state = .faulted && t.cur.status = .killed) := by
  decide +kernel

/-- The queue with one dispatched packet. -/
def working (packet : List Byte) (f : QEntry → QEntry) : State :=
  served { ring with taken := 1, write := 1, entries := [f (entryOf .dispatched packet)] } []

/-- The entry after an event. -/
def entryIs (t : State) (p : QEntry → Bool) : Bool :=
  match (t.queue 1 0).entries with
  | [e] => p e
  | _ => false

/-- CUE, COPY, FENCE and MARK PACKET (R272, R274, R275). -/
theorem test_packets :
    let cue := fun (time : Nat) (seq : Nat) => padded ([2, 0] ++ List.replicate 30 0 ++ leBytes 4 0 ++ [0, 2, 1, 0] ++ leBytes 8 time ++ leBytes 8 0x0201 ++ leBytes 8 0 ++ leBytes 8 seq)
    let work := fun (s : State) => { s with
      launches := [{ placedLaunch s with id := ⟨1, 0, 2⟩ }], queues := putAt Queue.disabled s.queues (queueKey 1 0) { s.queue 1 0 with
      entries := (s.queue 1 0).entries ++ [{ entryOf .dispatched (padded [1]) with seq := 2 }] } }
    let last := fun (t : State) => (t.queue 1 0).entries.map (fun e => (e.state, e.code, e.acted, e.ended))
    let copy := padded ([3, 0] ++ List.replicate 30 0 ++ leBytes 8 0x8000 ++ leBytes 8 0xC000 ++ leBytes 8 32 ++ leBytes 8 32 ++ leBytes 4 32 ++ leBytes 4 1)
    ((last (work (working (cue 60 2) id))).length = 2) ∧
    does (.cuePacket 1 0) (work (working (cue 60 2) id)) (fun t => t.cues.map (fun c => (c.msg.tagT, c.msg.tagM, c.msg.payload)) = [(60, 1, [1, 2, 0, 0, 0, 0, 0, 0])] &&
      last t = [(.dispatched, 0, true, false), (.dispatched, 0, false, false)]) ∧
    does (.cuePacket 1 0) (work (working (cue 0 2) id)) (fun t => (t.queue 1 0).lost = [1] && t.cues = []) ∧
    does (.cuePacket 1 0) (working (cue 60 9) id) (fun t => (t.queue 1 0).lost = [1] && t.cues = []) ∧
    does (.copyPacket 1 0) { working copy id with dram := base.dram.write 0x20000 [1, 2, 3] } (fun t => entryIs t (fun e => e.progress = 1 && !e.ended) &&
      t.dram.read 0x24000 4 = [1, 2, 3, 0]) ∧
    does (.fencePacket 1 0) (working (padded [5]) id) (fun t => entryIs t (fun e => e.acted && e.ended)) ∧
    does (.mark 1 0) (working markPacket id) (fun t => entryIs t (fun e => e.acted && e.ended) && t.dram.read 0x24000 8 = leBytes 8 77) := by
  decide +kernel

/-- PREEMPT, RESUME and PROMPT BOOK COMPLETE (R268, R275, R293, R297). -/
theorem test_context_packets :
    let pre := padded [7]
    let res := padded [8]
    let state := fun (t : State) => (t.ctx 1).state
    does (.preempt 1 0) (working pre id) (fun t => entryIs t (fun e => e.acted && !e.ended) && state t = .pausing) ∧
    does (.preempt 1 0) ((working pre id).modCtx 1 (fun c => { c with state := .paused })) (fun t => entryIs t (fun e => e.acted && e.ended) && state t = .paused) ∧
    does (.resume 1 0) (working res id) (fun t => entryIs t (fun e => e.acted && e.ended)) ∧
    does (.resume 1 0) ((working res id).modCtx 1 (fun c => { c with state := .paused, pause := some (newPause 30 [] 0 false none) })) (fun t =>
      state t = .restoring && (t.ctx 1).pause.bind (fun p => p.pr) = some (t.time + 10000)) ∧
    does (.resume 1 0) ((working res id).modCtx 1 (fun c => { c with state := .pausing, pause := some (newPause 30 [] 0 false none) })) (fun t =>
      state t = .pausing && (t.ctx 1).pause.bind (fun p => p.resumeHeld) = some (0, 1)) ∧
    does (.promptBookComplete 1 0 1) (working (padded [5]) (fun e => { e with acted := true, ended := true })) (fun t =>
      t.dram.read 0x23000 8 = leBytes 8 1 && t.dram.read 0x2300C 1 = [2]) := by
  decide +kernel
/-- Package 9 behind port 0, which is up. -/
def linked (s : State) : State :=
  (s.modPort 0 (fun p => { p with state := .up, lanes := 16, peer := 9 })) |> fun s => { s with routes := [(9, some 0)] }

/-- The messages queued on port 0 on a VC. -/
def outbox (t : State) (vc : Nat) : List (Option LinkMsg) := (lookAt [] (t.port 0).queues vc).map (fun f => f.msg)

/-- COLLECTIVE STEP and ARRIVAL NOTICE (R273): data, notice and end of a SEND; a RECV that adds. -/
theorem test_collective :
    let packet := fun (op : BitVec 8) => padded ([4, 0] ++ List.replicate 30 0 ++ [op, 3] ++ leBytes 2 9 ++ leBytes 4 7 ++ leBytes 8 0xC000 ++ leBytes 8 0xC100 ++ leBytes 8 64)
    let w := fun (op : BitVec 8) (f : QEntry → QEntry) => linked (working (packet op) f)
    (w 0 id).linkTo 9 = some 0 ∧
    does (.collectiveStep 1 0) (w 0 id) (fun t => entryIs t (fun e => e.progress = 64 && !e.ended) && outbox t 3 = [some (.collData 1 7 0xC100 (List.replicate 64 0))]) ∧
    does (.collectiveStep 1 0) (w 0 (fun e => { e with progress := 64 })) (fun t => entryIs t (fun e => e.acted) && outbox t 3 = [some (.collNotice 1 7)]) ∧
    does (.collectiveStep 1 0) { w 0 (fun e => { e with progress := 64, acted := true }) with inbox := [⟨0, 9, 3, .collAck 1 7⟩] } (fun t =>
      entryIs t (fun e => e.ended) && t.inbox = []) ∧
    does (.collectiveStep 1 0) ((w 1 id).modCtx 1 (fun c => { c with notices := [(9, 7)] })) (fun t => entryIs t (fun e => e.acted) && (t.ctx 1).notices = []) ∧
    does (.collectiveStep 1 0) { w 1 (fun e => { e with acted := true }) with dram := (base.dram.write 0x24000 (leBytes 4 0x3F800000)).write 0x24100 (leBytes 4 0x40000000) } (fun t =>
      entryIs t (fun e => e.progress = 4 && !e.ended) && t.dram.read 0x24000 4 = leBytes 4 0x40400000) ∧
    does (.collectiveStep 1 0) { w 1 (fun e => { e with acted := true, progress := 60 }) with dram := base.dram.write 0x2413C (leBytes 4 0x40000000) } (fun t =>
      entryIs t (fun e => e.ended) && t.dram.read 0x2403C 4 = leBytes 4 0x40000000) ∧
    does (.collectiveStep 1 0) { w 2 (fun e => { e with acted := true }) with dram := base.dram.write 0x24100 [5] } (fun t => t.dram.read 0x24000 1 = [5]) ∧
    does .arrivalNotice { w 1 id with inbox := [⟨0, 9, 3, .collNotice 1 7⟩] } (fun t => (t.ctx 1).notices = [(9, 7)] && outbox t 3 = [some (.collAck 1 7)]) ∧
    does .arrivalNotice { w 1 id with inbox := [⟨0, 9, 3, .collData 1 7 0xC100 [1, 2]⟩] } (fun t => t.dram.read 0x24100 2 = [1, 2] && t.inbox = []) := by
  decide +kernel

/-- The image of a kernel of one thread: header at 0x8100, one handler at 0x8180, the tree at 0x8200. -/
def kernelBytes (part : Nat) : List Byte :=
  [0x47, 0x4B, 0x49, 0x01] ++ leBytes 2 1 ++ leBytes 2 1 ++ leBytes 4 2 ++ leBytes 2 1 ++ [0, 0] ++ leBytes 8 0x10000 ++ leBytes 8 12 ++ leBytes 8 0x8180 ++
    leBytes 8 0x8200 ++ leBytes 8 part ++ List.replicate 72 0 ++ List.replicate 128 0 ++
    [3, 2, 1] ++ List.replicate 13 0 ++ [1, 0xFF, 0, 0, 1] ++ List.replicate 11 0 ++ [2, 0xFF, 0, 0, 1] ++ List.replicate 11 0 ++ [3, 0xF6, 0, 0, 1]

/-- A LAUNCH of that kernel for the time `tag`, with a word of arguments. -/
def launching (part tag : Nat) : State :=
  let s := working (padded ([1, 0] ++ List.replicate 30 0 ++ leBytes 8 0x8100 ++ leBytes 8 5 ++ leBytes 8 tag ++ [0xFF])) id
  let s := { s.modCtx 1 (fun c => { c with desc := { c.desc with saveSize := 2 ^ 24 } }) with dram := s.dram.write 0x20100 (kernelBytes part), launches := [] }
  (s.queue 1 0).entries.foldl (fun (s : State) e => s.checkLaunch 1 0 e) s

/-- LAUNCH (R289, R290, R303): a launch that waits; one past its time; a bad partition word. -/
theorem test_launch :
    does (.launch 1 0) (launching 0x110 60) (fun t => entryIs t (fun e => e.acted) && t.launches.map (fun a => (a.state, a.image.codeBase, a.args, a.tagT)) =
      [(.waiting, 0x10000, 5, 60)]) ∧
    does .dispatchOpportunity ((launching 0x110 6).modEntry 1 0 1 (fun e => { e with state := .accepted })) (fun t => (t.queue 1 0).lost = [1]) ∧
    does (.launch 1 0) (launching 0x111 60) (fun t => (t.queue 1 0).lost = [1] && t.launches.map (fun a => a.state) = [.discarded]) := by
  decide +kernel

/-- The launch of `base` not yet placed. -/
def waiting : State :=
  let s := (base.setThread 0 Thread.vacant).modCore 0 (fun c => { c with owner := none, part := 0 })
  (s.modCtx 1 (fun c => { c with desc := { c.desc with saveSize := 2 ^ 24 } })).modLaunch placedId (fun a => { a with state := .waiting, gangs := [] })

/-- GANG PLACED, CAST, GANG LEAVES and HOST STORE ACK READ (R297 to R300, R458). -/
theorem test_gang_placed :
    does (.gangPlaced 1 0 1 []) waiting (fun t => t.launches.flatMap (fun a => a.gangs.flatMap (fun g => g.cores)) = [(0, 0)] && t.launches.flatMap (fun a => a.gangs.flatMap (fun g => g.threads)) = [(0, 0, 0, 0)] &&
      (t.core 0).owner = some (placedId, 0) && t.casts.map (fun r => r.due) = [[0]]) := by
  decide +kernel

theorem test_cast :
    let g : Gang := { index := 0, cores := [(0, 1)], threads := [(0, 1, 2, 6)], ended := [], finished := false, gone := [], left := false }
    let s := { ((waiting.poolWrite 1 (poolSize - 1) [1]).setFull 1 0 true) with casts := [⟨{ castOf (placedLaunch waiting) g with args := 8 }, [0]⟩] }
    does (.cast 1) s (fun t => (t.thread 6).status = .asleep && (t.thread 6).getX 4 = 8 && (t.thread 6).getX 5 = 6 && (t.thread 6).srstate = 0x9E3779BF &&
      t.cues.map (fun c => (c.place, c.msg.isLaunch)) = [(.stored 6, true)] && !t.fullBit 1 0 && t.poolRead 1 (poolSize - 1) 1 = [0] && t.casts = []) := by
  decide +kernel

theorem test_gang_leaves :
    let ended := fun (s : State) => s.modLaunch placedId (fun a => { a with gangs := a.gangs.map (fun g => { g with ended := [0], finished := true }) })
    does (.gangLeaves 1 0 1 0) (ended (base.modCur (fun t => { t with status := .retired }))) (fun t => t.cur.status = .retired && t.cur.gone && (t.core 0).owner = none) ∧
    does (.hostStoreAckRead 1 0 1) ((base.modCur (fun t => { t with status := .retired })).modLaunch placedId (fun a => { a with hostStores := 2, hostSent := 2 }))
      (fun t => t.launches.map (fun a => a.hostStores) = [0]) := by
  decide +kernel

/-- A command of the host: opcode and ASID with two arguments, host memory holding a descriptor at 0x100. -/
def commandOf (op asid : Nat) (a b : Word) (s : State) : State :=
  { s with bar0 := { s.bar0 with cmd := op + 256 * asid, cmdState := 1, arg0 := a, arg1 := b }, hostMem := s.hostMem.write 0x100 (leBytes 2 2 ++ [10] ++ List.replicate 53 0 ++ [1]) }

/-- CREATE, LOAD, LOAD AGREEMENT, DESTROY and CLEAR (R247, R251, R444). -/
theorem test_host_commands :
    let built := (commandOf 2 2 0 0x3000 base).setCtx 2 { Ctx.absent with state := .built, desc := { Desc.zero with asid := 2, qcount := 1 } }
    let bad := built.modCtx 2 (fun c => { c with desc := { c.desc with tk := 21 } })
    let ends := fun (i : Instr) (s : State) (st reason : Nat) (p : State → Bool) => does i s (fun t => t.bar0.cmdState = st && t.bar0.reason = reason && t.msix.getLast? = some 0 && p t)
    ends (.create 2 [9]) (commandOf 1 2 0x100 0 base) 2 0 (fun t => (t.ctx 2).state = .built && (t.ctx 2).desc.tk = 10 && (t.ctx 2).desc.qcount = 1 && (t.ctx 2).waits = [9]) ∧
    ends (.create 1 []) (commandOf 1 1 0x100 0 base) 3 2 (fun t => t.ctxs = base.ctxs) ∧
    ends (.load 2) built 2 0 (fun t => (t.ctx 2).state = .loaded && (t.ctx 2).root = 0x3000) ∧ ends (.load 2) bad 3 1 (fun t => (t.ctx 2).state = .built) ∧
    ends (.load 1) (commandOf 2 1 0 0 base) 3 2 (fun _ => true) ∧
    does .loadAgreement { (built.modCtx 2 (fun c => { c with waits := [9], loadedHere := true })) with inbox := [⟨0, 9, 0, .loaded 2 0⟩] } (fun t =>
      (t.ctx 2).state = .loaded && t.inbox = []) ∧
    ends (.destroy 2) (commandOf 3 2 0 0 base) 3 2 (fun _ => true) ∧
    does (.destroy 1) (commandOf 3 1 0 0 base) (fun t => (t.ctx 1).state = .faulted && t.cur.status = .killed && t.bar0.cmdState = 1) ∧
    ends (.destroy 1) ((commandOf 3 1 0 0 base).modCtx 1 (fun c => { c with state := .faulted })) 2 0 (fun t => t.ctx 1 = Ctx.absent &&
      t.thread 0 = Thread.vacant && t.core 0 = Core.idle) ∧
    ends (.clear 1) (commandOf 4 1 0 0 base) 3 2 (fun _ => true) ∧
    ends (.clear 1) ((commandOf 4 1 0 0 base).modCtx 1 (fun c => { c with state := .faulted })) 2 0 (fun t => (t.ctx 1).state = .loaded && t.thread 0 = Thread.vacant) := by
  decide +kernel

/-- ATTEST: the commands that the clauses speak of (R447). The signature has no value here. -/
theorem test_attest :
    let s := commandOf 5 1 0x100 0x200 base
    ((commandOf 5 2 0x100 0x200 base).commanded 5 2 && !(commandOf 5 2 0x100 0x200 base).isLoaded 2 && s.commanded 5 1 && s.isLoaded 1 &&
      (match s.agentRead 1 0 0 with
       | .ok ks _ => ks.isEmpty
       | _ => false)) = true := by
  decide +kernel

/-- PAUSE PROPOSAL, REPLY, AGREED and RELEASE STOP (R251, R252). -/
theorem test_pause :
    let s := linked { base with time := 50 }
    let came := fun (m : LinkMsg) (s : State) => { s with inbox := [⟨0, 9, 0, m⟩] }
    let paused := fun (f : Pause → Pause) => s.modCtx 1 (fun c => { c with state := .pausing, pause := some (f (newPause 40 [9] 0 false none)) })
    let tp := fun (t : State) => (t.ctx 1).pause.map (fun p => (p.tp, p.agreed))
    does .pauseProposal (came (.pausePropose 1 70 3 false none) s) (fun t => (t.ctx 1).state = .pausing && tp t = some (70, false)) ∧
    does .pauseProposal (came (.pausePropose 1 30 3 false none) (paused id)) (fun t => t.inbox = [] && outbox t 0 = [some (.pauseReply 1 51)]) ∧
    does .pauseProposal (came (.pausePropose 1 30 3 false none) s) (fun t => tp t = some (51, false)) ∧
    does .pauseReply (came (.pauseReply 1 90) (paused id)) (fun t => tp t = some (90, true)) ∧
    does .pauseAgreed (came (.pauseAgree 1 95) (paused id)) (fun t => tp t = some (95, true)) ∧
    does (.releaseStop 1) (paused (fun p => { p with agreed := true })) (fun t => t.cur.status = .paused && t.cur.prior = .running && t.cur.pc = base.cur.pc &&
      (t.ctx 1).pause.map (fun p => p.stopped) = some true) := by
  decide +kernel

/-- SAVE COMPLETE of a context without threads: the hypotheses of its clause, and the state after (R254). -/
theorem test_save_complete :
    let p : Pause := { newPause 40 [] 0 false none with stopped := true, saveTold := true }
    let s := (paged waiting).modCtx 1 (fun c => { c with state := .pausing, pause := some p, desc := { c.desc with saveAddr := 0xC000 } })
    does (.saveComplete 1) (s.modCtx 1 (fun c => { c with pause := some { p with saveTold := false } })) (fun t => t.ctx 1 = s.ctx 1) ∧
    s.saveReady 1 ∧ decide ((s.imagePart 1 p [] false).1.length ≤ (s.ctx 1).desc.saveSize) ∧
    does (.saveComplete 1) s (fun t => (t.ctx 1).state = .paused && ((t.ctx 1).saved.map (fun v => (v.threads, v.cores, v.accs))) = some ([], [], [])) := by
  decide +kernel

/-- What an image of one thread and no core holds in memory at 0xC000: header, directory, and its THREAD record with PC 0x1234. -/
def imageBytes : List Byte :=
  [0x53, 0x43, 0x58, 1, 0, 0, 0, 0] ++ leBytes 24 1 ++ leBytes 8 0x8100 ++ leBytes 8 0x120110 ++ List.replicate 80 0 ++
    (List.range 9).flatMap (fun i => leBytes 4 (i + 1) ++ leBytes 4 (if i = 0 then 1 else 0) ++ leBytes 8 (if i = 0 then 320 else 704)) ++
    List.replicate 128 0 ++ leBytes 8 0x1234 ++ List.replicate 296 0

/-- RESUME AGREEMENT, the image placed back, and RESTORE COMPLETE (R253, R257): the thread comes back with the PC that its record in memory
has, and goes on at the instant. -/
theorem test_resume :
    let s := linked { base with time := 50 }
    let p : Pause := { newPause 40 [] 0 false none with stopped := true, agreed := false, pr := some 60, placed := true }
    let restoring := fun (p : Pause) => s.modCtx 1 (fun c => { c with state := .restoring, pause := some p })
    let home := (paged base).modLaunch placedId (fun a => { a with image := { a.image with header := 0x8100 } })
    let dram := (home.dram.write 0x20100 (kernelBytes 0x120110)).write 0x24000 imageBytes
    let v : Saved := { base.snapshot 1 ⟨[1, 0, 0, 0, 0, 0, 0], [320, 704, 704, 704, 704, 704, 704, 704, 704]⟩ [] with
      threads := [(0, { base.thread 0 with status := .paused, prior := .running })], cores := [] }
    let gone := (({ home with dram := dram, time := 50 }.setThread 0 Thread.vacant).setCore 0 Core.idle).modCtx 1 (fun c => { c with
      desc := { c.desc with saveAddr := 0xC000 }, state := .restoring, saved := some v, pause := some { p with placed := false } })
    let back := fun (s : State) => match execImagePlaced 1 s with
      | .next t => t
      | _ => s
    does (.resumeAgreement 1) (restoring p) (fun t => (t.ctx 1).pause.map (fun p => p.agreed) = some true && (t.ctx 1).delta = newDelta 40 10050 0) ∧
    does (.resumeAgreement 1) (restoring { p with byProposer := false, prWaits := [9] }) (fun t => (t.ctx 1).pause.map (fun p => (p.agreed, p.prWaits)) = some (false, []) &&
      outbox t 0 = [some (.resumeReady 1 40 10050 none)]) ∧
    does (.resumeAgreement 1) { (restoring p).modCtx 1 (fun c => { c with state := .paused }) with inbox := [⟨0, 9, 0, .resumeReady 1 40 20000 none⟩] } (fun t =>
      (t.ctx 1).state = .restoring && (t.ctx 1).pause.map (fun p => (p.pr, p.prWaits, p.placed)) = some (some 20000, [9], false)) ∧
    gone.placing 1 v = some ⟨[(0, 0)], []⟩ ∧
    ((back gone).thread 0).pc = 0x1234 ∧ ((back gone).thread 0).status = .paused ∧ ((back gone).ctx 1).pause.map (fun p => p.placed) = some true ∧
    ((back { gone with dram := dram.write 0x24008 [2] }).ctx 1).state = .faulted ∧
    does (.restoreComplete 1) ((back gone).modCtx 1 (fun c => { c with pause := some { p with agreed := true, pr := some 50 } })) (fun t =>
      (t.ctx 1).state = .resident && (t.thread 0).status = .running && (t.ctx 1).epoch = 1) := by
  decide +kernel
/-- Entry 0 of tile 0 as the target (role 2) of chain 7, its strips from the member of tile 1, which has entry 3 there; two
strips, the completion word at 512 in the own pool. -/
def aim (f : ChainEntry → ChainEntry) : State :=
  base.setChain 0 0 (f { ChainEntry.free with
    state := .joining, chain := 7, asid := 1, role := 2, rule := 2, nmem := 2, nrows := 16, member := 1, cword := own 512 })

/-- One message for the entry, from entry 3 of tile 1; a JOIN names core 0. -/
def mail (s : State) (k : ChainKind) : State :=
  { s with chainMsgs := [⟨0, k, 1, 7, 0, 1, 3, 0, (match k with
      | .join _ _ _ _ _ _ _ => none
      | _ => some 0)⟩], nextId := 1 }

/-- The kinds of the messages under way. -/
def kinds (t : State) : List ChainKind := t.chainMsgs.map (fun m => m.kind)

/-- CHAIN JOIN (R362): each answer. -/
theorem test_chain_join :
    let j := ChainKind.join 2 0 0 16 2 0 8
    does (.chainJoin 0) (mail (aim id) j) (fun t => (t.chain 0 0).joined = [(0, 1, 3)]) ∧
    does (.chainJoin 0) (mail (aim (fun e => { e with state := .broken, cause := 5 })) j) (fun t => kinds t = [.nak 4 5]) ∧
    does (.chainJoin 0) (mail ((aim id).modCur (fun t => { t with status := .retired })) j) (fun t => kinds t = [.nak 3 0]) ∧
    does (.chainJoin 0) (mail (aim (fun e => { e with nrows := 8 })) j) (fun t => kinds t = [.nak 2 0]) ∧
    does (.chainJoin 0) (mail base j) (fun t => kinds t = [.nak 1 0]) := by
  decide +kernel

/-- CHAIN ACK, NAK, CREDIT, COMPLETE and BREAK (R362, R363, R364, R366, R369) at a source. -/
theorem test_chain_messages :
    let src := aim (fun e => { e with role := 0, member := 0, pc := 0x10000, sendPc := 0x10000, firstSend := true })
    let at' := fun (t : State) (p : ChainEntry → Bool) => p (t.chain 0 0)
    let raised := fun (t : State) (c : FaultCode) (d : Word) => t.cur.raised = some ⟨c, 0, d, 0x10000, .chain 0 0⟩
    does (.chainAck 0) (mail src .ack) (fun t => at' t (fun e => e.ackIn && e.state = .sending && e.nextEntry = 3)) ∧
    does (.chainNak 0) (mail src (.nak 1 0)) (fun t => at' t (fun e => e.joinDue = some 256)) ∧
    does (.chainNak 0) (mail src (.nak 2 0)) (fun t => at' t (fun e => e.state = .broken && e.cause = 4) && raised t .chainBusy 8) ∧
    does (.chainNak 0) (mail src (.nak 3 0)) (fun t => at' t (fun e => e.state = .broken && e.cause = 4) && raised t .chainAbsent 0) ∧
    does (.chainNak 0) (mail src (.nak 4 2)) (fun t => at' t (fun e => e.state = .broken && e.cause = 2) && raised t .chainBroken 0) ∧
    does (.chainCredit 0) (mail (src.setChain 0 0 { src.chain 0 0 with sent := 1 }) (.credit 1)) (fun t => at' t (fun e => e.sent = 3 && e.state = .done)) ∧
    does (.chainComplete 0) (mail src .complete) (fun t => t.chain 0 0 = ChainEntry.free) ∧
    does (.chainBreak 0) (mail src (.brk 3)) (fun t => at' t (fun e => e.state = .broken && e.cause = 3) && raised t .chainBroken 0) ∧
    does (.joinRetry 0 0) (src.setChain 0 0 { src.chain 0 0 with joinDue := some 0 }) (fun t => kinds t = [.join 2 0 0 16 2 0 0] && at' t (fun e => e.joinDue = none)) ∧
    does (.chainTimeout 0 0) ((src.modCtx 1 (fun c => { c with desc := { c.desc with chTimeout := 9 } })).setChain 0 0 { src.chain 0 0 with elapsed := 9 })
      (fun t => raised t .chainTimeout 0) := by
  decide +kernel

/-- A strip of ones from tile 1 at the target. -/
def strip (k served : Nat) (s : State) : State :=
  { s with strips := [⟨0, 0, 1, k, false, 2, 1, 3, List.replicate 1024 0x3F800000, served, true⟩] }

/-- STRIP ACCEPTED (R357, R366): one counted, a duplicate, the last. -/
theorem test_strip_accepted :
    let at' := fun (t : State) (p : ChainEntry → Bool) => p (t.chain 0 0)
    does (.stripAccepted 0 0 1) (strip 0 32 (aim id)) (fun t => at' t (fun e => e.count = 1 && e.holds 1 0) && kinds t = [.credit 0] && t.strips = []) ∧
    does (.stripAccepted 0 0 1) (strip 0 32 (aim (fun e => { e with rx := [(1, 1)], count := 1 }))) (fun t => at' t (fun e => e.count = 1 && e.dups = 1) && kinds t = [.credit 0]) ∧
    does (.stripAccepted 0 0 1) (strip 1 32 (aim (fun e => { e with rx := [(1, 1)], count := 1, joined := [(0, 1, 3)] }))) (fun t =>
      t.chain 0 0 = ChainEntry.free && t.poolRead 0 512 8 = leBytes 8 (2 + 2 * 2 ^ 32) && t.fullBit 0 512 && kinds t = [.credit 1, .complete]) := by
  decide +kernel

/-- The strip at a target whose member has joined. -/
def adding : State := strip 0 0 (aim (fun e => { e with joined := [(1, 1, 3)] }))

/-- TARGET ADDER FLIT (R353, R355): the hypotheses of its clause, and the flit added to the slot. -/
theorem test_target_adder :
    let e := adding.chain 0 0
    (adding.servable 0 0 1).isSome ∧ adding.writersDone e ∧ adding.allDone e.after ∧ (adding.portSenders 0 0).1 = [1] ∧
    adding.inTurn e.core (e.stripOff 0) 128 rankEngine ∧
    does (.targetAdderFlit 0 0) adding (fun t => (t.chain 0 0).lastSrc = 1 && t.poolRead 0 (e.stripOff 0) 4 = leBytes 4 0x3F800000 &&
      t.strips.map (fun p => p.served) = [1]) := by
  decide +kernel

/-- The barrier (2, 5) of the placed thread at its home, made and waiting for `count`. -/
def barred (f : Barrier → Barrier) : State :=
  let key := base.barKey 2 5
  base.setBar 0 3 (some (f { base.tile 0 |>.newBar key with init := true, count := 2 }))

/-- One barrier message. -/
def card (s : State) (m : BarMsg) : State := { s with barMsgs := [⟨0, m, []⟩], nextId := 1 }

/-- The thread under the barrier. -/
def me : ThreadId := ⟨placedId, 0⟩

/-- BARRIER ARRIVAL and THREAD DEPARTURE (R383, R384, R455). -/
theorem test_barrier_arrival :
    let key := base.barKey 2 5
    let at' := fun (t : State) (p : Barrier → Bool) => match lookAt none (t.tile 0).bars 3 with
      | some b => p b
      | none => false
    (barred id).msgTile (.arrive key me false) = some 0 ∧ (barred id).barPkg (.arrive key me false) = some 0 ∧
    (barred id).nodeGone key.launch key.level key.node = false ∧ (((barred id).tile 0).findBar key).map Prod.fst = some 3 ∧
    does (.barrierArrival 0) (card (barred id) (.arrive key me false)) (fun t => at' t (fun b => b.arrived = [me] && b.phase = 0) && t.barMsgs = []) ∧
    does (.barrierArrival 0) (card (barred (fun b => { b with count := 1 })) (.arrive key me false)) (fun t =>
      at' t (fun b => b.arrived = [] && b.phase = 1 && b.sense) && t.barMsgs.map (fun g => g.msg) = [.release key me 0 true false false 0]) ∧
    does (.barrierArrival 0) (card (barred id) (.drop key me false)) (fun t => at' t (fun b => b.count = 1 && b.dropped = [me])) ∧
    does (.threadDeparture 0) (card (barred id) (.depart placedId 2 key.node me [])) (fun t => (t.tile 0).departed = [⟨placedId, 2, key.node, me⟩] &&
      at' t (fun b => b.count = 1)) := by
  decide +kernel

/-- BARRIER RELEASE (R380, R385, R387): a release, a freed barrier, a timeout. -/
theorem test_barrier_release :
    let key := base.barKey 2 5
    let s := fun (f : Thread → Thread) => (member true false).modCur f
    (s id).findThread placedId 0 = some 0 ∧
    does (.barrierRelease 0) (card (s id) (.release key me 4 true false false 0)) (fun t =>
      t.cur.members.map (fun e => (e.arrived, e.sense, e.done, e.status)) = [(false, true, true, 0x400000000)]) ∧
    does (.barrierRelease 0) (card (s id) (.freed key me)) (fun t => t.cur.members = []) ∧
    does (.barrierRelease 0) (card (s (fun t => { t with status := .parked })) (.timeout key me 1 2 false)) (fun t =>
      t.cur.raised.map (fun r => (r.code, r.data)) = some (.barTimeout, 0x200000001)) := by
  decide +kernel

/-- CURTAIN ARRIVAL and BAR TIMEOUT (R387, R390). -/
theorem test_barrier_timeout :
    let key := base.barKey 2 5
    let late := fun (p : BitVec 8) => { (barred (fun b => { b with arrived := [me], timeout := 9, elapsed := 9 })) with
      launches := base.launches.map (fun (a : Launch) => { a with image := { a.image with levels := [⟨1, p, 0, 0, 1⟩, ⟨2, p, 0, 0, 1⟩, ⟨3, 0xFF, 0, 0, 1⟩] } }) }
    let at' := fun (t : State) (p : Barrier → Bool) => match lookAt none (t.tile 0).bars 3 with
      | some b => p b
      | none => false
    let first := fun (t : State) => (t.barMsgs.map (fun g => g.msg)).head? = some (.timeout key me 1 2 false)
    does (.curtainArrival 0 3) (barred (fun b => { b with curtain := true, bound := true, count := 1, arrived := [me] })) (fun t =>
      at' t (fun b => b.phase = 1) && t.barMsgs.map (fun g => g.msg) = [.release key me 0 true false false 40]) ∧
    does (.barTimeout 0 3) (late 0) (fun t => first t && at' t (fun b => b.phase = 1)) ∧
    does (.barTimeout 0 3) (late 0x55) (fun t => first t && at' t (fun b => b.retried && b.elapsed = 0)) ∧
    does (.barTimeout 0 3) (late 0xAA) (fun t => first t && at' t (fun b => !b.retried && b.elapsed = 10)) := by
  decide +kernel
/-- A good data flit of sequence number 5 with a message, on VC 1. -/
def flitOf (dst : Nat) (m : LinkMsg) : Flit := ({ mkFlit 1 9 dst (some m) with seq := 5 } : Flit).sealed

/-- Port 0 up, in its place in the sequence, with another port 1 to package 8. -/
def busyPort (f : Port → Port) : State :=
  let s := linked { base with time := 20000, clock := 20000 }
  let s := s.modPort 0 (fun p => f { p with lanes := 4, rxSeq := 5, txSeq := 7, credits := [(0, 4), (1, 4), (2, 4), (3, 4)], heard := 19999 })
  { s.modPort 1 (fun p => { p with state := .up, lanes := 4, peer := 8 }) with routes := [(8, some 1), (9, some 0)] }

/-- FLIT RECEIVED and RETRY REQUEST (R421, R422, R424). -/
theorem test_flit_received :
    let s := busyPort id
    does (.flitReceived 0 { flitOf 0 (.hostDone placedId) with fec := false }) s (fun t => (t.port 0).retryDue && (t.port 0).fails = 1 && (t.port 0).rxSeq = 5) ∧
    does (.flitReceived 0 (flitOf 0 (.cue (cue9 .inFlight 0 5).msg none))) s (fun t => (t.port 0).rxSeq = 6 && t.cues.map (fun c => c.place) = [.inFlight]) ∧
    does (.flitReceived 0 (flitOf 0 (.remoteOp 3 1 0x20000 (.read 8)))) s (fun t => t.inbox = [⟨0, 9, 1, .remoteOp 3 1 0x20000 (.read 8)⟩]) ∧
    does (.flitReceived 0 (flitOf 8 (.hostDone placedId))) s (fun t => (lookAt [] (t.port 1).queues 1).length = 1) ∧
    does (.retryRequest 0 1) (busyPort (fun p => { p with replay := [{ flitOf 9 (.hostDone placedId) with seq := 1 }, { flitOf 9 (.hostDone placedId) with seq := 2 }] })) (fun t =>
      (t.port 0).replay.map (fun f => f.seq) = [2] && (t.port 0).again = (t.port 0).replay) := by
  decide +kernel

/-- FLIT TIME (R420, R421, R423): a retry request, a flit again, the picked flit, an idle flit. -/
theorem test_flit_time :
    let f := flitOf 9 (.hostDone placedId)
    let wire := fun (t : State) (p : Flit → Bool) => match (t.port 0).wire with
      | some f => p f
      | none => false
    let queued' := busyPort (fun p => { p with queues := [(1, [f])] })
    queued'.pickVc 0 (queued'.port 0) = some (1, false) ∧ (busyPort id).pickVc 0 ((busyPort id).port 0) = none ∧
    does (.flitTime 0) (busyPort (fun p => { p with retryDue := true })) (fun t => wire t (fun f => f.kind = .retry && f.ack = 4) && !(t.port 0).retryDue) ∧
    does (.flitTime 0) (busyPort (fun p => { p with again := [f] })) (fun t => (t.port 0).wire = some f && (t.port 0).again = [] && (t.port 0).resent = 1) ∧
    does (.flitTime 0) (busyPort id) (fun t => wire t (fun f => f.kind = .idle && f.seq = 7 && f.ack = 4)) ∧
    does (.flitTime 0) queued' (fun t => wire t (fun g => g.seq = 7 && g.msg = f.msg) && (t.port 0).txSeq = 8 && (t.port 0).credit t.pkg 1 = 3 &&
      (t.port 0).replay.length = 1) := by
  decide +kernel

/-- The states of a port (R428, R429), and a route (R424). -/
theorem test_port_states :
    let down := fun (i : Instr) (s : State) => does i s (fun t => (t.port 0).state = .down && (t.port 0).lanes = 0)
    let training := busyPort (fun p => { p with state := .training })
    down (.retryExhausted 0) (busyPort (fun p => { p with fails := 8 })) ∧ down (.peerLost 0) (busyPort (fun p => { p with heard := 10000 })) ∧
    down (.laneFailure 0) (busyPort (fun p => { p with lanes := 1 })) ∧ down (.trainFail 0) training ∧
    does (.laneFailure 0) (busyPort id) (fun t => (t.port 0).state = .degraded && (t.port 0).lanes = 2) ∧
    does (.trainDone 0 2) training (fun t => (t.port 0).state = .up && (t.port 0).lanes = 2 && (t.port 0).txSeq = 0 && (t.port 0).credit t.pkg 1 = 32) ∧
    does (.configure 5 9 2) base (fun t => (t.port 5).state = .training && (t.port 5).peer = 9 && (t.port 5).peerPort = 2) ∧
    does (.retrain 0) (busyPort (fun p => { p with state := .degraded })) (fun t => (t.port 0).state = .training) ∧
    does (.portDisable 0) (busyPort id) (fun t => t.port 0 = Port.off) ∧
    does (.routeTableUpdate 9 1) (busyPort id) (fun t => t.route 9 = some 1 && t.route 8 = some 1) ∧
    does (.routeTableUpdate 9 64) (busyPort id) (fun t => t.route 9 = none) := by
  decide +kernel

/-- TIME EXCHANGE, TIME STAMP, HOLDOVER and PARENT PORT NAMED (R426, R427). -/
theorem test_time_transfer :
    let came := fun (m : LinkMsg) (s : State) => { s with inbox := [⟨0, 9, 0, m⟩] }
    let s := busyPort id
    let child := { s.modPort 0 (fun p => { p with exchange := some (100, 200, 200) }) with parent := some 0, timeRoot := 9 }
    does (.timeExchange 0) s (fun t => outbox t 0 = [some (.stamp1 20000)] && (t.port 0).stamp = 20000) ∧
    does .timeStamp (came (.stamp1 7) s) (fun t => (t.port 0).exchange = some (7, 20000, 20000) && outbox t 0 = [some (.stamp3 20000)]) ∧
    does .timeStamp (came (.stamp3 7) s) (fun t => outbox t 0 = [some (.stamp4 20000 t.err)] && (t.port 0).locked && (t.port 0).state = .timeLocked) ∧
    child.isLoaded 1 ∧ ((child.port 0).exchange, child.parent) = (some (100, 200, 200), some 0) ∧
    does .holdover child (fun t => t.holdover && t.err = child.err + 1 && t.lastExchange = 16000) ∧
    does (.parentPortNamed 0 9 2) base (fun t => t.timeRoot = 9 && t.parent = some 0 && t.asym = 2) ∧
    does (.parentPortNamed 0 0 2) base (fun t => t.parent = none && t.err = 0) := by
  decide +kernel

/-- A boot image of one page whose key hash and signature are zero. -/
def bootPage : List Byte := [0x48, 0x5A, 0x42, 1] ++ leBytes 4 4096 ++ List.replicate 4088 0

/-- A start that finds it at root port 1, and one that finds none. -/
def found : BootReport := ⟨none, some bootPage, none, true, 3, [⟨3, 9, 1, 2⟩, ⟨4, 8, 0, 3⟩], some 3, 9, 2, 1234, 5⟩
def nowhere : BootReport := ⟨some [0, 1], none, none, true, 3, [], none, 0, 0, 0, 0⟩

theorem boot_page : isBootImage bootPage = true ∧ bootKeyHash bootPage = 0 ∧ bootSig bootPage = 0 := by
  have l : bootPage.length = 4096 := by simp only [bootPage, leBytes, List.length_append, List.length_replicate, List.length_cons, List.length_nil]
  have t : bootPage.take 4 = [0x48, 0x5A, 0x42, 1] ∧ bootSize bootPage = 4096 := by decide +kernel
  exact ⟨by simp [isBootImage, l, t.1, t.2], by decide +kernel, by decide +kernel⟩

theorem boot_found : bootImage found = some bootPage := by simp [bootImage, found, boot_page.1]

/-- Starts that find no image (R437 to R440). -/
theorem test_starts :
    let warm := { base with dramParams := true, time := 9 }
    let stopsAt := fun (i : Instr) (s : State) => does i s (fun t => t.bar0.status = 3 && t.bar0.step = 1 && t.bar0.failure = 1 && t.threads = [] && t.dram = s.dram)
    bootFails nowhere 1 ∧ stopsAt (.powerOnReset nowhere) base ∧ stopsAt (.resetCold nowhere) warm ∧
    stopsAt (.functionLevelReset nowhere) warm ∧ stopsAt (.resetWarm nowhere) warm ∧ does (.resetWarm nowhere) warm (fun t => t.time = 9) ∧
    does (.resetCold nowhere) warm (fun t => t.time = 0 && t.pkg = 3) := by
  decide +kernel

/-- With the fused hash and a signature that verifies no step of a start fails; with another hash step 2 does (R437, R438). -/
theorem test_start_signed (hk : Config.measurement 3 = 0) (hv : Config.sm2Verify 0 (imageDigest bootPage) 0 = true) :
    ∀ n ∈ [1, 2, 3, 4, 5, 6, 7], bootFails found n = false := by
  have h : bootSigned bootPage = true := by
    rw [bootSigned, boot_page.2.1, boot_page.2.2, hk, hv]
    decide
  simp [bootFails, boot_found, h]
  simp [found]

theorem test_start_unsigned (hk : Config.measurement 3 = 1) : bootFails found 1 = false ∧ bootFails found 2 = true := by
  simp [bootFails, boot_found, bootSigned, boot_page, hk]

/-- Steps 3, 5 and 6 of a start (R437): port 3 comes up with two lanes and its time lock, port 4 fails to train. -/
theorem test_start_steps :
    let s := (((State.reset.startStep found 3).startStep found 5).startStep found 6)
    s.dramParams ∧ ((s.port 3).state, (s.port 3).lanes, (s.port 3).peer) = (.timeLocked, 2, 9) ∧ ((s.port 4).state, (s.port 4).lanes) = (.down, 0) ∧
    (s.timeRoot, s.parent, s.time, s.err) = (9, some 3, 1234, 5) := by
  decide +kernel

/-- Whether an outcome is a fault for want of memory. -/
def absent (o : Host.Outcome State Fault Refusal) : Bool :=
  match o with
  | .fault (.noMemory _) => true
  | _ => false

/-- REGISTER WRITE, POWER WRITE, HOST WINDOW WRITE and the thermal events (R28, R441 to R449). -/
theorem test_registers :
    let s := { base with bar0 := readyBar }
    let bar := fun (i : Instr) (p : Bar0 → Bool) => does i s (fun t => p t.bar0)
    bar (.registerWrite ⟨0x28, nowhere⟩ 5) (fun b => b.arg0 = 5) ∧ bar (.registerWrite ⟨0x50, nowhere⟩ 128) (fun b => b.evsize = 128) ∧
    bar (.registerWrite ⟨0x40, nowhere⟩ 0x3FFFFFFFF) (fun b => b.winbase = 0x200000000) ∧ bar (.registerWrite ⟨0x20, nowhere⟩ 0x201) (fun b => b.cmd = 0x201 && b.cmdState = 1) ∧
    bar (.registerWrite ⟨0x20, nowhere⟩ 0x206) (fun b => b.cmdState = 3 && b.reason = 4) ∧ bar (.powerWrite 2000 0) (fun b => b.power = 2000) ∧
    bar (.registerWrite ⟨0x70, nowhere⟩ 999) (fun b => b.power = 7500) ∧ bar (.powerCapping 8000) (fun b => b.capping && b.watts = 8000) ∧
    does (.hostWindowWrite 8 [1, 2]) s (fun t => t.dram.read 8 2 = [1, 2]) ∧
    absent (exec (.hostWindowWrite 8 [1, 2]) { s with bar0 := { readyBar with winbase := BitVec.ofNat 64 (dramSize - dramSize % 2 ^ 33 + 2 ^ 33) } }) ∧
    does (.thermalTrip 2) { s with bar0 := { readyBar with capping := true } } (fun t => t.hotDies = [2] && t.bar0.hottest = 105 && (t.ctx 1).state = .pausing) ∧
    does .thermalClear { s with hotDies := [2], bar0 := { readyBar with hottest := 105 } } (fun t => t.hotDies = []) := by
  decide +kernel

/-- A step runs what stands at the PC (R82): NOP, x3 = x1 + x2, and a word that is none. -/
def atWord (w : Nat) : State := { (State.reset.withFetchWord 96 w).modThread 0 (fun t => (t.setX 1 5).setX 2 6) with me := 0 }

/-- Whether a step leads to a state that is so. -/
def runs (s : State) (p : State → Bool) : Bool :=
  match step s with
  | .next t => p t
  | _ => false

theorem test_step :
    let add := 0x01 + 1 * 2 ^ 7 + 3 * 2 ^ 19 + 1 * 2 ^ 27 + 2 * 2 ^ 35
    (atWord add).agenda = [.issue 0] ∧ ((slotsOf 0).filter (atWord add).mayIssue) = [0] ∧ (atWord add).validTarget 0 0x10000 ∧
    runs (atWord add) (fun t => (t.thread 0).getX 3 = 11 && (t.thread 0).pc = 0x1000C && t.agenda = []) ∧
    runs (atWord 0x7F) (fun t => (t.thread 0).raised.map (fun r => (r.code, r.field)) = some (.illegal, 1) && (t.thread 0).pc = 0x10000) := by
  decide +kernel

/-- A cycle passes where nothing is due, and every core with a slot that may issue is next. -/
theorem test_step_tick :
    let s := { atWord 0 with agenda := [] }
    (s.firstDue s.candidates).isNone ∧ runs s (fun t => t.clock = s.clock + 1 && t.agenda.contains (.issue 0)) ∧
    runs { s with agenda := [.event .thermalClear] } (fun t => t.agenda = []) := by
  decide +kernel

/-- The bytes of an instruction fetched at the start of the placed code. -/
def fetched (s : State) : Option Nat :=
  match State.fetchWords 0 3 0x10000 (s.passOver 0 [0] 0) with
  | (_, .bytes bs) => some (bytesWord bs).toNat
  | _ => none

/-- The fetch of the StepRunsDecoded statement gives the bytes (R82). -/
theorem test_fetch : fetched { atWord 0x7F with agenda := [] } = some 0x7F := by decide +kernel

/-- The machine after reset (R446), and its invariant. -/
theorem test_reset_memory : State.reset.dram.wf ∧ State.reset.hostMem.wf ∧ State.reset.threads = [] ∧ State.reset.bar0.status = 0 := by decide +kernel
/-! ## The forms that only some states meet -/

/-- Two slots that may issue: the one with the lower number goes first, and the other is passed over (R313); a stored word does not change
a line that the tile's instruction cache holds (R20, R113). -/
theorem test_step_two_slots :
    let add := 0x01 + 1 * 2 ^ 7 + 3 * 2 ^ 19 + 1 * 2 ^ 27 + 2 * 2 ^ 35
    let two := (atWord add).setThread 1 ((atWord add).thread 0)
    let may := (slotsOf 0).filter two.mayIssue
    may = [0, 1] ∧ two.choice (may.filter two.ready) = some 0 ∧
    runs two (fun t => (t.thread 0).getX 3 = 11 && (t.thread 1).count = 1 && (t.thread 1).pc = 0x10000) ∧
    (match step (atWord add) with
     | .next t => runs { t.modThread 0 (fun t => (t.setX 3 0).setX 1 7 |> fun t => { t with pc := 0x10000 }) with
         dram := t.dram.write 0x10000 (wordBytes 0x7F), agenda := [.issue 0] } (fun t => (t.thread 0).getX 3 = 13)
     | _ => false) = true := by
  decide +kernel

/-- ARRIVE, SYNC and DROP drain first (R241): an earlier write within the level is not acknowledged. -/
theorem test_bar_drains :
    let w := flying base (.store false) none .none (mkPart (BitVec.ofNat 64 (0xE * 2 ^ 60 + 2 ^ 46 + 64)) 8 0 [])
    let o := bo (.x 0) (.x 0) (.x 0) 2 5 0
    let waits := fun (i : Instr) => acts i w (fun t => t.cur.status = .parked && t.cur.wait = some (.drain 2 0) && t.cur.pc = base.cur.pc && t.barMsgs = [])
    waits (.barArrive o) ∧ waits (.barSync o) ∧ waits (.barDrop o) := by
  decide +kernel

/-- GRP.REGS while a special function's result is due in a register that it gives up (R309), LDFE with no active lane (R164; the
model's choice), and QUE.PUSH to a queue that another package reads (R282). -/
theorem test_rare_issues :
    let regs := fun (x : BitVec 40) => Instr.grpRegs ⟨⟨0, false, false⟩, ⟨true, false, false⟩, .i64, .x 0, .x 0, .x 0, x⟩
    let due := base.modCore 0 (fun c => { c with sfu := [⟨1, .f32, .v 40, 0xFFFF, 0, 0⟩] })
    let s := (ms (own 64) 8 0).modCur (fun t => t.setK 1 0xFFFF)
    let far := fun (s : State) => { s.modPort 0 (fun p => { p with state := .up, lanes := 4, peer := 9 }) with routes := [(9, some 0)] }
    let pushed := fun (s : State) => acts (.quePush (ops .i64 (.x 0) (.x 1) (.x 2) 0)) s (fun t =>
      t.cur.wait = some (.pushRoom 0) || ((t.queue 1 0).pushes.length = 1 && t.cur.pc = base.cur.pc + 12))
    (due.busyRegs 0).any (regBeyond 32 8) ∧ acts (regs 0x9000000) due (fun t => t.cur.pc = base.cur.pc && t.cur.vn = base.cur.vn) ∧
    acts (.vlsLdfe { ops .i32 (.v 4) (.x 1) (.x 0) 1 with g := ⟨1, true, true⟩ }) s (fun t => t.accs = [] && t.cur.pending (.v 4)) ∧
    pushed (far (queued (own 256) (fun k => { k with pkg := 9 }))) := by
  decide +kernel

/-- BTY 15 has its own subfield's code, BTY equal to TY is BTY 0 (R200, R450); B where SEL of STAT forbids it is SEL's (R450). -/
theorem test_field_codes :
    let m := fun (bty : Nat) => ops .bf16 (.x 0) (.x 1) (.x 2) (BitVec.ofNat 40 (0x2000000 + bty * 2 ^ 35))
    fieldFault 0x18 0x01 (m 15) = 10 ∧ fieldFault 0x18 0x01 (m 10) = 0 ∧ fieldFault 0x18 0x01 (m 0) = 0 ∧
    fieldFault 0x20 0x02 (ops .i64 (.x 3) (.x 1) (.x 2) 0) = 10 := by
  decide +kernel

/-- QNT of a block with a NaN advances the generator all the same (R48, R58). -/
theorem test_qnt_generator :
    acts (.vcvQnt (ops .e4m3 (.v 4) (.v 1) (.v 2) 0x20004D0)) (vs (fill 32 0x7FC00000) (fill 32 0x3F800000) 0 0) (fun t =>
      scaleByte (t.cur.getS 0) 0 = 0xFF && t.cur.srstate != base.cur.srstate) ∧
    WellFormed (.vcvQnt (ops .e4m3 (.v 4) (.v 1) (.v 2) 0x20004D0)) := by
  decide +kernel

/-- A fault reported while the context pauses is kept (R251); a full granule for which another load waits is not taken (R177); the
runs of one remote operation are performed together (R230). -/
theorem test_memory_forms :
    let p := { mkPart 0x8000 8 0 [] with stage := Stage.refused .page }
    let pausing := base.modCtx 1 (fun c => { c with state := .pausing })
    let s := ((base.modCore 1 (fun k => { k with part := placedImage.partWord, owner := some (placedId, 0) })).poolWrite 1 64 [1, 2, 3, 4]).setFull 1 64 true
    let va := BitVec.ofNat 64 (0xE * 2 ^ 60 + 2 ^ 46 + 64)
    let one := flying s (.consume true) (some (.x 3)) (.scalar .i32) (mkPart va 4 0 [])
    let both := { one with accs := one.accs ++ one.accs.map (fun a => { a with
      id := 5, parts := a.parts.map (fun p => { p with stage := .table, loc := some (.pool 1 64) }) }) }
    let come := { base with dram := base.dram.write 0x20000 [1, 2, 3, 4], inbox := [⟨0, 5, 1, .remoteOp 77 1 0x20000 (.scatter [(0, [8]), (2, [9])])⟩] }
    pausing.deferring 0 ∧ does (.remoteFaultReport 0 0 false) (flying pausing (.store false) none .none p) (fun t =>
      t.cur.raised.isNone && t.cur.reports.map (fun r => r.code) = [.page]) ∧
    does (.poolAccessArrival 0 0) both (fun t => (t.findAcc 0).map (fun a => a.parts.map Part.stage) = some [.table]) ∧
    does (.remoteOperation false) come (fun t => t.dram.read 0x20000 4 = [8, 2, 9, 4] && lookAt [] t.remLog 5 = [(77, .done)]) := by
  decide +kernel

/-- RETRY of a PAGE leaves the thread faulted until the house kernel has acted (R311); a fault of a wider node comes first (R318). -/
theorem test_fault_forms :
    let p := { mkPart 0x8000 8 0 [] with stage := Stage.reported .page }
    let s := flying (faulted .page (.access 0 0) 0x55) (.store false) none .none p
    let wide := (faulted .trap .own 0x0E).setThread 1 { (faulted .trap .own 0x0E).cur with raised := some ⟨.pool, 0, 0, 0, .own⟩ }
    does (.faultDelivered 0) s (fun t => t.cur.status = .faulted && t.cur.raised.isNone && t.cur.retrying = some (.access 0 0)) ∧
    (faulted .trap .own 0xAA).widerFault 0 1 = false ∧ wide.widerFault 0 1 = true ∧
    does (.faultDelivered 0) wide (fun t => t = wide || (t.ctx 1).state = .faulted) := by
  decide +kernel

/-- A cue for a thread of this package whose context no longer releases is held (R334, R348). -/
theorem test_cue_held_in_pause :
    let s := (mapped base).modCtx 1 (fun c => { c with state := .pausing, pause := some { newPause 40 [] 0 false none with stopped := true } })
    s.releases 1 = false ∧ (s.placeOf placedId 0).isSome ∧
    does (.cueHold 9) { s with cues := [cue9 .inFlight 0 5] } (fun t => (t.findCue 9).map (fun c => c.place) = some .held) := by
  decide +kernel

/-- A disabled queue keeps what was dispatched, a packet for another package's queue goes there, and one that came from there waits
(R278, R282). -/
theorem test_queue_forms :
    let far := fun (s : State) => { s.modPort 0 (fun p => { p with state := .up, lanes := 4, peer := 9 }) with routes := [(9, some 0)] }
    let p : Push := { origin := 0, sent := false, pos := none, packet := markPacket, level := 0, top := 0, launch := placedId, gidx := 0, after := [], acc := 0 }
    does (.queueDisable 1 0) (working markPacket id) (fun t => (t.queue 1 0).entries.map (fun e => e.stale) = [true] && !(t.queue 1 0).enabled) ∧
    does (.queuePushWrite 1 0) (far (served { ring with device := true, pkg := 9, pushes := [p] } [])) (fun t =>
      (t.queue 1 0).pushes = [] && outbox t 0 = [] && (t.port 0).queues.any (fun q => q.2.any (fun f => f.msg.isSome))) ∧
    does (.flitReceived 0 (mkFlit 1 9 0 (some (.push 1 0 markPacket placedId 0 0 0 5))).sealed) (far (served ring [])) (fun t =>
      (t.queue 1 0).pushes.map (fun p => p.origin) = [9]) := by
  decide +kernel

/-- LOAD asks the other packages for what they have loaded (R247); a descriptor past the end of memory (R444). -/
theorem test_load_forms :
    let built := (commandOf 2 2 0 0x3000 base).setCtx 2 { Ctx.absent with state := .built, peers := [9], desc := { Desc.zero with asid := 2, qcount := 1 } }
    let far := fun (s : State) => { s.modPort 0 (fun p => { p with state := .up, lanes := 4, peer := 9 }) with routes := [(9, some 0)] }
    let ends := fun (i : Instr) (s : State) (st reason : Nat) => does i s (fun t => t.bar0.cmdState = st && t.bar0.reason = reason)
    does (.load 2) (far built) (fun t => (t.ctx 2).asking = some [9] && t.bar0 = built.bar0) ∧
    does .loadAgreement { far built with inbox := [⟨0, 9, 0, .loadAsk 2⟩] } (fun t => t.inbox = [] && outbox t 0 = [some (.loadTell 2 none)]) ∧
    does .loadAgreement { (far built).modCtx 2 (fun c => { c with asking := some [9] }) with inbox := [⟨0, 9, 0, .loadTell 2 (some [1])⟩] } (fun t =>
      (t.ctx 2).asking = some [] && (t.ctx 2).told = [[1]]) ∧
    ends (.load 2) ((far built).modCtx 2 (fun c => { c with asking := some [], told := [[1]] })) 3 1 ∧
    ends (.create 2 []) (commandOf 1 2 (BitVec.ofNat 64 (2 ^ 64 - 64)) 0 base) 3 3 := by
  decide +kernel

/-- The last thread of a launch's last gang has ended (R302, R303), and a save that does not fit its area faults the context
(R457). -/
theorem test_launch_and_save_forms :
    let ended := base.modCur (fun t => { t with status := .retired })
    let p : Pause := { newPause 40 [] 0 false none with stopped := true, saveTold := true }
    let s := (paged waiting).modCtx 1 (fun c => { c with state := .pausing, pause := some p, desc := { c.desc with saveAddr := 0xC000, saveSize := 8 } })
    (match execPartEnded 1 0 1 ended with
     | .next t => t.launches.map (fun a => (a.state, a.gangs.map Gang.ended)) = [(.finishing, [[0]])]
     | _ => false) = true ∧
    s.saveReady 1 ∧ does (.saveComplete 1) s (fun t => (t.ctx 1).state = .faulted) := by
  decide +kernel

/-- A flit that is not the last of its message is taken, and delivers nothing (R420, R423). -/
theorem test_flit_not_last :
    does (.flitReceived 0 (({ flitOf 0 (.hostDone placedId) with last := false, msg := none } : Flit).sealed)) (busyPort id) (fun t =>
      (t.port 0).rxSeq = 6 && t.cues = [] && t.inbox = []) := by
  decide +kernel

/-- What the host reads (R442, R443): ID, and CMDSTAT once STATUS is ready; and the queue of the manual's doorbell. -/
theorem test_host_reads :
    let s := { base with bar0 := { Bar0.reset with status := 2, cmdState := 3, reason := 4 } }
    base.readRegister 0 = 0x01B05A04 ∧ s.readRegister 0x38 = 0x403 ∧ s.readRegister 8 = 2 ∧
    { s with bar0 := { s.bar0 with status := 1 } }.readRegister 0x38 = 0 ∧ doorbellOf 0x91828 = (0x123, 5) := by
  decide +kernel

/-- An invalidation waits for a fetch from another package that was translated through a leaf it drops (R410). -/
theorem test_invalidation_waits :
    let s := { (mapped base).modCur (fun t => { t with fetchOps := [(7, 0x8000)] }) with opsOut := [⟨7, 9, 1, 0x8000, some (homeStation 0x8000 1, 4)⟩] }
    let s := s.setStation (homeStation 0x8000 1) ((s.station (homeStation 0x8000 1)).fill ⟨cacheSet 0x8000 1, 1, 0, 4, 0, 0⟩)
    does (.invalidation (.asid 1) []) s (fun t => t.invals.map (fun i => (i.ops, t.invalOver i)) = [([7], false)]) := by
  decide +kernel
/-! ## What the statements of the second review say -/

/-- ROUND (R46 to R50): a tie in FP16, the largest value and the next tie of E4M3, a random bit above and below the rest, a sticky value. -/
theorem test_round :
    roundF .f16 0 false false 0 (.fin false 2049 0 false) = (0x6800, flagNX) ∧ roundF .f16 0 false false 0 (.fin true 2051 0 false) = (0xE802, flagNX) ∧
    roundF .e4m3 0 false false 0 (.fin false 464 0 false) = (0x7E, flagNX) ∧
    roundF .e4m3 0 false false 0 (.fin false 465 0 false) = (0x7F, flagOF + flagNX) ∧
    roundF .e4m3 0 true false 0 (.fin true 465 0 false) = (0xFE, flagOF + flagNX + flagSAT) ∧
    roundF .bf16 4 false false 0x8000 (.fin false 257 (-8) false) = (0x3F81, flagNX) ∧
    roundF .bf16 4 false false 0x7FFF (.fin false 257 (-8) false) = (0x3F80, flagNX) ∧
    roundF .f32 2 false false 0 (.fin false (2 ^ 64) 0 true) = (0x5F800001, flagNX) ∧
    roundF .f32 1 false false 0 (.fin false (2 ^ 64) 64 true) = (0x7F7FFFFF, flagOF + flagNX) ∧
    roundF .f32 0 false false 0 (.fin false 1 (-150) false) = (0, flagUF + flagNX) ∧
    roundF .e5m2 0 false false 0 (.inf true) = (0xFC, 0) ∧ roundF .e2m1 0 false false 0 .nan = (0, flagNV) ∧
    roundF .e2m1 0 false false 0 (.fin false 7 0 false) = (7, flagOF + flagNX + flagSAT) := by
  decide +kernel

/-- ST.CLR of a range that the core may not reach, in each pool space (R171, R178). -/
theorem test_st_clr_range :
    let i := Instr.stClr (ops .i64 (.x 0) (.x 1) (.x 2) 0)
    stops i (ms (own (poolSize - 16)) 32 0) .pool 0 (own (poolSize - 16)) ∧ spaceOf (any' (2 ^ 32)) = .any ∧
    (checkAddr (base.core 0).part (any' (2 ^ 32)) 32).isSome ∧ stops i (ms (any' (2 ^ 32)) 32 0) .pool 0 (any' (2 ^ 32)) := by
  decide +kernel

/-- The tag of a TIMER on both sides of the current one, and a block sent as BF16 (R338, R340). -/
theorem test_timer_and_wire :
    let one := fun (i : Instr) (s : State) (p : CueMsg → Bool) => acts i s (fun t => match t.cues with
      | [c] => p c.msg
      | _ => false)
    let timer := Instr.cueTimer (ops .i64 (.x 0) (.x 4) (.x 2) 0)
    let s := (xs 0 0 30).modCur (fun t => { t with tagT := 20, baseT := 10, baseM := 4 })
    let recv := (imaged (fun g => { g with handlers := [⟨0, 0, 0, 4096, 1024⟩] })).poolWrite 0 256 (leBytes 4 0x3F808001)
    let block := Instr.cuePostb (ops .i64 (.x 0) (.x 1) (.x 2) (2 ^ 30))
    one timer s (fun m => m.tagT = 30 && m.tagM = 0) ∧ one timer (s.modCur (fun t => t.setX 4 20)) (fun m => m.tagT = 10 && m.tagM = 4) ∧
    one block (recv.modCur (fun t => t.setX 2 (own 256))) (fun m => m.wire = 1 && m.payload.take 4 = leBytes 4 0x3F810000 && m.len = 16) := by
  decide +kernel

/-- CUE.END releases the first cue where it may be, and leaves it where it may not (R324, R342). -/
theorem test_end_releases :
    let e := Instr.cueEnd (ops .i64 (.x 0) (.x 0) (.x 0) 0)
    let place := fun (t : State) => t.cues.map (fun c => c.place)
    acts e { base with cues := [cue9 (.stored 0) 0 5], time := 50 } (fun t => place t = [.released 0]) ∧
    acts e { base with cues := [cue9 (.stored 0) 0 50], time := 49 } (fun t => place t = [.stored 0]) := by
  decide +kernel

/-- Entry 0 with its ACK, towards entry 5 of tile 0, with a member that joined from entry 6 of tile 2; its slot begins with 2.0. -/
def sending (f : ChainEntry → ChainEntry) : State :=
  ((opened .sending 0).poolWrite 0 (slotOff 0) [0, 0, 0, 0x40]).modChain 0 0 (fun e =>
    f { e with ackIn := true, next := 1, nextEntry := 5, joined := [(4, 2, 6)] })

/-- A relay that holds strip 0 of its predecessor, all ones. -/
def relaying (e : ChainEntry) : ChainEntry := { e with role := 1, staged := [(0, 8, false, List.replicate 1024 0x3F800000#32)] }

/-- The strips on the network: where each goes, its number and first word. -/
def stripsOf (t : State) : List (Nat × Nat × Nat × List Nat) :=
  t.strips.map (fun p => (p.tile, p.entry, p.strip, (p.data.take 1).map BitVec.toNat))

/-- ACC.SEND (R355, R357, R363): what an acknowledged source sends and a relay adds, the ACK after the last strip, and a target. -/
theorem test_send_ready : (sending id).writersDone ((sending id).chain 0 0) ∧ (sending id).toRelay ((sending id).chain 0 0) = false ∧ (sending id).halted 1 = false := by
  decide +kernel

/-- An ACC.SEND of one strip, or of two. -/
def sends (x : BitVec 40) : Instr := .accSend (ops .i64 (.x 0) (.x 1) (.x 0) x)

theorem test_send_two : acts (sends 0x4000000) (sending id) (fun t => stripsOf t = [(0, 5, 0, [0x40000000]), (0, 5, 1, [0])] &&
    t.chainMsgs.map ChainMsg.toEntry = [some 6] && kinds t = [.ack]) := by
  decide +kernel

theorem test_send_one : acts (sends 0) (sending id) (fun t => stripsOf t = [(0, 5, 0, [0x40000000])] && kinds t = []) := by
  decide +kernel

theorem test_send_relay : acts (sends 0) (sending relaying) (fun t => stripsOf t = [(0, 5, 0, [0x40400000])]) := by
  decide +kernel

theorem test_send_target : acts (sends 0) (sending (fun e => { e with role := 2 })) (fun t => t.strips = []) := by
  decide +kernel

/-- The BREAK messages of ACC.BREAK (R369, R370). -/
theorem test_break_messages :
    let brk := Instr.accBreak (ops .i64 (.x 0) (.x 1) (.x 0) 0)
    let s := fun (st' : ChainState) => (opened st' 0).modChain 0 0 (fun e => { e with nextEntry := 5, joined := [(4, 2, 6)] })
    let told := fun (t : State) => t.chainMsgs.map (fun m => (m.kind, m.toCore, m.toEntry))
    acts brk (s .sending) (fun t => told t = [(.brk 3, 1, some 5), (.brk 3, 16, some 6)]) ∧
    acts brk (s .joining) (fun t => told t = [(.brk 3, 1, none), (.brk 3, 16, some 6)]) ∧ acts brk (s .broken) (fun t => told t = []) := by
  decide +kernel

/-- Thread 1 of a tree of two, the first of which, and with it the home of the barriers of their node, is on package 9. -/
def farHome : State :=
  let s := (imaged (fun g => { g with levels := [⟨1, 0xFF, 0, 0, 1⟩, ⟨2, 0xFF, 0, 0, 2⟩, ⟨3, 0xF6, 0, 0, 1⟩] })).modCur (fun t => { t with gidx := 1 })
  { s with launches := s.launches.map (fun (a : Launch) => { a with
      gangs := a.gangs.map (fun g => { g with cores := [(9, 0), (0, 0)], threads := [(9, 0, 0, 0), (0, 0, 1, 0)] }) }) }

/-- A BAR instruction waits for an entry at its home tile: of a full table here, or of another package, which it asks once (R378). -/
theorem test_bar_stalls :
    let full := (List.range 64).foldl (fun (s : State) n =>
      s.setBar 0 n (some { Tile.newBar (base.tile 0) (base.barKey 1 n) with key := { base.barKey 1 n with obj := 100 + n } })) base
    let o := fun (d a b : Reg) => bo d a b 2 5 0
    let stalled := fun (t : State) => t.cur.status = .stalled && t.cur.wait = some (.barRoom 2 5) && t.cur.pc = base.cur.pc
    let asked := farHome.modCur (fun t => { t with barAsk := some (2, 5, false) })
    let granted := farHome.modCur (fun t => { t with barAsk := some (2, 5, true) })
    farHome.myHome (farHome.barKey 2 5) = (9, 0) ∧
    ∀ i ∈ [Instr.barArrive (o (.x 0) (.x 0) (.x 0)), .barSync (o (.x 3) (.x 0) (.x 0)), .barInit (o (.x 0) (.x 1) (.x 2)), .barDrop (o (.x 0) (.x 0) (.x 0))],
      acts i full stalled ∧ acts i asked (fun t => stalled t && t.barMsgs = []) ∧
      acts i farHome (fun t => stalled t && t.barMsgs.map (fun f => f.msg) = [.ask (farHome.barKey 2 5) farHome.myId]) ∧
      acts i granted (fun t => t.cur.wait != some (.barRoom 2 5) && t.cur.barAsk.isNone && t.barMsgs.length = 1) := by
  decide +kernel

/-- INIT (R383 to R385): already made, freed at once, and arrivals that reach the count; LINE with the arrivals that do (R390). -/
theorem test_init_corners :
    let init := Instr.barInit (bo (.x 0) (.x 1) (.x 2) 2 0 0)
    let line := Instr.barLine (bo (.x 0) (.x 1) (.x 0) 2 0 (5 * 2 ^ 29))
    let at' := fun (t : State) => lookAt none (t.tile 0).bars 3
    let held := fun (s : State) (f : Barrier → Barrier) => s.setBar 0 3 ((lookAt none ((pending base []).tile 0).bars 3).map f)
    let kinds := fun (t : State) => t.barMsgs.map (fun f => f.msg)
    acts init (held (xs 2 9 0) (fun b => { b with init := true, count := 7 })) (fun t => (at' t).map Barrier.count = some 7 && kinds t = []) ∧
    acts init (held (xs 0 9 0) (fun b => { b with dropped := [base.myId] })) (fun t => at' t = none && kinds t = [.freed (base.barKey 2 0) base.myId]) ∧
    acts init ((xs 0 9 0).modTile 0 (fun t => { t with departed := [⟨placedId, 2, 0, base.myId⟩] })) (fun t =>
      kinds t = [.freed (base.barKey 2 0) base.myId] && (t.tile 0).bars = (base.tile 0).bars) ∧
    acts init (held (xs 2 9 0) (fun b => { b with arrived := [base.myId, base.myId] })) (fun t =>
      kinds t = List.replicate 2 (.release (base.barKey 2 0) base.myId 0 true false false 0) && (at' t).map Barrier.phase = some 1) ∧
    acts line (curtain (fun b => { b with arrived := [base.myId] })) (fun t => kinds t = [.release (base.barKey 2 0) base.myId 0 true false false 40] &&
      (at' t).map (fun b => (b.bound, b.phase)) = some (true, 1)) := by
  decide +kernel

/-- Messages at a barrier's home (R378, R383 to R385): an arrival that makes an entry or is held, an ask, a drop that completes the
phase, frees the barrier or is held, and a node that has gone. -/
theorem test_home_forms :
    let key := base.barKey 2 5
    let at' := fun (t : State) => lookAt none (t.tile 0).bars 3
    let kinds := fun (t : State) => t.barMsgs.map (fun g => g.msg)
    let other : ThreadId := ⟨placedId, 7⟩
    let comes := fun (s : State) (m : BarMsg) (p : State → Bool) => s.barsHere m && s.barPkg m = some s.pkg && s.msgTile m = some 0 &&
      does (.barrierArrival 0) (card s m) p
    comes base (.arrive key me false) (fun t => (lookAt none (t.tile 0).bars 0).map (fun b => (b.arrived, b.init)) = some ([me], false)) ∧
    comes (barred (fun b => { b with init := false, count := 0 })) (.arrive key me false) (fun t => (at' t).map (fun b => b.arrived) = some [me] && kinds t = []) ∧
    comes (barred id) (.ask key me) (fun t => kinds t = [.room key me]) ∧
    comes (barred (fun b => { b with arrived := [other] })) (.drop key me false) (fun t =>
      (at' t).map (fun b => (b.count, b.phase)) = some (1, 1) && kinds t = [.release key other 0 true false false 0]) ∧
    comes (barred (fun b => { b with count := 1 })) (.drop key me false) (fun t => at' t = none && kinds t = [.freed key me]) ∧
    comes (barred (fun b => { b with init := false, count := 0 })) (.drop key me false) (fun t =>
      (at' t).map (fun b => (b.count, b.dropped)) = some (0, [me])) ∧
    (let s := (barred id).modLaunch placedId (fun a => { a with gangs := a.gangs.map (fun g => { g with left := true }) })
     s.nodeGone key.launch key.level key.node → comes s (.arrive key me false) (fun t => kinds t = [] && t.tile 0 = s.tile 0)) := by
  decide +kernel

/-- A release that the thread had not arrived for (R387): with an entry, without one, with eight others; and the answer to an ask (R378). -/
theorem test_missed_release :
    let key := base.barKey 2 5
    let m := BarMsg.release key me 4 true true true 0
    let asking := base.modCur (fun t => { t with barAsk := some (2, 5, false) })
    does (.barrierRelease 0) (card (member false false) m) (fun t => t.cur.members = [{ newMember 2 5 true with }]) ∧
    does (.barrierRelease 0) (card base m) (fun t => t.cur.members = [newMember 2 5 true]) ∧
    does (.barrierRelease 0) (card fullMembers m) (fun t => t.cur.raised = some ⟨.barOverrun, 0, 2, base.cur.pc, .barrier false⟩) ∧
    does (.barrierRelease 0) (card asking (.room key me)) (fun t => t.cur.barAsk = some (2, 5, true)) := by
  decide +kernel

/-- A duplicate strip of a strict chain tells the thread that sent it (R357). -/
theorem test_chain_dup :
    let s := (aim (fun e => { e with rx := [(1, 1)], count := 1, strict := true, asid := 1 })).setChain 1 3 { ChainEntry.free with
      state := .sending, asid := 1, chain := 7, member := 1, sendPc := 0x10000, tid := 0 }
    does (.stripAccepted 0 0 1) (strip 0 32 s) (fun t => t.cur.raised = some ⟨.chainDup, 0, 0, 0x10000, .chain 1 3⟩ && kinds t = [.credit 0]) ∧
    does (.stripAccepted 0 0 1) (strip 0 32 (s.setChain 1 3 ChainEntry.free)) (fun t => t.cur.raised.isNone) := by
  decide +kernel
/-- RETRY replayed and refused again (R312): the thread stops again at once; an access behind another thread's of its region waits (R405). -/
theorem test_refused_again :
    let p := { mkPart 0x8000 8 0 [] with stage := Stage.refused .page }
    let s := (flying (faulted .page (.access 0 0) 0x55) (.store false) none .none p).modCur (fun t => { t with raised := none, retrying := some (.access 0 0) })
    let w := flying base .load (some (.x 3)) (.scalar .i64) { mkPart 0x8000 8 0 [] with stage := .walking }
    let two := { w with accs := w.accs ++ (flying base .load (some (.x 9)) (.scalar .i64) (mkPart 0x9000 8 0 [])).accs.map (fun a => { a with id := 5, tid := 4 }) }
    does (.remoteFaultReport 0 0 false) s (fun t => t.cur.status = .faulted && t.cur.retrying.isNone &&
      t.cur.raised.map (fun r => (r.code, r.data, r.src)) = some (.page, 0x8000, .access 0 0)) ∧
    does (.translationRequest 5 0) two (fun t => (t.findAcc 5).map (fun a => a.parts.map Part.stage) = some [.queued]) := by
  decide +kernel

/-- The walk up the levels, and what is permitted once (R316, R317). -/
theorem test_policy_walk :
    let r := fun (c : FaultCode) (src : FaultSrc) => (⟨c, 3, 77, 0, src⟩ : Raised)
    let act := fun (p : BitVec 8) (f : State → State) (x : Raised) => (f (faulted x.code x.src p)).actionFor 0 x
    let replay := fun (s : State) => { s with accs := s.accs.map (fun a => { a with again := true }) }
    let busy := fun (s : State) => flying s .load (some (.x 3)) (.scalar .i64) (mkPart 0x8000 8 0 [])
    let entry := fun (b : Bool) (s : State) => s.setChain 0 0 { ChainEntry.free with state := .sending, retried := b }
    let up := fun (x : Raised) => (imaged (fun g => { g with levels := [⟨1, 0xFF, 0, 0, 1⟩, ⟨2, 0xAA, 0, 0, 1⟩, ⟨3, 0, 0, 0, 1⟩] })).actionFor 0 x
    act 0x55 busy (r .link (.access 0 0)) = .retry ∧ act 0x55 (fun s => replay (busy s)) (r .link (.access 0 0)) = .kill 0 ∧
    act 0x55 id (r .link .own) = .retry ∧ act 0x55 (fun s => s.modCur (fun t => { t with fetchAgain := true })) (r .link .own) = .kill 0 ∧
    act 0x55 (entry false) (r .chainTimeout (.chain 0 0)) = .retry ∧ act 0x55 (entry true) (r .chainTimeout (.chain 0 0)) = .kill 0 ∧
    act 0x55 id (r .barTimeout (.barrier false)) = .retry ∧ act 0x55 id (r .barTimeout (.barrier true)) = .kill 0 ∧
    act 0 id (r .barTimeout (.barrier false)) = .ignore ∧ act 0 id (r .pool .own) = .kill 0 ∧ up (r .pool .own) = .kill 1 ∧
    act 0xFF id (r .pool .own) = .root ∧ (base.levels 0).findIdx (fun v => v.bind = 1) = 0 := by
  decide +kernel

/-- RETRY of LINK and of CHAIN.TIMEOUT is noted (R316, R368). -/
theorem test_retry_noted :
    let acc := flying (faulted .link (.access 0 0) 0x55) (.store false) none .none { mkPart 0x8000 8 0 [] with stage := .reported .link }
    let entry := (faulted .chainTimeout (.chain 0 0) 0x55).setChain 0 0 { ChainEntry.free with state := .sending, elapsed := 9 }
    let goes := fun (s : State) (p : State → Bool) => does (.faultDelivered 0) s (fun t => t.cur.status = .running && t.cur.raised.isNone && p t)
    goes acc (fun t => t.accs.map (fun a => (a.again, a.parts.map Part.stage)) = [(true, [.port])]) ∧
    goes (faulted .link .own 0x55) (fun t => t.cur.fetchAgain) ∧
    goes entry (fun t => (t.chain 0 0).retried && (t.chain 0 0).elapsed = 0) := by
  decide +kernel

/-- INVALIDATION COMPLETE of one that is not the first (R410). -/
theorem test_invalidation_second :
    let i : Inval := ⟨.asid 1, [], [7]⟩
    let j : Inval := ⟨.asid 1, [], []⟩
    let s := { base with invals := [i, j], opsOut := [⟨7, 9, 1, 0x8000, none⟩] }
    s.invalOver i = false ∧ does .invalidationComplete s (fun t => t.invals = [i]) := by
  decide +kernel

/-- A block staged as its cue arrives, and what the agent writes of it, of a held cue and of a cell that is free again (R333, R336). -/
theorem test_overflow_writes :
    let block := { cue9 .inFlight 0 5 with msg := { (cue9 .inFlight 0 5).msg with block := true, len := 32, payload := List.replicate 32 7 } }
    let jobs := fun (s : State) (j : OvfJob) => s.modCtx 1 (fun c => { c with ovfTodo := [(j, placedId)] })
    let wrote := fun (s : State) (p : State → Bool) => (match execOverflowUpdate 1 s with
      | .next t => p t
      | _ => false) = true
    let at' := fun (t : State) (cell n len : Nat) => t.dram.read (0x21000 + 64 + 128 * cell + n) len
    does (.cueStore 9) { mapped base with cues := [block] } (fun t => t.cues.map (fun c => (c.place, c.block.isSome)) = [(.stored 0, true)] &&
      (t.ctx 1).ovfTodo = [(.block ((t.cues.head?.bind Cue.block).getD 9), placedId)]) ∧
    wrote (jobs { mapped base with cues := [{ block with place := .stored 0, block := some 1 }] } (.block 1)) (fun t =>
      at' t 1 0 32 = List.replicate 32 7 && (t.ctx 1).ovfTodo = []) ∧
    wrote (jobs { mapped base with cues := [{ cue9 .held 0 5 with cell := some 1 }] } (.cell 1)) (fun t => at' t 1 103 1 = [3]) ∧
    wrote (jobs { mapped base with cues := [], dram := base.dram.write (0x21000 + 64 + 128 + 103) [9] } (.cell 1)) (fun t => at' t 1 103 1 = [0]) := by
  decide +kernel

/-- Safe cues (R323), and an unsafe one that is not released. -/
theorem test_safe :
    let s := fun (c : Cue) (n : Word) => { base.modCur (fun t => { t with status := .asleep, inHandler := false }) with cues := [c], time := n }
    let c := cue9 (.stored 0) 0 5
    (s c 5).safe 0 c ∧ (s c 4).safe 0 c = false ∧ (s c 4).safe 0 { c with msg := { c.msg with late := true } } ∧
    does (.cueRelease 0) (s c 4) (fun t => t = s c 4) := by
  decide +kernel

/-- One word of a product (R55, R56): BF16 and E4M3 and I8 on the old word, and BLK; SCA of one word (R57). -/
theorem test_product_words :
    let one := fun (fn : Nat) (t : Ty) (x y c : Nat) => productWords fn t t false [List.replicate 32 x] (List.replicate 32 [y]) [[c]]
    one 1 .bf16 0x3F80 0x3F80 0x3F800000 = ([[0x42040000]], 0) ∧ one 1 .e4m3 0x38 0x40 0x3F800000 = ([[0x42820000]], 0) ∧
    (one 1 .i8 0xFF 3 1).1 = [[2 ^ 32 - 95]] ∧ one 2 .e2m1 2 4 0x3F800000 = ([[0x42800000]], 0) ∧
    scaWord 128 127 0x3F800000 0x40000000 = (0x40A00000, 0) ∧ scaWord 255 127 0 0 = (0x7FC00000, 0) := by
  decide +kernel

/-- The operands of a step at hand, as MatrixStepValues asks, all rows at one address. -/
theorem test_operands_at_hand :
    let here := (List.range 16).map (fun g => (own (16 * g), (Sum.inr (List.replicate 16 1) : Sum Loc (List Byte))))
    let hand := fun (c : MxCmd) => c.runs.all (fun r => (runBytes base here r).length = r.2)
    let c := { matrix 1 .accepted 0 32 with aaddr := own 0, baddr := own 0, astr := 0, bstr := 0 }
    hand c ∧ hand { c with fn := 2, ty := .e4m3, bty := .e2m1 } ∧ hand { c with fn := 6, total := 1 } := by
  decide +kernel

/-- One row of SCA, LOAD and XFER (R204, R206): its first word, and the bytes of its first granule. -/
theorem test_row_steps :
    let c := { matrix 6 .accepted 0 1 with aaddr := own 0, astr := 0 }
    let here := (List.range 16).map (fun g => (own (16 * g), (Sum.inr ([0x80, 0x3F] ++ List.replicate 14 0) : Sum Loc (List Byte))))
    let s := (base.poolWrite 0 (slotOff 0) [0, 0, 0x80, 0x3F]).poolWrite 0 (slotOff 1) [0, 0, 0, 0x40]
    Claims.slotWord (s.stepMx 0 c here) 0 0 0 0 = 0x3F800000 ∧ Claims.slotWord (s.stepMx 0 c here) 0 0 0 8 = 0x3F800000 ∧
    Claims.slotWord (s.stepMx 0 { c with fn := 3, pslot := 1, sa := 127, sb := 128 } []) 0 0 0 0 = 0x40A00000 ∧
    (c.runs.flatMap runGranules).Nodup ∧ s.xferBytes 0 { c with fn := 5 } (own 0) = [0x80, 0x3F] ++ List.replicate 14 0 := by
  decide +kernel
/-- A PC off its code section raises PCALIGN at the issue (R83), and the CRC of nine bytes (R420: the check value of CRC-64/ECMA-182). -/
theorem test_pcalign_and_crc :
    let s := (atWord 0).modThread 0 (fun t => { t with pc := 0x10004 })
    s.validTarget 0 0x10004 = false ∧ runs s (fun t => (t.thread 0).raised = some ⟨.pcalign, 0, 0x10004, 0x10004, .own⟩) ∧
    crc64 [0x31, 0x32, 0x33, 0x34, 0x35, 0x36, 0x37, 0x38, 0x39] = 0x6C40DF5F0B497347 := by
  decide +kernel

/-- QUE (R226, R282 to R284): the write that stands for a push; a ring of another package with and without room; the prompt book of a
queue never enabled here; a WAIT for an entry of another package's queue. -/
theorem test_queue_instructions :
    let push := Instr.quePush (ops .i64 (.x 0) (.x 1) (.x 2) 0)
    let stat := Instr.queStat (ops .i64 (.x 3) (.x 1) (.x 2) 0x800000)
    let wait := Instr.queWait (ops .i64 (.x 0) (.x 1) (.x 2) 0)
    let far := fun (n : Nat) => queued (own 256) (fun k => { k with pkg := 9, granted := n })
    let table := { paged (xs 0 6 0) with dram := base.dram.write 0x20000 (leBytes 8 0xA000 ++ leBytes 4 4 ++ List.replicate 20 0 ++ leBytes 8 0xB000 ++ List.replicate 24 0) }
    let book := fun (seq : Nat) (st' : BitVec 8) (lost : List Word) => ({ paged (xs 0 6 0) with
      dram := base.dram.write 0x22020 (leBytes 8 seq ++ List.replicate 4 0 ++ [st', 0, 0, 0]) }).setQueue 1 0 { ring with pkg := 9, pbook := 0xA000, lost := lost }
    let isOver := fun (s : State) => acts wait s (fun t => t.cur.pc = base.cur.pc + 12)
    let waits := fun (s : State) => acts wait s (fun t => t.cur.pc = base.cur.pc && t.cur.wait = some (.queue 0 6))
    acts push (queued (own 256) id) (fun t => t.accs.map (fun a => (a.op, a.id, a.isDone)) = [(.push, base.nextId, false)] &&
      (t.queue 1 0).pushes.map (fun p => p.acc) = [base.nextId]) ∧
    acts push (far 0) (fun t => t.cur.wait = some (.pushRoom 0) && t.cur.pc = base.cur.pc && t.accs = []) ∧
    acts push (far 2) (fun t => (t.queue 1 0).pushes.length = 1 && (t.queue 1 0).granted = 1) ∧
    acts stat table (fun t => t.accs.map (fun a => (a.ret, a.parts.map Part.va)) = [(.entry 6, [0xB020])] && t.cur.pc = base.cur.pc + 12) ∧
    isOver (book 7 1 []) ∧ isOver (book 6 2 []) ∧ waits (book 6 1 []) ∧ waits (book 2 2 []) := by
  decide +kernel

/-- A queue read by another package is enabled without a write to its table; the access of a push is over with its write; an urgent
head is ready (R263, R275, R278, R282). -/
theorem test_queue_corners :
    let entry := leBytes 8 0xA000 ++ leBytes 4 4 ++ [0, 1, 9, 0] ++ leBytes 8 3 ++ leBytes 8 9 ++ leBytes 8 0xB000
    let s := { served Queue.disabled [] with dram := base.dram.write 0x20000 entry }
    let one := (match exec (.quePush (ops .i64 (.x 0) (.x 1) (.x 2) 0)) (((served { ring with device := true } []).modCur (fun t => t.setX 2 (own 256)))) with
      | .next t => t
      | _ => base)
    let e := { entryOf .accepted (padded [7, 3]) with urgent := true }
    one.accs.length = 1 ∧ does (.queuePushWrite 1 0) one (fun t => t.accs = [] && (t.queue 1 0).write = 1) ∧
    (match base.headReady 1 0 e with
     | .ok (some true) _ => true
     | _ => false) = true ∧
    does (.queueEnable 1 0) s (fun t => (t.queue 1 0).enabled && (t.queue 1 0).pkg != t.pkg && t.dram = s.dram) := by
  decide +kernel

/-- A CUE packet with a port that its target's kernel has not (R272), and a SEND that only its own peer's acknowledgement ends (R273). -/
theorem test_packet_corners :
    let cue := padded ([2, 0] ++ List.replicate 30 0 ++ leBytes 4 0 ++ [5, 2, 1, 0] ++ leBytes 8 60 ++ leBytes 8 0x0201 ++ leBytes 8 0 ++ leBytes 8 2)
    let named := fun (s : State) => { s with launches := [{ placedLaunch s with id := ⟨1, 0, 2⟩ }] }
    let send := padded ([4, 0] ++ List.replicate 30 0 ++ [0, 3] ++ leBytes 2 9 ++ leBytes 4 7 ++ leBytes 8 0xC000 ++ leBytes 8 0xC100 ++ leBytes 8 64)
    let sent := linked (working send (fun e => { e with progress := 64, acted := true }))
    does (.cuePacket 1 0) (named (working cue id)) (fun t => (t.queue 1 0).lost = [1] && t.cues = []) ∧
    does (.collectiveStep 1 0) { sent with inbox := [⟨0, 8, 3, .collAck 1 7⟩] } (fun t => entryIs t (fun e => !e.ended)) ∧
    does (.collectiveStep 1 0) { sent with inbox := [⟨0, 9, 3, .collAck 1 7⟩] } (fun t => entryIs t (fun e => e.ended)) := by
  decide +kernel

/-- DESTROY and CLEAR wait for the marks (R279, R445), and an argument of ATTEST that does not lie in memory (R444). -/
theorem test_command_corners :
    let bad := fun (op : Nat) (owed : Bool) => (commandOf op 1 0 0 base).modCtx 1 (fun c => { c with state := .faulted, owed := if owed then [.event 3 0 0 0 0] else [] })
    does (.destroy 1) (bad 3 true) (fun t => t = bad 3 true) ∧ does (.clear 1) (bad 4 true) (fun t => t = bad 4 true) ∧
    does (.destroy 1) (commandOf 3 1 0 0 base) (fun t => (t.ctx 1).state = .faulted && t.cur.status = .killed && t.bar0.cmdState = 1) ∧
    does (.clear 1) (bad 4 false) (fun t => (t.ctx 1).state = .loaded && t.bar0.cmdState = 2) ∧
    does (.attest 1) (commandOf 5 1 (-16) 0x400 base) (fun t => t.bar0.cmdState = 3 && t.bar0.reason = 3) ∧
    does (.attest 1) (commandOf 5 1 0x100 (-16) base) (fun t => t.bar0.cmdState = 3 && t.bar0.reason = 3) := by
  decide +kernel

/-- Before its image is written a package tells the others that nothing is under way (R252). -/
theorem test_save_told :
    let p : Pause := { newPause 40 [] 0 false none with stopped := true }
    let s := linked ((paged waiting).modCtx 1 (fun c => { c with state := .pausing, pause := some p, peers := [9] }))
    s.saveReady 1 ∧ does (.saveComplete 1) s (fun t => (t.ctx 1).pause = some { p with saveTold := true } && outbox t 0 = [some (.saveReady 1)]) := by
  decide +kernel

/-- The last step of an XFER before the checkpoint (R216, R218). -/
theorem test_xfer_checkpoint :
    let c := { matrix 5 .running 0 16 with aaddr := own 0, astr := 256, baddr := 0 }
    let s := (putMx { c with staged := (c.runs.flatMap runGranules).map (fun g => (g, some [])) }).modCtx 1 (fun c => { c with state := .pausing, pause := some { newPause 0 [] 0 false none with stopped := true } })
    s.halted 1 ∧ does (.mxuGrant 0) s (fun t => headMx t (fun d => d.state = .checkpointed && d.progress = 8)) := by
  decide +kernel
/-- Flits that a receiver does not pass on (R420 to R422): a retry request, one out of its turn, one of a reserved kind, one with another
CRC, an idle flit with two credits; and a time stamp. -/
theorem test_flit_kinds :
    let f := flitOf 9 (.hostDone placedId)
    let s := busyPort (fun p => { p with replay := [{ f with seq := 6 }, { f with seq := 7 }] })
    let gets := fun (g : Flit) (p : Port → Bool) => does (.flitReceived 0 g) s (fun t => t.cues = s.cues && p (t.port 0))
    let bare := { f with msg := none }
    gets ({ bare with kind := .retry, ack := 6 } : Flit).sealed (fun p => p.replay.map Flit.seq = [7] && p.again.map Flit.seq = [7]) ∧
    gets ({ f with seq := 9 } : Flit).sealed (fun p => p.rxSeq = 5 && !p.retryDue && p.fails = 0 && p.heard = 20000) ∧
    gets ({ bare with kind := .reserved 9 } : Flit).sealed (fun p => p.retryDue && p.rxSeq = 5) ∧
    gets { f with crc := f.crc + 1 } (fun p => p.retryDue && p.rxSeq = 5) ∧
    gets ({ bare with kind := .idle, credit := 2, cvc := 1 } : Flit).sealed (fun p => p.rxSeq = 6 && p.credit s.pkg 1 = 6) ∧
    does (.flitReceived 0 (flitOf 0 (.stamp1 7))) s (fun t => t.inbox = [⟨0, 9, 1, .stamp1 7⟩]) := by
  decide +kernel

/-- A retry request for a flit that is not in the replay buffer any more, and for one that is sent again (R421). -/
theorem test_resends :
    let f := flitOf 9 (.hostDone placedId)
    let s := busyPort (fun p => { p with resends := 3, replay := [{ f with seq := 2 }] })
    does (.retryRequest 0 2) s (fun t => (t.port 0).replay = [] && (t.port 0).resends = 0) ∧
    does (.retryRequest 0 1) s (fun t => (t.port 0).again.length = 1 && (t.port 0).resends = 4) := by
  decide +kernel

/-- An idle flit that returns credits takes a SEQ (R421, R422). -/
theorem test_idle_with_credit :
    does (.flitTime 0) (busyPort (fun p => { p with freed := [(1, 3)] })) (fun t => (t.port 0).txSeq = 8 &&
      (t.port 0).replay.map (fun f => (f.kind, f.credit, f.cvc)) = [(.idle, 3, 1)] && (t.port 0).wire = (t.port 0).replay.head?) := by
  decide +kernel

/-- Corrected symbols of 1 ms (R419): as many as the threshold of four lanes, and one more. -/
theorem test_fec_failure :
    let s := fun (n lanes : Nat) => busyPort (fun p => { p with fixes := [(19000, n)], lanes := lanes })
    let port := fun (s : State) (p : Port → Bool) => (match execFecFailure 0 s with
      | .next t => p (t.port 0)
      | _ => false) = true
    port (s 1600 4) (fun p => p.lanes = 4 && p.state = .up) ∧ port (s 1601 4) (fun p => p.lanes = 2 && p.state = .degraded) ∧
    port (s 401 1) (fun p => p.state = .down) := by
  decide +kernel

/-- A remote operation in transit that a port held as it went down is answered with LINK (R430). -/
theorem test_port_fails_back :
    let f := { flitOf 9 (.remoteOp 77 1 0x20000 (.read 8)) with src := 8 }
    does (.peerLost 0) (busyPort (fun p => { p with heard := 10000, replay := [f], queues := [] })) (fun t =>
      t.unsent = [(2, 8, .remoteAck 77 (.refused .link))]) := by
  decide +kernel

/-- The end of an exchange at the child (R426, R427): the clock slewed or set, ERR and DELAY, an odd offset among them. -/
theorem test_stamp4 :
    let s := busyPort id
    let child := { s.modPort 0 (fun p => { p with exchange := some (100, 200, 200) }) with parent := some 0, timeRoot := 9, asym := 2 }
    let bare := child.modCtx 1 (fun c => { c with state := .absent })
    let came := fun (s : State) (t4 : Word) => { s with inbox := [⟨0, 9, 0, .stamp4 t4 5⟩] }
    does .timeStamp (came child 211) (fun t => t.slew = -89 && t.err = 52 && t.time = child.time && (t.port 0).delay = 111 && t.lastExchange = 20000) ∧
    does .timeStamp (came bare 211) (fun t => t.slew = -1 && t.time = child.time - 44 && t.err = 52) := by
  decide +kernel

/-- Context 1 loaded here with FLOCK, and context 2 built with it, STATUS ready. -/
def flocked : State := { (base.modCtx 1 (fun c => { c with loadedHere := true, desc := { c.desc with flags := 1 } })) with bar0 := readyBar }
def flockBuilt : State :=
  { (base.modCtx 2 (fun _ => { Ctx.absent with state := .built, desc := { Desc.zero with asid := 2, flags := 1 } })) with bar0 := readyBar }

/-- POWER below what the locked contexts need, and a LOAD that needs more than the limit (R246, R449). -/
theorem test_power_needed (h : Config.lockedWatts [(0, 0, 0)] = 3000) : execPowerWrite 2000 3000 flocked = .next (flocked.pkgEvent 8 0 0) ∧
    execPowerWrite 3000 3000 flocked = .next { flocked with bar0 := { flocked.bar0 with power := 3000 } } := by
  have l : flocked.locks = [(0, 0, 0)] ∧ flocked.isReady = true := by decide +kernel
  constructor <;> simp [execPowerWrite, State.writePower, State.lockedNeed, l, h]

theorem test_lock_refused (h : Config.lockedWatts [(0, 0, 0)] = 8000) : flockBuilt.lockRefused 2 = true := by
  have l : flockBuilt.locks = [] ∧ (flockBuilt.ctx 2).desc = { Desc.zero with asid := 2, flags := 1 } ∧ flockBuilt.bar0.power = 7500 := by
    decide +kernel
  simp [State.lockRefused, l, h, Desc.zero]

/-- The window reads zero until STATUS is ready, and a write of RESET with another value does nothing (R28, R443, R446). -/
theorem test_register_corners :
    let s := { base with bar0 := { readyBar with status := 3 }, dram := base.dram.write 8 [1, 2] }
    s.windowRead 8 2 = [0, 0] ∧ s.readRegister 0x70 = 0 ∧ { s with bar0 := readyBar }.windowRead 8 2 = [1, 2] ∧
    does (.registerWrite ⟨0x18, nowhere⟩ 3) { base with bar0 := readyBar } (fun t => t = { base with bar0 := readyBar }) := by
  decide +kernel

/-! ## The assembler, object files and the loader (R91 to R112) -/

/-- One instruction assembled at an address of a long code section, with absolute symbols and levels. -/
def asmLine (loc : Nat) (syms : List Symbol) (line : String) : Except GlasError (BitVec 96 × List Reloc) :=
  (lineTokens line.toList).bind (assembleInstr none { syms := syms, place := .code, loc := loc, code := some 1200 })

/-- Whether a line assembles to three words without a relocation. -/
def asmGives (line : String) (a b c : Nat) : Bool :=
  match asmLine 36 [⟨"loop".toList, .code, 12, false⟩, ⟨"team".toList, .level, 2, false⟩] line with
  | .ok (w, rs) => w.toNat = words a b c && rs.isEmpty
  | .error _ => false

/-- Whether a line is refused with an error. -/
def asmFails (line : String) (e : GlasError) : Bool :=
  match asmLine 36 [] line with
  | .ok _ => false
  | .error x => x = e

/-- The worked encodings of 03_encoding.md, 05_scalar.md, 06_vector.md and 07_memory_isa.md. -/
theorem test_glas_worked_words :
    asmGives "?!p3 INTI.ADDI.I64 x9, x9, imm=-12 !sw" 0x48480082 0xF4019800 0xFFFFFFFF = true ∧
    asmGives "CTL.ENTER frame=128, nx=4, ra=1" 0x00000405 0x02000000 0x00002040 = true ∧
    asmGives "LD.FE.I64 x10, x20, disp=32, take=clear !sw // a load" 0xA0500188 0x10010000 0x00000020 = true ∧
    asmGives "CPY.GO1 _, x20, x21, c=x22, q=1, wire=e4m3, cue=1, port=5" 0xA000008C 0x160000A8 0x002E4000 = true := by
  decide +kernel

/-- The worked encodings of 08_matrix.md, 13_group.md, 16_chain.md and 17_prog_splitk.md. -/
theorem test_glas_object_words :
    asmGives "MXU.MMA.BF16 _, x20, x21, c=x0, slot=0, k=128, zc=1" 0xA0050098 0x000000A8 0x80080000 = true ∧
    asmGives "ACC.CHAIN x6, x23, scope=team" 0xB830009D 0x00000000 0x00000080 = true ∧
    asmGives "ACC.SEND _, x6, first=0, strips=16" 0x3000011D 0x00000000 0x003C0000 = true ∧
    asmGives "grp.regs xn=32, vn=8 !SW" 0x0000029F 0x00010000 0x00090000 = true ∧
    asmGives "?p1 CTL.BRA imm=rel(loop)" 0x00000085 0xFE000800 0xFFFFFFFF = true := by
  decide +kernel

/-- Errors of R95 to R97: a subfield twice, a k guard on a scalar class, a missing suffix, an undeclared level, a value too
large for its subfield, an operand of another class. -/
theorem test_glas_errors :
    asmFails "CUE.POST _, x8, x9, port=3, port=4" .subfieldTwice = true ∧
    asmFails "?k2 INT.ADD.I64 x5, x6, x7" (.notAnInstruction 7) = true ∧
    asmFails "INT.ADD x5, x6, x7" .typeSuffix = true ∧
    asmFails "ACC.CHAIN x6, x23, scope=team" .noSuchLevel = true ∧
    asmFails "CUE.POST _, x8, x9, port=256" .subfieldRange = true ∧
    asmFails "INT.ADD.I64 x5, v6, x7" .badOperand = true := by
  decide +kernel

/-- The value of a text as an expression. -/
def exprOf (text : String) : Except GlasError Int :=
  (lineTokens text.toList).bind (fun ts => (parseExpr ts).bind (fun p =>
    if p.2.isEmpty then p.1.number { syms := [], place := .code, loc := 0, code := none } else .error .badSyntax))

/-- Whether a text has a value as an expression. -/
def exprGives (text : String) (v : Int) : Bool :=
  match exprOf text with
  | .ok x => x = v
  | .error _ => false

/-- The examples of R93, and the precedences of R94. -/
theorem test_glas_constants :
    exprGives "1.5f32" 0x3FC00000 = true ∧ exprGives "-2.0bf16" 0xC000 = true ∧ exprGives "448.0e4m3" 0x7E = true ∧
    exprGives "0x1.8p3f32" 0x41400000 = true ∧ exprGives "1 + 2 * 3 - 7 % 4 << 2 | 0b1" 17 = true ∧
    exprGives "-7 / 2" (-3) = true ∧ exprGives "-7 >> 1" (-4) = true ∧ exprGives "1_000" 1000 = true ∧
    exprGives "0xFFFF_FFFF_FFFF_FFFF + 1 - 1" 0 = false ∧ exprGives "480.0e4m3" 0 = false := by
  decide +kernel

/-- The kernel of 04_assembly.md as written. -/
def countdown : String :=
  ".kernel countdown port=0\n.tree\n.level thread fan=1 bind=SLOT\n.level core fan=4 bind=CORE\n" ++
  ".level tile fan=8 bind=TILE policy=KILLSELF,RETRY,KILLPARENT,KILLPARENT\n.endtree\n.resident tile\n.inputs package\n" ++
  ".partition x=32 v=0 threads=4 scratch=64 acc=0\n.scratch\ninbox:  .space 256\n.code\n" ++
  ".handler 0, start, budget=0, recv=inbox, recvsize=256\nstart:  INTI.MOVI.I64 x4, imm=3   // x4 := 3\n" ++
  "loop:   INTI.ADDI.I64 x4, x4, imm=-1 ; x4 := x4 - 1\n        CMP.GT.I64 p1, x4, x0\n" ++
  "        ?p1 CTL.BRA imm=rel(loop)\n        CUE.END\n.endkernel\n"

/-- Whether the countdown assembles to something with a property. -/
def countdownGives (f : Assembled → Bool) : Bool :=
  match assemble countdown.toList with
  | .ok a => f a
  | .error _ => false

/-- The partition of the other worked example of R103: scratch=113 fits, scratch=114 does not. -/
theorem test_glas_partition :
    PartDecl.word ⟨64, 32, 4, 113, 4⟩ = 0x00438E88 ∧ PartDecl.total ⟨64, 32, 4, 113, 4⟩ ≤ 393216 ∧
    PartDecl.total ⟨64, 32, 4, 114, 4⟩ > 393216 := by
  decide +kernel

/-- The worked example: its code words, partition word, policies, residence level and handler; its object file reads back, and
its image passes the checks of a launch (R112, R103). -/
theorem test_glas_countdown :
    countdownGives (fun a =>
      let code : List Byte :=
        [(0x00200482, 0x03000000, 0), (0x20200082, 0xFF000000, 0xFFFFFFFF), (0x26080283, 0, 0), (0x00000085, 0xFE000800, 0xFFFFFFFF),
         (0x0000029C, 0, 0)].flatMap (fun w => leBytes 4 w.1 ++ leBytes 4 w.2.1 ++ leBytes 4 w.2.2)
      a.relocs.isEmpty && a.code = code && a.resident = 2 && a.handlers = [⟨0, 0, 0, 0, 256⟩] &&
      (a.sizes.kernel.bind (fun k => k.part)).map PartDecl.word = some 0x00020604 &&
      (a.sizes.kernel.map (fun k => k.levels.map (fun l => l.level.policy))) = some [0xFF, 0xFF, 0xF6] &&
      (match loadObjects ⟨0x10000, 0x20000, 0x30000, 0x40000, 0x50000, 0x51000, 0x52000, 0⟩ [(objectOf a false).bytes] with
      | .ok im =>
        let run : Nat → List Byte := fun a => ((im.stores.find? (fun (s : Nat × List Byte) => s.1 == a)).map Prod.snd).getD []
        let img := imageOfBytes 0x50000 (run 0x50000) (run 0x51000) (run 0x52000)
        headerGood 0x50000 (run 0x50000) && imageGood img && partGood img.partWord && img.codeSize = 60 && run 0x10000 = code
      | .error _ => false)) = true := by
  decide +kernel

/-- What the kinds of relocation write, and when a value is out of range or a distance not exact (R107). -/
theorem test_glas_relocations :
    (relocWrite 6 0x10078 0x10000 = some (7, 5, 10)) ∧ (relocWrite 6 0x10077 0x10000 = none) ∧
    (relocWrite 3 (2 ^ 39) 0 = none) ∧ (relocWrite 4 0xFF00000000000000 0 = some (7, 5, 0xFFFFFF0000)) ∧
    (relocWrite 2 (-1) 0 = some (0, 4, 0xFFFFFFFF)) := by
  decide +kernel

/-- Data directives (R102): integers little-endian, floats by RNE, E2M1 packed two to a byte, the first low. -/
theorem test_glas_data :
    (match assemble ".data\n.i16 -1, 0x1234\n.align 8\n.f16 1.0, -2\n.e2m1 1, -6, 0.5\n.i64 later\n.rodata\nlater: .i8 7\n".toList with
    | .ok a => a.data = ([0xFF, 0xFF, 0x34, 0x12, 0, 0, 0, 0, 0x00, 0x3C, 0x00, 0xC0, 0xF2, 0x01, 0, 0, 0, 0, 0, 0, 0, 0] : List Byte) &&
        a.relocs = [⟨.data, 14, ⟨.abs64, "later".toList, 0⟩⟩] && a.rodata = ([7] : List Byte)
    | .error _ => false) = true := by
  decide +kernel

/-- A kernel that calls a function of a library and loads an address of its data; the library. -/
def caller : String :=
  ".kernel k port=1\n.tree\n.level t fan=1 bind=SLOT\n.endtree\n.resident t\n.partition x=16 v=0 threads=1 scratch=1 acc=0\n" ++
  ".handler 1, go\n.endkernel\ngo: CTL.CALL imm=rel(square)\nINTI.MOVI.I64 x5, imm=table + 4\nCUE.END\n"
/-- The library of the test below. -/
def library : String := ".global square\n.global table\nsquare: CTL.RET\n.data\n.i32 1\ntable: .i32 2, 3\n"

/-- Objects linked: the call reaches the library's code, which follows the kernel's, and the immediate holds the address of the
data (R107, R111). Without the library the symbol is undefined; twice the library defines it doubly. -/
theorem test_glas_link :
    (match glas caller.toList false, glas library.toList false with
    | .ok k, .ok l =>
      let pl : Placement := ⟨0x10000, 0x20000, 0x30000, 0x40000, 0x50000, 0x51000, 0x52000, 0⟩
      (match loadObjects pl [k, l] with
      | .ok im => ((im.stores.find? (fun (s : Nat × List Byte) => s.1 == 0x10000)).map Prod.snd) =
          some ([(0x00000185, 0x03000000, 0), (0x00280482, 0x08000000, 0x200), (0x0000029C, 0, 0)].flatMap
            (fun w => leBytes 4 w.1 ++ leBytes 4 w.2.1 ++ leBytes 4 w.2.2))
      | .error _ => false) &&
      (match loadObjects pl [k] with | .ok _ => false | .error e => e = .undefinedSymbol) &&
      (match loadObjects pl [k, l, l] with | .ok _ => false | .error e => e = .doubleSymbol) &&
      (match loadObjects pl [l] with | .ok _ => false | .error e => e = .kernel)
    | _, _ => false) = true := by
  decide +kernel

/-- Every class of R89 has as many function names as functions. -/
theorem test_glas_rows : classRows.all (fun r => r.fns.length = (classCtors r.maj).length) = true := by decide +kernel

/-- A statement that assembles, with register counts: the hypothesis of AssembledWordsAreInstructions. -/
theorem witness_AssembledWordsAreInstructions :
    (∃ w rs, assembleInstr (some (32, 8)) ⟨[], .code, 0, some 12⟩
      [.name "INT.ADD.I64".toList, .name ['x', '5'], .sym [','], .name ['x', '6'], .sym [','], .name ['x', '7']] = .ok (w, rs)) ∧
    (assembleInstr (some (16, 8)) ⟨[], .code, 0, some 12⟩
      [.name "INT.ADD.I64".toList, .name ['x', '1', '6'], .sym [','], .name ['x', '6'], .sym [','], .name ['x', '7']] =
      .error .registerCount) := by
  exact ⟨⟨_, _, rfl⟩, rfl⟩

end Sys2Proof.Tests
end

namespace Sys2Proof.Machine

/-! # The invariant of memory and identities, kept by every step

`Kept n s` is the invariant together with a lower bound on the identities given out. Each operation of the model has one lemma here, which
says that it carries `Kept` from the state before to the state after; its proof follows the definition's branches and cites the lemmas of
the operations called. Most operations change nothing the invariant speaks of, and their lemma holds by the rule of what they are made of;
the rules that have content are those on what the invariant does speak of, and stand first. -/

/-- The invariant, in a state that has given out `n` identities at least. The bound lets what was read in an earlier state (an image kept
by a save) be put into a later one. -/
def Kept (n : Nat) (s : State) : Prop := n ≤ s.nextId ∧ Claims.Inv s

/-- An outcome whose next state, if it has one, keeps the invariant. -/
def OutKept (n : Nat) : Out → Prop
  | .next t => Kept n t
  | _ => True

/-- A piece of the stage manager's work that, where it is done, has kept the invariant. -/
def AgKept {α : Type} (n : Nat) : Ag α → Prop
  | .ok _ s => Kept n s
  | _ => True

/-- A piece of the stage manager's work that, where it is done, gives a value and a state of which `P` holds. -/
def AgHolds {α : Type} (P : α → State → Prop) : Ag α → Prop
  | .ok a s => P a s
  | _ => True

/-- An event that keeps the invariant of whatever state it meets. -/
def EventKept (e : Event) : Prop := ∀ {n : Nat} {s : State}, Kept n s → OutKept n (e s)

/-- Accesses whose identities are all below `n`. -/
abbrev AccsBelow (n : Nat) (as : List Access) : Prop := ∀ a ∈ as, a.id < n

/-- What a context keeps of its accesses while it is saved has identities below `n`. -/
abbrev Ctx.savedBelow (n : Nat) (c : Ctx) : Prop := ∀ v, c.saved = some v → AccsBelow n v.accs

section

variable {n : Nat} {s : State}

/-! ## What the invariant says, and the updates that touch what it speaks of -/

theorem Kept.le (h : Kept n s) : n ≤ s.nextId := h.1
theorem Kept.here (h : Kept n s) : Kept s.nextId s := ⟨le_rfl, h.2⟩
theorem Kept.weaken {m : Nat} (hn : n ≤ m) (h : Kept m s) : Kept n s := ⟨hn.trans h.1, h.2⟩
theorem Kept.inv (h : Kept n s) : Claims.Inv s := h.2
theorem Kept.dramWf (h : Kept n s) : s.dram.wf = true := h.2.1.1
theorem Kept.hostWf (h : Kept n s) : s.hostMem.wf = true := h.2.1.2
theorem Kept.accsBelow (h : Kept n s) : AccsBelow s.nextId s.accs := h.2.2.1
theorem Kept.savedBelow (h : Kept n s) (a : Nat) : (s.ctx a).savedBelow s.nextId := h.2.2.2 a

theorem AccsBelow.mono {m k : Nat} {as : List Access} (h : AccsBelow m as) (hk : m ≤ k) : AccsBelow k as :=
  fun a ha => Nat.lt_of_lt_of_le (h a ha) hk

theorem AccsBelow.map {m : Nat} {as : List Access} (h : AccsBelow m as) {f : Access → Access} (hf : ∀ a, (f a).id = a.id) :
    AccsBelow m (as.map f) := by
  intro b hb
  obtain ⟨a, ha, rfl⟩ := List.mem_map.mp hb
  exact hf a ▸ h a ha

theorem AccsBelow.filter {m : Nat} {as : List Access} (h : AccsBelow m as) {p : Access → Bool} : AccsBelow m (as.filter p) :=
  fun a ha => h a (List.mem_filter.mp ha).1

theorem AccsBelow.append {m : Nat} {as bs : List Access} (h : AccsBelow m as) (hb : AccsBelow m bs) : AccsBelow m (as ++ bs) :=
  fun a ha => (List.mem_append.mp ha).elim (h a) (hb a)

/-- Nothing outside memory, the accesses, the contexts and the counter of identities matters. -/
theorem Kept.frame {t : State} (h : Kept n s)
    (e : (t.dram, t.hostMem, t.accs, t.nextId, t.ctxs) = (s.dram, s.hostMem, s.accs, s.nextId, s.ctxs)) : Kept n t := by
  simp only [Prod.mk.injEq] at e
  obtain ⟨hd, hh, ha, hn, hc⟩ := e
  obtain ⟨hle, ⟨hdram, hhost⟩, haccs, hsaved⟩ := h
  refine ⟨hn ▸ hle, ⟨hd ▸ hdram, hh ▸ hhost⟩, ?_, ?_⟩
  · rw [Claims.IdsFresh, ha, hn]; exact haccs
  · simpa only [State.ctx, hc, hn] using hsaved

theorem Kept.withDram (h : Kept n s) {m : Memory} (hm : m.wf = true) : Kept n { s with dram := m } :=
  ⟨h.le, ⟨hm, h.hostWf⟩, h.accsBelow, h.savedBelow⟩

theorem Kept.withHostMem (h : Kept n s) {m : Memory} (hm : m.wf = true) : Kept n { s with hostMem := m } :=
  ⟨h.le, ⟨h.dramWf, hm⟩, h.accsBelow, h.savedBelow⟩

theorem Kept.withAccs (h : Kept n s) {as : List Access} (ha : AccsBelow s.nextId as) : Kept n { s with accs := as } :=
  ⟨h.le, ⟨h.dramWf, h.hostWf⟩, ha, h.savedBelow⟩

/-- Identities given out are never given out again: the next one only grows. -/
theorem Kept.withNextId (h : Kept n s) {k : Nat} (hk : s.nextId ≤ k) : Kept n { s with nextId := k } :=
  ⟨h.le.trans hk, ⟨h.dramWf, h.hostWf⟩, AccsBelow.mono h.accsBelow hk,
    fun a v hv => AccsBelow.mono (h.savedBelow a v hv) hk⟩

theorem Kept.withCtxs (h : Kept n s) {cs : SMap Ctx} (hc : ∀ a, (lookAt Ctx.absent cs a).savedBelow s.nextId) :
    Kept n { s with ctxs := cs } :=
  ⟨h.le, ⟨h.dramWf, h.hostWf⟩, h.accsBelow, hc⟩

/-- One identity given out. -/
theorem Kept.bump (h : Kept n s) : Kept n { s with nextId := s.nextId + 1 } := h.withNextId (Nat.le_succ _)

/-- Several identities given out. -/
theorem Kept.bumpBy {k : Nat} (h : Kept n s) : Kept n { s with nextId := s.nextId + k } := h.withNextId (Nat.le_add_right _ _)

/-! ## Choices, folds and answers -/

theorem Kept.ite {c : Prop} [Decidable c] {a b : State} (ha : Kept n a) (hb : Kept n b) : Kept n (if c then a else b) := by
  split <;> assumption

theorem Kept.ite_fst {β : Type} {c : Prop} [Decidable c] {a b : State × β} (ha : Kept n a.1) (hb : Kept n b.1) :
    Kept n (if c then a else b).1 := by
  split <;> assumption

theorem OutKept.ite {c : Prop} [Decidable c] {a b : Out} (ha : OutKept n a) (hb : OutKept n b) :
    OutKept n (if c then a else b) := by
  split <;> assumption

theorem AgKept.ite {α : Type} {c : Prop} [Decidable c] {a b : Ag α} (ha : AgKept n a) (hb : AgKept n b) :
    AgKept n (if c then a else b) := by
  split <;> assumption

theorem Kept.foldl {β : Type} {f : State → β → State} (h : Kept n s) (hf : ∀ s x, Kept n s → Kept n (f s x)) {l : List β} :
    Kept n (l.foldl f s) := by
  induction l generalizing s with
  | nil => exact h
  | cons x l ih => exact ih (hf s x h)

theorem Kept.option_getD {β : Type} {o : Option β} {f : β → State} (h : Kept n s) (hf : ∀ x, Kept n (f x)) :
    Kept n ((o.map f).getD s) := by
  cases o with
  | none => exact h
  | some x => exact hf x

theorem Kept.of_fst {β : Type} {p : State × β} (h : Kept n p.1) {t : State} {x : β} (e : p = (t, x)) : Kept n t := by
  subst e; exact h

theorem Kept.of_snd {β : Type} {p : β × State} (h : Kept n p.2) {t : State} {x : β} (e : p = (x, t)) : Kept n t := by
  subst e; exact h

theorem OutKept.of_eq {o : Out} (h : OutKept n o) {t : State} (e : o = .next t) : Kept n t := by
  subst e; exact h

theorem AgKept.of_eq {α : Type} {r : Ag α} (h : AgKept n r) {a : α} {t : State} (e : r = .ok a t) : Kept n t := by
  subst e; exact h

theorem AgKept.ok {α : Type} {a : α} (h : Kept n s) : AgKept n (Ag.ok a s) := h

theorem AgKept.bind {α β : Type} {r : Ag α} {f : α → State → Ag β} (h : AgKept n r) (hf : ∀ a s, Kept n s → AgKept n (f a s)) :
    AgKept n (r.bind f) := by
  cases r with
  | ok a s => exact hf a s h
  | wait _ => trivial
  | bad _ _ => trivial

theorem AgKept.holds {α : Type} {r : Ag α} (h : AgKept n r) : AgHolds (fun _ s => Kept n s) r := by
  cases r <;> exact h

theorem AgHolds.bind {α β : Type} {P : α → State → Prop} {Q : β → State → Prop} {r : Ag α} {f : α → State → Ag β}
    (h : AgHolds P r) (hf : ∀ a s, P a s → AgHolds Q (f a s)) : AgHolds Q (r.bind f) := by
  cases r with
  | ok a s => exact hf a s h
  | wait _ => trivial
  | bad _ _ => trivial

theorem AgKept.foldl {α β : Type} {f : Ag α → β → Ag α} (hf : ∀ r x, AgKept n r → AgKept n (f r x)) (l : List β) {r : Ag α}
    (hr : AgKept n r) : AgKept n (l.foldl f r) := by
  induction l generalizing r with
  | nil => exact hr
  | cons x l ih => exact ih (hf r x hr)

/-! ## Contexts and accesses -/

theorem Kept.setCtx {a : Nat} {c : Ctx} (h : Kept n s) (hc : c.savedBelow s.nextId) : Kept n (s.setCtx a c) := by
  refine h.withCtxs (fun b => ?_)
  rw [lookAt_putAt]
  split
  · exact hc
  · exact h.savedBelow b

theorem Kept.setCtx_same {a : Nat} {c : Ctx} (h : Kept n s) (hc : c.saved = (s.ctx a).saved) : Kept n (s.setCtx a c) :=
  h.setCtx (fun v hv => h.savedBelow a v (hc ▸ hv))

theorem Kept.modCtx {a : Nat} {f : Ctx → Ctx} (h : Kept n s) (hf : ∀ c, (f c).saved = c.saved) : Kept n (s.modCtx a f) :=
  h.setCtx (fun v hv => h.savedBelow a v (hf _ ▸ hv))

theorem Kept.modCtx_unsaved {a : Nat} {f : Ctx → Ctx} (h : Kept n s) (hf : ∀ c, (f c).saved = none) : Kept n (s.modCtx a f) :=
  h.setCtx (fun v hv => by simp [hf] at hv)

/-- What a save keeps was in flight in an earlier state. -/
theorem Kept.modCtx_saves {a : Nat} {f : Ctx → Ctx} {v : Saved} (h : Kept n s) (hv : AccsBelow n v.accs)
    (hf : ∀ c, (f c).saved = some v) : Kept n (s.modCtx a f) := by
  refine h.setCtx (fun w hw => ?_)
  rw [hf, Option.some.injEq] at hw
  exact hw ▸ hv.mono h.le

theorem lookAt_mapVals_or {α : Type} (d : α) (f : α → α) (m : SMap α) (k : Nat) :
    lookAt d (mapVals f m) k = f (lookAt d m k) ∨ lookAt d (mapVals f m) k = d := by
  induction m with
  | nil => exact .inr rfl
  | cons p m ih =>
    obtain ⟨j, a⟩ := p
    by_cases hj : j = k
    · exact .inl (by simp [mapVals, lookAt, hj])
    · simpa [mapVals, lookAt, hj] using ih

theorem Kept.mapCtxs {f : Ctx → Ctx} (h : Kept n s) (hf : ∀ c, (f c).saved = c.saved) :
    Kept n { s with ctxs := mapVals f s.ctxs } := by
  refine h.withCtxs (fun a v hv => ?_)
  rcases lookAt_mapVals_or Ctx.absent f s.ctxs a with he | he
  · exact h.savedBelow a v (by rw [← hv, he, hf]; rfl)
  · rw [he] at hv; simp [Ctx.absent] at hv

theorem Kept.mapAccs {f : Access → Access} (h : Kept n s) (hf : ∀ a, (f a).id = a.id) :
    Kept n { s with accs := s.accs.map f } := h.withAccs (h.accsBelow.map hf)

theorem Kept.filterAccs {p : Access → Bool} (h : Kept n s) : Kept n { s with accs := s.accs.filter p } :=
  h.withAccs h.accsBelow.filter

theorem Kept.modAcc {i : Nat} {f : Access → Access} (h : Kept n s) (hf : ∀ a, (f a).id = a.id) : Kept n (s.modAcc i f) :=
  h.mapAccs (hf := fun a => by split <;> simp [hf])

theorem Kept.dropAcc {i : Nat} (h : Kept n s) : Kept n (s.dropAcc i) := h.filterAccs

/-- An access enters with an identity that is new. -/
theorem Kept.enter {a : Access} (h : Kept n s) : Kept n (s.enter a) := by
  refine h.bump.withAccs (AccsBelow.append h.bump.accsBelow ?_)
  intro b hb
  rw [List.mem_singleton.mp hb]
  exact Nat.lt_succ_self _

/-- A reset state's memory is in canonical form and it has nothing in flight. -/
theorem Kept.of_empty (hd : s.dram.wf = true) (hh : s.hostMem.wf = true) (ha : s.accs = []) (hc : s.ctxs = []) : Kept 0 s := by
  refine ⟨Nat.zero_le _, ⟨hd, hh⟩, ?_, ?_⟩
  · rw [Claims.IdsFresh, ha]; simp
  · simp [State.ctx, hc, lookAt, Ctx.absent]

/-! ## Accesses and their parts -/

@[simp] theorem Access.setPart_id (a : Access) (i : Nat) (p : Part) : (a.setPart i p).id = a.id := rfl

theorem Access.foldl_id {β : Type} {f : Access → β → Access} (hf : ∀ a x, (f a x).id = a.id) (l : List β) (a : Access) :
    (l.foldl f a).id = a.id := by
  induction l generalizing a with
  | nil => rfl
  | cons x l ih => rw [List.foldl_cons, ih, hf]

theorem Kept.modGroup {i j : Nat} {f : Part → Part} (h : Kept n s) : Kept n (s.modGroup i j f) :=
  h.modAcc (fun a => Access.foldl_id (fun b k => by split <;> rfl) _ a)

/-! ## Memory -/

theorem Kept.writeDram {a : Nat} {bs : List Byte} (h : Kept n s) : Kept n { s with dram := s.dram.write a bs } :=
  h.withDram (Memory.wf_write h.dramWf _ _)

theorem Memory.wf_foldl {β : Type} {f : Memory → β → Memory} (hf : ∀ m x, m.wf = true → (f m x).wf = true) (l : List β) {m : Memory}
    (hm : m.wf = true) : (l.foldl f m).wf = true := by
  induction l generalizing m with
  | nil => exact hm
  | cons x l ih => exact ih (hf m x hm)

theorem Kept.writeHostMem {a : Nat} {bs : List Byte} (h : Kept n s) : Kept n { s with hostMem := s.hostMem.write a bs } :=
  h.withHostMem (Memory.wf_write h.hostWf _ _)

theorem Kept.writePte {addr : Nat} {w : Word} (h : Kept n s) : Kept n (s.writePte addr w) := h.writeDram

theorem Kept.writeLoc {l : Loc} {bs : List Byte} (h : Kept n s) : Kept n (s.writeLoc l bs) := by
  cases l with
  | pool => exact h
  | dram pa => exact h.writeDram
  | host pa => exact h.writeHostMem
  | remote => exact h


/-! ## The operations of Ops -/

theorem Kept.setThread {t : Nat} {a : Thread} (h : Kept n s) : Kept n (s.setThread t a) := h

theorem Kept.modThread {t : Nat} {f : Thread → Thread} (h : Kept n s) : Kept n (s.modThread t f) := h.setThread

theorem Kept.modCur {f : Thread → Thread} (h : Kept n s) : Kept n (s.modCur f) := h.modThread

theorem Kept.setCore {c : Nat} {a : Core} (h : Kept n s) : Kept n (s.setCore c a) := h

theorem Kept.modCore {c : Nat} {f : Core → Core} (h : Kept n s) : Kept n (s.modCore c f) := h.setCore

theorem Kept.setTile {t : Nat} {a : Tile} (h : Kept n s) : Kept n (s.setTile t a) := h

theorem Kept.modTile {t : Nat} {f : Tile → Tile} (h : Kept n s) : Kept n (s.modTile t f) := h.setTile

theorem Kept.setQueue {asid q : Nat} {a : Queue} (h : Kept n s) : Kept n (s.setQueue asid q a) := h

theorem Kept.modQueue {asid q : Nat} {f : Queue → Queue} (h : Kept n s) : Kept n (s.modQueue asid q f) := h.setQueue

theorem Kept.setPort {p : Nat} {a : Port} (h : Kept n s) : Kept n (s.setPort p a) := h

theorem Kept.modPort {p : Nat} {f : Port → Port} (h : Kept n s) : Kept n (s.modPort p f) := h.setPort

theorem Kept.setStation {k : Nat} {a : Station} (h : Kept n s) : Kept n (s.setStation k a) := h

theorem Kept.setChannel {k : Nat} {a : Channel} (h : Kept n s) : Kept n (s.setChannel k a) := h

theorem Kept.modLaunch {l : LaunchId} {f : Launch → Launch} (h : Kept n s) : Kept n (s.modLaunch l f) := h

theorem Kept.raise {code : FaultCode} {field : Nat} {data : Word} (h : Kept n s) : Kept n (s.raise code field data) := h.modCur

/-! ## The operations of Translate -/

theorem Kept.walkAt {asid : Nat} {a : Word} {needR needW update fromRoot : Bool} (h : Kept n s) :
    Kept n (s.walkAt asid a needR needW update fromRoot).1 := by
  unfold State.walkAt
  dsimp only
  split
  · exact h.setStation
  · exact h.setStation
  · split
    · exact h.setStation
    · exact Kept.setStation (Kept.ite h h.writePte)

theorem Kept.translate {asid : Nat} {a : Word} {needR needW : Bool} (h : Kept n s) : Kept n (s.translate asid a needR needW).1 := by
  unfold State.translate
  dsimp only
  split
  · split
    · exact h.walkAt
    · split
      · exact h.setStation
      · split
        · exact h.writePte.setStation
        · exact h.walkAt
  · exact h.walkAt

/-! ## The operations of Issue -/

theorem Kept.finishAt {pc : Word} (h : Kept n s) : Kept n (s.finishAt pc) := h.modCur

theorem Kept.finish (h : Kept n s) : Kept n s.finish := h.finishAt

theorem Kept.await {st : Status} {w : Wait} (h : Kept n s) : Kept n (s.await st w) := h.modCur

theorem Kept.clearPending {sw : Bool} (h : Kept n s) : Kept n (s.clearPending sw) := Kept.ite h.modCur h

theorem issue_kept {maj fn : Nat} {o : Ops} {extra : List Reg} {marker : Bool} {body : State → State} (h : Kept n s)
    (hbody : ∀ t, Kept n t → Kept n (body t)) : OutKept n (issue maj fn o extra marker s body) := by
  unfold issue
  split
  · exact h.raise
  · exact h
  · exact h.await
  · exact h.modCur
  · exact h.clearPending.finish
  · exact hbody _ h.clearPending

theorem issueLate_kept {maj fn : Nat} {o : Ops} {body : State → State} (h : Kept n s) (hbody : ∀ t, Kept n t → Kept n (body t)) :
    OutKept n (issueLate maj fn o s body) := by
  unfold issueLate
  split
  · exact h.raise
  · exact h
  · exact h.await
  · exact h.modCur
  · exact h.clearPending.finish
  · exact hbody _ h

theorem issueReg_kept {maj fn : Nat} {o : Ops} {f : Thread → Thread} (h : Kept n s) : OutKept n (issueReg maj fn o s f) :=
  issue_kept h (fun _ h1 => h1.modCur.finish)

/-! ## The operations of Mem -/

theorem Kept.poolWrite {core off : Nat} {bs : List Byte} (h : Kept n s) : Kept n (s.poolWrite core off bs) := h.modCore

theorem Kept.setFull {core off : Nat} {b : Bool} (h : Kept n s) : Kept n (s.setFull core off b) := h.modCore

/-! ## The operations of Access -/

theorem Kept.channelServed {who : Option Nat} {pa : Nat} (h : Kept n s) : Kept n (s.channelServed who pa) := h.setChannel

theorem Kept.translateFor {who : Option Nat} {asid : Nat} {va : Word} {needR needW : Bool} (h : Kept n s) :
    Kept n (s.translateFor who asid va needR needW).1 :=
  h.translate.foldl (fun _ _ h1 => h1.channelServed)

theorem Kept.placeServed {who : Option Nat} {l : Loc} (h : Kept n s) : Kept n (s.placeServed who l) := by
  unfold State.placeServed
  split
  · exact h.channelServed
  · exact h

theorem Kept.fillLine {tile asid : Nat} {va : Word} {bs : List Byte} (h : Kept n s) : Kept n (s.fillLine tile asid va bs) :=
  h.modTile

theorem Kept.dropLines {asid : Nat} {p : Word → Bool} (h : Kept n s) : Kept n (s.dropLines asid p) := h

theorem Kept.fenceCode {asid q : Nat} (h : Kept n s) : Kept n (s.fenceCode asid q) :=
  (h.modCtx (fun _ => by rfl)).foldl (fun _ _ h1 => h1.dropLines)

theorem atomicAt_kept {l : Loc} {fn : AtmFn} {ty : Ty} {b c : Word} {rnd : Nat} (h : Kept n s) :
    Kept n (atomicAt s l fn ty b c rnd).1 :=
  h.writeLoc

theorem Kept.performPart {op : AccOp} {p : Part} {l : Loc} {own : Bool} (h : Kept n s) : Kept n (s.performPart op p l own).1 := by
  unfold State.performPart
  dsimp only
  split
  · exact h
  · exact Kept.ite h.writeLoc.setFull h.writeLoc
  · exact h.writeLoc
  · exact atomicAt_kept h
  · exact h.setFull
  · exact h
  · exact Kept.ite h.setFull h
  · exact h

theorem Kept.performGroup {a : Access} {i : Nat} {base : Word} {l : Loc} {own : Bool} (h : Kept n s) :
    Kept n (s.performGroup a i base l own) := by
  unfold State.performGroup
  refine h.foldl ?_
  intro _ _ h1
  split
  · exact h1.performPart.modAcc (fun _ => rfl)
  · exact h1

theorem Kept.serve {core off len rank : Nat} (h : Kept n s) : Kept n (s.serve core off len rank) := h.modCore

theorem Kept.ownServed {tid off len : Nat} (h : Kept n s) : Kept n (s.ownServed tid off len) := h.serve

theorem Kept.groupServed {a : Access} {i core : Nat} {own : Bool} (h : Kept n s) : Kept n (s.groupServed a i core own) :=
  h.foldl (fun _ _ h1 => h1.serve)

theorem Kept.arrivePool {a : Access} {i core : Nat} {own : Bool} (h : Kept n s) : Kept n (s.arrivePool a i core own) := by
  unfold State.arrivePool
  split
  · exact h
  · exact Kept.ite (Kept.ite (Kept.modGroup (Kept.frame h.groupServed rfl)) h.groupServed.modGroup) h.groupServed.performGroup

theorem Kept.settle {id : Nat} (h : Kept n s) : Kept n (s.settle id) := by
  unfold State.settle
  split
  · exact h
  · exact Kept.ite h.modThread.dropAcc (Kept.ite h.dropAcc h)

theorem Kept.tryPart {id i : Nat} (h : Kept n s) : Kept n (s.tryPart id i) := by
  unfold State.tryPart
  split
  · exact h
  · split
    · exact h
    · exact Kept.ite h.arrivePool h

theorem Kept.enterOwn {a : Access} (h : Kept n s) : Kept n (s.enterOwn a) := Kept.settle (h.enter.foldl (fun _ _ h1 => h1.tryPart))

theorem Kept.enterWord {d : Reg} {w : Word} (h : Kept n s) : Kept n (s.enterWord d w) := h.enter.modCur

/-! ## The operations of Control -/

theorem Kept.transfer {target : Word} {f : Thread → Thread} (h : Kept n s) : Kept n (s.transfer target f) :=
  Kept.ite h.modCur.finishAt.modCur h.raise

theorem execCtlBra_kept {o : Ops} (h : Kept n s) : OutKept n (execCtlBra o s) := issue_kept h (fun _ h1 => h1.transfer)

theorem execCtlJmp_kept {o : Ops} (h : Kept n s) : OutKept n (execCtlJmp o s) := issue_kept h (fun _ h1 => h1.transfer)

theorem execCtlCall_kept {o : Ops} (h : Kept n s) : OutKept n (execCtlCall o s) := issue_kept h (fun _ h1 => h1.transfer)

theorem execCtlCallr_kept {o : Ops} (h : Kept n s) : OutKept n (execCtlCallr o s) := issue_kept h (fun _ h1 => h1.transfer)

theorem execCtlRet_kept {o : Ops} (h : Kept n s) : OutKept n (execCtlRet o s) := issue_kept h (fun _ h1 => h1.transfer)

theorem execCtlLoop_kept {o : Ops} (h : Kept n s) : OutKept n (execCtlLoop o s) :=
  issue_kept h (fun _ h1 => Kept.ite h1.modCur.finish h1.transfer)

theorem execCtlNop_kept {o : Ops} (h : Kept n s) : OutKept n (execCtlNop o s) := issueReg_kept h

theorem Kept.frameStore {r : Reg × Nat × Word} (h : Kept n s) : Kept n (s.frameStore r) := h.enterOwn

theorem Kept.frameLoad {r : Reg × Nat × Word} (h : Kept n s) : Kept n (s.frameLoad r) := h.enterOwn

theorem execCtlEnter_kept {o : Ops} (h : Kept n s) : OutKept n (execCtlEnter o s) :=
  issue_kept h (fun _ h1 => Kept.ite h1.raise
    (Kept.ite h1.raise
      (Kept.ite h1.raise (Kept.ite h1.raise (Kept.finish (Kept.modCur (h1.foldl (fun _ _ h2 => h2.frameStore))))))))

theorem execCtlLeave_kept {o : Ops} (h : Kept n s) : OutKept n (execCtlLeave o s) :=
  issue_kept h (fun _ h1 => Kept.ite h1.raise
    (Kept.ite h1.raise (Kept.ite h1.raise (Kept.finish (Kept.modCur (h1.foldl (fun _ _ h2 => h2.frameLoad)))))))

theorem execSysGet_kept {o : Ops} (h : Kept n s) : OutKept n (execSysGet o s) :=
  issue_kept h (fun _ h1 => Kept.ite h1 h1.modCur.finish)

theorem execSysSet_kept {o : Ops} (h : Kept n s) : OutKept n (execSysSet o s) :=
  issue_kept h (fun _ h1 => Kept.ite h1.raise (Kept.ite h1 h1.modCur.finish))

theorem execSysTrap_kept {o : Ops} (h : Kept n s) : OutKept n (execSysTrap o s) := issue_kept h (fun _ h1 => h1.raise)

theorem execSysBreak_kept {o : Ops} (h : Kept n s) : OutKept n (execSysBreak o s) := issue_kept h (fun _ h1 => h1.raise)

theorem execSysPerf_kept {o : Ops} (h : Kept n s) : OutKept n (execSysPerf o s) := issue_kept h (fun _ h1 => h1.modCur.finish)

/-! ## The operations of LoadStore -/

theorem Kept.issueLoad {op : AccOp} {d : Reg} {ret : Ret} {acq var : Bool} {parts : List Part} (h : Kept n s) :
    Kept n (s.issueLoad op d ret acq var parts) :=
  Kept.ite h.enterOwn.finish h.enter.modCur.finish

theorem Kept.issueStore {op : AccOp} {k : OrdKind} {rel : Bool} {parts : List Part} (h : Kept n s) :
    Kept n (s.issueStore op k rel parts) :=
  Kept.ite h.enterOwn.finish h.enter.finish

theorem plainLoad_kept {fn : Nat} {idx : Bool} {o : Ops} (h : Kept n s) : OutKept n (plainLoad fn idx o s) := by
  unfold plainLoad
  refine issue_kept h ?_
  intro _ h1
  dsimp only
  split
  · exact h1.raise
  · exact h1.issueLoad

theorem execLdDisp_kept {o : Ops} (h : Kept n s) : OutKept n (execLdDisp o s) := plainLoad_kept h

theorem execLdIdx_kept {o : Ops} (h : Kept n s) : OutKept n (execLdIdx o s) := plainLoad_kept h

theorem execLdFe_kept {o : Ops} (h : Kept n s) : OutKept n (execLdFe o s) := by
  unfold execLdFe
  refine issue_kept h ?_
  intro _ h1
  dsimp only
  split
  · exact h1.raise
  · exact Kept.ite h1.await h1.issueLoad

theorem execLdAcq_kept {o : Ops} (h : Kept n s) : OutKept n (execLdAcq o s) := by
  unfold execLdAcq
  refine issue_kept h ?_
  intro _ h1
  refine Kept.ite h1.raise ?_
  split
  · exact h1.raise
  · exact h1.issueLoad

theorem execLdProbe_kept {o : Ops} (h : Kept n s) : OutKept n (execLdProbe o s) := by
  unfold execLdProbe
  refine issue_kept h ?_
  intro _ h1
  dsimp only
  split
  · exact h1.raise
  · exact h1.issueLoad

theorem plainStore_kept {fn : Nat} {idx full : Bool} {o : Ops} (h : Kept n s) : OutKept n (plainStore fn idx full o s) := by
  unfold plainStore
  refine issue_kept h ?_
  intro _ h1
  refine Kept.ite h1.raise ?_
  split
  · exact h1.raise
  · exact h1.issueStore

theorem execStDisp_kept {o : Ops} (h : Kept n s) : OutKept n (execStDisp o s) := plainStore_kept h

theorem execStIdx_kept {o : Ops} (h : Kept n s) : OutKept n (execStIdx o s) := plainStore_kept h

theorem execStFe_kept {o : Ops} (h : Kept n s) : OutKept n (execStFe o s) := plainStore_kept h

theorem execStRel_kept {o : Ops} (h : Kept n s) : OutKept n (execStRel o s) := plainStore_kept h

theorem execStClr_kept {o : Ops} (h : Kept n s) : OutKept n (execStClr o s) := by
  unfold execStClr
  refine issue_kept h ?_
  intro _ h1
  refine Kept.ite h1.raise ?_
  refine Kept.ite h1.finish ?_
  refine Kept.ite ?_ ?_
  · split <;> exact h1.raise
  · split
    · exact h1.raise
    · exact h1.issueStore

theorem atomicOp_kept {fn : Nat} {f : AtmFn} {o : Ops} (h : Kept n s) : OutKept n (atomicOp fn f o s) := by
  unfold atomicOp
  refine issue_kept h ?_
  intro _ h1
  refine Kept.ite h1.raise ?_
  split
  · exact h1.raise
  · refine Kept.finish ?_
    split
    · exact h1.enter.modCur
    · exact h1.enter

theorem execAtmAdd_kept {o : Ops} (h : Kept n s) : OutKept n (execAtmAdd o s) := atomicOp_kept h

theorem execAtmAnd_kept {o : Ops} (h : Kept n s) : OutKept n (execAtmAnd o s) := atomicOp_kept h

theorem execAtmOr_kept {o : Ops} (h : Kept n s) : OutKept n (execAtmOr o s) := atomicOp_kept h

theorem execAtmXor_kept {o : Ops} (h : Kept n s) : OutKept n (execAtmXor o s) := atomicOp_kept h

theorem execAtmMin_kept {o : Ops} (h : Kept n s) : OutKept n (execAtmMin o s) := atomicOp_kept h

theorem execAtmMax_kept {o : Ops} (h : Kept n s) : OutKept n (execAtmMax o s) := atomicOp_kept h

theorem execAtmXchg_kept {o : Ops} (h : Kept n s) : OutKept n (execAtmXchg o s) := atomicOp_kept h

theorem execAtmCas_kept {o : Ops} (h : Kept n s) : OutKept n (execAtmCas o s) := atomicOp_kept h

theorem execAtmFadd_kept {o : Ops} (h : Kept n s) : OutKept n (execAtmFadd o s) := atomicOp_kept h

theorem Kept.fence {order : Nat} (h : Kept n s) : Kept n (s.fence order) := h.modCur

theorem execFncFence_kept {o : Ops} (h : Kept n s) : OutKept n (execFncFence o s) :=
  issue_kept h (fun _ h1 => Kept.ite h1.raise h1.fence.finish)

theorem execFncDrain_kept {o : Ops} (h : Kept n s) : OutKept n (execFncDrain o s) :=
  issueLate_kept h (fun _ h1 => Kept.ite h1.raise (Kept.ite h1.clearPending.fence.finish h1.await))

/-! ## The operations of Barrier -/

theorem Kept.setBar {tile i : Nat} {b : Option Barrier} (h : Kept n s) : Kept n (s.setBar tile i b) := h.modTile

theorem Kept.takeBar {tile : Nat} {key : BarKey} {r : State × Nat × Barrier} (h : Kept n s) (e : s.takeBar tile key = some r) :
    Kept n r.1 := by
  unfold State.takeBar at e
  dsimp only at e
  split at e
  · cases e; exact h
  · obtain ⟨i, -, rfl⟩ := Option.map_eq_some_iff.mp e
    exact h

theorem Kept.sendBar {m : BarMsg} {after : List Nat} (h : Kept n s) : Kept n (s.sendBar m after) := h.bump

theorem Kept.releaseBar {tile i : Nat} {b : Barrier} {timedOut : Bool} {due : Nat} (h : Kept n s) :
    Kept n (s.releaseBar tile i b timedOut due) :=
  h.setBar.foldl (fun _ _ h1 => h1.sendBar)

theorem Kept.freeBar {tile i : Nat} {b : Barrier} (h : Kept n s) : Kept n (s.freeBar tile i b) :=
  h.setBar.foldl (fun _ _ h1 => h1.sendBar)

theorem Kept.settleBar {tile i : Nat} {b : Barrier} (h : Kept n s) : Kept n (s.settleBar tile i b) :=
  Kept.ite h.freeBar (Kept.ite h.releaseBar h.setBar)

theorem Kept.countArrival {tile i : Nat} {who : ThreadId} (h : Kept n s) : Kept n (s.countArrival tile i who) := by
  unfold State.countArrival
  split
  · exact h.settleBar
  · exact h

theorem Kept.initBar {tile i : Nat} {b : Barrier} {count timeout : Nat} {curtain : Bool} {who : ThreadId} (h : Kept n s) :
    Kept n (s.initBar tile i b count timeout curtain who) :=
  Kept.ite h (h.settleBar.foldl (fun _ _ h1 => h1.countArrival))

theorem Kept.askBar {key : BarKey} (h : Kept n s) : Kept n (s.askBar key) := Kept.ite h h.sendBar.modCur

theorem Kept.withBar {o : Ops} {takes : Bool} {body : BarKey → Option Nat → State → State} (h : Kept n s)
    (hbody : ∀ a b t, Kept n t → Kept n (body a b t)) : Kept n (s.withBar o takes body) := by
  unfold State.withBar
  split
  · exact h.raise
  · exact Kept.ite h.askBar.await (hbody _ _ _ h)

theorem execBarInit_kept {o : Ops} (h : Kept n s) : OutKept n (execBarInit o s) := by
  unfold execBarInit
  refine issue_kept h ?_
  intro _ h1
  split
  · exact h1.raise
  · refine h1.withBar ?_
    intro _ _ _ h2
    dsimp only
    split
    · refine Kept.finish ?_
      split
      · next e3 => exact (h2.takeBar e3).initBar
      · exact h2
    · exact h2.sendBar.modCur.finish

theorem Kept.draining {o : Ops} {go : State → State} (h : Kept n s) (hgo : ∀ t, Kept n t → Kept n (go t)) :
    Kept n (s.draining o go) :=
  Kept.ite (hgo _ h.fence) h.await

theorem Kept.arrive_send {o : Ops} {key : BarKey} {sense : Bool} (h : Kept n s) : Kept n (State.arrive.send o key sense s) :=
  h.sendBar.modCur

theorem Kept.arrive {o : Ops} {key : BarKey} {next : State → State} (h : Kept n s) (hnext : ∀ t, Kept n t → Kept n (next t)) :
    Kept n (s.arrive o key next) := by
  have hsend : ∀ sense, Kept n (s.draining o (fun s => next (State.arrive.send o key sense s))) :=
    fun _ => h.draining (fun _ h1 => hnext _ h1.arrive_send)
  unfold State.arrive
  dsimp only
  split
  · exact Kept.ite h.raise (Kept.ite h.raise (hsend _))
  · exact Kept.ite h.raise (hsend _)

theorem execBarArrive_kept {o : Ops} (h : Kept n s) : OutKept n (execBarArrive o s) :=
  issue_kept h (fun _ h1 => h1.withBar (fun _ _ _ h2 => h2.arrive (fun _ h3 => h3.finish)))

theorem Kept.barWait {o : Ops} (h : Kept n s) : Kept n (s.barWait o) := by
  unfold State.barWait
  dsimp only
  split
  · exact Kept.ite h.await h.modCur.finish
  · exact Kept.ite h.raise h.modCur.finish

theorem execBarWait_kept {o : Ops} (h : Kept n s) : OutKept n (execBarWait o s) :=
  issue_kept h (fun _ h1 => h1.withBar (fun _ _ _ h2 => h2.barWait))

theorem execBarSync_kept {o : Ops} (h : Kept n s) : OutKept n (execBarSync o s) :=
  issue_kept h (fun _ h1 => Kept.ite h1.barWait (h1.withBar (fun _ _ _ h2 => h2.arrive (fun _ h3 => h3.barWait))))

theorem Kept.countCurtain {tile i : Nat} {who : ThreadId} (h : Kept n s) : Kept n (s.countCurtain tile i who) := by
  unfold State.countCurtain
  split
  · exact Kept.ite h.releaseBar h.setBar
  · exact h

theorem Kept.bindLine {tile i : Nat} {b : Barrier} {rect : Word} {chan : Nat} (h : Kept n s) :
    Kept n (s.bindLine tile i b rect chan) :=
  h.settleBar.foldl (fun _ _ h1 => h1.countCurtain)

theorem execBarLine_kept {o : Ops} (h : Kept n s) : OutKept n (execBarLine o s) := by
  unfold execBarLine
  refine issue_kept h ?_
  intro _ h1
  refine h1.withBar ?_
  intro _ _ _ h2
  refine Kept.ite h2.raise ?_
  split
  · exact h2.raise
  · exact Kept.ite h2.raise h2.bindLine.finish

theorem execBarDrop_kept {o : Ops} (h : Kept n s) : OutKept n (execBarDrop o s) := by
  unfold execBarDrop
  refine issue_kept h ?_
  intro _ h1
  refine h1.withBar ?_
  intro _ _ _ h2
  dsimp only
  split
  · exact Kept.ite h2.finish (h2.draining (fun _ h3 => h3.sendBar.modCur.finish))
  · exact Kept.ite h2.raise (h2.draining (fun _ h3 => h3.sendBar.modCur.finish))

theorem Kept.depart {tid : Nat} (h : Kept n s) : Kept n (s.depart tid) := by
  unfold State.depart
  refine Kept.modThread ?_
  refine Kept.foldl ?_ (fun _ _ h1 => h1.sendBar)
  exact h

/-! ## The operations of Agent -/

theorem Kept.queueFlit {port : Nat} {f : Flit} (h : Kept n s) : Kept n (s.queueFlit port f) := h.modPort

theorem Kept.sendTo {vc dst : Nat} {m : LinkMsg} (h : Kept n s) : Kept n (s.sendTo vc dst m) := by
  unfold State.sendTo
  split
  · exact h.queueFlit
  · exact h

theorem Kept.sendRemote {vc : Nat} {num : BitVec 32} {asid pkg : Nat} {va : Word} {pa : Nat} {op : RemOp} (h : Kept n s) :
    Kept n (s.sendRemote vc num asid pkg va pa op) :=
  Kept.sendTo h

theorem Kept.sendPeers {asid : Nat} {m : LinkMsg} (h : Kept n s) : Kept n (s.sendPeers asid m) := h.foldl (fun _ _ h1 => h1.sendTo)

theorem Kept.event {vector kind code asid q reason seq : Nat} (h : Kept n s) :
    Kept n (s.event vector kind code asid q reason seq) := by
  unfold State.event
  refine Kept.frame ?_ rfl
  refine Kept.ite ?_ ?_
  · exact h
  · exact h.writeHostMem

theorem Kept.ctxEvent {kind code asid q reason seq : Nat} (h : Kept n s) : Kept n (s.ctxEvent kind code asid q reason seq) :=
  h.event

theorem Kept.pkgEvent {kind code seq : Nat} (h : Kept n s) : Kept n (s.pkgEvent kind code seq) := h.event

theorem Kept.agentServed {asid : Nat} {pas : List Nat} (h : Kept n s) : Kept n (s.agentServed asid pas) := h.modCtx (fun _ => rfl)

theorem Kept.agentOne {asid : Nat} {va : Word} {k : Nat} {w : Option (List Byte)} (h : Kept n s) :
    AgKept n (s.agentOne asid va k w) := by
  unfold State.agentOne
  refine AgKept.ite trivial ?_
  split
  · exact trivial
  · refine AgKept.ite trivial ?_
    refine AgKept.ite trivial ?_
    dsimp only
    split
    · exact trivial
    · next e1 =>
        have h1 := Kept.of_fst h.translate e1
        split
        · exact h1.agentServed.modCtx (fun _ => rfl)
        · exact trivial
        · exact AgKept.ite trivial trivial
    · next e1 =>
        have h1 := Kept.of_fst h.translate e1
        refine AgKept.ite trivial ?_
        split
        · exact h1.agentServed
        · exact h1.writeLoc.agentServed

theorem Kept.agentReadFor {k asid m : Nat} {va : Word} (h : Kept n s) : AgKept n (State.agentReadFor k s asid va m) := by
  induction k generalizing s va m with
  | zero => exact h
  | succ k ih => exact AgKept.ite h (h.agentOne.bind (fun _ _ h1 => (ih h1).bind (fun _ _ h2 => h2)))

theorem Kept.agentRead {asid : Nat} {va : Word} {k : Nat} (h : Kept n s) : AgKept n (s.agentRead asid va k) := h.agentReadFor

theorem Kept.agentWriteFor {k asid : Nat} {va : Word} {bs : List Byte} (h : Kept n s) :
    AgKept n (State.agentWriteFor k s asid va bs) := by
  induction k generalizing s va bs with
  | zero => exact h
  | succ k ih => exact AgKept.ite h (h.agentOne.bind (fun _ _ h1 => ih h1))

theorem Kept.agentWrite {asid : Nat} {va : Word} {bs : List Byte} (h : Kept n s) : AgKept n (s.agentWrite asid va bs) :=
  h.agentWriteFor

theorem Kept.agentWrites {asid : Nat} {ws : List (Word × List Byte)} (h : Kept n s) : AgKept n (s.agentWrites asid ws) := by
  induction ws generalizing s with
  | nil => exact h
  | cons w ws ih => exact h.agentWrite.bind (fun _ _ h1 => ih h1)

theorem Kept.needsOn {vc asid : Nat} {k : Need} (h : Kept n s) : Kept n (s.needsOn vc asid k) := by
  unfold State.needsOn
  split
  · exact h
  · exact Kept.ite h (h.modCtx (fun _ => rfl))
  · exact Kept.ite h (Kept.sendRemote (Kept.modCtx (Kept.frame h.translateFor rfl) (fun _ => rfl)))

theorem Kept.needs {asid : Nat} {k : Need} (h : Kept n s) : Kept n (s.needs asid k) := h.needsOn

theorem Kept.agentDone {asid : Nat} (h : Kept n s) : Kept n (s.agentDone asid) :=
  Kept.modCtx (h.foldl (fun _ _ h1 => h1.setChannel)) (fun _ => rfl)

theorem Kept.agentForget {asid : Nat} {va : Word} (h : Kept n s) : Kept n (s.agentForget asid va) := h.modCtx (fun _ => rfl)

theorem Kept.agentEndOn {α : Type} {vc asid : Nat} {r : Ag α} {done : α → State → State} {fail : FaultCode → State → State}
    (h : Kept n s) (hr : AgKept n r) (hdone : ∀ a s, Kept n s → Kept n (done a s)) (hfail : ∀ c s, Kept n s → Kept n (fail c s)) :
    Kept n (s.agentEndOn vc asid r done fail) := by
  cases r with
  | ok a s' => exact hdone a _ (Kept.agentDone hr)
  | wait m => exact h.needsOn
  | bad c va => exact hfail c _ h.agentForget

theorem Kept.agentEnd_holds {α : Type} {P : α → State → Prop} {asid : Nat} {r : Ag α} {done : α → State → State}
    {fail : FaultCode → State → State} (h : Kept n s) (hr : AgHolds P r) (hdone : ∀ a s, P a s → Kept n (done a (s.agentDone asid)))
    (hfail : ∀ c s, Kept n s → Kept n (fail c s)) : Kept n (s.agentEnd asid r done fail) := by
  cases r with
  | ok a s' => exact hdone a s' hr
  | wait m => exact h.needsOn
  | bad c va => exact hfail c _ h.agentForget

theorem Kept.agentEnd {α : Type} {asid : Nat} {r : Ag α} {done : α → State → State} {fail : FaultCode → State → State}
    (h : Kept n s) (hr : AgKept n r) (hdone : ∀ a s, Kept n s → Kept n (done a s)) (hfail : ∀ c s, Kept n s → Kept n (fail c s)) :
    Kept n (s.agentEnd asid r done fail) := h.agentEndOn hr hdone hfail

theorem Kept.owe {asid : Nat} {os : List Owed} (h : Kept n s) : Kept n (s.owe asid os) := h.modCtx (fun _ => rfl)

theorem Kept.payOne {asid : Nat} {y : Owed} (h : Kept n s) : AgKept n (s.payOne asid y) := by
  unfold State.payOne
  split
  · exact h.agentWrite
  · exact h.ctxEvent

theorem Kept.payOwed {k asid : Nat} (h : Kept n s) : Kept n (State.payOwed k asid s) := by
  induction k generalizing s with
  | zero => exact h
  | succ k ih =>
    unfold State.payOwed
    dsimp only
    split
    · exact h
    · split
      · next e => exact ih (Kept.modCtx (Kept.agentDone (AgKept.of_eq h.payOne e)) (fun _ => rfl))
      · exact ih (Kept.modCtx h.agentForget (fun _ => rfl))
      · exact h.needs

theorem Kept.oweNow {asid : Nat} {os : List Owed} (h : Kept n s) : Kept n (s.oweNow asid os) := h.owe.payOwed

theorem execOwedWrites_kept {asid : Nat} (h : Kept n s) : OutKept n (execOwedWrites asid s) := h.payOwed

/-! ## The operations of ContextIsa -/

theorem Kept.pauseRequest {asid reason : Nat} {regions : Bool} {entry : Option (Nat × Word)} (h : Kept n s) :
    Kept n (s.pauseRequest asid reason regions entry) :=
  Kept.ite (h.setCtx_same (by rfl)).sendPeers h

theorem execCtxYield_kept {o : Ops} (h : Kept n s) : OutKept n (execCtxYield o s) :=
  issue_kept h (fun _ h1 => h1.pauseRequest.finish.await)

theorem execCtxInfo_kept {o : Ops} (h : Kept n s) : OutKept n (execCtxInfo o s) := issue_kept h (fun _ h1 => h1.modCur.finish)

/-! ## The operations of Book -/

theorem Kept.modEntry {asid q : Nat} {seq : Word} {f : QEntry → QEntry} (h : Kept n s) : Kept n (s.modEntry asid q seq f) :=
  h.modQueue

theorem Kept.entryEvent {asid q : Nat} {e : QEntry} (h : Kept n s) : Kept n (s.entryEvent asid q e) :=
  Kept.ite h.ctxEvent (Kept.ite h.ctxEvent h)

theorem Kept.tellLost {asid q : Nat} {e : QEntry} (h : Kept n s) : Kept n (s.tellLost asid q e) := Kept.ite h.sendPeers h

theorem Kept.putEntry {asid q : Nat} {e : QEntry} (h : Kept n s) : AgKept n (s.putEntry asid q e) :=
  AgKept.ite (h.agentWrites.bind (fun _ _ h1 => h1.setQueue.entryEvent.tellLost)) (h.agentWrite.bind (fun _ _ h1 => h1.setQueue))

theorem Kept.endEntry {asid q : Nat} {seq : Word} {st : EntryState} {code : Nat} (h : Kept n s) :
    AgKept n (s.endEntry asid q seq st code) := by
  unfold State.endEntry
  split
  · exact h
  · exact h.putEntry

theorem Kept.markEntry {asid q : Nat} {e : QEntry} {code : Nat} (h : Kept n s) : Kept n (s.markEntry asid q e code) :=
  h.setQueue.tellLost.owe

theorem Kept.markQueue {asid q : Nat} {by' : Option (Nat × Word)} {code : Nat} (h : Kept n s) :
    Kept n (s.markQueue asid q by' code) :=
  Kept.ite (Kept.modQueue (h.foldl (fun _ _ h1 => h1.markEntry))) (Kept.owe (Kept.modQueue (h.foldl (fun _ _ h1 => h1.markEntry))))

/-! ## The operations of Prompter -/

theorem Kept.modCue {id : Nat} {f : Cue → Cue} (h : Kept n s) : Kept n (s.modCue id f) := h

theorem Kept.dropCue {id : Nat} (h : Kept n s) : Kept n (s.dropCue id) := h

theorem Kept.ovfJob {j : OvfJob} {l : LaunchId} (h : Kept n s) : Kept n (s.ovfJob j l) := h.modCtx (fun _ => rfl)

theorem Kept.staleCell {cell : Option Nat} {l : LaunchId} (h : Kept n s) : Kept n (s.staleCell cell l) := h.ovfJob

theorem Kept.releaseArea {c : Cue} (h : Kept n s) : Kept n (s.releaseArea c) := Kept.ite h.staleCell h

theorem Kept.rewriteCell {c : Cue} (h : Kept n s) : Kept n (s.rewriteCell c) := Kept.ite h.staleCell h

theorem Kept.dropCuesBy {p : Cue → Bool} (h : Kept n s) : Kept n (s.dropCuesBy p) := by
  unfold State.dropCuesBy
  refine Kept.foldl ?_ (fun _ _ h1 => h1.releaseArea)
  exact h

theorem Kept.post {msg : CueMsg} {after : List Nat} (h : Kept n s) : Kept n (s.post msg after) := h.bump

/-! ## The operations of CueIsa -/

theorem postOp_kept {fn : Nat} {k : PostKind} {o : Ops} (h : Kept n s) : OutKept n (postOp fn k o s) := by
  unfold postOp
  refine issue_kept h ?_
  intro _ h1
  refine Kept.ite h1.raise ?_
  refine Kept.ite h1.raise ?_
  refine Kept.ite h1.raise ?_
  refine Kept.ite h1.raise ?_
  split
  · exact h1.raise
  · exact Kept.ite h1.raise (Kept.ite h1 (Kept.finish (Kept.modCur (Kept.post (Kept.ite h1 h1.ownServed)))))

theorem execCuePost_kept {o : Ops} (h : Kept n s) : OutKept n (execCuePost o s) := postOp_kept h

theorem execCuePostb_kept {o : Ops} (h : Kept n s) : OutKept n (execCuePostb o s) := postOp_kept h

theorem execCueSelf_kept {o : Ops} (h : Kept n s) : OutKept n (execCueSelf o s) := postOp_kept h

theorem execCueTimer_kept {o : Ops} (h : Kept n s) : OutKept n (execCueTimer o s) := postOp_kept h

theorem execCueEnd_kept {o : Ops} (h : Kept n s) : OutKept n (execCueEnd o s) := by
  unfold execCueEnd
  refine issue_kept h ?_
  intro _ h1
  dsimp only
  split
  · exact Kept.ite h1.finishAt.modCur h1.finishAt.modCur.modCue
  · exact h1.finishAt.modCur

theorem execCueNow_kept {o : Ops} (h : Kept n s) : OutKept n (execCueNow o s) := issue_kept h (fun _ h1 => h1.enterWord.finish)

theorem execCueTag_kept {o : Ops} (h : Kept n s) : OutKept n (execCueTag o s) :=
  issue_kept h (fun _ h1 => Kept.ite h1.raise (Kept.ite h1.raise h1.modCur.finish))

theorem execCueInfo_kept {o : Ops} (h : Kept n s) : OutKept n (execCueInfo o s) := issue_kept h (fun _ h1 => h1.modCur.finish)

theorem execCueHzn_kept {o : Ops} (h : Kept n s) : OutKept n (execCueHzn o s) := issue_kept h (fun _ h1 => h1.modCur.finish)

/-! ## The operations of Scalar -/

theorem intBin_kept {fn : Nat} {f : Nat → Int → Int → Int} {o : Ops} (h : Kept n s) : OutKept n (intBin fn f o s) := issueReg_kept h

theorem intUn_kept {fn : Nat} {f : Nat → Int → Int} {o : Ops} (h : Kept n s) : OutKept n (intUn fn f o s) := issueReg_kept h

theorem execIntAdd_kept {o : Ops} (h : Kept n s) : OutKept n (execIntAdd o s) := intBin_kept h

theorem execIntSub_kept {o : Ops} (h : Kept n s) : OutKept n (execIntSub o s) := intBin_kept h

theorem execIntMul_kept {o : Ops} (h : Kept n s) : OutKept n (execIntMul o s) := intBin_kept h

theorem execIntMulh_kept {o : Ops} (h : Kept n s) : OutKept n (execIntMulh o s) := intBin_kept h

theorem execIntDiv_kept {o : Ops} (h : Kept n s) : OutKept n (execIntDiv o s) := intBin_kept h

theorem execIntRem_kept {o : Ops} (h : Kept n s) : OutKept n (execIntRem o s) := intBin_kept h

theorem execIntMin_kept {o : Ops} (h : Kept n s) : OutKept n (execIntMin o s) := intBin_kept h

theorem execIntMax_kept {o : Ops} (h : Kept n s) : OutKept n (execIntMax o s) := intBin_kept h

theorem execIntAbs_kept {o : Ops} (h : Kept n s) : OutKept n (execIntAbs o s) := intUn_kept h

theorem execIntAnd_kept {o : Ops} (h : Kept n s) : OutKept n (execIntAnd o s) := intBin_kept h

theorem execIntOr_kept {o : Ops} (h : Kept n s) : OutKept n (execIntOr o s) := intBin_kept h

theorem execIntXor_kept {o : Ops} (h : Kept n s) : OutKept n (execIntXor o s) := intBin_kept h

theorem execIntAndn_kept {o : Ops} (h : Kept n s) : OutKept n (execIntAndn o s) := intBin_kept h

theorem execIntShl_kept {o : Ops} (h : Kept n s) : OutKept n (execIntShl o s) := intBin_kept h

theorem execIntShr_kept {o : Ops} (h : Kept n s) : OutKept n (execIntShr o s) := intBin_kept h

theorem execIntRot_kept {o : Ops} (h : Kept n s) : OutKept n (execIntRot o s) := intBin_kept h

theorem execIntClz_kept {o : Ops} (h : Kept n s) : OutKept n (execIntClz o s) := intUn_kept h

theorem execIntCtz_kept {o : Ops} (h : Kept n s) : OutKept n (execIntCtz o s) := intUn_kept h

theorem execIntPopc_kept {o : Ops} (h : Kept n s) : OutKept n (execIntPopc o s) := intUn_kept h

theorem execIntMov_kept {o : Ops} (h : Kept n s) : OutKept n (execIntMov o s) := intUn_kept h

theorem execIntSel_kept {o : Ops} (h : Kept n s) : OutKept n (execIntSel o s) := issueReg_kept h

theorem intiBin_kept {fn : Nat} {f : Nat → Int → Int → Int} {o : Ops} (h : Kept n s) : OutKept n (intiBin fn f o s) :=
  issueReg_kept h

theorem execIntiAddi_kept {o : Ops} (h : Kept n s) : OutKept n (execIntiAddi o s) := intiBin_kept h

theorem execIntiMuli_kept {o : Ops} (h : Kept n s) : OutKept n (execIntiMuli o s) := intiBin_kept h

theorem execIntiAndi_kept {o : Ops} (h : Kept n s) : OutKept n (execIntiAndi o s) := intiBin_kept h

theorem execIntiOri_kept {o : Ops} (h : Kept n s) : OutKept n (execIntiOri o s) := intiBin_kept h

theorem execIntiXori_kept {o : Ops} (h : Kept n s) : OutKept n (execIntiXori o s) := intiBin_kept h

theorem execIntiShli_kept {o : Ops} (h : Kept n s) : OutKept n (execIntiShli o s) := intiBin_kept h

theorem execIntiShri_kept {o : Ops} (h : Kept n s) : OutKept n (execIntiShri o s) := intiBin_kept h

theorem execIntiRoti_kept {o : Ops} (h : Kept n s) : OutKept n (execIntiRoti o s) := intiBin_kept h

theorem execIntiMovi_kept {o : Ops} (h : Kept n s) : OutKept n (execIntiMovi o s) := intiBin_kept h

theorem execIntiMovhi_kept {o : Ops} (h : Kept n s) : OutKept n (execIntiMovhi o s) := issueReg_kept h

theorem execIntiLea_kept {o : Ops} (h : Kept n s) : OutKept n (execIntiLea o s) := issueReg_kept h

theorem cmpOp_kept {fn : Nat} {o : Ops} (h : Kept n s) : OutKept n (cmpOp fn o s) := issueReg_kept h

theorem execCmpEq_kept {o : Ops} (h : Kept n s) : OutKept n (execCmpEq o s) := cmpOp_kept h

theorem execCmpNe_kept {o : Ops} (h : Kept n s) : OutKept n (execCmpNe o s) := cmpOp_kept h

theorem execCmpLt_kept {o : Ops} (h : Kept n s) : OutKept n (execCmpLt o s) := cmpOp_kept h

theorem execCmpLe_kept {o : Ops} (h : Kept n s) : OutKept n (execCmpLe o s) := cmpOp_kept h

theorem execCmpGt_kept {o : Ops} (h : Kept n s) : OutKept n (execCmpGt o s) := cmpOp_kept h

theorem execCmpGe_kept {o : Ops} (h : Kept n s) : OutKept n (execCmpGe o s) := cmpOp_kept h

theorem execCmpUnord_kept {o : Ops} (h : Kept n s) : OutKept n (execCmpUnord o s) := cmpOp_kept h

theorem prdBin_kept {fn : Nat} {f : Bool → Bool → Bool} {o : Ops} (h : Kept n s) : OutKept n (prdBin fn f o s) := issueReg_kept h

theorem execPrdAnd_kept {o : Ops} (h : Kept n s) : OutKept n (execPrdAnd o s) := prdBin_kept h

theorem execPrdOr_kept {o : Ops} (h : Kept n s) : OutKept n (execPrdOr o s) := prdBin_kept h

theorem execPrdXor_kept {o : Ops} (h : Kept n s) : OutKept n (execPrdXor o s) := prdBin_kept h

theorem execPrdAndn_kept {o : Ops} (h : Kept n s) : OutKept n (execPrdAndn o s) := prdBin_kept h

theorem execPrdNot_kept {o : Ops} (h : Kept n s) : OutKept n (execPrdNot o s) := prdBin_kept h

theorem execPrdSet_kept {o : Ops} (h : Kept n s) : OutKept n (execPrdSet o s) := issueReg_kept h

theorem execPrdPack_kept {o : Ops} (h : Kept n s) : OutKept n (execPrdPack o s) := issue_kept h (fun _ h1 => h1.modCur.finish)

theorem execPrdUnpack_kept {o : Ops} (h : Kept n s) : OutKept n (execPrdUnpack o s) := issue_kept h (fun _ h1 => h1.modCur.finish)

theorem execPrdKpack_kept {o : Ops} (h : Kept n s) : OutKept n (execPrdKpack o s) := issueReg_kept h

theorem execPrdKunpack_kept {o : Ops} (h : Kept n s) : OutKept n (execPrdKunpack o s) := issueReg_kept h

theorem fltOp_kept {fn : Nat} {f : Bool → FVal → FVal → FVal → FVal × Nat} {o : Ops} (h : Kept n s) : OutKept n (fltOp fn f o s) :=
  issueReg_kept h

theorem fltPick_kept {fn : Nat} {f : FVal → FVal → FVal} {o : Ops} (h : Kept n s) : OutKept n (fltPick fn f o s) := issueReg_kept h

theorem execFltAdd_kept {o : Ops} (h : Kept n s) : OutKept n (execFltAdd o s) := fltOp_kept h

theorem execFltSub_kept {o : Ops} (h : Kept n s) : OutKept n (execFltSub o s) := fltOp_kept h

theorem execFltMul_kept {o : Ops} (h : Kept n s) : OutKept n (execFltMul o s) := fltOp_kept h

theorem execFltFma_kept {o : Ops} (h : Kept n s) : OutKept n (execFltFma o s) := fltOp_kept h

theorem execFltDiv_kept {o : Ops} (h : Kept n s) : OutKept n (execFltDiv o s) := fltOp_kept h

theorem execFltSqrt_kept {o : Ops} (h : Kept n s) : OutKept n (execFltSqrt o s) := fltOp_kept h

theorem execFltMin_kept {o : Ops} (h : Kept n s) : OutKept n (execFltMin o s) := fltPick_kept h

theorem execFltMax_kept {o : Ops} (h : Kept n s) : OutKept n (execFltMax o s) := fltPick_kept h

theorem execFltAbs_kept {o : Ops} (h : Kept n s) : OutKept n (execFltAbs o s) := fltPick_kept h

theorem execFltNeg_kept {o : Ops} (h : Kept n s) : OutKept n (execFltNeg o s) := fltPick_kept h

theorem execFltCvt_kept {o : Ops} (h : Kept n s) : OutKept n (execFltCvt o s) := issueReg_kept h

/-! ## The operations of Vector -/

theorem vecOp_kept {fn : Nat} {f : Ops → Thread → Nat → Nat → Nat → Nat → BitVec 32 → ElemRes} {o : Ops} (h : Kept n s) :
    OutKept n (vecOp fn f o s) :=
  issueReg_kept h

theorem vecArith_kept {fn : Nat} {fi : Int → Int → Int → Int} {ff : Bool → FVal → FVal → FVal → FVal × Nat} {o : Ops}
    (h : Kept n s) : OutKept n (vecArith fn fi ff o s) :=
  vecOp_kept h

theorem vecPick_kept {fn : Nat} {fi : Int → Int → Int} {ff : FVal → FVal → FVal} {o : Ops} (h : Kept n s) :
    OutKept n (vecPick fn fi ff o s) :=
  vecOp_kept h

theorem vecBits_kept {fn : Nat} {f : Nat → Nat → Nat} {o : Ops} (h : Kept n s) : OutKept n (vecBits fn f o s) := vecOp_kept h

theorem execVecAdd_kept {o : Ops} (h : Kept n s) : OutKept n (execVecAdd o s) := vecArith_kept h

theorem execVecSub_kept {o : Ops} (h : Kept n s) : OutKept n (execVecSub o s) := vecArith_kept h

theorem execVecMul_kept {o : Ops} (h : Kept n s) : OutKept n (execVecMul o s) := vecArith_kept h

theorem execVecFma_kept {o : Ops} (h : Kept n s) : OutKept n (execVecFma o s) := vecArith_kept h

theorem execVecFms_kept {o : Ops} (h : Kept n s) : OutKept n (execVecFms o s) := vecArith_kept h

theorem execVecMin_kept {o : Ops} (h : Kept n s) : OutKept n (execVecMin o s) := vecPick_kept h

theorem execVecMax_kept {o : Ops} (h : Kept n s) : OutKept n (execVecMax o s) := vecPick_kept h

theorem execVecAbs_kept {o : Ops} (h : Kept n s) : OutKept n (execVecAbs o s) := vecPick_kept h

theorem execVecNeg_kept {o : Ops} (h : Kept n s) : OutKept n (execVecNeg o s) := vecPick_kept h

theorem execVecAnd_kept {o : Ops} (h : Kept n s) : OutKept n (execVecAnd o s) := vecBits_kept h

theorem execVecOr_kept {o : Ops} (h : Kept n s) : OutKept n (execVecOr o s) := vecBits_kept h

theorem execVecXor_kept {o : Ops} (h : Kept n s) : OutKept n (execVecXor o s) := vecBits_kept h

theorem execVecShl_kept {o : Ops} (h : Kept n s) : OutKept n (execVecShl o s) := vecOp_kept h

theorem execVecShr_kept {o : Ops} (h : Kept n s) : OutKept n (execVecShr o s) := vecOp_kept h

theorem execVecMov_kept {o : Ops} (h : Kept n s) : OutKept n (execVecMov o s) := vecBits_kept h

theorem execVecBcast_kept {o : Ops} (h : Kept n s) : OutKept n (execVecBcast o s) := vecOp_kept h

theorem execVecSel_kept {o : Ops} (h : Kept n s) : OutKept n (execVecSel o s) := vecOp_kept h

theorem execVecAdds_kept {o : Ops} (h : Kept n s) : OutKept n (execVecAdds o s) := vecOp_kept h

theorem execVecSubs_kept {o : Ops} (h : Kept n s) : OutKept n (execVecSubs o s) := vecOp_kept h

theorem vcmpOp_kept {fn : Nat} {o : Ops} (h : Kept n s) : OutKept n (vcmpOp fn o s) := issueReg_kept h

theorem execVcmpEq_kept {o : Ops} (h : Kept n s) : OutKept n (execVcmpEq o s) := vcmpOp_kept h

theorem execVcmpNe_kept {o : Ops} (h : Kept n s) : OutKept n (execVcmpNe o s) := vcmpOp_kept h

theorem execVcmpLt_kept {o : Ops} (h : Kept n s) : OutKept n (execVcmpLt o s) := vcmpOp_kept h

theorem execVcmpLe_kept {o : Ops} (h : Kept n s) : OutKept n (execVcmpLe o s) := vcmpOp_kept h

theorem execVcmpGt_kept {o : Ops} (h : Kept n s) : OutKept n (execVcmpGt o s) := vcmpOp_kept h

theorem execVcmpGe_kept {o : Ops} (h : Kept n s) : OutKept n (execVcmpGe o s) := vcmpOp_kept h

theorem execVcmpUnord_kept {o : Ops} (h : Kept n s) : OutKept n (execVcmpUnord o s) := vcmpOp_kept h

theorem vsfOp_kept {fn : Nat} {o : Ops} (h : Kept n s) : OutKept n (vsfOp fn o s) :=
  issue_kept h (fun _ h1 => Kept.ite h1.await h1.modCore.finish)

theorem execVsfExp2_kept {o : Ops} (h : Kept n s) : OutKept n (execVsfExp2 o s) := vsfOp_kept h

theorem execVsfLog2_kept {o : Ops} (h : Kept n s) : OutKept n (execVsfLog2 o s) := vsfOp_kept h

theorem execVsfRcp_kept {o : Ops} (h : Kept n s) : OutKept n (execVsfRcp o s) := vsfOp_kept h

theorem execVsfRsqrt_kept {o : Ops} (h : Kept n s) : OutKept n (execVsfRsqrt o s) := vsfOp_kept h

theorem execVsfSqrt_kept {o : Ops} (h : Kept n s) : OutKept n (execVsfSqrt o s) := vsfOp_kept h

theorem execVcvCvt_kept {o : Ops} (h : Kept n s) : OutKept n (execVcvCvt o s) := issueReg_kept h

theorem execVcvPack_kept {o : Ops} (h : Kept n s) : OutKept n (execVcvPack o s) := issueReg_kept h

theorem execVcvUnpack_kept {o : Ops} (h : Kept n s) : OutKept n (execVcvUnpack o s) := issueReg_kept h

theorem execVcvQnt_kept {o : Ops} (h : Kept n s) : OutKept n (execVcvQnt o s) := issueReg_kept h

theorem execVcvScale_kept {o : Ops} (h : Kept n s) : OutKept n (execVcvScale o s) := issueReg_kept h

theorem execVpmPerm_kept {o : Ops} (h : Kept n s) : OutKept n (execVpmPerm o s) := issueReg_kept h

theorem execVpmRot_kept {o : Ops} (h : Kept n s) : OutKept n (execVpmRot o s) := issueReg_kept h

theorem execVpmExtr_kept {o : Ops} (h : Kept n s) : OutKept n (execVpmExtr o s) := issueReg_kept h

theorem execVpmIns_kept {o : Ops} (h : Kept n s) : OutKept n (execVpmIns o s) := issueReg_kept h

theorem execVpmIota_kept {o : Ops} (h : Kept n s) : OutKept n (execVpmIota o s) := issueReg_kept h

theorem combOp_kept {fn : Nat} {scan : Bool} {o : Ops} (h : Kept n s) : OutKept n (combOp fn scan o s) := by
  unfold combOp
  refine issue_kept h ?_
  intro _ h1
  split
  · exact h1.raise
  · exact h1.modCur.finish

theorem execVpmRed_kept {o : Ops} (h : Kept n s) : OutKept n (execVpmRed o s) := combOp_kept h

theorem execVpmScan_kept {o : Ops} (h : Kept n s) : OutKept n (execVpmScan o s) := combOp_kept h

/-! ## The operations of VectorMem -/

theorem vlsLoad_kept {fn : Nat} {o : Ops} (h : Kept n s) : OutKept n (vlsLoad fn o s) := by
  unfold vlsLoad
  refine issue_kept h ?_
  intro _ h1
  split
  · exact h1.raise
  · exact Kept.ite (Kept.finish (Kept.ite h1.modCur h1)) (Kept.ite (Kept.ite h1.await h1.issueLoad) h1.issueLoad)

theorem vlsStore_kept {fn : Nat} {o : Ops} (h : Kept n s) : OutKept n (vlsStore fn o s) := by
  unfold vlsStore
  refine issue_kept h ?_
  intro _ h1
  split
  · exact h1.raise
  · exact Kept.ite h1.finish h1.issueStore

theorem execVlsLd_kept {o : Ops} (h : Kept n s) : OutKept n (execVlsLd o s) := vlsLoad_kept h

theorem execVlsSt_kept {o : Ops} (h : Kept n s) : OutKept n (execVlsSt o s) := vlsStore_kept h

theorem execVlsLds_kept {o : Ops} (h : Kept n s) : OutKept n (execVlsLds o s) := vlsLoad_kept h

theorem execVlsSts_kept {o : Ops} (h : Kept n s) : OutKept n (execVlsSts o s) := vlsStore_kept h

theorem execVlsLdg_kept {o : Ops} (h : Kept n s) : OutKept n (execVlsLdg o s) := vlsLoad_kept h

theorem execVlsLdfe_kept {o : Ops} (h : Kept n s) : OutKept n (execVlsLdfe o s) := vlsLoad_kept h

theorem execVlsStfe_kept {o : Ops} (h : Kept n s) : OutKept n (execVlsStfe o s) := vlsStore_kept h

/-! ## The operations of Matrix -/

theorem execSclLd_kept {o : Ops} (h : Kept n s) : OutKept n (execSclLd o s) := by
  unfold execSclLd
  refine issue_kept h ?_
  intro _ h1
  refine Kept.ite h1.raise ?_
  split
  · exact h1.raise
  · exact h1.issueLoad

theorem execSclMov_kept {o : Ops} (h : Kept n s) : OutKept n (execSclMov o s) := issueReg_kept h

theorem execSclClr_kept {o : Ops} (h : Kept n s) : OutKept n (execSclClr o s) := issueReg_kept h

theorem Kept.queueMx {c : MxCmd} (h : Kept n s) : Kept n (s.queueMx c) := Kept.ite h.await (Kept.finish (Kept.modCore h.bump))

theorem productOp_kept {fn : Nat} {o : Ops} (h : Kept n s) : OutKept n (productOp fn o s) := by
  unfold productOp
  refine issue_kept h ?_
  intro _ h1
  refine Kept.ite h1.raise ?_
  refine Kept.ite h1.raise ?_
  refine Kept.ite h1.raise ?_
  split
  · exact h1.raise
  · exact h1.queueMx

theorem execMxuMma_kept {o : Ops} (h : Kept n s) : OutKept n (execMxuMma o s) := productOp_kept h

theorem execMxuBlk_kept {o : Ops} (h : Kept n s) : OutKept n (execMxuBlk o s) := productOp_kept h

theorem execMxuSca_kept {o : Ops} (h : Kept n s) : OutKept n (execMxuSca o s) :=
  issue_kept h (fun _ h1 => Kept.ite h1.raise h1.queueMx)

theorem execMxuZero_kept {o : Ops} (h : Kept n s) : OutKept n (execMxuZero o s) :=
  issue_kept h (fun _ h1 => Kept.ite h1.raise h1.queueMx)

theorem moveOp_kept {fn : Nat} {o : Ops} (h : Kept n s) : OutKept n (moveOp fn o s) := by
  unfold moveOp
  refine issue_kept h ?_
  intro _ h1
  refine Kept.ite h1.raise ?_
  refine Kept.ite h1.raise ?_
  refine Kept.ite h1.raise ?_
  split
  · exact h1.raise
  · exact h1.queueMx

theorem execMxuXfer_kept {o : Ops} (h : Kept n s) : OutKept n (execMxuXfer o s) := moveOp_kept h

theorem execMxuLoad_kept {o : Ops} (h : Kept n s) : OutKept n (execMxuLoad o s) := moveOp_kept h

theorem execMxuWait_kept {o : Ops} (h : Kept n s) : OutKept n (execMxuWait o s) :=
  issueLate_kept h (fun _ h1 => Kept.ite h1.raise (Kept.ite h1.clearPending.finish h1.await))

theorem execMxuProg_kept {o : Ops} (h : Kept n s) : OutKept n (execMxuProg o s) :=
  issue_kept h (fun _ h1 => Kept.ite h1.raise h1.enterWord.finish)

/-! ## The operations of Chain -/

theorem Kept.setChain {tile i : Nat} {e : ChainEntry} (h : Kept n s) : Kept n (s.setChain tile i e) := h.modTile

theorem Kept.modChain {tile i : Nat} {f : ChainEntry → ChainEntry} (h : Kept n s) : Kept n (s.modChain tile i f) := h.setChain

theorem Kept.raiseAt {tid : Nat} {f : Raised} (h : Kept n s) : Kept n (s.raiseAt tid f) := h.modThread

theorem Kept.sendChain {kind : ChainKind} {e : ChainEntry} {tile i toCore : Nat} {toEntry : Option Nat} (h : Kept n s) :
    Kept n (s.sendChain kind e tile i toCore toEntry) :=
  h.bump

theorem Kept.sendStrip {tile i : Nat} {e : ChainEntry} {k : Nat} {replay : Bool} {flags : Nat} {data : List (BitVec 32)}
    (h : Kept n s) : Kept n (s.sendStrip tile i e k replay flags data) :=
  h

theorem Kept.pumpFor {k tile i : Nat} (h : Kept n s) : Kept n (State.pumpFor k s tile i) := by
  induction k generalizing s with
  | zero => exact h
  | succ k ih =>
    unfold State.pumpFor
    split
    · exact h
    · exact ih h.setChain.sendStrip

theorem Kept.pump {tile i : Nat} (h : Kept n s) : Kept n (s.pump tile i) := h.pumpFor

theorem Kept.sendAcks {tile i : Nat} (h : Kept n s) : Kept n (s.sendAcks tile i) :=
  Kept.ite (Kept.modChain (h.foldl (fun _ _ h1 => h1.sendChain))) h

theorem Kept.pumpTile {tile : Nat} (h : Kept n s) : Kept n (s.pumpTile tile) := h.foldl (fun _ _ h1 => h1.sendAcks.pump)

theorem Kept.writeCword {e : ChainEntry} {broken : Bool} (h : Kept n s) : Kept n (s.writeCword e broken) :=
  h.poolWrite.setFull.serve

theorem Kept.closeChain {tile i : Nat} (h : Kept n s) : Kept n (s.closeChain tile i) := Kept.setChain h

theorem Kept.sendBreaks {tile i : Nat} {e : ChainEntry} {cause : Nat} (h : Kept n s) : Kept n (s.sendBreaks tile i e cause) :=
  Kept.foldl (Kept.ite h h.sendChain) (fun _ _ h1 => h1.sendChain)

theorem Kept.breakChain {tile i cause : Nat} {tell : Bool} (h : Kept n s) : Kept n (s.breakChain tile i cause tell) := by
  have hset : ∀ l e', Kept n ({ s.sendBreaks tile i (s.chain tile i) cause with strips := l }.setChain tile i e') :=
    fun _ _ => Kept.setChain (Kept.frame h.sendBreaks rfl)
  unfold State.breakChain
  refine Kept.ite h (Kept.ite (Kept.raiseAt ?_) ?_) <;> split
  · exact Kept.dropCue (Kept.ite (hset _ _).writeCword (hset _ _))
  · exact Kept.ite (hset _ _).writeCword (hset _ _)
  · exact Kept.dropCue (Kept.ite (hset _ _).writeCword (hset _ _))
  · exact Kept.ite (hset _ _).writeCword (hset _ _)

theorem Kept.openChain {o : Ops} {d : ChainDesc} {bytes : List Byte} (h : Kept n s) : Kept n (s.openChain o d bytes) :=
  Kept.ite (Kept.finish (Kept.modCur (Kept.setChain ((Kept.frame h.modCur rfl).bump))))
    (Kept.finish (Kept.ite h.modCur.setChain h.modCur.setChain.sendChain))

theorem execAccChain_kept {o : Ops} (h : Kept n s) : OutKept n (execAccChain o s) := by
  unfold execAccChain
  refine issue_kept h ?_
  intro _ h1
  refine Kept.ite h1.raise ?_
  refine Kept.ite h1.raise ?_
  refine Kept.ite h1 ?_
  refine Kept.ite h1.ownServed.raise ?_
  refine Kept.ite h1.ownServed.raise ?_
  refine Kept.ite h1.ownServed.raise ?_
  refine Kept.ite h1.ownServed.raise ?_
  refine Kept.ite h1.ownServed.raise ?_
  refine Kept.ite h1.ownServed.raise ?_
  refine Kept.ite h1.ownServed.raise ?_
  split
  · exact h1.ownServed.raise
  · exact h1.ownServed.openChain

theorem execAccSend_kept {o : Ops} (h : Kept n s) : OutKept n (execAccSend o s) := by
  unfold execAccSend
  refine issue_kept h ?_
  intro _ h1
  split
  · exact h1.raise
  · exact Kept.ite h1.raise (Kept.ite h1.raise (Kept.ite h1.raise h1.setChain.sendAcks.pump.finish))

theorem execAccStat_kept {o : Ops} (h : Kept n s) : OutKept n (execAccStat o s) := by
  unfold execAccStat
  refine issue_kept h ?_
  intro _ h1
  split
  · exact h1.enterWord.finish
  · exact Kept.finish (Kept.ite h1.enterWord.closeChain h1.enterWord)

theorem execAccBreak_kept {o : Ops} (h : Kept n s) : OutKept n (execAccBreak o s) := by
  unfold execAccBreak
  refine issue_kept h ?_
  intro _ h1
  split
  · exact h1.finish
  · exact Kept.ite h1.finish h1.breakChain.closeChain.finish

/-! ## The operations of Copy -/

theorem Kept.setCopyQueue {core q : Nat} {cs : List CopyCmd} (h : Kept n s) : Kept n (s.setCopyQueue core q cs) := h.modCore

theorem Kept.queueCopy {q : Nat} {c : CopyCmd} {cue : Option CueMsg} (h : Kept n s) : Kept n (s.queueCopy q c cue) := by
  unfold State.queueCopy
  dsimp only
  split
  · exact Kept.ite h.await (Kept.finish (Kept.setCopyQueue h.bump))
  · split
    · exact h.await
    · exact Kept.ite h.await (Kept.finish (Kept.modCur (Kept.setCopyQueue h.bumpBy)))

theorem Kept.startCopy {o : Ops} {c : CopyCmd} (h : Kept n s) : Kept n (s.startCopy o c) := by
  unfold State.startCopy
  split
  · exact h.raise
  · refine Kept.ite h.queueCopy ?_
    refine Kept.ite h.raise ?_
    split
    · exact h.raise
    · exact h.queueCopy

theorem execCpyGo1_kept {o : Ops} (h : Kept n s) : OutKept n (execCpyGo1 o s) := issue_kept h (fun _ h1 => h1.startCopy)

theorem descOp_kept {fn : Nat} {o : Ops} (h : Kept n s) : OutKept n (descOp fn o s) :=
  issue_kept h (fun _ h1 => Kept.ite h1.raise (Kept.ite h1.raise (Kept.ite h1 h1.ownServed.startCopy)))

theorem execCpyGo2_kept {o : Ops} (h : Kept n s) : OutKept n (execCpyGo2 o s) := descOp_kept h

theorem execCpyGather_kept {o : Ops} (h : Kept n s) : OutKept n (execCpyGather o s) := descOp_kept h

theorem execCpyScatter_kept {o : Ops} (h : Kept n s) : OutKept n (execCpyScatter o s) := descOp_kept h

theorem execCpyFill_kept {o : Ops} (h : Kept n s) : OutKept n (execCpyFill o s) := issue_kept h (fun _ h1 => h1.startCopy)

theorem execCpyJoin_kept {o : Ops} (h : Kept n s) : OutKept n (execCpyJoin o s) :=
  issue_kept h (fun _ h1 => Kept.ite h1.await (Kept.finish (Kept.foldl h1.bump (fun _ _ h2 => h2.setCopyQueue))))

theorem execCpyWait_kept {o : Ops} (h : Kept n s) : OutKept n (execCpyWait o s) :=
  issueLate_kept h (fun _ h1 => Kept.ite h1.clearPending.finish h1.await)

/-! ## The operations of Group -/

theorem execGrpId_kept {o : Ops} (h : Kept n s) : OutKept n (execGrpId o s) := by
  unfold execGrpId
  refine issue_kept h ?_
  intro _ h1
  refine Kept.ite h1.raise ?_
  split
  · exact h1.modCur.finish
  · exact Kept.ite h1.raise h1.modCur.finish

theorem execGrpSize_kept {o : Ops} (h : Kept n s) : OutKept n (execGrpSize o s) :=
  issue_kept h (fun _ h1 => Kept.ite h1.raise h1.modCur.finish)

theorem execGrpBudget_kept {o : Ops} (h : Kept n s) : OutKept n (execGrpBudget o s) := issueReg_kept h

theorem execGrpRegs_kept {o : Ops} (h : Kept n s) : OutKept n (execGrpRegs o s) :=
  issue_kept h (fun _ h1 => Kept.ite h1.raise (Kept.ite h1 h1.modCur.finish))

theorem Kept.squash {tid : Nat} (h : Kept n s) : Kept n (s.squash tid) := h.modCore

theorem Kept.dropCues {tid : Nat} (h : Kept n s) : Kept n (s.dropCues tid) := h.dropCuesBy

theorem Kept.endChains {tid cause : Nat} {all : Bool} (h : Kept n s) : Kept n (s.endChains tid cause all) :=
  h.foldl (fun _ _ h1 => Kept.ite h1.breakChain.closeChain (Kept.ite h1 h1.closeChain))

theorem Kept.retire {tid : Nat} (h : Kept n s) : Kept n (s.retire tid) := h.depart.dropCues.squash.endChains.modThread

theorem execGrpExit_kept {o : Ops} (h : Kept n s) : OutKept n (execGrpExit o s) :=
  issue_kept h (fun _ h1 => Kept.ite h1.finishAt.retire h1.await)

/-! ## The operations of PageLink -/

theorem Kept.probe {asid : Nat} {a : Word} (h : Kept n s) : Kept n (s.probe asid a).1 := by
  unfold State.probe
  dsimp only
  split
  · exact h.setStation
  · split
    · next e1 => exact Kept.of_fst h.walkAt e1
    · next e1 => exact Kept.of_fst h.walkAt e1

theorem execPgProbe_kept {o : Ops} (h : Kept n s) : OutKept n (execPgProbe o s) :=
  issue_kept h (fun _ h1 => Kept.ite h1.raise h1.enter.modCur.finish)

theorem execLnkStat_kept {o : Ops} (h : Kept n s) : OutKept n (execLnkStat o s) :=
  issue_kept h (fun _ h1 => Kept.ite h1.raise h1.enterWord.finish)

/-! ## The operations of QueueIsa -/

theorem Kept.givePush {asid q : Nat} {packet : List Byte} (h : Kept n s) : Kept n (s.givePush asid q packet) := h.enter.modQueue

theorem execQuePush_kept {o : Ops} (h : Kept n s) : OutKept n (execQuePush o s) :=
  issue_kept h (fun _ h1 => Kept.ite h1.raise
    (Kept.ite h1.raise (Kept.ite h1.raise (Kept.ite h1.raise (Kept.ite h1 (Kept.ite h1.await h1.ownServed.givePush.finish))))))

theorem Kept.queueView {asid q : Nat} (h : Kept n s) : AgKept n (s.queueView asid q) :=
  AgKept.ite h (h.agentRead.bind (fun _ _ h1 => h1))

theorem execQueStat_kept {o : Ops} (h : Kept n s) : OutKept n (execQueStat o s) := by
  unfold execQueStat
  refine issue_kept h ?_
  intro _ h1
  refine Kept.ite h1.raise ?_
  split
  · exact h1.issueLoad
  · exact h1.issueLoad
  · dsimp only
    split
    · next e2 =>
        have h2 := AgKept.of_eq h1.queueView e2
        exact Kept.issueLoad (Kept.ite h2 h2.agentDone)
    · exact h1.needs
    · exact h1.agentForget.raise

theorem Kept.entryFinished {asid q : Nat} {seq : Word} (h : Kept n s) : AgKept n (s.entryFinished asid q seq) :=
  AgKept.ite h (h.queueView.bind (fun _ _ h1 => AgKept.ite h1 (AgKept.ite h1 (h1.agentRead.bind (fun _ _ h2 => h2)))))

theorem execQueWait_kept {o : Ops} (h : Kept n s) : OutKept n (execQueWait o s) := by
  unfold execQueWait
  refine issueLate_kept h ?_
  intro _ h1
  refine Kept.ite h1.raise ?_
  split
  · next e2 => exact (AgKept.of_eq h1.entryFinished e2).agentDone.clearPending.fence.finish
  · next e2 => exact (AgKept.of_eq h1.entryFinished e2).agentDone.await
  · exact h1.needs.await
  · exact h1.await

/-! ## The operations of MemEvents -/

theorem Kept.takeMsg {p : LinkMsg → Bool} {r : InMsg × State} (h : Kept n s) (e : s.takeMsg p = some r) : Kept n r.2 := by
  obtain ⟨m, -, rfl⟩ := Option.map_eq_some_iff.mp e
  exact h

theorem Kept.reclass {tid : Nat} (h : Kept n s) : Kept n (s.reclass tid) := Kept.ite h.setThread h

theorem Kept.cancelLoads {tid : Nat} (h : Kept n s) : Kept n (s.cancelLoads tid) :=
  Kept.modThread (h.mapAccs (by intro _; split <;> rfl))

theorem Kept.withdraw {tid : Nat} (h : Kept n s) : Kept n (s.withdraw tid) := Kept.ite h.cancelLoads h

theorem Kept.waitOver {tid : Nat} {w : Wait} (h : Kept n s) : AgKept n (s.waitOver tid w) := by
  unfold State.waitOver
  dsimp only
  split
  · exact h
  · exact h
  · exact h
  · exact h
  · exact h
  · exact h.entryFinished
  · exact h
  · exact h
  · exact h
  · exact h
  · exact h
  · exact h
  · exact h
  · exact h

theorem execSwitchMarkerWaitEnds_kept {tid : Nat} (h : Kept n s) : OutKept n (execSwitchMarkerWaitEnds tid s) := by
  unfold execSwitchMarkerWaitEnds
  dsimp only
  split
  · exact h
  · exact OutKept.ite (h.agentEnd h.waitOver (fun _ _ h1 => Kept.ite h1.modThread h1) (fun _ _ h1 => h1)) h

theorem execVariableLatencyResult_kept {acc : Nat} (h : Kept n s) : OutKept n (execVariableLatencyResult acc s) := by
  unfold execVariableLatencyResult
  split
  · exact h
  · exact OutKept.ite (Kept.reclass (Kept.dropAcc (Kept.ite h h.modThread))) h

theorem execStoreAcknowledgement_kept {acc part : Nat} (h : Kept n s) : OutKept n (execStoreAcknowledgement acc part s) := by
  unfold execStoreAcknowledgement
  split
  · exact h
  · split
    · exact h
    · exact OutKept.ite h.modGroup.settle h

theorem Kept.refuse {i j : Nat} {code : FaultCode} (h : Kept n s) : Kept n (s.refuse i j code) := by
  refine h.modAcc (fun a => ?_)
  split
  · rfl
  · exact Access.foldl_id (fun b k => by split <;> rfl) _ a

theorem execPoolAccessArrival_kept {acc part : Nat} (h : Kept n s) : OutKept n (execPoolAccessArrival acc part s) := by
  unfold execPoolAccessArrival
  split
  · exact h
  · split
    · exact h
    · refine OutKept.ite h ?_
      split
      · exact OutKept.ite h h.arrivePool.settle.reclass
      · exact OutKept.ite h.refuse (OutKept.ite h h.arrivePool.settle.reclass)
      · exact h

theorem execConsumingLoadServed_kept {core : Nat} (h : Kept n s) : OutKept n (execConsumingLoadServed core s) := by
  unfold execConsumingLoadServed
  split
  · exact h
  · split
    · exact h
    · exact h.performGroup.reclass

theorem execConsumingLoadResend_kept {acc : Nat} (h : Kept n s) : OutKept n (execConsumingLoadResend acc s) := by
  unfold execConsumingLoadResend
  split
  · exact h
  · exact OutKept.ite (h.modAcc (fun _ => by rfl)).reclass h

theorem Kept.forward {a : Access} {part : Nat} {base : Word} {l : Loc} (h : Kept n s) : Kept n (s.forward a part base l) := by
  unfold State.forward
  split
  · exact h.modGroup
  · exact Kept.ite h.refuse (Kept.ite h.performGroup.settle.modLaunch h.performGroup.settle)
  · exact Kept.ite h.refuse (Kept.sendRemote (Kept.modGroup (Kept.ite h h)))
  · exact h

theorem Kept.lookupAt {a : Access} {part : Nat} {p : Part} (h : Kept n s) : Kept n (s.lookupAt a part p) := by
  unfold State.lookupAt
  refine Kept.ite ?_ (Kept.ite (Kept.modGroup h) (Kept.ite h (Kept.modGroup h)))
  split
  · next e1 =>
      have h1 := Kept.of_fst h.translate e1
      exact Kept.forward (Kept.ite (Kept.modGroup h1) h1)
  · exact h

theorem execTranslationRequest_kept {acc part : Nat} (h : Kept n s) : OutKept n (execTranslationRequest acc part s) := by
  unfold execTranslationRequest
  split
  · exact h
  · split
    · exact h
    · exact OutKept.ite h
        (OutKept.ite (OutKept.ite h (h.probe.modAcc (fun _ => rfl))) (OutKept.ite (OutKept.ite (Kept.modGroup h) h) h.lookupAt))

theorem execWalkDone_kept {acc part : Nat} (h : Kept n s) : OutKept n (execWalkDone acc part s) := by
  unfold execWalkDone
  split
  · exact h
  · split
    · exact h
    · refine OutKept.ite h ?_
      split
      · next e1 => exact (Kept.of_fst h.translateFor e1).forward
      · next e1 => exact (Kept.of_fst h.translateFor e1).modGroup

theorem Kept.writeEntries {ws : List (Nat × Word)} (h : Kept n s) : Kept n (s.writeEntries ws) :=
  h.foldl (fun _ _ h1 => h1.writePte)

theorem execPageFaultAnswer_kept {asid : Nat} {va : Word} {resolved : Bool} {writes : List (Nat × Word)} (h : Kept n s) :
    OutKept n (execPageFaultAnswer asid va resolved writes s) :=
  (Kept.modCtx (Kept.mapAccs (Kept.frame (Kept.ite h.writeEntries h) rfl) (fun _ => rfl)) (fun _ => rfl))

theorem execInvalidation_kept {k : InvKind} {writes : List (Nat × Word)} (h : Kept n s) : OutKept n (execInvalidation k writes s) :=
  (Kept.frame h.writeEntries rfl)

theorem execInvalidationComplete_kept (h : Kept n s) : OutKept n (execInvalidationComplete s) := by
  unfold execInvalidationComplete
  split <;> exact h

theorem execDramBurst_kept {ch : Nat} (h : Kept n s) : OutKept n (execDramBurst ch s) := by
  unfold execDramBurst
  refine OutKept.ite h ?_
  split
  · exact h
  · refine Kept.settle (h.setChannel.foldl ?_)
    intro _ _ h1
    dsimp only
    split
    · exact Kept.ite (h1.performPart.modAcc (fun _ => rfl)) h1
    · exact h1

theorem execDramRefresh_kept {ch : Nat} (h : Kept n s) : OutKept n (execDramRefresh ch s) := h.setChannel

theorem Kept.remotePerform {asid pa : Nat} {op : RemOp} (h : Kept n s) : Kept n (s.remotePerform asid pa op).1 := by
  cases op with
  | read => exact Kept.ite_fst h h
  | write => exact Kept.ite_fst h h.writeDram
  | scatter => exact Kept.ite_fst h (h.withDram (Memory.wf_foldl (fun _ _ hm => Memory.wf_write hm _ _) _ h.dramWf))
  | atomic => exact Kept.ite_fst h (atomicAt_kept h)

theorem execRemoteOperation_kept {ecc : Bool} (h : Kept n s) : OutKept n (execRemoteOperation ecc s) := by
  unfold execRemoteOperation
  split
  · next e1 =>
      have h1 := h.takeMsg e1
      dsimp only
      split
      · exact h1.sendTo
      · refine Kept.sendTo ?_
        refine Kept.frame ?_ rfl
        split
        · exact h1
        · exact h1.remotePerform
  · exact h

theorem Ctx.remote_saved {num : BitVec 32} {res : RemRes} (c : Ctx) : (c.remote num res).saved = c.saved := by
  unfold Ctx.remote
  split
  · rfl
  · split <;> rfl

theorem Kept.answer {num : BitVec 32} {res : RemRes} (h : Kept n s) : Kept n (s.answer num res) := by
  refine Kept.foldl ?_ (fun _ _ h1 => h1.settle)
  refine ⟨h.le, ⟨h.dramWf, h.hostWf⟩, ?_, (h.mapCtxs Ctx.remote_saved).savedBelow⟩
  exact AccsBelow.map h.accsBelow (fun _ => rfl)

theorem execRemoteAck_kept (h : Kept n s) : OutKept n (execRemoteAck s) := by
  unfold execRemoteAck
  split
  · next e1 => exact (h.takeMsg e1).answer
  · exact h

theorem execRemoteFaultReport_kept {acc part : Nat} {ecc : Bool} (h : Kept n s) :
    OutKept n (execRemoteFaultReport acc part ecc s) := by
  unfold execRemoteFaultReport
  split
  · exact h
  · dsimp only
    split
    · exact h
    · next a _ _ p code _ =>
      have hmod : Kept n (s.modAcc acc (fun b =>
          if b.op = .clear then { b with parts := b.parts.map (fun q => if q.performed then q else { q with stage := .reported code }) }
          else (b.group part).foldl (fun b j => match b.parts[j]? with
            | some q => b.setPart j { q with stage := .reported code }
            | none => b) b)) := by
        refine h.modAcc (fun b => ?_)
        split
        · rfl
        · exact Access.foldl_id (fun b k => by split <;> rfl) _ b
      exact OutKept.ite hmod.dropAcc (OutKept.ite hmod hmod.withdraw.raiseAt)

/-! ## The operations of Engine -/

theorem execSfuResult_kept {core : Nat} (h : Kept n s) : OutKept n (execSfuResult core s) := by
  unfold execSfuResult
  split
  · exact h
  · exact OutKept.ite h h.modCore.modThread

theorem Kept.engineLoc {core asid : Nat} {va : Word} {write : Bool} (h : Kept n s) : Kept n (s.engineLoc core asid va write).1 := by
  unfold State.engineLoc
  split
  · exact h
  · exact h
  · exact h
  · split
    · exact h
    · split
      · exact h
      · split
        · next e1 => exact Kept.of_fst h.translateFor e1
        · next e1 =>
            have h1 := Kept.of_fst h.translateFor e1
            split
            · exact h1.placeServed
            · exact h
        · next e1 => exact Kept.of_fst h.translateFor e1

theorem Kept.sendOp {vc asid pkg : Nat} {va : Word} {pa : Nat} {op : RemOp} {old : Option (BitVec 32)} (h : Kept n s) :
    Kept n (s.sendOp vc asid pkg va pa op old).2 := by
  unfold State.sendOp
  split
  · exact h.sendRemote
  · exact Kept.sendRemote h

theorem Kept.modHead {core q : Nat} {f : CopyCmd → CopyCmd} (h : Kept n s) : Kept n (s.modHead core q f) := by
  unfold State.modHead
  split
  · exact h
  · exact h.setCopyQueue

theorem execCopyStart_kept {core q : Nat} (h : Kept n s) : OutKept n (execCopyStart core q s) := by
  unfold execCopyStart
  split
  · exact h
  · exact OutKept.ite h (OutKept.ite (OutKept.ite (h.foldl (fun _ _ h1 => h1.setCopyQueue)) h) h.modHead)

theorem Kept.stopCopy {core q : Nat} {va : Word} {r : EngLoc} (h : Kept n s) : Kept n (s.stopCopy core q va r) := h.modHead

theorem Kept.locServed {rank : Nat} {l : Loc} (h : Kept n s) : Kept n (s.locServed rank l) := by
  unfold State.locServed
  split
  · exact h.serve
  · exact h

theorem Kept.retired {core q : Nat} {l : Loc} (h : Kept n s) : Kept n (s.retired core q l) := by
  unfold State.retired
  dsimp only
  split
  · exact h.modHead.setFull
  · exact h.modHead

theorem Kept.keepOld {core q : Nat} {l : Loc} (h : Kept n s) : Kept n (s.keepOld core q l) := h.modHead

theorem Kept.sendUnit {core q : Nat} {c : CopyCmd} {va : Word} {pkg pa : Nat} {op : RemOp} {saving : Option Loc} (h : Kept n s) :
    Kept n (s.sendUnit core q c va pkg pa op saving) :=
  h.sendOp.modHead

theorem Kept.writeUnit {core q : Nat} {c : CopyCmd} {va : Word} {bs : List Byte} (h : Kept n s) :
    Kept n (s.writeUnit core q c va bs) := by
  unfold State.writeUnit
  dsimp only
  split
  · next e1 =>
      have h1 := Kept.of_fst h.engineLoc e1
      exact Kept.ite h1.retired (Kept.ite (Kept.ite h1.sendUnit (Kept.ite (Kept.sendUnit h1) (Kept.retired h1))) h1.sendUnit)
  · next e1 =>
      have h1 := Kept.of_fst h.engineLoc e1
      exact Kept.ite h
        (Kept.ite (Kept.retired
          (Kept.locServed
            (Kept.ite (Kept.writeLoc (Kept.frame h1.keepOld rfl)) (Kept.frame h1.keepOld rfl)))) h1.writeLoc.locServed.retired)
  · next e1 => exact (Kept.of_fst h.engineLoc e1).stopCopy

theorem Kept.readUnit {core q : Nat} {c : CopyCmd} {va : Word} (h : Kept n s) : Kept n (s.readUnit core q c va).1 := by
  unfold State.readUnit
  dsimp only
  split
  · exact h
  · next e1 =>
      have h1 := Kept.of_fst h.engineLoc e1
      split
      · exact h1
      · exact h1.sendUnit
  · next e1 =>
      have h1 := Kept.of_fst h.engineLoc e1
      split
      · exact h
      · exact h1.locServed
  · next e1 => exact (Kept.of_fst h.engineLoc e1).stopCopy

theorem execRetireUnit_kept {core q : Nat} (h : Kept n s) : OutKept n (execRetireUnit core q s) := by
  unfold execRetireUnit
  split
  · exact h
  · refine OutKept.ite h ?_
    split
    · exact h.stopCopy
    · have hserved : ∀ l c, Kept n (State.modHead ((Option.map (s.locServed rankCopy) l).getD s) core q c) :=
        fun _ _ => Kept.modHead (h.option_getD (fun _ => h.locServed))
      refine OutKept.ite h (OutKept.ite (hserved _ _).writeUnit (OutKept.ite (hserved _ _).writeUnit ?_))
      split
      · next e => exact (Kept.of_fst (hserved _ _).readUnit e).modHead.writeUnit
      · next e => exact Kept.of_fst (hserved _ _).readUnit e

theorem execCopyFinish_kept {core q : Nat} (h : Kept n s) : OutKept n (execCopyFinish core q s) := by
  unfold execCopyFinish
  split
  · exact h
  · refine OutKept.ite h ?_
    split
    · exact h.setCopyQueue.modCue
    · exact h.setCopyQueue

theorem execCopyFault_kept {core q : Nat} {ecc : Bool} (h : Kept n s) : OutKept n (execCopyFault core q ecc s) := by
  unfold execCopyFault
  split
  · exact h
  · split
    · exact h
    · exact OutKept.ite h h.modHead.withdraw.raiseAt

theorem execCopyRetry_kept {core q : Nat} (h : Kept n s) : OutKept n (execCopyRetry core q s) := by
  unfold execCopyRetry
  split
  · exact h
  · exact OutKept.ite h.modHead h

theorem stage_kept {core asid : Nat} {write : Bool} {staged : List (Word × Option (List Byte))} {gs : List Word} {r : Staging}
    (h : Kept n r.s) : Kept n (stage core asid write staged gs r).s := by
  induction gs generalizing r with
  | nil => exact h
  | cons g gs ih =>
    unfold stage
    split
    · exact ih h
    · exact ih h
    · split
      · next e => exact ih (Kept.of_fst h.engineLoc e)
      · next e =>
        split
        · exact ih (Kept.locServed (Kept.of_fst h.engineLoc e))
        · exact h
      · next e => exact Kept.of_fst h.engineLoc e

theorem Kept.modMx {core : Nat} {f : MxCmd → MxCmd} (h : Kept n s) : Kept n (s.modMx core f) := h.modCore

theorem Kept.noteMx {core : Nat} {m : MxCmd} {st : MxState} (h : Kept n s) : Kept n (s.noteMx core m st) := h.modCore

theorem Kept.writeRows {core slot row : Nat} {rows : List (List Nat)} (h : Kept n s) : Kept n (s.writeRows core slot row rows) :=
  h.poolWrite

theorem Kept.orStatus {core slot flags : Nat} (h : Kept n s) : Kept n (s.orStatus core slot flags) := h.modCore

theorem Kept.stepMx {core : Nat} {c : MxCmd} {here : List (Word × (Loc ⊕ List Byte))} (h : Kept n s) :
    Kept n (s.stepMx core c here) := by
  unfold State.stepMx
  dsimp only
  split
  · exact h.writeRows.orStatus
  · exact h.writeRows.orStatus
  · exact h.writeRows.orStatus
  · exact Kept.ite h.writeRows.modCore h.writeRows
  · exact h.orStatus
  · exact h.writeRows

theorem Kept.mxStage {core : Nat} {c : MxCmd} (h : Kept n s) : Kept n (s.mxStage core c).s := stage_kept h

theorem Kept.askMissing {core : Nat} {c : MxCmd} {ms : List (Word × Nat × Nat)} (h : Kept n s) : Kept n (s.askMissing core c ms) :=
  h.foldl (fun _ _ h1 => h1.sendOp.modMx)

theorem Kept.xferWrite {core : Nat} {c : MxCmd} {g : Word × Loc} (h : Kept n s) : Kept n (s.xferWrite core c g) := h.writeLoc.modMx

theorem Kept.stepDone {tile core credit : Nat} {c : MxCmd} (h : Kept n s) : Kept n (s.stepDone tile core credit c) :=
  h.modMx.noteMx.modCore.modTile

theorem Kept.grant {tile core credit : Nat} {c : MxCmd} (h : Kept n s) : Kept n (s.grant tile core credit c) := by
  have hs : Kept n (if c.fn = 5
      then (s.mxStage core c).fresh.foldl (fun s g => s.xferWrite core c g) (s.mxStage core c).s else (s.mxStage core c).s) :=
    Kept.ite (h.mxStage.foldl (fun _ _ h1 => h1.xferWrite)) h.mxStage
  unfold State.grant
  dsimp only
  split
  · exact hs
  · exact hs.modMx
  · exact hs.modMx
  · exact Kept.ite hs.askMissing hs.stepMx.stepDone

theorem execMxuGrant_kept {tile : Nat} (h : Kept n s) : OutKept n (execMxuGrant tile s) := by
  unfold execMxuGrant
  refine OutKept.ite h ?_
  dsimp only
  split
  · exact h.foldl (fun _ _ h1 => Kept.ite h1.modCore h1)
  · exact Kept.grant (h.foldl (fun _ _ h1 => Kept.ite h1.modCore h1))

theorem execMxuStage_kept {core : Nat} (h : Kept n s) : OutKept n (execMxuStage core s) := by
  unfold execMxuStage
  split
  · exact h
  · exact OutKept.ite h.mxStage.modMx.askMissing h

theorem execMxuAccept_kept {core : Nat} (h : Kept n s) : OutKept n (execMxuAccept core s) := by
  unfold execMxuAccept
  split
  · exact h
  · exact OutKept.ite h.modMx.noteMx h

theorem execMxuFinish_kept {core : Nat} (h : Kept n s) : OutKept n (execMxuFinish core s) := by
  unfold execMxuFinish
  split
  · exact h
  · exact OutKept.ite h.modCore.noteMx.pumpTile h

theorem execMxuOperandFault_kept {core : Nat} {ecc : Bool} (h : Kept n s) : OutKept n (execMxuOperandFault core ecc s) := by
  unfold execMxuOperandFault
  split
  · exact h
  · split
    · exact h
    · exact OutKept.ite h h.modMx.noteMx.withdraw.raiseAt

theorem execMxuRetry_kept {core : Nat} (h : Kept n s) : OutKept n (execMxuRetry core s) := by
  unfold execMxuRetry
  split
  · exact h
  · exact OutKept.ite h.modMx h

/-! ## The operations of Contain -/

theorem Kept.discardCopies {tid : Nat} (h : Kept n s) : Kept n (s.discardCopies tid) := by
  unfold State.discardCopies
  refine h.foldl ?_
  intro _ _ h1
  refine Kept.setCopyQueue ?_
  refine h1.foldl ?_
  intro _ _ h2
  split
  · exact h2.dropCue
  · exact h2

theorem Kept.discardMatrix {tid : Nat} (h : Kept n s) : Kept n (s.discardMatrix tid) := h.modCore

theorem Kept.dropLoads {tid : Nat} (h : Kept n s) : Kept n (s.dropLoads tid) := h.filterAccs

theorem Kept.killThread {tid action : Nat} (h : Kept n s) : Kept n (s.killThread tid action) :=
  Kept.ite h.endChains (Kept.ite h h.depart.dropCues.squash.discardCopies.discardMatrix.dropLoads.endChains.modThread)

theorem Kept.killHere {l : LaunchId} {level node action : Nat} (h : Kept n s) : Kept n (s.killHere l level node action) :=
  Kept.modLaunch (h.foldl (fun _ _ h1 => h1.killThread))

theorem Kept.killNode {l : LaunchId} {level node : Nat} (h : Kept n s) : Kept n (s.killNode l level node) := h.killHere.sendPeers

theorem Kept.discardChains {asid : Nat} (h : Kept n s) : Kept n (s.discardChains asid) := h

theorem Kept.rootHere {asid code : Nat} {by' : Option (Nat × Word)} {ev : Nat × Word} (h : Kept n s) :
    Kept n (s.rootHere asid code by' ev) := by
  have hkill : Kept n ((s.ctxTids asid).foldl (fun (s : State) t => s.killThread t 3) s) := h.foldl (fun _ _ h1 => h1.killThread)
  have hchains := hkill.discardChains (asid := asid)
  refine Kept.oweNow (Kept.foldl ?_ (fun _ _ h1 => h1.markQueue))
  refine Kept.modCtx_unsaved (Kept.foldl ?_ (fun _ _ h1 => h1.releaseArea)) (fun _ => rfl)
  exact Kept.dropCuesBy (Kept.frame hchains rfl)

theorem Kept.rootBare {asid code : Nat} {by' : Option (Nat × Word)} {ev : Nat × Word} (h : Kept n s) :
    Kept n (s.rootBare asid code by' ev) :=
  Kept.ite h.rootHere.sendPeers h

theorem Kept.rootFault {l : LaunchId} {code : FaultCode} (h : Kept n s) : Kept n (s.rootFault l code) := h.rootBare

theorem Kept.retryCopy {core q : Nat} {code : FaultCode} (h : Kept n s) : Kept n (s.retryCopy core q code) := h.modHead

theorem Kept.retryMatrix {core : Nat} {code : FaultCode} (h : Kept n s) : Kept n (s.retryMatrix core code) := h.modMx

theorem Kept.applyAction {tid : Nat} {f : Raised} {again : Bool} (h : Kept n s) : Kept n (s.applyAction tid f again) := by
  unfold State.applyAction
  split
  · refine Kept.ite ?_ ?_
    · split
      · exact h.modCue.rewriteCell
      · exact h.raiseAt
    · split
      · exact h.modCue.rewriteCell
      · exact h
  · exact h.modThread
  · exact h.modAcc (fun _ => rfl)
  · exact h.retryCopy
  · exact h.retryMatrix
  · exact h.modThread
  · exact h.modThread
  · exact h.modChain
  · exact h

theorem Kept.resolve {tid : Nat} {f : Raised} {again : Bool} (h : Kept n s) : Kept n (s.resolve tid f again) :=
  h.modThread.applyAction

theorem Kept.timeoutBreak {f : Raised} (h : Kept n s) : Kept n (s.timeoutBreak f) := by
  unfold State.timeoutBreak
  split
  · exact h.breakChain
  · exact h

theorem execFaultDelivered_kept {tid : Nat} (h : Kept n s) : OutKept n (execFaultDelivered tid s) := by
  unfold execFaultDelivered
  dsimp only
  split
  · exact OutKept.ite h h.modThread
  · exact h
  · split
    · exact OutKept.ite h h.modThread.resolve
    · exact OutKept.ite h h.modThread.resolve
    · exact OutKept.ite h h.modThread.timeoutBreak.modThread.killNode
    · exact h.modThread.timeoutBreak.modThread.rootFault

theorem execKillNotice_kept (h : Kept n s) : OutKept n (execKillNotice s) := by
  unfold execKillNotice
  split
  · next e1 =>
      have h1 := h.takeMsg e1
      exact Kept.ite (Kept.killHere (Kept.ite h1 h1)) h1
  · next e1 =>
      have h1 := h.takeMsg e1
      exact Kept.ite h1.rootHere h1
  · exact h

/-! ## The operations of CueEvents -/

theorem Kept.notePeak {asid : Nat} (h : Kept n s) : Kept n (s.notePeak asid) := h.modCtx (fun _ => rfl)

theorem Kept.ovfWrite {asid : Nat} {va : Word} {bs : List Byte} (h : Kept n s) : AgKept n (s.ovfWrite asid va bs) :=
  AgKept.ite h.agentWrite trivial

theorem Kept.ovfSync {asid : Nat} (h : Kept n s) : AgKept n (s.ovfSync asid) := h.ovfWrite

theorem Kept.stageBlock {id : Nat} (h : Kept n s) : Kept n (s.stageBlock id) := by
  unfold State.stageBlock
  split
  · exact h
  · exact Kept.ite h h.modCue.ovfJob.notePeak

theorem Kept.toCell {id : Nat} {place : CuePlace} (h : Kept n s) : Kept n (s.toCell id place) := by
  unfold State.toCell
  dsimp only
  split
  · exact h.stageBlock
  · exact (h.stageBlock.modCue.ovfJob.modCtx (fun _ => by rfl)).notePeak

theorem Kept.areaEnd {l : LaunchId} {r : Ag Unit} {done : State → State} (h : Kept n s) (hdone : ∀ t, Kept n t → Kept n (done t))
    (hr : AgKept n r) : Kept n (s.areaEnd l r done) :=
  h.agentEnd hr (fun _ _ h1 => hdone _ h1) (fun _ _ h1 => h1.rootBare)

theorem Kept.jobWrite {asid : Nat} {j : OvfJob} (h : Kept n s) : AgKept n (s.jobWrite asid j) := by
  unfold State.jobWrite
  split
  · exact h
  · split <;> with_reducible exact h.ovfWrite
  · split
    · with_reducible exact h.ovfWrite
    · exact h

theorem execOverflowUpdate_kept {asid : Nat} (h : Kept n s) : OutKept n (execOverflowUpdate asid s) := by
  unfold execOverflowUpdate
  split
  · exact h
  · have hr : ∀ j, AgKept n ((s.jobWrite asid j).bind (fun _ s => s.ovfSync asid)) :=
      fun j => h.jobWrite.bind (fun _ _ h1 => h1.ovfSync)
    dsimp only
    split
    · exact (h.modCtx (fun _ => by rfl)).areaEnd (fun _ h1 => h1) trivial
    · exact h.areaEnd (fun _ h1 => h1.modCtx (fun _ => rfl)) (hr _)

theorem Kept.lateCheck {tid : Nat} {c : Cue} (h : Kept n s) : Kept n (s.lateCheck tid c) := Kept.ite h.raiseAt h

theorem Kept.cueArrived {c : Cue} (h : Kept n s) : Kept n (s.cueArrived c) := by
  unfold State.cueArrived
  split
  · exact h
  · exact Kept.ite h.modCue.modEntry h.modCue.sendTo

theorem execCueStore_kept {cue : Nat} (h : Kept n s) : OutKept n (execCueStore cue s) := by
  unfold execCueStore
  split
  · exact h
  · refine OutKept.ite h.cueArrived.dropCuesBy ?_
    split
    · exact h
    · refine OutKept.ite h ?_
      split
      · exact h
      · exact h.stageBlock.modCue.lateCheck.cueArrived

theorem execCueSpill_kept {cue : Nat} (h : Kept n s) : OutKept n (execCueSpill cue s) := by
  unfold execCueSpill
  split
  · exact h
  · exact OutKept.ite h h.toCell.lateCheck.cueArrived

theorem execCueHold_kept {cue : Nat} (h : Kept n s) : OutKept n (execCueHold cue s) := by
  unfold execCueHold
  split
  · exact h
  · exact OutKept.ite h.toCell.cueArrived h

theorem execCueForward_kept {cue : Nat} (h : Kept n s) : OutKept n (execCueForward cue s) := by
  unfold execCueForward
  split
  · exact h
  · exact OutKept.ite h (OutKept.ite h.dropCuesBy (OutKept.ite h.modCue.staleCell h))

theorem execCueMerge_kept {tid : Nat} (h : Kept n s) : OutKept n (execCueMerge tid s) := by
  unfold execCueMerge
  split
  · exact h.modCue.staleCell
  · exact h

theorem execSpillFetchDone_kept {tid : Nat} (h : Kept n s) : OutKept n (execSpillFetchDone tid s) := by
  unfold execSpillFetchDone
  split
  · exact h
  · exact OutKept.ite h.modCue h

theorem execCueRelease_kept {tid : Nat} (h : Kept n s) : OutKept n (execCueRelease tid s) := by
  unfold execCueRelease
  refine OutKept.ite h ?_
  split
  · exact h.modCue
  · exact h

theorem Kept.deliverBlock {core off : Nat} {m : CueMsg} (h : Kept n s) : Kept n (s.deliverBlock core off m) :=
  Kept.ite (h.poolWrite.foldl (fun _ _ h1 => h1.setFull)) h

theorem Kept.startServed {core win off : Nat} {m : CueMsg} (h : Kept n s) : Kept n (s.startServed core win off m) :=
  Kept.ite h.serve.serve h.serve

theorem execHandlerStart_kept {tid : Nat} (h : Kept n s) : OutKept n (execHandlerStart tid s) := by
  unfold execHandlerStart
  refine OutKept.ite h ?_
  split
  · exact OutKept.ite h h.startServed.deliverBlock.poolWrite.modThread.dropCuesBy
  · exact h

theorem execBudgetExhausted_kept {tid : Nat} (h : Kept n s) : OutKept n (execBudgetExhausted tid s) :=
  OutKept.ite (Kept.modThread (Kept.ite h.cancelLoads h)) h

/-! ## The operations of Image -/

theorem Kept.readImage {asid : Nat} {at' : Word} (h : Kept n s) : AgKept n (s.readImage asid at') :=
  h.agentRead.bind
    (fun _ _ h1 => AgKept.ite h1
      (h1.agentRead.bind (fun _ _ h2 => h2.agentRead.bind (fun _ _ h3 => AgKept.ite h3 (h3.agentRead.bind (fun _ _ h4 => h4))))))

/-! ## The operations of QueueEvents -/

theorem Kept.noteBad {asid : Nat} {code : FaultCode} {va : Word} (h : Kept n s) : Kept n (s.noteBad asid code va) :=
  Kept.ite h (h.modCtx (fun _ => rfl))

theorem Kept.queueEnd {α : Type} {asid : Nat} {r : Ag α} {done : α → State → State} (h : Kept n s)
    (hdone : ∀ a t, Kept n t → Kept n (done a t)) (hr : AgKept n r) : Kept n (s.queueEnd asid r done) := by
  unfold State.queueEnd
  split
  · exact h.noteBad
  · exact h.agentEnd hr (fun _ _ h1 => hdone _ _ h1) (fun _ _ h1 => h1)

theorem execQueueAccessFault_kept {asid q : Nat} (h : Kept n s) : OutKept n (execQueueAccessFault asid q s) := by
  unfold execQueueAccessFault
  split
  · exact h.agentForget.rootBare
  · exact h

theorem Kept.endPush {acc : Nat} (h : Kept n s) : Kept n (s.endPush acc) := (h.modAcc (fun _ => by rfl)).settle

theorem Kept.pushOver {asid q : Nat} {p : Push} {pos : Option Nat} (h : Kept n s) : Kept n (s.pushOver asid q p pos) :=
  Kept.ite h.endPush h.sendTo

theorem Kept.dropPushes {asid q : Nat} (h : Kept n s) : Kept n (s.dropPushes asid q) :=
  Kept.modQueue (h.foldl (fun _ _ h1 => Kept.ite h1.pushOver h1))

theorem Kept.turnLater {asid q : Nat} {k : Need} {on : Bool} (h : Kept n s) : Kept n (s.turnLater asid q k on) := h.needs.modQueue

theorem Kept.turned {asid q : Nat} (h : Kept n s) : Kept n (s.turned asid q) := h.modQueue

theorem Kept.tableFault {asid q : Nat} {code : FaultCode} (h : Kept n s) : Kept n (s.tableFault asid q code) := h.turned.rootBare

theorem Kept.enabledAs {asid q : Nat} {e : List Byte} (h : Kept n s) : AgKept n (s.enabledAs asid q e) :=
  AgKept.ite h.setQueue (AgKept.ite h.setQueue (h.agentWrites.bind (fun _ _ h1 => h1.setQueue)))

theorem execQueueEnable_kept {asid q : Nat} (h : Kept n s) : OutKept n (execQueueEnable asid q s) := by
  unfold execQueueEnable
  refine OutKept.ite h.turned ?_
  split
  · exact h.turnLater
  · exact h.agentEnd (h.agentRead.bind (fun _ _ h1 => h1.enabledAs)) (fun _ _ h1 => h1.turned) (fun _ _ h1 => h1.tableFault)

theorem execQueueDisable_kept {asid q : Nat} (h : Kept n s) : OutKept n (execQueueDisable asid q s) := by
  unfold execQueueDisable
  refine OutKept.ite h.turned ?_
  refine OutKept.ite h.dropPushes.modQueue ?_
  split
  · exact h.turnLater
  · exact h.agentEnd h.agentRead (fun _ _ h1 => Kept.ite h1.turned h1.dropPushes.modQueue) (fun _ _ h1 => h1.tableFault)

theorem execDoorbell_kept {asid q : Nat} (h : Kept n s) : OutKept n (execDoorbell asid q s) := by
  unfold execDoorbell
  refine OutKept.ite h ?_
  split
  · next e1 => exact (AgKept.of_eq h.agentRead e1).agentDone.modQueue
  · exact h.needs.modQueue
  · exact h.noteBad

theorem Kept.writeTables {asid : Nat} (h : Kept n s) : Kept n (s.writeTables asid) := by
  have hfold : ∀ {c : Prop} [Decidable c] {f : State → Nat → State} {l : List Nat} {t : State}, Kept n t →
      (∀ t x, Kept n t → Kept n (f t x)) → Kept n (if c then t else l.foldl f t) :=
    fun ht hf => Kept.ite ht (ht.foldl hf)
  exact hfold (hfold (hfold h (fun _ _ h1 => h1.modTile)) (fun _ _ h1 => h1.setChannel)) (fun _ _ h1 => h1.modPort)

theorem Kept.clearTables {asid : Nat} (h : Kept n s) : Kept n (s.clearTables asid) := h

theorem Kept.namedImage {asid q : Nat} {seq : Word} (h : Kept n s) : AgKept n (s.namedImage asid q seq) := by
  unfold State.namedImage
  split
  · exact h
  · refine AgKept.ite h ?_
    refine h.agentRead.bind ?_
    intro _ _ h1
    dsimp only
    split
    · next e2 => exact AgKept.of_eq h1.readImage e2
    · exact trivial
    · exact h1

theorem Kept.namedLaunch {asid : Nat} {e : QEntry} (h : Kept n s) : AgKept n (s.namedLaunch asid e) :=
  AgKept.ite h (AgKept.ite h (h.agentRead.bind (fun _ _ h1 => h1)))

theorem Kept.cueNames {asid : Nat} {e : QEntry} (h : Kept n s) : AgKept n (s.cueNames asid e) :=
  h.namedLaunch.bind (fun _ _ h1 => AgKept.ite h1 (h1.namedImage.bind (fun _ _ h2 => h2)))

theorem Kept.cuePortOk {asid : Nat} {e : QEntry} (h : Kept n s) : AgKept n (s.cuePortOk asid e) :=
  AgKept.ite h (h.namedLaunch.bind (fun _ _ h1 => AgKept.ite h1 (h1.namedImage.bind (fun _ _ h2 => h2))))

theorem execPacketAccept_kept {asid q : Nat} (h : Kept n s) : OutKept n (execPacketAccept asid q s) := by
  unfold execPacketAccept
  dsimp only
  split
  · exact h
  · exact OutKept.ite h
      (h.queueEnd (fun _ _ h1 => h1)
        (h.agentRead.bind
          (fun _ _ h1 => AgKept.ite h1
            (h1.cuePortOk.bind
              (fun _ _ h2 => Kept.putEntry (Kept.setQueue (Kept.ite (h2.modCtx (fun _ => by rfl)).writeTables h2)))))))

theorem Kept.awaited {asid : Nat} {e : QEntry} (h : Kept n s) : AgKept n (s.awaited asid e) :=
  h.queueView.bind
    (fun _ _ h1 => AgKept.ite h1 (AgKept.ite h1 (AgKept.ite (h1.agentRead.bind (fun _ _ h2 => h2)) (AgKept.ite h1 h1))))

theorem Kept.headReady {asid q : Nat} {e : QEntry} (h : Kept n s) : AgKept n (s.headReady asid q e) :=
  AgKept.ite h (AgKept.ite h (AgKept.ite (h.awaited.bind (fun _ _ h1 => h1)) h))

theorem Kept.readyHeads (h : Kept n s) : Kept n s.readyHeads.s := by
  unfold State.readyHeads
  generalize s.queues = l
  suffices hf : ∀ r : Heads, Kept n r.s → Kept n (l.foldl _ r).s from hf _ h
  induction l with
  | nil => exact fun _ h => h
  | cons p l ih =>
    intro r hr
    refine ih _ ?_
    dsimp only
    generalize (!p.2.enabled || !_) = idle
    cases idle with
    | true => exact hr
    | false =>
      rw [if_neg Bool.false_ne_true]
      split
      · exact hr
      · split
        · next e => exact Kept.agentDone (AgKept.of_eq hr.headReady e)
        · exact hr
        · exact hr

theorem Kept.addLaunch {a : Launch} (h : Kept n s) : Kept n (s.addLaunch a) := h

theorem Kept.checkLaunch {asid q : Nat} {e : QEntry} (h : Kept n s) : Kept n (s.checkLaunch asid q e) := Kept.ite h.addLaunch h

theorem execDispatchOpportunity_kept (h : Kept n s) : OutKept n (execDispatchOpportunity s) := by
  have hw : Kept n (s.readyHeads.waits.foldl (fun s n => s.needs n.1 n.2) s.readyHeads.s) :=
    h.readyHeads.foldl (fun _ _ h1 => h1.needs)
  unfold execDispatchOpportunity
  dsimp only
  split
  · exact hw
  · split
    · exact hw
    · split
      · exact hw
      · exact hw.queueEnd (fun _ _ h1 => h1)
          (AgKept.ite hw.endEntry (AgKept.ite hw.endEntry (hw.putEntry.bind (fun _ _ h1 => h1.checkLaunch))))

theorem execCuePacket_kept {asid q : Nat} (h : Kept n s) : OutKept n (execCuePacket asid q s) := by
  unfold execCuePacket
  split
  · exact h
  · exact h.queueEnd (fun _ _ h1 => h1)
      (h.cueNames.bind
        (fun _ _ h1 => h1.cuePortOk.bind (fun _ _ h2 => AgKept.ite h2.endEntry (AgKept.ite h2.endEntry h2.post.modCue.modEntry))))

theorem Kept.channelRead {asid : Nat} {va : Word} (h : Kept n s) : AgKept n (s.channelRead asid va) := by
  unfold State.channelRead
  refine AgKept.ite h.agentRead ?_
  split
  · next e1 => exact AgKept.ite (Kept.of_fst h.engineLoc e1).locServed trivial
  · exact trivial
  · exact trivial
  · exact trivial

theorem Kept.channelWrite {asid : Nat} {va : Word} {bs : List Byte} (h : Kept n s) : AgKept n (s.channelWrite asid va bs) := by
  unfold State.channelWrite
  refine AgKept.ite h.agentWrite ?_
  split
  · next e1 => exact AgKept.ite (Kept.of_fst h.engineLoc e1).poolWrite.setFull.locServed trivial
  · exact trivial
  · exact trivial
  · exact trivial
  · next e1 => exact Kept.of_fst h.engineLoc e1

theorem Kept.packetFail {asid q : Nat} {seq : Word} {code : FaultCode} (h : Kept n s) : Kept n (s.packetFail asid q seq code) :=
  h.queueEnd (fun _ _ h1 => h1) h.endEntry

theorem execCopyPacket_kept {asid q : Nat} (h : Kept n s) : OutKept n (execCopyPacket asid q s) := by
  unfold execCopyPacket
  split
  · exact h
  · exact OutKept.ite h.modEntry
      (h.agentEndOn (h.channelRead.bind (fun _ _ h1 => h1.channelWrite)) (fun _ _ h1 => h1.modEntry) (fun _ _ h1 => h1.packetFail))

theorem execCollectiveStep_kept {asid q : Nat} (h : Kept n s) : OutKept n (execCollectiveStep asid q s) := by
  unfold execCollectiveStep
  split
  · exact h
  · refine OutKept.ite ?_
      (OutKept.ite (OutKept.ite (h.modCtx (fun _ => by rfl)).modEntry h)
        (h.agentEnd (h.agentRead.bind (fun _ _ h1 => AgKept.ite (h1.agentRead.bind (fun _ _ h2 => h2.agentWrite)) h1.agentWrite))
          (fun _ _ h1 => h1.modEntry) (fun _ _ h1 => h1.packetFail)))
    refine OutKept.ite h.packetFail ?_
    refine OutKept.ite (h.agentEnd h.agentRead (fun _ _ h1 => h1.sendTo.modEntry) (fun _ _ h1 => h1.packetFail)) ?_
    refine OutKept.ite h.sendTo.modEntry ?_
    split
    · exact Kept.modEntry h
    · exact h

theorem execArrivalNotice_kept (h : Kept n s) : OutKept n (execArrivalNotice s) := by
  unfold execArrivalNotice
  split
  · next e1 =>
      have h1 := h.takeMsg e1
      split
      · next e2 => exact (AgKept.of_eq h1.agentWrite e2).agentDone
      · exact h.needs
      · exact h1.agentForget
  · next e1 => exact ((h.takeMsg e1).modCtx (fun _ => by rfl)).sendTo
  · exact h

theorem execFencePacket_kept {asid q : Nat} (h : Kept n s) : OutKept n (execFencePacket asid q s) := by
  unfold execFencePacket
  split
  · exact h
  · exact Kept.modEntry (h.fenceCode.foldl (fun _ _ h1 => h1.sendTo))

theorem execMark_kept {asid q : Nat} (h : Kept n s) : OutKept n (execMark asid q s) := by
  unfold execMark
  split
  · exact h
  · exact h.agentEnd h.agentWrite (fun _ _ h1 => h1.modEntry) (fun _ _ h1 => h1.packetFail)

theorem Kept.sendPush {asid q : Nat} {p : Push} (h : Kept n s) : Kept n (s.sendPush asid q p) := h.setQueue.sendTo

theorem execQueuePushWrite_kept {asid q : Nat} (h : Kept n s) : OutKept n (execQueuePushWrite asid q s) := by
  unfold execQueuePushWrite
  dsimp only
  split
  · exact h
  · exact OutKept.ite h
      (OutKept.ite (Kept.ite h.sendPush h) (OutKept.ite h (h.queueEnd (fun _ _ h1 => h1.setQueue.pushOver) h.agentWrites)))

theorem execPushAsk_kept {asid q : Nat} (h : Kept n s) : OutKept n (execPushAsk asid q s) := OutKept.ite h h.modQueue.sendTo

theorem execPushGrant_kept {asid q : Nat} (h : Kept n s) : OutKept n (execPushGrant asid q s) := by
  unfold execPushGrant
  dsimp only
  split
  · exact h
  · exact OutKept.ite h.setQueue.sendTo h

/-! ## The operations of LaunchEvents -/

theorem Kept.signGood {asid : Nat} {x hs tree : List Byte} (h : Kept n s) : AgKept n (s.signGood asid x hs tree) :=
  AgKept.ite h (AgKept.ite h
    (h.agentRead.bind (fun _ _ h1 => h1.agentRead.bind (fun _ _ h2 => h2.agentRead.bind (fun _ _ h3 => h3)))))

theorem Kept.regionTable {asid : Nat} (h : Kept n s) : AgKept n (s.regionTable asid) :=
  AgKept.ite h (h.agentRead.bind (fun _ _ h1 => h1))

theorem Kept.checkImage {asid : Nat} {at' : Word} (h : Kept n s) : AgKept n (s.checkImage asid at') := by
  unfold State.checkImage
  refine h.readImage.bind ?_
  intro _ _ h1
  refine AgKept.bind (AgKept.ite h1.signGood h1) ?_
  intro _ _ h2
  split
  · exact h2
  · exact h2.regionTable.bind (fun _ _ h3 => h3)

theorem Kept.nameCode {asid q : Nat} {i : Image} (h : Kept n s) : Kept n (s.nameCode asid q i) := h.modCtx (fun _ => rfl)

theorem Kept.spreadLaunch {a : Launch} (h : Kept n s) : Kept n (s.spreadLaunch a) :=
  h.addLaunch.nameCode.foldl (fun _ _ h1 => h1.sendTo)

theorem execLaunch_kept {asid q : Nat} (h : Kept n s) : OutKept n (execLaunch asid q s) := by
  unfold execLaunch
  split
  · exact h
  · split
    · exact h
    · refine OutKept.ite h ?_
      refine h.agentEnd h.checkImage ?_ (fun _ _ h1 => h1.queueEnd (fun _ _ h2 => h2.modLaunch) h1.endEntry)
      intro _ _ h1
      split
      · exact h1.queueEnd (fun _ _ h2 => h2.modLaunch) h1.endEntry
      · exact h1.spreadLaunch.modEntry

theorem Kept.claim {l : LaunchId} {g : Nat} {w : Word} {cores : List Nat} (h : Kept n s) : Kept n (s.claim l g w cores) :=
  h.foldl (fun _ _ h1 => h1.modCore)

theorem Kept.beginCast {m : CastMsg} (h : Kept n s) : Kept n (s.beginCast m) := Kept.ite h (Kept.frame h.claim rfl)

theorem Kept.sendCast {pkg : Nat} {m : CastMsg} (h : Kept n s) : Kept n (s.sendCast pkg m) := (h.modCtx (fun _ => by rfl)).sendTo

theorem Kept.castOver {m : CastMsg} (h : Kept n s) : Kept n (s.castOver m) := Kept.ite h h.sendTo

theorem execGangPlaced_kept {asid q : Nat} {seq : Word} {remoteFree : List Nat} (h : Kept n s) :
    OutKept n (execGangPlaced asid q seq remoteFree s) := by
  unfold execGangPlaced
  split
  · exact h
  · refine OutKept.ite h ?_
    split
    · exact h
    · dsimp only
      split
      · exact h
      · exact h.agentEnd h.regionTable (fun _ _ h1 => Kept.ite h1 (h1.modLaunch.beginCast.foldl (fun _ _ h2 => h2.sendCast)))
          (fun _ _ h1 => h1)

theorem Kept.setUp {m : CastMsg} {core slot gidx : Nat} (h : Kept n s) : Kept n (s.setUp m core slot gidx) :=
  Kept.ite (Kept.killThread h.bump) h.bump

theorem execCast_kept {core : Nat} (h : Kept n s) : OutKept n (execCast core s) := by
  unfold execCast
  dsimp only
  split
  · exact h
  · refine Kept.ite ?_ ?_
    · refine Kept.castOver ?_
      refine Kept.foldl ?_ (fun _ _ h1 => h1.setUp)
      refine Kept.modCore ?_
      exact h
    · refine Kept.foldl ?_ (fun _ _ h1 => h1.setUp)
      refine Kept.modCore ?_
      exact h

theorem Kept.orphan {tid : Nat} (h : Kept n s) : Kept n (s.orphan tid) := h.mapAccs (by intro _; split <;> rfl)

theorem Kept.freeGangBars {a : Launch} {g : Nat} (h : Kept n s) : Kept n (s.freeGangBars a g) := h

theorem Kept.childrenOver {l : LaunchId} (h : Kept n s) : AgKept n (s.childrenOver l) := by
  refine AgKept.ite h (AgKept.foldl (fun r u hr => hr.bind (fun b s h1 => ?_)) _ h)
  split
  · exact h1
  · exact AgKept.ite h1 (h1.entryFinished.bind (fun _ _ h2 => h2))

theorem Kept.partOver {l : LaunchId} {gang pkg : Nat} {pending : Bool} (h : Kept n s) : Kept n (s.partOver l gang pkg pending) := by
  unfold State.partOver
  dsimp only
  split
  · exact Kept.ite (h.modLaunch.foldl (fun _ _ h1 => h1.sendTo)) h.modLaunch
  · exact h.modLaunch

theorem execPartEnded_kept {asid q : Nat} {seq : Word} (h : Kept n s) : OutKept n (execPartEnded asid q seq s) := by
  unfold execPartEnded
  split
  · exact h
  · split
    · exact h.modLaunch
    · exact Kept.ite h.partOver h.partOver.sendTo

theorem Kept.leave {a : Launch} {g : Gang} (h : Kept n s) : Kept n (s.leave a g) := by
  refine Kept.ite ?gone (Kept.sendTo ?gone)
  refine Kept.modLaunch (Kept.freeGangBars (Kept.foldl ?_ (fun _ _ h1 => h1.modCore)))
  exact h.foldl (fun _ _ h1 => h1.orphan.modThread)

theorem execGangLeaves_kept {asid q : Nat} {seq : Word} {gang : Nat} (h : Kept n s) :
    OutKept n (execGangLeaves asid q seq gang s) := by
  unfold execGangLeaves
  split
  · exact h
  · split
    · exact h
    · exact OutKept.ite h h.leave

theorem execHostStoreAckRead_kept {asid q : Nat} {seq : Word} (h : Kept n s) : OutKept n (execHostStoreAckRead asid q seq s) := by
  unfold execHostStoreAckRead
  split
  · exact h
  · exact OutKept.ite h (h.agentEnd h.childrenOver (fun _ _ h1 => Kept.ite h1.modLaunch.sendTo h1.modLaunch) (fun _ _ h1 => h1))

theorem Kept.workOver {asid q : Nat} {e : QEntry} (h : Kept n s) : AgKept n (s.workOver asid q e) := by
  unfold State.workOver
  split
  · split
    · exact AgKept.ite h.childrenOver h
    · exact h
  · exact h

theorem execPromptBookComplete_kept {asid q : Nat} {seq : Word} (h : Kept n s) :
    OutKept n (execPromptBookComplete asid q seq s) := by
  unfold execPromptBookComplete
  split
  · exact h
  · exact h.queueEnd (fun _ _ h1 => h1)
      (h.workOver.bind (fun _ _ h1 => AgKept.ite h1 (h1.endEntry.bind (fun _ _ h2 => h2.modLaunch))))

/-! ## The operations of SaveImage -/

theorem Kept.regionData {asid : Nat} {rs : List (Region × Nat)} (h : Kept n s) : AgKept n (s.regionData asid rs) := by
  induction rs generalizing s with
  | nil => exact h
  | cons r rs ih => exact h.agentRead.bind (fun _ _ h1 => (ih h1).bind (fun _ _ h2 => h2))

/-! ## The operations of RestoreImage -/

theorem Kept.readSections {asid : Nat} {base : Word} {ds : List (Nat × Nat × Nat)} (h : Kept n s) :
    AgKept n (State.readSections asid base ds s) := by
  induction ds generalizing s with
  | nil => exact h
  | cons d ds ih => exact h.agentRead.bind (fun _ _ h1 => (ih h1).bind (fun _ _ h2 => h2))

theorem Kept.readPart {asid : Nat} {m : PartMap} (h : Kept n s) : AgKept n (s.readPart asid m) :=
  h.readSections.bind (fun _ _ h1 => h1)

theorem Kept.readRegions {asid : Nat} {at' : Word} {rs : List (Word × Nat × Nat)} (h : Kept n s) :
    AgKept n (State.readRegions asid at' rs s) := by
  induction rs generalizing s at' with
  | nil => exact h
  | cons r rs ih => exact h.agentRead.bind (fun _ _ h1 => (ih h1).bind (fun _ _ h2 => h2))

/-! ## The operations of ContextEvents -/

theorem Kept.endCommand {st reason : Nat} (h : Kept n s) : Kept n (s.endCommand st reason) := h

theorem execCreate_kept {asid : Nat} {peers : List Nat} (h : Kept n s) : OutKept n (execCreate asid peers s) := by
  refine OutKept.ite h (OutKept.ite h.endCommand (OutKept.ite h.endCommand ?_))
  exact Kept.endCommand (h.setCtx (fun v hv => by cases hv))

theorem Ctx.agreeLoad_saved (c : Ctx) : c.agreeLoad.saved = c.saved := by
  unfold Ctx.agreeLoad
  split <;> rfl

theorem Kept.loadHere {asid : Nat} (h : Kept n s) : Kept n (s.loadHere asid) := by
  refine Kept.ite (Kept.endCommand (h.modCtx (fun _ => rfl))) (Kept.endCommand (Kept.sendPeers (Kept.setCtx_same ?_ ?_)))
  · exact h.modCtx (fun _ => rfl)
  · exact Ctx.agreeLoad_saved _

theorem execLoad_kept {asid : Nat} (h : Kept n s) : OutKept n (execLoad asid s) := by
  unfold execLoad
  refine OutKept.ite h ?_
  refine OutKept.ite h.endCommand ?_
  split
  · exact OutKept.ite h.loadHere ((h.modCtx (fun _ => by rfl)).foldl (fun _ _ h1 => h1.sendTo))
  · exact h.loadHere
  · exact h

theorem execLoadAgreement_kept (h : Kept n s) : OutKept n (execLoadAgreement s) := by
  have htake : ∀ r, (s.inbox.find? s.loadTurn).map (fun m => (m, { s with inbox := s.inbox.erase m })) = some r → Kept n r.2 := by
    intro r e
    obtain ⟨m, -, rfl⟩ := Option.map_eq_some_iff.mp e
    exact h
  unfold execLoadAgreement
  split
  · next e => exact Kept.sendTo (htake _ e)
  · next e => exact Kept.modCtx (htake _ e) (fun _ => rfl)
  · next e => exact Kept.modCtx (htake _ e) (fun _ => Ctx.agreeLoad_saved _)
  · exact h

theorem execQueueCheck_kept {asid : Nat} (h : Kept n s) : OutKept n (execQueueCheck asid s) := by
  unfold execQueueCheck
  split
  · exact h
  · next q rest _ =>
    have hpast : ∀ s, Kept n s → Kept n (s.modCtx asid (fun c => { c with unchecked := rest })) := fun _ h1 => h1.modCtx
      (fun _ => rfl)
    exact h.agentEnd h.agentRead (fun _ s h1 => Kept.ite (Kept.ctxEvent (Kept.frame (hpast s h1) rfl)) (hpast s h1))
      (fun _ s h1 => (hpast s h1).tableFault)

theorem Kept.clearCores {asid : Nat} (h : Kept n s) : Kept n (s.clearCores asid) := by
  unfold State.clearCores
  refine Kept.foldl ?_ (fun _ _ h1 => h1.setCore)
  exact h

theorem Kept.clearObjects {asid : Nat} (h : Kept n s) : Kept n (s.clearObjects asid) :=
  Kept.filterAccs (Kept.frame h.discardChains rfl)

theorem Kept.dropCtx {asid : Nat} (h : Kept n s) : Kept n { s with ctxs := putAt Ctx.absent s.ctxs asid Ctx.absent } :=
  h.setCtx (c := Ctx.absent) (fun v hv => by cases hv)

theorem execDestroy_kept {asid : Nat} (h : Kept n s) : OutKept n (execDestroy asid s) := by
  have hfree := (((h.clearCores (asid := asid)).clearObjects (asid := asid)).clearTables (asid := asid)).dropLines (asid := asid)
    (p := fun _ => true)
  unfold execDestroy
  refine OutKept.ite h ?_
  split
  · exact h.endCommand
  · exact h
  · exact h
  · exact OutKept.ite h.rootBare (OutKept.ite h (Kept.endCommand (hfree.dropCtx (asid := asid))))

theorem Kept.queueAt {asid q w : Nat} (h : Kept n s) : Kept n (s.queueAt asid q w) :=
  Kept.ite h.dropPushes.modQueue.sendPeers h.dropPushes.modQueue

theorem Kept.idleQueues {asid : Nat} {qs : List Nat} (h : Kept n s) : AgKept n (State.idleQueues asid qs s) := by
  induction qs generalizing s with
  | nil => exact h
  | cons q qs ih =>
    exact AgKept.ite (ih h.modQueue) (AgKept.bind (AgKept.ite (AgKept.ok h) h.agentRead)
      (fun _ _ h1 => h1.agentWrite.bind (fun _ _ h2 => ih h2.queueAt)))

theorem Kept.unfaulted {asid : Nat} (h : Kept n s) : Kept n (s.unfaulted asid) := by
  refine Kept.modCtx_unsaved ?_ (fun _ => rfl)
  exact Kept.frame (((h.clearCores (asid := asid)).clearObjects (asid := asid)).clearTables (asid := asid)) rfl

theorem execClear_kept {asid : Nat} (h : Kept n s) : OutKept n (execClear asid s) := by
  unfold execClear
  refine OutKept.ite h ?_
  refine OutKept.ite h.endCommand ?_
  refine OutKept.ite h ?_
  dsimp only
  split
  · exact h.agentForget.unfaulted.endCommand.rootBare
  · exact h.agentEnd h.idleQueues (fun _ _ h1 => h1.unfaulted.endCommand) (fun _ _ h1 => h1)

theorem execAttest_kept {asid : Nat} (h : Kept n s) : OutKept n (execAttest asid s) :=
  OutKept.ite h
    (OutKept.ite h.endCommand
      (OutKept.ite (h.agentEnd h.agentRead (fun _ _ h1 => Kept.endCommand h1.writeHostMem) (fun _ _ h1 => h1.endCommand))
        (Kept.endCommand h.writeHostMem)))

theorem Kept.activate {asid : Nat} (h : Kept n s) : Kept n (s.activate asid) := Kept.ite (h.modCtx (fun _ => by rfl)).writeTables h

theorem execPreempt_kept {asid q : Nat} (h : Kept n s) : OutKept n (execPreempt asid q s) := by
  unfold execPreempt
  split
  · exact h
  · exact h.pauseRequest.modEntry

theorem Kept.joinPause {asid tp reason : Nat} {regions : Bool} {by' : Option (Nat × Word)} (h : Kept n s) :
    Kept n (s.joinPause asid tp reason regions by') :=
  (h.modCtx (fun _ => rfl))

theorem execPauseProposal_kept (h : Kept n s) : OutKept n (execPauseProposal s) := by
  unfold execPauseProposal
  split
  · next e1 => exact OutKept.ite h.activate.joinPause (h.takeMsg e1).sendTo
  · exact h

theorem Kept.agreePause {asid : Nat} (h : Kept n s) : Kept n (s.agreePause asid) := by
  unfold State.agreePause
  split
  · exact Kept.ite h (h.modCtx (fun _ => by rfl)).sendPeers
  · exact h

theorem execPauseReply_kept (h : Kept n s) : OutKept n (execPauseReply s) := by
  unfold execPauseReply
  split
  · next e1 =>
      have h1 := h.takeMsg e1
      split
      · exact OutKept.ite h1 (h1.modCtx (fun _ => by rfl)).agreePause
      · exact h1
  · exact h

theorem execPauseAgreed_kept (h : Kept n s) : OutKept n (execPauseAgreed s) := by
  unfold execPauseAgreed
  split
  · next e1 =>
      have h1 := h.takeMsg e1
      split
      · exact OutKept.ite h1 (h1.modCtx (fun _ => rfl))
      · exact h1
  · exact h

theorem execReleaseStop_kept {asid : Nat} (h : Kept n s) : OutKept n (execReleaseStop asid s) := by
  unfold execReleaseStop
  split
  · exact OutKept.ite h
      (Kept.modCtx (Kept.frame
        (Kept.foldl (h.foldl (fun _ _ h1 => Kept.ite h1 h1.cancelLoads.modThread)) (fun _ _ h1 => h1.modCore)) rfl) (fun _ => rfl))
  · exact h

theorem Kept.beginResume {asid : Nat} {entry : Option (Nat × Word)} (h : Kept n s) : Kept n (s.beginResume asid entry) := by
  unfold State.beginResume
  split
  · exact h
  · exact (h.modCtx (fun _ => by rfl)).sendPeers

theorem Kept.pauseEvent {asid : Nat} {p : Pause} {failed : Bool} (h : Kept n s) : Kept n (s.pauseEvent asid p failed) :=
  Kept.ctxEvent h

theorem Kept.paused {asid : Nat} {p : Pause} {keep : Saved} {failed : Bool} (h : Kept n s) (hkeep : AccsBelow n keep.accs) :
    Kept n (s.paused asid p keep failed) := by
  have hvacant : Kept n ((s.ctxTids asid).foldl (fun (s : State) t => s.setThread t Thread.vacant) s) :=
    h.foldl (fun _ _ h1 => h1.setThread)
  have hidle := hvacant.foldl (f := fun (s : State) c => s.setCore c Core.idle) (fun _ _ h1 => h1.setCore) (l := s.heldCores asid)
  have hclear := (hidle.clearObjects (asid := asid)).clearTables (asid := asid)
  unfold State.paused
  dsimp only
  split
  · refine Kept.beginResume (Kept.pauseEvent ?_)
    split
    · exact Kept.modEntry (Kept.modCtx_saves (Kept.frame hclear rfl) hkeep (fun _ => rfl))
    · exact Kept.modCtx_saves (Kept.frame hclear rfl) hkeep (fun _ => rfl)
  · refine Kept.pauseEvent ?_
    split
    · exact Kept.modEntry (Kept.modCtx_saves (Kept.frame hclear rfl) hkeep (fun _ => rfl))
    · exact Kept.modCtx_saves (Kept.frame hclear rfl) hkeep (fun _ => rfl)

theorem Kept.saveFailed {asid : Nat} {p : Pause} {code : FaultCode} (h : Kept n s) : Kept n (s.saveFailed asid p code) :=
  h.owe.rootBare

theorem Kept.snapshot_accs {asid : Nat} {part : PartMap} {regions : List (Word × Nat × Nat)} (h : Kept n s) :
    AccsBelow s.nextId (s.snapshot asid part regions).accs := h.accsBelow.filter

theorem execSaveComplete_kept {asid : Nat} (h : Kept n s) : OutKept n (execSaveComplete asid s) := by
  unfold execSaveComplete
  split
  · refine OutKept.ite h (OutKept.ite (h.modCtx (fun _ => by rfl)).sendPeers (OutKept.ite h ?_))
    refine h.agentEnd_holds (P := fun r s => Kept n s ∧ AccsBelow s.nextId r.1.accs) ?_ ?_ (fun _ _ h1 => h1.saveFailed)
    · refine AgHolds.bind (AgKept.holds (AgKept.ite h.regionTable (AgKept.ok h))) (fun rs s h1 => ?_)
      refine h1.regionData.holds.bind (fun data s h2 => ?_)
      dsimp only
      split
      · trivial
      · exact h2.agentWrites.holds.bind (fun _ s h3 => ⟨h3, h3.snapshot_accs⟩)
    · rintro r s ⟨h1, hr⟩
      exact Kept.weaken h1.le (h1.here.agentDone.paused hr)
  · exact h

theorem execResume_kept {asid q : Nat} (h : Kept n s) : OutKept n (execResume asid q s) := by
  unfold execResume
  split
  · exact h
  · dsimp only
    split
    · exact h.beginResume.modEntry
    · exact OutKept.ite h (h.modCtx (fun _ => by rfl)).modEntry
    · exact h.modEntry
    · exact h

theorem Kept.agreeResume {asid : Nat} {p : Pause} {pr : Word} (h : Kept n s) : Kept n (s.agreeResume asid p pr) :=
  h.modCtx (fun _ => rfl)

theorem Kept.resumeMsg {asid src : Nat} {p : Pause} {m : LinkMsg} (h : Kept n s) : Kept n (s.resumeMsg asid src p m) := by
  have hset : ∀ p, Kept n (s.modCtx asid (fun c => { c with pause := some p })) := fun _ => h.modCtx (fun _ => rfl)
  unfold State.resumeMsg
  dsimp only
  split
  · exact Kept.ite (Kept.ite (hset _) h) (Kept.ite (hset _) (Kept.ite (hset _) h))
  · exact Kept.ite h h.agreeResume
  · exact h

theorem execResumeAgreement_kept {asid : Nat} (h : Kept n s) : OutKept n (execResumeAgreement asid s) := by
  unfold execResumeAgreement
  dsimp only
  split
  · split
    · next e1 => exact (h.takeMsg e1).resumeMsg
    · exact OutKept.ite h
        (OutKept.ite (Kept.ite h.agreeResume.sendPeers h) ((h.modCtx (fun _ => by rfl)).foldl (fun _ _ h1 => h1.sendTo)))
  · split
    · next e1 => exact (h.takeMsg e1).modCtx (fun _ => rfl)
    · exact h
  · exact h

theorem Kept.moveGangs {asid : Nat} {m : Moves} (h : Kept n s) : Kept n (s.moveGangs asid m) := h

theorem Kept.placeBars {old : State} {v : Saved} (h : Kept n s) : Kept n (s.placeBars old v) := by
  unfold State.placeBars
  refine h.foldl ?_
  intro _ _ h1
  dsimp only
  split
  · exact h1.setBar
  · exact h1

theorem Kept.placeDepartures {v : Saved} (h : Kept n s) : Kept n (s.placeDepartures v) := h.foldl (fun _ _ h1 => h1.modTile)

theorem Kept.killsMet {asid : Nat} (h : Kept n s) : Kept n (s.killsMet asid) := h.foldl (fun _ _ h1 => Kept.ite h1.killThread h1)

theorem Kept.putBack {asid : Nat} {v : Saved} {m : Moves} (h : Kept n s) (hv : AccsBelow n v.accs) :
    Kept n (s.putBack asid v m) := by
  have hall : AccsBelow s.nextId (s.accs ++ v.accs.map (Access.moved m)) := h.accsBelow.append ((hv.mono h.le).map (fun _ => rfl))
  refine Kept.killsMet (Kept.placeDepartures (Kept.placeBars (Kept.foldl (Kept.foldl (Kept.foldl ?_ ?_) ?_) ?_)))
  · exact h.withAccs hall
  · exact fun _ _ h1 => h1.setCore
  · exact fun _ _ h1 => h1.setThread
  · exact fun _ _ h1 => h1.setChain

theorem Kept.imageAgrees {asid : Nat} {m : PartMap} {gs : List (Launch × Gang)} (h : Kept n s) :
    AgKept n (s.imageAgrees asid m gs) :=
  h.agentRead.bind (fun _ _ h1 => AgKept.foldl (fun _ _ hr => AgKept.bind hr (fun _ _ h2 =>
    AgKept.ite (AgKept.ok h2) (AgKept.bind h2.readImage (fun _ _ h3 => AgKept.ok h3)))) _ h1)

theorem Kept.tellMoved {asid : Nat} {gs : List (Launch × Gang)} {m : Moves} (h : Kept n s) : Kept n (s.tellMoved asid gs m) :=
  h.foldl (fun _ _ h1 => h1.foldl (fun _ _ h2 => h2.sendTo))

theorem Kept.restoreFailed {asid : Nat} {p : Pause} (h : Kept n s) : Kept n (s.restoreFailed asid p) := Kept.rootBare h

theorem Kept.resumed {asid : Nat} {p : Pause} (h : Kept n s) : Kept n (s.resumed asid p) := by
  unfold State.resumed
  refine Kept.ctxEvent ?_
  split
  · exact h.modEntry
  · exact h

/-- The image in memory says nothing of the accesses: they are those that the save has kept. -/
theorem Kept.readBack_accs {asid : Nat} {v : Saved} (h : Kept n s) :
    AgHolds (fun w s => Kept n s ∧ ∀ u, w = some u → u.accs = v.accs) (s.readBack asid v) := by
  refine h.imageAgrees.holds.bind (fun b s h1 => ?_)
  cases b with
  | false => exact ⟨h1, fun _ hu => by cases hu⟩
  | true =>
    refine h1.readPart.holds.bind (fun rs s h2 => h2.readRegions.holds.bind (fun data s h3 => ?_))
    refine h3.agentWrites.holds.bind (fun _ s h4 => ⟨h4, fun u hu => ?_⟩)
    cases hu; rfl

theorem execImagePlaced_kept {asid : Nat} (h : Kept n s) : OutKept n (execImagePlaced asid s) := by
  unfold execImagePlaced
  split
  · next p v _ _ hsaved =>
    have hv : AccsBelow s.nextId v.accs := h.savedBelow asid v hsaved
    split
    · exact h
    · refine Kept.weaken h.le (h.here.agentEnd_holds h.here.readBack_accs ?_ (fun _ _ h1 => h1.rootBare))
      rintro w s1 ⟨h1, hw⟩
      cases w with
      | none => exact h1.agentDone.restoreFailed
      | some u => exact Kept.modCtx_unsaved (Kept.tellMoved (Kept.putBack h1.agentDone (hw u rfl ▸ hv))) (fun _ => rfl)
  · exact h

theorem execRestoreComplete_kept {asid : Nat} (h : Kept n s) : OutKept n (execRestoreComplete asid s) := by
  unfold execRestoreComplete
  split
  · refine OutKept.ite h (Kept.resumed (Kept.foldl ?_ (fun _ _ h1 => h1.pumpTile)))
    refine Kept.modCtx (Kept.writeTables (Kept.foldl ?_ (fun _ _ h1 => h1.modCore))) (fun _ => rfl)
    exact h.foldl (fun _ _ h1 => h1.modThread)
  · exact h

/-! ## The operations of BarrierEvents -/

theorem Kept.takeBarMsg {i : Nat} {p : BarMsg → Bool} {r : BarMsg × State} (h : Kept n s) (e : s.takeBarMsg i p = some r) :
    Kept n r.2 := by
  obtain ⟨f, -, e⟩ := Option.bind_eq_some_iff.mp e
  split at e
  · cases e; exact h
  · cases e

theorem Kept.applyBar {tile i : Nat} {b : Barrier} {m : BarMsg} (h : Kept n s) : Kept n (s.applyBar tile i b m) := by
  unfold State.applyBar
  split
  · exact Kept.ite h h.settleBar
  · exact h.settleBar
  · exact h.initBar
  · exact h.sendBar
  · exact h

theorem execBarrierArrival_kept {msg : Nat} (h : Kept n s) : OutKept n (execBarrierArrival msg s) := by
  unfold execBarrierArrival
  split
  · exact h
  · next e1 =>
      have h1 := h.takeBarMsg e1
      split
      · refine OutKept.ite h1 ?_
        split
        · next e2 => exact (h1.takeBar e2).applyBar
        · exact h
      · exact h

theorem execThreadDeparture_kept {msg : Nat} (h : Kept n s) : OutKept n (execThreadDeparture msg s) := by
  unfold execThreadDeparture
  split
  · next e1 =>
      have h1 := h.takeBarMsg e1
      split
      · exact h
      · exact OutKept.ite h1 (h1.modTile.foldl (fun _ _ h2 => Kept.ite h2 h2.settleBar))
  · exact h

theorem execCurtainArrival_kept {tile entry : Nat} (h : Kept n s) : OutKept n (execCurtainArrival tile entry s) := by
  unfold execCurtainArrival
  split
  · exact OutKept.ite h.releaseBar h
  · exact h

theorem execBarTimeout_kept {tile entry : Nat} (h : Kept n s) : OutKept n (execBarTimeout tile entry s) := by
  unfold execBarTimeout
  split
  · exact h
  · refine OutKept.ite h ?_
    dsimp only
    split
    · exact Kept.releaseBar (h.foldl (fun _ _ h1 => h1.sendBar))
    · exact Kept.setBar (h.foldl (fun _ _ h1 => h1.sendBar))
    · exact Kept.setBar (h.foldl (fun _ _ h1 => h1.sendBar))

theorem Kept.missed {tid level obj : Nat} {sense : Bool} (h : Kept n s) : Kept n (s.missed tid level obj sense) := by
  unfold State.missed
  dsimp only
  split
  · exact h.modThread
  · exact Kept.ite h.raiseAt h.modThread

theorem execBarrierRelease_kept {msg : Nat} (h : Kept n s) : OutKept n (execBarrierRelease msg s) := by
  unfold execBarrierRelease
  dsimp only
  split
  · exact h
  · next e1 =>
      have h1 := h.takeBarMsg e1
      split
      · exact h1
      · refine OutKept.ite h1 ?_
        split
        · exact OutKept.ite h1.missed h1.modThread
        · exact h1.modThread
        · exact h1.modThread
        · exact h1.raiseAt
        · exact h1

/-! ## The operations of ChainEvents -/

theorem Kept.takeChainMsg {i : Nat} {p : ChainKind → Bool} {r : ChainMsg × State} (h : Kept n s) (e : s.takeChainMsg i p = some r) :
    Kept n r.2 := by
  obtain ⟨m, -, rfl⟩ := Option.map_eq_some_iff.mp e
  exact h

theorem Kept.replyChain {m : ChainMsg} {kind : ChainKind} {src i : Nat} (h : Kept n s) : Kept n (s.replyChain m kind src i) :=
  h.bump

theorem Kept.breakAt {tile i cause : Nat} {tell : Bool} (h : Kept n s) : Kept n (s.breakAt tile i cause tell) :=
  Kept.ite h.breakChain.closeChain h.breakChain

theorem execChainJoin_kept {msg : Nat} (h : Kept n s) : OutKept n (execChainJoin msg s) := by
  unfold execChainJoin
  split
  · next e1 =>
      have h1 := h.takeChainMsg e1
      split
      · exact OutKept.ite h1.replyChain
          (OutKept.ite h1.replyChain (OutKept.ite h1.replyChain (Kept.sendAcks (Kept.ite h1.modChain.setChain h1.modChain))))
      · exact h1.replyChain
      · exact h1
  · exact h

theorem execChainAck_kept {msg : Nat} (h : Kept n s) : OutKept n (execChainAck msg s) := by
  unfold execChainAck
  split
  · next e1 =>
      have h1 := h.takeChainMsg e1
      split
      · exact OutKept.ite h1 h1.setChain.pump
      · exact h1
  · exact h

theorem execChainNak_kept {msg : Nat} (h : Kept n s) : OutKept n (execChainNak msg s) := by
  unfold execChainNak
  split
  · next e1 =>
      have h1 := h.takeChainMsg e1
      split
      · exact OutKept.ite h1 (OutKept.ite (Kept.ite h1.setChain h1) (OutKept.ite h1.breakAt h1.breakAt.raiseAt))
      · exact h1
  · exact h

theorem execJoinRetry_kept {tile entry : Nat} (h : Kept n s) : OutKept n (execJoinRetry tile entry s) := by
  unfold execJoinRetry
  dsimp only
  split
  · exact OutKept.ite h.setChain.sendChain h
  · exact h

theorem Kept.addSpecial {e : ChainEntry} {k v : Nat} (h : Kept n s) : Kept n (s.addSpecial e k v) := h.poolWrite

theorem Kept.addExact {tile i k : Nat} {w : BitVec 32} (h : Kept n s) : Kept n (s.addExact tile i k w) :=
  Kept.ite h.addSpecial h.poolWrite.modChain

theorem Kept.addExacts {tile i k : Nat} {ws : List (BitVec 32)} (h : Kept n s) : Kept n (s.addExacts tile i k ws) :=
  h.foldl (fun _ _ h1 => h1.addExact)

theorem Kept.beginExact {tile i : Nat} (h : Kept n s) : Kept n (s.beginExact tile i) :=
  Kept.ite h (Kept.modChain (Kept.addExacts (Kept.poolWrite (h.foldl (fun _ _ h1 => h1.poolWrite)))))

theorem Kept.addFlit {tile i k f : Nat} {ws : List (BitVec 32)} (h : Kept n s) : Kept n (s.addFlit tile i k f ws) :=
  h.poolWrite.modChain

theorem Kept.pathIn {p : Strip} (h : Kept n s) : Kept n (s.pathIn p) := h

theorem Kept.portSenders {tile i : Nat} (h : Kept n s) : Kept n (s.portSenders tile i).2 := by
  unfold State.portSenders
  generalize (_ : List Nat).eraseDups = l
  suffices hf : ∀ r : List Nat × State, Kept n r.2 → Kept n (l.foldl _ r).2 from hf _ h
  induction l with
  | nil => exact fun _ h => h
  | cons m l ih =>
    intro r hr
    refine ih _ ?_
    dsimp only
    split <;> exact hr

theorem execTargetAdderFlit_kept {tile entry : Nat} (h : Kept n s) : OutKept n (execTargetAdderFlit tile entry s) := by
  unfold execTargetAdderFlit
  refine OutKept.ite h ?_
  dsimp only
  split
  · exact h.portSenders
  · exact OutKept.ite h.portSenders
      (Kept.modChain (Kept.frame (Kept.ite h.portSenders.pathIn.serve.beginExact.addExacts h.portSenders.pathIn.serve.addFlit) rfl))

theorem Kept.credit {tile i : Nat} {p : Strip} (h : Kept n s) : Kept n (s.credit tile i p) := h.sendChain

theorem Kept.finishExact {tile i : Nat} (h : Kept n s) : Kept n (s.finishExact tile i) :=
  h.foldl (fun _ _ h1 => h1.poolWrite.modChain)

theorem Kept.sendCompletes {tile i : Nat} (h : Kept n s) : Kept n (s.sendCompletes tile i) := h.foldl (fun _ _ h1 => h1.sendChain)

theorem Kept.completeChain {tile i : Nat} (h : Kept n s) : Kept n (s.completeChain tile i) := by
  have hexact : Kept n (if (s.chain tile i).rule = 1 then (s.beginExact tile i).finishExact tile i else s) :=
    Kept.ite h.beginExact.finishExact h
  unfold State.completeChain
  refine Kept.closeChain ?_
  split
  · exact hexact.writeCword.sendCompletes.modCue
  · exact hexact.writeCword.sendCompletes

theorem execStripAccepted_kept {tile entry src : Nat} (h : Kept n s) : OutKept n (execStripAccepted tile entry src s) := by
  unfold execStripAccepted
  dsimp only
  split
  · exact h
  · exact OutKept.ite h
      (OutKept.ite (Kept.ite (Kept.raiseAt (Kept.credit (Kept.setChain h))) (Kept.credit (Kept.setChain h)))
        (OutKept.ite (Kept.pump (Kept.setChain (Kept.poolWrite h)))
          (OutKept.ite h.pathIn (Kept.ite (Kept.completeChain (Kept.credit (Kept.setChain h))) (Kept.credit (Kept.setChain h))))))

theorem execChainCredit_kept {msg : Nat} (h : Kept n s) : OutKept n (execChainCredit msg s) := by
  unfold execChainCredit
  split
  · next e1 =>
      have h1 := h.takeChainMsg e1
      split
      · exact OutKept.ite h1 (Kept.pump (Kept.ite (h1.setChain.foldl (fun _ _ h2 => h2.sendChain)) h1.setChain))
      · exact h1
  · exact h

theorem execChainComplete_kept {msg : Nat} (h : Kept n s) : OutKept n (execChainComplete msg s) := by
  unfold execChainComplete
  split
  · next e1 =>
      have h1 := h.takeChainMsg e1
      split
      · exact OutKept.ite h1 (Kept.closeChain (Kept.ite h1.sendCompletes h1))
      · exact h1
  · exact h

theorem execChainBreak_kept {msg : Nat} (h : Kept n s) : OutKept n (execChainBreak msg s) := by
  unfold execChainBreak
  split
  · next e1 =>
      have h1 := h.takeChainMsg e1
      split
      · exact Kept.ite h1.breakAt h1
      · exact h1
  · exact h

theorem execChainTimeout_kept {tile entry : Nat} (h : Kept n s) : OutKept n (execChainTimeout tile entry s) :=
  OutKept.ite h (OutKept.ite h.setChain.breakAt h.setChain.raiseAt)

/-! ## The operations of LinkEvents -/

theorem Kept.partGone {l : LaunchId} {gang pkg : Nat} (h : Kept n s) : Kept n (s.partGone l gang pkg) := h.modLaunch

theorem Kept.gangIsOver {l : LaunchId} {gang : Nat} (h : Kept n s) : Kept n (s.gangIsOver l gang) := h.modLaunch

theorem Kept.launchIn {m : CastMsg} (h : Kept n s) : Kept n (s.launchIn m) := Kept.ite h.addLaunch.nameCode h.addLaunch

theorem Kept.castIn {m : CastMsg} (h : Kept n s) : Kept n (s.castIn m) :=
  Kept.ite h.castOver (Kept.ite h.activate.addLaunch.beginCast h.activate.addLaunch.castOver)

theorem execCastIn_kept (h : Kept n s) : OutKept n (execCastIn s) := by
  unfold execCastIn
  split
  · next e1 => exact (h.takeMsg e1).castIn
  · exact h

theorem Kept.castDone {l : LaunchId} {gang pkg : Nat} (h : Kept n s) : Kept n (s.castDone l gang pkg) :=
  (h.modCtx (fun _ => by rfl)).agreePause

theorem Kept.pushIn {src asid q : Nat} {p : Push} (h : Kept n s) : Kept n (s.pushIn src asid q p) := Kept.ite h.pushOver h.modQueue

theorem Kept.pushedAt {asid q acc : Nat} {pos : Option Nat} (h : Kept n s) : Kept n (s.pushedAt asid q acc pos) :=
  h.endPush.modQueue

theorem Kept.deliver {port vc src : Nat} {m : LinkMsg} (h : Kept n s) : Kept n (s.deliver port vc src m) := by
  unfold State.deliver
  split
  · exact h.bump
  · exact h.modEntry
  · exact h.sendBar
  · exact h.launchIn
  · exact h.castDone
  · exact h.pushIn
  · exact h.pushedAt
  · exact h.modQueue
  · exact h.modQueue
  · exact h.modQueue
  · exact h.modQueue
  · exact h.partOver
  · exact h.partGone
  · exact h.gangIsOver
  · exact h.modLaunch
  · exact h.modCtx (fun _ => rfl)
  · exact h.fenceCode
  · exact h

theorem Kept.sendBack {vc dst : Nat} {m : LinkMsg} (h : Kept n s) : Kept n (s.sendBack vc dst m) := Kept.ite h.deliver h

theorem execUnsent_kept (h : Kept n s) : OutKept n (execUnsent s) := by
  unfold execUnsent
  split
  · exact h
  · refine Kept.frame ?_ rfl
    refine Kept.sendTo ?_
    exact h

theorem Kept.failMsg {f : Flit} (h : Kept n s) : Kept n (s.failMsg f) := by
  unfold State.failMsg
  dsimp only
  split
  · exact h.sendBack
  · exact h.sendBack
  · exact h.sendBack
  · exact h.sendBack
  · exact h.sendBack
  · exact h.sendBack
  · exact h.sendBack
  · exact h.sendBack
  · exact h

theorem Kept.failPort {port : Nat} (h : Kept n s) : Kept n (s.failPort port) := h.modPort.foldl (fun _ _ h1 => h1.failMsg)

theorem execCollectiveLost_kept (h : Kept n s) : OutKept n (execCollectiveLost s) := by
  unfold execCollectiveLost
  split
  · next e1 =>
      have h1 := h.takeMsg e1
      dsimp only
      split
      · exact h1
      · split
        · next e2 => exact (AgKept.of_eq h1.endEntry e2).agentDone
        · exact h.needs
        · exact h1.noteBad
  · exact h

theorem Kept.portState {port : Nat} {st : PortState} (h : Kept n s) : Kept n (s.portState port st) := Kept.ite h h.modPort.pkgEvent

theorem Kept.portDown {port : Nat} (h : Kept n s) : Kept n (s.portDown port) := h.portState.failPort.modPort

theorem Kept.resend {port : Nat} {seq : BitVec 12} (h : Kept n s) : Kept n (s.resend port seq) := h.modPort

theorem execRetryRequest_kept {port seq : Nat} (h : Kept n s) : OutKept n (execRetryRequest port seq s) := OutKept.ite h.resend h

theorem execRetryExhausted_kept {port : Nat} (h : Kept n s) : OutKept n (execRetryExhausted port s) := OutKept.ite h.portDown h

theorem Kept.acceptFlit {port : Nat} {f : Flit} (h : Kept n s) : Kept n (s.acceptFlit port f) := by
  unfold State.acceptFlit
  refine Kept.ite h ?_
  refine Kept.ite ?_ ?_
  · split
    · exact h.deliver
    · exact h
  · split
    · exact h.queueFlit
    · exact h.failMsg

theorem execFlitReceived_kept {port : Nat} {f : Flit} (h : Kept n s) : OutKept n (execFlitReceived port f s) :=
  OutKept.ite h
    (OutKept.ite h.modPort
      (OutKept.ite h.modPort.modPort
        (OutKept.ite h.modPort.resend (OutKept.ite h.modPort (Kept.ite h.modPort.modPort h.modPort.modPort.acceptFlit)))))

theorem Kept.departOver {port : Nat} (h : Kept n s) : Kept n (s.departOver port) := by
  unfold State.departOver
  refine Kept.foldl ?_ ?_
  · refine h.foldl ?_
    intro _ _ h1
    split
    · exact h1.sendTo.dropCuesBy
    · exact h1
  · intro _ _ h1
    split
    · exact Kept.sendTo h1
    · exact h1

theorem execFlitTime_kept {port : Nat} (h : Kept n s) : OutKept n (execFlitTime port s) := OutKept.ite h h.departOver.setPort

theorem execConfigure_kept {port peer peerPort : Nat} (h : Kept n s) : OutKept n (execConfigure port peer peerPort s) :=
  OutKept.ite h.portState.modPort h

theorem execTrainDone_kept {port lanes : Nat} (h : Kept n s) : OutKept n (execTrainDone port lanes s) :=
  OutKept.ite h.portState.modPort h

theorem execTrainFail_kept {port : Nat} (h : Kept n s) : OutKept n (execTrainFail port s) := OutKept.ite h.portDown h

theorem execLaneFailure_kept {port : Nat} (h : Kept n s) : OutKept n (execLaneFailure port s) :=
  OutKept.ite h (OutKept.ite h.portDown h.portState.modPort)

theorem execFecFailure_kept {port : Nat} (h : Kept n s) : OutKept n (execFecFailure port s) :=
  OutKept.ite (execLaneFailure_kept h.modPort) h

theorem execPeerLost_kept {port : Nat} (h : Kept n s) : OutKept n (execPeerLost port s) := OutKept.ite h.portDown h

theorem execRetrain_kept {port : Nat} (h : Kept n s) : OutKept n (execRetrain port s) := by
  unfold execRetrain
  split
  · exact h.portState.failPort.modPort
  · exact h.portState.failPort.modPort
  · exact h

theorem execPortDisable_kept {port : Nat} (h : Kept n s) : OutKept n (execPortDisable port s) :=
  OutKept.ite h h.portState.failPort.modPort

theorem execRouteTableUpdate_kept {dst port : Nat} (h : Kept n s) : OutKept n (execRouteTableUpdate dst port s) := OutKept.ite h h

theorem Kept.setErr {k : Nat} (h : Kept n s) : Kept n (s.setErr k) := by
  unfold State.setErr
  refine Kept.foldl ?_ (fun _ _ h1 => Kept.ctxEvent (h1.foldl (fun _ _ h2 => h2.raiseAt)))
  exact h

theorem Kept.timeLock {port : Nat} (h : Kept n s) : Kept n (s.timeLock port) := Kept.modPort (Kept.ite h.portState h)

theorem execTimeExchange_kept {port : Nat} (h : Kept n s) : OutKept n (execTimeExchange port s) := OutKept.ite h.modPort.queueFlit h

theorem Kept.correct {off : Int} {parentErr : Word} (h : Kept n s) : Kept n (s.correct off parentErr) := Kept.setErr h

theorem execTimeStamp_kept (h : Kept n s) : OutKept n (execTimeStamp s) := by
  unfold execTimeStamp
  split
  · next e1 => exact (h.takeMsg e1).modPort.queueFlit
  · next e1 => exact (h.takeMsg e1).queueFlit.timeLock
  · next e1 =>
      have h1 := h.takeMsg e1
      split
      · exact h1
      · exact Kept.ite h1.modPort.timeLock.correct h1.modPort.timeLock
  · exact h

theorem execHoldover_kept (h : Kept n s) : OutKept n (execHoldover s) := OutKept.ite (Kept.setErr h) h

theorem execParentPortNamed_kept {port root asym : Nat} (h : Kept n s) : OutKept n (execParentPortNamed port root asym s) :=
  OutKept.ite (Kept.setErr h) h

/-! ## The operations of StartEvents -/

/-- A reset counts identities from 0 again, with nothing in flight and nothing saved. -/
theorem Kept.cleared {boot : BootReport} (h : Kept n s) : Kept 0 (s.cleared boot) := Kept.of_empty h.dramWf h.hostWf rfl rfl

theorem Kept.trainPorts {bs : List BootPort} (h : Kept n s) : Kept n (s.trainPorts bs) :=
  h.foldl (fun _ _ h1 => Kept.ite h1.setPort h1)

theorem Kept.lockTime {boot : BootReport} (h : Kept n s) : Kept n (s.lockTime boot) := by
  unfold State.lockTime
  split
  · exact h
  · exact Kept.modPort h

theorem Kept.startStep {boot : BootReport} {step : Nat} (h : Kept n s) : Kept n (s.startStep boot step) := by
  unfold State.startStep
  split
  · exact h
  · exact h.trainPorts
  · exact h.lockTime
  · exact h.withDram rfl
  · exact h

theorem Kept.runStart {boot : BootReport} {steps : List Nat} (h : Kept n s) : Kept n (State.runStart boot steps s) := by
  induction steps generalizing s with
  | nil => exact h
  | cons k ks ih => exact Kept.ite h (ih h.startStep)

theorem Kept.coldStart {boot : BootReport} (h : Kept n s) : Kept 0 (s.coldStart boot) := h.cleared.runStart

theorem Kept.warmStart {boot : BootReport} (h : Kept n s) : Kept 0 (s.warmStart boot) :=
  Kept.ite h.coldStart (Kept.runStart (h.cleared (boot := boot)))

theorem execPowerOnReset_kept {boot : BootReport} (h : Kept n s) : OutKept 0 (execPowerOnReset boot s) := h.coldStart

theorem execResetCold_kept {boot : BootReport} (h : Kept n s) : OutKept 0 (execResetCold boot s) := h.coldStart

theorem execResetWarm_kept {boot : BootReport} (h : Kept n s) : OutKept 0 (execResetWarm boot s) := h.warmStart

theorem execFunctionLevelReset_kept {boot : BootReport} (h : Kept n s) : OutKept 0 (execFunctionLevelReset boot s) := h.warmStart

theorem Kept.writePower {value : Word} (h : Kept n s) : Kept n (s.writePower value) :=
  Kept.ite h (Kept.ite h.pkgEvent (Kept.ite h h))

theorem execPowerWrite_kept {value : Word} {needed : Nat} (h : Kept n s) : OutKept n (execPowerWrite value needed s) :=
  Kept.ite h.writePower h

theorem execHostWindowWrite_kept {offset : Nat} {bytes : List Byte} (h : Kept n s) :
    OutKept n (execHostWindowWrite offset bytes s) :=
  OutKept.ite h (OutKept.ite trivial h.writeDram)

theorem execPowerCapping_kept {watts : Nat} (h : Kept n s) : OutKept n (execPowerCapping watts s) := h

theorem execThermalTrip_kept {die : Nat} (h : Kept n s) : OutKept n (execThermalTrip die s) := by
  unfold execThermalTrip
  refine OutKept.ite ?_ ?_
  · exact h
  · refine Kept.pkgEvent ?_
    refine Kept.foldl ?_ (fun _ _ h1 => h1.pauseRequest)
    exact h

theorem execThermalClear_kept (h : Kept n s) : OutKept n (execThermalClear s) := Kept.ite h (Kept.pkgEvent h)

/-! ## The operations of Schedule -/

theorem Kept.fetchWord {tid : Nat} {va : Word} (h : Kept n s) : Kept n (s.fetchWord tid va).1 := by
  unfold State.fetchWord
  dsimp only
  split
  · exact h
  · exact h.fillLine
  · split
    · exact h
    · split
      · exact h
      · split
        · exact h
        · split
          · next e1 => exact (Kept.of_fst h.translateFor e1).modThread
          · next e1 =>
              have h1 := Kept.of_fst h.translateFor e1
              split
              · exact h1
              · exact h1.sendOp.modThread
          · next e1 =>
              have h1 := Kept.of_fst h.translateFor e1
              split
              · exact h1.placeServed.fillLine
              · exact h

theorem Kept.fetchWords {tid k : Nat} {va : Word} (h : Kept n s) : Kept n (State.fetchWords tid k va s).1 := by
  induction k generalizing s va with
  | zero => exact h
  | succ k ih =>
    unfold State.fetchWords
    split
    · next s1 bs e =>
      have h1 : Kept n s1 := Kept.of_fst h.fetchWord e
      split
      · next e2 => exact Kept.of_fst (ih h1) e2
      · exact ih h1
    · exact h.fetchWord

theorem Kept.fetchDone {tid : Nat} (h : Kept n s) : Kept n (s.fetchDone tid) := h.modThread

theorem Kept.raiseHere {tid : Nat} {code : FaultCode} {field : Nat} {data : Word} (h : Kept n s) :
    Kept n (s.raiseHere tid code field data) :=
  Kept.raise h

theorem Kept.passOver {core : Nat} {live : List Nat} {tid : Nat} (h : Kept n s) : Kept n (s.passOver core live tid) :=
  h.foldl (fun _ _ h1 => Kept.ite h1 (Kept.ite h1.modThread (Kept.ite h1 h1.modThread)))

theorem Kept.noneOver {core : Nat} {keep : List Nat} (h : Kept n s) : Kept n (s.noneOver core keep) :=
  h.foldl (fun _ _ h1 => Kept.ite h1 h1.modThread)

theorem Kept.tickTime (h : Kept n s) : Kept n s.tickTime := Kept.ite h (Kept.ite h (Kept.ite h h))

theorem Kept.tick (h : Kept n s) : Kept n s.tick := by
  unfold State.tick
  refine Kept.frame ?_ rfl
  refine Kept.foldl ?_ (fun _ _ h1 => Kept.ite h1 h1.pumpTile)
  refine Kept.tickTime ?_
  exact h

/-! ## Every instruction and event -/

theorem execRegisterWrite_kept {reg : RegWrite} {value : Word} (h : Kept 0 s) : OutKept 0 (execRegisterWrite reg value s) := by
  unfold execRegisterWrite
  dsimp only
  split
  · exact Kept.ite h.warmStart (Kept.ite h.coldStart h)
  · exact h.writePower
  · refine OutKept.ite h ?_
    split
    · exact OutKept.ite h (Kept.ite h (Kept.endCommand h))
    all_goals exact h

/-- Whatever an instruction or an event does, it keeps the invariant. A reset gives identities out from 0 again, so only the bound 0
stays. -/
def ExecKept (i : Instr) : Prop := ∀ s, Kept 0 s → OutKept 0 (exec i s)

theorem exec_kept (i : Instr) : ExecKept i := by
  cases i with
  | intAdd _ => exact fun _ => execIntAdd_kept
  | intSub _ => exact fun _ => execIntSub_kept
  | intMul _ => exact fun _ => execIntMul_kept
  | intMulh _ => exact fun _ => execIntMulh_kept
  | intDiv _ => exact fun _ => execIntDiv_kept
  | intRem _ => exact fun _ => execIntRem_kept
  | intMin _ => exact fun _ => execIntMin_kept
  | intMax _ => exact fun _ => execIntMax_kept
  | intAbs _ => exact fun _ => execIntAbs_kept
  | intAnd _ => exact fun _ => execIntAnd_kept
  | intOr _ => exact fun _ => execIntOr_kept
  | intXor _ => exact fun _ => execIntXor_kept
  | intAndn _ => exact fun _ => execIntAndn_kept
  | intShl _ => exact fun _ => execIntShl_kept
  | intShr _ => exact fun _ => execIntShr_kept
  | intRot _ => exact fun _ => execIntRot_kept
  | intClz _ => exact fun _ => execIntClz_kept
  | intCtz _ => exact fun _ => execIntCtz_kept
  | intPopc _ => exact fun _ => execIntPopc_kept
  | intMov _ => exact fun _ => execIntMov_kept
  | intSel _ => exact fun _ => execIntSel_kept
  | intiAddi _ => exact fun _ => execIntiAddi_kept
  | intiMuli _ => exact fun _ => execIntiMuli_kept
  | intiAndi _ => exact fun _ => execIntiAndi_kept
  | intiOri _ => exact fun _ => execIntiOri_kept
  | intiXori _ => exact fun _ => execIntiXori_kept
  | intiShli _ => exact fun _ => execIntiShli_kept
  | intiShri _ => exact fun _ => execIntiShri_kept
  | intiRoti _ => exact fun _ => execIntiRoti_kept
  | intiMovi _ => exact fun _ => execIntiMovi_kept
  | intiMovhi _ => exact fun _ => execIntiMovhi_kept
  | intiLea _ => exact fun _ => execIntiLea_kept
  | cmpEq _ => exact fun _ => execCmpEq_kept
  | cmpNe _ => exact fun _ => execCmpNe_kept
  | cmpLt _ => exact fun _ => execCmpLt_kept
  | cmpLe _ => exact fun _ => execCmpLe_kept
  | cmpGt _ => exact fun _ => execCmpGt_kept
  | cmpGe _ => exact fun _ => execCmpGe_kept
  | cmpUnord _ => exact fun _ => execCmpUnord_kept
  | prdAnd _ => exact fun _ => execPrdAnd_kept
  | prdOr _ => exact fun _ => execPrdOr_kept
  | prdXor _ => exact fun _ => execPrdXor_kept
  | prdAndn _ => exact fun _ => execPrdAndn_kept
  | prdNot _ => exact fun _ => execPrdNot_kept
  | prdSet _ => exact fun _ => execPrdSet_kept
  | prdPack _ => exact fun _ => execPrdPack_kept
  | prdUnpack _ => exact fun _ => execPrdUnpack_kept
  | prdKpack _ => exact fun _ => execPrdKpack_kept
  | prdKunpack _ => exact fun _ => execPrdKunpack_kept
  | ctlBra _ => exact fun _ => execCtlBra_kept
  | ctlJmp _ => exact fun _ => execCtlJmp_kept
  | ctlCall _ => exact fun _ => execCtlCall_kept
  | ctlCallr _ => exact fun _ => execCtlCallr_kept
  | ctlRet _ => exact fun _ => execCtlRet_kept
  | ctlLoop _ => exact fun _ => execCtlLoop_kept
  | ctlNop _ => exact fun _ => execCtlNop_kept
  | ctlEnter _ => exact fun _ => execCtlEnter_kept
  | ctlLeave _ => exact fun _ => execCtlLeave_kept
  | sysGet _ => exact fun _ => execSysGet_kept
  | sysSet _ => exact fun _ => execSysSet_kept
  | sysTrap _ => exact fun _ => execSysTrap_kept
  | sysBreak _ => exact fun _ => execSysBreak_kept
  | sysPerf _ => exact fun _ => execSysPerf_kept
  | fltAdd _ => exact fun _ => execFltAdd_kept
  | fltSub _ => exact fun _ => execFltSub_kept
  | fltMul _ => exact fun _ => execFltMul_kept
  | fltFma _ => exact fun _ => execFltFma_kept
  | fltDiv _ => exact fun _ => execFltDiv_kept
  | fltSqrt _ => exact fun _ => execFltSqrt_kept
  | fltMin _ => exact fun _ => execFltMin_kept
  | fltMax _ => exact fun _ => execFltMax_kept
  | fltAbs _ => exact fun _ => execFltAbs_kept
  | fltNeg _ => exact fun _ => execFltNeg_kept
  | fltCvt _ => exact fun _ => execFltCvt_kept
  | ldDisp _ => exact fun _ => execLdDisp_kept
  | ldIdx _ => exact fun _ => execLdIdx_kept
  | ldFe _ => exact fun _ => execLdFe_kept
  | ldAcq _ => exact fun _ => execLdAcq_kept
  | ldProbe _ => exact fun _ => execLdProbe_kept
  | stDisp _ => exact fun _ => execStDisp_kept
  | stIdx _ => exact fun _ => execStIdx_kept
  | stFe _ => exact fun _ => execStFe_kept
  | stRel _ => exact fun _ => execStRel_kept
  | stClr _ => exact fun _ => execStClr_kept
  | atmAdd _ => exact fun _ => execAtmAdd_kept
  | atmAnd _ => exact fun _ => execAtmAnd_kept
  | atmOr _ => exact fun _ => execAtmOr_kept
  | atmXor _ => exact fun _ => execAtmXor_kept
  | atmMin _ => exact fun _ => execAtmMin_kept
  | atmMax _ => exact fun _ => execAtmMax_kept
  | atmXchg _ => exact fun _ => execAtmXchg_kept
  | atmCas _ => exact fun _ => execAtmCas_kept
  | atmFadd _ => exact fun _ => execAtmFadd_kept
  | fncFence _ => exact fun _ => execFncFence_kept
  | fncDrain _ => exact fun _ => execFncDrain_kept
  | cpyGo1 _ => exact fun _ => execCpyGo1_kept
  | cpyGo2 _ => exact fun _ => execCpyGo2_kept
  | cpyGather _ => exact fun _ => execCpyGather_kept
  | cpyScatter _ => exact fun _ => execCpyScatter_kept
  | cpyFill _ => exact fun _ => execCpyFill_kept
  | cpyJoin _ => exact fun _ => execCpyJoin_kept
  | cpyWait _ => exact fun _ => execCpyWait_kept
  | vecAdd _ => exact fun _ => execVecAdd_kept
  | vecSub _ => exact fun _ => execVecSub_kept
  | vecMul _ => exact fun _ => execVecMul_kept
  | vecFma _ => exact fun _ => execVecFma_kept
  | vecFms _ => exact fun _ => execVecFms_kept
  | vecMin _ => exact fun _ => execVecMin_kept
  | vecMax _ => exact fun _ => execVecMax_kept
  | vecAbs _ => exact fun _ => execVecAbs_kept
  | vecNeg _ => exact fun _ => execVecNeg_kept
  | vecAnd _ => exact fun _ => execVecAnd_kept
  | vecOr _ => exact fun _ => execVecOr_kept
  | vecXor _ => exact fun _ => execVecXor_kept
  | vecShl _ => exact fun _ => execVecShl_kept
  | vecShr _ => exact fun _ => execVecShr_kept
  | vecMov _ => exact fun _ => execVecMov_kept
  | vecBcast _ => exact fun _ => execVecBcast_kept
  | vecSel _ => exact fun _ => execVecSel_kept
  | vecAdds _ => exact fun _ => execVecAdds_kept
  | vecSubs _ => exact fun _ => execVecSubs_kept
  | vcvCvt _ => exact fun _ => execVcvCvt_kept
  | vcvPack _ => exact fun _ => execVcvPack_kept
  | vcvUnpack _ => exact fun _ => execVcvUnpack_kept
  | vcvQnt _ => exact fun _ => execVcvQnt_kept
  | vcvScale _ => exact fun _ => execVcvScale_kept
  | vsfExp2 _ => exact fun _ => execVsfExp2_kept
  | vsfLog2 _ => exact fun _ => execVsfLog2_kept
  | vsfRcp _ => exact fun _ => execVsfRcp_kept
  | vsfRsqrt _ => exact fun _ => execVsfRsqrt_kept
  | vsfSqrt _ => exact fun _ => execVsfSqrt_kept
  | vpmPerm _ => exact fun _ => execVpmPerm_kept
  | vpmRot _ => exact fun _ => execVpmRot_kept
  | vpmRed _ => exact fun _ => execVpmRed_kept
  | vpmScan _ => exact fun _ => execVpmScan_kept
  | vpmExtr _ => exact fun _ => execVpmExtr_kept
  | vpmIns _ => exact fun _ => execVpmIns_kept
  | vpmIota _ => exact fun _ => execVpmIota_kept
  | vlsLd _ => exact fun _ => execVlsLd_kept
  | vlsSt _ => exact fun _ => execVlsSt_kept
  | vlsLds _ => exact fun _ => execVlsLds_kept
  | vlsSts _ => exact fun _ => execVlsSts_kept
  | vlsLdg _ => exact fun _ => execVlsLdg_kept
  | vlsLdfe _ => exact fun _ => execVlsLdfe_kept
  | vlsStfe _ => exact fun _ => execVlsStfe_kept
  | vcmpEq _ => exact fun _ => execVcmpEq_kept
  | vcmpNe _ => exact fun _ => execVcmpNe_kept
  | vcmpLt _ => exact fun _ => execVcmpLt_kept
  | vcmpLe _ => exact fun _ => execVcmpLe_kept
  | vcmpGt _ => exact fun _ => execVcmpGt_kept
  | vcmpGe _ => exact fun _ => execVcmpGe_kept
  | vcmpUnord _ => exact fun _ => execVcmpUnord_kept
  | mxuMma _ => exact fun _ => execMxuMma_kept
  | mxuBlk _ => exact fun _ => execMxuBlk_kept
  | mxuSca _ => exact fun _ => execMxuSca_kept
  | mxuZero _ => exact fun _ => execMxuZero_kept
  | mxuXfer _ => exact fun _ => execMxuXfer_kept
  | mxuLoad _ => exact fun _ => execMxuLoad_kept
  | mxuWait _ => exact fun _ => execMxuWait_kept
  | mxuProg _ => exact fun _ => execMxuProg_kept
  | sclLd _ => exact fun _ => execSclLd_kept
  | sclMov _ => exact fun _ => execSclMov_kept
  | sclClr _ => exact fun _ => execSclClr_kept
  | cuePost _ => exact fun _ => execCuePost_kept
  | cuePostb _ => exact fun _ => execCuePostb_kept
  | cueSelf _ => exact fun _ => execCueSelf_kept
  | cueTimer _ => exact fun _ => execCueTimer_kept
  | cueEnd _ => exact fun _ => execCueEnd_kept
  | cueNow _ => exact fun _ => execCueNow_kept
  | cueTag _ => exact fun _ => execCueTag_kept
  | cueInfo _ => exact fun _ => execCueInfo_kept
  | cueHzn _ => exact fun _ => execCueHzn_kept
  | accChain _ => exact fun _ => execAccChain_kept
  | accSend _ => exact fun _ => execAccSend_kept
  | accStat _ => exact fun _ => execAccStat_kept
  | accBreak _ => exact fun _ => execAccBreak_kept
  | barInit _ => exact fun _ => execBarInit_kept
  | barArrive _ => exact fun _ => execBarArrive_kept
  | barWait _ => exact fun _ => execBarWait_kept
  | barSync _ => exact fun _ => execBarSync_kept
  | barLine _ => exact fun _ => execBarLine_kept
  | barDrop _ => exact fun _ => execBarDrop_kept
  | grpId _ => exact fun _ => execGrpId_kept
  | grpSize _ => exact fun _ => execGrpSize_kept
  | grpExit _ => exact fun _ => execGrpExit_kept
  | grpBudget _ => exact fun _ => execGrpBudget_kept
  | grpRegs _ => exact fun _ => execGrpRegs_kept
  | quePush _ => exact fun _ => execQuePush_kept
  | queStat _ => exact fun _ => execQueStat_kept
  | queWait _ => exact fun _ => execQueWait_kept
  | ctxYield _ => exact fun _ => execCtxYield_kept
  | ctxInfo _ => exact fun _ => execCtxInfo_kept
  | pgProbe _ => exact fun _ => execPgProbe_kept
  | lnkStat _ => exact fun _ => execLnkStat_kept
  | variableLatencyResult _ => exact fun _ => execVariableLatencyResult_kept
  | switchMarkerWaitEnds _ => exact fun _ => execSwitchMarkerWaitEnds_kept
  | faultDelivered _ => exact fun _ => execFaultDelivered_kept
  | remoteFaultReport _ _ _ => exact fun _ => execRemoteFaultReport_kept
  | consumingLoadServed _ => exact fun _ => execConsumingLoadServed_kept
  | consumingLoadResend _ => exact fun _ => execConsumingLoadResend_kept
  | poolAccessArrival _ _ => exact fun _ => execPoolAccessArrival_kept
  | storeAcknowledgement _ _ => exact fun _ => execStoreAcknowledgement_kept
  | sfuResult _ => exact fun _ => execSfuResult_kept
  | copyStart _ _ => exact fun _ => execCopyStart_kept
  | retireUnit _ _ => exact fun _ => execRetireUnit_kept
  | copyFinish _ _ => exact fun _ => execCopyFinish_kept
  | copyFault _ _ _ => exact fun _ => execCopyFault_kept
  | copyRetry _ _ => exact fun _ => execCopyRetry_kept
  | mxuAccept _ => exact fun _ => execMxuAccept_kept
  | mxuGrant tile => exact fun s h => (execMxuGrant_kept h : OutKept 0 (execMxuGrant tile s))
  | mxuFinish _ => exact fun _ => execMxuFinish_kept
  | mxuOperandFault _ _ => exact fun _ => execMxuOperandFault_kept
  | mxuRetry _ => exact fun _ => execMxuRetry_kept
  | cueStore _ => exact fun _ => execCueStore_kept
  | cueSpill _ => exact fun _ => execCueSpill_kept
  | cueHold _ => exact fun _ => execCueHold_kept
  | cueMerge _ => exact fun _ => execCueMerge_kept
  | spillFetchDone _ => exact fun _ => execSpillFetchDone_kept
  | cueForward _ => exact fun _ => execCueForward_kept
  | cueRelease _ => exact fun _ => execCueRelease_kept
  | handlerStart _ => exact fun _ => execHandlerStart_kept
  | budgetExhausted _ => exact fun _ => execBudgetExhausted_kept
  | packetAccept _ _ => exact fun _ => execPacketAccept_kept
  | doorbell _ _ => exact fun _ => execDoorbell_kept
  | dispatchOpportunity => exact fun _ => execDispatchOpportunity_kept
  | launch _ _ => exact fun _ => execLaunch_kept
  | cuePacket _ _ => exact fun _ => execCuePacket_kept
  | copyPacket _ _ => exact fun _ => execCopyPacket_kept
  | collectiveStep _ _ => exact fun _ => execCollectiveStep_kept
  | arrivalNotice => exact fun _ => execArrivalNotice_kept
  | fencePacket _ _ => exact fun _ => execFencePacket_kept
  | mark _ _ => exact fun _ => execMark_kept
  | preempt _ _ => exact fun _ => execPreempt_kept
  | resume _ _ => exact fun _ => execResume_kept
  | promptBookComplete _ _ _ => exact fun _ => execPromptBookComplete_kept
  | hostStoreAckRead _ _ _ => exact fun _ => execHostStoreAckRead_kept
  | queuePushWrite _ _ => exact fun _ => execQueuePushWrite_kept
  | queueAccessFault _ _ => exact fun _ => execQueueAccessFault_kept
  | gangPlaced _ _ _ _ => exact fun _ => execGangPlaced_kept
  | cast _ => exact fun _ => execCast_kept
  | gangLeaves _ _ _ _ => exact fun _ => execGangLeaves_kept
  | create _ _ => exact fun _ => execCreate_kept
  | load _ => exact fun _ => execLoad_kept
  | destroy _ => exact fun _ => execDestroy_kept
  | clear _ => exact fun _ => execClear_kept
  | attest _ => exact fun _ => execAttest_kept
  | pauseProposal => exact fun _ => execPauseProposal_kept
  | pauseReply => exact fun _ => execPauseReply_kept
  | pauseAgreed => exact fun _ => execPauseAgreed_kept
  | releaseStop _ => exact fun _ => execReleaseStop_kept
  | saveComplete _ => exact fun _ => execSaveComplete_kept
  | resumeAgreement _ => exact fun _ => execResumeAgreement_kept
  | restoreComplete _ => exact fun _ => execRestoreComplete_kept
  | killNotice => exact fun _ => execKillNotice_kept
  | chainJoin _ => exact fun _ => execChainJoin_kept
  | chainAck _ => exact fun _ => execChainAck_kept
  | chainNak _ => exact fun _ => execChainNak_kept
  | joinRetry _ _ => exact fun _ => execJoinRetry_kept
  | stripAccepted _ _ _ => exact fun _ => execStripAccepted_kept
  | chainCredit _ => exact fun _ => execChainCredit_kept
  | chainComplete _ => exact fun _ => execChainComplete_kept
  | chainBreak _ => exact fun _ => execChainBreak_kept
  | chainTimeout _ _ => exact fun _ => execChainTimeout_kept
  | barrierArrival _ => exact fun _ => execBarrierArrival_kept
  | barrierRelease _ => exact fun _ => execBarrierRelease_kept
  | curtainArrival _ _ => exact fun _ => execCurtainArrival_kept
  | barTimeout _ _ => exact fun _ => execBarTimeout_kept
  | threadDeparture _ => exact fun _ => execThreadDeparture_kept
  | translationRequest _ _ => exact fun _ => execTranslationRequest_kept
  | walkDone _ _ => exact fun _ => execWalkDone_kept
  | pageFaultAnswer _ _ _ _ => exact fun _ => execPageFaultAnswer_kept
  | invalidation _ _ => exact fun _ => execInvalidation_kept
  | invalidationComplete => exact fun _ => execInvalidationComplete_kept
  | dramBurst _ => exact fun _ => execDramBurst_kept
  | dramRefresh _ => exact fun _ => execDramRefresh_kept
  | flitReceived _ _ => exact fun _ => execFlitReceived_kept
  | retryRequest _ _ => exact fun _ => execRetryRequest_kept
  | remoteOperation _ => exact fun _ => execRemoteOperation_kept
  | remoteAck => exact fun _ => execRemoteAck_kept
  | timeExchange _ => exact fun _ => execTimeExchange_kept
  | timeStamp => exact fun _ => execTimeStamp_kept
  | holdover => exact fun _ => execHoldover_kept
  | configure _ _ _ => exact fun _ => execConfigure_kept
  | trainDone _ _ => exact fun _ => execTrainDone_kept
  | trainFail _ => exact fun _ => execTrainFail_kept
  | laneFailure _ => exact fun _ => execLaneFailure_kept
  | retryExhausted _ => exact fun _ => execRetryExhausted_kept
  | peerLost _ => exact fun _ => execPeerLost_kept
  | retrain _ => exact fun _ => execRetrain_kept
  | portDisable _ => exact fun _ => execPortDisable_kept
  | routeTableUpdate _ _ => exact fun _ => execRouteTableUpdate_kept
  | powerOnReset _ => exact fun _ => execPowerOnReset_kept
  | functionLevelReset _ => exact fun _ => execFunctionLevelReset_kept
  | resetCold _ => exact fun _ => execResetCold_kept
  | resetWarm _ => exact fun _ => execResetWarm_kept
  | powerWrite _ _ => exact fun _ => execPowerWrite_kept
  | thermalTrip _ => exact fun _ => execThermalTrip_kept
  | thermalClear => exact fun _ => execThermalClear_kept
  | registerWrite _ _ => exact fun _ => execRegisterWrite_kept
  | flitTime _ => exact fun _ => execFlitTime_kept
  | targetAdderFlit _ _ => exact fun _ => execTargetAdderFlit_kept
  | hostWindowWrite _ _ => exact fun _ => execHostWindowWrite_kept
  | queueEnable _ _ => exact fun _ => execQueueEnable_kept
  | queueDisable _ _ => exact fun _ => execQueueDisable_kept
  | loadAgreement => exact fun _ => execLoadAgreement_kept
  | parentPortNamed _ _ _ => exact fun _ => execParentPortNamed_kept
  | powerCapping _ => exact fun _ => execPowerCapping_kept

/-! ## Fetching and issuing -/

theorem Kept.runWord {tid : Nat} {w : BitVec 96} (h : Kept 0 s) : OutKept 0 (s.runWord tid w) := by
  unfold State.runWord
  split
  · exact h.raiseHere
  · exact exec_kept _ _ h

theorem Kept.issueThread {tid : Nat} (h : Kept 0 s) : OutKept 0 (s.issueThread tid) := by
  unfold State.issueThread
  dsimp only
  split
  · exact h.modThread
  · exact h.modThread.raiseHere
  · refine OutKept.ite (execBudgetExhausted_kept h) (OutKept.ite h (OutKept.ite h.raiseHere ?_))
    split
    · next e => exact Kept.of_fst h.fetchWords e
    · next e => exact Kept.raiseHere (Kept.of_fst h.fetchWords e)
    · next e => exact Kept.runWord (Kept.fetchDone (Kept.of_fst h.fetchWords e))

theorem Kept.issueCore {core : Nat} (h : Kept 0 s) : OutKept 0 (s.issueCore core) := by
  unfold State.issueCore
  split
  · exact h
  · with_reducible exact h.noneOver.issueThread
  · split
    · exact h.noneOver
    · with_reducible exact h.passOver.issueThread

/-! ## The events that the package looks for of itself -/

/-- Every event of a list keeps the invariant. -/
def EventsKept (l : List Event) : Prop := ∀ e ∈ l, EventKept e

theorem EventsKept.nil : EventsKept [] := fun _ he => nomatch he

theorem EventsKept.cons {e : Event} {l : List Event} (he : EventKept e) (hl : EventsKept l) : EventsKept (e :: l) :=
  List.forall_mem_cons.mpr ⟨he, hl⟩

theorem EventsKept.append {l m : List Event} (hl : EventsKept l) (hm : EventsKept m) : EventsKept (l ++ m) :=
  List.forall_mem_append.mpr ⟨hl, hm⟩

theorem EventsKept.map {α : Type} {f : α → Event} {l : List α} (hf : ∀ x, EventKept (f x)) : EventsKept (l.map f) :=
  List.forall_mem_map.mpr (fun x _ => hf x)

theorem EventsKept.flatMap {α : Type} {f : α → List Event} {l : List α} (hf : ∀ x, EventsKept (f x)) :
    EventsKept (l.flatMap f) := by
  intro e he
  obtain ⟨x, -, hx⟩ := List.mem_flatMap.mp he
  exact hf x e hx

theorem EventsKept.ite {c : Prop} [Decidable c] {l m : List Event} (hl : EventsKept l) (hm : EventsKept m) :
    EventsKept (if c then l else m) := by
  split <;> assumption

theorem Access.events_kept (a : Access) : EventsKept a.events :=
  .append (.cons execVariableLatencyResult_kept <| .cons execConsumingLoadResend_kept .nil)
    (.flatMap fun _ => .cons execStoreAcknowledgement_kept <| .cons execRemoteFaultReport_kept <|
      .cons execPoolAccessArrival_kept <|
      .cons execTranslationRequest_kept <| .cons execWalkDone_kept .nil)

theorem coreEvents_kept (c : Nat) : EventsKept (coreEvents c) :=
  .append (.cons execSfuResult_kept <| .cons execConsumingLoadServed_kept <| .cons execMxuFinish_kept <| .cons execMxuAccept_kept <|
      .cons execMxuStage_kept <| .cons execMxuOperandFault_kept <| .cons execMxuRetry_kept .nil)
    (.flatMap fun _ => .cons execCopyFinish_kept <| .cons execCopyStart_kept <| .cons execCopyFault_kept <|
      .cons execCopyRetry_kept <|
      .cons execRetireUnit_kept .nil)

theorem tileEvents_kept (t : Nat) (x : Tile) : EventsKept (tileEvents t x) :=
  .append (.flatMap fun _ => .append (.cons execJoinRetry_kept <| .cons execChainTimeout_kept .nil)
      (.map fun _ => execStripAccepted_kept))
    (.flatMap fun _ => .cons execCurtainArrival_kept <| .cons execBarTimeout_kept .nil)

theorem threadEvents_kept (t : Nat) : EventsKept (threadEvents t) :=
  .cons execFaultDelivered_kept <| .cons execBudgetExhausted_kept <| .cons execSwitchMarkerWaitEnds_kept <|
    .cons execCueMerge_kept <|
  .cons execCueRelease_kept <| .cons execSpillFetchDone_kept <| .cons execHandlerStart_kept .nil

theorem chainMsgEvents_kept (m : Nat) : EventsKept (chainMsgEvents m) :=
  .cons execChainJoin_kept <| .cons execChainAck_kept <| .cons execChainNak_kept <| .cons execChainCredit_kept <|
  .cons execChainComplete_kept <| .cons execChainBreak_kept .nil

theorem barMsgEvents_kept (m : Nat) : EventsKept (barMsgEvents m) :=
  .cons execBarrierArrival_kept <| .cons execThreadDeparture_kept <| .cons execBarrierRelease_kept .nil

theorem cueEvents_kept (c : Nat) : EventsKept (cueEvents c) :=
  .cons execCueStore_kept <| .cons execCueSpill_kept <| .cons execCueHold_kept <| .cons execCueForward_kept .nil

theorem queueEvents_kept (asid q : Nat) (k : Queue) : EventsKept (queueEvents asid q k) := by
  refine .append (.append (.append ?_ (.ite (.cons execDoorbell_kept .nil) .nil)) ?_) (.map fun _ => execPromptBookComplete_kept)
  · split
    · exact .cons execQueueEnable_kept .nil
    · exact .cons execQueueDisable_kept .nil
    · exact .nil
  · exact .cons execQueueAccessFault_kept <| .cons execPushAsk_kept <| .cons execPushGrant_kept <| .cons execQueuePushWrite_kept <|
      .cons execPacketAccept_kept <| .cons execLaunch_kept <| .cons execCuePacket_kept <| .cons execCopyPacket_kept <|
      .cons execCollectiveStep_kept <| .cons execFencePacket_kept <| .cons execMark_kept <| .cons execPreempt_kept <|
      .cons execResume_kept .nil

theorem launchEvents_kept (a : Launch) : EventsKept (launchEvents a) :=
  .append (.append (.cons execPartEnded_kept .nil) (.map fun _ => execGangLeaves_kept))
    (.cons execGangPlaced_kept <| .cons execHostStoreAckRead_kept .nil)

theorem ctxEvents_kept (asid : Nat) : EventsKept (ctxEvents asid) :=
  .cons execOwedWrites_kept <| .cons execOverflowUpdate_kept <| .cons execQueueCheck_kept <| .cons execReleaseStop_kept <|
  .cons execSaveComplete_kept <| .cons execImagePlaced_kept <| .cons execResumeAgreement_kept <| .cons execRestoreComplete_kept .nil

theorem commandEvents_kept (s : State) : EventsKept s.commandEvents :=
  .ite (.cons execCreate_kept <| .cons execLoad_kept <| .cons execDestroy_kept <| .cons execClear_kept <|
    .cons execAttest_kept .nil) .nil

theorem inboxEvents_kept (s : State) : EventsKept s.inboxEvents :=
  .ite .nil <|
    .cons execRemoteOperation_kept <| .cons execRemoteAck_kept <| .cons execTimeStamp_kept <| .cons execKillNotice_kept <|
    .cons execPauseProposal_kept <| .cons execPauseReply_kept <| .cons execPauseAgreed_kept <| .cons execLoadAgreement_kept <|
    .cons execArrivalNotice_kept <| .cons execCastIn_kept <| .cons execCollectiveLost_kept .nil

theorem portEvents_kept (s : State) : EventsKept s.portEvents := by
  refine .append (.append (.ite .nil (.cons execUnsent_kept .nil)) (.flatMap fun _ => ?_)) ?_
  · exact .cons execTimeExchange_kept <| .cons execRetryExhausted_kept <| .cons execPeerLost_kept <| .cons execFecFailure_kept .nil
  · split
    · exact .ite .nil (.cons execHoldover_kept .nil)
    · exact .nil

theorem candidates_kept (s : State) : EventsKept s.candidates := by
  refine .append (.append (.append (.append (.append (.append (.append (.append (.append (.append (.append (.append (.append
    (.append (.append (commandEvents_kept s) (inboxEvents_kept s))
      (portEvents_kept s)) ?_) ?_) ?_) ?_) ?_) ?_) ?_) ?_) ?_) ?_) ?_) ?_) ?_
  · exact .flatMap Access.events_kept
  · exact .ite .nil (.cons execInvalidationComplete_kept .nil)
  · exact .flatMap fun _ => coreEvents_kept _
  · exact .map fun _ => execMxuGrant_kept
  · exact .flatMap fun _ => tileEvents_kept _ _
  · exact .flatMap fun _ => chainMsgEvents_kept _
  · exact .flatMap fun _ => barMsgEvents_kept _
  · exact .flatMap fun _ => .map fun _ => execCast_kept
  · exact .flatMap fun _ => cueEvents_kept _
  · exact .flatMap fun _ => threadEvents_kept _
  · exact .flatMap fun _ => ctxEvents_kept _
  · exact .flatMap fun _ => queueEvents_kept _ _ _
  · exact .flatMap launchEvents_kept

theorem Kept.firstDue {l : List Event} {o : Out} (h : Kept n s) (hl : EventsKept l) (e : s.firstDue l = some o) : OutKept n o := by
  induction l with
  | nil => cases e
  | cons ev l ih =>
    obtain ⟨hev, hl⟩ := List.forall_mem_cons.mp hl
    have hnext := hev h
    unfold State.firstDue at e
    split at e
    · next t he =>
      split at e
      · exact ih hl e
      · cases e; exact hnext.of_eq he
    · cases e; exact hnext

/-! ## One step -/

theorem Kept.act {a : Action} (h : Kept 0 s) : OutKept 0 (s.act a) := by
  cases a with
  | event i => exact (exec_kept i s h : OutKept 0 (exec i s))
  | tick => exact h.tick
  | issue core => exact h.issueCore
  | hostStore addr bytes => exact h.writeHostMem
  | dispatch => exact execDispatchOpportunity_kept h
  | burst ch => exact execDramBurst_kept h
  | flit port => exact execFlitTime_kept h
  | adder tile entry => exact execTargetAdderFlit_kept h

theorem step_kept (h : Kept 0 s) : OutKept 0 (step s) := by
  unfold step
  split
  · exact Kept.act h
  · unfold State.goOn
    split
    · next e => exact h.firstDue (candidates_kept s) e
    · exact h.tick

end

end Sys2Proof.Machine

namespace Sys2Proof

/-- Settles O5: the machine after reset has empty memories, no access and no context, and has given no identity out. -/
theorem invariantAtReset : Obligations.InvariantAtReset :=
  (Machine.Kept.of_empty rfl rfl rfl rfl).inv

/-- Settles O6, by carrying `Machine.Kept` through every operation of the model, every instruction and event, and every action a
step can take. -/
theorem invariantKept : Obligations.InvariantKept :=
  fun _ _ h e => (Machine.OutKept.of_eq (Machine.step_kept ⟨Nat.zero_le _, h⟩) e).inv

end Sys2Proof

namespace Sys2Proof.Machine

/-! # DRAM bursts and operations on another package -/

section

variable {s : State}

/-! ## Accesses in flight -/

/-- The first access of an identity is still the first one once it is changed. -/
theorem find?_map_id {l : List Access} {i : Nat} {a : Access} {f : Access → Access} (hf : (f a).id = a.id)
    (h : l.find? (fun b => b.id = i) = some a) :
    (l.map (fun b => if b.id = i then f b else b)).find? (fun b => b.id = i) = some (f a) := by
  induction l with
  | nil => cases h
  | cons b l ih =>
    by_cases hb : b.id = i
    · obtain rfl : b = a := by simpa [hb] using h
      simp [hb, hf]
    · simpa [hb] using ih (by simpa [hb] using h)

/-- An access that is changed is found as changed. -/
theorem State.findAcc_modAcc_self {i : Nat} {a : Access} {f : Access → Access} (h : s.findAcc i = some a)
    (hf : (f a).id = a.id) : (s.modAcc i f).findAcc i = some (f a) := find?_map_id hf h

@[simp] theorem State.findAcc_setChannel (n : Nat) (c : Channel) (i : Nat) : (s.setChannel n c).findAcc i = s.findAcc i := rfl

/-! ## An access that is wholly performed -/

/-- What settling an access leaves: all but the threads and the list of accesses. -/
theorem State.settle_eq (s : State) (i : Nat) : ∃ ts as, s.settle i = { s with threads := ts, accs := as } := by
  unfold State.settle
  split
  · exact ⟨_, _, rfl⟩
  · split
    · exact ⟨_, _, rfl⟩
    · split
      · exact ⟨_, _, rfl⟩
      · exact ⟨_, _, rfl⟩

@[simp] theorem State.settle_dram (i : Nat) : (s.settle i).dram = s.dram := by
  obtain ⟨ts, as, h⟩ := s.settle_eq i
  rw [h]
@[simp] theorem State.settle_hostMem (i : Nat) : (s.settle i).hostMem = s.hostMem := by
  obtain ⟨ts, as, h⟩ := s.settle_eq i
  rw [h]
@[simp] theorem State.settle_cores (i : Nat) : (s.settle i).cores = s.cores := by
  obtain ⟨ts, as, h⟩ := s.settle_eq i
  rw [h]
@[simp] theorem State.settle_channel (i n : Nat) : (s.settle i).channel n = s.channel n := by
  obtain ⟨ts, as, h⟩ := s.settle_eq i
  rw [h]; rfl
@[simp] theorem State.settle_inbox (i : Nat) : (s.settle i).inbox = s.inbox := by
  obtain ⟨ts, as, h⟩ := s.settle_eq i
  rw [h]

/-- An access stays in the list while its result or its acknowledgement is outstanding. -/
theorem State.settle_outstanding {i : Nat} {a : Access} (h : s.findAcc i = some a) (hfix : a.fixed = false)
    (hout : a.dest ≠ none ∨ a.isDone = false) : s.settle i = s := by
  rcases hout with hd | hd <;> simp [State.settle, h, hfix, hd]

/-! ## Performing at DRAM -/

/-- A part performed at DRAM changes nothing of the machine but DRAM. -/
theorem State.performPart_dram_eq (s : State) (op : AccOp) (p : Part) (pa : Nat) :
    ∃ m, (s.performPart op p (.dram pa) false).1 = { s with dram := m } := by
  cases op <;> exact ⟨_, rfl⟩

theorem length_atomicBytes (fn : AtmFn) (ty : Ty) (b c : Word) (rnd : Nat) (old : List Byte)
    (h : old.length = ty.width / 8) : (atomicBytes fn ty b c rnd old).length = ty.width / 8 := by
  cases fn
  case cas => simp only [atomicBytes]; split <;> simp [h]
  all_goals simp [atomicBytes]

/-- The burst for an access of one part that stands in front of the channel (R30). -/
theorem execDramBurst_onePart {ch asid pa : Nat} {a : Access} {p : Part} (hb : s.burst ch = some (asid, a, 0, pa))
    (hf : s.findAcc a.id = some a) (hp : a.parts = [p]) (hs : p.stage = .channel) (hl : p.loc = some (.dram pa))
    (hr : s.refreshing ch = false) :
    let r := (s.setChannel ch { s.channel ch with last := asid }).performPart a.op p (.dram pa) false
    execDramBurst ch s = .next ((r.1.modAcc a.id (fun b => b.setPart 0 r.2)).settle a.id) := by
  simp [execDramBurst, hr, hb, hp, hs, hl, hf]

/-- After its burst the access is found with its part performed, unless it has left the list. -/
theorem findAcc_after_burst {ch pa : Nat} {c : Channel} {a : Access} {p q : Part} (hf : s.findAcc a.id = some a) (hp : a.parts = [p]) :
    (((s.setChannel ch c).performPart a.op p (.dram pa) false).1.modAcc a.id (fun b => b.setPart 0 q)).findAcc a.id =
      some { a with parts := [q] } := by
  obtain ⟨m, hm⟩ := (s.setChannel ch c).performPart_dram_eq a.op p pa
  have hf' : ((s.setChannel ch c).performPart a.op p (.dram pa) false).1.findAcc a.id = some a := by rw [hm]; exact hf
  rw [State.findAcc_modAcc_self hf' rfl]
  simp [Access.setPart, hp]

end

/-- DRAM bursts (R30, R180): a load, a store and an atomic, each by what performing its part at DRAM leaves. -/
theorem dramBursts : Claims.DramBursts := by
  intro s ch asid pa a p hb hf hp hs hl hr old
  have hstep := execDramBurst_onePart hb hf hp hs hl hr
  have hacc := @findAcc_after_burst s ch pa { s.channel ch with last := asid } a p
    ((s.setChannel ch { s.channel ch with last := asid }).performPart a.op p (.dram pa) false).2 hf hp
  obtain ⟨m, hm⟩ := (s.setChannel ch { s.channel ch with last := asid }).performPart_dram_eq a.op p pa
  refine ⟨_, hstep, ?_, ?_, ?_, ?_, ?_, ?_⟩
  · rw [State.settle_channel, hm]
    exact congrArg Channel.last (State.channel_setChannel_self s ch _)
  · rw [State.settle_hostMem, hm]; rfl
  · rw [State.settle_cores, hm]; rfl
  · intro hop hfix hd
    rw [State.settle_outstanding hacc hfix (.inl hd)]
    refine ⟨by rw [hop]; rfl, _, hacc, ?_⟩
    simp [State.performPart, hop, hl, doneStage, State.readLoc, old]
  · intro f hop
    rw [State.settle_dram, hop]
    exact ⟨Memory.read_write_same _ _ _, fun x hx => Memory.byte_write_out _ _ _ _ hx⟩
  · intro fn ty b c rnd hop hfix
    have hlen : (atomicBytes fn ty b c rnd (old (ty.width / 8))).length = ty.width / 8 :=
      length_atomicBytes _ _ _ _ _ _ (Memory.length_read _ _ _)
    have hread := Memory.read_write_same s.dram pa (atomicBytes fn ty b c rnd (old (ty.width / 8)))
    have hout := Memory.byte_write_out s.dram pa (atomicBytes fn ty b c rnd (old (ty.width / 8)))
    rw [hlen] at hread hout
    rw [State.settle_outstanding hacc hfix (.inr ?_)]
    · rw [hop] at hacc ⊢
      exact ⟨hread, hout, _, hacc, by simp [State.performPart, hl, doneStage, atomicAt, State.readLoc, old]⟩
    · simp [Access.isDone, hop, AccOp.writes, State.performPart, doneStage]
end Sys2Proof.Machine

namespace Sys2Proof

/-- How far above its address a remote operation reaches. -/
def RemOp.reach : RemOp → Nat
  | .read n => n
  | .write bs => bs.length
  | .scatter runs => ((runs.map (fun r => r.1 + r.2.length)).max?).getD 0
  | .atomic _ ty _ _ _ => ty.width / 8

end Sys2Proof

namespace Sys2Proof.Machine

section

variable {s : State}

/-! ## Messages that come in -/

/-- The first message of the inbox is taken when it is of the kind asked for. -/
theorem State.takeMsg_head {m : InMsg} {rest : List InMsg} {k : LinkMsg → Bool} (hi : s.inbox = m :: rest) (hk : k m.msg = true) :
    s.takeMsg k = some (m, { s with inbox := rest }) := by
  simp [State.takeMsg, hi, hk]

/-! ## Remote operations (R431) -/

/-- Whether a remote operation lies inside the DRAM and its context is loaded here. -/
abbrev State.takesOp (s : State) (asid pa : Nat) (op : RemOp) : Prop :=
  pa + op.reach ≤ dramSize ∧ s.isLoaded asid = true

/-- What an operation that is taken does to DRAM, and what it brings. -/
def State.opEffect (s : State) (pa : Nat) : RemOp → Memory × RemRes
  | .read n => (s.dram, .data (s.dram.read pa n))
  | .write bs => (s.dram.write pa bs, .done)
  | .scatter runs => (runs.foldl (fun m r => m.write (pa + r.1) r.2) s.dram, .done)
  | .atomic fn ty b c rnd =>
    (s.dram.write pa (atomicBytes fn ty b c rnd (s.dram.read pa (ty.width / 8))), .data (s.dram.read pa (ty.width / 8)))

theorem State.isLoaded_iff {asid : Nat} : s.isLoaded asid = true ↔ (s.ctx asid).state ≠ .absent ∧ (s.ctx asid).state ≠ .built := by
  simp [State.isLoaded]

theorem State.remotePerform_refused {asid pa : Nat} {op : RemOp} (h : ¬ s.takesOp asid pa op) :
    s.remotePerform asid pa op = (s, .refused .remote) := by
  have hc : (decide (dramSize < pa + op.reach) || !s.isLoaded asid) = true := by
    rw [Bool.or_eq_true, decide_eq_true_eq, Bool.not_eq_true']
    by_contra hn
    simp only [not_or, Nat.not_lt, Bool.not_eq_false] at hn
    exact h hn
  cases op <;> exact if_pos hc

theorem State.remotePerform_taken {asid pa : Nat} {op : RemOp} (h : s.takesOp asid pa op) :
    s.remotePerform asid pa op = ({ s with dram := (s.opEffect pa op).1 }, (s.opEffect pa op).2) := by
  obtain ⟨hfit, hload⟩ := h
  have hc : ¬ (decide (dramSize < pa + op.reach) || !s.isLoaded asid) = true := by simp [hload, hfit]
  cases op <;> exact if_neg hc

theorem State.opEffect_not_refused (pa : Nat) (op : RemOp) (c : FaultCode) : (s.opEffect pa op).2 ≠ .refused c := by
  cases op <;> simp [State.opEffect]

/-- What the link agent makes of an operation that it has not performed before; `ecc` says that the bytes cannot be corrected. -/
def State.opOutcome (s : State) (ecc : Bool) (asid pa : Nat) (op : RemOp) : State × RemRes :=
  if ecc && (s.remotePerform asid pa op).2 != .refused .remote then (s, .refused .ecc) else s.remotePerform asid pa op

theorem State.opOutcome_refused {ecc : Bool} {asid pa : Nat} {op : RemOp} (h : ¬ s.takesOp asid pa op) :
    s.opOutcome ecc asid pa op = (s, .refused .remote) := by
  simp [State.opOutcome, State.remotePerform_refused h]

theorem State.opOutcome_ecc {asid pa : Nat} {op : RemOp} (h : s.takesOp asid pa op) :
    s.opOutcome true asid pa op = (s, .refused .ecc) := by
  simp [State.opOutcome, State.remotePerform_taken h, State.opEffect_not_refused]

theorem State.opOutcome_taken {asid pa : Nat} {op : RemOp} (h : s.takesOp asid pa op) :
    s.opOutcome false asid pa op = ({ s with dram := (s.opEffect pa op).1 }, (s.opEffect pa op).2) :=
  State.remotePerform_taken h

section

variable {port src vc : Nat} {num : BitVec 32} {asid pa : Nat} {op : RemOp} {rest : List InMsg}

/-- An operation in the log is answered as it was, and not performed again. -/
theorem execRemoteOperation_replayed {ecc : Bool} {e : BitVec 32 × RemRes}
    (hi : s.inbox = ⟨port, src, vc, .remoteOp num asid pa op⟩ :: rest)
    (he : (lookAt [] s.remLog src).find? (fun e => e.1 = num) = some e) :
    execRemoteOperation ecc s = .next ({ s with inbox := rest }.sendTo 2 src (.remoteAck num e.2)) := by
  simp [execRemoteOperation, State.takeMsg_head hi, he]

/-- A new operation is carried out; its result goes into the log and back to its source. -/
theorem execRemoteOperation_new {ecc : Bool} {m : Memory} {res : RemRes}
    (hi : s.inbox = ⟨port, src, vc, .remoteOp num asid pa op⟩ :: rest)
    (hnew : ∀ e ∈ lookAt [] s.remLog src, e.1 ≠ num)
    (hout : { s with inbox := rest }.opOutcome ecc asid pa op = ({ s with inbox := rest, dram := m }, res)) :
    ∃ v : State, execRemoteOperation ecc s = .next (v.sendTo 2 src (.remoteAck num res)) ∧ v.dram = m ∧ v.inbox = rest ∧
      v.cores = s.cores ∧ lookAt [] v.remLog src = ((num, res) :: lookAt [] s.remLog src).take 256 := by
  have hnone : (lookAt [] s.remLog src).find? (fun e => e.1 = num) = none := by simpa using fun a b h => hnew (a, b) h
  refine ⟨{ s with inbox := rest, dram := m, remLog := putAt [] s.remLog src (((num, res) :: lookAt [] s.remLog src).take 256) },
    ?_, rfl, rfl, rfl, by simp⟩
  rw [State.opOutcome] at hout
  unfold execRemoteOperation
  rw [State.takeMsg_head hi (by rfl)]
  dsimp only
  rw [hnone]
  dsimp only
  rw [hout]

end

/-! ## Answers to remote operations (R243) -/

theorem Part.answer_performed (op : AccOp) (first : Nat) (p : Part) {res : RemRes} (h : ∀ c, res ≠ .refused c) :
    (p.answer op first res).performed = true := by
  cases res with
  | refused c => exact absurd rfl (h c)
  | data bs => cases h : op.writes <;> simp [Part.answer, Part.performed, h]
  | done => cases h : op.writes <;> simp [Part.answer, Part.performed, h]

/-- The bytes that one part alone has asked for begin where the part begins. -/
theorem Part.answer_data_alone (op : AccOp) (p : Part) (bs : List Byte) :
    (p.answer op (groupBase [p]) (.data bs)).data = bs.take p.len := by
  simp [Part.answer, groupBase]

/-- An answer for the one access in flight, of one part that waits for it. -/
theorem State.answer_alone {num : BitVec 32} {res : RemRes} {a : Access} {p : Part} (ha : s.accs = [a]) (hfix : a.fixed = false)
    (hd : a.dest ≠ none) (hp : a.parts = [p]) (hs : p.stage = .remote num) :
    (s.answer num res).accs = [{ a with parts := [p.answer a.op (groupBase [p]) res] }] ∧
      (s.answer num res).inbox = s.inbox ∧ (s.answer num res).dram = s.dram := by
  refine ⟨?_, ?_, ?_⟩
  · simp only [State.answer, ha, hp, hs, List.filter, List.any, List.map, List.foldl, decide_true, Bool.or_false, if_true]
    rw [State.settle_outstanding (a := { a with parts := [p.answer a.op (groupBase [p]) res] }) (by simp [State.findAcc]) hfix (.inl hd)]
  · simp [State.answer, ha, hp, hs]
  · simp [State.answer, ha, hp, hs]

end

/-- Operations on another package (R431, R243). -/
theorem remoteOperations : Claims.RemoteOperations := by
  intro s port src vc num rest
  constructor
  · intro asid pa op hi log new len fits answers
    have hlen : len = op.reach := by cases op <;> rfl
    have hfits : fits ↔ { s with inbox := rest }.takesOp asid pa op := by
      simp only [fits, hlen]
      exact and_congr_right fun _ => State.isLoaded_iff.symm
    have hdone : new → fits → answers false (s.opEffect pa op).1 (s.opEffect pa op).2 := fun hn hf =>
      execRemoteOperation_new hi hn (State.opOutcome_taken (hfits.mp hf))
    have hrefused : ∀ ecc, new → ¬ fits → answers ecc s.dram (.refused .remote) := fun ecc hn hf =>
      execRemoteOperation_new hi hn (State.opOutcome_refused (hfits.not.mp hf))
    refine ⟨?_, fun hn hf => ⟨hrefused false hn hf, hrefused true hn hf⟩, ?_, ?_, ?_, ?_, ?_⟩
    · rintro e res he rfl
      exact execRemoteOperation_replayed hi he
    · exact fun hn hf => execRemoteOperation_new hi hn (State.opOutcome_ecc (hfits.mp hf))
    · rintro n hn hf rfl
      exact hdone hn hf
    · rintro bs hn hf rfl
      exact hdone hn hf
    · rintro runs hn hf rfl
      exact hdone hn hf
    · rintro fn ty b c rnd hn hf rfl
      exact hdone hn hf
  · intro res a p hi ha hfix hd hp hs
    obtain ⟨haccs, hinbox, hdram⟩ := State.answer_alone (s := { s with inbox := rest }) (res := res) ha hfix hd hp hs
    have hstep : execRemoteAck s = .next ({ s with inbox := rest }.answer num res) := by
      simp [execRemoteAck, State.takeMsg_head hi]
    refine ⟨_, _, _, hstep, hinbox, haccs, rfl, hdram, ?_, ?_, ?_⟩
    · rintro bs rfl
      exact ⟨Part.answer_data_alone _ _ _, Part.answer_performed _ _ _ (by simp)⟩
    · rintro rfl
      exact Part.answer_performed _ _ _ (by simp)
    · rintro c rfl
      rfl

end Sys2Proof.Machine

namespace Sys2Proof

/-- Settles O46: the burst of an access of one part, and the link agent's operations and answers, case by case. -/
theorem dramAndRemote : Obligations.DramAndRemote :=
  ⟨Machine.dramBursts, Machine.remoteOperations⟩

end Sys2Proof

namespace Sys2Proof

/-! # Starts, control registers, power and heat -/

/-! ## Maps whose entries are changed and whose defaults are dropped -/

section

variable {α : Type} {d : α} {f : α → α}

theorem lookAt_eq_default_of_notMem {m : SMap α} {k : Nat} (h : k ∉ m.map Prod.fst) : lookAt d m k = d := by
  induction m with
  | nil => rfl
  | cons p m ih =>
    obtain ⟨hne, hm⟩ := not_or.mp (List.mem_cons.not.mp h)
    simp [lookAt, Ne.symm hne, ih hm]

/-- An entry that differs from the default is listed. -/
theorem mem_of_lookAt_ne {m : SMap α} {k : Nat} (h : lookAt d m k ≠ d) : (k, lookAt d m k) ∈ m := by
  induction m with
  | nil => exact absurd rfl h
  | cons p m ih =>
    obtain ⟨j, a⟩ := p
    by_cases hj : j = k
    · simp [lookAt, hj]
    · simpa [lookAt, hj] using Or.inr (ih (by simpa [lookAt, hj] using h))

variable [DecidableEq α]

/-- An entry that is not changed to the default is read as changed. -/
theorem lookAt_filter_mapVals_of_ne {m : SMap α} {k : Nat} (hf : f d = d) (h : f (lookAt d m k) ≠ d) :
    lookAt d ((mapVals f m).filter (fun p => p.2 != d)) k = f (lookAt d m k) := by
  induction m with
  | nil => exact absurd hf h
  | cons p m ih =>
    obtain ⟨j, a⟩ := p
    by_cases hj : j = k
    · have ha : f a ≠ d := by simpa [lookAt, hj] using h
      simp [mapVals, lookAt, hj, ha]
    · have := ih (by simpa [lookAt, hj] using h)
      by_cases ha : f a = d <;> simpa [mapVals, lookAt, hj, ha] using this

/-- Where no key is listed twice every entry is read as changed. -/
theorem lookAt_filter_mapVals_of_nodup {m : SMap α} {k : Nat} (hf : f d = d) (hm : (m.map Prod.fst).Nodup) :
    lookAt d ((mapVals f m).filter (fun p => p.2 != d)) k = f (lookAt d m k) := by
  induction m with
  | nil => exact hf.symm
  | cons p m ih =>
    obtain ⟨j, a⟩ := p
    obtain ⟨hj, hm⟩ := List.nodup_cons.mp hm
    by_cases hk : j = k
    · subst hk
      by_cases ha : f a = d
      · have := ih hm
        rw [lookAt_eq_default_of_notMem hj, hf] at this
        simpa [mapVals, lookAt, ha] using this
      · simp [mapVals, lookAt, ha]
    · by_cases ha : f a = d <;> simpa [mapVals, lookAt, hk, ha] using ih hm

end

end Sys2Proof

namespace Sys2Proof.Machine

section

variable {s c : State} {boot : BootReport}

/-! ## The boot image (R437, R438) -/

theorem bootImage_eq_some_iff {i : List Byte} : bootImage boot = some i ↔
    boot.image0.filter isBootImage = some i ∨ boot.image0.filter isBootImage = none ∧ boot.image1.filter isBootImage = some i := by
  unfold bootImage
  cases boot.image0.filter isBootImage <;> simp

/-- Steps 1 and 2 of a start pass: there is an image, and it is signed. -/
def SignedImage (boot : BootReport) : Prop := ∃ i, bootImage boot = some i ∧ bootSigned i = true

theorem bootFails_image : bootFails boot 1 = true ↔ bootImage boot = none := by simp [bootFails]

theorem bootFails_signature {i : List Byte} (h : bootImage boot = some i) : bootFails boot 2 = !bootSigned i := by
  simp [bootFails, h]

theorem bootFails_outside {n : Nat} (hn : n = 3 ∨ n = 4 ∨ n = 6) : bootFails boot n = true ↔ boot.failed = some n := by
  rcases hn with rfl | rfl | rfl <;> simp [bootFails]

/-! ## The steps of a start in their order (R437) -/

/-- The package that a start leaves failed at step `n`. -/
def State.failedAt (c : State) (n : Nat) : State := { c with bar0 := failedBar n n, dramParams := c.dramParams && n != 3 }

/-- The package that a start leaves ready, from its state before the ports are trained. -/
def State.started (c : State) (boot : BootReport) : State :=
  { (c.trainPorts boot.ports).lockTime boot with dram := [], cores := [], bar0 := readyBar }

theorem State.runStart_fails {n : Nat} {ns : List Nat} (h : bootFails boot n = true) :
    State.runStart boot (n :: ns) c = c.failedAt n := by
  simp [State.runStart, h, State.failedAt]

theorem State.runStart_passes {n : Nat} {ns : List Nat} (h : ¬ bootFails boot n = true) :
    State.runStart boot (n :: ns) c = State.runStart boot ns (c.startStep boot n) := by
  simp [State.runStart, h]

theorem State.runStart_noImage {ns : List Nat} (h : bootImage boot = none) : State.runStart boot (1 :: ns) c = c.failedAt 1 :=
  State.runStart_fails (bootFails_image.mpr h)

theorem State.runStart_unsigned {i : List Byte} {ns : List Nat} (h : bootImage boot = some i) (hs : bootSigned i = false) :
    State.runStart boot (1 :: 2 :: ns) c = c.failedAt 2 := by
  rw [State.runStart_passes (by simp [bootFails_image, h]), State.runStart_fails (by simp [bootFails_signature h, hs])]
  rfl

theorem State.runStart_signed {ns : List Nat} (h : SignedImage boot) :
    State.runStart boot (1 :: 2 :: ns) c = State.runStart boot ns c := by
  obtain ⟨i, hi, hs⟩ := h
  rw [State.runStart_passes (by simp [bootFails_image, hi]), State.runStart_passes (by simp [bootFails_signature hi, hs])]
  rfl

theorem State.runStart_lockFails (h : boot.failed = some 6) :
    State.runStart boot [5, 6, 7] c = (c.trainPorts boot.ports).failedAt 6 := by
  rw [State.runStart_passes (by simp [bootFails]), State.runStart_fails ((bootFails_outside (by simp)).mpr h)]
  rfl

theorem State.runStart_finishes (h : boot.failed ≠ some 6) : State.runStart boot [5, 6, 7] c = c.started boot := by
  rw [State.runStart_passes (by simp [bootFails]), State.runStart_passes ((bootFails_outside (by simp)).not.mpr h),
    State.runStart_passes (by simp [bootFails])]
  rfl

theorem State.coldStart_noImage (h : bootImage boot = none) : s.coldStart boot = (s.cleared boot).failedAt 1 :=
  State.runStart_noImage h

theorem State.coldStart_unsigned {i : List Byte} (h : bootImage boot = some i) (hs : bootSigned i = false) :
    s.coldStart boot = (s.cleared boot).failedAt 2 := State.runStart_unsigned h hs

theorem State.coldStart_fails3 (h : SignedImage boot) (hf : boot.failed = some 3) : s.coldStart boot = (s.cleared boot).failedAt 3 := by
  rw [State.coldStart, State.runStart_signed h, State.runStart_fails ((bootFails_outside (by simp)).mpr hf)]

theorem State.coldStart_passes3 (h : SignedImage boot) (hf : boot.failed ≠ some 3) :
    s.coldStart boot = State.runStart boot [4, 5, 6, 7] { s.cleared boot with dramParams := true } := by
  rw [State.coldStart, State.runStart_signed h, State.runStart_passes ((bootFails_outside (by simp)).not.mpr hf)]
  rfl

theorem State.coldStart_fails4 (h : SignedImage boot) (hf : boot.failed = some 4) :
    s.coldStart boot = { s.cleared boot with dramParams := true }.failedAt 4 := by
  rw [State.coldStart_passes3 h (by simp [hf]), State.runStart_fails ((bootFails_outside (by simp)).mpr hf)]

theorem State.coldStart_passes4 (h : SignedImage boot) (hf3 : boot.failed ≠ some 3) (hf4 : boot.failed ≠ some 4) :
    s.coldStart boot = State.runStart boot [5, 6, 7] { s.cleared boot with dramParams := true } := by
  rw [State.coldStart_passes3 h hf3, State.runStart_passes ((bootFails_outside (by simp)).not.mpr hf4)]
  rfl

/-- The package as a warm start begins: cleared, but for its routes, the ports that carry flits and its time (R439). -/
def State.warmed (s : State) (boot : BootReport) : State :=
  { s.cleared boot with
    ports := (mapVals Port.warm s.ports).filter (fun p => p.2 != Port.off), routes := s.routes, time := s.time,
    timeRoot := s.timeRoot, parent := s.parent, err := s.err, asym := s.asym, holdover := s.holdover, slew := s.slew,
    slewWait := s.slewWait }

theorem State.warmStart_params (hp : s.dramParams = true) (hd : boot.dramOk = true) :
    s.warmStart boot = State.runStart boot [1, 2, 5, 6, 7] (s.warmed boot) := by
  simp [State.warmStart, hp, hd, State.warmed]

theorem State.warmStart_cold (h : s.dramParams = false ∨ boot.dramOk = false) : s.warmStart boot = s.coldStart boot := by
  rcases h with h | h <;> simp [State.warmStart, h]

/-! ## What a start leaves of every unit (R440, R446) -/

/-- Every unit but cores and ports at reset, and the host's memory that of `s`. -/
def Bare (s u : State) : Prop :=
  u.threads = [] ∧ u.tiles = [] ∧ u.accs = [] ∧ u.ctxs = [] ∧ u.queues = [] ∧ u.launches = [] ∧ u.stations = [] ∧
    u.channels = [] ∧ u.cues = [] ∧ u.hotDies = [] ∧ u.hostMem = s.hostMem

/-- The units as a start of `s` clears them, and the digest of the image that it read. -/
def Emptied (s : State) (boot : BootReport) (u : State) : Prop :=
  Bare s u ∧ u.bootDigest = ((bootImage boot).map imageDigest).getD 0

theorem emptied_cleared : Emptied s boot (s.cleared boot) :=
  ⟨⟨rfl, rfl, rfl, rfl, rfl, rfl, rfl, rfl, rfl, rfl, rfl⟩, rfl⟩

/-- Training changes the ports alone. -/
theorem State.trainPorts_eq (c : State) (bs : List BootPort) : ∃ ps, c.trainPorts bs = { c with ports := ps } := by
  induction bs generalizing c with
  | nil => exact ⟨_, rfl⟩
  | cons b bs ih =>
    unfold State.trainPorts
    rw [List.foldl_cons]
    split
    · exact ih _
    · exact ih c

/-- Step 6 changes the time state and the ports alone. -/
theorem State.lockTime_eq (c : State) (boot : BootReport) : ∃ r pa a t e ps, c.lockTime boot =
    { c with timeRoot := r, parent := pa, asym := a, time := t, err := e, ports := ps } := by
  unfold State.lockTime
  split
  · exact ⟨_, _, _, _, _, _, rfl⟩
  · exact ⟨_, _, _, _, _, _, rfl⟩

theorem Emptied.startStep {n : Nat} (h : Emptied s boot c) : Emptied s boot (c.startStep boot n) := by
  unfold State.startStep
  split
  · exact h
  · obtain ⟨ps, hps⟩ := c.trainPorts_eq boot.ports
    exact hps ▸ h
  · obtain ⟨r, pa, a, t, e, ps, hl⟩ := c.lockTime_eq boot
    exact hl ▸ h
  · exact h
  · exact h

/-- No step of a start brings back what the reset has cleared. -/
theorem Emptied.runStart {ns : List Nat} (h : Emptied s boot c) : Emptied s boot (State.runStart boot ns c) := by
  induction ns generalizing c with
  | nil => exact h
  | cons n ns ih =>
    unfold State.runStart
    split
    · exact h
    · exact ih h.startStep

theorem emptied_coldStart (s : State) (boot : BootReport) : Emptied s boot (s.coldStart boot) := emptied_cleared.runStart

theorem emptied_warmStart (s : State) (boot : BootReport) : Emptied s boot (s.warmStart boot) := by
  unfold State.warmStart
  split
  · exact emptied_coldStart s boot
  · exact Emptied.runStart emptied_cleared

/-! ## Step 5: the ports (R429, R437, R439) -/

section

variable {q : Nat} {bs : List BootPort}

/-- One configured port: trained where it does not carry flits. -/
theorem State.trainPorts_cons (c : State) (b : BootPort) (bs : List BootPort) : c.trainPorts (b :: bs) =
    (if b.port < 64 && !(c.port b.port).carries then c.setPort b.port (trainedPort b) else c).trainPorts bs := rfl

/-- A port that carries flits is left as it is. -/
theorem State.trainPorts_port_carries (h : (c.port q).carries = true) : (c.trainPorts bs).port q = c.port q := by
  induction bs generalizing c with
  | nil => rfl
  | cons b bs ih =>
    rw [State.trainPorts_cons]
    split
    · next hb =>
      have hq : q ≠ b.port := by rintro rfl; simp [h] at hb
      have hport : (c.setPort b.port (trainedPort b)).port q = c.port q := by simp [State.port_setPort, hq]
      rw [ih (hport ▸ h), hport]
    · exact ih h

/-- A port that is not configured is left as it is. -/
theorem State.trainPorts_port_other (h : ∀ b ∈ bs, b.port ≠ q) : (c.trainPorts bs).port q = c.port q := by
  induction bs generalizing c with
  | nil => rfl
  | cons b bs ih =>
    obtain ⟨hb, hbs⟩ := List.forall_mem_cons.mp h
    rw [State.trainPorts_cons, ih hbs]
    split
    · simp [State.port_setPort, Ne.symm hb]
    · rfl

/-- A port that is configured once and does not carry flits is trained. -/
theorem State.trainPorts_port_trained {b : BootPort} (hone : bs.Pairwise (fun a b => a.port ≠ b.port)) (hb : b ∈ bs)
    (hn : b.port < 64) (hc : (c.port b.port).carries = false) : (c.trainPorts bs).port b.port = trainedPort b := by
  induction bs generalizing c with
  | nil => cases hb
  | cons a bs ih =>
    obtain ⟨ha, hone⟩ := List.pairwise_cons.mp hone
    rw [State.trainPorts_cons]
    rcases List.mem_cons.mp hb with rfl | hb
    · rw [if_pos (by simp [hn, hc]), State.trainPorts_port_other (fun e he => Ne.symm (ha e he)), State.port_setPort_self]
    · refine ih hone hb ?_
      split
      · simp [State.port_setPort, Ne.symm (ha b hb), hc]
      · exact hc

end

/-! ## Step 6: the time (R426, R427) -/

/-- A port that the package's time is locked to. -/
def Port.timeLock (p : Port) : Port :=
  { p with state := if p.state = PortState.up then PortState.timeLocked else p.state, locked := p.carries }

theorem State.lockTime_port (q : Nat) : (c.lockTime boot).port q = if boot.parent = some q then (c.port q).timeLock else c.port q := by
  unfold State.lockTime
  split
  · next h => simp [h]; rfl
  · next p h =>
    rw [State.port_modPort, h]
    by_cases hq : q = p
    · simp [hq]; rfl
    · simp [hq, Ne.symm hq]; rfl

theorem State.lockTime_root (h : boot.parent = none) : c.lockTime boot = { c with timeRoot := c.pkg, parent := none, err := 0 } := by
  simp [State.lockTime, h]

@[simp] theorem State.trainPorts_pkg (bs : List BootPort) : (c.trainPorts bs).pkg = c.pkg := by
  obtain ⟨ps, h⟩ := c.trainPorts_eq bs
  rw [h]
@[simp] theorem State.trainPorts_dram (bs : List BootPort) : (c.trainPorts bs).dram = c.dram := by
  obtain ⟨ps, h⟩ := c.trainPorts_eq bs
  rw [h]
@[simp] theorem State.trainPorts_parent (bs : List BootPort) : (c.trainPorts bs).parent = c.parent := by
  obtain ⟨ps, h⟩ := c.trainPorts_eq bs
  rw [h]
@[simp] theorem State.trainPorts_dramParams (bs : List BootPort) : (c.trainPorts bs).dramParams = c.dramParams := by
  obtain ⟨ps, h⟩ := c.trainPorts_eq bs
  rw [h]
@[simp] theorem State.trainPorts_routes (bs : List BootPort) : (c.trainPorts bs).routes = c.routes := by
  obtain ⟨ps, h⟩ := c.trainPorts_eq bs
  rw [h]
@[simp] theorem State.trainPorts_time (bs : List BootPort) : (c.trainPorts bs).time = c.time := by
  obtain ⟨ps, h⟩ := c.trainPorts_eq bs
  rw [h]

/-! ## A package that is ready -/

@[simp] theorem State.started_pkg : (c.started boot).pkg = c.pkg := by
  obtain ⟨r, pa, a, t, e, ps, h⟩ := (c.trainPorts boot.ports).lockTime_eq boot
  simp [State.started, h]
@[simp] theorem State.started_routes : (c.started boot).routes = c.routes := by
  obtain ⟨r, pa, a, t, e, ps, h⟩ := (c.trainPorts boot.ports).lockTime_eq boot
  simp [State.started, h]
@[simp] theorem State.started_dramParams : (c.started boot).dramParams = c.dramParams := by
  obtain ⟨r, pa, a, t, e, ps, h⟩ := (c.trainPorts boot.ports).lockTime_eq boot
  simp [State.started, h]

theorem State.started_time_root (h : boot.parent = none) : (c.started boot).time = c.time := by
  simp [State.started, State.lockTime_root h]

/-- The package is the time root, or has taken the time of its parent. -/
theorem State.started_locks (hpkg : c.pkg = boot.pkg % 2048) : (c.started boot).pkg = boot.pkg % 2048 ∧
    (boot.parent = none → (c.started boot).timeRoot = (c.started boot).pkg ∧ (c.started boot).parent = none ∧
      (c.started boot).err = 0) ∧
    (∀ p, boot.parent = some p → (c.started boot).timeRoot = boot.root % 2048 ∧ (c.started boot).parent = some p ∧
      (c.started boot).asym = boot.asym ∧ (c.started boot).time = boot.time ∧ (c.started boot).err = boot.err) := by
  refine ⟨by simp [hpkg], fun h => ?_, fun p h => ?_⟩
  · simp [State.started, State.lockTime_root h]
  · simp [State.started, State.lockTime, h]

theorem State.started_port (q : Nat) : (c.started boot).port q =
    if boot.parent = some q then ((c.trainPorts boot.ports).port q).timeLock else (c.trainPorts boot.ports).port q :=
  State.lockTime_port q

/-- A port that carries flits, and is not the parent's, is left as it is. -/
theorem State.started_port_carries {q : Nat} (h : (c.port q).carries = true) (hq : boot.parent ≠ some q) :
    (c.started boot).port q = c.port q := by
  rw [State.started_port, if_neg hq, State.trainPorts_port_carries h]

/-- A port that is configured once and carried no flits is up or down, by its lanes. -/
theorem State.started_port_trained {b : BootPort} (hone : boot.ports.Pairwise (fun a b => a.port ≠ b.port)) (hb : b ∈ boot.ports)
    (hn : b.port < 64) (hc : (c.port b.port).carries = false) :
    ((c.started boot).port b.port).peer = b.peer ∧ ((c.started boot).port b.port).peerPort = b.peerPort ∧
    (b.lanes = 4 ∨ b.lanes = 2 ∨ b.lanes = 1 → ((c.started boot).port b.port).lanes = b.lanes ∧
      ((c.started boot).port b.port).credits = freshCredits ∧
      ((c.started boot).port b.port).state = (if boot.parent = some b.port then .timeLocked else .up)) ∧
    (¬ (b.lanes = 4 ∨ b.lanes = 2 ∨ b.lanes = 1) → ((c.started boot).port b.port).lanes = 0 ∧
      ((c.started boot).port b.port).state = .down) := by
  rw [State.started_port, State.trainPorts_port_trained hone hb hn hc]
  refine ⟨?_, ?_, fun h => ?_, fun h => ?_⟩
  · split <;> rfl
  · split <;> rfl
  · split <;> simp [trainedPort, Port.timeLock, h]
  · split <;> simp [trainedPort, Port.timeLock, h]

/-! ## Ports through a warm start (R439, R440) -/

@[simp] theorem Port.carries_warm (p : Port) : p.warm.carries = p.carries := by
  cases hc : p.carries <;> simp only [Port.warm, hc, if_true, Bool.false_eq_true, if_false] <;> exact hc

theorem Port.warm_off : Port.off.warm = Port.off := rfl

/-- What a port that carries flits keeps through a warm start. -/
theorem Port.warm_keeps {p : Port} (h : p.carries = true) : p.warm.state = p.state ∧ p.warm.txSeq = p.txSeq ∧
    p.warm.rxSeq = p.rxSeq ∧ p.warm.credits = p.credits ∧ p.warm.slots = [] := by
  simp [Port.warm, h]

theorem State.warmed_port_carries {q : Nat} (h : (s.port q).carries = true) : (s.warmed boot).port q = (s.port q).warm := by
  refine lookAt_filter_mapVals_of_ne Port.warm_off (fun hoff => ?_)
  have hc := Port.carries_warm (s.port q)
  rw [State.port, hoff] at hc
  rw [State.port, ← hc] at h
  cases h

theorem State.warmed_port {q : Nat} (h : (s.ports.map Prod.fst).Nodup) : (s.warmed boot).port q = (s.port q).warm :=
  lookAt_filter_mapVals_of_nodup Port.warm_off h

end

section

variable {s : State} (boot : BootReport) (w : Word)

/-! ## Writes to the control registers (R443, R444, R446) -/

/-- RESET starts the package, whether it is ready or not. -/
theorem execRegisterWrite_reset : execRegisterWrite ⟨0x018, boot⟩ w s =
    .next (if w = 1 then s.warmStart boot else if w = 2 then s.coldStart boot else s) := rfl

/-- A write at the offset of POWER is a write of the power limit. -/
theorem execRegisterWrite_power : execRegisterWrite ⟨0x070, boot⟩ w s = .next (s.writePower w) := rfl

theorem ctlRegAt_other {off : Nat} (h : off ∉ [0x018, 0x020, 0x028, 0x030, 0x040, 0x048, 0x050, 0x060, 0x070]) :
    ctlRegAt off = .other := by
  unfold ctlRegAt
  split <;> simp at h ⊢

/-- An offset that holds no register that can be written takes nothing. -/
theorem execRegisterWrite_other {off : Nat} (h : off ∉ [0x018, 0x020, 0x028, 0x030, 0x040, 0x048, 0x050, 0x060, 0x070]) :
    execRegisterWrite ⟨off, boot⟩ w s = .next s := by
  unfold execRegisterWrite
  rw [ctlRegAt_other h]
  exact ite_self _

/-- No command is taken while one is under way. -/
theorem execRegisterWrite_cmd_busy (hb : s.bar0.cmdState = 1) : execRegisterWrite ⟨0x020, boot⟩ w s = .next s := by
  simp [execRegisterWrite, ctlRegAt, hb]

section

variable (hr : s.bar0.status = 2)
include hr

theorem execRegisterWrite_arg0 : execRegisterWrite ⟨0x028, boot⟩ w s = .next { s with bar0 := { s.bar0 with arg0 := w } } := by
  simp [execRegisterWrite, ctlRegAt, hr, State.isReady]

theorem execRegisterWrite_arg1 : execRegisterWrite ⟨0x030, boot⟩ w s = .next { s with bar0 := { s.bar0 with arg1 := w } } := by
  simp [execRegisterWrite, ctlRegAt, hr, State.isReady]

theorem execRegisterWrite_evread : execRegisterWrite ⟨0x060, boot⟩ w s = .next { s with bar0 := { s.bar0 with evread := w } } := by
  simp [execRegisterWrite, ctlRegAt, hr, State.isReady]

theorem execRegisterWrite_winbase : execRegisterWrite ⟨0x040, boot⟩ w s =
    .next { s with bar0 := { s.bar0 with winbase := w &&& 0xFFFFFFFE00000000 } } := by
  simp [execRegisterWrite, ctlRegAt, hr, State.isReady]

theorem execRegisterWrite_evbase : execRegisterWrite ⟨0x048, boot⟩ w s =
    .next { s with bar0 := { s.bar0 with evbase := w &&& 0xFFFFFFFFFFFFF000, evwrite := 0 } } := by
  simp [execRegisterWrite, ctlRegAt, hr, State.isReady]

theorem execRegisterWrite_evsize {k : Nat} (hk : k ≤ 10) (hw : w.toNat = 64 * 2 ^ k) :
    execRegisterWrite ⟨0x050, boot⟩ w s = .next { s with bar0 := { s.bar0 with evsize := w } } := by
  have hsize : ringSize w.toNat = true := List.any_eq_true.mpr ⟨k, List.mem_range.mpr (by omega), decide_eq_true hw⟩
  simp [execRegisterWrite, ctlRegAt, hr, State.isReady, hsize]

theorem execRegisterWrite_cmd_begins (hb : s.bar0.cmdState ≠ 1) (hop : 1 ≤ cmdOp w.toNat ∧ cmdOp w.toNat ≤ 5) :
    execRegisterWrite ⟨0x020, boot⟩ w s =
      .next { s with bar0 := { s.bar0 with cmd := w.toNat % 2 ^ 20, cmdState := 1, reason := 0 } } := by
  simp [execRegisterWrite, ctlRegAt, hr, State.isReady, hb, hop]

/-- A command that there is none of is refused at once (R444). -/
theorem execRegisterWrite_cmd_refused (hb : s.bar0.cmdState ≠ 1) (hop : ¬ (1 ≤ cmdOp w.toNat ∧ cmdOp w.toNat ≤ 5)) :
    execRegisterWrite ⟨0x020, boot⟩ w s =
      .next ({ s with bar0 := { s.bar0 with cmd := w.toNat % 2 ^ 20, cmdState := 1, reason := 0 } }.endCommand 3 4) := by
  simp [execRegisterWrite, ctlRegAt, hr, State.isReady, hb, hop]

end

variable {w}

/-! ## What the host reads (R442, R443) -/

/-- Until the package is ready only ID and STATUS read as anything but zero. -/
theorem State.readRegister_notReady (h : s.bar0.status ≠ 2) {off : Nat} (h0 : off ≠ 0) (h8 : off ≠ 8) :
    s.readRegister off = 0 := by
  simp [State.readRegister, State.isReady, h]

theorem State.windowRead_notReady (h : s.bar0.status ≠ 2) (off len : Nat) : s.windowRead off len = List.replicate len 0 := by
  simp [State.windowRead, State.isReady, h]

theorem State.windowRead_ready (h : s.bar0.status = 2) (off len : Nat) :
    s.windowRead off len = s.dram.read (s.bar0.winbase.toNat + off) len := by
  simp [State.windowRead, State.isReady, h]

/-- ID reads the same in every state. -/
theorem State.readRegister_id : s.readRegister 0 = 0x01B05A04 := rfl

theorem State.readRegister_cmdstat (h : s.bar0.status = 2) :
    s.readRegister 0x38 = BitVec.ofNat 64 (s.bar0.cmdState + s.bar0.reason * 2 ^ 8) := by
  simp [State.readRegister, State.isReady, h]

/-- ARG0 reads as written, and no other register shows it. -/
theorem State.readRegister_arg0 (h : s.bar0.status = 2) (off : Nat) :
    { s with bar0 := { s.bar0 with arg0 := w } }.readRegister off = if off = 0x28 then w else s.readRegister off := by
  by_cases h0 : off = 0
  · subst h0; rfl
  by_cases h8 : off = 8
  · subst h8; rfl
  simp only [State.readRegister, State.isReady, h, decide_true, if_true]
  by_cases hoff : off = 0x28
  · simp [hoff]
  · rw [if_neg hoff]
    split <;> simp_all

/-! ## Event records of the package (R445) -/

/-- An event record of the package changes the host's memory, the ring's registers and the interrupts alone. -/
theorem State.pkgEvent_eq (s : State) (kind code seq : Nat) : ∃ m lost wr, s.pkgEvent kind code seq =
    { s with hostMem := m, bar0 := { s.bar0 with evlost := lost, evwrite := wr }, msix := s.msix ++ [1] } := by
  unfold State.pkgEvent State.event
  dsimp only
  split
  · exact ⟨_, _, _, rfl⟩
  · exact ⟨_, _, _, rfl⟩

section

variable {kind code seq : Nat}

@[simp] theorem State.pkgEvent_threads : (s.pkgEvent kind code seq).threads = s.threads := by
  obtain ⟨m, lost, wr, h⟩ := s.pkgEvent_eq kind code seq
  rw [h]
@[simp] theorem State.pkgEvent_ctx (x : Nat) : (s.pkgEvent kind code seq).ctx x = s.ctx x := by
  obtain ⟨m, lost, wr, h⟩ := s.pkgEvent_eq kind code seq
  rw [h]; rfl
@[simp] theorem State.pkgEvent_hotDies : (s.pkgEvent kind code seq).hotDies = s.hotDies := by
  obtain ⟨m, lost, wr, h⟩ := s.pkgEvent_eq kind code seq
  rw [h]
@[simp] theorem State.pkgEvent_hottest : (s.pkgEvent kind code seq).bar0.hottest = s.bar0.hottest := by
  obtain ⟨m, lost, wr, h⟩ := s.pkgEvent_eq kind code seq
  rw [h]
@[simp] theorem State.pkgEvent_power : (s.pkgEvent kind code seq).bar0.power = s.bar0.power := by
  obtain ⟨m, lost, wr, h⟩ := s.pkgEvent_eq kind code seq
  rw [h]
@[simp] theorem State.pkgEvent_msix : (s.pkgEvent kind code seq).msix = s.msix ++ [1] := by
  obtain ⟨m, lost, wr, h⟩ := s.pkgEvent_eq kind code seq
  rw [h]

end

/-! ## The power limit (R246, R449) -/

theorem execPowerWrite_other {n : Nat} (h : n ≠ s.lockedNeed) : execPowerWrite w n s = .next s := by simp [execPowerWrite, h]

theorem execPowerWrite_needed : execPowerWrite w s.lockedNeed s = .next (s.writePower w) := by simp [execPowerWrite]

theorem State.writePower_takes (hr : s.bar0.status = 2) (hn : s.lockedNeed ≤ w.toNat) (h1 : 1000 ≤ w.toNat) (h2 : w.toNat ≤ 7500) :
    s.writePower w = { s with bar0 := { s.bar0 with power := w } } := by
  simp [State.writePower, State.isReady, hr, Nat.not_lt.mpr hn, h1, h2]

theorem State.writePower_ignores (hn : s.lockedNeed ≤ w.toNat) (h : w.toNat < 1000 ∨ 7500 < w.toNat) : s.writePower w = s := by
  have hrange : ¬ (1000 ≤ w.toNat ∧ w.toNat ≤ 7500) := by omega
  simp [State.writePower, Nat.not_lt.mpr hn, hrange]

theorem State.writePower_refuses (hr : s.bar0.status = 2) (hn : w.toNat < s.lockedNeed) : s.writePower w = s.pkgEvent 8 0 0 := by
  simp [State.writePower, State.isReady, hr, hn]

/-! ## The host's window (R28, R442) -/

theorem execHostWindowWrite_stores {off : Nat} {bs : List Byte} (hr : s.bar0.status = 2) (hw : off + bs.length ≤ 2 ^ 33)
    (hm : s.bar0.winbase.toNat + off + bs.length ≤ dramSize) :
    execHostWindowWrite off bs s = .next { s with dram := s.dram.write (s.bar0.winbase.toNat + off) bs } := by
  have h1 : ¬ 2 ^ 33 < off + bs.length := Nat.not_lt.mpr hw
  simp only [execHostWindowWrite, State.isReady, hr, decide_true, Bool.not_true, h1, decide_false, Bool.or_self, Bool.false_eq_true,
    if_false, Nat.not_lt.mpr hm]

theorem execHostWindowWrite_noMemory {off : Nat} {bs : List Byte} (hr : s.bar0.status = 2) (hw : off + bs.length ≤ 2 ^ 33)
    (hm : dramSize < s.bar0.winbase.toNat + off + bs.length) :
    execHostWindowWrite off bs s = .fault (.noMemory (s.bar0.winbase.toNat + off)) := by
  have h1 : ¬ 2 ^ 33 < off + bs.length := Nat.not_lt.mpr hw
  simp only [execHostWindowWrite, State.isReady, hr, decide_true, Bool.not_true, h1, decide_false, Bool.or_self, Bool.false_eq_true,
    if_false, hm, if_true]

/-! ## Pause requests (R251, R252) -/

/-- A message sent changes the ports and the messages that wait for a route alone. -/
theorem State.sendTo_eq (s : State) (vc dst : Nat) (m : LinkMsg) : ∃ ps us, s.sendTo vc dst m = { s with ports := ps, unsent := us } := by
  unfold State.sendTo
  split
  · exact ⟨_, _, rfl⟩
  · exact ⟨_, _, rfl⟩

theorem State.sendPeers_eq (s : State) (asid : Nat) (m : LinkMsg) :
    ∃ ps us, s.sendPeers asid m = { s with ports := ps, unsent := us } := by
  unfold State.sendPeers
  generalize (s.ctx asid).peers = dsts
  induction dsts generalizing s with
  | nil => exact ⟨_, _, rfl⟩
  | cons d dsts ih =>
    obtain ⟨ps, us, h⟩ := s.sendTo_eq 0 d m
    rw [List.foldl_cons, h]
    exact ih _

@[simp] theorem State.sendPeers_ctx (asid : Nat) (m : LinkMsg) (x : Nat) : (s.sendPeers asid m).ctx x = s.ctx x := by
  obtain ⟨ps, us, h⟩ := s.sendPeers_eq asid m
  rw [h]; rfl

/-- A pause request changes the contexts, and what it sends, alone. -/
theorem State.pauseRequest_eq (s : State) (asid reason : Nat) (regions : Bool) (entry : Option (Nat × Word)) :
    ∃ cs ps us, s.pauseRequest asid reason regions entry = { s with ctxs := cs, ports := ps, unsent := us } := by
  unfold State.pauseRequest
  dsimp only
  split
  · exact ⟨_, State.sendPeers_eq _ _ _⟩
  · exact ⟨_, _, _, rfl⟩

/-- A pause request makes a resident context pausing, and no other state is any other. -/
theorem State.pauseRequest_state (s : State) (asid reason : Nat) (regions : Bool) (entry : Option (Nat × Word)) (x : Nat) :
    ((s.pauseRequest asid reason regions entry).ctx x).state =
      if x = asid ∧ (s.ctx asid).state = .resident then .pausing else (s.ctx x).state := by
  unfold State.pauseRequest
  dsimp only
  split
  · next hr =>
    rw [State.sendPeers_ctx, State.ctx_setCtx]
    by_cases hx : x = asid <;> simp [hx, hr]
  · next hr => simp [hr]

/-! ## Temperature (R449) -/

/-- A pause request for each of some contexts. -/
def State.pauseAll (s : State) (asids : List Nat) : State :=
  asids.foldl (fun (s : State) asid => s.pauseRequest asid 0 false none) s

theorem State.pauseAll_eq (s : State) (asids : List Nat) :
    ∃ cs ps us, s.pauseAll asids = { s with ctxs := cs, ports := ps, unsent := us } := by
  induction asids generalizing s with
  | nil => exact ⟨_, _, _, rfl⟩
  | cons a asids ih =>
    obtain ⟨cs, ps, us, h⟩ := s.pauseRequest_eq a 0 false none
    rw [State.pauseAll, List.foldl_cons, h]
    exact ih _

@[simp] theorem State.pauseAll_threads (asids : List Nat) : (s.pauseAll asids).threads = s.threads := by
  obtain ⟨cs, ps, us, h⟩ := s.pauseAll_eq asids
  rw [h]
@[simp] theorem State.pauseAll_hotDies (asids : List Nat) : (s.pauseAll asids).hotDies = s.hotDies := by
  obtain ⟨cs, ps, us, h⟩ := s.pauseAll_eq asids
  rw [h]
@[simp] theorem State.pauseAll_bar0 (asids : List Nat) : (s.pauseAll asids).bar0 = s.bar0 := by
  obtain ⟨cs, ps, us, h⟩ := s.pauseAll_eq asids
  rw [h]

/-- Pausing already, a context stays so; resident, and named, it becomes so. -/
theorem State.pauseAll_pausing {asids : List Nat} {x : Nat}
    (h : (s.ctx x).state = .pausing ∨ x ∈ asids ∧ (s.ctx x).state = .resident) : ((s.pauseAll asids).ctx x).state = .pausing := by
  induction asids generalizing s with
  | nil => exact h.elim id (fun ⟨hmem, _⟩ => absurd hmem (List.not_mem_nil))
  | cons a asids ih =>
    refine ih (s := s.pauseRequest a 0 false none) ?_
    rw [State.pauseRequest_state]
    split
    · exact .inl rfl
    · next hn =>
      refine h.imp_right fun ⟨hmem, hres⟩ => ⟨?_, hres⟩
      rcases List.mem_cons.mp hmem with rfl | hmem
      · exact absurd ⟨rfl, hres⟩ hn
      · exact hmem

/-- The contexts that are resident. -/
def State.residents (s : State) : List Nat := (s.ctxs.filter (fun c => c.2.state = .resident)).map Prod.fst

theorem State.mem_residents {x : Nat} (h : (s.ctx x).state = .resident) : x ∈ s.residents := by
  have hne : lookAt Ctx.absent s.ctxs x ≠ Ctx.absent := by
    intro ha
    rw [State.ctx, ha] at h
    cases h
  exact List.mem_map.mpr ⟨_, List.mem_filter.mpr ⟨mem_of_lookAt_ne hne, decide_eq_true h⟩, rfl⟩

/-- The thermal trip of a die pauses every resident context while capping is active. -/
theorem does_thermalTrip {die : Nat} (hc : s.bar0.capping = true) (hd : die ∉ s.hotDies) :
    Claims.Does (.thermalTrip die) s (fun u => u.hotDies = s.hotDies ++ [die] ∧ u.bar0.hottest = max 105 s.bar0.hottest ∧
      u.threads = s.threads ∧ ∀ asid, (s.ctx asid).state = .resident → (u.ctx asid).state = .pausing) := by
  have hstep : execThermalTrip die s = .next (({ s with
      bar0 := { s.bar0 with hottest := max 105 s.bar0.hottest }, hotDies := s.hotDies ++ [die] }.pauseAll s.residents).pkgEvent 8 0 0) := by
    simp [execThermalTrip, hc, hd, State.pauseAll, State.residents]
  refine ⟨_, hstep, by simp, by simp, by simp, fun asid h => ?_⟩
  rw [State.pkgEvent_ctx]
  exact State.pauseAll_pausing (.inr ⟨State.mem_residents h, h⟩)

/-- When every die has cooled, none is hot. -/
theorem does_thermalClear :
    Claims.Does .thermalClear s (fun u => u.hotDies = [] ∧ u.bar0.hottest < 95 ∧ u.threads = s.threads) := by
  have hcool : (Config.freeWord s.fresh).toNat % 95 < 95 := Nat.mod_lt _ (by decide)
  refine ⟨_, rfl, ?_⟩
  dsimp only
  split
  · next h => exact ⟨h, hcool, rfl⟩
  · exact ⟨by simp, by simpa using hcool, by simp⟩

end

section

variable {s : State} {boot : BootReport}

/-! ## How a start ends (R437 to R440) -/

theorem bootSigned_iff {i : List Byte} : bootSigned i = true ↔ bootKeyHash i = Config.measurement 3 ∧
    Config.sm2Verify (bootKeyHash i) (imageDigest i) (bootSig i) = true := by
  simp [bootSigned]

/-- A start of `s` that has failed at step `n`: STATUS tells it, and DRAM is as it was. -/
def StoppedAt (s u : State) (n : Nat) : Prop :=
  u.bar0 = { Bar0.reset with status := 3, step := n, failure := n } ∧ u.dram = s.dram

theorem stoppedAt_failedAt {c : State} {n : Nat} (h : c.dram = s.dram) : StoppedAt s (c.failedAt n) n := ⟨rfl, h⟩

/-- What the host finds where no step has failed. -/
def IsStarted (u : State) : Prop :=
  u.cores = [] ∧ u.dram = [] ∧ u.bar0 = { Bar0.reset with status := 2, power := 7500 }

theorem isStarted_started {c : State} : IsStarted (c.started boot) := ⟨rfl, rfl, rfl⟩

theorem coldStart_stops_noImage (h : bootImage boot = none) : StoppedAt s (s.coldStart boot) 1 ∧ (s.coldStart boot).ports = [] ∧
    (s.coldStart boot).dramParams = s.dramParams := by
  rw [State.coldStart_noImage h]
  exact ⟨stoppedAt_failedAt rfl, rfl, Bool.and_true _⟩

theorem coldStart_stops_unsigned {i : List Byte} (h : bootImage boot = some i) (hs : bootSigned i = false) :
    StoppedAt s (s.coldStart boot) 2 ∧ (s.coldStart boot).ports = [] ∧ (s.coldStart boot).dramParams = s.dramParams := by
  rw [State.coldStart_unsigned h hs]
  exact ⟨stoppedAt_failedAt rfl, rfl, Bool.and_true _⟩

theorem coldStart_stops3 (h : SignedImage boot) (hf : boot.failed = some 3) : StoppedAt s (s.coldStart boot) 3 ∧
    (s.coldStart boot).ports = [] ∧ (s.coldStart boot).dramParams = false := by
  rw [State.coldStart_fails3 h hf]
  exact ⟨stoppedAt_failedAt rfl, rfl, Bool.and_false _⟩

theorem coldStart_stops4 (h : SignedImage boot) (hf : boot.failed = some 4) : StoppedAt s (s.coldStart boot) 4 ∧
    (s.coldStart boot).ports = [] ∧ (s.coldStart boot).dramParams = true := by
  rw [State.coldStart_fails4 h hf]
  exact ⟨stoppedAt_failedAt rfl, rfl, rfl⟩

theorem coldStart_stops6 (h : SignedImage boot) (hf : boot.failed = some 6) : StoppedAt s (s.coldStart boot) 6 ∧
    (s.coldStart boot).parent = none ∧ (s.coldStart boot).dramParams = true := by
  rw [State.coldStart_passes4 h (by simp [hf]) (by simp [hf]), State.runStart_lockFails hf]
  exact ⟨stoppedAt_failedAt (State.trainPorts_dram _), State.trainPorts_parent _, by simp [State.failedAt]⟩

/-- A cold start that no step stops. -/
theorem coldStart_finishes (h : SignedImage boot) (hf3 : boot.failed ≠ some 3) (hf4 : boot.failed ≠ some 4)
    (hf6 : boot.failed ≠ some 6) : s.coldStart boot = { s.cleared boot with dramParams := true }.started boot := by
  rw [State.coldStart_passes4 h hf3 hf4, State.runStart_finishes hf6]

section

variable (hp : s.dramParams = true) (hd : boot.dramOk = true)
include hp hd

theorem warmStart_noImage (h : bootImage boot = none) : s.warmStart boot = (s.warmed boot).failedAt 1 := by
  rw [State.warmStart_params hp hd, State.runStart_noImage h]

theorem warmStart_unsigned {i : List Byte} (h : bootImage boot = some i) (hs : bootSigned i = false) :
    s.warmStart boot = (s.warmed boot).failedAt 2 := by
  rw [State.warmStart_params hp hd, State.runStart_unsigned h hs]

theorem warmStart_stops6 (h : SignedImage boot) (hf : boot.failed = some 6) : StoppedAt s (s.warmStart boot) 6 := by
  rw [State.warmStart_params hp hd, State.runStart_signed h, State.runStart_lockFails hf]
  exact stoppedAt_failedAt (State.trainPorts_dram _)

/-- A warm start that no step stops. -/
theorem warmStart_finishes (h : SignedImage boot) (hf : boot.failed ≠ some 6) : s.warmStart boot = (s.warmed boot).started boot := by
  rw [State.warmStart_params hp hd, State.runStart_signed h, State.runStart_finishes hf]

end

/-- A port through a warm start keeps its state, its sequence numbers and its credits, and loses its slot table. -/
def KeepsPort (s u : State) (port : Nat) (st : PortState) : Prop :=
  (s.port port).carries = true → (u.port port).state = st ∧ (u.port port).txSeq = (s.port port).txSeq ∧
    (u.port port).rxSeq = (s.port port).rxSeq ∧ (u.port port).credits = (s.port port).credits ∧ (u.port port).slots = []

theorem keepsPort_warmed (boot : BootReport) (port : Nat) : KeepsPort s (s.warmed boot) port (s.port port).state := by
  intro h
  rw [State.warmed_port_carries h]
  exact Port.warm_keeps h

theorem keepsPort_started {port : Nat} (hq : boot.parent ≠ some port) :
    KeepsPort s ((s.warmed boot).started boot) port (s.port port).state := by
  intro h
  have hw := State.warmed_port_carries (boot := boot) h
  rw [State.started_port_carries (by rw [hw, Port.carries_warm, h]) hq, hw]
  exact Port.warm_keeps h

/-! ## The events that start the package (R446) -/

theorem exec_coldStart {i : Instr} (h : i ∈ [Instr.powerOnReset boot, .resetCold boot, .registerWrite ⟨0x018, boot⟩ 2]) :
    exec i s = .next (s.coldStart boot) := by
  simp only [List.mem_cons, List.not_mem_nil, or_false] at h
  rcases h with rfl | rfl | rfl <;> rfl

theorem exec_warmStart {i : Instr} (h : i ∈ [Instr.functionLevelReset boot, .resetWarm boot, .registerWrite ⟨0x018, boot⟩ 1]) :
    exec i s = .next (s.warmStart boot) := by
  simp only [List.mem_cons, List.not_mem_nil, or_false] at h
  rcases h with rfl | rfl | rfl <;> rfl

end

end Sys2Proof.Machine

namespace Sys2Proof

open Machine Claims

/-- Settles O60: each start by the step that stops it or the state it ends in, then the registers one by one, the window, the power
limit and the temperature. -/
theorem startsAndRegisters : Obligations.StartsAndRegisters := by
  intro s bare ready stops
  refine ⟨?starts, ?notReady, ?registers, fun _ => rfl, fun _ => does_thermalTrip, does_thermalClear⟩
  case starts =>
    intro boot image digest signed signedImage locks trained single
    have hno : (∀ img, ¬ image img) → bootImage boot = none := fun h =>
      Option.eq_none_iff_forall_ne_some.mpr fun i hi => h i (bootImage_eq_some_iff.mp hi)
    have himg : ∀ {img}, image img → bootImage boot = some img := fun h => bootImage_eq_some_iff.mpr h
    have hbad : ∀ {img}, ¬ signed img → bootSigned img = false := fun h =>
      Bool.eq_false_iff.mpr fun hs => h (bootSigned_iff.mp hs)
    have hsigned : signedImage → SignedImage boot := fun ⟨i, hi, hs⟩ => ⟨i, himg hi, bootSigned_iff.mpr hs⟩
    refine ⟨?cold, ?warm, ?params⟩
    case cold =>
      intro i hi
      have hexec := exec_coldStart (s := s) hi
      obtain ⟨hbare, hdigest⟩ := emptied_coldStart s boot
      refine ⟨fun h => ⟨_, hexec, hbare, coldStart_stops_noImage (hno h)⟩,
        fun img h => ⟨⟨_, hexec, hbare, ?_⟩, fun hs => ⟨_, hexec, coldStart_stops_unsigned (himg h) (hbad hs)⟩⟩,
        fun h hf => ⟨_, hexec, hbare, coldStart_stops3 (hsigned h) hf⟩,
        fun h hf => ⟨_, hexec, hbare, coldStart_stops4 (hsigned h) hf⟩,
        fun h hf => ⟨_, hexec, hbare, coldStart_stops6 (hsigned h) hf⟩, fun h hf3 hf4 hf6 => ⟨_, hexec, hbare, ?_⟩⟩
      · rw [hdigest, himg h]
        rfl
      · rw [coldStart_finishes (hsigned h) hf3 hf4 hf6]
        exact ⟨isStarted_started, State.started_locks rfl, State.started_routes, State.started_dramParams,
          fun hroot => State.started_time_root hroot, fun hone b hb hn => State.started_port_trained hone hb hn rfl⟩
    case warm =>
      intro i hi hp hd keeps
      have hexec := exec_warmStart (s := s) hi
      have hbare := (emptied_warmStart s boot).1
      refine ⟨fun h => ⟨_, hexec, hbare, ?_⟩, fun img h hs => ⟨_, hexec, hbare, ?_⟩,
        fun h hf => ⟨_, hexec, hbare, warmStart_stops6 hp hd (hsigned h) hf⟩, fun h hf => ⟨_, hexec, hbare, ?_⟩⟩
      · rw [warmStart_noImage hp hd (hno h)]
        exact ⟨stoppedAt_failedAt rfl, keepsPort_warmed boot⟩
      · rw [warmStart_unsigned hp hd (himg h) (hbad hs)]
        exact ⟨stoppedAt_failedAt rfl, keepsPort_warmed boot⟩
      · rw [warmStart_finishes hp hd (hsigned h) hf]
        exact ⟨isStarted_started, State.started_locks rfl, State.started_routes, State.started_dramParams.trans hp,
          fun hroot => State.started_time_root hroot, fun _ => keepsPort_started,
          fun hone b hb hn hkeys hc => State.started_port_trained hone hb hn (by rw [State.warmed_port hkeys, Port.carries_warm, hc])⟩
    case params =>
      intro i hi h
      have hmem : i ∈ [Instr.functionLevelReset boot, .resetWarm boot, .registerWrite ⟨0x018, boot⟩ 1] :=
        List.mem_append_left [Instr.registerWrite ⟨0x018, boot⟩ 1] hi
      rw [exec_warmStart hmem, State.warmStart_cold h]
      rfl
  case notReady =>
    exact fun off len h => ⟨State.windowRead_notReady h off len, fun reg h0 h8 => State.readRegister_notReady h h0 h8⟩
  case registers =>
    intro hr w boot b writes leaves
    refine ⟨execRegisterWrite_arg0 boot w hr, execRegisterWrite_arg1 boot w hr, execRegisterWrite_evread boot w hr,
      execRegisterWrite_winbase boot w hr, execRegisterWrite_evbase boot w hr,
      fun k hk hw => execRegisterWrite_evsize boot w hr hk hw, fun off hoff => execRegisterWrite_other boot w hoff,
      State.readRegister_id, State.readRegister_cmdstat hr, ?arg0, fun h1 h2 => ?reset, fun hb => execRegisterWrite_cmd_busy boot w hb,
      fun hb h1 h5 => execRegisterWrite_cmd_begins boot w hr hb ⟨h1, h5⟩, fun hb hop => ?refused, ?power, ?window⟩
    case arg0 =>
      intro t ht
      obtain rfl : { s with bar0 := { s.bar0 with arg0 := w } } = t :=
        Host.Outcome.next.inj ((execRegisterWrite_arg0 boot w hr).symm.trans ht)
      exact ⟨by rw [State.readRegister_arg0 hr, if_pos rfl], fun off hoff => by rw [State.readRegister_arg0 hr, if_neg hoff]⟩
    case reset =>
      exact (execRegisterWrite_reset boot w).trans (by rw [if_neg h1, if_neg h2])
    case refused =>
      exact ⟨_, execRegisterWrite_cmd_refused boot w hr hb (by omega), rfl, rfl, rfl⟩
    case power =>
      refine ⟨fun n hn => execPowerWrite_other hn, fun i hi => ?_⟩
      have hexec : exec i s = .next (s.writePower w) := by
        simp only [List.mem_cons, List.not_mem_nil, or_false] at hi
        rcases hi with rfl | rfl
        · exact execRegisterWrite_power boot w
        · exact execPowerWrite_needed
      rw [hexec]
      refine ⟨fun h1 h2 hn => congrArg _ (State.writePower_takes hr hn h1 h2), fun hn h => congrArg _ (State.writePower_ignores hn h),
        fun hn => ⟨_, hexec, ?_⟩⟩
      rw [State.writePower_refuses hr hn]
      exact ⟨State.pkgEvent_power, State.pkgEvent_msix⟩
    case window =>
      intro off bs hw pa
      refine ⟨fun hm => ⟨_, execHostWindowWrite_stores hr hw hm, ?_⟩, fun hm => execHostWindowWrite_noMemory hr hw hm⟩
      have hread := Memory.read_write_same s.dram pa bs
      have hwindow := State.windowRead_ready (s := { s with dram := s.dram.write pa bs }) hr off bs.length
      exact ⟨hwindow.trans hread, hread, fun a ha => Memory.byte_write_out _ _ _ _ ha, rfl, rfl, rfl⟩

end Sys2Proof

namespace Sys2Proof

/-! # Typed integers, and counting and rotating their bits -/

theorem Ty.width_pos (ty : Ty) : 0 < ty.width := by cases ty <;> decide

theorem Ty.width_le (ty : Ty) : ty.width ≤ 64 := by cases ty <;> decide

end Sys2Proof

namespace Sys2Proof.Machine

/-! ## Numbers read in `n` bits (R44, R115) -/

/-- A number and its reading in `n` bits agree modulo 2^n. -/
theorem readInt_modEq (sg : Bool) (n v : Nat) : readInt sg n v ≡ v [ZMOD (2 ^ n : Nat)] := by
  have h : ((v % 2 ^ n : Nat) : Int) ≡ v [ZMOD (2 ^ n : Nat)] := by
    rw [Int.natCast_mod]
    exact Int.mod_modEq _ _
  unfold readInt
  dsimp only
  split
  · exact (Int.modEq_iff_dvd.mpr ⟨1, by ring⟩ : _ ≡ ((v % 2 ^ n : Nat) : Int) [ZMOD _]).trans h
  · exact h

/-- The numbers of `n` bits, signed or unsigned. -/
def InBits (sg : Bool) (n : Nat) (r : Int) : Prop :=
  if sg then -(2 ^ (n - 1) : Nat) ≤ r ∧ r < (2 ^ (n - 1) : Nat) else 0 ≤ r ∧ r < (2 ^ n : Nat)

theorem inBits_readInt (sg : Bool) {n : Nat} (hn : 0 < n) (v : Nat) : InBits sg n (readInt sg n v) := by
  have hv : v % 2 ^ n < 2 ^ n := Nat.mod_lt _ (by positivity)
  have hp := Nat.two_pow_pred_add_two_pow_pred hn
  cases sg with
  | false => simp only [InBits, readInt, Bool.false_and, Bool.false_eq_true, if_false]; omega
  | true =>
    simp only [InBits, readInt, Bool.true_and, decide_eq_true_eq, if_true]
    split <;> omega

/-- There is one number of `n` bits in each class modulo 2^n. -/
theorem InBits.unique {sg : Bool} {n : Nat} {a b : Int} (hn : 0 < n) (ha : InBits sg n a) (hb : InBits sg n b)
    (h : a ≡ b [ZMOD (2 ^ n : Nat)]) : a = b := by
  obtain ⟨k, hk⟩ := Int.modEq_iff_dvd.mp h
  have hp := Nat.two_pow_pred_add_two_pow_pred hn
  have hlt : |b - a| < (2 ^ n : Nat) := by
    rw [abs_lt]
    cases sg with
    | false => simp only [InBits, Bool.false_eq_true, if_false] at ha hb; omega
    | true => simp only [InBits, if_true] at ha hb; omega
  have := Int.eq_zero_of_abs_lt_dvd ⟨k, hk⟩ hlt
  omega

theorem wrapN_modEq (n : Nat) (v : Int) : (wrapN n v : Int) ≡ v [ZMOD (2 ^ n : Nat)] := by
  rw [wrapN, Int.toNat_of_nonneg (Int.emod_nonneg _ (by positivity))]
  exact Int.mod_modEq _ _

theorem wrapN_lt (n : Nat) (v : Int) : wrapN n v < 2 ^ n := by
  have h0 := Int.emod_nonneg v (b := (2 ^ n : Nat)) (by positivity)
  have := Int.emod_lt_of_pos v (b := (2 ^ n : Nat)) (by positivity)
  unfold wrapN
  omega

/-- A word read as a signed or an unsigned number of all its bits. -/
theorem readInt_true_toNat (w : Word) : readInt true 64 w.toNat = w.toInt := by
  have := w.isLt
  rw [BitVec.toInt_eq_toNat_cond]
  simp only [readInt, Bool.true_and, decide_eq_true_eq, Nat.mod_eq_of_lt this]
  split <;> split <;> omega

theorem readInt_false_toNat (w : Word) : readInt false 64 w.toNat = w.toNat := by
  simp [readInt, Nat.mod_eq_of_lt w.isLt]

/-- A number of at most 64 bits fits a word. -/
theorem InBits.mono {sg : Bool} {n m : Nat} {r : Int} (h : InBits sg n r) (hnm : n ≤ m) : InBits sg m r := by
  have h1 : 2 ^ (n - 1) ≤ 2 ^ (m - 1) := Nat.pow_le_pow_right (by norm_num) (by omega)
  have h2 : 2 ^ n ≤ 2 ^ m := Nat.pow_le_pow_right (by norm_num) hnm
  cases sg with
  | false => simp only [InBits, Bool.false_eq_true, if_false] at h ⊢; omega
  | true => simp only [InBits, if_true] at h ⊢; omega

theorem ofInt_toNat_modEq (r : Int) : ((BitVec.ofInt 64 r).toNat : Int) ≡ r [ZMOD (2 ^ 64 : Nat)] := by
  rw [BitVec.toNat_ofInt, Int.toNat_of_nonneg (Int.emod_nonneg _ (by positivity))]
  exact Int.mod_modEq _ _

/-- A number of at most 64 bits put into a word is read back from all its bits. -/
theorem readInt_ofInt {sg : Bool} {n : Nat} {r : Int} (hn : n ≤ 64) (h : InBits sg n r) :
    readInt sg 64 (BitVec.ofInt 64 r).toNat = r :=
  (inBits_readInt sg (by norm_num) _).unique (by norm_num) (h.mono hn) ((readInt_modEq _ _ _).trans (ofInt_toNat_modEq r))

/-- OPV reads what WRV wrote as the value modulo 2^n. -/
theorem opv_wrv_modEq (v : Int) (ty : Ty) : opv (wrv v ty) ty ≡ v [ZMOD (2 ^ ty.width : Nat)] := by
  set r := readInt ty.isSigned ty.width (wrapN ty.width v) with hr
  have hw : ((2 ^ ty.width : Nat) : Int) ∣ (2 ^ 64 : Nat) := by
    exact_mod_cast pow_dvd_pow 2 ty.width_le
  calc opv (wrv v ty) ty ≡ (wrv v ty).toNat [ZMOD (2 ^ ty.width : Nat)] := readInt_modEq _ _ _
    _ ≡ r [ZMOD (2 ^ ty.width : Nat)] := (ofInt_toNat_modEq r).of_dvd hw
    _ ≡ wrapN ty.width v [ZMOD (2 ^ ty.width : Nat)] := readInt_modEq _ _ _
    _ ≡ v [ZMOD (2 ^ ty.width : Nat)] := wrapN_modEq _ _

/-- The word that WRV writes, read whole, is the value that OPV reads. -/
theorem readInt_wrv (v : Int) (ty : Ty) : readInt ty.isSigned 64 (wrv v ty).toNat = opv (wrv v ty) ty := by
  have hin := inBits_readInt ty.isSigned ty.width_pos (wrapN ty.width v)
  rw [wrv, readInt_ofInt ty.width_le hin]
  refine hin.unique ty.width_pos (inBits_readInt _ ty.width_pos _) ?_
  exact ((readInt_modEq _ _ _).trans (wrapN_modEq _ _)).trans (opv_wrv_modEq v ty).symm

theorem typedValuesWrapAndExtend : Claims.TypedValuesWrapAndExtend := by
  intro ty v w _ n
  refine ⟨?_, inBits_readInt ty.isSigned ty.width_pos w.toNat, ?_, ?_⟩
  · exact Int.emod_eq_zero_of_dvd (Int.modEq_iff_dvd.mp (readInt_modEq _ _ _).symm)
  · exact Int.emod_eq_zero_of_dvd (Int.modEq_iff_dvd.mp (opv_wrv_modEq v ty).symm)
  · have h := readInt_wrv v ty
    split
    · next hs => rwa [hs, readInt_true_toNat] at h
    · next hs => rwa [Bool.eq_false_of_not_eq_true hs, readInt_false_toNat] at h

/-! ## Rotating and counting (R117) -/

theorem two_pow_split {n k : Nat} (hk : k ≤ n) : 2 ^ n = 2 ^ k * 2 ^ (n - k) := by
  rw [← pow_add, Nat.add_sub_cancel' hk]

/-- Rotated left by `k`, the low n − k bits stand above the high k bits. -/
theorem testBit_rotated {n k i m : Nat} (hk : k < n) (hi : i < n) (hm : m < 2 ^ n) :
    (m * 2 ^ k % 2 ^ n + m / 2 ^ (n - k)).testBit ((i + k) % n) = m.testBit i := by
  have hp := two_pow_split hk.le
  have hhi : m / 2 ^ (n - k) < 2 ^ k := Nat.div_lt_of_lt_mul (by rwa [mul_comm, ← hp])
  rw [mul_comm m, hp, Nat.mul_mod_mul_left, Nat.testBit_two_pow_mul_add _ hhi]
  rcases Nat.lt_or_ge (i + k) n with h | h
  · have : i < n - k := by omega
    rw [Nat.mod_eq_of_lt h, if_neg (by omega), Nat.add_sub_cancel, Nat.testBit_mod_two_pow]
    simp [this]
  · have hmod : (i + k) % n = i + k - n := by
      rw [Nat.mod_eq_sub_mod h, Nat.mod_eq_of_lt (by omega)]
    rw [hmod, if_pos (by omega), Nat.testBit_div_two_pow]
    congr 1; omega

theorem rotated_lt {n k m : Nat} (hk : k ≤ n) (hm : m < 2 ^ n) : m * 2 ^ k % 2 ^ n + m / 2 ^ (n - k) < 2 ^ n := by
  have hp := two_pow_split hk
  have hhi : m / 2 ^ (n - k) < 2 ^ k := Nat.div_lt_of_lt_mul (by rwa [mul_comm, ← hp])
  have hlo : m % 2 ^ (n - k) < 2 ^ (n - k) := Nat.mod_lt _ (by positivity)
  rw [mul_comm m, hp, Nat.mul_mod_mul_left]
  calc 2 ^ k * (m % 2 ^ (n - k)) + m / 2 ^ (n - k) < 2 ^ k * (m % 2 ^ (n - k)) + 2 ^ k := by omega
    _ = 2 ^ k * (m % 2 ^ (n - k) + 1) := by ring
    _ ≤ 2 ^ k * 2 ^ (n - k) := Nat.mul_le_mul_left _ hlo

/-- CLZ: the number lies below 2^(n − c), and not below half of that unless it is 0. -/
theorem countLeading_spec (n : Nat) (a : Int) : ∃ c : Nat, countLeading n a = (c : Int) ∧ c ≤ n ∧ wrapN n a < 2 ^ (n - c) ∧
    (c < n → 2 ^ (n - c - 1) ≤ wrapN n a) := by
  by_cases h0 : wrapN n a = 0
  · exact ⟨n, by simp [countLeading, h0], le_rfl, by simp [h0], fun h => absurd h (lt_irrefl n)⟩
  · have hl : Nat.log2 (wrapN n a) < n := (Nat.log2_lt h0).mpr (wrapN_lt n a)
    refine ⟨n - 1 - Nat.log2 (wrapN n a), by simp [countLeading, h0], by omega, ?_, fun _ => ?_⟩
    · rw [show n - (n - 1 - Nat.log2 (wrapN n a)) = Nat.log2 (wrapN n a) + 1 by omega]
      exact Nat.lt_log2_self
    · rw [show n - (n - 1 - Nat.log2 (wrapN n a)) - 1 = Nat.log2 (wrapN n a) by omega]
      exact Nat.log2_self_le h0

/-- CTZ: the bits below are 0, and the next one is 1 unless there is none. -/
theorem trailingFrom_spec (n m : Nat) : trailingFrom n m ≤ n ∧ m % 2 ^ trailingFrom n m = 0 ∧
    (trailingFrom n m < n → m.testBit (trailingFrom n m) = true) := by
  induction n generalizing m with
  | zero => exact ⟨le_rfl, Nat.mod_one m, fun h => absurd h (lt_irrefl 0)⟩
  | succ n ih =>
    by_cases h : m % 2 = 1
    · simp [trailingFrom, h, Nat.mod_one]
    · obtain ⟨hle, hmod, hbit⟩ := ih (m / 2)
      simp only [trailingFrom, h, if_false]
      refine ⟨by omega, ?_, fun hlt => ?_⟩
      · rw [pow_succ', Nat.mod_mul, hmod]; omega
      · rw [Nat.testBit_succ]; exact hbit (by omega)

/-- POPC counts the bits that are 1. -/
theorem onesFrom_eq_countP (n m : Nat) : onesFrom n m = (List.range n).countP (fun i => m.testBit i) := by
  induction n generalizing m with
  | zero => rfl
  | succ n ih =>
    rw [List.range_succ_eq_map, List.countP_cons, List.countP_map, onesFrom, ih]
    simp only [Function.comp_def, Nat.testBit_succ, Nat.testBit_zero]
    rcases Nat.mod_two_eq_zero_or_one m with h | h <;> simp [h, Nat.add_comm]

theorem bitCountFunctions : Claims.BitCountFunctions := by
  intro n a _ m
  refine ⟨fun k hk => ⟨_, rfl, rotated_lt hk.le (wrapN_lt n a), fun i hi => testBit_rotated hk hi (wrapN_lt n a)⟩,
    countLeading_spec n a, trailingFrom_spec n m, onesFrom_eq_countP n m⟩

end Sys2Proof.Machine

namespace Sys2Proof

/-- Settles O11: a number of `n` bits is fixed by its class modulo 2^n, and the counting and rotating functions by the bits. -/
theorem integerValues : Obligations.IntegerValues :=
  ⟨Machine.typedValuesWrapAndExtend, Machine.bitCountFunctions⟩

end Sys2Proof

namespace Sys2Proof.Machine

/-! # Comparisons -/

open Claims

/-! ## CMP (R119) -/

section

variable {fn : Nat} {o : Ops} {s : State}

/-- A CMP function writes the relation of its operands. -/
theorem cmp_writesP {i : Instr} {d : BitVec 3} {r : Bool} (hd : o.d = .p d) (hi : exec i s = cmpOp fn o s)
    (hr : compareInt fn (opv (s.cur.xr o.a) o.ty) (opv (s.cur.xr o.b) o.ty) = r) (h : Ready 0x03 fn o s) :
    WritesP i 0x03 fn o s d (if o.ty = .f32 then FVal.compare fn (opF (s.cur.xr o.a)) (opF (s.cur.xr o.b)) else r) :=
  writesP h hd rfl rfl hi (fun q => by rw [Thread.xr_withPend, Thread.xr_withPend, hr])

end

theorem comparisonResults : ComparisonResults := by
  intro o s d hd a b x y gives
  exact ⟨cmp_writesP hd rfl rfl, cmp_writesP hd rfl rfl, cmp_writesP hd rfl rfl, cmp_writesP hd rfl rfl,
    cmp_writesP hd rfl rfl, cmp_writesP hd rfl rfl, cmp_writesP hd rfl rfl⟩

end Sys2Proof.Machine

namespace Sys2Proof

/-! ## Floating values compared (R53) -/

/-- No order stands between two values exactly where one is NaN. -/
theorem FVal.cmp_eq_none_iff (x y : FVal) : x.cmp y = none ↔ x = .nan ∨ y = .nan := by
  cases x <;> cases y <;> simp [FVal.cmp]

theorem FVal.compare_of_none {x y : FVal} (h : x.cmp y = none) (fn : Nat) : FVal.compare fn x y = (fn = 2 || fn = 7 : Bool) := by
  simp [FVal.compare, h]

theorem FVal.compare_unord (x y : FVal) : FVal.compare 7 x y = true ↔ x = .nan ∨ y = .nan := by
  rw [← FVal.cmp_eq_none_iff]
  cases h : x.cmp y <;> simp [FVal.compare, h]

end Sys2Proof

namespace Sys2Proof.Machine

open Claims

theorem floatComparisons : FloatComparisons := by
  intro x y
  refine ⟨fun h => ?_, FVal.compare_unord x y, fun p q => ⟨rfl, rfl, rfl, rfl, rfl, rfl⟩⟩
  have hnone := (FVal.cmp_eq_none_iff x y).mpr h
  simp [FVal.compare_of_none hnone]

/-! ## VCMP (R149) -/

/-- A mask built lane by lane holds, at each lane, what was found there. -/
theorem getLsbD_foldl_lanes (p : Nat → Bool) {n i : Nat} (hn : n ≤ 16) (hi : i < 16) :
    ((List.range n).foldl (fun k j => if p j then k ||| (1#16 <<< j) else k) 0).getLsbD i = (decide (i < n) && p i) := by
  induction n with
  | zero => simp
  | succ n ih =>
    have hbit : (1#16 <<< n).getLsbD i = decide (i = n) := by
      simp only [BitVec.getLsbD_shiftLeft, BitVec.getLsbD_one, hi, decide_true, Bool.true_and]
      by_cases h : i < n <;> simp [h] <;> omega
    have hstep : ∀ k : BitVec 16, (if p n then k ||| (1#16 <<< n) else k).getLsbD i = (k.getLsbD i || (p n && decide (i = n))) := by
      intro k
      cases p n <;> simp [hbit]
    rw [List.range_succ, List.foldl_append, List.foldl_cons, List.foldl_nil, hstep, ih (by omega)]
    by_cases h : i = n
    · simp [h]
    · simp [h, Nat.le_iff_lt_or_eq]

section

variable {fn : Nat} {o : Ops} {s : State}

/-- A bit of VCMP's mask: the relation in an active lane, the old bit in another. -/
theorem getLsbD_vcmpMask (t : Thread) {i : Nat} (hi : i < 16) : (vcmpMask fn o t).getLsbD i =
    if (t.laneMask o.g).getLsbD i then relLane fn o t i else (t.kr o.d).getLsbD i := by
  simp only [vcmpMask, BitVec.getLsbD_or, BitVec.getLsbD_and, BitVec.getLsbD_not, getLsbD_foldl_lanes _ le_rfl hi, hi, decide_true,
    Bool.true_and]
  cases (t.laneMask o.g).getLsbD i <;> simp

/-- A VCMP function writes its mask. -/
theorem vcmp_acts {i : Instr} {d : BitVec 3} (hd : o.d = .k d) (hi : exec i s = vcmpOp fn o s) (h : Ready 0x15 fn o s) :
    Acts i s { plain 0x15 fn o s with regs := [.k d] } (fun u => ∀ l, l < 16 → (u.getK d).getLsbD l =
      if d = 0 then true else if (s.cur.laneMask o.g).getLsbD l then relLane fn o s.cur l else (s.cur.getK d).getLsbD l) := by
  obtain ⟨u, hu, hissued, honly, hk⟩ := writesK (w := vcmpMask fn o s.cur) h hd rfl rfl hi (fun _ => rfl)
  refine ⟨u, hu, hissued, honly, fun l hl => ?_⟩
  rw [hk]
  by_cases h0 : d = 0
  · rw [if_pos h0, if_pos h0]
    interval_cases l <;> rfl
  · rw [if_neg h0, if_neg h0, getLsbD_vcmpMask _ hl, hd]
    rfl

end

theorem vectorComparisonResults : VectorComparisonResults := by
  intro o s d hd t w rel gives
  exact ⟨vcmp_acts hd rfl, vcmp_acts hd rfl, vcmp_acts hd rfl, vcmp_acts hd rfl, vcmp_acts hd rfl, vcmp_acts hd rfl, vcmp_acts hd rfl⟩

end Sys2Proof.Machine

namespace Sys2Proof

/-- Settles O13: CMP by the register it writes, the floating relations by where no order stands, VCMP by the bits of its mask. -/
theorem comparisons : Obligations.Comparisons :=
  ⟨Machine.comparisonResults, Machine.floatComparisons, Machine.vectorComparisonResults⟩

/-! # ROUND -/

/-! ## The formats (R39 to R43) -/

theorem Ty.isFloat_of_mem {t : Ty} (h : t ∈ [Ty.f32, .f16, .bf16, .e4m3, .e5m2, .e2m1]) : t.isFloat = true := by
  revert h
  cases t <;> decide

section

variable {t : Ty} (ht : t.isFloat = true)
include ht

theorem Ty.two_pow_width : 2 ^ t.width = t.signBit + t.signBit := by
  revert ht
  cases t <;> decide

theorem Ty.maxCode_lt_signBit : t.maxCode < t.signBit := by
  revert ht
  cases t <;> decide

theorem Ty.infCode_lt_signBit : t.infCode < t.signBit := by
  revert ht
  cases t <;> decide

theorem Ty.nanCode_lt_signBit : t.nanCode < t.signBit := by
  revert ht
  cases t <;> decide

/-- The smallest normal number is among the numbers of the format. -/
theorem Ty.two_pow_mbits_le_maxCode : 2 ^ t.mbits ≤ t.maxCode := by
  revert ht
  cases t <;> decide

/-- The codes above MAXF: the infinity of the format and its NaNs, the one NaN of E4M3, none in E2M1. -/
theorem Ty.codes_above : if t = .e4m3 then t.maxCode + 1 = 0x7F ∧ t.signBit = 0x80 ∧ t.infCode = 0
    else if t = .e2m1 then t.maxCode + 1 = t.signBit ∧ t.infCode = 0 else t.maxCode + 1 = t.infCode := by
  revert ht
  cases t <;> decide

theorem withSign_lt {c : Nat} (neg : Bool) (hc : c < t.signBit) : withSign t neg c < 2 ^ t.width := by
  rw [Ty.two_pow_width ht]
  cases neg <;> simp only [withSign, if_true, Bool.false_eq_true, if_false] <;> omega

/-- A code of the width of a format is a magnitude with a sign. -/
theorem exists_withSign {x : Nat} (hx : x < 2 ^ t.width) : ∃ neg c, c < t.signBit ∧ x = withSign t neg c := by
  rw [Ty.two_pow_width ht] at hx
  by_cases h : x < t.signBit
  · exact ⟨false, x, h, rfl⟩
  · exact ⟨true, x - t.signBit, by omega, by simp [withSign]; omega⟩

end

/-- The number whose magnitude is the code `c` of a format: a zero, a subnormal or a normal number (R39). -/
def codeF (t : Ty) (neg : Bool) (c : Nat) : FVal :=
  if c = 0 then .zero neg
  else if c / 2 ^ t.mbits = 0 then .fin neg (c % 2 ^ t.mbits) (t.emin - t.mbits) false
  else .fin neg (c % 2 ^ t.mbits + 2 ^ t.mbits) (t.emin - t.mbits + (c / 2 ^ t.mbits - 1 : Nat)) false

section

variable {t : Ty} (ht : t.isFloat = true)
include ht

theorem decodeF_withSign {c : Nat} (neg : Bool) (hc : c < t.signBit) : decodeF t (withSign t neg c) =
    if t = .e4m3 ∧ c = 0x7F then .nan
    else if t.infCode ≠ 0 ∧ t.infCode ≤ c then (if c = t.infCode then .inf neg else .nan)
    else codeF t neg c := by
  have h8 : t ≠ .e8m0 := by rintro rfl; cases ht
  have hmag : withSign t neg c % t.signBit = c := by cases neg <;> simp [withSign, Nat.mod_eq_of_lt hc]
  have hsign : decide (t.signBit ≤ withSign t neg c) = neg := by cases neg <;> simp [withSign, hc]
  simp [decodeF, codeF, h8, Nat.mod_eq_of_lt (withSign_lt ht neg hc), hmag, hsign]

/-- The codes up to MAXF are the format's numbers. -/
theorem decodeF_number {c : Nat} (neg : Bool) (hc : c ≤ t.maxCode) : decodeF t (withSign t neg c) = codeF t neg c := by
  have habove := Ty.codes_above ht
  rw [decodeF_withSign ht neg (hc.trans_lt (Ty.maxCode_lt_signBit ht))]
  split at habove
  · rw [if_neg (by omega), if_neg (by simp [habove])]
  · next h4 =>
    rw [if_neg (by simp [h4]), if_neg]
    rintro ⟨h0, hle⟩
    split at habove <;> omega

/-- The codes above MAXF are an infinity or a NaN. -/
theorem decodeF_above {c : Nat} (neg : Bool) (hc : c < t.signBit) (hmax : t.maxCode < c) :
    decodeF t (withSign t neg c) = .nan ∨ decodeF t (withSign t neg c) = .inf neg := by
  have habove := Ty.codes_above ht
  rw [decodeF_withSign ht neg hc]
  split at habove
  · next h4 => exact .inl (if_pos ⟨h4, by omega⟩)
  · next h4 =>
    split at habove
    · omega
    · rw [if_neg (by simp [h4]), if_pos (by omega)]
      split <;> simp

end

/-! ## Codes and magnitudes -/

/-- The magnitude of a code with `b` bits of mantissa, in units of the smallest subnormal number (R39). -/
def codeMag (b c : Nat) : Nat := if c / 2 ^ b = 0 then c % 2 ^ b else (c % 2 ^ b + 2 ^ b) * 2 ^ (c / 2 ^ b - 1)

/-- A magnitude of `n` units of 2^k, normal or in the lowest binade, at most one carry above it. -/
structure InBinade (b k n : Nat) : Prop where
  normal : k = 0 ∨ 2 ^ b ≤ n
  carry  : n ≤ 2 ^ (b + 1)

section

variable {b k n : Nat}

/-- The exponent and mantissa fields of the code of `n` units of 2^k. -/
theorem InBinade.fields (h : InBinade b k n) :
    n < 2 ^ b ∧ k = 0 ∧ (k * 2 ^ b + n) / 2 ^ b = 0 ∧ (k * 2 ^ b + n) % 2 ^ b = n ∨
    (2 ^ b ≤ n ∧ n < 2 ^ (b + 1)) ∧ (k * 2 ^ b + n) / 2 ^ b = k + 1 ∧ (k * 2 ^ b + n) % 2 ^ b + 2 ^ b = n ∨
    n = 2 ^ b * 2 ∧ (k * 2 ^ b + n) / 2 ^ b = k + 2 ∧ (k * 2 ^ b + n) % 2 ^ b = 0 := by
  obtain ⟨hk, hn⟩ := h
  have hp : 0 < 2 ^ b := by positivity
  rw [pow_succ] at hn ⊢
  have hdiv : (k * 2 ^ b + n) / 2 ^ b = k + n / 2 ^ b := by rw [add_comm, Nat.add_mul_div_right _ _ hp, add_comm]
  have hmod : (k * 2 ^ b + n) % 2 ^ b = n % 2 ^ b := by rw [add_comm, Nat.add_mul_mod_self_right]
  rw [hdiv, hmod]
  rcases Nat.lt_or_ge n (2 ^ b) with h1 | h1
  · have h0 : k = 0 := by omega
    exact .inl ⟨h1, h0, by rw [h0, Nat.div_eq_of_lt h1], Nat.mod_eq_of_lt h1⟩
  · rcases Nat.lt_or_ge n (2 ^ b * 2) with h2 | h2
    · have hd : n / 2 ^ b = 1 := Nat.div_eq_of_lt_le (by omega) (by omega)
      have := Nat.div_add_mod n (2 ^ b)
      rw [hd] at this ⊢
      exact .inr (.inl ⟨⟨h1, h2⟩, rfl, by omega⟩)
    · obtain rfl : n = 2 ^ b * 2 := by omega
      exact .inr (.inr ⟨rfl, by rw [Nat.mul_div_cancel_left _ hp], Nat.mul_mod_right _ _⟩)

theorem InBinade.codeMag (h : InBinade b k n) : codeMag b (k * 2 ^ b + n) = n * 2 ^ k := by
  rcases h.fields with ⟨-, rfl, hd, hm⟩ | ⟨-, hd, hm⟩ | ⟨hn, hd, hm⟩
  · rw [Sys2Proof.codeMag, if_pos hd, hm, pow_zero, mul_one]
  · rw [Sys2Proof.codeMag, if_neg (by omega), hm, hd, Nat.add_sub_cancel]
  · rw [Sys2Proof.codeMag, if_neg (by omega), hm, hd, hn, zero_add, show k + 2 - 1 = k + 1 from rfl, pow_succ']
    ring

/-- The number of a code that is not 0: the same magnitude, the exponent perhaps one higher. -/
theorem InBinade.codeF {t : Ty} {neg : Bool} (h : InBinade t.mbits k n) (hn : 0 < n) :
    ∃ m' i : Nat, codeF t neg (k * 2 ^ t.mbits + n) = .fin neg m' (t.emin - t.mbits + (k + i : Nat)) false ∧ n = m' * 2 ^ i := by
  have h0 : k * 2 ^ t.mbits + n ≠ 0 := by omega
  rcases h.fields with ⟨-, rfl, hd, hm⟩ | ⟨-, hd, hm⟩ | ⟨hn', hd, hm⟩
  · exact ⟨n, 0, by rw [Sys2Proof.codeF, if_neg h0, if_pos hd, hm]; simp, by simp⟩
  · exact ⟨n, 0, by rw [Sys2Proof.codeF, if_neg h0, if_neg (by omega), hm, hd]; rfl, by simp⟩
  · exact ⟨2 ^ t.mbits, 1, by rw [Sys2Proof.codeF, if_neg h0, if_neg (by omega), hm, hd, zero_add]; rfl, by rw [hn', pow_one]⟩

end

/-- Every code is that of some units of a power of two, without a carry. -/
theorem exists_inBinade (b c : Nat) : ∃ k n, c = k * 2 ^ b + n ∧ (k = 0 ∨ 2 ^ b ≤ n) ∧ n < 2 ^ (b + 1) := by
  have hmod : c % 2 ^ b < 2 ^ b := Nat.mod_lt _ (by positivity)
  have hdm := Nat.div_add_mod c (2 ^ b)
  rw [pow_succ]
  cases hd : c / 2 ^ b with
  | zero =>
    rw [hd] at hdm
    exact ⟨0, c, by simp, .inl rfl, by omega⟩
  | succ k =>
    rw [hd] at hdm
    exact ⟨k, c % 2 ^ b + 2 ^ b, by rw [← hdm]; simp; ring, .inr (by omega), by omega⟩

/-- A greater code is a greater magnitude. -/
theorem codeMag_strictMono (b : Nat) : StrictMono (codeMag b) := by
  refine strictMono_nat_of_lt_succ fun c => ?_
  obtain ⟨k, n, rfl, hk, hn⟩ := exists_inBinade b c
  have h : InBinade b k n := ⟨hk, hn.le⟩
  have h' : InBinade b k (n + 1) := ⟨hk.imp_right Nat.le_succ_of_le, hn⟩
  rw [add_assoc, h.codeMag, h'.codeMag]
  exact Nat.mul_lt_mul_of_pos_right n.lt_succ_self (by positivity)

/-- Dyadic magnitudes over a common power of two. -/
theorem Claims.belowF_add (a c i j : Nat) (b : Int) : Claims.belowF a (b + i) c (b + j) ↔ a * 2 ^ i < c * 2 ^ j := by
  unfold Claims.belowF
  rcases Nat.le_total i j with h | h
  · have h1 : min (b + i) (b + j) = b + i := by omega
    have h2 : (b + j - (b + i)).toNat = j - i := by omega
    have h3 : 2 ^ j = 2 ^ (j - i) * 2 ^ i := by rw [← pow_add, Nat.sub_add_cancel h]
    rw [h1, h2, h3, sub_self, ← mul_assoc, Nat.mul_lt_mul_right (by positivity)]
    simp
  · have h1 : min (b + i) (b + j) = b + j := by omega
    have h2 : (b + i - (b + j)).toNat = i - j := by omega
    have h3 : 2 ^ i = 2 ^ (i - j) * 2 ^ j := by rw [← pow_add, Nat.sub_add_cancel h]
    rw [h1, h2, h3, sub_self, ← mul_assoc, Nat.mul_lt_mul_right (by positivity)]
    simp

/-- A magnitude is past MAXF exactly where its code is. -/
theorem belowF_maxCode_iff {t : Ty} {M : Nat} {E : Int} {k n : Nat} (ht : t.isFloat = true)
    (hM : decodeF t t.maxCode = .fin false M E false) (h : InBinade t.mbits k n) :
    Claims.belowF M E n (t.emin - t.mbits + k) ↔ t.maxCode < k * 2 ^ t.mbits + n := by
  have hmax := Ty.two_pow_mbits_le_maxCode ht
  have hp : 0 < 2 ^ t.mbits := by positivity
  have hdiv : t.maxCode / 2 ^ t.mbits ≠ 0 := (Nat.div_pos hmax hp).ne'
  have hcode : codeF t false t.maxCode = .fin false M E false := (decodeF_number ht false le_rfl).symm.trans hM
  rw [codeF, if_neg (by omega), if_neg hdiv, FVal.fin.injEq] at hcode
  obtain ⟨-, rfl, rfl, -⟩ := hcode
  have hmag : (t.maxCode % 2 ^ t.mbits + 2 ^ t.mbits) * 2 ^ (t.maxCode / 2 ^ t.mbits - 1) = codeMag t.mbits t.maxCode :=
    (if_neg hdiv).symm
  rw [Claims.belowF_add, hmag, ← h.codeMag, (codeMag_strictMono t.mbits).lt_iff_lt]

/-! ## Rounding a magnitude (R47) -/

/-- A magnitude that loses no bits. -/
theorem roundMag_nonneg {mode g m : Nat} {neg sticky : Bool} {sh : Int} (h : 0 ≤ sh) :
    roundMag mode neg g m sticky sh = (m * 2 ^ sh.toNat, sticky) := if_pos h

/-- Whether a magnitude that loses its low `k` bits is rounded up. -/
def roundsUp (mode : Nat) (neg : Bool) (g m : Nat) (sticky : Bool) (k : Nat) : Bool :=
  match mode with
  | 0 => decide (2 ^ (k - 1) < m % 2 ^ k) || (m % 2 ^ k = 2 ^ (k - 1) && (sticky || m / 2 ^ k % 2 = 1))
  | 1 => false
  | 2 => (m % 2 ^ k != 0 || sticky) && !neg
  | 3 => (m % 2 ^ k != 0 || sticky) && neg
  | _ => decide (65536 * 2 ^ k ≤ m % 2 ^ k * 65536 + g * 2 ^ k)

/-- A magnitude that loses its low `k` bits: `n` units of 2^k. -/
theorem roundMag_neg {mode g m k : Nat} {neg sticky : Bool} (hk : 0 < k) : roundMag mode neg g m sticky (-(k : Int)) =
    (if roundsUp mode neg g m sticky k then m / 2 ^ k + 1 else m / 2 ^ k, m % 2 ^ k != 0 || sticky) := by
  have hsh : ¬ (0 : Int) ≤ -(k : Int) := by omega
  rw [roundMag, if_neg hsh, neg_neg, Int.toNat_natCast]
  rfl

section

variable {mode g m k n : Nat} {neg sticky : Bool} (hk : 0 < k) (hn : (roundMag mode neg g m sticky (-(k : Int))).1 = n)
include hk hn

/-- Rounded down or up to the next unit. -/
theorem roundMag_floor : (n = m / 2 ^ k ∧ roundsUp mode neg g m sticky k = false) ∨
    (n = m / 2 ^ k + 1 ∧ roundsUp mode neg g m sticky k = true) := by
  rw [roundMag_neg hk] at hn
  cases h : roundsUp mode neg g m sticky k <;> simp [h] at hn ⊢ <;> exact hn.symm

/-- RNE: the nearest number of units, the even one on a tie. -/
theorem roundMag_nearest (hm : mode = 0) : 2 * (if sticky then m + 1 else m) ≤ 2 * n * 2 ^ k + 2 ^ k ∧
    2 * n * 2 ^ k ≤ 2 * m + 2 ^ k ∧
    (sticky = false → 2 * m = 2 * n * 2 ^ k + 2 ^ k ∨ 2 * n * 2 ^ k = 2 * m + 2 ^ k → n % 2 = 0) := by
  subst hm
  have hq : 2 ^ k = 2 * 2 ^ (k - 1) := by rw [← pow_succ', Nat.sub_add_cancel hk]
  have hdm := Nat.div_add_mod' m (2 ^ k)
  have hlt : m % 2 ^ k < 2 ^ k := Nat.mod_lt _ (by positivity)
  have hup := roundMag_floor hk hn
  simp only [roundsUp, Bool.or_eq_false_iff, Bool.and_eq_false_iff, Bool.or_eq_true, Bool.and_eq_true, decide_eq_true_eq,
    decide_eq_false_iff_not] at hup
  generalize m / 2 ^ k = d at *
  generalize m % 2 ^ k = r at *
  generalize 2 ^ k = q at *
  have hmul : (d + 1) * q = d * q + q := by ring
  rw [mul_assoc]
  rcases hup with ⟨rfl, hup⟩ | ⟨rfl, hup⟩
  · cases sticky <;> simp at hup ⊢ <;> omega
  · rw [hmul]
    cases sticky <;> simp at hup ⊢ <;> omega

/-- Rounding towards zero. -/
theorem roundMag_down (hm : mode = 1 ∨ mode = 2 ∧ neg = true ∨ mode = 3 ∧ neg = false) : n * 2 ^ k ≤ m ∧ m < (n + 1) * 2 ^ k := by
  obtain ⟨rfl, -⟩ | ⟨-, hup⟩ := roundMag_floor hk hn
  · exact ⟨Nat.div_mul_le_self _ _, Nat.lt_mul_of_div_lt (Nat.lt_succ_self _) (by positivity)⟩
  · rcases hm with rfl | ⟨rfl, rfl⟩ | ⟨rfl, rfl⟩ <;> simp [roundsUp] at hup

/-- Rounding away from zero. -/
theorem roundMag_up (hm : mode = 2 ∧ neg = false ∨ mode = 3 ∧ neg = true) :
    (if sticky then m + 1 else m) ≤ n * 2 ^ k ∧ n * 2 ^ k < (if sticky then m + 1 else m) + 2 ^ k := by
  have hdm := Nat.div_add_mod' m (2 ^ k)
  have hlt : m % 2 ^ k < 2 ^ k := Nat.mod_lt _ (by positivity)
  have hiff : roundsUp mode neg g m sticky k = (m % 2 ^ k != 0 || sticky) := by
    rcases hm with ⟨rfl, rfl⟩ | ⟨rfl, rfl⟩ <;> simp [roundsUp]
  have hmul : (m / 2 ^ k + 1) * 2 ^ k = m / 2 ^ k * 2 ^ k + 2 ^ k := by ring
  obtain ⟨rfl, hup⟩ | ⟨rfl, hup⟩ := roundMag_floor hk hn
  · rw [hiff] at hup
    cases sticky <;> simp at hup ⊢
    omega
  · rw [hiff] at hup
    rw [hmul]
    cases sticky <;> simp at hup ⊢ <;> omega

/-- SR: the units of the magnitude with `g` 65536ths of a unit added. -/
theorem roundMag_stochastic (hm : mode = 4) (hg : g < 65536) : n = (65536 * m + g * 2 ^ k) / (65536 * 2 ^ k) := by
  subst hm
  have hdm := Nat.div_add_mod' m (2 ^ k)
  have hlt : m % 2 ^ k < 2 ^ k := Nat.mod_lt _ (by positivity)
  have hgq : g * 2 ^ k ≤ 65535 * 2 ^ k := Nat.mul_le_mul_right _ (by omega)
  have hup := roundMag_floor hk hn
  simp only [roundsUp, decide_eq_true_eq, decide_eq_false_iff_not] at hup
  generalize m / 2 ^ k = d at *
  generalize m % 2 ^ k = r at *
  generalize g * 2 ^ k = gq at *
  generalize 2 ^ k = q at *
  symm
  rcases hup with ⟨rfl, hup⟩ | ⟨rfl, hup⟩
  · exact Nat.div_eq_of_lt_le (by nlinarith) (by nlinarith)
  · exact Nat.div_eq_of_lt_le (by nlinarith) (by nlinarith)

/-- Whether the result differs from the value. -/
theorem roundMag_inexact (hm : mode ≤ 4) (hg : g < 65536) :
    (roundMag mode neg g m sticky (-(k : Int))).2 = (sticky || decide (n * 2 ^ k ≠ m)) := by
  have hdm := Nat.div_add_mod' m (2 ^ k)
  have hlt : m % 2 ^ k < 2 ^ k := Nat.mod_lt _ (by positivity)
  have hhalf : 0 < 2 ^ (k - 1) := by positivity
  have hgq : g * 2 ^ k < 65536 * 2 ^ k := Nat.mul_lt_mul_of_pos_right hg (by positivity)
  have hmul : (m / 2 ^ k + 1) * 2 ^ k = m / 2 ^ k * 2 ^ k + 2 ^ k := by ring
  rw [roundMag_neg hk]
  obtain ⟨rfl, -⟩ | ⟨rfl, hup⟩ := roundMag_floor hk hn
  · have : m / 2 ^ k * 2 ^ k ≠ m ↔ m % 2 ^ k ≠ 0 := by omega
    simp only [this]
    cases sticky <;> simp [bne, beq_eq_decide]
  · have hne : (m / 2 ^ k + 1) * 2 ^ k ≠ m := by omega
    have hin : m % 2 ^ k ≠ 0 ∨ sticky = true := by
      by_contra hcon
      obtain ⟨hr, hs⟩ : m % 2 ^ k = 0 ∧ sticky = false := by simpa using hcon
      interval_cases mode <;> simp [roundsUp, hr, hs] at hup <;> omega
    simp only [hne, ne_eq, not_false_eq_true, decide_true, Bool.or_true]
    simpa [bne] using hin

end

/-! ## The size of what ROUND leaves -/

/-- A shifted magnitude, rounded, keeps within the bits that its leading bit allows. -/
theorem roundMag_le {mode g m b : Nat} {neg sticky : Bool} {sh : Int} (h : (Nat.log2 m : Int) + 1 + sh ≤ b) :
    (roundMag mode neg g m sticky sh).1 ≤ 2 ^ b := by
  have hlt : m < 2 ^ (Nat.log2 m + 1) := Nat.lt_log2_self
  rcases lt_or_ge sh 0 with hs | hs
  · obtain ⟨k, rfl⟩ : ∃ k : Nat, sh = -k := ⟨(-sh).toNat, by omega⟩
    have hfloor : m / 2 ^ k < 2 ^ b := by
      refine Nat.div_lt_of_lt_mul (hlt.trans_le ?_)
      rw [← pow_add]
      exact Nat.pow_le_pow_right (by norm_num) (by omega)
    obtain ⟨h, -⟩ | ⟨h, -⟩ := roundMag_floor (by omega) (rfl : (roundMag mode neg g m sticky (-(k : Int))).1 = _) <;> omega
  · rw [roundMag_nonneg hs]
    refine (Nat.mul_lt_mul_of_pos_right hlt (by positivity)).le.trans ?_
    rw [← pow_add]
    exact Nat.pow_le_pow_right (by norm_num) (by omega)

theorem le_roundMag {mode g m b : Nat} {neg sticky : Bool} {sh : Int} (hm : 0 < m) (h : (b : Int) ≤ Nat.log2 m + sh) :
    2 ^ b ≤ (roundMag mode neg g m sticky sh).1 := by
  have hle : 2 ^ Nat.log2 m ≤ m := Nat.log2_self_le hm.ne'
  rcases lt_or_ge sh 0 with hs | hs
  · obtain ⟨k, rfl⟩ : ∃ k : Nat, sh = -k := ⟨(-sh).toNat, by omega⟩
    have hfloor : 2 ^ b ≤ m / 2 ^ k := by
      rw [Nat.le_div_iff_mul_le (by positivity), ← pow_add]
      exact (Nat.pow_le_pow_right (by norm_num) (by omega)).trans hle
    obtain ⟨h, -⟩ | ⟨h, -⟩ := roundMag_floor (by omega) (rfl : (roundMag mode neg g m sticky (-(k : Int))).1 = _) <;> omega
  · rw [roundMag_nonneg hs]
    refine le_trans ?_ (Nat.mul_le_mul_right _ hle)
    rw [← pow_add]
    exact Nat.pow_le_pow_right (by norm_num) (by omega)

/-! ## ROUND of a finite value (R46, R49) -/

theorem roundF_nan {t : Ty} {mode g : Nat} {sat clamp : Bool} :
    roundF t mode sat clamp g .nan = if t = .e2m1 then (0, flagNV) else (t.nanCode, 0) := rfl

theorem roundF_inf {t : Ty} {mode g : Nat} {sat clamp neg : Bool} : roundF t mode sat clamp g (.inf neg) =
    if t = .e2m1 || (sat && clamp) then (withSign t neg t.maxCode, flagSAT)
    else if t = .e4m3 then (t.nanCode, 0) else (withSign t neg t.infCode, 0) := rfl

section

variable {t : Ty} {mode g m : Nat} {e : Int} {neg sticky sat clamp : Bool}

/-- The binade in which a format holds a value, counted from the subnormal numbers up. -/
def binadeOf (t : Ty) (m : Nat) (e : Int) : Nat := (max ((Nat.log2 m : Int) + e) t.emin - t.emin).toNat

/-- The exponent of the format's last bit at a value. -/
theorem lastPlace_eq (t : Ty) (m : Nat) (e : Int) :
    max ((Nat.log2 m : Int) + e) t.emin - t.mbits = t.emin - t.mbits + binadeOf t m e := by
  unfold binadeOf
  omega

/-- How many units of the last place a value is rounded to, and whether that is inexact. -/
def roundedTo (t : Ty) (mode g : Nat) (neg : Bool) (m : Nat) (e : Int) (sticky : Bool) : Nat × Bool :=
  roundMag mode neg g m sticky (e - (t.emin - t.mbits + binadeOf t m e))

/-- The code of the rounded magnitude. -/
def roundedCode (t : Ty) (mode g : Nat) (neg : Bool) (m : Nat) (e : Int) (sticky : Bool) : Nat :=
  binadeOf t m e * 2 ^ t.mbits + (roundedTo t mode g neg m e sticky).1

/-- UF where the value is tiny and inexact. -/
def underflowFlag (t : Ty) (mode g : Nat) (neg : Bool) (m : Nat) (e : Int) (sticky : Bool) : Nat :=
  flagIf (decide ((Nat.log2 m : Int) + e < t.emin) && (roundedTo t mode g neg m e sticky).2) flagUF

theorem roundF_fin : roundF t mode sat clamp g (.fin neg m e sticky) =
    if t.maxCode < roundedCode t mode g neg m e sticky then
      ((overflowF t mode sat neg).1,
        orF (orF (overflowF t mode sat neg).2 (underflowFlag t mode g neg m e sticky)) (orF flagOF flagNX))
    else (withSign t neg (roundedCode t mode g neg m e sticky),
      orF (underflowFlag t mode g neg m e sticky) (flagIf (roundedTo t mode g neg m e sticky).2 flagNX)) := by
  have hcode : (max ((Nat.log2 m : Int) + e) t.emin - t.emin + 1) * (2 ^ t.mbits : Nat) + ((roundedTo t mode g neg m e sticky).1 : Int) -
      (2 ^ t.mbits : Nat) = (roundedCode t mode g neg m e sticky : Nat) := by
    have hb : max ((Nat.log2 m : Int) + e) t.emin - t.emin = binadeOf t m e := by unfold binadeOf; omega
    rw [hb, roundedCode]
    push_cast
    ring
  have hto : roundMag mode neg g m sticky (e - (max ((Nat.log2 m : Int) + e) t.emin - t.mbits)) =
      roundedTo t mode g neg m e sticky := by rw [lastPlace_eq, roundedTo]
  unfold roundF
  simp only [hto, hcode, Int.ofNat_lt, Int.toNat_natCast, underflowFlag]

/-- The rounded magnitude lies in its binade, or is one carry above it. -/
theorem inBinade_roundedTo (hm : 0 < m) : InBinade t.mbits (binadeOf t m e) (roundedTo t mode g neg m e sticky).1 where
  normal := by
    by_cases h : binadeOf t m e = 0
    · exact .inl h
    · exact .inr (le_roundMag hm (by unfold binadeOf at h ⊢; omega))
  carry := roundMag_le (by unfold binadeOf; push_cast; omega)

/-- A tiny value stays below the normal numbers, or becomes the smallest of them. -/
theorem roundedCode_tiny (h : (Nat.log2 m : Int) + e < t.emin) : roundedCode t mode g neg m e sticky ≤ 2 ^ t.mbits := by
  have h0 : binadeOf t m e = 0 := by unfold binadeOf; omega
  rw [roundedCode, h0, zero_mul, zero_add]
  exact roundMag_le (by rw [h0]; push_cast; omega)

end

section

variable {t : Ty} {mode g : Nat} {sat clamp : Bool} (ht : t.isFloat = true)
include ht

/-- What overflow gives: SAT's clamped number, the NaN of E4M3, the infinity of E5M2, or by the mode (R49). -/
theorem overflowF_lt (neg : Bool) : (overflowF t mode sat neg).1 < 2 ^ t.width := by
  have hmax := Ty.maxCode_lt_signBit ht
  have hinf := Ty.infCode_lt_signBit ht
  have hnan := Ty.nanCode_lt_signBit ht
  have hnan' : t.nanCode < 2 ^ t.width := by rw [Ty.two_pow_width ht]; omega
  unfold overflowF
  dsimp only
  split
  · exact withSign_lt ht neg hmax
  · split
    · exact withSign_lt ht neg hmax
    · split
      · exact hnan'
      · split
        · exact withSign_lt ht neg hinf
        · refine withSign_lt ht neg ?_
          split <;> split <;> assumption

/-- A result is a code of the format. -/
theorem roundF_lt (v : FVal) : (roundF t mode sat clamp g v).1 < 2 ^ t.width := by
  have hmax := Ty.maxCode_lt_signBit ht
  have hinf := Ty.infCode_lt_signBit ht
  have hnan := Ty.nanCode_lt_signBit ht
  have hw := Ty.two_pow_width ht
  cases v with
  | nan => rw [roundF_nan]; split <;> simp only <;> omega
  | inf neg =>
    rw [roundF_inf]
    split
    · exact withSign_lt ht neg hmax
    · split
      · simp only; omega
      · exact withSign_lt ht neg hinf
  | zero neg => exact withSign_lt ht neg (by omega)
  | fin neg m e sticky =>
    rw [roundF_fin]
    split
    · exact overflowF_lt ht neg
    · exact withSign_lt ht neg (by omega)

end

/-! ## A number of the format rounds to itself -/

section

variable {t : Ty} {mode g k n : Nat} {neg sat clamp : Bool}

theorem codeF_eq_fin (hk : k = 0 ∨ 2 ^ t.mbits ≤ n) (hn : n < 2 ^ (t.mbits + 1)) (h0 : 0 < n) :
    codeF t neg (k * 2 ^ t.mbits + n) = .fin neg n (t.emin - t.mbits + k) false := by
  rcases (InBinade.mk hk hn.le).fields with ⟨-, rfl, hd, hm⟩ | ⟨-, hd, hm⟩ | ⟨hn', -, -⟩
  · rw [codeF, if_neg (by omega), if_pos hd, hm]; simp
  · rw [codeF, if_neg (by omega), if_neg (by omega), hm, hd]; rfl
  · rw [pow_succ] at hn; omega

theorem binadeOf_eq (hk : k = 0 ∨ 2 ^ t.mbits ≤ n) (hn : n < 2 ^ (t.mbits + 1)) (h0 : 0 < n) :
    binadeOf t n (t.emin - t.mbits + k) = k := by
  have hlog : Nat.log2 n < t.mbits + 1 := (Nat.log2_lt h0.ne').mpr hn
  unfold binadeOf
  rcases hk with rfl | hk
  · omega
  · have : t.mbits ≤ Nat.log2 n := (Nat.le_log2 h0.ne').mpr hk
    omega

theorem roundF_exact (hk : k = 0 ∨ 2 ^ t.mbits ≤ n) (hn : n < 2 ^ (t.mbits + 1)) (h0 : 0 < n) (hmax : k * 2 ^ t.mbits + n ≤ t.maxCode) :
    roundF t mode sat clamp g (.fin neg n (t.emin - t.mbits + k) false) = (withSign t neg (k * 2 ^ t.mbits + n), 0) := by
  have hto : roundedTo t mode g neg n (t.emin - t.mbits + k) false = (n, false) := by
    rw [roundedTo, binadeOf_eq hk hn h0, sub_self, roundMag_nonneg le_rfl]
    simp
  have hcode : roundedCode t mode g neg n (t.emin - t.mbits + k) false = k * 2 ^ t.mbits + n := by
    rw [roundedCode, hto, binadeOf_eq hk hn h0]
  rw [roundF_fin, hcode, if_neg (by omega), underflowFlag, hto]
  simp [flagIf, orF]

theorem roundF_codeF {c : Nat} (hmax : c ≤ t.maxCode) : roundF t mode sat clamp g (codeF t neg c) = (withSign t neg c, 0) := by
  obtain ⟨k, n, rfl, hk, hn⟩ := exists_inBinade t.mbits c
  rcases Nat.eq_zero_or_pos n with rfl | h0
  · have hk0 : k = 0 := hk.resolve_right (by simp)
    subst hk0
    simp [codeF, roundF]
  · rw [codeF_eq_fin hk hn h0, roundF_exact hk hn h0 hmax]

theorem roundF_decodeF (ht : t.isFloat = true) {x : Nat} (hx : x < 2 ^ t.width) (hnan : decodeF t x ≠ .nan)
    (hinf : ∀ b, decodeF t x ≠ .inf b) : roundF t mode sat clamp g (decodeF t x) = (x, 0) := by
  obtain ⟨neg, c, hc, rfl⟩ := exists_withSign ht hx
  have hmax : c ≤ t.maxCode := by
    by_contra h
    rcases decodeF_above ht neg hc (by omega) with h | h
    · exact hnan h
    · exact hinf neg h
  rw [decodeF_number ht neg hmax, roundF_codeF hmax]

end

/-! ## What a finite value is rounded to -/

section

variable {t : Ty} {mode g m : Nat} {e : Int} {neg sticky sat clamp : Bool}

/-- A value that the format's last place does not cut. -/
theorem roundedTo_of_le (h : t.emin - t.mbits + binadeOf t m e ≤ e) : roundedTo t mode g neg m e sticky =
    (m * 2 ^ (e - (t.emin - t.mbits + binadeOf t m e)).toNat, sticky) :=
  roundMag_nonneg (by omega)

/-- A value that it cuts. -/
theorem roundedTo_of_lt (h : e < t.emin - t.mbits + binadeOf t m e) : roundedTo t mode g neg m e sticky =
    roundMag mode neg g m sticky (-((t.emin - t.mbits + binadeOf t m e - e).toNat : Int)) := by
  rw [roundedTo]
  congr 1
  omega

/-- It is inexact where something lies below the last place. -/
theorem roundedTo_inexact (hm : mode ≤ 4) (hg : g < 65536) : (roundedTo t mode g neg m e sticky).2 =
    (sticky || decide (e < t.emin - t.mbits + binadeOf t m e ∧
      (roundedTo t mode g neg m e sticky).1 * 2 ^ (t.emin - t.mbits + binadeOf t m e - e).toNat ≠ m)) := by
  rcases lt_or_ge e (t.emin - t.mbits + binadeOf t m e) with h | h
  · rw [roundedTo_of_lt h, roundMag_inexact (by omega) rfl hm hg]
    simp [h]
  · rw [roundedTo_of_le h]
    simp [h]

section

variable (ht : t.isFloat = true)
include ht

/-- A magnitude up to MAXF is a number of the format. -/
theorem decodeF_roundedCode (hm : 0 < m) (hmax : ¬ t.maxCode < roundedCode t mode g neg m e sticky) :
    ((roundedTo t mode g neg m e sticky).1 = 0 → decodeF t (withSign t neg (roundedCode t mode g neg m e sticky)) = .zero neg) ∧
    (0 < (roundedTo t mode g neg m e sticky).1 → ∃ m' e', decodeF t (withSign t neg (roundedCode t mode g neg m e sticky)) =
      .fin neg m' e' false ∧ t.emin - t.mbits + binadeOf t m e ≤ e' ∧
      (roundedTo t mode g neg m e sticky).1 = m' * 2 ^ (e' - (t.emin - t.mbits + binadeOf t m e)).toNat) := by
  have hin : InBinade t.mbits (binadeOf t m e) (roundedTo t mode g neg m e sticky).1 := inBinade_roundedTo hm
  rw [decodeF_number ht neg (by omega)]
  constructor
  · intro h0
    have hk : binadeOf t m e = 0 := hin.normal.resolve_right (by rw [h0]; simp)
    simp [roundedCode, h0, hk, codeF]
  · intro h0
    obtain ⟨m', i, hcode, hn⟩ := hin.codeF (neg := neg) h0
    refine ⟨m', _, hcode, by omega, ?_⟩
    rw [hn]
    congr 2
    omega

/-- A result past MAXF is not tiny. -/
theorem underflowFlag_of_overflow (h : t.maxCode < roundedCode t mode g neg m e sticky) : underflowFlag t mode g neg m e sticky = 0 := by
  have hmax := Ty.two_pow_mbits_le_maxCode ht
  have hl : ¬ (Nat.log2 m : Int) + e < t.emin := fun hl => by
    have : roundedCode t mode g neg m e sticky ≤ 2 ^ t.mbits := roundedCode_tiny hl
    omega
  simp [underflowFlag, hl, flagIf]

end

/-- OVERFLOW (R49), with the flags of a finite value. -/
theorem overflowF_eq :
    let r := ((overflowF t mode sat neg).1, orF (orF (overflowF t mode sat neg).2 0) (orF flagOF flagNX))
    (t = .e2m1 ∨ sat = true → r = (withSign t neg t.maxCode, flagOF + flagNX + flagSAT)) ∧
    (t ≠ .e2m1 → sat = false →
      (t = .e4m3 → r = (0x7F, flagOF + flagNX)) ∧
      (t = .e5m2 → r = (withSign t neg t.infCode, flagOF + flagNX)) ∧
      (t ≠ .e4m3 → t ≠ .e5m2 → r = (withSign t neg (if mode = 1 ∨ mode = 2 ∧ neg = true ∨ mode = 3 ∧ neg = false
        then t.maxCode else t.infCode), flagOF + flagNX))) := by
  have hsat : orF (orF flagSAT 0) (orF flagOF flagNX) = flagOF + flagNX + flagSAT := by decide
  have hnosat : orF (orF 0 0) (orF flagOF flagNX) = flagOF + flagNX := by decide
  refine ⟨fun h => ?_, fun h2 hs => ⟨fun h4 => ?_, fun h5 => ?_, fun h4 h5 => ?_⟩⟩
  · have hc : overflowF t mode sat neg = (withSign t neg t.maxCode, flagSAT) := by
      rcases h with rfl | rfl <;> simp [overflowF]
    simp only [hc, hsat]
  · simp only [overflowF, hs, h4, reduceCtorEq, if_true, if_false, Bool.false_eq_true, hnosat]
    rfl
  · simp only [overflowF, hs, h5, reduceCtorEq, if_true, if_false, Bool.false_eq_true, hnosat]
  · simp only [overflowF, h2, hs, h4, h5, if_false, Bool.false_eq_true, hnosat]
    split <;> cases neg <;> simp_all

end

/-- ROUND of every value into every floating format. -/
theorem roundedValues : Claims.RoundedValues := by
  intro t mode g sat clamp hmem hmode hg
  have ht := Ty.isFloat_of_mem hmem
  refine ⟨fun neg m e sticky M E hm _ hM => ?_, fun x hx hnan hinf => roundF_decodeF ht hx hnan hinf, ?_, fun neg => ?_⟩
  · intro r l qe q hi
    have hqe : qe = t.emin - t.mbits + binadeOf t m e := lastPlace_eq t m e
    have hbelow : Claims.belowF M E (roundedTo t mode g neg m e sticky).1 qe ↔ t.maxCode < roundedCode t mode g neg m e sticky := by
      rw [hqe]
      exact belowF_maxCode_iff ht hM (inBinade_roundedTo hm)
    refine ⟨(roundedTo t mode g neg m e sticky).1, fun h => ?whole, fun h => ?cut, ?fits, fun h => ?past⟩
    case whole =>
      rw [hqe] at h ⊢
      rw [roundedTo_of_le h]
    case cut =>
      have hk : 0 < (qe - e).toNat := by omega
      have hto : (roundMag mode neg g m sticky (-((qe - e).toNat : Int))).1 = (roundedTo t mode g neg m e sticky).1 := by
        rw [hqe] at h ⊢
        rw [roundedTo_of_lt h]
      exact ⟨roundMag_nearest hk hto, roundMag_down hk hto, roundMag_up hk hto, fun h4 => roundMag_stochastic hk hto h4 hg⟩
    case fits =>
      intro inexact h
      have hix : (roundedTo t mode g neg m e sticky).2 = inexact := by
        rw [roundedTo_inexact hmode hg, ← hqe]
      rw [hbelow] at h
      have hr : r = (withSign t neg (roundedCode t mode g neg m e sticky),
          orF (flagIf (decide (l < t.emin) && inexact) flagUF) (flagIf inexact flagNX)) := by
        rw [← hix]
        exact roundF_fin.trans (if_neg h)
      rw [hr, hqe]
      exact ⟨hr ▸ roundF_lt ht _, rfl, decodeF_roundedCode ht hm h⟩
    case past =>
      rw [hbelow] at h
      have hr : r = ((overflowF t mode sat neg).1, orF (orF (overflowF t mode sat neg).2 0) (orF flagOF flagNX)) := by
        rw [← underflowFlag_of_overflow ht h]
        exact roundF_fin.trans (if_pos h)
      rw [hr]
      exact overflowF_eq
  · rfl
  · rw [roundF_inf]
    simp only [Bool.or_eq_true, decide_eq_true_eq, Bool.and_eq_true]
    by_cases h4 : t = .e4m3
    · subst h4; rfl
    · simp only [if_neg h4]

end Sys2Proof

namespace Sys2Proof.Machine

/-! # FLT, and MIN and MAX -/

open Claims

/-! ## FLT (R123 to R125) -/

/-- Writing an x register and ORing flags into FPFLAGS. -/
theorem orFlags_wx_keeps (a : Thread) (d : BitVec 7) (w : Word) (fl : Nat) : WriteKeeps a ((a.orFlags fl).wx (.x d) w) [.x d] := by
  have h := wx_keeps (a.orFlags fl) d w
  exact ⟨h.pc, h.pend, h.perf, h.gap, ⟨h.regs.x, h.regs.v, h.regs.p, h.regs.k, h.regs.s⟩, h.rest⟩

section

variable {fn : Nat} {o : Ops} {s : State} {i : Instr} {d : BitVec 7}

/-- An FLT function that writes one x register and sets flags. -/
theorem flt_writesXFlags {f : Thread → Thread} {w : Word} {fl : Nat} (hd : o.d = .x d) (hi : exec i s = issueReg 0x07 fn o s f)
    (hf : ∀ q, f (s.cur.withPend q) = ((s.cur.withPend q).orFlags fl).wx o.d w) (h : Ready 0x07 fn o s) :
    WritesXFlags i 0x07 fn o s d w fl := by
  rw [hd] at hf
  refine issueReg_acts h rfl rfl hi (fun q => ?_) (fun q => ?_) (fun q => ?_) (fun q => ?_)
  · rw [hf]; exact orFlags_wx_keeps _ d w fl
  · rw [hf]; simp [Thread.orFlags]
  · rw [hf]; simp [plain]
  · rw [hf]
    by_cases hz : d = 0 <;> simp_all [Thread.wx, Thread.getX_setX]

/-- An arithmetic FLT function: the exact value rounded once, with the flags of both. -/
theorem fltOp_writesXFlags (f : Bool → FVal → FVal → FVal → FVal × Nat) (hd : o.d = .x d) (hi : exec i s = fltOp fn f o s)
    (h : Ready 0x07 fn o s) :
    let v := f (s.cur.mode o.rnd false = 3) (opF (s.cur.xr o.a)) (opF (s.cur.xr o.b)) (opF (s.cur.xr o.c))
    let r := roundF .f32 (s.cur.mode o.rnd false) o.sat false 0 v.1
    WritesXFlags i 0x07 fn o s d (BitVec.ofNat 64 r.1) (orF v.2 r.2) :=
  flt_writesXFlags hd hi (fun _ => rfl) h

/-- An FLT function that chooses or re-signs an operand. -/
theorem fltPick_writesX (f : FVal → FVal → FVal) (hd : o.d = .x d) (hi : exec i s = fltPick fn f o s) (h : Ready 0x07 fn o s) :
    WritesX i 0x07 fn o s d (BitVec.ofNat 64 (rneF32 (f (opF (s.cur.xr o.a)) (opF (s.cur.xr o.b)))).1) :=
  writesX h hd rfl rfl hi (fun _ => rfl)

end

theorem scalarFloatResults : ScalarFloatResults := by
  intro o s d hd a b c mode rd round pick
  refine ⟨fltOp_writesXFlags (fun rd a b _ => a.add rd b) hd rfl, fltOp_writesXFlags (fun rd a b _ => a.add rd b.neg) hd rfl,
    fltOp_writesXFlags (fun _ a b _ => a.mul b) hd rfl, fltOp_writesXFlags fmaV hd rfl,
    fltOp_writesXFlags (fun _ a b _ => a.div b) hd rfl, fltOp_writesXFlags (fun _ a _ _ => a.sqrt) hd rfl,
    fltPick_writesX (FVal.minMax false) hd rfl, fltPick_writesX (FVal.minMax true) hd rfl, fltPick_writesX (fun a _ => a.abs) hd rfl,
    fltPick_writesX (fun a _ => a.neg) hd rfl, fun h => ?_⟩
  split
  · next hto =>
    refine flt_writesXFlags hd rfl (fun q => ?_) h
    rw [if_pos hto]
    simp only [fltWrite, orF, Nat.zero_or]
    rfl
  · next hto =>
    refine flt_writesXFlags hd rfl (fun q => ?_) h
    rw [if_neg hto]
    rfl

end Sys2Proof.Machine

namespace Sys2Proof

/-! ## MIN and MAX (R52) -/

/-- Comparing the other way round gives the other order. -/
theorem FVal.cmp_swap (x y : FVal) : y.cmp x = (x.cmp y).map Ordering.swap := by
  cases x with
  | nan => cases y <;> rfl
  | inf p => cases y with
    | inf q => cases p <;> cases q <;> rfl
    | _ => cases p <;> rfl
  | zero p => cases y with
    | inf q | fin q => cases q <;> rfl
    | _ => rfl
  | fin p m e st => cases y with
    | nan => rfl
    | inf q => cases q <;> rfl
    | zero q => cases p <;> rfl
    | fin q m' e' st' =>
      simp only [FVal.cmp, min_comm e' e, Option.map_some]
      generalize signedM p m * (2 ^ (e - min e e').toNat : Nat) = a
      generalize signedM q m' * (2 ^ (e' - min e e').toNat : Nat) = b
      rcases lt_trichotomy a b with h | rfl | h
      · simp [h, h.ne', h.not_gt, Ordering.swap]
      · simp [Ordering.swap]
      · simp [h, h.ne', h.not_gt, Ordering.swap]

theorem FVal.minMax_of_lt {x y : FVal} (h : x.cmp y = some .lt) (mx : Bool) : FVal.minMax mx x y = if mx then y else x := by
  unfold FVal.minMax
  split
  · cases h
  · cases x <;> cases h
  · cases mx <;> simp [h]

theorem FVal.minMax_of_gt {x y : FVal} (h : x.cmp y = some .gt) (mx : Bool) : FVal.minMax mx x y = if mx then x else y := by
  unfold FVal.minMax
  split
  · cases h
  · cases x <;> cases h
  · cases mx <;> simp [h]

end Sys2Proof

namespace Sys2Proof.Machine

theorem floatMinMax : Claims.FloatMinMax := by
  intro mx x y
  refine ⟨rfl, fun hx => ?_, fun p q => ?_, fun h => ?_⟩
  · cases x with
    | nan => exact absurd rfl hx
    | _ => exact ⟨rfl, rfl⟩
  · cases p <;> cases q <;> exact ⟨rfl, rfl⟩
  · have h' : y.cmp x = some .gt := by rw [FVal.cmp_swap, h]; rfl
    exact ⟨FVal.minMax_of_lt h false, FVal.minMax_of_lt h true, FVal.minMax_of_gt h' false, FVal.minMax_of_gt h' true⟩

end Sys2Proof.Machine

namespace Sys2Proof

/-- Settles O15: ROUND by the code of the rounded magnitude, FLT by what each function writes, MIN and MAX by the order. -/
theorem scalarFloat : Obligations.ScalarFloat :=
  ⟨roundedValues, Machine.scalarFloatResults, Machine.floatMinMax⟩

/-! # The matrix unit -/

/-! ## Parts of little-endian numbers (R6) -/

theorem leNat_drop (bs : List Byte) (n : Nat) : leNat (bs.drop n) = leNat bs / 256 ^ n := by
  induction n generalizing bs with
  | zero => simp
  | succ n ih =>
    cases bs with
    | nil => simp [leNat]
    | cons b bs =>
      have hb : b.toNat < 256 := b.isLt
      rw [List.drop_succ_cons, ih, leNat, pow_succ', ← Nat.div_div_eq_div_mul]
      congr 1
      omega

theorem leNat_take (bs : List Byte) (n : Nat) : leNat (bs.take n) = leNat bs % 256 ^ n := by
  induction n generalizing bs with
  | zero => simp [leNat, Nat.mod_one]
  | succ n ih =>
    cases bs with
    | nil => simp [leNat]
    | cons b bs =>
      have hb : b.toNat < 256 := b.isLt
      rw [List.take_succ_cons, leNat, leNat, ih, pow_succ', Nat.mod_mul]
      congr 1
      · omega
      · congr 2
        omega

/-- The number that stands in `n` bytes from byte `a` on. -/
theorem leNat_part (bs : List Byte) (a n : Nat) : leNat ((bs.drop a).take n) = leNat bs / 2 ^ (8 * a) % 2 ^ (8 * n) := by
  rw [leNat_take, leNat_drop, pow_mul, pow_mul]
  norm_num

/-! ## Lists that a range lays out -/

theorem zipIdx_map_range {α : Type} (f : Nat → α) (n : Nat) :
    ((List.range n).map f).zipIdx = (List.range n).map (fun i => (f i, i)) := by
  refine List.ext_getElem (by simp) fun i _ _ => ?_
  simp

theorem length_flatMap_range {α : Type} {g : Nat → List α} {L : Nat} (hg : ∀ i, (g i).length = L) (n : Nat) :
    ((List.range n).flatMap g).length = L * n := by
  simp [List.length_flatMap, hg, mul_comm]

/-- One of the equally long pieces that a list is made of. -/
theorem piece_flatMap_range {α : Type} {g : Nat → List α} {L n i : Nat} (hg : ∀ i, (g i).length = L) (hi : i < n) :
    (((List.range n).flatMap g).drop (L * i)).take L = g i := by
  obtain ⟨m, rfl⟩ : ∃ m, n = i + (m + 1) := ⟨n - i - 1, by omega⟩
  rw [List.range_add, List.flatMap_append, ← length_flatMap_range hg i, List.drop_left, List.range_succ_eq_map]
  simp [List.take_left', hg]

/-- Part of one piece of a list. -/
theorem part_of_piece {α : Type} (l : List α) {a b L n : Nat} (h : b + n ≤ L) :
    (l.drop (a + b)).take n = (((l.drop a).take L).drop b).take n := by
  rw [List.drop_take, List.take_take, List.drop_drop, Nat.min_eq_left (by omega)]

end Sys2Proof

namespace Sys2Proof.Machine

open Claims

/-! ## The elements of a row of bytes (R201) -/

theorem packed_zero_four {ty : Ty} (hw : ty.width = 4) (b : Byte) (bs : List Byte) : packed ty (b :: bs) 0 = b.toNat % 16 := by
  rw [packed, hw, leNat]
  omega

theorem packed_one_four {ty : Ty} (hw : ty.width = 4) (b : Byte) (bs : List Byte) : packed ty (b :: bs) 1 = b.toNat / 16 := by
  have hb : b.toNat < 256 := b.isLt
  rw [packed, hw, leNat]
  omega

theorem packed_add_two_four {ty : Ty} (hw : ty.width = 4) (b : Byte) (bs : List Byte) (k : Nat) :
    packed ty (b :: bs) (k + 2) = packed ty bs k := by
  have hb : b.toNat < 256 := b.isLt
  have hdiv : leNat (b :: bs) / 256 = leNat bs := by rw [leNat]; omega
  rw [packed, packed, hw, show 4 * (k + 2) = 8 + 4 * k by ring, pow_add, ← Nat.div_div_eq_div_mul]
  exact congrArg (· / 2 ^ (4 * k) % 2 ^ 4) hdiv

/-- A row of `n` elements, each by its place among the row's bits. -/
theorem rowElems_eq {ty : Ty} {bs : List Byte} {n : Nat} (hw : ty.width ≤ 32) (hn : 8 * bs.length = ty.width * n) :
    rowElems ty bs = (List.range n).map (packed ty bs) := by
  have hcases : ty.width = 4 ∨ ty.width = 8 ∨ ty.width = 16 ∨ ty.width = 32 := by
    revert hw
    cases ty <;> decide
  rcases hcases with h | h | h | h
  · obtain rfl : n = 2 * bs.length := by rw [h] at hn; omega
    clear hn
    simp only [rowElems, h]
    induction bs with
    | nil => rfl
    | cons b bs ih =>
      rw [List.flatMap_cons, ih, List.length_cons, show 2 * (bs.length + 1) = 2 * bs.length + 1 + 1 by ring,
        List.range_succ_eq_map, List.range_succ_eq_map]
      simp [packed_zero_four h, packed_one_four h, packed_add_two_four h, Function.comp_def]
  · obtain rfl : n = bs.length := by rw [h] at hn; omega
    simp only [rowElems, h]
    refine List.ext_getElem (by simp) fun i hi _ => ?_
    have hi' : i < bs.length := by simpa using hi
    have hone : (bs.drop i).take 1 = [bs[i]] := List.take_one_drop_eq_of_lt_length hi'
    have := leNat_part bs i 1
    rw [hone] at this
    simpa [packed, h, leNat] using this
  · obtain rfl : n = bs.length / 2 := by rw [h] at hn; omega
    simp only [rowElems, h, leNat_part]
    exact List.map_congr_left fun i _ => by rw [packed, h, ← mul_assoc]; norm_num
  · obtain rfl : n = bs.length / 4 := by rw [h] at hn; omega
    simp only [rowElems, h, leNat_part]
    exact List.map_congr_left fun i _ => by rw [packed, h, ← mul_assoc]; norm_num

end Sys2Proof.Machine

namespace Sys2Proof

/-! ## Part of what is read or written -/

theorem Memory.drop_read (m : Memory) (a n k : Nat) : (m.read a n).drop k = m.read (a + k) (n - k) := by
  induction k generalizing a n with
  | zero => simp
  | succ k ih =>
    cases n with
    | zero => simp [Memory.read]
    | succ n =>
      rw [Memory.read, List.drop_succ_cons, ih, Nat.succ_sub_succ]
      congr 1
      ring

theorem Memory.take_read (m : Memory) (a n k : Nat) : (m.read a n).take k = m.read a (min k n) := by
  induction k generalizing a n with
  | zero => simp [Memory.read]
  | succ k ih =>
    cases n with
    | zero => simp [Memory.read]
    | succ n => rw [Memory.read, List.take_succ_cons, ih, Nat.succ_min_succ, Memory.read]

theorem Memory.read_part (m : Memory) (a : Nat) {n k l : Nat} (h : k + l ≤ n) : ((m.read a n).drop k).take l = m.read (a + k) l := by
  rw [Memory.drop_read, Memory.take_read, Nat.min_eq_left (by omega)]

theorem Memory.read_write_part (m : Memory) (a : Nat) {bs : List Byte} {k l : Nat} (h : k + l ≤ bs.length) :
    (m.write a bs).read (a + k) l = (bs.drop k).take l := by
  rw [← Memory.read_part _ _ h, Memory.read_write_same]

end Sys2Proof

namespace Sys2Proof.Machine

open Claims

/-! ## Rows of a slot (R197) -/

/-- Rows of 128 words, by row and column. -/
def wordRows (n : Nat) (f : Nat → Nat → Nat) : List (List Nat) := (List.range n).map (fun i => (List.range 128).map (f i))

section

variable {s : State} {core slot row n : Nat}

/-- The rows that are read are those of the slot's words. -/
theorem slotRows_eq : s.slotRows core slot row n = wordRows n (fun i j => slotWord s core slot (row + i) j) := by
  refine List.map_congr_left fun i _ => ?_
  have hlen : (s.poolRead core (slotOff slot + 512 * (row + i)) 512).length = 512 := Memory.length_read _ _ _
  rw [rowElems_eq (n := 128) (by decide) (by rw [hlen]; decide)]
  refine List.map_congr_left fun j hj => ?_
  have hj : j < 128 := List.mem_range.mp hj
  have := leNat_part (s.poolRead core (slotOff slot + 512 * (row + i)) 512) (4 * j) 4
  rw [State.poolRead, Memory.read_part _ _ (by omega), ← mul_assoc] at this
  exact this.symm

theorem length_wordBytes (f : Nat → Nat) : ((List.range 128).flatMap (fun j => leBytes 4 (f j))).length = 512 :=
  length_flatMap_range (L := 4) (fun _ => length_leBytes 4 _) 128

/-- The bytes of rows of words, laid one after another. -/
theorem rowBytes_eq (f : Nat → Nat → Nat) : (wordRows n f).flatMap (fun r => r.flatMap (leBytes 4)) =
    (List.range n).flatMap (fun i => (List.range 128).flatMap (fun j => leBytes 4 (f i j))) := by
  simp [wordRows, List.flatMap_map]

theorem length_rowBytes (f : Nat → Nat → Nat) : ((wordRows n f).flatMap (fun r => r.flatMap (leBytes 4))).length = 512 * n := by
  rw [rowBytes_eq, length_flatMap_range (fun i => length_wordBytes (f i))]

/-- The word that stands at a row and a column. -/
theorem rowBytes_part (f : Nat → Nat → Nat) {i j : Nat} (hi : i < n) (hj : j < 128) :
    (((wordRows n f).flatMap (fun r => r.flatMap (leBytes 4))).drop (512 * i + 4 * j)).take 4 = leBytes 4 (f i j) := by
  rw [rowBytes_eq, part_of_piece _ (show 4 * j + 4 ≤ 512 by omega), piece_flatMap_range (fun i => length_wordBytes (f i)) hi,
    piece_flatMap_range (fun j => length_leBytes 4 (f i j)) hj]

/-- Bytes written to a pool change no other byte. -/
theorem bytesKeptBut_poolWrite (s : State) (core off : Nat) (bs : List Byte) : BytesKeptBut s (s.poolWrite core off bs) core off bs.length := by
  refine ⟨fun d a h => ?_, rfl, rfl⟩
  rw [State.poolWrite, State.core_modCore]
  split
  · next hd =>
    subst hd
    exact Memory.byte_write_out _ _ _ _ (h.resolve_left (fun hne => hne rfl))
  · rfl

/-- Rows written to a slot change no other byte. -/
theorem bytesKeptBut_writeRows (s : State) (core slot row n : Nat) (f : Nat → Nat → Nat) :
    BytesKeptBut s (s.writeRows core slot row (wordRows n f)) core (slotOff slot + 512 * row) (512 * n) := by
  have h := bytesKeptBut_poolWrite s core (slotOff slot + 512 * row) ((wordRows n f).flatMap (fun r => r.flatMap (leBytes 4)))
  rwa [length_rowBytes] at h

/-- Rows written to a slot are read back. -/
theorem slotWord_writeRows (f : Nat → Nat → Nat) {i j : Nat} (hi : i < n) (hj : j < 128) :
    slotWord (s.writeRows core slot row (wordRows n f)) core slot (row + i) j = f i j % 2 ^ 32 := by
  have hlen := length_rowBytes (n := n) f
  have hread := Memory.read_write_part (s.core core).pool (slotOff slot + 512 * row)
    (bs := (wordRows n f).flatMap (fun r => r.flatMap (leBytes 4))) (k := 512 * i + 4 * j) (l := 4) (by rw [hlen]; omega)
  rw [rowBytes_part f hi hj] at hread
  have hoff : slotOff slot + 512 * (row + i) + 4 * j = slotOff slot + 512 * row + (512 * i + 4 * j) := by ring
  rw [slotWord, State.poolRead, State.writeRows, State.poolWrite, State.core_modCore_self, hoff, hread, leNat_leBytes]
  norm_num

/-- A status byte changes no byte of memory and no word of a slot. -/
theorem bytesKept_orStatus (s : State) (core slot flags : Nat) : BytesKept s (s.orStatus core slot flags) := by
  refine ⟨fun d => ?_, rfl, rfl⟩
  rw [State.orStatus, State.core_modCore]
  split
  · next hd => subst hd; rfl
  · rfl

end

end Sys2Proof.Machine

namespace Sys2Proof.Claims

open Machine

section

variable {s u v : State}

theorem BytesKept.refl (s : State) : BytesKept s s := ⟨fun _ => rfl, rfl, rfl⟩

theorem BytesKept.trans (h : BytesKept s u) (h' : BytesKept u v) : BytesKept s v :=
  ⟨fun d => (h'.1 d).trans (h.1 d), h'.2.1.trans h.2.1, h'.2.2.trans h.2.2⟩

theorem BytesKept.slotWord (h : BytesKept s u) (core slot i j : Nat) : slotWord u core slot i j = slotWord s core slot i j := by
  rw [Claims.slotWord, Claims.slotWord, State.poolRead, State.poolRead, h.1]

theorem BytesKeptBut.trans_kept {core off n : Nat} (h : BytesKeptBut s u core off n) (h' : BytesKept u v) :
    BytesKeptBut s v core off n := by
  refine ⟨fun d a hd => ?_, h'.2.1.trans h.2.1, h'.2.2.trans h.2.2⟩
  rw [h'.1 d]
  exact h.1 d a hd

end

end Sys2Proof.Claims

namespace Sys2Proof.Machine

open Claims

/-! ## Sums of products (R55, R56) -/

/-- The word that a product leaves in one cell of a slot, and its flags. -/
def productCell (fn : Nat) (ty bty : Ty) (zc : Bool) (row col : List Nat) (w : Nat) : Nat × Nat :=
  if fn = 2 then
    let r := sumProducts (row.map (decodeF ty)) (col.map (decodeF bty))
    let y := rneF32 r.1
    (y.1, orF r.2 y.2)
  else if ty = .i8 then dotI (row.map (readInt true 8)) (col.map (readInt true 8)) (if zc then 0 else w)
  else
    let kd := if ty.width = 16 then 1 else 2
    dotF kd (32 / kd) (row.map (decodeF ty)) (col.map (decodeF bty)) (if zc then 0 else w)

/-- A product goes cell by cell: a row of A, a column of B, and the word that stood there. -/
theorem productWords_eq (fn : Nat) (ty bty : Ty) (zc : Bool) (a : Nat → List Nat) (b : List (List Nat)) (w : Nat → Nat → Nat) :
    (productWords fn ty bty zc ((List.range 128).map a) b (wordRows 128 w)).1 =
      wordRows 128 (fun i j => (productCell fn ty bty zc (a i) (column b j) (w i j)).1) := by
  simp only [productWords, wordRows, List.zip_map', List.map_map]
  rfl

theorem map_range_succ {α : Type} (f : Nat → α) (n : Nat) : (List.range (n + 1)).map f = f 0 :: (List.range n).map (fun k => f (k + 1)) := by
  rw [List.range_succ_eq_map, List.map_cons, List.map_map]
  rfl

theorem foldl_range_succ {α : Type} (f : α → Nat → α) (a : α) (n : Nat) :
    (List.range (n + 1)).foldl f a = (List.range n).foldl (fun a k => f a (k + 1)) (f a 0) := by
  rw [List.range_succ_eq_map, List.foldl_cons, List.foldl_map]

/-- A product that is not the last is added to the sum of those after it. -/
theorem sumProducts_cons (a b : FVal) {as : List FVal} (bs : List FVal) (h : as ≠ []) :
    (sumProducts (a :: as) (b :: bs)).1 = ((a.mul b).1.add false (sumProducts as bs).1).1 := by
  cases as with
  | nil => exact absurd rfl h
  | cons c as => rfl

/-- The exact sum of n + 1 products, the last one taken first. -/
theorem sumProducts_range (a b : Nat → FVal) (n : Nat) :
    (sumProducts ((List.range (n + 1)).map a) ((List.range (n + 1)).map b)).1 =
      (List.range n).foldr (fun k r => (((a k).mul (b k)).1.add false r).1) ((a n).mul (b n)).1 := by
  induction n generalizing a b with
  | zero => rfl
  | succ n ih =>
    have := ih (fun k => a (k + 1)) (fun k => b (k + 1))
    have hne : (List.range (n + 1)).map (fun k => a (k + 1)) ≠ [] := by simp
    rw [map_range_succ a, map_range_succ b, sumProducts_cons _ _ _ hne, this, List.range_succ_eq_map (n := n), List.foldr_cons,
      List.foldr_map]

/-- One product after another added, each sum rounded (R55 with kd = 1). -/
theorem dotF_one (a b : Nat → FVal) (n c : Nat) : (dotF 1 n ((List.range n).map a) ((List.range n).map b) c).1 =
    (List.range n).foldl (fun w k => (rneF32 ((decodeF .f32 w).add false ((a k).mul (b k)).1).1).1) c := by
  induction n generalizing a b c with
  | zero => rfl
  | succ n ih =>
    rw [foldl_range_succ, map_range_succ, map_range_succ, ← ih]
    rfl

/-- One pair of products after another added, each sum rounded (R55 with kd = 2). -/
theorem dotF_two (a b : Nat → FVal) (n c : Nat) : (dotF 2 n ((List.range (2 * n)).map a) ((List.range (2 * n)).map b) c).1 =
    (List.range n).foldl (fun w g => (rneF32 ((decodeF .f32 w).add false
      (((a (2 * g)).mul (b (2 * g))).1.add false ((a (2 * g + 1)).mul (b (2 * g + 1))).1).1).1).1) c := by
  induction n generalizing a b c with
  | zero => rfl
  | succ n ih =>
    rw [foldl_range_succ, show 2 * (n + 1) = 2 * n + 1 + 1 by ring, map_range_succ, map_range_succ, map_range_succ b, map_range_succ]
    exact ih (fun k => a (k + 1 + 1)) (fun k => b (k + 1 + 1)) _

/-- One pair of integer products after another added and wrapped (R56). -/
theorem dotI_range (a b : Nat → Int) (n c : Nat) : (dotI ((List.range (2 * n)).map a) ((List.range (2 * n)).map b) c).1 =
    (List.range n).foldl (fun w g => wrapN 32 (readInt true 32 w + a (2 * g) * b (2 * g) + a (2 * g + 1) * b (2 * g + 1))) c := by
  induction n generalizing a b c with
  | zero => rfl
  | succ n ih =>
    rw [foldl_range_succ, show 2 * (n + 1) = 2 * n + 1 + 1 by ring, map_range_succ, map_range_succ, map_range_succ b, map_range_succ]
    exact ih (fun k => a (k + 1 + 1)) (fun k => b (k + 1 + 1)) _

/-- What is rounded to FP32 is a word of 32 bits. -/
theorem rneF32_lt (v : FVal) : (rneF32 v).1 < 2 ^ 32 := roundF_lt rfl v

/-- A loop that goes round at least once leaves what its last turn computes. -/
theorem foldl_range_lt {f : Nat → Nat → Nat} {n b c : Nat} (hn : 0 < n) (hf : ∀ w k, f w k < b) : (List.range n).foldl f c < b := by
  obtain ⟨n, rfl⟩ := Nat.exists_eq_succ_of_ne_zero hn.ne'
  rw [List.range_succ, List.foldl_append]
  exact hf _ _

/-- SCA: the canonical NaN where a scale is 0xFF, else the word plus the scaled partial, rounded once (R57). -/
theorem scaWord_fst (sa sb c p : Nat) : (scaWord sa sb c p).1 = if sa = 0xFF ∨ sb = 0xFF then 0x7FC00000 else
    (rneF32 ((decodeF .f32 c).add false ((decodeF .f32 p).scale ((sa : Int) + sb - 254))).1).1 := by
  unfold scaWord
  simp only [Bool.or_eq_true, decide_eq_true_eq]
  split
  · rfl
  · cases decodeF .f32 p with
    | fin neg m e st => simp only [FVal.scale, add_sub_assoc, add_assoc]
    | _ => rfl

theorem scaWord_lt (sa sb c p : Nat) : (scaWord sa sb c p).1 < 2 ^ 32 := by
  rw [scaWord_fst]
  split
  · norm_num
  · exact rneF32_lt _

/-! ## What a step leaves in its slot (R202 to R206) -/

section

variable {s u : State} {core slot row n : Nat} {f : Nat → Nat → Nat}

/-- A step that writes rows of words, and then no other byte. -/
theorem words_of_writeRows (h : BytesKept (s.writeRows core slot row (wordRows n f)) u) :
    BytesKeptBut s u core (slotOff slot + 512 * row) (512 * n) ∧
    ∀ i j, row ≤ i ∧ i < row + n → j < 128 → slotWord u core slot i j = f (i - row) j % 2 ^ 32 := by
  refine ⟨(bytesKeptBut_writeRows s core slot row n f).trans_kept h, fun i j hi hj => ?_⟩
  obtain ⟨r, rfl⟩ := Nat.exists_eq_add_of_le hi.1
  rw [h.slotWord, slotWord_writeRows f (by omega) hj, Nat.add_sub_cancel_left]

/-- A change of a core that keeps its pool. -/
theorem bytesKept_modCore (s : State) (core : Nat) {f : Core → Core} (hf : ∀ c, (f c).pool = c.pool) : BytesKept s (s.modCore core f) := by
  refine ⟨fun d => ?_, rfl, rfl⟩
  rw [State.core_modCore]
  split
  · next hd => subst hd; exact hf _
  · rfl

end

section

variable {s : State} {core : Nat} {c : MxCmd} {here : List (Word × Sum Loc (List Byte))}

/-- The operand row `r` of a step, from the granules at hand. -/
def operandRow (s : State) (c : MxCmd) (here : List (Word × Sum Loc (List Byte))) (r : Nat) : List Byte :=
  runBytes s here (c.runs[r]?.getD (0, 0))

/-- Every operand row of the step is at hand whole. -/
def AtHand (s : State) (c : MxCmd) (here : List (Word × Sum Loc (List Byte))) : Prop :=
  ∀ r ∈ c.runs, (runBytes s here r).length = r.2

/-- The runs of MMA and BLK: 128 rows of A, then 32 of B. -/
theorem runs_product (hf : c.fn = 1 ∨ c.fn = 2) : ∃ ra rb : Nat → Word × Nat,
    c.runs = (List.range 128).map ra ++ (List.range 32).map rb ∧ (∀ i, (ra i).2 = 32 * c.ty.width / 8) ∧
    ∀ k, (rb k).2 = 128 * c.bty.width / 8 := by
  rcases hf with hf | hf <;> exact ⟨_, _, by simp only [MxCmd.runs, hf]; rfl, fun _ => rfl, fun _ => rfl⟩

/-- The elements of B's rows. -/
def rowsOfB (s : State) (c : MxCmd) (here : List (Word × Sum Loc (List Byte))) : List (List Nat) :=
  (List.range 32).map (fun k => rowElems c.bty (operandRow s c here (128 + k)))

theorem operandRow_lengths (hf : c.fn = 1 ∨ c.fn = 2) (h : AtHand s c here) :
    (∀ i, i < 128 → (operandRow s c here i).length = 32 * c.ty.width / 8) ∧
    ∀ k, k < 32 → (operandRow s c here (128 + k)).length = 128 * c.bty.width / 8 := by
  obtain ⟨ra, rb, hr, ha, hb⟩ := runs_product hf
  constructor
  · intro i hi
    have hget : c.runs[i]?.getD (0, 0) = ra i := by simp [hr, List.getElem?_append, hi]
    rw [operandRow, hget, h _ (by rw [hr]; exact List.mem_append_left _ (List.mem_map_of_mem (List.mem_range.mpr hi))), ha]
  · intro k hk
    have hget : c.runs[128 + k]?.getD (0, 0) = rb k := by simp [hr, List.getElem?_append, hk]
    rw [operandRow, hget, h _ (by rw [hr]; exact List.mem_append_right _ (List.mem_map_of_mem (List.mem_range.mpr hk))), hb]

/-- The step of MMA and BLK. -/
theorem stepMx_product (hf : c.fn = 1 ∨ c.fn = 2) : BytesKept (s.writeRows core c.slot 0 (wordRows 128 (fun i j =>
      (productCell c.fn c.ty c.bty (c.zc && c.progress = 0) (rowElems c.ty (operandRow s c here i)) (column (rowsOfB s c here) j)
        (slotWord s core c.slot i j)).1))) (s.stepMx core c here) := by
  obtain ⟨ra, rb, hr, -, -⟩ := runs_product hf
  have hA : ((c.runs.map (runBytes s here)).take 128).map (rowElems c.ty) =
      (List.range 128).map (fun i => rowElems c.ty (operandRow s c here i)) := by
    rw [hr, List.map_append, List.take_left' (by simp), List.map_map, List.map_map]
    refine List.map_congr_left fun i hi => ?_
    have hi : i < 128 := List.mem_range.mp hi
    simp [operandRow, hr, List.getElem?_append, hi]
  have hB : ((c.runs.map (runBytes s here)).drop 128).map (rowElems c.bty) = rowsOfB s c here := by
    rw [hr, List.map_append, List.drop_left' (by simp), List.map_map, List.map_map]
    refine List.map_congr_left fun k hk => ?_
    have hk : k < 32 := List.mem_range.mp hk
    simp [operandRow, hr, List.getElem?_append, hk]
  have hC : s.slotRows core c.slot 0 128 = wordRows 128 (slotWord s core c.slot) := by
    rw [slotRows_eq]
    simp only [Nat.zero_add]
  rcases hf with hf | hf
  all_goals
    simp only [State.stepMx, hf, hA, hB, hC, productWords_eq]
    exact bytesKept_orStatus _ _ _ _

/-- A column of B, once every row of B has its 128 elements. -/
theorem column_rowsOfB {b : Nat → Nat → Nat} {j : Nat} (hj : j < 128)
    (hb : ∀ k, k < 32 → rowElems c.bty (operandRow s c here (128 + k)) = (List.range 128).map (b k)) :
    column (rowsOfB s c here) j = (List.range 32).map (fun k => b k j) := by
  rw [column, rowsOfB, List.map_map]
  refine List.map_congr_left fun k hk => ?_
  rw [Function.comp_apply, hb k (List.mem_range.mp hk)]
  simp [hj]

/-- The rows of a product, element by element. -/
theorem product_elems (hf : c.fn = 1 ∨ c.fn = 2) (h : AtHand s c here) (ha : c.ty.width ≤ 32) (hb : c.bty.width ≤ 32) :
    (∀ i, i < 128 → rowElems c.ty (operandRow s c here i) = (List.range 32).map (packed c.ty (operandRow s c here i))) ∧
    ∀ j, j < 128 → column (rowsOfB s c here) j = (List.range 32).map (fun k => packed c.bty (operandRow s c here (128 + k)) j) := by
  obtain ⟨hla, hlb⟩ := operandRow_lengths hf h
  refine ⟨fun i hi => rowElems_eq ha (by rw [hla i hi]; omega), fun j hj => column_rowsOfB hj fun k hk => ?_⟩
  exact rowElems_eq hb (by rw [hlb k hk]; omega)

end

/-! ## One cell of MMA and BLK -/

section

variable {ty bty : Ty} {zc : Bool} {a b : Nat → Nat} {w : Nat}

/-- MMA on elements of 16 bits. -/
theorem productCell_half (h : ty.width = 16) (h8 : ty ≠ .i8) :
    (productCell 1 ty bty zc ((List.range 32).map a) ((List.range 32).map b) w).1 =
      (List.range 32).foldl (fun w k => (rneF32 ((decodeF .f32 w).add false ((decodeF ty (a k)).mul (decodeF bty (b k))).1).1).1)
        (if zc then 0 else w) := by
  rw [← dotF_one]
  simp [productCell, h, h8, Function.comp_def]

/-- MMA on floating elements of 8 bits. -/
theorem productCell_byte (h : ty.width = 8) (h8 : ty ≠ .i8) :
    (productCell 1 ty bty zc ((List.range 32).map a) ((List.range 32).map b) w).1 =
      (List.range 16).foldl (fun w g => (rneF32 ((decodeF .f32 w).add false
        (((decodeF ty (a (2 * g))).mul (decodeF bty (b (2 * g)))).1.add false
          ((decodeF ty (a (2 * g + 1))).mul (decodeF bty (b (2 * g + 1)))).1).1).1).1) (if zc then 0 else w) := by
  rw [← dotF_two (fun k => decodeF ty (a k)) (fun k => decodeF bty (b k))]
  simp [productCell, h, h8, Function.comp_def]

/-- MMA on integers. -/
theorem productCell_int (h : ty = .i8) : (productCell 1 ty bty zc ((List.range 32).map a) ((List.range 32).map b) w).1 =
      (List.range 16).foldl (fun w g => wrapN 32 (readInt true 32 w + readInt true 8 (a (2 * g)) * readInt true 8 (b (2 * g)) +
        readInt true 8 (a (2 * g + 1)) * readInt true 8 (b (2 * g + 1)))) (if zc then 0 else w) := by
  rw [← dotI_range (fun k => readInt true 8 (a k)) (fun k => readInt true 8 (b k))]
  simp [productCell, h, Function.comp_def]

/-- BLK. -/
theorem productCell_block : (productCell 2 ty bty zc ((List.range 32).map a) ((List.range 32).map b) w).1 =
    (rneF32 ((List.range 31).foldr (fun k r => (((decodeF ty (a k)).mul (decodeF bty (b k))).1.add false r).1)
      ((decodeF ty (a 31)).mul (decodeF bty (b 31))).1)).1 := by
  rw [← sumProducts_range (fun k => decodeF ty (a k)) (fun k => decodeF bty (b k))]
  simp [productCell, Function.comp_def]

end

section

variable {s : State} {core : Nat} {c : MxCmd} {here : List (Word × Sum Loc (List Byte))}

/-- The words that MMA and BLK leave, each below 2^32, cell by cell. -/
theorem slotWord_stepMx_product {i j v : Nat} (hf : c.fn = 1 ∨ c.fn = 2) (h : AtHand s c here) (ha : c.ty.width ≤ 32) (hb : c.bty.width ≤ 32)
    (hi : i < 128) (hj : j < 128) (hv : (productCell c.fn c.ty c.bty (c.zc && c.progress = 0)
      ((List.range 32).map (packed c.ty (operandRow s c here i)))
      ((List.range 32).map (fun k => packed c.bty (operandRow s c here (128 + k)) j)) (slotWord s core c.slot i j)).1 = v)
    (hlt : v < 2 ^ 32) : slotWord (s.stepMx core c here) core c.slot i j = v := by
  obtain ⟨hrow, hcol⟩ := product_elems hf h ha hb
  rw [(words_of_writeRows (stepMx_product hf)).2 i j (by omega) hj, Nat.sub_zero, hrow i hi, hcol j hj, hv, Nat.mod_eq_of_lt hlt]

/-- Where MMA starts: with +0 in the first step under ZC, else with the old word. -/
theorem start_eq (w : Nat) : (if c.zc && decide (c.progress = 0) then 0 else w) = if c.zc = true ∧ c.progress = 0 then 0 else w := by
  simp only [Bool.and_eq_true, decide_eq_true_eq]

/-! ## SCA, ZERO, LOAD and XFER -/

theorem stepMx_sca (hf : c.fn = 3) : BytesKept (s.writeRows core c.slot (c.row0 + c.progress) (wordRows (min 8 (c.total - c.progress))
      (fun r j => (scaWord (c.sa.extractLsb' (8 * (c.row0 + c.progress + r)) 8).toNat (c.sb.extractLsb' (8 * j) 8).toNat
        (slotWord s core c.slot (c.row0 + c.progress + r) j) (slotWord s core c.pslot (c.row0 + c.progress + r) j)).1)))
    (s.stepMx core c here) := by
  simp only [State.stepMx, hf, MxCmd.stepRows, slotRows_eq, wordRows, List.zip_map', zipIdx_map_range, List.map_map, Function.comp_def]
  exact bytesKept_orStatus _ _ _ _

theorem stepMx_zero (hf : c.fn = 4) : BytesKept (s.writeRows core c.slot (c.row0 + c.progress)
      (wordRows (min 8 (c.total - c.progress)) (fun _ _ => 0))) (s.stepMx core c here) ∧
    (c.row0 + c.progress + min 8 (c.total - c.progress) = 128 → lookAt 0 ((s.stepMx core c here).core core).slotStat c.slot = 0) := by
  have hrows : List.replicate (min 8 (c.total - c.progress)) (List.replicate 128 0) =
      wordRows (min 8 (c.total - c.progress)) (fun _ _ => 0) := by simp [wordRows, List.map_const']
  simp only [State.stepMx, hf, MxCmd.stepRows, hrows]
  split
  · exact ⟨bytesKept_modCore _ _ (fun _ => rfl), fun _ => by simp⟩
  · next h => exact ⟨BytesKept.refl _, fun h' => absurd h' h⟩

/-- The runs of XFER and LOAD: one for each row of the step. -/
theorem runs_rows (hf : c.fn = 5 ∨ c.fn = 6) : ∃ ra : Nat → Word × Nat, c.runs = (List.range (min 8 (c.total - c.progress))).map ra ∧
    ∀ i, (ra i).2 = 128 * mxEb c.wide c.ty := by
  rcases hf with hf | hf <;> exact ⟨_, by simp only [MxCmd.runs, hf, MxCmd.stepRows]; rfl, fun _ => rfl⟩

/-- What LOAD makes of an element (R205). -/
def loadedWord (c : MxCmd) (bs : List Byte) (j : Nat) : Nat :=
  if c.wide then packed .f32 bs j else (rneF32 (decodeF c.ty (packed c.ty bs j))).1

theorem loadedWord_lt (bs : List Byte) (j : Nat) : loadedWord c bs j < 2 ^ 32 := by
  unfold loadedWord
  split
  · exact Nat.mod_lt _ (by positivity)
  · exact rneF32_lt _

/-- The element sizes of LOAD and XFER. -/
theorem mxEb_cases (h : c.wide = true ∨ c.ty ∈ [Ty.bf16, .f16, .e4m3, .e5m2]) : mxEb c.wide c.ty ∈ [1, 2, 4] ∧
    (c.wide = false → c.ty.width = 8 * mxEb c.wide c.ty) := by
  rcases h with h | h
  · simp [mxEb, h]
  · cases hw : c.wide
    · revert h
      cases c.ty <;> decide
    · simp [mxEb]

theorem stepMx_load (hf : c.fn = 6) (h : AtHand s c here) (hty : c.wide = true ∨ c.ty ∈ [Ty.bf16, .f16, .e4m3, .e5m2]) :
    BytesKept (s.writeRows core c.slot (c.row0 + c.progress) (wordRows (min 8 (c.total - c.progress))
      (fun r j => loadedWord c (operandRow s c here r) j))) (s.stepMx core c here) := by
  obtain ⟨ra, hr, hlen⟩ := runs_rows (.inr hf)
  have hrows : (c.runs.map (runBytes s here)).map (fun bs =>
      if c.wide then rowElems .f32 bs else (rowElems c.ty bs).map (fun x => (rneF32 (decodeF c.ty x)).1)) =
      wordRows (min 8 (c.total - c.progress)) (fun r j => loadedWord c (operandRow s c here r) j) := by
    rw [hr, List.map_map, List.map_map]
    refine List.map_congr_left fun i hi => ?_
    have hrow : runBytes s here (ra i) = operandRow s c here i := by simp [operandRow, hr, List.mem_range.mp hi]
    have hl : (operandRow s c here i).length = 128 * mxEb c.wide c.ty := by
      rw [← hrow, h _ (by rw [hr]; exact List.mem_map_of_mem hi), hlen]
    simp only [Function.comp_apply, hrow, loadedWord]
    by_cases hw : c.wide = true
    · rw [if_pos hw, rowElems_eq (n := 128) (by decide) (by rw [hl, mxEb, if_pos hw]; decide)]
      simp [hw]
    · have hwidth := (mxEb_cases hty).2 (by simpa using hw)
      have hle : c.ty.width ≤ 32 := by
        have := (mxEb_cases hty).1
        simp only [List.mem_cons, List.not_mem_nil, or_false] at this
        omega
      rw [if_neg hw, rowElems_eq (n := 128) hle (by rw [hl, hwidth]; ring), List.map_map]
      simp [hw, Function.comp_def]
  simp only [State.stepMx, hf, hrows, MxCmd.stepRows]
  exact BytesKept.refl _

theorem stepMx_xfer (hf : c.fn = 5) : BytesKept s (s.stepMx core c here) := by
  simp only [State.stepMx, hf]
  exact bytesKept_orStatus _ _ _ _

end

end Sys2Proof.Machine

namespace Sys2Proof

theorem leNat_lt (bs : List Byte) : leNat bs < 256 ^ bs.length := by
  have h := leNat_take bs bs.length
  rw [List.take_length] at h
  rw [h]
  exact Nat.mod_lt _ (by positivity)

/-- In a list without repetitions an element is found where it stands. -/
theorem findIdx_of_nodup {α : Type} [DecidableEq α] {l : List α} {i : Nat} {a : α} (hl : l.Nodup) (h : l[i]? = some a) :
    l.findIdx (fun b => b = a) = i := by
  obtain ⟨hi, rfl⟩ := List.getElem?_eq_some_iff.mp h
  refine (List.findIdx_eq hi).mpr ⟨by simp, fun j hj => ?_⟩
  simpa using fun he => (Nat.ne_of_lt hj) (hl.getElem_inj_iff.mp he)

end Sys2Proof

namespace Sys2Proof.Machine

open Claims

section

variable {s : State} {core : Nat} {c : MxCmd} {here : List (Word × Sum Loc (List Byte))}

theorem slotWord_lt (s : State) (core slot i j : Nat) : slotWord s core slot i j < 2 ^ 32 := by
  have h := leNat_lt (s.poolRead core (slotOff slot + 512 * i + 4 * j) 4)
  rw [State.poolRead, Memory.length_read] at h
  exact h.trans_eq (by norm_num)

/-- What XFER makes of a word (R206). -/
def sentElem (c : MxCmd) (w : Nat) : Nat := if c.wide then w else (roundF c.ty 0 c.sat true 0 (decodeF .f32 w)).1

/-- The element of a word stands in its bytes. -/
theorem sentElem_lt {w : Nat} (hty : c.wide = true ∨ c.ty ∈ [Ty.bf16, .f16, .e4m3, .e5m2]) (hw : w < 2 ^ 32) :
    sentElem c w < 256 ^ mxEb c.wide c.ty := by
  unfold sentElem
  by_cases h : c.wide = true
  · rw [if_pos h, mxEb, if_pos h]
    exact hw.trans_eq (by norm_num)
  · have hfloat : c.ty.isFloat = true := by
      have hmem := hty.resolve_left h
      revert hmem
      cases c.ty <;> decide
    have hwidth := (mxEb_cases hty).2 (by simpa using h)
    rw [if_neg h, show (256 : Nat) = 2 ^ 8 by norm_num, ← pow_mul, ← hwidth]
    exact roundF_lt hfloat _

/-- The bytes of the granule that holds an element of a row hold that element. -/
theorem xferBytes_part {r j : Nat} {g : Word} (hty : c.wide = true ∨ c.ty ∈ [Ty.bf16, .f16, .e4m3, .e5m2])
    (hnodup : (c.runs.flatMap runGranules).Nodup) (hr : r < min 8 (c.total - c.progress)) (hj : j < 128)
    (hg : (c.runs.flatMap runGranules)[r * (8 * mxEb c.wide c.ty) + j * mxEb c.wide c.ty / 16]? = some g) :
    ((s.xferBytes core c g).drop (j * mxEb c.wide c.ty % 16)).take (mxEb c.wide c.ty) =
      leBytes (mxEb c.wide c.ty) (sentElem c (slotWord s core c.slot (c.row0 + c.progress + r) j)) := by
  have hrow : ∀ i, ((List.range 128).flatMap (fun j =>
      leBytes (mxEb c.wide c.ty) (sentElem c (slotWord s core c.slot (c.row0 + c.progress + i) j)))).length = mxEb c.wide c.ty * 128 :=
    fun i => length_flatMap_range (fun _ => length_leBytes _ _) 128
  have hin : j * mxEb c.wide c.ty % 16 + mxEb c.wide c.ty ≤ 16 := by
    have := (mxEb_cases hty).1
    simp only [List.mem_cons, List.not_mem_nil, or_false] at this
    rcases this with h | h | h <;> rw [h] <;> omega
  have hend : mxEb c.wide c.ty * j + mxEb c.wide c.ty ≤ mxEb c.wide c.ty * 128 := by nlinarith
  have hoff : 16 * (r * (8 * mxEb c.wide c.ty) + j * mxEb c.wide c.ty / 16) + j * mxEb c.wide c.ty % 16 =
      mxEb c.wide c.ty * 128 * r + mxEb c.wide c.ty * j := by
    have := Nat.div_add_mod (j * mxEb c.wide c.ty) 16
    nlinarith
  have hbytes : s.xferBytes core c g = (((List.range (min 8 (c.total - c.progress))).flatMap (fun i => (List.range 128).flatMap (fun j =>
      leBytes (mxEb c.wide c.ty) (sentElem c (slotWord s core c.slot (c.row0 + c.progress + i) j))))).drop
      (16 * (r * (8 * mxEb c.wide c.ty) + j * mxEb c.wide c.ty / 16))).take 16 := by
    simp only [State.xferBytes, MxCmd.stepRows, findIdx_of_nodup hnodup hg, slotRows_eq, wordRows, List.flatMap_map]
    rfl
  rw [hbytes, ← part_of_piece _ hin, hoff, part_of_piece _ hend, piece_flatMap_range hrow hr,
    piece_flatMap_range (fun _ => length_leBytes _ _) hj]

end

/-- What one step of each command leaves in a word of its slot. -/
theorem matrixStepValues : MatrixStepValues := by
  intro s core c here u opnd atHand a b prod plus old new first n row0 inStep eb keptBut hrows
  refine ⟨fun hf h => ⟨?keptMma, fun i j hi hj => ⟨fun ha hb => ?half, fun ha hb => ?byte, fun ha hb => ?int⟩⟩,
    fun hf h ha hb => ⟨?keptBlk, fun i j hi hj => ?blk⟩, fun hf => ⟨?keptSca, fun i j hi hj => ?sca⟩,
    fun hf => ⟨?keptZero, fun i j hi hj => ?zero, ?stat⟩, fun hf h hty => ⟨?keptLoad, fun i j hi hj => ?load⟩,
    fun hf hty => ⟨stepMx_xfer hf, fun hnodup i j g hi hj hg => ?xfer⟩⟩
  case keptMma => exact (words_of_writeRows (stepMx_product (.inl hf))).1
  case half =>
    have hty : c.ty.width = 16 ∧ c.ty ≠ .i8 := by revert ha; cases c.ty <;> decide
    refine slotWord_stepMx_product (.inl hf) h (by omega) (by omega) hi hj ?_ (foldl_range_lt (by norm_num) fun _ _ => rneF32_lt _)
    rw [hf, productCell_half hty.1 hty.2, start_eq]
    rfl
  case byte =>
    have hty : c.ty.width = 8 ∧ c.ty ≠ .i8 := by revert ha; cases c.ty <;> decide
    refine slotWord_stepMx_product (.inl hf) h (by omega) (by omega) hi hj ?_ (foldl_range_lt (by norm_num) fun _ _ => rneF32_lt _)
    rw [hf, productCell_byte hty.1 hty.2, start_eq]
    rfl
  case int =>
    refine slotWord_stepMx_product (.inl hf) h (by rw [ha]; decide) (by rw [hb]; decide) hi hj ?_
      (foldl_range_lt (by norm_num) fun _ _ => wrapN_lt 32 _)
    rw [hf, productCell_int ha, start_eq]
    rfl
  case keptBlk => exact (words_of_writeRows (stepMx_product (.inr hf))).1
  case blk =>
    have hle : ∀ ty ∈ [Ty.e2m1, .e4m3, .e5m2], ty.width ≤ 32 := by decide
    refine slotWord_stepMx_product (.inr hf) h (hle _ ha) (hle _ hb) hi hj ?_ (rneF32_lt _)
    rw [hf, productCell_block]
    rfl
  case keptSca => exact (words_of_writeRows (stepMx_sca hf)).1
  case sca =>
    intro sa sb scaled
    refine ((words_of_writeRows (stepMx_sca hf)).2 i j hi hj).trans ?_
    rw [Nat.mod_eq_of_lt (scaWord_lt _ _ _ _), scaWord_fst, Nat.add_sub_cancel' hi.1]
    rfl
  case keptZero => exact (words_of_writeRows (stepMx_zero hf).1).1
  case zero => exact (words_of_writeRows (stepMx_zero hf).1).2 i j hi hj
  case stat => exact (stepMx_zero hf).2
  case keptLoad => exact (words_of_writeRows (stepMx_load hf h hty)).1
  case load =>
    refine ((words_of_writeRows (stepMx_load hf h hty)).2 i j hi hj).trans ?_
    exact Nat.mod_eq_of_lt (loadedWord_lt _ _)
  case xfer =>
    obtain ⟨hlo, hhi⟩ := hi
    have hlt := sentElem_lt hty (slotWord_lt s core c.slot i j)
    have := xferBytes_part (s := s) (core := core) (r := i - row0) hty hnodup (by omega) hj hg
    rw [show c.row0 + c.progress + (i - row0) = i by omega] at this
    change leNat (((s.xferBytes core c g).drop (j * mxEb c.wide c.ty % 16)).take (mxEb c.wide c.ty)) = _
    rw [this, leNat_leBytes, Nat.mod_eq_of_lt hlt]
    rfl

/-! ## What the matrix unit leaves of the other units -/

/-- Threads, contexts, tiles and the clock as before, and each matrix queue as before behind its head. -/
structure EngineFrame (s v : State) : Prop where
  threads : v.threads = s.threads
  ctxs    : v.ctxs = s.ctxs
  tiles   : v.tiles = s.tiles
  clock   : v.clock = s.clock
  queue   : ∀ k m ms, (s.core k).mx = m :: ms → ∃ m', (v.core k).mx = m' :: ms

namespace EngineFrame

variable {s v w : State}

theorem refl (s : State) : EngineFrame s s := ⟨rfl, rfl, rfl, rfl, fun _ m _ h => ⟨m, h⟩⟩

theorem trans (h : EngineFrame s v) (h' : EngineFrame v w) : EngineFrame s w where
  threads := h'.threads.trans h.threads
  ctxs := h'.ctxs.trans h.ctxs
  tiles := h'.tiles.trans h.tiles
  clock := h'.clock.trans h.clock
  queue k m ms hk := by
    obtain ⟨m', hm'⟩ := h.queue k m ms hk
    exact h'.queue k m' ms hm'

/-- Nothing outside threads, contexts, tiles, cores and the clock matters. -/
theorem frame (h : EngineFrame s v) (e : (w.threads, w.ctxs, w.tiles, w.clock, w.cores) = (v.threads, v.ctxs, v.tiles, v.clock, v.cores)) :
    EngineFrame s w := by
  simp only [Prod.mk.injEq] at e
  obtain ⟨ht, hx, htl, hc, hk⟩ := e
  refine h.trans ⟨ht, hx, htl, hc, fun k m ms hm => ⟨m, ?_⟩⟩
  rwa [State.core, hk]

/-- A core that keeps its matrix queue behind the head. -/
theorem modCore {core : Nat} {f : Core → Core} (h : EngineFrame s v)
    (hf : ∀ c m ms, c.mx = m :: ms → ∃ m', (f c).mx = m' :: ms) : EngineFrame s (v.modCore core f) := by
  refine h.trans ⟨rfl, rfl, rfl, rfl, fun k m ms hm => ?_⟩
  rw [State.core_modCore]
  split
  · next hk => subst hk; exact hf _ m ms hm
  · exact ⟨m, hm⟩

theorem modCore_same {core : Nat} {f : Core → Core} (h : EngineFrame s v) (hf : ∀ c, (f c).mx = c.mx) : EngineFrame s (v.modCore core f) :=
  h.modCore fun c m _ hm => ⟨m, (hf c).trans hm⟩

theorem modMx {core : Nat} {f : MxCmd → MxCmd} (h : EngineFrame s v) : EngineFrame s (v.modMx core f) :=
  h.modCore fun c m ms hm => ⟨f m, by simp only [hm]⟩

theorem foldl {β : Type} {f : State → β → State} (h : EngineFrame s v) (hf : ∀ v x, EngineFrame s v → EngineFrame s (f v x)) {l : List β} :
    EngineFrame s (l.foldl f v) := by
  induction l generalizing v with
  | nil => exact h
  | cons x l ih => exact ih (hf v x h)

theorem ite {c : Prop} [Decidable c] {a b : State} (ha : EngineFrame s a) (hb : EngineFrame s b) : EngineFrame s (if c then a else b) := by
  split <;> assumption

/-! ### Finding the granules of a step -/

theorem setStation {n : Nat} {a : Station} (h : EngineFrame s v) : EngineFrame s (v.setStation n a) := h.frame rfl

theorem setChannel {n : Nat} {a : Channel} (h : EngineFrame s v) : EngineFrame s (v.setChannel n a) := h.frame rfl

theorem writePte {addr : Nat} {w : Word} (h : EngineFrame s v) : EngineFrame s (v.writePte addr w) := h.frame rfl

theorem channelServed {who : Option Nat} {pa : Nat} (h : EngineFrame s v) : EngineFrame s (v.channelServed who pa) := h.setChannel

theorem walkAt {asid : Nat} {a : Word} {needR needW update fromRoot : Bool} (h : EngineFrame s v) :
    EngineFrame s (v.walkAt asid a needR needW update fromRoot).1 := by
  unfold State.walkAt
  dsimp only
  split
  · exact h.setStation
  · exact h.setStation
  · split
    · exact h.setStation
    · exact setStation (ite h h.writePte)

theorem translate {asid : Nat} {a : Word} {needR needW : Bool} (h : EngineFrame s v) :
    EngineFrame s (v.translate asid a needR needW).1 := by
  unfold State.translate
  dsimp only
  split
  · split
    · exact h.walkAt
    · split
      · exact h.setStation
      · split
        · exact h.writePte.setStation
        · exact h.walkAt
  · exact h.walkAt

theorem translateFor {who : Option Nat} {asid : Nat} {va : Word} {needR needW : Bool} (h : EngineFrame s v) :
    EngineFrame s (v.translateFor who asid va needR needW).1 :=
  h.translate.foldl fun _ _ h => h.channelServed

theorem placeServed {who : Option Nat} {l : Loc} (h : EngineFrame s v) : EngineFrame s (v.placeServed who l) := by
  cases l with
  | dram pa => exact h.channelServed
  | _ => exact h

theorem engineLoc {core asid : Nat} {va : Word} {write : Bool} (h : EngineFrame s v) :
    EngineFrame s (v.engineLoc core asid va write).1 := by
  unfold State.engineLoc
  split
  · exact h
  · exact h
  · exact h
  · split
    · exact h
    · split
      · exact h
      · have ht := h.translateFor (who := some asid) (asid := asid) (va := va) (needR := !write) (needW := write)
        split
        · next e => rw [e] at ht; exact ht
        · next e =>
          rw [e] at ht
          split
          · exact ht.placeServed
          · exact h
        · next e => rw [e] at ht; exact ht

theorem serve {core off len rank : Nat} (h : EngineFrame s v) : EngineFrame s (v.serve core off len rank) :=
  h.modCore_same fun _ => rfl

theorem locServed {rank : Nat} {l : Loc} (h : EngineFrame s v) : EngineFrame s (v.locServed rank l) := by
  cases l with
  | pool k off => exact h.serve
  | _ => exact h

theorem stage {core asid : Nat} {write : Bool} {staged : List (Word × Option (List Byte))} {gs : List Word} {r : Staging}
    (h : EngineFrame s r.s) : EngineFrame s (Machine.stage core asid write staged gs r).s := by
  induction gs generalizing r with
  | nil => exact h
  | cons g gs ih =>
    unfold Machine.stage
    split
    · exact ih h
    · exact ih h
    · have hl := h.engineLoc (core := core) (asid := asid) (va := g) (write := write)
      split
      · next e => rw [e] at hl; exact ih hl
      · next e =>
        rw [e] at hl
        split
        · exact ih hl.locServed
        · exact h
      · next e => rw [e] at hl; exact hl

/-! ### Doing a step -/

theorem poolWrite {core off : Nat} {bs : List Byte} (h : EngineFrame s v) : EngineFrame s (v.poolWrite core off bs) :=
  h.modCore_same fun _ => rfl

theorem writeLoc {l : Loc} {bs : List Byte} (h : EngineFrame s v) : EngineFrame s (v.writeLoc l bs) := by
  cases l with
  | pool k off => exact h.poolWrite
  | _ => exact h.frame rfl

theorem xferWrite {core : Nat} {c : MxCmd} {g : Word × Loc} (h : EngineFrame s v) : EngineFrame s (v.xferWrite core c g) :=
  h.writeLoc.modMx

theorem writeRows {core slot row : Nat} {rows : List (List Nat)} (h : EngineFrame s v) : EngineFrame s (v.writeRows core slot row rows) :=
  h.poolWrite

theorem orStatus {core slot flags : Nat} (h : EngineFrame s v) : EngineFrame s (v.orStatus core slot flags) :=
  h.modCore_same fun _ => rfl

theorem stepMx {core : Nat} {c : MxCmd} {here : List (Word × Sum Loc (List Byte))} (h : EngineFrame s v) :
    EngineFrame s (v.stepMx core c here) := by
  unfold State.stepMx
  dsimp only
  split
  · exact h.writeRows.orStatus
  · exact h.writeRows.orStatus
  · exact h.writeRows.orStatus
  · split
    · exact h.writeRows.modCore_same fun _ => rfl
    · exact h.writeRows
  · exact h.orStatus
  · exact h.writeRows

theorem halted (h : EngineFrame s v) (asid : Nat) : v.halted asid = s.halted asid := by
  simp only [State.halted, State.ctx, h.ctxs]

theorem thread (h : EngineFrame s v) (t : Nat) : v.thread t = s.thread t := by rw [State.thread, State.thread, h.threads]

end EngineFrame

/-! ## Reading a matrix queue back -/

section

variable {s : State} {core : Nat} {c : MxCmd} {cs : List MxCmd}

/-- A change of a core that keeps its pool keeps every byte of memory. -/
theorem bytesKept_modMx (s : State) (core : Nat) (f : MxCmd → MxCmd) : BytesKept s (s.modMx core f) :=
  bytesKept_modCore s core fun _ => rfl

theorem bytesKept_noteMx (s : State) (core : Nat) (m : MxCmd) (st : MxState) : BytesKept s (s.noteMx core m st) :=
  bytesKept_modCore s core fun k => by dsimp only; split <;> rfl

theorem State.modMx_mx (f : MxCmd → MxCmd) (h : (s.core core).mx = c :: cs) : ((s.modMx core f).core core).mx = f c :: cs := by
  rw [State.modMx, State.core_modCore_self]
  simp only [h]

/-- The newest-command record is no part of the queue. -/
@[simp] theorem State.noteMx_mx (m : MxCmd) (st : MxState) : ((s.noteMx core m st).core core).mx = (s.core core).mx := by
  rw [State.noteMx, State.core_modCore_self]
  dsimp only
  split <;> rfl

/-- The record of a slot's newest command follows it. -/
theorem State.noteMx_newest {m : MxCmd} {st : MxState} (hid : (lookAt MxNewest.none (s.core core).newest m.slot).id = m.id)
    (hst : (lookAt MxNewest.none (s.core core).newest m.slot).state ≠ .none) :
    (lookAt MxNewest.none ((s.noteMx core m st).core core).newest m.slot).state = st := by
  rw [State.noteMx, State.core_modCore_self, if_pos (by simp [hid, hst])]
  simp

/-! ## MXU ACCEPT, RETRY and FINISH -/

theorem does_mxuAccept (hmx : (s.core core).mx = c :: cs) (hq : c.state = .queued)
    (hh : s.halted (s.thread c.tid).launch.asid = false) :
    Does (.mxuAccept core) s (fun u => (u.core core).mx = { c with state := .accepted } :: cs ∧ u.threads = s.threads ∧ BytesKept s u) := by
  have hexec : execMxuAccept core s = .next ((s.modMx core (fun c => { c with state := .accepted })).noteMx core c .accepted) := by
    simp [execMxuAccept, hmx, hq, hh]
  refine ⟨_, hexec, ?_, rfl, (bytesKept_modMx _ _ _).trans (bytesKept_noteMx _ _ _ _)⟩
  rw [State.noteMx_mx, State.modMx_mx _ hmx]

theorem does_mxuRetry (hmx : (s.core core).mx = c :: cs) (ht : c.told = true) (hf : c.fcode = none) (hh : c.house = none) :
    Does (.mxuRetry core) s (fun u => u.threads = s.threads ∧ BytesKept s u ∧
      (u.core core).mx = { c with told := false, faddr := 0, pendOp := [],
                                  staged := if c.fn = 5 then [] else c.staged.filter (fun e => e.2.isSome) } :: cs) := by
  have hexec : execMxuRetry core s = .next (s.modMx core (fun c => { c with
      told := false, faddr := 0, staged := if c.fn = 5 then [] else c.staged.filter (fun e => e.2.isSome), pendOp := [] })) := by
    simp [execMxuRetry, hmx, ht, hf, hh]
  exact ⟨_, hexec, rfl, bytesKept_modMx _ _ _, State.modMx_mx _ hmx⟩

/-- Sending strips and ACKs changes tiles and messages alone. -/
theorem State.pumpFor_eq (n : Nat) (s : State) (tile i : Nat) :
    ∃ ts ss, State.pumpFor n s tile i = { s with tiles := ts, strips := ss } := by
  induction n generalizing s with
  | zero => exact ⟨_, _, rfl⟩
  | succ n ih =>
    unfold State.pumpFor
    split
    · exact ⟨_, _, rfl⟩
    · exact ih _

theorem State.sendAcks_eq (s : State) (tile i : Nat) :
    ∃ ts ms k, s.sendAcks tile i = { s with tiles := ts, chainMsgs := ms, nextId := k } := by
  have hfold : ∀ (l : List (Nat × Nat × Nat)) (e : ChainEntry) (s : State), ∃ ms k,
      l.foldl (fun s m => s.sendChain .ack e tile i (m.2.1 * 8) (some m.2.2)) s = { s with chainMsgs := ms, nextId := k } := by
    intro l e
    induction l with
    | nil => exact fun s => ⟨_, _, rfl⟩
    | cons m l ih => exact fun s => ih _
  unfold State.sendAcks
  dsimp only
  split
  · obtain ⟨ms, k, h⟩ := hfold _ _ s
    rw [h]
    exact ⟨_, _, _, rfl⟩
  · exact ⟨_, _, _, rfl⟩

theorem State.pumpTile_eq (s : State) (tile : Nat) :
    ∃ ts ms ss k, s.pumpTile tile = { s with tiles := ts, chainMsgs := ms, strips := ss, nextId := k } := by
  unfold State.pumpTile
  generalize s.chainsOf tile = l
  induction l generalizing s with
  | nil => exact ⟨_, _, _, _, rfl⟩
  | cons p l ih =>
    obtain ⟨ts, ms, k, h⟩ := s.sendAcks_eq tile p.1
    obtain ⟨ts', ss, h'⟩ := State.pumpFor_eq 33 (s.sendAcks tile p.1) tile p.1
    rw [List.foldl_cons, State.pump, h', h]
    exact ih _

theorem does_mxuFinish (hmx : (s.core core).mx = c :: cs) (hst : c.state = .running) (hp : c.progress = c.total) (hd : c.due ≤ s.clock) :
    Does (.mxuFinish core) s (fun u => (u.core core).mx = cs ∧ u.threads = s.threads ∧ BytesKept s u ∧
      ((lookAt MxNewest.none (s.core core).newest c.slot).id = c.id →
        (lookAt MxNewest.none (s.core core).newest c.slot).state ≠ .none →
        (lookAt MxNewest.none (u.core core).newest c.slot).state = .done)) := by
  set v := s.modCore core (fun k => { k with mx := cs }) with hv
  have hexec : execMxuFinish core s = .next ((v.noteMx core c .done).pumpTile (tileOf core)) := by
    simp [execMxuFinish, hmx, hst, hp, hd, hv]
  have hpool : BytesKept s v := bytesKept_modCore s core (f := fun k => { k with mx := cs }) fun _ => rfl
  have hkept : BytesKept s (v.noteMx core c .done) := hpool.trans (bytesKept_noteMx _ _ _ _)
  have hqueue : ((v.noteMx core c .done).core core).mx = cs := by rw [State.noteMx_mx, hv, State.core_modCore_self]
  have hnewest : (v.core core).newest = (s.core core).newest := by rw [hv, State.core_modCore_self]
  have hdone : (lookAt MxNewest.none (s.core core).newest c.slot).id = c.id →
      (lookAt MxNewest.none (s.core core).newest c.slot).state ≠ .none →
      (lookAt MxNewest.none ((v.noteMx core c .done).core core).newest c.slot).state = .done := by
    rw [← hnewest]
    exact State.noteMx_newest
  have hthreads : (v.noteMx core c .done).threads = s.threads := rfl
  obtain ⟨ts, ms, ss, k, hpump⟩ := (v.noteMx core c .done).pumpTile_eq (tileOf core)
  rw [hpump] at hexec
  exact ⟨_, hexec, hqueue, hthreads, hkept, hdone⟩

/-! ## MXU OPERAND FAULT -/

theorem State.withdraw_of_running {tid : Nat} (h : (s.thread tid).status = .running) : s.withdraw tid = s := by
  simp [State.withdraw, h]

/-- A running thread that replays nothing is told of a fault at once. -/
theorem State.raiseAt_running {tid : Nat} {f : Raised} (hst : (s.thread tid).status = .running) (hr : (s.thread tid).raised = none)
    (ht : (s.thread tid).retrying = none) (hd : s.deferring tid = false) : s.raiseAt tid f =
      s.modThread tid (fun t => { t with status := .faulted, before := if t.status = .asleep then .asleep else .running, raised := some f }) := by
  simp [State.raiseAt, State.modThread, hst, hd, Thread.raiseOn, ht, Thread.faultOn, hr]

theorem does_mxuOperandFault {code : FaultCode} (hmx : (s.core core).mx = c :: cs) (hf : c.fcode = some code) (ht : c.told = false)
    (hc : c.state = .accepted ∨ c.state = .running) (hst : (s.thread c.tid).status = .running) (hr : (s.thread c.tid).raised = none)
    (hre : (s.thread c.tid).retrying = none) (hd : s.deferring c.tid = false) :
    Does (.mxuOperandFault core false) s (fun u => (u.core core).mx = { c with state := .accepted, told := true } :: cs ∧ BytesKept s u ∧
      ThreadsBut s u (· = c.tid) ∧ (u.thread c.tid).status = .faulted ∧
      (u.thread c.tid).raised = some ⟨code, 0, c.faddr, c.pc, .matrix core⟩) := by
  set v := (s.modMx core (fun k => { k with state := .accepted, fcode := some code, faddr := c.faddr, told := true })).noteMx core c .accepted
    with hv
  have hmxv : (v.core core).mx = { c with state := .accepted, told := true } :: cs := by
    rw [hv, State.noteMx_mx, State.modMx_mx _ hmx, ← hf]
  have hstate : ¬ (c.state = .queued ∨ c.state = .discarded) := by rcases hc with h | h <;> simp [h]
  have hexec : execMxuOperandFault core false s = .next ((v.withdraw c.tid).raiseAt c.tid ⟨code, 0, c.faddr, c.pc, .matrix core⟩) := by
    simp [execMxuOperandFault, hmx, hf, ht, hv, not_or.mp hstate]
  rw [State.withdraw_of_running (s := v) hst, State.raiseAt_running (s := v) hst hr hre hd] at hexec
  refine ⟨_, hexec, hmxv, (bytesKept_modMx _ _ _).trans (bytesKept_noteMx _ _ _ _), fun t hne => ?_, ?_, ?_⟩
  · exact State.thread_modThread_ne v _ hne
  · rw [State.thread_modThread_self]
  · rw [State.thread_modThread_self]

end

/-! ## MXU GRANT -/

section

variable {s v w : State} {core : Nat} {c : MxCmd} {cs : List MxCmd}

/-- Where one state is changed and the other only in bytes that are the same, bytes stay the same. -/
theorem bytesKept_writeLoc (h : BytesKept v w) (l : Loc) (bs : List Byte) : BytesKept (v.writeLoc l bs) (w.writeLoc l bs) := by
  obtain ⟨hpool, hdram, hhost⟩ := h
  cases l with
  | pool k off =>
    refine ⟨fun d => ?_, hdram, hhost⟩
    simp only [State.writeLoc, State.poolWrite, State.core_modCore]
    split
    · rw [hpool]
    · exact hpool d
  | dram pa => exact ⟨hpool, by rw [State.writeLoc, State.writeLoc, hdram], hhost⟩
  | host pa => exact ⟨hpool, hdram, by rw [State.writeLoc, State.writeLoc, hhost]⟩
  | remote pkg pa => exact ⟨hpool, hdram, hhost⟩

/-- What XFER writes is a matter of the slot's bytes. -/
theorem xferBytes_of_bytesKept (h : BytesKept v w) (g : Word) : w.xferBytes core c g = v.xferBytes core c g := by
  simp only [State.xferBytes, slotRows_eq, h.slotWord]

/-- The rows that XFER writes, one granule after another. -/
theorem bytesKept_xferWrites (h : BytesKept v w) (gs : List (Word × Loc)) :
    BytesKept (gs.foldl (fun (v : State) g => v.writeLoc g.2 (v.xferBytes core c g.1)) v)
      (gs.foldl (fun (w : State) g => w.xferWrite core c g) w) := by
  induction gs generalizing v w with
  | nil => exact h
  | cons g gs ih =>
    have hstep : BytesKept (v.writeLoc g.2 (v.xferBytes core c g.1)) (w.xferWrite core c g) := by
      rw [State.xferWrite, xferBytes_of_bytesKept h]
      exact (bytesKept_writeLoc h _ _).trans (bytesKept_modMx _ _ _)
    exact ih hstep

/-- The command after a step that begins at the cycle `clock` (R211, R216). -/
def MxCmd.stepped (c : MxCmd) (halted : Bool) (clock : Nat) : MxCmd :=
  { c with progress := c.progress + c.stepSize, staged := [], nums := [], again := false,
           state := if halted = true ∧ c.progress + c.stepSize < c.total then .checkpointed else .running,
           due := clock + c.cost + (if c.fn ≤ 3 then 24 else 0) }

/-- What the end of a step leaves: the command's progress, the unit's turn and credit, and every byte. -/
theorem stepDone_spec {tile credit : Nat} {c' : MxCmd} (h : (s.core core).mx = c' :: cs) :
    ((s.stepDone tile core credit c).core core).mx = c.stepped (s.halted (s.thread c.tid).launch.asid) s.clock :: cs ∧
    (s.stepDone tile core credit c).threads = s.threads ∧
    ((s.stepDone tile core credit c).tile tile).lastCore = core % 8 ∧
    ((s.stepDone tile core credit c).tile tile).busy = s.clock + c.cost ∧
    ((s.stepDone tile core credit c).core core).credit = credit - c.cost ∧ BytesKept s (s.stepDone tile core credit c) := by
  set d := c.stepped (s.halted (s.thread c.tid).launch.asid) s.clock with hd
  set x := ((s.modMx core (fun _ => d)).noteMx core d d.state).modCore core (fun k => { k with credit := credit - c.cost }) with hx
  have hdone : s.stepDone tile core credit c = x.modTile tile (fun t => { t with lastCore := core % 8, busy := s.clock + c.cost }) := by
    simp only [State.stepDone, hx, hd, MxCmd.stepped, Bool.and_eq_true, decide_eq_true_eq]
    rfl
  have hmx : (x.core core).mx = d :: cs := by
    rw [hx, State.core_modCore_self, State.noteMx_mx, State.modMx_mx _ h]
  have hcredit : (x.core core).credit = credit - c.cost := by rw [hx, State.core_modCore_self]
  have hcred : BytesKept ((s.modMx core (fun _ => d)).noteMx core d d.state) x :=
    bytesKept_modCore _ core (f := fun k => { k with credit := credit - c.cost }) fun _ => rfl
  have hkept : BytesKept s x := ((bytesKept_modMx s core _).trans (bytesKept_noteMx _ core d d.state)).trans hcred
  rw [hdone]
  refine ⟨hmx, rfl, ?_, ?_, hcredit, hkept⟩
  · rw [State.tile_modTile_self]
  · rw [State.tile_modTile_self]

/-- A step whose operands are at hand runs. -/
theorem State.grant_runs {tile credit : Nat} (hs : (s.mxStage core c).stop = none) (hm : (s.mxStage core c).missing = []) :
    s.grant tile core credit c =
      ((if c.fn = 5 then (s.mxStage core c).fresh.foldl (fun (w : State) g => w.xferWrite core c g) (s.mxStage core c).s
        else (s.mxStage core c).s).stepMx core c (s.mxStage core c).here).stepDone tile core credit c := by
  simp [State.grant, hs, hm]

/-- Credits that are none already are not taken. -/
theorem foldl_takeCredits {ks : List Nat} (h : ∀ k ∈ ks, s.mxReady k = none → (s.core k).credit = 0) :
    ks.foldl (fun (s : State) k =>
      if (s.mxReady k).isNone && (s.core k).credit != 0 then s.modCore k (fun c => { c with credit := 0 }) else s) s = s := by
  induction ks with
  | nil => rfl
  | cons k ks ih =>
    obtain ⟨hk, hks⟩ := List.forall_mem_cons.mp h
    have hno : ¬ ((s.mxReady k).isNone && (s.core k).credit != 0) = true := by
      rw [Bool.and_eq_true, Option.isNone_iff_eq_none, bne_iff_ne]
      exact fun ⟨h1, h2⟩ => h2 (hk h1)
    rw [List.foldl_cons, if_neg hno]
    exact ih hks

theorem execMxuGrant_eq {tile credit : Nat} (hb : (s.tile tile).busy ≤ s.clock)
    (hcredit : ∀ k ∈ (List.range 8).map (fun k => tile * 8 + k), s.mxReady k = none → (s.core k).credit = 0)
    (hpick : s.mxPick tile (s.mxCands tile) = some (core, c, credit)) :
    execMxuGrant tile s = .next (s.grant tile core credit c) := by
  unfold execMxuGrant
  rw [if_neg (by omega)]
  dsimp only
  rw [foldl_takeCredits hcredit, hpick]

/-- The bytes of rows of zeros. -/
theorem rowBytes_zero (n : Nat) : (wordRows n (fun _ _ => 0)).flatMap (fun r => r.flatMap (leBytes 4)) = List.replicate (512 * n) 0 := by
  have hzero : leBytes 4 0 = [0, 0, 0, 0] := by decide
  refine List.eq_replicate_iff.mpr ⟨length_rowBytes _, fun b hb => ?_⟩
  rw [rowBytes_eq] at hb
  simp only [hzero, List.mem_flatMap, List.mem_cons, List.not_mem_nil, or_false, or_self] at hb
  obtain ⟨_, _, _, _, rfl⟩ := hb
  rfl

/-- A step of ZERO: its rows of the slot are zero, and every other byte is as before. -/
theorem zero_step {here : List (Word × Sum Loc (List Byte))} (hf : c.fn = 4) (h : BytesKept (s.stepMx core c here) v) :
    v.poolRead core (slotOff c.slot + 512 * (c.row0 + c.progress)) (512 * min 8 (c.total - c.progress)) =
      List.replicate (512 * min 8 (c.total - c.progress)) 0 ∧
    BytesKeptBut s v core (slotOff c.slot + 512 * (c.row0 + c.progress)) (512 * min 8 (c.total - c.progress)) := by
  have hkept := (stepMx_zero (s := s) (core := core) (here := here) hf).1.trans h
  refine ⟨?_, (words_of_writeRows hkept).1⟩
  rw [State.poolRead, hkept.1, State.writeRows, State.poolWrite, State.core_modCore_self, rowBytes_zero]
  have := Memory.read_write_same (s.core core).pool (slotOff c.slot + 512 * (c.row0 + c.progress))
    (List.replicate (512 * min 8 (c.total - c.progress)) 0)
  rwa [List.length_replicate] at this

end

/-- The turns of the matrix unit. -/
theorem matrixCommandsWork : MatrixCommandsWork := by
  intro s core c cs hmx asid now head
  refine ⟨fun hq hh => does_mxuAccept hmx hq hh, fun tile credit r hb hcredit hpick hr hstop hmiss => ?_,
    fun hst hp hd => does_mxuFinish hmx hst hp hd, fun code hf ht hc hst hra hre hd => does_mxuOperandFault hmx hf ht hc hst hra hre hd,
    fun ht hf hh => does_mxuRetry hmx ht hf hh⟩
  have hstage : s.mxStage core c = r := hr
  subst hstage
  have hexec := execMxuGrant_eq hb hcredit hpick
  rw [State.grant_runs hstop hmiss] at hexec
  set v := if c.fn = 5 then (s.mxStage core c).fresh.foldl (fun (w : State) g => w.xferWrite core c g) (s.mxStage core c).s
    else (s.mxStage core c).s with hv
  have hframe : EngineFrame s (v.stepMx core c (s.mxStage core c).here) := by
    have hstaged : EngineFrame s (s.mxStage core c).s := (EngineFrame.refl s).stage
    exact (EngineFrame.ite (hstaged.foldl fun _ _ h => h.xferWrite) hstaged).stepMx
  obtain ⟨c', hqueue⟩ := hframe.queue core c cs hmx
  obtain ⟨hmx', hthreads, hlast, hbusy, hcr, hkept⟩ := stepDone_spec (tile := tile) (credit := credit) (c := c) hqueue
  rw [hframe.halted, hframe.thread, hframe.clock] at hmx'
  refine ⟨_, hexec, hmx', hthreads.trans hframe.threads, hlast, hframe.clock ▸ hbusy, hcr, fun hf => ?_, fun hf => ?_, fun hf => ?_⟩
  · rw [hv, if_neg hf] at hkept ⊢
    exact hkept
  · rw [hv, if_pos hf] at hkept ⊢
    exact ((bytesKept_xferWrites (BytesKept.refl _) _).trans (stepMx_xfer hf)).trans hkept
  · have hs : v = s := by
      have hruns : c.runs = [] := by simp only [MxCmd.runs, hf]
      rw [hv, if_neg (by omega), State.mxStage, hruns]
      rfl
    rw [hs] at hkept ⊢
    exact zero_step hf hkept

end Sys2Proof.Machine

namespace Sys2Proof

/-- Settles O51: each step by the rows of words that it writes, each turn of the unit by what its event leaves. -/
theorem matrixUnitWorks : Obligations.MatrixUnitWorks :=
  ⟨Machine.matrixStepValues, Machine.matrixCommandsWork⟩

end Sys2Proof

namespace Sys2Proof

/-! # The words of the instructions (R65 to R89) -/

/-! ## The codes of registers, types, guards and hints -/

/-- Every operand value names no register or the one whose value it is (R70). -/
theorem Reg.code_of_ofCode {c : BitVec 8} {r : Reg} (h : Reg.ofCode c = some r) : r.code = c := by
  have hall : ∀ c : BitVec 8, ∀ r ∈ Reg.ofCode c, r.code = c := by decide +kernel
  exact hall c r h

@[simp] theorem Reg.ofCode_code (r : Reg) : Reg.ofCode r.code = some r := by
  cases r with
  | x n => revert n; decide +kernel
  | v n => revert n; decide +kernel
  | p n => revert n; decide
  | k n => revert n; decide
  | s n => revert n; decide

/-- Every type code but 15 is that of the type it stands for (R74). -/
theorem Ty.code_of_ofCode {c : BitVec 4} {t : Ty} (h : Ty.ofCode c.toNat = some t) : t.code = c := by
  have hall : ∀ c : BitVec 4, ∀ t ∈ Ty.ofCode c.toNat, t.code = c := by decide
  exact hall c t h

@[simp] theorem Ty.ofCode_code (t : Ty) : Ty.ofCode t.code.toNat = some t := by cases t <;> rfl

@[simp] theorem Guard.bits_ofBits (w : BitVec 5) : (Guard.ofBits w).bits = w := by
  revert w
  decide

@[simp] theorem Guard.ofBits_bits (g : Guard) : Guard.ofBits g.bits = g := by
  obtain ⟨idx, isK, neg⟩ := g
  revert idx isK neg
  decide

/-- The hint bits above 2, zero in every instruction, are not part of the hints (R78). -/
theorem Hints.bits_ofBits {w : BitVec 8} (h : w.extractLsb' 3 5 = 0) : (Hints.ofBits w).bits = w := by
  revert w
  decide +kernel

@[simp] theorem Hints.ofBits_bits (h : Hints) : Hints.ofBits h.bits = h := by
  obtain ⟨sw, ka, kb⟩ := h
  revert sw ka kb
  decide

@[simp] theorem Hints.bits_reserved (h : Hints) : h.bits.extractLsb' 3 5 = 0 := by
  obtain ⟨sw, ka, kb⟩ := h
  revert sw ka kb
  decide

/-! ## The opcode map (R89) -/

/-- The table of a class lists its functions in the order of their numbers, from 1 (R87). -/
theorem opcodes_classCtors (maj : Nat) (o : Ops) : (classCtors maj).map (fun c => (c o).opcode) =
    (List.range' 1 (classCtors maj).length).map (fun n => some (maj, n, o)) := by
  fun_cases classCtors maj <;> rfl

/-- What the table builds has the class, the function and the fields that it is built from. -/
theorem opcode_of_buildInstr {maj fn : Nat} {o : Ops} {i : Instr} (h : buildInstr maj fn o = some i) :
    i.opcode = some (maj, fn, o) := by
  unfold buildInstr at h
  split at h
  · cases h
  · next hfn =>
    obtain ⟨c, hc, rfl⟩ := Option.map_eq_some_iff.mp h
    have hlt : fn - 1 < (classCtors maj).length := (List.getElem?_eq_some_iff.mp hc).1
    have hat := congrArg (fun l => l[fn - 1]?) (opcodes_classCtors maj o)
    simp only [List.getElem?_map, hc, List.getElem?_range' hlt, Option.map_some] at hat
    rw [Option.some.inj hat, show 1 + 1 * (fn - 1) = fn by omega]

/-- A class with a function in it is listed. -/
theorem classCtors_of_buildInstr {maj fn : Nat} {o : Ops} {i : Instr} (h : buildInstr maj fn o = some i) :
    (classCtors maj).isEmpty = false := by
  by_contra hempty
  simp only [Bool.not_eq_false, List.isEmpty_iff] at hempty
  simp [buildInstr, hempty] at h

/-- For every row of the table: its numbers fit the fields of the word, and the table builds it back from them. -/
theorem rebuilt (i : Instr) : Laws.Rebuilt.Statement i := by
  intro maj fn o h
  cases i <;> cases h <;> exact ⟨by decide, by decide, rfl, rfl⟩

/-! ## The fields of a word (R65) -/

section

variable (maj fn : Nat) (o : Ops)

theorem encodeFields_maj : (encodeFields maj fn o).extractLsb' 0 7 = BitVec.ofNat 7 maj :=
  BitVec.extractLsb'_append_eq_right

theorem encodeFields_fn : (encodeFields maj fn o).extractLsb' 7 8 = BitVec.ofNat 8 fn := by
  unfold encodeFields
  rw [BitVec.extractLsb'_append_eq_of_le (by decide)]
  exact BitVec.extractLsb'_append_eq_right

theorem encodeFields_ty : (encodeFields maj fn o).extractLsb' 15 4 = o.ty.code := by
  unfold encodeFields
  iterate 2 rw [BitVec.extractLsb'_append_eq_of_le (by decide)]
  exact BitVec.extractLsb'_append_eq_right

theorem encodeFields_d : (encodeFields maj fn o).extractLsb' 19 8 = o.d.code := by
  unfold encodeFields
  iterate 3 rw [BitVec.extractLsb'_append_eq_of_le (by decide)]
  exact BitVec.extractLsb'_append_eq_right

theorem encodeFields_a : (encodeFields maj fn o).extractLsb' 27 8 = o.a.code := by
  unfold encodeFields
  iterate 4 rw [BitVec.extractLsb'_append_eq_of_le (by decide)]
  exact BitVec.extractLsb'_append_eq_right

theorem encodeFields_b : (encodeFields maj fn o).extractLsb' 35 8 = o.b.code := by
  unfold encodeFields
  iterate 5 rw [BitVec.extractLsb'_append_eq_of_le (by decide)]
  exact BitVec.extractLsb'_append_eq_right

theorem encodeFields_g : (encodeFields maj fn o).extractLsb' 43 5 = o.g.bits := by
  unfold encodeFields
  iterate 6 rw [BitVec.extractLsb'_append_eq_of_le (by decide)]
  exact BitVec.extractLsb'_append_eq_right

theorem encodeFields_h : (encodeFields maj fn o).extractLsb' 48 8 = o.h.bits := by
  unfold encodeFields
  iterate 7 rw [BitVec.extractLsb'_append_eq_of_le (by decide)]
  exact BitVec.extractLsb'_append_eq_right

theorem encodeFields_x : (encodeFields maj fn o).extractLsb' 56 40 = o.x := by
  unfold encodeFields
  iterate 7 rw [BitVec.extractLsb'_append_eq_of_le (by decide)]
  exact BitVec.extractLsb'_append_eq_left

/-- The word of fields holds those fields. -/
theorem fieldsOf_encodeFields : fieldsOf (encodeFields maj fn o) = o := by
  simp [fieldsOf, encodeFields_ty, encodeFields_d, encodeFields_a, encodeFields_b, encodeFields_g, encodeFields_h, encodeFields_x]

end

/-- A word is its fields side by side. -/
theorem append_fields (w : BitVec 96) :
    w.extractLsb' 56 40 ++ w.extractLsb' 48 8 ++ w.extractLsb' 43 5 ++ w.extractLsb' 35 8 ++ w.extractLsb' 27 8 ++
      w.extractLsb' 19 8 ++ w.extractLsb' 15 4 ++ w.extractLsb' 7 8 ++ w.extractLsb' 0 7 = w := by
  iterate 8 rw [BitVec.extractLsb'_append_extractLsb'_eq_extractLsb' (by rfl)]
  exact BitVec.extractLsb'_eq_self

/-- The hint bits above 2 as the decoder reads them. -/
theorem extractLsb'_reserved (w : BitVec 96) : w.extractLsb' 51 5 = (w.extractLsb' 48 8).extractLsb' 3 5 := by
  ext j hj
  simp [show 3 + j < 8 by omega, ← Nat.add_assoc]

/-! ## The checks (R450) -/

theorem firstCode_eq_zero_iff {l : List (Nat × Bool)} (h : ∀ p ∈ l, p.1 ≠ 0) :
    firstCode l = 0 ↔ ∀ p ∈ l, p.2 = true := by
  induction l with
  | nil => simp [firstCode]
  | cons p l ih =>
    obtain ⟨hp, hl⟩ := List.forall_mem_cons.mp h
    cases hok : p.2 <;> simp [firstCode, hok, hp, ih hl]

theorem lowerCode_eq_zero_iff {a b : Nat} : lowerCode a b = 0 ↔ a = 0 ∧ b = 0 := by
  unfold lowerCode
  split <;> [skip; split] <;> omega

/-- Nothing is wrong with the raw fields: TY has a type, the operand fields name registers, and H[7:3] is zero. -/
theorem rawFault_eq_zero_iff (w : BitVec 96) : firstCode (rawFault w) = 0 ↔
    (Ty.ofCode (w.extractLsb' 15 4).toNat).isSome ∧ (Reg.ofCode (w.extractLsb' 19 8)).isSome ∧
      (Reg.ofCode (w.extractLsb' 27 8)).isSome ∧ (Reg.ofCode (w.extractLsb' 35 8)).isSome ∧ w.extractLsb' 51 5 = 0 := by
  rw [firstCode_eq_zero_iff (by simp [rawFault])]
  simp [rawFault]

/-- What a word that decodes has passed. -/
theorem decode_eq_ok_iff {w : BitVec 96} {i : Instr} : decode w = .ok i ↔
    buildInstr (w.extractLsb' 0 7).toNat (w.extractLsb' 7 8).toNat (fieldsOf w) = some i ∧ firstCode (rawFault w) = 0 ∧
      fieldFault (w.extractLsb' 0 7).toNat (w.extractLsb' 7 8).toNat (fieldsOf w) = 0 := by
  unfold decode
  dsimp only
  generalize (w.extractLsb' 0 7).toNat = maj, (w.extractLsb' 7 8).toNat = fn
  cases hb : buildInstr maj fn (fieldsOf w) with
  | none => split <;> simp
  | some j =>
    rw [classCtors_of_buildInstr hb, if_neg Bool.false_ne_true]
    dsimp only
    split
    · next h => simp [lowerCode_eq_zero_iff.mp h]
    · next h =>
      simp only [reduceCtorEq, false_iff, not_and]
      exact fun _ hraw hfault => h (lowerCode_eq_zero_iff.mpr ⟨hraw, hfault⟩)

/-! ## Decoding and encoding -/

theorem wellFormed_iff {i : Instr} {maj fn : Nat} {o : Ops} (h : i.opcode = some (maj, fn, o)) :
    WellFormed i = true ↔ fieldFault maj fn o = 0 := by
  simp [WellFormed, h]

theorem encode_of_opcode {i : Instr} {maj fn : Nat} {o : Ops} (h : i.opcode = some (maj, fn, o)) :
    encode i = some (encodeFields maj fn o) := by
  simp [encode, h]

/-- The raw fields of a word that was laid out name what they were laid out from. -/
theorem rawFault_encodeFields (maj fn : Nat) (o : Ops) : firstCode (rawFault (encodeFields maj fn o)) = 0 := by
  rw [rawFault_eq_zero_iff, extractLsb'_reserved]
  simp [encodeFields_ty, encodeFields_d, encodeFields_a, encodeFields_b, encodeFields_h]

/-- The word of a well-formed instruction decodes to it. -/
theorem decode_encodeFields {i : Instr} {maj fn : Nat} {o : Ops} (h : i.opcode = some (maj, fn, o)) (hwf : WellFormed i = true) :
    decode (encodeFields maj fn o) = .ok i := by
  obtain ⟨hmaj, hfn, -, hbuild⟩ := rebuilt i maj fn o h
  have hm : ((encodeFields maj fn o).extractLsb' 0 7).toNat = maj := by
    rw [encodeFields_maj, BitVec.toNat_ofNat, Nat.mod_eq_of_lt hmaj]
  have hf : ((encodeFields maj fn o).extractLsb' 7 8).toNat = fn := by
    rw [encodeFields_fn, BitVec.toNat_ofNat, Nat.mod_eq_of_lt hfn]
  rw [decode_eq_ok_iff, hm, hf, fieldsOf_encodeFields]
  exact ⟨hbuild, rawFault_encodeFields maj fn o, (wellFormed_iff h).mp hwf⟩

/-- A word with nothing wrong in its raw fields is laid out again from what they name. -/
theorem encodeFields_fieldsOf {w : BitVec 96} (h : firstCode (rawFault w) = 0) :
    encodeFields (w.extractLsb' 0 7).toNat (w.extractLsb' 7 8).toNat (fieldsOf w) = w := by
  obtain ⟨hty, hd, ha, hb, hh⟩ := (rawFault_eq_zero_iff w).mp h
  rw [extractLsb'_reserved] at hh
  obtain ⟨ty, hty⟩ := Option.isSome_iff_exists.mp hty
  obtain ⟨d, hd⟩ := Option.isSome_iff_exists.mp hd
  obtain ⟨a, ha⟩ := Option.isSome_iff_exists.mp ha
  obtain ⟨b, hb⟩ := Option.isSome_iff_exists.mp hb
  unfold encodeFields fieldsOf
  simp only [hty, hd, ha, hb, Option.getD_some, Ty.code_of_ofCode hty, Reg.code_of_ofCode hd, Reg.code_of_ofCode ha,
    Reg.code_of_ofCode hb, Guard.bits_ofBits, Hints.bits_ofBits hh, BitVec.ofNat_toNat, BitVec.setWidth_eq]
  exact append_fields w

/-- A word that decodes is the word of its instruction, which is well-formed. -/
theorem encode_of_decode {w : BitVec 96} {i : Instr} (h : decode w = .ok i) : WellFormed i = true ∧ encode i = some w := by
  obtain ⟨hbuild, hraw, hfault⟩ := decode_eq_ok_iff.mp h
  have hop := opcode_of_buildInstr hbuild
  exact ⟨(wellFormed_iff hop).mpr hfault, by rw [encode_of_opcode hop, encodeFields_fieldsOf hraw]⟩

/-! ## The bytes of a word -/

/-- The bytes of a word from byte `n` on, read as a word, are its bits from there. -/
theorem bytesWord_bytesFrom (w : BitVec 96) (k n : Nat) :
    bytesWord ((List.range' n k).map (fun n => w.extractLsb' (8 * n) 8)) = (w.extractLsb' (8 * n) (8 * k)).setWidth 96 := by
  induction k generalizing n with
  | zero => simp [bytesWord]
  | succ k ih =>
    have hcons : bytesWord ((List.range' n (k + 1)).map (fun n => w.extractLsb' (8 * n) 8)) =
        (bytesWord ((List.range' (n + 1) k).map (fun n => w.extractLsb' (8 * n) 8)) <<< 8) |||
          (w.extractLsb' (8 * n) 8).setWidth 96 := rfl
    rw [hcons, ih]
    ext j hj
    simp only [BitVec.getElem_or, BitVec.getElem_shiftLeft, BitVec.getElem_setWidth, BitVec.getLsbD_extractLsb']
    by_cases h8 : j < 8
    · simp [h8, show j < 8 * (k + 1) by omega]
    · have hk : j - 8 < 8 * k ↔ j < 8 * (k + 1) := by omega
      simp [h8, hk, show 8 * (n + 1) + (j - 8) = 8 * n + j by omega]

theorem bytesWord_wordBytes (w : BitVec 96) : bytesWord (wordBytes w) = w := by
  rw [wordBytes, List.range_eq_range', bytesWord_bytesFrom w 12 0]
  exact BitVec.extractLsb'_eq_self

/-- Settles O3: the fields are laid out and read back one by one, and the checks of the decoder are those of `WellFormed`. -/
theorem encodeDecodeAgree : Obligations.EncodeDecodeAgree := by
  refine ⟨fun i hi hwf => ?_, fun w i h => encode_of_decode h, fun w => ⟨rfl, bytesWord_wordBytes w⟩⟩
  obtain ⟨⟨maj, fn, o⟩, hop⟩ := Option.isSome_iff_exists.mp hi
  exact ⟨encodeFields maj fn o, encode_of_opcode hop, decode_encodeFields hop hwf⟩

/-! ## Known words -/

/-- Settles O1: each word is closed, and the decoder runs on it. -/
theorem knownWordsDecode : Obligations.KnownWordsDecode := by
  unfold Obligations.KnownWordsDecode
  decide +kernel

end Sys2Proof

namespace Sys2Proof

/-! # Registers and their numbers (R70) -/

/-! ## Which register a value names -/

theorem Reg.ofCode_eq (c : BitVec 8) : Reg.ofCode c =
    (if c.toNat ≤ 127 then some (.x (BitVec.ofNat 7 c.toNat))
     else if c.toNat ≤ 191 then some (.v (BitVec.ofNat 6 (c.toNat - 128)))
     else if c.toNat ≤ 199 then some (.p (BitVec.ofNat 3 (c.toNat - 192)))
     else if c.toNat ≤ 207 then some (.k (BitVec.ofNat 3 (c.toNat - 200)))
     else if c.toNat ≤ 215 then some (.s (BitVec.ofNat 3 (c.toNat - 208)))
     else none) := by
  revert c
  decide +kernel

/-! ## What a register reads after a write -/

/-- A write to a register of a file whose register `z` always reads as `c`. -/
theorem ite_hardwired {α β : Type} [DecidableEq β] {z m n : β} {c w r : α} (h : m = z → r = c) :
    (if m = n ∧ n ≠ z then w else r) = if m = z then c else if m = n then w else r := by
  by_cases hz : m = z
  · rw [if_pos hz, if_neg (fun hn => hn.2 (hn.1 ▸ hz)), h hz]
  · rw [if_neg hz]
    exact if_congr ⟨And.left, fun hn => ⟨hn, hn ▸ hz⟩⟩ rfl rfl

namespace Machine

variable (t : Thread)

theorem Thread.getX_wx (n m : BitVec 7) (w : Word) :
    (t.wx (.x n) w).getX m = if m = 0 then 0 else if m = n then w else t.getX m :=
  (t.getX_setX n m w).trans (ite_hardwired fun h => h ▸ t.getX_zero)

theorem Thread.getP_wp (n m : BitVec 3) (b : Bool) :
    (t.wp (.p n) b).getP m = if m = 0 then true else if m = n then b else t.getP m :=
  (t.getP_setP n m b).trans (ite_hardwired fun h => h ▸ t.getP_zero)

theorem Thread.getK_wk (n m : BitVec 3) (w : BitVec 16) :
    (t.wk (.k n) w).getK m = if m = 0 then 0xFFFF else if m = n then w else t.getK m :=
  (t.getK_setK n m w).trans (ite_hardwired fun h => h ▸ t.getK_zero)

end Machine

/-! ## The operands of a word that decodes -/

/-- A word that decodes holds the fields of its instruction, which pass every check. -/
theorem opcode_of_decode {w : BitVec 96} {i : Instr} {maj fn : Nat} {o : Ops} (h : decode w = .ok i)
    (hop : i.opcode = some (maj, fn, o)) : o = fieldsOf w ∧ fieldFault maj fn o = 0 := by
  obtain ⟨hbuild, -, hfault⟩ := decode_eq_ok_iff.mp h
  rw [opcode_of_buildInstr hbuild] at hop
  cases hop
  exact ⟨rfl, hfault⟩

theorem cFits_of_fieldFault {maj fn : Nat} {o : Ops} (h : fieldFault maj fn o = 0) : cFits (shapeOf maj fn o) o = true := by
  have hall := (firstCode_eq_zero_iff (by simp)).mp h
  simp only [List.forall_mem_cons] at hall
  obtain ⟨-, -, -, -, -, -, hc, -⟩ := hall
  exact hc

/-- Where a function takes a C operand, its byte names a register (R67, R71). -/
theorem Ops.ofCode_c {maj fn : Nat} {o : Ops} (h : fieldFault maj fn o = 0) (hc : (shapeOf maj fn o).c ≠ none) :
    Reg.ofCode (o.x.extractLsb' 0 8) = some o.c := by
  have hfits := cFits_of_fieldFault h
  unfold cFits at hfits
  split at hfits
  · next hn => exact absurd hn hc
  · simp only [Bool.and_eq_true] at hfits
    obtain ⟨r, hr⟩ := Option.isSome_iff_exists.mp hfits.1.1
    rw [Ops.c, hr, Option.getD_some]

/-- D, A and B of a word that decodes name the registers of its instruction. -/
theorem ofCode_of_decode {w : BitVec 96} {i : Instr} (h : decode w = .ok i) :
    Reg.ofCode (w.extractLsb' 19 8) = some (fieldsOf w).d ∧ Reg.ofCode (w.extractLsb' 27 8) = some (fieldsOf w).a ∧
      Reg.ofCode (w.extractLsb' 35 8) = some (fieldsOf w).b := by
  obtain ⟨-, hraw, -⟩ := decode_eq_ok_iff.mp h
  obtain ⟨-, hd, ha, hb, -⟩ := (rawFault_eq_zero_iff w).mp hraw
  have hnames : ∀ c : BitVec 8, (Reg.ofCode c).isSome → Reg.ofCode c = some ((Reg.ofCode c).getD (.x 0)) := fun c hc =>
    (Option.eq_some_of_isSome hc).trans (congrArg some (Option.get_eq_getD ..))
  exact ⟨hnames _ hd, hnames _ ha, hnames _ hb⟩

theorem fieldsOf_x_c (w : BitVec 96) : (fieldsOf w).x.extractLsb' 0 8 = w.extractLsb' 56 8 := by
  ext j hj
  simp [fieldsOf, show j < 40 by omega]

/-- Settles O9: the numbers value by value, the files by their read-after-write lemmas, the operands by the decoder's checks. -/
theorem registersAndTheirNumbers : Obligations.RegistersAndTheirNumbers := by
  refine ⟨Reg.ofCode_eq, fun t => ⟨t.getX_wx, t.getV_setV, t.getP_wp, t.getK_wk, t.getS_setS⟩, fun w i maj fn o h hop => ?_⟩
  obtain ⟨rfl, hfault⟩ := opcode_of_decode h hop
  obtain ⟨hd, ha, hb⟩ := ofCode_of_decode h
  exact ⟨hd, ha, hb, fun hc => fieldsOf_x_c w ▸ Ops.ofCode_c hfault hc⟩

end Sys2Proof

namespace Sys2Proof.Machine

/-! # One step runs one instruction, one event or one cycle -/

section

variable {s u : State} {tid core : Nat}

/-! ## The counts of the slots that do not issue (R313) -/

/-- Only threads differ, and of the thread of slot `tid` the count of the cycles in which it was passed over. -/
structure Recounted (s u : State) (tid : Nat) : Prop where
  rest : Claims.OnlyThreads s u
  thread : ∃ n, u.thread tid = { s.thread tid with count := n }

theorem Recounted.refl (s : State) (tid : Nat) : Recounted s s tid := ⟨rfl, _, rfl⟩

theorem Recounted.zeroCount {x : Nat} (h : Recounted s u tid) :
    Recounted s (u.modThread x (fun t => { t with count := 0 })) tid := by
  obtain ⟨n, hn⟩ := h.thread
  refine ⟨h.rest, ?_⟩
  by_cases hx : tid = x
  · exact ⟨0, by rw [← hx, State.thread_modThread_self, hn]⟩
  · exact ⟨n, by rw [State.thread_modThread_ne _ _ hx, hn]⟩

theorem Recounted.modThread_ne {x : Nat} {f : Thread → Thread} (h : Recounted s u tid) (hx : tid ≠ x) :
    Recounted s (u.modThread x f) tid := by
  obtain ⟨n, hn⟩ := h.thread
  exact ⟨h.rest, n, by rw [State.thread_modThread_ne _ _ hx, hn]⟩

theorem Recounted.foldl {f : State → Nat → State} (hf : ∀ u x, Recounted s u tid → Recounted s (f u x) tid) (l : List Nat) :
    ∀ u, Recounted s u tid → Recounted s (l.foldl f u) tid := by
  induction l with
  | nil => exact fun _ h => h
  | cons x l ih => exact fun u h => ih _ (hf u x h)

theorem Recounted.noneOver (keep : List Nat) : Recounted s (s.noneOver core keep) tid := by
  refine Recounted.foldl (fun u x h => ?_) _ _ (Recounted.refl s tid)
  split
  · exact h
  · exact h.zeroCount

theorem Recounted.passOver (live : List Nat) : Recounted s (s.passOver core live tid) tid := by
  refine Recounted.foldl (fun u x h => ?_) _ _ (Recounted.refl s tid)
  split
  · exact h
  · next hx =>
    split
    · exact h.modThread_ne (Ne.symm hx)
    · split
      · exact h
      · exact h.zeroCount

theorem Recounted.validTarget (h : Recounted s u tid) (pc : Word) : u.validTarget tid pc = s.validTarget tid pc := by
  obtain ⟨n, hn⟩ := h.thread
  have hl : u.launches = s.launches := by
    have hrest := congrArg State.launches h.rest
    exact hrest
  simp only [State.validTarget, State.imageOf, State.findLaunch, hn, hl]

/-! ## A slot's turn -/

/-- A thread to which nothing has been reported, with budget left and no fetch held or refused. -/
structure Undisturbed (t : Thread) : Prop where
  reports : t.reports = []
  fetchBad : t.fetchBad = none
  budget : t.budget ≠ some 0
  fetchHold : t.fetchHold = none

theorem Recounted.undisturbed (h : Recounted s u tid) (ht : Undisturbed (s.thread tid)) : Undisturbed (u.thread tid) := by
  obtain ⟨n, hn⟩ := h.thread
  rw [hn]
  exact ⟨ht.reports, ht.fetchBad, ht.budget, ht.fetchHold⟩

theorem Recounted.pc (h : Recounted s u tid) : (u.thread tid).pc = (s.thread tid).pc := by
  obtain ⟨n, hn⟩ := h.thread
  rw [hn]

/-- An undisturbed thread at a PC outside its code section (R83). -/
theorem State.issueThread_outside (ht : Undisturbed (s.thread tid)) (hv : s.validTarget tid (s.thread tid).pc = false) :
    s.issueThread tid = .next (s.raiseHere tid .pcalign 0 (s.thread tid).pc) := by
  simp [State.issueThread, ht.reports, ht.fetchBad, ht.budget, ht.fetchHold, hv]

/-- An undisturbed thread whose instruction has been fetched (R82, R86). -/
theorem State.issueThread_fetched {bs : List Byte} (ht : Undisturbed (s.thread tid))
    (hv : s.validTarget tid (s.thread tid).pc = true) (hf : State.fetchWords tid 3 (s.thread tid).pc s = (u, .bytes bs)) :
    s.issueThread tid = (u.fetchDone tid).runWord tid (bytesWord bs) := by
  simp [State.issueThread, ht.reports, ht.fetchBad, ht.budget, ht.fetchHold, hv, hf]

theorem State.runWord_ok {w : BitVec 96} {i : Instr} (h : decode w = .ok i) : s.runWord tid w = exec i { s with me := tid } := by
  simp [State.runWord, h]

theorem State.runWord_error {w : BitVec 96} {f : Nat} (h : decode w = .error f) :
    s.runWord tid w = .next (s.raiseHere tid .illegal f 0) := by
  simp [State.runWord, h]

/-- A core's turn where one slot may issue, or the choice among several falls on slot `tid` (R313). -/
theorem State.issueCore_turn (h : (slotsOf core).filter s.mayIssue = [tid] ∧
      u = s.noneOver core (((slotsOf core).filter s.mayIssue).filter s.awaitsCode) ∨
    2 ≤ ((slotsOf core).filter s.mayIssue).length ∧ s.choice (((slotsOf core).filter s.mayIssue).filter s.ready) = some tid ∧
      u = s.passOver core (((slotsOf core).filter s.mayIssue).filter s.eligible) tid) :
    s.issueCore core = u.issueThread tid ∧ Recounted s u tid := by
  obtain ⟨hone, rfl⟩ | ⟨hmany, hchoice, rfl⟩ := h
  · exact ⟨by simp [State.issueCore, hone], Recounted.noneOver _⟩
  · refine ⟨?_, Recounted.passOver _⟩
    unfold State.issueCore
    split
    · next hm => simp [hm] at hmany
    · next hm => simp [hm] at hmany
    · rw [hchoice]

/-! ## A cycle -/

theorem State.goOn_idle (h : s.firstDue s.candidates = none) : s.goOn = .next s.tick := by
  simp [State.goOn, h]

/-- A slot that may issue is listed among the threads: a vacant one may not. -/
theorem State.mem_issuing (h : s.mayIssue tid = true) : coreOf tid ∈ s.issuing := by
  have hv : s.thread tid ≠ Thread.vacant := by
    rintro hv
    simp [State.mayIssue, hv, Thread.vacant] at h
  simp only [State.issuing, List.mem_eraseDups, List.mem_map, List.mem_filter]
  exact ⟨_, ⟨mem_of_lookAt_ne hv, h⟩, rfl⟩

/-- The last thing of a cycle is to put the next turns and the cycle's work on the agenda. -/
theorem State.tick_eq (s : State) :
    ∃ v : State, s.tick = { v with agenda := v.issuing.map Action.issue ++ v.cycleWork ++ v.agenda } := ⟨_, rfl⟩

/-- After a cycle every core with a slot that may issue has its turn. -/
theorem State.issue_mem_tick (h : s.tick.mayIssue tid = true) : .issue (coreOf tid) ∈ s.tick.agenda := by
  obtain ⟨v, hv⟩ := s.tick_eq
  rw [hv] at h ⊢
  have hmem : coreOf tid ∈ v.issuing := State.mem_issuing h
  simp [hmem]

end

end Sys2Proof.Machine

namespace Sys2Proof

open Machine

/-- Settles O2: a slot's turn leaves of its thread all but the count of R313, and the rest is fetched and decoded as it stands. -/
theorem stepRunsDecoded : Obligations.StepRunsDecoded := by
  intro s
  refine ⟨fun core rest tid over' t u bs hag hturn ht hrep hbad hbud hhold => ?_, fun hag hdue => ?_, fun i rest hag => ?_⟩
  · have hund : Undisturbed (s.thread tid) := ht ▸ ⟨hrep, hbad, hbud, hhold⟩
    obtain ⟨hcore, hover⟩ := State.issueCore_turn (s := { s with agenda := rest }) hturn
    have hstep : step s = over'.issueThread tid := by
      rw [← hcore, step, hag]
      rfl
    have hpc : (over'.thread tid).pc = t.pc := hover.pc.trans (congrArg Thread.pc ht)
    have hvalid : over'.validTarget tid t.pc = s.validTarget tid t.pc := hover.validTarget t.pc
    refine ⟨fun hv => ?_, fun hv hf => ?_⟩
    · rw [hstep, State.issueThread_outside (hover.undisturbed hund) (by rw [hpc, hvalid, hv]), hpc]
    · rw [hstep, State.issueThread_fetched (hover.undisturbed hund) (by rw [hpc, hvalid, hv]) (hpc.symm ▸ hf)]
      exact ⟨fun i hi => State.runWord_ok hi, fun f hf => State.runWord_error hf⟩
  · rw [step, hag]
    exact ⟨State.goOn_idle hdue, fun tid h => State.issue_mem_tick h⟩
  · rw [step, hag]
    rfl

end Sys2Proof

namespace Sys2Proof.Claims

open Machine

/-! # The issue stage (R72 to R86) -/

section

variable {maj fn : Nat} {o : Ops} {s : State}

/-! ## What the checks find -/

/-- The checks of the issue stage for the registers of an instruction, named or not, and for whether it is a marker of itself. -/
abbrev checked (maj fn : Nat) (o : Ops) (s : State) : IssueCheck :=
  issueCheck maj fn o (extraRegs maj fn o) (alwaysMarker maj fn) s

/-- A register outside the allotment (R72). -/
theorem checked_outside {p : Nat × Reg} (h : (regsOf maj fn o).find? (fun p => s.cur.outside p.2) = some p) :
    checked maj fn o s = .fault .regrange p.1 := by
  rw [regsOf] at h
  simp only [issueCheck, h]

/-- A pending register of an instruction that is no marker (R80). -/
theorem checked_pending (hin : ∀ p ∈ regsOf maj fn o, s.cur.outside p.2 = false) (hm : isMarker maj fn o = false) {p : Nat × Reg}
    (h : (regsOf maj fn o).find? (fun p => s.cur.pending p.2) = some p) :
    checked maj fn o s = .fault .hazard p.1 := by
  have hin' : (regsOf maj fn o).find? (fun p => s.cur.outside p.2) = none := by simpa [List.find?_eq_none] using hin
  rw [isMarker] at hm
  rw [regsOf] at h hin'
  simp only [issueCheck, hin', hm, Bool.false_eq_true, if_false, h]

section

variable (hin : ∀ p ∈ regsOf maj fn o, s.cur.outside p.2 = false)
  (hset : isMarker maj fn o = true ∨ ∀ p ∈ regsOf maj fn o, s.cur.pending p.2 = false)

include hin hset

/-- What is left to check of an instruction whose registers are inside the allotment, none of them pending but of a marker. -/
theorem checked_settled : checked maj fn o s =
    if (regsOf maj fn o).any (fun p => (s.busyRegs s.me).contains p.2) then .stall
    else match (if isMarker maj fn o then s.markerCheck s.me else .go) with
      | .wait b => .wait b
      | .fault f => .result f
      | .go => if s.cur.guardOn o.g then .go else .skip := by
  have hin' : (regsOf maj fn o).find? (fun p => s.cur.outside p.2) = none := by simpa [List.find?_eq_none] using hin
  have hset' : (if isMarker maj fn o then none else (regsOf maj fn o).find? (fun p => s.cur.pending p.2)) = none := by
    rcases hset with hm | hp
    · rw [if_pos hm]
    · split
      · rfl
      · simpa [List.find?_eq_none] using hp
  rw [isMarker] at hset' ⊢
  rw [regsOf] at hin' hset' ⊢
  simp only [issueCheck, hin', hset'] <;> rfl

/-- A register whose fixed-latency result is under way (R79). -/
theorem checked_busy (h : ¬ ∀ p ∈ regsOf maj fn o, (s.busyRegs s.me).contains p.2 = false) :
    checked maj fn o s = .stall := by
  rw [checked_settled hin hset, if_pos]
  simpa using h

variable (hw : ∀ p ∈ regsOf maj fn o, (s.busyRegs s.me).contains p.2 = false)

include hw

/-- A false guard, with no result outstanding that the instruction would wait for (R76). -/
theorem checked_guarded (hm : isMarker maj fn o = false ∨ s.outstanding s.me = []) (hg : s.cur.guardOn o.g = false) :
    checked maj fn o s = .skip := by
  have hmark : (if isMarker maj fn o then s.markerCheck s.me else .go) = .go := by
    rcases hm with hm | ho
    · simp [hm]
    · simp [State.markerCheck, ho]
  rw [checked_settled hin hset, if_neg (by simpa using hw), hmark]
  simp [hg]

omit hset in
/-- A marker while a result of its thread is outstanding that nothing has refused (R79). -/
theorem checked_waits (hm : isMarker maj fn o = true)
    (h : ∃ a ∈ s.outstanding s.me, (s.stuck s.me).contains a.id = false) :
    checked maj fn o s = .wait ((s.outstanding s.me).any Access.inTable) := by
  obtain ⟨a, ha, hfree⟩ := h
  have hall : (s.outstanding s.me).all (fun a => (s.stuck s.me).contains a.id) = false := by
    rw [List.all_eq_false]
    exact ⟨a, ha, by simpa using hfree⟩
  have hmark : s.markerCheck s.me = .wait ((s.outstanding s.me).any Access.inTable) := by
    unfold State.markerCheck
    dsimp only
    split
    · next hnil => simp [hnil] at ha
    · rw [hall, if_neg Bool.false_ne_true]
  rw [checked_settled hin (.inl hm), if_neg (by simpa using hw), if_pos hm, hmark]

end

/-! ## Every instruction goes through it -/

/-- The issue stage: what an instruction meets there, or else its own effect. -/
def throughIssue (maj fn : Nat) (o : Ops) (s : State) (act : Out) : Out :=
  match checked maj fn o s with
  | .fault code f => .next (s.raise code f 0)
  | .stall => .next s
  | .wait b => .next (s.await (if b then .blocked else .parked) .results)
  | .result f => .next (s.modCur (fun t => t.faultOn f))
  | .skip => .next (s.clearPending (isMarker maj fn o)).finish
  | .go => act

theorem issue_eq_stage {extra : List Reg} {marker : Bool} {body : State → State} (hx : extra = extraRegs maj fn o)
    (hm : marker = alwaysMarker maj fn) : ∃ act, issue maj fn o extra marker s body = throughIssue maj fn o s act := by
  subst hx hm
  exact ⟨.next (body (s.clearPending (isMarker maj fn o))), rfl⟩

theorem issueLate_eq_stage {body : State → State} (hx : extraRegs maj fn o = []) (hm : alwaysMarker maj fn = false) :
    ∃ act, issueLate maj fn o s body = throughIssue maj fn o s act := by
  refine ⟨.next (body s), ?_⟩
  rw [throughIssue, checked, isMarker, hx, hm, Bool.false_or]
  rfl

/-- Every instruction goes through the issue stage before its own effect (R86), with the registers that it names and is
said to read or write without naming them, and as the marker that it is said to be. -/
theorem exec_eq_stage {i : Instr} (h : i.opcode = some (maj, fn, o)) (s : State) :
    ∃ act, exec i s = throughIssue maj fn o s act := by
  cases i <;> cases h
  all_goals dsimp only [
    exec, issueReg, execIntAdd, intBin, execIntSub, execIntMul, execIntMulh, execIntDiv, execIntRem, execIntMin, execIntMax,
    execIntAbs, intUn, execIntAnd, execIntOr, execIntXor, execIntAndn, execIntShl, execIntShr, execIntRot, execIntClz,
    execIntCtz, execIntPopc, execIntMov, execIntSel, execIntiAddi, intiBin, execIntiMuli, execIntiAndi, execIntiOri,
    execIntiXori, execIntiShli, execIntiShri, execIntiRoti, execIntiMovi, execIntiMovhi, execIntiLea, execCmpEq, cmpOp,
    execCmpNe, execCmpLt, execCmpLe, execCmpGt, execCmpGe, execCmpUnord, execPrdAnd, prdBin, execPrdOr, execPrdXor,
    execPrdAndn, execPrdNot, execPrdSet, execPrdPack, execPrdUnpack, execPrdKpack, execPrdKunpack, execCtlBra, execCtlJmp,
    execCtlCall, execCtlCallr, execCtlRet, execCtlLoop, execCtlNop, execCtlEnter, execCtlLeave, execSysGet, execSysSet,
    execSysTrap, execSysBreak, execSysPerf, execFltAdd, fltOp, execFltSub, execFltMul, execFltFma, execFltDiv, execFltSqrt,
    execFltMin, fltPick, execFltMax, execFltAbs, execFltNeg, execFltCvt, execLdDisp, plainLoad, execLdIdx, execLdFe,
    execLdAcq, execLdProbe, execStDisp, plainStore, execStIdx, execStFe, execStRel, execStClr, execAtmAdd, atomicOp,
    execAtmAnd, execAtmOr, execAtmXor, execAtmMin, execAtmMax, execAtmXchg, execAtmCas, execAtmFadd, execFncFence,
    execFncDrain, execCpyGo1, execCpyGo2, descOp, execCpyGather, execCpyScatter, execCpyFill, execCpyJoin, execCpyWait,
    execVecAdd, vecArith, vecOp, execVecSub, execVecMul, execVecFma, execVecFms, execVecMin, vecPick, execVecMax, execVecAbs,
    execVecNeg, execVecAnd, vecBits, execVecOr, execVecXor, execVecShl, execVecShr, execVecMov, execVecBcast, execVecSel,
    execVecAdds, execVecSubs, execVcvCvt, execVcvPack, execVcvUnpack, execVcvQnt, execVcvScale, execVsfExp2, vsfOp,
    execVsfLog2, execVsfRcp, execVsfRsqrt, execVsfSqrt, execVpmPerm, execVpmRot, execVpmRed, combOp, execVpmScan,
    execVpmExtr, execVpmIns, execVpmIota, execVlsLd, vlsLoad, execVlsSt, vlsStore, execVlsLds, execVlsSts, execVlsLdg,
    execVlsLdfe, execVlsStfe, execVcmpEq, vcmpOp, execVcmpNe, execVcmpLt, execVcmpLe, execVcmpGt, execVcmpGe, execVcmpUnord,
    execMxuMma, productOp, execMxuBlk, execMxuSca, execMxuZero, execMxuXfer, moveOp, execMxuLoad, execMxuWait, execMxuProg,
    execSclLd, execSclMov, execSclClr, execCuePost, postOp, execCuePostb, execCueSelf, execCueTimer, execCueEnd, execCueNow,
    execCueTag, execCueInfo, execCueHzn, execAccChain, execAccSend, execAccStat, execAccBreak, execBarInit, execBarArrive,
    execBarWait, execBarSync, execBarLine, execBarDrop, execGrpId, execGrpSize, execGrpExit, execGrpBudget, execGrpRegs,
    execQuePush, execQueStat, execQueWait, execCtxYield, execCtxInfo, execPgProbe, execLnkStat]
  case fncDrain => exact issueLate_eq_stage rfl rfl
  case cpyWait => exact issueLate_eq_stage rfl rfl
  case mxuWait => exact issueLate_eq_stage rfl rfl
  case queWait => exact issueLate_eq_stage rfl rfl
  all_goals exact issue_eq_stage rfl rfl

/-! ## What an instruction leaves that does not act -/

/-- A fault at issue stops the thread, and nothing else changes (R85). -/
theorem stopped_raise (h : s.cur.raised = none) (code : FaultCode) (field : Nat) :
    Stopped s (s.raise code field 0) code field 0 s.cur.pend where
  only := rfl
  others _ hu := State.thread_modCur_ne _ _ hu
  raised := by simp [State.raise, Thread.faultOn, h]
  status := by simp [State.raise, Thread.faultOn, h]
  pend := by simp [State.raise, Thread.faultOn, h]
  rest := by
    rw [State.raise, State.cur_modCur, Thread.faultOn, h]
    exact (congrArg (fun r => { s.cur with raised := r }) h).symm

/-- An instruction that has no effect but its issue (R76). -/
theorem issued_skip : Issued s (s.clearPending (isMarker maj fn o)).finish (plain maj fn o s) := by
  refine Issued.of_thread (s.cur.withPend (if isMarker maj fn o then 0 else s.cur.pend)) (fun u hu => ?_) ?_ rfl rfl rfl rfl rfl
    (RegsKept.of_eq rfl rfl rfl rfl rfl) rfl
  · rw [State.thread_finish_ne _ (by simpa using hu), State.thread_clearPending_ne _ _ hu]
  · rw [State.cur_finish, State.cur_clearPending, State.clearPending_clock]
    rfl

theorem onlyThreads_skip (b : Bool) : OnlyThreads s (s.clearPending b).finish := by cases b <;> rfl

end

theorem issueStageOfEveryInstruction : IssueStageOfEveryInstruction := by
  intro i maj fn o s hop hraised regs inside settled written
  obtain ⟨act, hexec⟩ := exec_eq_stage hop s
  rw [throughIssue] at hexec
  refine ⟨fun p hp => ?_, fun hin hm p hp => ?_, fun hin hset hw => ?_, fun hin hset hw hm hg => ?_⟩
  · rw [checked_outside hp] at hexec
    exact ⟨_, hexec, stopped_raise hraised _ _⟩
  · rw [checked_pending hin hm hp] at hexec
    exact ⟨_, hexec, stopped_raise hraised _ _⟩
  · rw [checked_busy hin hset hw] at hexec
    exact hexec
  · rw [checked_guarded hin hset hw hm hg] at hexec
    exact ⟨_, hexec, issued_skip, onlyThreads_skip _, trivial⟩

theorem markerWaitsForOutstandingResults : MarkerWaitsForOutstandingResults := by
  intro i maj fn o s hop hm hin hw hfree
  obtain ⟨act, hexec⟩ := exec_eq_stage hop s
  rw [throughIssue, checked_waits hin hw hm hfree] at hexec
  exact hexec

end Sys2Proof.Claims

namespace Sys2Proof

/-- Settles O8: exec is the issue stage, whose checks come in the order of R86, followed by the instruction's own effect. -/
theorem issueStage : Obligations.IssueStage :=
  ⟨Claims.issueStageOfEveryInstruction, Claims.markerWaitsForOutstandingResults⟩

end Sys2Proof

namespace Sys2Proof.Claims

open Machine

/-! # Results, acknowledgements, the ends of waits, and reports of refusals -/

/-! ## What the result of an access leaves (R79, R80) -/

theorem WriteKeeps.refl (a : Thread) (regs : List Reg) : WriteKeeps a a regs :=
  ⟨rfl, rfl, rfl, rfl, .of_eq rfl rfl rfl rfl rfl, rfl⟩

/-- Writing a v register. -/
theorem wv_keeps (a : Thread) (d : BitVec 6) (w : VWord) : WriteKeeps a (a.wv (.v d) w) [.v d] where
  pc := by simp
  pend := by simp
  perf := by simp
  gap := by simp
  regs := ⟨fun n _ => Thread.getX_congr (by simp) n, fun n hn => by simp_all [Thread.wv, Thread.getV_setV],
    fun n _ => Thread.getP_congr (by simp) n, fun n _ => Thread.getK_congr (by simp) n, fun n _ => Thread.getS_congr (by simp) n⟩
  rest := rfl

/-- Writing an s register. -/
theorem ws_keeps (a : Thread) (d : BitVec 3) (w : SWord) : WriteKeeps a (a.ws (.s d) w) [.s d] where
  pc := by simp
  pend := by simp
  perf := by simp
  gap := by simp
  regs := ⟨fun n _ => Thread.getX_congr (by simp) n, fun n _ => Thread.getV_congr (by simp) n,
    fun n _ => Thread.getP_congr (by simp) n, fun n _ => Thread.getK_congr (by simp) n,
    fun n hn => by simp_all [Thread.ws, Thread.getS_setS]⟩
  rest := rfl

theorem wx_keeps_reg (a : Thread) (r : Reg) (w : Word) : WriteKeeps a (a.wx r w) [r] := by
  cases r with
  | x d => exact wx_keeps a d w
  | _ => exact .refl a _

theorem wp_keeps_reg (a : Thread) (r : Reg) (b : Bool) : WriteKeeps a (a.wp r b) [r] := by
  cases r with
  | p d => exact wp_keeps a d b
  | _ => exact .refl a _

/-- Bytes for a vector or a scale register go to the one that is named. -/
theorem wvs_keeps_reg (a : Thread) (r : Reg) (v : VWord) (w : SWord) : WriteKeeps a ((a.wv r v).ws r w) [r] := by
  cases r with
  | v d => exact wv_keeps a d v
  | s d => exact ws_keeps a d w
  | _ => exact .refl a _

/-- The result of an access changes no register but its own, and not the pending bits. -/
theorem deliver_keeps {a : Access} {r : Reg} (h : a.dest = some r) (t : Thread) : WriteKeeps t (a.deliver t) [r] := by
  unfold Access.deliver
  rw [h]
  dsimp only
  split
  · exact .refl t _
  · exact wx_keeps_reg t r _
  · exact wp_keeps_reg t r _
  · exact wvs_keeps_reg t r _ _
  · exact wx_keeps_reg t r _
  · exact wx_keeps_reg t r _

section

variable {a : Access} (t : Thread)

theorem deliver_scalar {d : BitVec 7} {ty : Ty} {p : Part} {ps : List Part} (hd : a.dest = some (.x d)) (hr : a.ret = .scalar ty)
    (hp : a.parts = p :: ps) : (a.deliver t).getX d = if d = 0 then 0 else ext ty p.data := by
  simp [Access.deliver, hd, hr, hp, Thread.getX_wx]

theorem deliver_word {d : BitVec 7} {w : Word} (hd : a.dest = some (.x d)) (hr : a.ret = .word w) :
    (a.deliver t).getX d = if d = 0 then 0 else w := by
  simp [Access.deliver, hd, hr, Thread.getX_wx]

theorem deliver_pred {d : BitVec 3} {p : Part} {ps : List Part} (hd : a.dest = some (.p d)) (hr : a.ret = .pred)
    (hp : a.parts = p :: ps) : (a.deliver t).getP d = (d = 0 || p.data != [0]) := by
  by_cases h0 : d = 0 <;> simp [Access.deliver, hd, hr, hp, Thread.getP_wp, h0]

theorem deliver_bytes {d : BitVec 6} {ty : Option Ty} (hd : a.dest = some (.v d)) (hr : a.ret = .bytes ty) :
    (a.deliver t).getV d = patchParts (t.getV d) a.parts := by
  simp [Access.deliver, hd, hr, Thread.wv, Thread.ws, Thread.vr, Thread.getV_setV]

end

/-! ## Threads and bytes of memory through the operations -/

section

variable {s u : State}

theorem bytesKept_of_cores (hc : u.cores = s.cores) (hd : u.dram = s.dram) (hh : u.hostMem = s.hostMem) : BytesKept s u :=
  ⟨fun d => by simp [State.core, hc], hd, hh⟩

theorem bytesKept_modThread (s : State) (tid : Nat) (f : Thread → Thread) : BytesKept s (s.modThread tid f) :=
  ⟨fun _ => rfl, rfl, rfl⟩

theorem bytesKept_settle (s : State) (i : Nat) : BytesKept s (s.settle i) :=
  bytesKept_of_cores (State.settle_cores i) (State.settle_dram i) (State.settle_hostMem i)

@[simp] theorem findAcc_dropAcc_self (s : State) (i : Nat) : (s.dropAcc i).findAcc i = none := by
  simp [State.findAcc, State.dropAcc]

/-- A thread at a marker is parked or blocked anew, and nothing else changes. -/
theorem reclass_eq (s : State) (tid : Nat) : ∃ st, s.reclass tid = s.modThread tid (fun t => { t with status := st }) ∨ s.reclass tid = s := by
  unfold State.reclass
  dsimp only
  split
  · exact ⟨_, .inl rfl⟩
  · exact ⟨.running, .inr rfl⟩

end

/-! ## VARIABLE-LATENCY RESULT -/

section

variable {s : State} {acc : Nat} {a : Access} {r : Reg}

/-- The result of a wholly performed access: delivered to its thread, whose state at a marker may be another one now. -/
theorem execVariableLatencyResult_spec (hf : s.findAcc acc = some a) (hd : a.dest = some r) (hfix : a.fixed = false)
    (hp : a.parts.all Part.performed = true) (he : (s.thread a.tid).ended = false) :
    ∃ u st, exec (.variableLatencyResult acc) s = .next u ∧ u.findAcc acc = none ∧ BytesKept s u ∧
      (∀ v, v ≠ a.tid → u.thread v = s.thread v) ∧ u.thread a.tid = { a.deliver (s.thread a.tid) with status := st } := by
  set w := (s.modThread a.tid a.deliver).dropAcc acc with hw
  have hexec : exec (.variableLatencyResult acc) s = .next (w.reclass a.tid) := by
    show execVariableLatencyResult acc s = _
    simp [execVariableLatencyResult, hf, hd, hfix, hp, he, hw]
  have hwt : ∀ v, w.thread v = (s.modThread a.tid a.deliver).thread v := fun _ => rfl
  obtain ⟨st, hre | hre⟩ := reclass_eq w a.tid
  · refine ⟨_, st, hexec, ?_, ?_, fun v hv => ?_, ?_⟩
    · rw [hre]; exact findAcc_dropAcc_self _ _
    · rw [hre]; exact bytesKept_of_cores rfl rfl rfl
    · rw [hre, State.thread_modThread_ne _ _ hv, hwt, State.thread_modThread_ne _ _ hv]
    · rw [hre, State.thread_modThread_self, hwt, State.thread_modThread_self]
  · refine ⟨_, (a.deliver (s.thread a.tid)).status, hexec, ?_, ?_, fun v hv => ?_, ?_⟩
    · rw [hre]; exact findAcc_dropAcc_self _ _
    · rw [hre]; exact bytesKept_of_cores rfl rfl rfl
    · rw [hre, hwt, State.thread_modThread_ne _ _ hv]
    · rw [hre, hwt, State.thread_modThread_self]

end

end Sys2Proof.Claims

namespace Sys2Proof.Claims

open Machine

/-! ## STORE ACKNOWLEDGEMENT -/

/-- Every part of a group changed: one part after another, by its place. -/
theorem getElem?_foldl_modify {α : Type} (f : α → α) (i : Nat) : ∀ (js : List Nat) (ps : List α), js.Nodup →
    (js.foldl (fun ps j => ps.modify j f) ps)[i]? = if i ∈ js then ps[i]?.map f else ps[i]? := by
  intro js
  induction js with
  | nil => simp
  | cons j js ih =>
    intro ps hn
    obtain ⟨hj, hn⟩ := List.nodup_cons.mp hn
    rw [List.foldl_cons, ih _ hn, List.getElem?_modify]
    by_cases hij : j = i
    · subst hij
      simp [hj]
    · simp [hij, Ne.symm hij]

/-- An access with every part of a group changed. -/
def changeGroup (a : Access) (i : Nat) (f : Part → Part) : Access :=
  { a with parts := (a.group i).foldl (fun ps j => ps.modify j f) a.parts }

theorem foldl_setPart (f : Part → Part) (js : List Nat) (a : Access) :
    js.foldl (fun b j => match b.parts[j]? with
      | some p => b.setPart j (f p)
      | none => b) a = { a with parts := js.foldl (fun ps j => ps.modify j f) a.parts } := by
  induction js generalizing a with
  | nil => rfl
  | cons j js ih =>
    rw [List.foldl_cons, List.foldl_cons, ih]
    cases hj : a.parts[j]? with
    | none => simp [List.modify_eq_self (List.getElem?_eq_none_iff.mp hj)]
    | some p => simp [Access.setPart, List.modify_eq_set_getElem?, hj]

theorem modGroup_eq (s : State) (id i : Nat) (f : Part → Part) : s.modGroup id i f = s.modAcc id (fun a => changeGroup a i f) := by
  unfold State.modGroup
  congr 1
  funext a
  exact foldl_setPart f _ a

theorem findAcc_modGroup {s : State} {id : Nat} {a : Access} (h : s.findAcc id = some a) (i : Nat) (f : Part → Part) :
    (s.modGroup id i f).findAcc id = some (changeGroup a i f) := by
  rw [modGroup_eq]
  exact State.findAcc_modAcc_self h rfl

/-- A part moves with itself. -/
theorem mem_group {a : Access} {i : Nat} {p : Part} (h : a.parts[i]? = some p) : i ∈ a.group i := by
  obtain ⟨hi, -⟩ := List.getElem?_eq_some_iff.mp h
  simp [Access.group, hi]

theorem nodup_group (a : Access) (i : Nat) : (a.group i).Nodup := by
  unfold Access.group
  split
  · exact List.nodup_nil
  · exact List.nodup_range.filter _

theorem getElem?_changeGroup {a : Access} {i : Nat} {p : Part} (h : a.parts[i]? = some p) (f : Part → Part) :
    (changeGroup a i f).parts[i]? = some (f p) := by
  rw [changeGroup, getElem?_foldl_modify f i _ _ (nodup_group a i), if_pos (mem_group h), h, Option.map_some]

@[simp] theorem changeGroup_op (a : Access) (i : Nat) (f : Part → Part) : (changeGroup a i f).op = a.op := rfl

/-- The one part of an access is its whole group. -/
theorem group_alone {a : Access} {p : Part} (h : a.parts = [p]) : a.group 0 = [0] := by
  simp [Access.group, h, List.range_succ]

theorem changeGroup_alone {a : Access} {p : Part} (h : a.parts = [p]) (f : Part → Part) : (changeGroup a 0 f).parts = [f p] := by
  simp [changeGroup, group_alone h, h]

/-- An access that is found after it has been settled is as it was, with more than its end outstanding. -/
theorem findAcc_settle {s : State} {id : Nat} {a b : Access} (h : s.findAcc id = some a) (hb : (s.settle id).findAcc id = some b) :
    b = a := by
  rw [State.settle, h] at hb
  dsimp only at hb
  split at hb
  · simp at hb
  · split at hb
    · simp at hb
    · exact Option.some.inj (hb.symm.trans h)

/-- An access without a result that is over leaves the list. -/
theorem findAcc_settle_done {s : State} {id : Nat} {a : Access} (h : s.findAcc id = some a) (hd : a.dest = none) (hdone : a.isDone = true) :
    (s.settle id).findAcc id = none := by
  rw [State.settle, h]
  dsimp only
  split
  · exact findAcc_dropAcc_self _ _
  · simp [hd, hdone]

/-- The acknowledgement of a part on its way back. -/
def acknowledge (p : Part) : Part := if p.stage = .performed then { p with stage := .acked } else p

theorem execStoreAcknowledgement_eq {s : State} {acc i : Nat} {a : Access} {p : Part} (hf : s.findAcc acc = some a)
    (hp : a.parts[i]? = some p) (hw : a.op.writes = true) (hs : p.stage = .performed) :
    exec (.storeAcknowledgement acc i) s = .next ((s.modGroup acc i acknowledge).settle acc) := by
  show execStoreAcknowledgement acc i s = _
  simp only [execStoreAcknowledgement, hf, hp, hw, hs, Bool.true_and, decide_true, if_true]
  rfl

theorem storeAcknowledged {s : State} {acc i : Nat} {a : Access} {p : Part} (hf : s.findAcc acc = some a)
    (hp : a.parts[i]? = some p) (hw : a.op.writes = true) (hs : p.stage = .performed) :
    ∃ u, exec (.storeAcknowledgement acc i) s = .next u ∧ BytesKept s u ∧
      (∀ b, u.findAcc acc = some b → ∃ q, b.parts[i]? = some q ∧ q.stage = .acked) ∧
      (a.parts = [p] → a.dest = none → u.findAcc acc = none) := by
  have hfound := findAcc_modGroup hf i acknowledge
  have hpart := getElem?_changeGroup hp acknowledge
  have hacked : (acknowledge p).stage = .acked := by simp [acknowledge, hs]
  refine ⟨_, execStoreAcknowledgement_eq hf hp hw hs, (bytesKept_of_cores rfl rfl rfl).trans (bytesKept_settle _ _), fun b hb => ?_,
    fun hone hd => findAcc_settle_done hfound hd ?_⟩
  · rw [findAcc_settle hfound hb]
    exact ⟨_, hpart, hacked⟩
  · obtain rfl : i = 0 := by
      obtain ⟨hi, -⟩ := List.getElem?_eq_some_iff.mp hp
      simpa [hone] using hi
    simp [Access.isDone, changeGroup_alone hone, changeGroup_op, hw, hacked]

/-! ## SWITCH-MARKER WAIT ENDS -/

theorem foldl_setChannel_eq (f : State → Nat → Channel) (l : List Nat) (s : State) :
    ∃ cs, l.foldl (fun v ch => v.setChannel ch (f v ch)) s = { s with channels := cs } := by
  induction l generalizing s with
  | nil => exact ⟨_, rfl⟩
  | cons ch l ih =>
    obtain ⟨cs, hcs⟩ := ih (s.setChannel ch (f s ch))
    exact ⟨cs, hcs⟩

/-- What the end of an agent's work leaves: all but the turns of channels and the context's record of the work. -/
theorem agentDone_eq (s : State) (asid : Nat) : ∃ cs xs, s.agentDone asid = { s with channels := cs, ctxs := xs } := by
  obtain ⟨cs, hcs⟩ := foldl_setChannel_eq (fun v ch => { v.channel ch with last := rival none }) (s.ctx asid).agentTurns s
  unfold State.agentDone
  dsimp only at hcs ⊢
  rw [hcs]
  exact ⟨cs, _, rfl⟩

/-- Where what a thread waits for has come about or not without more work, its wait ends or goes on. -/
theorem waitEnds {s : State} {tid : Nat} {w : Wait} {b : Bool} (hw : (s.thread tid).wait = some w)
    (hst : (s.thread tid).status ∈ [.parked, .blocked, .stalled]) (ho : s.waitOver tid w = .ok b s) :
    ∃ u, exec (.switchMarkerWaitEnds tid) s = .next u ∧ BytesKept s u ∧ (∀ v, v ≠ tid → u.thread v = s.thread v) ∧
      (u.thread tid).status = (if b then .running else (s.thread tid).status) ∧ (u.thread tid).pc = (s.thread tid).pc := by
  obtain ⟨cs, xs, hdone⟩ := agentDone_eq s (s.thread tid).launch.asid
  set v : State := { s with channels := cs, ctxs := xs } with hv
  have hexec : exec (.switchMarkerWaitEnds tid) s =
      .next (if b then v.modThread tid (fun t => { t with status := .running }) else v) := by
    have hst' : (decide ((s.thread tid).status = .parked) || decide ((s.thread tid).status = .blocked) ||
        decide ((s.thread tid).status = .stalled)) = true := by
      simpa [or_assoc] using hst
    show execSwitchMarkerWaitEnds tid s = _
    simp only [execSwitchMarkerWaitEnds, hw, hst', if_true, ho, State.agentEnd, State.agentEndOn, hdone]
  have hthread : ∀ x, v.thread x = s.thread x := fun _ => rfl
  refine ⟨_, hexec, ?_⟩
  cases b with
  | false => exact ⟨bytesKept_of_cores rfl rfl rfl, fun x _ => hthread x, rfl, rfl⟩
  | true =>
    refine ⟨bytesKept_of_cores rfl rfl rfl, fun x hx => ?_, ?_, ?_⟩
    · rw [if_pos rfl, State.thread_modThread_ne _ _ hx, hthread]
    · simp
    · simp [hthread]

theorem waitOver_results {s : State} {tid : Nat} (h : s.outstanding tid = []) : s.waitOver tid .results = .ok true s := by
  simp [State.waitOver, State.markerCheck, h]

end Sys2Proof.Claims

namespace Sys2Proof.Claims

open Machine

/-! ## REMOTE FAULT REPORT (R173) -/

section

variable {s : State} {acc : Nat} {a : Access} {p : Part} {code : FaultCode}

/-- The part that a report speaks of is the one part of its access. -/
theorem reported_first (hp : a.parts = [p]) (hs : p.stage = .refused code) :
    (if a.op = .clear && !false then a.parts.find? (fun q => !q.performed) else (a.groupParts 0).head?) = some p := by
  split
  · simp [hp, Part.performed, hs]
  · simp [Access.groupParts, group_alone hp, hp]

@[simp] theorem thread_modAcc (s : State) (i : Nat) (f : Access → Access) (x : Nat) : (s.modAcc i f).thread x = s.thread x := rfl

/-- The report of a refused access of one part: recorded, and its thread is told unless a marker of it will ask. -/
theorem execRemoteFaultReport_alone (hf : s.findAcc acc = some a) (hp : a.parts = [p]) (hs : p.stage = .refused code)
    (he : (s.thread a.tid).ended = false) :
    ∃ v : State, v.findAcc acc = some { a with parts := [{ p with stage := .reported code }] } ∧ (∃ as, v = { s with accs := as }) ∧
      exec (.remoteFaultReport acc 0 false) s =
        if a.dest.isSome && !a.fixed && !((s.thread a.tid).retrying.any (fun src => src.same (.access acc 0))) then .next v
        else .next ((v.withdraw a.tid).raiseAt a.tid ⟨code, 0, p.va, a.pc, .access acc 0⟩) := by
  have hexec : exec (.remoteFaultReport acc 0 false) s = execRemoteFaultReport acc 0 false s := rfl
  unfold execRemoteFaultReport at hexec
  rw [hf] at hexec
  dsimp only at hexec
  rw [reported_first hp hs, hp] at hexec
  simp only [List.getElem?_cons_zero, Option.bind_some, Part.fault, hs, Option.map_some, Option.getD_some, thread_modAcc, he,
    Bool.false_eq_true, if_false] at hexec
  refine ⟨_, ?_, ⟨_, rfl⟩, hexec⟩
  have hchange : (if a.op = .clear
      then { a with parts := a.parts.map (fun q => if q.performed then q else { q with stage := .reported code }) }
      else (a.group 0).foldl (fun b j => match b.parts[j]? with
        | some q => b.setPart j { q with stage := .reported code }
        | none => b) a) = { a with parts := [{ p with stage := .reported code }] } := by
    split
    · simp [hp, Part.performed, hs]
    · simp [group_alone hp, Access.setPart, hp]
  exact (State.findAcc_modAcc_self hf ((congrArg Access.id hchange).trans rfl)).trans (congrArg some hchange)

end

/-- A thread whose context is pausing keeps what it is told of (R251). -/
theorem raiseAt_deferring {s : State} {tid : Nat} {f : Raised} (hst : (s.thread tid).status = .running)
    (hd : s.deferring tid = true) : s.raiseAt tid f = s.modThread tid (fun t => { t with reports := t.reports ++ [f] }) := by
  simp [State.raiseAt, State.modThread, hst, hd]

/-- A fault of what a RETRY replays takes the place of the replay (R312). -/
theorem raiseAt_replayed {s : State} {tid : Nat} {f : Raised} {src : FaultSrc} (hst : (s.thread tid).status = .faulted)
    (hd : s.deferring tid = false) (hra : (s.thread tid).raised = none) (hre : (s.thread tid).retrying = some src)
    (hsame : src.same f.src = true) :
    s.raiseAt tid f = s.modThread tid (fun t => { t with raised := some f, retrying := none }) := by
  simp [State.raiseAt, State.modThread, hst, hd, Thread.raiseOn, hre, hra, hsame]

theorem faultReports : FaultReports := by
  intro s acc a p code hf hp hs he
  obtain ⟨v, hfound, ⟨as, hv⟩, hexec⟩ := execRemoteFaultReport_alone hf hp hs he
  have hthread : ∀ x, v.thread x = s.thread x := fun x => by rw [hv]; rfl
  have hdefer : v.deferring a.tid = s.deferring a.tid := by rw [hv]; rfl
  have hbytes : BytesKept s v := by rw [hv]; exact bytesKept_of_cores rfl rfl rfl
  have hkept : ∀ f, BytesKept s (v.modThread a.tid f) := fun f => hbytes.trans (bytesKept_modThread v a.tid f)
  have hothers : ∀ f x, x ≠ a.tid → (v.modThread a.tid f).thread x = s.thread x := fun f x hx =>
    (State.thread_modThread_ne v f hx).trans (hthread x)
  have hself : ∀ f, (v.modThread a.tid f).thread a.tid = f (s.thread a.tid) := fun f => by
    rw [State.thread_modThread_self, hthread]
  refine ⟨fun hd hfix hre => ?_, fun hd hrun hdef => ?_, fun hd hrun hdef hra hre => ?_, fun hfix hst hdef hra hre => ?_⟩
  · have hany : (s.thread a.tid).retrying.any (fun src => src.same (.access acc 0)) = false := by
      cases hr : (s.thread a.tid).retrying with
      | none => rfl
      | some src => exact hre src hr
    rw [if_pos (by simp [hany, hfix, Option.isSome_iff_ne_none.mpr hd])] at hexec
    exact ⟨v, hexec, hbytes, by rw [hv], _, hfound, rfl⟩
  · rw [if_neg (by simp [hd]), State.withdraw_of_running (hthread _ ▸ hrun),
      raiseAt_deferring (hthread _ ▸ hrun) (hdefer.trans hdef)] at hexec
    exact ⟨_, hexec, hkept _, hothers _, hself _⟩
  · rw [if_neg (by simp [hd]), State.withdraw_of_running (hthread _ ▸ hrun),
      State.raiseAt_running (hthread _ ▸ hrun) (hthread _ ▸ hra) (hthread _ ▸ hre) (hdefer.trans hdef)] at hexec
    refine ⟨_, hexec, hkept _, hothers _, ?_⟩
    rw [hself]
    exact ⟨rfl, rfl, rfl⟩
  · have hsame : FaultSrc.same (.access acc 0) (.access acc 0) = true := by simp [FaultSrc.same]
    have hwith : v.withdraw a.tid = v := by
      simp [State.withdraw, hthread, hst]
    rw [if_neg (by simp [hre, hsame]), hwith,
      raiseAt_replayed (hthread _ ▸ hst) (hdefer.trans hdef) (hthread _ ▸ hra) (hthread _ ▸ hre) hsame] at hexec
    refine ⟨_, hexec, hkept _, hothers _, ?_⟩
    rw [hself]
    exact ⟨hst, rfl, rfl, rfl⟩

theorem resultsAndAcknowledgements : ResultsAndAcknowledgements := by
  intro s acc a
  refine ⟨fun r hf hd hfix hp he => ?_, fun i p hf hp hw hs => storeAcknowledged hf hp hw hs,
    fun tid w b hw hst ho => waitEnds hw hst ho, fun tid h => waitOver_results h⟩
  obtain ⟨u, st, hexec, hgone, hkept, hothers, hthread⟩ := execVariableLatencyResult_spec hf hd hfix hp he
  have hk := deliver_keeps hd (s.thread a.tid)
  refine ⟨u, hexec, hgone, hkept, hothers, ?_⟩
  rw [hthread]
  refine ⟨hk.pend, hk.pc, ⟨hk.regs.x, hk.regs.v, hk.regs.p, hk.regs.k, hk.regs.s⟩, ?_, ?_, ?_, ?_⟩
  · rintro d ty q qs rfl hr hq
    exact deliver_scalar _ hd hr hq
  · rintro d w rfl hr
    exact deliver_word _ hd hr
  · rintro d q qs rfl hr hq
    exact deliver_pred _ hd hr hq
  · rintro d ty rfl hr
    exact deliver_bytes _ hd hr

end Sys2Proof.Claims

namespace Sys2Proof

/-- Settles O43: results, acknowledgements and waits event by event, and the report of a refusal by what its thread is told. -/
theorem resultsAndReports : Obligations.ResultsAndReports :=
  ⟨Claims.resultsAndAcknowledgements, Claims.faultReports⟩

end Sys2Proof

namespace Sys2Proof

/-! # What `glas` writes (R95 to R97)

A mnemonic names a function that the opcode map lists, so the fields as written are those of some instruction; the checks before its
word is laid out are the decoder's own; and the check of the counts looks at each register in turn. -/

theorem except_bind_eq_ok {ε α β : Type} {x : Except ε α} {f : α → Except ε β} {b : β} :
    x.bind f = .ok b ↔ ∃ a, x = .ok a ∧ f a = .ok b := by
  cases x <;> simp [Except.bind]

theorem except_map_eq_ok {ε α β : Type} {x : Except ε α} {f : α → β} {b : β} :
    x.map f = .ok b ↔ ∃ a, x = .ok a ∧ f a = b := by
  cases x <;> simp [Except.map]

/-! ## The mnemonic (R89) -/

/-- What a table of words answers stands in it. -/
theorem exists_mem_of_wordIn {α : Type} {cs : Chars} {v : α} {l : List (String × α)} (h : wordIn cs l = some v) :
    ∃ w, (w, v) ∈ l := by
  induction l with
  | nil => cases h
  | cons p l ih =>
    obtain ⟨w, u⟩ := p
    rw [wordIn] at h
    split at h
    · cases h
      exact ⟨w, List.mem_cons_self⟩
    · obtain ⟨w', hw'⟩ := ih h
      exact ⟨w', List.mem_cons_of_mem _ hw'⟩

theorem placeIn_lt {cs : Chars} {ws : List String} {n : Nat} (h : placeIn cs ws = some n) : n < ws.length := by
  obtain ⟨w, hw⟩ := exists_mem_of_wordIn h
  simpa using (List.mem_zipIdx hw).2.1

/-- The row is one of R89 and has a function `fn`, counting from 1 (R87). -/
def ClassRow.Lists (r : ClassRow) (fn : Nat) : Prop := r ∈ classRows ∧ 0 < fn ∧ fn ≤ r.fns.length

theorem ClassRow.lists_of_found {m f : Chars} {r : ClassRow} {n : Nat}
    (hr : classRows.find? (fun r => spells m r.name) = some r) (hn : placeIn f r.fns = some n) : r.Lists (n + 1) :=
  ⟨List.mem_of_find?_eq_some hr, n.succ_pos, placeIn_lt hn⟩

/-- A mnemonic names a function that R89 lists, with a type suffix or without. -/
theorem mnemonicOf_lists {cs : Chars} {m : ClassRow × Nat × Ty} (h : mnemonicOf cs = .ok m) : m.1.Lists m.2.1 := by
  revert h
  fun_cases mnemonicOf cs <;> intro h <;> cases h
  case case4 hr _ hn _ _ => exact ClassRow.lists_of_found hr hn
  case case5 hr _ _ hn _ _ _ _ => exact ClassRow.lists_of_found hr hn

theorem writtenOf_lists {env : ExprEnv} {ts : List Tok} {wr : Written} (h : writtenOf env ts = .ok wr) :
    wr.row.Lists wr.fn := by
  obtain ⟨g, -, h⟩ := except_bind_eq_ok.mp h
  split at h
  · obtain ⟨m, hm, h⟩ := except_bind_eq_ok.mp h
    obtain ⟨it, -, h⟩ := except_bind_eq_ok.mp h
    obtain ⟨hints, -, rfl⟩ := except_map_eq_ok.mp h
    exact mnemonicOf_lists hm
  · cases h

/-- Every row of R89 names as many functions as its class has. -/
theorem length_fns : ∀ r ∈ classRows, r.fns.length = (classCtors r.maj).length := by decide

theorem exists_buildInstr {r : ClassRow} {fn : Nat} (h : r.Lists fn) (o : Ops) : ∃ i, buildInstr r.maj fn o = some i := by
  obtain ⟨hr, hpos, hle⟩ := h
  rw [length_fns r hr] at hle
  refine ⟨(classCtors r.maj)[fn - 1] o, ?_⟩
  rw [buildInstr, if_neg (by omega), List.getElem?_eq_getElem (by omega)]
  rfl

/-! ## The checks (R84, R72) -/

/-- A word is written only for fields that pass the checks of R84 and R72, and it is the word of these fields. -/
theorem Written.word_eq_ok {counts : Option (Nat × Nat)} {wr : Written} {w : BitVec 96} {rs : List Reloc}
    (h : wr.word counts = .ok (w, rs)) :
    fieldFault wr.row.maj wr.fn wr.fields = 0 ∧
      countsOk counts (shapeOf wr.row.maj wr.fn wr.fields) (impliedRegs wr.row.maj wr.fn wr.fields) wr.fields = true ∧
      w = encodeFields wr.row.maj wr.fn wr.fields := by
  unfold Written.word at h
  dsimp only at h
  split at h
  · cases h
  · split at h
    · cases h
    · next hfault =>
      split at h
      · cases h
      · next hcounts =>
        obtain ⟨_, -, hw⟩ := except_map_eq_ok.mp h
        cases hw
        exact ⟨not_not.mp hfault, by simpa using hcounts, rfl⟩

/-- Fields that pass the checks of a listed function are those of an instruction, and their word decodes to it. -/
theorem exists_instr_of_lists {r : ClassRow} {fn : Nat} {o : Ops} (hr : r.Lists fn) (hfault : fieldFault r.maj fn o = 0) :
    ∃ i, decode (encodeFields r.maj fn o) = .ok i ∧ WellFormed i = true ∧ i.opcode = some (r.maj, fn, o) := by
  obtain ⟨i, hi⟩ := exists_buildInstr hr o
  have hop := opcode_of_buildInstr hi
  have hwf := (wellFormed_iff hop).mpr hfault
  exact ⟨i, decode_encodeFields hop hwf, hwf, hop⟩

/-- A register lies below the counts of `.partition`; only x and v registers are counted (R72). -/
def Reg.below (xs vs : Nat) : Reg → Bool
  | .x n => decide (n.toNat < xs)
  | .v n => decide (n.toNat < vs)
  | _ => true

theorem Reg.below_iff {xs vs : Nat} {r : Reg} :
    r.below xs vs = true ↔ (∀ n, r = .x n → n.toNat < xs) ∧ (∀ n, r = .v n → n.toNat < vs) := by
  cases r <;> simp [Reg.below]

/-- A position that is used holds a register below the counts. -/
def usedBelow (xs vs : Nat) (p : Slot × Reg) : Bool := p.1 = .unused || p.2.below xs vs

/-- The check of the counts, position by position. -/
theorem countsOk_eq (xs vs : Nat) (sh : Shape) (implied : List Reg) (o : Ops) : countsOk (some (xs, vs)) sh implied o =
    (usedBelow xs vs (sh.d, o.d) && usedBelow xs vs (sh.a, o.a) && usedBelow xs vs (sh.b, o.b) &&
      usedBelow xs vs (sh.c.getD .unused, o.c) && implied.all (Reg.below xs vs)) := rfl

/-- The check passes when it does for D, A, B, C and the registers that stand in no field, taken as x or v operands. -/
theorem countsOk_iff {xs vs : Nat} {sh : Shape} {implied : List Reg} {o : Ops} :
    countsOk (some (xs, vs)) sh implied o = true ↔
      ∀ p ∈ [(sh.d, o.d), (sh.a, o.a), (sh.b, o.b), (sh.c.getD .unused, o.c)] ++ implied.map (fun r => (Slot.x, r)),
        usedBelow xs vs p = true := by
  rw [countsOk_eq]
  simp [usedBelow, and_assoc]

/-- Settles O7: the mnemonic names a listed function, the checks of `glas` are those of the decoder, and the registers are looked at
one by one. -/
theorem assembledWordsAreInstructions : Obligations.AssembledWordsAreInstructions := by
  intro counts env ts w rs h
  obtain ⟨wr, hwr, hword⟩ := except_bind_eq_ok.mp h
  obtain ⟨hfault, hcounts, rfl⟩ := Written.word_eq_ok hword
  obtain ⟨i, hdecode, hwf, hop⟩ := exists_instr_of_lists (writtenOf_lists hwr) hfault
  refine ⟨i, wr, hwr, hdecode, hwf, hop, ?_⟩
  rintro xs vs rfl p hp hused
  have hbelow := countsOk_iff.mp hcounts p hp
  rw [usedBelow, Bool.or_eq_true, decide_eq_true_iff] at hbelow
  exact Reg.below_iff.mp (hbelow.resolve_left hused)

end Sys2Proof

namespace Sys2Proof.Claims

open Machine

/-! # Instructions that write registers, transfer control, or stop their own thread

What `issueReg_acts` says of an instruction that only writes registers, for any instruction whose effect is a change of its own thread:
one that names registers without a field, that goes elsewhere, or that writes a special register. -/

section

variable {maj fn : Nat} {o : Ops} {s : State} {i : Instr} {c : Change} {done : Thread → Prop} {regs : List Reg}

/-- The state in which an instruction finds the machine as it acts: a marker has cleared the pending bits (R80). -/
abbrev readied (maj fn : Nat) (o : Ops) (s : State) : State := s.clearPending (isMarker maj fn o)

/-- The issuing thread as its instruction finds it. -/
abbrev atIssue (maj fn : Nat) (o : Ops) (s : State) : Thread := s.cur.withPend (plain maj fn o s).pend

theorem cur_readied : (readied maj fn o s).cur = atIssue maj fn o s := State.cur_clearPending s _

theorem onlyThreads_clearPending (s : State) (b : Bool) : OnlyThreads s (s.clearPending b) := by cases b <;> rfl

/-- An instruction that acts: its own effect, in the state in which it finds the machine. `e` is its meaning. -/
theorem exec_ready (e : Ops → State → Out) {extra : List Reg} {marker : Bool} {body : State → State} (h : Ready maj fn o s)
    (hexec : exec i s = e o s) (he : e o s = issue maj fn o extra marker s body) (hx : extra = extraRegs maj fn o)
    (hm : marker = alwaysMarker maj fn) : exec i s = .next (body (readied maj fn o s)) := by
  rw [hexec, he, hx, hm, issue_ready h]

/-! ## A change of the issuing thread -/

/-- All that a change says of its thread but where control goes. -/
structure Changed (a b : Thread) (c : Change) : Prop where
  pend  : b.pend = c.pend
  perf  : b.perf = a.perf
  flags : b.fpflags = c.flags
  gen   : b.srstate = c.gen
  gap   : b.gap = c.gap
  regs  : RegsKept a b c.regs
  rest  : restOf b = c.rest

/-- A write of registers that sets no flag and advances no generator. -/
structure OnlyWrites (a b : Thread) (regs : List Reg) : Prop extends WriteKeeps a b regs where
  fpflags : b.fpflags = a.fpflags
  srstate : b.srstate = a.srstate

theorem OnlyWrites.refl (a : Thread) (regs : List Reg) : OnlyWrites a a regs := ⟨.refl a regs, rfl, rfl⟩

theorem OnlyWrites.trans {a b c : Thread} {rs rs' : List Reg} (h : OnlyWrites a b rs) (h' : OnlyWrites b c rs') :
    OnlyWrites a c (rs ++ rs') where
  pc := h'.pc.trans h.pc
  pend := h'.pend.trans h.pend
  perf := h'.perf.trans h.perf
  gap := h'.gap.trans h.gap
  regs := by
    refine ⟨fun n hn => ?_, fun n hn => ?_, fun n hn => ?_, fun n hn => ?_, fun n hn => ?_⟩ <;>
      obtain ⟨hn, hn'⟩ := not_or.mp (mt List.mem_append.mpr hn)
    · exact (h'.regs.x n hn').trans (h.regs.x n hn)
    · exact (h'.regs.v n hn').trans (h.regs.v n hn)
    · exact (h'.regs.p n hn').trans (h.regs.p n hn)
    · exact (h'.regs.k n hn').trans (h.regs.k n hn)
    · exact (h'.regs.s n hn').trans (h.regs.s n hn)
  rest := h'.rest.trans h.rest
  fpflags := h'.fpflags.trans h.fpflags
  srstate := h'.srstate.trans h.srstate

theorem OnlyWrites.mono {a b : Thread} {rs rs' : List Reg} (h : OnlyWrites a b rs) (hsub : ∀ r ∈ rs, r ∈ rs') : OnlyWrites a b rs' :=
  ⟨⟨h.pc, h.pend, h.perf, h.gap, ⟨fun n hn => h.regs.x n (mt (hsub _) hn), fun n hn => h.regs.v n (mt (hsub _) hn),
    fun n hn => h.regs.p n (mt (hsub _) hn), fun n hn => h.regs.k n (mt (hsub _) hn), fun n hn => h.regs.s n (mt (hsub _) hn)⟩, h.rest⟩,
    h.fpflags, h.srstate⟩

theorem onlyWrites_wx (a : Thread) (d : BitVec 7) (w : Word) : OnlyWrites a (a.wx (.x d) w) [.x d] :=
  ⟨wx_keeps a d w, by simp, by simp⟩

/-- A write of registers by the thread that issues is the plain change with those registers. -/
theorem OnlyWrites.changed {b : Thread} (h : OnlyWrites (atIssue maj fn o s) b regs) :
    Changed s.cur b { plain maj fn o s with regs := regs } where
  pend := h.pend
  perf := h.perf
  flags := h.fpflags
  gen := h.srstate
  gap := h.gap
  regs := ⟨h.regs.x, h.regs.v, h.regs.p, h.regs.k, h.regs.s⟩
  rest := h.rest

/-- An instruction that has changed its own thread and is counted as issued. -/
theorem acts_of_cur {t : State} {b : Thread} (hexec : exec i s = .next t) (honly : OnlyThreads s t)
    (hothers : ∀ u, u ≠ s.me → t.thread u = s.thread u) (hcur : t.cur = Thread.issued s.clock c.pc b)
    (hb : Changed s.cur b c) (hdone : done (Thread.issued s.clock c.pc b)) : Acts i s c done :=
  ⟨t, hexec, .of_thread b hothers hcur hb.pend hb.perf hb.flags hb.gen hb.gap hb.regs hb.rest, honly, hcur ▸ hdone⟩

theorem thread_modCur_readied_ne {u : Nat} (f : Thread → Thread) (h : u ≠ s.me) :
    ((readied maj fn o s).modCur f).thread u = s.thread u := by
  rw [State.thread_modCur_ne _ _ (by simpa using h), State.thread_clearPending_ne _ _ h]

theorem OnlyThreads.modCur {u : State} (h : OnlyThreads s u) (f : Thread → Thread) : OnlyThreads s (u.modCur f) := h

theorem onlyThreads_modCur_readied (f : Thread → Thread) : OnlyThreads s ((readied maj fn o s).modCur f) :=
  (onlyThreads_clearPending s _).modCur f

/-- An instruction that changes its thread by `f` and goes on at PC + 12. -/
theorem acts_finish {f : Thread → Thread} (hexec : exec i s = .next ((readied maj fn o s).modCur f).finish)
    (hpc : (f (atIssue maj fn o s)).pc = s.cur.pc) (hc : c.pc = s.cur.pc + 12) (hb : Changed s.cur (f (atIssue maj fn o s)) c)
    (hdone : done (Thread.issued s.clock c.pc (f (atIssue maj fn o s)))) : Acts i s c done := by
  refine acts_of_cur hexec (onlyThreads_modCur_readied f) (fun u hu => ?_) ?_ hb hdone
  · rw [State.thread_finish_ne _ (by simpa using hu), thread_modCur_readied_ne f hu]
  · rw [State.cur_finish, State.cur_modCur, cur_readied, hpc, hc, State.modCur_clock, State.clearPending_clock]

/-- An instruction that writes registers and goes on at PC + 12. -/
theorem acts_finish_writes {f : Thread → Thread} (hexec : exec i s = .next ((readied maj fn o s).modCur f).finish)
    (hf : OnlyWrites (atIssue maj fn o s) (f (atIssue maj fn o s)) regs)
    (hdone : done (Thread.issued s.clock (s.cur.pc + 12) (f (atIssue maj fn o s)))) :
    Acts i s { plain maj fn o s with regs := regs } done :=
  acts_finish hexec hf.pc rfl hf.changed hdone

/-- An instruction that writes one x register, whatever it reads of the state. -/
theorem writesX_finish {d : BitVec 7} {w : Word} {g : Thread → Word} (hd : o.d = .x d)
    (hexec : exec i s = .next ((readied maj fn o s).modCur (fun t => t.wx o.d (g t))).finish)
    (hw : g (atIssue maj fn o s) = w) : WritesX i maj fn o s d w := by
  rw [hd] at hexec
  refine acts_finish_writes hexec (onlyWrites_wx _ d _) ?_
  by_cases hz : d = 0 <;> simp_all [Thread.wx, Thread.getX_setX]

/-- An instruction that stops its thread (R85): of the thread only the pending bits that a marker clears have changed. -/
theorem stops_raise {code : FaultCode} {field : Nat} {data : Word} (h : s.cur.raised = none)
    (hexec : exec i s = .next ((readied maj fn o s).raise code field data)) :
    Stops i s code field data (plain maj fn o s).pend := by
  have hcur : ((readied maj fn o s).raise code field data).cur =
      { atIssue maj fn o s with
        status := .faulted, before := if s.cur.status = .asleep then .asleep else .running,
        raised := some ⟨code, field, data, s.cur.pc, .own⟩ } := by
    rw [State.raise, State.cur_modCur, cur_readied, Thread.faultOn, Thread.withPend_raised, h]
    rfl
  refine ⟨_, hexec, onlyThreads_modCur_readied _, fun u hu => thread_modCur_readied_ne _ hu, ?_, ?_, ?_, ?_⟩
  · rw [hcur]
  · rw [hcur]
  · rw [hcur]; rfl
  · rw [hcur]; rfl

end

end Sys2Proof.Claims

namespace Sys2Proof.Machine

/-! # INT, INTI and PRD -/

open Claims

section

variable {fn : Nat} {o : Ops} {s : State} {i : Instr} {d : BitVec 7}

/-! ## INT (R117, R118) -/

/-- An INT function of two operands writes WRV of its value. -/
theorem intBin_writesX (f : Nat → Int → Int → Int) (hd : o.d = .x d) (hi : exec i s = intBin fn f o s) (h : Ready 0x01 fn o s) :
    WritesX i 0x01 fn o s d (wrv (f o.ty.width (opv (s.cur.xr o.a) o.ty) (opv (s.cur.xr o.b) o.ty)) o.ty) :=
  writesX h hd rfl rfl hi (fun _ => rfl)

/-- An INT function of one operand writes WRV of its value. -/
theorem intUn_writesX (f : Nat → Int → Int) (hd : o.d = .x d) (hi : exec i s = intUn fn f o s) (h : Ready 0x01 fn o s) :
    WritesX i 0x01 fn o s d (wrv (f o.ty.width (opv (s.cur.xr o.a) o.ty)) o.ty) :=
  writesX h hd rfl rfl hi (fun _ => rfl)

/-! ## INTI (R121, R122) -/

/-- An INTI function writes WRV of its value on the operand and the immediate. -/
theorem intiBin_writesX (f : Nat → Int → Int → Int) (hd : o.d = .x d) (hi : exec i s = intiBin fn f o s) (h : Ready 0x02 fn o s) :
    WritesX i 0x02 fn o s d (wrv (f o.ty.width (opv (s.cur.xr o.a) o.ty) (opv o.imm o.ty)) o.ty) :=
  writesX h hd rfl rfl hi (fun _ => rfl)

/-- MOVHI: the immediate's low 24 bits stand above A's low 40. -/
theorem movhi_word (o : Ops) (w : Word) : o.imm.extractLsb' 0 24 ++ w.extractLsb' 0 40 =
    BitVec.ofNat 64 (o.x.toNat % 2 ^ 24 * 2 ^ 40 + w.toNat % 2 ^ 40) := by
  have himm : o.imm.extractLsb' 0 24 = BitVec.ofNat 24 o.x.toNat := by
    ext k hk
    simp [Ops.imm, BitVec.getElem_signExtend, show k < 40 by omega, show k < 64 by omega]
  have hlow : w.toNat % 2 ^ 40 < 2 ^ 40 := Nat.mod_lt _ (by norm_num)
  refine BitVec.eq_of_toNat_eq ?_
  rw [himm, BitVec.toNat_append, BitVec.toNat_ofNat, BitVec.toNat_ofNat, BitVec.extractLsb'_toNat, Nat.shiftRight_zero,
    ← Nat.shiftLeft_add_eq_or_of_lt hlow, Nat.shiftLeft_eq]
  exact (Nat.mod_eq_of_lt (b := 2 ^ 64) (by omega)).symm

/-! ## PRD (R120) -/

/-- A PRD function of two predicates. -/
theorem prdBin_writesP (f : Bool → Bool → Bool) {d : BitVec 3} (hd : o.d = .p d) (hx : extraRegs 0x04 fn o = [])
    (hi : exec i s = prdBin fn f o s) (h : Ready 0x04 fn o s) :
    WritesP i 0x04 fn o s d (f (s.cur.pr o.a) (s.cur.pr o.b)) :=
  writesP h hd hx rfl hi (fun _ => rfl)

/-- PACK reads p0 as true whatever bit 0 of the predicates holds. -/
theorem pack_word (p : BitVec 8) : (p ||| 1).setWidth 64 = BitVec.ofNat 64 (p.toNat ||| 1) :=
  BitVec.eq_of_toNat_eq (by simp)

/-- KPACK: B's mask above A's. -/
theorem kpack_word (a b : BitVec 16) : (b ++ a).setWidth 64 = BitVec.ofNat 64 (b.toNat * 65536 + a.toNat) := by
  refine BitVec.eq_of_toNat_eq ?_
  have ha : a.toNat < 2 ^ 16 := a.isLt
  rw [BitVec.toNat_setWidth, BitVec.toNat_append, ← Nat.shiftLeft_add_eq_or_of_lt ha, Nat.shiftLeft_eq, BitVec.toNat_ofNat]

/-- KUNPACK: the low 16 bits of a word. -/
theorem kunpack_mask (w : Word) : w.setWidth 16 = BitVec.ofNat 16 (w.toNat % 65536) :=
  BitVec.eq_of_toNat_eq (by simp)

/-- The predicates written all at once from the low byte of a word; p0 still reads as true. -/
abbrev unpackedPreds (t : Thread) (w : Word) : Thread := { t with p := w.setWidth 8 ||| 1 }

theorem getP_unpackedPreds (t : Thread) (w : Word) (n : BitVec 3) : (unpackedPreds t w).getP n = (n = 0 || w.getLsbD n.toNat) := by
  have hn : n.toNat < 8 := n.isLt
  by_cases h0 : n = 0
  · simp [Thread.getP, h0]
  · have hpos : n.toNat ≠ 0 := fun h => h0 (BitVec.eq_of_toNat_eq h)
    simp [Thread.getP, hn, hpos]

theorem onlyWrites_unpackedPreds (t : Thread) (w : Word) : OnlyWrites t (unpackedPreds t w) predRegs where
  pc := rfl
  pend := rfl
  perf := rfl
  gap := rfl
  regs := ⟨fun _ _ => rfl, fun _ _ => rfl, fun n hn => by
    have h0 : n = 0 := by
      revert n
      decide
    subst h0
    simp, fun _ _ => rfl, fun _ _ => rfl⟩
  rest := rfl
  fpflags := rfl
  srstate := rfl

end

end Sys2Proof.Machine

namespace Sys2Proof

open Machine Claims

/-- Settles O10: each function is `intBin` or `intUn` of its operation, but for SEL. -/
theorem integerResults : Obligations.IntegerResults := by
  intro o s d hd a b n ua ub gives
  refine ⟨intBin_writesX (fun _ a b => a + b) hd rfl, intBin_writesX (fun _ a b => a - b) hd rfl,
    intBin_writesX (fun _ a b => a * b) hd rfl, intBin_writesX (fun n a b => a * b / (2 ^ n : Nat)) hd rfl,
    intBin_writesX (fun _ => divInt) hd rfl, intBin_writesX (fun _ => remInt) hd rfl,
    intBin_writesX (fun _ => min) hd rfl, intBin_writesX (fun _ => max) hd rfl, intUn_writesX (fun _ a => a.natAbs) hd rfl,
    intBin_writesX (bitsOf (· &&& ·)) hd rfl, intBin_writesX (bitsOf (· ||| ·)) hd rfl, intBin_writesX (bitsOf (· ^^^ ·)) hd rfl,
    intBin_writesX (fun n => bitsOf (andNot n) n) hd rfl, intBin_writesX (fun n a b => a * (2 ^ shiftAmount n b : Nat)) hd rfl,
    intBin_writesX (fun n a b => a / (2 ^ shiftAmount n b : Nat)) hd rfl,
    intBin_writesX (fun n a b => rotateLeft n a (shiftAmount n b)) hd rfl, intUn_writesX countLeading hd rfl,
    intUn_writesX (fun n a => trailingFrom n (wrapN n a)) hd rfl, intUn_writesX (fun n a => onesFrom n (wrapN n a)) hd rfl,
    intUn_writesX (fun _ a => a) hd rfl, fun h => writesX h hd rfl rfl rfl (fun _ => rfl)⟩

/-- Settles O12: each function is `intiBin` of its operation, but for MOVHI and LEA. -/
theorem immediateResults : Obligations.ImmediateResults := by
  intro o s d hd a b n k gives
  refine ⟨intiBin_writesX (fun _ a i => a + i) hd rfl, intiBin_writesX (fun _ a i => a * i) hd rfl,
    intiBin_writesX (bitsOf (· &&& ·)) hd rfl, intiBin_writesX (bitsOf (· ||| ·)) hd rfl, intiBin_writesX (bitsOf (· ^^^ ·)) hd rfl,
    intiBin_writesX (fun _ a _ => a * (2 ^ o.imm.toNat : Nat)) hd rfl, intiBin_writesX (fun _ a _ => a / (2 ^ o.imm.toNat : Nat)) hd rfl,
    intiBin_writesX (fun n a _ => rotateLeft n a o.imm.toNat) hd rfl, intiBin_writesX (fun _ _ i => i) hd rfl,
    fun h => writesX h hd rfl rfl rfl (fun _ => movhi_word o _), fun h => writesX h hd rfl rfl rfl (fun _ => rfl)⟩

/-- Settles O14: the predicate functions, and the words of PACK, UNPACK, KPACK and KUNPACK bit by bit. -/
theorem predicateResults : Obligations.PredicateResults := by
  intro o s a b w gives
  refine ⟨fun d hd => prdBin_writesP (fun a b => a && b) hd rfl rfl, fun d hd => prdBin_writesP (fun a b => a || b) hd rfl rfl,
    fun d hd h => ?_, fun d hd => prdBin_writesP (fun a b => a && !b) hd rfl rfl,
    fun d hd => prdBin_writesP (fun a _ => !a) hd rfl rfl, fun d hd h => writesP h hd rfl rfl rfl (fun _ => ?_),
    fun d hd h => writesX_finish hd (exec_ready (i := .prdPack o) execPrdPack h rfl rfl rfl rfl :) (pack_word _),
    fun h => acts_finish_writes (exec_ready (i := .prdUnpack o) execPrdUnpack h rfl rfl rfl rfl :)
      (onlyWrites_unpackedPreds _ w) (getP_unpackedPreds (atIssue 0x04 0x08 o s) w),
    fun d hd h => writesX h hd rfl rfl rfl (fun _ => kpack_word _ _),
    fun d hd h => writesK h hd rfl rfl rfl (fun _ => kunpack_mask _)⟩
  · rw [← Bool.bne_eq_xor]
    exact prdBin_writesP (fun a b => a != b) hd rfl rfl h
  · exact Bool.eq_iff_iff.mpr (by simp [w])

end Sys2Proof

namespace Sys2Proof.Machine

/-! # CTL transfers and SYS -/

open Claims

/-! ## What clearing the pending bits leaves of what a transfer and a special register read -/

section

variable (s : State) (b : Bool)

theorem State.launch_clearPending (tid : Nat) : ((s.clearPending b).thread tid).launch = (s.thread tid).launch := by
  by_cases h : tid = s.me
  · subst h
    have h := State.cur_clearPending s b
    rw [State.cur, State.clearPending_me] at h
    rw [h]
    rfl
  · rw [State.thread_clearPending_ne _ _ h]

@[simp] theorem State.imageOf_clearPending (tid : Nat) : (s.clearPending b).imageOf tid = s.imageOf tid := by
  simp [State.imageOf, State.findLaunch, State.launch_clearPending]

@[simp] theorem State.validTarget_clearPending (tid : Nat) (a : Word) : (s.clearPending b).validTarget tid a = s.validTarget tid a := by
  simp [State.validTarget]

@[simp] theorem State.horizon_clearPending (tid : Nat) : (s.clearPending b).horizon tid = s.horizon tid := by
  simp [State.horizon, State.findLaunch, State.ctx, State.launch_clearPending]

@[simp] theorem State.special_clearPending (sel idx : Nat) : (s.clearPending b).special sel idx = s.special sel idx := by
  simp [State.special]

@[simp] theorem State.flagsWait_clearPending (o : Ops) : (s.clearPending b).flagsWait o = s.flagsWait o := by
  simp [State.flagsWait]

end

/-! ## The code section (R83) -/

/-- The valid targets of a code section are its instructions, twelve bytes apart. -/
theorem validIn_iff (base : Word) (size : Nat) (a : Word) :
    validIn base size a = true ↔ ∃ n : Nat, 12 * n < size ∧ a = base + BitVec.ofNat 64 (12 * n) ∧ 12 * n < 2 ^ 64 := by
  simp only [validIn, Bool.and_eq_true, decide_eq_true_eq]
  constructor
  · rintro ⟨hmod, hlt⟩
    have hd : 12 * ((a - base).toNat / 12) = (a - base).toNat := Nat.mul_div_cancel' (Nat.dvd_of_mod_eq_zero hmod)
    refine ⟨(a - base).toNat / 12, by rwa [hd], ?_, by rw [hd]; exact (a - base).isLt⟩
    rw [hd, BitVec.ofNat_toNat, BitVec.setWidth_eq, BitVec.add_comm, BitVec.sub_add_cancel]
  · rintro ⟨n, hn, rfl, hlt⟩
    have hd : (base + BitVec.ofNat 64 (12 * n) - base).toNat = 12 * n := by
      rw [BitVec.add_comm, BitVec.add_sub_cancel, BitVec.toNat_ofNat, Nat.mod_eq_of_lt hlt]
    rw [hd]
    exact ⟨Nat.mul_mod_right 12 n, hn⟩

theorem validTargets : Claims.ValidTargets := by
  intro s a g hg
  rw [State.validTarget, hg]
  exact validIn_iff _ _ _

/-! ## Transfers (R128) -/

section

variable {fn : Nat} {o : Ops} {s : State} {i : Instr}

/-- A thread that issues nothing before cycle `n`, as a taken transfer leaves it (R126). -/
def Thread.withGap (t : Thread) (n : Nat) : Thread := { t with gap := n }

@[simp] theorem Thread.getX_withGap (t : Thread) (n : Nat) (r : BitVec 7) : (t.withGap n).getX r = t.getX r := rfl

theorem changed_withGap {maj : Nat} {b : Thread} {regs : List Reg} (h : OnlyWrites (atIssue maj fn o s) b regs) (target : Word) (n : Nat) :
    Changed s.cur (b.withGap n) { plain maj fn o s with pc := target, regs := regs, gap := n } :=
  ⟨h.pend, h.perf, h.fpflags, h.srstate, rfl, ⟨h.regs.x, h.regs.v, h.regs.p, h.regs.k, h.regs.s⟩, h.rest⟩

/-- A transfer writes its registers and goes to its target where that is valid; else it stops its thread, and writes nothing. -/
theorem transfer_spec {target target' : Word} {f : Thread → Thread} {regs : List Reg} {done : Thread → Prop} {maj : Nat}
    (hraised : s.cur.raised = none) (hexec : exec i s = .next ((readied maj fn o s).transfer target' f)) (ht : target' = target)
    (hf : OnlyWrites (atIssue maj fn o s) (f (atIssue maj fn o s)) regs)
    (hdone : done (Thread.issued s.clock target ((f (atIssue maj fn o s)).withGap (s.clock + 2)))) :
    (s.validTarget s.me target = true →
      Acts i s { plain maj fn o s with pc := target, regs := regs, gap := s.clock + 2 } done) ∧
    (s.validTarget s.me target = false → Stops i s .pcalign 0 target (plain maj fn o s).pend) := by
  subst ht
  rw [State.transfer, State.clearPending_me, State.validTarget_clearPending] at hexec
  constructor
  · intro hv
    rw [if_pos hv] at hexec
    refine acts_of_cur hexec (((onlyThreads_modCur_readied f).modCur _).modCur _) (fun u hu => ?_) ?_
      (changed_withGap hf _ _) hdone
    · rw [State.thread_modCur_ne _ _ (by simpa using hu), State.thread_finishAt_ne _ _ (by simpa using hu),
        thread_modCur_readied_ne f hu]
    · rw [State.cur_modCur, State.cur_finishAt, State.cur_modCur, cur_readied, State.modCur_clock, State.clearPending_clock]
      rfl
  · intro hv
    rw [hv, if_neg Bool.false_ne_true] at hexec
    exact stops_raise hraised hexec

/-- What LOOP does: its counter less one is written, and control goes to its target unless that is 0. -/
theorem exec_ctlLoop {d : BitVec 7} (hd : o.d = .x d) (h : Ready 0x05 0x06 o s) : exec (.ctlLoop o) s =
    .next (if s.cur.getX d - 1 = 0 then ((readied 0x05 0x06 o s).modCur (fun t => t.wx (.x d) (s.cur.getX d - 1))).finish
      else (readied 0x05 0x06 o s).transfer (relTarget s.cur.pc o) (fun t => t.wx (.x d) (s.cur.getX d - 1))) := by
  rw [exec_ready execCtlLoop h rfl rfl rfl rfl]
  simp [hd, Thread.xr]

theorem not_wellFormed_ctlLoop (hd : o.d = .x 0) : WellFormed (.ctlLoop o) = false := by
  simp only [WellFormed, Instr.opcode, decide_eq_false_iff_not]
  intro hff
  have hall := (firstCode_eq_zero_iff (by simp)).mp hff
  have hdok : (shapeCtl 0x06 o).dOk = true := by
    have := hall (4, (shapeCtl 0x06 o).d.admits o.d && (shapeCtl 0x06 o).dOk) (.tail _ (.head _))
    simpa using (Bool.and_eq_true_iff.mp this).2
  simp [shapeCtl, hd] at hdok

end

theorem controlTransfers : Claims.ControlTransfers := by
  intro o s hraised rel link pend jump
  have hrel : ∀ b, relTarget (s.clearPending b).cur.pc o = rel := fun b => by simp [relTarget, rel]
  have hxr : ∀ b r, (s.clearPending b).cur.xr r = s.cur.xr r := fun b r => by simp
  refine ⟨fun h => ?_, fun h => ?_, fun h => ?_, fun h => ?_, fun h => ?_, fun d hd h0 h1 h => ?_, fun d hd h0 h1 h => ?_,
    fun hd => ?_, fun h => ?_, fun i fn hop hskip => ?_⟩
  · exact transfer_spec hraised (exec_ready execCtlBra h rfl rfl rfl rfl) (hrel _) (.refl _ _) trivial
  · exact transfer_spec hraised (exec_ready execCtlJmp h rfl rfl rfl rfl) (hxr _ _) (.refl _ _) trivial
  · exact transfer_spec hraised (exec_ready execCtlCall h rfl rfl rfl rfl) (hrel _) (onlyWrites_wx _ 1 _)
      (by simp [Thread.getX_setX, link])
  · exact transfer_spec hraised (exec_ready execCtlCallr h rfl rfl rfl rfl) (hxr _ _) (onlyWrites_wx _ 1 _)
      (by simp [Thread.getX_setX, link])
  · exact transfer_spec hraised (exec_ready execCtlRet h rfl rfl rfl rfl) (by simp) (.refl _ _) trivial
  · have hne : s.cur.getX d - 1 ≠ 0 := fun h => h1 (sub_eq_zero.mp h)
    have hexec := exec_ctlLoop hd h
    rw [if_neg hne] at hexec
    exact transfer_spec hraised hexec rfl (onlyWrites_wx _ d _)
      (by rw [Thread.getX_issued, Thread.getX_withGap, Thread.getX_wx, if_neg h0, if_pos rfl])
  · have hexec := exec_ctlLoop hd h
    rw [h1, sub_self, if_pos rfl] at hexec
    exact acts_finish_writes hexec (onlyWrites_wx _ d _) (by simp [Thread.getX_wx])
  · exact not_wellFormed_ctlLoop hd
  · exact issueReg_acts h rfl rfl rfl (fun q => .refl _ _) (fun q => rfl) (fun q => rfl) (fun q => trivial)
  · obtain ⟨act, hexec⟩ := exec_eq_stage hop s
    rw [throughIssue, checked, show alwaysMarker 0x05 fn = false from rfl, hskip] at hexec
    exact ⟨_, hexec, issued_skip, onlyThreads_skip _, trivial⟩

/-! ## SYS (R131 to R136) -/

section

variable {o : Ops} {s : State} {d : BitVec 7}

/-- GET of a selector whose flags do not have to be waited for. -/
theorem sysGet_writesX (hd : o.d = .x d) (h : Ready 0x06 0x01 o s) (hw : s.flagsWait o = false) :
    WritesX (.sysGet o) 0x06 0x01 o s d (s.special (sysSel o) (sysIdx o)) := by
  have hexec := exec_ready (i := .sysGet o) execSysGet h rfl rfl rfl rfl
  rw [State.flagsWait_clearPending, hw, if_neg Bool.false_ne_true, State.special_clearPending] at hexec
  exact writesX_finish hd hexec rfl

/-- GET of FPFLAGS, while a special-function request of the thread is under way, does not issue. -/
theorem sysGet_waits (hsel : sysSel o = 10) (hreq : ∃ r ∈ (s.core (coreOf s.me)).sfu, r.tid = s.me) (hsw : o.h.sw = false)
    (h : Ready 0x06 0x01 o s) : exec (.sysGet o) s = .next s := by
  have hw : s.flagsWait o = true := by simpa [State.flagsWait, hsel] using hreq
  have hm : isMarker 0x06 0x01 o = false := hsw
  rw [exec_ready execSysGet h rfl rfl rfl rfl, readied, State.flagsWait_clearPending, hw, if_pos rfl, hm]
  rfl

end

theorem specialRegistersRead : Claims.SpecialRegistersRead := by
  intro o s d hd t c get
  have hget : ∀ sel w, s.special sel (sysIdx o) = w → get sel w := fun sel w he hsel h hw => by
    subst he hsel
    exact sysGet_writesX hd h hw
  refine ⟨hget _ _ rfl, hget _ _ rfl, hget _ _ ?_, hget _ _ rfl, hget _ _ rfl, hget _ _ rfl, hget _ _ rfl, hget _ _ rfl, hget _ _ rfl,
    hget _ _ rfl, hget _ _ rfl, hget _ _ rfl, hget _ _ rfl, hget _ _ rfl, hget _ _ rfl, hget _ _ rfl, hget _ _ rfl,
    fun hsel hreq hsw h => sysGet_waits hsel hreq hsw h, fun h => ?_⟩
  · exact (BitVec.ofNat_toNat 64 t.tagM).symm
  · exact writesX_finish hd (exec_ready (i := .sysPerf o) execSysPerf h rfl rfl rfl rfl :) rfl

/-- The low bits of a word that SET keeps: those above are reserved (R133). -/
theorem and_lowBits (w : Word) {n : Nat} (hn : n ≤ 64) : w &&& BitVec.ofNat 64 (2 ^ n - 1) = BitVec.ofNat 64 (w.toNat % 2 ^ n) := by
  refine BitVec.eq_of_toNat_eq ?_
  have hlt : 2 ^ n - 1 < 2 ^ 64 := (Nat.sub_lt (by positivity) one_pos).trans_le (Nat.pow_le_pow_right (by norm_num) hn)
  have hmod : w.toNat % 2 ^ n < 2 ^ 64 := (Nat.mod_le _ _).trans_lt w.isLt
  rw [BitVec.toNat_and, BitVec.toNat_ofNat, BitVec.toNat_ofNat, Nat.mod_eq_of_lt hlt, Nat.mod_eq_of_lt hmod, Nat.and_two_pow_sub_one_eq_mod]

section

variable {o : Ops} {s : State}

/-- SET, as it finds its thread: RNDMODE refuses 5, 6 and 7. -/
theorem exec_sysSet (h : Ready 0x06 0x02 o s) (hw : s.flagsWait o = false) : exec (.sysSet o) s =
    .next (if sysSel o = 11 ∧ 5 ≤ (s.cur.xr o.a).toNat % 8 then (readied 0x06 0x02 o s).raise .illegal 5 0
      else ((readied 0x06 0x02 o s).modCur (fun t => t.setSpecial (sysSel o) (s.cur.xr o.a))).finish) := by
  rw [exec_ready execSysSet h rfl rfl rfl rfl]
  simp [hw, bitsAt]

/-- SET of a register that takes the word. -/
theorem sysSet_acts {c : Change} {sel : Nat} (hsel : sysSel o = sel) (h : Ready 0x06 0x02 o s) (hw : s.flagsWait o = false)
    (hok : ¬ (sel = 11 ∧ 5 ≤ (s.cur.xr o.a).toNat % 8)) (hc : c.pc = s.cur.pc + 12)
    (hpc : ((atIssue 0x06 0x02 o s).setSpecial sel (s.cur.xr o.a)).pc = s.cur.pc)
    (hb : Changed s.cur ((atIssue 0x06 0x02 o s).setSpecial sel (s.cur.xr o.a)) c) :
    Acts (.sysSet o) s c (fun _ => True) := by
  subst hsel
  have hexec := exec_sysSet h hw
  rw [if_neg hok] at hexec
  exact acts_finish hexec hpc hc hb trivial

end

theorem specialRegistersWritten : Claims.SpecialRegistersWritten := by
  intro o s hraised h hwait w gives p
  refine ⟨fun hsel => ?_, fun hsel hbad => ?_, fun hsel hok => ?_, fun hsel => ?_, fun hsel => ?_⟩
  · exact sysSet_acts hsel h hwait (by omega) rfl rfl
      ⟨rfl, rfl, and_lowBits w (n := 6) (by norm_num), rfl, rfl, .of_eq rfl rfl rfl rfl rfl, rfl⟩
  · have hexec := exec_sysSet h hwait
    rw [if_pos ⟨hsel, hbad⟩] at hexec
    exact stops_raise hraised hexec
  · have hmode : w &&& 7 = BitVec.ofNat 64 (w.toNat % 8) := and_lowBits w (n := 3) (by norm_num)
    exact sysSet_acts hsel h hwait (fun hbad => absurd hok (Nat.not_lt.mpr hbad.2)) rfl rfl
      ⟨rfl, rfl, rfl, rfl, rfl, .of_eq rfl rfl rfl rfl rfl, congrArg (fun m => restOf { s.cur with rndmode := m }) hmode⟩
  · exact sysSet_acts hsel h hwait (by omega) rfl rfl
      ⟨rfl, rfl, rfl, and_lowBits w (n := 32) (by norm_num), rfl, .of_eq rfl rfl rfl rfl rfl, rfl⟩
  · exact sysSet_acts hsel h hwait (by omega) rfl rfl
      ⟨rfl, rfl, rfl, rfl, rfl, .of_eq rfl rfl rfl rfl rfl, rfl⟩

end Sys2Proof.Machine

namespace Sys2Proof

open Machine Claims

/-- Settles O16: each transfer is `State.transfer`, whose check comes before its writes. -/
theorem transfers : Obligations.Transfers :=
  ⟨controlTransfers, validTargets⟩

/-- Settles O18: GET by `State.special` at issue, SET by the register that it replaces. -/
theorem specialRegisters : Obligations.SpecialRegisters :=
  ⟨specialRegistersRead, specialRegistersWritten⟩

/-- Settles O19: both raise their fault as markers, which find nothing outstanding. -/
theorem trapAndBreak : Obligations.TrapAndBreak := by
  intro o s hraised
  exact ⟨fun h => stops_raise hraised (exec_ready (i := .sysTrap o) execSysTrap h rfl rfl rfl rfl :),
    fun h => stops_raise hraised (exec_ready (i := .sysBreak o) execSysBreak h rfl rfl rfl rfl :)⟩

end Sys2Proof

namespace Sys2Proof

/-! # Frames on the stack -/

/-! ## Bytes of numbers and of memory (R6) -/

/-- Bytes are those of the number that they stand for. -/
theorem leBytes_leNat (bs : List Byte) : leBytes bs.length (leNat bs) = bs := by
  induction bs with
  | nil => rfl
  | cons b bs ih =>
    have hb : b.toNat < 256 := b.isLt
    have hdiv : (b.toNat + 256 * leNat bs) / 256 = leNat bs := by omega
    have hlow : BitVec.ofNat 8 (b.toNat + 256 * leNat bs) = b := BitVec.eq_of_toNat_eq (by simp; omega)
    rw [List.length_cons, leBytes, leNat, hlow, hdiv, ih]

theorem Memory.write_append (m : Memory) (a : Nat) (bs cs : List Byte) :
    m.write a (bs ++ cs) = (m.write a bs).write (a + bs.length) cs := by
  induction bs generalizing m a with
  | nil => rfl
  | cons b bs ih => rw [List.cons_append, Memory.write, ih, Memory.write, List.length_cons, Nat.add_right_comm, Nat.add_assoc]

/-- Pieces of 16 bytes written one after another are the bytes written at once. -/
theorem Memory.write_pieces (m : Memory) (a : Nat) {bs : List Byte} {k : Nat} (h : 16 * k ≤ bs.length) :
    (List.range k).foldl (fun m i => m.write (a + 16 * i) ((bs.drop (16 * i)).take 16)) m = m.write a (bs.take (16 * k)) := by
  induction k with
  | zero => rfl
  | succ k ih =>
    rw [List.range_succ, List.foldl_append, ih (by omega), List.foldl_cons, List.foldl_nil, Nat.mul_succ, List.take_add,
      Memory.write_append, List.length_take, Nat.min_eq_left (by omega)]

/-- What is read depends on the bytes in its range alone. -/
theorem Memory.read_congr {m m' : Memory} {a n : Nat} (h : ∀ x, a ≤ x → x < a + n → m.byte x = m'.byte x) :
    m.read a n = m'.read a n := by
  induction n generalizing a with
  | zero => rfl
  | succ n ih =>
    rw [Memory.read, Memory.read, h a le_rfl (by omega), ih fun x hx hxn => h x (by omega) (by omega)]

/-- Bytes written one run after another. -/
def Memory.writeAll (m : Memory) (ws : List (Nat × List Byte)) : Memory := ws.foldl (fun m w => m.write w.1 w.2) m

theorem Memory.byte_writeAll_out (m : Memory) {ws : List (Nat × List Byte)} {c : Nat}
    (h : ∀ w ∈ ws, c < w.1 ∨ w.1 + w.2.length ≤ c) :
    (m.writeAll ws).byte c = m.byte c := by
  induction ws generalizing m with
  | nil => rfl
  | cons w ws ih =>
    obtain ⟨hw, hws⟩ := List.forall_mem_cons.mp h
    exact (ih _ hws).trans (Memory.byte_write_out _ _ _ _ hw)

/-- Runs that lie each below the ones before are all read back. -/
theorem Memory.read_writeAll (m : Memory) {ws : List (Nat × List Byte)} (h : ws.Pairwise (fun v w => w.1 + w.2.length ≤ v.1)) :
    ∀ w ∈ ws, (m.writeAll ws).read w.1 w.2.length = w.2 := by
  induction ws generalizing m with
  | nil => simp
  | cons v ws ih =>
    obtain ⟨hv, hws⟩ := List.pairwise_cons.mp h
    intro w hw
    rcases List.mem_cons.mp hw with rfl | hw
    · have hout : ∀ x, w.1 ≤ x → x < w.1 + w.2.length → (m.writeAll (w :: ws)).byte x = (m.write w.1 w.2).byte x := fun x hx _ =>
        Memory.byte_writeAll_out _ fun u hu => .inr ((hv u hu).trans hx)
      rw [Memory.read_congr hout, Memory.read_write_same]
    · exact ih _ hws w hw

end Sys2Proof

namespace Sys2Proof.Machine

/-! ## Registers put together from bytes (R175) -/

/-- The bits of a register some of whose bytes are replaced. -/
theorem getLsbD_patchBytes {n : Nat} (w : BitVec n) (off : Nat) (bs : List Byte) {j : Nat} (hj : j < n) :
    (patchBytes w off bs).getLsbD j =
      if 8 * off ≤ j ∧ j < 8 * (off + bs.length) then (leNat bs).testBit (j - 8 * off) else w.getLsbD j := by
  have hlt : leNat bs < 2 ^ (8 * bs.length) := by
    have := leNat_lt bs
    rwa [pow_mul]
  simp only [patchBytes, BitVec.getLsbD_or, BitVec.getLsbD_and, BitVec.getLsbD_not, BitVec.getLsbD_ofNat, hj, decide_true, Bool.true_and,
    Nat.testBit_mul_two_pow, Nat.testBit_two_pow_sub_one]
  by_cases hlow : 8 * off ≤ j
  · by_cases hhigh : j < 8 * (off + bs.length)
    · simp [hlow, hhigh, show j - 8 * off < 8 * bs.length by omega]
    · have htop : (leNat bs).testBit (j - 8 * off) = false :=
        Nat.testBit_lt_two_pow (hlt.trans_le (Nat.pow_le_pow_right (by norm_num) (by omega)))
      simp [hhigh, htop, show ¬ j - 8 * off < 8 * bs.length by omega]
  · simp [hlow]

/-- Whether a part puts the bit of a number where it stands. -/
def Part.pieceOf (p : Part) (bs : List Byte) : Prop := ∃ n, p.data = (bs.drop p.off).take n ∧ p.data.length = n

theorem getLsbD_patchParts {n : Nat} {bs : List Byte} {ps : List Part} (h : ∀ p ∈ ps, p.pieceOf bs) (w : BitVec n) {j : Nat}
    (hj : j < n) : (patchParts w ps).getLsbD j =
      if ∃ p ∈ ps, 8 * p.off ≤ j ∧ j < 8 * (p.off + p.data.length) then (leNat bs).testBit j else w.getLsbD j := by
  induction ps generalizing w with
  | nil => simp [patchParts]
  | cons p ps ih =>
    obtain ⟨⟨k, hdata, hlen⟩, hps⟩ := List.forall_mem_cons.mp h
    have hpiece : 8 * p.off ≤ j ∧ j < 8 * (p.off + p.data.length) →
        (leNat p.data).testBit (j - 8 * p.off) = (leNat bs).testBit j := by
      rintro ⟨hlo, hhi⟩
      rw [hlen] at hhi
      rw [hdata, leNat_part, Nat.testBit_mod_two_pow, Nat.testBit_div_two_pow]
      simp [show j - 8 * p.off < 8 * k by omega, Nat.sub_add_cancel hlo]
    have hcons := ih hps (patchBytes w p.off p.data)
    rw [getLsbD_patchBytes _ _ _ hj] at hcons
    show (patchParts (patchBytes w p.off p.data) ps).getLsbD j = _
    rw [hcons]
    simp only [List.exists_mem_cons_iff]
    by_cases hp : 8 * p.off ≤ j ∧ j < 8 * (p.off + p.data.length)
    · simp [hp, hpiece hp]
    · simp [hp]

/-- Parts that hold all the bytes of a register leave nothing of what it was. -/
theorem patchParts_eq {n : Nat} {bs : List Byte} {ps : List Part} (h : ∀ p ∈ ps, p.pieceOf bs) (w : BitVec n)
    (hcover : ∀ j < n, ∃ p ∈ ps, 8 * p.off ≤ j ∧ j < 8 * (p.off + p.data.length)) :
    patchParts w ps = BitVec.ofNat n (leNat bs) := by
  refine BitVec.eq_of_getLsbD_eq fun j hj => ?_
  rw [getLsbD_patchParts h w hj, if_pos (hcover j hj), BitVec.getLsbD_ofNat, decide_eq_true hj, Bool.true_and]

/-- A doubleword read as a signed number of all its bits is written as it stands. -/
theorem ext_i64_toNat {bs : List Byte} (h : bs.length = 8) : (ext .i64 bs).toNat = leNat bs := by
  have hlt : leNat bs < 2 ^ 64 := by
    have := leNat_lt bs
    rwa [h] at this
  have hmod : ((ext .i64 bs).toNat : Int) ≡ leNat bs [ZMOD (2 ^ 64 : Nat)] :=
    (ofInt_toNat_modEq _).trans (readInt_modEq true 64 (leNat bs))
  exact Nat.ModEq.eq_of_lt_of_lt (Int.natCast_modEq_iff.mp hmod) (ext .i64 bs).isLt hlt

end Sys2Proof.Machine

namespace Sys2Proof.Machine

/-! ## An own-pool access that nothing holds back (R36, R228, R451)

Where every earlier access of the thread is over, an access to its own pool is performed as it issues, one part after another, and
leaves the list at once. -/

open Claims

/-- Nothing of the issuing thread is unfinished, and no identity in flight is the next one. -/
structure Quiet (s : State) : Prop where
  fresh : IdsFresh s
  done  : s.undone s.me = []

/-- A part performed at its place in the own pool, its granules noted as served. -/
def State.ownPart (s : State) (op : AccOp) (p : Part) : State × Part :=
  (s.serve (coreOf s.me) (poolOff p.va) p.len (s.me % 4)).performPart op p (.pool (coreOf s.me) (poolOff p.va)) true

/-- Parts performed one after another. -/
def State.ownParts (s : State) (op : AccOp) : List Part → State × List Part
  | [] => (s, [])
  | p :: ps => (((s.ownPart op p).1.ownParts op ps).1, (s.ownPart op p).2 :: ((s.ownPart op p).1.ownParts op ps).2)

/-- A load and a store that leaves the full bit alone: what a frame is made of. -/
def AccOp.isPlain (op : AccOp) : Prop := op = .load ∨ op = .store false

/-- An access that the issuing thread is to make next, plain and told to follow none. -/
structure Own (s : State) (a : Access) : Prop where
  id    : a.id = s.nextId
  tid   : a.tid = s.me
  core  : a.core = coreOf s.me
  after : a.after = []
  op    : a.op.isPlain

section

variable {s : State} {a : Access} {op : AccOp}

theorem AccOp.isPlain.not_consumes (h : op.isPlain) : op.consumes = false := by rcases h with rfl | rfl <;> rfl

/-! ### What a part leaves -/

/-- Nothing differs but bytes of pools and the granules served, all of them at the thread's own rank. -/
structure OwnStep (s t : State) : Prop where
  only   : OnlyPools s t
  others : ∀ u, u ≠ s.me → t.thread u = s.thread u
  next   : s.nextId ≤ t.nextId
  turn   : ∀ off len, t.inTurn (coreOf s.me) off len (s.me % 4) = s.inTurn (coreOf s.me) off len (s.me % 4)

theorem OwnStep.refl (s : State) : OwnStep s s := ⟨⟨rfl, fun _ => rfl⟩, fun _ _ => rfl, le_rfl, fun _ _ => rfl⟩

theorem OwnStep.me {t : State} (h : OwnStep s t) : t.me = s.me := (congrArg State.me h.only.1 :)
theorem OwnStep.accs {t : State} (h : OwnStep s t) : t.accs = s.accs := (congrArg State.accs h.only.1 :)
theorem OwnStep.clock {t : State} (h : OwnStep s t) : t.clock = s.clock := (congrArg State.clock h.only.1 :)
theorem OwnStep.dram {t : State} (h : OwnStep s t) : t.dram = s.dram := (congrArg State.dram h.only.1 :)
theorem OwnStep.hostMem {t : State} (h : OwnStep s t) : t.hostMem = s.hostMem := (congrArg State.hostMem h.only.1 :)

theorem OwnStep.trans {t u : State} (h : OwnStep s t) (h' : OwnStep t u) : OwnStep s u where
  only := by
    obtain ⟨hm, hc⟩ := h.only
    obtain ⟨hm', hc'⟩ := h'.only
    refine ⟨?_, fun d => ?_⟩
    · have := congrArg (fun v : State => { v with threads := s.threads, cores := s.cores, nextId := s.nextId }) hm'
      exact this.trans hm
    · have := congrArg (fun c : Core => { c with pool := (s.core d).pool, full := (s.core d).full, served := (s.core d).served }) (hc' d)
      exact this.trans (hc d)
  others v hv := (h'.others v (h.me ▸ hv)).trans (h.others v hv)
  next := h.next.trans h'.next
  turn off len := by
    have := h'.turn off len
    rw [h.me] at this
    exact this.trans (h.turn off len)

theorem OwnStep.quiet {t : State} (h : OwnStep s t) (hq : Quiet s) : Quiet t where
  fresh b hb := Nat.lt_of_lt_of_le (hq.fresh b (h.accs ▸ hb)) h.next
  done := by
    have := hq.done
    rwa [State.undone, ← h.accs, ← h.me] at this

/-- A thread update of the issuing thread. -/
theorem OwnStep.modCur {t : State} (h : OwnStep s t) (f : Thread → Thread) : OwnStep s (t.modCur f) where
  only := h.only
  others v hv := (State.thread_modCur_ne t f (h.me ▸ hv)).trans (h.others v hv)
  next := h.next
  turn := h.turn

theorem OwnStep.finish {t : State} (h : OwnStep s t) : OwnStep s t.finish := h.modCur _

theorem ownStep_clearPending (s : State) (b : Bool) : OwnStep s (s.clearPending b) := by
  cases b
  · exact .refl s
  · exact (OwnStep.refl s).modCur (fun t => { t with pend := 0 })

/-- A change of one core that keeps all but its pool and the granules served. -/
theorem ownStep_modCore {f : Core → Core} (c : Nat)
    (hf : ∀ k : Core, { f k with pool := k.pool, full := k.full, served := k.served } = k)
    (hturn : ∀ off len, (s.modCore c f).inTurn (coreOf s.me) off len (s.me % 4) = s.inTurn (coreOf s.me) off len (s.me % 4)) :
    OwnStep s (s.modCore c f) where
  only := ⟨rfl, fun d => by
    rw [State.core_modCore]
    split
    · next hd => subst hd; exact hf _
    · rfl⟩
  others _ _ := rfl
  next := le_rfl
  turn := hturn

/-- Serving at a rank leaves the turn of that rank as it was (R229). -/
theorem inTurn_serve (c off len r off' len' : Nat) : (s.serve c off len r).inTurn c off' len' r = s.inTurn c off' len' r := by
  rw [State.inTurn, State.inTurn, State.serve, State.core_modCore_self, List.all_append, Bool.and_eq_right_iff_imp]
  intro _
  simp only [List.all_eq_true, List.mem_filter, List.mem_map]
  rintro q ⟨⟨g, -, rfl⟩, -⟩
  simp

theorem ownStep_serve (off len : Nat) : OwnStep s (s.serve (coreOf s.me) off len (s.me % 4)) :=
  ownStep_modCore _ (fun _ => rfl) (inTurn_serve _ _ _ _)

theorem ownStep_poolWrite (off : Nat) (bs : List Byte) : OwnStep s (s.poolWrite (coreOf s.me) off bs) :=
  ownStep_modCore _ (fun _ => rfl) (fun _ _ => by simp [State.inTurn])

theorem ownPart_load (p : Part) : s.ownPart .load p = (s.serve (coreOf s.me) (poolOff p.va) p.len (s.me % 4),
    { p with stage := .performed, loc := some (.pool (coreOf s.me) (poolOff p.va)),
             data := s.poolRead (coreOf s.me) (poolOff p.va) p.len }) := by
  simp [State.ownPart, State.performPart, doneStage, AccOp.writes, State.readLoc, State.poolRead, State.serve]

theorem ownPart_store (p : Part) : s.ownPart (.store false) p =
    ((s.serve (coreOf s.me) (poolOff p.va) p.len (s.me % 4)).poolWrite (coreOf s.me) (poolOff p.va) p.data,
      { p with stage := .acked, loc := some (.pool (coreOf s.me) (poolOff p.va)) }) := rfl

theorem ownStep_ownPart (hop : op.isPlain) (p : Part) : OwnStep s (s.ownPart op p).1 := by
  rcases hop with rfl | rfl
  · rw [ownPart_load]
    exact ownStep_serve _ _
  · exact (ownStep_serve _ _).trans (ownStep_poolWrite _ _)

theorem ownPart_va (hop : op.isPlain) (p : Part) : (s.ownPart op p).2.va = p.va := by
  rcases hop with rfl | rfl
  · rw [ownPart_load]
  · rfl

theorem ownStep_ownParts (hop : op.isPlain) (ps : List Part) : OwnStep s (s.ownParts op ps).1 := by
  induction ps generalizing s with
  | nil => exact .refl s
  | cons p ps ih => exact (ownStep_ownPart hop p).trans ih

/-- The parts of a load after it: each with the bytes at its place. -/
theorem ownParts_load (ps : List Part) : (s.ownParts .load ps).2 = ps.map (fun p =>
    { p with stage := .performed, loc := some (.pool (coreOf s.me) (poolOff p.va)),
             data := s.poolRead (coreOf s.me) (poolOff p.va) p.len }) := by
  induction ps generalizing s with
  | nil => rfl
  | cons p ps ih =>
    rw [State.ownParts, ih, ownPart_load, List.map_cons]
    simp [State.poolRead, State.serve]

theorem pool_ownParts_load (ps : List Part) (d : Nat) : ((s.ownParts .load ps).1.core d).pool = (s.core d).pool := by
  induction ps generalizing s with
  | nil => rfl
  | cons p ps ih =>
    rw [State.ownParts, ih, ownPart_load, State.serve, State.core_modCore]
    split
    · next h => rw [h]
    · rfl

/-- The pool after a store: the bytes of its parts written one after another. -/
theorem pool_ownParts_store (ps : List Part) (d : Nat) : ((s.ownParts (.store false) ps).1.core d).pool =
    if d = coreOf s.me then ps.foldl (fun m p => m.write (poolOff p.va) p.data) (s.core d).pool else (s.core d).pool := by
  induction ps generalizing s with
  | nil => simp [State.ownParts]
  | cons p ps ih =>
    rw [State.ownParts, ih, ownPart_store]
    by_cases hd : d = coreOf s.me
    · subst hd
      simp [State.poolWrite, State.serve]
    · simp [State.poolWrite, State.serve, State.core_modCore, hd]

theorem ownParts_store_acked (ps : List Part) : ∀ p ∈ (s.ownParts (.store false) ps).2, p.stage = .acked := by
  induction ps generalizing s with
  | nil => simp [State.ownParts]
  | cons p ps ih => exact List.forall_mem_cons.mpr ⟨rfl, ih⟩

/-! ### Nothing stands before it -/

theorem enter_eq (hid : a.id = s.nextId) : s.enter a = { s with accs := s.accs ++ [a], nextId := s.nextId + 1 } := by
  rw [State.enter, ← hid]

theorem findAcc_enter (hf : IdsFresh s) (hid : a.id = s.nextId) : (s.enter a).findAcc a.id = some a := by
  have hnone : s.accs.find? (fun b => b.id = a.id) = none := by
    simpa [List.find?_eq_none, hid] using fun b hb => (hf b hb).ne
  simp [State.findAcc, enter_eq hid, hnone]

theorem modAcc_enter (hf : IdsFresh s) (hid : a.id = s.nextId) {f : Access → Access} (hfid : (f a).id = a.id) :
    (s.enter a).modAcc a.id f = s.enter (f a) := by
  have hmap : s.accs.map (fun b => if b.id = a.id then f b else b) = s.accs :=
    (List.map_congr_left (g := id) fun b hb => if_neg (hid ▸ (hf b hb).ne)).trans (List.map_id _)
  rw [enter_eq hid, enter_eq (hfid.trans hid), State.modAcc, List.map_append, hmap]
  simp

theorem dropAcc_enter (hf : IdsFresh s) (hid : a.id = s.nextId) : (s.enter a).dropAcc a.id = { s with nextId := s.nextId + 1 } := by
  have hkeep : s.accs.filter (fun b => b.id ≠ a.id) = s.accs := List.filter_eq_self.mpr fun b hb =>
    decide_eq_true (hid ▸ (hf b hb).ne)
  rw [State.dropAcc, enter_eq hid, List.filter_append, hkeep]
  simp

/-- Parts in granules of their own move one by one (R166). -/
theorem group_eq_singleton {i : Nat} (hi : i < a.parts.length) (hn : (a.parts.map (fun p => p.va.toNat / 16)).Nodup)
    (hc : a.op.consumes = false) : a.group i = [i] := by
  rw [Access.group, List.getElem?_eq_getElem hi]
  have hpred : ∀ j ∈ List.range a.parts.length, (a.op.consumes || match a.parts[j]? with
      | some q => decide (q.va.toNat / 16 = a.parts[i].va.toNat / 16)
      | none => false) = (j == i) := fun j hj => by
    have hj : j < a.parts.length := List.mem_range.mp hj
    have hinj := hn.getElem_inj_iff (i := j) (j := i) (hi := by simpa using hj) (hj := by simpa using hi)
    rw [hc, List.getElem?_eq_getElem hj, Bool.false_or, beq_eq_decide]
    simpa using hinj
  refine (List.filter_congr hpred).trans ?_
  rw [List.filter_beq, List.count_eq_one_of_mem List.nodup_range (List.mem_range.mpr hi)]
  rfl

theorem performed_of_isDone (h : a.isDone = true) : ∀ p ∈ a.parts, p.performed = true := by
  intro p hp
  have hp := List.all_eq_true.mp h p hp
  split at hp
  · rw [Part.performed, of_decide_eq_true hp]
  · exact hp

/-- Where all is over, no part has to wait for an earlier one. -/
theorem not_partBlocked (hq : Quiet s) (ho : Own s a) (p : Part) : (s.enter a).partBlocked a p = false := by
  rw [State.partBlocked, List.any_eq_false]
  intro b hb
  have hid : b.id ≠ a.id := by simpa using List.mem_takeWhile_imp hb
  have hmem : b ∈ s.accs := by
    rw [enter_eq ho.id] at hb
    rcases List.mem_append.mp ((List.takeWhile_sublist _).subset hb) with h | h
    · exact h
    · exact absurd (congrArg Access.id (List.mem_singleton.mp h)) hid
  by_cases hbt : b.tid = s.me
  · have hdone : b.isDone = true := by
      have := List.filter_eq_nil_iff.mp hq.done b hmem
      simpa [hbt] using this
    have hkeeps : b.parts.any ((s.enter a).keeps a p b) = false := by
      rw [List.any_eq_false]
      intro q hq
      simp [State.keeps, performed_of_isDone hdone q hq]
    simp [hkeeps]
  · simp [ho.tid, hbt]

/-- A part that moves alone, ready and in its turn, is performed at its place in its own pool. -/
theorem tryPart_alone {i : Nat} {p : Part} (hf : s.findAcc a.id = some a) (hp : a.parts[i]? = some p) (hg : a.group i = [i])
    (hc : a.op.consumes = false) (hport : p.stage = .port) (hready : s.groupReady a i = true)
    (hturn : s.inTurn a.core (poolOff p.va) p.len (a.tid % 4) = true) :
    let r := (s.serve a.core (poolOff p.va) p.len (a.tid % 4)).performPart a.op p (.pool a.core (poolOff p.va)) true
    s.tryPart a.id i = r.1.modAcc a.id (fun b => b.setPart i r.2) := by
  have hparts : a.groupParts i = [p] := by simp [Access.groupParts, hg, hp]
  have hgt : s.groupTurn a i a.core true = true := by simpa [State.groupTurn, hparts, Access.rank] using hturn
  have hserved : s.groupServed a i a.core true = s.serve a.core (poolOff p.va) p.len (a.tid % 4) := by
    simp [State.groupServed, hparts, Access.rank]
  have hshift : (Loc.pool a.core (poolOff p.va)).shift p.va p.va = .pool a.core (poolOff p.va) := by simp [Loc.shift]
  have hf' : (s.serve a.core (poolOff p.va) p.len (a.tid % 4)).findAcc a.id = some a := hf
  simp [State.tryPart, hf, hp, hport, hready, hgt, State.arrivePool, hserved, hc, State.performGroup, hg, hf', hshift]

/-- A part performed leaves what its access entered with. -/
theorem ownPart_enter (hop : op.isPlain) (a : Access) (p : Part) :
    ((s.enter a).serve (coreOf s.me) (poolOff p.va) p.len (s.me % 4)).performPart op p (.pool (coreOf s.me) (poolOff p.va)) true =
      ((s.ownPart op p).1.enter a, (s.ownPart op p).2) := by
  rcases hop with rfl | rfl <;> rfl

theorem nextId_ownPart (hop : op.isPlain) (p : Part) : (s.ownPart op p).1.nextId = s.nextId := by
  rcases hop with rfl | rfl <;> rfl

theorem tryPart_enter {i : Nat} {p : Part} (hq : Quiet s) (ho : Own s a) (hp : a.parts[i]? = some p)
    (hn : (a.parts.map (fun p => p.va.toNat / 16)).Nodup) (hport : p.stage = .port)
    (hturn : s.inTurn (coreOf s.me) (poolOff p.va) p.len (s.me % 4) = true) :
    (s.enter a).tryPart a.id i = (s.ownPart a.op p).1.enter (a.setPart i (s.ownPart a.op p).2) := by
  have hgroup : a.group i = [i] := group_eq_singleton (List.getElem?_eq_some_iff.mp hp).1 hn ho.op.not_consumes
  have hparts : a.groupParts i = [p] := by simp [Access.groupParts, hgroup, hp]
  have hclear : (a.op != .clear) = true := by rcases ho.op with h | h <;> simp [h]
  have hready : (s.enter a).groupReady a i = true := by
    simp [State.groupReady, State.allDone, Access.lowerDone, ho.after, hclear, hparts, not_partBlocked hq ho]
  have hr := tryPart_alone (findAcc_enter hq.fresh ho.id) hp hgroup ho.op.not_consumes hport hready (by rw [ho.core, ho.tid]; exact hturn)
  dsimp only at hr
  rw [hr, ho.core, ho.tid, ownPart_enter ho.op]
  have hstep := ownStep_ownPart (s := s) ho.op p
  exact modAcc_enter (hstep.quiet hq).fresh (ho.id.trans (nextId_ownPart ho.op p).symm) rfl

end

end Sys2Proof.Machine

namespace Sys2Proof.Machine

open Claims

/-! ### The whole access -/

section

variable {s : State} {a : Access} {op : AccOp}

/-- The parts of an access, each in a granule of its own, at the port and in its turn. -/
structure PartsAtPort (s : State) (ps : List Part) : Prop where
  port     : ∀ p ∈ ps, p.stage = .port
  distinct : (ps.map (fun p => p.va.toNat / 16)).Nodup
  turn     : ∀ p ∈ ps, s.inTurn (coreOf s.me) (poolOff p.va) p.len (s.me % 4) = true

theorem Own.withParts {t : State} (ho : Own s a) (hm : t.me = s.me) (hn : t.nextId = s.nextId) (ps : List Part) :
    Own t { a with parts := ps } :=
  ⟨ho.id.trans hn.symm, ho.tid.trans hm.symm, hm ▸ ho.core, ho.after, ho.op⟩

theorem nextId_ownParts (hop : op.isPlain) (ps : List Part) : (s.ownParts op ps).1.nextId = s.nextId := by
  induction ps generalizing s with
  | nil => rfl
  | cons p ps ih => exact ih.trans (nextId_ownPart hop p)

theorem cur_ownParts (hop : op.isPlain) (ps : List Part) : (s.ownParts op ps).1.cur = s.cur := by
  induction ps generalizing s with
  | nil => rfl
  | cons p ps ih =>
    refine ih.trans ?_
    rcases hop with rfl | rfl <;> rfl

/-- The parts of an access are performed one after another. -/
theorem foldl_tryPart (hop : op.isPlain) (ps done : List Part) (hq : Quiet s) (ho : Own s { a with op := op, parts := done ++ ps })
    (hport : ∀ p ∈ ps, p.stage = .port) (hn : ((done ++ ps).map (fun p => p.va.toNat / 16)).Nodup)
    (hturn : ∀ p ∈ ps, s.inTurn (coreOf s.me) (poolOff p.va) p.len (s.me % 4) = true) :
    (List.range' done.length ps.length).foldl (fun t i => t.tryPart a.id i) (s.enter { a with op := op, parts := done ++ ps }) =
      (s.ownParts op ps).1.enter { a with op := op, parts := done ++ (s.ownParts op ps).2 } := by
  induction ps generalizing s done with
  | nil => rfl
  | cons p ps ih =>
    obtain ⟨hp, hps⟩ := List.forall_mem_cons.mp hport
    obtain ⟨ht, hts⟩ := List.forall_mem_cons.mp hturn
    have hstep := ownStep_ownPart (s := s) hop p
    have hset : (done ++ p :: ps).set done.length (s.ownPart op p).2 = done ++ [(s.ownPart op p).2] ++ ps := by
      simp [List.set_append_right]
    have hfirst := tryPart_enter (i := done.length) (p := p) hq ho (by simp) hn hp ht
    have hva : (done ++ [(s.ownPart op p).2] ++ ps).map (fun p => p.va.toNat / 16) = (done ++ p :: ps).map (fun p => p.va.toNat / 16) := by
      simp [ownPart_va hop]
    have hrest := ih (done ++ [(s.ownPart op p).2]) (hstep.quiet hq) (ho.withParts hstep.me (nextId_ownPart hop p) _) hps (hva ▸ hn)
      (fun q hq' => by rw [hstep.me, hstep.turn]; exact hts q hq')
    rw [List.length_append, List.length_singleton] at hrest
    rw [List.length_cons, List.range'_succ, List.foldl_cons, hfirst]
    simp only [Access.setPart, hset]
    rw [hrest]
    simp [State.ownParts]

/-- A plain access that nothing holds back: its parts performed, then settled. -/
theorem enterOwn_eq (hq : Quiet s) (ho : Own s { a with id := s.nextId }) (hp : PartsAtPort s a.parts) :
    s.enterOwn a = ((s.ownParts a.op a.parts).1.enter { a with id := s.nextId, parts := (s.ownParts a.op a.parts).2 }).settle s.nextId := by
  have h := foldl_tryPart (a := { a with id := s.nextId }) ho.op a.parts [] hq ho hp.port hp.distinct hp.turn
  rw [List.length_nil, ← List.range_eq_range'] at h
  exact congrArg (fun t : State => t.settle s.nextId) h

/-- A load whose latency is fixed is written to its register as it leaves the list. -/
theorem settle_fixed (hf : IdsFresh s) (hid : a.id = s.nextId) (hfix : a.fixed = true) (hperf : a.parts.all Part.performed = true)
    (ht : a.tid = s.me) : (s.enter a).settle a.id = (s.modCur a.deliver).freshId.2 := by
  rw [State.settle, findAcc_enter hf hid]
  simp only [hfix, hperf, Bool.and_self, if_true, ht]
  exact dropAcc_enter (s := s.modCur a.deliver) hf hid

/-- A store acknowledged leaves the list. -/
theorem settle_acked (hf : IdsFresh s) (hid : a.id = s.nextId) (hfix : a.fixed = false) (hdest : a.dest = none) (hdone : a.isDone = true) :
    (s.enter a).settle a.id = s.freshId.2 := by
  rw [State.settle, findAcc_enter hf hid]
  simp only [hfix, hdest, hdone, Bool.false_and, Bool.false_eq_true, if_false, decide_true, Bool.true_and, if_true]
  exact dropAcc_enter hf hid

theorem ownStep_freshId (s : State) : OwnStep s s.freshId.2 := ⟨⟨rfl, fun _ => rfl⟩, fun _ _ => rfl, Nat.le_succ _, fun _ _ => rfl⟩

theorem enterOwn_store (hq : Quiet s) (ho : Own s { a with id := s.nextId }) (hp : PartsAtPort s a.parts) (hop : a.op = .store false)
    (hfix : a.fixed = false) (hdest : a.dest = none) : s.enterOwn a = (s.ownParts a.op a.parts).1.freshId.2 := by
  rw [enterOwn_eq hq ho hp]
  refine settle_acked (a := { a with id := s.nextId, parts := (s.ownParts a.op a.parts).2 }) ((ownStep_ownParts ho.op _).quiet hq).fresh
    (nextId_ownParts ho.op _).symm hfix hdest (List.all_eq_true.mpr fun p hp => ?_)
  simp only [hop] at hp ⊢
  exact decide_eq_true (ownParts_store_acked _ p hp)

theorem enterOwn_load (hq : Quiet s) (ho : Own s { a with id := s.nextId }) (hp : PartsAtPort s a.parts) (hop : a.op = .load)
    (hfix : a.fixed = true) : s.enterOwn a =
      ((s.ownParts a.op a.parts).1.modCur ({ a with id := s.nextId, parts := (s.ownParts a.op a.parts).2 } : Access).deliver).freshId.2 := by
  rw [enterOwn_eq hq ho hp]
  refine settle_fixed (a := { a with id := s.nextId, parts := (s.ownParts a.op a.parts).2 }) ((ownStep_ownParts ho.op _).quiet hq).fresh
    (nextId_ownParts ho.op _).symm hfix (List.all_eq_true.mpr fun p hp => ?_) (ho.tid.trans (ownStep_ownParts ho.op _).me.symm)
  simp only [hop, ownParts_load] at hp
  obtain ⟨q, -, rfl⟩ := List.mem_map.mp hp
  rfl

end

/-! ## One register of a frame (R129, R130) -/

theorem poolOff_eq (a : Word) : poolOff a = a.toNat % 2 ^ 19 := by
  simp [poolOff, bitsAt]

/-- The granules of a block of 64 bytes. -/
theorem toNat_add_piece {a : Word} (ha : a.toNat % 64 = 0) {i : Nat} (hi : i < 4) :
    (a + BitVec.ofNat 64 (16 * i)).toNat = a.toNat + 16 * i := by
  have := a.isLt
  rw [BitVec.toNat_add, BitVec.toNat_ofNat]
  omega

theorem poolOff_add_piece {a : Word} (ha : a.toNat % 64 = 0) {i : Nat} (hi : i < 4) :
    poolOff (a + BitVec.ofNat 64 (16 * i)) = poolOff a + 16 * i := by
  rw [poolOff_eq, poolOff_eq, toNat_add_piece ha hi]
  omega

/-- One of the pieces that a block of 64 bytes is accessed in. -/
def granulePiece (a : Word) (bs : List Byte) (i : Nat) : Part :=
  mkPart (a + BitVec.ofNat 64 (16 * i)) 16 (16 * i) ((bs.drop (16 * i)).take 16)

theorem granuleParts_block (a : Word) (bs : List Byte) : granuleParts a bs 64 = (List.range 4).map (granulePiece a bs) := by
  simp [granuleParts, granulePiece]

theorem granuleParts_doubleword (a : Word) (bs : List Byte) : granuleParts a bs 8 = [mkPart a 8 0 bs] := by
  simp [granuleParts]

/-- A part of the bytes in their turn is in its turn. -/
theorem inTurn_mono {s : State} {c off len off' len' r : Nat} (h : s.inTurn c off len r = true)
    (hsub : ∀ g ∈ granulesOf off' len', g ∈ granulesOf off len) : s.inTurn c off' len' r = true := by
  rw [State.inTurn, List.all_eq_true] at h ⊢
  intro p hp
  have := h p hp
  simp only [Bool.or_eq_true, Bool.not_eq_true', decide_eq_true_eq, List.contains_eq_mem, decide_eq_false_iff_not] at this ⊢
  exact this.imp_left (fun hn hg => hn (hsub _ hg))

/-- Where a slot of a frame stands: a doubleword, or a vector at a multiple of its size. -/
def SlotFits (n : Nat) (a : Word) : Prop := n = 8 ∨ n = 64 ∧ a.toNat % 64 = 0

theorem partsAtPort_granuleParts {s : State} {a : Word} {n : Nat} (hfit : SlotFits n a) (bs : List Byte)
    (hturn : s.inTurn (coreOf s.me) (poolOff a) n (s.me % 4) = true) : PartsAtPort s (granuleParts a bs n) := by
  rcases hfit with rfl | ⟨rfl, ha⟩
  · rw [granuleParts_doubleword]
    exact ⟨by simp [mkPart], by simp, by simpa [mkPart] using hturn⟩
  · rw [granuleParts_block]
    refine ⟨fun p hp => ?_, ?_, fun p hp => ?_⟩
    · obtain ⟨i, -, rfl⟩ := List.mem_map.mp hp
      rfl
    · rw [List.map_map]
      refine List.Nodup.map_on (fun i hi j hj hij => ?_) List.nodup_range
      have hi := toNat_add_piece ha (List.mem_range.mp hi)
      have hj := toNat_add_piece ha (List.mem_range.mp hj)
      simp only [Function.comp_apply, granulePiece, mkPart] at hij
      rw [hi, hj] at hij
      omega
    · obtain ⟨i, hi, rfl⟩ := List.mem_map.mp hp
      have hi := List.mem_range.mp hi
      have hoff := poolOff_add_piece ha hi
      have h64 : poolOff a % 64 = 0 := by rw [poolOff_eq]; omega
      refine inTurn_mono hturn fun g hg => ?_
      simp only [granulesOf, granulePiece, mkPart, hoff, List.mem_map, List.mem_range] at hg ⊢
      obtain ⟨k, hk, rfl⟩ := hg
      exact ⟨i, by omega, by omega⟩

/-- The pieces of a slot written are its bytes. -/
theorem write_granuleParts {a : Word} {n : Nat} (hfit : SlotFits n a) {bs : List Byte} (hlen : bs.length = n) (m : Memory) :
    (granuleParts a bs n).foldl (fun m p => m.write (poolOff p.va) p.data) m = m.write (poolOff a) bs := by
  rcases hfit with rfl | ⟨rfl, ha⟩
  · rw [granuleParts_doubleword]
    rfl
  · rw [granuleParts_block, List.foldl_map]
    have hpiece : ∀ (m : Memory), ∀ i ∈ List.range 4,
        m.write (poolOff (granulePiece a bs i).va) (granulePiece a bs i).data = m.write (poolOff a + 16 * i) ((bs.drop (16 * i)).take 16) :=
      fun m i hi => by rw [← poolOff_add_piece ha (List.mem_range.mp hi)]; rfl
    rw [List.foldl_ext _ _ _ hpiece, Memory.write_pieces m (poolOff a) (by omega), List.take_of_length_le (by omega)]

@[simp] theorem length_regBytes (t : Thread) (r : Reg) (n : Nat) : (regBytes t r n).length = n := by
  cases r <;> simp [regBytes]

section

variable {s : State} {q : Reg × Nat × Word}

theorem mustFollow_quiet (hq : Quiet s) (k : OrdKind) : s.mustFollow s.me k = [] := by
  simp [State.mustFollow, hq.done]

/-- What storing one register of a frame leaves: its bytes at its slot. -/
theorem frameStore_spec (hq : Quiet s) (hfit : SlotFits q.2.1 q.2.2)
    (hturn : s.inTurn (coreOf s.me) (poolOff q.2.2) q.2.1 (s.me % 4) = true) :
    OwnStep s (s.frameStore q) ∧ (s.frameStore q).cur = s.cur ∧ ∀ d, ((s.frameStore q).core d).pool =
      if d = coreOf s.me then (s.core d).pool.write (poolOff q.2.2) (regBytes s.cur q.1 q.2.1) else (s.core d).pool := by
  set ps := granuleParts q.2.2 (regBytes s.cur q.1 q.2.1) q.2.1 with hps
  set a := s.newAccess (.store false) none .none false false false (s.mustFollow s.me .write) ps with ha
  have ho : Own s { a with id := s.nextId } := ⟨rfl, rfl, rfl, mustFollow_quiet hq .write, .inr rfl⟩
  have hport : PartsAtPort s ps := partsAtPort_granuleParts hfit _ hturn
  have hstep := ownStep_ownParts (s := s) (op := .store false) (.inr rfl) ps
  have heq : s.frameStore q = (s.ownParts (.store false) ps).1.freshId.2 := enterOwn_store hq ho hport rfl rfl rfl
  rw [heq]
  refine ⟨hstep.trans (ownStep_freshId _), cur_ownParts (.inr rfl) ps, fun d => ?_⟩
  rw [← write_granuleParts hfit (length_regBytes _ _ _)]
  exact pool_ownParts_store ps d

/-- A register of a frame: a v register, or an x register that is not hard-wired. -/
def FrameReg (r : Reg) (n : Nat) : Prop := (∃ k, r = .v k ∧ n = 64) ∨ (∃ k, r = .x k ∧ k ≠ 0 ∧ n = 8)

/-- Delivering the parts of a slot gives its register the bytes of the slot. -/
theorem regBytes_deliver {a : Access} {t : Thread} {m : Memory} {r : Reg} {n : Nat} {addr : Word} {l : Part → Option Loc}
    (hr : FrameReg r n) (hfit : SlotFits n addr) (hd : a.dest = some r) (hret : a.ret = if n = 8 then .scalar .i64 else .bytes none)
    (hp : a.parts = (granuleParts addr [] n).map (fun p =>
      { p with stage := .performed, loc := l p, data := m.read (poolOff p.va) p.len })) :
    regBytes (a.deliver t) r n = m.read (poolOff addr) n := by
  rcases hr with ⟨k, rfl, rfl⟩ | ⟨k, rfl, hk, rfl⟩
  · have ha : addr.toNat % 64 = 0 := by
      rcases hfit with h | h
      · omega
      · exact h.2
    rw [granuleParts_block, List.map_map] at hp
    have hlen : (m.read (poolOff addr) 64).length = 64 := Memory.length_read _ _ _
    have hpiece : ∀ p ∈ a.parts, p.pieceOf (m.read (poolOff addr) 64) := by
      rw [hp]
      intro p hp
      obtain ⟨i, hi, rfl⟩ := List.mem_map.mp hp
      have hi := List.mem_range.mp hi
      refine ⟨16, ?_, Memory.length_read _ _ _⟩
      simp only [Function.comp_apply, granulePiece, mkPart]
      rw [Memory.read_part _ _ (by omega), poolOff_add_piece ha hi]
    have hpatch := patchParts_eq hpiece (t.getV k) (fun j hj => by
      refine ⟨_, by rw [hp]; exact List.mem_map.mpr ⟨j / 128, List.mem_range.mpr (by omega), rfl⟩, ?_⟩
      simp only [Function.comp_apply, granulePiece, mkPart, Memory.length_read]
      omega)
    have hget : (a.deliver t).getV k = BitVec.ofNat 512 (leNat (m.read (poolOff addr) 64)) :=
      (deliver_bytes t hd hret).trans hpatch
    have hlt := leNat_lt (m.read (poolOff addr) 64)
    rw [hlen] at hlt
    have hbytes := leBytes_leNat (m.read (poolOff addr) 64)
    rw [hlen] at hbytes
    show leBytes 64 ((a.deliver t).getV k).toNat = _
    rw [hget, BitVec.toNat_ofNat, Nat.mod_eq_of_lt (hlt.trans_le (by rw [show 256 = 2 ^ 8 from rfl, ← pow_mul])), hbytes]
  · have hlen : (m.read (poolOff addr) 8).length = 8 := Memory.length_read _ _ _
    rw [granuleParts_doubleword] at hp
    have hget := deliver_scalar t hd hret hp
    rw [if_neg hk] at hget
    have hbytes := leBytes_leNat (m.read (poolOff addr) 8)
    rw [hlen] at hbytes
    show leBytes 8 ((a.deliver t).getX k).toNat = _
    rw [hget]
    exact (congrArg (leBytes 8) (ext_i64_toNat hlen)).trans hbytes

/-- The result of an access sets no flag and advances no generator. -/
theorem onlyWrites_deliver {a : Access} {r : Reg} (h : a.dest = some r) (t : Thread) : OnlyWrites t (a.deliver t) [r] := by
  have hspecial : (a.deliver t).fpflags = t.fpflags ∧ (a.deliver t).srstate = t.srstate := by
    unfold Access.deliver
    rw [h]
    dsimp only
    split <;> simp
  exact ⟨deliver_keeps h t, hspecial.1, hspecial.2⟩

/-- What loading one register of a frame leaves: the bytes of its slot in it. -/
theorem frameLoad_spec (hq : Quiet s) (hfit : SlotFits q.2.1 q.2.2) (hreg : FrameReg q.1 q.2.1)
    (hturn : s.inTurn (coreOf s.me) (poolOff q.2.2) q.2.1 (s.me % 4) = true) :
    OwnStep s (s.frameLoad q) ∧ OnlyWrites s.cur (s.frameLoad q).cur [q.1] ∧
      regBytes (s.frameLoad q).cur q.1 q.2.1 = s.poolRead (coreOf s.me) (poolOff q.2.2) q.2.1 ∧
      ∀ d, ((s.frameLoad q).core d).pool = (s.core d).pool := by
  set ps := granuleParts q.2.2 [] q.2.1 with hps
  set a := s.newAccess .load (some q.1) (if q.2.1 = 8 then .scalar .i64 else .bytes none) true false false
    (s.mustFollow s.me .load) ps with ha
  have ho : Own s { a with id := s.nextId } := ⟨rfl, rfl, rfl, mustFollow_quiet hq .load, .inl rfl⟩
  have hport : PartsAtPort s ps := partsAtPort_granuleParts hfit _ hturn
  have hstep := ownStep_ownParts (s := s) (op := .load) (.inl rfl) ps
  set u := (s.ownParts .load ps).1 with hu
  set b : Access := { a with id := s.nextId, parts := (s.ownParts .load ps).2 } with hb
  have heq : s.frameLoad q = (u.modCur b.deliver).freshId.2 := enterOwn_load hq ho hport rfl rfl
  have hcur : (s.frameLoad q).cur = b.deliver s.cur := by
    rw [heq]
    exact (State.cur_modCur u b.deliver).trans (congrArg b.deliver (cur_ownParts (.inl rfl) ps))
  refine ⟨?_, ?_, ?_, fun d => ?_⟩
  · rw [heq]
    exact (hstep.modCur b.deliver).trans (ownStep_freshId _)
  · rw [hcur]
    exact onlyWrites_deliver rfl _
  · rw [hcur]
    exact regBytes_deliver hreg hfit rfl rfl (ownParts_load ps)
  · rw [heq]
    exact pool_ownParts_load ps d

end

end Sys2Proof.Machine

namespace Sys2Proof.Machine

open Claims

/-! ## The registers and the slots of a frame (R127, R129) -/

section

variable {o : Ops} {top : Word} {rs vs xs : List (Reg × Nat)} {q : Reg × Nat × Word}

theorem mem_of_mem_frameSlots (h : q ∈ frameSlots top rs) : (q.1, q.2.1) ∈ rs := by
  induction rs generalizing top with
  | nil => cases h
  | cons r rs ih =>
    rcases List.mem_cons.mp h with rfl | h
    · exact .head _
    · exact .tail _ (ih h)

theorem map_fst_frameSlots : (frameSlots top rs).map Prod.fst = rs.map Prod.fst := by
  induction rs generalizing top with
  | nil => rfl
  | cons r rs ih => rw [frameSlots, List.map_cons, List.map_cons, ih]

/-- A slot of two runs of registers is one of the first, or one of the second below it. -/
theorem mem_frameSlots_append (h : q ∈ frameSlots top (vs ++ xs)) : q ∈ frameSlots top vs ∨ (q.1, q.2.1) ∈ xs := by
  induction vs generalizing top with
  | nil => exact .inr (mem_of_mem_frameSlots h)
  | cons r vs ih =>
    rcases List.mem_cons.mp h with rfl | h
    · exact .inl (.head _)
    · exact (ih h).imp_left (.tail _)

/-- Vectors stored downwards from a multiple of their size stand at such multiples. -/
theorem frameSlots_aligned (hvs : ∀ r ∈ vs, r.2 = 64) (htop : top.toNat % 64 = 0) :
    ∀ q ∈ frameSlots top vs, q.2.2.toNat % 64 = 0 := by
  induction vs generalizing top with
  | nil => simp [frameSlots]
  | cons r vs ih =>
    obtain ⟨hr, hvs⟩ := List.forall_mem_cons.mp hvs
    have hnext : (top - BitVec.ofNat 64 r.2).toNat % 64 = 0 := by
      have := top.isLt
      rw [hr, BitVec.toNat_sub, BitVec.toNat_ofNat]
      omega
    exact List.forall_mem_cons.mpr ⟨hnext, ih hvs hnext⟩

/-- The bytes that registers take in a frame. -/
def frameSize (rs : List (Reg × Nat)) : Nat := (rs.map Prod.snd).sum

/-- The slots lie below the top, each below the ones before. -/
theorem frameSlots_below (h : frameSize rs ≤ top.toNat) :
    (∀ q ∈ frameSlots top rs, top.toNat - frameSize rs ≤ q.2.2.toNat ∧ q.2.2.toNat + q.2.1 ≤ top.toNat) ∧
      (frameSlots top rs).Pairwise (fun p q => q.2.2.toNat + q.2.1 ≤ p.2.2.toNat) := by
  induction rs generalizing top with
  | nil => exact ⟨by simp [frameSlots], .nil⟩
  | cons r rs ih =>
    have hsum : frameSize (r :: rs) = r.2 + frameSize rs := by simp [frameSize]
    have hlt := top.isLt
    have hnext : (top - BitVec.ofNat 64 r.2).toNat = top.toNat - r.2 := by
      rw [BitVec.toNat_sub, BitVec.toNat_ofNat]
      omega
    obtain ⟨hin, hpair⟩ := ih (top := top - BitVec.ofNat 64 r.2) (by omega)
    rw [hnext] at hin
    refine ⟨List.forall_mem_cons.mpr ⟨?_, fun q hq => ?_⟩, List.pairwise_cons.mpr ⟨fun q hq => ?_, hpair⟩⟩
    · simp only [hnext]
      omega
    · have := hin q hq
      omega
    · have := hin q hq
      simp only [hnext]
      omega

/-- The vectors of a frame come first, then its doublewords. -/
theorem frameRegs_eq (o : Ops) : ∃ vs xs, frameRegs o = vs ++ xs ∧ (∀ r ∈ vs, r.2 = 64) ∧ (∀ r ∈ xs, r.2 = 8) ∧
    frameSize (frameRegs o) = 64 * frameNv o + 8 * (frameNx o + if frameRa o then 1 else 0) := by
  refine ⟨_, _, List.append_assoc _ _ _, by simp, ?_, ?_⟩
  · split <;> simp
  · cases h : frameRa o <;> simp [frameSize, frameRegs, h, Function.comp_def] <;> ring

theorem slotFits_frameRegs (htop : top.toNat % 64 = 0) : ∀ q ∈ frameSlots top (frameRegs o), SlotFits q.2.1 q.2.2 := by
  obtain ⟨vs, xs, heq, hvs, hxs, -⟩ := frameRegs_eq o
  intro q hq
  rw [heq] at hq
  rcases mem_frameSlots_append hq with hq | hq
  · exact .inr ⟨hvs _ (mem_of_mem_frameSlots hq), frameSlots_aligned hvs htop q hq⟩
  · exact .inl (hxs _ hq)

theorem frameBase_eq (o : Ops) : frameBase o = 12 ∨ frameBase o = 24 := by unfold frameBase; split <;> simp

/-- The registers of a frame that R127 admits: v16 to v31, x1, and x registers from BASE. -/
theorem mem_frameRegs (hx : frameNx o ≤ 8) {r : Reg × Nat} (h : r ∈ frameRegs o) : FrameReg r.1 r.2 ∧ r.1 ≠ .x 2 := by
  have hbase := frameBase_eq o
  rcases List.mem_append.mp h with h | h
  · rcases List.mem_append.mp h with h | h
    · obtain ⟨i, -, rfl⟩ := List.mem_map.mp h
      exact ⟨.inl ⟨_, rfl, rfl⟩, by simp⟩
    · obtain rfl : r = (.x 1, 8) := by
        split at h
        · simpa using h
        · cases h
      exact ⟨.inr ⟨1, rfl, by decide, rfl⟩, by decide⟩
  · obtain ⟨i, hi, rfl⟩ := List.mem_map.mp h
    have hi := List.mem_range.mp hi
    have hn : (BitVec.ofNat 7 (frameBase o + i)).toNat = frameBase o + i := by
      rw [BitVec.toNat_ofNat, Nat.mod_eq_of_lt (by omega)]
    refine ⟨.inr ⟨_, rfl, fun h0 => ?_, rfl⟩, fun h2 => ?_⟩
    · rw [h0] at hn
      simp at hn
      omega
    · rw [Reg.x.inj h2] at hn
      simp at hn
      omega

theorem nodup_frameRegs (hx : frameNx o ≤ 8) (hv : frameNv o ≤ 16) : ((frameRegs o).map Prod.fst).Nodup := by
  have hbase := frameBase_eq o
  rw [frameRegs, List.map_append, List.map_append, List.map_map, List.map_map]
  refine ((List.Nodup.map_on (fun i hi j hj hij => ?_) List.nodup_range).append ?_ fun r h h' => ?_).append
    (List.Nodup.map_on (fun i hi j hj hij => ?_) List.nodup_range) fun r h h' => ?_
  · have hi := List.mem_range.mp hi
    have hj := List.mem_range.mp hj
    have := congrArg BitVec.toNat (Reg.v.inj hij)
    simp only [BitVec.toNat_ofNat] at this
    omega
  · split <;> simp
  · obtain ⟨i, -, rfl⟩ := List.mem_map.mp h
    split at h' <;> simp at h'
  · have hi := List.mem_range.mp hi
    have hj := List.mem_range.mp hj
    have := congrArg BitVec.toNat (Reg.x.inj hij)
    simp only [BitVec.toNat_ofNat] at this
    omega
  · obtain ⟨i, hi, rfl⟩ := List.mem_map.mp h'
    have hi := List.mem_range.mp hi
    rcases List.mem_append.mp h with h | h
    · simp at h
    · split at h
      · have := congrArg BitVec.toNat (Reg.x.inj (List.mem_singleton.mp h))
        simp only [BitVec.toNat_ofNat] at this
        simp at this
        omega
      · cases h

end

/-! ## The registers of a frame one after another (R129, R130) -/

section

variable {s : State} {qs : List (Reg × Nat × Word)}

/-- Every slot stands where its size wants it, and its bytes are in their turn. -/
def SlotsReady (s : State) (qs : List (Reg × Nat × Word)) : Prop :=
  ∀ q ∈ qs, SlotFits q.2.1 q.2.2 ∧ s.inTurn (coreOf s.me) (poolOff q.2.2) q.2.1 (s.me % 4) = true

theorem SlotsReady.step {t : State} (h : SlotsReady s qs) (hstep : OwnStep s t) : SlotsReady t qs := fun q hq => by
  rw [hstep.me, hstep.turn]
  exact h q hq

/-- Where the registers of a frame stand in the pool, and the bytes that they hold. -/
def slotRuns (t : Thread) (qs : List (Reg × Nat × Word)) : List (Nat × List Byte) :=
  qs.map (fun q => (poolOff q.2.2, regBytes t q.1 q.2.1))

theorem foldl_frameStore (hq : Quiet s) (hr : SlotsReady s qs) :
    OwnStep s (qs.foldl State.frameStore s) ∧ (qs.foldl State.frameStore s).cur = s.cur ∧
      ∀ d, ((qs.foldl State.frameStore s).core d).pool =
        if d = coreOf s.me then (s.core d).pool.writeAll (slotRuns s.cur qs) else (s.core d).pool := by
  induction qs generalizing s with
  | nil => exact ⟨.refl s, rfl, fun d => (ite_self _).symm⟩
  | cons q qs ih =>
    obtain ⟨⟨hfit, hturn⟩, hrest⟩ := List.forall_mem_cons.mp hr
    obtain ⟨hstep, hcur, hpool⟩ := frameStore_spec hq hfit hturn
    obtain ⟨hstep', hcur', hpool'⟩ := ih (hstep.quiet hq) (SlotsReady.step hrest hstep)
    refine ⟨hstep.trans hstep', hcur'.trans hcur, fun d => ?_⟩
    rw [List.foldl_cons, hpool', hpool, hstep.me, hcur]
    split <;> rfl

theorem regBytes_kept {a b : Thread} {rs : List Reg} (h : RegsKept a b rs) {r : Reg} (hr : r ∉ rs) (n : Nat) :
    regBytes b r n = regBytes a r n := by
  cases r with
  | x k => exact congrArg (fun w : Word => leBytes n w.toNat) (h.x k hr)
  | v k => exact congrArg (fun w : VWord => leBytes n w.toNat) (h.v k hr)
  | _ => rfl

theorem foldl_frameLoad (hq : Quiet s) (hr : SlotsReady s qs) (hregs : ∀ q ∈ qs, FrameReg q.1 q.2.1)
    (hnodup : (qs.map Prod.fst).Nodup) :
    OwnStep s (qs.foldl State.frameLoad s) ∧ OnlyWrites s.cur (qs.foldl State.frameLoad s).cur (qs.map Prod.fst) ∧
      (∀ q ∈ qs, regBytes (qs.foldl State.frameLoad s).cur q.1 q.2.1 = s.poolRead (coreOf s.me) (poolOff q.2.2) q.2.1) ∧
      ∀ d, ((qs.foldl State.frameLoad s).core d).pool = (s.core d).pool := by
  induction qs generalizing s with
  | nil => exact ⟨.refl s, .refl _ _, by simp, fun _ => rfl⟩
  | cons q qs ih =>
    obtain ⟨⟨hfit, hturn⟩, hrest⟩ := List.forall_mem_cons.mp hr
    obtain ⟨hreg, hregs⟩ := List.forall_mem_cons.mp hregs
    obtain ⟨hnew, hnodup⟩ := List.nodup_cons.mp hnodup
    obtain ⟨hstep, hwrites, hbytes, hpool⟩ := frameLoad_spec hq hfit hreg hturn
    obtain ⟨hstep', hwrites', hbytes', hpool'⟩ := ih (hstep.quiet hq) (SlotsReady.step hrest hstep) hregs hnodup
    refine ⟨hstep.trans hstep', hwrites.trans hwrites', List.forall_mem_cons.mpr ⟨?_, fun p hp => ?_⟩,
      fun d => (hpool' d).trans (hpool d)⟩
    · exact (regBytes_kept hwrites'.regs hnew _).trans hbytes
    · rw [List.foldl_cons, hbytes' p hp, hstep.me, State.poolRead, State.poolRead, hpool]

end

end Sys2Proof.Machine

namespace Sys2Proof.Machine

open Claims

/-! ## Where a frame lies (R129) -/

section

variable {o : Ops} {x2 : Word}

theorem frameBytes_le (o : Ops) : frameBytes o ≤ 64 * 4095 := by
  have : o.fld 0 12 < 2 ^ 12 := (o.x.extractLsb' 0 12).isLt
  unfold frameBytes
  omega

theorem size_pos {r : Reg × Nat} (hr : r ∈ frameRegs o) : 0 < r.2 := by
  obtain ⟨vs, xs, heq, hvs, hxs, -⟩ := frameRegs_eq o
  rw [heq] at hr
  rcases List.mem_append.mp hr with hr | hr
  · simp [hvs r hr]
  · simp [hxs r hr]

/-- A frame of no bytes has no registers. -/
theorem frameRegs_eq_nil (h : frameSize (frameRegs o) = 0) : frameRegs o = [] :=
  List.eq_nil_iff_forall_not_mem.mpr fun r hr => (size_pos hr).ne' (List.sum_eq_zero_iff.mp h r.2 (List.mem_map_of_mem hr))

/-- The slots of a frame inside the scratchpad: each below the ones before, and all between the new stack pointer and the old one. -/
theorem slotRuns_inFrame {w : Word} (t : Thread) (hstack : bitsAt x2 60 4 = 0xD)
    (hin : inScratch w (x2 - BitVec.ofNat 64 (frameBytes o)).toNat x2.toNat = true)
    (hsize : frameSize (frameRegs o) ≤ frameBytes o) :
    (slotRuns t (frameSlots x2 (frameRegs o))).Pairwise (fun v r => r.1 + r.2.length ≤ v.1) ∧
      ∀ r ∈ slotRuns t (frameSlots x2 (frameRegs o)), poolOff (x2 - BitVec.ofNat 64 (frameBytes o)) ≤ r.1 ∧
        r.1 + r.2.length ≤ poolOff (x2 - BitVec.ofNat 64 (frameBytes o)) + frameBytes o := by
  have hle := frameBytes_le o
  have hx2 := x2.isLt
  rcases Nat.eq_zero_or_pos (frameBytes o) with h0 | hpos
  · rw [frameRegs_eq_nil (by omega)]
    exact ⟨.nil, by simp [slotRuns, frameSlots]⟩
  · have hscr : partScr w < 2 ^ 9 := (w.extractLsb' 11 9).isLt
    have hx2 : 0xD * 2 ^ 60 ≤ x2.toNat := by
      simp [bitsAt, Nat.shiftRight_eq_div_pow] at hstack
      omega
    have hnew : (x2 - BitVec.ofNat 64 (frameBytes o)).toNat = x2.toNat - frameBytes o := by
      rw [BitVec.toNat_sub, BitVec.toNat_ofNat]
      omega
    simp only [inScratch, Bool.or_eq_true, Bool.and_eq_true, decide_eq_true_eq] at hin
    have hlo : 0xD * 2 ^ 60 + frameBytes o ≤ x2.toNat := by omega
    have hhi : x2.toNat < 0xD * 2 ^ 60 + 2 ^ 19 := by omega
    obtain ⟨hslots, hpair⟩ := frameSlots_below (rs := frameRegs o) (top := x2) (by omega)
    have hoff : ∀ q ∈ frameSlots x2 (frameRegs o), poolOff q.2.2 + 0xD * 2 ^ 60 = q.2.2.toNat := fun q hq => by
      have := hslots q hq
      have := size_pos (mem_of_mem_frameSlots hq)
      rw [poolOff_eq]
      omega
    have hoffnew : poolOff (x2 - BitVec.ofNat 64 (frameBytes o)) + 0xD * 2 ^ 60 = x2.toNat - frameBytes o := by
      rw [poolOff_eq, hnew]
      omega
    refine ⟨List.pairwise_map.mpr (hpair.imp_of_mem fun {p q} hp hq h => ?_), fun r hr => ?_⟩
    · have := hoff p hp
      have := hoff q hq
      simp only [length_regBytes]
      omega
    · obtain ⟨q, hq, rfl⟩ := List.mem_map.mp hr
      have := hoff q hq
      have := hslots q hq
      simp only [length_regBytes]
      omega

end

/-! ## ENTER and LEAVE (R129, R130) -/

section

variable {maj fn : Nat} {o : Ops} {s : State} {i : Instr}

/-- An instruction that makes a frame: registers of its own thread and bytes of its own pool, then x2. -/
theorem issues_frame {t : State} {w : Word} {regs : List Reg} {done : State → Prop}
    (hexec : exec i s = .next (t.modCur (fun t => t.setX 2 w)).finish) (hstep : OwnStep s t)
    (hw : OnlyWrites (atIssue maj fn o s) t.cur regs) (hdone : done (t.modCur (fun t => t.setX 2 w)).finish) :
    Issues i s { plain maj fn o s with regs := .x 2 :: regs } done := by
  have hb := ((hw.trans (onlyWrites_wx t.cur 2 w)).mono (rs' := .x 2 :: regs) (by simp [or_comm])).changed
  refine ⟨_, hexec,
    .of_thread (t.cur.setX 2 w) (hstep.modCur _).finish.others ?_ hb.pend hb.perf hb.flags hb.gen hb.gap hb.regs hb.rest, hdone⟩
  rw [State.cur_finish, State.cur_modCur, State.modCur_clock, hstep.clock, Thread.setX_pc, hw.pc]
  rfl

/-- The state in which ENTER and LEAVE find the machine has the same slots in their turn. -/
theorem slotsReady_readied {qs : List (Reg × Nat × Word)} (hfit : ∀ q ∈ qs, SlotFits q.2.1 q.2.2)
    (hturn : ∀ q ∈ qs, s.inTurn (coreOf s.me) (poolOff q.2.2) q.2.1 (s.me % 4) = true) : SlotsReady (readied maj fn o s) qs :=
  SlotsReady.step (fun q hq => ⟨hfit q hq, hturn q hq⟩) (ownStep_clearPending s _)

/-- What ENTER does: its checks in their order, then the registers stored and x2 moved down. -/
theorem exec_ctlEnter (h : Ready 0x05 0x08 o s) : exec (.ctlEnter o) s =
    .next (if ¬ bitsAt (s.cur.getX 2) 60 4 = 0xD then (readied 0x05 0x08 o s).raise .pool 0 (s.cur.getX 2)
      else if ¬ bitsAt (s.cur.getX 2) 0 6 = 0 then (readied 0x05 0x08 o s).raise .align 0 (s.cur.getX 2)
      else if ¬ s.cur.stacklim.toNat ≤ (s.cur.getX 2 - BitVec.ofNat 64 (frameBytes o)).toNat then
        (readied 0x05 0x08 o s).raise .stack 0 0
      else if ¬ inScratch (s.core (coreOf s.me)).part (s.cur.getX 2 - BitVec.ofNat 64 (frameBytes o)).toNat
          (s.cur.getX 2).toNat = true then
        (readied 0x05 0x08 o s).raise .pool 0 (s.cur.getX 2 - BitVec.ofNat 64 (frameBytes o))
      else (((frameSlots (s.cur.getX 2) (frameRegs o)).foldl State.frameStore (readied 0x05 0x08 o s)).modCur
        (fun t => t.setX 2 (s.cur.getX 2 - BitVec.ofNat 64 (frameBytes o)))).finish) := by
  rw [exec_ready execCtlEnter h rfl rfl rfl rfl]
  simp

/-- What LEAVE does: its checks in their order, then the registers loaded and x2 moved up. -/
theorem exec_ctlLeave (h : Ready 0x05 0x09 o s) : exec (.ctlLeave o) s =
    .next (if ¬ bitsAt (s.cur.getX 2) 60 4 = 0xD then (readied 0x05 0x09 o s).raise .pool 0 (s.cur.getX 2)
      else if ¬ bitsAt (s.cur.getX 2) 0 6 = 0 then (readied 0x05 0x09 o s).raise .align 0 (s.cur.getX 2)
      else if ¬ inScratch (s.core (coreOf s.me)).part (s.cur.getX 2).toNat ((s.cur.getX 2).toNat + frameBytes o) = true then
        (readied 0x05 0x09 o s).raise .pool 0 (s.cur.getX 2)
      else (((frameSlots (s.cur.getX 2 + BitVec.ofNat 64 (frameBytes o)) (frameRegs o)).foldl State.frameLoad
        (readied 0x05 0x09 o s)).modCur (fun t => t.setX 2 (s.cur.getX 2 + BitVec.ofNat 64 (frameBytes o)))).finish) := by
  rw [exec_ready execCtlLeave h rfl rfl rfl rfl]
  simp

/-- Among the registers, moving the stack pointer changes x2 alone. -/
theorem getX_moved (t : State) (w : Word) : (t.modCur (fun t => t.setX 2 w)).finish.cur.getX 2 = w := by
  simp [Thread.getX_setX]

theorem regsKept_moved (t : State) (w : Word) : RegsKept t.cur (t.modCur (fun t => t.setX 2 w)).finish.cur [.x 2] := by
  have h := (wx_keeps t.cur 2 w).regs
  rw [State.cur_finish, State.cur_modCur]
  exact ⟨h.x, h.v, h.p, h.k, h.s⟩

theorem toNat_mod_of_even {w : Word} (h : bitsAt w 0 6 = 0) : w.toNat % 64 = 0 := by simpa [bitsAt] using h

theorem frameTop_aligned {w : Word} (h : w.toNat % 64 = 0) : (w + BitVec.ofNat 64 (frameBytes o)).toNat % 64 = 0 := by
  rw [BitVec.toNat_add, BitVec.toNat_ofNat, frameBytes]
  omega

theorem quiet_readied (hf : IdsFresh s) (hu : s.undone s.me = []) : Quiet (readied maj fn o s) :=
  (ownStep_clearPending s _).quiet ⟨hf, hu⟩

/-- Bytes written to one pool, every one of them in a range. -/
theorem bytesKeptBut_writeAll {t : State} {c off n : Nat} {ws : List (Nat × List Byte)}
    (hpool : ∀ d, (t.core d).pool = if d = c then (s.core d).pool.writeAll ws else (s.core d).pool)
    (hin : ∀ w ∈ ws, off ≤ w.1 ∧ w.1 + w.2.length ≤ off + n) (hdram : t.dram = s.dram) (hhost : t.hostMem = s.hostMem) :
    BytesKeptBut s t c off n := by
  refine ⟨fun d a h => ?_, hdram, hhost⟩
  rw [hpool]
  split
  · next hd =>
    refine Memory.byte_writeAll_out _ fun w hw => ?_
    have := hin w hw
    have := h.resolve_left (fun hne => hne hd)
    omega
  · rfl

theorem enterOpensAFrame : Claims.EnterOpensAFrame := by
  intro o s hf hraised h x2 new c part pend stack even limit inside
  have hexec := exec_ctlEnter h
  refine ⟨fun h1 => ?_, fun h1 h2 => ?_, fun h1 h2 h3 => ?_, fun h1 h2 h3 h4 => ?_, fun h1 h2 h3 h4 hu hturn hnx hnv hsize => ?_⟩
  · rw [if_pos h1] at hexec
    exact stops_raise hraised hexec
  · rw [if_neg (not_not_intro h1), if_pos h2] at hexec
    exact stops_raise hraised hexec
  · rw [if_neg (not_not_intro h1), if_neg (not_not_intro h2), if_pos h3] at hexec
    exact stops_raise hraised hexec
  · rw [if_neg (not_not_intro h1), if_neg (not_not_intro h2), if_neg (not_not_intro h3), if_pos h4] at hexec
    exact stops_raise hraised hexec
  · rw [if_neg (not_not_intro h1), if_neg (not_not_intro h2), if_neg (not_not_intro h3), if_neg (not_not_intro h4)] at hexec
    obtain ⟨-, -, -, -, -, hsum⟩ := frameRegs_eq o
    obtain ⟨hpair, hinside⟩ := slotRuns_inFrame (x2 := x2) (atIssue 0x05 0x08 o s) h1 h4 (hsum.trans_le hsize)
    obtain ⟨hstep, hcur, hpool⟩ := foldl_frameStore (quiet_readied hf hu)
      (slotsReady_readied (slotFits_frameRegs (toNat_mod_of_even h2)) hturn)
    have hstep := (ownStep_clearPending s _).trans hstep
    rw [cur_readied] at hcur hpool
    have hpool : ∀ d, ((((frameSlots x2 (frameRegs o)).foldl State.frameStore (readied 0x05 0x08 o s)).modCur
        (fun t => t.setX 2 new)).finish.core d).pool =
          if d = c then (s.core d).pool.writeAll (slotRuns (atIssue 0x05 0x08 o s) (frameSlots x2 (frameRegs o))) else (s.core d).pool :=
      fun d => by simpa using hpool d
    have hmoved := (hstep.modCur (fun t => t.setX 2 new)).finish
    refine issues_frame hexec hstep (hcur ▸ .refl _ _) ⟨getX_moved _ _, fun q hq => ?_, ?_, hmoved.only⟩
    · have hread := Memory.read_writeAll (s.core c).pool hpair _ (List.mem_map_of_mem hq)
      rw [length_regBytes] at hread
      rw [State.poolRead, hpool, if_pos rfl, hread]
      rfl
    · exact bytesKeptBut_writeAll hpool hinside hmoved.dram hmoved.hostMem

theorem leaveClosesAFrame : Claims.LeaveClosesAFrame := by
  intro o s hf hraised h x2 top c pend stack even inside
  have hexec := exec_ctlLeave h
  refine ⟨fun h1 => ?_, fun h1 h2 => ?_, fun h1 h2 h3 => ?_, fun h1 h2 h3 hu hturn hnx hnv => ?_⟩
  · rw [if_pos h1] at hexec
    exact stops_raise hraised hexec
  · rw [if_neg (not_not_intro h1), if_pos h2] at hexec
    exact stops_raise hraised hexec
  · rw [if_neg (not_not_intro h1), if_neg (not_not_intro h2), if_pos h3] at hexec
    exact stops_raise hraised hexec
  · rw [if_neg (not_not_intro h1), if_neg (not_not_intro h2), if_neg (not_not_intro h3)] at hexec
    have htop : top.toNat % 64 = 0 := frameTop_aligned (toNat_mod_of_even h2)
    obtain ⟨hstep, hwrites, hbytes, hpool⟩ := foldl_frameLoad (quiet_readied hf hu) (slotsReady_readied (slotFits_frameRegs htop) hturn)
      (fun q hq => (mem_frameRegs hnx (mem_of_mem_frameSlots hq)).1) (by rw [map_fst_frameSlots]; exact nodup_frameRegs hnx hnv)
    have hstep := (ownStep_clearPending s _).trans hstep
    rw [map_fst_frameSlots, cur_readied] at hwrites
    have hmoved := (hstep.modCur (fun t => t.setX 2 top)).finish
    refine issues_frame hexec hstep hwrites ⟨getX_moved _ _, fun q hq => ?_, ⟨fun d => ?_, hmoved.dram, hmoved.hostMem⟩, hmoved.only⟩
    · have hx2 : q.1 ∉ [Reg.x 2] := by simpa using (mem_frameRegs hnx (mem_of_mem_frameSlots hq)).2
      rw [regBytes_kept (regsKept_moved _ _) hx2, hbytes q hq]
      simp [State.poolRead, c]
    · simpa [x2, top] using hpool d

end

end Sys2Proof.Machine

namespace Sys2Proof

/-- Settles O17: with no access of the thread unfinished, each register of a frame is stored or loaded as its instruction issues, and
the slots lie apart. -/
theorem frames : Obligations.Frames :=
  ⟨Machine.enterOpensAFrame, Machine.leaveClosesAFrame⟩

end Sys2Proof

namespace Sys2Proof.Machine

open Claims

/-! # VEC and VPM element by element -/

section

variable {fn : Nat} {o : Ops} {s : State} {i : Instr} {d : BitVec 6}

/-! ## VEC (R145 to R147) -/

/-- A VEC function writes what it gives for the bits of each active element. -/
theorem vecOp_writesElems {r : Nat → BitVec 32 → ElemRes} (f : Ops → Thread → Nat → Nat → Nat → Nat → BitVec 32 → ElemRes)
    (hd : o.d = .v d) (hi : exec i s = vecOp fn f o s) (hr : ∀ q e, f o (s.cur.withPend q) e (elemOf (s.cur.vr o.a) o.ty.width e)
      (elemB s.cur o.b o.ty.width e) (elemOf (s.cur.vr o.c) o.ty.width e) = r e) (h : Ready 0x10 fn o s) :
    WritesElems i 0x10 fn o s d r :=
  writesElems h hd rfl rfl _ hi (fun q => funext (hr q))

end

end Sys2Proof.Machine

namespace Sys2Proof

open Machine Claims

/-- Settles O20: each function is `vecOp` of its operation. -/
theorem vectorElementResults : Obligations.VectorElementResults := by
  intro o s d hd t ty w a b c i f mode rd int arith pick bits clamp gives
  have arithmetic : ∀ fn fi ff (j : Ops → Instr), exec (j o) s = vecArith fn fi ff o s →
      gives j fn (arith (fun e => fi (i (a e)) (i (b e)) (i (c e))) (fun e => ff rd (f (a e)) (f (b e)) (f (c e)))) :=
    fun fn fi ff j hj => vecOp_writesElems _ hd hj (fun _ _ => rfl)
  have pickOne : ∀ fn fi ff (j : Ops → Instr), exec (j o) s = vecPick fn fi ff o s →
      gives j fn (pick (fun e => fi (i (a e)) (i (b e))) (fun e => ff (f (a e)) (f (b e)))) :=
    fun fn fi ff j hj => vecOp_writesElems _ hd hj (fun _ _ => rfl)
  have bitwise : ∀ fn op (j : Ops → Instr), exec (j o) s = vecBits fn op o s → gives j fn (bits (fun e => op (a e) (b e))) :=
    fun fn op j hj => vecOp_writesElems _ hd hj (fun _ _ => rfl)
  have element : ∀ fn (j : Ops → Instr) (ex : Ops → State → Out) op r, exec (j o) s = ex o s → ex o s = vecOp fn op o s →
      (∀ q e, op o (s.cur.withPend q) e (a e) (b e) (c e) = r e) → gives j fn r :=
    fun fn j ex op r hj hop => vecOp_writesElems op hd (hj.trans hop)
  refine ⟨arithmetic 0x01 (fun a b _ => a + b) (fun rd a b _ => a.add rd b) .vecAdd rfl,
    arithmetic 0x02 (fun a b _ => a - b) (fun rd a b _ => a.add rd b.neg) .vecSub rfl,
    arithmetic 0x03 (fun a b _ => a * b) (fun _ a b _ => a.mul b) .vecMul rfl,
    arithmetic 0x04 (fun a b c => a * b + c) fmaV .vecFma rfl,
    arithmetic 0x05 (fun a b c => a * b - c) (fun rd a b c => fmaV rd a b c.neg) .vecFms rfl,
    pickOne 0x06 min (FVal.minMax false) .vecMin rfl, pickOne 0x07 max (FVal.minMax true) .vecMax rfl,
    pickOne 0x08 (fun a _ => a.natAbs) (fun a _ => a.abs) .vecAbs rfl,
    pickOne 0x09 (fun a _ => -a) (fun a _ => a.neg) .vecNeg rfl,
    bitwise 0x0A (· &&& ·) .vecAnd rfl, bitwise 0x0B (· ||| ·) .vecOr rfl, bitwise 0x0C (· ^^^ ·) .vecXor rfl,
    element 0x0D .vecShl execVecShl _ _ rfl rfl (fun _ _ => rfl), element 0x0E .vecShr execVecShr _ _ rfl rfl (fun _ _ => rfl),
    bitwise 0x0F (fun a _ => a) .vecMov rfl,
    element 0x10 .vecBcast execVecBcast _ _ rfl rfl (fun _ _ => rfl), element 0x11 .vecSel execVecSel _ _ rfl rfl (fun _ _ => rfl),
    element 0x12 .vecAdds execVecAdds _ _ rfl rfl (fun _ _ => rfl),
    element 0x13 .vecSubs execVecSubs _ _ rfl rfl (fun _ _ => rfl)⟩

end Sys2Proof

namespace Sys2Proof.Claims

open Machine

/-! # Waiting, and the special-function queue -/

section

variable {maj fn : Nat} {o : Ops} {s : State} {i : Instr}

/-- An instruction that waits has not issued (R311, R312): of its thread only the state and what it waits for have changed, and
the pending bits that a marker clears. -/
theorem waits_await {st : Status} {w : Wait} (hexec : exec i s = .next ((readied maj fn o s).await st w)) : Waits i s st w := by
  have hcur : ((readied maj fn o s).await st w).cur = { atIssue maj fn o s with status := st, wait := some w } := by
    rw [State.await, State.cur_modCur, cur_readied]
  refine ⟨_, hexec, onlyThreads_modCur_readied _, fun u hu => thread_modCur_readied_ne _ hu, ?_⟩
  rw [hcur]
  exact ⟨rfl, rfl, rfl, .of_eq rfl rfl rfl rfl rfl⟩

/-- An instruction that issues and goes on at PC + 12, whatever it has changed of the other units. -/
theorem issued_finish {u : State} {b : Thread} {c : Change} (hme : u.me = s.me) (hclock : u.clock = s.clock)
    (hothers : ∀ v, v ≠ s.me → u.thread v = s.thread v) (hcur : u.cur = b) (hpc : b.pc = s.cur.pc) (hc : c.pc = s.cur.pc + 12)
    (hb : Changed s.cur b c) : Issued s u.finish c := by
  refine .of_thread b (fun v hv => ?_) ?_ hb.pend hb.perf hb.flags hb.gen hb.gap hb.regs hb.rest
  · rw [State.thread_finish_ne _ (hme ▸ hv), hothers v hv]
  · rw [State.cur_finish, hcur, hclock, hpc, hc]

/-- An instruction that leaves its own thread alone. -/
theorem changed_plain : Changed s.cur (atIssue maj fn o s) (plain maj fn o s) := (OnlyWrites.refl _ []).changed

theorem thread_readied_ne {v : Nat} (h : v ≠ s.me) : (readied maj fn o s).thread v = s.thread v := State.thread_clearPending_ne s _ h

/-- VSF (R150, R151): the request enters the queue of its core, or the thread stalls. -/
theorem vsfOp_queues (j : Ops → Instr) (e : Ops → State → Out) (hj : exec (j o) s = e o s) (he : e o s = vsfOp fn o s)
    (h : Ready 0x12 fn o s) :
    ((s.core (coreOf s.me)).sfu.length < 8 → Issues (j o) s (plain 0x12 fn o s) (fun t =>
      (t.core (coreOf s.me)).sfu = (s.core (coreOf s.me)).sfu ++ [⟨fn, o.ty, o.d, s.cur.laneMask o.g, s.cur.vr o.a, s.me⟩] ∧
      { t.core (coreOf s.me) with sfu := (s.core (coreOf s.me)).sfu } = s.core (coreOf s.me) ∧
      (∀ e, e ≠ coreOf s.me → t.core e = s.core e) ∧ { t with threads := s.threads, cores := s.cores } = s)) ∧
    (¬ (s.core (coreOf s.me)).sfu.length < 8 → Waits (j o) s .stalled .sfuRoom) := by
  have hexec := exec_ready e h hj he rfl rfl
  have hcore : ∀ k, (readied 0x12 fn o s).core k = s.core k := State.core_clearPending s _
  have hme : (readied 0x12 fn o s).me = s.me := State.clearPending_me s _
  dsimp only at hexec
  rw [hme, hcore, cur_readied] at hexec
  refine ⟨fun hroom => ?_, fun hfull => ?_⟩
  · rw [if_neg (by omega)] at hexec
    refine ⟨_, hexec, issued_finish hme (State.clearPending_clock s _)
      (fun _ => thread_readied_ne) cur_readied rfl rfl changed_plain, ?_, ?_, fun e he => ?_, ?_⟩
    · rw [State.core_finish, State.core_modCore_self, hcore]
      rfl
    · rw [State.core_finish, State.core_modCore_self, hcore]
    · rw [State.core_finish, State.core_modCore_ne _ _ he, hcore]
    · exact congrArg (fun v : State => { v with cores := s.cores }) (onlyThreads_clearPending s (isMarker 0x12 fn o))
  · rw [if_pos (by omega)] at hexec
    exact waits_await hexec

end

end Sys2Proof.Claims

namespace Sys2Proof

open Machine Claims

/-- Settles O23: each function is `vsfOp`. -/
theorem specialFunctionsQueue : Obligations.SpecialFunctionsQueue := by
  intro o s c room gives
  have queues : ∀ (j : Ops → Instr) fn (e : Ops → State → Out), exec (j o) s = e o s → e o s = vsfOp fn o s → gives j fn := by
    intro j fn e hj he h
    obtain ⟨hroom, hfull⟩ := vsfOp_queues j e hj he h
    refine ⟨hroom, fun hr => ?_⟩
    obtain ⟨t, hexec, honly, -, hstatus, hwait, hpc, -⟩ := hfull hr
    exact ⟨t, hexec, hpc, hstatus, hwait, honly⟩
  exact ⟨queues .vsfExp2 0x01 execVsfExp2 rfl rfl, queues .vsfLog2 0x02 execVsfLog2 rfl rfl, queues .vsfRcp 0x03 execVsfRcp rfl rfl,
    queues .vsfRsqrt 0x04 execVsfRsqrt rfl rfl, queues .vsfSqrt 0x05 execVsfSqrt rfl rfl⟩

end Sys2Proof

namespace Sys2Proof.Claims

open Machine

/-! # VPM: permutations, reductions and scans -/

/-! ## One element written (R159) -/

/-- An element that lies outside the register is not written. -/
theorem setElem_outside (v : VWord) {w e : Nat} (y : Nat) (he : 512 ≤ w * e) : setElem v w e y = v := by
  have hzero : ∀ k, BitVec.ofNat 512 (k * 2 ^ (w * e)) = 0#512 := fun k => BitVec.eq_of_getLsbD_eq fun i hi => by
    rw [BitVec.getLsbD_ofNat, Nat.testBit_mul_two_pow, BitVec.getLsbD_zero]
    simp [show ¬ w * e ≤ i by omega]
  rw [setElem, hzero, hzero, BitVec.not_zero, BitVec.and_allOnes, BitVec.or_zero]

theorem elemOf_lt (v : VWord) (w e : Nat) : elemOf v w e < 2 ^ w := BitVec.isLt _

/-- The place of an element of a type, inside the register or wholly outside. -/
theorem width_mul_elems (ty : Ty) : ty.width * ty.elems = 512 := by cases ty <;> decide

theorem width_mul_succ_le (ty : Ty) {e : Nat} (he : e < ty.elems) : ty.width * (e + 1) ≤ 512 :=
  (Nat.mul_le_mul_left _ he).trans (width_elems ty)

/-- Whatever element is written, one of the type reads back as written, and the others as before. -/
theorem elemOf_setElem_type (v : VWord) (ty : Ty) (e y : Nat) {f : Nat} (hf : f < ty.elems) :
    elemOf (setElem v ty.width e y) ty.width f = if f = e then y % 2 ^ ty.width else elemOf v ty.width f := by
  by_cases he : e < ty.elems
  · exact elemOf_setElem v ty.width e f y (width_mul_succ_le ty he) (width_mul_succ_le ty hf)
  · rw [setElem_outside v y ((width_mul_elems ty).symm.le.trans (Nat.mul_le_mul_left _ (by omega))), if_neg (by omega)]

/-- Elements written one after another, each its own. -/
theorem elemOf_foldl_setElem (ty : Ty) (y : Nat → Nat) (es : List Nat) (v : VWord) {f : Nat} (hf : f < ty.elems) :
    elemOf (es.foldl (fun d e => setElem d ty.width e (y e)) v) ty.width f =
      if f ∈ es then y f % 2 ^ ty.width else elemOf v ty.width f := by
  induction es generalizing v with
  | nil => simp
  | cons e es ih =>
    rw [List.foldl_cons, ih, elemOf_setElem_type v ty e (y e) hf]
    by_cases hes : f ∈ es
    · simp [hes]
    · by_cases hfe : f = e
      · simp [hfe]
      · simp [hes, hfe]

/-- A write of one v register sets no flag and advances no generator. -/
theorem onlyWrites_wv (a : Thread) (d : BitVec 6) (w : VWord) : OnlyWrites a (a.wv (.v d) w) [.v d] :=
  ⟨wv_keeps a d w, by simp, by simp⟩

section

variable {maj fn : Nat} {o : Ops} {s : State}

/-- An instruction that only changes its own thread. `e` is its meaning. -/
theorem exec_issueReg {i : Instr} {f : Thread → Thread} (e : Ops → State → Out) (h : Ready maj fn o s) (hi : exec i s = e o s)
    (he : e o s = issueReg maj fn o s f) (hx : extraRegs maj fn o = []) (hm : alwaysMarker maj fn = false) :
    exec i s = .next ((readied maj fn o s).modCur f).finish := by
  rw [hi, he, issueReg, issue_plain h hx hm, readied, isMarker, hm, Bool.false_or]

/-- INS (R159): x A stands in element IDX where that lane is active. -/
theorem ins_writes {d : BitVec 6} (hd : o.d = .v d) (h : Ready 0x13 0x06 o s) :
    Acts (.vpmIns o) s { plain 0x13 0x06 o s with regs := [.v d] } (fun u => ∀ e, e < o.ty.elems →
      elemOf (u.getV d) o.ty.width e = if s.cur.act o.g o.ty.per (vpmIdx o) && e = vpmIdx o
        then (s.cur.xr o.a).toNat % 2 ^ o.ty.width else elemOf (s.cur.getV d) o.ty.width e) := by
  have hexec := exec_issueReg (i := .vpmIns o) execVpmIns h rfl rfl rfl rfl
  have hact : (atIssue 0x13 0x06 o s).act o.g o.ty.per (vpmIdx o) = s.cur.act o.g o.ty.per (vpmIdx o) := rfl
  have hold : (atIssue 0x13 0x06 o s).vr (.v d) = s.cur.getV d := rfl
  refine acts_finish_writes hexec ?_ (fun e he => ?_) <;> rw [hact, hd] <;>
    cases s.cur.act o.g o.ty.per (vpmIdx o)
  · exact .refl _ _
  · exact onlyWrites_wv _ d _
  · simp only [Bool.false_and, Bool.false_eq_true, if_false]
    rfl
  · simp only [if_true, Bool.true_and, decide_eq_true_eq]
    rw [Thread.getV_issued, Thread.wv, Thread.getV_setV, if_pos rfl, elemOf_setElem_type _ _ _ _ he, hold]
    rfl

/-- EXTR (R159): x D holds element IDX where that lane is active. -/
theorem extr_writesX {d : BitVec 7} (hd : o.d = .x d) (h : Ready 0x13 0x05 o s) :
    WritesX (.vpmExtr o) 0x13 0x05 o s d (if s.cur.act o.g o.ty.per (vpmIdx o)
      then BitVec.ofInt 64 (readInt o.ty.isSigned o.ty.width (elemOf (s.cur.vr o.a) o.ty.width (vpmIdx o)))
      else s.cur.getX d) := by
  have hexec := exec_issueReg (i := .vpmExtr o) execVpmExtr h rfl rfl rfl rfl
  have hact : (atIssue 0x13 0x05 o s).act o.g o.ty.per (vpmIdx o) = s.cur.act o.g o.ty.per (vpmIdx o) := rfl
  refine acts_finish_writes hexec ?_ ?_ <;> rw [hact, hd] <;> cases s.cur.act o.g o.ty.per (vpmIdx o)
  · exact .refl _ _
  · exact onlyWrites_wx _ d _
  · by_cases hz : d = 0
    · subst hz
      simp
    · rw [if_neg hz]
      rfl
  · by_cases hz : d = 0
    · subst hz
      simp
    · rw [if_neg hz, if_pos rfl, Thread.getX_issued, if_pos rfl, Thread.wx, Thread.getX_setX, if_pos ⟨rfl, hz⟩]
      rfl

end

theorem permutationResults : PermutationResults := by
  intro o s t w n on elem
  exact ⟨fun d hd => ⟨fun h => writesElems h hd rfl rfl _ rfl (fun _ => rfl), fun h => writesElems h hd rfl rfl _ rfl (fun _ => rfl),
    fun h => writesElems h hd rfl rfl _ rfl (fun _ => rfl), ins_writes hd⟩, fun d hd => extr_writesX hd⟩

/-! ## Reductions and scans (R160, R161) -/

/-- One element combined with the result so far (R161). -/
def combStep (o : Ops) (t : Thread) (mode : Nat) (scan : Bool) (p : VecAcc × Option Nat) (e : Nat) : VecAcc × Option Nat :=
  let x := elemOf (t.vr o.a) o.ty.width e
  let y := match p.2 with
    | none => (firstElem o.ty x, 0, p.1.gen)
    | some r => combElem o mode r x p.1.gen
  ({ d := if scan then setElem p.1.d o.ty.width e y.1 else p.1.d, fl := orF p.1.fl y.2.1, gen := y.2.2 }, some y.1)

theorem combGroup_nil (o : Ops) (t : Thread) (mode : Nat) (scan : Bool) (v : VecAcc) : combGroup o t mode scan v [] = v := rfl

/-- RED of one group: every element of it gets what all of them combined give. -/
theorem combGroup_red {o : Ops} {t : Thread} {mode : Nat} {v : VecAcc} {es : List Nat} {y : Nat}
    (h : (es.foldl (combStep o t mode false) (v, none)).2 = some y) : combGroup o t mode false v es =
      { (es.foldl (combStep o t mode false) (v, none)).1 with
        d := es.foldl (fun d e => setElem d o.ty.width e y) (es.foldl (combStep o t mode false) (v, none)).1.d } := by
  have hstep : combGroup o t mode false v es = match (es.foldl (combStep o t mode false) (v, none)).2 with
      | some y => { (es.foldl (combStep o t mode false) (v, none)).1 with
          d := es.foldl (fun d e => setElem d o.ty.width e y) (es.foldl (combStep o t mode false) (v, none)).1.d }
      | none => (es.foldl (combStep o t mode false) (v, none)).1 := rfl
  rw [hstep, h]

theorem combStep_red_d (o : Ops) (t : Thread) (mode : Nat) (es : List Nat) (p : VecAcc × Option Nat) :
    (es.foldl (combStep o t mode false) p).1.d = p.1.d := by
  induction es generalizing p with
  | nil => rfl
  | cons e es ih => exact ih _

section

variable {o : Ops} {s : State} {d : BitVec 6} {fn g : Nat} {scan : Bool} {i : Instr}

@[simp] theorem State.tree_clearPending (s : State) (b : Bool) : (s.clearPending b).tree = s.tree := by
  simp [State.tree, State.levels, State.levelsOf, State.findLaunch, State.launch_clearPending]

/-- Combining neither reads nor writes a pending bit. -/
theorem combAll_withPend (hd : o.d = .v d) (t : Thread) (scan : Bool) (g : Nat) (q : BitVec 256) :
    combAll o (t.withPend q) scan g = (combAll o t scan g).withPend q := by
  rw [combAll, combAll, hd]
  rfl

/-- RED and SCAN in a group of lanes: D, FPFLAGS and the generator are as the combination leaves them. -/
theorem combOp_acts (e : Ops → State → Out) (hd : o.d = .v d) (hg : groupLanes s.tree o.scope = some g) (hi : exec i s = e o s)
    (he : e o s = combOp fn scan o s) (hx : extraRegs 0x13 fn o = []) (hm : alwaysMarker 0x13 fn = false) (h : Ready 0x13 fn o s) :
    Acts i s { plain 0x13 fn o s with
      regs := [.v d], flags := (combAll o s.cur scan g).fpflags, gen := (combAll o s.cur scan g).srstate }
      (fun u => u.getV d = (combAll o s.cur scan g).getV d) := by
  have hexec := exec_ready e h hi he hx.symm hm.symm
  rw [State.tree_clearPending, hg] at hexec
  have hcomb := combAll_withPend hd s.cur scan g (plain 0x13 fn o s).pend
  have hkeeps : WriteKeeps (atIssue 0x13 fn o s) (combAll o (atIssue 0x13 fn o s) scan g) [.v d] := by
    rw [combAll, hd]
    exact vecEnd_keeps _ d _
  refine acts_finish (f := fun t => combAll o t scan g) hexec hkeeps.pc rfl ?_ ?_
  · exact ⟨hkeeps.pend, hkeeps.perf, by rw [hcomb]; rfl, by rw [hcomb]; rfl, hkeeps.gap,
      ⟨hkeeps.regs.x, hkeeps.regs.v, hkeeps.regs.p, hkeeps.regs.k, hkeeps.regs.s⟩, hkeeps.rest⟩
  · rw [Thread.getV_issued, hcomb]
    rfl

/-- A SCOPE that names no group of lanes raises LEVEL (R160). -/
theorem combOp_stops (e : Ops → State → Out) (hr : s.cur.raised = none) (hg : groupLanes s.tree o.scope = none)
    (hi : exec i s = e o s) (he : e o s = combOp fn scan o s) (hx : extraRegs 0x13 fn o = [])
    (hm : alwaysMarker 0x13 fn = false) (h : Ready 0x13 fn o s) : Stops i s .level 0 0 (plain 0x13 fn o s).pend := by
  have hexec := exec_ready e h hi he hx.symm hm.symm
  rw [State.tree_clearPending, hg] at hexec
  exact stops_raise hr hexec

end

theorem groupLanes_eq_none (ls : List Level) (l : Nat) : groupLanes ls l = none ↔ ls.length ≤ l ∨ threadLevel ls < l := by
  rw [groupLanes]
  split
  · next h => simpa using h
  · next h =>
    have : ¬ (ls.length ≤ l ∨ threadLevel ls < l) := by simpa using h
    split <;> simp [this]

theorem reductionResults : ReductionResults := by
  intro o s hr t
  exact ⟨fun d g hd hg => ⟨combOp_acts execVpmRed hd hg rfl rfl rfl rfl, combOp_acts execVpmScan hd hg rfl rfl rfl rfl⟩,
    fun hg => ⟨combOp_stops execVpmRed hr hg rfl rfl rfl rfl, combOp_stops execVpmScan hr hg rfl rfl rfl rfl⟩, groupLanes_eq_none _ _⟩

/-! ## The sum over all lanes (R161) -/

section

variable {o : Ops} {t : Thread} {mode : Nat}

/-- The integer that an element of A holds. -/
abbrev addend (o : Ops) (t : Thread) (e : Nat) : Int := intVal o.ty (elemOf (t.vr o.a) o.ty.width e)

theorem isFloat_of_isInt {ty : Ty} (h : ty.isInt = true) : ty.isFloat = false := by
  revert h
  cases ty <;> decide

/-- A number is the bits of a sum modulo 2^n. -/
def SumBits (n r : Nat) (v : Int) : Prop := r < 2 ^ n ∧ (r : Int) ≡ v [ZMOD (2 ^ n : Nat)]

theorem SumBits.eq_wrapN {n r : Nat} {v : Int} (h : SumBits n r v) : r = wrapN n v :=
  have hmod := Int.natCast_modEq_iff.mp (h.2.trans (wrapN_modEq n v).symm)
  hmod.eq_of_lt_of_lt h.1 (wrapN_lt n v)

theorem intVal_modEq (ty : Ty) (x : Nat) : intVal ty x ≡ x [ZMOD (2 ^ ty.width : Nat)] := readInt_modEq _ _ _

/-- ADD combines a sum so far with the next element. -/
theorem combStep_add (hty : o.ty.isInt = true) (hop : vpmOp o = 0) (v : VecAcc) {r : Nat} {a : Int} (hr : SumBits o.ty.width r a)
    (e : Nat) : ∃ y, (combStep o t mode false (v, some r) e).2 = some y ∧ SumBits o.ty.width y (a + addend o t e) := by
  refine ⟨wrapN o.ty.width (intVal o.ty r + addend o t e), ?_, wrapN_lt _ _,
    (wrapN_modEq _ _).trans (((intVal_modEq _ _).trans hr.2).add_right _)⟩
  simp only [combStep, combElem, hop, isFloat_of_isInt hty, Bool.false_eq_true, if_false]
  rfl

theorem foldl_combStep_add (hty : o.ty.isInt = true) (hop : vpmOp o = 0) (es : List Nat) (v : VecAcc) {r : Nat} {a : Int}
    (hr : SumBits o.ty.width r a) : ∃ y, (es.foldl (combStep o t mode false) (v, some r)).2 = some y ∧
      SumBits o.ty.width y (a + (es.map (addend o t)).sum) := by
  induction es generalizing v r a with
  | nil => exact ⟨r, rfl, by simpa using hr⟩
  | cons e es ih =>
    obtain ⟨y, hy, hsum⟩ := combStep_add (t := t) (mode := mode) hty hop v hr e
    obtain ⟨z, hz, hall⟩ := ih (combStep o t mode false (v, some r) e).1 hsum
    refine ⟨z, ?_, by rwa [List.map_cons, List.sum_cons, ← Int.add_assoc]⟩
    rw [List.foldl_cons, ← hz, ← hy]

/-- A group of elements that is not empty gives the sum of them all. -/
theorem foldl_combStep_sum (hty : o.ty.isInt = true) (hop : vpmOp o = 0) {es : List Nat} (hes : es ≠ []) (v : VecAcc) :
    (es.foldl (combStep o t mode false) (v, none)).2 = some (wrapN o.ty.width (es.map (addend o t)).sum) := by
  obtain ⟨e, es, rfl⟩ := List.exists_cons_of_ne_nil hes
  have hfirst : combStep o t mode false (v, none) e =
      ((combStep o t mode false (v, none) e).1, some (elemOf (t.vr o.a) o.ty.width e)) := by
    simp [combStep, firstElem, isFloat_of_isInt hty]
  obtain ⟨y, hy, hsum⟩ := foldl_combStep_add (t := t) (mode := mode) hty hop es (combStep o t mode false (v, none) e).1
    (r := elemOf (t.vr o.a) o.ty.width e) (a := addend o t e) ⟨elemOf_lt _ _ _, (intVal_modEq _ _).symm⟩
  rw [List.foldl_cons, hfirst, hy, List.map_cons, List.sum_cons, hsum.eq_wrapN]

/-- RED ADD of one group: the sum in each of its elements, the others as they were. -/
theorem elemOf_combGroup_add (hty : o.ty.isInt = true) (hop : vpmOp o = 0) (es : List Nat) (v : VecAcc) {e : Nat}
    (he : e < o.ty.elems) : elemOf (combGroup o t mode false v es).d o.ty.width e =
      if e ∈ es then wrapN o.ty.width (es.map (addend o t)).sum else elemOf v.d o.ty.width e := by
  by_cases hes : es = []
  · subst hes
    simp [combGroup_nil]
  · rw [combGroup_red (foldl_combStep_sum hty hop hes v), elemOf_foldl_setElem _ _ _ _ he, Nat.mod_eq_of_lt (wrapN_lt _ _),
      combStep_red_d]

end

theorem per_mul_lanes {ty : Ty} (h : ty.width ≤ 32) : 16 * ty.per = ty.elems := by
  revert h
  cases ty <;> decide

theorem integerSumReduction : IntegerSumReduction := by
  intro o t d hd hty hw hop w es sum e he
  have hes : ((List.range (16 * o.ty.per)).map (fun i => 0 * (16 * o.ty.per) + i)).filter (fun e => t.act o.g o.ty.per e) = es := by
    simp [es, per_mul_lanes hw]
  have hget : (combAll o t false 16).getV d =
      (combGroup o t (t.mode o.rnd (o.ty != .f32)) false (t.vecStart (.v d)) es).d := by
    rw [← hes, combAll, hd, Thread.vecEnd, Thread.wv, Thread.getV_setV, if_pos rfl]
    rfl
  rw [hget, elemOf_combGroup_add hty hop es _ he]
  have hmem : e ∈ es ↔ t.act o.g o.ty.per e = true := by simp [es, he]
  simp only [hmem]
  rfl

end Sys2Proof.Claims

namespace Sys2Proof

open Machine Claims

/-- Settles O21: permutations and single elements, groups of lanes combined, and the sum that ADD gives. -/
theorem permutationsAndReductions : Obligations.PermutationsAndReductions :=
  ⟨permutationResults, reductionResults, integerSumReduction⟩

end Sys2Proof

namespace Sys2Proof.Machine

/-! # The scale of a block (R58) -/

/-! ## Magnitudes compared -/

/-- A value that is neither NaN nor infinite. -/
def Finite (x : FVal) : Prop := x ≠ .nan ∧ ∀ n, x ≠ .inf n

/-- The magnitude of a finite value, a zero below every other one. -/
def mag : FVal → ℚ
  | .fin _ m e _ => m * 2 ^ e
  | _ => -1

theorem mag_fin_nonneg (n : Bool) (m : Nat) (e : Int) (s : Bool) : 0 ≤ mag (.fin n m e s) := by
  unfold mag
  positivity

theorem fin_of_mag_pos {x : FVal} (h : 0 < mag x) : ∃ n m e s, x = .fin n m e s := by
  cases x with
  | fin n m e s => exact ⟨n, m, e, s, rfl⟩
  | _ => exact absurd h (by norm_num [mag])

/-- A mantissa moved up to a common exponent. -/
theorem mantissa_scaled (m : Nat) {e lo : Int} (h : lo ≤ e) : ((m * 2 ^ (e - lo).toNat : Nat) : ℚ) * 2 ^ lo = m * 2 ^ e := by
  push_cast
  rw [mul_assoc, ← zpow_natCast, Int.toNat_of_nonneg (by omega), ← zpow_add₀ (by norm_num), Int.sub_add_cancel]

/-- Two values of a common exponent compare as their mantissas. -/
theorem scaled_lt_iff (m m' : Nat) (e e' : Int) :
    m * 2 ^ (e - min e e').toNat < m' * 2 ^ (e' - min e e').toNat ↔ (m : ℚ) * 2 ^ e < m' * 2 ^ e' := by
  rw [← mantissa_scaled m (min_le_left e e'), ← mantissa_scaled m' (min_le_right e e'),
    mul_lt_mul_iff_left₀ (by positivity), Nat.cast_lt]

theorem cmp_fin_eq_lt {m m' : Nat} {e e' : Int} {a b : Bool} :
    (FVal.fin false m e a).cmp (.fin false m' e' b) = some .lt ↔ (m : ℚ) * 2 ^ e < m' * 2 ^ e' := by
  rw [← scaled_lt_iff]
  simp only [FVal.cmp, signedM, Bool.false_eq_true, if_false, Option.some.injEq]
  norm_cast
  split
  · simpa
  · split <;> simpa using by omega

theorem cmp_fin_eq_gt {m m' : Nat} {e e' : Int} {a b : Bool} :
    (FVal.fin false m e a).cmp (.fin false m' e' b) = some .gt ↔ (m' : ℚ) * 2 ^ e' < m * 2 ^ e := by
  rw [← scaled_lt_iff, min_comm]
  simp only [FVal.cmp, signedM, Bool.false_eq_true, if_false, Option.some.injEq]
  norm_cast
  split
  · simpa using by omega
  · split
    · simpa using by omega
    · simpa using by omega

theorem abs_cmp_eq_lt {x y : FVal} (hx : Finite x) (hy : Finite y) : x.abs.cmp y.abs = some .lt ↔ mag x < mag y := by
  obtain ⟨hxn, hxi⟩ := hx
  obtain ⟨hyn, hyi⟩ := hy
  cases x with
  | nan => exact absurd rfl hxn
  | inf n => exact absurd rfl (hxi n)
  | zero n =>
    cases y with
    | nan => exact absurd rfl hyn
    | inf k => exact absurd rfl (hyi k)
    | zero k => simp [FVal.abs, FVal.cmp, mag]
    | fin k m e s =>
      have := mag_fin_nonneg k m e s
      simp only [FVal.abs, FVal.cmp, Bool.false_eq_true, if_false, true_iff]
      exact lt_of_lt_of_le (by norm_num [mag]) this
  | fin n m e s =>
    cases y with
    | nan => exact absurd rfl hyn
    | inf k => exact absurd rfl (hyi k)
    | zero k =>
      have := mag_fin_nonneg n m e s
      simp only [FVal.abs, FVal.cmp, Bool.false_eq_true, if_false, Option.some.injEq, reduceCtorEq, false_iff, not_lt]
      exact le_trans (by norm_num [mag]) this
    | fin k m' e' s' => exact cmp_fin_eq_lt

/-! ## The greatest magnitude of a block -/

theorem maxMag_eq {a x : FVal} (ha : Finite a) (hx : Finite x) : maxMag a x = if mag a < mag x then x else a := by
  rw [maxMag]
  simp only [abs_cmp_eq_lt ha hx]

/-- The greatest of some values is one of them, and no other one is greater. -/
theorem foldl_maxMag (xs : List FVal) {a : FVal} (ha : Finite a) (hxs : ∀ x ∈ xs, Finite x) :
    xs.foldl maxMag a ∈ a :: xs ∧ ∀ x ∈ a :: xs, mag x ≤ mag (xs.foldl maxMag a) := by
  induction xs generalizing a with
  | nil => simp
  | cons y ys ih =>
    obtain ⟨hy, hys⟩ := List.forall_mem_cons.mp hxs
    have hmax := maxMag_eq ha hy
    have hmem : maxMag a y = a ∨ maxMag a y = y := by
      rw [hmax]
      split <;> simp
    have hle : mag a ≤ mag (maxMag a y) ∧ mag y ≤ mag (maxMag a y) := by
      rw [hmax]
      split
      · next h => exact ⟨h.le, le_rfl⟩
      · next h => exact ⟨le_rfl, not_lt.mp h⟩
    obtain ⟨hin, hall⟩ := ih (a := maxMag a y) (by rcases hmem with h | h <;> rwa [h]) hys
    obtain ⟨htop, htail⟩ := List.forall_mem_cons.mp hall
    refine ⟨?_, List.forall_mem_cons.mpr ⟨hle.1.trans htop, List.forall_mem_cons.mpr ⟨hle.2.trans htop, htail⟩⟩⟩
    rw [List.foldl_cons]
    rcases List.mem_cons.mp hin with h | h
    · rcases hmem with h' | h' <;> rw [h, h'] <;> simp
    · exact List.mem_cons_of_mem _ (List.mem_cons_of_mem _ h)

/-- The exponent of a magnitude is where it lies among the powers of two. -/
theorem exponent_eq {m m' : Nat} {e e' : Int} (hm : m ≠ 0) (hm' : m' ≠ 0) (h : (m : ℚ) * 2 ^ e = m' * 2 ^ e') :
    (Nat.log2 m : Int) + e = Nat.log2 m' + e' := by
  have hlow : ∀ {m : Nat} {e : Int}, m ≠ 0 → (2 : ℚ) ^ ((Nat.log2 m : Int) + e) ≤ m * 2 ^ e := fun {m e} hm => by
    rw [zpow_add₀ (by norm_num), zpow_natCast]
    exact mul_le_mul_of_nonneg_right (by exact_mod_cast Nat.log2_self_le hm) (by positivity)
  have hhigh : ∀ {m : Nat} {e : Int}, (m : ℚ) * 2 ^ e < 2 ^ ((Nat.log2 m : Int) + e + 1) := fun {m e} => by
    rw [add_right_comm, zpow_add₀ (by norm_num)]
    exact mul_lt_mul_of_pos_right (by exact_mod_cast Nat.lt_log2_self) (by positivity)
  have h1 := (zpow_lt_zpow_iff_right₀ (by norm_num)).mp (((hlow hm).trans_eq h).trans_lt hhigh)
  have h2 := (zpow_lt_zpow_iff_right₀ (by norm_num)).mp (((hlow hm').trans_eq h.symm).trans_lt hhigh)
  omega

/-! ## The scale -/

/-- Whether a block has a NaN or an infinity. -/
theorem blockScale_special {ty : Ty} {xs : List FVal} (h : ∃ x ∈ xs, x = .nan ∨ ∃ n, x = .inf n) : blockScale ty xs = 0xFF := by
  rw [blockScale, if_pos]
  obtain ⟨x, hx, hspecial⟩ := h
  refine List.any_eq_true.mpr ⟨x, hx, ?_⟩
  rcases hspecial with rfl | ⟨n, rfl⟩ <;> rfl

/-- The scale that a greatest magnitude gives. -/
def scaleOf (ty : Ty) (x : FVal) : Nat := x.log2.elim 0 (fun p => (max 0 (min 254 (p.1 - emaxOf ty + 127))).toNat)

theorem blockScale_finite {ty : Ty} {xs : List FVal} (h : ∀ x ∈ xs, Finite x) :
    blockScale ty xs = scaleOf ty (xs.foldl maxMag (.zero false)) := by
  rw [blockScale, if_neg]
  · rw [scaleOf]
    cases (xs.foldl maxMag (.zero false)).log2 <;> rfl
  · rw [Bool.not_eq_true, List.any_eq_false]
    intro x hx
    obtain ⟨hn, hi⟩ := h x hx
    cases x with
    | nan => exact absurd rfl hn
    | inf n => exact absurd rfl (hi n)
    | zero n => simp
    | fin n m e s => simp

theorem finite_zero (n : Bool) : Finite (.zero n) := ⟨by simp, by simp⟩

theorem blockScale_zeros {ty : Ty} {xs : List FVal} (h : ∀ x ∈ xs, ∃ n, x = .zero n) : blockScale ty xs = 0 := by
  rw [blockScale_finite fun x hx => by obtain ⟨n, rfl⟩ := h x hx; exact finite_zero n]
  obtain ⟨hmem, -⟩ := foldl_maxMag xs (finite_zero false) fun x hx => by obtain ⟨n, rfl⟩ := h x hx; exact finite_zero n
  obtain ⟨n, hn⟩ : ∃ n, xs.foldl maxMag (.zero false) = .zero n := by
    rcases List.mem_cons.mp hmem with hz | hx
    · exact ⟨false, hz⟩
    · exact h _ hx
  rw [hn]
  rfl

/-- The greatest of finite values has the magnitude of one that none exceeds. -/
theorem log2_foldl_maxMag {xs : List FVal} {n : Bool} {m : Nat} {e : Int} (hxs : ∀ x ∈ xs, Finite x)
    (hin : FVal.fin n m e false ∈ xs) (hm : m ≠ 0) (htop : ∀ x ∈ xs, x.abs.cmp (FVal.fin false m e false) ≠ some .gt) :
    ∃ b, (xs.foldl maxMag (.zero false)).log2 = some ((Nat.log2 m : Int) + e, b) := by
  obtain ⟨hmem, hall⟩ := foldl_maxMag xs (finite_zero false) hxs
  have hge := hall _ (List.mem_cons_of_mem _ hin)
  have hpos : 0 < mag (.fin n m e false) := by
    have : 0 < m := by omega
    unfold mag
    positivity
  obtain ⟨n', m', e', s', hx⟩ := fin_of_mag_pos (hpos.trans_le hge)
  rw [hx] at hmem hge ⊢
  have hle : mag (.fin n' m' e' s') ≤ mag (.fin n m e false) :=
    not_lt.mp (mt cmp_fin_eq_gt.mpr (htop (.fin n' m' e' s') (by simpa using hmem)))
  have heq : (m' : ℚ) * 2 ^ e' = m * 2 ^ e := le_antisymm hle hge
  have hm' : m' ≠ 0 := by
    rintro rfl
    exact hpos.ne' (heq.symm.trans (by simp))
  exact ⟨_, by rw [FVal.log2, exponent_eq hm' hm heq]⟩

theorem blockScales : Claims.BlockScales := by
  intro ty xs
  refine ⟨blockScale_special, blockScale_zeros, fun n m e hfin hin hm htop => ?_⟩
  obtain ⟨b, hlog⟩ := log2_foldl_maxMag hfin hin hm htop
  rw [blockScale_finite hfin, scaleOf, hlog]
  exact Int.toNat_of_nonneg (le_max_left _ _)

end Sys2Proof.Machine
namespace Sys2Proof.Claims

open Machine

/-! # VCV (R153 to R157) -/

/-- One write after another. -/
theorem WriteKeeps.trans {a b c : Thread} {rs rs' : List Reg} (h : WriteKeeps a b rs) (h' : WriteKeeps b c rs') :
    WriteKeeps a c (rs ++ rs') where
  pc := h'.pc.trans h.pc
  pend := h'.pend.trans h.pend
  perf := h'.perf.trans h.perf
  gap := h'.gap.trans h.gap
  regs := by
    refine ⟨fun n hn => ?_, fun n hn => ?_, fun n hn => ?_, fun n hn => ?_, fun n hn => ?_⟩ <;>
      obtain ⟨hn, hn'⟩ := not_or.mp (mt List.mem_append.mpr hn)
    · exact (h'.regs.x n hn').trans (h.regs.x n hn)
    · exact (h'.regs.v n hn').trans (h.regs.v n hn)
    · exact (h'.regs.p n hn').trans (h.regs.p n hn)
    · exact (h'.regs.k n hn').trans (h.regs.k n hn)
    · exact (h'.regs.s n hn').trans (h.regs.s n hn)
  rest := h'.rest.trans h.rest

end Sys2Proof.Claims

namespace Sys2Proof.Machine

open Claims

/-! ## Elements produced one after another -/

/-- Elements of width `w` produced in order, each at its place. -/
def VecAcc.run (v : VecAcc) (w : Nat) (ms : List (Nat × (BitVec 32 → ElemRes))) : VecAcc :=
  ms.foldl (fun v m => v.put w m.1 m.2) v

theorem VecAcc.run_append (v : VecAcc) (w : Nat) (ms ns : List (Nat × (BitVec 32 → ElemRes))) :
    v.run w (ms ++ ns) = (v.run w ms).run w ns := List.foldl_append

theorem foldl_run {α : Type} (v : VecAcc) (w : Nat) (f : α → List (Nat × (BitVec 32 → ElemRes))) (xs : List α) :
    xs.foldl (fun v x => v.run w (f x)) v = v.run w (xs.flatMap f) := List.foldl_flatMap.symm

/-- Flags gathered before are ORed to those of the elements produced. -/
theorem VecAcc.run_fl (v : VecAcc) (w : Nat) (ms : List (Nat × (BitVec 32 → ElemRes))) :
    v.run w ms = { afterMoves w v.d v.gen ms with fl := orF v.fl (afterMoves w v.d v.gen ms).fl } := by
  induction ms generalizing v with
  | nil => simp [VecAcc.run, afterMoves, orF]
  | cons m ms ih =>
    have hleft := ih (v.put w m.1 m.2)
    have hright := ih (VecAcc.put ⟨v.d, 0, v.gen⟩ w m.1 m.2)
    have hz : afterMoves w v.d v.gen (m :: ms) = VecAcc.run (VecAcc.put ⟨v.d, 0, v.gen⟩ w m.1 m.2) w ms := rfl
    rw [hz, hright]
    refine hleft.trans ?_
    simp [VecAcc.put, orF, Nat.or_assoc]

section

variable {fn w : Nat} {o : Ops} {s : State} {d : BitVec 6} {i : Instr} {ms : List (Nat × (BitVec 32 → ElemRes))}

/-- An instruction that produces elements of D one after another. -/
theorem writesMoves (e : Ops → State → Out) (f : Thread → VecAcc) (hd : o.d = .v d) (hx : extraRegs 0x11 fn o = [])
    (hm : alwaysMarker 0x11 fn = false) (hi : exec i s = e o s) (he : e o s = issueReg 0x11 fn o s (fun t => t.vecEnd o.d (f t)))
    (hf : ∀ q, f (s.cur.withPend q) = VecAcc.run ⟨s.cur.getV d, 0, s.cur.gen⟩ w ms) (h : Ready 0x11 fn o s) :
    WritesMoves i 0x11 fn o s d w ms := by
  rw [hd] at he
  unfold WritesMoves
  refine issueReg_acts h hx hm (hi.trans he) (fun q => vecEnd_keeps _ d _) (fun q => ?_) (fun q => ?_) (fun q => ?_)
  · rw [hf]; rfl
  · rw [hf]; rfl
  · rw [Thread.getV_issued, hf, Thread.vecEnd, Thread.wv, Thread.getV_setV, if_pos rfl]
    rfl

/-! ## CVT, PACK and SCALE -/

/-- An element of A or B converted (R154). -/
abbrev conversion (o : Ops) (t : Thread) (src : VWord) (e : Nat) : BitVec 32 → ElemRes :=
  convElem (vcvSty o) o.ty (vcvMode t o) o.sat (elemOf src (vcvSty o).width e)

theorem convMoves_eq_run (o : Ops) (t : Thread) (src : VWord) (v : VecAcc) (ms : List (Nat × Nat)) :
    convMoves o t src v ms = v.run o.ty.width (ms.map (fun m => (m.2, conversion o t src m.1))) := by
  rw [convMoves, VecAcc.run, List.foldl_map]

theorem cvt_writesMoves (hd : o.d = .v d) (h : Ready 0x11 0x01 o s) :
    WritesMoves (.vcvCvt o) 0x11 0x01 o s d o.ty.width ((s.cur.activeLanes o.g).flatMap (fun i =>
      if o.ty.width ≤ (vcvSty o).width then (List.range (vcvSty o).per).map (fun j =>
        (i * o.ty.per + vcvPart o * (vcvSty o).per + j, conversion o s.cur (s.cur.vr o.a) (i * (vcvSty o).per + j)))
      else (List.range o.ty.per).map (fun j =>
        (i * o.ty.per + j, conversion o s.cur (s.cur.vr o.a) (i * (vcvSty o).per + vcvPart o * o.ty.per + j))))) := by
  refine writesMoves execVcvCvt _ hd rfl rfl rfl rfl (fun q => ?_) h
  simp only [convMoves_eq_run]
  rw [foldl_run, hd]
  refine congrArg (VecAcc.run _ _) (List.flatMap_congr fun i _ => ?_)
  split <;> rw [List.map_map] <;> rfl

theorem pack_writesMoves (hd : o.d = .v d) (h : Ready 0x11 0x02 o s) :
    WritesMoves (.vcvPack o) 0x11 0x02 o s d o.ty.width ((s.cur.activeLanes o.g).flatMap (fun i =>
      (List.range (vcvSty o).per).flatMap (fun j =>
        [(i * o.ty.per + j, conversion o s.cur (s.cur.vr o.a) (i * (vcvSty o).per + j)),
         (i * o.ty.per + (vcvSty o).per + j, conversion o s.cur (s.cur.vr o.b) (i * (vcvSty o).per + j))]))) := by
  refine writesMoves execVcvPack _ hd rfl rfl rfl rfl (fun q => ?_) h
  simp only [convMoves_eq_run, ← VecAcc.run_append, List.map_cons, List.map_nil, List.singleton_append, foldl_run]
  rw [hd]
  rfl

theorem scale_writesMoves (hd : o.d = .v d) (h : Ready 0x11 0x05 o s) :
    WritesMoves (.vcvScale o) 0x11 0x05 o s d 32 ((s.cur.activeLanes o.g).map (fun i => (i, fun g =>
      let e := vcvPart o * 16 + i
      let sc := scaleByte (s.cur.sr o.c) (vcvSidx o + e / 32)
      let x := decodeF o.ty (elemOf (s.cur.vr o.a) o.ty.width e)
      if sc = 0xFF || x.isNan then (Ty.nanCode .f32, 0, g)
      else roundElem .f32 (s.cur.mode o.rnd false) o.sat false (x.scale ((sc : Int) - 127), 0) g))) := by
  refine writesMoves execVcvScale _ hd rfl rfl rfl rfl (fun q => ?_) h
  rw [VecAcc.run, List.foldl_map, hd]
  rfl

/-! ## UNPACK -/

/-- The two registers that UNPACK fills, and the flags and generator on the way, are as the halves say. -/
def HalvesOf (p : VecAcc × VWord) (h : Halves) : Prop := p.1.d = h.low ∧ p.2 = h.high ∧ p.1.fl = h.fl ∧ p.1.gen = h.gen

/-- Elements for D, then elements for C. -/
theorem halvesOf_step {p : VecAcc × VWord} {h : Halves} (w : Nat) (low high : List (Nat × (BitVec 32 → ElemRes)))
    (hp : HalvesOf p h) :
    let d := p.1.run w low
    let c := VecAcc.run { d with d := p.2 } w high
    let a := afterMoves w h.low h.gen low
    let b := afterMoves w h.high a.gen high
    HalvesOf ({ c with d := d.d }, c.d) ⟨a.d, b.d, orF (orF h.fl a.fl) b.fl, b.gen⟩ := by
  obtain ⟨⟨d, fl, gen⟩, c⟩ := p
  obtain ⟨rfl, rfl, rfl, rfl⟩ := hp
  intro d' c' a b
  have hd' : d' = { a with fl := orF h.fl a.fl } := VecAcc.run_fl _ w low
  have hc' : c' = { b with fl := orF (orF h.fl a.fl) b.fl } :=
    (congrArg (fun v : VecAcc => VecAcc.run { v with d := h.high } w high) hd').trans (VecAcc.run_fl _ w high)
  rw [hd', hc']
  exact ⟨rfl, rfl, rfl, rfl⟩

/-- What UNPACK produces of one lane: D's elements from the lower half of A's, C's from the upper half. -/
abbrev lowMoves (o : Ops) (t : Thread) (i : Nat) : List (Nat × (BitVec 32 → ElemRes)) :=
  (List.range o.ty.per).map (fun j => (i * o.ty.per + j, conversion o t (t.vr o.a) (i * (vcvSty o).per + j)))
abbrev highMoves (o : Ops) (t : Thread) (i : Nat) : List (Nat × (BitVec 32 → ElemRes)) :=
  (List.range o.ty.per).map (fun j => (i * o.ty.per + j, conversion o t (t.vr o.a) (i * (vcvSty o).per + o.ty.per + j)))

/-- One lane of UNPACK, as the instruction runs it. -/
def unpackLane (o : Ops) (t : Thread) (v : VecAcc × VWord) (i : Nat) : VecAcc × VWord :=
  let d := v.1.run o.ty.width (lowMoves o t i)
  let c := VecAcc.run { d with d := v.2 } o.ty.width (highMoves o t i)
  ({ c with d := d.d }, c.d)

/-- One lane of UNPACK, as the halves have it. -/
def halvesLane (o : Ops) (t : Thread) (h : Halves) (i : Nat) : Halves :=
  let a := afterMoves o.ty.width h.low h.gen (lowMoves o t i)
  let b := afterMoves o.ty.width h.high a.gen (highMoves o t i)
  ⟨a.d, b.d, orF (orF h.fl a.fl) b.fl, b.gen⟩

theorem unpackRun_eq (o : Ops) (t : Thread) (lanes : List Nat) :
    unpackRun o t lanes = lanes.foldl (halvesLane o t) ⟨t.vr o.d, t.vr o.c, 0, t.gen⟩ := rfl

theorem halvesOf_foldl (o : Ops) (t : Thread) (lanes : List Nat) {p : VecAcc × VWord} {h : Halves} (hp : HalvesOf p h) :
    HalvesOf (lanes.foldl (unpackLane o t) p) (lanes.foldl (halvesLane o t) h) := by
  induction lanes generalizing p h with
  | nil => exact hp
  | cons i lanes ih => exact ih (halvesOf_step o.ty.width (lowMoves o t i) (highMoves o t i) hp)

/-- The thread after UNPACK. -/
def unpacked (o : Ops) (t : Thread) : Thread :=
  let r := (t.activeLanes o.g).foldl (unpackLane o t) (t.vecStart o.d, t.vr o.c)
  (t.vecEnd o.d r.1).wv o.c r.2

theorem execVcvUnpack_eq (o : Ops) (s : State) : execVcvUnpack o s = issueReg 0x11 0x03 o s (unpacked o) := by
  refine congrArg (issueReg 0x11 0x03 o s) (funext fun t => ?_)
  simp only [convMoves_eq_run, List.map_map]
  rfl

theorem unpack_acts {c : BitVec 6} (hd : o.d = .v d) (hc : o.c = .v c) (hcd : c ≠ d) (h : Ready 0x11 0x03 o s) :
    Acts (.vcvUnpack o) s { plain 0x11 0x03 o s with
      regs := [.v d, .v c],
      flags := s.cur.fpflags ||| BitVec.ofNat 64 (unpackRun o s.cur (s.cur.activeLanes o.g)).fl,
      gen := (unpackRun o s.cur (s.cur.activeLanes o.g)).gen.setWidth 64 }
      (fun u => u.getV d = (unpackRun o s.cur (s.cur.activeLanes o.g)).low ∧
        u.getV c = (unpackRun o s.cur (s.cur.activeLanes o.g)).high) := by
  obtain ⟨hlow, hhigh, hfl, hgen⟩ := halvesOf_foldl o s.cur (s.cur.activeLanes o.g)
    (p := (s.cur.vecStart o.d, s.cur.vr o.c)) (h := ⟨s.cur.vr o.d, s.cur.vr o.c, 0, s.cur.gen⟩) ⟨rfl, rfl, rfl, rfl⟩
  rw [← unpackRun_eq] at hlow hhigh hfl hgen
  set r := (s.cur.activeLanes o.g).foldl (unpackLane o s.cur) (s.cur.vecStart o.d, s.cur.vr o.c) with hr
  have hthread : ∀ q, unpacked o (s.cur.withPend q) = ((s.cur.withPend q).vecEnd (.v d) r.1).wv (.v c) r.2 := fun q => by
    rw [unpacked, hr, hd, hc]
    rfl
  refine issueReg_acts h rfl rfl (execVcvUnpack_eq o s) (fun q => ?_) (fun q => ?_) (fun q => ?_) (fun q => ?_)
  · rw [hthread]
    exact (vecEnd_keeps _ d _).trans (wv_keeps _ c _)
  · rw [hthread, ← hfl]
    rfl
  · rw [hthread, ← hgen]
    rfl
  · rw [Thread.getV_issued, Thread.getV_issued, hthread, Thread.wv, Thread.getV_setV, if_neg hcd.symm, Thread.getV_setV,
      if_pos rfl, Thread.vecEnd, Thread.wv, Thread.getV_setV, if_pos rfl]
    exact ⟨hlow, hhigh⟩

/-! ## QNT -/

/-- The 32 values of the block that QNT quantizes (R156). -/
def qntBlock (o : Ops) (t : Thread) : List FVal :=
  (List.range 16).map (fun i => decodeF .f32 (elemOf (t.vr o.a) 32 i)) ++
    (List.range 16).map (fun i => decodeF .f32 (elemOf (t.vr o.b) 32 i))

/-- Where an element of the block goes, and what it becomes. -/
def qntMove (o : Ops) (t : Thread) (p : FVal × Nat) : Nat × (BitVec 32 → ElemRes) :=
  let sc := blockScale o.ty (qntBlock o t)
  (vcvPart o * 32 + p.2, fun g =>
    if sc = 0xFF then (o.ty.nanCode, 0, (genStep (t.mode o.rnd true) g).2)
    else roundElem o.ty (t.mode o.rnd true) true true (p.1.scale (127 - (sc : Int)), 0) g)

/-- The elements of the block in active lanes. -/
def qntMoves (o : Ops) (t : Thread) : List (Nat × (BitVec 32 → ElemRes)) :=
  ((qntBlock o t).zipIdx.filter (fun p => t.act o.g o.ty.per (vcvPart o * 32 + p.2))).map (qntMove o t)

/-- The thread after QNT. -/
def quantized (o : Ops) (t : Thread) : Thread :=
  let sc := blockScale o.ty (qntBlock o t)
  ((t.orFlags (flagIf (sc = 0xFF) flagNV)).vecEnd o.d ((t.vecStart o.d).run o.ty.width (qntMoves o t))).ws o.c
    (setScaleByte (t.sr o.c) (vcvSidx o) sc)

theorem execVcvQnt_eq (o : Ops) (s : State) : execVcvQnt o s = issueReg 0x11 0x04 o s (quantized o) := by
  refine congrArg (issueReg 0x11 0x04 o s) (funext fun t => ?_)
  have hrun : (t.vecStart o.d).run o.ty.width (qntMoves o t) = (qntBlock o t).zipIdx.foldl (fun v p =>
      if t.act o.g o.ty.per (vcvPart o * 32 + p.2) then v.put o.ty.width (qntMove o t p).1 (qntMove o t p).2 else v)
      (t.vecStart o.d) := by
    rw [VecAcc.run, qntMoves, List.foldl_map, List.foldl_filter]
  rw [quantized, hrun]
  rfl

theorem orFlags_keeps (a : Thread) (fl : Nat) : WriteKeeps a (a.orFlags fl) [] :=
  ⟨rfl, rfl, rfl, rfl, .of_eq rfl rfl rfl rfl rfl, rfl⟩

theorem qnt_acts {c : BitVec 3} (hd : o.d = .v d) (hc : o.c = .s c) (h : Ready 0x11 0x04 o s) :
    let sc := blockScale o.ty (qntBlock o s.cur)
    let v := afterMoves o.ty.width (s.cur.getV d) s.cur.gen (qntMoves o s.cur)
    Acts (.vcvQnt o) s { plain 0x11 0x04 o s with
      regs := [.v d, .s c],
      flags := s.cur.fpflags ||| BitVec.ofNat 64 (flagIf (sc = 0xFF) flagNV) ||| BitVec.ofNat 64 v.fl,
      gen := v.gen.setWidth 64 }
      (fun u => u.getV d = v.d ∧ u.getS c = setScaleByte (s.cur.getS c) (vcvSidx o) sc) := by
  intro sc v
  have hthread : ∀ q, quantized o (s.cur.withPend q) =
      (((s.cur.withPend q).orFlags (flagIf (sc = 0xFF) flagNV)).vecEnd (.v d) v).ws (.s c)
        (setScaleByte (s.cur.getS c) (vcvSidx o) sc) := fun q => by
    rw [quantized, hd, hc]
    rfl
  refine issueReg_acts h rfl rfl (execVcvQnt_eq o s) (fun q => ?_) (fun q => ?_) (fun q => ?_) (fun q => ?_)
  · rw [hthread]
    exact ((orFlags_keeps _ _).trans (vecEnd_keeps _ d _)).trans (ws_keeps _ c _)
  · rw [hthread]
    rfl
  · rw [hthread]
    rfl
  · rw [Thread.getV_issued, Thread.getS_issued, hthread, Thread.ws, Thread.getS_setS, if_pos rfl]
    refine ⟨?_, rfl⟩
    rw [Thread.getV_congr (Thread.setS_v _ _ _), Thread.vecEnd, Thread.wv, Thread.getV_setV, if_pos rfl]

end

theorem vectorConversionResults : VectorConversionResults := by
  intro o s d hd t src ns nd lanes conv gives
  exact ⟨cvt_writesMoves hd, pack_writesMoves hd, scale_writesMoves hd, fun c hc hcd => unpack_acts hd hc hcd,
    fun c hc => qnt_acts hd hc⟩

end Sys2Proof.Machine

namespace Sys2Proof

open Machine Claims

/-- Settles O22: the elements each conversion produces in their order, and the scale of a block from its greatest magnitude. -/
theorem conversions : Obligations.Conversions := ⟨vectorConversionResults, blockScales⟩

end Sys2Proof

namespace Sys2Proof.Machine

/-! # Own-pool accesses whose parts share granules (R166)

The parts of an access that lie in one granule move together, in ascending order. Where nothing holds the access back it is performed
granule by granule as it issues: no byte depends on the order of the granules, and within one the parts keep theirs. -/

open Claims

/-- Loads and stores. -/
def AccOp.isMove (op : AccOp) : Prop := op = .load ∨ ∃ f, op = .store f

/-- The granule that a part lies in: parts of one move together. -/
abbrev Part.granule (p : Part) : Nat := p.va.toNat / 16

/-- The bytes that a part brings, at its place in the pool. -/
abbrev Part.run (p : Part) : Nat × List Byte := (poolOff p.va, p.data)

/-- What parts write into the pool: a load nothing. -/
def AccOp.runs (op : AccOp) (ps : List Part) : List (Nat × List Byte) := if op.writes then ps.map Part.run else []

/-- A part after it has moved, where the pool held `m`. -/
def Part.moved (op : AccOp) (c : Nat) (m : Memory) (p : Part) : Part :=
  { p with stage := doneStage true op, loc := some (.pool c (poolOff p.va)),
           data := if op.writes then p.data else m.read (poolOff p.va) p.len }

/-- The state after a part has moved at its place in the own pool. -/
def State.move (s : State) (op : AccOp) (p : Part) : State :=
  (s.performPart op p (.pool (coreOf s.me) (poolOff p.va)) true).1

section

variable {s : State} {a : Access} {op : AccOp}

theorem AccOp.isMove.not_consumes (h : op.isMove) : op.consumes = false := by rcases h with rfl | ⟨f, rfl⟩ <;> rfl

theorem AccOp.runs_nil (op : AccOp) : op.runs [] = [] := ite_self _

theorem AccOp.runs_append (op : AccOp) (ps qs : List Part) : op.runs (ps ++ qs) = op.runs ps ++ op.runs qs := by
  unfold AccOp.runs
  split <;> simp

theorem moved_ne_port (op : AccOp) (c : Nat) (m : Memory) (p : Part) : (p.moved op c m).stage ≠ .port := by
  simp only [Part.moved, doneStage]
  split <;> simp

/-! ## One part -/

theorem performPart_eq (h : op.isMove) (p : Part) :
    s.performPart op p (.pool (coreOf s.me) (poolOff p.va)) true = (s.move op p, p.moved op (coreOf s.me) (s.core (coreOf s.me)).pool) := by
  rcases h with rfl | ⟨f, rfl⟩ <;> rfl

theorem ownStep_setFull (off : Nat) (b : Bool) : OwnStep s (s.setFull (coreOf s.me) off b) :=
  ownStep_modCore _ (fun _ => rfl) (fun _ _ => by simp [State.inTurn])

theorem move_load (p : Part) : s.move .load p = s := rfl

theorem move_store (f : Bool) (p : Part) : s.move (.store f) p =
    if f then (s.poolWrite (coreOf s.me) (poolOff p.va) p.data).setFull (coreOf s.me) (poolOff p.va) true
    else s.poolWrite (coreOf s.me) (poolOff p.va) p.data := by cases f <;> rfl

/-- Nothing differs but bytes of pools, full bits and the granules served: not the issuing thread, and no identity is given out. -/
structure MoveStep (s t : State) : Prop extends OwnStep s t where
  cur    : t.cur = s.cur
  nextId : t.nextId = s.nextId

theorem MoveStep.refl (s : State) : MoveStep s s := ⟨.refl s, rfl, rfl⟩

theorem MoveStep.trans {t u : State} (h : MoveStep s t) (h' : MoveStep t u) : MoveStep s u :=
  ⟨h.toOwnStep.trans h'.toOwnStep, h'.cur.trans h.cur, h'.nextId.trans h.nextId⟩

theorem moveStep_serve (off len : Nat) : MoveStep s (s.serve (coreOf s.me) off len (s.me % 4)) := ⟨ownStep_serve _ _, rfl, rfl⟩

theorem moveStep_move (h : op.isMove) (p : Part) : MoveStep s (s.move op p) := by
  rcases h with rfl | ⟨f, rfl⟩
  · exact .refl s
  · have hw : MoveStep s (s.poolWrite (coreOf s.me) (poolOff p.va) p.data) := ⟨ownStep_poolWrite _ _, rfl, rfl⟩
    rw [move_store]
    split
    · exact hw.trans ⟨ownStep_setFull _ _, rfl, rfl⟩
    · exact hw

theorem pool_move (h : op.isMove) (p : Part) (d : Nat) : ((s.move op p).core d).pool =
    if d = coreOf s.me then (s.core d).pool.writeAll (op.runs [p]) else (s.core d).pool := by
  rcases h with rfl | ⟨f, rfl⟩
  · exact (ite_self _).symm
  · have hw : ((s.poolWrite (coreOf s.me) (poolOff p.va) p.data).core d).pool =
        if d = coreOf s.me then (s.core d).pool.writeAll ((AccOp.store f).runs [p]) else (s.core d).pool := by
      rw [State.poolWrite, State.core_modCore]
      split
      · next hd => subst hd; rfl
      · rfl
    rw [← hw, move_store]
    split
    · rw [State.setFull, State.core_modCore]
      split
      · next hd => subst hd; rfl
      · rfl
    · rfl

theorem full_move (h : op.isMove) (p : Part) (g : Nat) : lookAt false ((s.move op p).core (coreOf s.me)).full g =
    if op = .store true ∧ poolOff p.va / 16 = g then true else lookAt false (s.core (coreOf s.me)).full g := by
  rcases h with rfl | ⟨f, rfl⟩
  · simp [move_load]
  · cases f
    · simp [move_store, State.poolWrite]
    · simp [move_store, State.poolWrite, State.setFull, lookAt_putAt, eq_comm]

/-! ## The parts of one granule -/

/-- Parts served one after another, at core `c` and with rank `r`. -/
def State.serveParts (s : State) (c r : Nat) (ps : List Part) : State := ps.foldl (fun s p => s.serve c (poolOff p.va) p.len r) s

/-- What moving parts one after another leaves. -/
structure PartsMoved (s t : State) (op : AccOp) (ps : List Part) : Prop extends MoveStep s t where
  pool : ∀ d, (t.core d).pool = if d = coreOf s.me then (s.core d).pool.writeAll (op.runs ps) else (s.core d).pool
  full : ∀ g, lookAt false (t.core (coreOf s.me)).full g =
    if op = .store true ∧ ∃ p ∈ ps, poolOff p.va / 16 = g then true else lookAt false (s.core (coreOf s.me)).full g

theorem PartsMoved.refl (s : State) (op : AccOp) : PartsMoved s s op [] where
  toMoveStep := .refl s
  pool d := by simp [AccOp.runs, Memory.writeAll]
  full g := by simp

theorem PartsMoved.trans {t u : State} {ps qs : List Part} (h : PartsMoved s t op ps) (h' : PartsMoved t u op qs) : PartsMoved s u op (ps ++ qs) where
  toMoveStep := h.toMoveStep.trans h'.toMoveStep
  pool d := by
    rw [h'.pool, h.pool, h.me, AccOp.runs_append, Memory.writeAll, Memory.writeAll, Memory.writeAll, List.foldl_append]
    split <;> rfl
  full g := by
    have h1 := h'.full g
    rw [h.me, h.full] at h1
    rw [h1]
    by_cases hop : op = .store true
    · simp only [hop, true_and, List.mem_append, or_and_right, exists_or]
      split <;> split <;> simp_all
    · simp [hop]

theorem partsMoved_move (h : op.isMove) (p : Part) : PartsMoved s (s.move op p) op [p] where
  toMoveStep := moveStep_move h p
  pool := pool_move h p
  full g := by simpa using full_move h p g

theorem partsMoved_moveAll (h : op.isMove) (ps : List Part) : PartsMoved s (ps.foldl (fun s p => s.move op p) s) op ps := by
  induction ps generalizing s with
  | nil => exact .refl s op
  | cons p ps ih => exact (partsMoved_move h p).trans ih

theorem partsMoved_serveParts (op : AccOp) (ps : List Part) : PartsMoved s (s.serveParts (coreOf s.me) (s.me % 4) ps) op [] := by
  induction ps generalizing s with
  | nil => exact .refl s op
  | cons p ps ih =>
    refine PartsMoved.trans (qs := []) (ps := []) (t := s.serve (coreOf s.me) (poolOff p.va) p.len (s.me % 4)) ⟨moveStep_serve _ _, ?_, ?_⟩ ih
    · intro d
      rw [State.serve, State.core_modCore, AccOp.runs_nil]
      split
      · next hd => subst hd; rfl
      · rfl
    · intro g
      simp [State.serve]

/-- The access as it stands in flight while its parts move. -/
abbrev State.inFlight (s : State) (a : Access) (ps : List Part) : State := s.enter { a with parts := ps }

/-- An access that the issuing thread is to make next, told to follow none. -/
structure MakesNext (s : State) (a : Access) : Prop where
  id    : a.id = s.nextId
  tid   : a.tid = s.me
  core  : a.core = coreOf s.me
  after : a.after = []
  op    : a.op.isMove

theorem MakesNext.step {t : State} (h : MakesNext s a) (hs : MoveStep s t) : MakesNext t a :=
  ⟨h.id.trans hs.nextId.symm, h.tid.trans hs.me.symm, hs.me ▸ h.core, h.after, h.op⟩

theorem move_inFlight (h : op.isMove) (a : Access) (ps : List Part) (p : Part) :
    (s.inFlight a ps).move op p = (s.move op p).inFlight a ps := by
  rcases h with rfl | ⟨f, rfl⟩
  · rfl
  · cases f <;> rfl

/-- What a part becomes depends on the pool only where it reads. -/
theorem moved_congr {m m' : Memory} (h : op.writes = false → m = m') (c : Nat) (p : Part) : p.moved op c m = p.moved op c m' := by
  cases hw : op.writes with
  | true => simp [Part.moved, hw]
  | false => rw [h hw]

theorem moved_move (h : op.isMove) (p q : Part) :
    q.moved op (coreOf s.me) ((s.move op p).core (coreOf s.me)).pool = q.moved op (coreOf s.me) (s.core (coreOf s.me)).pool := by
  refine moved_congr (fun hw => ?_) _ _
  rw [pool_move h, if_pos rfl, AccOp.runs, hw]
  rfl

/-- Addresses of one granule are as far apart as their offsets in the pool. -/
theorem shift_granule {p q : Word} (c : Nat) (h : q.toNat / 16 = p.toNat / 16) :
    (Loc.pool c (poolOff p)).shift p q = .pool c (poolOff q) := by
  have hoff : p.toNat % 2 ^ 19 + q.toNat - p.toNat = q.toNat % 2 ^ 19 := by omega
  rw [poolOff_eq, poolOff_eq, ← hoff]
  rfl

theorem set_eq_modify {α : Type} {l : List α} {j : Nat} {x : α} (h : l[j]? = some x) (f : α → α) : l.set j (f x) = l.modify j f := by
  rw [List.modify_eq_set_getElem?, h]
  rfl

/-- Parts with the numbers of a list moved. -/
def movedAt (op : AccOp) (c : Nat) (m : Memory) (js : List Nat) (ps : List Part) : List Part :=
  js.foldl (fun ps j => ps.modify j (Part.moved op c m)) ps

/-- The part of a number of an access in flight performed, where a group that begins at `base` lies at `l`. -/
def State.performAt (s : State) (a : Access) (base : Word) (l : Loc) (own : Bool) (j : Nat) : State :=
  ((s.findAcc a.id).bind (fun b => b.parts[j]?)).elim s (fun p =>
    (s.performPart a.op p (l.shift base p.va) own).1.modAcc a.id (fun b =>
      b.setPart j (s.performPart a.op p (l.shift base p.va) own).2))

theorem State.performGroup_eq (s : State) (a : Access) (i : Nat) (base : Word) (l : Loc) (own : Bool) :
    s.performGroup a i base l own = (a.group i).foldl (fun s j => s.performAt a base l own j) s := by
  rw [State.performGroup]
  refine List.foldl_ext _ _ _ fun s j _ => ?_
  unfold State.performAt
  cases (s.findAcc a.id).bind (fun b => b.parts[j]?) <;> rfl

/-- A number of no part: nothing is performed. -/
theorem performAt_none (hq : Quiet s) (ho : MakesNext s a) {base : Word} {l : Loc} {ps : List Part} {j : Nat} (hp : ps[j]? = none) :
    (s.inFlight a ps).performAt a base l true j = s.inFlight a ps := by
  rw [State.performAt, findAcc_enter (a := { a with parts := ps }) hq.fresh ho.id, Option.bind_some, hp]
  rfl

/-- A part of the granule of `base` is moved. -/
theorem performAt_some (hq : Quiet s) (ho : MakesNext s a) {base : Word} {ps : List Part} {j : Nat} {p : Part} (hp : ps[j]? = some p)
    (hg : p.granule = base.toNat / 16) : (s.inFlight a ps).performAt a base (.pool (coreOf s.me) (poolOff base)) true j =
      (s.move a.op p).inFlight a (ps.modify j (Part.moved a.op (coreOf s.me) (s.core (coreOf s.me)).pool)) := by
  have hstep := moveStep_move (s := s) ho.op p
  have hperf := performPart_eq (s := s.inFlight a ps) ho.op p
  rw [State.performAt, findAcc_enter (a := { a with parts := ps }) hq.fresh ho.id, Option.bind_some, hp, Option.elim_some,
    shift_granule _ hg, ← set_eq_modify hp]
  refine (congrArg (fun r : State × Part => r.1.modAcc a.id (fun b => b.setPart j r.2)) hperf).trans ?_
  rw [move_inFlight ho.op]
  exact modAcc_enter (a := { a with parts := ps }) (hstep.quiet hq).fresh (ho.step hstep).id rfl

/-- The parts of a granule performed one after another. -/
theorem foldl_performAt (hq : Quiet s) (ho : MakesNext s a) {base : Word} (js : List Nat) (hjs : js.Nodup) (ps : List Part)
    (hg : ∀ j ∈ js, ∀ q, ps[j]? = some q → q.granule = base.toNat / 16) :
    js.foldl (fun t j => t.performAt a base (.pool (coreOf s.me) (poolOff base)) true j) (s.inFlight a ps) =
    ((js.filterMap (fun j => ps[j]?)).foldl (fun t p => t.move a.op p) s).inFlight a
      (movedAt a.op (coreOf s.me) (s.core (coreOf s.me)).pool js ps) := by
  induction js generalizing s ps with
  | nil => rfl
  | cons j js ih =>
    obtain ⟨hj, hjs⟩ := List.nodup_cons.mp hjs
    obtain ⟨hgj, hg⟩ := List.forall_mem_cons.mp hg
    rw [List.foldl_cons, movedAt, List.foldl_cons]
    cases hp : ps[j]? with
    | none =>
      have hmod : ps.modify j (Part.moved a.op (coreOf s.me) (s.core (coreOf s.me)).pool) = ps := by
        rw [List.modify_eq_set_getElem?, hp]
        rfl
      rw [performAt_none hq ho hp, List.filterMap_cons_none hp, hmod]
      exact ih hq ho hjs ps hg
    | some p =>
      have hstep := moveStep_move (s := s) ho.op p
      have hne : ∀ k ∈ js, (ps.modify j (Part.moved a.op (coreOf s.me) (s.core (coreOf s.me)).pool))[k]? = ps[k]? := fun k hk => by
        rw [List.getElem?_modify_ne _ _ (fun h => hj (by rw [h]; exact hk))]
      have hmoved : Part.moved a.op (coreOf s.me) ((s.move a.op p).core (coreOf s.me)).pool =
          Part.moved a.op (coreOf s.me) (s.core (coreOf s.me)).pool := funext fun q => moved_move ho.op p q
      have hrest := ih (hstep.quiet hq) (ho.step hstep) hjs (ps.modify j (Part.moved a.op (coreOf s.me) (s.core (coreOf s.me)).pool))
        (fun k hk q hkq => hg k hk q (hne k hk ▸ hkq))
      rw [hstep.me, List.filterMap_congr hne, movedAt, hmoved] at hrest
      rw [performAt_some hq ho hp (hgj p hp), List.filterMap_cons_some hp, List.foldl_cons]
      exact hrest

/-! ## The numbers of the parts of one granule -/

/-- The numbers of the elements that `P` picks. -/
def indicesOf {α : Type} (P : α → Bool) (l : List α) : List Nat := (List.range l.length).filter (fun j => (l[j]?).any P)

theorem filterMap_indicesOf {α : Type} (P : α → Bool) (l : List α) : (indicesOf P l).filterMap (fun j => l[j]?) = l.filter P := by
  induction l with
  | nil => rfl
  | cons x l ih =>
    have hrest : ((List.range l.length).filter (fun j => (l[j]?).any P)).filterMap (fun j => l[j]?) = l.filter P := ih
    rw [indicesOf, List.length_cons, List.range_succ_eq_map, List.filter_cons]
    have htail : ((List.map Nat.succ (List.range l.length)).filter (fun j => ((x :: l)[j]?).any P)).filterMap (fun j => (x :: l)[j]?) =
        l.filter P := by
      rw [List.filter_map, List.filterMap_map, ← hrest]
      rfl
    cases hx : P x <;> simp [hx, htail]

theorem nodup_indicesOf {α : Type} (P : α → Bool) (l : List α) : (indicesOf P l).Nodup := List.nodup_range.filter _

theorem mem_indicesOf {α : Type} {P : α → Bool} {l : List α} {k : Nat} : k ∈ indicesOf P l ↔ ∃ x, l[k]? = some x ∧ P x = true := by
  simp only [indicesOf, List.mem_filter, List.mem_range, Option.any_eq_true]
  constructor
  · exact fun h => h.2
  · rintro ⟨x, hx, hp⟩
    exact ⟨(List.getElem?_eq_some_iff.mp hx).1, x, hx, hp⟩

theorem getElem?_movedAt (op : AccOp) (c : Nat) (m : Memory) {js : List Nat} (hjs : js.Nodup) (ps : List Part) (k : Nat) :
    (movedAt op c m js ps)[k]? = if k ∈ js then (ps[k]?).map (Part.moved op c m) else ps[k]? := by
  induction js generalizing ps with
  | nil => simp [movedAt]
  | cons j js ih =>
    obtain ⟨hj, hjs⟩ := List.nodup_cons.mp hjs
    have hrest := ih hjs (ps.modify j (Part.moved op c m))
    rw [List.getElem?_modify] at hrest
    refine hrest.trans ?_
    by_cases hk : j = k
    · subst hk
      simp [hj]
    · simp [hk, Ne.symm hk]

/-- Moving the parts that `P` picks. -/
theorem movedAt_indicesOf (op : AccOp) (c : Nat) (m : Memory) (P : Part → Bool) (ps : List Part) :
    movedAt op c m (indicesOf P ps) ps = ps.map (fun p => if P p then p.moved op c m else p) := by
  refine List.ext_getElem? fun k => ?_
  rw [getElem?_movedAt _ _ _ (nodup_indicesOf P ps), List.getElem?_map]
  cases hk : ps[k]? with
  | none => simp
  | some p =>
    have hmem : k ∈ indicesOf P ps ↔ P p = true := by simp [mem_indicesOf, hk]
    simp only [hmem, Option.map_some]
    split <;> rfl

/-- The parts that move with a part are those of its granule. -/
theorem group_eq_indicesOf (hop : a.op.isMove) {i : Nat} {p : Part} (hp : a.parts[i]? = some p) :
    a.group i = indicesOf (fun q => decide (q.granule = p.granule)) a.parts := by
  rw [Access.group, hp]
  refine List.filter_congr fun j _ => ?_
  rw [hop.not_consumes]
  cases a.parts[j]? <;> rfl

theorem groupParts_eq_filter (hop : a.op.isMove) {i : Nat} {p : Part} (hp : a.parts[i]? = some p) :
    a.groupParts i = a.parts.filter (fun q => decide (q.granule = p.granule)) := by
  rw [Access.groupParts, group_eq_indicesOf hop hp, filterMap_indicesOf]

/-! ## One granule -/

/-- Where all is over, no part has to wait for an earlier one. -/
theorem partBlocked_enter (hq : Quiet s) (hid : a.id = s.nextId) (htid : a.tid = s.me) (p : Part) :
    (s.enter a).partBlocked a p = false := by
  rw [State.partBlocked, List.any_eq_false]
  intro b hb
  have hne : b.id ≠ a.id := by simpa using List.mem_takeWhile_imp hb
  have hmem : b ∈ s.accs := by
    rw [enter_eq hid] at hb
    exact (List.mem_append.mp ((List.takeWhile_sublist _).subset hb)).resolve_right
      fun h => hne (congrArg Access.id (List.mem_singleton.mp h))
  by_cases hbt : b.tid = s.me
  · have hdone : b.isDone = true := by simpa [hbt] using List.filter_eq_nil_iff.mp hq.done b hmem
    have hkeeps : b.parts.any ((s.enter a).keeps a p b) = false :=
      List.any_eq_false.mpr fun q hq => by simp [State.keeps, performed_of_isDone hdone q hq]
    simp [hkeeps]
  · simp [htid, hbt]

theorem serveParts_inFlight (a : Access) (ps qs : List Part) (c r : Nat) :
    (s.inFlight a ps).serveParts c r qs = (s.serveParts c r qs).inFlight a ps := by
  induction qs generalizing s with
  | nil => rfl
  | cons q qs ih => exact ih (s := s.serve c (poolOff q.va) q.len r)

/-- The whole granule of a part at the port moves. -/
theorem tryPart_granule (hq : Quiet s) (ho : MakesNext s a) {ps : List Part} {i : Nat} {p : Part} (hp : ps[i]? = some p)
    (hport : p.stage = .port) (hturn : ∀ q ∈ ps, s.inTurn (coreOf s.me) (poolOff q.va) q.len (s.me % 4) = true) :
    ∃ t, PartsMoved s t a.op (ps.filter (fun q => decide (q.granule = p.granule))) ∧ (s.inFlight a ps).tryPart a.id i =
      t.inFlight a (ps.map (fun q => if q.granule = p.granule then q.moved a.op (coreOf s.me) (s.core (coreOf s.me)).pool else q)) := by
  set g := ps.filter (fun q => decide (q.granule = p.granule)) with hg
  have hgroup : ({ a with parts := ps } : Access).groupParts i = g := groupParts_eq_filter (a := { a with parts := ps }) ho.op hp
  have hfind := findAcc_enter (a := { a with parts := ps }) hq.fresh ho.id
  have hclear : (a.op != .clear) = true := by rcases ho.op with h | ⟨f, h⟩ <;> simp [h]
  have hrank : ({ a with parts := ps } : Access).rank true = s.me % 4 := congrArg (· % 4) ho.tid
  have hready : (s.inFlight a ps).groupReady { a with parts := ps } i = true := by
    have hafter : (s.inFlight a ps).allDone ({ a with parts := ps } : Access).after = true := by simp [State.allDone, ho.after]
    have hnot := partBlocked_enter (a := { a with parts := ps }) hq ho.id ho.tid
    simp [State.groupReady, hafter, Access.lowerDone, hclear, hnot]
  have hgt : (s.inFlight a ps).groupTurn { a with parts := ps } i a.core true = true := by
    rw [State.groupTurn, hgroup, List.all_eq_true, hrank, ho.core]
    exact fun q hq => hturn q (List.mem_of_mem_filter hq)
  have hserved : (s.inFlight a ps).groupServed { a with parts := ps } i (coreOf s.me) true =
      (s.serveParts (coreOf s.me) (s.me % 4) g).inFlight a ps := by
    rw [State.groupServed, hgroup, ← serveParts_inFlight, hrank]
    rfl
  have hserve := partsMoved_serveParts (s := s) a.op g
  have hpool : ((s.serveParts (coreOf s.me) (s.me % 4) g).core (coreOf s.me)).pool = (s.core (coreOf s.me)).pool := by
    rw [hserve.pool, if_pos rfl, AccOp.runs_nil]
    rfl
  have hmoves := foldl_performAt (hserve.quiet hq) (ho.step hserve.toMoveStep) (base := p.va)
    (indicesOf (fun q => decide (q.granule = p.granule)) ps) (nodup_indicesOf _ ps) ps (fun j hj q hjq => by
      obtain ⟨x, hx, hpx⟩ := mem_indicesOf.mp hj
      rw [hjq] at hx
      cases hx
      exact of_decide_eq_true hpx)
  rw [filterMap_indicesOf, movedAt_indicesOf, hserve.me, hpool] at hmoves
  simp only [decide_eq_true_eq] at hmoves
  refine ⟨_, hserve.trans (partsMoved_moveAll ho.op g), ?_⟩
  have hgi := group_eq_indicesOf (a := { a with parts := ps }) ho.op hp
  have harrive : (s.inFlight a ps).tryPart a.id i = (s.inFlight a ps).arrivePool { a with parts := ps } i (coreOf s.me) true := by
    have hcond : (decide (p.stage = .port) && (s.inFlight a ps).groupReady { a with parts := ps } i &&
        (s.inFlight a ps).groupTurn { a with parts := ps } i a.core true) = true := by
      rw [hready, hgt, hport]
      rfl
    rw [State.tryPart, hfind]
    dsimp only
    rw [hp]
    dsimp only
    rw [if_pos hcond, ho.core]
  rw [harrive, State.arrivePool]
  dsimp only
  rw [hp]
  dsimp only
  rw [ho.op.not_consumes, hserved, Bool.false_and, if_neg Bool.false_ne_true, State.performGroup_eq, hgi]
  exact hmoves

/-! ## All granules, one after another -/

/-- Parts some of whose granules have moved. -/
def movedIn (op : AccOp) (c : Nat) (m : Memory) (gs : List Nat) (ps : List Part) : List Part :=
  ps.map (fun p => if p.granule ∈ gs then p.moved op c m else p)

theorem getElem?_movedIn (op : AccOp) (c : Nat) (m : Memory) (gs : List Nat) {ps : List Part} {i : Nat} {p : Part} (hp : ps[i]? = some p) :
    (movedIn op c m gs ps)[i]? = some (if p.granule ∈ gs then p.moved op c m else p) := by
  rw [movedIn, List.getElem?_map, hp, Option.map_some]

/-- A part of a granule that has not moved is among the parts as it was. -/
theorem filter_movedIn (op : AccOp) (c : Nat) (m : Memory) {gs : List Nat} {g : Nat} (hg : g ∉ gs) (ps : List Part) :
    (movedIn op c m gs ps).filter (fun q => decide (q.granule = g)) = ps.filter (fun q => decide (q.granule = g)) := by
  rw [movedIn]
  induction ps with
  | nil => rfl
  | cons p ps ih =>
    rw [List.map_cons, List.filter_cons, List.filter_cons, ih]
    by_cases hp : p.granule = g
    · simp [hg, hp]
    · have hfst : ¬ (if p.granule ∈ gs then p.moved op c m else p).granule = g := by
        split <;> exact hp
      simp [hfst, hp]

/-- One more granule has moved. -/
theorem movedIn_movedIn (op : AccOp) (c : Nat) (m : Memory) {gs : List Nat} {g : Nat} (hg : g ∉ gs) (ps : List Part) :
    (movedIn op c m gs ps).map (fun q => if q.granule = g then q.moved op c m else q) = movedIn op c m (g :: gs) ps := by
  rw [movedIn, movedIn, List.map_map]
  refine List.map_congr_left fun p _ => ?_
  by_cases hp : p.granule = g
  · simp [hg, hp]
  · by_cases hin : p.granule ∈ gs
    · have hfst : ¬ (p.moved op c m).granule = g := hp
      simp [hin, hfst]
    · simp [hin, hp]

/-- The parts that have moved, in the order in which they did: those of each granule as they stand in the access. -/
def GranulesOf (ps moved : List Part) : Prop :=
  ∀ q ∈ moved, moved.filter (fun r => decide (r.granule = q.granule)) = ps.filter (fun r => decide (r.granule = q.granule))

/-- One more granule. -/
theorem GranulesOf.append {ps moved : List Part} (h : GranulesOf ps moved) {g : Nat} (hg : g ∉ moved.map Part.granule) :
    GranulesOf ps (moved ++ ps.filter (fun q => decide (q.granule = g))) := by
  intro q hq
  rw [List.filter_append, List.filter_filter]
  by_cases hqg : q.granule = g
  · have hnone : moved.filter (fun r => decide (r.granule = q.granule)) = [] := by
      rw [List.filter_eq_nil_iff]
      intro r hr hrq
      exact hg (List.mem_map.mpr ⟨r, hr, (of_decide_eq_true hrq).trans hqg⟩)
    rw [hnone, List.nil_append]
    simp [hqg]
  · have hq : q ∈ moved := (List.mem_append.mp hq).resolve_right fun hr => hqg (of_decide_eq_true (List.mem_filter.mp hr).2)
    have hnone : ps.filter (fun r => decide (r.granule = q.granule) && decide (r.granule = g)) = [] := by
      rw [List.filter_eq_nil_iff]
      intro r _ hr
      simp only [Bool.and_eq_true, decide_eq_true_eq] at hr
      exact hqg (hr.1.symm.trans hr.2)
    rw [hnone, List.append_nil]
    exact h q hq

/-- How far the parts of an access have moved. -/
structure Progress (s t : State) (a : Access) (ps moved : List Part) (n : Nat) : Prop extends PartsMoved s t a.op moved where
  order : GranulesOf ps moved
  among : ∀ q ∈ moved, q ∈ ps
  done  : ∀ i < n, ∀ p, ps[i]? = some p → p.granule ∈ moved.map Part.granule

/-- The parts of an access in flight. -/
abbrev State.partsNow (s : State) (a : Access) (ps moved : List Part) : List Part :=
  movedIn a.op (coreOf s.me) (s.core (coreOf s.me)).pool (moved.map Part.granule) ps

theorem tryPart_not_port (hq : Quiet s) (ho : MakesNext s a) {ps : List Part} {i : Nat} {p : Part} (hp : ps[i]? = some p)
    (hport : p.stage ≠ .port) : (s.inFlight a ps).tryPart a.id i = s.inFlight a ps := by
  have hfind := findAcc_enter (a := { a with parts := ps }) hq.fresh ho.id
  rw [State.tryPart, hfind]
  dsimp only
  rw [hp]
  simp [hport]

/-- One part tried: its granule moves, unless it has. -/
theorem progress_step (hq : Quiet s) (ho : MakesNext s a) {ps moved : List Part} {t : State} {n : Nat} {p : Part}
    (hport : ∀ q ∈ ps, q.stage = .port) (hturn : ∀ q ∈ ps, s.inTurn (coreOf s.me) (poolOff q.va) q.len (s.me % 4) = true)
    (hp : ps[n]? = some p) (h : Progress s t a ps moved n) :
    ∃ u moved', Progress s u a ps moved' (n + 1) ∧
      (t.inFlight a (s.partsNow a ps moved)).tryPart a.id n = u.inFlight a (s.partsNow a ps moved') := by
  have hstep := h.toMoveStep
  have hq' := hstep.quiet hq
  have ho' := ho.step hstep
  have hnow := getElem?_movedIn a.op (coreOf s.me) (s.core (coreOf s.me)).pool (moved.map Part.granule) hp
  by_cases hin : p.granule ∈ moved.map Part.granule
  · rw [if_pos hin] at hnow
    refine ⟨t, moved, ⟨h.toPartsMoved, h.order, h.among, fun i hi q hiq => ?_⟩, tryPart_not_port hq' ho' hnow (moved_ne_port _ _ _ _)⟩
    rcases Nat.lt_succ_iff_lt_or_eq.mp hi with hi | rfl
    · exact h.done i hi q hiq
    · rw [hp] at hiq
      cases hiq
      exact hin
  · rw [if_neg hin] at hnow
    have hmem : p ∈ ps := List.mem_of_getElem? hp
    obtain ⟨u, hu, htry⟩ := tryPart_granule hq' ho' hnow (hport p hmem) (fun q hqm => by
      rw [hstep.me, hstep.turn]
      obtain ⟨r, hr, rfl⟩ := List.mem_map.mp hqm
      split <;> exact hturn r hr)
    have hsame : ∀ q : Part, q.moved a.op (coreOf t.me) (t.core (coreOf t.me)).pool =
        q.moved a.op (coreOf s.me) (s.core (coreOf s.me)).pool := fun q => by
      rw [hstep.me]
      refine moved_congr (fun hw => ?_) _ _
      rw [h.pool, if_pos rfl, AccOp.runs, hw]
      rfl
    rw [filter_movedIn _ _ _ hin] at hu
    simp only [hsame] at htry
    rw [movedIn_movedIn _ _ _ hin] at htry
    have hnew : ∀ g, g ∈ (moved ++ ps.filter (fun q => decide (q.granule = p.granule))).map Part.granule ↔
        g ∈ p.granule :: moved.map Part.granule := fun g => by
      simp only [List.map_append, List.mem_append, List.mem_map, List.mem_filter, decide_eq_true_eq, List.mem_cons]
      constructor
      · rintro (hg | ⟨q, ⟨-, hqp⟩, rfl⟩)
        · exact .inr hg
        · exact .inl hqp
      · rintro (rfl | hg)
        · exact .inr ⟨p, ⟨hmem, rfl⟩, rfl⟩
        · exact .inl hg
    refine ⟨u, _, ⟨h.toPartsMoved.trans hu, h.order.append hin, fun q hqm => ?_, fun i hi q hiq => ?_⟩, ?_⟩
    · exact (List.mem_append.mp hqm).elim (h.among q) List.mem_of_mem_filter
    · rw [hnew]
      rcases Nat.lt_succ_iff_lt_or_eq.mp hi with hi | rfl
      · exact List.mem_cons_of_mem _ (h.done i hi q hiq)
      · rw [hp] at hiq
        cases hiq
        exact List.mem_cons_self
    · rw [htry]
      simp only [State.partsNow, movedIn, hnew]

/-- All parts tried. -/
theorem progress_all (hq : Quiet s) (ho : MakesNext s a) {ps : List Part} (hport : ∀ q ∈ ps, q.stage = .port)
    (hturn : ∀ q ∈ ps, s.inTurn (coreOf s.me) (poolOff q.va) q.len (s.me % 4) = true) {n : Nat} (hn : n ≤ ps.length) :
    ∃ t moved, Progress s t a ps moved n ∧
      (List.range n).foldl (fun t i => t.tryPart a.id i) (s.inFlight a ps) = t.inFlight a (s.partsNow a ps moved) := by
  induction n with
  | zero =>
    refine ⟨s, [], ⟨.refl s _, by simp [GranulesOf], by simp, by simp⟩, ?_⟩
    simp [State.partsNow, movedIn]
  | succ n ih =>
    obtain ⟨t, moved, h, heq⟩ := ih (by omega)
    obtain ⟨u, moved', h', heq'⟩ := progress_step hq ho hport hturn (List.getElem?_eq_getElem (by omega)) h
    refine ⟨u, moved', h', ?_⟩
    rw [List.range_succ, List.foldl_append, heq]
    exact heq'

/-- An own-pool access that nothing holds back: all its parts move, those of each granule in their order, and then it is settled. -/
theorem enterOwn_granules (hq : Quiet s) (ho : MakesNext s { a with id := s.nextId }) (hport : ∀ q ∈ a.parts, q.stage = .port)
    (hturn : ∀ q ∈ a.parts, s.inTurn (coreOf s.me) (poolOff q.va) q.len (s.me % 4) = true) :
    ∃ t moved, PartsMoved s t a.op moved ∧ (∀ q ∈ moved, q ∈ a.parts) ∧
      (∀ g, moved.filter (fun q => decide (q.granule = g)) = a.parts.filter (fun q => decide (q.granule = g))) ∧
      s.enterOwn a = (t.inFlight { a with id := s.nextId }
        (a.parts.map (Part.moved a.op (coreOf s.me) (s.core (coreOf s.me)).pool))).settle s.nextId := by
  obtain ⟨t, moved, h, heq⟩ := progress_all (a := { a with id := s.nextId }) hq ho hport hturn le_rfl
  have hall : ∀ p ∈ a.parts, p.granule ∈ moved.map Part.granule := fun p hp => by
    obtain ⟨i, hi, rfl⟩ := List.mem_iff_getElem.mp hp
    exact h.done i hi _ (List.getElem?_eq_getElem hi)
  refine ⟨t, moved, h.toPartsMoved, h.among, fun g => ?_, ?_⟩
  · by_cases hg : g ∈ moved.map Part.granule
    · obtain ⟨q, hq, rfl⟩ := List.mem_map.mp hg
      exact h.order q hq
    · have hps : a.parts.filter (fun q => decide (q.granule = g)) = [] := by
        rw [List.filter_eq_nil_iff]
        exact fun p hp hpg => hg (of_decide_eq_true hpg ▸ hall p hp)
      have hmv : moved.filter (fun q => decide (q.granule = g)) = [] := by
        rw [List.filter_eq_nil_iff]
        exact fun p hp hpg => hg (of_decide_eq_true hpg ▸ List.mem_map_of_mem hp)
      rw [hps, hmv]
  · have hparts : s.partsNow { a with id := s.nextId } a.parts moved =
        a.parts.map (Part.moved a.op (coreOf s.me) (s.core (coreOf s.me)).pool) :=
      List.map_congr_left fun p hp => if_pos (hall p hp)
    rw [hparts] at heq
    exact congrArg (fun t : State => t.settle s.nextId) heq

end

end Sys2Proof.Machine

namespace Sys2Proof

/-! # VLS (R162 to R165) -/

/-! ## The last of several writes -/

/-- What stands in a range is what the last run that reaches it has written there, where the others that `P` leaves out lie apart. -/
theorem Memory.read_writeAll_last (m : Memory) {ws init : List (Nat × List Byte)} {w : Nat × List Byte} (P : Nat × List Byte → Bool)
    (hout : ∀ v ∈ ws, P v = false → v.1 + v.2.length ≤ w.1 ∨ w.1 + w.2.length ≤ v.1) (hlast : ws.filter P = init ++ [w]) :
    (m.writeAll ws).read w.1 w.2.length = w.2 := by
  have hfilter : ∀ (m : Memory) (c : Nat), w.1 ≤ c → c < w.1 + w.2.length → ∀ ws : List (Nat × List Byte),
      (∀ v ∈ ws, P v = false → v.1 + v.2.length ≤ w.1 ∨ w.1 + w.2.length ≤ v.1) →
      (m.writeAll ws).byte c = (m.writeAll (ws.filter P)).byte c := by
    intro m c hlo hhi ws hws
    induction ws using List.reverseRecOn with
    | nil => rfl
    | append_singleton ws v ih =>
      have ih := ih fun u hu => hws u (List.mem_append_left _ hu)
      have hstep : ∀ us : List (Nat × List Byte), m.writeAll (us ++ [v]) = (m.writeAll us).write v.1 v.2 := fun us => by
        rw [Memory.writeAll, List.foldl_append]
        rfl
      rw [List.filter_append, hstep]
      cases hv : P v with
      | false =>
        have hapart := hws v (by simp) hv
        rw [Memory.byte_write_out _ _ _ _ (by omega), ih]
        simp [hv]
      | true =>
        rw [List.filter_singleton, hv, cond_true, hstep]
        by_cases hin : v.1 ≤ c ∧ c < v.1 + v.2.length
        · obtain ⟨i, rfl⟩ := Nat.exists_eq_add_of_le hin.1
          rw [Memory.byte_write_in _ _ _ _ (by omega), Memory.byte_write_in _ _ _ _ (by omega)]
        · rw [Memory.byte_write_out _ _ _ _ (by omega), Memory.byte_write_out _ _ _ _ (by omega), ih]
  rw [Memory.read_congr fun c hlo hhi => hfilter m c hlo hhi ws hout, hlast, Memory.writeAll, List.foldl_append]
  exact Memory.read_write_same _ _ _

end Sys2Proof

namespace Sys2Proof.Machine

open Claims

/-! ## What a request leaves (R79, R80, R452) -/

section

variable {maj fn : Nat} {o : Ops} {s : State} {i : Instr}

/-- What a thread must follow does not depend on its pending bits. -/
@[simp] theorem State.mustFollow_clearPending (b : Bool) (k : OrdKind) : (s.clearPending b).mustFollow s.me k = s.mustFollow s.me k := by
  have hthread : ((s.clearPending b).thread s.me).fenceAll = (s.thread s.me).fenceAll ∧
      ((s.clearPending b).thread s.me).fenceWr = (s.thread s.me).fenceWr := by
    have h := State.cur_clearPending s b
    rw [State.cur, State.clearPending_me] at h
    rw [h]
    exact ⟨rfl, rfl⟩
  have hloc : ∀ a p, (s.clearPending b).partLoc a p = s.partLoc a p := fun a p => by cases b <;> rfl
  have hprec : ∀ a, (s.clearPending b).precedes k a = s.precedes k a := fun a => by
    simp only [State.precedes, hloc, State.inExtent, State.clearPending_pkg]
  simp only [State.mustFollow, hthread, hprec, State.undone, State.clearPending_accs]

theorem newAccess_readied (op : AccOp) (dest : Option Reg) (ret : Ret) (fixed acq rel : Bool) (after : List Nat) (ps : List Part) :
    (readied maj fn o s).newAccess op dest ret fixed acq rel after ps = s.newAccess op dest ret fixed acq rel after ps := by
  have hcur : (readied maj fn o s).cur = atIssue maj fn o s := cur_readied
  rw [State.newAccess, State.newAccess, hcur, State.clearPending_me]
  rfl

theorem setPending_eq (t : Thread) (r : Reg) : t.setPending r = t.withPend (withBit t.pend r) := by
  unfold Thread.setPending withBit
  cases pendBit r <;> rfl

/-- An access that enters the list, the thread's pending bits aside. -/
theorem queued_enter (a : Access) (f : Thread → Thread) : Queued s (((readied maj fn o s).enter a).modCur f).finish a := by
  have hrest : { readied maj fn o s with threads := s.threads } = s := onlyThreads_clearPending s _
  have hnext : (readied maj fn o s).nextId = s.nextId := State.clearPending_nextId s _
  refine ⟨?_, congrArg (fun v : State => { v with accs := s.accs, nextId := s.nextId }) hrest, congrArg (· + 1) hnext⟩
  exact congrArg₂ (fun l n => l ++ [{ a with id := n }]) (State.clearPending_accs s _) hnext

/-- A request whose result has variable latency: the access is on its way and its register pending. -/
theorem requests_enter {d : Reg} {a : Access}
    (hexec : exec i s = .next (((readied maj fn o s).enter a).modCur (fun t => t.setPending d)).finish) : Requests i maj fn o s d a := by
  have hme : (readied maj fn o s).me = s.me := State.clearPending_me s _
  refine ⟨_, hexec, issued_finish hme (State.clearPending_clock s _)
    (fun v hv => (State.thread_modCur_ne _ _ (hme ▸ hv)).trans (thread_readied_ne hv)) (b := (atIssue maj fn o s).setPending d) ?_ ?_ rfl ?_,
    queued_enter a _⟩
  · rw [State.cur_modCur, ← cur_readied]
    rfl
  · rw [setPending_eq]
    rfl
  · rw [setPending_eq]
    exact ⟨rfl, rfl, rfl, rfl, rfl, .of_eq rfl rfl rfl rfl rfl, rfl⟩

/-- A request without a result is on its way. -/
theorem sends_enter {a : Access} (hexec : exec i s = .next ((readied maj fn o s).enter a).finish) : Sends i maj fn o s a :=
  ⟨_, hexec, issued_finish (State.clearPending_me s _) (State.clearPending_clock s _) (fun _ => thread_readied_ne) cur_readied rfl
    rfl changed_plain, queued_enter a id⟩

/-- A load-like access that the own pool does not serve at once: a request. -/
theorem requests_issueLoad {op : AccOp} {d : Reg} {ret : Ret} {acq var : Bool} {ps : List Part}
    (hvar : (!var && ps.all (fun p => spaceOf p.va = .own)) = false)
    (hexec : exec i s = .next ((readied maj fn o s).issueLoad op d ret acq var ps)) :
    Requests i maj fn o s d (s.newAccess op (some d) ret false acq false (s.mustFollow s.me .load) ps) := by
  rw [State.issueLoad, hvar, if_neg Bool.false_ne_true, newAccess_readied, State.clearPending_me, State.mustFollow_clearPending] at hexec
  exact requests_enter hexec

/-- A store-like access that the own pool does not serve at once. -/
theorem sends_issueStore {op : AccOp} {k : OrdKind} {rel : Bool} {ps : List Part}
    (hown : ps.all (fun p => spaceOf p.va = .own) = false)
    (hexec : exec i s = .next ((readied maj fn o s).issueStore op k rel ps)) :
    Sends i maj fn o s (s.newAccess op none .none false false rel (s.mustFollow s.me k) ps) := by
  rw [State.issueStore, hown, Bool.and_false, if_neg Bool.false_ne_true, newAccess_readied, State.clearPending_me,
    State.mustFollow_clearPending] at hexec
  exact sends_enter hexec

/-! ## Accesses that the own pool serves at once (R36, R451) -/

/-- The parts of an access, all at the port and in their turn. -/
structure AtPort (s : State) (ps : List Part) : Prop where
  port : ∀ p ∈ ps, p.stage = .port
  turn : ∀ p ∈ ps, s.inTurn (coreOf s.me) (poolOff p.va) p.len (s.me % 4) = true

theorem AtPort.readied {ps : List Part} (h : AtPort s ps) : AtPort (readied maj fn o s) ps := by
  have hstep := ownStep_clearPending s (isMarker maj fn o)
  exact ⟨h.port, fun p hp => by rw [hstep.me, hstep.turn]; exact h.turn p hp⟩

/-- A load that the own pool serves at once: its parts' bytes in its register, and no byte changed. -/
theorem enterOwn_load_granules {a : Access} (hq : Quiet s) (ho : MakesNext s { a with id := s.nextId }) (hp : AtPort s a.parts)
    (hop : a.op = .load) (hfix : a.fixed = true) : OwnStep s (s.enterOwn a) ∧ (∀ d, ((s.enterOwn a).core d).pool = (s.core d).pool) ∧
      (s.enterOwn a).cur =
        ({ a with parts := a.parts.map (Part.moved a.op (coreOf s.me) (s.core (coreOf s.me)).pool) } : Access).deliver s.cur := by
  obtain ⟨t, moved, hm, -, -, heq⟩ := enterOwn_granules hq ho hp.port hp.turn
  have hperf : (a.parts.map (Part.moved a.op (coreOf s.me) (s.core (coreOf s.me)).pool)).all Part.performed = true := by
    rw [hop, List.all_map, List.all_eq_true]
    exact fun _ _ => rfl
  have hsettle := settle_fixed (s := t) (a := { a with id := s.nextId, parts := _ }) (hm.quiet hq).fresh hm.nextId.symm hfix hperf
    (ho.tid.trans hm.me.symm)
  rw [heq.trans hsettle]
  refine ⟨(hm.toOwnStep.modCur _).trans (ownStep_freshId _), fun d => (hm.pool d).trans ?_,
    (State.cur_modCur t _).trans (congrArg _ hm.cur)⟩
  rw [hop]
  exact ite_self _

/-- A store that the own pool serves at once: the bytes of its parts in the pool, those of each granule in their order. -/
theorem enterOwn_store_granules {a : Access} {f : Bool} (hq : Quiet s) (ho : MakesNext s { a with id := s.nextId })
    (hp : AtPort s a.parts) (hop : a.op = .store f) (hfix : a.fixed = false) (hdest : a.dest = none) :
    ∃ t moved, (∀ q ∈ moved, q ∈ a.parts) ∧
      (∀ g, moved.filter (fun q => decide (q.granule = g)) = a.parts.filter (fun q => decide (q.granule = g))) ∧
      PartsMoved s t a.op moved ∧ s.enterOwn a = t.freshId.2 := by
  obtain ⟨t, moved, hm, hamong, horder, heq⟩ := enterOwn_granules hq ho hp.port hp.turn
  refine ⟨t, moved, hamong, horder, hm, heq.trans ?_⟩
  refine settle_acked (s := t) (a := { a with id := s.nextId, parts := _ }) (hm.quiet hq).fresh hm.nextId.symm hfix hdest ?_
  refine List.all_eq_true.mpr fun p hp => ?_
  obtain ⟨q, -, rfl⟩ := List.mem_map.mp hp
  simp only [hop]
  rfl

/-! ## The elements of a load (R162, R163) -/

/-- The bytes of an element of whole bytes put at their place. -/
theorem patchBytes_elem (v : VWord) {n : Nat} (e : Nat) {bs : List Byte} (h : bs.length = n) :
    patchBytes v (n * e) bs = setElem v (8 * n) e (leNat bs) := by
  have hlt : leNat bs < 2 ^ (8 * n) := by
    have := leNat_lt bs
    rwa [h, show 256 = 2 ^ 8 from rfl, ← pow_mul] at this
  simp only [patchBytes, setElem, h, Nat.mod_eq_of_lt hlt, Nat.mul_assoc]

/-- Types of at least a byte are of whole bytes. -/
theorem width_of_bytes {ty : Ty} (h : 8 ≤ ty.width) : 8 * (ty.width / 8) = ty.width := by
  revert h
  cases ty <;> decide

/-- The elements that the parts of a vector load bring. -/
theorem elemOf_patchParts (o : Ops) (m : Memory) (c : Nat) (addr : Nat → Word) (es : List Nat) (v : VWord) (hw : 8 ≤ o.ty.width)
    {f : Nat} (hf : f < o.ty.elems) :
    elemOf (patchParts v ((es.map (fun e => mkPart (addr e) (o.ty.width / 8) (o.ty.width / 8 * e) [])).map (Part.moved .load c m)))
      o.ty.width f = if f ∈ es then leNat (m.read (poolOff (addr f)) (o.ty.width / 8)) else elemOf v o.ty.width f := by
  set n := o.ty.width / 8 with hn
  have hwidth : 8 * n = o.ty.width := width_of_bytes hw
  have hpatch : patchParts v ((es.map (fun e => mkPart (addr e) n (n * e) [])).map (Part.moved .load c m)) =
      es.foldl (fun d e => setElem d o.ty.width e (leNat (m.read (poolOff (addr e)) n))) v := by
    rw [patchParts, List.map_map, List.foldl_map]
    refine List.foldl_ext _ _ _ fun d e _ => ?_
    rw [← hwidth]
    exact patchBytes_elem d e (Memory.length_read _ _ _)
  have hlt : leNat (m.read (poolOff (addr f)) n) < 2 ^ o.ty.width := by
    have := leNat_lt (m.read (poolOff (addr f)) n)
    rwa [Memory.length_read, show 256 = 2 ^ 8 from rfl, ← pow_mul, hwidth] at this
  rw [hpatch, elemOf_foldl_setElem _ _ _ _ hf, Nat.mod_eq_of_lt hlt]

end

end Sys2Proof.Machine

namespace Sys2Proof.Claims

open Machine

/-! # VLS loads (R162 to R165) -/

section

variable {fn : Nat} {o : Ops} {s : State} {i : Instr}

/-- The parts of a vector access, from the active elements. -/
theorem vlsParts_eq (store : Bool) : vlsParts fn store s.cur o = (activeElems o s.cur).map (fun e =>
    mkPart (vlsAddr fn s.cur o e) (o.ty.width / 8) (o.ty.width / 8 * e)
      (if store then leBytes (o.ty.width / 8) (elemOf (s.cur.vr o.d) o.ty.width e) else [])) := rfl

/-- Whether every part of a vector access lies in the own pool. -/
theorem own_vlsParts (store : Bool) : (vlsParts fn store s.cur o).all (fun p => spaceOf p.va = .own) = true ↔
    ∀ e ∈ activeElems o s.cur, spaceOf (vlsAddr fn s.cur o e) = .own := by
  rw [vlsParts_eq, List.all_map, List.all_eq_true]
  simp [mkPart]

/-- The parts of a vector access in its turn. -/
theorem atPort_vlsParts (store : Bool)
    (h : ∀ e ∈ activeElems o s.cur, s.inTurn (coreOf s.me) (poolOff (vlsAddr fn s.cur o e)) (o.ty.width / 8) (s.me % 4) = true) :
    AtPort s (vlsParts fn store s.cur o) := by
  rw [vlsParts_eq]
  exact ⟨fun p hp => by obtain ⟨e, -, rfl⟩ := List.mem_map.mp hp; rfl,
    fun p hp => by obtain ⟨e, he, rfl⟩ := List.mem_map.mp hp; exact h e he⟩

/-- What the checks of a vector access read of the state: not the pending bits. -/
theorem vlsFault_readied : vlsFault (readied 0x14 fn o s).myPart fn (readied 0x14 fn o s).cur o =
    vlsFault (s.core (coreOf s.me)).part fn s.cur o := by
  rw [State.myPart, State.clearPending_me, State.core_clearPending, cur_readied]
  rfl

/-- A vector load that the checks of R164 stop. -/
theorem exec_vlsLoad_fault (e : Ops → State → Out) (h : Ready 0x14 fn o s) (hi : exec i s = e o s) (he : e o s = vlsLoad fn o s)
    {c : FaultCode} {a : Word} (hf : vlsFault (s.core (coreOf s.me)).part fn s.cur o = some (c, a)) :
    exec i s = .next ((readied 0x14 fn o s).raise c 0 a) := by
  have hexec := exec_ready e h hi he rfl rfl
  rwa [vlsFault_readied, hf] at hexec

/-- A vector load that the checks of R164 let pass. -/
theorem exec_vlsLoad (e : Ops → State → Out) (h : Ready 0x14 fn o s) (hi : exec i s = e o s) (he : e o s = vlsLoad fn o s)
    (hf : vlsFault (s.core (coreOf s.me)).part fn s.cur o = none) :
    exec i s = .next (
      if activeElems o s.cur = [] then
        (if fn = 6 then (readied 0x14 fn o s).modCur (fun t => t.setPending o.d) else readied 0x14 fn o s).finish
      else if fn = 6 then
        (if 8 ≤ s.consuming s.me then (readied 0x14 fn o s).await .stalled .consumeRoom
         else (readied 0x14 fn o s).issueLoad (.consume (o.fld 0 1 = 1)) o.d (.bytes (some o.ty)) false true
           (vlsParts fn false s.cur o))
      else (readied 0x14 fn o s).issueLoad .load o.d (.bytes (some o.ty)) false false (vlsParts fn false s.cur o)) := by
  have hexec := exec_ready e h hi he rfl rfl
  have hconsuming : (readied 0x14 fn o s).consuming (readied 0x14 fn o s).me = s.consuming s.me := by
    rw [State.consuming, State.clearPending_accs, State.clearPending_me]
    rfl
  rw [vlsFault_readied, hf, cur_readied, hconsuming] at hexec
  exact hexec

/-- A vector load from the own pool, with nothing before it unfinished and in its turn (R36, R451). -/
theorem vlsLoad_own {d : BitVec 6} (hd : o.d = .v d) (hf : IdsFresh s) (hu : s.undone s.me = []) (hw : 8 ≤ o.ty.width)
    (hown : ∀ e ∈ activeElems o s.cur, spaceOf (vlsAddr fn s.cur o e) = .own)
    (hturn : ∀ e ∈ activeElems o s.cur, s.inTurn (coreOf s.me) (poolOff (vlsAddr fn s.cur o e)) (o.ty.width / 8) (s.me % 4) = true)
    (hexec : exec i s = .next
      ((readied 0x14 fn o s).issueLoad .load o.d (.bytes (some o.ty)) false false (vlsParts fn false s.cur o))) :
    Issues i s { plain 0x14 fn o s with regs := [.v d] } (fun u =>
      (∀ e, e < o.ty.elems → elemOf (u.cur.getV d) o.ty.width e =
        if e ∈ activeElems o s.cur then leNat (s.poolRead (coreOf s.me) (poolOff (vlsAddr fn s.cur o e)) (o.ty.width / 8))
        else elemOf (s.cur.getV d) o.ty.width e) ∧
      BytesKept s u ∧ OnlyPools s u) := by
  have hquiet : Quiet (readied 0x14 fn o s) := quiet_readied hf hu
  have hport : AtPort (readied 0x14 fn o s) (vlsParts fn false s.cur o) := (atPort_vlsParts false hturn).readied
  have hme : (readied 0x14 fn o s).me = s.me := State.clearPending_me s _
  rw [State.issueLoad, (own_vlsParts false).mpr hown, mustFollow_quiet hquiet, Bool.not_false, Bool.and_self, if_pos rfl] at hexec
  obtain ⟨hstep, hpool, hcur⟩ := enterOwn_load_granules (a := (readied 0x14 fn o s).newAccess .load o.d (.bytes (some o.ty)) true false
    false [] (vlsParts fn false s.cur o)) hquiet ⟨rfl, rfl, rfl, rfl, .inl rfl⟩ hport rfl rfl
  have hstep := (ownStep_clearPending s _).trans hstep
  rw [cur_readied, hme, State.core_clearPending] at hcur
  have hwrites := onlyWrites_deliver (a := { (readied 0x14 fn o s).newAccess .load o.d (.bytes (some o.ty)) true false false []
    ((vlsParts fn false s.cur o).map (Part.moved .load (coreOf s.me) (s.core (coreOf s.me)).pool)) with }) (congrArg some hd) (atIssue 0x14 fn o s)
  refine ⟨_, hexec, issued_finish hstep.me hstep.clock hstep.others hcur hwrites.pc rfl hwrites.changed,
    fun e he => ?_, ⟨fun c => (hpool c).trans (congrArg Core.pool (State.core_clearPending s _ c)), hstep.dram, hstep.hostMem⟩,
    hstep.finish.only⟩
  rw [State.cur_finish, hcur]
  refine (congrArg (elemOf · o.ty.width e) (deliver_bytes (atIssue 0x14 fn o s) (congrArg some hd) rfl)).trans ?_
  exact elemOf_patchParts o _ _ _ _ _ hw he

/-- An instruction that finds nothing to do. -/
theorem acts_finish_plain {maj : Nat} (hexec : exec i s = .next (readied maj fn o s).finish) : Acts i s (plain maj fn o s) (fun _ => True) :=
  ⟨_, hexec, issued_finish (State.clearPending_me s _) (State.clearPending_clock s _) (fun _ => thread_readied_ne) cur_readied rfl rfl
    changed_plain, onlyThreads_clearPending s _, trivial⟩

/-- An instruction that only makes a register pending. -/
theorem acts_finish_pending {maj : Nat} {d : Reg} (hexec : exec i s = .next ((readied maj fn o s).modCur (fun t => t.setPending d)).finish) :
    Acts i s { plain maj fn o s with pend := withBit (plain maj fn o s).pend d } (fun _ => True) := by
  refine acts_finish hexec ?_ rfl ?_ trivial
  · rw [setPending_eq]
    rfl
  · rw [setPending_eq]
    exact ⟨rfl, rfl, rfl, rfl, rfl, .of_eq rfl rfl rfl rfl rfl, rfl⟩

end

/-- VLS loads (R162 to R165): each is `vlsLoad`. -/
theorem vectorLoadResults : VectorLoadResults := by
  intro o s d hd hf hraised t n c es req gives hw
  have loads : ∀ (j : Ops → Instr) fn (e : Ops → State → Out), exec (j o) s = e o s → e o s = vlsLoad fn o s → gives j fn := by
    intro j fn e hj he h
    refine ⟨fun f a hfault => stops_raise hraised (exec_vlsLoad_fault e h hj he hfault), fun hpass => ?_⟩
    have hexec := exec_vlsLoad e h hj he hpass
    refine ⟨fun hes => ?_, fun hes hfn hown hu hturn => ?_, fun hfn hout => ?_, fun hes hfn hroom => ?_, fun hes hfn hfull => ?_⟩
    · rw [if_pos hes] at hexec
      by_cases hfn : fn = 6
      · rw [if_pos hfn, hd] at hexec
        rw [if_pos hfn]
        exact acts_finish_pending hexec
      · rw [if_neg hfn] at hexec
        rw [if_neg hfn]
        exact acts_finish_plain hexec
    · rw [if_neg hes, if_neg hfn] at hexec
      exact vlsLoad_own hd hf hu hw hown hturn hexec
    · obtain ⟨x, hx, hspace⟩ := hout
      rw [if_neg (List.ne_nil_of_mem hx), if_neg hfn, hd] at hexec
      refine requests_issueLoad ?_ hexec
      rw [Bool.not_false, Bool.true_and, Bool.eq_false_iff]
      exact fun hall => hspace ((own_vlsParts false).mp hall x hx)
    · rw [if_neg hes, if_pos hfn, if_neg (Nat.not_le.mpr hroom), hd] at hexec
      exact requests_issueLoad rfl hexec
    · rw [if_neg hes, if_pos hfn, if_pos hfull] at hexec
      exact waits_await hexec
  exact ⟨loads .vlsLd 0x01 execVlsLd rfl rfl, loads .vlsLds 0x03 execVlsLds rfl rfl, loads .vlsLdg 0x05 execVlsLdg rfl rfl,
    loads .vlsLdfe 0x06 execVlsLdfe rfl rfl⟩

/-- A word read as a signed number of 32 bits is its sign extension. -/
theorem ofInt_readInt (x : Nat) : BitVec.ofInt 64 (readInt true 32 x) = (BitVec.ofNat 32 x).signExtend 64 := by
  have hint : readInt true 32 x = (BitVec.ofNat 32 x).toInt := by
    rw [BitVec.toInt_eq_toNat_cond, BitVec.toNat_ofNat, readInt, Bool.true_and]
    simp only [decide_eq_true_eq]
    split <;> split <;> omega
  rw [hint, BitVec.signExtend]

theorem vectorAddresses : VectorAddresses :=
  fun _ _ _ => ⟨rfl, rfl, rfl, rfl, rfl, rfl, congrArg (_ + ·) (ofInt_readInt _)⟩

end Sys2Proof.Claims

namespace Sys2Proof

/-- Settles O28: the parts of a load from the own pool are its active elements, and each brings its bytes to its place. -/
theorem vectorLoads : Obligations.VectorLoads :=
  ⟨Claims.vectorLoadResults, Claims.vectorAddresses⟩

end Sys2Proof

namespace Sys2Proof.Claims

open Machine

/-! # VLS stores (R162 to R165) -/

/-! ## Elements stored in the own pool -/

/-- A place in the own pool (R169) for an element of `n` bytes: its offset says where it lies, a multiple of its size. -/
structure OwnCell (n : Nat) (a : Word) : Prop where
  place   : a.toNat = 0xD * 2 ^ 60 + poolOff a
  aligned : poolOff a % n = 0

theorem bitsAt_eq (w : Word) (lo n : Nat) : bitsAt w lo n = w.toNat / 2 ^ lo % 2 ^ n := by
  simp [bitsAt, Nat.shiftRight_eq_div_pow]

/-- An own-pool address that the checks of R171 let pass. -/
theorem place_of_checkAddr {w a : Word} {n : Nat} (hown : spaceOf a = .own) (hcheck : checkAddr w a n = none) :
    a.toNat = 0xD * 2 ^ 60 + poolOff a := by
  have htop : bitsAt a 60 4 = 0xD := by
    revert hown
    unfold spaceOf
    split <;> simp_all
  have hmid : bitsAt a 19 41 = 0 := by
    simp only [checkAddr, hown, poolForm, ite_eq_left_iff, reduceCtorEq, imp_false, not_not, Bool.and_eq_true, decide_eq_true_eq] at hcheck
    exact hcheck.1.1
  have hlt := a.isLt
  rw [bitsAt_eq] at htop hmid
  rw [poolOff, bitsAt_eq]
  omega

/-- Two elements at different places of the own pool lie apart. -/
theorem OwnCell.apart {n : Nat} {a b : Word} (ha : OwnCell n a) (hb : OwnCell n b) (h : poolOff a ≠ poolOff b) :
    poolOff a + n ≤ poolOff b ∨ poolOff b + n ≤ poolOff a := by
  obtain ⟨i, hi⟩ := Nat.dvd_of_mod_eq_zero ha.aligned
  obtain ⟨j, hj⟩ := Nat.dvd_of_mod_eq_zero hb.aligned
  rw [hi, hj] at h ⊢
  rcases Nat.lt_or_gt_of_ne (fun hij : i = j => h (hij ▸ rfl)) with hij | hij
  · exact .inl (by rw [← Nat.mul_succ]; exact Nat.mul_le_mul_left n hij)
  · exact .inr (by rw [← Nat.mul_succ]; exact Nat.mul_le_mul_left n hij)

section

variable {n : Nat} {addr : Nat → Word} {data : Nat → List Byte} {es : List Nat} {moved : List Part}

/-- The part that brings element `e`. -/
abbrev cellPart (n : Nat) (addr : Nat → Word) (data : Nat → List Byte) (e : Nat) : Part := mkPart (addr e) n (n * e) (data e)

/-- The parts at one place move in the order of their elements. -/
theorem filter_place (hcell : ∀ e ∈ es, OwnCell n (addr e)) (hamong : ∀ q ∈ moved, q ∈ es.map (cellPart n addr data))
    (horder : ∀ g, moved.filter (fun q => decide (q.granule = g)) =
      (es.map (cellPart n addr data)).filter (fun q => decide (q.granule = g))) {e : Nat} (he : e ∈ es) :
    moved.filter (fun q => decide (poolOff q.va = poolOff (addr e))) =
      (es.map (cellPart n addr data)).filter (fun q => decide (poolOff q.va = poolOff (addr e))) := by
  have hgran : ∀ qs : List Part, (∀ q ∈ qs, q ∈ es.map (cellPart n addr data)) →
      qs.filter (fun q => decide (poolOff q.va = poolOff (addr e))) =
        (qs.filter (fun q => decide (q.granule = (addr e).toNat / 16))).filter (fun q => decide (poolOff q.va = poolOff (addr e))) := by
    intro qs hqs
    rw [List.filter_filter]
    refine List.filter_congr fun q hq => ?_
    obtain ⟨f, hf, rfl⟩ := List.mem_map.mp (hqs q hq)
    have hf := (hcell f hf).place
    have he := (hcell e he).place
    by_cases hoff : poolOff (addr f) = poolOff (addr e)
    · have hword : addr f = addr e := BitVec.eq_of_toNat_eq (by rw [hf, he, hoff])
      simp [mkPart, hword]
    · simp [mkPart, hoff]
  rw [hgran _ hamong, hgran _ fun q hq => hq, horder]

/-- Parts that move in the order of their granules all move. -/
theorem mem_of_granules {ps : List Part} {q : Part}
    (h : ∀ g, moved.filter (fun q => decide (q.granule = g)) = ps.filter (fun q => decide (q.granule = g))) (hq : q ∈ ps) : q ∈ moved := by
  have hmem : q ∈ ps.filter (fun p => decide (p.granule = q.granule)) := List.mem_filter.mpr ⟨hq, decide_eq_true rfl⟩
  exact (List.mem_filter.mp (h _ ▸ hmem)).1

/-- The last of the elements at one place is the one that stays (log 69). -/
theorem read_cells (m : Memory) (hdata : ∀ e, (data e).length = n) (hcell : ∀ e ∈ es, OwnCell n (addr e)) (hes : es.Pairwise (· < ·))
    (hamong : ∀ q ∈ moved, q ∈ es.map (cellPart n addr data))
    (horder : ∀ g, moved.filter (fun q => decide (q.granule = g)) =
      (es.map (cellPart n addr data)).filter (fun q => decide (q.granule = g))) {e : Nat} (he : e ∈ es)
    (hlast : ∀ f ∈ es, e < f → poolOff (addr f) ≠ poolOff (addr e)) :
    (m.writeAll (moved.map Part.run)).read (poolOff (addr e)) n = data e := by
  obtain ⟨l, r, rfl⟩ := List.append_of_mem he
  have hr : ∀ f ∈ r, e < f := (List.pairwise_cons.mp (List.pairwise_append.mp hes).2.1).1
  have hread := Memory.read_writeAll_last m (w := (cellPart n addr data e).run) (fun w => decide (w.1 = poolOff (addr e)))
    (ws := moved.map Part.run) (init := ((l.map (cellPart n addr data)).filter (fun q => decide (poolOff q.va = poolOff (addr e)))).map Part.run)
    (fun v hv hne => ?_) ?_
  · have hlen : (cellPart n addr data e).run.2.length = n := hdata e
    rwa [hlen] at hread
  · obtain ⟨q, hq, rfl⟩ := List.mem_map.mp hv
    obtain ⟨f, hf, rfl⟩ := List.mem_map.mp (hamong q hq)
    have := (hcell f hf).apart (hcell e he) (of_decide_eq_false hne)
    simpa [mkPart, hdata] using this
  · rw [List.filter_map]
    refine (congrArg (List.map Part.run) (filter_place hcell hamong horder he)).trans ?_
    have htail : (r.map (cellPart n addr data)).filter (fun q => decide (poolOff q.va = poolOff (addr e))) = [] := by
      rw [List.filter_eq_nil_iff]
      intro q hq
      obtain ⟨f, hf, rfl⟩ := List.mem_map.mp hq
      simpa [mkPart] using hlast f (by simp [hf]) (hr f hf)
    rw [List.map_append, List.map_cons, List.filter_append, List.filter_cons_of_pos (by simp [mkPart]), htail, List.map_append]
    rfl

end

section

variable {fn : Nat} {o : Ops} {s : State} {i : Instr}

/-- The faults of an address (R171). -/
theorem checkAddr_cases (w a : Word) (n : Nat) :
    checkAddr w a n = none ∨ checkAddr w a n = some .pool ∨ checkAddr w a n = some .prot := by
  unfold checkAddr
  split
  · split <;> simp
  · split <;> simp
  · split <;> simp
  · simp

/-- What the checks of R164 say where they find no fault. -/
theorem vlsFault_none {w : Word} {t : Thread} (h : vlsFault w fn t o = none) : ∀ e ∈ activeElems o t,
    vlsAligned fn t o e = true ∧ checkAddr w (vlsAddr fn t o e) (o.ty.width / 8) = none := by
  intro e he
  unfold vlsFault at h
  dsimp only at h
  split at h
  · cases h
  · next halign =>
    split at h
    · cases h
    · next hpool =>
      split at h
      · cases h
      · next hprot =>
        have halign := List.find?_eq_none.mp halign e he
        have hpool := List.find?_eq_none.mp hpool e he
        have hprot := List.find?_eq_none.mp hprot e he
        simp only [Bool.or_eq_true, decide_eq_true_eq, not_or] at hpool hprot
        exact ⟨by simpa using halign, ((checkAddr_cases w _ _).resolve_right (not_or.mpr ⟨hpool.1, hprot⟩))⟩

/-- The elements of a vector store to the own pool stand in cells of their size. -/
theorem ownCell_vls (hfn : fn = 2 ∨ fn = 4 ∨ fn = 7) (hn : o.ty.width / 8 ∣ 4) {w : Word} {t : Thread} (h : vlsFault w fn t o = none)
    (hown : ∀ e ∈ activeElems o t, spaceOf (vlsAddr fn t o e) = .own) :
    ∀ e ∈ activeElems o t, OwnCell (o.ty.width / 8) (vlsAddr fn t o e) := by
  intro e he
  obtain ⟨halign, hcheck⟩ := vlsFault_none h e he
  have hplace := place_of_checkAddr (hown e he) hcheck
  refine ⟨hplace, ?_⟩
  have haddr : o.ty.width / 8 ∣ (vlsAddr fn t o e).toNat := by
    have hcontiguous : (vlsBase t o).toNat % 4 = 0 → o.ty.width / 8 ∣ (vlsBase t o + BitVec.ofNat 64 (4 * e)).toNat := by
      intro hbase
      refine hn.trans ?_
      rw [BitVec.toNat_add, BitVec.toNat_ofNat]
      omega
    rcases hfn with rfl | rfl | rfl
    · have := of_decide_eq_true halign
      exact hcontiguous (by omega)
    · exact Nat.dvd_of_mod_eq_zero (of_decide_eq_true halign)
    · have := of_decide_eq_true halign
      exact hcontiguous (by omega)
  rw [hplace] at haddr
  exact Nat.mod_eq_zero_of_dvd ((Nat.dvd_add_right (hn.trans (by norm_num))).mp haddr)

/-- A vector store that the checks of R164 stop. -/
theorem exec_vlsStore_fault (e : Ops → State → Out) (h : Ready 0x14 fn o s) (hi : exec i s = e o s) (he : e o s = vlsStore fn o s)
    {c : FaultCode} {a : Word} (hf : vlsFault (s.core (coreOf s.me)).part fn s.cur o = some (c, a)) :
    exec i s = .next ((readied 0x14 fn o s).raise c 0 a) := by
  have hexec := exec_ready e h hi he rfl rfl
  rwa [vlsFault_readied, hf] at hexec

/-- A vector store that the checks of R164 let pass. -/
theorem exec_vlsStore (e : Ops → State → Out) (h : Ready 0x14 fn o s) (hi : exec i s = e o s) (he : e o s = vlsStore fn o s)
    (hf : vlsFault (s.core (coreOf s.me)).part fn s.cur o = none) :
    exec i s = .next (if activeElems o s.cur = [] then (readied 0x14 fn o s).finish
      else (readied 0x14 fn o s).issueStore (.store (fn = 7)) .write false (vlsParts fn true s.cur o)) := by
  have hexec := exec_ready e h hi he rfl rfl
  rw [vlsFault_readied, hf, cur_readied] at hexec
  exact hexec

theorem activeElems_sorted (o : Ops) (t : Thread) : (activeElems o t).Pairwise (· < ·) := List.pairwise_lt_range.filter _

/-- A vector store to the own pool, with nothing before it unfinished and in its turn (R36, R451). -/
theorem vlsStore_own (hf : IdsFresh s) (hu : s.undone s.me = [])
    (hown : ∀ e ∈ activeElems o s.cur, spaceOf (vlsAddr fn s.cur o e) = .own)
    (hcell : ∀ e ∈ activeElems o s.cur, OwnCell (o.ty.width / 8) (vlsAddr fn s.cur o e))
    (hturn : ∀ e ∈ activeElems o s.cur, s.inTurn (coreOf s.me) (poolOff (vlsAddr fn s.cur o e)) (o.ty.width / 8) (s.me % 4) = true)
    (hexec : exec i s = .next
      ((readied 0x14 fn o s).issueStore (.store (fn = 7)) .write false (vlsParts fn true s.cur o))) :
    Issues i s (plain 0x14 fn o s) (fun u =>
      (∀ e ∈ activeElems o s.cur, (∀ e' ∈ activeElems o s.cur, e < e' →
          poolOff (vlsAddr fn s.cur o e') ≠ poolOff (vlsAddr fn s.cur o e)) →
        u.poolRead (coreOf s.me) (poolOff (vlsAddr fn s.cur o e)) (o.ty.width / 8) =
          leBytes (o.ty.width / 8) (elemOf (s.cur.vr o.d) o.ty.width e)) ∧
      (∀ k a, (k ≠ coreOf s.me ∨ ∀ e ∈ activeElems o s.cur, a < poolOff (vlsAddr fn s.cur o e) ∨
          poolOff (vlsAddr fn s.cur o e) + o.ty.width / 8 ≤ a) → (u.core k).pool.byte a = (s.core k).pool.byte a) ∧
      u.dram = s.dram ∧ u.hostMem = s.hostMem ∧
      (∀ g, lookAt false (u.core (coreOf s.me)).full g =
        if fn = 0x07 ∧ (∃ e ∈ activeElems o s.cur, poolOff (vlsAddr fn s.cur o e) / 16 = g) then true
        else lookAt false (s.core (coreOf s.me)).full g) ∧ OnlyPools s u) := by
  have hquiet : Quiet (readied 0x14 fn o s) := quiet_readied hf hu
  have hport : AtPort (readied 0x14 fn o s) (vlsParts fn true s.cur o) := (atPort_vlsParts true hturn).readied
  have hme : (readied 0x14 fn o s).me = s.me := State.clearPending_me s _
  rw [State.issueStore, (own_vlsParts true).mpr hown, mustFollow_quiet hquiet, Bool.and_true,
    if_pos (show (AccOp.store (decide (fn = 7)) != .clear) = true from rfl)] at hexec
  obtain ⟨t, moved, hamong, horder, hm, hend⟩ := enterOwn_store_granules (a := (readied 0x14 fn o s).newAccess (.store (fn = 7)) none .none
    false false false [] (vlsParts fn true s.cur o)) hquiet ⟨rfl, rfl, rfl, rfl, .inr ⟨_, rfl⟩⟩ hport rfl rfl rfl
  rw [hend] at hexec
  have hstep := ((ownStep_clearPending s _).trans hm.toOwnStep).trans (ownStep_freshId t)
  have hpool : ∀ k, (t.core k).pool = if k = coreOf s.me then (s.core k).pool.writeAll (moved.map Part.run) else (s.core k).pool := by
    intro k
    have := hm.pool k
    rwa [hme, State.core_clearPending] at this
  have hmem : ∀ q, q ∈ moved ↔ q ∈ vlsParts fn true s.cur o := fun q => ⟨hamong q, mem_of_granules horder⟩
  refine ⟨_, hexec, issued_finish hstep.me hstep.clock hstep.others (hm.cur.trans cur_readied) rfl rfl changed_plain,
    fun e he hlast => ?_, fun k a hout => ?_, hstep.dram, hstep.hostMem, fun g => ?_, hstep.finish.only⟩
  · refine Eq.trans (congrArg (Memory.read · _ _) ((hpool _).trans (if_pos rfl))) ?_
    exact read_cells _ (data := fun e => leBytes (o.ty.width / 8) (elemOf (s.cur.vr o.d) o.ty.width e)) (fun e => length_leBytes _ _) hcell
      (activeElems_sorted o s.cur) hamong horder he hlast
  · refine (congrArg (Memory.byte · a) (hpool k)).trans ?_
    split
    · next hk =>
      refine Memory.byte_writeAll_out _ fun w hw => ?_
      obtain ⟨q, hq, rfl⟩ := List.mem_map.mp hw
      obtain ⟨e, he, rfl⟩ := List.mem_map.mp (hamong q hq)
      have := hout.resolve_left (fun hne => hne hk) e he
      simpa [mkPart] using this
    · rfl
  · have hfull := hm.full g
    have hplaces : (∃ p ∈ vlsParts fn true s.cur o, poolOff p.va / 16 = g) ↔
        ∃ e ∈ activeElems o s.cur, poolOff (vlsAddr fn s.cur o e) / 16 = g := by
      rw [vlsParts_eq]
      simp [mkPart]
    simp only [State.newAccess, AccOp.store.injEq, decide_eq_true_eq, hmem, hplaces, hme, State.core_clearPending] at hfull
    exact hfull

end

end Sys2Proof.Claims

namespace Sys2Proof

open Machine Claims

/-- Settles O29: each is `vlsStore`; the elements at one place lie in one granule, so the last of them moves last. -/
theorem vectorStoreResults : Obligations.VectorStoreResults := by
  intro o s hf hraised t n c es elem at' gives hw hw'
  have hn : o.ty.width / 8 ∣ 4 := by
    revert hw hw'
    cases o.ty <;> decide
  have stores : ∀ (j : Ops → Instr) fn (e : Ops → State → Out), fn = 2 ∨ fn = 4 ∨ fn = 7 → exec (j o) s = e o s →
      e o s = vlsStore fn o s → gives j fn := by
    intro j fn e hfn hj he h
    refine ⟨fun f a hfault => stops_raise hraised (exec_vlsStore_fault e h hj he hfault), fun hpass => ?_⟩
    have hexec := exec_vlsStore e h hj he hpass
    refine ⟨fun hes => ?_, fun hes hown hu hturn => ?_, fun hout => ?_⟩
    · rw [if_pos hes] at hexec
      exact acts_finish_plain hexec
    · rw [if_neg hes] at hexec
      exact vlsStore_own hf hu hown (ownCell_vls hfn hn hpass hown) hturn hexec
    · obtain ⟨x, hx, hspace⟩ := hout
      rw [if_neg (List.ne_nil_of_mem hx)] at hexec
      exact sends_issueStore (Bool.eq_false_iff.mpr fun hall => hspace ((own_vlsParts true).mp hall x hx)) hexec
  exact ⟨stores .vlsSt 0x02 execVlsSt (.inl rfl) rfl rfl, stores .vlsSts 0x04 execVlsSts (.inr (.inl rfl)) rfl rfl,
    stores .vlsStfe 0x07 execVlsStfe (.inr (.inr rfl)) rfl rfl⟩

end Sys2Proof

namespace Sys2Proof.Machine

open Claims

/-! # The engines of a core: special functions and copies -/

/-! ## SFU RESULT (R150, R151) -/

/-- The elements that a request produces (R142). -/
def SfuReq.picks (r : SfuReq) : List Nat := (List.range r.ty.elems).filter (fun e => r.mask.getLsbD (e / r.ty.per))

/-- What a request gives for an element. -/
def SfuReq.res (r : SfuReq) (e : Nat) : Nat × Nat := sfuElem r.fn r.ty (elemOf r.src r.ty.width e)

/-- Two folds over one list, done at once. -/
theorem foldl_both {α β γ : Type} (f : α → γ → α) (g : β → γ → β) (l : List γ) (a : α) (b : β) :
    l.foldl (fun p x => (f p.1 x, g p.2 x)) (a, b) = (l.foldl f a, l.foldl g b) := by
  induction l generalizing a b with
  | nil => rfl
  | cons x l ih => exact ih _ _

/-- A request writes the elements it picks and ORs their flags. -/
theorem SfuReq.write_eq (r : SfuReq) (t : Thread) : r.write t =
    (t.orFlags (r.picks.foldl (fun fl e => orF fl (r.res e).2) 0)).wv r.dest
      (r.picks.foldl (fun d e => setElem d r.ty.width e (r.res e).1) (t.vr r.dest)) := by
  have hfold : (List.range r.ty.elems).foldl (fun (v : VWord × Nat) e =>
      if r.mask.getLsbD (e / r.ty.per) then (setElem v.1 r.ty.width e (r.res e).1, orF v.2 (r.res e).2) else v) (t.vr r.dest, 0) = _ :=
    List.foldl_filter.symm.trans (foldl_both (fun d e => setElem d r.ty.width e (r.res e).1) (fun fl e => orF fl (r.res e).2) r.picks _ _)
  exact congrArg (fun v : VWord × Nat => (t.orFlags v.2).wv r.dest v.1) hfold

theorem does_sfuResult {s : State} {core : Nat} {r : SfuReq} {rs : List SfuReq} {d : BitVec 6} (hsfu : (s.core core).sfu = r :: rs)
    (hh : s.halted (s.thread r.tid).launch.asid = false) (hd : r.dest = .v d) :
    Does (.sfuResult core) s (fun u => (u.core core).sfu = rs ∧ BytesKept s u ∧ ThreadsBut s u (· = r.tid) ∧
      RegsKept (s.thread r.tid) (u.thread r.tid) [.v d] ∧ (u.thread r.tid).pc = (s.thread r.tid).pc ∧
      (∀ e, e < r.ty.elems → elemOf ((u.thread r.tid).getV d) r.ty.width e =
        if r.mask.getLsbD (e / r.ty.per) then (r.res e).1 % 2 ^ r.ty.width else elemOf ((s.thread r.tid).getV d) r.ty.width e) ∧
      (u.thread r.tid).fpflags = (s.thread r.tid).fpflags ||| BitVec.ofNat 64 (r.picks.foldl (fun fl e => orF fl (r.res e).2) 0)) := by
  set v := s.modCore core (fun c => { c with sfu := rs }) with hv
  have hexec : execSfuResult core s = .next (v.modThread r.tid r.write) := by
    unfold execSfuResult
    rw [hsfu]
    dsimp only
    rw [hh, if_neg Bool.false_ne_true]
  have hthread : (v.modThread r.tid r.write).thread r.tid = r.write (s.thread r.tid) := State.thread_modThread_self v _ _
  rw [SfuReq.write_eq, hd] at hthread
  have hwrites := onlyWrites_wv ((s.thread r.tid).orFlags (r.picks.foldl (fun fl e => orF fl (r.res e).2) 0)) d
    (r.picks.foldl (fun d e => setElem d r.ty.width e (r.res e).1) ((s.thread r.tid).getV d))
  refine ⟨_, hexec, ?_, (bytesKept_modCore s core (f := fun c => { c with sfu := rs }) fun _ => rfl).trans (bytesKept_modThread v _ _),
    fun t ht => State.thread_modThread_ne v _ ht, ?_, ?_, fun e he => ?_, ?_⟩
  · show (v.core core).sfu = rs
    rw [hv, State.core_modCore_self]
  · rw [hthread]
    exact ⟨hwrites.regs.x, hwrites.regs.v, hwrites.regs.p, hwrites.regs.k, hwrites.regs.s⟩
  · rw [hthread]
    exact hwrites.pc
  · have hget := elemOf_foldl_setElem r.ty (fun e => (r.res e).1) r.picks ((s.thread r.tid).getV d) he
    have hpick : e ∈ r.picks ↔ r.mask.getLsbD (e / r.ty.per) = true := by simp [SfuReq.picks, he]
    simp only [hpick] at hget
    rw [hthread, Thread.wv, Thread.getV_setV, if_pos rfl]
    exact hget
  · rw [hthread]
    exact hwrites.fpflags

/-! ## Copy queues -/

section

variable {s t u : State} {core q : Nat} {c : CopyCmd} {cs : List CopyCmd}

@[simp] theorem State.copyQueue_setCopyQueue_self (s : State) (core q : Nat) (cs : List CopyCmd) :
    (s.setCopyQueue core q cs).copyQueue core q = cs := by
  simp [State.copyQueue, State.setCopyQueue]

theorem State.copyQueue_setCopyQueue_ne {r : Nat} (cs : List CopyCmd) (h : r ≠ q) :
    (s.setCopyQueue core q cs).copyQueue core r = s.copyQueue core r := by
  simp [State.copyQueue, State.setCopyQueue, lookAt_putAt, h]

theorem State.modHead_eq (h : s.copyQueue core q = c :: cs) (f : CopyCmd → CopyCmd) :
    s.modHead core q f = s.setCopyQueue core q (f c :: cs) := by
  rw [State.modHead, h]

theorem bytesKept_setCopyQueue (s : State) (core q : Nat) (cs : List CopyCmd) : BytesKept s (s.setCopyQueue core q cs) :=
  bytesKept_modCore s core fun _ => rfl

theorem does_copyStart (hq : s.copyQueue core q = c :: cs) (hst : c.state = .queued) (hafter : s.allDone c.after = true)
    (hh : s.halted (s.thread c.tid).launch.asid = false) (hfn : c.fn ≠ 6) :
    Does (.copyStart core q) s (fun u => u.copyQueue core q = { c with state := .running } :: cs ∧ u.threads = s.threads ∧ BytesKept s u) := by
  have hexec : execCopyStart core q s = .next (s.setCopyQueue core q ({ c with state := .running } :: cs)) := by
    simp [execCopyStart, hq, hst, hafter, hh, hfn, State.modHead_eq hq]
  exact ⟨_, hexec, State.copyQueue_setCopyQueue_self _ _ _ _, rfl, bytesKept_setCopyQueue _ _ _ _⟩

/-- Every queue of a list filtered. -/
theorem foldl_filterQueue (p : CopyCmd → Bool) {qs : List Nat} (hqs : qs.Nodup) (s : State) :
    (∀ r, (qs.foldl (fun (s : State) q => s.setCopyQueue core q ((s.copyQueue core q).filter p)) s).copyQueue core r =
      if r ∈ qs then (s.copyQueue core r).filter p else s.copyQueue core r) ∧
    (qs.foldl (fun (s : State) q => s.setCopyQueue core q ((s.copyQueue core q).filter p)) s).threads = s.threads ∧
    BytesKept s (qs.foldl (fun (s : State) q => s.setCopyQueue core q ((s.copyQueue core q).filter p)) s) := by
  induction qs generalizing s with
  | nil => exact ⟨fun r => by simp, rfl, .refl s⟩
  | cons q qs ih =>
    obtain ⟨hq, hqs⟩ := List.nodup_cons.mp hqs
    obtain ⟨hqueue, hthreads, hkept⟩ := ih hqs (s.setCopyQueue core q ((s.copyQueue core q).filter p))
    refine ⟨fun r => (hqueue r).trans ?_, hthreads, (bytesKept_setCopyQueue _ _ _ _).trans hkept⟩
    by_cases hr : r = q
    · subst hr
      simp [hq]
    · simp [State.copyQueue_setCopyQueue_ne _ hr, hr]

theorem does_join (hq : s.copyQueue core q = c :: cs) (hst : c.state = .queued) (hafter : s.allDone c.after = true)
    (hh : s.halted (s.thread c.tid).launch.asid = false) (hfn : c.fn = 6) (hj : s.joinReady core c = true) :
    Does (.copyStart core q) s (fun u => u.threads = s.threads ∧ BytesKept s u ∧
      ∀ r, r < 4 → u.copyQueue core r = (s.copyQueue core r).filter (fun d => !(d.fn = 6 && d.id = c.id))) := by
  obtain ⟨hqueue, hthreads, hkept⟩ := foldl_filterQueue (core := core) (fun d => !(d.fn = 6 && d.id = c.id))
    (qs := [0, 1, 2, 3]) (by decide) s
  have hexec : execCopyStart core q s = .next ([0, 1, 2, 3].foldl (fun (s : State) q =>
      s.setCopyQueue core q ((s.copyQueue core q).filter (fun d => !(d.fn = 6 && d.id = c.id)))) s) := by
    unfold execCopyStart
    rw [hq]
    simp only [hst, hafter, hh, hfn, hj]
    rfl
  exact ⟨_, hexec, hthreads, hkept, fun r hr => (hqueue r).trans (if_pos (by simp; omega))⟩

theorem does_copyRetry (hq : s.copyQueue core q = c :: cs) (hst : c.state = .faulted) (hf : c.fcode = none) (hhouse : c.house = none)
    (hh : s.halted (s.thread c.tid).launch.asid = false) :
    Does (.copyRetry core q) s (fun u => u.threads = s.threads ∧ BytesKept s u ∧
      u.copyQueue core q = { c with state := .running, got := none, pendOp := none, saving := none, faddr := 0 } :: cs) := by
  have hexec : execCopyRetry core q s = .next (s.setCopyQueue core q
      ({ c with state := .running, got := none, pendOp := none, saving := none, faddr := 0 } :: cs)) := by
    simp [execCopyRetry, hq, hst, hf, hhouse, hh, State.modHead_eq hq]
  exact ⟨_, hexec, rfl, bytesKept_setCopyQueue _ _ _ _, State.copyQueue_setCopyQueue_self _ _ _ _⟩

theorem does_copyFault {code : FaultCode} (hq : s.copyQueue core q = c :: cs) (hcs : c.state = .running) (hf : c.fcode = some code)
    (hst : (s.thread c.tid).status = .running) (hr : (s.thread c.tid).raised = none)
    (hre : (s.thread c.tid).retrying = none) (hd : s.deferring c.tid = false) :
    Does (.copyFault core q false) s (fun u => u.copyQueue core q = { c with state := .faulted } :: cs ∧ BytesKept s u ∧
      ThreadsBut s u (· = c.tid) ∧ (u.thread c.tid).status = .faulted ∧
      (u.thread c.tid).raised = some ⟨code, 0, c.faddr, c.pc, .copy core q⟩) := by
  set v := s.setCopyQueue core q ({ c with state := .faulted } :: cs) with hv
  have hhead : s.modHead core q (fun d => { d with state := .faulted, fcode := some code, faddr := c.faddr }) = v := by
    rw [State.modHead_eq hq, hv, ← hf]
  have hexec : execCopyFault core q false s = .next ((v.withdraw c.tid).raiseAt c.tid ⟨code, 0, c.faddr, c.pc, .copy core q⟩) := by
    simp [execCopyFault, hq, hf, hcs, hhead]
  rw [State.withdraw_of_running (s := v) hst, State.raiseAt_running (s := v) hst hr hre hd] at hexec
  refine ⟨_, hexec, State.copyQueue_setCopyQueue_self _ _ _ _, bytesKept_setCopyQueue _ _ _ _, fun t hne => ?_, ?_, ?_⟩
  · exact State.thread_modThread_ne v _ hne
  · rw [State.thread_modThread_self]
  · rw [State.thread_modThread_self]

/-- A cue changed but for its identity is found as it was. -/
theorem findCue_modCue {id : Nat} {k : Cue} {f : Cue → Cue} (hf : ∀ k, (f k).id = k.id) (h : s.findCue id = some k) :
    (s.modCue id f).findCue id = some (f k) := by
  rw [State.findCue] at h
  rw [State.findCue, State.modCue, List.find?_map]
  have hid : ∀ c : Cue, (if c.id = id then f c else c).id = c.id := fun c => by
    split
    · exact hf c
    · rfl
  have hk : k.id = id := by simpa using List.find?_some h
  simp only [Function.comp_def, hid, h, Option.map_some, hk, if_true]

theorem does_copyFinish (hq : s.copyQueue core q = c :: cs) (hst : c.state = .running) (hf : c.fcode = none) (hp : c.progress = c.units) :
    Does (.copyFinish core q) s (fun u => u.copyQueue core q = cs ∧ u.threads = s.threads ∧ BytesKept s u ∧
      ∀ id k, c.cue = some id → s.findCue id = some k →
        u.findCue id = some { k with place := .stored c.tid, msg := { k.msg with kind := 0 } }) := by
  set v := s.setCopyQueue core q cs with hv
  have hexec : execCopyFinish core q s = .next (c.cue.elim v (fun id =>
      v.modCue id (fun k => { k with place := .stored c.tid, msg := { k.msg with kind := 0 } }))) := by
    unfold execCopyFinish
    rw [hq]
    dsimp only
    rw [if_neg (by simp [hst, hf, hp])]
    cases c.cue <;> rfl
  refine ⟨_, hexec, ?_, ?_, ?_, fun id k hc hk => ?_⟩
  · cases c.cue <;> exact State.copyQueue_setCopyQueue_self _ _ _ _
  · cases c.cue <;> rfl
  · cases c.cue <;> exact bytesKept_setCopyQueue _ _ _ _
  · rw [hc]
    exact findCue_modCue (s := v) (fun _ => rfl) hk

end

end Sys2Proof.Machine

namespace Sys2Proof.Machine

open Claims

/-! ## RETIRE UNIT (R189, R190) -/

/-! ### Places in pools -/

/-- The place that an engine finds at an address of a pool, if it may reach it (R171). -/
def State.poolPlace (s : State) (core asid : Nat) (va : Word) : Option (Nat × Nat) :=
  let c := s.core (anyCore va)
  if spaceOf va = .own then
    (if poolForm va && reachable (s.core core).part (poolOff va) 16 then some (core, poolOff va) else none)
  else if spaceOf va = .any then
    (if poolForm va && c.owner.elim false (fun o => decide (o.1.asid = asid)) && reachable c.part (poolOff va) 16 then
      some (anyCore va, poolOff va) else none)
  else none

section

variable {s t u : State} {core q asid : Nat} {c d : CopyCmd} {cs : List CopyCmd} {va : Word} {w : Bool}

/-- A leaf never names a pool (R398). -/
theorem leafLoc_ne_pool (level : Nat) (pte : Word) (v k off : Nat) : leafLoc level pte v ≠ .pool k off := by
  unfold leafLoc
  dsimp only
  split <;> simp

/-- Where a translation succeeds, its place is not in a pool. -/
def Trans.noPool : Trans → Prop
  | .ok l _ _ _ => ∀ k off, l ≠ .pool k off
  | .fail _ _ => True

theorem noPool_walkAt (s : State) (asid : Nat) (a : Word) (needR needW update fromRoot : Bool) :
    (s.walkAt asid a needR needW update fromRoot).2.noPool := by
  unfold State.walkAt
  dsimp only
  split
  · trivial
  · trivial
  · split
    · trivial
    · exact leafLoc_ne_pool _ _ _

theorem noPool_translate (s : State) (asid : Nat) (a : Word) (needR needW : Bool) : (s.translate asid a needR needW).2.noPool := by
  unfold State.translate
  dsimp only
  split
  · split
    · exact noPool_walkAt _ _ _ _ _ _ _
    · split
      · exact leafLoc_ne_pool _ _ _
      · split
        · exact leafLoc_ne_pool _ _ _
        · exact noPool_walkAt _ _ _ _ _ _ _
  · exact noPool_walkAt _ _ _ _ _ _ _

/-- At an address of a pool an engine finds the place that `poolPlace` says, or the fault POOL; nothing changes. -/
theorem engineLoc_isPool (h : isPool va = true) :
    s.engineLoc core asid va w = (s, (s.poolPlace core asid va).elim (.bad .pool) (fun p => .loc (.pool p.1 p.2))) := by
  unfold State.engineLoc State.poolPlace
  cases hspace : spaceOf va with
  | own =>
    simp only [if_true]
    split <;> rfl
  | any =>
    simp only [reduceCtorEq, if_false, if_true]
    cases (s.core (anyCore va)).owner with
    | none => simp
    | some o =>
      simp only [Option.elim_some]
      split <;> simp only [*] <;> rfl
  | virt => simp [isPool, hspace] at h
  | none => simp [isPool, hspace] at h

/-- At any other address an engine finds no place in a pool. -/
theorem engineLoc_not_isPool (h : isPool va = false) (k off : Nat) : (s.engineLoc core asid va w).2 ≠ .loc (.pool k off) := by
  unfold State.engineLoc
  cases hspace : spaceOf va with
  | own => simp [isPool, hspace] at h
  | any => simp [isPool, hspace] at h
  | none => simp
  | virt =>
    dsimp only
    split
    · simp
    · split
      · simp
      · split
        · split <;> simp
        · next l _ _ _ _ heq =>
          have hplace : (s.translateFor (some asid) asid va (!w) w).2.noPool := noPool_translate s asid va (!w) w
          rw [heq] at hplace
          split
          · exact fun h => hplace k off (EngLoc.loc.inj h)
          · simp
        · simp

theorem poolPlace_not_isPool (h : isPool va = false) : s.poolPlace core asid va = none := by
  obtain ⟨hown, hany⟩ : spaceOf va ≠ .own ∧ spaceOf va ≠ .any := by simpa [isPool] using h
  rw [State.poolPlace, if_neg hown, if_neg hany]

/-- An engine finds a pool granule exactly where `poolPlace` says. -/
theorem engineLoc_pool_iff {k off : Nat} :
    (s.engineLoc core asid va w).2 = .loc (.pool k off) ↔ s.poolPlace core asid va = some (k, off) := by
  cases h : isPool va with
  | true =>
    rw [engineLoc_isPool h]
    cases s.poolPlace core asid va <;> simp [Prod.ext_iff]
  | false => simp [poolPlace_not_isPool h, engineLoc_not_isPool h]

theorem engineLoc_of_poolPlace {k off : Nat} (h : s.poolPlace core asid va = some (k, off)) :
    s.engineLoc core asid va w = (s, .loc (.pool k off)) := by
  cases hp : isPool va with
  | true => rw [engineLoc_isPool hp, h]; rfl
  | false => simp [poolPlace_not_isPool hp] at h

/-! ### A copy at work changes nothing that it looks at -/

/-- Nothing differs but copy queues and the granules served, all of them at the rank of copies. -/
structure CopyStep (s t : State) : Prop where
  only : { t with cores := s.cores } = s
  core : ∀ d, { t.core d with copies := (s.core d).copies, served := (s.core d).served } = s.core d
  turn : ∀ k off, t.inTurn k off 16 rankCopy = s.inTurn k off 16 rankCopy

theorem CopyStep.refl (s : State) : CopyStep s s := ⟨rfl, fun _ => rfl, fun _ _ => rfl⟩

theorem CopyStep.trans (h : CopyStep s t) (h' : CopyStep t u) : CopyStep s u where
  only := (congrArg (fun v : State => { v with cores := s.cores }) h'.only).trans h.only
  core d := (congrArg (fun k : Core => { k with copies := (s.core d).copies, served := (s.core d).served }) (h'.core d)).trans (h.core d)
  turn k off := (h'.turn k off).trans (h.turn k off)

theorem CopyStep.pool (h : CopyStep s t) (k : Nat) : (t.core k).pool = (s.core k).pool := (congrArg Core.pool (h.core k) :)
theorem CopyStep.part (h : CopyStep s t) (k : Nat) : (t.core k).part = (s.core k).part := (congrArg Core.part (h.core k) :)
theorem CopyStep.owner (h : CopyStep s t) (k : Nat) : (t.core k).owner = (s.core k).owner := (congrArg Core.owner (h.core k) :)
theorem CopyStep.threads (h : CopyStep s t) : t.threads = s.threads := (congrArg State.threads h.only :)

theorem CopyStep.thread (h : CopyStep s t) (v : Nat) : t.thread v = s.thread v := by rw [State.thread, State.thread, h.threads]

theorem CopyStep.bytesKept (h : CopyStep s t) : BytesKept s t :=
  ⟨h.pool, (congrArg State.dram h.only :), (congrArg State.hostMem h.only :)⟩

theorem copyStep_setCopyQueue (s : State) (core q : Nat) (cs : List CopyCmd) : CopyStep s (s.setCopyQueue core q cs) where
  only := rfl
  core d := by
    rw [State.setCopyQueue, State.core_modCore]
    split
    · next hd => subst hd; rfl
    · rfl
  turn k off := by
    rw [State.inTurn, State.inTurn, State.setCopyQueue, State.core_modCore]
    split
    · next hd => subst hd; rfl
    · rfl

theorem copyStep_serve (s : State) (c off len : Nat) : CopyStep s (s.serve c off len rankCopy) where
  only := rfl
  core d := by
    rw [State.serve, State.core_modCore]
    split
    · next hd => subst hd; rfl
    · rfl
  turn k off' := by
    by_cases hk : k = c
    · subst hk
      exact inTurn_serve _ _ _ _ _ _
    · rw [State.inTurn, State.inTurn, State.serve, State.core_modCore_ne _ _ hk]

theorem copyStep_locServed (s : State) (l : Loc) : CopyStep s (s.locServed rankCopy l) := by
  cases l with
  | pool k off => exact copyStep_serve s k off 16
  | _ => exact .refl s

theorem CopyStep.poolPlace (h : CopyStep s t) (core asid : Nat) (va : Word) : t.poolPlace core asid va = s.poolPlace core asid va := by
  simp only [State.poolPlace, h.part, h.owner]

theorem CopyStep.engineLoc {k off : Nat} (h : CopyStep s t) (hloc : (s.engineLoc core asid va w).2 = .loc (.pool k off)) :
    t.engineLoc core asid va w = (t, .loc (.pool k off)) :=
  engineLoc_of_poolPlace ((h.poolPlace _ _ _).trans (engineLoc_pool_iff.mp hloc))

/-- Where the index of an element stands, by the places in pools alone. -/
theorem indexPlace_eq (s : State) (core : Nat) (c : CopyCmd) (i : Nat) : s.indexPlace core c i =
    (s.poolPlace core (s.thread c.tid).launch.asid (c.indexVa i &&& ~~~(15#64))).map (fun p => .pool p.1 p.2) := by
  unfold State.indexPlace
  cases hp : s.poolPlace core (s.thread c.tid).launch.asid (c.indexVa i &&& ~~~(15#64)) with
  | some p => rw [engineLoc_of_poolPlace hp, Option.map_some]
  | none =>
    split
    · next heq => cases hp.symm.trans (engineLoc_pool_iff.mp heq)
    · rfl

theorem CopyStep.indexPlace (h : CopyStep s t) (core : Nat) (c : CopyCmd) (i : Nat) : t.indexPlace core c i = s.indexPlace core c i := by
  rw [indexPlace_eq, indexPlace_eq, h.poolPlace, h.thread]

theorem CopyStep.copyIndex (h : CopyStep s t) (core : Nat) (c : CopyCmd) (i : Nat) : t.copyIndex core c i = s.copyIndex core c i := by
  simp only [State.copyIndex, h.indexPlace, State.poolRead, h.pool]

theorem CopyStep.peek (h : CopyStep s t) (asid core : Nat) (va : Word) : t.peek asid core va = s.peek asid core va :=
  (congrArg (fun v : State => v.peek asid core va) h.only :)

theorem CopyStep.copyOverlaps (h : CopyStep s t) (core : Nat) (c : CopyCmd) (l : Loc) : t.copyOverlaps core c l = s.copyOverlaps core c l := by
  simp only [State.copyOverlaps, h.copyIndex, h.indexPlace, h.peek, h.thread]

/-! ### A unit read and written -/

theorem CopyStep.locTurn (h : CopyStep s t) (l : Loc) : t.locTurn rankCopy l = s.locTurn rankCopy l := by
  cases l with
  | pool k off => exact h.turn k off
  | _ => rfl

theorem copyQueue_modCore (s : State) (core q : Nat) {k : Nat} {f : Core → Core} (hf : ∀ k, (f k).copies = k.copies) :
    (s.modCore k f).copyQueue core q = s.copyQueue core q := by
  rw [State.copyQueue, State.copyQueue, State.core_modCore]
  split
  · next hd => rw [hf, hd]
  · rfl

theorem copyQueue_locServed (s : State) (core q r : Nat) (l : Loc) : (s.locServed r l).copyQueue core q = s.copyQueue core q := by
  cases l with
  | pool k off => exact copyQueue_modCore s core q fun _ => rfl
  | _ => rfl

/-- A unit that reaches a pool in its turn and is no source of its command: its bytes, its full bit, and PROGRESS. -/
theorem writeUnit_pool {k off : Nat} {bs : List Byte} (h : CopyStep s t) (hq : t.copyQueue core q = d :: cs)
    (hloc : s.engineLoc core (s.thread c.tid).launch.asid va true = (s, .loc (.pool k off)))
    (hturn : s.inTurn k off 16 rankCopy = true) (hover : s.copyOverlaps core c (.pool k off) = false) (hbs : bs.length = 16) :
    (t.writeUnit core q c va bs).poolRead k off 16 = bs ∧ (t.writeUnit core q c va bs).fullBit k off = true ∧
    BytesKeptBut s (t.writeUnit core q c va bs) k off 16 ∧ (t.writeUnit core q c va bs).threads = s.threads ∧
    (t.writeUnit core q c va bs).copyQueue core q =
      { d with progress := d.progress + 1, got := none, pendOp := none, num := none, again := false } :: cs := by
  set l := Loc.pool k off with hl
  set w := (t.writeLoc l bs).locServed rankCopy l with hw
  have hwrite : t.writeUnit core q c va bs = w.retired core q l := by
    have hloc' := h.engineLoc (congrArg Prod.snd hloc)
    unfold State.writeUnit
    dsimp only
    rw [h.thread, hloc']
    dsimp only
    rw [h.locTurn, h.copyOverlaps, hover, hl, State.locTurn, hturn]
    rfl
  have hwq : w.copyQueue core q = d :: cs := by
    rw [hw, copyQueue_locServed, ← hq]
    exact copyQueue_modCore t core q fun _ => rfl
  have hretired : w.retired core q l = (w.setCopyQueue core q
      ({ d with progress := d.progress + 1, got := none, pendOp := none, num := none, again := false } :: cs)).setFull k off true := by
    rw [State.retired, State.modHead_eq hwq]
  have hkept : BytesKept (t.writeLoc l bs) (w.retired core q l) := by
    rw [hretired]
    exact ((copyStep_locServed _ l).bytesKept.trans (bytesKept_setCopyQueue _ _ _ _)).trans (bytesKept_modCore _ k fun _ => rfl)
  have hpool : ∀ e, ((w.retired core q l).core e).pool = if e = k then (s.core e).pool.write off bs else (s.core e).pool := by
    intro e
    rw [hkept.1, hl, State.writeLoc, State.poolWrite, State.core_modCore]
    split
    · next he =>
      subst he
      exact congrArg (Memory.write · off bs) (h.pool e)
    · exact h.pool e
  rw [hwrite]
  refine ⟨?_, ?_, ⟨fun e a hout => ?_, hkept.2.1.trans h.bytesKept.2.1, hkept.2.2.trans h.bytesKept.2.2⟩, ?_, ?_⟩
  · rw [State.poolRead, hpool, if_pos rfl]
    have := Memory.read_write_same (s.core k).pool off bs
    rwa [hbs] at this
  · rw [hretired, State.fullBit, State.setFull, State.core_modCore_self]
    simp
  · rw [hpool]
    split
    · next he =>
      refine Memory.byte_write_out _ _ _ _ ?_
      rw [hbs]
      exact hout.resolve_left (fun hne => hne he)
    · rfl
  · rw [hretired]
    exact h.threads
  · have hfull : ∀ v : State, (v.setFull k off true).copyQueue core q = v.copyQueue core q :=
      fun v => copyQueue_modCore v core q fun _ => rfl
    rw [hretired, hfull, State.copyQueue_setCopyQueue_self]

theorem length_wireBytes (wire mode : Nat) (sat : Bool) {bs : List Byte} (h : bs.length = 16) : (wireBytes wire mode sat bs).length = 16 := by
  unfold wireBytes
  split
  · exact h
  · simp [h]

/-- The bytes of a unit that is no fill, from a pool in its turn (R190). -/
theorem readUnit_pool {j off : Nat} (h : CopyStep s t) (hgot : c.got = none)
    (hloc : s.engineLoc core (s.thread c.tid).launch.asid va false = (s, .loc (.pool j off))) (hturn : s.inTurn j off 16 rankCopy = true)
    (hkept : c.kept (.pool j off) = none) :
    t.readUnit core q c va = (t.locServed rankCopy (.pool j off), some (s.poolRead j off 16)) := by
  have hloc' := h.engineLoc (congrArg Prod.snd hloc)
  unfold State.readUnit
  dsimp only
  rw [h.thread, hloc', hgot]
  dsimp only
  rw [h.locTurn, State.locTurn, hturn, hkept, Bool.not_true, if_neg Bool.false_ne_true, Option.getD_none, State.readLoc, State.poolRead,
    State.poolRead, h.pool]

/-- A command with the index of its element in progress at hand (R187). -/
def CopyCmd.atElem (c : CopyCmd) (i : Int) : CopyCmd := { c with index1 := some ((c.unitAt c.progress).1, i) }

/-- The state in which a unit is moved: the index of its element noted, and its granule served. -/
def State.indexed (s : State) (core q : Nat) (c : CopyCmd) (i : Int) : State :=
  (((s.indexDue core c).map (s.locServed rankCopy)).getD s).modHead core q (fun _ => c.atElem i)

/-- A running command at the head of its queue whose next unit can be moved: nothing holds it, and the index is at hand or in its turn. -/
structure UnitDue (s : State) (core q : Nat) (c : CopyCmd) (cs : List CopyCmd) (i : Int) : Prop where
  queue   : s.copyQueue core q = c :: cs
  running : c.state = .running
  fcode   : c.fcode = none
  house   : c.house = none
  pendOp  : c.pendOp = none
  left    : c.progress < c.units
  index   : s.elemIndex core c = some i
  due     : (s.indexDue core c).all (s.locTurn rankCopy) = true

namespace UnitDue

variable {i : Int}

/-- Noting the index is a step of the copy, and the command stands with it at the head. -/
theorem copyStep (h : UnitDue s core q c cs i) :
    CopyStep s (s.indexed core q c i) ∧ (s.indexed core q c i).copyQueue core q = c.atElem i :: cs := by
  have hserved : CopyStep s (((s.indexDue core c).map (s.locServed rankCopy)).getD s) ∧
      (((s.indexDue core c).map (s.locServed rankCopy)).getD s).copyQueue core q = c :: cs := by
    cases s.indexDue core c with
    | none => exact ⟨.refl s, h.queue⟩
    | some l => exact ⟨copyStep_locServed s l, (copyQueue_locServed s core q rankCopy l).trans h.queue⟩
  rw [State.indexed, State.modHead_eq hserved.2]
  exact ⟨hserved.1.trans (copyStep_setCopyQueue _ _ _ _), State.copyQueue_setCopyQueue_self _ _ _ _⟩

/-- Nothing keeps the command from moving a unit. -/
theorem not_held (h : UnitDue s core q c cs i) :
    ¬ (c.state != .running || c.fcode.isSome || c.house.isSome || c.pendOp.isSome || decide (c.units ≤ c.progress)) = true := by
  simp [h.running, h.fcode, h.house, h.pendOp, h.left]

/-- A unit of a FILL is written. -/
theorem exec_fill (h : UnitDue s core q c cs i) (hfn : c.fn = 5) : execRetireUnit core q s =
    .next ((s.indexed core q c i).writeUnit core q (c.atElem i) (c.dstAt c.progress i)
      (leBytes 8 c.pattern.toNat ++ leBytes 8 c.pattern.toNat)) := by
  unfold execRetireUnit
  rw [h.queue]
  dsimp only
  rw [if_neg h.not_held, h.index]
  dsimp only
  rw [h.due, Bool.not_true, if_neg Bool.false_ne_true, if_pos hfn]
  rfl

/-- A unit of any other command whose bytes are at hand is written. -/
theorem exec_copy (h : UnitDue s core q c cs i) (hfn : c.fn ≠ 5) (hgot : c.got = none) {v : State} {bs : List Byte}
    (hread : (s.indexed core q c i).readUnit core q (c.atElem i) (c.srcAt c.progress i) = (v, some bs)) : execRetireUnit core q s =
    .next ((v.modHead core q (fun c => { c with got := some bs })).writeUnit core q (c.atElem i) (c.dstAt c.progress i) (c.convert bs)) := by
  unfold execRetireUnit
  rw [h.queue]
  dsimp only
  rw [if_neg h.not_held, h.index]
  dsimp only
  rw [h.due, Bool.not_true, if_neg Bool.false_ne_true, if_neg hfn, if_neg (by simp [hgot])]
  split
  · next heq =>
    obtain ⟨rfl, rfl⟩ : _ = v ∧ _ = bs := by simpa using heq.symm.trans hread
    rfl
  · next heq => cases heq.symm.trans hread

end UnitDue

/-- A unit between pools (R189): read, converted, written, and counted. -/
theorem does_retireUnit {i : Int} {k off : Nat} {bs : List Byte} (h : UnitDue s core q c cs i)
    (hdst : s.engineLoc core (s.thread c.tid).launch.asid (c.dstAt c.progress i) true = (s, .loc (.pool k off)))
    (hturn : s.inTurn k off 16 rankCopy = true) (hover : s.copyOverlaps core c (.pool k off) = false)
    (hfill : c.fn = 5 → bs = leBytes 8 c.pattern.toNat ++ leBytes 8 c.pattern.toNat)
    (hcopy : c.fn ≠ 5 → c.got = none ∧ ∃ j src,
      s.engineLoc core (s.thread c.tid).launch.asid (c.srcAt c.progress i) false = (s, .loc (.pool j src)) ∧
      s.inTurn j src 16 rankCopy = true ∧ c.kept (.pool j src) = none ∧ bs = c.convert (s.poolRead j src 16)) :
    Does (.retireUnit core q) s (fun u => u.poolRead k off 16 = bs ∧ u.fullBit k off = true ∧
      BytesKeptBut s u k off 16 ∧ u.threads = s.threads ∧
      u.copyQueue core q = { c with progress := c.progress + 1, got := none, pendOp := none, num := none, again := false,
                                    index1 := some ((c.unitAt c.progress).1, i) } :: cs) := by
  obtain ⟨hstep, hqueue⟩ := h.copyStep
  have hover' : s.copyOverlaps core (c.atElem i) (.pool k off) = false := hover
  by_cases hfn : c.fn = 5
  · refine ⟨_, h.exec_fill hfn, ?_⟩
    rw [← hfill hfn]
    exact writeUnit_pool hstep hqueue hdst hturn hover' (by rw [hfill hfn]; simp)
  · obtain ⟨hgot, j, src, hsrc, hsrcTurn, hkept, hbs⟩ := hcopy hfn
    have hread : (s.indexed core q c i).readUnit core q (c.atElem i) (c.srcAt c.progress i) = _ :=
      readUnit_pool hstep hgot hsrc hsrcTurn hkept
    set v := (s.indexed core q c i).locServed rankCopy (.pool j src) with hv
    have hvq : v.copyQueue core q = c.atElem i :: cs := (copyQueue_locServed _ _ _ _ _).trans hqueue
    refine ⟨_, h.exec_copy hfn hgot hread, ?_⟩
    rw [State.modHead_eq hvq, ← hbs]
    refine writeUnit_pool ((hstep.trans (copyStep_locServed _ _)).trans (copyStep_setCopyQueue _ _ _ _))
      (State.copyQueue_setCopyQueue_self _ _ _ _) hdst hturn hover' ?_
    rw [hbs]
    exact length_wireBytes _ _ _ (Memory.length_read _ _ _)

end

end Sys2Proof.Machine

namespace Sys2Proof

open Machine

/-- Settles O50: each event by the request or the command at the head of its queue. -/
theorem enginesOfTheCore : Obligations.EnginesOfTheCore := by
  intro s core
  refine ⟨fun r rs d hsfu hh hd => does_sfuResult hsfu hh hd, fun q c cs hq => ?_⟩
  refine ⟨fun hst hafter hh => ⟨fun hfn => does_copyStart hq hst hafter hh hfn, fun hfn hj => does_join hq hst hafter hh hfn hj⟩,
    fun hst hf => ⟨fun i k off bs hhouse hp hleft hi hdst hdue hturn hover hfill hcopy => ?_,
      fun hp => does_copyFinish hq hst hf hp⟩,
    fun code hst hf hrun hr hre hd => does_copyFault hq hst hf hrun hr hre hd,
    fun hst hf hhouse hh => does_copyRetry hq hst hf hhouse hh⟩
  have hall : (s.indexDue core c).all (s.locTurn rankCopy) = true := by
    cases hm : s.indexDue core c with
    | none => rfl
    | some m => exact hdue m hm
  exact does_retireUnit ⟨hq, hst, hf, hhouse, hp, hleft, hi, hall⟩ hdst hturn hover hfill hcopy

end Sys2Proof

namespace Sys2Proof.Machine

/-! # LD and ST (R171 to R178) -/

open Claims

/-! ## The checks of an access (R171, R172) -/

section

variable {maj fn : Nat} {o : Ops} {s t : State} {i : Instr} {al po : Bool} {a : Word} {n : Nat}

@[simp] theorem State.depth_clearPending (s : State) (b : Bool) (tid : Nat) : (s.clearPending b).depth tid = s.depth tid := by
  simp [State.depth, State.levels, State.levelsOf, State.findLaunch, State.launch_clearPending]

@[simp] theorem State.myPart_clearPending (s : State) (b : Bool) : (s.clearPending b).myPart = s.myPart := by
  simp [State.myPart]

@[simp] theorem State.accessFault_clearPending (s : State) (b : Bool) (al po : Bool) (a : Word) (n : Nat) :
    (s.clearPending b).accessFault al po a n = s.accessFault al po a n := by
  simp [State.accessFault]

theorem effAddr_disp (t : Thread) (o : Ops) : effAddr t o false = t.xr o.a + o.disp := by simp [effAddr]

theorem accessFault_unaligned (h : a.toNat % n ≠ 0) : s.accessFault true po a n = some .align := by
  simp [State.accessFault, h]

theorem accessFault_virtual (ha : al = true → a.toNat % n = 0) (hv : spaceOf a = .virt) : s.accessFault al true a n = some .pool := by
  cases al <;> simp_all [State.accessFault]

theorem accessFault_eq_checkAddr (ha : al = true → a.toNat % n = 0) (hv : ¬ (po = true ∧ spaceOf a = .virt)) :
    s.accessFault al po a n = checkAddr s.myPart a n := by
  cases al <;> cases po <;> simp_all [State.accessFault]

/-- An instruction whose access to `n` bytes at `a` is checked: a fault stops it with the address, and with none it leaves `t`. -/
def Accesses (i : Instr) (maj fn : Nat) (o : Ops) (s : State) (al po : Bool) (a : Word) (n : Nat) (t : State) : Prop :=
  exec i s = .next ((s.accessFault al po a n).elim t (fun c => (readied maj fn o s).raise c 0 a))

namespace Accesses

variable (h : Accesses i maj fn o s al po a n t)

include h

theorem stops {c : FaultCode} (hr : s.cur.raised = none) (hc : s.accessFault al po a n = some c) :
    Stops i s c 0 a (plain maj fn o s).pend := by
  rw [Accesses, hc] at h
  exact stops_raise hr h

theorem passes (ha : al = true → a.toNat % n = 0) (hv : ¬ (po = true ∧ spaceOf a = .virt)) (hc : checkAddr s.myPart a n = none) :
    exec i s = .next t := by
  rwa [Accesses, accessFault_eq_checkAddr ha hv, hc] at h

end Accesses

/-- The faults of an access that must be aligned, in their order: ALIGN, POOL for one that must lie in a pool, then those of R171. -/
theorem Accesses.checked (h : Accesses i maj fn o s true po a n t) (hr : s.cur.raised = none) :
    (a.toNat % n ≠ 0 → Stops i s .align 0 a (plain maj fn o s).pend) ∧
    (a.toNat % n = 0 → po = true → spaceOf a = .virt → Stops i s .pool 0 a (plain maj fn o s).pend) ∧
    (∀ f, a.toNat % n = 0 → ¬ (po = true ∧ spaceOf a = .virt) → checkAddr s.myPart a n = some f →
      Stops i s f 0 a (plain maj fn o s).pend) := by
  refine ⟨fun ha => h.stops hr (accessFault_unaligned ha), fun ha hp hv => ?_, fun f ha hv hf => ?_⟩
  · subst hp
    exact h.stops hr (accessFault_virtual (fun _ => ha) hv)
  · exact h.stops hr ((accessFault_eq_checkAddr (fun _ => ha) hv).trans hf)

end

/-! ## An access of one part to the own pool (R36, R228, R451)

Where nothing stands before it and it is in its turn it is performed as it issues; else it is on its way, and no byte has changed. -/

section

variable {s : State} {a : Access} {p : Part} {op : AccOp}

theorem MoveStep.fresh {t : State} (h : MoveStep s t) (hf : IdsFresh s) : IdsFresh t := fun b hb => by
  rw [h.nextId]
  exact hf b (h.accs ▸ hb)

/-- Loads, probes and stores: what the own pool serves at once. -/
def AccOp.isServed (op : AccOp) : Prop := op.isMove ∨ op = .probe

theorem AccOp.isServed.not_consumes (h : op.isServed) : op.consumes = false := by
  rcases h with h | rfl
  · exact h.not_consumes
  · rfl

theorem AccOp.isServed.ne_clear (h : op.isServed) : (op != .clear) = true := by rcases h with (rfl | ⟨f, rfl⟩) | rfl <;> rfl

/-- An access of one part at the port that the issuing thread makes. -/
structure OneOwnPart (s : State) (a : Access) (p : Part) : Prop where
  tid   : a.tid = s.me
  core  : a.core = coreOf s.me
  parts : a.parts = [p]
  port  : p.stage = .port
  op    : a.op.isServed

theorem ownPart_move (p : Part) : (s.ownPart op p).1 = (s.serve (coreOf s.me) (poolOff p.va) p.len (s.me % 4)).move op p := rfl

theorem ownPart_probe (p : Part) : s.ownPart .probe p = (s.serve (coreOf s.me) (poolOff p.va) p.len (s.me % 4),
    { p with stage := .performed, loc := some (.pool (coreOf s.me) (poolOff p.va)),
             data := [if s.fullBit (coreOf s.me) (poolOff p.va) then 1 else 0] }) := by
  simp [State.ownPart, State.performPart, doneStage, AccOp.writes, State.fullBit, State.serve]
  rfl

theorem moveStep_ownPart (h : op.isServed) (p : Part) : MoveStep s (s.ownPart op p).1 := by
  have hserve : MoveStep s (s.serve (coreOf s.me) (poolOff p.va) p.len (s.me % 4)) := moveStep_serve _ _
  rcases h with h | rfl
  · exact hserve.trans (moveStep_move h p)
  · rw [ownPart_probe]
    exact hserve

/-- A part performed leaves what its access entered with. -/
theorem performPart_enter (h : op.isServed) (a : Access) (p : Part) :
    ((s.enter a).serve (coreOf s.me) (poolOff p.va) p.len (s.me % 4)).performPart op p (.pool (coreOf s.me) (poolOff p.va)) true =
      ((s.ownPart op p).1.enter a, (s.ownPart op p).2) := by
  rcases h with (rfl | ⟨f, rfl⟩) | rfl
  · rfl
  · cases f <;> rfl
  · rfl

variable (hf : IdsFresh s) (hid : a.id = s.nextId) (ho : OneOwnPart s a p)

include hf hid ho

/-- The part tried, ready and in its turn: it is performed. -/
theorem tryPart_one (hready : (s.enter a).groupReady a 0 = true)
    (hturn : s.inTurn (coreOf s.me) (poolOff p.va) p.len (s.me % 4) = true) :
    (s.enter a).tryPart a.id 0 = (s.ownPart a.op p).1.enter { a with parts := [(s.ownPart a.op p).2] } := by
  have hstep := moveStep_ownPart (s := s) ho.op p
  have htry := tryPart_alone (findAcc_enter hf hid) (by simp [ho.parts]) (group_alone ho.parts) ho.op.not_consumes ho.port hready
    (by rw [ho.core, ho.tid]; exact hturn)
  dsimp only at htry
  rw [ho.core, ho.tid, performPart_enter ho.op] at htry
  refine htry.trans ((modAcc_enter (hstep.fresh hf) (hid.trans hstep.nextId.symm) rfl).trans ?_)
  rw [Access.setPart, ho.parts]
  rfl

/-- The part tried: performed, or left at the port. -/
theorem tryPart_one_cases : (s.enter a).tryPart a.id 0 = s.enter a ∨
    (s.enter a).tryPart a.id 0 = (s.ownPart a.op p).1.enter { a with parts := [(s.ownPart a.op p).2] } := by
  by_cases hready : (s.enter a).groupReady a 0 = true
  · by_cases hturn : s.inTurn (coreOf s.me) (poolOff p.va) p.len (s.me % 4) = true
    · exact .inr (tryPart_one hf hid ho hready hturn)
    · have hgt : (s.enter a).groupTurn a 0 a.core true = s.inTurn (coreOf s.me) (poolOff p.va) p.len (s.me % 4) := by
        simp [State.groupTurn, Access.groupParts, group_alone ho.parts, ho.parts, ho.core, Access.rank, ho.tid]
        rfl
      rw [Bool.not_eq_true, ← hgt] at hturn
      simp [State.tryPart, findAcc_enter hf hid, ho.parts, hturn]
  · left
    simp [State.tryPart, findAcc_enter hf hid, ho.parts, hready]

omit hid in
/-- An access left at the port stays on its way. -/
theorem settle_port (hid : a.id = s.nextId) : (s.enter a).settle a.id = s.enter a := by
  have hperf : a.parts.all Part.performed = false := by simp [ho.parts, Part.performed, ho.port]
  have hdone : a.isDone = false := by simp [Access.isDone, ho.parts, Part.performed, ho.port]
  rw [State.settle, findAcc_enter hf hid]
  simp [hperf, hdone]

end

section

variable {s : State} {a : Access} {p : Part}

/-- What the own pool has done of an access of one part. -/
abbrev State.performedOwn (s : State) (a : Access) (p : Part) : State :=
  (s.ownPart a.op p).1.enter { a with id := s.nextId, parts := [(s.ownPart a.op p).2] }

theorem enterOwn_one_cases (hf : IdsFresh s) (ho : OneOwnPart s a p) :
    s.enterOwn a = s.enter a ∨ s.enterOwn a = (s.performedOwn a p).settle s.nextId := by
  have ho' : OneOwnPart s { a with id := s.nextId } p := ⟨ho.tid, ho.core, ho.parts, ho.port, ho.op⟩
  have htry : s.enterOwn a = ((s.enter { a with id := s.nextId }).tryPart s.nextId 0).settle s.nextId := by
    simp [State.enterOwn, ho.parts, State.enter]
  rcases tryPart_one_cases hf rfl ho' with h | h
  · exact .inl ((htry.trans (congrArg (State.settle · s.nextId) h)).trans (settle_port hf ho' rfl))
  · exact .inr (htry.trans (congrArg (State.settle · s.nextId) h))

theorem enterOwn_one (hq : Quiet s) (ho : OneOwnPart s a p) (hafter : a.after = [])
    (hturn : s.inTurn (coreOf s.me) (poolOff p.va) p.len (s.me % 4) = true) :
    s.enterOwn a = (s.performedOwn a p).settle s.nextId := by
  have ho' : OneOwnPart s { a with id := s.nextId } p := ⟨ho.tid, ho.core, ho.parts, ho.port, ho.op⟩
  have hready : (s.enter { a with id := s.nextId }).groupReady { a with id := s.nextId } 0 = true := by
    have hblocked := partBlocked_enter (a := { a with id := s.nextId }) hq rfl ho.tid
    have hall : (s.enter { a with id := s.nextId }).allDone a.after = true := by simp [State.allDone, hafter]
    simp [State.groupReady, hall, Access.lowerDone, ho.op.ne_clear, hblocked]
  have htry : s.enterOwn a = ((s.enter { a with id := s.nextId }).tryPart s.nextId 0).settle s.nextId := by
    simp [State.enterOwn, ho.parts, State.enter]
  exact htry.trans (congrArg (State.settle · s.nextId) (tryPart_one hq.fresh rfl ho' hready hturn))

/-- A load or a probe that the own pool has served is written to its register. -/
theorem settle_performedOwn_load (hf : IdsFresh s) (ho : OneOwnPart s a p) (hop : a.op.writes = false) (hfix : a.fixed = true) :
    (s.performedOwn a p).settle s.nextId =
      ((s.ownPart a.op p).1.modCur ({ a with id := s.nextId, parts := [(s.ownPart a.op p).2] } : Access).deliver).freshId.2 := by
  have hstep := moveStep_ownPart (s := s) ho.op p
  refine settle_fixed (a := { a with id := s.nextId, parts := [(s.ownPart a.op p).2] }) (hstep.fresh hf) hstep.nextId.symm hfix ?_
    (ho.tid.trans hstep.me.symm)
  rcases ho.op with (h | ⟨f, h⟩) | h
  · rw [h, ownPart_load]
    rfl
  · rw [h] at hop
    cases hop
  · rw [h, ownPart_probe]
    rfl

/-- A store that the own pool has performed is acknowledged. -/
theorem settle_performedOwn_store {f : Bool} (hf : IdsFresh s) (ho : OneOwnPart s a p) (hop : a.op = .store f) (hfix : a.fixed = false)
    (hdest : a.dest = none) : (s.performedOwn a p).settle s.nextId = (s.ownPart a.op p).1.freshId.2 := by
  have hstep := moveStep_ownPart (s := s) ho.op p
  refine settle_acked (a := { a with id := s.nextId, parts := [(s.ownPart a.op p).2] }) (hstep.fresh hf) hstep.nextId.symm hfix hdest ?_
  rw [hop]
  cases f <;> rfl

end

/-! ## What a load and a store of one part leave -/

section

variable {maj fn : Nat} {o : Ops} {s : State} {i : Instr} {p : Part} {op : AccOp}

theorem pool_serve (c off n r d : Nat) : ((s.serve c off n r).core d).pool = (s.core d).pool := by
  rw [State.serve, State.core_modCore]
  split
  · next hd => rw [hd]
  · rfl

theorem full_serve (c off n r d : Nat) : ((s.serve c off n r).core d).full = (s.core d).full := by
  rw [State.serve, State.core_modCore]
  split
  · next hd => rw [hd]
  · rfl

theorem ownPart_reads (h : op = .load ∨ op = .probe) (p : Part) :
    (s.ownPart op p).1 = s.serve (coreOf s.me) (poolOff p.va) p.len (s.me % 4) := by
  rcases h with rfl | rfl
  · rw [ownPart_load]
  · rw [ownPart_probe]

/-- What a part brings does not depend on its thread's pending bits. -/
theorem ownPart_readied (h : op = .load ∨ op = .probe) (p : Part) : ((readied maj fn o s).ownPart op p).2 = (s.ownPart op p).2 := by
  rcases h with rfl | rfl
  · simp [ownPart_load, State.poolRead]
  · simp only [ownPart_probe, State.fullBit, State.clearPending_me, State.core_clearPending]
    rfl

theorem pool_ownPart_store (f : Bool) (p : Part) (d : Nat) : ((s.ownPart (.store f) p).1.core d).pool =
    if d = coreOf s.me then (s.core d).pool.write (poolOff p.va) p.data else (s.core d).pool := by
  have h := pool_move (s := s.serve (coreOf s.me) (poolOff p.va) p.len (s.me % 4)) (.inr ⟨f, rfl⟩) p d
  rwa [pool_serve] at h

theorem full_poolWrite (c off : Nat) (bs : List Byte) (d : Nat) : ((s.poolWrite c off bs).core d).full = (s.core d).full := by
  rw [State.poolWrite, State.core_modCore]
  split
  · next hd => rw [hd]
  · rfl

theorem full_setFull (c off : Nat) (b : Bool) (d g : Nat) : lookAt false ((s.setFull c off b).core d).full g =
    if d = c ∧ g = off / 16 then b else lookAt false (s.core d).full g := by
  rw [State.setFull, State.core_modCore]
  by_cases hd : d = c
  · subst hd
    simp [lookAt_putAt]
  · simp [hd]

/-- FE sets the full bit of the granule, and no other full bit changes (R172). -/
theorem fullBits_ownPart_store (f : Bool) (p : Part) :
    FullBits s (s.ownPart (.store f) p).1 (coreOf s.me) (poolOff p.va / 16) f := by
  intro d g
  rw [ownPart_move, move_store]
  cases f with
  | false => simp [full_poolWrite, full_serve]
  | true =>
    rw [if_pos rfl, full_setFull, full_poolWrite, full_serve]
    simp [State.serve]

/-- A load or a probe that the own pool serves. -/
theorem settled_ownLoad {v : State} {a : Access} (hf : IdsFresh v) (ho : OneOwnPart v a p) (hop : a.op = .load ∨ a.op = .probe)
    (hfix : a.fixed = true) :
    OwnStep v ((v.performedOwn a p).settle v.nextId) ∧
    (∀ d, (((v.performedOwn a p).settle v.nextId).core d).pool = (v.core d).pool) ∧
    ((v.performedOwn a p).settle v.nextId).cur =
      ({ a with id := v.nextId, parts := [(v.ownPart a.op p).2] } : Access).deliver v.cur := by
  have hreads : a.op.writes = false := by rcases hop with h | h <;> rw [h] <;> rfl
  have hstep := moveStep_ownPart (s := v) ho.op p
  rw [settle_performedOwn_load hf ho hreads hfix]
  refine ⟨(hstep.toOwnStep.modCur _).trans (ownStep_freshId _), fun d => ?_, (State.cur_modCur _ _).trans (congrArg _ hstep.cur)⟩
  rw [← pool_serve (s := v) (coreOf v.me) (poolOff p.va) p.len (v.me % 4) d, ← ownPart_reads hop p]
  rfl

/-- A load of the own pool, or a probe of it: no byte changes, and with nothing before it and in its turn its result is written. -/
theorem issues_ownLoad {r : Reg} {ret : Ret} {acq : Bool}
    (hexec : exec i s = .next ((readied maj fn o s).issueLoad op r ret acq false [p])) (hop : op = .load ∨ op = .probe)
    (hport : p.stage = .port) (hown : spaceOf p.va = .own) (hf : IdsFresh s) :
    Issues i s { plain maj fn o s with regs := [r] } (fun u => BytesKept s u) ∧
    (s.undone s.me = [] → s.inTurn (coreOf s.me) (poolOff p.va) p.len (s.me % 4) = true →
      Issues i s { plain maj fn o s with regs := [r] } (fun u => (∃ a : Access, a.dest = some r ∧ a.ret = ret ∧
        a.parts = [(s.ownPart op p).2] ∧ u.cur = Thread.issued s.clock (s.cur.pc + 12) (a.deliver (atIssue maj fn o s))) ∧
        BytesKept s u ∧ OnlyPools s u)) := by
  set v := readied maj fn o s with hv
  have hme : v.me = s.me := State.clearPending_me s _
  have hready : OwnStep s v := ownStep_clearPending s _
  have hfv : IdsFresh v := fun b hb => (hf b (hready.accs ▸ hb)).trans_le hready.next
  set a := v.newAccess op (some r) ret true acq false (v.mustFollow v.me .load) [p] with ha
  have ho : OneOwnPart v a p := ⟨rfl, rfl, rfl, hport, by rcases hop with rfl | rfl; exacts [.inl (.inl rfl), .inr rfl]⟩
  have hexec : exec i s = .next (v.enterOwn a).finish := by
    rw [hexec, State.issueLoad]
    simp [hown, ha]
  obtain ⟨hstep, hpool, hcur⟩ := settled_ownLoad (a := a) hfv ho hop rfl
  have hstep := hready.trans hstep
  set b : Access := { a with id := v.nextId, parts := [(v.ownPart op p).2] } with hb
  have hcur : ((v.performedOwn a p).settle v.nextId).cur = b.deliver (atIssue maj fn o s) := hcur.trans (congrArg b.deliver cur_readied)
  have hwrites := onlyWrites_deliver (a := b) (r := r) rfl (atIssue maj fn o s)
  have hissued := issued_finish (s := s) hstep.me hstep.clock hstep.others hcur hwrites.pc rfl hwrites.changed
  have hbytes : BytesKept s ((v.performedOwn a p).settle v.nextId).finish :=
    ⟨fun d => (hpool d).trans (congrArg Core.pool (State.core_clearPending s _ d)), hstep.dram, hstep.hostMem⟩
  refine ⟨?_, fun hu hturn => ?_⟩
  · rcases enterOwn_one_cases hfv ho with h | h
    · rw [h] at hexec
      exact ⟨_, hexec, issued_finish hme (State.clearPending_clock s _) (fun _ => thread_readied_ne) cur_readied rfl rfl
        (OnlyWrites.refl _ [r]).changed, ⟨fun d => congrArg Core.pool (State.core_clearPending s _ d), hready.dram, hready.hostMem⟩⟩
    · rw [h] at hexec
      exact ⟨_, hexec, hissued, hbytes⟩
  · have hquiet : Quiet v := quiet_readied hf hu
    rw [enterOwn_one hquiet ho (mustFollow_quiet hquiet _) (by rw [hready.me, hready.turn]; exact hturn)] at hexec
    refine ⟨_, hexec, hissued, ⟨b, rfl, rfl, ?_, ?_⟩, hbytes, hstep.finish.only⟩
    · exact congrArg (fun q => [q]) (ownPart_readied hop p)
    · rw [State.cur_finish, hcur, hstep.clock, hwrites.pc]
      rfl

/-- A store into the own pool: no byte changes but its own, and with nothing before it and in its turn they are stored. -/
theorem issues_ownStore {f rel : Bool} {k : OrdKind}
    (hexec : exec i s = .next ((readied maj fn o s).issueStore (.store f) k rel [p])) (hport : p.stage = .port)
    (hown : spaceOf p.va = .own) (hlen : p.data.length = p.len) (hf : IdsFresh s) :
    Issues i s (plain maj fn o s) (fun u => BytesKeptBut s u (coreOf s.me) (poolOff p.va) p.len) ∧
    (s.undone s.me = [] → s.inTurn (coreOf s.me) (poolOff p.va) p.len (s.me % 4) = true →
      Issues i s (plain maj fn o s) (fun u => u.poolRead (coreOf s.me) (poolOff p.va) p.len = p.data ∧
        BytesKeptBut s u (coreOf s.me) (poolOff p.va) p.len ∧ FullBits s u (coreOf s.me) (poolOff p.va / 16) f ∧ OnlyPools s u)) := by
  set v := readied maj fn o s with hv
  have hme : v.me = s.me := State.clearPending_me s _
  have hcore : ∀ d, v.core d = s.core d := State.core_clearPending s _
  have hready : OwnStep s v := ownStep_clearPending s _
  have hfv : IdsFresh v := fun b hb => (hf b (hready.accs ▸ hb)).trans_le hready.next
  set a := v.newAccess (.store f) none .none false false rel (v.mustFollow v.me k) [p] with ha
  have ho : OneOwnPart v a p := ⟨rfl, rfl, rfl, hport, .inl (.inr ⟨f, rfl⟩)⟩
  have hexec : exec i s = .next (v.enterOwn a).finish := by
    rw [hexec, State.issueStore]
    simp [hown, ha]
  have hsettle := settle_performedOwn_store (a := a) (f := f) hfv ho rfl rfl rfl
  have hmove := moveStep_ownPart (s := v) ho.op p
  set t := (v.ownPart (.store f) p).1 with ht
  have hstep : OwnStep s t.freshId.2 := (hready.trans hmove.toOwnStep).trans (ownStep_freshId t)
  have hissued := issued_finish (s := s) hstep.me hstep.clock hstep.others (hmove.cur.trans cur_readied) rfl rfl changed_plain
  have hpool : ∀ d, (t.core d).pool = if d = coreOf s.me then (s.core d).pool.write (poolOff p.va) p.data else (s.core d).pool :=
    fun d => by rw [ht, pool_ownPart_store, hme, hcore]
  have hbytes : BytesKeptBut s t.freshId.2.finish (coreOf s.me) (poolOff p.va) p.len := by
    refine bytesKeptBut_writeAll (ws := [p.run]) hpool ?_ hstep.dram hstep.hostMem
    simp [hlen]
  refine ⟨?_, fun hu hturn => ?_⟩
  · rcases enterOwn_one_cases hfv ho with h | h
    · rw [h] at hexec
      exact ⟨_, hexec, issued_finish hme (State.clearPending_clock s _) (fun _ => thread_readied_ne) cur_readied rfl rfl
        changed_plain, ⟨fun d x _ => congrArg (fun k : Core => k.pool.byte x) (hcore d), hready.dram, hready.hostMem⟩⟩
    · rw [h, hsettle] at hexec
      exact ⟨_, hexec, hissued, hbytes⟩
  · have hquiet : Quiet v := quiet_readied hf hu
    rw [enterOwn_one hquiet ho (mustFollow_quiet hquiet _) (by rw [hready.me, hready.turn]; exact hturn), hsettle] at hexec
    refine ⟨_, hexec, hissued, ?_, hbytes, fun d g => ?_, hstep.finish.only⟩
    · refine (congrArg (Memory.read · (poolOff p.va) p.len) ((hpool _).trans (if_pos rfl))).trans ?_
      rw [← hlen]
      exact Memory.read_write_same _ _ _
    · have hfull := fullBits_ownPart_store (s := v) f p d g
      rw [hme, hcore] at hfull
      exact hfull

end

/-! ## LD (R175 to R177) -/

section

variable {fn : Nat} {o : Ops} {s : State} {i : Instr}

@[simp] theorem State.consuming_clearPending (s : State) (b : Bool) (tid : Nat) : (s.clearPending b).consuming tid = s.consuming tid := by
  simp [State.consuming]

@[simp] theorem effAddr_withPend (t : Thread) (q : BitVec 256) (o : Ops) (idx : Bool) : effAddr (t.withPend q) o idx = effAddr t o idx := rfl

/-- DISP and IDX (R176). -/
theorem accesses_plainLoad {idx : Bool} (e : Ops → State → Out) (h : Ready 0x08 fn o s) (hi : exec i s = e o s)
    (he : e o s = plainLoad fn idx o s) : Accesses i 0x08 fn o s true false (effAddr s.cur o idx) (o.ty.width / 8)
      ((readied 0x08 fn o s).issueLoad .load o.d (.scalar o.ty) false false [mkPart (effAddr s.cur o idx) (o.ty.width / 8) 0 []]) := by
  have hexec := exec_ready e h hi he rfl rfl
  simp only [cur_readied, effAddr_withPend, State.accessFault_clearPending] at hexec
  rw [Accesses, hexec]
  cases s.accessFault true false (effAddr s.cur o idx) (o.ty.width / 8) <;> rfl

/-- FE (R177): a ninth consuming load stalls. -/
theorem accesses_ldFe (h : Ready 0x08 0x03 o s) : Accesses (.ldFe o) 0x08 0x03 o s true true (effAddr s.cur o false) (o.ty.width / 8)
    (if 8 ≤ s.consuming s.me then (readied 0x08 0x03 o s).await .stalled .consumeRoom
     else (readied 0x08 0x03 o s).issueLoad (.consume (o.fld 4 1 = 1)) o.d (.scalar o.ty) false true
       [mkPart (effAddr s.cur o false) (o.ty.width / 8) 0 []]) := by
  have hexec := exec_ready (i := .ldFe o) execLdFe h rfl rfl rfl rfl
  simp only [cur_readied, effAddr_withPend, State.accessFault_clearPending, State.consuming_clearPending, State.clearPending_me] at hexec
  rw [Accesses, hexec]
  cases s.accessFault true true (effAddr s.cur o false) (o.ty.width / 8) <;> rfl

/-- ACQ (R174, R176), at a level of the tree. -/
theorem accesses_ldAcq (h : Ready 0x08 0x04 o s) (hl : xmScope o < s.depth s.me) :
    Accesses (.ldAcq o) 0x08 0x04 o s true false (effAddr s.cur o false) (o.ty.width / 8)
      ((readied 0x08 0x04 o s).issueLoad .load o.d (.scalar o.ty) true true [mkPart (effAddr s.cur o false) (o.ty.width / 8) 0 []]) := by
  have hexec := exec_ready (i := .ldAcq o) execLdAcq h rfl rfl rfl rfl
  simp only [cur_readied, effAddr_withPend, State.accessFault_clearPending, State.depth_clearPending, State.clearPending_me,
    if_neg (Nat.not_le.mpr hl)] at hexec
  rw [Accesses, hexec]
  cases s.accessFault true false (effAddr s.cur o false) (o.ty.width / 8) <;> rfl

theorem exec_ldAcq_level (h : Ready 0x08 0x04 o s) (hl : s.depth s.me ≤ xmScope o) :
    exec (.ldAcq o) s = .next ((readied 0x08 0x04 o s).raise .level 0 0) := by
  rw [exec_ready (i := .ldAcq o) execLdAcq h rfl rfl rfl rfl, State.depth_clearPending, State.clearPending_me, if_pos hl]

/-- PROBE (R176): a byte anywhere in a pool. -/
theorem accesses_ldProbe (h : Ready 0x08 0x05 o s) : Accesses (.ldProbe o) 0x08 0x05 o s false true (effAddr s.cur o false) 1
    ((readied 0x08 0x05 o s).issueLoad .probe o.d .pred false false [mkPart (effAddr s.cur o false) 1 0 []]) := by
  have hexec := exec_ready (i := .ldProbe o) execLdProbe h rfl rfl rfl rfl
  simp only [cur_readied, effAddr_withPend, State.accessFault_clearPending] at hexec
  rw [Accesses, hexec]
  cases s.accessFault false true (effAddr s.cur o false) 1 <;> rfl

theorem issues_mono {c : Change} {P Q : State → Prop} (h : Issues i s c P) (hpq : ∀ u, P u → Q u) : Issues i s c Q := by
  obtain ⟨u, hexec, hissued, hu⟩ := h
  exact ⟨u, hexec, hissued, hpq u hu⟩

/-- A load of an x register from the own pool, with nothing before it and in its turn (R176). -/
theorem load_ownX {maj : Nat} {d : BitVec 7} {ty : Ty} {a : Word} {n : Nat} (hown : spaceOf a = .own) (hf : IdsFresh s) (hu : s.undone s.me = [])
    (hturn : s.inTurn (coreOf s.me) (poolOff a) n (s.me % 4) = true)
    (hexec : exec i s = .next ((readied maj fn o s).issueLoad .load (.x d) (.scalar ty) false false [mkPart a n 0 []])) :
    Issues i s { plain maj fn o s with regs := [.x d] } (fun u =>
      u.cur.getX d = (if d = 0 then 0 else ext ty (s.poolRead (coreOf s.me) (poolOff a) n)) ∧ BytesKept s u ∧ OnlyPools s u) := by
  refine issues_mono ((issues_ownLoad hexec (.inl rfl) rfl hown hf).2 hu hturn)
    fun u ⟨⟨b, hdest, hret, hparts, hcur⟩, hbytes, honly⟩ => ⟨?_, hbytes, honly⟩
  rw [hcur, Thread.getX_issued, deliver_scalar _ hdest hret hparts, ownPart_load]
  rfl

/-- A probe of the own pool, with nothing before it and in its turn (R176). -/
theorem probe_ownP {maj : Nat} {d : BitVec 3} {a : Word} (hown : spaceOf a = .own) (hf : IdsFresh s) (hu : s.undone s.me = [])
    (hturn : s.inTurn (coreOf s.me) (poolOff a) 1 (s.me % 4) = true)
    (hexec : exec i s = .next ((readied maj fn o s).issueLoad .probe (.p d) .pred false false [mkPart a 1 0 []])) :
    Issues i s { plain maj fn o s with regs := [.p d] } (fun u =>
      u.cur.getP d = (if d = 0 then true else s.fullBit (coreOf s.me) (poolOff a)) ∧ BytesKept s u ∧ OnlyPools s u) := by
  refine issues_mono ((issues_ownLoad hexec (.inr rfl) rfl hown hf).2 hu hturn)
    fun u ⟨⟨b, hdest, hret, hparts, hcur⟩, hbytes, honly⟩ => ⟨?_, hbytes, honly⟩
  rw [hcur, Thread.getP_issued, deliver_pred _ hdest hret hparts, ownPart_probe]
  by_cases hd : d = 0
  · simp [hd]
  · cases hfull : s.fullBit (coreOf s.me) (poolOff a) <;> simp [mkPart, hfull]

theorem fixed_other {var : Bool} {a : Word} {n : Nat} {bs : List Byte} (h : var = true ∨ spaceOf a ≠ .own) :
    (!var && [mkPart a n 0 bs].all (fun p => spaceOf p.va = .own)) = false := by
  rcases h with rfl | h
  · rfl
  · simp [mkPart, h]

end

end Sys2Proof.Machine

namespace Sys2Proof

open Machine Claims

/-- Settles O24: each function is its checks, then one access of one part; the own pool serves a load and a probe as they issue. -/
theorem loadResults : Obligations.LoadResults := by
  intro o s hf hraised t n c part ea eax req pend checked plainLd
  have heax : effAddr s.cur o true = eax := rfl
  have hea : effAddr s.cur o false = ea := effAddr_disp _ _
  have plain : ∀ (j : Ops → Instr) fn idx (e : Ops → State → Out) a (d : BitVec 7), o.d = .x d → effAddr s.cur o idx = a →
      exec (j o) s = e o s → e o s = plainLoad fn idx o s → plainLd (j o) fn a d := by
    intro j fn idx e a d hd ha hj he h
    subst ha
    have hacc := accesses_plainLoad e h hj he
    refine ⟨hacc.checked hraised, fun halign hcheck => ?_⟩
    have hexec := hacc.passes (fun _ => halign) (by simp) hcheck
    rw [hd] at hexec
    exact ⟨fun hown => (issues_ownLoad hexec (.inl rfl) rfl hown hf).1, fun hown hu hturn => load_ownX hown hf hu hturn hexec,
      fun hspace => requests_issueLoad (fixed_other (.inr hspace)) hexec⟩
  refine ⟨fun d hd => ⟨plain .ldDisp 1 false execLdDisp _ d hd hea rfl rfl, plain .ldIdx 2 true execLdIdx _ d hd heax rfl rfl,
    fun h => ?_, fun h => ?_⟩, fun d hd h => ?_⟩
  · have hacc := accesses_ldFe h
    rw [hea] at hacc
    refine ⟨hacc.checked hraised, fun halign hspace hcheck => ?_⟩
    have hexec := hacc.passes (fun _ => halign) (by simp [hspace]) hcheck
    rw [hd] at hexec
    refine ⟨fun hroom => ?_, fun hfull => ?_⟩
    · rw [if_neg (Nat.not_le.mpr hroom)] at hexec
      exact requests_issueLoad (fixed_other (.inl rfl)) hexec
    · rw [if_pos hfull] at hexec
      exact waits_await hexec
  · refine ⟨fun hl => stops_raise hraised (exec_ldAcq_level h hl), fun hl => ?_⟩
    have hacc := accesses_ldAcq h hl
    rw [hea] at hacc
    refine ⟨hacc.checked hraised, fun halign hcheck => ?_⟩
    have hexec := hacc.passes (fun _ => halign) (by simp) hcheck
    rw [hd] at hexec
    exact requests_issueLoad (fixed_other (.inl rfl)) hexec
  · have hacc := accesses_ldProbe h
    rw [hea] at hacc
    have hpass : spaceOf ea ≠ .virt → checkAddr part ea 1 = none →
        exec (.ldProbe o) s = .next ((readied 0x08 0x05 o s).issueLoad .probe (.p d) .pred false false [mkPart ea 1 0 []]) :=
      fun hspace hcheck => hd ▸ hacc.passes (by simp) (by simp [hspace]) hcheck
    refine ⟨fun hv => hacc.stops hraised (accessFault_virtual (by simp) hv),
      fun f hv hc => hacc.stops hraised ((accessFault_eq_checkAddr (by simp) (by simp [hv])).trans hc), fun hany hcheck => ?_,
      fun hown hcheck hu hturn => ?_⟩
    · exact requests_issueLoad (fixed_other (.inr (by simp [hany]))) (hpass (by simp [hany]) hcheck)
    · exact probe_ownP hown hf hu hturn (hpass (by simp [hown]) hcheck)

end Sys2Proof

namespace Sys2Proof.Machine

open Claims

/-! ## ST (R178) -/

section

variable {fn : Nat} {o : Ops} {s : State} {i : Instr}

/-- DISP, IDX, FE and REL (R178), REL at a level of the tree. -/
theorem accesses_plainStore {idx full : Bool} (e : Ops → State → Out) (h : Ready 0x09 fn o s) (hi : exec i s = e o s)
    (he : e o s = plainStore fn idx full o s) (hl : fn = 0x04 → xmScope o < s.depth s.me) :
    Accesses i 0x09 fn o s true full (effAddr s.cur o idx) (o.ty.width / 8)
      ((readied 0x09 fn o s).issueStore (.store full) (if fn = 0x04 then .release else .write) (fn = 0x04)
        [mkPart (effAddr s.cur o idx) (o.ty.width / 8) 0 (leBytes (o.ty.width / 8) (s.cur.xr o.d).toNat)]) := by
  have hexec := exec_ready e h hi he rfl rfl
  have hlevel : (decide (fn = 0x04) && decide (s.depth s.me ≤ xmScope o)) = false := by
    by_cases h4 : fn = 0x04
    · simp [Nat.not_le.mpr (hl h4)]
    · simp [h4]
  simp only [cur_readied, effAddr_withPend, State.accessFault_clearPending, State.depth_clearPending, State.clearPending_me,
    hlevel, Bool.false_eq_true, if_false] at hexec
  rw [Accesses, hexec]
  cases s.accessFault true full (effAddr s.cur o idx) (o.ty.width / 8) <;> rfl

/-- REL outside the tree (R174). -/
theorem exec_stRel_level (h : Ready 0x09 0x04 o s) (hl : s.depth s.me ≤ xmScope o) :
    exec (.stRel o) s = .next ((readied 0x09 0x04 o s).raise .level 0 0) := by
  have he : execStRel o s = plainStore 0x04 false false o s := rfl
  rw [exec_ready (i := .stRel o) execStRel h rfl he rfl rfl, State.depth_clearPending, State.clearPending_me, decide_eq_true hl]
  rfl

/-! ## ST.CLR (R178) -/

/-- What ST.CLR does: its checks in their order, then the clears of all granules. -/
theorem exec_stClr (h : Ready 0x09 0x05 o s) : exec (.stClr o) s = .next
    (if (effAddr s.cur o false).toNat % 16 ≠ 0 ∨ (s.cur.xr o.b).toNat % 16 ≠ 0 then
      (readied 0x09 0x05 o s).raise .align 0 (effAddr s.cur o false)
    else if (s.cur.xr o.b).toNat = 0 then (readied 0x09 0x05 o s).finish
    else if poolSize < (s.cur.xr o.b).toNat then
      (readied 0x09 0x05 o s).raise (if s.accessFault false true (effAddr s.cur o false) 16 = some .prot then .prot else .pool) 0
        (effAddr s.cur o false)
    else (s.accessFault false true (effAddr s.cur o false) (s.cur.xr o.b).toNat).elim
      ((readied 0x09 0x05 o s).issueStore .clear .write false ((List.range ((s.cur.xr o.b).toNat / 16)).map (fun i =>
        mkPart (effAddr s.cur o false + BitVec.ofNat 64 (16 * i)) 16 0 [])))
      (fun c => (readied 0x09 0x05 o s).raise c 0 (effAddr s.cur o false))) := by
  rw [exec_ready (i := .stClr o) execStClr h rfl rfl rfl rfl]
  simp only [cur_readied, effAddr_withPend, Thread.xr_withPend, State.accessFault_clearPending, Bool.or_eq_true, bne_iff_ne]
  congr 1
  split
  · rfl
  split
  · rfl
  split
  · cases s.accessFault false true (effAddr s.cur o false) 16 with
    | none => rfl
    | some c => cases c <;> rfl
  · cases s.accessFault false true (effAddr s.cur o false) (s.cur.xr o.b).toNat <;> rfl

/-- Clears are on their way, in whatever pool. -/
theorem sends_clear {ps : List Part} (hexec : exec i s = .next ((readied 0x09 fn o s).issueStore .clear .write false ps)) :
    Sends i 0x09 fn o s (s.newAccess .clear none .none false false false (s.mustFollow s.me .write) ps) := by
  rw [State.issueStore, if_neg (by simp), newAccess_readied, State.clearPending_me, State.mustFollow_clearPending] at hexec
  exact sends_enter hexec

theorem checkAddr_none {w a : Word} (n : Nat) (h : spaceOf a = .none) : checkAddr w a n = some .prot := by rw [checkAddr, h]

/-- Only an address outside every space and an unmapped form of the virtual one are refused with PROT. -/
theorem checkAddr_ne_prot {w a : Word} (n : Nat) (hn : spaceOf a ≠ .none) (hv : spaceOf a ≠ .virt) : checkAddr w a n ≠ some .prot := by
  unfold checkAddr
  cases hs : spaceOf a with
  | own => simp only; split <;> simp
  | any => simp only; split <;> simp
  | virt => exact absurd hs hv
  | none => exact absurd hs hn

end

end Sys2Proof.Machine

namespace Sys2Proof

open Machine Claims

theorem Claims.storeResults : Claims.StoreResults := by
  intro o s hf hraised t n c part ea eax bytes pend stores
  have heax : effAddr s.cur o true = eax := rfl
  have hea : effAddr s.cur o false = ea := effAddr_disp _ _
  have store : ∀ (j : Ops → Instr) fn idx full (e : Ops → State → Out) a, effAddr s.cur o idx = a → exec (j o) s = e o s →
      e o s = plainStore fn idx full o s → (fn = 0x04 → xmScope o < s.depth s.me) → Ready 0x09 fn o s →
      stores (j o) fn a full (fn = 0x04) (if fn = 0x04 then .release else .write) := by
    intro j fn idx full e a ha hj he hl h
    subst ha
    have hacc := accesses_plainStore e h hj he hl
    obtain ⟨hstop, hpool, hfault⟩ := hacc.checked hraised
    refine ⟨hstop, hpool, hfault, fun halign hspace hcheck => ?_⟩
    have hexec := hacc.passes (fun _ => halign) hspace hcheck
    refine ⟨fun hown => (issues_ownStore hexec rfl hown (length_leBytes _ _) hf).1,
      fun hown hu hturn => (issues_ownStore hexec rfl hown (length_leBytes _ _) hf).2 hu hturn,
      fun hother => sends_issueStore (by simpa [mkPart] using hother) hexec⟩
  exact ⟨store .stDisp 1 false false execStDisp _ hea rfl rfl (by simp), store .stIdx 2 true false execStIdx _ heax rfl rfl (by simp),
    store .stFe 3 false true execStFe _ hea rfl rfl (by simp), fun h => ⟨fun hl => stops_raise hraised (exec_stRel_level h hl),
    fun hl => store .stRel 4 false false execStRel _ hea rfl rfl (fun _ => hl) h⟩⟩

theorem Claims.clearResults : Claims.ClearResults := by
  intro o s hraised h ea b part pend
  have hexec := exec_stClr h
  have hea : effAddr s.cur o false = ea := effAddr_disp _ _
  rw [hea, show (s.cur.xr o.b).toNat = b from rfl] at hexec
  have hshort : ea.toNat % 16 = 0 → b % 16 = 0 → 0 < b → b ≤ poolSize →
      Accesses (.stClr o) 0x09 0x05 o s false true ea b ((readied 0x09 0x05 o s).issueStore .clear .write false
        ((List.range (b / 16)).map (fun i => mkPart (ea + BitVec.ofNat 64 (16 * i)) 16 0 []))) := by
    intro ha hb h0 hle
    rwa [if_neg (by simp [ha, hb]), if_neg h0.ne', if_neg (Nat.not_lt.mpr hle)] at hexec
  have hlong : ea.toNat % 16 = 0 → b % 16 = 0 → poolSize < b → exec (.stClr o) s = .next ((readied 0x09 0x05 o s).raise
      (if s.accessFault false true ea 16 = some .prot then .prot else .pool) 0 ea) := by
    intro ha hb hgt
    rwa [if_neg (by simp [ha, hb]), if_neg (by omega), if_pos hgt] at hexec
  refine ⟨fun hbad => ?_, fun ha h0 => ?_, fun ha hb h0 hle hv => ?_, fun ha hb h0 hs => ?_, fun f ha hb h0 hle hv hc => ?_,
    fun ha hb hgt hs => ?_, fun ha hb h0 hle hv hc => ?_⟩
  · rw [if_pos hbad] at hexec
    exact stops_raise hraised hexec
  · rw [if_neg (by simp [ha, h0]), if_pos h0] at hexec
    exact acts_finish_plain hexec
  · exact (hshort ha hb h0 hle).stops hraised (accessFault_virtual (by simp) hv)
  · have hprot : ∀ n, s.accessFault false true ea n = some .prot := fun n =>
      (accessFault_eq_checkAddr (by simp) (by simp [hs])).trans (checkAddr_none n hs)
    rcases Nat.lt_or_ge poolSize b with hgt | hle
    · have hexec := hlong ha hb hgt
      rw [if_pos (hprot 16)] at hexec
      exact stops_raise hraised hexec
    · exact (hshort ha hb h0 hle).stops hraised (hprot b)
  · exact (hshort ha hb h0 hle).stops hraised ((accessFault_eq_checkAddr (by simp) (by simp [hv])).trans hc)
  · have hpool : s.accessFault false true ea 16 ≠ some .prot := by
      by_cases hv : spaceOf ea = .virt
      · simp [accessFault_virtual (al := false) (by simp) hv]
      · rw [accessFault_eq_checkAddr (by simp) (by simp [hv])]
        exact checkAddr_ne_prot 16 hs hv
    have hexec := hlong ha hb hgt
    rw [if_neg hpool] at hexec
    exact stops_raise hraised hexec
  · exact sends_clear ((hshort ha hb h0 hle).passes (by simp) (by simp [hv]) hc)

/-- Settles O25: DISP, IDX, FE and REL are `plainStore`, one access of one part; ST.CLR by its checks in their order. -/
theorem storesAndClears : Obligations.StoresAndClears :=
  ⟨Claims.storeResults, Claims.clearResults⟩

end Sys2Proof

namespace Sys2Proof.Machine

open Claims

/-! # ATM (R179 to R181) -/

/-! ## The request -/

section

variable {fn : Nat} {o : Ops} {s : State} {i : Instr} {f : AtmFn}

/-- The access of an atomic (R181), with or without a register for the old value. -/
def State.atomicRequest (s : State) (f : AtmFn) (o : Ops) (dest : Option Reg) (ret : Ret) : Access :=
  s.newAccess (.atomic f o.ty (s.cur.xr o.b) (s.cur.xr o.c) (s.cur.mode o.rnd false)) dest ret false
    (decide (o.order = 1 ∨ o.order = 3)) (decide (o.order = 2 ∨ o.order = 3))
    (s.mustFollow s.me (if o.order = 2 ∨ o.order = 3 then .release else .write)) [mkPart (s.cur.xr o.a) (o.ty.width / 8) 0 []]

/-- An atomic at a level of the tree: its checks, then its request. -/
theorem accesses_atomicOp {d : BitVec 7} (e : Ops → State → Out) (hd : o.d = .x d) (h : Ready 0x0A fn o s) (hi : exec i s = e o s)
    (he : e o s = atomicOp fn f o s) (hl : o.scope < s.depth s.me) :
    Accesses i 0x0A fn o s true false (s.cur.xr o.a) (o.ty.width / 8)
      (if d = 0 then ((readied 0x0A fn o s).enter (s.atomicRequest f o none .none)).finish
       else (((readied 0x0A fn o s).enter (s.atomicRequest f o (some (.x d)) (.scalar o.ty))).modCur
         (fun t => t.setPending (.x d))).finish) := by
  have hexec := exec_ready e h hi he rfl rfl
  have hmode : ∀ q, (s.cur.withPend q).mode o.rnd false = s.cur.mode o.rnd false := fun _ => rfl
  simp only [newAccess_readied, State.mustFollow_clearPending, cur_readied, Thread.xr_withPend, hmode, State.accessFault_clearPending,
    State.depth_clearPending, State.clearPending_me, if_neg (Nat.not_le.mpr hl), hd, ← Bool.decide_or, decide_eq_true_eq] at hexec
  rw [Accesses, hexec]
  cases s.accessFault true false (s.cur.xr o.a) (o.ty.width / 8) with
  | some c => rfl
  | none =>
    by_cases h0 : d = 0
    · subst h0
      rfl
    · simp only [Reg.x.injEq, h0, if_false, Option.isSome_some, if_true]
      rfl

theorem exec_atomicOp_level (e : Ops → State → Out) (h : Ready 0x0A fn o s) (hi : exec i s = e o s) (he : e o s = atomicOp fn f o s)
    (hl : s.depth s.me ≤ o.scope) : exec i s = .next ((readied 0x0A fn o s).raise .level 0 0) := by
  rw [exec_ready e h hi he rfl rfl, State.depth_clearPending, State.clearPending_me, if_pos hl]

end

theorem atomicsIssue : AtomicsIssue := by
  intro o s d hd hraised t n ea part acq rel gives
  have atomic : ∀ (j : Ops → Instr) fn f (e : Ops → State → Out), exec (j o) s = e o s → e o s = atomicOp fn f o s → gives j fn f := by
    intro j fn f e hj he h
    refine ⟨fun hl => stops_raise hraised (exec_atomicOp_level e h hj he hl), fun hl => ?_⟩
    have hacc := accesses_atomicOp e hd h hj he hl
    obtain ⟨halign, -, hfault⟩ := hacc.checked hraised
    refine ⟨halign, fun c ha hc => hfault c ha (by simp) hc, fun ha hc => ?_⟩
    have hexec := hacc.passes (fun _ => ha) (by simp) hc
    dsimp only
    split
    · next h0 =>
      rw [if_pos h0] at hexec
      exact sends_enter hexec
    · next h0 =>
      rw [if_neg h0] at hexec
      exact requests_enter hexec
  exact ⟨atomic .atmAdd 1 .add execAtmAdd rfl rfl, atomic .atmAnd 2 .and execAtmAnd rfl rfl, atomic .atmOr 3 .or execAtmOr rfl rfl,
    atomic .atmXor 4 .xor execAtmXor rfl rfl, atomic .atmMin 5 .min execAtmMin rfl rfl, atomic .atmMax 6 .max execAtmMax rfl rfl,
    atomic .atmXchg 7 .xchg execAtmXchg rfl rfl, atomic .atmCas 8 .cas execAtmCas rfl rfl, atomic .atmFadd 9 .fadd execAtmFadd rfl rfl⟩

/-! ## What an atomic leaves (R180) -/

theorem natCast_wrapN (n : Nat) (v : Int) : (wrapN n v : Int) = v % (2 ^ n : Nat) :=
  Int.toNat_of_nonneg (Int.emod_nonneg _ (by positivity))

/-- Integers are of whole bytes, at least one. -/
theorem width_of_isInt {ty : Ty} (h : ty.isInt = true) : 8 * (ty.width / 8) = ty.width := by
  revert h
  cases ty <;> decide

/-- The bytes of an integer of a type read back as the number modulo its width. -/
theorem leNat_leBytes_type {ty : Ty} (h : ty.isInt = true) (v : Nat) : leNat (leBytes (ty.width / 8) v) = v % 2 ^ ty.width := by
  rw [leNat_leBytes, show 256 = 2 ^ 8 from rfl, ← pow_mul, width_of_isInt h]

/-- Bytes are those of a number where they stand for it modulo their width. -/
theorem eq_leBytes_iff {ty : Ty} (h : ty.isInt = true) {bs : List Byte} (hlen : bs.length = ty.width / 8) (v : Nat) :
    bs = leBytes (ty.width / 8) v ↔ leNat bs = v % 2 ^ ty.width := by
  constructor
  · rintro rfl
    exact leNat_leBytes_type h v
  · intro hv
    have hsame := leBytes_leNat (leBytes (ty.width / 8) v)
    rw [length_leBytes, leNat_leBytes_type h, ← hv] at hsame
    rw [← hsame, ← hlen, leBytes_leNat]

theorem atomicFunctions : AtomicFunctions := by
  intro ty b c rnd old hint hlen n x y u v leaves
  have hplain : ∀ f, f ≠ .cas → (leNat (atomicBytes f ty b c rnd old) : Int) = (atomicF f ty u b.toNat rnd : Int) % (2 ^ n : Nat) := by
    intro f hf
    have hbytes : atomicBytes f ty b c rnd old = leBytes (ty.width / 8) (atomicF f ty u b.toNat rnd) := by
      cases f with
      | cas => exact absurd rfl hf
      | _ => rfl
    rw [hbytes, leNat_leBytes_type hint, Int.natCast_mod]
  have hwrap : ∀ f (r : Int), f ≠ .cas → atomicF f ty u b.toNat rnd = wrapN n r → leaves f r := fun f r hf hr => by
    have := hplain f hf
    rwa [hr, natCast_wrapN, Int.emod_emod] at this
  have hu : u < 2 ^ n := by
    have := leNat_lt old
    rwa [hlen, show 256 = 2 ^ 8 from rfl, ← pow_mul, width_of_isInt hint] at this
  refine ⟨hwrap .add _ (by simp) rfl, hplain .and (by simp), hplain .or (by simp), hplain .xor (by simp), hwrap .min _ (by simp) rfl,
    hwrap .max _ (by simp) rfl, hplain .xchg (by simp), ?_⟩
  have hcas : leNat (atomicBytes .cas ty b c rnd old) = if u = v then c.toNat % 2 ^ n else u := by
    have hsame := eq_leBytes_iff hint hlen b.toNat
    by_cases huv : u = v
    · rw [if_pos huv, ← leNat_leBytes_type hint]
      exact congrArg leNat (if_pos (hsame.mpr huv))
    · rw [if_neg huv]
      exact congrArg leNat (if_neg (fun h => huv (hsame.mp h)))
  have hlt : (if u = v then c.toNat % 2 ^ n else u) < 2 ^ n := by
    split
    · exact Nat.mod_lt _ (by positivity)
    · exact hu
  show (leNat (atomicBytes .cas ty b c rnd old) : Int) = _
  rw [hcas, ← Nat.mod_eq_of_lt hlt, Int.natCast_mod, Nat.cast_ite]

end Sys2Proof.Machine

namespace Sys2Proof

/-- Settles O26: each function is `atomicOp`, and leaves its number modulo the width of its type. -/
theorem atomics : Obligations.Atomics :=
  ⟨Machine.atomicsIssue, Machine.atomicFunctions⟩

end Sys2Proof

namespace Sys2Proof.Machine

open Claims

/-! # FNC (R183, R184), and the instructions that clear the pending bits themselves -/

section

variable {maj fn : Nat} {o : Ops} {s : State} {i : Instr}

/-- An instruction that acts and clears the pending bits itself, only once it issues. `e` is its meaning. -/
theorem exec_late (e : Ops → State → Out) {body : State → State} (h : Ready maj fn o s) (hexec : exec i s = e o s)
    (he : e o s = issueLate maj fn o s body) (hx : extraRegs maj fn o = []) (hm : alwaysMarker maj fn = false) :
    exec i s = .next (body s) := by
  rw [hexec, he, issueLate_plain h hx hm]

theorem sw_eq_isMarker (hm : alwaysMarker maj fn = false) : o.h.sw = isMarker maj fn o := by rw [isMarker, hm, Bool.false_or]

/-- Such an instruction that waits: its pending bits stand, too. -/
theorem waits_late {st : Status} {w : Wait} (hexec : exec i s = .next (s.await st w)) : Waits i s st w := by
  have hcur : (s.await st w).cur = { s.cur with status := st, wait := some w } := State.cur_modCur s _
  refine ⟨_, hexec, rfl, fun u hu => State.thread_modCur_ne s _ hu, ?_⟩
  rw [hcur]
  exact ⟨rfl, rfl, rfl, .of_eq rfl rfl rfl rfl rfl⟩

theorem stops_late (hr : s.cur.raised = none) {code : FaultCode} {field : Nat} (hexec : exec i s = .next (s.raise code field 0)) :
    Stops i s code field 0 s.cur.pend := ⟨_, hexec, stopped_raise hr code field⟩

/-! ## What a fence leaves (R183, R233) -/

/-- A thread with the accesses that its later ones, and its later writes and commands, must follow. -/
def Thread.withFences (t : Thread) (all wr : List Nat) : Thread := { t with fenceAll := all, fenceWr := wr }

/-- A fence changes nothing but what its thread's later operations must follow. -/
theorem fence_eq (s : State) (order : Nat) : ∃ all wr, s.fence order = s.modCur (fun t => t.withFences all wr) ∧
    (order = 1 ∨ order = 3 → ∀ a ∈ s.undone s.me, a.op.reads = true → a.id ∈ all) ∧
    (order = 2 ∨ order = 3 → ∀ a ∈ s.undone s.me, s.precedes .release a = true → a.id ∈ wr) := by
  refine ⟨_, _, rfl, fun ho a ha hr => ?_, fun ho a ha hp => ?_⟩
  · refine List.mem_append_right _ ?_
    rw [if_pos (by simpa using ho)]
    exact List.mem_map_of_mem (List.mem_filter.mpr ⟨ha, hr⟩)
  · refine List.mem_append_right _ ?_
    rw [if_pos (by simpa using ho)]
    exact List.mem_map_of_mem (List.mem_filter.mpr ⟨ha, hp⟩)

/-- A release waits for every read, and for every write that is not one to host memory (R223, R231). -/
theorem precedes_release {a : Access}
    (h : a.op.reads = true ∨ a.op.writes = true ∧ ∃ p ∈ a.parts, ∀ pa, s.partLoc a p ≠ some (.host pa)) :
    s.precedes .release a = true := by
  rcases h with hr | ⟨hw, p, hp, hloc⟩
  · simp [State.precedes, hr]
  · simp only [State.precedes, Bool.or_eq_true, Bool.and_eq_true, List.any_eq_true]
    refine .inr (.inr ⟨hw, p, hp, ?_⟩)
    split
    · next pa h => exact absurd h (hloc pa)
    · rfl

/-- The unfinished accesses of a thread that a fence names come before its later operations. -/
theorem mem_mustFollow {u : State} {tid : Nat} {a : Access} (k : OrdKind) (ha : a ∈ u.undone tid)
    (h : a.id ∈ (u.thread tid).fenceAll ∨ k ≠ .load ∧ a.id ∈ (u.thread tid).fenceWr) : a.id ∈ u.mustFollow tid k := by
  refine List.mem_map_of_mem (List.mem_filter.mpr ⟨ha, ?_⟩)
  rw [Bool.or_eq_true]
  right
  split
  · next hk => simpa [hk] using h
  · next hk => simpa [hk] using h

/-- The unfinished accesses of a thread do not rest on its pending bits. -/
theorem undone_readied : (readied maj fn o s).undone s.me = s.undone s.me := by
  rw [State.undone, State.clearPending_accs]
  rfl

theorem partLoc_readied (a : Access) (p : Part) : (readied maj fn o s).partLoc a p = s.partLoc a p := by
  unfold readied
  cases isMarker maj fn o <;> rfl

/-- A fence as an instruction ends: the thread goes on, and only what its later operations must follow has changed. -/
theorem acts_fence {all wr : List Nat} (hexec : exec i s = .next ((readied maj fn o s).modCur (fun t => t.withFences all wr)).finish) :
    Acts i s { plain maj fn o s with rest := restOf { s.cur with fenceAll := all, fenceWr := wr } }
      (fun t => t.fenceAll = all ∧ t.fenceWr = wr) :=
  acts_finish (f := fun t => t.withFences all wr) hexec rfl rfl ⟨rfl, rfl, rfl, rfl, rfl, .of_eq rfl rfl rfl rfl rfl, rfl⟩ ⟨rfl, rfl⟩

theorem issues_fence {order : Nat} (hexec : exec i s = .next ((readied maj fn o s).fence order).finish) : ∃ all wr,
    Acts i s { plain maj fn o s with rest := restOf { s.cur with fenceAll := all, fenceWr := wr } }
      (fun t => t.fenceAll = all ∧ t.fenceWr = wr) ∧
    (order = 1 ∨ order = 3 → ∀ a ∈ s.undone s.me, a.op.reads = true → a.id ∈ all) ∧
    (order = 2 ∨ order = 3 → ∀ a ∈ s.undone s.me, (a.op.reads = true ∨ (a.op.writes = true ∧
      ∃ p ∈ a.parts, ∀ pa, s.partLoc a p ≠ some (.host pa))) → a.id ∈ wr) := by
  obtain ⟨all, wr, heq, hacq, hrel⟩ := fence_eq (readied maj fn o s) order
  rw [State.clearPending_me, undone_readied] at hacq hrel
  rw [heq] at hexec
  exact ⟨all, wr, acts_fence hexec, hacq, fun ho a ha h => hrel ho a ha (precedes_release (by simpa only [partLoc_readied] using h))⟩

end

/-! ## FNC -/

theorem undone_of_onlyThreads {s t : State} (h : OnlyThreads s t) (tid : Nat) : t.undone tid = s.undone tid := by
  have honly : { t with threads := s.threads } = s := h
  have haccs : t.accs = s.accs := (congrArg State.accs honly :)
  rw [State.undone, State.undone, haccs]

theorem State.me_of_onlyThreads {s t : State} (h : OnlyThreads s t) : t.me = s.me :=
  have honly : { t with threads := s.threads } = s := h
  (congrArg State.me honly :)

theorem fenceOrders : FenceOrders := by
  intro o s hraised h
  have hexec := exec_ready (i := .fncFence o) execFncFence h rfl rfl rfl rfl
  rw [State.depth_clearPending, State.clearPending_me] at hexec
  refine ⟨fun hl => ?_, fun hl => ?_⟩
  · rw [if_pos hl] at hexec
    exact stops_raise hraised hexec
  · rw [if_neg (Nat.not_le.mpr hl)] at hexec
    obtain ⟨all, wr, hissues, hacq, hrel⟩ := issues_fence hexec
    refine ⟨all, wr, issues_mono hissues fun t ⟨honly, hall, hwr⟩ => ?_⟩
    have hme : t.me = s.me := State.me_of_onlyThreads honly
    rw [State.cur, hme] at hall hwr
    refine ⟨honly, fun ho a ha hr k => ?_, fun ho a ha hw k hk => ?_⟩
    · exact mem_mustFollow k (undone_of_onlyThreads honly _ ▸ ha) (.inl (hall ▸ hacq ho a ha hr))
    · exact mem_mustFollow k (undone_of_onlyThreads honly _ ▸ ha) (.inr ⟨hk, hwr ▸ hrel ho a ha hw⟩)

theorem drainWaits : DrainWaits := by
  intro o s hraised h
  have hexec := exec_late (i := .fncDrain o) execFncDrain h rfl rfl rfl rfl
  refine ⟨fun hl => ?_, fun hl => ⟨fun hd hc => ?_, fun hwait => ?_⟩⟩
  · rw [if_pos hl] at hexec
    exact stops_late hraised hexec
  · rw [if_neg (Nat.not_le.mpr hl), State.scopeBind, if_pos (by rw [hd, hc]; rfl)] at hexec
    rw [sw_eq_isMarker (maj := 0x0B) (fn := 0x02) rfl] at hexec
    obtain ⟨all, wr, hissues, -⟩ := issues_fence hexec
    exact ⟨all, wr, issues_mono hissues fun t h => h.1⟩
  · rw [if_neg (Nat.not_le.mpr hl), State.scopeBind, if_neg (by simpa [imp_iff_not_or] using hwait)] at hexec
    exact waits_late hexec

end Sys2Proof.Machine

namespace Sys2Proof

/-- Settles O27: a fence notes the unfinished accesses among those that later ones must follow; a drain waits, and then is a fence. -/
theorem fencesAndDrains : Obligations.FencesAndDrains :=
  ⟨Machine.fenceOrders, Machine.drainWaits⟩

end Sys2Proof

namespace Sys2Proof.Machine

open Claims

/-! # What a copy command's issue changes: the copy queues of its core (R188, R192) -/

/-- The next number for accesses, commands and cues. -/
def State.numbered (s : State) (n : Nat) : State := { s with nextId := n }

/-- Only the copy queues of one core have changed, and the next number. -/
structure OnlyCopies (core : Nat) (s u : State) : Prop where
  others : ∀ d, d ≠ core → u.core d = s.core d
  own    : { u.core core with copies := (s.core core).copies } = s.core core
  rest   : { u with cores := s.cores, nextId := s.nextId } = s

section

variable {s t u : State} {core q : Nat} {c : CopyCmd}

theorem OnlyCopies.trans (h : OnlyCopies core s t) (h' : OnlyCopies core t u) : OnlyCopies core s u where
  others d hd := (h'.others d hd).trans (h.others d hd)
  own := (congrArg (fun k : Core => { k with copies := (s.core core).copies }) h'.own).trans h.own
  rest := (congrArg (fun v : State => { v with cores := s.cores, nextId := s.nextId }) h'.rest).trans h.rest

theorem onlyCopies_numbered (s : State) (n : Nat) : OnlyCopies core s (s.numbered n) := ⟨fun _ _ => rfl, rfl, rfl⟩

theorem onlyCopies_setCopyQueue (s : State) (cs : List CopyCmd) : OnlyCopies core s (s.setCopyQueue core q cs) where
  others d hd := State.core_modCore_ne (s := s) _ hd
  own := by
    rw [State.setCopyQueue, State.core_modCore_self]
  rest := rfl

/-- A command at the end of every queue of a list. -/
theorem foldl_appendQueue (c : CopyCmd) {qs : List Nat} (hqs : qs.Nodup) (s : State) :
    (∀ r, (qs.foldl (fun (s : State) q => s.setCopyQueue core q (s.copyQueue core q ++ [c])) s).copyQueue core r =
      if r ∈ qs then s.copyQueue core r ++ [c] else s.copyQueue core r) ∧
    OnlyCopies core s (qs.foldl (fun (s : State) q => s.setCopyQueue core q (s.copyQueue core q ++ [c])) s) := by
  induction qs generalizing s with
  | nil => exact ⟨fun r => by simp, onlyCopies_numbered s s.nextId⟩
  | cons q qs ih =>
    obtain ⟨hq, hqs⟩ := List.nodup_cons.mp hqs
    obtain ⟨hqueue, honly⟩ := ih hqs (s.setCopyQueue core q (s.copyQueue core q ++ [c]))
    refine ⟨fun r => (hqueue r).trans ?_, (onlyCopies_setCopyQueue s _).trans honly⟩
    by_cases hr : r = q
    · subst hr
      simp [hq]
    · simp [State.copyQueue_setCopyQueue_ne _ hr, hr]

end

/-- Only what one core has served in this cycle has changed (R229). -/
structure OnlyServed (k : Nat) (s b : State) : Prop where
  others : ∀ d, d ≠ k → b.core d = s.core d
  own    : { b.core k with served := (s.core k).served } = s.core k
  rest   : { b with cores := s.cores } = s

theorem OnlyServed.refl (k : Nat) (s : State) : OnlyServed k s s := ⟨fun _ _ => rfl, rfl, rfl⟩

section

variable {maj fn : Nat} {o : Ops} {s b : State} {i : Instr} {k : Nat}

theorem OnlyServed.threads (h : OnlyServed k s b) : b.threads = s.threads := (congrArg State.threads h.rest :)
theorem OnlyServed.me (h : OnlyServed k s b) : b.me = s.me := (congrArg State.me h.rest :)
theorem OnlyServed.thread (h : OnlyServed k s b) (v : Nat) : b.thread v = s.thread v := by rw [State.thread, State.thread, h.threads]
theorem OnlyServed.cur (h : OnlyServed k s b) : b.cur = s.cur := by rw [State.cur, h.me, h.thread, State.cur]
theorem OnlyServed.copies (h : OnlyServed k s b) : (b.core k).copies = (s.core k).copies := (congrArg Core.copies h.own :)

theorem copyQueue_readied (k q : Nat) : (readied maj fn o s).copyQueue k q = s.copyQueue k q := by
  rw [State.copyQueue, State.core_clearPending, State.copyQueue]

theorem OnlyCopies.threads {u : State} (h : OnlyCopies k s u) : u.threads = s.threads := (congrArg State.threads h.rest :)
theorem OnlyCopies.me {u : State} (h : OnlyCopies k s u) : u.me = s.me := (congrArg State.me h.rest :)
theorem OnlyCopies.thread {u : State} (h : OnlyCopies k s u) (v : Nat) : u.thread v = s.thread v := by
  rw [State.thread, State.thread, h.threads]
theorem OnlyCopies.cur {u : State} (h : OnlyCopies k s u) : u.cur = s.cur := by rw [State.cur, h.me, h.thread, State.cur]

/-- A state with the threads, cores and cues of another, and its next number. -/
def State.restored (x s : State) : State := { x with threads := s.threads, cores := s.cores, nextId := s.nextId, cues := s.cues }

/-- An instruction that enters copy queues and goes on at PC + 12: `v` is the state with the queues entered, `u` that in which the
thread and the cues have changed, too. -/
theorem issues_entered {u v : State} {t : Thread} {c : Change} (hexec : exec i s = .next u.finish) (hb : OnlyServed k s b)
    (h : OnlyCopies k (readied maj fn o b) v) (hu : { u with threads := v.threads, cues := v.cues } = v)
    (hothers : ∀ w, w ≠ s.me → u.thread w = v.thread w) (hcur : u.cur = t) (hpc : t.pc = s.cur.pc) (hc : c.pc = s.cur.pc + 12)
    (hchanged : Changed s.cur t c) :
    Issues i s c (fun x => (∀ q, x.copyQueue k q = v.copyQueue k q) ∧ (∀ d, d ≠ k → x.core d = s.core d) ∧
      { x.core k with copies := (s.core k).copies } = b.core k ∧ x.cues = u.cues ∧
      { x with threads := s.threads, cores := s.cores, nextId := s.nextId, cues := s.cues } = s) := by
  have hready : { readied maj fn o b with threads := b.threads } = b := onlyThreads_clearPending b _
  have hcores : u.cores = v.cores := (congrArg State.cores hu :)
  have hcore : ∀ d, u.finish.core d = v.core d := fun d => by rw [State.core_finish, State.core, State.core, hcores]
  have hrest : u.restored s = s := calc
    u.restored s = v.restored s := (congrArg (fun x : State => x.restored s) hu :)
    _ = (readied maj fn o b).restored s := (congrArg (fun x : State => x.restored s) h.rest :)
    _ = b.restored s := (congrArg (fun x : State => x.restored s) hready :)
    _ = s := (congrArg (fun x : State => x.restored s) hb.rest :)
  have hthread : ∀ w, w ≠ s.me → u.thread w = s.thread w := fun w hw => by
    rw [hothers w hw, h.thread, thread_readied_ne (hb.me ▸ hw), hb.thread]
  refine ⟨_, hexec, issued_finish (congrArg State.me hrest :) (congrArg State.clock hrest :) hthread hcur hpc hc hchanged,
    fun q => by rw [State.copyQueue, hcore, State.copyQueue], fun d hd => ?_, ?_, rfl, hrest⟩
  · rw [hcore, h.others d hd, State.core_clearPending, hb.others d hd]
  · rw [hcore, ← hb.copies, ← State.core_clearPending b (isMarker maj fn o) k]
    exact h.own

/-- A copy command that changes nothing else. -/
theorem issues_copies {v : State} (hexec : exec i s = .next v.finish) (hb : OnlyServed k s b) (h : OnlyCopies k (readied maj fn o b) v) :
    Issues i s (plain maj fn o s) (fun x => (∀ q, x.copyQueue k q = v.copyQueue k q) ∧ (∀ d, d ≠ k → x.core d = s.core d) ∧
      { x.core k with copies := (s.core k).copies } = b.core k ∧
      { x with threads := s.threads, cores := s.cores, nextId := s.nextId } = s) := by
  have hcur : v.cur = atIssue maj fn o s := by
    rw [h.cur, State.cur_clearPending, hb.cur]
    rfl
  refine issues_mono (issues_entered hexec hb h rfl (fun _ _ => rfl) hcur rfl rfl changed_plain)
    fun x ⟨hqueue, hothers, hown, hx, hrest⟩ => ⟨hqueue, hothers, hown, ?_⟩
  have hsame : x.cues = s.cues :=
    hx.trans ((congrArg State.cues h.rest :).trans ((State.clearPending_cues b _).trans (congrArg State.cues hb.rest :)))
  rw [← hsame] at hrest
  exact hrest

end

/-! ## CPY.JOIN and CPY.WAIT -/

theorem copyBase_readied {maj f fn : Nat} {o : Ops} {s : State} (src dst : Word) (len : Nat) :
    copyBase f o (readied maj fn o s) src dst len = copyBase f o s src dst len := by
  have hcur : (readied maj fn o s).cur = atIssue maj fn o s := cur_readied
  rw [copyBase, copyBase, hcur, State.clearPending_nextId, State.clearPending_me]
  rfl

/-- The queues that a JOIN enters, and the command that it enters there (R192). -/
def joinQueues (o : Ops) : List Nat := [0, 1, 2, 3].filter (fun q => o.qmask.testBit q)

def joinCmd (o : Ops) (s : State) : CopyCmd :=
  { copyBase 0x06 o s 0 0 0 with qmask := o.qmask, after := s.mustFollow s.me .command }

/-- JOIN, with what it reads of the machine read before its pending bits are cleared. -/
theorem exec_cpyJoin {o : Ops} {s : State} (h : Ready 0x0C 0x06 o s) : exec (.cpyJoin o) s = .next (
    if (joinQueues o).any (fun q => 8 ≤ (s.copyQueue (coreOf s.me) q).length) then (readied 0x0C 0x06 o s).await .stalled (.copyRoom o.qmask false)
    else ((joinQueues o).foldl (fun u q => u.setCopyQueue (coreOf s.me) q (u.copyQueue (coreOf s.me) q ++ [joinCmd o s]))
      ((readied 0x0C 0x06 o s).numbered (s.nextId + 1))).finish) := by
  have hcmd : joinCmd o (readied 0x0C 0x06 o s) = joinCmd o s := by
    rw [joinCmd, copyBase_readied, State.clearPending_me, State.mustFollow_clearPending, joinCmd]
  have hexec : exec (.cpyJoin o) s = .next (
      let u := readied 0x0C 0x06 o s
      if (joinQueues o).any (fun q => 8 ≤ (u.copyQueue (coreOf u.me) q).length) then u.await .stalled (.copyRoom o.qmask false)
      else ((joinQueues o).foldl (fun v q => v.setCopyQueue (coreOf u.me) q (v.copyQueue (coreOf u.me) q ++ [joinCmd o u]))
        (u.numbered (u.nextId + 1))).finish) := exec_ready execCpyJoin h rfl rfl rfl rfl
  simpa only [copyQueue_readied, State.clearPending_me, State.clearPending_nextId, hcmd] using hexec

theorem copyJoinAndWait : CopyJoinAndWait := by
  intro o s k qs c
  refine ⟨fun h => ?_, fun h => ?_⟩
  · have hexec := exec_cpyJoin h
    refine ⟨fun (hroom : ∀ q ∈ joinQueues o, (s.copyQueue (coreOf s.me) q).length < 8) => ?_,
      fun (hfull : ∃ q ∈ joinQueues o, 8 ≤ (s.copyQueue (coreOf s.me) q).length) => ?_⟩
    · rw [if_neg (by simpa only [List.any_eq_true, decide_eq_true_eq, not_exists, not_and, Nat.not_le] using hroom)] at hexec
      obtain ⟨hqueue, honly⟩ := foldl_appendQueue (core := k) (joinCmd o s) (qs := joinQueues o) (.filter _ (by decide))
        ((readied 0x0C 0x06 o s).numbered (s.nextId + 1))
      refine issues_mono (issues_copies hexec (.refl _ s) ((onlyCopies_numbered _ _).trans honly)) fun t ⟨hq, hothers, hown, hrest⟩ =>
        ⟨fun q => (hq q).trans ?_, hothers, hown, hrest⟩
      rw [hqueue, ← copyQueue_readied (maj := 0x0C) (fn := 0x06) (o := o) (s := s)]
      rfl
    · rw [if_pos (by simpa only [List.any_eq_true, decide_eq_true_eq] using hfull)] at hexec
      exact waits_await hexec
  · have hexec := exec_late (i := .cpyWait o) execCpyWait h rfl rfl rfl rfl
    refine ⟨fun hdone => ?_, fun hopen => ?_⟩
    · rw [if_pos hdone, sw_eq_isMarker (maj := 0x0C) (fn := 0x07) rfl] at hexec
      exact acts_finish_plain hexec
    · rw [if_neg (by simp [hopen])] at hexec
      exact waits_late hexec

/-! ## MXU.WAIT and MXU.PROG -/

/-- A command of the queue that a WAIT names: this thread's for SMASK 0, else one that names a slot of SMASK (R207). -/
def mxNames (o : Ops) (s : State) (c : MxCmd) : Prop :=
  if mxSmask o = 0 then c.tid = s.me
  else (mxSmask o).testBit c.slot = true ∨ (c.fn = 3 ∧ (mxSmask o).testBit c.pslot = true)

theorem mem_mxNamed {o : Ops} {s : State} {n : Nat} :
    n ∈ s.mxNamed (mxSmask o) ↔ ∃ c ∈ (s.core (coreOf s.me)).mx, mxNames o s c ∧ c.id = n := by
  rw [State.mxNamed, List.mem_map]
  refine exists_congr fun c => ?_
  rw [List.mem_filter, mxNames, and_assoc]
  by_cases hz : mxSmask o = 0 <;> simp [hz]

theorem mxWaits_fresh {s : State} (hw : ∀ ids, s.cur.wait ≠ some (.matrix ids)) (smask : Nat) : s.mxWaits smask = s.mxNamed smask := by
  unfold State.mxWaits
  split
  · next ids h => exact absurd h (hw ids)
  · rfl

theorem mxWaits_waiting {s : State} {ids : List Nat} (hw : s.cur.wait = some (.matrix ids)) (smask : Nat) : s.mxWaits smask = ids := by
  rw [State.mxWaits, hw]

section

variable {o : Ops} {s : State}

/-- WAIT in a core that has every slot of SMASK. -/
theorem exec_mxuWait (hslots : ∀ n, n < 5 → (mxSmask o).testBit n = true → n < s.slots) (h : Ready 0x18 0x07 o s) :
    exec (.mxuWait o) s = .next (
      if (s.core (coreOf s.me)).mx.all (fun c => !(s.mxWaits (mxSmask o)).contains c.id) then (readied 0x18 0x07 o s).finish
      else s.await .parked (.matrix (s.mxWaits (mxSmask o)))) := by
  have hexec := exec_late (i := .mxuWait o) execMxuWait h rfl rfl rfl rfl
  rw [sw_eq_isMarker (maj := 0x18) (fn := 0x07) rfl, if_neg ?_] at hexec
  · exact hexec
  · simpa using hslots

theorem mxuWait_acts (hslots : ∀ n, n < 5 → (mxSmask o).testBit n = true → n < s.slots) (h : Ready 0x18 0x07 o s)
    (hnone : ∀ c ∈ (s.core (coreOf s.me)).mx, c.id ∉ s.mxWaits (mxSmask o)) :
    Acts (.mxuWait o) s (plain 0x18 0x07 o s) (fun _ => True) := by
  have hexec := exec_mxuWait hslots h
  rw [if_pos (by simpa using hnone)] at hexec
  exact acts_finish_plain hexec

end

theorem matrixWaitAndProgress : MatrixWaitAndProgress := by
  intro o s hraised k slots named
  have hnamed : ∀ c, named c ↔ mxNames o s c := fun c => by simp only [named, mxNames]
  refine ⟨fun h => ⟨fun ⟨n, hn, hbit, hslot⟩ => ?_, fun hslots hw => ⟨fun hnone => ?_, fun ⟨c, hc, hname⟩ => ?_⟩,
    fun ids hslots hw hnone => ?_⟩, fun d hd h => ⟨fun hslot => ?_, fun hslot => ?_⟩⟩
  · have hexec := exec_late (i := .mxuWait o) execMxuWait h rfl rfl rfl rfl
    rw [if_pos (List.any_eq_true.mpr ⟨n, List.mem_range.mpr hn, by simpa [hbit] using show s.slots ≤ n from hslot⟩)] at hexec
    exact stops_late hraised hexec
  · refine mxuWait_acts hslots h fun c hc hmem => ?_
    rw [mxWaits_fresh hw, mem_mxNamed] at hmem
    obtain ⟨c', hc', hname, -⟩ := hmem
    exact hnone c' hc' ((hnamed c').mpr hname)
  · have hwaits : ∀ c ∈ k.mx, named c → c.id ∈ s.mxWaits (mxSmask o) := fun c hc hname => by
      rw [mxWaits_fresh hw, mem_mxNamed]
      exact ⟨c, hc, (hnamed c).mp hname, rfl⟩
    have hexec := exec_mxuWait hslots h
    rw [if_neg (by simpa using ⟨c, hc, hwaits c hc hname⟩)] at hexec
    exact ⟨_, waits_late hexec, hwaits⟩
  · exact mxuWait_acts hslots h (by simpa only [mxWaits_waiting hw] using hnone)
  · have hexec := exec_ready (i := .mxuProg o) execMxuProg h rfl rfl rfl rfl
    rw [if_pos (by rw [State.slots, State.myPart_clearPending]; exact hslot)] at hexec
    exact stops_raise hraised hexec
  · have hexec := exec_ready (i := .mxuProg o) execMxuProg h rfl rfl rfl rfl
    rw [if_neg (by rw [State.slots, State.myPart_clearPending]; exact Nat.not_le.mpr hslot), State.enterWord, newAccess_readied, hd] at hexec
    have hrequests := requests_enter hexec
    rw [State.mxWord, State.core_clearPending, State.clearPending_me] at hrequests
    exact hrequests

end Sys2Proof.Machine

namespace Sys2Proof

/-- Settles O33: a JOIN is a fold over the queues of QMASK; a WAIT looks at what is left before it clears its pending bits. -/
theorem copyAndMatrixWaits : Obligations.CopyAndMatrixWaits :=
  ⟨Machine.copyJoinAndWait, Machine.matrixWaitAndProgress⟩

end Sys2Proof

namespace Sys2Proof.Machine

open Claims

/-! # The issue of a copy command (R188, R191) -/

section

variable {s b : State} {k : Nat}

/-! ## What the checks read is not the pending bits, and not what a core has served -/

/-- A thread's state and its tag of R313 do not rest on the issuing thread's pending bits. -/
theorem State.placed_clearPending (m : Bool) (v : Nat) : ((s.clearPending m).thread v).status = (s.thread v).status ∧
    ((s.clearPending m).thread v).gone = (s.thread v).gone := by
  by_cases hv : v = s.me
  · subst hv
    have hcur := State.cur_clearPending s m
    rw [State.cur, State.clearPending_me] at hcur
    rw [hcur]
    exact ⟨rfl, rfl⟩
  · rw [State.thread_clearPending_ne _ _ hv]
    exact ⟨rfl, rfl⟩

@[simp] theorem State.freeEntry_clearPending (m : Bool) (v : Nat) : (s.clearPending m).freeEntry v = s.freeEntry v := by
  have hplaced : ∀ c, (s.clearPending m).placedOn c = s.placedOn c := fun c => by
    unfold State.placedOn
    simp only [(State.placed_clearPending m _).1, (State.placed_clearPending m _).2]
  unfold State.freeEntry State.sharedFree
  rw [State.clearPending_cues, hplaced]

@[simp] theorem State.handlerOf_clearPending (m : Bool) (v port : Nat) : (s.clearPending m).handlerOf v port = s.handlerOf v port := by
  rw [State.handlerOf, State.imageOf_clearPending, State.handlerOf]

theorem OnlyServed.mustFollow (h : OnlyServed k s b) (v : Nat) (d : OrdKind) : b.mustFollow v d = s.mustFollow v d :=
  (congrArg (fun u : State => u.mustFollow v d) h.rest :)

theorem OnlyServed.freeEntry (h : OnlyServed k s b) (v : Nat) : b.freeEntry v = s.freeEntry v :=
  (congrArg (fun u : State => u.freeEntry v) h.rest :)

theorem OnlyServed.handlerOf (h : OnlyServed k s b) (v port : Nat) : b.handlerOf v port = s.handlerOf v port :=
  (congrArg (fun u : State => u.handlerOf v port) h.rest :)

theorem OnlyServed.copyQueue (h : OnlyServed k s b) (q : Nat) : b.copyQueue k q = s.copyQueue k q := by
  rw [State.copyQueue, h.copies, State.copyQueue]

theorem OnlyServed.part (h : OnlyServed k s b) : (b.core k).part = (s.core k).part := (congrArg Core.part h.own :)

end

section

variable {maj fn : Nat} {o : Ops} {s b : State} {i : Instr} {k : Nat} {c : CopyCmd}

/-! ## An instruction that does not act, after a read of its pool -/

theorem stopsFrom_raise (hb : OnlyServed k s b) (hr : s.cur.raised = none) {code : FaultCode} {field : Nat} {data : Word}
    (hexec : exec i s = .next ((readied maj fn o b).raise code field data)) : StopsFrom i s b code field data (plain maj fn o s).pend := by
  have hcur : ((readied maj fn o b).raise code field data).cur =
      { s.cur with pend := (plain maj fn o s).pend, status := .faulted, before := if s.cur.status = .asleep then .asleep else .running,
                   raised := some ⟨code, field, data, s.cur.pc, .own⟩ } := by
    rw [State.raise, State.cur_modCur, State.cur_clearPending, hb.cur, Thread.faultOn, Thread.withPend_raised, hr]
    rfl
  refine ⟨_, hexec, onlyThreads_modCur_readied _, fun u hu => thread_modCur_readied_ne _ hu, ?_, ?_, ?_, ?_⟩ <;> rw [hcur]
  · rw [hb.cur]
  · rw [hb.cur]

theorem waitsFrom_await (hb : OnlyServed k s b) {st : Status} {w : Wait}
    (hexec : exec i s = .next ((readied maj fn o b).await st w)) : WaitsFrom i s b st w := by
  have hcur : ((readied maj fn o b).await st w).cur = { s.cur with pend := (plain maj fn o s).pend, status := st, wait := some w } := by
    rw [State.await, State.cur_modCur, State.cur_clearPending, hb.cur]
    rfl
  refine ⟨_, hexec, onlyThreads_modCur_readied _, fun u hu => (thread_modCur_readied_ne _ (hb.me ▸ hu)).trans (hb.thread u), ?_⟩
  rw [hcur]
  exact ⟨rfl, rfl, rfl, .of_eq rfl rfl rfl rfl rfl⟩

/-! ## The checks, in their order -/

/-- The issue of a copy command, with what it reads of the machine read before its pending bits are cleared. -/
theorem startCopy_readied (hb : OnlyServed (coreOf s.me) s b) (c : CopyCmd) : (readied maj fn o b).startCopy o c =
    match c.fault (s.core (coreOf s.me)).part with
    | some (code, a) => (readied maj fn o b).raise code 0 a
    | none =>
      if !cpyCue o then (readied maj fn o b).queueCopy (cpyQ o) c none
      else if (s.handlerOf s.me (cpyPort o)).isNone then (readied maj fn o b).raise .illegal 10 0
      else
        match tagOf s.cur 0 with
        | none => (readied maj fn o b).raise .microstep 0 0
        | some tag => (readied maj fn o b).queueCopy (cpyQ o) c (some (copyCue s.cur c tag)) := by
  have hcur : (readied maj fn o b).cur = atIssue maj fn o s := by
    rw [State.cur_clearPending, hb.cur]
    rfl
  rw [State.startCopy, State.myPart_clearPending, State.myPart, hb.me, hb.part, State.clearPending_me, State.handlerOf_clearPending,
    hb.me, hb.handlerOf, hcur]
  rfl

/-- A command with what it must follow and its cue (R191, R226). -/
def CopyCmd.entering (c : CopyCmd) (s : State) (cue : Option Nat) : CopyCmd := { c with after := s.mustFollow s.me .command, cue := cue }

/-- A queue of the issuing core with a command at its end. -/
def State.withCopy (u s : State) (q n : Nat) (c : CopyCmd) : State :=
  (u.numbered n).setCopyQueue (coreOf s.me) q (s.copyQueue (coreOf s.me) q ++ [c])

/-- The completion cue of a command, with its place in a store reserved (R191). -/
def reservedCue (s : State) (m : CueMsg) (shared : Bool) : Cue :=
  ⟨s.nextId + 1, m, .reserved s.me, [], none, none, false, shared, none⟩

/-- A copy's issue that sets a cue aside, and counts it among the thread's posts (R331). -/
def State.withCopyCue (u s : State) (q : Nat) (c : CopyCmd) (m : CueMsg) (shared : Bool) : State :=
  { u.withCopy s q (s.nextId + 2) (c.entering s (some (s.nextId + 1))) with cues := s.cues ++ [reservedCue s m shared] }.modCur Thread.countPost

/-- What a copy's issue makes of the queues of its core. -/
theorem onlyCopies_withCopy (q n : Nat) (c : CopyCmd) :
    OnlyCopies (coreOf s.me) (readied maj fn o b) ((readied maj fn o b).withCopy s q n c) :=
  (onlyCopies_numbered _ _).trans (onlyCopies_setCopyQueue _ _)

section

variable (hb : OnlyServed (coreOf s.me) s b)

include hb

theorem OnlyServed.me_readied : (readied maj fn o b).me = s.me := (State.clearPending_me b _).trans hb.me

theorem OnlyServed.nextId_readied : (readied maj fn o b).nextId = s.nextId :=
  (State.clearPending_nextId b _).trans (congrArg State.nextId hb.rest :)

theorem OnlyServed.cues_readied : (readied maj fn o b).cues = s.cues := (State.clearPending_cues b _).trans (congrArg State.cues hb.rest :)

theorem OnlyServed.copyQueue_readied (q : Nat) : (readied maj fn o b).copyQueue (coreOf s.me) q = s.copyQueue (coreOf s.me) q :=
  (Machine.copyQueue_readied _ _).trans (hb.copyQueue q)

theorem OnlyServed.entering_readied (c : CopyCmd) (cue : Option Nat) : c.entering (readied maj fn o b) cue = c.entering s cue := by
  rw [CopyCmd.entering, CopyCmd.entering, hb.me_readied, ← hb.me, State.mustFollow_clearPending, hb.mustFollow]

/-- A checked command that asks for no cue. -/
theorem queueCopy_none (q : Nat) {c : CopyCmd} (hc : c.cue = none) :
    (readied maj fn o b).queueCopy q c none =
      if 8 ≤ (s.copyQueue (coreOf s.me) q).length then (readied maj fn o b).await .stalled (.copyRoom (2 ^ q) false)
      else ((readied maj fn o b).withCopy s q (s.nextId + 1) (c.entering s none)).finish := by
  have hbody : ∀ u : State, u.queueCopy q c none = if 8 ≤ (u.copyQueue (coreOf u.me) q).length then u.await .stalled (.copyRoom (2 ^ q) false)
      else (u.withCopy u q (u.nextId + 1) { c with after := u.mustFollow u.me .command }).finish := fun _ => rfl
  have hcmd : ∀ u : State, { c with after := u.mustFollow u.me .command } = c.entering u none := fun u => by rw [CopyCmd.entering, ← hc]
  rw [hbody, hcmd, hb.entering_readied, State.withCopy, hb.me_readied, hb.copyQueue_readied, hb.nextId_readied, State.withCopy]

/-- A checked command that asks for its cue. -/
theorem queueCopy_some (q : Nat) (c : CopyCmd) (m : CueMsg) :
    (readied maj fn o b).queueCopy q c (some m) =
      match s.freeEntry s.me with
      | none => (readied maj fn o b).await .stalled (.copyRoom (2 ^ q) true)
      | some shared =>
        if 8 ≤ (s.copyQueue (coreOf s.me) q).length then (readied maj fn o b).await .stalled (.copyRoom (2 ^ q) true)
        else ((readied maj fn o b).withCopyCue s q c m shared).finish := by
  have hbody : ∀ u : State, u.queueCopy q c (some m) =
      match u.freeEntry u.me with
      | none => u.await .stalled (.copyRoom (2 ^ q) true)
      | some shared =>
        if 8 ≤ (u.copyQueue (coreOf u.me) q).length then u.await .stalled (.copyRoom (2 ^ q) true)
        else (u.withCopyCue u q c m shared).finish := fun _ => rfl
  have hcopy : ∀ shared, (readied maj fn o b).withCopyCue (readied maj fn o b) q c m shared = (readied maj fn o b).withCopyCue s q c m shared :=
    fun shared => by
      rw [State.withCopyCue, hb.entering_readied, State.withCopy, reservedCue, hb.me_readied, hb.copyQueue_readied, hb.nextId_readied,
        hb.cues_readied, State.withCopyCue, State.withCopy, reservedCue]
  rw [hbody, hb.me_readied, State.freeEntry_clearPending, hb.freeEntry, hb.copyQueue_readied]
  simp only [hcopy]

theorem copyQueue_withCopy (q n : Nat) (c : CopyCmd) (r : Nat) : ((readied maj fn o b).withCopy s q n c).copyQueue (coreOf s.me) r =
    if r = q then s.copyQueue (coreOf s.me) q ++ [c] else s.copyQueue (coreOf s.me) r := by
  rw [State.withCopy]
  split
  · next hr => rw [hr, State.copyQueue_setCopyQueue_self]
  · next hr =>
    rw [State.copyQueue_setCopyQueue_ne _ hr, ← hb.copyQueue_readied]
    rfl

end

/-- A copy command that sets its cue aside. -/
theorem issues_withCopyCue {q : Nat} {m : CueMsg} {shared : Bool} (hexec : exec i s = .next ((readied maj fn o b).withCopyCue s q c m shared).finish)
    (hb : OnlyServed (coreOf s.me) s b) :
    Issues i s { plain maj fn o s with rest := restOf { s.cur with postCtr := s.cur.postCtr + 1 } } (fun x =>
      (∀ r, x.copyQueue (coreOf s.me) r =
        ((readied maj fn o b).withCopy s q (s.nextId + 2) (c.entering s (some (s.nextId + 1)))).copyQueue (coreOf s.me) r) ∧
      (∀ d, d ≠ coreOf s.me → x.core d = s.core d) ∧
      { x.core (coreOf s.me) with copies := (s.core (coreOf s.me)).copies } = b.core (coreOf s.me) ∧
      x.cues = s.cues ++ [reservedCue s m shared] ∧
      { x with threads := s.threads, cores := s.cores, nextId := s.nextId, cues := s.cues } = s) := by
  have honly := onlyCopies_withCopy (maj := maj) (fn := fn) (o := o) (s := s) (b := b) q (s.nextId + 2) (c.entering s (some (s.nextId + 1)))
  set v := (readied maj fn o b).withCopy s q (s.nextId + 2) (c.entering s (some (s.nextId + 1))) with hv
  have hcur : v.cur = atIssue maj fn o s := by
    rw [honly.cur, State.cur_clearPending, hb.cur]
    rfl
  have hme : v.me = s.me := honly.me.trans hb.me_readied
  refine issues_entered (t := (atIssue maj fn o s).countPost) hexec hb honly rfl (fun w hw => ?_) ?_ rfl rfl
    ⟨rfl, rfl, rfl, rfl, rfl, .of_eq rfl rfl rfl rfl rfl, rfl⟩
  · rw [State.withCopyCue, State.thread_modCur_ne _ _ (by exact hme ▸ hw)]
    rfl
  · rw [State.withCopyCue, State.cur_modCur, ← hv, ← hcur]
    rfl

/-- How every copy command issues whose fields are known. -/
theorem copyIssues (hexec : exec i s = .next ((readied 0x0C fn o b).startCopy o c)) (hb : OnlyServed (coreOf s.me) s b) (hr : s.cur.raised = none)
    (hcue : c.cue = none) : CopyIssues i fn o s b c := by
  rw [startCopy_readied hb] at hexec
  refine ⟨fun f a hf => ?_, fun hf hnone => ?_, fun hf hsome => ?_⟩
  · rw [hf] at hexec
    exact stopsFrom_raise hb hr hexec
  · simp only [hf, hnone, Bool.not_false, if_true, queueCopy_none hb _ hcue] at hexec
    refine ⟨fun hroom => ?_, fun hfull => ?_⟩
    · rw [if_neg (Nat.not_le.mpr hroom)] at hexec
      refine issues_mono (issues_copies hexec hb (onlyCopies_withCopy _ _ _)) fun x ⟨hqueue, hothers, hown, hrest⟩ =>
        ⟨⟨?_, fun r hr => ?_, hothers, hown⟩, hrest⟩
      · rw [hqueue, copyQueue_withCopy hb, if_pos rfl]
        rfl
      · rw [hqueue, copyQueue_withCopy hb, if_neg hr]
    · rw [if_pos (Nat.not_lt.mp hfull)] at hexec
      exact waitsFrom_await hb hexec
  · simp only [hf, hsome, Bool.not_true, Bool.false_eq_true, if_false] at hexec
    refine ⟨fun hport => ?_, fun hport htag => ?_, fun tag shared hport htag hfree hroom => ?_, fun tag hport htag hfull => ?_⟩
    · rw [if_pos (by simp [hport])] at hexec
      exact stopsFrom_raise hb hr hexec
    · rw [if_neg (by simpa using hport), htag] at hexec
      exact stopsFrom_raise hb hr hexec
    · rw [if_neg (by simpa using hport), htag] at hexec
      simp only [queueCopy_some hb, hfree] at hexec
      rw [if_neg (Nat.not_le.mpr hroom)] at hexec
      refine issues_mono (issues_withCopyCue hexec hb) fun x ⟨hqueue, hothers, hown, hcues, hrest⟩ =>
        ⟨⟨?_, fun r hr => ?_, hothers, hown⟩, hcues, hrest⟩
      · rw [hqueue, copyQueue_withCopy hb, if_pos rfl]
        rfl
      · rw [hqueue, copyQueue_withCopy hb, if_neg hr]
    · rw [if_neg (by simpa using hport), htag] at hexec
      simp only [queueCopy_some hb] at hexec
      have hstalls : exec i s = .next ((readied 0x0C fn o b).await .stalled (.copyRoom (2 ^ cpyQ o) true)) := by
        cases hfree : s.freeEntry s.me with
        | none => simpa only [hfree] using hexec
        | some shared =>
          have hroom := hfull.resolve_left (by simp [hfree])
          simpa only [hfree, if_pos (Nat.not_lt.mp hroom)] using hexec
      exact waitsFrom_await hb hstalls

end

/-! ## The copy instructions -/

section

variable {fn : Nat} {o : Ops} {s : State} {i : Instr}

theorem xr_readied {maj : Nat} (r : Reg) : (readied maj fn o s).cur.xr r = s.cur.xr r := by
  rw [cur_readied]
  rfl

theorem ownReadReady_readied {maj : Nat} (off n : Nat) : (readied maj fn o s).ownReadReady s.me off n = s.ownReadReady s.me off n := by
  rw [State.ownReadReady, State.mustFollow_clearPending, undone_readied, State.inTurn, State.core_clearPending, State.ownReadReady, State.inTurn]
  simp only [partLoc_readied]

theorem copyDesc_readied {maj : Nat} (d : List Byte) : copyDesc fn o (readied maj fn o s) d = copyDesc fn o s d := by
  rw [copyDesc, copyBase_readied, copyDesc]

/-- A read of the pool noted before the pending bits are cleared, or after. -/
theorem ownServed_readied {maj : Nat} (v off n : Nat) : (readied maj fn o s).ownServed v off n = readied maj fn o (s.ownServed v off n) := by
  unfold readied
  cases isMarker maj fn o <;> rfl

theorem onlyServed_ownServed (off n : Nat) : OnlyServed (coreOf s.me) s (s.ownServed s.me off n) where
  others d hd := State.core_modCore_ne (s := s) _ hd
  own := by
    rw [State.ownServed, State.serve, State.core_modCore_self]
  rest := rfl

/-- The functions with a descriptor (R187, R188). -/
theorem descOp_issues (hexec : exec i s = descOp fn o s) (hx : extraRegs 0x0C fn o = []) (hm : alwaysMarker 0x0C fn = false)
    (h : Ready 0x0C fn o s) (hr : s.cur.raised = none) :
    let a := s.cur.xr o.a
    (a.toNat % 64 ≠ 0 → Stops i s .align 0 a (plain 0x0C fn o s).pend) ∧
    (a.toNat % 64 = 0 → (spaceOf a ≠ .own ∨ checkAddr (s.core (coreOf s.me)).part a 64 ≠ none) →
      Stops i s .pool 0 a (plain 0x0C fn o s).pend) ∧
    (a.toNat % 64 = 0 → spaceOf a = .own → checkAddr (s.core (coreOf s.me)).part a 64 = none →
      s.ownReadReady s.me (poolOff a) 64 = true →
      CopyIssues i fn o s (s.ownServed s.me (poolOff a) 64) (copyDesc fn o s (s.poolRead (coreOf s.me) (poolOff a) 64))) := by
  have hexec := exec_ready (descOp fn) h hexec rfl hx.symm hm.symm
  simp only [xr_readied, State.myPart_clearPending, State.clearPending_me, ownReadReady_readied, copyDesc_readied, ownServed_readied,
    State.poolRead, State.core_clearPending, bne_iff_ne, ne_eq] at hexec
  refine ⟨fun halign => ?_, fun halign hpool => ?_, fun halign hown hreach hready => ?_⟩
  · rw [if_pos halign] at hexec
    exact stops_raise hr hexec
  · rw [if_neg (not_not.mpr halign), if_pos (by simpa [Option.isSome_iff_ne_none, State.myPart] using hpool)] at hexec
    exact stops_raise hr hexec
  · rw [if_neg (not_not.mpr halign), if_neg (by simp [hown, State.myPart, hreach]), if_neg (by simp [hready])] at hexec
    exact copyIssues hexec (onlyServed_ownServed _ _) hr rfl

end

theorem copyCommandsIssue : CopyCommandsIssue := by
  intro o s hr t k a
  refine ⟨fun h => ?_, fun h => ?_, fun e he h => ?_⟩
  · have hexec := exec_ready (i := .cpyGo1 o) execCpyGo1 h rfl rfl rfl rfl
    simp only [xr_readied, copyBase_readied] at hexec
    exact copyIssues hexec (.refl _ s) hr rfl
  · have hexec := exec_ready (i := .cpyFill o) execCpyFill h rfl rfl rfl rfl
    simp only [xr_readied, copyBase_readied] at hexec
    exact copyIssues hexec (.refl _ s) hr rfl
  · simp only [List.mem_cons, List.not_mem_nil, or_false] at he
    obtain rfl | rfl | rfl := he
    · exact descOp_issues (i := .cpyGo2 o) rfl rfl rfl h hr
    · exact descOp_issues (i := .cpyGather o) rfl rfl rfl h hr
    · exact descOp_issues (i := .cpyScatter o) rfl rfl rfl h hr

theorem copyDescriptorFields : CopyDescriptorFields := by
  intro fn o s d hfn
  simp only [List.mem_cons, List.not_mem_nil, or_false] at hfn
  obtain rfl | rfl | rfl := hfn
  · simp [copyDesc, copyBase]
  · simp [copyDesc, copyBase]
  · simp [copyDesc, copyBase]

end Sys2Proof.Machine

namespace Sys2Proof

/-- Settles O31: every copy command whose fields are known issues through the same checks and enters the same queue. -/
theorem copyCommands : Obligations.CopyCommands :=
  ⟨Machine.copyCommandsIssue, Machine.copyDescriptorFields⟩

end Sys2Proof

namespace Sys2Proof.Machine

open Claims

/-! # Accesses of one part at another core's pool (R171, R172, R176, R177, R229) -/

/-- A state that holds an access of one part, and the memories of another state. -/
structure Holds (u : State) (acc : Nat) (q : Part) (w : State) : Prop where
  part    : ∃ b, u.findAcc acc = some b ∧ b.parts = [q]
  cores   : u.cores = w.cores
  dram    : u.dram = w.dram
  hostMem : u.hostMem = w.hostMem

section

variable {s u w : State} {acc : Nat} {a : Access} {p q : Part}

theorem Holds.bytesKept (h : Holds u acc q w) (hw : BytesKept s w) : BytesKept s u :=
  hw.trans (bytesKept_of_cores h.cores h.dram h.hostMem)

theorem Holds.bytesKeptBut {c off n : Nat} (h : Holds u acc q w) (hw : BytesKeptBut s w c off n) : BytesKeptBut s u c off n :=
  hw.trans_kept (bytesKept_of_cores h.cores h.dram h.hostMem)

theorem Holds.core (h : Holds u acc q w) (d : Nat) : u.core d = w.core d := by rw [State.core, State.core, h.cores]

theorem id_of_findAcc (h : s.findAcc acc = some a) : a.id = acc := by simpa using List.find?_some h

/-- A thread at a marker counted anew: the accesses and the memories stay. -/
theorem holds_reclass (h : Holds u acc q w) (tid : Nat) : Holds (u.reclass tid) acc q w := by
  obtain ⟨st, heq | heq⟩ := reclass_eq u tid <;> rw [heq]
  · exact ⟨h.part, h.cores, h.dram, h.hostMem⟩
  · exact h

theorem holds_settle {b : Access} (hf : u.findAcc acc = some b) (h : Holds u acc q w) (hfix : b.fixed = false)
    (hout : b.dest ≠ none ∨ b.isDone = false) : Holds (u.settle acc) acc q w := by
  rw [State.settle_outstanding hf hfix hout]
  exact h

/-! ## What stands in the model for one part -/

theorem groupParts_alone (hp : a.parts = [p]) : a.groupParts 0 = [p] := by simp [Access.groupParts, group_alone hp, hp]

theorem groupTurn_alone (hp : a.parts = [p]) (k : Nat) : s.groupTurn a 0 k false = s.inTurn k (poolOff p.va) p.len (a.rank false) := by
  simp [State.groupTurn, groupParts_alone hp]

theorem groupServed_alone (hp : a.parts = [p]) (k : Nat) : s.groupServed a 0 k false = s.serve k (poolOff p.va) p.len (a.rank false) := by
  simp [State.groupServed, groupParts_alone hp]

/-- The place of a part from its own address. -/
theorem shift_self (k off : Nat) (va : Word) : (Loc.pool k off).shift va va = .pool k off := by simp [Loc.shift]

/-- A part that is a whole group performed. -/
theorem performGroup_alone (hf : s.findAcc a.id = some a) (hp : a.parts = [p]) (k off : Nat) : s.performGroup a 0 p.va (.pool k off) false =
    (s.performPart a.op p (.pool k off) false).1.modAcc a.id (fun b => b.setPart 0 (s.performPart a.op p (.pool k off) false).2) := by
  rw [State.performGroup_eq, group_alone hp, List.foldl_cons, List.foldl_nil, State.performAt, hf, Option.bind_some, hp, List.getElem?_cons_zero,
    Option.elim_some, shift_self]

/-- A part performed at a pool changes nothing of the machine but its cores. -/
theorem performPart_pool_eq (s : State) (op : AccOp) (p : Part) (k off : Nat) (own : Bool) :
    ∃ cs, (s.performPart op p (.pool k off) own).1 = { s with cores := cs } := by
  cases op with
  | store full => cases full <;> exact ⟨_, rfl⟩
  | consume take => cases take <;> exact ⟨_, rfl⟩
  | _ => exact ⟨_, rfl⟩

/-- The access after its one part has been performed at a pool. -/
theorem findAcc_performGroup (hf : s.findAcc a.id = some a) (hp : a.parts = [p]) (k off : Nat) :
    (s.performGroup a 0 p.va (.pool k off) false).findAcc a.id = some { a with parts := [(s.performPart a.op p (.pool k off) false).2] } := by
  obtain ⟨cs, hcs⟩ := performPart_pool_eq s a.op p k off false
  have hf' : (s.performPart a.op p (.pool k off) false).1.findAcc a.id = some a := by rw [hcs]; exact hf
  rw [performGroup_alone hf hp, State.findAcc_modAcc_self hf' rfl]
  simp [Access.setPart, hp]

theorem holds_performGroup (hf : s.findAcc a.id = some a) (hp : a.parts = [p]) (k off : Nat) :
    Holds (s.performGroup a 0 p.va (.pool k off) false) a.id (s.performPart a.op p (.pool k off) false).2
      (s.performPart a.op p (.pool k off) false).1 := by
  refine ⟨⟨_, findAcc_performGroup hf hp k off, rfl⟩, ?_, ?_, ?_⟩ <;> rw [performGroup_alone hf hp] <;> rfl

end

/-! ## POOL ACCESS ARRIVAL -/

section

variable {s : State} {a : Access} {p : Part}

/-- What the target core of an access of one part must be: held by the context, with the bytes reachable there (R171). -/
theorem poolTarget_alone (hp : a.parts = [p]) (k : Nat) : s.poolTarget a 0 k = true ↔
    (∃ l g, (s.core k).owner = some (l, g) ∧ l.asid = a.asid) ∧
      reachable (s.core k).part (poolOff p.va) (if a.op = .clear then 16 else p.len) = true := by
  have hruns : a.runs 0 = [(poolOff p.va, if a.op = .clear then 16 else p.len)] := by
    rw [Access.runs, groupParts_alone hp, hp]
    by_cases hc : a.op = .clear <;> simp [hc]
  rw [State.poolTarget, hruns, Bool.and_eq_true, List.all_cons, List.all_nil, Bool.and_true]
  refine and_congr ?_ Iff.rfl
  cases (s.core k).owner with
  | none => simp
  | some o =>
    obtain ⟨l, g⟩ := o
    simp

/-- The state after an access of one part has come to a pool. -/
def State.arrived (s : State) (a : Access) (k : Nat) : State := ((s.arrivePool a 0 k false).settle a.id).reclass a.tid

/-- An access of one part, at the port and free to go, at the pool that its address names. -/
theorem execPoolAccessArrival_any (hf : s.findAcc a.id = some a) (hp : a.parts = [p]) (hport : p.stage = .port) (hheld : s.withheld a = false)
    (hready : s.groupReady a 0 = true) (hmesh : s.behindOnMesh a p = false) (hany : spaceOf p.va = .any) :
    exec (.poolAccessArrival a.id 0) s =
      if !s.poolTarget a 0 (anyCore p.va) then .next (s.refuse a.id 0 .pool)
      else if !s.groupTurn a 0 (anyCore p.va) false then .next s
      else .next (s.arrived a (anyCore p.va)) := by
  show execPoolAccessArrival a.id 0 s = _
  simp [execPoolAccessArrival, State.arrived, hf, hp, hport, hheld, hready, hmesh, hany]

/-- An access refused at its place (R173); a clear as a whole. -/
def Access.refused (a : Access) (i : Nat) (code : FaultCode) : Access :=
  if a.op = .clear then { a with parts := a.parts.map (fun p => if p.performed then p else { p with stage := .refused code }) }
  else changeGroup a i (fun p => { p with stage := .refused code })

theorem refuse_eq (s : State) (acc i : Nat) (code : FaultCode) : s.refuse acc i code = s.modAcc acc (fun a => a.refused i code) := by
  refine congrArg (s.modAcc acc) (funext fun a => ?_)
  exact if_congr Iff.rfl rfl (foldl_setPart _ _ a)

theorem refused_alone (hp : a.parts = [p]) (hport : p.stage = .port) (code : FaultCode) :
    (a.refused 0 code).id = a.id ∧ (a.refused 0 code).parts = [{ p with stage := .refused code }] := by
  unfold Access.refused
  split
  · exact ⟨rfl, by simp [hp, Part.performed, hport]⟩
  · exact ⟨rfl, changeGroup_alone hp _⟩

theorem holds_refuse (hf : s.findAcc a.id = some a) (hp : a.parts = [p]) (hport : p.stage = .port) (code : FaultCode) :
    Holds (s.refuse a.id 0 code) a.id { p with stage := .refused code } s := by
  obtain ⟨hid, hparts⟩ := refused_alone hp hport code
  rw [refuse_eq]
  exact ⟨⟨_, State.findAcc_modAcc_self hf hid, hparts⟩, rfl, rfl, rfl⟩

/-- A granule that serves an access keeps its full bit. -/
theorem fullBit_serve (c off n r k x : Nat) : (s.serve c off n r).fullBit k x = s.fullBit k x := by
  rw [State.fullBit, full_serve, State.fullBit]

/-- An access that the pool serves at once. -/
theorem arrivePool_served (hp : a.parts = [p]) (k : Nat)
    (hserved : a.op.consumes = true → s.fullBit k (poolOff p.va) = true ∧ s.awaitedHere a k = false) :
    s.arrivePool a 0 k false = (s.serve k (poolOff p.va) p.len (a.rank false)).performGroup a 0 p.va (.pool k (poolOff p.va)) false := by
  have hgo : (a.op.consumes && ((s.serve k (poolOff p.va) p.len (a.rank false)).awaitedHere a k ||
      !([p].all (fun q => (s.serve k (poolOff p.va) p.len (a.rank false)).fullBit k (poolOff q.va))))) = false := by
    cases hop : a.op.consumes with
    | false => rfl
    | true =>
      obtain ⟨hfull, hfirst⟩ := hserved hop
      have hfirst' : (s.serve k (poolOff p.va) p.len (a.rank false)).awaitedHere a k = false := hfirst
      simp [hfirst', fullBit_serve, hfull]
  rw [State.arrivePool, hp, List.getElem?_cons_zero]
  simp only [groupServed_alone hp, hgo]
  rfl

/-- A part in the table of a pool, at its place as its group's address gives it. -/
def Part.tabled (q : Part) (l : Loc) (base : Word) (n : Nat) : Part := { q with stage := .table, loc := some (l.shift base q.va), arr := n }

/-- A consuming load that finds its granule empty, or others before it, with room in the table. -/
theorem arrivePool_table (hp : a.parts = [p]) (k : Nat) (hop : a.op.consumes = true)
    (hwaits : s.fullBit k (poolOff p.va) = false ∨ s.awaitedHere a k = true) (hroom : (s.tableLoads k).length < 64) :
    s.arrivePool a 0 k false = { s.serve k (poolOff p.va) p.len (a.rank false) with arrivals := s.arrivals + 1 }.modGroup a.id 0
      (fun q => q.tabled (.pool k (poolOff p.va)) p.va (s.arrivals + 1)) := by
  have hstop : (a.op.consumes && ((s.serve k (poolOff p.va) p.len (a.rank false)).awaitedHere a k ||
      !([p].all (fun q => (s.serve k (poolOff p.va) p.len (a.rank false)).fullBit k (poolOff q.va))))) = true := by
    rcases hwaits with hempty | hbehind
    · simp [hop, fullBit_serve, hempty]
    · have hbehind' : (s.serve k (poolOff p.va) p.len (a.rank false)).awaitedHere a k = true := hbehind
      simp [hop, hbehind']
  have hroom' : ((s.serve k (poolOff p.va) p.len (a.rank false)).tableLoads k).length < 64 := hroom
  rw [State.arrivePool, hp, List.getElem?_cons_zero]
  simp only [groupServed_alone hp, hstop, hroom', if_true]
  rfl

/-- What an access leaves that the pool serves at once and whose result or acknowledgement is outstanding. -/
theorem holds_served (hf : s.findAcc a.id = some a) (hp : a.parts = [p]) (hfix : a.fixed = false) {k : Nat}
    (hserved : a.op.consumes = true → s.fullBit k (poolOff p.va) = true ∧ s.awaitedHere a k = false)
    (hout : a.dest ≠ none ∨ a.op.writes = true) {q : Part} {w : State}
    (hr : (s.serve k (poolOff p.va) p.len (a.rank false)).performPart a.op p (.pool k (poolOff p.va)) false = (w, q))
    (hstage : q.stage = .performed) :
    Holds (s.arrived a k) a.id q w := by
  set v := s.serve k (poolOff p.va) p.len (a.rank false) with hv
  have hfv : v.findAcc a.id = some a := hf
  rw [State.arrived, arrivePool_served hp k hserved, ← hv]
  have hfound := findAcc_performGroup hfv hp k (poolOff p.va)
  have hholds := holds_performGroup hfv hp k (poolOff p.va)
  rw [hr] at hfound hholds
  refine holds_reclass (holds_settle hfound hholds hfix (hout.imp_right fun hw => ?_)) _
  simp [Access.isDone, hw, hstage]

/-- A consuming load that waits in the pool's table. -/
theorem holds_table (hf : s.findAcc a.id = some a) (hp : a.parts = [p]) (hfix : a.fixed = false) {k : Nat} (hop : a.op.consumes = true)
    (hwaits : s.fullBit k (poolOff p.va) = false ∨ s.awaitedHere a k = true) (hroom : (s.tableLoads k).length < 64) :
    Holds (s.arrived a k) a.id
      (p.tabled (.pool k (poolOff p.va)) p.va (s.arrivals + 1)) (s.serve k (poolOff p.va) p.len (a.rank false)) := by
  rw [State.arrived, arrivePool_table hp k hop hwaits hroom]
  set f : Part → Part := fun q => q.tabled (.pool k (poolOff p.va)) p.va (s.arrivals + 1)
  set v := s.serve k (poolOff p.va) p.len (a.rank false)
  have hfound : ({ v with arrivals := s.arrivals + 1 }.modGroup a.id 0 f).findAcc a.id = some (changeGroup a 0 f) :=
    findAcc_modGroup (s := { v with arrivals := s.arrivals + 1 }) hf 0 f
  have hparts : (changeGroup a 0 f).parts = [f p] := changeGroup_alone hp f
  have hdone : (changeGroup a 0 f).isDone = false := by
    rw [Access.isDone, hparts]
    simp [Part.performed, f, Part.tabled]
  exact holds_reclass (holds_settle (w := v) hfound ⟨⟨_, hfound, hparts⟩, rfl, rfl, rfl⟩ hfix (.inr hdone)) _

end

/-! ## What each access leaves in the pool -/

section

variable {s w : State} {a : Access} {p : Part}

theorem bytesKept_serve (s : State) (c off n r : Nat) : BytesKept s (s.serve c off n r) := bytesKept_modCore s c fun _ => rfl

theorem bytesKept_setFull (s : State) (c off : Nat) (b : Bool) : BytesKept s (s.setFull c off b) := bytesKept_modCore s c fun _ => rfl

theorem poolRead_serve (c off n r k x m : Nat) : (s.serve c off n r).poolRead k x m = s.poolRead k x m := by
  rw [State.poolRead, pool_serve, State.poolRead]

theorem Holds.fullBit {u : State} {acc : Nat} {q : Part} (h : Holds u acc q w) (c off : Nat) : u.fullBit c off = w.fullBit c off := by
  rw [State.fullBit, h.core, State.fullBit]

theorem fullBit_setFull (s : State) (c off : Nat) (b : Bool) : (s.setFull c off b).fullBit c off = b := by
  rw [State.fullBit, full_setFull, if_pos ⟨rfl, rfl⟩]

theorem bytesKeptBut_of_kept {u : State} {c off n : Nat} (h : BytesKept s w) (h' : BytesKeptBut w u c off n) : BytesKeptBut s u c off n :=
  ⟨fun d x hx => (h'.1 d x hx).trans (by rw [h.1]), h'.2.1.trans h.2.1, h'.2.2.trans h.2.2⟩

/-- A store into a pool, with its full bit for FE. -/
def State.stored (s : State) (c off : Nat) (bs : List Byte) (f : Bool) : State :=
  if f then (s.poolWrite c off bs).setFull c off true else s.poolWrite c off bs

theorem pool_stored (c off : Nat) (bs : List Byte) (f : Bool) (d : Nat) :
    ((s.stored c off bs f).core d).pool = ((s.poolWrite c off bs).core d).pool := by
  cases f with
  | false => rfl
  | true => exact (bytesKept_setFull _ c off true).1 d

theorem bytesKeptBut_stored (c off : Nat) (bs : List Byte) (f : Bool) : BytesKeptBut s (s.stored c off bs f) c off bs.length := by
  cases f with
  | false => exact bytesKeptBut_poolWrite s c off bs
  | true => exact (bytesKeptBut_poolWrite s c off bs).trans_kept (bytesKept_setFull _ c off true)

theorem poolRead_stored (c off : Nat) (bs : List Byte) (f : Bool) : (s.stored c off bs f).poolRead c off bs.length = bs := by
  rw [State.poolRead, pool_stored, State.poolWrite, State.core_modCore_self]
  exact Memory.read_write_same _ _ _

theorem fullBits_stored (c off : Nat) (bs : List Byte) (f : Bool) : FullBits s (s.stored c off bs f) c (off / 16) f := by
  intro d h
  cases f with
  | false => simp [State.stored, full_poolWrite]
  | true => simp [State.stored, full_setFull, full_poolWrite]

/-- A consuming load takes what it takes. -/
def State.taken (s : State) (c off : Nat) (take : Bool) : State := if take then s.setFull c off false else s

theorem bytesKept_taken (s : State) (c off : Nat) (take : Bool) : BytesKept s (s.taken c off take) := by
  cases take with
  | false => exact .refl s
  | true => exact bytesKept_setFull s c off false

theorem fullBit_taken (s : State) (c off : Nat) (take : Bool) : (s.taken c off take).fullBit c off = if take then false else s.fullBit c off := by
  cases take with
  | false => rfl
  | true => exact fullBit_setFull s c off false

end

section

variable {s : State} {a : Access} {p : Part} {k : Nat} (hf : s.findAcc a.id = some a) (hp : a.parts = [p]) (hfix : a.fixed = false)

/-- A part performed at a pool. -/
def Part.doneAt (p : Part) (k : Nat) : Part := { p with stage := .performed, loc := some (.pool k (poolOff p.va)) }

/-- The pool as an access of one part finds it, its granule noted as served in this cycle (R229). -/
def State.noted (s : State) (a : Access) (p : Part) (k : Nat) : State := s.serve k (poolOff p.va) p.len (a.rank false)

theorem bytesKept_noted (s : State) (a : Access) (p : Part) (k : Nat) : BytesKept s (s.noted a p k) := bytesKept_serve _ _ _ _ _

include hf hp hfix

theorem arrived_load (hop : a.op = .load) (hd : a.dest ≠ none) :
    Holds (s.arrived a k) a.id { p.doneAt k with data := s.poolRead k (poolOff p.va) p.len } (s.noted a p k) := by
  refine holds_served hf hp hfix (by simp [hop, AccOp.consumes]) (.inl hd) ?_ rfl
  rw [hop, ← poolRead_serve (s := s) k (poolOff p.va) p.len (a.rank false)]
  rfl

theorem arrived_store {f : Bool} (hop : a.op = .store f) :
    Holds (s.arrived a k) a.id (p.doneAt k) ((s.noted a p k).stored k (poolOff p.va) p.data f) := by
  refine holds_served hf hp hfix (by simp [hop, AccOp.consumes]) (.inr (by rw [hop]; rfl)) ?_ rfl
  rw [hop]
  rfl

theorem arrived_clear (hop : a.op = .clear) :
    Holds (s.arrived a k) a.id (p.doneAt k) ((s.noted a p k).setFull k (poolOff p.va) false) := by
  refine holds_served hf hp hfix (by simp [hop, AccOp.consumes]) (.inr (by rw [hop]; rfl)) ?_ rfl
  rw [hop]
  rfl

theorem arrived_probe (hop : a.op = .probe) (hd : a.dest ≠ none) :
    Holds (s.arrived a k) a.id { p.doneAt k with data := [if s.fullBit k (poolOff p.va) then 1 else 0] } (s.noted a p k) := by
  refine holds_served hf hp hfix (by simp [hop, AccOp.consumes]) (.inl hd) ?_ rfl
  rw [hop, ← fullBit_serve (s := s) k (poolOff p.va) p.len (a.rank false)]
  rfl

theorem arrived_consume {take : Bool} (hop : a.op = .consume take) (hd : a.dest ≠ none) (hfull : s.fullBit k (poolOff p.va) = true)
    (hfirst : s.awaitedHere a k = false) :
    Holds (s.arrived a k) a.id { p.doneAt k with data := s.poolRead k (poolOff p.va) p.len } ((s.noted a p k).taken k (poolOff p.va) take) := by
  refine holds_served hf hp hfix (fun _ => ⟨hfull, hfirst⟩) (.inl hd) ?_ rfl
  rw [hop, ← poolRead_serve (s := s) k (poolOff p.va) p.len (a.rank false)]
  rfl

end

/-! ## CONSUMING LOAD SERVED and RESEND (R177) -/

section

variable {s : State} {a : Access} {p : Part}

theorem execConsumingLoadServed_alone {core : Nat} (hnext : s.nextServed core = some a) (hp : a.parts = [p]) :
    exec (.consumingLoadServed core) s = .next ((s.performGroup a 0 p.va (.pool core (poolOff p.va)) false).reclass a.tid) := by
  show execConsumingLoadServed core s = _
  simp only [execConsumingLoadServed, hnext, hp]
  rfl

/-- An access whose parts go again. -/
def Access.atPort (a : Access) : Access := { a with parts := a.parts.map (fun p => { p with stage := .port, loc := none }) }

theorem execConsumingLoadResend_alone {due : Nat} (hf : s.findAcc a.id = some a) (hp : a.parts = [p]) (hstage : p.stage = .resend due)
    (hdue : due ≤ s.clock) : exec (.consumingLoadResend a.id) s = .next ((s.modAcc a.id Access.atPort).reclass a.tid) := by
  show execConsumingLoadResend a.id s = _
  simp only [execConsumingLoadResend, hf, hp, List.any_cons, hstage, decide_eq_true hdue]
  rfl

end

end Sys2Proof.Machine

namespace Sys2Proof

open Machine Claims

/-- Settles O44: an access of one part that arrives is refused, served at once, or waits in the table; each is one change of one part. -/
theorem poolEvents : Obligations.PoolEvents := by
  intro s acc a p hf hp hfix k off there part done full
  obtain rfl := id_of_findAcc hf
  refine ⟨fun hport hheld hready hmesh hany => ?_, fun take core _ hop hloc hnext _ => ?_, fun due hstage hdue => ?_⟩
  · have hexec := execPoolAccessArrival_any hf hp hport hheld hready hmesh hany
    refine ⟨fun hthere => ?_, fun hthere hturn => ?_⟩
    · rw [if_pos (by simpa using mt (poolTarget_alone hp k).mp hthere)] at hexec
      have hholds := holds_refuse hf hp hport .pool
      exact ⟨_, hexec, hholds.part, hholds.bytesKept (.refl s), fun d g => by rw [hholds.core]⟩
    · rw [if_neg (by simpa using (poolTarget_alone hp k).mpr hthere), if_neg (by rw [groupTurn_alone hp]; simpa using hturn)] at hexec
      have hnoted := bytesKept_noted s a p k
      refine ⟨_, hexec, fun hop hd => ?_, fun f hop hlen => ?_, fun hop => ?_, fun hop hd => ?_, fun take hop hd hfull hfirst => ?_,
        fun take hop hwaits hroom => ?_⟩
      · have hholds := arrived_load (k := k) hf hp hfix hop hd
        exact ⟨hholds.part, hholds.bytesKept hnoted⟩
      · have hholds := arrived_store (k := k) hf hp hfix hop
        rw [← hlen]
        refine ⟨hholds.part, ?_, hholds.bytesKeptBut (bytesKeptBut_of_kept hnoted (bytesKeptBut_stored _ _ _ _)), fun d g => ?_⟩
        · rw [State.poolRead, hholds.core]
          exact poolRead_stored k off p.data f
        · rw [hholds.core, fullBits_stored k (poolOff p.va) p.data f d g, State.noted, full_serve]
      · have hholds := arrived_clear (k := k) hf hp hfix hop
        exact ⟨hholds.part, hholds.bytesKept (hnoted.trans (bytesKept_setFull _ _ _ _)), (hholds.fullBit _ _).trans (fullBit_setFull _ _ _ _)⟩
      · have hholds := arrived_probe (k := k) hf hp hfix hop hd
        exact ⟨hholds.part, hholds.bytesKept hnoted⟩
      · have hholds := arrived_consume (k := k) hf hp hfix hop hd hfull hfirst
        refine ⟨hholds.part, hholds.bytesKept (hnoted.trans (bytesKept_taken _ _ _ _)), ?_⟩
        rw [hholds.fullBit, fullBit_taken, State.noted, fullBit_serve, show s.fullBit k off = true from hfull]
        cases take <;> rfl
      · have hholds := holds_table (k := k) hf hp hfix (by rw [hop]; rfl) (hwaits.imp_left Bool.eq_false_iff.mpr) hroom
        exact ⟨hholds.bytesKept hnoted, _, hholds.part, rfl, congrArg some (shift_self k off p.va)⟩
  · have hholds := holds_reclass (holds_performGroup hf hp core off) a.tid
    rw [hop] at hholds
    refine ⟨_, execConsumingLoadServed_alone hnext hp, hholds.bytesKept (bytesKept_taken s core off take),
      (hholds.fullBit core off).trans (fullBit_taken s core off take), ?_⟩
    simp only [hloc]
    exact hholds.part
  · have hfound := State.findAcc_modAcc_self (f := Access.atPort) hf rfl
    have hholds := holds_reclass (w := s) ⟨⟨_, hfound, by rw [Access.atPort, hp]; rfl⟩, rfl, rfl, rfl⟩ a.tid
    exact ⟨_, execConsumingLoadResend_alone hf hp hstage hdue, hholds.bytesKept (.refl s), hholds.part⟩

end Sys2Proof
